-- ==== Sys2Proof/Word.lean ====
section
/-!
DEFINITION. The words of the machine: widths of registers and fields (R25, R83, R142), and the type of a sparse
table, a list of numbered entries in rising order in which an unlisted number reads as the table's default.
-/
namespace Sys2Proof

/-- A 64-bit word: a scalar register, a bundle header, a syllable (R25, R83). -/
abbrev Word := BitVec 64

/-- A byte of memory. -/
abbrev Byte := BitVec 8

/-- A vector or scale register, 512 bytes (R25). -/
abbrev Vec := BitVec 4096

/-- A predicate mask, one bit per 32-bit lane (R25). -/
abbrev Mask := BitVec 128

/-- A tile row, 128 bytes (R25). -/
abbrev Row := BitVec 1024

/-- A 64-byte line (R28, R268). -/
abbrev Line := BitVec 512

/-- A sparse table: entries in strictly rising order of their number, none equal to the table's default. -/
abbrev Table (α : Type) := List (Nat × α)

end Sys2Proof
end

