-- ==== Sys2Proof/Machine/Float.lean ====
section
/-!
DEFINITION. Numbers: integers of a width (R51, R52), the five floating-point formats (R53 to R55), rounding and flags
(R56, R57), exact sums, products and fused sums (R147, R150), and conversions (R58 to R60).
-/
namespace Sys2Proof.Machine

/-! ## Flags of `%fpflags` (R31) -/

/-- R31: invalid operation. -/
def fNV : BitVec 8 := 0x01
/-- R31: division by zero. -/
def fDZ : BitVec 8 := 0x02
/-- R31: overflow. -/
def fOF : BitVec 8 := 0x04
/-- R31: underflow. -/
def fUF : BitVec 8 := 0x08
/-- R31: inexact. -/
def fNX : BitVec 8 := 0x10
/-- R31: a ternary code `10` was decoded. -/
def fTERN : BitVec 8 := 0x20
/-- R31: a quantising store clamped ±Inf. -/
def fQCLAMP : BitVec 8 := 0x40
/-- R31: a long-sum value saturated. -/
def fLSSAT : BitVec 8 := 0x80

/-- A flag under a condition. -/
def flagIf (b : Bool) (f : BitVec 8) : BitVec 8 := if b then f else 0

/-- A result encoding with the flags it sets. -/
structure Rounded where
  enc : Nat
  flags : BitVec 8
deriving DecidableEq, Repr

/-! ## Integers -/

/-- The value of the low `w` bits as two's complement. -/
def sval (w x : Nat) : Int := if x % 2 ^ w < 2 ^ (w - 1) then (x % 2 ^ w : Nat) else (x % 2 ^ w : Nat) - (2 ^ w : Nat)

/-- An integer reduced modulo 2^w. -/
def wrapTo (w : Nat) (x : Int) : Nat := (x % (2 ^ w : Nat)).toNat

/-- The smallest and the largest value of an integer format (R51). -/
def intMin (signed : Bool) (w : Nat) : Int := if signed then -(2 ^ (w - 1) : Nat) else 0
/-- The largest value of an integer format (R51). -/
def intMax (signed : Bool) (w : Nat) : Int := if signed then (2 ^ (w - 1) : Nat) - 1 else (2 ^ w : Nat) - 1

/-- An integer clamped to a range. -/
def clampInt (lo hi x : Int) : Int := if x < lo then lo else if hi < x then hi else x

/-- An exact integer result reduced as R146: modulo 2^w, or clamped to the format's range. -/
def reduceInt (signed : Bool) (w : Nat) (sat : Bool) (x : Int) : Nat :=
  wrapTo w (if sat then clampInt (intMin signed w) (intMax signed w) x else x)

/-- The value of an encoding in an integer format. -/
def ival (signed : Bool) (w x : Nat) : Int := if signed then sval w x else (x % 2 ^ w : Nat)

/-! ## Floating-point formats (R53) -/

/-- A floating-point format. `inf` tells whether its all-ones exponent holds infinities and NaNs. -/
structure FFmt where
  ew : Nat
  mw : Nat
  bias : Nat
  inf : Bool
deriving DecidableEq, Repr

/-- `.F32`. -/
def f32 : FFmt := ⟨8, 23, 127, true⟩
/-- `.F16`. -/
def f16 : FFmt := ⟨5, 10, 15, true⟩
/-- `.BF16`. -/
def bf16 : FFmt := ⟨8, 7, 127, true⟩
/-- `.F8E4`. -/
def f8e4 : FFmt := ⟨4, 3, 7, false⟩
/-- `.F8E5`. -/
def f8e5 : FFmt := ⟨5, 2, 15, true⟩

/-- The format of a code of R99. -/
def floatOf (code : Nat) : FFmt :=
  match code with
  | 7 => f16 | 8 => bf16 | 9 => f8e4 | 10 => f8e5 | _ => f32

/-- The width in bits. -/
def FFmt.width (f : FFmt) : Nat := 1 + f.ew + f.mw
/-- The exponent of the smallest normal. -/
def FFmt.emin (f : FFmt) : Int := 1 - (f.bias : Int)
/-- The encoding of +∞; of the largest finite value in `.F8E4`, which has no infinity. -/
def FFmt.infEnc (f : FFmt) : Nat := if f.inf then (2 ^ f.ew - 1) * 2 ^ f.mw else 0x7E
/-- The encoding of the largest finite value. -/
def FFmt.maxEnc (f : FFmt) : Nat := if f.inf then (2 ^ f.ew - 1) * 2 ^ f.mw - 1 else 0x7E
/-- The canonical NaN. -/
def FFmt.nan (f : FFmt) : Nat := if f.inf then (2 ^ f.ew - 1) * 2 ^ f.mw + 2 ^ (f.mw - 1) else 0x7F
/-- An encoding with a sign. -/
def FFmt.sign (f : FFmt) (neg : Bool) (enc : Nat) : Nat := if neg then enc + 2 ^ (f.ew + f.mw) else enc

/-- What an encoding stands for: a NaN, an infinity, or (−1)^neg × m × 2^e. -/
inductive FVal where
  | nan (signalling : Bool)
  | inf (neg : Bool)
  | num (neg : Bool) (m : Nat) (e : Int)
deriving DecidableEq, Repr

/-- The value of an encoding (R53). -/
def FFmt.decode (f : FFmt) (x : Nat) : FVal :=
  let neg := x.testBit (f.ew + f.mw)
  let ex := x / 2 ^ f.mw % 2 ^ f.ew
  let m := x % 2 ^ f.mw
  if f.inf && ex == 2 ^ f.ew - 1 then (if m == 0 then .inf neg else .nan (!m.testBit (f.mw - 1)))
  else if !f.inf && ex == 2 ^ f.ew - 1 && m == 2 ^ f.mw - 1 then .nan false
  else if ex == 0 then .num neg m (f.emin - f.mw)
  else .num neg (m + 2 ^ f.mw) ((ex : Int) - f.bias - f.mw)

/-- Whether a value is NaN. -/
def FVal.isNan : FVal → Bool
  | .nan _ => true
  | _ => false

/-- NV of a signalling NaN operand (R55). -/
def snanFlag : FVal → BitVec 8
  | .nan true => fNV
  | _ => 0

/-! ## Rounding (R56) -/

/-- m × 2^e, plus a positive amount below 2^e when `st`, rounded to a multiple of 2^t by a mode: the multiple, and
whether it differs from the exact value. `t` is at least `e`, and above it when `st`. -/
def roundAt (rm : Nat) (neg : Bool) (m : Nat) (e t : Int) (st : Bool) : Nat × Bool :=
  if t ≤ e then (m * 2 ^ (e - t).toNat, st)
  else
    let k := (t - e).toNat
    let q := m / 2 ^ k
    let r := m % 2 ^ k
    let half := 2 ^ (k - 1)
    let inexact := r != 0 || st
    let up := match rm with
      | 0 => half < r || (r == half && (st || q % 2 == 1))
      | 1 => false
      | 2 => inexact && !neg
      | _ => inexact && neg
    (if up then q + 1 else q, inexact)

/-- The encoding of q × 2^t, with q at most 2^(mw + 1) and t at least the exponent of a subnormal's last bit. -/
def FFmt.pack (f : FFmt) (q : Nat) (t : Int) : Nat :=
  if q < 2 ^ f.mw then q
  else
    let ex := (t + f.mw + f.bias).toNat
    ex * 2 ^ f.mw + (q - 2 ^ f.mw)

/-- Round (−1)^neg × (m × 2^e, plus a positive amount below 2^e when `st`) to a format (R56, R57). An exact zero keeps
the sign. Rounding is done once: a result below the smallest normal is rounded to the spacing of the subnormals (R54),
and the test for underflow is on the value rounded to full precision (DEDUCED, log entry 8). -/
def FFmt.round (f : FFmt) (rm : Nat) (neg : Bool) (m : Nat) (e : Int) (st : Bool := false) : Rounded :=
  if m = 0 then ⟨f.sign neg 0, 0⟩
  else
    let top := (Nat.log2 m : Int) + e
    let t1 := top - f.mw
    let (q1, x1) := roundAt rm neg m e t1 st
    let maxT := (2 ^ f.ew : Nat) - (if f.inf then 2 else 1) - (f.bias : Int) - f.mw
    let maxQ := if f.inf then 2 ^ (f.mw + 1) - 1 else 2 ^ (f.mw + 1) - 2
    let overflow := if maxT < t1 then true else if t1 == maxT then maxQ < q1 else false
    let tiny := top < f.emin && !(q1 == 2 ^ (f.mw + 1) && top + 1 == f.emin)
    if overflow then
      let toInf := match rm with | 0 => true | 1 => false | 2 => !neg | _ => neg
      ⟨f.sign neg (if toInf then f.infEnc else f.maxEnc), fOF ||| fNX⟩
    else if tiny then
      let t := f.emin - f.mw
      let (q, x) := roundAt rm neg m e t st
      ⟨f.sign neg (f.pack q t), if x then fUF ||| fNX else 0⟩
    else ⟨f.sign neg (f.pack q1 t1), if x1 then fNX else 0⟩

/-- A signed dyadic number rounded; an exact zero takes the sign `zneg`. -/
def FFmt.roundInt (f : FFmt) (rm : Nat) (n : Int) (e : Int) (zneg : Bool) : Rounded :=
  if n = 0 then ⟨f.sign zneg 0, 0⟩ else f.round rm (n < 0) n.natAbs e

/-- The canonical NaN with flags. -/
def FFmt.nanWith (f : FFmt) (fl : BitVec 8) : Rounded := ⟨f.nan, fl⟩

/-- The signed integer of a sign and a magnitude. -/
def signed (neg : Bool) (m : Nat) : Int := if neg then -(m : Int) else m

/-! ## Arithmetic (R147, R150) -/

/-- The exact sum of (−1)^n1 m1 2^e1 and (−1)^n2 m2 2^e2, rounded, with the signs of zero of R147. -/
def FFmt.sum (f : FFmt) (rm : Nat) (n1 : Bool) (m1 : Nat) (e1 : Int) (n2 : Bool) (m2 : Nat) (e2 : Int) : Rounded :=
  let e := if e1 ≤ e2 then e1 else e2
  let x := signed n1 (m1 * 2 ^ (e1 - e).toNat) + signed n2 (m2 * 2 ^ (e2 - e).toNat)
  let zneg := if n1 == n2 then n1 else rm == 3
  f.roundInt rm x e zneg

/-- A sum of two values (R147). -/
def FFmt.addV (f : FFmt) (rm : Nat) (a b : FVal) : Rounded :=
  match a, b with
  | .nan s, .nan s' => f.nanWith (flagIf (s || s') fNV)
  | .nan s, _ => f.nanWith (flagIf s fNV)
  | _, .nan s => f.nanWith (flagIf s fNV)
  | .inf n, .inf n' => if n == n' then ⟨f.sign n f.infEnc, 0⟩ else f.nanWith fNV
  | .inf n, .num _ _ _ => ⟨f.sign n f.infEnc, 0⟩
  | .num _ _ _, .inf n => ⟨f.sign n f.infEnc, 0⟩
  | .num n1 m1 e1, .num n2 m2 e2 => f.sum rm n1 m1 e1 n2 m2 e2

/-- A value with its sign inverted. -/
def FVal.neg : FVal → FVal
  | .nan s => .nan s
  | .inf n => .inf (!n)
  | .num n m e => .num (!n) m e

/-- A product of two values (R147). -/
def FFmt.mulV (f : FFmt) (rm : Nat) (a b : FVal) : Rounded :=
  match a, b with
  | .nan s, .nan s' => f.nanWith (flagIf (s || s') fNV)
  | .nan s, _ => f.nanWith (flagIf s fNV)
  | _, .nan s => f.nanWith (flagIf s fNV)
  | .inf n, .inf n' => ⟨f.sign (n != n') f.infEnc, 0⟩
  | .inf n, .num n' m _ => if m = 0 then f.nanWith fNV else ⟨f.sign (n != n') f.infEnc, 0⟩
  | .num n m _, .inf n' => if m = 0 then f.nanWith fNV else ⟨f.sign (n != n') f.infEnc, 0⟩
  | .num n1 m1 e1, .num n2 m2 e2 => f.round rm (n1 != n2) (m1 * m2) (e1 + e2)

/-- A fused product and sum a × b + c (R150). -/
def FFmt.fmaV (f : FFmt) (rm : Nat) (a b c : FVal) : Rounded :=
  let sn := snanFlag a ||| snanFlag b ||| snanFlag c
  let zeroInf := match a, b with
    | .inf _, .num _ 0 _ => true
    | .num _ 0 _, .inf _ => true
    | _, _ => false
  if zeroInf then f.nanWith (fNV ||| sn)
  else
    match a, b with
    | .nan _, _ => f.nanWith sn
    | _, .nan _ => f.nanWith sn
    | .num n1 m1 e1, .num n2 m2 e2 =>
      match c with
      | .nan _ => f.nanWith sn
      | .inf n => ⟨f.sign n f.infEnc, 0⟩
      | .num n3 m3 e3 => f.sum rm (n1 != n2) (m1 * m2) (e1 + e2) n3 m3 e3
    | .inf n1, .inf n2 => f.addV rm (.inf (n1 != n2)) c
    | .inf n1, .num n2 _ _ => f.addV rm (.inf (n1 != n2)) c
    | .num n1 _ _, .inf n2 => f.addV rm (.inf (n1 != n2)) c

/-- The order of two non-NaN values, with −0 below +0 when `zeros` (R148), equal otherwise. -/
def ltV (zeros : Bool) (a b : FVal) : Bool :=
  match a, b with
  | .inf n, .inf n' => n && !n'
  | .inf n, _ => n
  | _, .inf n => !n
  | .num n1 m1 e1, .num n2 m2 e2 =>
    let e := if e1 ≤ e2 then e1 else e2
    let x := signed n1 (m1 * 2 ^ (e1 - e).toNat)
    let y := signed n2 (m2 * 2 ^ (e2 - e).toNat)
    x < y || (zeros && m1 == 0 && m2 == 0 && n1 && !n2)
  | _, _ => false

/-- The smaller (`max` false) or larger of two encodings (R148). -/
def FFmt.minMax (f : FFmt) (max : Bool) (x y : Nat) : Rounded :=
  let a := f.decode x
  let b := f.decode y
  let sn := snanFlag a ||| snanFlag b
  match a.isNan, b.isNan with
  | true, true => f.nanWith sn
  | true, false => ⟨y, sn⟩
  | false, true => ⟨x, sn⟩
  | false, false => if ltV true a b then ⟨if max then y else x, 0⟩ else ⟨if max then x else y, 0⟩

/-! ## Conversions (R58 to R60) -/

/-- Float to float (R58). -/
def cvtFloat (src dst : FFmt) (rm x : Nat) : Rounded :=
  match src.decode x with
  | .nan s => dst.nanWith (flagIf s fNV)
  | .inf n => if dst.inf then ⟨dst.sign n dst.infEnc, 0⟩ else ⟨0x7F, fNV⟩
  | .num n m e => dst.round rm n m e

/-- Float to integer (R59). -/
def cvtToInt (src : FFmt) (sgn : Bool) (w rm x : Nat) : Rounded :=
  match src.decode x with
  | .nan _ => ⟨0, fNV⟩
  | .inf n => ⟨wrapTo w (if n then intMin sgn w else intMax sgn w), fNV⟩
  | .num n m e =>
    let (q, inexact) := roundAt rm n m e 0 false
    let v := signed n q
    if v < intMin sgn w then ⟨wrapTo w (intMin sgn w), fNV⟩
    else if intMax sgn w < v then ⟨wrapTo w (intMax sgn w), fNV⟩
    else ⟨wrapTo w v, flagIf inexact fNX⟩

/-- Integer to float (R60). -/
def cvtFromInt (dst : FFmt) (rm : Nat) (v : Int) : Rounded := dst.roundInt rm v 0 false

/-- Whether a code of R99 is an integer format. -/
def isIntCode (c : Nat) : Bool := c ≤ 5
/-- Whether a code of R99 is a signed integer format. -/
def isSignedCode (c : Nat) : Bool := c ≤ 2
/-- The width of a standard format (R142). -/
def widthOf (c : Nat) : Nat :=
  match c with
  | 1 => 16 | 2 => 8 | 4 => 16 | 5 => 8 | 7 => 16 | 8 => 16 | 9 => 8 | 10 => 8 | _ => 32

/-- A conversion between two standard formats (R52, R58 to R60, R155). With like formats the bits move unchanged. -/
def convert (src dst : Nat) (sat : Bool) (rm x : Nat) : Rounded :=
  let x := x % 2 ^ widthOf src
  if src == dst then ⟨x, 0⟩
  else match isIntCode src, isIntCode dst with
    | true, true => ⟨reduceInt (isSignedCode dst) (widthOf dst) sat (ival (isSignedCode src) (widthOf src) x), 0⟩
    | true, false => cvtFromInt (floatOf dst) rm (ival (isSignedCode src) (widthOf src) x)
    | false, true => cvtToInt (floatOf src) (isSignedCode dst) (widthOf dst) rm x
    | false, false => cvtFloat (floatOf src) (floatOf dst) rm x

end Sys2Proof.Machine
end

