-- ==== Sys2Proof/Machine/Blocks.lean ====
section
/-!
DEFINITION. Selector blocks: headers and levels (R61 to R68), the quantising store rule (R70 to R76), exact products
of blocks (R77, R78), and the long sum (R79 to R81).
-/
namespace Sys2Proof.Machine

/-- The code of `.SB4`, `.SB8` and `.TB2` in R99. -/
def cSB4 : Nat := 11
/-- The code of `.SB8` in R99. -/
def cSB8 : Nat := 12
/-- The code of `.TB2` in R99. -/
def cTB2 : Nat := 13

/-- R61: the bits of one code. -/
def codeWidth (fmt : Nat) : Nat := if fmt = 12 then 8 else if fmt = 13 then 2 else 4
/-- R61: the elements of a block. -/
def blockElems (fmt : Nat) : Nat := if fmt = 13 then 64 else 32
/-- R61: the code bytes of a block. -/
def codeBytes (fmt : Nat) : Nat := if fmt = 12 then 32 else 16

/-- R171: the blocks of a weight row. -/
def rowBlocks (fmt : Nat) : Nat := if fmt = 13 then 2 else 4
/-- Lmax of R208. -/
def imageLines (fmt : Nat) : Nat := if fmt = 12 then 257 else if fmt = 13 then 65 else 129

/-- The code of element `j` in the code bytes of a block, read as a little-endian number (R61). -/
def codeAt (fmt codes j : Nat) : Nat := codes / 2 ^ (codeWidth fmt * j) % 2 ^ codeWidth fmt

/-! ## Headers (R62, R63) -/

/-- The parity of the low `n` bits. -/
def parity : Nat → Nat → Bool
  | 0, _ => false
  | n + 1, x => (x % 2 == 1) != parity n (x / 2)

/-- R62: sel. -/
def hSel (h : Nat) : Nat := h / 8192 % 8
/-- R62: e. -/
def hE (h : Nat) : Nat := h / 32 % 256
/-- R62: fr. -/
def hFr (h : Nat) : Nat := h / 4 % 8

/-- R74: a header from a selector and a scale. -/
def mkHeader (sel e fr : Nat) : Nat :=
  let h := sel * 8192 + e * 32 + fr * 4
  h + (if parity 3 sel then 2 else 0) + (if parity 11 (h / 4) then 1 else 0)

/-- R63: a header that matches its check bits and carries a selector of the format. -/
def headerOk (fmt h : Nat) : Bool :=
  (parity 3 (hSel h) == h.testBit 1) && (parity 11 (h / 4 % 2048) == h.testBit 0) &&
    (if fmt = 13 then hSel h == 6 else hSel h != 5 && hSel h != 6)

/-- R63: a NaN block. -/
def isNanBlock (h : Nat) : Bool := hE h == 255
/-- R63: a zero block. -/
def isZeroBlock (h : Nat) : Bool := hE h != 255 && hSel h == 7

/-- A scale s = m × 2^e (R62). -/
def scaleOf (h : Nat) : Nat × Int := (8 + hFr h, (hE h : Int) - 130)

/-! ## Levels (R64 to R67) -/

/-- The tables that selectors read: level tables A and B in `.F16`, and a conversion table in `.F16` or `.BF16`. -/
structure Levels where
  a : Nat → Nat
  b : Nat → Nat
  cv : Nat → Nat
  bf : Bool

/-- A level, ±m × 2^−24, and the flags its decoding sets (R66: every level is an `.F16` value). -/
structure LevelV where
  neg : Bool
  m : Nat
  flags : BitVec 8
deriving DecidableEq, Repr

/-- The level of a value that `.F16` holds; a non-finite one is the level 0 with NV (R66). -/
def levelOfF (v : FVal) : LevelV :=
  match v with
  | .num n m e => ⟨n, m * 2 ^ (e + 24).toNat, 0⟩
  | _ => ⟨false, 0, fNV⟩

/-- The level of an integer. -/
def levelOfI (x : Int) : LevelV := ⟨x < 0, x.natAbs * 2 ^ 24, 0⟩

/-- The level of a `.BF16` conversion-table entry (R66). -/
def levelOfBf (x : Nat) : LevelV :=
  match bf16.decode x with
  | .num n m e =>
    let r := f16.round 0 n m e
    let y := if r.enc % 2 ^ 15 = f16.infEnc then f16.sign n f16.maxEnc else r.enc
    levelOfF (f16.decode y)
  | _ => ⟨false, 0, fNV⟩

/-- The magnitude of an FP4 E2M1 code in halves (R64). -/
def fp4Half (c : Nat) : Nat :=
  match c % 8 with
  | 0 => 0 | 1 => 1 | 2 => 2 | 3 => 3 | 4 => 4 | 5 => 6 | 6 => 8 | _ => 12

/-- The fixed set of R65, in units of 2^−7 (0.0078125). -/
def fixedLevel (c : Nat) : Int :=
  match c with
  | 0 => 0 | 1 => 12 | 2 => 24 | 3 => 40 | 4 => 56 | 5 => 76 | 6 => 100 | 7 => 128
  | 8 => -6 | 9 => -18 | 10 => -32 | 11 => -48 | 12 => -66 | 13 => -88 | 14 => -110 | _ => -128

/-- The level of a code under a selector of a format (R64 to R67). -/
def level (t : Levels) (fmt sel c : Nat) : LevelV :=
  if fmt = 13 then
    match c with
    | 1 => levelOfI 1
    | 3 => levelOfI (-1)
    | 2 => ⟨false, 0, fTERN⟩
    | _ => levelOfI 0
  else if fmt = 12 then
    match sel with
    | 0 => levelOfI (sval 8 c)
    | 1 => levelOfF (f8e4.decode c)
    | 2 => levelOfF (f8e5.decode c)
    | 3 => if t.bf then levelOfBf (t.cv c) else levelOfF (f16.decode (t.cv c))
    | _ => levelOfI c
  else
    match sel with
    | 0 => levelOfI (sval 4 c)
    | 1 => ⟨8 ≤ c, fp4Half c * 2 ^ 23, 0⟩
    | 2 => levelOfF (f16.decode (t.a c))
    | 3 => levelOfF (f16.decode (t.b c))
    | _ => ⟨fixedLevel c < 0, (fixedLevel c).natAbs * 2 ^ 17, 0⟩

/-- The largest level magnitude L of a selector, in units of 2^−24 (R64, R67). -/
def levelMax (t : Levels) (fmt sel : Nat) : Nat :=
  if fmt = 13 then 2 ^ 24
  else if fmt = 12 then
    match sel with
    | 0 => 127 * 2 ^ 24
    | 1 => 448 * 2 ^ 24
    | 2 => 57344 * 2 ^ 24
    | 3 => (List.range 256).foldl (fun acc c => Nat.max acc (level t fmt sel c).m) 0
    | _ => 255 * 2 ^ 24
  else
    match sel with
    | 0 => 7 * 2 ^ 24
    | 1 => 6 * 2 ^ 24
    | 2 => (List.range 16).foldl (fun acc c => Nat.max acc (level t fmt sel c).m) 0
    | 3 => (List.range 16).foldl (fun acc c => Nat.max acc (level t fmt sel c).m) 0
    | _ => 2 ^ 24

/-- A block element turned into a standard format (R68). The header has passed its check. -/
def blockElem (t : Levels) (fmt h c : Nat) (dst : FFmt) (rm : Nat) : Rounded :=
  if isNanBlock h then ⟨dst.nan, 0⟩
  else if isZeroBlock h then ⟨0, 0⟩
  else
    let l := level t fmt (hSel h) c
    let (sm, se) := scaleOf h
    let r := dst.round rm l.neg (l.m * sm) (se - 24)
    ⟨r.enc, r.flags ||| l.flags⟩

/-! ## The quantising store rule (R70 to R76) -/

/-- The first of `n` numbers, found by halving, that a rising test accepts; `n` when none does. `pos` numbers are known
to fail. -/
def firstOk (n : Nat) (ok : Nat → Bool) : List Nat → Nat → Nat
  | [], pos => pos
  | b :: bs, pos => firstOk n ok bs (if pos + b ≤ n && !ok (pos + b - 1) then pos + b else pos)

/-- The scale number e × 8 + fr of the smallest scale with s × L ≥ amax, the largest scale when there is none (R71).
`amax` is in units of 2^−160. -/
def scaleFor (lmax amax : Nat) : Nat :=
  let ok := fun i => amax ≤ lmax * (8 + i % 8) * 2 ^ (i / 8 + 6)
  let i := firstOk 2040 ok [1024, 512, 256, 128, 64, 32, 16, 8, 4, 2, 1] 0
  if i = 2040 then 2039 else i

/-- A magnitude m × 2^e in units of 2^−160. -/
def units (m : Nat) (e : Int) : Nat := m * 2 ^ (e + 160).toNat

/-- level × s in units of 2^−160, for the scale number `i`. -/
def levelUnits (l : LevelV) (i : Nat) : Int := signed l.neg (l.m * (8 + i % 8) * 2 ^ (i / 8 + 6))

/-- A selector without sign bits, whose ties go by magnitude and then by code (R72). -/
def tableSel (fmt sel : Nat) : Bool :=
  if fmt = 12 then sel = 3 else sel = 2 || sel = 3 || sel = 4

/-- A code that `nearest` may choose: no negative zero and no non-finite code of a selector with a sign bit (R72). -/
def codeAllowed (t : Levels) (fmt sel c : Nat) : Bool :=
  if tableSel fmt sel then true
  else
    let l := level t fmt sel c
    !(l.m == 0 && c != 0) && l.flags == 0

/-- R72: the code nearest to `y` (in units of 2^−160) under a selector and a scale number. -/
def nearest (t : Levels) (fmt sel i : Nat) (y : Int) : Nat :=
  let key := fun c =>
    let l := level t fmt sel c
    ((y - levelUnits l i).natAbs, if tableSel fmt sel then l.m else c % 2)
  let better := fun (a b : Nat × Nat) => a.1 < b.1 || (a.1 == b.1 && a.2 < b.2)
  let best := (List.range (2 ^ codeWidth fmt)).foldl (fun (acc : Option (Nat × (Nat × Nat))) c =>
    if codeAllowed t fmt sel c then
      match acc with
      | none => some (c, key c)
      | some (_, k) => if better (key c) k then some (c, key c) else acc
    else acc) none
  match best with
  | some (c, _) => c
  | none => 0

/-- One round of a fixed pairwise tree over `st` pairs. -/
def pairUp {α : Type} (f : α → α → α) (st : Nat) (q : List α) : List α :=
  List.zipWith f (q.take st) (q.drop st)

/-- A fixed pairwise tree with the given strides (R73, R159). -/
def pairTree {α : Type} (f : α → α → α) : List Nat → List α → List α
  | [], q => q
  | st :: sts, q => pairTree f sts (pairUp f st q)

/-- R73: the error sum of 32 `.F32` terms. -/
def errTree (q : List Nat) : Nat :=
  (pairTree (fun a b => (f32.addV 0 (f32.decode a) (f32.decode b)).enc) [16, 8, 4, 2, 1] q).headD 0

/-- A quantised block: its header, its codes as a little-endian number, and whether QCLAMP is set. -/
structure QBlock where
  header : Nat
  codes : Nat
  clamp : Bool
deriving DecidableEq, Repr

/-- The codes of a block packed by R61. -/
def packCodes (w : Nat) (cs : List Nat) : Nat := cs.foldr (fun c acc => c + 2 ^ w * acc) 0

/-- The value of a finite `.F32` in units of 2^−160; 0 otherwise. -/
def f32Units (v : FVal) : Int :=
  match v with
  | .num n m e => signed n (units m e)
  | _ => 0

/-- Whether a value is an infinity. -/
def FVal.isInf : FVal → Bool
  | .inf _ => true
  | _ => false

/-- Whether a value is a zero. -/
def FVal.isZero : FVal → Bool
  | .num _ 0 _ => true
  | _ => false

/-- What `nearest` is given for an element: its value, or ±L × s for an infinity (R71). -/
def quantInput (lmax i : Nat) (v : FVal) : Int :=
  match v with
  | .inf n => signed n (lmax * (8 + i % 8) * 2 ^ (i / 8 + 6))
  | v => f32Units v

/-- One candidate of R71: its error, its codes and its scale number. -/
def quantCandidate (t : Levels) (fmt sel amax : Nat) (xs : List FVal) : Nat × List Nat × Nat :=
  let lmax := levelMax t fmt sel
  let i := scaleFor lmax amax
  let cs := xs.map fun x => nearest t fmt sel i (quantInput lmax i x)
  let q := List.zipWith (fun x c =>
    match x with
    | .num _ _ _ =>
      let d := f32Units x - levelUnits (level t fmt sel c) i
      (f32.round 0 false (d.natAbs * d.natAbs) (-320)).enc
    | _ => 0) xs cs
  (errTree q, cs, i)

/-- R71, R76: a block of `.F32` encodings quantised to a block format under a candidate mask. -/
def quantBlock (t : Levels) (fmt mask : Nat) (enc : List Nat) : QBlock :=
  let xs := enc.map f32.decode
  let amax := xs.foldl (fun acc x => Nat.max acc (f32Units x).natAbs) 0
  let clamp := xs.any FVal.isInf
  let w := codeWidth fmt
  if xs.any FVal.isNan then ⟨mkHeader (if fmt = 13 then 6 else 0) 255 0, 0, false⟩
  else if fmt = 13 then
    let i := scaleFor (2 ^ 24) amax
    let s := levelUnits (levelOfI 1) i
    let code := fun (x : FVal) =>
      let y := quantInput (2 ^ 24) i x
      if 2 * y.natAbs ≤ s.natAbs then 0 else if y < 0 then 3 else 1
    ⟨mkHeader 6 (i / 8) (i % 8), packCodes w (xs.map code), clamp⟩
  else if xs.all FVal.isZero && mask.testBit 7 then ⟨mkHeader 7 0 0, 0, false⟩
  else
    let best := (List.range 5).foldl (fun (acc : Option (Nat × Nat × List Nat × Nat)) k =>
      if mask.testBit k then
        let (e, cs, i) := quantCandidate t fmt k amax xs
        match acc with
        | none => some (k, e, cs, i)
        | some (_, be, _, _) => if e < be then some (k, e, cs, i) else acc
      else acc) none
    match best with
    | some (k, _, cs, i) => ⟨mkHeader k (i / 8) (i % 8), packCodes w cs, clamp⟩
    | none => ⟨0, 0, clamp⟩

/-- R75: a block that decodes to +0 in every element as it is stored. -/
def elidable (fmt h codes : Nat) : Bool :=
  if fmt = 13 then h == 0xC000 && codes == 0 else h == 0xE002

/-! ## Products (R77, R78) -/

/-- One side of a product: whether it is a NaN block, whether it is zero in every element (a zero block, or a block
absent from a compressed tile, R171), its 32 levels, and its scale m × 2^e. -/
structure Side where
  nan : Bool
  zero : Bool
  levels : List LevelV
  sm : Nat
  se : Int
deriving DecidableEq, Repr

/-- A block absent from a compressed tile. -/
def absentSide : Side := ⟨false, true, [], 0, 0⟩

/-- 32 elements of a block from element `from_`, with a header that has passed its check (R63). -/
def blockSide (t : Levels) (fmt header codes from_ : Nat) : Side :=
  let nan := isNanBlock header
  let zero := isZeroBlock header
  let lv := if nan || zero then [] else (List.range 32).map fun j => level t fmt (hSel header) (codeAt fmt codes (from_ + j))
  ⟨nan, zero, lv, (scaleOf header).1, (scaleOf header).2⟩

/-- The flags of decoding a side's codes (R66, R67, step 1 of R77). A NaN block and a zero block decode no code. -/
def Side.flags (a : Side) : BitVec 8 := a.levels.foldl (fun f l => f ||| l.flags) 0

/-- The exact sum of the products of two lists of levels, in units of 2^−48. -/
def levelDot (a b : List LevelV) : Int :=
  (List.zip a b).foldl (fun acc (x, y) => acc + signed x.neg x.m * signed y.neg y.m) 0

/-- R77, R78: the rounded product p of a pair of sides, and its flags: those of decoding both sides (step 1) and of the
rounding (step 3). A NaN block sets none. -/
def pairProduct (a b : Side) : Rounded :=
  let fl := a.flags ||| b.flags
  if a.nan || b.nan then ⟨f32.nan, fl⟩
  else if a.zero || b.zero then ⟨0, fl⟩
  else
    let r := f32.roundInt 0 (levelDot a.levels b.levels * (a.sm * b.sm : Nat)) (a.se + b.se - 48) false
    ⟨r.enc, r.flags ||| fl⟩

/-! ## The long sum (R79 to R81) -/

/-- R80: the largest magnitude of a converted value. -/
def lsConvMax : Nat := 2 ^ 96 - 1
/-- R80: the largest magnitude of a sum. -/
def lsAddMax : Nat := 2 ^ 127 - 1

/-- R80: a floating-point value converted into `.LS` with window W. -/
def toLS (f : FFmt) (w : Int) (x : Nat) : Rounded :=
  match f.decode x with
  | .nan _ => ⟨0, fNV⟩
  | .inf n => ⟨wrapTo 128 (signed n lsConvMax), fLSSAT⟩
  | .num n m e =>
    let (q, inexact) := roundAt 0 n m (e - w) 0 false
    let nx := flagIf inexact fNX
    if lsConvMax < q then ⟨wrapTo 128 (signed n lsConvMax), nx ||| fLSSAT⟩ else ⟨wrapTo 128 (signed n q), nx⟩

/-- R80: the sum of two `.LS` values. -/
def addLS (x y : Nat) : Rounded :=
  let s := sval 128 x + sval 128 y
  if lsAddMax < s.natAbs then ⟨wrapTo 128 (signed (s < 0) lsAddMax), fLSSAT⟩ else ⟨wrapTo 128 s, 0⟩

/-- R81: an `.LS` value converted to a floating-point format. -/
def fromLS (f : FFmt) (rm : Nat) (w : Int) (x : Nat) : Rounded := f.roundInt rm (sval 128 x) w false

end Sys2Proof.Machine
end

