-- ==== Sys2Proof/Config.lean ====
section
/-!
DEFINITION. The values that the manual leaves open (DESIGN CHOICE, log entries 39 to 46). Each is a constant without a
body, applied to a counter of State or to operands: a statement holds whatever the value is. The bounds that the manual
sets are put on where a value is used.
-/
namespace Sys2Proof.Config

/-- The reference cycles within 96 of issue after which a translation-cache hit makes its handle valid (R126, R291). -/
opaque xlateDelay : Nat → Nat
/-- The reference cycles within 96 of issue after which a translation-cache miss stops the placement (R291). -/
opaque missDelay : Nat → Nat
/-- What a slot whose command meets an all-bank refresh of the sentinel waits (R283). -/
opaque refreshWait : Nat → Nat
/-- The length of a translation walk (R291). -/
opaque walkTime : Nat → Nat
/-- The reference cycles between two lines that a copy engine moves, to its start and to its completion (R202). -/
opaque copyDelay : Nat → Nat
/-- The reference cycles between issue and the directory's act on a commons request (R239). -/
opaque actDelay : Nat → Nat
/-- The reference cycles that a deep-tier read and check of a tile take (R307). -/
opaque deepReadTime : Nat → Nat
/-- The reference cycles that re-encrypting a block takes, within 4,096 (R285). -/
opaque reencryptTime : Nat → Nat
/-- The reference cycles that saving a pre-empted placement takes after its last access performed (R350). -/
opaque saveTime : Nat → Nat
/-- The bytes of the save of a pre-empted placement: no rule gives their form (R342, R350). -/
opaque saveImage : Nat → Nat → List (BitVec 8)
/-- The reference cycles that a function-configuration command takes (R374). -/
opaque commandTime : Nat → Nat
/-- The reference cycles until a shootdown request reaches a core (R292). -/
opaque shootDelay : Nat → Nat
/-- The time that the copy of a scratchpad bank to the spare takes, at most 2 ms (R400). -/
opaque bankCopyTime : Nat → Nat
/-- The 64-byte SHAKE256 digest of some bytes (R403, R407 to R409). -/
opaque shake256 : List (BitVec 8) → BitVec 512
/-- The ML-DSA-65 signature of a message under the identity key (R403, R407, R409). -/
opaque mlDsaSign : List (BitVec 8) → List (BitVec 8)
/-- Whether the signature in a firmware header verifies (R408). -/
opaque mlDsaVerify : List (BitVec 8) → Bool
/-- The serial number of the device (R403, R409). -/
opaque serial : BitVec 64
/-- The digests of the boot ROM and the three firmware components in use (R409). -/
opaque firmwareDigest : Nat → BitVec 512
/-- The versions of the firmware components in use, by KIND (R408). -/
opaque firmwareVersion : Nat → Nat
/-- Whether an IO virtual address that the device writes or reads is granted by the host (R379). -/
opaque hostGrants : Nat → Nat → Bool
/-- The latency of a link in reference cycles (R385, R392). -/
opaque linkLatency : Nat → Nat
/-- How many flits ahead an end announces the move of its transmitter to the spare lane (R388). -/
opaque spareAhead : Nat → Nat
/-- Whether the cause that takes a link down still allows a flit to pass (R385). -/
opaque flitPasses : Nat → Bool
/-- The function for which a core of another device, or its shepherd, acts: no field of a packet carries it (R382, R386). -/
opaque sourceFunc : Nat → Nat → Nat → BitVec 6
/-- The reference cycles in which the zero-length read of a SYSTEM release is completed by the host (R379). -/
opaque hostReadTime : Nat → Nat
/-- The reference cycles until a request of another device finds a slot that is left free (R276, R382). -/
opaque linkDelay : Nat → Nat
/-- The reference cycles within 2 µs that the sentinel takes to take over (R283). -/
opaque takeoverDelay : Nat → Nat
/-- The reference cycles between two lines of a sparing sweep (R280). -/
opaque sweepDelay : Nat → Nat
/-- A byte of a section of the dump whose layout no rule gives: the section, what it holds, and the place (R403). -/
opaque dumpByte : Nat → List (BitVec 64) → Nat → BitVec 8
/-- The bytes of the fuse spare map that its digest is taken over: no rule gives their layout (R409). -/
opaque fuseMapBytes : List Nat → List (BitVec 8)
/-- The bytes of the function records that their measurement is taken over, from their words (R409). -/
opaque recordsBytes : List (BitVec 64) → List (BitVec 8)

/-- A word of the device's random source: the words of a key that a reset of a function or a rekey installs (R286, R380). -/
opaque randomWord : Nat → BitVec 64
/-- The public key of the identity key pair, of 1,952 bytes (R407). -/
opaque publicKey : BitVec (8 * 1952)
/-- The certificate chain over a public key that the device returns with an attestation (R407). -/
opaque certificates : BitVec (8 * 1952) → List (BitVec 8)

end Sys2Proof.Config
end

