-- ==== Sys2Proof/Syntax.lean ====
section
/-!
DEFINITION. The steps of the machine: one constructor of Instr for each row of the opcode table. A row that is a
syllable (R92, R106) carries its head and the fields of its format (R101 to R104); a row that is a step of another
agent of the device carries what names the agent and, for an input from outside, what the input brings. A step that acts on
a register write of the host or on what a link has received carries nothing: the state holds the write, the message or
the packet.
-/
namespace Sys2Proof

/-- The head of an S-class syllable (R92): its predicate. An S syllable never sticks (R96). -/
structure SHead where
  prd : BitVec 4
  pn : BitVec 1
deriving DecidableEq, Repr

/-- The slots of a bundle, in the order of R83. -/
inductive Slot where
  | s | v0 | v1 | m | k | c0 | c1
deriving DecidableEq, Repr

/-- The head of a syllable of the V, M, K or copy class (R92), with its STEP field (R102 to R104). `j` counts
the re-issues of a sticky syllable (R96) and `bcv` is the operand `bc` read for it (R89): both are 0 in the
syllable as a word of the program gives it. -/
structure Head where
  slot : Slot
  stk : BitVec 1
  prd : BitVec 4
  pn : BitVec 1
  step : BitVec 4
  j : Nat
  bcv : Word
deriving DecidableEq, Repr

/-- The scalar loads of opcodes 0x08 to 0x0E (R106, R200). -/
inductive ScalarLoad where
  | i8 | n8 | i16 | n16 | i32 | n32 | n64
deriving DecidableEq, Repr

/-- The scalar stores of opcodes 0x10 to 0x13 (R106, R200). -/
inductive ScalarStore where
  | w8 | w16 | w32 | w64
deriving DecidableEq, Repr

/-- The fields of format A (R101), without the reserved bits. -/
structure FmtA where
  (sd sa sb : BitVec 6)
  fx : BitVec 3
deriving DecidableEq, Repr

/-- The fields of format I (R101), without the reserved bits. -/
structure FmtI where
  (sd sa : BitVec 6)
  imm : BitVec 38
deriving DecidableEq, Repr

/-- The fields of format C (R101), without the reserved bits. -/
structure FmtC where
  fd : BitVec 3
  (sa sb : BitVec 6)
  cc : BitVec 4
  im : BitVec 1
  imm : BitVec 30
deriving DecidableEq, Repr

/-- The fields of format X (R101), without the reserved bits. -/
structure FmtX where
  (s sa : BitVec 6)
  idx : BitVec 12
deriving DecidableEq, Repr

/-- The fields of format B (R101), without the reserved bits. -/
structure FmtB where
  n : BitVec 3
  sa : BitVec 6
  addr : BitVec 24
deriving DecidableEq, Repr

/-- The fields of format H (R101), without the reserved bits. -/
structure FmtH where
  hn : BitVec 4
  sa : BitVec 6
  rw : BitVec 2
deriving DecidableEq, Repr

/-- The fields of format Y (R101), without the reserved bits. -/
structure FmtY where
  (sd sa sb : BitVec 6)
  n : BitVec 3
  wf : BitVec 5
  arr : BitVec 12
  imm : BitVec 12
deriving DecidableEq, Repr

/-- The fields of format V (R102), without the reserved bits and STEP. -/
structure FmtV where
  fmt : BitVec 4
  (vd va vb : BitVec 10)
  bc : BitVec 1
  rm : BitVec 2
  sat : BitVec 1
deriving DecidableEq, Repr

/-- The fields of format W (R102), without the reserved bits and STEP. -/
structure FmtW where
  fmt : BitVec 4
  (vd va vb vc : BitVec 10)
  rm : BitVec 2
deriving DecidableEq, Repr

/-- The fields of format J (R102), without the reserved bits and STEP. -/
structure FmtJ where
  fmt : BitVec 4
  (vd va : BitVec 10)
  imm : BitVec 16
  rm : BitVec 2
deriving DecidableEq, Repr

/-- The fields of format P (R102), without the reserved bits and STEP. -/
structure FmtP where
  (fmt md : BitVec 4)
  (va vb : BitVec 10)
  bc : BitVec 1
  cc : BitVec 4
deriving DecidableEq, Repr

/-- The fields of format Q (R102), without the reserved bits and STEP. -/
structure FmtQ where
  (md ma mb : BitVec 4)
  sd : BitVec 6
  imm : BitVec 8
deriving DecidableEq, Repr

/-- The fields of format G (R102), without the reserved bits and STEP. -/
structure FmtG where
  fmt : BitVec 4
  vd : BitVec 10
  z : BitVec 5
  vs : BitVec 10
  cand : BitVec 8
  rm : BitVec 2
deriving DecidableEq, Repr

/-- The fields of format T (R102), without the reserved bits and STEP. -/
structure FmtT where
  tfmt : BitVec 4
  t : BitVec 3
  idx : BitVec 7
  v : BitVec 10
  vfmt : BitVec 4
  rm : BitVec 2
deriving DecidableEq, Repr

/-- The fields of format M (R103), without the reserved bits and STEP. -/
structure FmtM where
  rout : BitVec 8
  acc : BitVec 2
  bc : BitVec 1
deriving DecidableEq, Repr

/-- The fields of format D (R103), without the reserved bits and STEP. -/
structure FmtD where
  acc : BitVec 2
  row : BitVec 7
  vd : BitVec 10
  zq : BitVec 5
  ap : BitVec 3
deriving DecidableEq, Repr

/-- The fields of format K (R103), without the reserved bits and STEP. -/
structure FmtK where
  (z bf : BitVec 5)
  so : BitVec 6
  bc : BitVec 1
  imm : BitVec 7
  cls : BitVec 4
  cnt : BitVec 8
  arr : BitVec 10
deriving DecidableEq, Repr

/-- The fields of format Z (R103), without the reserved bits and STEP. -/
structure FmtZ where
  (zd za : BitVec 5)
  v : BitVec 10
  tb : BitVec 1
deriving DecidableEq, Repr

/-- The fields of format L (R104), without the reserved bits and STEP. -/
structure FmtL where
  d : BitVec 10
  bf : BitVec 5
  so : BitVec 6
  imm : BitVec 7
  cls : BitVec 4
  ord : BitVec 3
  arr : BitVec 11
deriving DecidableEq, Repr

/-- The fields of format E (R104), without the reserved bits and STEP. -/
structure FmtE where
  d : BitVec 10
  bf : BitVec 5
  so : BitVec 6
  imm : BitVec 14
  cls : BitVec 4
  ord : BitVec 3
  lm : BitVec 4
deriving DecidableEq, Repr

/-- The fields of format N (R104), without the reserved bits and STEP. -/
structure FmtN where
  (bfs bfd : BitVec 5)
  dsc : BitVec 11
  cls : BitVec 4
  (acq rel : BitVec 1)
  scope : BitVec 3
  wfe : BitVec 1
  wf : BitVec 5
deriving DecidableEq, Repr

/-- The fields of format O (R104), without the reserved bits and STEP. -/
structure FmtO where
  v : BitVec 10
  pair : BitVec 8
  arr : BitVec 11
deriving DecidableEq, Repr

/-- The fields of format U (R104), without the reserved bits. -/
structure FmtU where
  (sd sa sb : BitVec 6)
  bf : BitVec 5
  so : BitVec 6
  cls : BitVec 4
  ord : BitVec 3
  arr : BitVec 11
deriving DecidableEq, Repr

/-- The fields of format F (R104), without the reserved bits. -/
structure FmtF where
  cmask : BitVec 16
  scope : BitVec 3
  wfe : BitVec 1
  (wf bf : BitVec 5)
  so : BitVec 6
  bft : BitVec 1
deriving DecidableEq, Repr

/-- A unit that carries a spare (R400). -/
inductive SpareUnit where
  | core (hive pos : Nat)
  | bank (hive bank : Nat)
deriving DecidableEq, Repr

/-- A packet of a link (R386): the fields of its header and the bytes of its data, byte 0 first. -/
structure Packet where
  type : Nat
  len : Nat
  srcDev : Nat
  dstDev : Nat
  srcCore : Nat
  cls : Nat
  reqId : Nat
  aop : Nat
  psn : Bool
  addr : Nat
  data : List Byte
deriving DecidableEq, Repr

/-- Where an access of the host to a register falls in a BAR, and its length in bytes (R371). -/
structure RegSpan where
  off : Nat
  size : Nat
deriving DecidableEq, Repr

/-- The steps of the machine, one constructor per row of the opcode table: those that carry fields in the table's order,
then those that carry none. -/
inductive Instr where
  /-- BUNDLE_ISSUE (R91): One repetition of a bundle issues on a reference cycle: its holds are waited out, its encoding is checked, bc is read and every present syllable and sticky re-issue reads its sources and issues. -/
  | bundleIssue (g : Nat)
  /-- WAIT_EVALUATION (R87): A header wait is evaluated again on each reference cycle; once the flag is in the named state, the first repetition of its bundle may issue. -/
  | waitEvaluation (g : Nat)
  /-- REGISTER_WRITE_LANDING (R94): A pending fixed-latency register, mask, flag or accumulator write lands at issue plus its latency. -/
  | registerWriteLanding (g : Nat)
  /-- VARIABLE_LANDING (R199): At its named arrival cycle, the data of a load, atomic, KLDH, RECV, claim or commons result lands from the landing buffer, or the core freezes until it arrives. -/
  | variableLanding (g : Nat)
  /-- LANDING_BUFFER_ARRIVAL (R49): The data of a variable-latency request arrives at the core and waits in landing-buffer entries until its named cycle. -/
  | landingBufferArrival (a : Nat)
  /-- LANDING_TIMEOUT (R361): A late-landing freeze or a landing-buffer hold reaches 6,000,000 reference cycles and raises the landing timeout fault. -/
  | landingTimeout (g : Nat)
  /-- S_NOP (R112): The S-class NOP does nothing. -/
  | sNop (h : SHead) (x : FmtA)
  /-- ADD (R113): Lands (a + b) mod 2^64 in sd. -/
  | add (h : SHead) (x : FmtA)
  /-- SUB (R113): Lands (a - b) mod 2^64 in sd. -/
  | sub (h : SHead) (x : FmtA)
  /-- AND (R113): Lands the bitwise AND in sd. -/
  | and (h : SHead) (x : FmtA)
  /-- OR (R113): Lands the bitwise OR in sd. -/
  | or (h : SHead) (x : FmtA)
  /-- XOR (R113): Lands the bitwise XOR in sd. -/
  | xor (h : SHead) (x : FmtA)
  /-- ANDN (R113): Lands a AND NOT b in sd. -/
  | andn (h : SHead) (x : FmtA)
  /-- SHL (R113): Shifts a left by b[5:0] with zeros in. -/
  | shl (h : SHead) (x : FmtA)
  /-- SHR (R113): Shifts a right by b[5:0] with zeros in. -/
  | shr (h : SHead) (x : FmtA)
  /-- SRA (R113): Shifts a right by b[5:0] with copies of the sign bit in. -/
  | sra (h : SHead) (x : FmtA)
  /-- MIN (R113): Lands the signed minimum of a and b. -/
  | min (h : SHead) (x : FmtA)
  /-- MAX (R113): Lands the signed maximum of a and b. -/
  | max (h : SHead) (x : FmtA)
  /-- MINU (R113): Lands the unsigned minimum of a and b. -/
  | minu (h : SHead) (x : FmtA)
  /-- MAXU (R113): Lands the unsigned maximum of a and b. -/
  | maxu (h : SHead) (x : FmtA)
  /-- ADD_S (R113): Lands the signed sum saturated to 64 bits, with no flag. -/
  | addS (h : SHead) (x : FmtA)
  /-- SUB_S (R113): Lands the signed difference saturated to 64 bits, with no flag. -/
  | subS (h : SHead) (x : FmtA)
  /-- MUL (R113): Lands bits [63:0] of a times b after 3 cycles. -/
  | mul (h : SHead) (x : FmtA)
  /-- MULH (R113): Lands the high half of the signed 128-bit product. -/
  | mulh (h : SHead) (x : FmtA)
  /-- MULHU (R113): Lands the high half of the unsigned 128-bit product. -/
  | mulhu (h : SHead) (x : FmtA)
  /-- POPC (R113): Lands the number of ones in a. -/
  | popc (h : SHead) (x : FmtA)
  /-- CLZ (R113): Lands the leading zeros of a, or 64 if a is 0. -/
  | clz (h : SHead) (x : FmtA)
  /-- CTZ (R113): Lands the trailing zeros of a, or 64 if a is 0. -/
  | ctz (h : SHead) (x : FmtA)
  /-- DIV (R114): Lands the signed quotient rounded toward zero after 18 cycles, with fixed results for division by zero and overflow. -/
  | div (h : SHead) (x : FmtA)
  /-- DIVU (R114): Lands the unsigned quotient, or all ones when b is 0. -/
  | divu (h : SHead) (x : FmtA)
  /-- REM (R114): Lands the signed remainder with the sign of a. -/
  | rem (h : SHead) (x : FmtA)
  /-- REMU (R114): Lands the unsigned remainder. -/
  | remu (h : SHead) (x : FmtA)
  /-- SEL (R115): Lands s[sa] if flag fx is 1, and s[sb] otherwise. -/
  | sel (h : SHead) (x : FmtA)
  /-- ADDI (R116): Adds the sign-extended 38-bit immediate to a. -/
  | addi (h : SHead) (x : FmtI)
  /-- ANDI (R116): ANDs a with the sign-extended immediate. -/
  | andi (h : SHead) (x : FmtI)
  /-- ORI (R116): ORs a with the sign-extended immediate. -/
  | ori (h : SHead) (x : FmtI)
  /-- XORI (R116): XORs a with the sign-extended immediate. -/
  | xori (h : SHead) (x : FmtI)
  /-- SHLI (R116): Shifts a left by the immediate. -/
  | shli (h : SHead) (x : FmtI)
  /-- SHRI (R116): Shifts a right logically by the immediate. -/
  | shri (h : SHead) (x : FmtI)
  /-- SRAI (R116): Shifts a right arithmetically by the immediate. -/
  | srai (h : SHead) (x : FmtI)
  /-- MULI (R116): Lands bits [63:0] of a times the immediate. -/
  | muli (h : SHead) (x : FmtI)
  /-- LIU (R116): Replaces bits [63:38] of a with the 26-bit immediate. -/
  | liu (h : SHead) (x : FmtI)
  /-- CMP (R117): Lands the condition CC of a against b or the immediate in flag fd. -/
  | cmp (h : SHead) (x : FmtC)
  /-- FAND (R118): Lands fa AND fb in flag fd. -/
  | flagAnd (h : SHead) (x : FmtC)
  /-- FOR (R118): Lands fa OR fb in flag fd. -/
  | flagOr (h : SHead) (x : FmtC)
  /-- FXOR (R118): Lands fa XOR fb in flag fd. -/
  | flagXor (h : SHead) (x : FmtC)
  /-- FANDN (R118): Lands fa AND NOT fb in flag fd. -/
  | flagAndn (h : SHead) (x : FmtC)
  /-- SPLD (R119): Loads a spill-memory word into a scalar register. -/
  | spld (h : SHead) (x : FmtX)
  /-- SPST (R119): Stores a scalar register into a spill-memory word. -/
  | spst (h : SHead) (x : FmtX)
  /-- CSRR (R120): Lands the value of a named control or status register in sd. -/
  | csrr (h : SHead) (x : FmtX)
  /-- CSRW (R120): Writes s[s] into %fpflags at issue plus 1. -/
  | csrw (h : SHead) (x : FmtX)
  /-- PREP (R121): Prepares branch target bN and its prepared-target buffer line. -/
  | prep (h : SHead) (x : FmtB)
  /-- LOOP (R124): Arms a zero-overhead loop counter with a count and a start address. -/
  | loop (h : SHead) (x : FmtB)
  /-- ENDLOOP (R125): Decrements an active loop counter and returns to its start, or deactivates it. -/
  | endLoop (h : SHead) (x : FmtB)
  /-- XLATE (R126): Clears a handle's valid bit and translates a virtual address through both stages into it. -/
  | xlate (h : SHead) (x : FmtH)
  /-- HREL (R129): Clears a handle's valid bit at issue plus 1. -/
  | hrel (h : SHead) (x : FmtH)
  /-- FENCE (R130): Orders later accesses of the masked classes after earlier ones at a scope, optionally as a release and an acquire. -/
  | fence (h : SHead) (x : FmtI)
  /-- WCLR (R226): Clears the masked wait flags at issue plus 1. -/
  | wclr (h : SHead) (x : FmtI)
  /-- TRAP (R131): Stops the placement and writes a trap record with the code. -/
  | trap (h : SHead) (x : FmtY)
  /-- HALT (R46): The core issues nothing further; its pending register writes are discarded and its memory writes drain. -/
  | halt (h : SHead) (x : FmtY)
  /-- TAIL (R133): Copies eight spill words into the core's child LAUNCH record. -/
  | tail (h : SHead) (x : FmtY)
  /-- NEXTTILE (R134): Requests the next tile index, which lands in the nt register at the request pointer at issue plus 40. -/
  | nextTile (h : SHead) (x : FmtY)
  /-- NEXTTILE_TAKE (R134): Lands the nt register at the take pointer in sd and marks it taken. -/
  | nextTileTake (h : SHead) (x : FmtY)
  /-- PHASE (R229): Opens a phase generation and adds the expected count. -/
  | phase (h : SHead) (x : FmtY)
  /-- ARRIVE (R229): Sends an arrival message for a phase to the core of a named rank. -/
  | arrive (h : SHead) (x : FmtY)
  /-- ARRIVAL_DEPARTURE (R229): An arrival message departs once the ARRIVE's earlier writes are acknowledged. -/
  | arrivalDeparture (a : Nat)
  /-- ARRIVAL_DELIVERY (R229): At departure plus L, an arrival decrements the target core's counter of its generation. -/
  | arrivalDelivery (a : Nat)
  /-- PHASE_LINE_RAISE (R229): A core's phase line rises when the phase is open, its count is zero and its earlier writes are acknowledged. -/
  | phaseLineRaise (g p : Nat)
  /-- PHASE_COMPLETION (R230): L cycles after the last line rises, every member's completion flag is set and the generation flips. -/
  | phaseCompletion (g p : Nat)
  /-- CWSET (R234): Sets a claim window register. -/
  | cwSet (h : SHead) (x : FmtY)
  /-- CLAIM (R234): Proposes a value on a claim word with a window, and lands its outcome word at issue plus ARR. -/
  | claim (h : SHead) (x : FmtY)
  /-- CLAIM_DEPARTURE (R234): A proposal departs at P, once every earlier write of the proposer is acknowledged. -/
  | claimDeparture (c : Nat)
  /-- PROPOSAL_ARRIVAL (R234): At P plus B the proposal reaches every member, sets the notify flag and opens its window. -/
  | proposalArrival (c : Nat)
  /-- CLAIM_DECISION (R234): At D the proposal is accepted, objected or overtaken, the word is updated and the outcome flag is set at every member. -/
  | claimDecision (c : Nat)
  /-- OBJECT (R236): Objects to every proposal whose window is open at this member, or raises the late objection fault. -/
  | object (h : SHead) (x : FmtY)
  /-- CLAIM_READ (R237): Requests a sample of a claim word's state, landed at issue plus ARR. -/
  | claimRead (h : SHead) (x : FmtY)
  /-- CLAIM_READ_SAMPLE (R237): At issue plus B the claim word's state is sampled at the member. -/
  | claimReadSample (a : Nat)
  /-- SUBSCRIBE (R240): Requests a commons subscription for the launch's queue. -/
  | subscribe (h : SHead) (x : FmtY)
  /-- LAPSE (R243): Requests the end of a subscription. -/
  | lapse (h : SHead) (x : FmtY)
  /-- BOARD (R241): Requests boarding of the subscribed entry's stream with a request block. -/
  | board (h : SHead) (x : FmtY)
  /-- ALIGHT (R243): Requests that no stream tile after the one in flight is sent. -/
  | alight (h : SHead) (x : FmtY)
  /-- CSTAT (R243): Requests the status of a subscription, and re-attaches its notice flag. -/
  | cstat (h : SHead) (x : FmtY)
  /-- SUBSCRIBE_ACT (R297): The directory acts on a SUBSCRIBE: adds the subscription, recomputes shares, writes status blocks and notices and lands the result. -/
  | subscribeAct (r : Nat)
  /-- LAPSE_ACT (R301): The directory ends a subscription, recomputes shares and writes status and limit notices. -/
  | lapseAct (r : Nat)
  /-- BOARD_ACT (R306): The directory computes K0, BASE and PERIOD and joins the core to the stream. -/
  | boardAct (r : Nat)
  /-- ALIGHT_ACT (R243): The directory ends the core's boarding after the tile in flight. -/
  | alightAct (r : Nat)
  /-- CSTAT_ACT (R302): The directory reports a subscription's status and, with FE, re-attaches and retranslates its notice range. -/
  | cstatAct (r : Nat)
  /-- V_NOP (R169): The V-class NOP does nothing and ends sticking in its slot. -/
  | vNop (h : Head) (x : FmtV)
  /-- VADD (R146): Element-wise addition, integer or rounded floating point. -/
  | vadd (h : Head) (x : FmtV)
  /-- VSUB (R146): Element-wise subtraction. -/
  | vsub (h : Head) (x : FmtV)
  /-- VMIN (R148): Element-wise minimum. -/
  | vmin (h : Head) (x : FmtV)
  /-- VMAX (R148): Element-wise maximum. -/
  | vmax (h : Head) (x : FmtV)
  /-- VMUL (R146): Element-wise multiplication. -/
  | vmul (h : Head) (x : FmtV)
  /-- VABS (R146): Element-wise absolute value. -/
  | vabs (h : Head) (x : FmtV)
  /-- VNEG (R146): Element-wise negation. -/
  | vneg (h : Head) (x : FmtV)
  /-- VAND (R146): Element-wise AND. -/
  | vand (h : Head) (x : FmtV)
  /-- VOR (R146): Element-wise OR. -/
  | vor (h : Head) (x : FmtV)
  /-- VXOR (R146): Element-wise XOR. -/
  | vxor (h : Head) (x : FmtV)
  /-- VANDN (R146): Element-wise a AND NOT b. -/
  | vandn (h : Head) (x : FmtV)
  /-- VSHL (R146): Element-wise left shift. -/
  | vshl (h : Head) (x : FmtV)
  /-- VSHR (R146): Element-wise logical right shift. -/
  | vshr (h : Head) (x : FmtV)
  /-- VSRA (R146): Element-wise arithmetic right shift. -/
  | vsra (h : Head) (x : FmtV)
  /-- VPOPC (R146): Element-wise population count. -/
  | vpopc (h : Head) (x : FmtV)
  /-- VCLZ (R146): Element-wise leading-zero count. -/
  | vclz (h : Head) (x : FmtV)
  /-- VSEL (R149): Selects va or vb per element by the predicate and writes every element. -/
  | vsel (h : Head) (x : FmtV)
  /-- VFMA (R150): Fused a times b plus c, rounded once. -/
  | vfma (h : Head) (x : FmtW)
  /-- VFMS (R150): Fused a times b minus c, rounded once. -/
  | vfms (h : Head) (x : FmtW)
  /-- VFNMA (R150): Fused minus a times b plus c, rounded once. -/
  | vfnma (h : Head) (x : FmtW)
  /-- VADDI (R151): Element-wise addition of an immediate. -/
  | vaddi (h : Head) (x : FmtJ)
  /-- VANDI (R151): Element-wise AND with an immediate. -/
  | vandi (h : Head) (x : FmtJ)
  /-- VSHLI (R151): Element-wise left shift by an immediate. -/
  | vshli (h : Head) (x : FmtJ)
  /-- VSHRI (R151): Element-wise logical right shift by an immediate. -/
  | vshri (h : Head) (x : FmtJ)
  /-- VSRAI (R151): Element-wise arithmetic right shift by an immediate. -/
  | vsrai (h : Head) (x : FmtJ)
  /-- VLI (R151): Loads an immediate into every enabled element. -/
  | vli (h : Head) (x : FmtJ)
  /-- VCMP (R152): Compares lanes and writes mask bits. -/
  | vcmp (h : Head) (x : FmtP)
  /-- MAND (R153): Mask AND. -/
  | mand (h : Head) (x : FmtQ)
  /-- MOR (R153): Mask OR. -/
  | mor (h : Head) (x : FmtQ)
  /-- MXOR (R153): Mask XOR. -/
  | mxor (h : Head) (x : FmtQ)
  /-- MANDN (R153): Mask AND NOT. -/
  | mandn (h : Head) (x : FmtQ)
  /-- MNOT (R153): Mask NOT. -/
  | mnot (h : Head) (x : FmtQ)
  /-- MLEAD (R153): Sets the first n mask bits and clears the rest. -/
  | mlead (h : Head) (x : FmtQ)
  /-- MANY (R154): Sets a flag if any enabled mask bit is 1. -/
  | many (h : Head) (x : FmtQ)
  /-- MALL (R154): Sets a flag if every enabled mask bit is 1. -/
  | mall (h : Head) (x : FmtQ)
  /-- MPOP (R154): Lands the count of enabled ones of a mask in a scalar. -/
  | mpop (h : Head) (x : FmtQ)
  /-- MFIRST (R154): Lands the index of the lowest enabled one of a mask in a scalar. -/
  | mfirst (h : Head) (x : FmtQ)
  /-- VCVT (R155): Converts elements between formats, by part, with rounding and saturation. -/
  | vcvt (h : Head) (x : FmtJ)
  /-- VQUANT (R156): Quantises F32 lanes into selector blocks by the quantising store rule. -/
  | vquant (h : Head) (x : FmtG)
  /-- VDEQ (R157): Decodes selector blocks into float elements. -/
  | vdeq (h : Head) (x : FmtG)
  /-- VLSCV (R158): Converts float elements into long-sum values. -/
  | vlscv (h : Head) (x : FmtJ)
  /-- VLSADD (R158): Adds long-sum values exactly, with saturation. -/
  | vlsadd (h : Head) (x : FmtV)
  /-- VLSOUT (R158): Converts long-sum values to float elements, rounded once. -/
  | vlsout (h : Head) (x : FmtJ)
  /-- VRSUM (R159): Sums enabled elements by a fixed pairwise tree into every element. -/
  | vrsum (h : Head) (x : FmtV)
  /-- VRMAX (R159): Maximum of enabled elements into every element. -/
  | vrmax (h : Head) (x : FmtV)
  /-- VRMIN (R159): Minimum of enabled elements into every element. -/
  | vrmin (h : Head) (x : FmtV)
  /-- VPERM (R160): Permutes elements of va by indices. -/
  | vperm (h : Head) (x : FmtV)
  /-- VZIP (R161): Interleaves the lower halves of two registers. -/
  | vzip (h : Head) (x : FmtV)
  /-- VUNZIP (R161): De-interleaves the even elements of two registers. -/
  | vunzip (h : Head) (x : FmtV)
  /-- VROT (R162): Rotates elements by an immediate. -/
  | vrot (h : Head) (x : FmtJ)
  /-- VBCAST (R162): Broadcasts one element to every enabled element. -/
  | vbcast (h : Head) (x : FmtJ)
  /-- VEXP2 (R163): Element-wise 2^x, correctly rounded. -/
  | vexp2 (h : Head) (x : FmtV)
  /-- VLOG2 (R163): Element-wise log2 x, correctly rounded. -/
  | vlog2 (h : Head) (x : FmtV)
  /-- VRCP (R163): Element-wise reciprocal, correctly rounded. -/
  | vrcp (h : Head) (x : FmtV)
  /-- VRSQ (R163): Element-wise reciprocal square root, correctly rounded. -/
  | vrsq (h : Head) (x : FmtV)
  /-- VTANH (R163): Element-wise tanh, correctly rounded. -/
  | vtanh (h : Head) (x : FmtV)
  /-- VCX (R165): Compare-exchanges two value and index pairs per lane into higher and lower pairs. -/
  | vcx (h : Head) (x : FmtW)
  /-- VTWR (R167): Writes a converted row of a tile register. -/
  | vtwr (h : Head) (x : FmtT)
  /-- VTRD (R168): Reads a converted column of a tile register into a vector register. -/
  | vtrd (h : Head) (x : FmtT)
  /-- M_NOP (R190): The M-class NOP does nothing and ends sticking in the M slot. -/
  | mNop (h : Head) (x : FmtM)
  /-- MCALL (R174): Copies the parameter registers and starts or queues a matrix routine on an accumulator. -/
  | mcall (h : Head) (x : FmtM)
  /-- ROUTINE_START (R175): A waiting routine starts at the end cycle of the running one and reads its accumulators. -/
  | routineStart (g : Nat)
  /-- ROUTINE_LANDING (R174): At S plus DUR the routine's accumulators and row flags land as a whole. -/
  | routineLanding (g : Nat)
  /-- MZERO (R186): Sets an accumulator to +0 and clears its row flags at issue plus 2. -/
  | mzero (h : Head) (x : FmtM)
  /-- MDRAIN (R188): Drains an accumulator row through scale, bias and activation into a float or quantised register. -/
  | mdrain (h : Head) (x : FmtD)
  /-- K_NOP (R190): The K-class NOP does nothing and ends sticking in the K slot. -/
  | kNop (h : Head) (x : FmtK)
  /-- KLDH (R192): Loads halfwords of a scale register from memory at a named arrival cycle. -/
  | kldh (h : Head) (x : FmtK)
  /-- KSTH (R192): Stores halfwords of a scale register to memory. -/
  | ksth (h : Head) (x : FmtK)
  /-- KMVV (R193): Copies a vector register into a scale register. -/
  | kmvv (h : Head) (x : FmtZ)
  /-- KMVZ (R193): Copies a scale register into a vector register. -/
  | kmvz (h : Head) (x : FmtZ)
  /-- KMOV (R193): Writes the parameter registers a0 to a7 from a scale register. -/
  | kmov (h : Head) (x : FmtZ)
  /-- KLTL (R193): Loads level table A or B from a vector register. -/
  | kltl (h : Head) (x : FmtZ)
  /-- C_NOP (R109): The copy-class NOP does nothing and ends sticking in its slot. -/
  | cNop (h : Head) (x : FmtL)
  /-- LD_VECTOR (R200): Loads 512 bytes into a vector register at a named arrival cycle. -/
  | ldVector (h : Head) (x : FmtL)
  /-- ST_VECTOR (R200): Stores the lanes of a vector register that its lane mask enables. -/
  | stVector (h : Head) (x : FmtE)
  /-- LD_TILE (R200): Loads 128 rows into a tile register at a named arrival cycle. -/
  | ldTile (h : Head) (x : FmtL)
  /-- ST_TILE (R200): Stores the 128 rows of a tile register. -/
  | stTile (h : Head) (x : FmtE)
  /-- LD_SCALAR (R200): Loads a sign- or zero-extended scalar of 1 to 8 bytes at a named arrival cycle. -/
  | ldScalar (k : ScalarLoad) (h : Head) (x : FmtL)
  /-- ST_SCALAR (R200): Stores the low bytes of a scalar register. -/
  | stScalar (k : ScalarStore) (h : Head) (x : FmtE)
  /-- CPY (R208): Queues a nested copy that moves elements bit for bit. -/
  | cpy (h : Head) (x : FmtN)
  /-- CPYC (R209): Queues a copy that converts byte codes through the conversion table. -/
  | cpyc (h : Head) (x : FmtN)
  /-- CPYQ (R210): Queues a copy that quantises F32 blocks into selector blocks and headers. -/
  | cpyq (h : Head) (x : FmtN)
  /-- CPYX (R211): Queues a copy that decodes selector blocks into float values. -/
  | cpyx (h : Head) (x : FmtN)
  /-- CPYZ (R212): Queues a copy that turns a split-layout tile into a compressed image. -/
  | cpyz (h : Head) (x : FmtN)
  /-- WBLD (R213): Queues a copy of lines or compressed images into the weight buffer. -/
  | wbld (h : Head) (x : FmtN)
  /-- GATH (R214): Queues a gather of indexed pieces. -/
  | gath (h : Head) (x : FmtN)
  /-- SCAT (R214): Queues a scatter of pieces to indexed places. -/
  | scat (h : Head) (x : FmtN)
  /-- MCAST (R215): Queues a copy written to the same offset in every named virtual hive. -/
  | mcast (h : Head) (x : FmtN)
  /-- CFENCE (R217): Queues a command that completes when earlier commands of the masked classes have completed. -/
  | cfence (h : Head) (x : FmtF)
  /-- CACQ (R217): Queues an engine acquire behind the core's earlier loads and atomics of the masked classes. -/
  | cacq (h : Head) (x : FmtF)
  /-- CREL (R217): Queues an engine release behind the core's earlier accesses of the masked classes. -/
  | crel (h : Head) (x : FmtF)
  /-- CTLD (R217): Queues a load of the engine's conversion table. -/
  | ctld (h : Head) (x : FmtF)
  /-- COPY_COMMAND_START (R202): An engine begins the next command of its queue, after any acquire. -/
  | copyCommandStart (g e : Nat)
  /-- COPY_ELEMENT (R207): An engine reads and writes one element of a command in ord order, or faults there. -/
  | copyElement (g e : Nat)
  /-- COPY_COMMAND_COMPLETE (R205): A command's writes are acknowledged: its queue entry and reservation free, its flags are ORed in and its wait flag is set. -/
  | copyCommandComplete (g e : Nat)
  /-- SEND (R219): Sends a vector register as a circuit message on a slot-table entry. -/
  | send (h : Head) (x : FmtO)
  /-- RECV (R219): Takes the next circuit message of an entry, landed at a named cycle. -/
  | recv (h : Head) (x : FmtO)
  /-- CIRCUIT_DEPARTURE (R219): A message half departs at its slot position in the revolution, or waits a revolution when the queue is full. -/
  | circuitDeparture (m : Nat)
  /-- CIRCUIT_ARRIVAL (R219): A circuit message arrives and joins the entry's receive queue. -/
  | circuitArrival (m : Nat)
  /-- AADD (R221): Atomically adds to a 32-bit word and returns the old value. -/
  | aadd (h : Head) (x : FmtU)
  /-- AAND (R221): Atomically ANDs a 32-bit word. -/
  | aand (h : Head) (x : FmtU)
  /-- AOR (R221): Atomically ORs a 32-bit word. -/
  | aor (h : Head) (x : FmtU)
  /-- AXOR (R221): Atomically XORs a 32-bit word. -/
  | axor (h : Head) (x : FmtU)
  /-- AMIN (R221): Atomically takes the minimum into a 32-bit word. -/
  | amin (h : Head) (x : FmtU)
  /-- AMAX (R221): Atomically takes the maximum into a 32-bit word. -/
  | amax (h : Head) (x : FmtU)
  /-- AXCHG (R221): Atomically exchanges a 32-bit word. -/
  | axchg (h : Head) (x : FmtU)
  /-- ACAS (R221): Atomically compares and swaps a 32-bit word. -/
  | acas (h : Head) (x : FmtU)
  /-- ATOMIC_EXECUTE (R222): An atomic executes at its bank unit or controller in one indivisible step, or returns a stored reply for a repeated identifier. -/
  | atomicExecute (a : Nat)
  /-- ACCESS_PERFORM (R246): A read or write performs at its home slice at an instant of that slice. -/
  | accessPerform (a i : Nat)
  /-- WRITE_ACKNOWLEDGE (R252): A write's acknowledgment reaches the source interface and lowers its touched-slice count. -/
  | writeAcknowledge (a : Nat)
  /-- SOURCE_INTERFACE_RELEASE (R253): A waiting release or fenced access leaves the source interface once its conditions hold. -/
  | sourceInterfaceRelease (a : Nat)
  /-- HBM_REQUEST_SEND (R277): A core's HBM request goes at its calendar position when its slots are free. -/
  | hbmRequestSend (a : Nat)
  /-- SEGMENT_LINE_DELIVERED (R139): A line of an overlay segment copy is delivered to its frame, ending any segment stall on it. -/
  | segmentLineDelivered (g fr line : Nat)
  /-- HANDLE_VALID (R126): An XLATE's translation completes and the handle becomes valid, ending any interlock hold. -/
  | handleValid (g h : Nat)
  /-- TRANSLATION_CACHE_MISS (R291): An XLATE misses the hive's translation cache, stops the placement and starts a walk. -/
  | translationCacheMiss (g h : Nat)
  /-- TRANSLATION_WALK_END (R291): A walk fills the cache and resumes the placement, or becomes a page-not-present freeze with a KIND 3 record. -/
  | translationWalkEnd (g h : Nat)
  /-- PLACEMENT_RESTART (R349): All cores restart at one reference cycle at their stop position, and shadow entries land at their offsets. -/
  | placementRestart (l : Nat)
  /-- DATA_ERROR_DETECTED (R358): A detected register or datapath error starts a checkpoint rollback with two reruns. -/
  | dataErrorDetected (g : Nat)
  /-- ROLLBACK_RERUN_END (R358): A rerun reaches its ending commit point; after the second, the region commits or ends in checkpoint mismatch. -/
  | rollbackRerunEnd (g : Nat)
  /-- LAUNCH_START (R38): Every placed core is loaded and issues its entry bundle at cycle 0 at one reference cycle. -/
  | launchStart (l : Nat)
  /-- LAUNCH_RETIREMENT (R46): When every core has halted and every write has drained, the launch retires, its completion record is written and its ramp-down begins. -/
  | launchRetirement (l : Nat)
  /-- PORTAL_DMWR (R314): A 64-byte DMWr at a portal enters the slot's buffer or is answered with Retry, Abort or Unsupported Request. -/
  | portalDmwr (fn page : Nat) (size off : Nat) (packet : BitVec 512)
  /-- PORTAL_MISUSE (R314): A posted write or read to a portal page is dropped or returns all ones and counts in MISUSE. -/
  | portalMisuse (fn page : Nat) (write : Bool)
  /-- SLOT_POLL (R320): A shepherd core polls a hardware slot at its fixed position and processes up to 8 packets. -/
  | slotPoll (sl : Nat)
  /-- SAVE_COMPLETE (R350): A pre-empted core's save completes once its accesses have performed, freeing its cores. -/
  | saveComplete (l : Nat)
  /-- SHOOTDOWN_REACH_CORE (R292): A shootdown request reaches a core, after which uses of matching handles raise handle invalid. -/
  | shootdownReachCore (sd g : Nat)
  /-- SHOOTDOWN_COMPLETE (R292): Once earlier uses have performed, matching handles read invalid and the requester receives a completion. -/
  | shootdownComplete (sd : Nat)
  /-- REGISTER_WRITE (R371): A write to a register with no behaviour of its own stores the value, or is dropped. -/
  | registerWrite (fn bar : Nat) (off : RegSpan) (val : Word)
  /-- STREAM_STOP (R296): At the STOP's reference cycle the stream stops and every boarding ends after the tile in flight. -/
  | streamStop (e : Nat)
  /-- STREAM_FETCH (R305): At FSTART plus g times PERIOD a stream tile is fetched for every boarder and charged once. -/
  | streamFetch (e sq : Nat)
  /-- DEEP_TIER_READ_START (R307): The deep-tier read of a tile begins PRE fetches ahead of its fetch. -/
  | deepTierReadStart (e sq : Nat)
  /-- DEEP_TIER_READ_END (R308): A deep-tier read and check ends, retried once from a replica or marking the tile poisoned. -/
  | deepTierReadEnd (e sq : Nat) (bad : Bool)
  /-- STREAM_TILE_COMPLETE (R305): A tile's image and headers are complete in a boarder's slot and its tile flag is set. -/
  | streamTileComplete (g e sq : Nat)
  /-- STREAM_SLOT_WRITE (R244): A withheld slot write for a boarder is performed once the boarder has reached the freeing due cycle. -/
  | streamSlotWrite (g e sq : Nat)
  /-- TSV_GROUP_FAILED (R280): A TSV group is marked failed after 8 corrected lines in 1 ms, with erasure decoding and sparing sweep. -/
  | tsvGroupFailed (ch grp : Nat)
  /-- SPARING_SWEEP_LINE (R280): The sparing sweep rewrites one line of the channel in a lent slot. -/
  | sparingSweepLine (ch line : Nat)
  /-- REFRESH_PLAN_WRITE (R282): The management core writes a channel's refresh plan. -/
  | refreshPlanWrite (ch : Nat) (hot release : Bool)
  /-- REFRESH_TAKEOVER (R283): No plan update within half the refresh interval makes the sentinel run all-bank refresh and raise an event. -/
  | refreshTakeover (ch : Nat)
  /-- BLOCK_REENCRYPTION_COMPLETE (R285): The block's 64 lines are re-encrypted and waiting accesses to the block proceed. -/
  | blockReencryptionComplete (blk : Nat)
  /-- SPARE_BRING_IN (R400): A scheduled core or bank spare is brought in at the hive's next launch boundary. -/
  | spareBringIn (u : SpareUnit)
  /-- SPARE_THRESHOLD (R400): An error count or rollback count reaches its threshold and a spare is scheduled. -/
  | spareThreshold (u : SpareUnit)
  /-- SHEPHERD_CORE_FAILURE (R400): A shepherd core misses two frame deadlines or fails, and its spare takes over at the next frame. -/
  | shepherdCoreFailure (die i : Nat)
  /-- FATAL_ERROR (R402): A fatal error stops every placement, writes the dump and event 16 and waits for device reset. -/
  | fatalError (cause die : Nat)
  /-- THERMAL_EVENT (R405): A junction reaches 95 C or falls below 90 C, freezing or restoring the governor's cap. -/
  | thermalEvent (deg die : Nat)
  /-- FLR (R380): A function-level reset of a VF begins: portals retry and the function's outputs stop. -/
  | flr (fn : Nat)
  /-- FLR_QUIESCE (R380): At the first frame start after the FLR, the function's placements, packets, subscriptions and handles are discarded. -/
  | flrQuiesce (fn : Nat)
  /-- FLR_COMPLETE (R380): The function's scratchpads and sets are scrubbed under a new key and its portals accept again. -/
  | flrComplete (fn : Nat)
  /-- FLIT_RECEIVE (R387): A flit is received, accepted in order or discarded with a NAK, and acknowledgments and replay are handled. -/
  | flitReceive (l : Nat) (flit : BitVec 1792)
  /-- LANE_FAILED (R388): A lane loses lock or exceeds its uncorrectable-codeword count and is moved to the spare. -/
  | laneFailed (l lane : Nat)
  /-- LANE_SPARE_SWITCH (R388): At the announced ATSEQ each end moves the failed lane's traffic to the spare. -/
  | laneSpareSwitch (l : Nat)
  /-- LINK_DOWN (R389): A link goes down and its routes' traffic moves to other links, or requests fail. -/
  | linkDown (l reason : Nat)
  /-- LINK_SILENCE_TIMEOUT (R389): No flit passes for 10 us and the link goes down. -/
  | linkSilenceTimeout (l : Nat)
  /-- HOST_TERMINATION (R46): The host terminates a running launch, which ends with STATUS 2 and puts its queue in error with code 8. -/
  | hostTermination (l : Nat)
  /-- BANK_COPY_COMPLETE (R400): The firmware's copy of a failed bank into the spare ends, within 2 ms, and the hive admits placements again. -/
  | bankCopyComplete (hive bank : Nat)
  /-- FRAME_START (R319): An executive frame begins and ring queues are unbound and bound in its first 480 cycles. -/
  | frameStart
  /-- ADMISSION_PASS (R334): At each ramp-slot boundary the shepherd orders candidates and admits, refuses or pre-empts for them. -/
  | admissionPass
  /-- RAMP_SLOT_BOUNDARY (R340): At each ramp slot, retired and pre-empted launches ramp their power down by their fall allowance. -/
  | rampSlotBoundary
  /-- DOORBELL (R373): A DOORBELL write makes a ring queue's doorbell pending. -/
  | doorbell
  /-- QRESET (R318): A QRESET write takes a queue out of error state and empties it. -/
  | qreset
  /-- RETRY (R351): RESMODE 0 repeats the faulting repetition, request, element, routine or walk, or continues a trap. -/
  | resumeRetry
  /-- RETRANSLATE (R351): RESMODE 1 redoes the handle's XLATE and then acts as RETRY. -/
  | resumeRetranslate
  /-- SKIP (R351): RESMODE 2 issues the faulting repetition with every syllable suppressed. -/
  | resumeSkip
  /-- CLEARPRT (R351): RESMODE 3 clears PRT for the placement and lets the repetition read earlier values. -/
  | resumeClearPrt
  /-- TERMINATE (R351): RESMODE 4 ends the stopped launch with STATUS 1. -/
  | resumeTerminate
  /-- SHOOTN (R292): A SHOOTN write issues a stage-1 shootdown of a range of virtual pages. -/
  | shootN
  /-- FRHEAD (R373): A write of FRHEAD frees fault-ring room, letting a held record be written. -/
  | frHead
  /-- EXEC (R367): Applies the function records and the set table, or is refused with BUSY or a reason. -/
  | execCmd
  /-- QCREATE (R317): Creates a queue, writes its privileged fields and performs its first bind. -/
  | qcreate
  /-- QDESTROY (R374): Destroys a queue. -/
  | qdestroy
  /-- SHOOT2 (R292): Issues a stage-2 shootdown of a range of intermediate pages. -/
  | shoot2
  /-- SHOOTF (R292): Issues a whole-function shootdown. -/
  | shootF
  /-- REKEY (R286): Rekeys a function's sets, resets counters and re-encrypts every line. -/
  | rekey
  /-- CREATE (R296): Writes a free directory entry and makes it held. -/
  | create
  /-- COST (R296): Sets an entry's capacity cost and recomputes shares. -/
  | cost
  /-- RIGHTS (R296): Sets an entry's rights; subscriptions that lose the right lapse at the next boundary. -/
  | rights
  /-- REPLICA (R296): Sets or clears an entry's replica. -/
  | replica
  /-- SCHEDULE (R296): Sets an entry's stream period, read-ahead and start, and starts the stream. -/
  | schedule
  /-- STOP (R296): Schedules a stream to stop at a given reference cycle. -/
  | stop
  /-- REPLACE (R308): Writes new contents for a poisoned tile, clears its mark and sends replaced notices. -/
  | replace
  /-- LOAD (R265): The privileged load path writes tiles into an unsubscribed deep-tier region. -/
  | loadDeep
  /-- FWSTAGE (R408): Verifies and stores a firmware image for the next device reset. -/
  | fwStage
  /-- FWCOMMIT (R408): Raises the fused minimum version of a firmware kind to the running version. -/
  | fwCommit
  /-- DEVRESET (R406): Resets the device from bring-up step 2. -/
  | devReset
  /-- ATTEST (R409): Writes a signed attestation report with a nonce within 10 ms. -/
  | attest
  /-- HRBASE (R401): Setting the health ring writes the held health events to it. -/
  | hrBase
  /-- PERIOD_BOUNDARY (R301): At each directory period boundary, forced lapses, share recomputation, charges, status writes and unheld settlement take place. -/
  | periodBoundary
  /-- POWER_GOOD (R406): A cold start runs bring-up from step 1. -/
  | powerGood
  /-- SPARE (R385): A SPARE control message announces the ATSEQ at which a failed lane moves to the spare. -/
  | spare
  /-- SPAREACK (R385): A SPAREACK control message answers SPARE with the other end's ATSEQ. -/
  | spareAck
  /-- ALIGN (R385): An ALIGN control message carries the sender's domain count for alignment. -/
  | align
  /-- ALIGNACK (R385): An ALIGNACK answers ALIGN, and the unaligned device sets its domain count. -/
  | alignAck
  /-- DOWN (R385): A DOWN control message announces that a link is taken down. -/
  | down
  /-- LINK_READ (R386): A read packet arrives, is checked against the export table and served as remote traffic. -/
  | linkRead
  /-- LINK_WRITE (R386): A write packet arrives, is checked against the export table and performed. -/
  | linkWrite
  /-- LINK_ATOMIC (R386): An atomic packet arrives and executes exactly once. -/
  | linkAtomic
  /-- READ_REPLY (R386): A read reply packet returns data to the requesting core. -/
  | readReply
  /-- WRITE_ACKNOWLEDGMENT (R386): A write acknowledgment packet lowers the source's link count. -/
  | writeAcknowledgment
  /-- ATOMIC_REPLY (R386): An atomic reply packet returns the old value to the requesting core. -/
  | atomicReply
  /-- LINK_SCHEDULE_ACTIVATE (R377): Written link schedules take effect at the first rotation at or after the domain count in LSCHEDAT. -/
  | linkScheduleActivate
  /-- DIE_LINK_LOST (R360): The die-to-die link fails and every launch that depends on it ends with STATUS 3. -/
  | dieLinkLost
  /-- FLIT_TIME (R384): On each flit time of 2 ns, each link direction sends one flit: a packet from the function that owns the schedule position, a control flit, or idle. -/
  | flitTime
  /-- COMMAND_DONE (R374): A function-configuration command that took time finishes its work, and CMDST changes from in progress to done. -/
  | commandDone
deriving DecidableEq, Repr

end Sys2Proof
end

