-- ==== Sys2Proof/WellFormed.lean ====
section
/-!
DEFINITION. The checks of a syllable that depend only on its encoding (R93, R98, R100, R109 and the encoding limits
that the instructions' own rules state), in the order of the rows of R109, and the range checks of the other steps.
-/
namespace Sys2Proof

/-- Why an encoding is not an instruction: the rows of R109 that concern a syllable, `own` for a check stated with
the instruction itself (CAUSE 0 of R344), and `operand` for a number outside its range in a step of another agent. -/
inductive Bad where
  | opcode | predicate | stick | field | register | code | own | operand
deriving DecidableEq, Repr

/-- The CAUSE that a fault record gives for the check (R344): the row of R109, or 0. -/
def badCause : Bad → Nat
  | .opcode => 6 | .predicate => 7 | .stick => 8 | .field => 9 | .register => 10 | .code => 11
  | .own => 0 | .operand => 0

/-- The first check of a list that fails. -/
def firstBad : List (Bool × Bad) → Option Bad
  | [] => none
  | (ok, b) :: rest => if ok then firstBad rest else some b

/-- Two lists of checks, the first before the second. -/
def also (a b : List (Bool × Bad)) : List (Bool × Bad) := a ++ b

/-- R93: a flag predicate. -/
def flagPredOk (prd : BitVec 4) (pn : BitVec 1) : Bool :=
  (prd.toNat ≤ 6 || prd == 15) && !(pn == 1 && prd == 15)

/-- R93: a mask predicate. -/
def maskPredOk (prd : BitVec 4) (pn : BitVec 1) : Bool :=
  (prd.toNat ≤ 11 || prd == 15) && !(pn == 1 && prd == 15)

/-- R102: a vector register number. -/
def vOk (v : BitVec 10) : Bool := v.toNat < 640
/-- R102: a mask register number. -/
def mOk (m : BitVec 4) : Bool := m.toNat < 12

/-- R99, R145: integer formats (class I). -/
def fmtInt (f : BitVec 4) : Bool := f.toNat ≤ 5
/-- R99, R145: `.F32`, `.F16`, `.BF16` (class F). -/
def fmtF (f : BitVec 4) : Bool := 6 ≤ f.toNat && f.toNat ≤ 8
/-- R99: every floating-point format. -/
def fmtFloat (f : BitVec 4) : Bool := 6 ≤ f.toNat && f.toNat ≤ 10
/-- R145: class A. -/
def fmtA (f : BitVec 4) : Bool := f.toNat ≤ 8
/-- R145: class E. -/
def fmtE (f : BitVec 4) : Bool := f.toNat ≤ 10
/-- R145: class C. -/
def fmtC (f : BitVec 4) : Bool := f == 0 || f == 3 || f == 6
/-- R99: signed integer formats. -/
def fmtSigned (f : BitVec 4) : Bool := f.toNat ≤ 2
/-- R99: the block formats `.SB4`, `.SB8`, `.TB2`. -/
def fmtBlock (f : BitVec 4) : Bool := 11 ≤ f.toNat && f.toNat ≤ 13

/-- R142: the element width in bits of a standard format. -/
def fmtWidth (f : BitVec 4) : Nat :=
  match f.toNat with
  | 0 => 32 | 1 => 16 | 2 => 8 | 3 => 32 | 4 => 16 | 5 => 8 | 6 => 32 | 7 => 16 | 8 => 16
  | 9 => 8 | 10 => 8 | _ => 32

/-- R70: a candidate mask for a target block format. -/
def candOk (fmt : BitVec 4) (cand : BitVec 8) : Bool :=
  if fmt == 13 then cand == 0 else (cand &&& 0x60#8) == 0 && (cand &&& 0x1F#8) != 0

/-- R100: a scope that an instruction names, codes 1 to 6. -/
def scopeOk (s : BitVec 3) : Bool := 1 ≤ s.toNat && s.toNat ≤ 6
/-- R100: an ORD field, codes 0 to 6. -/
def ordOk (s : BitVec 3) : Bool := s.toNat ≤ 6

/-- R30: the numbers of the control and status registers. -/
def csrListed (n : Nat) : Bool :=
  n ≤ 9 || (0x10 ≤ n && n ≤ 0x13) || (0x20 ≤ n && n ≤ 0x2D)

/-- S class: the predicate (R93). -/
def sHeadBad (h : SHead) : List (Bool × Bad) := [(flagPredOk h.prd h.pn, .predicate)]
/-- M class: the slot and the predicate (R93). -/
def mHeadBad (h : Head) : List (Bool × Bad) := [(h.slot == .m, .operand), (flagPredOk h.prd h.pn, .predicate)]
/-- K class: the slot and the predicate (R93). -/
def kHeadBad (h : Head) : List (Bool × Bad) := [(h.slot == .k, .operand), (flagPredOk h.prd h.pn, .predicate)]
/-- Copy class: the slot and the predicate (R93). -/
def cHeadBad (h : Head) : List (Bool × Bad) :=
  [(h.slot == .c0 || h.slot == .c1, .operand), (flagPredOk h.prd h.pn, .predicate)]
/-- Copy class without a STEP field (formats U and F). -/
def cHeadNoStepBad (h : Head) : List (Bool × Bad) := also (cHeadBad h) [(h.step == 0, .operand)]
/-- V class: the slot and the predicate (R93). -/
def vHeadBad (h : Head) : List (Bool × Bad) :=
  [(h.slot == .v0 || h.slot == .v1, .operand), (maskPredOk h.prd h.pn, .predicate)]

/-- Format A of an instruction with two sources (R113). -/
def alu2Bad (h : SHead) (x : FmtA) : Option Bad := firstBad (also (sHeadBad h) [(x.fx == 0, .field)])
/-- Format A of an instruction with one source (R113). -/
def alu1Bad (h : SHead) (x : FmtA) : Option Bad :=
  firstBad (also (sHeadBad h) [(x.fx == 0 && x.sb == 0, .field)])
/-- Format I with the whole immediate (R116). -/
def immBad (h : SHead) (_x : FmtI) : Option Bad := firstBad (sHeadBad h)
/-- Format I of a shift: 0 to 63 (R116). -/
def shiftImmBad (h : SHead) (x : FmtI) : Option Bad := firstBad (also (sHeadBad h) [(x.imm.toNat < 64, .own)])
/-- Flag logic (R118). -/
def flagLogicBad (h : SHead) (x : FmtC) : Option Bad :=
  firstBad (also (sHeadBad h)
    [(x.sa.toNat < 8 && x.sb.toNat < 8 && x.cc == 0 && x.im == 0 && x.imm == 0, .field)])
/-- A spill access (R101): bit 37 is reserved. -/
def spillBad (h : SHead) (x : FmtX) : Option Bad := firstBad (also (sHeadBad h) [(x.idx.toNat < 2048, .register)])

/-- Format V with two vector sources or `bc` (R102, R145, R146). `fmtOk` is the format class, `sat` whether
saturation is allowed with an integer format, `rnd` whether a floating-point format rounds: RM of one that rounds nothing must be 0
(DEDUCED, log entry 6). -/
def vecBad (fmtOk : BitVec 4 → Bool) (sat rnd bcUse unary : Bool) (h : Head) (x : FmtV) : Option Bad :=
  firstBad (also (vHeadBad h)
    [((x.rm == 0 || (rnd && fmtFloat x.fmt)) && (x.sat == 0 || (sat && fmtInt x.fmt)) &&
        (x.bc == 0 || (bcUse && x.vb == 0)) && (!unary || x.vb == 0), .field),
     (vOk x.vd && vOk x.va && vOk x.vb, .register), (fmtOk x.fmt, .code)])

/-- Format J (R151, R162): an immediate form of class `fmtOk` with its own limit. -/
def immVecBad (fmtOk : BitVec 4 → Bool) (own : Bool) (h : Head) (x : FmtJ) : Option Bad :=
  firstBad (also (vHeadBad h)
    [(x.rm == 0, .field), (vOk x.vd && vOk x.va, .register), (fmtOk x.fmt, .code), (own, .own)])

/-- Format Q of a mask instruction (R153, R154): which fields are used. -/
def maskBad (md ma mb sd imm : Bool) (h : Head) (x : FmtQ) : Option Bad :=
  firstBad (also (vHeadBad h)
    [((md || x.md == 0) && (ma || x.ma == 0) && (mb || x.mb == 0) && (sd || x.sd == 0) && (imm || x.imm == 0), .field),
     (mOk x.md && mOk x.ma && mOk x.mb && x.imm.toNat ≤ 128, .register)])

/-- Format Y (R227): which fields must be zero. -/
def yBad (sd sa sb n wf arr : Bool) (imm : Bool) (h : SHead) (x : FmtY) : Option Bad :=
  firstBad (also (sHeadBad h)
    [((sd || x.sd == 0) && (sa || x.sa == 0) && (sb || x.sb == 0) && (n || x.n == 0) && (wf || x.wf == 0) &&
        (arr || x.arr == 0) && imm, .field)])

/-- A copy command of format N (R204, R208): `own` is the kind's own limit on its records. -/
def copyBad (own : Bool) (h : Head) (x : FmtN) : Option Bad :=
  firstBad (also (cHeadBad h)
    [(x.wfe == 1 || x.wf == 0, .field),
     (if x.acq == 1 || x.rel == 1 then scopeOk x.scope else x.scope == 0, .code), (own, .own)])

/-- A format-F fence (R217). -/
def copyFenceBad (h : Head) (x : FmtF) : Option Bad :=
  firstBad (also (cHeadNoStepBad h)
    [((x.wfe == 1 || x.wf == 0) && x.bf == 0 && x.so == 0 && x.bft == 0, .field),
     (scopeOk x.scope, .code), (x.cmask != 0, .own)])

/-- An atomic (R221). -/
def atomicBad (cas : Bool) (h : Head) (x : FmtU) : Option Bad :=
  firstBad (also (cHeadNoStepBad h) [(cas || x.sb == 0, .field), (ordOk x.ord, .code)])

/-- VCX (R165): no register pair leaves the file, and the output pairs do not overlap. -/
def vcxBad (h : Head) (x : FmtW) : Option Bad :=
  firstBad (also (vHeadBad h)
    [(x.rm == 0, .field), (vOk x.vd && vOk x.va && vOk x.vb && vOk x.vc, .register), (fmtC x.fmt, .code),
     (x.vd != 639 && x.va != 639 && x.vb != 639 && x.vc != 639, .own),
     (x.vd.toNat + 1 < x.vc.toNat || x.vc.toNat + 1 < x.vd.toNat, .own)])

/-- VCVT (R155): the ratio of the wider to the narrower width. -/
def cvtRatio (x : FmtJ) : Nat :=
  let ws := fmtWidth (x.imm.extractLsb' 0 4)
  let wd := fmtWidth x.fmt
  Nat.max ws wd / Nat.min ws wd

/-- VCVT (R155). -/
def vcvtBad (h : Head) (x : FmtJ) : Option Bad :=
  let src := x.imm.extractLsb' 0 4
  firstBad (also (vHeadBad h)
    [(x.imm.extractLsb' 7 9 == 0 && (x.rm == 0 || fmtFloat x.fmt || fmtFloat src), .field),
     (vOk x.vd && vOk x.va, .register), (fmtE x.fmt && fmtE src, .code),
     (x.imm.extractLsb' 4 1 == 0 || (fmtInt x.fmt && fmtInt src), .own),
     ((x.imm.extractLsb' 5 2).toNat < cvtRatio x, .own)])

/-- R158: a window operand from −149 to +31. -/
def winOk (w : BitVec 16) : Bool := -149 ≤ w.toInt && w.toInt ≤ 31

/-- The first check of R109 that the step's encoding fails, none for a well-formed step. -/
def Instr.bad : Instr → Option Bad
  | .bundleIssue g => firstBad [(g < 192, .operand)]
  | .waitEvaluation g => firstBad [(g < 192, .operand)]
  | .registerWriteLanding g => firstBad [(g < 192, .operand)]
  | .variableLanding g => firstBad [(g < 192, .operand)]
  | .landingBufferArrival _a => none
  | .landingTimeout g => firstBad [(g < 192, .operand)]
  | .sNop h x =>
      firstBad (also (sHeadBad h) [(x.sd == 0 && x.sa == 0 && x.sb == 0 && x.fx == 0, .field)])
  | .add h x =>
      alu2Bad h x
  | .sub h x =>
      alu2Bad h x
  | .and h x =>
      alu2Bad h x
  | .or h x =>
      alu2Bad h x
  | .xor h x =>
      alu2Bad h x
  | .andn h x =>
      alu2Bad h x
  | .shl h x =>
      alu2Bad h x
  | .shr h x =>
      alu2Bad h x
  | .sra h x =>
      alu2Bad h x
  | .min h x =>
      alu2Bad h x
  | .max h x =>
      alu2Bad h x
  | .minu h x =>
      alu2Bad h x
  | .maxu h x =>
      alu2Bad h x
  | .addS h x =>
      alu2Bad h x
  | .subS h x =>
      alu2Bad h x
  | .mul h x =>
      alu2Bad h x
  | .mulh h x =>
      alu2Bad h x
  | .mulhu h x =>
      alu2Bad h x
  | .popc h x =>
      alu1Bad h x
  | .clz h x =>
      alu1Bad h x
  | .ctz h x =>
      alu1Bad h x
  | .div h x =>
      alu2Bad h x
  | .divu h x =>
      alu2Bad h x
  | .rem h x =>
      alu2Bad h x
  | .remu h x =>
      alu2Bad h x
  | .sel h _ =>
      firstBad (sHeadBad h)
  | .addi h x =>
      immBad h x
  | .andi h x =>
      immBad h x
  | .ori h x =>
      immBad h x
  | .xori h x =>
      immBad h x
  | .shli h x =>
      shiftImmBad h x
  | .shri h x =>
      shiftImmBad h x
  | .srai h x =>
      shiftImmBad h x
  | .muli h x =>
      immBad h x
  | .liu h x =>
      firstBad (also (sHeadBad h) [(x.imm.toNat < 2 ^ 26, .own)])
  | .cmp h x =>
      firstBad (also (sHeadBad h) [(if x.im == 1 then x.sb == 0 else x.imm == 0, .field), (x.cc.toNat ≤ 10, .code)])
  | .flagAnd h x =>
      flagLogicBad h x
  | .flagOr h x =>
      flagLogicBad h x
  | .flagXor h x =>
      flagLogicBad h x
  | .flagAndn h x =>
      flagLogicBad h x
  | .spld h x =>
      spillBad h x
  | .spst h x =>
      spillBad h x
  | .csrr h x =>
      firstBad (also (sHeadBad h) [(x.sa == 0, .field), (csrListed x.idx.toNat, .own)])
  | .csrw h x =>
      firstBad (also (sHeadBad h) [(x.sa == 0, .field), (x.idx == 0x10, .own)])
  | .prep h _ =>
      firstBad (sHeadBad h)
  | .loop h x =>
      firstBad (also (sHeadBad h) [(x.n.toNat < 4, .register)])
  | .endLoop h x =>
      firstBad (also (sHeadBad h) [(x.sa == 0 && x.addr == 0, .field), (x.n.toNat < 4, .register)])
  | .xlate h x =>
      firstBad (also (sHeadBad h) [(x.rw == 1 || x.rw == 2, .register)])
  | .hrel h x =>
      firstBad (also (sHeadBad h) [(x.sa == 0 && x.rw == 0, .field)])
  | .fence h x =>
      firstBad (also (sHeadBad h) [(x.sd == 0 && x.sa == 0 && x.imm.extractLsb' 21 17 == 0, .field),
      (scopeOk (x.imm.extractLsb' 16 3), .code), (x.imm.extractLsb' 0 16 != 0, .own)])
  | .wclr h x =>
      firstBad (also (sHeadBad h) [(x.sd == 0 && x.sa == 0 && x.imm.extractLsb' 32 6 == 0, .field),
      (x.imm.extractLsb' 0 32 != 0, .own)])
  | .trap h x =>
      yBad false false false false false false (true) h x
  | .halt h x =>
      yBad false false false false false false (x.imm == 0) h x
  | .tail h x =>
      yBad false true false false false false (x.imm.toNat < 2048) h x
  | .nextTile h x =>
      yBad false false false false false false (x.imm == 0) h x
  | .nextTileTake h x =>
      yBad true false false false false false (x.imm == 1) h x
  | .phase h x =>
      yBad false true false true true false (true) h x
  | .arrive h x =>
      yBad false true false true false false (true) h x
  | .arrivalDeparture _a => none
  | .arrivalDelivery _a => none
  | .phaseLineRaise g p => firstBad [(g < 192, .operand), (p < 8, .operand)]
  | .phaseCompletion g p => firstBad [(g < 192, .operand), (p < 8, .operand)]
  | .cwSet h x =>
      yBad false true false true false false (true) h x
  | .claim h x =>
      yBad true true true true false true (x.imm.toNat < 2048) h x
  | .claimDeparture _c => none
  | .proposalArrival _c => none
  | .claimDecision _c => none
  | .object h x =>
      yBad false true false false false false (x.imm.toNat < 2048) h x
  | .claimRead h x =>
      yBad true true false false false true (2048 ≤ x.imm.toNat) h x
  | .claimReadSample _a => none
  | .subscribe h x =>
      yBad true true false false true true (2048 ≤ x.imm.toNat || x.wf == 0) h x
  | .lapse h x =>
      yBad true true false false false true (x.imm.toNat < 2048) h x
  | .board h x =>
      yBad true true false false true true (2048 ≤ x.imm.toNat || x.wf == 0) h x
  | .alight h x =>
      yBad true true false false false true (x.imm.toNat < 2048) h x
  | .cstat h x =>
      yBad true true false false true true (2048 ≤ x.imm.toNat || x.wf == 0) h x
  | .subscribeAct _r => none
  | .lapseAct _r => none
  | .boardAct _r => none
  | .alightAct _r => none
  | .cstatAct _r => none
  | .vNop h x =>
      firstBad (also (vHeadBad h) [(x == ⟨0, 0, 0, 0, 0, 0, 0⟩ && h.step == 0, .field)])
  | .vadd h x =>
      vecBad fmtA true true true false h x
  | .vsub h x =>
      vecBad fmtA true true true false h x
  | .vmin h x =>
      vecBad fmtA false false true false h x
  | .vmax h x =>
      vecBad fmtA false false true false h x
  | .vmul h x =>
      vecBad fmtA true true true false h x
  | .vabs h x =>
      vecBad fmtA true false false true h x
  | .vneg h x =>
      vecBad fmtA true false false true h x
  | .vand h x =>
      vecBad fmtInt false false true false h x
  | .vor h x =>
      vecBad fmtInt false false true false h x
  | .vxor h x =>
      vecBad fmtInt false false true false h x
  | .vandn h x =>
      vecBad fmtInt false false true false h x
  | .vshl h x =>
      vecBad fmtInt false false true false h x
  | .vshr h x =>
      vecBad fmtInt false false true false h x
  | .vsra h x =>
      vecBad fmtSigned false false true false h x
  | .vpopc h x =>
      vecBad fmtInt false false false true h x
  | .vclz h x =>
      vecBad fmtInt false false false true h x
  | .vsel h x =>
      vecBad fmtE false false true false h x
  | .vfma h x =>
      firstBad (also (vHeadBad h) [(vOk x.vd && vOk x.va && vOk x.vb && vOk x.vc, .register), (fmtF x.fmt, .code)])
  | .vfms h x =>
      firstBad (also (vHeadBad h) [(vOk x.vd && vOk x.va && vOk x.vb && vOk x.vc, .register), (fmtF x.fmt, .code)])
  | .vfnma h x =>
      firstBad (also (vHeadBad h) [(vOk x.vd && vOk x.va && vOk x.vb && vOk x.vc, .register), (fmtF x.fmt, .code)])
  | .vaddi h x =>
      immVecBad fmtInt true h x
  | .vandi h x =>
      immVecBad fmtInt true h x
  | .vshli h x =>
      immVecBad fmtInt (x.imm.toNat < fmtWidth x.fmt) h x
  | .vshri h x =>
      immVecBad fmtInt (x.imm.toNat < fmtWidth x.fmt) h x
  | .vsrai h x =>
      immVecBad fmtSigned (x.imm.toNat < fmtWidth x.fmt) h x
  | .vli h x =>
      firstBad (also (vHeadBad h) [(x.rm == 0 && x.va == 0, .field), (vOk x.vd, .register), (fmtA x.fmt, .code)])
  | .vcmp h x =>
      firstBad (also (vHeadBad h) [(x.bc == 0 || x.vb == 0, .field), (mOk x.md && vOk x.va && vOk x.vb, .register),
      (fmtC x.fmt && (x.cc.toNat ≤ 5 || (x.cc == 11 && x.fmt == 6)), .code)])
  | .mand h x =>
      maskBad true true true false false h x
  | .mor h x =>
      maskBad true true true false false h x
  | .mxor h x =>
      maskBad true true true false false h x
  | .mandn h x =>
      maskBad true true true false false h x
  | .mnot h x =>
      maskBad true true false false false h x
  | .mlead h x =>
      maskBad true false false false true h x
  | .many h x =>
      firstBad (also (vHeadBad h) [(x.md == 0 && x.mb == 0 && x.imm == 0 && x.sd.toNat < 8, .field), (mOk x.ma, .register)])
  | .mall h x =>
      firstBad (also (vHeadBad h) [(x.md == 0 && x.mb == 0 && x.imm == 0 && x.sd.toNat < 8, .field), (mOk x.ma, .register)])
  | .mpop h x =>
      maskBad false true false true false h x
  | .mfirst h x =>
      maskBad false true false true false h x
  | .vcvt h x =>
      vcvtBad h x
  | .vquant h x =>
      firstBad (also (vHeadBad h) [(x.rm == 0, .field), (vOk x.vd && vOk x.vs, .register), (fmtBlock x.fmt, .code),
      (candOk x.fmt x.cand, .own)])
  | .vdeq h x =>
      firstBad (also (vHeadBad h) [(x.cand.extractLsb' 4 4 == 0, .field), (vOk x.vd && vOk x.vs, .register),
      (fmtF x.fmt && fmtBlock (x.cand.extractLsb' 0 4), .code)])
  | .vlscv h x =>
      immVecBad fmtF (winOk x.imm) h x
  | .vlsadd h x =>
      vecBad (· == 14) false false false false h x
  | .vlsout h x =>
      firstBad (also (vHeadBad h) [(vOk x.vd && vOk x.va, .register), (fmtF x.fmt, .code), (winOk x.imm, .own)])
  | .vrsum h x =>
      vecBad fmtA true true false true h x
  | .vrmax h x =>
      vecBad fmtA false false false true h x
  | .vrmin h x =>
      vecBad fmtA false false false true h x
  | .vperm h x =>
      vecBad fmtE false false true false h x
  | .vzip h x =>
      vecBad fmtE false false false false h x
  | .vunzip h x =>
      vecBad fmtE false false false false h x
  | .vrot h x =>
      immVecBad fmtE (x.imm.toNat < 4096 / fmtWidth x.fmt) h x
  | .vbcast h x =>
      immVecBad fmtE (x.imm.toNat < 4096 / fmtWidth x.fmt) h x
  | .vexp2 h x =>
      vecBad fmtF false true false true h x
  | .vlog2 h x =>
      vecBad fmtF false true false true h x
  | .vrcp h x =>
      vecBad fmtF false true false true h x
  | .vrsq h x =>
      vecBad fmtF false true false true h x
  | .vtanh h x =>
      vecBad fmtF false true false true h x
  | .vcx h x =>
      vcxBad h x
  | .vtwr h x =>
      firstBad (also (vHeadBad h) [(x.rm == 0 || fmtFloat x.tfmt || fmtFloat x.vfmt, .field), (vOk x.v, .register),
      (fmtE x.tfmt && fmtE x.vfmt, .code)])
  | .vtrd h x =>
      firstBad (also (vHeadBad h) [(x.rm == 0 || fmtFloat x.tfmt || fmtFloat x.vfmt, .field), (vOk x.v, .register),
      (fmtE x.tfmt && fmtE x.vfmt, .code), (x.idx.toNat < 1024 / fmtWidth x.tfmt, .own)])
  | .mNop h x =>
      firstBad (also (mHeadBad h) [(x == ⟨0, 0, 0⟩ && h.step == 0, .field)])
  | .mcall h _ =>
      firstBad (mHeadBad h)
  | .routineStart g => firstBad [(g < 192, .operand)]
  | .routineLanding g => firstBad [(g < 192, .operand)]
  | .mzero h x =>
      firstBad (also (mHeadBad h) [(x.rout == 0 && x.bc == 0, .field)])
  | .mdrain h x =>
      firstBad (also (mHeadBad h) [(vOk x.vd, .register)])
  | .kNop h x =>
      firstBad (also (kHeadBad h) [(x == ⟨0, 0, 0, 0, 0, 0, 0, 0⟩ && h.step == 0, .field)])
  | .kldh h x =>
      firstBad (also (kHeadBad h) [(x.bc == 0 || x.so == 0, .field)])
  | .ksth h x =>
      firstBad (also (kHeadBad h) [((x.bc == 0 || x.so == 0) && x.arr == 0, .field)])
  | .kmvv h x =>
      firstBad (also (kHeadBad h) [(x.za == 0 && x.tb == 0, .field), (vOk x.v, .register)])
  | .kmvz h x =>
      firstBad (also (kHeadBad h) [(x.zd == 0 && x.tb == 0, .field), (vOk x.v, .register)])
  | .kmov h x =>
      firstBad (also (kHeadBad h) [(x.zd == 0 && x.v == 0 && x.tb == 0, .field)])
  | .kltl h x =>
      firstBad (also (kHeadBad h) [(x.zd == 0 && x.za == 0, .field), (vOk x.v, .register)])
  | .cNop h x =>
      firstBad (also (cHeadBad h) [(x == ⟨0, 0, 0, 0, 0, 0, 0⟩ && h.step == 0, .field)])
  | .ldVector h x =>
      firstBad (also (cHeadBad h) [(vOk x.d, .register), (ordOk x.ord, .code)])
  | .stVector h x =>
      firstBad (also (cHeadBad h) [(vOk x.d, .register), (ordOk x.ord && (mOk x.lm || x.lm == 15), .code)])
  | .ldTile h x =>
      firstBad (also (cHeadBad h) [(x.d.toNat < 8, .field), (ordOk x.ord, .code)])
  | .stTile h x =>
      firstBad (also (cHeadBad h) [(x.d.toNat < 8, .field), (ordOk x.ord && x.lm == 15, .code)])
  | .ldScalar _k h x =>
      firstBad (also (cHeadBad h) [(x.d.toNat < 64, .field), (ordOk x.ord, .code)])
  | .stScalar _k h x =>
      firstBad (also (cHeadBad h) [(x.d.toNat < 64, .field), (ordOk x.ord && x.lm == 15, .code)])
  | .cpy h x =>
      copyBad true h x
  | .cpyc h x =>
      copyBad true h x
  | .cpyq h x =>
      copyBad (x.bfd != 31) h x
  | .cpyx h x =>
      copyBad (x.bfs != 31) h x
  | .cpyz h x =>
      copyBad (x.bfs != 31) h x
  | .wbld h x =>
      if x.bfd == 0 then copyBad true h x else some .field
  | .gath h x =>
      copyBad (x.bfs != 31) h x
  | .scat h x =>
      copyBad (x.bfd != 31) h x
  | .mcast h x =>
      copyBad true h x
  | .cfence h x =>
      copyFenceBad h x
  | .cacq h x =>
      copyFenceBad h x
  | .crel h x =>
      copyFenceBad h x
  | .ctld h x =>
      firstBad (also (cHeadNoStepBad h) [((x.wfe == 1 || x.wf == 0) && x.cmask == 0 && x.scope == 0, .field)])
  | .copyCommandStart g e => firstBad [(g < 192, .operand), (e < 2, .operand)]
  | .copyElement g e => firstBad [(g < 192, .operand), (e < 2, .operand)]
  | .copyCommandComplete g e => firstBad [(g < 192, .operand), (e < 2, .operand)]
  | .send h x =>
      firstBad (also (cHeadBad h) [(x.arr == 0, .field), (vOk x.v, .register)])
  | .recv h x =>
      firstBad (also (cHeadBad h) [(vOk x.v, .register)])
  | .circuitDeparture _m => none
  | .circuitArrival _m => none
  | .aadd h x =>
      atomicBad false h x
  | .aand h x =>
      atomicBad false h x
  | .aor h x =>
      atomicBad false h x
  | .axor h x =>
      atomicBad false h x
  | .amin h x =>
      atomicBad false h x
  | .amax h x =>
      atomicBad false h x
  | .axchg h x =>
      atomicBad false h x
  | .acas h x =>
      atomicBad true h x
  | .atomicExecute _a => none
  | .accessPerform _a _i => none
  | .writeAcknowledge _a => none
  | .sourceInterfaceRelease _a => none
  | .hbmRequestSend _a => none
  | .segmentLineDelivered g fr line => firstBad [(g < 192, .operand), (fr < 4, .operand), (line < 1024, .operand)]
  | .handleValid g h => firstBad [(g < 192, .operand), (h < 16, .operand)]
  | .translationCacheMiss g h => firstBad [(g < 192, .operand), (h < 16, .operand)]
  | .translationWalkEnd g h => firstBad [(g < 192, .operand), (h < 16, .operand)]
  | .placementRestart _l => none
  | .dataErrorDetected g => firstBad [(g < 192, .operand)]
  | .rollbackRerunEnd g => firstBad [(g < 192, .operand)]
  | .launchStart _l => none
  | .launchRetirement _l => none
  | .portalDmwr fn _page _size _off _packet => firstBad [(fn < 64, .operand)]
  | .portalMisuse fn _page _write => firstBad [(fn < 64, .operand)]
  | .slotPoll sl => firstBad [(sl < 1024, .operand)]
  | .saveComplete _l => none
  | .shootdownReachCore _sd g => firstBad [(g < 192, .operand)]
  | .shootdownComplete _sd => none
  | .registerWrite fn bar _off _val => firstBad [(fn < 64, .operand), (bar < 5, .operand)]
  | .streamStop e => firstBad [(e < 65536, .operand)]
  | .streamFetch e _sq => firstBad [(e < 65536, .operand)]
  | .deepTierReadStart e _sq => firstBad [(e < 65536, .operand)]
  | .deepTierReadEnd e _sq _bad => firstBad [(e < 65536, .operand)]
  | .streamTileComplete g e _sq => firstBad [(g < 192, .operand), (e < 65536, .operand)]
  | .streamSlotWrite g e _sq => firstBad [(g < 192, .operand), (e < 65536, .operand)]
  | .tsvGroupFailed _ch grp => firstBad [(grp < 20, .operand)]
  | .sparingSweepLine _ch _line => none
  | .refreshPlanWrite _ch _hot _release => none
  | .refreshTakeover _ch => none
  | .blockReencryptionComplete _blk => none
  | .spareBringIn _u => none
  | .spareThreshold _u => none
  | .shepherdCoreFailure die i => firstBad [(die < 2, .operand), (i < 8, .operand)]
  | .fatalError cause die => firstBad [(cause < 6, .operand), (die < 2, .operand)]
  | .thermalEvent _deg die => firstBad [(die < 2, .operand)]
  | .flr fn => firstBad [(fn < 64, .operand)]
  | .flrQuiesce fn => firstBad [(fn < 64, .operand)]
  | .flrComplete fn => firstBad [(fn < 64, .operand)]
  | .flitReceive l _flit => firstBad [(l < 24, .operand)]
  | .laneFailed l lane => firstBad [(l < 24, .operand), (lane < 5, .operand)]
  | .laneSpareSwitch l => firstBad [(l < 24, .operand)]
  | .linkDown l _reason => firstBad [(l < 24, .operand)]
  | .linkSilenceTimeout l => firstBad [(l < 24, .operand)]
  | .hostTermination _l => none
  | .bankCopyComplete hive bank => firstBad [(hive < 24, .operand), (bank < 32, .operand)]
  | .frameStart => none
  | .admissionPass => none
  | .rampSlotBoundary => none
  | .doorbell => none
  | .qreset => none
  | .resumeRetry => none
  | .resumeRetranslate => none
  | .resumeSkip => none
  | .resumeClearPrt => none
  | .resumeTerminate => none
  | .shootN => none
  | .frHead => none
  | .execCmd => none
  | .qcreate => none
  | .qdestroy => none
  | .shoot2 => none
  | .shootF => none
  | .rekey => none
  | .create => none
  | .cost => none
  | .rights => none
  | .replica => none
  | .schedule => none
  | .stop => none
  | .replace => none
  | .loadDeep => none
  | .fwStage => none
  | .fwCommit => none
  | .devReset => none
  | .attest => none
  | .hrBase => none
  | .periodBoundary => none
  | .powerGood => none
  | .spare => none
  | .spareAck => none
  | .align => none
  | .alignAck => none
  | .down => none
  | .linkRead => none
  | .linkWrite => none
  | .linkAtomic => none
  | .readReply => none
  | .writeAcknowledgment => none
  | .atomicReply => none
  | .linkScheduleActivate => none
  | .dieLinkLost => none
  | .flitTime => none
  | .commandDone => none

/-- A well-formed step: no check of its encoding or its ranges fails. -/
def wellFormed (i : Instr) : Bool := i.bad.isNone

end Sys2Proof
end

