-- ==== Sys2Proof/Decode.lean ====
section
/-!
DEFINITION. Decoding: the fields of a bundle header (R85) and of a syllable (R92, R101 to R104), the opcode maps of
R106, the rejection of every encoding that is not an instruction (R109), and the encoder written from the same tables.
-/
namespace Sys2Proof

/-- A field of a 64-bit word: bits [lo + n − 1 : lo]. -/
def bits (w : Word) (lo n : Nat) : BitVec n := w.extractLsb' lo n

/-! ## Format bodies -/

/-- The fields of a body of format A. -/
def readA (w : Word) : FmtA :=
  ⟨bits w 44 6, bits w 38 6, bits w 32 6, bits w 29 3⟩

/-- The 50-bit body of format A. -/
def bodyA (x : FmtA) : BitVec 50 :=
  x.sd ++ x.sa ++ x.sb ++ x.fx ++ 0#29

/-- The fields of a body of format I. -/
def readI (w : Word) : FmtI :=
  ⟨bits w 44 6, bits w 38 6, bits w 0 38⟩

/-- The 50-bit body of format I. -/
def bodyI (x : FmtI) : BitVec 50 :=
  x.sd ++ x.sa ++ x.imm

/-- The fields of a body of format C. -/
def readC (w : Word) : FmtC :=
  ⟨bits w 47 3, bits w 41 6, bits w 35 6, bits w 31 4, bits w 30 1, bits w 0 30⟩

/-- The 50-bit body of format C. -/
def bodyC (x : FmtC) : BitVec 50 :=
  x.fd ++ x.sa ++ x.sb ++ x.cc ++ x.im ++ x.imm

/-- The fields of a body of format X. -/
def readX (w : Word) : FmtX :=
  ⟨bits w 44 6, bits w 38 6, bits w 26 12⟩

/-- The 50-bit body of format X. -/
def bodyX (x : FmtX) : BitVec 50 :=
  x.s ++ x.sa ++ x.idx ++ 0#26

/-- The fields of a body of format B. -/
def readB (w : Word) : FmtB :=
  ⟨bits w 47 3, bits w 41 6, bits w 17 24⟩

/-- The 50-bit body of format B. -/
def bodyB (x : FmtB) : BitVec 50 :=
  x.n ++ x.sa ++ x.addr ++ 0#17

/-- The fields of a body of format H. -/
def readH (w : Word) : FmtH :=
  ⟨bits w 46 4, bits w 40 6, bits w 38 2⟩

/-- The 50-bit body of format H. -/
def bodyH (x : FmtH) : BitVec 50 :=
  x.hn ++ x.sa ++ x.rw ++ 0#38

/-- The fields of a body of format Y. -/
def readY (w : Word) : FmtY :=
  ⟨bits w 44 6, bits w 38 6, bits w 32 6, bits w 29 3, bits w 24 5, bits w 12 12, bits w 0 12⟩

/-- The 50-bit body of format Y. -/
def bodyY (x : FmtY) : BitVec 50 :=
  x.sd ++ x.sa ++ x.sb ++ x.n ++ x.wf ++ x.arr ++ x.imm

/-- The fields of a body of format V. -/
def readV (w : Word) : FmtV :=
  ⟨bits w 46 4, bits w 36 10, bits w 26 10, bits w 16 10, bits w 15 1, bits w 13 2, bits w 12 1⟩

/-- The 50-bit body of format V. -/
def bodyV (x : FmtV) (step : BitVec 4) : BitVec 50 :=
  x.fmt ++ x.vd ++ x.va ++ x.vb ++ x.bc ++ x.rm ++ x.sat ++ step ++ 0#8

/-- The fields of a body of format W. -/
def readW (w : Word) : FmtW :=
  ⟨bits w 46 4, bits w 36 10, bits w 26 10, bits w 16 10, bits w 6 10, bits w 4 2⟩

/-- The 50-bit body of format W. -/
def bodyW (x : FmtW) (step : BitVec 4) : BitVec 50 :=
  x.fmt ++ x.vd ++ x.va ++ x.vb ++ x.vc ++ x.rm ++ step

/-- The fields of a body of format J. -/
def readJ (w : Word) : FmtJ :=
  ⟨bits w 46 4, bits w 36 10, bits w 26 10, bits w 10 16, bits w 8 2⟩

/-- The 50-bit body of format J. -/
def bodyJ (x : FmtJ) (step : BitVec 4) : BitVec 50 :=
  x.fmt ++ x.vd ++ x.va ++ x.imm ++ x.rm ++ step ++ 0#4

/-- The fields of a body of format P. -/
def readP (w : Word) : FmtP :=
  ⟨bits w 46 4, bits w 42 4, bits w 32 10, bits w 22 10, bits w 21 1, bits w 17 4⟩

/-- The 50-bit body of format P. -/
def bodyP (x : FmtP) (step : BitVec 4) : BitVec 50 :=
  x.fmt ++ x.md ++ x.va ++ x.vb ++ x.bc ++ x.cc ++ step ++ 0#13

/-- The fields of a body of format Q. -/
def readQ (w : Word) : FmtQ :=
  ⟨bits w 46 4, bits w 42 4, bits w 38 4, bits w 32 6, bits w 24 8⟩

/-- The 50-bit body of format Q. -/
def bodyQ (x : FmtQ) (step : BitVec 4) : BitVec 50 :=
  x.md ++ x.ma ++ x.mb ++ x.sd ++ x.imm ++ step ++ 0#20

/-- The fields of a body of format G. -/
def readG (w : Word) : FmtG :=
  ⟨bits w 46 4, bits w 36 10, bits w 31 5, bits w 21 10, bits w 13 8, bits w 11 2⟩

/-- The 50-bit body of format G. -/
def bodyG (x : FmtG) (step : BitVec 4) : BitVec 50 :=
  x.fmt ++ x.vd ++ x.z ++ x.vs ++ x.cand ++ x.rm ++ step ++ 0#7

/-- The fields of a body of format T. -/
def readT (w : Word) : FmtT :=
  ⟨bits w 46 4, bits w 43 3, bits w 36 7, bits w 26 10, bits w 22 4, bits w 20 2⟩

/-- The 50-bit body of format T. -/
def bodyT (x : FmtT) (step : BitVec 4) : BitVec 50 :=
  x.tfmt ++ x.t ++ x.idx ++ x.v ++ x.vfmt ++ x.rm ++ step ++ 0#16

/-- The fields of a body of format M. -/
def readM (w : Word) : FmtM :=
  ⟨bits w 42 8, bits w 40 2, bits w 39 1⟩

/-- The 50-bit body of format M. -/
def bodyM (x : FmtM) (step : BitVec 4) : BitVec 50 :=
  x.rout ++ x.acc ++ x.bc ++ step ++ 0#35

/-- The fields of a body of format D. -/
def readD (w : Word) : FmtD :=
  ⟨bits w 48 2, bits w 41 7, bits w 31 10, bits w 26 5, bits w 23 3⟩

/-- The 50-bit body of format D. -/
def bodyD (x : FmtD) (step : BitVec 4) : BitVec 50 :=
  x.acc ++ x.row ++ x.vd ++ x.zq ++ x.ap ++ step ++ 0#19

/-- The fields of a body of format K. -/
def readK (w : Word) : FmtK :=
  ⟨bits w 45 5, bits w 40 5, bits w 34 6, bits w 33 1, bits w 26 7, bits w 22 4, bits w 14 8, bits w 0 10⟩

/-- The 50-bit body of format K. -/
def bodyK (x : FmtK) (step : BitVec 4) : BitVec 50 :=
  x.z ++ x.bf ++ x.so ++ x.bc ++ x.imm ++ x.cls ++ x.cnt ++ step ++ x.arr

/-- The fields of a body of format Z. -/
def readZ (w : Word) : FmtZ :=
  ⟨bits w 45 5, bits w 40 5, bits w 30 10, bits w 29 1⟩

/-- The 50-bit body of format Z. -/
def bodyZ (x : FmtZ) (step : BitVec 4) : BitVec 50 :=
  x.zd ++ x.za ++ x.v ++ x.tb ++ step ++ 0#25

/-- The fields of a body of format L. -/
def readL (w : Word) : FmtL :=
  ⟨bits w 40 10, bits w 35 5, bits w 29 6, bits w 22 7, bits w 18 4, bits w 15 3, bits w 0 11⟩

/-- The 50-bit body of format L. -/
def bodyL (x : FmtL) (step : BitVec 4) : BitVec 50 :=
  x.d ++ x.bf ++ x.so ++ x.imm ++ x.cls ++ x.ord ++ step ++ x.arr

/-- The fields of a body of format E. -/
def readE (w : Word) : FmtE :=
  ⟨bits w 40 10, bits w 35 5, bits w 29 6, bits w 15 14, bits w 11 4, bits w 8 3, bits w 4 4⟩

/-- The 50-bit body of format E. -/
def bodyE (x : FmtE) (step : BitVec 4) : BitVec 50 :=
  x.d ++ x.bf ++ x.so ++ x.imm ++ x.cls ++ x.ord ++ x.lm ++ step

/-- The fields of a body of format N. -/
def readN (w : Word) : FmtN :=
  ⟨bits w 45 5, bits w 40 5, bits w 29 11, bits w 25 4, bits w 24 1, bits w 23 1, bits w 20 3, bits w 19 1, bits w 14 5⟩

/-- The 50-bit body of format N. -/
def bodyN (x : FmtN) (step : BitVec 4) : BitVec 50 :=
  x.bfs ++ x.bfd ++ x.dsc ++ x.cls ++ x.acq ++ x.rel ++ x.scope ++ x.wfe ++ x.wf ++ step ++ 0#10

/-- The fields of a body of format O. -/
def readO (w : Word) : FmtO :=
  ⟨bits w 40 10, bits w 32 8, bits w 21 11⟩

/-- The 50-bit body of format O. -/
def bodyO (x : FmtO) (step : BitVec 4) : BitVec 50 :=
  x.v ++ x.pair ++ x.arr ++ step ++ 0#17

/-- The fields of a body of format U. -/
def readU (w : Word) : FmtU :=
  ⟨bits w 44 6, bits w 38 6, bits w 32 6, bits w 27 5, bits w 21 6, bits w 17 4, bits w 14 3, bits w 3 11⟩

/-- The 50-bit body of format U. -/
def bodyU (x : FmtU) : BitVec 50 :=
  x.sd ++ x.sa ++ x.sb ++ x.bf ++ x.so ++ x.cls ++ x.ord ++ x.arr ++ 0#3

/-- The fields of a body of format F. -/
def readF (w : Word) : FmtF :=
  ⟨bits w 34 16, bits w 31 3, bits w 30 1, bits w 25 5, bits w 20 5, bits w 14 6, bits w 13 1⟩

/-- The 50-bit body of format F. -/
def bodyF (x : FmtF) : BitVec 50 :=
  x.cmask ++ x.scope ++ x.wfe ++ x.wf ++ x.bf ++ x.so ++ x.bft ++ 0#13

/-! ## Headers -/

/-- The fields of a bundle header (R85). -/
structure Header where
  pres : BitVec 7
  rep : BitVec 6
  xe : BitVec 1
  xt : BitVec 3
  xn : BitVec 1
  xc : BitVec 5
  we : BitVec 1
  wf : BitVec 5
  wp : BitVec 1
  be : BitVec 1
  bs : BitVec 6
  seg : BitVec 1
  ckp : BitVec 1
  rest : BitVec 25
deriving DecidableEq, Repr

/-- The fields of a header word (R85). -/
def readHeader (w : Word) : Header :=
  { pres := bits w 57 7, rep := bits w 51 6, xe := bits w 50 1, xt := bits w 47 3, xn := bits w 46 1,
    xc := bits w 41 5, we := bits w 40 1, wf := bits w 35 5, wp := bits w 34 1, be := bits w 33 1,
    bs := bits w 27 6, seg := bits w 26 1, ckp := bits w 25 1, rest := bits w 0 25 }

/-- The header word of a header's fields (R85). -/
def headerWord (h : Header) : Word :=
  h.pres ++ h.rep ++ h.xe ++ h.xt ++ h.xn ++ h.xc ++ h.we ++ h.wf ++ h.wp ++ h.be ++ h.bs ++ h.seg ++ h.ckp ++ h.rest

/-- The slots that a presence mask names, in the order of R83. -/
def presentSlots (p : BitVec 7) : List Slot :=
  (if p.getLsbD 6 then [.s] else []) ++ (if p.getLsbD 5 then [.v0] else []) ++
  (if p.getLsbD 4 then [.v1] else []) ++ (if p.getLsbD 3 then [.m] else []) ++
  (if p.getLsbD 2 then [.k] else []) ++ (if p.getLsbD 1 then [.c0] else []) ++
  (if p.getLsbD 0 then [.c1] else [])

/-- The row of R109 that a header alone fails, in the order of its rows; none for a legal header. -/
def headerBad (h : Header) : Option Nat :=
  if h.rest != 0 then some 1
  else if 20 ≤ h.xc.toNat || (h.xe == 1 && h.xc == 7 && h.xn == 1) then some 2
  else if (h.xe == 0 && (h.xt != 0 || h.xn != 0 || h.xc != 0)) || (h.we == 0 && (h.wf != 0 || h.wp != 0)) ||
      (h.be == 0 && h.bs != 0) then some 3
  else none

/-! ## Syllables -/

/-- The head of an S syllable (R92). -/
def readSHead (w : Word) : SHead := ⟨bits w 51 4, bits w 50 1⟩

/-- The head of a syllable of another class, its STEP field at bit `lo` of the body. -/
def readHead (slot : Slot) (lo : Nat) (w : Word) : Head :=
  ⟨slot, bits w 55 1, bits w 51 4, bits w 50 1, bits w lo 4, 0, 0⟩

/-- The head of a syllable whose format has no STEP field. -/
def readHeadNoStep (slot : Slot) (w : Word) : Head :=
  ⟨slot, bits w 55 1, bits w 51 4, bits w 50 1, 0, 0, 0⟩

/-- A syllable word from its opcode, stick bit, predicate and body (R92). -/
def syllable (op : BitVec 8) (stk : BitVec 1) (prd : BitVec 4) (pn : BitVec 1) (body : BitVec 50) : Word :=
  op ++ stk ++ prd ++ pn ++ body

/-- The reserved bits of format A are zero (R98). -/
def reservedA (w : Word) : Bool := bits w 0 29 == 0

/-- The reserved bits of format I are zero (R98). -/
def reservedI (_w : Word) : Bool := true

/-- The reserved bits of format C are zero (R98). -/
def reservedC (_w : Word) : Bool := true

/-- The reserved bits of format X are zero (R98). -/
def reservedX (w : Word) : Bool := bits w 0 26 == 0

/-- The reserved bits of format B are zero (R98). -/
def reservedB (w : Word) : Bool := bits w 0 17 == 0

/-- The reserved bits of format H are zero (R98). -/
def reservedH (w : Word) : Bool := bits w 0 38 == 0

/-- The reserved bits of format Y are zero (R98). -/
def reservedY (_w : Word) : Bool := true

/-- The reserved bits of format V are zero (R98). -/
def reservedV (w : Word) : Bool := bits w 0 8 == 0

/-- The reserved bits of format W are zero (R98). -/
def reservedW (_w : Word) : Bool := true

/-- The reserved bits of format J are zero (R98). -/
def reservedJ (w : Word) : Bool := bits w 0 4 == 0

/-- The reserved bits of format P are zero (R98). -/
def reservedP (w : Word) : Bool := bits w 0 13 == 0

/-- The reserved bits of format Q are zero (R98). -/
def reservedQ (w : Word) : Bool := bits w 0 20 == 0

/-- The reserved bits of format G are zero (R98). -/
def reservedG (w : Word) : Bool := bits w 0 7 == 0

/-- The reserved bits of format T are zero (R98). -/
def reservedT (w : Word) : Bool := bits w 0 16 == 0

/-- The reserved bits of format M are zero (R98). -/
def reservedM (w : Word) : Bool := bits w 0 35 == 0

/-- The reserved bits of format D are zero (R98). -/
def reservedD (w : Word) : Bool := bits w 0 19 == 0

/-- The reserved bits of format K are zero (R98). -/
def reservedK (_w : Word) : Bool := true

/-- The reserved bits of format Z are zero (R98). -/
def reservedZ (w : Word) : Bool := bits w 0 25 == 0

/-- The reserved bits of format L are zero (R98). -/
def reservedL (_w : Word) : Bool := true

/-- The reserved bits of format E are zero (R98). -/
def reservedE (_w : Word) : Bool := true

/-- The reserved bits of format N are zero (R98). -/
def reservedN (w : Word) : Bool := bits w 0 10 == 0

/-- The reserved bits of format O are zero (R98). -/
def reservedO (w : Word) : Bool := bits w 0 17 == 0

/-- The reserved bits of format U are zero (R98). -/
def reservedU (w : Word) : Bool := bits w 0 3 == 0

/-- The reserved bits of format F are zero (R98). -/
def reservedF (w : Word) : Bool := bits w 0 13 == 0

/-- The S-class map of R106: the instruction that an opcode and its fields give, and whether the format's reserved bits
are zero; none for an unassigned opcode. -/
def readSClass (w : Word) : Option (Instr × Bool) :=
  match (bits w 56 8).toNat with
  | 0x00 => some (.sNop (readSHead w) (readA w), reservedA w)
  | 0x01 => some (.add (readSHead w) (readA w), reservedA w)
  | 0x02 => some (.sub (readSHead w) (readA w), reservedA w)
  | 0x03 => some (.and (readSHead w) (readA w), reservedA w)
  | 0x04 => some (.or (readSHead w) (readA w), reservedA w)
  | 0x05 => some (.xor (readSHead w) (readA w), reservedA w)
  | 0x06 => some (.andn (readSHead w) (readA w), reservedA w)
  | 0x07 => some (.shl (readSHead w) (readA w), reservedA w)
  | 0x08 => some (.shr (readSHead w) (readA w), reservedA w)
  | 0x09 => some (.sra (readSHead w) (readA w), reservedA w)
  | 0x0A => some (.min (readSHead w) (readA w), reservedA w)
  | 0x0B => some (.max (readSHead w) (readA w), reservedA w)
  | 0x0C => some (.minu (readSHead w) (readA w), reservedA w)
  | 0x0D => some (.maxu (readSHead w) (readA w), reservedA w)
  | 0x0E => some (.addS (readSHead w) (readA w), reservedA w)
  | 0x0F => some (.subS (readSHead w) (readA w), reservedA w)
  | 0x10 => some (.mul (readSHead w) (readA w), reservedA w)
  | 0x11 => some (.mulh (readSHead w) (readA w), reservedA w)
  | 0x12 => some (.mulhu (readSHead w) (readA w), reservedA w)
  | 0x13 => some (.popc (readSHead w) (readA w), reservedA w)
  | 0x14 => some (.clz (readSHead w) (readA w), reservedA w)
  | 0x15 => some (.ctz (readSHead w) (readA w), reservedA w)
  | 0x16 => some (.div (readSHead w) (readA w), reservedA w)
  | 0x17 => some (.divu (readSHead w) (readA w), reservedA w)
  | 0x18 => some (.rem (readSHead w) (readA w), reservedA w)
  | 0x19 => some (.remu (readSHead w) (readA w), reservedA w)
  | 0x1A => some (.sel (readSHead w) (readA w), reservedA w)
  | 0x20 => some (.addi (readSHead w) (readI w), reservedI w)
  | 0x21 => some (.andi (readSHead w) (readI w), reservedI w)
  | 0x22 => some (.ori (readSHead w) (readI w), reservedI w)
  | 0x23 => some (.xori (readSHead w) (readI w), reservedI w)
  | 0x24 => some (.shli (readSHead w) (readI w), reservedI w)
  | 0x25 => some (.shri (readSHead w) (readI w), reservedI w)
  | 0x26 => some (.srai (readSHead w) (readI w), reservedI w)
  | 0x27 => some (.muli (readSHead w) (readI w), reservedI w)
  | 0x28 => some (.liu (readSHead w) (readI w), reservedI w)
  | 0x30 => some (.cmp (readSHead w) (readC w), reservedC w)
  | 0x31 => some (.flagAnd (readSHead w) (readC w), reservedC w)
  | 0x32 => some (.flagOr (readSHead w) (readC w), reservedC w)
  | 0x33 => some (.flagXor (readSHead w) (readC w), reservedC w)
  | 0x34 => some (.flagAndn (readSHead w) (readC w), reservedC w)
  | 0x38 => some (.spld (readSHead w) (readX w), reservedX w)
  | 0x39 => some (.spst (readSHead w) (readX w), reservedX w)
  | 0x3A => some (.csrr (readSHead w) (readX w), reservedX w)
  | 0x3B => some (.csrw (readSHead w) (readX w), reservedX w)
  | 0x40 => some (.prep (readSHead w) (readB w), reservedB w)
  | 0x41 => some (.loop (readSHead w) (readB w), reservedB w)
  | 0x42 => some (.endLoop (readSHead w) (readB w), reservedB w)
  | 0x48 => some (.xlate (readSHead w) (readH w), reservedH w)
  | 0x49 => some (.hrel (readSHead w) (readH w), reservedH w)
  | 0x50 => some (.fence (readSHead w) (readI w), reservedI w)
  | 0x51 => some (.wclr (readSHead w) (readI w), reservedI w)
  | 0x58 => some (.trap (readSHead w) (readY w), reservedY w)
  | 0x59 => some (.halt (readSHead w) (readY w), reservedY w)
  | 0x5A => some (.tail (readSHead w) (readY w), reservedY w)
  | 0x5B => some (if (readY w).imm.getLsbD 0 then .nextTileTake (readSHead w) (readY w) else .nextTile (readSHead w) (readY w), reservedY w)
  | 0x60 => some (.phase (readSHead w) (readY w), reservedY w)
  | 0x61 => some (.arrive (readSHead w) (readY w), reservedY w)
  | 0x68 => some (if (readY w).imm.getLsbD 11 then .claimRead (readSHead w) (readY w) else .claim (readSHead w) (readY w), reservedY w)
  | 0x69 => some (.object (readSHead w) (readY w), reservedY w)
  | 0x6A => some (.cwSet (readSHead w) (readY w), reservedY w)
  | 0x70 => some (.subscribe (readSHead w) (readY w), reservedY w)
  | 0x71 => some (.lapse (readSHead w) (readY w), reservedY w)
  | 0x72 => some (.board (readSHead w) (readY w), reservedY w)
  | 0x73 => some (.alight (readSHead w) (readY w), reservedY w)
  | 0x74 => some (.cstat (readSHead w) (readY w), reservedY w)
  | _ => none

/-- The V-class map of R106: the instruction that an opcode and its fields give, and whether the format's reserved bits
are zero; none for an unassigned opcode. -/
def readVClass (sl : Slot) (w : Word) : Option (Instr × Bool) :=
  match (bits w 56 8).toNat with
  | 0x00 => some (.vNop (readHead sl 8 w) (readV w), reservedV w)
  | 0x01 => some (.vadd (readHead sl 8 w) (readV w), reservedV w)
  | 0x02 => some (.vsub (readHead sl 8 w) (readV w), reservedV w)
  | 0x03 => some (.vmin (readHead sl 8 w) (readV w), reservedV w)
  | 0x04 => some (.vmax (readHead sl 8 w) (readV w), reservedV w)
  | 0x05 => some (.vmul (readHead sl 8 w) (readV w), reservedV w)
  | 0x06 => some (.vabs (readHead sl 8 w) (readV w), reservedV w)
  | 0x07 => some (.vneg (readHead sl 8 w) (readV w), reservedV w)
  | 0x08 => some (.vand (readHead sl 8 w) (readV w), reservedV w)
  | 0x09 => some (.vor (readHead sl 8 w) (readV w), reservedV w)
  | 0x0A => some (.vxor (readHead sl 8 w) (readV w), reservedV w)
  | 0x0B => some (.vandn (readHead sl 8 w) (readV w), reservedV w)
  | 0x0C => some (.vshl (readHead sl 8 w) (readV w), reservedV w)
  | 0x0D => some (.vshr (readHead sl 8 w) (readV w), reservedV w)
  | 0x0E => some (.vsra (readHead sl 8 w) (readV w), reservedV w)
  | 0x0F => some (.vpopc (readHead sl 8 w) (readV w), reservedV w)
  | 0x10 => some (.vclz (readHead sl 8 w) (readV w), reservedV w)
  | 0x11 => some (.vsel (readHead sl 8 w) (readV w), reservedV w)
  | 0x14 => some (.vfma (readHead sl 0 w) (readW w), reservedW w)
  | 0x15 => some (.vfms (readHead sl 0 w) (readW w), reservedW w)
  | 0x16 => some (.vfnma (readHead sl 0 w) (readW w), reservedW w)
  | 0x18 => some (.vaddi (readHead sl 4 w) (readJ w), reservedJ w)
  | 0x19 => some (.vandi (readHead sl 4 w) (readJ w), reservedJ w)
  | 0x1A => some (.vshli (readHead sl 4 w) (readJ w), reservedJ w)
  | 0x1B => some (.vshri (readHead sl 4 w) (readJ w), reservedJ w)
  | 0x1C => some (.vsrai (readHead sl 4 w) (readJ w), reservedJ w)
  | 0x1D => some (.vli (readHead sl 4 w) (readJ w), reservedJ w)
  | 0x20 => some (.vcmp (readHead sl 13 w) (readP w), reservedP w)
  | 0x28 => some (.mand (readHead sl 20 w) (readQ w), reservedQ w)
  | 0x29 => some (.mor (readHead sl 20 w) (readQ w), reservedQ w)
  | 0x2A => some (.mxor (readHead sl 20 w) (readQ w), reservedQ w)
  | 0x2B => some (.mandn (readHead sl 20 w) (readQ w), reservedQ w)
  | 0x2C => some (.mnot (readHead sl 20 w) (readQ w), reservedQ w)
  | 0x2D => some (.mlead (readHead sl 20 w) (readQ w), reservedQ w)
  | 0x2E => some (.many (readHead sl 20 w) (readQ w), reservedQ w)
  | 0x2F => some (.mall (readHead sl 20 w) (readQ w), reservedQ w)
  | 0x30 => some (.mpop (readHead sl 20 w) (readQ w), reservedQ w)
  | 0x31 => some (.mfirst (readHead sl 20 w) (readQ w), reservedQ w)
  | 0x38 => some (.vcvt (readHead sl 4 w) (readJ w), reservedJ w)
  | 0x3A => some (.vquant (readHead sl 7 w) (readG w), reservedG w)
  | 0x3B => some (.vdeq (readHead sl 7 w) (readG w), reservedG w)
  | 0x40 => some (.vlscv (readHead sl 4 w) (readJ w), reservedJ w)
  | 0x41 => some (.vlsadd (readHead sl 8 w) (readV w), reservedV w)
  | 0x42 => some (.vlsout (readHead sl 4 w) (readJ w), reservedJ w)
  | 0x48 => some (.vrsum (readHead sl 8 w) (readV w), reservedV w)
  | 0x49 => some (.vrmax (readHead sl 8 w) (readV w), reservedV w)
  | 0x4A => some (.vrmin (readHead sl 8 w) (readV w), reservedV w)
  | 0x50 => some (.vperm (readHead sl 8 w) (readV w), reservedV w)
  | 0x51 => some (.vzip (readHead sl 8 w) (readV w), reservedV w)
  | 0x52 => some (.vunzip (readHead sl 8 w) (readV w), reservedV w)
  | 0x53 => some (.vrot (readHead sl 4 w) (readJ w), reservedJ w)
  | 0x54 => some (.vbcast (readHead sl 4 w) (readJ w), reservedJ w)
  | 0x58 => some (.vexp2 (readHead sl 8 w) (readV w), reservedV w)
  | 0x59 => some (.vlog2 (readHead sl 8 w) (readV w), reservedV w)
  | 0x5A => some (.vrcp (readHead sl 8 w) (readV w), reservedV w)
  | 0x5B => some (.vrsq (readHead sl 8 w) (readV w), reservedV w)
  | 0x5C => some (.vtanh (readHead sl 8 w) (readV w), reservedV w)
  | 0x60 => some (.vcx (readHead sl 0 w) (readW w), reservedW w)
  | 0x68 => some (.vtwr (readHead sl 16 w) (readT w), reservedT w)
  | 0x69 => some (.vtrd (readHead sl 16 w) (readT w), reservedT w)
  | _ => none

/-- The M-class map of R106: the instruction that an opcode and its fields give, and whether the format's reserved bits
are zero; none for an unassigned opcode. -/
def readMClass (sl : Slot) (w : Word) : Option (Instr × Bool) :=
  match (bits w 56 8).toNat with
  | 0x00 => some (.mNop (readHead sl 35 w) (readM w), reservedM w)
  | 0x01 => some (.mcall (readHead sl 35 w) (readM w), reservedM w)
  | 0x02 => some (.mzero (readHead sl 35 w) (readM w), reservedM w)
  | 0x03 => some (.mdrain (readHead sl 19 w) (readD w), reservedD w)
  | _ => none

/-- The K-class map of R106: the instruction that an opcode and its fields give, and whether the format's reserved bits
are zero; none for an unassigned opcode. -/
def readKClass (sl : Slot) (w : Word) : Option (Instr × Bool) :=
  match (bits w 56 8).toNat with
  | 0x00 => some (.kNop (readHead sl 10 w) (readK w), reservedK w)
  | 0x01 => some (.kldh (readHead sl 10 w) (readK w), reservedK w)
  | 0x02 => some (.ksth (readHead sl 10 w) (readK w), reservedK w)
  | 0x03 => some (.kmvv (readHead sl 25 w) (readZ w), reservedZ w)
  | 0x04 => some (.kmvz (readHead sl 25 w) (readZ w), reservedZ w)
  | 0x05 => some (.kmov (readHead sl 25 w) (readZ w), reservedZ w)
  | 0x06 => some (.kltl (readHead sl 25 w) (readZ w), reservedZ w)
  | _ => none

/-- The copy-class map of R106: the instruction that an opcode and its fields give, and whether the format's reserved bits
are zero; none for an unassigned opcode. -/
def readCClass (sl : Slot) (w : Word) : Option (Instr × Bool) :=
  match (bits w 56 8).toNat with
  | 0x00 => some (.cNop (readHead sl 11 w) (readL w), reservedL w)
  | 0x01 => some (.ldVector (readHead sl 11 w) (readL w), reservedL w)
  | 0x02 => some (.stVector (readHead sl 0 w) (readE w), reservedE w)
  | 0x03 => some (.ldTile (readHead sl 11 w) (readL w), reservedL w)
  | 0x04 => some (.stTile (readHead sl 0 w) (readE w), reservedE w)
  | 0x08 => some (.ldScalar .i8 (readHead sl 11 w) (readL w), reservedL w)
  | 0x09 => some (.ldScalar .n8 (readHead sl 11 w) (readL w), reservedL w)
  | 0x0A => some (.ldScalar .i16 (readHead sl 11 w) (readL w), reservedL w)
  | 0x0B => some (.ldScalar .n16 (readHead sl 11 w) (readL w), reservedL w)
  | 0x0C => some (.ldScalar .i32 (readHead sl 11 w) (readL w), reservedL w)
  | 0x0D => some (.ldScalar .n32 (readHead sl 11 w) (readL w), reservedL w)
  | 0x0E => some (.ldScalar .n64 (readHead sl 11 w) (readL w), reservedL w)
  | 0x10 => some (.stScalar .w8 (readHead sl 0 w) (readE w), reservedE w)
  | 0x11 => some (.stScalar .w16 (readHead sl 0 w) (readE w), reservedE w)
  | 0x12 => some (.stScalar .w32 (readHead sl 0 w) (readE w), reservedE w)
  | 0x13 => some (.stScalar .w64 (readHead sl 0 w) (readE w), reservedE w)
  | 0x20 => some (.cpy (readHead sl 10 w) (readN w), reservedN w)
  | 0x21 => some (.cpyc (readHead sl 10 w) (readN w), reservedN w)
  | 0x22 => some (.cpyq (readHead sl 10 w) (readN w), reservedN w)
  | 0x23 => some (.cpyx (readHead sl 10 w) (readN w), reservedN w)
  | 0x24 => some (.cpyz (readHead sl 10 w) (readN w), reservedN w)
  | 0x25 => some (.wbld (readHead sl 10 w) (readN w), reservedN w)
  | 0x26 => some (.gath (readHead sl 10 w) (readN w), reservedN w)
  | 0x27 => some (.scat (readHead sl 10 w) (readN w), reservedN w)
  | 0x28 => some (.mcast (readHead sl 10 w) (readN w), reservedN w)
  | 0x30 => some (.send (readHead sl 17 w) (readO w), reservedO w)
  | 0x31 => some (.recv (readHead sl 17 w) (readO w), reservedO w)
  | 0x38 => some (.aadd (readHeadNoStep sl w) (readU w), reservedU w)
  | 0x39 => some (.aand (readHeadNoStep sl w) (readU w), reservedU w)
  | 0x3A => some (.aor (readHeadNoStep sl w) (readU w), reservedU w)
  | 0x3B => some (.axor (readHeadNoStep sl w) (readU w), reservedU w)
  | 0x3C => some (.amin (readHeadNoStep sl w) (readU w), reservedU w)
  | 0x3D => some (.amax (readHeadNoStep sl w) (readU w), reservedU w)
  | 0x3E => some (.axchg (readHeadNoStep sl w) (readU w), reservedU w)
  | 0x3F => some (.acas (readHeadNoStep sl w) (readU w), reservedU w)
  | 0x40 => some (.cfence (readHeadNoStep sl w) (readF w), reservedF w)
  | 0x41 => some (.cacq (readHeadNoStep sl w) (readF w), reservedF w)
  | 0x42 => some (.crel (readHeadNoStep sl w) (readF w), reservedF w)
  | 0x43 => some (.ctld (readHeadNoStep sl w) (readF w), reservedF w)
  | _ => none

/-- The instruction of an opcode map for a slot. -/
def readSlot (sl : Slot) (w : Word) : Option (Instr × Bool) :=
  match sl with
  | .s => readSClass w
  | .v0 | .v1 => readVClass sl w
  | .m => readMClass sl w
  | .k => readKClass sl w
  | .c0 | .c1 => readCClass sl w

/-- Decode the syllable of a slot, rejecting by name every encoding that is not an instruction. Checks follow the
order of the rows of R109: the opcode, the predicate, STK in the S class, reserved and unused fields, and the rest. -/
def decodeSyllable (sl : Slot) (w : Word) : Except Bad Instr :=
  match readSlot sl w with
  | none => .error .opcode
  | some (i, reservedZero) =>
    match i.bad with
    | some .predicate => .error .predicate
    | other =>
      if sl == .s && bits w 55 1 == 1 then .error .stick
      else if !reservedZero then .error .field
      else match other with
        | some b => .error b
        | none => .ok i

/-- Why bytes are not a bundle. -/
inductive DecodeError where
  | short                         -- fewer bytes than the bundle needs
  | header (row : Nat)            -- a header check of R109
  | broadcast (slot : Slot)       -- BC = 1 in a bundle with BE = 0
  | syllable (slot : Slot) (why : Bad)
deriving DecidableEq, Repr

/-- Whether a syllable's BC bit is 1 (R89). -/
def usesBroadcast : Instr → Bool

  | .vadd _ x => x.bc == 1
  | .vsub _ x => x.bc == 1
  | .vmin _ x => x.bc == 1
  | .vmax _ x => x.bc == 1
  | .vmul _ x => x.bc == 1
  | .vabs _ x => x.bc == 1
  | .vneg _ x => x.bc == 1
  | .vand _ x => x.bc == 1
  | .vor _ x => x.bc == 1
  | .vxor _ x => x.bc == 1
  | .vandn _ x => x.bc == 1
  | .vshl _ x => x.bc == 1
  | .vshr _ x => x.bc == 1
  | .vsra _ x => x.bc == 1
  | .vpopc _ x => x.bc == 1
  | .vclz _ x => x.bc == 1
  | .vsel _ x => x.bc == 1
  | .vcmp _ x => x.bc == 1
  | .vlsadd _ x => x.bc == 1
  | .vrsum _ x => x.bc == 1
  | .vrmax _ x => x.bc == 1
  | .vrmin _ x => x.bc == 1
  | .vperm _ x => x.bc == 1
  | .vzip _ x => x.bc == 1
  | .vunzip _ x => x.bc == 1
  | .vexp2 _ x => x.bc == 1
  | .vlog2 _ x => x.bc == 1
  | .vrcp _ x => x.bc == 1
  | .vrsq _ x => x.bc == 1
  | .vtanh _ x => x.bc == 1
  | .mcall _ x => x.bc == 1
  | .mzero _ x => x.bc == 1
  | .kldh _ x => x.bc == 1
  | .ksth _ x => x.bc == 1
  | .vNop _ x => x.bc == 1
  | .mNop _ x => x.bc == 1
  | .kNop _ x => x.bc == 1
  | _ => false

/-- A little-endian word of eight bytes (R83). -/
def wordOfBytes (b : List Byte) : Word :=
  b.foldr (fun x acc => (acc <<< 8) ||| x.setWidth 64) 0

/-- Decode the syllables of the present slots, eight bytes each, and give the bytes that follow. -/
def decodeSyllables (be : BitVec 1) : List Slot → List Byte → Except DecodeError (List Instr × List Byte)
  | [], rest => .ok ([], rest)
  | sl :: sls, bs =>
    if bs.length < 8 then .error .short
    else
      match decodeSyllable sl (wordOfBytes (bs.take 8)) with
      | .error b => .error (.syllable sl b)
      | .ok i =>
        if be == 0 && usesBroadcast i then .error (.broadcast sl)
        else
          match decodeSyllables be sls (bs.drop 8) with
          | .error e => .error e
          | .ok (is, rest) => .ok (i :: is, rest)

/-- Decode a bundle (R83): its header, its syllables in slot order, and the bytes that follow. Total on any bytes. -/
def decodeBundle (bs : List Byte) : Except DecodeError (Header × List Instr × List Byte) :=
  if bs.length < 8 then .error .short
  else
    let h := readHeader (wordOfBytes (bs.take 8))
    match headerBad h with
    | some r => .error (.header r)
    | none =>
      match decodeSyllables h.be (presentSlots h.pres) (bs.drop 8) with
      | .error e => .error e
      | .ok (is, rest) => .ok (h, is, rest)

/-- The little-endian bytes of a number, lowest first. -/
def bytesOfNat : Nat → Nat → List Byte
  | 0, _ => []
  | k + 1, n => BitVec.ofNat 8 n :: bytesOfNat k (n / 256)

/-- The instruction that the decoder reads from a bundle of one syllable whose header is the first word and whose
syllable the second (bits 127 to 64); bits above `nbits` are 0. None where the decoder refuses or the bundle has no
syllable. -/
def decodeTableWord (nbits w : Nat) : Option Instr :=
  match decodeBundle (bytesOfNat 64 (w % 2 ^ nbits)) with
  | .ok (_, i :: _, _) => some i
  | _ => none

/-! ## The encoder -/

/-- The opcode of a scalar load (R200). -/
def scalarLoadOp : ScalarLoad → BitVec 8
  | .i8 => 0x08 | .n8 => 0x09 | .i16 => 0x0A | .n16 => 0x0B | .i32 => 0x0C | .n32 => 0x0D | .n64 => 0x0E

/-- The opcode of a scalar store (R200). -/
def scalarStoreOp : ScalarStore → BitVec 8
  | .w8 => 0x10 | .w16 => 0x11 | .w32 => 0x12 | .w64 => 0x13

/-- The syllable word of an S-class instruction. -/
def syllableS (op : BitVec 8) (h : SHead) (body : BitVec 50) : Word := syllable op 0 h.prd h.pn body

/-- The syllable word of an instruction of another class. -/
def syllableH (op : BitVec 8) (h : Head) (body : BitVec 50) : Word := syllable op h.stk h.prd h.pn body

/-- The slot and the syllable word of an instruction; none for a step that is no syllable. -/
def encode : Instr → Option (Slot × Word)
  | .sNop h x => some (.s, syllableS 0x00 h (bodyA x))
  | .add h x => some (.s, syllableS 0x01 h (bodyA x))
  | .sub h x => some (.s, syllableS 0x02 h (bodyA x))
  | .and h x => some (.s, syllableS 0x03 h (bodyA x))
  | .or h x => some (.s, syllableS 0x04 h (bodyA x))
  | .xor h x => some (.s, syllableS 0x05 h (bodyA x))
  | .andn h x => some (.s, syllableS 0x06 h (bodyA x))
  | .shl h x => some (.s, syllableS 0x07 h (bodyA x))
  | .shr h x => some (.s, syllableS 0x08 h (bodyA x))
  | .sra h x => some (.s, syllableS 0x09 h (bodyA x))
  | .min h x => some (.s, syllableS 0x0A h (bodyA x))
  | .max h x => some (.s, syllableS 0x0B h (bodyA x))
  | .minu h x => some (.s, syllableS 0x0C h (bodyA x))
  | .maxu h x => some (.s, syllableS 0x0D h (bodyA x))
  | .addS h x => some (.s, syllableS 0x0E h (bodyA x))
  | .subS h x => some (.s, syllableS 0x0F h (bodyA x))
  | .mul h x => some (.s, syllableS 0x10 h (bodyA x))
  | .mulh h x => some (.s, syllableS 0x11 h (bodyA x))
  | .mulhu h x => some (.s, syllableS 0x12 h (bodyA x))
  | .popc h x => some (.s, syllableS 0x13 h (bodyA x))
  | .clz h x => some (.s, syllableS 0x14 h (bodyA x))
  | .ctz h x => some (.s, syllableS 0x15 h (bodyA x))
  | .div h x => some (.s, syllableS 0x16 h (bodyA x))
  | .divu h x => some (.s, syllableS 0x17 h (bodyA x))
  | .rem h x => some (.s, syllableS 0x18 h (bodyA x))
  | .remu h x => some (.s, syllableS 0x19 h (bodyA x))
  | .sel h x => some (.s, syllableS 0x1A h (bodyA x))
  | .addi h x => some (.s, syllableS 0x20 h (bodyI x))
  | .andi h x => some (.s, syllableS 0x21 h (bodyI x))
  | .ori h x => some (.s, syllableS 0x22 h (bodyI x))
  | .xori h x => some (.s, syllableS 0x23 h (bodyI x))
  | .shli h x => some (.s, syllableS 0x24 h (bodyI x))
  | .shri h x => some (.s, syllableS 0x25 h (bodyI x))
  | .srai h x => some (.s, syllableS 0x26 h (bodyI x))
  | .muli h x => some (.s, syllableS 0x27 h (bodyI x))
  | .liu h x => some (.s, syllableS 0x28 h (bodyI x))
  | .cmp h x => some (.s, syllableS 0x30 h (bodyC x))
  | .flagAnd h x => some (.s, syllableS 0x31 h (bodyC x))
  | .flagOr h x => some (.s, syllableS 0x32 h (bodyC x))
  | .flagXor h x => some (.s, syllableS 0x33 h (bodyC x))
  | .flagAndn h x => some (.s, syllableS 0x34 h (bodyC x))
  | .spld h x => some (.s, syllableS 0x38 h (bodyX x))
  | .spst h x => some (.s, syllableS 0x39 h (bodyX x))
  | .csrr h x => some (.s, syllableS 0x3A h (bodyX x))
  | .csrw h x => some (.s, syllableS 0x3B h (bodyX x))
  | .prep h x => some (.s, syllableS 0x40 h (bodyB x))
  | .loop h x => some (.s, syllableS 0x41 h (bodyB x))
  | .endLoop h x => some (.s, syllableS 0x42 h (bodyB x))
  | .xlate h x => some (.s, syllableS 0x48 h (bodyH x))
  | .hrel h x => some (.s, syllableS 0x49 h (bodyH x))
  | .fence h x => some (.s, syllableS 0x50 h (bodyI x))
  | .wclr h x => some (.s, syllableS 0x51 h (bodyI x))
  | .trap h x => some (.s, syllableS 0x58 h (bodyY x))
  | .halt h x => some (.s, syllableS 0x59 h (bodyY x))
  | .tail h x => some (.s, syllableS 0x5A h (bodyY x))
  | .nextTile h x => some (.s, syllableS 0x5B h (bodyY x))
  | .nextTileTake h x => some (.s, syllableS 0x5B h (bodyY x))
  | .phase h x => some (.s, syllableS 0x60 h (bodyY x))
  | .arrive h x => some (.s, syllableS 0x61 h (bodyY x))
  | .cwSet h x => some (.s, syllableS 0x6A h (bodyY x))
  | .claim h x => some (.s, syllableS 0x68 h (bodyY x))
  | .object h x => some (.s, syllableS 0x69 h (bodyY x))
  | .claimRead h x => some (.s, syllableS 0x68 h (bodyY x))
  | .subscribe h x => some (.s, syllableS 0x70 h (bodyY x))
  | .lapse h x => some (.s, syllableS 0x71 h (bodyY x))
  | .board h x => some (.s, syllableS 0x72 h (bodyY x))
  | .alight h x => some (.s, syllableS 0x73 h (bodyY x))
  | .cstat h x => some (.s, syllableS 0x74 h (bodyY x))
  | .vNop h x => some (h.slot, syllableH 0x00 h (bodyV x h.step))
  | .vadd h x => some (h.slot, syllableH 0x01 h (bodyV x h.step))
  | .vsub h x => some (h.slot, syllableH 0x02 h (bodyV x h.step))
  | .vmin h x => some (h.slot, syllableH 0x03 h (bodyV x h.step))
  | .vmax h x => some (h.slot, syllableH 0x04 h (bodyV x h.step))
  | .vmul h x => some (h.slot, syllableH 0x05 h (bodyV x h.step))
  | .vabs h x => some (h.slot, syllableH 0x06 h (bodyV x h.step))
  | .vneg h x => some (h.slot, syllableH 0x07 h (bodyV x h.step))
  | .vand h x => some (h.slot, syllableH 0x08 h (bodyV x h.step))
  | .vor h x => some (h.slot, syllableH 0x09 h (bodyV x h.step))
  | .vxor h x => some (h.slot, syllableH 0x0A h (bodyV x h.step))
  | .vandn h x => some (h.slot, syllableH 0x0B h (bodyV x h.step))
  | .vshl h x => some (h.slot, syllableH 0x0C h (bodyV x h.step))
  | .vshr h x => some (h.slot, syllableH 0x0D h (bodyV x h.step))
  | .vsra h x => some (h.slot, syllableH 0x0E h (bodyV x h.step))
  | .vpopc h x => some (h.slot, syllableH 0x0F h (bodyV x h.step))
  | .vclz h x => some (h.slot, syllableH 0x10 h (bodyV x h.step))
  | .vsel h x => some (h.slot, syllableH 0x11 h (bodyV x h.step))
  | .vfma h x => some (h.slot, syllableH 0x14 h (bodyW x h.step))
  | .vfms h x => some (h.slot, syllableH 0x15 h (bodyW x h.step))
  | .vfnma h x => some (h.slot, syllableH 0x16 h (bodyW x h.step))
  | .vaddi h x => some (h.slot, syllableH 0x18 h (bodyJ x h.step))
  | .vandi h x => some (h.slot, syllableH 0x19 h (bodyJ x h.step))
  | .vshli h x => some (h.slot, syllableH 0x1A h (bodyJ x h.step))
  | .vshri h x => some (h.slot, syllableH 0x1B h (bodyJ x h.step))
  | .vsrai h x => some (h.slot, syllableH 0x1C h (bodyJ x h.step))
  | .vli h x => some (h.slot, syllableH 0x1D h (bodyJ x h.step))
  | .vcmp h x => some (h.slot, syllableH 0x20 h (bodyP x h.step))
  | .mand h x => some (h.slot, syllableH 0x28 h (bodyQ x h.step))
  | .mor h x => some (h.slot, syllableH 0x29 h (bodyQ x h.step))
  | .mxor h x => some (h.slot, syllableH 0x2A h (bodyQ x h.step))
  | .mandn h x => some (h.slot, syllableH 0x2B h (bodyQ x h.step))
  | .mnot h x => some (h.slot, syllableH 0x2C h (bodyQ x h.step))
  | .mlead h x => some (h.slot, syllableH 0x2D h (bodyQ x h.step))
  | .many h x => some (h.slot, syllableH 0x2E h (bodyQ x h.step))
  | .mall h x => some (h.slot, syllableH 0x2F h (bodyQ x h.step))
  | .mpop h x => some (h.slot, syllableH 0x30 h (bodyQ x h.step))
  | .mfirst h x => some (h.slot, syllableH 0x31 h (bodyQ x h.step))
  | .vcvt h x => some (h.slot, syllableH 0x38 h (bodyJ x h.step))
  | .vquant h x => some (h.slot, syllableH 0x3A h (bodyG x h.step))
  | .vdeq h x => some (h.slot, syllableH 0x3B h (bodyG x h.step))
  | .vlscv h x => some (h.slot, syllableH 0x40 h (bodyJ x h.step))
  | .vlsadd h x => some (h.slot, syllableH 0x41 h (bodyV x h.step))
  | .vlsout h x => some (h.slot, syllableH 0x42 h (bodyJ x h.step))
  | .vrsum h x => some (h.slot, syllableH 0x48 h (bodyV x h.step))
  | .vrmax h x => some (h.slot, syllableH 0x49 h (bodyV x h.step))
  | .vrmin h x => some (h.slot, syllableH 0x4A h (bodyV x h.step))
  | .vperm h x => some (h.slot, syllableH 0x50 h (bodyV x h.step))
  | .vzip h x => some (h.slot, syllableH 0x51 h (bodyV x h.step))
  | .vunzip h x => some (h.slot, syllableH 0x52 h (bodyV x h.step))
  | .vrot h x => some (h.slot, syllableH 0x53 h (bodyJ x h.step))
  | .vbcast h x => some (h.slot, syllableH 0x54 h (bodyJ x h.step))
  | .vexp2 h x => some (h.slot, syllableH 0x58 h (bodyV x h.step))
  | .vlog2 h x => some (h.slot, syllableH 0x59 h (bodyV x h.step))
  | .vrcp h x => some (h.slot, syllableH 0x5A h (bodyV x h.step))
  | .vrsq h x => some (h.slot, syllableH 0x5B h (bodyV x h.step))
  | .vtanh h x => some (h.slot, syllableH 0x5C h (bodyV x h.step))
  | .vcx h x => some (h.slot, syllableH 0x60 h (bodyW x h.step))
  | .vtwr h x => some (h.slot, syllableH 0x68 h (bodyT x h.step))
  | .vtrd h x => some (h.slot, syllableH 0x69 h (bodyT x h.step))
  | .mNop h x => some (h.slot, syllableH 0x00 h (bodyM x h.step))
  | .mcall h x => some (h.slot, syllableH 0x01 h (bodyM x h.step))
  | .mzero h x => some (h.slot, syllableH 0x02 h (bodyM x h.step))
  | .mdrain h x => some (h.slot, syllableH 0x03 h (bodyD x h.step))
  | .kNop h x => some (h.slot, syllableH 0x00 h (bodyK x h.step))
  | .kldh h x => some (h.slot, syllableH 0x01 h (bodyK x h.step))
  | .ksth h x => some (h.slot, syllableH 0x02 h (bodyK x h.step))
  | .kmvv h x => some (h.slot, syllableH 0x03 h (bodyZ x h.step))
  | .kmvz h x => some (h.slot, syllableH 0x04 h (bodyZ x h.step))
  | .kmov h x => some (h.slot, syllableH 0x05 h (bodyZ x h.step))
  | .kltl h x => some (h.slot, syllableH 0x06 h (bodyZ x h.step))
  | .cNop h x => some (h.slot, syllableH 0x00 h (bodyL x h.step))
  | .ldVector h x => some (h.slot, syllableH 0x01 h (bodyL x h.step))
  | .stVector h x => some (h.slot, syllableH 0x02 h (bodyE x h.step))
  | .ldTile h x => some (h.slot, syllableH 0x03 h (bodyL x h.step))
  | .stTile h x => some (h.slot, syllableH 0x04 h (bodyE x h.step))
  | .ldScalar k h x => some (h.slot, syllableH (scalarLoadOp k) h (bodyL x h.step))
  | .stScalar k h x => some (h.slot, syllableH (scalarStoreOp k) h (bodyE x h.step))
  | .cpy h x => some (h.slot, syllableH 0x20 h (bodyN x h.step))
  | .cpyc h x => some (h.slot, syllableH 0x21 h (bodyN x h.step))
  | .cpyq h x => some (h.slot, syllableH 0x22 h (bodyN x h.step))
  | .cpyx h x => some (h.slot, syllableH 0x23 h (bodyN x h.step))
  | .cpyz h x => some (h.slot, syllableH 0x24 h (bodyN x h.step))
  | .wbld h x => some (h.slot, syllableH 0x25 h (bodyN x h.step))
  | .gath h x => some (h.slot, syllableH 0x26 h (bodyN x h.step))
  | .scat h x => some (h.slot, syllableH 0x27 h (bodyN x h.step))
  | .mcast h x => some (h.slot, syllableH 0x28 h (bodyN x h.step))
  | .cfence h x => some (h.slot, syllableH 0x40 h (bodyF x))
  | .cacq h x => some (h.slot, syllableH 0x41 h (bodyF x))
  | .crel h x => some (h.slot, syllableH 0x42 h (bodyF x))
  | .ctld h x => some (h.slot, syllableH 0x43 h (bodyF x))
  | .send h x => some (h.slot, syllableH 0x30 h (bodyO x h.step))
  | .recv h x => some (h.slot, syllableH 0x31 h (bodyO x h.step))
  | .aadd h x => some (h.slot, syllableH 0x38 h (bodyU x))
  | .aand h x => some (h.slot, syllableH 0x39 h (bodyU x))
  | .aor h x => some (h.slot, syllableH 0x3A h (bodyU x))
  | .axor h x => some (h.slot, syllableH 0x3B h (bodyU x))
  | .amin h x => some (h.slot, syllableH 0x3C h (bodyU x))
  | .amax h x => some (h.slot, syllableH 0x3D h (bodyU x))
  | .axchg h x => some (h.slot, syllableH 0x3E h (bodyU x))
  | .acas h x => some (h.slot, syllableH 0x3F h (bodyU x))
  | _ => none

/-- A syllable as a word of the program gives it: no re-issue count and no broadcast value yet. -/
def Head.fresh (h : Head) : Bool := h.j == 0 && h.bcv == 0

/-- The head of a syllable of the V, M, K or copy class; none for an S syllable or another step. -/
def Instr.head? : Instr → Option Head
  | .vNop h _ => some h
  | .vadd h _ => some h
  | .vsub h _ => some h
  | .vmin h _ => some h
  | .vmax h _ => some h
  | .vmul h _ => some h
  | .vabs h _ => some h
  | .vneg h _ => some h
  | .vand h _ => some h
  | .vor h _ => some h
  | .vxor h _ => some h
  | .vandn h _ => some h
  | .vshl h _ => some h
  | .vshr h _ => some h
  | .vsra h _ => some h
  | .vpopc h _ => some h
  | .vclz h _ => some h
  | .vsel h _ => some h
  | .vfma h _ => some h
  | .vfms h _ => some h
  | .vfnma h _ => some h
  | .vaddi h _ => some h
  | .vandi h _ => some h
  | .vshli h _ => some h
  | .vshri h _ => some h
  | .vsrai h _ => some h
  | .vli h _ => some h
  | .vcmp h _ => some h
  | .mand h _ => some h
  | .mor h _ => some h
  | .mxor h _ => some h
  | .mandn h _ => some h
  | .mnot h _ => some h
  | .mlead h _ => some h
  | .many h _ => some h
  | .mall h _ => some h
  | .mpop h _ => some h
  | .mfirst h _ => some h
  | .vcvt h _ => some h
  | .vquant h _ => some h
  | .vdeq h _ => some h
  | .vlscv h _ => some h
  | .vlsadd h _ => some h
  | .vlsout h _ => some h
  | .vrsum h _ => some h
  | .vrmax h _ => some h
  | .vrmin h _ => some h
  | .vperm h _ => some h
  | .vzip h _ => some h
  | .vunzip h _ => some h
  | .vrot h _ => some h
  | .vbcast h _ => some h
  | .vexp2 h _ => some h
  | .vlog2 h _ => some h
  | .vrcp h _ => some h
  | .vrsq h _ => some h
  | .vtanh h _ => some h
  | .vcx h _ => some h
  | .vtwr h _ => some h
  | .vtrd h _ => some h
  | .mNop h _ => some h
  | .mcall h _ => some h
  | .mzero h _ => some h
  | .mdrain h _ => some h
  | .kNop h _ => some h
  | .kldh h _ => some h
  | .ksth h _ => some h
  | .kmvv h _ => some h
  | .kmvz h _ => some h
  | .kmov h _ => some h
  | .kltl h _ => some h
  | .cNop h _ => some h
  | .ldVector h _ => some h
  | .stVector h _ => some h
  | .ldTile h _ => some h
  | .stTile h _ => some h
  | .ldScalar _ h _ => some h
  | .stScalar _ h _ => some h
  | .cpy h _ => some h
  | .cpyc h _ => some h
  | .cpyq h _ => some h
  | .cpyx h _ => some h
  | .cpyz h _ => some h
  | .wbld h _ => some h
  | .gath h _ => some h
  | .scat h _ => some h
  | .mcast h _ => some h
  | .cfence h _ => some h
  | .cacq h _ => some h
  | .crel h _ => some h
  | .ctld h _ => some h
  | .send h _ => some h
  | .recv h _ => some h
  | .aadd h _ => some h
  | .aand h _ => some h
  | .aor h _ => some h
  | .axor h _ => some h
  | .amin h _ => some h
  | .amax h _ => some h
  | .axchg h _ => some h
  | .acas h _ => some h
  | _ => none

/-- The same syllable with another head. -/
def Instr.withHead (i : Instr) (h : Head) : Instr :=
  match i with
  | .vNop _ x => .vNop h x
  | .vadd _ x => .vadd h x
  | .vsub _ x => .vsub h x
  | .vmin _ x => .vmin h x
  | .vmax _ x => .vmax h x
  | .vmul _ x => .vmul h x
  | .vabs _ x => .vabs h x
  | .vneg _ x => .vneg h x
  | .vand _ x => .vand h x
  | .vor _ x => .vor h x
  | .vxor _ x => .vxor h x
  | .vandn _ x => .vandn h x
  | .vshl _ x => .vshl h x
  | .vshr _ x => .vshr h x
  | .vsra _ x => .vsra h x
  | .vpopc _ x => .vpopc h x
  | .vclz _ x => .vclz h x
  | .vsel _ x => .vsel h x
  | .vfma _ x => .vfma h x
  | .vfms _ x => .vfms h x
  | .vfnma _ x => .vfnma h x
  | .vaddi _ x => .vaddi h x
  | .vandi _ x => .vandi h x
  | .vshli _ x => .vshli h x
  | .vshri _ x => .vshri h x
  | .vsrai _ x => .vsrai h x
  | .vli _ x => .vli h x
  | .vcmp _ x => .vcmp h x
  | .mand _ x => .mand h x
  | .mor _ x => .mor h x
  | .mxor _ x => .mxor h x
  | .mandn _ x => .mandn h x
  | .mnot _ x => .mnot h x
  | .mlead _ x => .mlead h x
  | .many _ x => .many h x
  | .mall _ x => .mall h x
  | .mpop _ x => .mpop h x
  | .mfirst _ x => .mfirst h x
  | .vcvt _ x => .vcvt h x
  | .vquant _ x => .vquant h x
  | .vdeq _ x => .vdeq h x
  | .vlscv _ x => .vlscv h x
  | .vlsadd _ x => .vlsadd h x
  | .vlsout _ x => .vlsout h x
  | .vrsum _ x => .vrsum h x
  | .vrmax _ x => .vrmax h x
  | .vrmin _ x => .vrmin h x
  | .vperm _ x => .vperm h x
  | .vzip _ x => .vzip h x
  | .vunzip _ x => .vunzip h x
  | .vrot _ x => .vrot h x
  | .vbcast _ x => .vbcast h x
  | .vexp2 _ x => .vexp2 h x
  | .vlog2 _ x => .vlog2 h x
  | .vrcp _ x => .vrcp h x
  | .vrsq _ x => .vrsq h x
  | .vtanh _ x => .vtanh h x
  | .vcx _ x => .vcx h x
  | .vtwr _ x => .vtwr h x
  | .vtrd _ x => .vtrd h x
  | .mNop _ x => .mNop h x
  | .mcall _ x => .mcall h x
  | .mzero _ x => .mzero h x
  | .mdrain _ x => .mdrain h x
  | .kNop _ x => .kNop h x
  | .kldh _ x => .kldh h x
  | .ksth _ x => .ksth h x
  | .kmvv _ x => .kmvv h x
  | .kmvz _ x => .kmvz h x
  | .kmov _ x => .kmov h x
  | .kltl _ x => .kltl h x
  | .cNop _ x => .cNop h x
  | .ldVector _ x => .ldVector h x
  | .stVector _ x => .stVector h x
  | .ldTile _ x => .ldTile h x
  | .stTile _ x => .stTile h x
  | .ldScalar k _ x => .ldScalar k h x
  | .stScalar k _ x => .stScalar k h x
  | .cpy _ x => .cpy h x
  | .cpyc _ x => .cpyc h x
  | .cpyq _ x => .cpyq h x
  | .cpyx _ x => .cpyx h x
  | .cpyz _ x => .cpyz h x
  | .wbld _ x => .wbld h x
  | .gath _ x => .gath h x
  | .scat _ x => .scat h x
  | .mcast _ x => .mcast h x
  | .cfence _ x => .cfence h x
  | .cacq _ x => .cacq h x
  | .crel _ x => .crel h x
  | .ctld _ x => .ctld h x
  | .send _ x => .send h x
  | .recv _ x => .recv h x
  | .aadd _ x => .aadd h x
  | .aand _ x => .aand h x
  | .aor _ x => .aor h x
  | .axor _ x => .axor h x
  | .amin _ x => .amin h x
  | .amax _ x => .amax h x
  | .axchg _ x => .axchg h x
  | .acas _ x => .acas h x
  | other => other

/-- The predicate of an S syllable; none for another step. -/
def Instr.sHead? : Instr → Option SHead
  | .sNop h _ => some h
  | .add h _ => some h
  | .sub h _ => some h
  | .and h _ => some h
  | .or h _ => some h
  | .xor h _ => some h
  | .andn h _ => some h
  | .shl h _ => some h
  | .shr h _ => some h
  | .sra h _ => some h
  | .min h _ => some h
  | .max h _ => some h
  | .minu h _ => some h
  | .maxu h _ => some h
  | .addS h _ => some h
  | .subS h _ => some h
  | .mul h _ => some h
  | .mulh h _ => some h
  | .mulhu h _ => some h
  | .popc h _ => some h
  | .clz h _ => some h
  | .ctz h _ => some h
  | .div h _ => some h
  | .divu h _ => some h
  | .rem h _ => some h
  | .remu h _ => some h
  | .sel h _ => some h
  | .addi h _ => some h
  | .andi h _ => some h
  | .ori h _ => some h
  | .xori h _ => some h
  | .shli h _ => some h
  | .shri h _ => some h
  | .srai h _ => some h
  | .muli h _ => some h
  | .liu h _ => some h
  | .cmp h _ => some h
  | .flagAnd h _ => some h
  | .flagOr h _ => some h
  | .flagXor h _ => some h
  | .flagAndn h _ => some h
  | .spld h _ => some h
  | .spst h _ => some h
  | .csrr h _ => some h
  | .csrw h _ => some h
  | .prep h _ => some h
  | .loop h _ => some h
  | .endLoop h _ => some h
  | .xlate h _ => some h
  | .hrel h _ => some h
  | .fence h _ => some h
  | .wclr h _ => some h
  | .trap h _ => some h
  | .halt h _ => some h
  | .tail h _ => some h
  | .nextTile h _ => some h
  | .nextTileTake h _ => some h
  | .phase h _ => some h
  | .arrive h _ => some h
  | .cwSet h _ => some h
  | .claim h _ => some h
  | .object h _ => some h
  | .claimRead h _ => some h
  | .subscribe h _ => some h
  | .lapse h _ => some h
  | .board h _ => some h
  | .alight h _ => some h
  | .cstat h _ => some h
  | _ => none

/-- Whether a step is a syllable of a bundle. -/
def Instr.isSyllable (i : Instr) : Bool := i.head?.isSome || i.sHead?.isSome

/-- A syllable that a word of the program can give: well formed, not a re-issue. -/
def isWord (i : Instr) : Bool :=
  wellFormed i && i.isSyllable && (match i.head? with | some h => h.fresh | none => true)

end Sys2Proof
end

