-- ==== Sys2Proof/Machine/State.lean ====
section
/-!
DEFINITION. The state of the module: memory, the cores with their engines, the launches, the front end, translation,
the commons, the links and the management units, all as plain data, and the state right after reset.
-/
namespace Sys2Proof.Machine

open Sys2Proof

/-- Why the machine stops. No instruction stops it: a fault of a program is a state of its own (R344). -/
inductive Fault where
  /-- No agent has anything left to do: no event is due, no core has a cycle to take, and no time is left to pass.
  Raised by step alone. Safe: the device has no such step to take. -/
  | noSuchAgent
  /-- The device has met a fatal error and takes no step of its own; what may follow is a reset (R402, R406). Raised
  by step alone. Safe. -/
  | deviceDown
deriving DecidableEq, Repr

/-- Why an instruction has no meaning. -/
inductive Refusal where
  /-- Rejected by name: the instruction has no meaning in the model yet. Raised by the dispatch alone. Safe. -/
  | notModelled (mnemonic : String)
deriving DecidableEq, Repr

/-! ## The core -/

/-- An XLATE in progress (R126, R128, R291). -/
structure Xlate where
  va : Word
  write : Bool               -- RW = 0b10 asks for read and write
  issue : Nat                -- issue cycle
  baddr : Nat                -- image address of its bundle
  rep : Nat
  caused : Bool              -- it caused a stop of its placement
deriving DecidableEq, Repr

/-- A handle (R26, R126 to R129). -/
structure Handle where
  valid : Bool
  base : Nat
  extent : Nat
  write : Bool
  va : Word                  -- kept virtual address
  ipa : Nat                  -- intermediate address it was translated through
  region : Option Nat        -- tier-0 region installed at launch start, by its index in the image
  cut : Bool                 -- a shootdown of it has reached the core (R292)
  xl : Option Xlate          -- XLATE in progress
deriving DecidableEq, Repr

/-- A buffer record (R194). -/
structure BufRec where
  hnum : Nat
  mode : Nat
  fmt : BitVec 4
  win : BitVec 9
  base : Nat
  ext : Nat
  str0 : Nat
  str1 : Nat
deriving DecidableEq, Repr

/-- A loop counter (R124, R125). -/
structure LoopCtr where
  active : Bool
  count : Nat
  start : Nat
deriving DecidableEq, Repr

/-- A write to a storage unit of a core (R95). For wide units `en` marks the written bits. -/
inductive Effect where
  | sReg (r : Nat) (v : Word)
  | fReg (r : Nat) (v : Bool)
  | mReg (r : Nat) (v en : Mask)
  | vReg (r : Nat) (v en : Vec)
  | zReg (r : Nat) (v en : Vec)
  | tRow (k : Nat) (v en : Row) (poison : Bool)
  | accRow (k : Nat) (v : Vec) (flags : BitVec 8)
  | accZero (n : Nat)
  | aReg (r : Nat) (v : Word)
  | ntReg (r : Nat) (v : Word)
  | spill (k : Nat) (v : Word)
  | bReg (r : Nat) (v : Option Nat)
  | lpReg (r : Nat) (v : LoopCtr)
  | cwReg (r : Nat) (v : Nat)
  | csrFlags (v : BitVec 8)              -- CSRW to %fpflags
  | orFlags (v : BitVec 8)
  | clearWait (m : BitVec 32)
  | levelTable (tab : Nat) (v : BitVec 256)
  | releaseHandle (h : Nat)
deriving DecidableEq, Repr

/-- A write that has issued and lands at `%cycle` `due` (R94, R95). -/
structure Write where
  due : Nat
  issue : Nat
  slot : Nat                 -- place in the order S, V0, V1, M, K, C0, C1
  eff : Effect
deriving DecidableEq, Repr

/-- Where a variable-latency result goes (R199, R221, R227). -/
inductive Target where
  | vec (r : Nat)
  | tile (r : Nat)
  | scalar (r bytes : Nat) (signed : Bool)
  | zReg (r bytes : Nat)
  | discard                              -- counted entries only: a suppressed request (R93)
deriving DecidableEq, Repr

/-- A variable-latency request with its landing-buffer entries (R49, R199). A load or an atomic has the number of its
access. -/
structure Request where
  id : Nat
  issue : Nat
  arr : Nat                  -- named arrival cycle
  entries : Nat
  target : Target
  slot : Nat
  baddr : Nat
  rep : Nat
  data : Option (List Byte)  -- the data, once it has arrived
  poison : List Nat          -- tile rows, or 0 for the whole, that come from poisoned lines
  pline : Nat                -- physical address of the first poisoned line
  cause : Nat                -- 0, or the CAUSE of a protection fault raised at the arrival cycle (R379, R382)
  paddr : Nat                -- the address such a fault reports
  atomic : Bool
  recv : Option (Nat × Nat)  -- circuit entry and message number of a RECV (R219)
deriving DecidableEq, Repr

/-- A sticky syllable (R96): as written, with its `bc` value. -/
structure Sticky where
  instr : Instr
  j : Nat
deriving DecidableEq, Repr

/-- A matrix routine, running or waiting (R174 to R177). -/
structure Routine where
  entry : Nat                -- routine index
  acc : Nat                  -- N of MCALL
  params : Table Word        -- the copy P
  regs : Table Word          -- P as the steps have changed it
  issue : Nat
  baddr : Nat
  rep : Nat                  -- repetition of its bundle that issued it
  start : Nat                -- S
  stop : Nat                 -- S + DUR
  begun : Bool               -- the accumulators have been read
  init : Table Vec           -- accumulator rows as read at S, key offset * 128 + row
  initFlags : Table (BitVec 8)  -- their row flags
  work : Table Vec           -- the same rows as the steps have changed them
  flags : Table (BitVec 8)
  bindings : Table (Nat × Nat)  -- weight binding: tile line and format
  pos : Nat                  -- next step, counted from 0
  at_ : Nat                  -- cycle at which that step begins
  passes : Nat               -- passes left of the loop after this one
  pass : Nat                 -- loop pass index i
  body : Nat                 -- first step of the loop body
  len : Nat                  -- steps of the loop body; 0 outside a loop
  loopWord : Word            -- the LOOP step
  ended : Bool
deriving DecidableEq, Repr

/-- One piece of an access within one 64-byte line (R245, R246). -/
structure Piece where
  pa : Nat
  off : Nat                  -- offset of its first byte in the access's data
  len : Nat
  bytes : List (Option Byte) -- data to write, none for a byte that is not written; then the data read
  due : Nat                  -- reference cycle at which its bank port serves it; 0 while none is given
  done : Bool
  poisoned : Bool            -- the line was poisoned when it was read, or the line written carries a poison mark
deriving DecidableEq, Repr

/-- The kinds of access (R245). -/
inductive AccessKind where
  | read | write
  | add (v : Word)                       -- the shepherd's addition to a word (R326)
  | stamp                                -- the shepherd's write of the device time (R326)
  | atomic (op : Nat) (a b : BitVec 32) (signed : Bool)
deriving DecidableEq, Repr

/-- The path of an access (R108, R264). -/
inductive Path where
  | own | remote | hbm | link | host | none
deriving DecidableEq, Repr

/-- Who makes an access: a slot of the core, one of its copy engines for an element (R207), the source interface for the
zero-length read of a SYSTEM release (R379), a stream for a tile of a boarder (R241), or the shepherd for a function (R257,
R326). -/
inductive Role where
  | slot | engine | flush | stream | shepherd
deriving DecidableEq, Repr

/-- An access of a core (R245, R249, R270 to R277). -/
structure Access where
  role : Role
  g : Nat
  launch : Option Nat
  seq : Nat                  -- program order; for an engine or a zero-length read that of its command or release
  slot : Nat
  issue : Nat                -- its issue cycle, bundle and repetition
  baddr : Nat
  rep : Nat
  cls : Nat
  mask : BitVec 16           -- classes that a zero-length read covers
  kind : AccessKind
  ord : Nat                  -- ORD: acquire or release scope
  pieces : List Piece        -- in ascending offset
  size : Nat
  region : Nat               -- region of the core at issue (R354)
  held : Bool                -- waits in the egress hold (R356)
  left : Bool                -- has left the source interface
  strict : Bool              -- time alone would not keep it behind an earlier access of its class (R249)
  sent : Nat                 -- calendar position at which its HBM request went
  reply : Nat                -- latest reference cycle at which a piece is acknowledged or its data is back
  done : Bool                -- acknowledged, or its data has returned
  ident : Nat                -- request identifier of an atomic (R224), ord of an element, number of a stream tile, or the
                             --   function for which the shepherd acts
  old : BitVec 32            -- the word that an atomic found
deriving DecidableEq, Repr

/-- A fence that has issued (R130). -/
structure Fence where
  seq : Nat
  mask : BitVec 16
  scope : Nat
  acq : Bool
  rel : Bool
deriving DecidableEq, Repr

/-- The kinds of copy command (R208, R217). -/
inductive CopyKind where
  | cpy | cpyc | cpyq | cpyx | cpyz | wbld | gath | scat | mcast | cfence | cacq | crel | ctld
deriving DecidableEq, Repr

/-- A buffer record as a copy command read it at issue, with the translation of its handle (R202, R363). -/
structure CopyRec where
  num : Nat
  buf : BufRec
  handle : Handle
deriving DecidableEq, Repr

/-- A line that an element of a copy command is still to write, with its poison mark (R207, R216). -/
structure LineWrite where
  pa : Nat
  data : List Byte
  poison : Bool
deriving DecidableEq, Repr

/-- A copy command in its engine's queue (R202 to R206, R217). -/
structure Command where
  kind : CopyKind
  seq : Nat
  src : Option CopyRec
  dst : Option CopyRec
  srcNext : Option CopyRec
  dstNext : Option CopyRec
  desc : List Word
  descIndex : Nat
  cls : Nat
  mask : BitVec 16           -- CMASK of a format-F command
  acq : Bool
  rel : Bool
  scope : Nat
  flag : Option Nat
  off : Nat                  -- CTLD: byte offset
  bf16 : Bool                -- CTLD: BFT
  issue : Nat
  baddr : Nat
  rep : Nat
  region : Nat               -- region of the core at issue (R354, R356)
  started : Bool
  ord : Nat
  total : Nat                -- elements
  flags : BitVec 8
  oob : Bool
  paused : Bool              -- its next line waits for a restart or an answer of the host
  fetched : Table (List Byte × Bool) -- what has been read for the element at ord, by physical address, with the lines' marks
  todo : List LineWrite      -- lines of the elements below ord that are still to be written
  finished : Bool            -- every element has performed and is acknowledged
deriving DecidableEq, Repr

/-- A phase of a core (R228, R229). -/
structure PhaseSt where
  isOpen : Bool
  gen : Bool
  cnt0 : Int
  cnt1 : Int
  flag : Nat
  line : Bool
  seq : Nat                  -- program order of its PHASE
  word : Word                -- its syllable, bundle and issue cycle
  baddr : Nat
  issue : Nat
deriving DecidableEq, Repr

/-- A stream that a core has boarded (R241, R244, R306). -/
structure Boarding where
  entry : Nat
  sub : Nat
  queue : Nat
  g0 : Nat                   -- first sequence number delivered
  k0 : Nat
  stop : Option Nat          -- first sequence number not sent, once the boarding has ended
  base : Nat                 -- %cycle at which tile K0 is due, in full
  period : Nat
  nbuf : Nat
  wb : Bool
  line : Nat
  doff : Nat
  hoff : Nat
  dst : Option CopyRec
  hdr : CopyRec
  flag : Option Nat
  complete : List Nat        -- sequence numbers complete in their slots
  pending : List Nat         -- sequence numbers fetched, waiting for their slot
deriving DecidableEq, Repr

/-- An overlay copy in progress (R139). -/
structure Overlay where
  frame : Nat
  seg : Nat
  lines : Nat
  next : Nat                 -- next line to deliver: lines from here on are undelivered
  late : List Nat            -- lines before it that wait for the re-encryption of their block (R285)
  ready : Nat                -- reference cycle until which the reading of the header and the code directory waits for one
  src : Option Nat           -- virtual address of the segment's first byte; none where the code directory does not translate
deriving DecidableEq, Repr

/-- What an instruction that acts once did in the first run of a region (R356): its issue cycle, the number of its
request, and the result, once it is known. -/
structure OnceRec where
  cycle : Nat
  id : Nat
  data : Option (List Byte)
deriving DecidableEq, Repr

/-- The region of a core between commit points (R354 to R356). -/
structure Region where
  num : Nat
  uncontained : Nat          -- 0, or the CAUSE of R344: 2 undo log overflowed, 3 egress hold overflowed
  bytes : Nat                -- bytes in the undo log
  units : List Nat           -- storage units logged, coded
  lines : List (Nat × Line × Bool) -- own-hive scratchpad lines with their old contents and poison marks
  once : List OnceRec        -- instructions that act once
deriving DecidableEq, Repr

/-- A rerun of a region (R358). -/
structure Rerun where
  run : Nat                  -- 1 or 2
  sig1 : BitVec 32
  cyc1 : Nat
deriving DecidableEq, Repr

/-- What a stop reports (R344, R345). -/
structure FaultInfo where
  kind : Nat                 -- 1 fault, 2 trap, 3 page-not-present freeze, 4 rollback report
  code : Nat
  cause : Nat
  arg0 : Word
  arg1 : Word
  slot : Nat
  rep : Nat
  origin : Nat               -- 0 step 3, 1 arrival, 2 element, 3 step, 4 translation, 5 other
  issue : Nat
  baddr : Nat
deriving DecidableEq, Repr

/-- A core (R25 to R33, R48). -/
structure Core where
  launch : Option Nat
  rank : Nat
  hive : Nat                 -- virtual hive
  coreid : Nat
  vdie : Nat
  started : Bool
  halted : Bool
  haltRef : Nat
  s : Table Word
  f : BitVec 7
  m : Table Mask
  v : Table Vec
  z : Table Vec
  t : Table Row              -- key tile * 128 + row
  tPoison : Table Bool
  acc : Table Vec            -- key accumulator * 128 + row
  accFlags : Table (BitVec 8)
  a : Table Word
  h : Table Handle
  bf : Table BufRec
  b : Table (Option Nat)
  w : BitVec 32
  nt : Table Word
  ntTaken : BitVec 4
  ntReq : Nat                -- request pointer
  ntTake : Nat               -- take pointer
  ntCount : Nat              -- requests made, for the static order of R43
  ntNull : Bool              -- a null answer has been given
  lp : Table LoopCtr
  cw : Table Nat
  spill : Table Word
  code : Table Word          -- key frame * 8192 + word; unfilled memory reads as all ones (R84)
  frameSeg : Table (Option Nat)
  frameAge : Table Nat       -- reference cycle at which a frame's last copy began
  cursor : Option Nat        -- segment-table cursor; none when exhausted
  overlay : Option Overlay
  wb : Table Line            -- weight buffer, by line
  wbPoison : Table Bool
  usteps : Table Word
  routines : Table Word
  levels : Table (BitVec 16) -- key table * 16 + code
  conv : Table (BitVec 16)   -- key engine * 256 + code
  convBf : BitVec 2
  cycle : Nat
  refcyc : Nat
  fpflags : BitVec 8
  flagsAt : Nat              -- reference cycle at which engines last ORed flags in, plus 1,
  flagsIn : BitVec 8         --   and the flags that they ORed in that cycle (R31)
  sig : BitVec 32
  prt : Bool
  segbase : Nat
  drones : Nat
  lates : Nat
  segstall : Nat
  waitholds : Nat
  xlholds : Nat
  lbholds : Nat
  cqholds : Nat
  bankholds : Nat
  pgfreezes : Nat
  rollbacks : Nat
  faults : Nat
  preempts : Nat
  heldcyc : Nat
  oob : Nat
  pc : Nat
  rep : Nat                  -- repetition index to issue
  waitOk : Bool              -- the wait of this bundle has been satisfied (R87)
  skip : Bool                -- the next repetition issues with every syllable suppressed (SKIP of R351)
  turn : Nat                 -- first reference cycle not yet accounted for
  hold : Nat                 -- cause of R48 charged last; 0 none
  frozen : Nat               -- reference cycles of the present late landing or landing-buffer hold (R361),
  frozenBy : Nat             --   and its cause of R48, 5 or 9; 0 none
  iPc : Nat                  -- the repetition being issued: bundle address,
  iNext : Nat                --   address after it on the fall-through path,
  iRep : Nat                 --   repetition index,
  iCyc : Nat                 --   and issue cycle
  iLast : Bool               --   whether it is the bundle's last repetition
  iTaken : Bool              --   whether its header transfer is taken
  iTarget : Nat              --   and the target of the transfer
  hOld : Option (Nat × Handle)  -- a handle as it stood before an XLATE of this repetition (R127)
  sticky : Table (Option Sticky)
  writes : List Write
  reqs : List Request
  running : Option Routine
  waiting : Option Routine
  child : Option (List Word)
  phases : Table PhaseSt
  seq : Nat                  -- program order numbers given out
  fences : List Fence
  cmds : Table (List Command)   -- by engine
  atomIds : Table Nat        -- next identifier by target
  sends : Table Nat          -- SENDs issued by circuit entry
  recvs : Table Nat          -- RECVs issued by circuit entry
  boardings : List Boarding  -- newest first
  region : Region
  rerun : Option Rerun
  setAt : Table Nat          -- reference cycle at which a wait flag was last set, plus 1
  elFault : List (FaultInfo × Nat) -- the faults that elements, translations, messages and dropped requests have met in this reference
                             --   cycle, with their handles: they are raised with the faults of the cores' cycles, in ascending core number (R345)
  later : List (FaultInfo × Nat) -- the faults met in a rollback of the placement, which stop it when the rollback ends (R359)
  drawn : Nat                -- open values that the launch has drawn on this core
deriving DecidableEq, Repr

/-! ## Launches -/

/-- The states of a launch (R320, R324, R342, R346). -/
inductive LaunchState where
  | waiting                  -- waits for its dependences or admission
  | admitted                 -- admitted, before cycle 0
  | running
  | stopped                  -- stopped by a fault, a trap or a freeze
  | saving                   -- pre-empted, save in progress
  | saved
  | ended                    -- its writes in flight have still to perform
deriving DecidableEq, Repr

/-- A record that has been written for a stop and not yet answered (R351). -/
structure StopRec where
  g : Nat
  kind : Nat
  code : Nat
  origin : Nat
  slot : Nat
  handle : Nat
  pending : Bool             -- waits for a free entry of the fault ring (R373)
  words : List Word
  answer : Option Nat        -- the accepted mode
deriving DecidableEq, Repr

/-- A circuit message (R219). -/
structure Message where
  entry : Nat
  srcG : Nat
  dstG : Nat
  data : Vec
  launch : Nat
  half : Nat                 -- halves departed
  sentAt : Option Nat        -- reference cycle at which the last of them departed
  held : Bool                -- waits in the egress hold (R356)
  arrived : Bool
  taken : Bool               -- a RECV has taken it; it is kept until the region of the receiver commits
  num : Nat                  -- place in the order of sends on the entry, from 0
deriving DecidableEq, Repr

/-- An indirect buffer or loop position of a queue (R327, R328). -/
structure Level where
  addr : Nat                 -- buffer address; 0 for the queue's own buffer
  count : Nat                -- its packets; 0 for the queue's own buffer
  next : Nat                 -- index of the next packet
  start : Nat                -- index at which the buffer was entered
  fetched : Table (BitVec 512)  -- packets read ahead, by index
  asked : List (Nat × Nat)   -- packets asked for from another device: index, and the access that reads it (R331, R382)
  skip : Nat                 -- packets that a PRED still skips
  loopStart : Option Nat     -- index of the LOOP packet of an active loop
  loopLeft : Nat             -- passes left after this one
deriving DecidableEq, Repr

/-- Lindin image header and sections that a launch uses (R39, R40). -/
structure Image where
  img : Nat                  -- IMG, virtual
  h : Nat
  c : Nat
  split : Nat
  dyn : Bool
  prt : Bool
  entry : Nat
  segbase : Nat
  tier0 : Nat
  step : Nat
deriving DecidableEq, Repr

/-- A claim group of a launch (R40, R232). -/
structure ClaimGroup where
  first : Nat                -- first claim word
  words : Nat
  kind : Nat                 -- 1 all, 2 hive, 3 ranks
  a : Nat
  b : Nat
  notify : Option Nat
  outcome : Option Nat
deriving DecidableEq, Repr

/-- A launch (R2, R3, R34 to R46, R324). -/
structure Launch where
  func : Nat
  queue : Nat
  slot : Nat
  lsn : Nat
  packet : List Word
  eaddr : Nat                -- virtual address of its packet
  pollAt : Nat               -- time at which the poll that saw it began
  prio : Nat
  pin : Bool
  chain : Bool
  image : Image
  state : LaunchState
  deps : List (Nat × Nat)    -- queue and LSN that it waits for
  depFailed : Bool
  decided : Option Nat       -- time of the first decision
  since : Nat                -- start of the time w of R333
  own : Nat                  -- a of R333 as it was at admission
  eff : Nat                  -- e of R333
  admittedAt : Nat
  start : Nat                -- device time of cycle 0
  cores : List Nat           -- global core numbers in rank order
  base0 : Nat                -- base of the tier-0 block in each hive
  dispensed : Nat            -- tile indices handed out
  phases : Table Nat         -- scope of a phase: 0 undeclared, 1 HIVE, 2 DIE, 3 DEVICE (R40, R228)
  groups : List ClaimGroup
  words : Nat                -- claim words declared
  commonsWord : Word         -- the flags of commons claim words (R40, R309)
  circuits : Table Word
  rho : Nat                  -- device time from which ρ of R218 counts
  savedAt : Nat              -- device time at which the save ended
  savedCores : List Core     -- the cores of a placement that is saved out, in rank order (R350)
  savedSteps : List (Nat × Nat × Instr) -- its steps that wait for the resume, with their offsets
  stops : List StopRec
  stopPos : Nat              -- calendar position of the stop
  stopAt : Nat               -- device time of the stop
  stopWay : Nat              -- 0 raised by another agent, 1 before an issue of that cycle, 2 after one
  walking : Nat              -- walks in progress that stopped it (R291)
  restart : Option Nat       -- reference cycle of the restart
  preempting : Bool
  fcode : Option Nat         -- code of the first record written for it (R325, R345)
  drn : Nat
  terminated : Option Nat    -- STATUS with which it is to end
  lastStart : Nat            -- start or last resume (R343)
  crossed : Bool             -- it has met a lost die link (R360)
  savedPoints : List (List Core) -- the checkpoint copies of a placement that is saved out, in rank order (R350)
  rise : List (Nat × Nat)    -- the rise allowance that it has reserved, by ramp slot (R338)
  fences : List (Nat × Fence) -- of one that has ended: the fences of its cores, for its last accesses (R130, R257)
  orphan : Nat               -- 0, or the number that tells its chain apart from those of a queue created anew, once its queue is destroyed (R329)
  final : Option (Nat × List Word) -- of one that has ended: the STATUS and the words of its completion record, which waits for its writes (R257)
deriving DecidableEq, Repr

/-- A claim proposal in flight (R234, R235). -/
structure Proposal where
  word : Nat                 -- coded word: launch * 2^24 + hive * 2^16 + k, or 2^60 + entry
  launch : Nat
  g : Option Nat             -- proposing core; none for a queue
  queue : Nat
  func : Nat                 -- function of the queue or of the core's launch
  rank : Nat                 -- rank of the core; 0xFF for a queue
  order : Nat                -- global core number, or 256 + slot
  prio : Nat
  value : BitVec 48
  window : Nat
  bound : Nat
  seq : Nat                  -- program order of the CLAIM
  reqId : Nat
  raddr : Nat
  packet : Nat               -- virtual address of its packet
  departed : Option Nat      -- P
  decision : Option Nat      -- D
  objectors : List (Nat × Nat)   -- launches and ranks that objected in the window
  overtakenBy : List (Nat × Nat × Nat × Nat)  -- priority, order, launch and rank of proposals that rank above it
  done : Bool
deriving DecidableEq, Repr

/-- A claim word (R232, R237). -/
structure ClaimWord where
  value : BitVec 48
  last : Nat                 -- LAST of R237
  lastLaunch : Nat
  lastRank : Nat
deriving DecidableEq, Repr

/-- A sample of a claim word on its way (R237). -/
structure Sample where
  word : Nat
  launch : Nat
  rank : Nat
  reqId : Nat
deriving DecidableEq, Repr

/-- A message of ARRIVE (R229). -/
structure ArriveMsg where
  launch : Nat
  phase : Nat
  gen : Bool
  src : Nat
  dst : Nat
  seq : Nat
  latency : Nat
  departed : Bool
deriving DecidableEq, Repr

/-! ## Memory system -/

/-- A translation-cache entry (R291), most recently used first in its hive's list. -/
structure CacheEntry where
  func : Nat
  page : Nat
  ipage : Nat
  ppage : Nat
  run : Nat
  read : Bool
  write : Bool
deriving DecidableEq, Repr

/-- A shootdown request in progress (R292). -/
structure Shootdown where
  func : Nat
  kind : Nat                 -- 0 stage-1 range, 1 stage-2 range, 2 whole function
  first : Nat
  count : Nat
  waitCores : List Nat       -- cores it has not reached
  reached : List (Nat × Nat × Nat) -- the members that it has reached, by launch and rank, with their program order number then
  host : Bool                -- reports in CMDST rather than SHOOTN
deriving DecidableEq, Repr

/-! ## Front end -/

/-- What blocks a queue (R320). -/
inductive Block where
  | none
  | launch (l : Nat)
  | chain (lsn : Nat)
  | bind                     -- its first bind waits for the next frame (R317, R319)
  | commons (r : Nat)
  | remote (a : Nat)         -- waits for an access of the shepherd (R326)
deriving DecidableEq, Repr

/-- A software queue: the shadow of its control block and the shepherd's private state (R313, R316, R317). -/
structure Queue where
  qcb : Nat                  -- IO virtual address of the QCB
  word0 : Word               -- shadow of the privileged word
  func : Nat
  maxPri : Nat
  pinOk : Bool
  ring : Bool
  stepMax : Nat
  state : Nat                -- 0 idle, 1 bound, 2 error, 3 in reset
  ecode : Nat
  slot : Option Nat
  lsn : Nat
  eaddr : Nat
  head : Nat
  buffer : List (BitVec 512)
  levels : List Level        -- innermost last
  refs : List (Nat × Nat)    -- references of DEPEND packets for the next LAUNCH
  dependPending : Bool
  blocked : Block
  doorbell : Option Nat      -- time of the pending doorbell
  ended : List (Nat × Nat)   -- LSN and STATUS of chains that have ended
  got : Option (List Byte)   -- what the shepherd has read for the packet in hand from another device (R326)
  rbase : Nat                -- RBASE, RLOG and TAIL as read at the last bind or poll
  rlog : Nat
  tail : Nat
deriving DecidableEq, Repr

/-- A function's configuration and BAR2 registers (R366, R367, R373). -/
structure Func where
  written : List Word        -- configuration record as last written
  applied : List Word        -- as last applied by EXEC
  resq : Word
  resMode : Word
  shootVa : Word
  shootN : Word
  shootBusy : Bool
  s1Root : Word
  frBase : Word
  frHead : Nat
  frTail : Nat
  misuse : Nat
  linkErr : Nat
  resetting : Bool           -- a function-level reset is in progress
  hostBytes : Nat            -- host-bound bytes in this 4 µs frame
  frHeld : List (List Word)  -- records that wait for the next frame's budget (R370)
  lastHost : Option Nat      -- the last host address that its cores have written (R379)
  key : List Word            -- the key in force: of the applied record, or from the device's random source (R284, R286, R380)
  ats : Bool                 -- its host requests go out translated (R378)
deriving DecidableEq, Repr

/-! ## The commons -/

/-- A subscription (R297). -/
structure Subscription where
  queue : Nat
  func : Nat
  sub : Nat
  limit : Nat
  hard : Bool
  computed : Nat
  inForce : Nat
  pages : List Nat           -- physical 64 KiB pages of its status block and notice ring, in order (R297)
  off : Nat                  -- offset of the status block in the first of them
  va : Option Nat            -- virtual address that a shootdown is matched with (R302); none for a tier-0 region
  ipages : List Nat          -- the intermediate pages of its pages; none for a tier-0 region
  ext : Nat
  recNum : Nat               -- SBF
  notice : Option (Nat × Nat × Nat) -- launch, rank and flag that are told of notices
  seqNo : Nat
  capPaid : Nat
  fetPaid : Nat
  nprod : Nat
  stopped : Bool             -- a shootdown has stopped its writes (R302)
deriving DecidableEq, Repr

/-- A tile in delivery: its image, headers and mark (R305, R308). -/
structure Staged where
  img : List Byte
  hdr : List Byte
  poison : Bool
  read : Bool                -- it has been read: from HBM, or its deep-tier read has ended (R307)
  fetched : Bool             -- its fetch cycle has come
  retried : Bool             -- a failing deep-tier read is retried from the replica (R308)
  at_ : Nat                  -- reference cycle before which it is complete in no slot
deriving DecidableEq, Repr

/-- A directory entry (R294). -/
structure DirEntry where
  words : List Word          -- words 0 to 9 as written by CREATE
  state : Nat                -- 0 free, 1 held, 2 unheld
  tier : Nat
  fmt : Nat
  nt : Nat
  cost : Nat
  rights : Word
  clw : BitVec 48
  run : Bool
  pre : Nat
  period : Nat
  fstart : Nat
  capSum : Nat
  fetSum : Nat
  poisoned : List Nat
  subs : List Subscription   -- in ascending age
  lastLeft : Option Nat      -- period in which the last subscription lapsed
  unheldAt : Option Nat      -- boundary at which it became unheld
  first : Nat                -- number of the present schedule's first tile: tiles are numbered on from one schedule to the
  nextSeq : Nat              --   next, so that tile q is tile q mod NT of the entry; and those fetched before the last stop lie below this
  staged : Table Staged      -- tiles in delivery by their numbers (R305)
deriving DecidableEq, Repr

/-- A commons request waiting for the directory to act (R239, R330). -/
structure CommonsReq where
  kind : Nat                 -- 0 SUBSCRIBE, 1 LAPSE, 2 BOARD, 3 ALIGHT, 4 CSTAT
  rank : Option Nat          -- rank of the core; none for a packet
  queue : Nat
  func : Nat
  launch : Nat
  sub : Nat
  block : List Word
  flag : Option Nat
  reqId : Nat
  due : Nat                  -- reference cycle at which the directory acts on it
  raddr : Nat
  packet : Nat               -- virtual address of its packet
  saddr : Nat
  sext : Nat
  result : Option Word       -- the result, once the directory has acted: it is answered when the writes of the act have performed (R301)
  waits : List Nat           -- those of them that wait
deriving DecidableEq, Repr

/-! ## Links and management -/

/-- An outgoing packet with the function that owns it (R386, R390). -/
structure OutPacket where
  func : Nat
  pkt : Packet
deriving DecidableEq, Repr

/-- A link (R384 to R392). Flits are kept without their acknowledgment fields and CRC, which a flit takes as it leaves. -/
structure Link where
  up : Bool
  lanesFailed : List Nat
  spareUsed : Bool           -- the spare lane has been given to a failed lane
  spareAt : Option Nat       -- ATSEQ of this end, until its transmitter has moved
  switchAt : Option Nat      -- ATSEQ of the other end, until the receiver has moved
  heard : Bool               -- the other end's SPARE or SPAREACK has been received
  seqOut : Nat               -- SEQ of the next flit
  seqIn : Nat                -- SEQ expected next
  ackIn : Bool               -- a flit has been accepted
  nakDue : Bool
  unacked : List (Nat × BitVec 1792)  -- flits sent and not acknowledged, oldest first
  replay : List (BitVec 1792)         -- flits to send again
  queues : Table (List OutPacket)     -- by function; 64 for service traffic
  waiting : Table (List OutPacket)    -- by function: packets for which its queue of 96 flits has no room yet (R390)
  compress : Table Bool      -- by function
  control : List (BitVec 128)         -- control messages to send
  inParts : List (List Byte) -- bytes of the packets that continue, the one continued longest ago first
  lastFlit : Nat             -- reference cycle of the last flit received
  last : Option (BitVec 1792)         -- the flit that left at the last flit time, if one did
  outParts : Table (List Byte)        -- by function: the bytes of a packet in transmission that have not left
  apart : Bool               -- the other end has been reset and its domain count is not aligned (R392)
deriving DecidableEq, Repr

/-- A packet received and not yet served (R386). -/
structure InPacket where
  link : Nat
  pkt : Packet
  due : Nat                  -- reference cycle at which it is looked at
  tfunc : Option Nat         -- the target function of the export entry that has admitted it (R382)
  lines : List (Nat × Nat × Nat × Nat) -- its lines that have not performed: when, then offset, address and length
  got : List Byte            -- what the lines that have performed read
  psn : Bool                 -- and whether one of them was poisoned
deriving DecidableEq, Repr

/-- A request outstanding to another device (R382, R389). -/
structure Remote where
  access : Nat
  piece : Nat                -- piece of the access
  func : Nat                 -- function on whose behalf it goes
  link : Nat
  pkt : Packet
  dev : Nat
deriving DecidableEq, Repr

/-- A firmware component (R408). -/
structure Firmware where
  version : Nat
  digest : BitVec 512
deriving DecidableEq, Repr

/-- The module. -/
structure State where
  now : Nat                          -- device time in reference cycles
  domCount : Nat
  aligned : Bool                     -- the domain count has been aligned (R392)
  up : Bool                          -- powered and brought up, no fatal error
  mem : List Host.Cell               -- physical memory
  poison : Table Bool                -- by line address / 64
  lanes : Table Nat                  -- last cycle in which a lane served a line: (core * 3 + lane) * 32 + bank, plus 1
  ports : Table Nat                  -- last cycle served by a remote port: hive * 32 + bank, plus 1
  calendar : Table Nat               -- position time last taken by a core in a group: core * 24 + group, plus 1
  bankErrs : Table (List Nat)        -- times of a bank's corrected errors, newest first
  flaws : Table Nat                  -- by line: the errors of its cells: of an HBM line, a bit for each of its 72 symbols in error, and bit 72
                                     --   when its MAC does not match (R279, R287); of another, 1 corrected, 2 not corrected (R272)
  badCounters : List Nat             -- 4 KiB blocks whose counter line fails its tree check (R287)
  minor : Table Nat                  -- minor counters of HBM lines
  major : Table Nat                  -- major counters of 4 KiB blocks
  tree : Table Nat                   -- counter tree: level * 2^32 + index
  roSets : List Nat                  -- sets that counter exhaustion has made read-only, by lowest group
  reencrypt : Table Nat              -- blocks being re-encrypted, with the reference cycle at which that ends
  refreshPlan : Table Nat            -- by channel: time of the last plan update, plus 1
  refreshHot : List Nat              -- channels at the 16 ms interval
  takeover : Table (Option Nat)      -- channels under sentinel refresh, with the reference cycle at which it ends once released
  tsvErrs : Table (List (Nat × Nat)) -- by channel * 32 + group: corrected lines with their times, newest first (R280)
  tsvFailed : Table (List Nat)       -- by channel, in the order of their marking
  tsvSpared : Table Nat              -- how many of them have a spare
  sweep : Table Nat                  -- by channel * 32 + group: next line of its sparing sweep
  onSpare : Table (List Nat)         -- by line: the groups whose symbols a write has placed on their spares
  setTable : Table Nat               -- HBM set masks by lowest group, as written
  setApplied : Table Nat             -- as applied by EXEC
  comSet : Word
  comSetApplied : Word
  funcs : Table Func
  tcache : Table (List CacheEntry)   -- by hive
  shoots : Table Shootdown
  launches : Table Launch
  cores : Table Core
  checkpoints : Table (List Core)    -- checkpoint copy of a core (R354), and the entry state of its region
  accesses : Table Access
  messages : Table Message
  arrives : Table ArriveMsg
  proposals : Table Proposal
  claimWords : Table ClaimWord
  samples : Table Sample
  queues : Table Queue
  slots : Table (Option Nat)         -- bound queue
  reserved : Table Nat               -- watts reserved by ramp slot
  ramps : List (Nat × Nat × List Nat)  -- ramp-downs: launch, watts left, cores
  riseNow : Nat
  fallNow : Nat
  capNow : Nat
  hot : List Nat                     -- dies whose junction has reached 95 °C and has not fallen below 90 °C
  govRise : Nat
  govFall : Nat
  govCap : Nat
  directory : Table DirEntry
  commonsReqs : Table CommonsReq
  period : Nat
  hostFn : Nat                       -- the host's register write in hand: its function and its value (R371)
  hostVal : Word
  cmd : Word                         -- CMD as last written (R374)
  operands : Table Word              -- BAR4 command operands, by offset / 8
  cmdst : Word
  cmdLeft : Option Nat               -- host bytes that the command in hand has still to read, once it has begun to (R370)
  devnum : Nat
  lschedAt : Nat
  exports : Table (List Word)
  routes : Table Word
  lsched : Table Nat                 -- written: link * 256 + position; 255 by default
  lschedNow : Table Nat              -- in force
  links : Table Link
  ctlIn : List (Nat × BitVec 128)    -- control messages received and not yet acted on, with their link
  pktIn : Table InPacket             -- packets received and not yet served
  remotes : Table Remote             -- requests outstanding to other devices
  atomReplies : Table (List (Nat × Nat × BitVec 32))  -- by target: source, identifier and reply, newest first
  hrBase : Word
  hrHead : Nat
  hrTail : Nat
  hrLost : Nat
  hrHeld : List (List Word)
  hrCounts : Table Nat
  hrLog : List (List Word)           -- the last 16,384 health records, newest first
  dumpBase : Word
  dumpSize : Nat
  fused : List SpareUnit             -- spares brought in
  spareDue : List SpareUnit          -- spares scheduled for the next boundary
  bankBusy : List Nat                -- hives whose bank copy is in progress
  outOfService : List Nat            -- hives with no spare bank left
  coresLost : List Nat               -- positions whose core is retired and has no spare (R400)
  rollTimes : Table (List Nat)       -- reference cycles of a core's successful rollbacks
  shepFailed : List Nat              -- failed shepherd cores: die * 8 + i
  shepDead : List (Nat × Nat)        -- polling positions unserved until a frame: die * 8 + i, frame
  dieLink : Bool
  staged : Table Firmware            -- firmware images stored for the next device reset, by KIND
  running : Table Firmware           -- components started from such images, by KIND
  fusedMin : Table Nat
  attestations : Nat
  lastRec : Table (List Word)        -- the last fault record of a core (R345, R403)
  sysKey : List Word                 -- the key of the sets that no record names, drawn at bring-up (R284, R406)
  mgmtFailed : Bool                  -- the management firmware has failed its verification (R408)
  chain : List Byte                  -- the certificate chain returned with the last attestation (R407)
  ats : List (Nat × Nat)             -- the translation cache of host requests, newest first: function and page (R378)
  hostReply : Nat                    -- completion of the host's last portal request: 1 successful, 2 retry, 3 abort, 4 unsupported, 5 all ones
  msix : List (Nat × Nat)            -- MSI-X messages sent: function and vector, oldest first
  agenda : List (Nat × Nat × Instr)  -- steps that are due: time, order within the time, step
  micro : List Instr                 -- syllables of the repetition being issued
  cur : Nat                          -- core whose syllables are being run
  issuing : Bool                     -- a repetition of that core has issued and is to end
  told : List (Nat × Nat × Nat × Nat)  -- notice flags that wait for a write: its access, then launch, rank and flag (R301)
  fresh : Nat                        -- counter of free values
  nextId : Nat                       -- number of the next access, request, message or launch
deriving DecidableEq, Repr

/-! ## Reset -/

/-- An invalid handle (R26). -/
def Handle.reset : Handle :=
  { valid := false, base := 0, extent := 0, write := false, va := 0, ipa := 0, region := none, cut := false, xl := none }

/-- An undeclared buffer record: extent 0, mode `trap` (R26). -/
def BufRec.reset : BufRec :=
  { hnum := 0, mode := 0, fmt := 0, win := 0, base := 0, ext := 0, str0 := 0, str1 := 0 }

/-- A loop counter at reset (R25). -/
def LoopCtr.reset : LoopCtr := { active := false, count := 0, start := 0 }

/-- A phase at launch start (R229). -/
def PhaseSt.reset : PhaseSt :=
  { isOpen := false, gen := false, cnt0 := 0, cnt1 := 0, flag := 0, line := false, seq := 0, word := 0, baddr := 0, issue := 0 }

/-- A region with an empty log (R354). -/
def Region.reset : Region := { num := 0, uncontained := 0, bytes := 0, units := [], lines := [], once := [] }

/-- The null answer of NEXTTILE (R44), at which `nt0` to `nt3` start (R25). -/
def ntNullWord : Word := 0x8000000000000000

/-- A core at launch start (R25 to R32), placed in no launch. -/
def Core.reset : Core :=
  { launch := none, rank := 0, hive := 0, coreid := 0, vdie := 0, started := false, halted := false, haltRef := 0
    s := [], f := 0, m := [], v := [], z := [], t := [], tPoison := [], acc := [], accFlags := [], a := [], h := []
    bf := [], b := [], w := 0, nt := [], ntTaken := 0xF, ntReq := 0, ntTake := 0, ntCount := 0, ntNull := false
    lp := [], cw := [], spill := [], code := [], frameSeg := [], frameAge := [], cursor := some 0
    overlay := none, wb := [], wbPoison := [], usteps := [], routines := [], levels := [], conv := [], convBf := 0
    cycle := 0, refcyc := 0, fpflags := 0, flagsAt := 0, flagsIn := 0, sig := 0xFFFFFFFF, prt := false, segbase := 0, drones := 0, lates := 0
    segstall := 0, waitholds := 0, xlholds := 0, lbholds := 0, cqholds := 0, bankholds := 0, pgfreezes := 0
    rollbacks := 0, faults := 0, preempts := 0, heldcyc := 0, oob := 0, pc := 0, rep := 0, waitOk := false
    skip := false, turn := 0, hold := 0, frozen := 0, frozenBy := 0, iPc := 0, iNext := 0, iRep := 0, iCyc := 0, iLast := false
    iTaken := false, iTarget := 0, hOld := none, sticky := [], writes := [], reqs := [], running := none, waiting := none, child := none
    phases := [], seq := 0, fences := [], cmds := [], atomIds := [], sends := [], recvs := [], boardings := []
    region := Region.reset, rerun := none, setAt := [], elFault := [], later := [], drawn := 0 }

/-- A function at device reset: EN = 0 (R406), every register 0 (DESIGN CHOICE, log entry 5). -/
def Func.reset : Func :=
  { written := List.replicate 16 0, applied := List.replicate 16 0, resq := 0, resMode := 0, shootVa := 0, shootN := 0
    shootBusy := false, s1Root := 0, frBase := 0, frHead := 0, frTail := 0, misuse := 0, linkErr := 0
    resetting := false, hostBytes := 0, frHeld := [], lastHost := none
    key := List.replicate 4 0, ats := false }

/-- A free directory entry (R294, R406). -/
def DirEntry.reset : DirEntry :=
  { words := [], state := 0, tier := 0, fmt := 0, nt := 0, cost := 0, rights := 0, clw := 0, run := false, pre := 0
    period := 0, fstart := 0, capSum := 0, fetSum := 0, poisoned := [], subs := [], lastLeft := none
    unheldAt := none, first := 0, nextSeq := 0, staged := [] }

/-- A link after training (R406 step 6). -/
def Link.reset : Link :=
  { up := true, lanesFailed := [], spareUsed := false, spareAt := none, switchAt := none, heard := false, seqOut := 0, seqIn := 0
    ackIn := false, nakDue := false, unacked := [], replay := [], queues := [], compress := [], control := [], inParts := []
    lastFlit := 0, last := none, outParts := [], apart := false, waiting := [] }

/-- A claim word at launch start (R232, R237). -/
def ClaimWord.reset : ClaimWord := { value := 0, last := 3, lastLaunch := 0, lastRank := 0xFF }

/-- The timed steps that recur from reset on: frames, ramp slots, directory periods and flit times (R319, R337,
R295, R384), each at its first time after device time 0; and, for each channel, the sentinel's takeover if no plan update comes
within half of 32 ms from the plans of bring-up (R282, R283, R406). -/
def firstAgenda : List (Nat × Nat × Instr) :=
  [(6, 0, .flitTime), (3000, 1, .rampSlotBoundary), (3000, 2, .admissionPass), (12000, 0, .frameStart),
   (3000000, 0, .periodBoundary)] ++ (List.range 24).map fun ch => (48000000, 0, .refreshTakeover ch)

/-- The module right after reset and bring-up (R25, R405, R406): device time 0, memory zero, no function enabled,
no queue, no launch. Registers to which no rule gives a reset value hold 0 (DESIGN CHOICE, log entry 5). -/
def State.reset : State :=
  { now := 0, domCount := 0, aligned := true, up := true, mem := [], poison := [], lanes := [], ports := [], calendar := []
    bankErrs := [], flaws := [], badCounters := [], minor := [], major := [], tree := [], roSets := [], reencrypt := [], refreshPlan := [], refreshHot := [], takeover := []
    tsvErrs := [], tsvFailed := [], tsvSpared := [], sweep := [], onSpare := [], setTable := [], setApplied := [], comSet := 0, comSetApplied := 0
    funcs := [], tcache := [], shoots := [], launches := [], cores := [], checkpoints := [], accesses := []
    messages := [], arrives := [], proposals := [], claimWords := [], samples := [], queues := [], slots := []
    reserved := [], ramps := [], riseNow := 200, fallNow := 200, capNow := 2800, hot := [], govRise := 200
    govFall := 200, govCap := 2800, directory := [], commonsReqs := [], period := 0, hostFn := 0, hostVal := 0, cmd := 0, operands := [], cmdst := 0, cmdLeft := none
    devnum := 0, lschedAt := 0, exports := [], routes := [], lsched := [], lschedNow := [], links := []
    ctlIn := [], pktIn := [], remotes := [], atomReplies := [], hrBase := 0, hrHead := 0, hrTail := 0, hrLost := 0, hrHeld := [], hrCounts := []
    hrLog := [], dumpBase := 0, dumpSize := 0, fused := [], spareDue := [], bankBusy := [], outOfService := [], coresLost := []
    rollTimes := [], shepFailed := [], shepDead := [], dieLink := true, staged := [], running := [], fusedMin := []
    attestations := 0, lastRec := [], sysKey := (List.range 4).map fun i => Config.randomWord (2 ^ 64 + i), mgmtFailed := false, chain := [], ats := [], hostReply := 0, msix := [], agenda := firstAgenda, micro := [], cur := 0, issuing := false, told := [], fresh := 0, nextId := 1 }

end Sys2Proof.Machine
end

