-- ==== Sys2Proof/Machine/Ops.lean ====
section
/-!
DEFINITION. The named operations over tables, memory, registers, the agenda, and stops: taking a fault, a trap or a
freeze (R344 to R348) and the return from one (R349, R351).
-/
namespace Sys2Proof

/-! ## Sparse tables -/

/-- The entry of a number, the default `d` when none is listed. -/
def Table.get {α : Type} (d : α) : Table α → Nat → α
  | [], _ => d
  | (k, v) :: rest, n => if n = k then v else if n < k then d else Table.get d rest n

/-- The table with the entry of a number removed. -/
def Table.del {α : Type} : Table α → Nat → Table α
  | [], _ => []
  | (k, v) :: rest, n => if n = k then rest else if n < k then (k, v) :: rest else (k, v) :: Table.del rest n

/-- The table with the entry of a number put in its place. -/
def Table.put {α : Type} : Table α → Nat → α → Table α
  | [], n, x => [(n, x)]
  | (k, v) :: rest, n, x =>
    if n = k then (n, x) :: rest else if n < k then (n, x) :: (k, v) :: rest else (k, v) :: Table.put rest n x

/-- Write an entry, keeping the table's canonical form: writing the default removes the entry. -/
def Table.set {α : Type} [DecidableEq α] (d : α) (t : Table α) (n : Nat) (x : α) : Table α :=
  if x = d then t.del n else t.put n x

/-- The entry of a number, if one is listed. -/
def Table.find {α : Type} (t : Table α) (n : Nat) : Option α :=
  (Table.get none (t.map fun (k, v) => (k, some v)) n)

/-- Every number listed lies above `lo`, in strictly rising order, and no entry is the default. -/
def Table.wfFrom {α : Type} [DecidableEq α] (d : α) : Nat → Table α → Bool
  | _, [] => true
  | lo, (k, v) :: rest => decide (lo ≤ k) && decide (v ≠ d) && Table.wfFrom d (k + 1) rest

/-- The canonical form of a table. -/
def Table.wf {α : Type} [DecidableEq α] (d : α) (t : Table α) : Bool := Table.wfFrom d 0 t

namespace Machine

/-- The outcome of a step. -/
abbrev Res := Host.Outcome State Fault Refusal

/-! ## Memory (R246, R264) -/

/-- The canonical form of memory: rising addresses, no byte listed that an unlisted address reads as. -/
def Memory.wf (m : List Host.Cell) : Bool := Table.wf (0 : Byte) m

/-- The byte at a physical address. An unlisted byte reads 0 (DESIGN CHOICE, log entry 4). -/
def readByte (s : State) (a : Nat) : Byte := Table.get (0 : Byte) s.mem a

/-- Write the byte at a physical address. -/
def writeByte (s : State) (a : Nat) (b : Byte) : State := { s with mem := Table.set (0 : Byte) s.mem a b }

/-- `n` bytes from a physical address, lowest first. -/
def readBytes (s : State) (a : Nat) : Nat → List Byte
  | 0 => []
  | n + 1 => readByte s a :: readBytes s (a + 1) n

/-- Write bytes from a physical address on. -/
def writeBytes (s : State) (a : Nat) : List Byte → State
  | [] => s
  | b :: bs => writeBytes (writeByte s a b) (a + 1) bs

/-- Write those bytes of a run that are given. -/
def writeMasked (s : State) (a : Nat) : List (Option Byte) → State
  | [] => s
  | none :: bs => writeMasked s (a + 1) bs
  | some b :: bs => writeMasked (writeByte s a b) (a + 1) bs

/-- A little-endian number from its bytes (R19). -/
def leNat (b : List Byte) : Nat := b.foldr (fun x acc => acc * 256 + x.toNat) 0

/-- The low `n` bytes of a number, lowest first (R19). -/
def leBytes (n x : Nat) : List Byte := bytesOfNat n x

/-- The little-endian word of 8 bytes at a physical address. -/
def readWord (s : State) (a : Nat) : Word := BitVec.ofNat 64 (leNat (readBytes s a 8))

/-- Write a little-endian word of 8 bytes. -/
def writeWord (s : State) (a : Nat) (w : Word) : State := writeBytes s a (leBytes 8 w.toNat)

/-- First address of the scratchpads (R264). -/
def scratchBase : Nat := 0x10000000000
/-- First address of the deep tier (R264). -/
def deepBase : Nat := 0x20000000000
/-- First address of the domain window (R264). -/
def domainBase : Nat := 0x4000000000000
/-- First address of host memory (R264). -/
def hostBase : Nat := 0x8000000000000

/-- R264: an HBM address. -/
def isHbm (pa : Nat) : Bool := pa < 0xC000000000
/-- R264: a scratchpad address. -/
def isScratch (pa : Nat) : Bool := scratchBase ≤ pa && pa < scratchBase + 24 * 0x1000000
/-- R264: a deep-tier address. -/
def isDeep (pa : Nat) : Bool := deepBase ≤ pa && pa < 2 * deepBase
/-- R264: a domain-window address. -/
def isDomain (pa : Nat) : Bool := domainBase ≤ pa && pa < hostBase
/-- R264: a host-memory address. -/
def isHost (pa : Nat) : Bool := hostBase ≤ pa && pa < 2 * hostBase

/-- The hive of a scratchpad address, 12d + k (R264). -/
def hiveOf (pa : Nat) : Nat := (pa - scratchBase) / 0x1000000
/-- The bank of a scratchpad byte: x[10:6] (R268). -/
def bankOf (pa : Nat) : Nat := pa / 64 % 32
/-- The 64-byte line of an address. -/
def lineOf (pa : Nat) : Nat := pa / 64

/-- The groups of a set mask, ascending (R273). -/
def groupsOf (mask : Nat) : List Nat := (List.range 24).filter fun g => mask.testBit g

/-- The set that holds an HBM address: its lowest group, its mask, and the address within its range (R273). -/
def findSet : Table Nat → Nat → Option (Nat × Nat × Nat)
  | [], _ => none
  | (g, mask) :: rest, a =>
    let size := (groupsOf mask).length * 0x800000000
    if a < size then some (g, mask, a) else findSet rest (a - size)

/-- The set of an HBM address under the table that EXEC applied. -/
def setOf (s : State) (pa : Nat) : Option (Nat × Nat × Nat) := findSet s.setApplied pa

/-- The channel group of an HBM byte (R273). -/
def groupOf (s : State) (pa : Nat) : Option Nat :=
  match setOf s pa with
  | none => none
  | some (_, mask, o) =>
    let gs := groupsOf mask
    gs[o / 128 % gs.length]?

/-- Whether an HBM address lies in the metadata part of its set, the top eighth of its range (R274), or in no set. -/
def isMetadata (s : State) (pa : Nat) : Bool :=
  match setOf s pa with
  | none => true
  | some (_, mask, o) => (groupsOf mask).length * 0x700000000 ≤ o

/-- First address of the commons set, if there is one (R273, R376). -/
def commonsBase (s : State) : Option Nat :=
  if s.comSetApplied.getLsbD 63 then
    let g := (s.comSetApplied.setWidth 5).toNat
    some ((s.setApplied.filter fun (k, _) => k < g).foldl
      (fun acc (_, mask) => acc + (groupsOf mask).length * 0x800000000) 0)
  else none

/-- Whether an HBM address falls in the commons set (R296). -/
def isCommons (s : State) (pa : Nat) : Bool :=
  match setOf s pa with
  | some (g, _, _) => s.comSetApplied.getLsbD 63 && g == (s.comSetApplied.setWidth 5).toNat
  | none => false

/-- The home slice of a byte: 12d + k for a scratchpad, 24 + g for HBM (R245); none outside the module. -/
def sliceOf (s : State) (pa : Nat) : Option Nat :=
  if isScratch pa then some (hiveOf pa)
  else if isHbm pa then (groupOf s pa).map (24 + ·)
  else none

/-- The die of a slice: hives 0 to 11 and groups 0 to 11 lie on die A (R245, R273). -/
def dieOfSlice (sl : Nat) : Nat := if sl < 24 then sl / 12 else (sl - 24) / 12

/-- Poison marks (R201). -/
def poisoned (s : State) (pa : Nat) : Bool := Table.get false s.poison (lineOf pa)
/-- Set or clear the poison mark of a line. -/
def setPoison (s : State) (pa : Nat) (p : Bool) : State := { s with poison := Table.put s.poison (lineOf pa) p }

/-! ## Cores and their registers -/

/-- A core of the module by its global core number (R36). -/
def State.core (s : State) (g : Nat) : Core := Table.get Core.reset s.cores g
/-- The state with a core replaced. -/
def State.setCore (s : State) (g : Nat) (c : Core) : State := { s with cores := Table.put s.cores g c }
/-- The core whose syllables are being run. -/
def State.curCore (s : State) : Core := s.core s.cur
/-- Change the core whose syllables are being run. -/
def State.updCur (s : State) (f : Core → Core) : State := s.setCore s.cur (f s.curCore)
/-- Change a core. -/
def State.updCore (s : State) (g : Nat) (f : Core → Core) : State := s.setCore g (f (s.core g))

/-- A scalar register: `s0` reads zero (R25). -/
def Core.sGet (c : Core) (r : Nat) : Word := if r = 0 then 0 else Table.get 0 c.s r
/-- A flag: `f7` reads 1 (R25). -/
def Core.fGet (c : Core) (r : Nat) : Bool := if r = 7 then true else c.f.getLsbD r
/-- A mask register. -/
def Core.mGet (c : Core) (r : Nat) : Mask := Table.get 0 c.m r
/-- A vector register. -/
def Core.vGet (c : Core) (r : Nat) : Vec := Table.get 0 c.v r
/-- A scale register. -/
def Core.zGet (c : Core) (r : Nat) : Vec := Table.get 0 c.z r
/-- A tile row: row `r` of tile `t` has key t * 128 + r. -/
def Core.tGet (c : Core) (k : Nat) : Row := Table.get 0 c.t k
/-- An accumulator row: row `r` of accumulator `n` has key n * 128 + r. -/
def Core.accGet (c : Core) (k : Nat) : Vec := Table.get 0 c.acc k
/-- The row flags of an accumulator row (R185). -/
def Core.accFlagGet (c : Core) (k : Nat) : BitVec 8 := Table.get 0 c.accFlags k
/-- A matrix parameter register. -/
def Core.aGet (c : Core) (r : Nat) : Word := Table.get 0 c.a r
/-- A handle. -/
def Core.hGet (c : Core) (r : Nat) : Handle := Table.get Handle.reset c.h r
/-- A handle as the syllables of the present repetition read it: as it stood before an XLATE of the same repetition
(R127). -/
def Core.hUse (c : Core) (r : Nat) : Handle :=
  match c.hOld with
  | some (n, h) => if n = r then h else c.hGet r
  | none => c.hGet r
/-- A handle replaced. -/
def Core.hSet (c : Core) (r : Nat) (h : Handle) : Core := { c with h := Table.put c.h r h }
/-- A buffer record. -/
def Core.bfGet (c : Core) (r : Nat) : BufRec := Table.get BufRec.reset c.bf r
/-- A branch target: none when it holds no prepared target (R26, R121). -/
def Core.bGet (c : Core) (r : Nat) : Option Nat := Table.get none c.b r
/-- A next-tile register; all start null (R25). -/
def Core.ntGet (c : Core) (r : Nat) : Word := Table.get ntNullWord c.nt r
/-- A loop counter. -/
def Core.lpGet (c : Core) (r : Nat) : LoopCtr := Table.get LoopCtr.reset c.lp r
/-- A claim window register. -/
def Core.cwGet (c : Core) (r : Nat) : Nat := Table.get 0 c.cw r
/-- A spill word. -/
def Core.spillGet (c : Core) (k : Nat) : Word := Table.get 0 c.spill k
/-- A phase. -/
def Core.phGet (c : Core) (p : Nat) : PhaseSt := Table.get PhaseSt.reset c.phases p
/-- A phase replaced. -/
def Core.phSet (c : Core) (p : Nat) (x : PhaseSt) : Core := { c with phases := Table.put c.phases p x }
/-- A level-table entry (R66). -/
def Core.levelGet (c : Core) (tab code : Nat) : BitVec 16 := Table.get 0 c.levels (tab * 16 + code)
/-- A conversion-table entry of an engine as it stands (R66). -/
def Core.convGet (c : Core) (e code : Nat) : BitVec 16 := Table.get 0 c.conv (e * 256 + code)
/-- A weight-buffer line. -/
def Core.wbGet (c : Core) (l : Nat) : Line := Table.get 0 c.wb l
/-- The queue of a copy engine. -/
def Core.cmdsOf (c : Core) (e : Nat) : List Command := Table.get [] c.cmds e
/-- The queue of a copy engine replaced. -/
def Core.setCmds (c : Core) (e : Nat) (q : List Command) : Core := { c with cmds := Table.put c.cmds e q }
/-- The sticky syllable of a slot. -/
def Core.stickyOf (c : Core) (sl : Nat) : Option Sticky := Table.get none c.sticky sl
/-- The sticky syllable of a slot replaced. -/
def Core.setSticky (c : Core) (sl : Nat) (x : Option Sticky) : Core := { c with sticky := Table.put c.sticky sl x }

/-- The place of a slot in the order of R83, as fault records code it (R345). -/
def slotNum : Slot → Nat
  | .s => 0 | .v0 => 1 | .v1 => 2 | .m => 3 | .k => 4 | .c0 => 5 | .c1 => 6

/-- The copy engine of a slot: 0 for C0, 1 for C1. -/
def engineOf : Slot → Nat
  | .c1 => 1
  | _ => 0

/-! ## Landings (R94, R95) -/

/-- Put a value into a wide unit where the enable mask is 1. -/
def merge {n : Nat} (old v en : BitVec n) : BitVec n := (old &&& (~~~en)) ||| (v &&& en)

/-- One bit of a register replaced. -/
def putBit {n : Nat} (w : BitVec n) (i : Nat) (b : Bool) : BitVec n :=
  if b then w ||| (BitVec.ofNat n (2 ^ i)) else w &&& (~~~ BitVec.ofNat n (2 ^ i))

/-- All bits of a wide unit. -/
def full (n : Nat) : BitVec n := BitVec.allOnes n

/-- Apply a landing to a core. A write to `s0` or `f7` is discarded (R25). A wait flag that is set in the same reference
cycle stays set (R95), and the flags of a copy command that completes in it are ORed in after a CSRW (R31), so `now` tells which
were set in it. A tile value that lands makes its register not taken, whatever take came before (R134; DESIGN CHOICE, log entry 144). -/
def applyEffect (now : Nat) (c : Core) : Effect → Core
  | .sReg r v => if r = 0 then c else { c with s := Table.put c.s r v }
  | .fReg r v =>
    if r = 7 then c
    else { c with f := putBit c.f r v }
  | .mReg r v en => { c with m := Table.put c.m r (merge (c.mGet r) v en) }
  | .vReg r v en => { c with v := Table.put c.v r (merge (c.vGet r) v en) }
  | .zReg r v en => { c with z := Table.put c.z r (merge (c.zGet r) v en) }
  | .tRow k v en p =>
    let mark := if p then true else if en = full 1024 then false else Table.get false c.tPoison k
    { c with t := Table.put c.t k (merge (c.tGet k) v en), tPoison := Table.put c.tPoison k mark }
  | .accRow k v fl => { c with acc := Table.put c.acc k v, accFlags := Table.put c.accFlags k fl }
  | .accZero n =>
    { c with acc := (List.range 128).foldl (fun t r => Table.put t (n * 128 + r) 0) c.acc
             accFlags := (List.range 128).foldl (fun t r => Table.put t (n * 128 + r) 0) c.accFlags }
  | .aReg r v => { c with a := Table.put c.a r v }
  | .ntReg r v => { c with nt := Table.put c.nt r v, ntTaken := putBit c.ntTaken r false }
  | .spill k v => { c with spill := Table.put c.spill k v }
  | .bReg r v => { c with b := Table.put c.b r v }
  | .lpReg r v => { c with lp := Table.put c.lp r v }
  | .cwReg r v => { c with cw := Table.put c.cw r v }
  | .csrFlags v => { c with fpflags := v ||| (if c.flagsAt = now + 1 then c.flagsIn else 0) }
  | .orFlags v => { c with fpflags := c.fpflags ||| v }
  | .clearWait m =>
    let keep := c.setAt.foldl (fun acc (k, t) => if t = now + 1 then putBit acc k true else acc) (0 : BitVec 32)
    { c with w := (c.w &&& (~~~m)) ||| (c.w &&& keep) }
  | .levelTable tab v =>
    let put := fun t i => Table.put t (tab * 16 + i) (v.extractLsb' (16 * i) 16)
    { c with levels := (List.range 16).foldl put c.levels }
  | .releaseHandle h => c.hSet h { c.hGet h with valid := false }

/-- The order of two landings of one cycle: the syllable issued later lands later, and of one cycle the later slot
(R95); a CSRW to `%fpflags` comes before the flags ORed in (R31). -/
def Write.before (a b : Write) : Bool :=
  match a.eff, b.eff with
  | .csrFlags _, .orFlags _ => true
  | .orFlags _, .csrFlags _ => false
  | _, _ => a.issue < b.issue || (a.issue == b.issue && a.slot ≤ b.slot)

/-- Insert a landing into a list in the order of R95. -/
def insertWrite (w : Write) : List Write → List Write
  | [] => [w]
  | x :: xs => if x.before w then x :: insertWrite w xs else w :: x :: xs

/-- Landings in the order of R95. -/
def sortWrites (ws : List Write) : List Write := ws.foldl (fun acc w => insertWrite w acc) []

/-- Make a write that lands at issue + `lat` of the repetition being issued (R94). -/
def land (s : State) (slot lat : Nat) (e : Effect) : State :=
  s.updCur fun c => { c with writes := c.writes ++ [{ due := c.iCyc + lat, issue := c.iCyc, slot := slot, eff := e }] }

/-- Make several writes that land together. -/
def landAll (s : State) (slot lat : Nat) : List Effect → State
  | [] => s
  | e :: es => landAll (land s slot lat e) slot lat es

/-! ## The agenda -/

/-- Insert a step into the agenda, after every entry of the same time and order. -/
def insertDue (t k : Nat) (i : Instr) : List (Nat × Nat × Instr) → List (Nat × Nat × Instr)
  | [] => [(t, k, i)]
  | (t', k', i') :: rest =>
    if t < t' || (t == t' && k < k') then (t, k, i) :: (t', k', i') :: rest else (t', k', i') :: insertDue t k i rest

/-- A step becomes due at a reference cycle, in an order among the steps of that cycle. -/
def State.due (s : State) (t k : Nat) (i : Instr) : State := { s with agenda := insertDue t k i s.agenda }

/-- A step becomes due unless it is due already. -/
def State.dueOnce (s : State) (t k : Nat) (i : Instr) : State :=
  if s.agenda.any fun (_, _, j) => j == i then s else s.due t k i

/-- Drop steps from the agenda. -/
def State.undue (s : State) (p : Instr → Bool) : State := { s with agenda := s.agenda.filter fun (_, _, i) => !p i }

/-- A fresh number for a free value (R202, R291: values the manual leaves open). -/
def State.tick (s : State) : State := { s with fresh := s.fresh + 1 }

/-- The place of the next value that the manual leaves open to a core (R202, R291): it counts what the core's own launch has drawn,
so that no other placement changes it (R6, R50, R396). -/
def State.place (s : State) (g : Nat) : Nat := g * 2 ^ 64 + (s.core g).drawn

/-- A core has drawn an open value. -/
def State.draw (s : State) (g : Nat) : State := s.updCore g fun c => { c with drawn := c.drawn + 1 }

/-- A fresh number for an access, a request, a message or a launch. -/
def State.newId (s : State) : Nat × State := (s.nextId, { s with nextId := s.nextId + 1 })

/-- The flags of a copy command are ORed into `%fpflags` (R31, R205). -/
def Core.orFlags (c : Core) (now : Nat) (f : BitVec 8) : Core :=
  { c with fpflags := c.fpflags ||| f, flagsAt := now + 1, flagsIn := if c.flagsAt = now + 1 then c.flagsIn ||| f else f }

/-- Set a wait flag (R225). A flag already set stays set. -/
def setWaitFlag (s : State) (g flag : Nat) : State :=
  s.updCore g fun c => { c with w := putBit c.w flag true, setAt := Table.put c.setAt flag (s.now + 1) }

/-- Set a wait flag that may be absent. -/
def setWaitFlag? (s : State) (g : Nat) : Option Nat → State
  | none => s
  | some f => setWaitFlag s g f

/-! ## Functions, launches, queues -/

/-- A function. -/
def State.func (s : State) (f : Nat) : Func := Table.get Func.reset s.funcs f
/-- A function changed. -/
def State.updFunc (s : State) (f : Nat) (u : Func → Func) : State :=
  { s with funcs := Table.put s.funcs f (u (s.func f)) }
/-- A word of the applied configuration record of a function (R367). -/
def Func.word (f : Func) (k : Nat) : Word := f.applied.getD k 0
/-- R367: function enabled. -/
def Func.en (f : Func) : Bool := (f.word 0).getLsbD 63
/-- R367: the first queue of the function. -/
def Func.qbase (f : Func) : Nat := (bits (f.word 1) 21 16).toNat
/-- R367: the number of queues. -/
def Func.qcnt (f : Func) : Nat := (bits (f.word 1) 37 17).toNat
/-- R367: MSI-X vector of fault records and events. -/
def Func.fvec (f : Func) : Nat := (bits (f.word 3) 40 11).toNat
/-- A launch. -/
def State.launch? (s : State) (l : Nat) : Option Launch := s.launches.find l
/-- A launch replaced. -/
def State.setLaunch (s : State) (l : Nat) (x : Launch) : State := { s with launches := s.launches.put l x }
/-- A launch changed. -/
def State.updLaunch (s : State) (l : Nat) (u : Launch → Launch) : State :=
  match s.launch? l with
  | some x => s.setLaunch l (u x)
  | none => s
/-- A queue. -/
def State.queue? (s : State) (q : Nat) : Option Queue := s.queues.find q
/-- A queue changed. -/
def State.updQueue (s : State) (q : Nat) (u : Queue → Queue) : State :=
  match s.queue? q with
  | some x => { s with queues := s.queues.put q (u x) }
  | none => s
/-- An MSI-X message of a function; none during its reset (R380). -/
def sendMsix (s : State) (f vec : Nat) : State :=
  if (s.func f).resetting then s else { s with msix := s.msix ++ [(f, vec)] }

/-- The function of a launch; the PF when there is none. -/
def funcOfLaunch (s : State) (l : Nat) : Nat :=
  match s.launch? l with | some x => x.func | none => 0

/-! ## Accounting (R48) -/

/-- A core's counter of a cause adds 1 (R48). -/
def bumpCause (c : Core) : Nat → Core
  | 1 => { c with preempts := c.preempts + 1 }
  | 2 => { c with faults := c.faults + 1 }
  | 3 => { c with pgfreezes := c.pgfreezes + 1 }
  | 4 => { c with rollbacks := c.rollbacks + 1 }
  | 5 => { c with lates := c.lates + 1 }
  | 6 => { c with segstall := c.segstall + 1 }
  | 7 => { c with xlholds := c.xlholds + 1 }
  | 8 => { c with waitholds := c.waitholds + 1 }
  | 9 => { c with lbholds := c.lbholds + 1 }
  | 10 => { c with cqholds := c.cqholds + 1 }
  | 11 => { c with bankholds := c.bankholds + 1 }
  | _ => c

/-- One reference cycle passes for a core: `%refcyc` advances, and a drone cycle runs when no routine holds the
array (R48, R340). -/
def passCycles (n : Nat) (c : Core) : Core :=
  { c with refcyc := c.refcyc + n, drones := if c.running.isSome then c.drones else c.drones + n }

/-- A reference cycle on which the core does not issue is charged to a cause of R48: `%heldcyc` adds 1, and the cause's
counter adds 1 when it becomes the charged cause. During a rollback every cycle is charged to it, and freezes are not counted
(R359). The present freeze or landing-buffer hold is counted on through a stop (R361). -/
def chargeHold (now cause : Nat) (c : Core) : Core :=
  let k := if c.rerun.isSome then 4 else cause
  let c1 := if c.hold = k || k = 4 then c else bumpCause c k
  let counted := cause = 5 || cause = 9
  { passCycles 1 c1 with
    heldcyc := c1.heldcyc + 1, hold := k, turn := now + 1
    frozen := if counted then (if c.frozenBy = cause then c.frozen + 1 else 1) else 0
    frozenBy := if counted then cause else 0 }

/-! ## Stops: taking a fault, a trap or a freeze -/

/-- The words of a record (R345). -/
def recordWords (f : FaultInfo) (rank gcore queue lsn stopcyc dtime : Nat) : List Word :=
  [BitVec.ofNat 8 f.kind ++ BitVec.ofNat 8 f.code ++ BitVec.ofNat 8 rank ++ BitVec.ofNat 8 gcore ++
     BitVec.ofNat 3 f.slot ++ BitVec.ofNat 6 f.rep ++ BitVec.ofNat 3 f.origin ++ 0#4 ++ BitVec.ofNat 16 f.cause,
   BitVec.ofNat 16 queue ++ BitVec.ofNat 48 lsn, BitVec.ofNat 64 stopcyc, BitVec.ofNat 64 f.issue,
   0#40 ++ BitVec.ofNat 24 f.baddr, f.arg0, f.arg1, BitVec.ofNat 64 dtime]

/-- Write the words of a record at a physical address. -/
def writeWords (s : State) (a : Nat) : List Word → State
  | [] => s
  | w :: ws => writeWords (writeWord s a w) (a + 8) ws

/-- The entries of a ring whose base register holds log2 of their number, 4 to 16, in its low bits; none while it has not been
set (R373, R401). -/
def ringSize (w : Word) : Nat :=
  let n := (bits w 0 5).toNat
  if 4 ≤ n && n ≤ 16 then 2 ^ n else 0

/-- HOSTQ of a function in bytes: its budget of a host frame (R367, R370). -/
def Func.hostQuota (f : Func) : Nat := (bits (f.word 3) 24 16).toNat * 4096

/-- The host frame's budget of a function has room for `n` bytes (R367, R370). -/
def hostBudget (s : State) (f n : Nat) : Bool :=
  let fn := s.func f
  fn.hostBytes + n ≤ fn.hostQuota

/-- Bytes to or from the host count against the frame's budget of a function (R370). -/
def chargeHost (s : State) (f n : Nat) : State := s.updFunc f fun x => { x with hostBytes := x.hostBytes + n }

/-- A host request of a function goes out translated where ATS is enabled for it: its page takes its place in the device's cache of 4,096
translations (R378). Nothing that a program reads depends on the cache (log entry 94). -/
def noteAts (s : State) (f addr : Nat) : State :=
  if (s.func f).ats then
    { s with ats := ((f, addr / 4096) :: s.ats.filter fun e => e != (f, addr / 4096)).take 4096 }
  else s

/-- The records of a fault ring that the driver has not consumed; FRTAIL and FRHEAD count modulo 2^32 (R373). -/
def Func.frUsed (f : Func) : Nat := (f.frTail + 2 ^ 32 - f.frHead % 2 ^ 32) % 2 ^ 32

/-- A record goes into the fault ring, and the host is told through the fault vector (R345, R373). -/
def putRecord (s : State) (f : Nat) (ws : List Word) : State :=
  let fn := s.func f
  let at_ := (bits fn.frBase 12 52).toNat * 4096 + 64 * (fn.frTail % ringSize fn.frBase)
  let s0 := noteAts (chargeHost s f 64) f at_
  let s1 := if Config.hostGrants f at_ then writeWords s0 (hostBase + at_) ws
    else s0.updFunc f fun x => { x with linkErr := Nat.min (x.linkErr + 1) (2 ^ 64 - 1) }
  sendMsix (s1.updFunc f fun x => { x with frTail := (x.frTail + 1) % 2 ^ 32 }) f fn.fvec

/-- Write a record to the fault ring of a function (R345, R373); one for which the frame's budget has no room waits for the next
frame (R370). Answers whether the ring had room; a function in reset gets no record, nor does any after a fatal error (R380, R402). -/
def writeRecord (s : State) (f : Nat) (ws : List Word) : State × Bool :=
  let fn := s.func f
  if fn.resetting || !s.up then (s, true)
  else if fn.frUsed + fn.frHeld.length ≥ ringSize fn.frBase then (s, false)
  else if !fn.frHeld.isEmpty || !hostBudget s f 64 then (s.updFunc f fun x => { x with frHeld := x.frHeld ++ [ws] }, true)
  else (putRecord s f ws, true)

/-- The last fault record of a core is kept for the dump (R403). -/
def State.keepRecord (s : State) (g : Nat) (ws : List Word) : State := { s with lastRec := s.lastRec.put g ws }

/-- The records of a function that have waited for a budget are written while it lasts (R370). -/
def drainRecords (f : Nat) : List (List Word) → State → State
  | [], s => s.updFunc f fun x => { x with frHeld := [] }
  | ws :: rest, s =>
    if hostBudget s f 64 then drainRecords f rest (putRecord s f ws)
    else s.updFunc f fun x => { x with frHeld := ws :: rest }

/-- A core of a launch reruns a region: a stop asked for takes effect when the rollback ends (R359). -/
def rollingBack (s : State) (l : Nat) : Bool :=
  match s.launch? l with
  | some x => x.cores.any fun g => (s.core g).rerun.isSome
  | none => false

/-- A running placement stops where it stands (R346). -/
def stopNow (s : State) (l : Nat) : State :=
  s.updLaunch l fun x =>
    match x.state with
    | .running => { x with state := .stopped, stopPos := s.now % 64, stopAt := s.now, stopWay := 0, restart := none }
    | _ => x

/-- The place of a launch's stop is taken at the first event of a reference cycle that stops it (R346), or at the end of a
rollback that is in progress (R359). -/
def stopLaunch (s : State) (l : Nat) : State := if rollingBack s l then s else stopNow s l

/-- How a stop is raised: after the issue of its core at this reference cycle, before any issue of the cycle, or by another
agent. -/
def stopWayOf (s : State) (c : Core) (f : FaultInfo) : Nat :=
  if s.now < c.turn then 2
  else if f.origin = 0 || f.origin = 1 || f.origin = 3 || f.code = 0x0C then 1
  else 0

/-- The stop of a placement takes effect at the next issue boundary of each core: before the issues of this reference cycle,
or, when a core that has issued raises it, after them; the calendar position is that of the boundary (R275, R346). -/
def stopByCore (s : State) (l : Nat) (way : Nat) : State :=
  match s.launch? l with
  | some x =>
    if x.state = .running && !rollingBack s l then
      (stopLaunch s l).updLaunch l fun y =>
        { y with stopWay := way, stopPos := if way = 2 then (s.now + 1) % 64 else y.stopPos }
    else s
  | none => s

/-- A launch runs: a stop that it meets is a new one, and counts although the cause of the last one was the same (R47, R48, R351;
DEDUCED, log entry 102). -/
def runs (s : State) (l : Nat) : Bool :=
  match s.launch? l with
  | some x => x.state == .running
  | none => false

/-- A fault of the core's own cycle: its repetition, an arrival, a step of its routine or its freeze. The core cannot go on past it. -/
def FaultInfo.ofCycle (f : FaultInfo) : Bool := f.kind == 1 && (f.origin == 0 || f.origin == 1 || f.origin == 3 || f.code == 0x0C)

/-- A stop that is asked for in a rollback of the placement: it takes effect when the rollback ends. Until then a core with a fault of its
own cycle issues no more, and the others go on (R48, R346, R359). -/
def deferStop (s : State) (g : Nat) (f : FaultInfo) (cause handle : Nat) : State :=
  s.updCore g fun c =>
    let c1 := { c with later := c.later ++ [(f, handle)] }
    if f.ofCycle && c.rerun.isNone then { bumpCause c1 cause with hold := cause } else c1

/-- A placement is being saved: a pre-emption is what its cores are charged to (R48). -/
def isSaving (s : State) (l : Nat) : Bool := match s.launch? l with | some x => x.state == .saving | none => false

/-- Stop the placement of a launch with a record for core `g` (R345 to R348). STOPCYC is the first `%cycle` that
`g` does not issue. Writes in flight keep their landing cycles: their offsets from STOPCYC are the entries of the shadow result
buffer. The core's own cause counter is told by `cause`: 2 fault or trap, 3 freeze (R47, R48); during a save it is told at the resume. -/
def stopWithRecord (s : State) (g l : Nat) (f : FaultInfo) (cause handle stopcyc : Nat) : State :=
  if rollingBack s l then deferStop s g f cause handle else
  let c := s.core g
  let s1 := stopByCore s l (stopWayOf s c f)
  match s1.launch? l with
  | none => s1
  | some x =>
    let ws := recordWords f c.rank g x.queue x.lsn stopcyc (if x.state = .stopped then x.stopAt else s.now)
    let (s2, ok) := writeRecord (s1.keepRecord g ws) x.func ws
    let rec_ : StopRec := { g := g, kind := f.kind, code := f.code, origin := f.origin, slot := f.slot, handle := handle,
                            pending := !ok, words := ws, answer := none }
    let s3 := s2.updLaunch l fun y =>
      { y with stops := y.stops ++ [rec_], fcode := y.fcode.orElse fun _ => some f.code }
    s3.updCore g fun c => if isSaving s l || (c.hold = cause && !runs s l) then c else { bumpCause c cause with hold := cause }

/-- Take a fault on a core (R344): its placement stops with a record, and the core issues nothing more until the host
answers. `handle` names the handle of a handle invalid fault, 16 for none. -/
def takeFault (s : State) (g : Nat) (f : FaultInfo) (handle : Nat := 16) : State :=
  match (s.core g).launch with
  | none => s
  | some l => stopWithRecord s g l f 2 handle (s.core g).cycle

/-- A fault of the repetition being issued, found at step 3 of R91: no slot of it issues. -/
def stepFault (s : State) (slot code cause : Nat) (a0 a1 : Word) (handle : Nat := 16) : State :=
  let c := s.curCore
  takeFault s s.cur
    { kind := 1, code := code, cause := cause, arg0 := a0, arg1 := a1, slot := slot, rep := c.iRep, origin := 0,
      issue := c.iCyc, baddr := c.iPc } handle

/-- What a step-3 check of a syllable reports. -/
structure Check where
  code : Nat
  cause : Nat
  arg0 : Word
  arg1 : Word
  handle : Nat
deriving DecidableEq, Repr

/-- An illegal operation with the CAUSE of a row of R109, or 0 for an instruction's own check (R344). -/
def illegalOp (cause : Nat) (w : Word) : Check := { code := 2, cause := cause, arg0 := w, arg1 := 0, handle := 16 }

/-- Raise what a check reports, for the slot of the syllable. -/
def raise (s : State) (slot : Nat) (k : Check) : State := stepFault s slot k.code k.cause k.arg0 k.arg1 k.handle

/-- What an instruction that acts once did in the first run of the present region, if this is a rerun that has come to it
again (R356). -/
def onceSeen (s : State) : Option OnceRec := s.curCore.region.once.find? fun r => r.cycle == s.curCore.iCyc

/-- Note what an instruction that acts once has done (R356). -/
def noteOnce (s : State) (id : Nat) (data : Option (List Byte)) : State :=
  s.updCur fun c => { c with region := { c.region with once := ⟨c.iCyc, id, data⟩ :: c.region.once } }

/-- The reference cycles on which a core has not issued, up to the present one, are charged to a cause (R48). -/
def settleHeld (now cause : Nat) (c : Core) : Core :=
  if c.started && !c.halted then
    let n := now - c.turn
    let c1 := passCycles n c
    { c1 with heldcyc := c1.heldcyc + n, turn := Nat.max now c.turn, hold := cause }
  else c

/-- The return from a stop (R349, R351): every core of the placement restarts at the present reference cycle. The
cycles of the stop are charged to its cause (R48). -/
def restartCores (s : State) (cause : Nat) (cores : List Nat) : State :=
  cores.foldl (fun st g => st.updCore g (settleHeld s.now cause)) s

end Machine
end Sys2Proof
end

