-- ==== Sys2Proof/Machine/Flags.lean ====
section
/-!
DEFINITION. Conditions (R100, R117, R152), the predicates that flags and masks give (R93), and the landing of results
that set flags (R31, R111).
-/
namespace Sys2Proof.Machine

/-- R100, R117: the condition CC of two 64-bit words. -/
def cond (cc : Nat) (a b : Word) : Bool :=
  match cc with
  | 0 => a == b
  | 1 => a != b
  | 2 => a.slt b
  | 3 => b.sle a
  | 4 => b.slt a
  | 5 => a.sle b
  | 6 => a.ult b
  | 7 => b.ule a
  | 8 => b.ult a
  | 9 => a.ule b
  | _ => (a &&& b) != 0

/-- R152: the condition CC of two lanes of `.I32` or `.N32`. -/
def condInt (cc : Nat) (sgn : Bool) (a b : Nat) : Bool :=
  let x := ival sgn 32 a
  let y := ival sgn 32 b
  match cc with
  | 0 => x == y
  | 1 => x != y
  | 2 => x < y
  | 3 => y ≤ x
  | 4 => y < x
  | _ => x ≤ y

/-- R152: the condition CC of two lanes of `.F32`, and NV for a signalling NaN. −0 and +0 are equal. -/
def condFloat (cc a b : Nat) : Bool × BitVec 8 :=
  let x := f32.decode a
  let y := f32.decode b
  let fl := snanFlag x ||| snanFlag y
  if x.isNan || y.isNan then (cc == 1 || cc == 11, fl)
  else
    let lt := ltV false x y
    let gt := ltV false y x
    let t := match cc with
      | 0 => !lt && !gt
      | 1 => lt || gt
      | 2 => lt
      | 3 => !lt
      | 4 => gt
      | 5 => !gt
      | _ => false
    (t, fl)

/-- R93: a flag predicate. -/
def flagPred (c : Core) (prd : BitVec 4) (pn : BitVec 1) : Bool :=
  if prd = 15 then true else if pn = 1 then !c.fGet prd.toNat else c.fGet prd.toNat

/-- R93: a mask predicate, over 128 lanes. -/
def maskPred (c : Core) (prd : BitVec 4) (pn : BitVec 1) : Mask :=
  if prd = 15 then BitVec.allOnes 128 else if pn = 1 then ~~~(c.mGet prd.toNat) else c.mGet prd.toNat

/-- Flags are ORed into `%fpflags` at the landing cycle (R31). -/
def landFlags (s : State) (slot lat : Nat) (fl : BitVec 8) : State :=
  if fl = 0 then s else land s slot lat (.orFlags fl)

/-- A scalar result lands; one for `s0` is discarded (R111). -/
def landS (s : State) (slot lat r : Nat) (v : Word) : State := if r = 0 then s else land s slot lat (.sReg r v)

/-- A flag result lands; one for `f7` is discarded (R111). -/
def landF (s : State) (slot lat r : Nat) (v : Bool) : State := if r = 7 then s else land s slot lat (.fReg r v)

/-- R113: the number of ones. -/
def popcount (n : Nat) (v : Nat) : Nat := ((List.range n).filter fun i => v.testBit i).length

/-- The leading zeros of the low `n` bits. -/
def leadingZeros (n : Nat) (x : Nat) : Nat := ((List.range n).takeWhile fun i => !x.testBit (n - 1 - i)).length

/-- The trailing zeros of the low `n` bits. -/
def trailingZeros (n : Nat) (x : Nat) : Nat := ((List.range n).takeWhile fun i => !x.testBit i).length

end Sys2Proof.Machine
end

