-- ==== Sys2Proof/Machine/Operands.lean ====
section
/-!
DEFINITION. The operand forms: stepped fields (R96), elements of vector registers (R142, R143), the operand `bc` (R89),
cross-cluster latency (R27), and the address of an access with its bounds modes and alignment (R194 to R198).
-/
namespace Sys2Proof.Machine

/-! ## Stepped fields and latency -/

/-- A stepped register field at its j-th re-issue (R96). -/
def stepReg (h : Head) (r : Nat) : Nat := r + h.j * h.step.toNat

/-- The operand `bc` as an encoding of `w` bits (R89). -/
def bcBits (h : Head) (w : Nat) : Nat := h.bcv.toNat % 2 ^ w

/-- One cycle more when a V syllable names a register outside its slot's native cluster (R27, R107). -/
def crossing (slot : Slot) (regs : List Nat) : Nat :=
  match slot with
  | .v0 => if regs.any fun r => decide (320 ≤ r) then 1 else 0
  | .v1 => if regs.any fun r => decide (r < 320) then 1 else 0
  | _ => 0

/-! ## Elements (R142, R143) -/

/-- Element `k` of `w` bits of a wide register. -/
def elem {n : Nat} (w : Nat) (v : BitVec n) (k : Nat) : Nat := v.toNat / 2 ^ (w * k) % 2 ^ w

/-- A number whose elements of `w` bits are given, the first `n` of them. -/
def packNat (w : Nat) (f : Nat → Nat) : Nat → Nat
  | 0 => 0
  | n + 1 => packNat w f n + f n % 2 ^ w * 2 ^ (w * n)

/-- A register of which the first `n` elements of `w` bits are given. -/
def pack (w n : Nat) (f : Nat → Nat) : Vec := BitVec.ofNat 4096 (packNat w f n)

/-- The enable bits of the elements for which `en` holds. -/
def packEn (w n : Nat) (en : Nat → Bool) : Vec := pack w n fun k => if en k then 2 ^ w - 1 else 0

/-- The flags of those of the first `n` results for which `en` holds. -/
def flagsOf (en : Nat → Bool) (f : Nat → Rounded) : Nat → BitVec 8
  | 0 => 0
  | n + 1 => flagsOf en f n ||| (if en n then (f n).flags else 0)

/-- Element `k` of `w` bits is enabled by a predicate: bit ⌊k × w / 32⌋ (R143). -/
def lanes (p : Mask) (w k : Nat) : Bool := p.getLsbD (k * w / 32)

/-- Elements of a vector register land where enabled, with their flags (R144). -/
def landElems (s : State) (slot lat vd w n : Nat) (en : Nat → Bool) (f : Nat → Rounded) : State :=
  landFlags (land s slot lat (.vReg vd (pack w n fun k => (f k).enc) (packEn w n en))) slot lat (flagsOf en f n)

/-- The second source of a format-V or -P syllable: element `k` of vb, or `bc` (R89, R146). -/
def secondSource (c : Core) (h : Head) (bc : BitVec 1) (vb : BitVec 10) (w k : Nat) : Nat :=
  if bc = 1 then bcBits h w else elem w (c.vGet (stepReg h vb.toNat)) k

/-! ## Forming the address of an access (R194 to R198) -/

/-- A run of bytes of an access: its offset in the access's data, its physical address and its length. -/
structure Span where
  off : Nat
  pa : Nat
  len : Nat
deriving DecidableEq, Repr

/-- An access with its address formed: the runs it makes, and whether `zero` mode dropped or zeroed an element. -/
structure Formed where
  spans : List Span
  dropped : Bool
deriving DecidableEq, Repr

/-- R344: bounds. -/
def boundsCheck (cause : Nat) (o : Int) : Check :=
  { code := 8, cause := cause, arg0 := BitVec.ofInt 64 o, arg1 := 0, handle := 16 }
/-- R344: protection. -/
def protCheck (cause addr : Nat) : Check :=
  { code := 7, cause := cause, arg0 := BitVec.ofNat 64 addr, arg1 := 0, handle := 16 }
/-- R344: handle invalid. -/
def handleCheck (n : Nat) (h : Handle) : Check :=
  { code := 5, cause := n, arg0 := h.va, arg1 := if h.write then 2 else 1, handle := n }

/-- Place `n` bytes at offset `o` of a record, `off` bytes into the data: bounds at or beyond the handle's extent. -/
def placeRun (bfn : Nat) (bf : BufRec) (hd : Handle) (o : Int) (n off : Nat) : Except Check (List Span) :=
  let x := bf.base + o.toNat
  if x + n ≤ hd.extent then .ok [⟨off, hd.base + x, n⟩] else .error (boundsCheck bfn o)

/-- One part of an access: `size` bytes at offset `o`, of elements of `elem` bytes, with alignment unit `align`
(R197, R198). -/
def formPart (bfn : Nat) (bf : BufRec) (hd : Handle) (o : Int) (off size elem align : Nat) : Except Check Formed :=
  let ext : Int := bf.ext
  let place := fun (o : Int) (n off : Nat) (d : Bool) =>
    match placeRun bfn bf hd o n off with
    | .ok sp => Except.ok (Formed.mk sp d)
    | .error e => .error e
  if o % (align : Int) ≠ 0 then .error (boundsCheck bfn o)
  else if 0 ≤ o && o + size ≤ ext then place o size off false
  else
    match bf.mode with
    | 1 =>
      if ext < size then .error (boundsCheck bfn o)
      else
        let top := (bf.ext - size) / align * align
        place (if o < 0 then 0 else if (top : Int) < o then top else o) size off false
    | 2 =>
      let lo := if o < 0 then ((-o).toNat + elem - 1) / elem else 0
      let hi := Nat.min (size / elem) ((ext - o).toNat / elem)
      if lo < hi then place (o + (lo * elem : Nat)) ((hi - lo) * elem) (off + lo * elem) true
      else .ok ⟨[], true⟩
    | _ => .error (boundsCheck bfn o)

/-- Several parts of one access, each `(offset in the data, offset in the record)` (R197, R200). -/
def formParts (bfn : Nat) (bf : BufRec) (hd : Handle) (size elem align : Nat) :
    List (Nat × Int) → Except Check Formed
  | [] => .ok ⟨[], false⟩
  | (off, o) :: rest =>
    match formPart bfn bf hd o off size elem align with
    | .error e => .error e
    | .ok a =>
      match formParts bfn bf hd size elem align rest with
      | .error e => .error e
      | .ok b => .ok ⟨a.spans ++ b.spans, a.dropped || b.dropped⟩

/-- The die of a core. -/
def dieOf (g : Nat) : Nat := g / 96
/-- The physical hive of a core, 12d + k (R36, R264). -/
def hiveOfCore (g : Nat) : Nat := g / 8

/-- A route entry to a device (R377, R383). -/
def route (s : State) (e : Nat) : Option Word :=
  let w := Table.get 0 s.routes e
  if w.getLsbD 63 then some w else none
/-- The device that a domain-window address names (R382). -/
def deviceOf (pa : Nat) : Nat := (pa - domainBase) / 2 ^ 41
/-- The address on that device (R382). -/
def deviceAddr (pa : Nat) : Nat := (pa - domainBase) % 2 ^ 41

/-- A physical address that a core or an engine may access (R264, R274, R382, R383). -/
def reachable (s : State) (pa : Nat) : Bool :=
  if isHbm pa then !isMetadata s pa
  else if isScratch pa then true
  else if isDomain pa then
    let x := deviceAddr pa
    (isHbm x || isScratch x) && deviceOf pa != s.devnum && (route s (deviceOf pa)).isSome
  else isHost pa

/-- An HBM address in a set that counter exhaustion has made read-only (R286). -/
def readOnlySet (s : State) (pa : Nat) : Bool :=
  match setOf s pa with
  | none => false
  | some (g, _, _) => s.roSets.contains g

/-- The check of the addresses of a formed access: unmapped or deep tier, write to the commons set, counter exhausted
(R196, R264, R286, R296). ARG0 is the physical address (DEDUCED, log entry 9). -/
def addressCheck (s : State) (write : Bool) : List Span → Option Check
  | [] => none
  | sp :: rest =>
    let last := sp.pa + (sp.len - 1)
    if !reachable s sp.pa then some (protCheck 3 sp.pa)
    else if !reachable s last then some (protCheck 3 last)
    else if write && isHbm sp.pa && (isCommons s sp.pa || isCommons s last) then some (protCheck 4 sp.pa)
    else if write && isHbm sp.pa && (readOnlySet s sp.pa || readOnlySet s last) then some (protCheck 5 sp.pa)
    else addressCheck s write rest

/-- The use of a handle by an access at `x` bytes (R127, R196, R292). ARG0 of a missing permission is the virtual address, which the
handle keeps (DEDUCED, log entry 9). -/
def handleUse (n : Nat) (h : Handle) (write : Bool) (x : Nat) : Option Check :=
  if !h.valid || h.cut then some (handleCheck n h)
  else if write && !h.write then some (protCheck 1 (h.va.toNat + x))
  else none

/-- The steps of R196 for an access through record `bfn`, in their order, for an undeclared record too (DEDUCED, log entry 109). -/
def formAccess (s : State) (c : Core) (bfn : Nat) (write : Bool) (size elem align : Nat) (parts : List (Nat × Int)) :
    Except Check Formed :=
  let bf := c.bfGet bfn
  let hd := c.hUse bf.hnum
  match handleUse bf.hnum hd write (bf.base + ((parts.headD (0, 0)).2).toNat) with
  | some k => .error k
  | none =>
    match formParts bfn bf hd size elem align parts with
    | .error k => .error k
    | .ok f =>
      match addressCheck s write f.spans with
      | some k => .error k
      | none => .ok f

/-- The groups of an HBM run, one for each 128-byte unit it touches (R273). -/
def groupsOfRun (s : State) (pa : Nat) : Nat → List Nat
  | 0 => []
  | n + 1 => (match groupOf s pa with | some g => [g] | none => []) ++ groupsOfRun s (pa + 128 - pa % 128) n

/-- The groups that a formed access touches. -/
def groupsOfSpans (s : State) (spans : List Span) : List Nat :=
  (spans.flatMap fun sp => groupsOfRun s sp.pa ((sp.pa % 128 + sp.len + 127) / 128)).eraseDups

/-- The minimum arrival offset of a plain load from a run of bytes (R108, R379, R383); none where no offset will do. -/
def spanMin (s : State) (g : Nat) (atomic : Bool) (sp : Span) : Option Nat :=
  let extra := fun (own other hbm : Nat) =>
    if isScratch sp.pa then
      let hv := hiveOf sp.pa
      if hv = hiveOfCore g then own else if hv / 12 = dieOf g then other else other + 96
    else if isHbm sp.pa then
      if (groupsOfRun s sp.pa ((sp.pa % 128 + sp.len + 127) / 128)).any fun gr => gr / 12 != dieOf g then hbm + 96 else hbm
    else if isDomain sp.pa then
      match route s (deviceOf sp.pa) with
      | some w => (bits w 24 11).toNat + (if atomic then 8 else 0)
      | none => 0
    else 0
  if isHost sp.pa then none
  else some (if atomic then extra 14 44 520 else extra 12 40 512)

/-- The minimum arrival offset of a formed access (R108). -/
def arrivalMin (s : State) (g : Nat) (atomic : Bool) : List Span → Option Nat
  | [] => some 0
  | sp :: rest =>
    match spanMin s g atomic sp, arrivalMin s g atomic rest with
    | some a, some b => some (Nat.max a b)
    | _, _ => none

/-- The check of an arrival offset (R108, R344): ARG0 is the offset, CAUSE the minimum. -/
def arrivalCheck (min : Option Nat) (arr : Nat) : Option Check :=
  match min with
  | none => some { code := 4, cause := 0xFFFF, arg0 := BitVec.ofNat 64 arr, arg1 := 0, handle := 16 }
  | some m => if arr < m then some { code := 4, cause := m, arg0 := BitVec.ofNat 64 arr, arg1 := 0, handle := 16 } else none

/-- The offset `s[so]` + IMM × unit, and the address step of a sticky re-issue, as a signed 64-bit number
(R105, R96, R196). -/
def offsetOf (base : Word) (imm : Int) (unit : Nat) (step : Nat) : Int :=
  (base + BitVec.ofInt 64 (imm * unit) + BitVec.ofNat 64 step).toInt

/-- Cut a run into runs that lie in one 64-byte line each. -/
def cutLines : Nat → Nat → Nat → Nat → List Span
  | 0, _, _, _ => []
  | fuel + 1, off, pa, len =>
    if len = 0 then []
    else
      let n := Nat.min len (64 - pa % 64)
      ⟨off, pa, n⟩ :: cutLines fuel (off + n) (pa + n) (len - n)

/-- The lines of a formed access. -/
def linesOf (spans : List Span) : List Span := spans.flatMap fun sp => cutLines (sp.len / 64 + 2) sp.off sp.pa sp.len

/-! ## Pending reads (R362) -/

/-- A unit that a syllable reads: a register kind of R345, its number, and the bytes read. -/
structure ReadUnit where
  kind : Nat
  num : Nat
  lo : Nat
  hi : Nat
deriving DecidableEq, Repr

/-- The bytes of a unit that a pending write will write, as bits (R362: by whole 32-bit words). -/
def pendingBits (kind num : Nat) (e : Effect) : Nat :=
  let all := fun (n : Nat) => 2 ^ n - 1
  match e with
  | .sReg r _ => if kind = 1 && r = num then all 64 else 0
  | .fReg r _ => if kind = 2 && r = num then all 8 else 0
  | .mReg r _ en => if kind = 3 && r = num then en.toNat else 0
  | .vReg r _ en => if kind = 4 && r = num then en.toNat else 0
  | .tRow k _ en _ => if kind = 5 && k = num then en.toNat else 0
  | .accRow k _ _ => if kind = 6 && k = num then all 4096 else 0
  | .accZero n => if kind = 6 && num / 128 = n then all 4096 else 0
  | .aReg r _ => if kind = 7 && r = num then all 64 else 0
  | .zReg r _ en => if kind = 8 && r = num then en.toNat else 0
  | .ntReg r _ => if kind = 9 && r = num then all 64 else 0
  | .spill k _ => if kind = 10 && k = num then all 64 else 0
  | _ => 0

/-- The bytes of a unit that a landing request will write, as bits. -/
def pendingReq (kind num : Nat) (t : Target) : Nat :=
  match t with
  | .vec r => if kind = 4 && r = num then 2 ^ 4096 - 1 else 0
  | .tile r => if kind = 5 && num / 128 = r then 2 ^ 1024 - 1 else 0
  | .scalar r _ _ => if kind = 1 && r = num then 2 ^ 64 - 1 else 0
  | .zReg r n => if kind = 8 && r = num then 2 ^ (8 * n) - 1 else 0
  | .discard => 0

/-- The first byte of the first 32-bit word from word `w` on, of `n` words, that has a pending bit. -/
def firstPending (x : Nat) : Nat → Nat → Option Nat
  | _, 0 => none
  | w, n + 1 => if x / 2 ^ (32 * w) % 2 ^ 32 != 0 then some (4 * w) else firstPending x (w + 1) n

/-- Whether an accumulator row belongs to a routine that runs or waits, and so is to be written (R176, R362). -/
def routineWrites (c : Core) (num : Nat) : Bool :=
  let names := fun (r : Routine) =>
    (List.range 4).any fun o => (bits (Table.get 0 c.routines r.entry) 10 4).getLsbD o && (r.acc + o) % 4 == num / 128
  (match c.running with | some r => names r | none => false) || (match c.waiting with | some r => names r | none => false)

/-- The pending read fault of a unit, if the unit has a pending word among those read (R344, R362). A write that another
syllable of the same repetition makes is not yet pending: the fault is one of step 3. -/
def pendingUnit (c : Core) (u : ReadUnit) : Option Check :=
  if (u.kind = 1 && u.num = 0) || (u.kind = 2 && u.num = 7) then none else
  let x := c.writes.foldl (fun acc w => if w.issue < c.iCyc then acc ||| pendingBits u.kind u.num w.eff else acc) 0
  let y := c.reqs.foldl (fun acc r => if r.issue < c.iCyc then acc ||| pendingReq u.kind u.num r.target else acc) x
  let z := if u.kind = 6 && routineWrites c u.num then 2 ^ 4096 - 1 else y
  match firstPending z (u.lo / 4) ((u.hi + 3) / 4 - u.lo / 4) with
  | some b => some { code := 13, cause := u.kind, arg0 := BitVec.ofNat 64 u.num, arg1 := BitVec.ofNat 64 b, handle := 16 }
  | none => none

/-- The first pending read fault of a list of units, under `%debug.PRT`. -/
def pendingCheck (c : Core) : List ReadUnit → Option Check
  | [] => none
  | u :: us =>
    if !c.prt then none
    else match pendingUnit c u with
      | some k => some k
      | none => pendingCheck c us

/-- A scalar register read whole. -/
def rS (r : Nat) : ReadUnit := ⟨1, r, 0, 8⟩
/-- A flag read. -/
def rF (r : Nat) : ReadUnit := ⟨2, r, 0, 1⟩
/-- A mask register read whole. -/
def rM (r : Nat) : ReadUnit := ⟨3, r, 0, 16⟩
/-- A vector register read whole (R144). -/
def rV (r : Nat) : ReadUnit := ⟨4, r, 0, 512⟩
/-- A scale register read whole. -/
def rZ (r : Nat) : ReadUnit := ⟨8, r, 0, 512⟩
/-- The flag of a predicate, if it names one. -/
def rFlagPred (prd : BitVec 4) : List ReadUnit := if prd = 15 then [] else [rF prd.toNat]
/-- The mask of a predicate, if it names one. -/
def rMaskPred (prd : BitVec 4) : List ReadUnit := if prd = 15 then [] else [rM prd.toNat]

/-- The first of several checks that fails, each given only when those before it hold. -/
def firstCheck : List (Unit → Option Check) → Option Check
  | [] => none
  | f :: fs =>
    match f () with
    | some k => some k
    | none => firstCheck fs

/-! ## Syllables -/

/-- What a syllable does at its issue: the place of its slot, the predicate it reads, whether the predicate lets it act,
the units it reads then, its own check of step 3, its effect, and what a suppressed syllable still does (R93, R94). -/
structure Plan where
  slot : Nat
  pred : List ReadUnit
  enabled : Bool
  reads : List ReadUnit
  check : Option Check
  run : State → State
  off : State → State

/-- The check of step 3 that a syllable fails (R91, R93). -/
def Plan.fault (p : Plan) (c : Core) : Option Check :=
  match pendingCheck c p.pred with
  | some k => some k
  | none =>
    if p.enabled then
      match pendingCheck c p.reads with
      | some k => some k
      | none => p.check
    else none

/-- A check with the syllable word in ARG0, where R344 asks for it. -/
def withWord (i : Instr) (k : Check) : Check :=
  if k.code = 2 then { k with arg0 := match encode i with | some (_, w) => w | none => 0 } else k

/-- A syllable issues: a failed check stops the placement; a false predicate suppresses it; otherwise it acts. -/
def runPlan (i : Instr) (p : Plan) (s : State) : Res :=
  match p.fault s.curCore with
  | some k => .next (raise s p.slot (withWord i k))
  | none => .next (if p.enabled then p.run s else p.off s)

/-- An S syllable that reads scalar registers, with its check and its effect. -/
def sPlan (h : SHead) (c : Core) (reads : List ReadUnit) (check : Option Check) (run : State → State) : Plan :=
  { slot := 0, pred := rFlagPred h.prd, enabled := flagPred c h.prd h.pn, reads := reads, check := check, run := run
    off := id }

/-- A syllable of the M, K or copy class, predicated on a flag. -/
def flagPlan (h : Head) (c : Core) (reads : List ReadUnit) (check : Option Check) (run off : State → State) : Plan :=
  { slot := slotNum h.slot, pred := rFlagPred h.prd, enabled := flagPred c h.prd h.pn, reads := reads, check := check
    run := run, off := off }

/-- A V syllable: its predicate enables lanes and never suppresses it (R93). -/
def vPlan (h : Head) (reads : List ReadUnit) (check : Option Check) (run : State → State) : Plan :=
  { slot := slotNum h.slot, pred := rMaskPred h.prd, enabled := true, reads := reads, check := check, run := run
    off := id }

end Sys2Proof.Machine
end

