-- ==== Sys2Proof/Machine/Events.lean ====
section
/-!
DEFINITION. What the device reports and keeps beside its launches: health events (R401), %sig (R32, R357), the undo log
(R355), the counters of HBM lines (R285, R286) and the errors that storage shows on an access (R272, R281, R287).
-/
namespace Sys2Proof.Machine

/-! ## Health events (R401) -/

/-- Write a health record to the ring, or count it as lost when the ring is full. -/
def putHealth (s : State) (ws : List Word) : State :=
  let size := ringSize s.hrBase
  if s.hrTail - s.hrHead ≥ size then { s with hrLost := Nat.min (s.hrLost + 1) (2 ^ 64 - 1) }
  else
    let base := (bits s.hrBase 12 52).toNat * 4096
    let at_ := base + 64 * (s.hrTail % size)
    let s1 := if Config.hostGrants 0 at_ then writeWords s (hostBase + at_) ws
      else s.updFunc 0 fun x => { x with linkErr := Nat.min (x.linkErr + 1) (2 ^ 64 - 1) }
    sendMsix { s1 with hrTail := s1.hrTail + 1 } 0 (s.func 0).fvec

/-- A health event of a unit is reported: its record is written, or held until HRBASE is set. Occurrences are counted by event and unit;
where an event can name units of several kinds, `kind` tells them apart: 0 a core position or the only kind, 1 a scratchpad bank, 2 a
shepherd core, 3 a channel's TSV groups, 4 a link, 5 a hive (R401). A device that waits for a reset after a fatal error writes none
(R402). -/
def unitEvent (s : State) (kind event die unit : Nat) (args : List Word) : State :=
  if !s.up then s else
  let key := ((event * 16 + kind) * 256 + die) * 2 ^ 32 + unit
  let n := Table.get 0 s.hrCounts key + 1
  let w0 : Word := BitVec.ofNat 8 event ++ BitVec.ofNat 8 die ++ BitVec.ofNat 16 unit ++ BitVec.ofNat 32 n
  let ws := [w0, BitVec.ofNat 64 s.now] ++ (args ++ List.replicate 6 0).take 6
  let s1 := { s with hrCounts := Table.put s.hrCounts key n, hrLog := (ws :: s.hrLog).take 16384 }
  if s.hrBase = 0 then
    if s1.hrHeld.length < 256 then { s1 with hrHeld := s1.hrHeld ++ [ws] } else s1
  else putHealth s1 ws

/-- A health event of a kind that names one kind of unit (R401). -/
def healthEvent (s : State) (event die unit : Nat) (args : List Word) : State := unitEvent s 0 event die unit args

/-! ## The signature (R32, R357) -/

/-- One byte of a reflected CRC-32C. -/
def crcByte (c : BitVec 32) (b : Byte) : BitVec 32 :=
  (List.range 8).foldl (fun (x : BitVec 32) _ => if x.getLsbD 0 then (x >>> 1) ^^^ 0x82F63B78#32 else x >>> 1)
    (c ^^^ b.setWidth 32)

/-- `%sig` absorbs a write: its descriptor, then its data (R357). -/
def absorb (c : BitVec 32) (kind num : Nat) (data : List Byte) : BitVec 32 :=
  (leBytes 4 (kind * 2 ^ 24 + num % 2 ^ 24) ++ data).foldl crcByte c

/-- `%sig` of the running core absorbs a write. -/
def absorbCur (s : State) (kind num : Nat) (data : List Byte) : State :=
  s.updCur fun c => { c with sig := absorb c.sig kind num data }

/-- The bytes of a value that an enable mask writes, ascending. -/
def writtenBytes (n v en : Nat) : List Byte :=
  (List.range n).filterMap fun i =>
    if en / 2 ^ (8 * i) % 256 = 0 then none else some (BitVec.ofNat 8 (v / 2 ^ (8 * i)))

/-- What `%sig` absorbs of a landing: kind, number and data of R357. Flags and counters are not absorbed. -/
def sigOf : Effect → Option (Nat × Nat × List Byte)
  | .sReg r v => if r = 0 then none else some (1, r, leBytes 8 v.toNat)
  | .mReg r v en => some (3, r, writtenBytes 16 v.toNat en.toNat)
  | .vReg r v en => some (4, r, writtenBytes 512 v.toNat en.toNat)
  | .tRow k v en _ => some (5, k, writtenBytes 128 v.toNat en.toNat)
  | .accRow k v _ => some (6, k, leBytes 512 v.toNat)
  | .aReg r v => some (7, r, leBytes 8 v.toNat)
  | .zReg r v en => some (8, r, writtenBytes 512 v.toNat en.toNat)
  | .ntReg r v => some (9, r, leBytes 8 v.toNat)
  | .spill k v => some (10, k, leBytes 8 v.toNat)
  | _ => none

/-- `%sig` absorbs a landing; MZERO writes the 128 rows of its accumulator. -/
def absorbEffect (sig : BitVec 32) (e : Effect) : BitVec 32 :=
  match e with
  | .accZero n => (List.range 128).foldl (fun x r => absorb x 6 (n * 128 + r) (leBytes 512 0)) sig
  | e => match sigOf e with
    | some (k, n, d) => absorb sig k n d
    | none => sig

/-! ## The undo log (R355) -/

/-- A unit takes its place in the log of the region: `size` bytes and 8 of tag. -/
def logUnit (r : Region) (unit size : Nat) : Region :=
  if r.units.contains unit then r
  else
    let r1 := { r with units := unit :: r.units, bytes := r.bytes + size + 8 }
    if 65536 < r1.bytes && r1.uncontained = 0 then { r1 with uncontained := 2 } else r1

/-- The units that a landing writes, coded as kind × 2^20 + number, with their sizes (R355). -/
def unitsOf : Effect → List (Nat × Nat)
  | .vReg r _ _ => [(4 * 2 ^ 20 + r, 512)]
  | .zReg r _ _ => [(8 * 2 ^ 20 + r, 512)]
  | .tRow k _ _ _ => [(5 * 2 ^ 20 + k, 128)]
  | .accRow k _ _ => [(6 * 2 ^ 20 + k, 513)]
  | .accZero n => (List.range 128).map fun r => (6 * 2 ^ 20 + n * 128 + r, 513)
  | .spill k _ => [(10 * 2 ^ 20 + k, 8)]
  | .levelTable tab _ => [(11 * 2 ^ 20 + tab, 32)]
  | _ => []

/-- The region logs what a landing writes. -/
def logEffect (r : Region) (e : Effect) : Region := (unitsOf e).foldl (fun r (u, n) => logUnit r u n) r

/-- The region of a core logs an own-hive scratchpad line before its first write (R355). -/
def logLine (s : State) (g pa : Nat) : State :=
  let c := s.core g
  let l := lineOf pa
  if c.region.lines.any fun (x, _, _) => x == l then s
  else
    let old := BitVec.ofNat 512 (leNat (readBytes s (l * 64) 64))
    let r := logUnit c.region (12 * 2 ^ 40 + l) 64
    s.setCore g { c with region := { r with lines := (l, old, poisoned s pa) :: r.lines } }

/-! ## Errors in storage (R272, R281, R287) -/

/-- The physical die of an address on the module. -/
def dieOfPa (s : State) (pa : Nat) : Nat :=
  match sliceOf s pa with | some sl => dieOfSlice sl | none => 0

/-- The poison mark of a line whose codeword does not decode (R272, R281). -/
def spoil (s : State) (pa : Nat) : State := setPoison { s with flaws := Table.put s.flaws (lineOf pa) 0 } pa true

/-- A scratchpad line is read: a corrected error is counted in its bank, one that is not corrected marks the line (R272, R400). -/
def meetBank (s : State) (pa : Nat) : State :=
  let bank := hiveOf pa * 32 + bankOf pa
  let spare := Instr.spareThreshold (.bank (hiveOf pa) (bankOf pa))
  match Table.get 0 s.flaws (lineOf pa) with
  | 1 =>
    let times := (s.now :: Table.get [] s.bankErrs bank).take 16
    let s1 := { s with bankErrs := Table.put s.bankErrs bank times }
    if times.length = 16 && s.now - times.getD 15 0 ≤ 3000000 then s1.due s.now 20 spare else s1
  | 2 => (spoil s pa).due s.now 20 spare
  | _ => s

/-! ### Codewords of HBM lines (R279 to R281)

A line's codeword has 72 symbols, four on each of its channel's 18 TSV groups. -/

/-- The symbols in error of an HBM line. -/
def errorSymbols (s : State) (pa : Nat) : List Nat := (List.range 72).filter (Table.get 0 s.flaws (lineOf pa)).testBit

/-- The MAC of a line does not match. -/
def macBad (s : State) (pa : Nat) : Bool := (Table.get 0 s.flaws (lineOf pa)).testBit 72

/-- The TSV group that carries a symbol (R279). -/
def tsvOf (symbol : Nat) : Nat := symbol / 4

/-- The place of a line in the order of its channel's sweep: its number in the channel group (R273, R280). -/
def sweepPlace (s : State) (pa : Nat) : Nat :=
  match setOf s pa with
  | some (_, mask, o) => o / 128 / (groupsOf mask).length * 2 + o / 64 % 2
  | none => 0

/-- The failed groups of a line whose symbols are decoded as erasures: those with no spare, and those whose symbols no write and no sweep
has yet placed on the spare (R280). -/
def erasedGroups (s : State) (pa : Nat) : List Nat :=
  let ch := (groupOf s pa).getD 0
  (Table.get [] s.tsvFailed ch).filter fun t =>
    match s.sweep.find (ch * 32 + t) with
    | none => true
    | some next => decide (next ≤ sweepPlace s pa) && !(Table.get [] s.onSpare (lineOf pa)).contains t

/-- The symbols in error outside the erasures (R279). -/
def openErrors (s : State) (pa : Nat) : List Nat := (errorSymbols s pa).filter fun i => !(erasedGroups s pa).contains (tsvOf i)

/-- A codeword with e symbol errors and f erasures decodes when 2e + f ≤ 8 (R279). -/
def decodes (s : State) (pa : Nat) : Bool := decide (2 * (openErrors s pa).length + 4 * (erasedGroups s pa).length ≤ 8)

/-- A line has been corrected with every corrected symbol inside one TSV group: with the eighth line of its channel and group in 1 ms
the group is marked failed (R280). -/
def noteCorrected (s : State) (pa : Nat) : State :=
  match (openErrors s pa).map tsvOf with
  | [] => s
  | t :: rest =>
    if rest.any (· != t) then s
    else
      let ch := (groupOf s pa).getD 0
      let key := ch * 32 + t
      let seen := ((lineOf pa, s.now) :: (Table.get [] s.tsvErrs key).filter fun e => e.1 != lineOf pa).take 8
      let s1 := { s with tsvErrs := Table.put s.tsvErrs key seen }
      if seen.length = 8 && seen.all (fun e => s.now - e.2 ≤ 3000000) then s1.due s.now 20 (.tsvGroupFailed ch t) else s1

/-- An HBM line is read: what the code does not correct marks it, and so does a MAC that does not match, of which the hypervisor is
told (R279 to R281, R287). -/
def meetCodeword (s : State) (pa : Nat) : State :=
  if poisoned s pa then s
  else if !decodes s pa then spoil s pa
  else
    let s1 := noteCorrected s pa
    if macBad s pa then healthEvent (spoil s1 pa) 10 (dieOfPa s pa) 0 [BitVec.ofNat 64 pa] else s1

/-- A counter line that fails its tree check poisons every line that it covers, and the hypervisor is told (R287). -/
def meetCounters (s : State) (pa : Nat) : State :=
  let blk := pa / 4096
  if isHbm pa && s.badCounters.contains blk then
    let s1 := (List.range 64).foldl (fun st i => spoil st (blk * 4096 + 64 * i)) { s with badCounters := s.badCounters.filter (· != blk) }
    healthEvent s1 10 (dieOfPa s pa) 0 [BitVec.ofNat 64 pa]
  else s

/-- An access meets what the cells of a line, or the counters of its block, hold beside good codewords (R272, R279 to R281, R287). -/
def meetFlaw (s : State) (pa : Nat) : State :=
  if isScratch pa then meetBank s pa
  else if isHbm pa then meetCodeword (meetCounters s pa) pa
  else if Table.get 0 s.flaws (lineOf pa) = 2 then spoil s pa
  else s

/-- A read of a line would find an error that its code does not correct. -/
def lineBad (s : State) (pa : Nat) : Bool :=
  if isHbm pa then !decodes s pa || macBad s pa || s.badCounters.contains (pa / 4096) else Table.get 0 s.flaws (lineOf pa) == 2

/-- A write places the symbols of the channel's failed groups on their spares (R280). -/
def placeOnSpare (s : State) (pa : Nat) : State :=
  let ch := (groupOf s pa).getD 0
  match (Table.get [] s.tsvFailed ch).filter fun t => (s.sweep.find (ch * 32 + t)).isSome with
  | [] => s
  | ts => { s with onSpare := Table.put s.onSpare (lineOf pa) ts }

/-! ## Counters of HBM lines (R285, R286) -/

/-- The keys of the counters above the counter line of an address in the 8-ary tree of its set: the set's lowest group, the
level and the place (R285). -/
def treeKeys (s : State) (pa : Nat) : List Nat :=
  match setOf s pa with
  | none => []
  | some (g, _, o) => (List.range 10).map fun i => (g * 16 + i + 1) * 2 ^ 32 + o / 4096 / 8 ^ (i + 1)

/-- The largest value of a 56-bit counter. -/
def counterMax : Nat := 2 ^ 56 - 1

/-- A write of a line cannot be counted: its set has become read-only, or its block's major counter or a tree counter would pass
2^56 − 1. A counter line is written once with each write of a line, and once more where the minor counters start anew (R285, R286). A write
that was issued before the exhaustion and performs after it is dropped without a fault (DESIGN CHOICE, log entry 150). -/
def wouldExhaust (s : State) (pa : Nat) : Bool :=
  let blk := pa / 4096
  let wraps := Table.get 0 s.minor (lineOf pa) = 127
  (match setOf s pa with | some (g, _, _) => s.roSets.contains g | none => false) || (wraps && Table.get 0 s.major blk = counterMax) ||
    (treeKeys s pa).any fun k => decide (counterMax < Table.get 0 s.tree k + if wraps then 2 else 1)

/-- The set of an address becomes read-only and the hypervisor is told (R286). -/
def exhaust (s : State) (pa : Nat) : State :=
  match setOf s pa with
  | none => s
  | some (g, _, _) =>
    if s.roSets.contains g then s
    else healthEvent { s with roSets := g :: s.roSets } 9 (g / 12) g [BitVec.ofNat 64 pa]

/-- The counter line of an address's block is written: its parent counter and the ancestors add 1 (R285). -/
def bumpTree (s : State) (pa : Nat) : State :=
  { s with tree := (treeKeys s pa).foldl (fun t k => Table.put t k (Table.get 0 t k + 1)) s.tree }

/-- A line is written: its minor counter adds 1 (R285). -/
def bumpMinor (s : State) (pa : Nat) : State :=
  bumpTree { s with minor := Table.put s.minor (lineOf pa) (Table.get 0 s.minor (lineOf pa) + 1) } pa

/-- A write has found its minor counter at 127: the major counter adds 1, the 64 minor counters become 0, and the block
is re-encrypted within 4,096 reference cycles; what waits for its end comes after it in that cycle (R285). -/
def wrapMinor (s : State) (pa : Nat) : State :=
  let blk := pa / 4096
  let until_ := s.now + 1 + Config.reencryptTime (Table.get 0 s.major blk * 2 ^ 32 + blk) % 4096
  let zero := (List.range 64).foldl (fun t i => Table.put t (blk * 64 + i) 0) s.minor
  (bumpTree { s with minor := zero, major := Table.put s.major blk (Table.get 0 s.major blk + 1)
                     reencrypt := Table.put s.reencrypt blk until_ } pa).due until_ 0
    (.blockReencryptionComplete blk)

/-- The reference cycle at which the re-encryption of an address's block ends, if one is in progress. -/
def reencrypting (s : State) (pa : Nat) : Option Nat :=
  if isHbm pa then s.reencrypt.find (pa / 4096) else none

/-- The reference cycle at which an access to a line looks again, because its block is in re-encryption, or a write has to have it
re-encrypted first (R285). -/
def blockedLine (s : State) (write : Bool) (pa : Nat) : State × Option Nat :=
  match reencrypting s pa with
  | some t => (s, some t)
  | none =>
    if write && isHbm pa && Table.get 0 s.minor (lineOf pa) = 127 && !wouldExhaust s pa then
      let s1 := wrapMinor s pa
      (s1, reencrypting s1 pa)
    else (s, none)

/-- The reference cycle at which an access to several lines looks again: the end of the last re-encryption that it waits for (R285). -/
def blockedLines (s : State) (write : Bool) : List Nat → State × Option Nat
  | [] => (s, none)
  | pa :: rest =>
    let (s1, t) := blockedLine s write pa
    let (s2, u) := blockedLines s1 write rest
    (s2, match t, u with | some a, some b => some (Nat.max a b) | some a, none => some a | none, v => v)

/-! ## Reads and writes of a line at its slice -/

/-- A line of the slice is read: the errors of its cells show; the line's mark is answered (R201, R272, R281). -/
def readLine (s : State) (pa len : Nat) : State × List Byte × Bool :=
  let s1 := meetFlaw s pa
  (s1, readBytes s1 pa len, poisoned s1 pa)

/-- Some bytes of a line are written. A write of the whole line clears its mark and whatever its cells held; a partial
write of a poisoned HBM line changes nothing, and one of a poisoned scratchpad line leaves the mark (R201, R272, R281).
The line's counters have been looked after by the caller. -/
def putLine (s : State) (pa : Nat) (bytes : List (Option Byte)) : State :=
  let whole := pa % 64 = 0 && bytes.length = 64 && bytes.all Option.isSome
  if whole then
    let s1 := if isHbm pa then placeOnSpare (meetCounters s pa) pa else s
    setPoison (writeMasked { s1 with flaws := Table.put s1.flaws (lineOf pa) 0 } pa bytes) pa false
  else
    let s1 := meetFlaw s pa
    if isHbm pa then (if poisoned s1 pa then s1 else placeOnSpare (writeMasked { s1 with flaws := Table.put s1.flaws (lineOf pa) 0 } pa bytes) pa)
    else writeMasked s1 pa bytes

/-- A write of a line performs at its slice, with its counters (R246, R285, R286). Where a counter would pass its largest
value, the set becomes read-only and the line keeps its contents (DEDUCED, log entry 13). A wrap that the caller has not waited
for takes place in the same step. -/
def writeLine (s : State) (pa : Nat) (bytes : List (Option Byte)) : State :=
  if isHbm pa then
    if wouldExhaust s pa then exhaust s pa
    else
      let s1 := if Table.get 0 s.minor (lineOf pa) = 127 then wrapMinor s pa else s
      putLine (bumpMinor s1 pa) pa bytes
  else putLine s pa bytes

/-- A line is written and marked, if it can be written (R272, R286). -/
def writeMarked (s : State) (pa : Nat) (bytes : List (Option Byte)) (p : Bool) : State :=
  let s1 := writeLine s pa bytes
  if p && !(isHbm pa && wouldExhaust s pa) then setPoison s1 pa true else s1

/-- A whole run of bytes is written, line by line, with a poison mark on the lines written in full when `p` holds. -/
def writeRun (s : State) (p : Bool) : List Span → List Byte → State
  | [], _ => s
  | sp :: rest, data =>
    let b := ((data.drop sp.off).take sp.len).map some
    writeRun (writeMarked s sp.pa b p) p rest data

/-- Bytes written at a physical address by the shepherd, a link or the host (R246). -/
def storeBytes (s : State) (pa : Nat) (data : List Byte) : State :=
  writeRun s false (cutLines (data.length / 64 + 2) 0 pa data.length) data

/-- A word of 8 bytes written by the shepherd. -/
def storeWord (s : State) (pa : Nat) (w : Word) : State := storeBytes s pa (leBytes 8 w.toNat)

end Sys2Proof.Machine
end

