-- ==== Sys2Proof/Machine/Notices.lean ====
section
/-!
DEFINITION. What reaches parties outside the core that acts: wait flags of a launch's members, packets of links, the writes
of the shepherd, and the status blocks and notices of commons subscriptions (R300 to R302, R308).
-/
namespace Sys2Proof.Machine

/-! ## Members of a launch, running or saved out -/

/-- Change the core of a rank of a launch, in its place or in the save; one that has ended has none (R225, R350). -/
def updMember (s : State) (l rank : Nat) (f : Core → Core) : State :=
  match s.launch? l with
  | none => s
  | some x =>
    if x.state = .ended then s
    else if x.state = .saved then
      match x.savedCores[rank]? with
      | some c => s.setLaunch l { x with savedCores := x.savedCores.set rank (f c) }
      | none => s
    else
      match x.cores[rank]? with
      | some g => s.updCore g f
      | none => s

/-- Change the checkpoint copy of a core. -/
def updPoint (s : State) (g : Nat) (u : Core → Core) : State :=
  match s.checkpoints.find g with
  | some (c :: _) => { s with checkpoints := s.checkpoints.put g [u c] }
  | _ => s

/-- Change a member and its checkpoint copy, on its core or in the save (R350, R354). -/
def updMemberBoth (s : State) (l rank : Nat) (f : Core → Core) : State :=
  let s1 := updMember s l rank f
  match s.launch? l with
  | none => s1
  | some x =>
    if x.state = .ended then s1
    else if x.state = .saved then s1.updLaunch l fun y => { y with savedPoints := y.savedPoints.modify rank fun ps => ps.map f }
    else match x.cores[rank]? with
      | some g => updPoint s1 g f
      | none => s1

/-- The core of a rank of a launch as it stands. -/
def memberCore (s : State) (l rank : Nat) : Core :=
  match s.launch? l with
  | none => Core.reset
  | some x =>
    if x.state = .ended then Core.reset
    else if x.state = .saved then x.savedCores.getD rank Core.reset
    else s.core (x.cores.getD rank 0)

/-- Set a wait flag of a member (R225). -/
def setMemberFlag (s : State) (l rank : Nat) : Option Nat → State
  | none => s
  | some f => updMember s l rank fun c => { c with w := putBit c.w f true, setAt := Table.put c.setAt f (s.now + 1) }

/-! ## Links (R383, R389, R390) -/

/-- A link. -/
def State.link (s : State) (l : Nat) : Link := Table.get Link.reset s.links l
/-- A link changed. -/
def State.updLink (s : State) (l : Nat) (u : Link → Link) : State := { s with links := Table.put s.links l (u (s.link l)) }

/-- The lowest link of a route that is up and whose other end is aligned (R383, R389, R392). -/
def linkFor (s : State) (dev : Nat) : Option Nat :=
  match route s dev with
  | none => none
  | some w => (List.range 24).find? fun l => w.getLsbD l && (s.link l).up && !(s.link l).apart

/-- The data bytes that travel with a packet: a read asks for LEN bytes and carries none (DEDUCED, log entry 20). -/
def dataLen (type len : Nat) : Nat := if type = 0 then 0 else len

/-- The flits of packets in a transmit queue (R386, R390). -/
def flitsOf (q : List OutPacket) : Nat :=
  (q.foldl (fun n o => n + 16 + (dataLen o.pkt.type o.pkt.len + 15) / 16 * 16) 0 + 191) / 192

/-- The most flits of a function's transmit queue (R390). -/
def queueLimit : Nat := 96

/-- The packets that wait for room in a function's transmit queue join it, in their order, while it has room; one that no empty queue
could hold does not exist, for the longest packet takes six flits (R390). -/
def refill (f : Nat) : List OutPacket → Link → Link
  | [], k => { k with waiting := Table.put k.waiting f [] }
  | o :: rest, k =>
    let q := Table.get [] k.queues f ++ [o]
    if flitsOf q ≤ queueLimit then refill f rest { k with queues := Table.put k.queues f q }
    else { k with waiting := Table.put k.waiting f (o :: rest) }

/-- A packet joins the transmit queue of a function on a link, behind those that wait for room in it (R390). -/
def queuePacket (s : State) (l func : Nat) (p : Packet) : State :=
  s.updLink l fun k => refill func (Table.get [] k.waiting func ++ [⟨func, p⟩]) k

/-- A request that failed is counted for a function (R373). -/
def countLinkErr (s : State) (f : Nat) : State :=
  s.updFunc f fun x => { x with linkErr := Nat.min (x.linkErr + 1) (2 ^ 64 - 1) }

/-! ## Writes of the shepherd -/

/-- The number that stands for the shepherd as the source of a request (R386). -/
def shepherdCore : Nat := 0xFF

/-- An access of the shepherd for a function, to one run of bytes: it goes at a reference cycle, and its number is answered (R326,
R379, R386). -/
def shepherdAccess (s : State) (f : Nat) (kind : AccessKind) (pa len : Nat) (data : List (Option Byte)) (t : Nat) : Nat × State :=
  let (n, s1) := s.newId
  let x : Access :=
    { role := .shepherd, g := shepherdCore, launch := none, seq := n, slot := 7, issue := 0, baddr := 0, rep := 0, cls := 0, mask := 0
      kind := kind, ord := 0, size := len, region := 0, held := false, left := true, strict := false, sent := 0, reply := 0
      done := false, ident := f, old := 0
      pieces := [{ pa := pa, off := 0, len := len, bytes := data, due := 0, done := false, poisoned := false }] }
  (n, { s1 with accesses := s1.accesses.put n x }.due t 10 (.accessPerform n 0))

/-- A write of the shepherd for a function has still to perform. -/
def writesOpen (s : State) (f : Nat) : Bool :=
  s.accesses.any fun (_, a) => a.role == .shepherd && a.ident == f && a.kind != .read && a.pieces.any fun p => !p.done

/-- The first reference cycle at which a write of the shepherd can go, where it cannot go at once: it waits behind the function's earlier
ones (R301); to another device it is a request (R382), one to a block in re-encryption waits for its end, and so does one that needs it
(R285), and one to the host waits for the frame's budget (R370). -/
def deferTo (s : State) (f pa n : Nat) : Option Nat :=
  if writesOpen s f then some (s.now + 1)
  else if isDomain pa then some s.now
  else if isHost pa then
    if hostBudget s f n then none else some ((s.now / 12000 + 1) * 12000)
  else if isHbm pa then
    match reencrypting s pa with
    | some t => some t
    | none => if Table.get 0 s.minor (lineOf pa) = 127 && !wouldExhaust s pa then some s.now else none
  else none

/-- A run of bytes of the shepherd's that can go at once is written (R246, R379). -/
def storeNow (s : State) (f pa : Nat) (data : List Byte) : State :=
  if isHost pa then
    let s1 := noteAts (chargeHost s f data.length) f (pa - hostBase)
    if Config.hostGrants f (pa - hostBase) then writeBytes s1 pa data else countLinkErr s1 f
  else if isScratch pa || (isHbm pa && !isMetadata s pa && !isCommons s pa) then writeLine s pa (data.map some)
  else s

/-- The runs of a write of the shepherd: lines, but for the host, which takes it whole. -/
def storeSpans (pa n : Nat) : List Span := if isHost pa then [⟨0, pa, n⟩] else cutLines (n / 64 + 2) 0 pa n

/-- The later of two reference cycles for which a write waits. -/
def laterOf : Option Nat → Option Nat → Option Nat
  | some a, some b => some (Nat.max a b)
  | some a, none => some a
  | none, b => b

/-- The device writes bytes for a function, wherever the address lies, at once where it can and its translation does not wait for a
reference cycle (R257, R264, R285, R379); the number of the last access that has to wait is answered. -/
def deviceStoreFrom (wait : Option Nat) (s : State) (f pa : Nat) (data : List Byte) : State × Option Nat :=
  (storeSpans pa data.length).foldl (fun (acc : State × Option Nat) sp =>
    let (st, id) := acc
    let d := (data.drop sp.off).take sp.len
    match laterOf wait (deferTo st f sp.pa sp.len) with
    | none => (storeNow st f sp.pa d, id)
    | some t => let (n, st1) := shepherdAccess st f .write sp.pa sp.len (d.map some) t; (st1, some n)) (s, none)

/-- The device writes bytes for a function at an address that is known. -/
def deviceStoreAt (s : State) (f pa : Nat) (data : List Byte) : State × Option Nat := deviceStoreFrom none s f pa data

/-- The device writes bytes for a function. -/
def deviceStore (s : State) (f pa : Nat) (data : List Byte) : State := (deviceStoreAt s f pa data).1

/-- The device writes a word for a function, with a kind of access, at its instant (R326); the number of the access is answered where
the word has to wait. -/
def deviceWord (s : State) (f pa n : Nat) (kind : AccessKind) (data : List Byte) : State × Option Nat :=
  match deferTo s f pa n with
  | none => (storeNow s f pa data, none)
  | some t => let (a, s1) := shepherdAccess s f kind pa n (data.map some) t; (s1, some a)

/-- The writes of the shepherd, from an access number on, that have still to perform (R301). -/
def writesFrom (s : State) (first : Nat) : List Nat :=
  (s.accesses.filter fun (n, a) => first ≤ n && a.role == .shepherd && a.kind != .read && a.pieces.any fun p => !p.done).map (·.1)

/-- The instruction by which the directory acts on a request. -/
def actOf (kind id : Nat) : Instr :=
  match kind with
  | 0 => .subscribeAct id
  | 1 => .lapseAct id
  | 2 => .boardAct id
  | 3 => .alightAct id
  | _ => .cstatAct id

/-- Some access that the shepherd makes for a function is open. -/
def shepherdOpen (s : State) (f : Nat) : Bool := s.accesses.any fun (_, a) => a.role == .shepherd && a.ident == f

/-- The device reads bytes on this module or at the host for a function (R331, R375). -/
def deviceLoad (s : State) (pa n : Nat) : List Byte := readBytes s pa n

/-! ## Status blocks and notices (R300, R301) -/

/-- The number of the directory period of the present reference cycle (R295). -/
def periodNow (s : State) : Nat := s.now / 3000000

/-- The physical address of a byte of a subscription's range. -/
def Subscription.addr (b : Subscription) (o : Nat) : Nat := b.pages.getD ((b.off + o) / 65536) 0 * 65536 + (b.off + o) % 65536

/-- The writes to a subscription's range are performed: no shootdown has stopped them, no reset of its function is in progress, and there
has been no fatal error (R302, R380, R402). -/
def Subscription.open_ (s : State) (b : Subscription) : Bool := s.up && !b.stopped && !(s.func b.func).resetting && !b.pages.isEmpty

/-- The shepherd's accesses from a number on write a subscription's range: a shootdown of the range stops them (R302). They are told by
their class. -/
def ofRange (first : Nat) (s : State) : State :=
  { s with accesses := s.accesses.map fun (n, a) => (n, if first ≤ n && a.role == .shepherd then { a with cls := 1 } else a) }

/-- A physical address lies in a subscription's range. -/
def Subscription.holds (b : Subscription) (pa : Nat) : Bool :=
  (List.range b.pages.length).any fun i =>
    b.pages.getD i 0 == pa / 65536 && b.off ≤ i * 65536 + pa % 65536 && i * 65536 + pa % 65536 < b.off + b.ext

/-- Bytes written in a subscription's range, page by page; the number of the last access that has to wait is answered. -/
def subStore (s : State) (b : Subscription) (o : Nat) (data : List Byte) : State × Option Nat :=
  let n := Nat.min data.length (65536 - (b.off + o) % 65536)
  let r := deviceStoreAt s b.func (b.addr o) (data.take n)
  let r1 := if n < data.length then deviceStoreAt r.1 b.func (b.addr (o + n)) (data.drop n) else r
  (ofRange s.nextId r1.1, r1.2)

/-- Words as bytes. -/
def wordBytes (ws : List Word) : List Byte := ws.flatMap fun w => leBytes 8 w.toNat

/-- The TIER field of a status block and of CSTAT (R243, R300). -/
def tierField (d : DirEntry) : Nat := if d.state = 2 then 3 else d.tier

/-- The words of a status block: ST is 0, 1 or 2 (R300). -/
def statusWords (s : State) (d : DirEntry) (b : Subscription) (st : Nat) : List Word :=
  let isOver := decide (b.limit < b.computed)
  [BitVec.ofNat 2 st ++ BitVec.ofBool isOver ++ BitVec.ofBool (!d.poisoned.isEmpty) ++ BitVec.ofNat 9 d.subs.length ++ 0#1 ++
     BitVec.ofNat 2 (tierField d) ++ BitVec.ofNat 8 b.seqNo ++ BitVec.ofNat 32 b.computed ++ BitVec.ofNat 8 b.sub,
   BitVec.ofNat 32 (periodNow s) ++ BitVec.ofNat 32 b.inForce, BitVec.ofNat 64 b.capPaid, BitVec.ofNat 64 b.fetPaid,
   BitVec.ofNat 64 b.nprod, 0, 0, 0]

/-- A status block is written. -/
def writeStatus (s : State) (d : DirEntry) (b : Subscription) (st : Nat) : State × Subscription :=
  if b.open_ s then
    let b1 := { b with seqNo := (b.seqNo + 1) % 256 }
    ((subStore s b 0 (wordBytes (statusWords s d b1 st))).1, b1)
  else (s, b)

/-- A notice is written, then NPROD, then the notice flag is set: where they have to wait, once the write of NPROD has performed, which
stands behind the others (R300, R301). A stopped range only counts it (R302). -/
def writeNotice (s : State) (b : Subscription) (kind why arg : Nat) : State × Subscription :=
  let b1 := { b with nprod := b.nprod + 1 }
  if b.open_ s then
    let ws : List Word :=
      [BitVec.ofNat 8 kind ++ BitVec.ofNat 8 b.sub ++ BitVec.ofNat 8 why ++ BitVec.ofNat 32 b.computed ++ 0#8,
       BitVec.ofNat 64 (periodNow s), BitVec.ofNat 64 arg, BitVec.ofNat 64 b.nprod]
    let ring := (b.ext - 64) / 32
    let s1 := (subStore s b (64 + 32 * (b.nprod % ring)) (wordBytes ws)).1
    let (s2, last) := subStore s1 b 32 (leBytes 8 b1.nprod)
    match b.notice, last with
    | some (l, r, f), none => (setMemberFlag s2 l r (some f), b1)
    | some (l, r, f), some n => ({ s2 with told := s2.told ++ [(n, l, r, f)] }, b1)
    | none, _ => (s2, b1)
  else (s, b1)

/-- Run a write over the subscriptions of an entry, in ascending age. -/
def overSubs (f : State → Subscription → State × Subscription) : State → List Subscription → State × List Subscription
  | s, [] => (s, [])
  | s, b :: rest =>
    let (s1, b1) := f s b
    let (s2, rest1) := overSubs f s1 rest
    (s2, b1 :: rest1)

/-- Write an entry of the directory. -/
def State.setEntry (s : State) (e : Nat) (d : DirEntry) : State := { s with directory := s.directory.put e d }

/-- The status blocks of every subscription of an entry are written, in ascending age. -/
def writeStatuses (s : State) (e : Nat) (d : DirEntry) : State :=
  let (s1, subs) := overSubs (fun s b => writeStatus s d b 0) s d.subs
  s1.setEntry e { d with subs := subs }

/-- A notice to every subscription of an entry, in ascending age. -/
def noticeAll (s : State) (e : Nat) (d : DirEntry) (kind arg : Nat) : State :=
  let (s1, subs) := overSubs (fun s b => writeNotice s b kind 0 arg) s d.subs
  s1.setEntry e { d with subs := subs }

/-! ## Tiles of an entry (R266, R294, R308) -/

/-- The bytes of a tile's image place and of its headers (R266). -/
def DirEntry.imageSize (d : DirEntry) : Nat := 64 * imageLines (11 + d.fmt)
/-- The bytes of a tile's headers (R266). -/
def DirEntry.headerSize (d : DirEntry) : Nat := 256 * rowBlocks (11 + d.fmt)
/-- Word `k` of an entry as CREATE wrote it. -/
def DirEntry.word (d : DirEntry) (k : Nat) : Word := d.words.getD k 0
/-- R294: the key of an entry. -/
def DirEntry.key (d : DirEntry) : Word × Word := (d.word 0, d.word 1)
/-- The offset of tile `t`'s image in the commons set (R294). -/
def DirEntry.imageAt (d : DirEntry) (t : Nat) : Nat := (bits (d.word 3) 0 48).toNat + t * d.imageSize
/-- The offset of tile `t`'s headers in the commons set (R294). -/
def DirEntry.headerAt (d : DirEntry) (t : Nat) : Nat := (bits (d.word 4) 0 48).toNat + t * d.headerSize

/-- Mark every line of a tile's HBM copy, or clear the marks (R308). -/
def markLines (s : State) (d : DirEntry) (t : Nat) (p : Bool) : State :=
  match commonsBase s with
  | none => s
  | some b =>
    let lines := (cutLines (d.imageSize / 64 + 2) 0 (b + d.imageAt t) d.imageSize) ++
      (cutLines (d.headerSize / 64 + 2) 0 (b + d.headerAt t) d.headerSize)
    lines.foldl (fun st sp => setPoison st sp.pa p) s

/-- TILE_POISONED (R308): the tile is entered in the poison list, the lines of its HBM copy are marked, every status block is
written with PSN = 1, every subscription receives a poison notice, and system software one event. -/
def markTile (s : State) (e t : Nat) : State :=
  match s.directory.find e with
  | none => s
  | some d =>
    if d.poisoned.contains t then s
    else
      let d1 := { d with poisoned := t :: d.poisoned }
      let s1 := writeStatuses (markLines s d1 t true) e d1
      let d2 := (s1.directory.find e).getD d1
      let s2 := noticeAll s1 e d2 3 t
      healthEvent s2 12 0xFF 0 [d.word 0, d.word 1, BitVec.ofNat 64 t]

/-- The entry and the tile whose HBM copy holds an address. -/
def tileOfAddr (s : State) (pa : Nat) : Option (Nat × Nat) :=
  match commonsBase s with
  | none => none
  | some b =>
    s.directory.findSome? fun (e, d) =>
      if d.state = 0 || pa < b then none
      else
        let o := pa - b
        let i := d.imageAt 0
        let h := d.headerAt 0
        if i ≤ o && o < i + d.nt * d.imageSize then some (e, (o - i) / d.imageSize)
        else if h ≤ o && o < h + d.nt * d.headerSize then some (e, (o - h) / d.headerSize)
        else none

/-- A poisoned line of the commons set marks its tile (R281, R308). -/
def noticePoison (s : State) (pa : Nat) : State :=
  if isHbm pa && poisoned s pa && isCommons s pa then
    match tileOfAddr s pa with
    | some (e, t) => markTile s e t
    | none => s
  else s

end Sys2Proof.Machine
end

