-- ==== Sys2Proof/Machine/Walk.lean ====
section
/-!
DEFINITION. The page tables and their walk (R288 to R290), and the translation of a range for the shepherd and the
directory.
-/
namespace Sys2Proof.Machine

/-! ## The walk (R288 to R290) -/

/-- What a walk finds. -/
inductive Walk where
  | page (e : CacheEntry)
  | absent (stage ipa : Nat)
  | malformed
deriving DecidableEq, Repr

/-- A leaf of one stage: its output page, its run and its permissions. -/
structure Leaf where
  out : Nat
  run : Nat
  read : Bool
  write : Bool
deriving DecidableEq, Repr

/-- The number of a 64 KiB page of an address (R288). -/
def pageOf (a : Nat) : Nat := a / 65536

/-- The index of an address at a level (R288). -/
def levelIndex (a level : Nat) : Nat := if level = 2 then a / 2 ^ 42 % 64 else if level = 1 then a / 2 ^ 29 % 8192 else a / 2 ^ 16 % 8192

/-- The output field of an entry, in pages (R288). -/
def entryOut (w : Word) : Nat := (bits w 16 36).toNat

/-- An entry is malformed: a reserved bit is set, L is wrong for its level, W without R, or a stage-1 output above 48
bits; a table entry has no run and no permission (R288, R289). -/
def entryBad (stage1 leaf : Bool) (w : Word) : Bool :=
  bits w 52 4 != 0 || bits w 4 12 != 0 || w.getLsbD 1 != leaf || (w.getLsbD 3 && !w.getLsbD 2) ||
    (stage1 && bits w 48 4 != 0) || (!leaf && (bits w 56 8 != 0 || w.getLsbD 2))

/-- The physical address of an entry of a table whose frame lies at a physical page. -/
def tableAddr (frame a level : Nat) : Nat := frame * 65536 + 8 * levelIndex a level

/-- An entry of a table whose frame lies at a physical page. A poison mark on its line is no matter (DESIGN CHOICE, log entry 138). -/
def tableEntry (s : State) (frame a level : Nat) : Word := readWord s (tableAddr frame a level)

/-- The leaf of an entry. -/
def leafOf (w : Word) : Leaf := { out := entryOut w, run := (bits w 56 8).toNat, read := w.getLsbD 2, write := w.getLsbD 3 }

/-- Stage 2: an intermediate address to its physical page (R288, R289). -/
def stage2 (s : State) (f ipa : Nat) : Except Walk Leaf :=
  let fn := s.func f
  if (fn.word 2).getLsbD 0 then .ok { out := pageOf ipa, run := 255, read := true, write := true }
  else
    let e2 := tableEntry s (entryOut (fn.word 2)) ipa 2
    if !e2.getLsbD 0 then .error (.absent 2 ipa) else if entryBad false false e2 then .error .malformed
    else
      let e1 := tableEntry s (entryOut e2) ipa 1
      if !e1.getLsbD 0 then .error (.absent 2 ipa) else if entryBad false false e1 then .error .malformed
      else
        let e0 := tableEntry s (entryOut e1) ipa 0
        if !e0.getLsbD 0 then .error (.absent 2 ipa) else if entryBad false true e0 then .error .malformed
        else .ok (leafOf e0)

/-- An entry of a stage-1 table, whose frame is an intermediate page that stage 2 maps; one that it does not map for reading lacks the R
that the read needs (R289; DEDUCED, log entry 50). -/
def stage1Entry (s : State) (f frame va level : Nat) : Except Walk Word :=
  match stage2 s f (frame * 65536 + 8 * levelIndex va level) with
  | .error e => .error e
  | .ok l =>
    if !l.read then .error .malformed
    else
      let w := tableEntry s l.out va level
      if !w.getLsbD 0 then .error (.absent 1 0)
      else if entryBad true (level == 0) w then .error .malformed
      else .ok w

/-- A walk of both stages for a virtual address of a function (R289, R290). -/
def walk (s : State) (f va : Nat) : Walk :=
  let res : Except Walk CacheEntry :=
    match stage1Entry s f (entryOut (s.func f).s1Root) va 2 with
    | .error e => .error e
    | .ok e2 =>
      match stage1Entry s f (entryOut e2) va 1 with
      | .error e => .error e
      | .ok e1 =>
        match stage1Entry s f (entryOut e1) va 0 with
        | .error e => .error e
        | .ok e0 =>
          let l1 := leafOf e0
          match stage2 s f (l1.out * 65536) with
          | .error e => .error e
          | .ok l2 =>
            .ok { func := f, page := pageOf va, ipage := l1.out, ppage := l2.out, run := Nat.min l1.run l2.run
                  read := l1.read && l2.read, write := l1.write && l2.write }
  match res with
  | .ok e => .page e
  | .error e => e

/-- The entries that a walk of stage-2 tables reads, from a level on (R289). -/
def stage2Reads (s : State) (ipa : Nat) : List Nat → Nat → List Nat
  | [], _ => []
  | k :: ks, frame =>
    let w := tableEntry s frame ipa k
    tableAddr frame ipa k :: if w.getLsbD 0 && !entryBad false (k == 0) w then stage2Reads s ipa ks (entryOut w) else []

/-- The entries that stage 2 reads for an intermediate address of a function (R289). -/
def stage2ReadsOf (s : State) (f ipa : Nat) : List Nat :=
  let w := (s.func f).word 2
  if w.getLsbD 0 then [] else stage2Reads s ipa [2, 1, 0] (entryOut w)

/-- The entries that a walk of both stages reads, from a level of stage 1 on (R289, R290). -/
def walkReadsFrom (s : State) (f va : Nat) : List Nat → Nat → List Nat
  | [], out => stage2ReadsOf s f (out * 65536)
  | k :: ks, frame =>
    let ipa := tableAddr frame va k
    stage2ReadsOf s f ipa ++
      match stage2 s f ipa, stage1Entry s f frame va k with
      | .ok l, .ok w => tableAddr l.out va k :: walkReadsFrom s f va ks (entryOut w)
      | .ok l, .error _ => [tableAddr l.out va k]
      | .error _, _ => []

/-- The reference cycle for which a walk waits: an entry that it reads lies in a block in re-encryption (R285). -/
def walkWait (s : State) (f va : Nat) : Option Nat :=
  (walkReadsFrom s f va [2, 1, 0] (entryOut (s.func f).s1Root)).findSome? (reencrypting s)

/-- The pages of a range of virtual addresses, by their first addresses. -/
def pagesIn (va len : Nat) : List Nat :=
  if 2 ^ 48 < va + len then [] else (List.range (pageOf (va + len + 65535) - pageOf va)).map fun i => (pageOf va + i) * 65536

/-- The reference cycle for which the translation of a range waits: a walk of it does (R285). -/
def rangeWait (s : State) (f va len : Nat) : Option Nat := (pagesIn va len).findSome? (walkWait s f)

/-- The bytes that a handle of an entry covers, up to virtual address 2^48 (R290). -/
def extentOf (e : CacheEntry) : Nat := Nat.min ((e.run + 1) * 65536) (2 ^ 48 - e.page * 65536)

/-- The permissions of an entry allow an access. -/
def CacheEntry.allows (e : CacheEntry) (write : Bool) : Bool := e.read && (!write || e.write)

/-- The cache entries of a range of virtual addresses of a function, page by page; none where a page is not present or lacks the
permission (R297, R323). -/
def walkRange (s : State) (f va len : Nat) (write : Bool) : Option (List CacheEntry) :=
  if 2 ^ 48 < va + len then none
  else
    (List.range (pageOf (va + len + 65535) - pageOf va)).foldr (fun i acc =>
      match acc, walk s f ((pageOf va + i) * 65536) with
      | some ps, .page e => if e.allows write then some (e :: ps) else none
      | _, _ => none) (some [])

/-- The physical pages of a range of virtual addresses of a function, as the shepherd and the directory translate it
(R297, R323); none where a page is not present or lacks the permission. -/
def translateRange (s : State) (f va len : Nat) (write : Bool) : Option (List Nat) :=
  (walkRange s f va len write).map fun es => es.map (·.ppage)

/-- The physical address of a run of bytes that lies in one page. -/
def translate (s : State) (f va len : Nat) (write : Bool) : Option Nat :=
  match translateRange s f va len write with
  | some (p :: _) => some (p * 65536 + va % 65536)
  | _ => none

end Sys2Proof.Machine
end

