-- ==== Sys2Proof/Machine/Queue.lean ====
section
/-!
DEFINITION. What the device writes in a queue's control block (R316), the error state of a queue (R318), the ends of launch
chains (R324, R329), and the results that a packet asks for (R330).
-/
namespace Sys2Proof.Machine

/-- A word of a queue's control block is written, as a host request of its function (R316, R370, R378). -/
def storeQcb (s : State) (f at_ : Nat) (v : Nat) : State := deviceStore s f at_ (leBytes 8 v)

/-- The words of a queue's control block that the shepherd writes: HEAD, STATE with ECODE and SLOT, LSN and EADDR (R316). -/
def writeQcb (s : State) (n : Nat) : State :=
  match s.queue? n with
  | none => s
  | some q =>
    let at_ := hostBase + q.qcb
    let slot := match q.slot with | some k => k | none => 0
    let w5 : Word := BitVec.ofNat 2 q.state ++ BitVec.ofNat 8 q.ecode ++ 0#12 ++ BitVec.ofNat 10 slot ++ 0#32
    let s1 := storeQcb s q.func (at_ + 24) q.head
    let s2 := storeQcb s1 q.func (at_ + 40) w5.toNat
    let s3 := storeQcb s2 q.func (at_ + 48) (q.lsn % 2 ^ 48)
    storeQcb s3 q.func (at_ + 56) q.eaddr

/-- The number under which the chains of a launch are known: its queue's, or one of its own once that queue is destroyed, for a queue
created anew with the number assigns its LSNs from 1 (R329). -/
def Launch.chainQueue (x : Launch) : Nat := x.queue + 65536 * x.orphan

/-- A launch belongs to a queue that exists. -/
def Launch.ofQueue (x : Launch) (n : Nat) : Bool := x.queue == n && x.orphan == 0

/-- A launch chain of a queue ends with a status: its queue goes on if it waits for it, and so does every launch that waits
on it; after a status other than 0 that launch is to end with STATUS 6 (R324, R325, R329). -/
def endChain (s : State) (n lsn status : Nat) : State :=
  let s0 := s.updQueue n fun q =>
    { q with ended := (lsn, status) :: q.ended, blocked := if q.blocked = .chain lsn then .none else q.blocked }
  let s1 := if 65536 ≤ n && status = 0 then
      { s0 with queues := s0.queues.map fun (k, q) => (k, { q with refs := q.refs.filter (· != (n, lsn)) }) }
    else s0
  let tell := fun (x : Launch) =>
    if x.deps.contains (n, lsn) then
      { x with deps := x.deps.filter (· != (n, lsn)), depFailed := x.depFailed || status != 0 }
    else x
  { s1 with launches := s1.launches.map fun (l, x) => (l, tell x) }

/-- The status with which a chain ended, if it has ended; a reference to one of a destroyed queue that has ended well is kept no more
(R329). -/
def chainStatus (s : State) (n lsn : Nat) : Option Nat :=
  match s.queue? n with
  | none => if 65536 ≤ n && !(s.launches.any fun (_, x) => x.chainQueue == n && x.lsn == lsn) then some 1 else none
  | some q => (q.ended.find? fun (l, _) => l == lsn).map (·.2)

/-- The launches of a queue that wait for admission are discarded; one that holds an LSN counts as a chain that has ended
with a status other than 0 (R318, R329). -/
def discardWaiting (s : State) (n : Nat) : State :=
  let gone := s.launches.filter fun (_, x) => x.ofQueue n && x.state == .waiting
  gone.foldl (fun st (l, x) =>
    let s1 := { st with launches := st.launches.del l }
    if x.lsn = 0 then s1 else endChain s1 n x.lsn 1) s

/-- A queue is destroyed: the launches that it has admitted run on, and their chains, and the references to them, are told apart from those
of a queue that is created with its number (R318, R329). -/
def forgetQueue (s : State) (n : Nat) (q : Queue) : State :=
  let (id, s1) := s.newId
  let old := fun (d : Nat × Nat) => d.1 == n && d.2 != 0 && d.2 ≤ q.lsn
  let name := fun (d : Nat × Nat) => if old d then (n + 65536 * id, d.2) else d
  let met := fun (d : Nat × Nat) => old d && chainStatus s n d.2 == some 0
  { s1 with
    launches := s1.launches.map fun (l, x) => (l, { x with orphan := if x.ofQueue n then id else x.orphan, deps := x.deps.map name })
    queues := (s1.queues.del n).map fun (k, o) => (k, { o with refs := (o.refs.filter fun d => !met d).map name }) }

/-- A queue enters the error state (R318). -/
def queueError (s : State) (n code eaddr : Nat) : State :=
  let s1 := s.updQueue n fun q => { q with state := 2, ecode := code, eaddr := eaddr, blocked := .none }
  writeQcb (discardWaiting s1 n) n

/-- The result word of request `id` of a packet is written at its result address, translated then, and the queue goes on once it has
performed; a queue that was reset meanwhile does not wait for it (R330). -/
def writeResult (s : State) (n id func raddr packet : Nat) (w : Word) : State :=
  let mine := fun (q : Queue) => q.blocked == .commons id
  if (s.func func).resetting then s
  else match translate s func raddr 8 true with
  | some pa =>
    let (s1, a) := deviceStoreFrom (rangeWait s func raddr 8) s func pa (leBytes 8 w.toNat)
    let next := match a with | some k => Block.remote k | none => Block.none
    s1.updQueue n fun q => if mine q then { q with blocked := next } else q
  | none => if ((s.queue? n).map mine).getD false then queueError s n 6 packet else s

end Sys2Proof.Machine
end

