-- ==== Sys2Proof/Machine/Memory.lean ====
section
/-!
DEFINITION. How an access performs: its pieces by line, the order at the source interface (R130, R248 to R255), lanes,
remote ports and the calendar (R269 to R277), its instant at its slice (R246), and its reply (R49, R252); atomics
(R221 to R224).
-/
namespace Sys2Proof.Machine

/-! ## Pieces of an access -/

/-- The path of a piece from a core (R264, R270, R271, R277, R379, R382). -/
def pathOf (g pa : Nat) : Path :=
  if isScratch pa then (if hiveOf pa = hiveOfCore g then .own else .remote)
  else if isHbm pa then .hbm
  else if isDomain pa then .link
  else if isHost pa then .host
  else .none

/-- The path of a piece of an access: a stream write comes to the remote port of any bank (R241, R271). -/
def Access.path (x : Access) (pa : Nat) : Path := if x.role == .stream && isScratch pa then .remote else pathOf x.g pa

/-- A piece lies on the other die (R271, R277). -/
def crosses (s : State) (g pa : Nat) : Bool := dieOfPa s pa != dieOf g && (isScratch pa || isHbm pa)

/-- Join runs that follow each other both in the data and in memory. -/
def mergeSpans : List Span → List Span
  | [] => []
  | a :: rest =>
    match mergeSpans rest with
    | b :: more => if a.off + a.len = b.off && a.pa + a.len = b.pa then ⟨a.off, a.pa, a.len + b.len⟩ :: more else a :: b :: more
    | [] => [a]

/-- The pieces of a read: one for each line (R268). -/
def readPieces (spans : List Span) : List Piece :=
  (linesOf (mergeSpans spans)).map fun sp =>
    { pa := sp.pa, off := sp.off, len := sp.len, bytes := [], due := 0, done := false, poisoned := false }

/-- Cut the bytes of a piece into its runs of written bytes. -/
def runsOf : Nat → Nat → List (Option Byte) → List (Nat × Nat × List (Option Byte))
  | _, _, [] => []
  | off, pa, none :: rest => runsOf (off + 1) (pa + 1) rest
  | off, pa, some b :: rest =>
    match runsOf (off + 1) (pa + 1) rest with
    | (o, p, bs) :: more => if o = off + 1 then (off, pa, some b :: bs) :: more else (off, pa, [some b]) :: (o, p, bs) :: more
    | [] => [(off, pa, [some b])]

/-- The pieces of a write of the given bytes. A line of which no byte is written makes no piece. A write to another
device or to the host is cut where bytes are missing, for a packet carries whole runs (R386). -/
def writePieces (spans : List Span) (data : List (Option Byte)) : List Piece :=
  (linesOf (mergeSpans spans)).flatMap fun sp =>
    let bs := (data.drop sp.off).take sp.len
    let mk := fun (o p : Nat) (b : List (Option Byte)) =>
      Piece.mk p o b.length b 0 false false
    if bs.all Option.isNone then []
    else if isDomain sp.pa || isHost sp.pa then (runsOf sp.off sp.pa bs).map fun (o, p, b) => mk o p b
    else [mk sp.off sp.pa bs]

/-- The data of a read whose pieces have all been read: bytes of no piece are zero (R197). -/
def assemble (size : Nat) (ps : List Piece) : List Byte :=
  let d := ps.foldl (fun acc p => acc ++ List.replicate (p.off - acc.length) 0 ++ p.bytes.map (fun b => b.getD 0)) []
  d ++ List.replicate (size - d.length) 0

/-! ## Order at the source interface (R130, R249, R252 to R255) -/

/-- The accesses of a launch on a core that are not yet acknowledged or answered, with their numbers, whoever makes them: of the launch
that the core runs, or of one that has ended and whose last writes are in flight (R46, R257). -/
def openOn (s : State) (g : Nat) (l : Option Nat) : List (Nat × Access) :=
  s.accesses.filter fun (_, a) => a.g == g && a.role != .stream && a.launch == l && !a.done

/-- Those of them that the core's slots have made. -/
def slotsOn (s : State) (g : Nat) (l : Option Nat) : List (Nat × Access) := (openOn s g l).filter fun (_, a) => a.role == .slot

/-- The accesses of the launch that a core runs. -/
def allOpen (s : State) (g : Nat) : List (Nat × Access) := openOn s g (s.core g).launch

/-- The accesses of a core's slots that are not yet acknowledged or answered. -/
def openAccesses (s : State) (g : Nat) : List (Nat × Access) := slotsOn s g (s.core g).launch

/-- The element accesses of an engine that are not yet acknowledged or answered (R202). -/
def engineOpen (s : State) (g e : Nat) : List (Nat × Access) :=
  (allOpen s g).filter fun (_, a) => a.role == .engine && a.slot == 5 + e

/-- The copy commands of a core that are not complete. -/
def openCommands (c : Core) : List Command := c.cmdsOf 0 ++ c.cmdsOf 1

/-- The copy commands of a launch on a core: those of one that has ended are discarded (R351). -/
def commandsOn (s : State) (g : Nat) (l : Option Nat) : List Command :=
  if (s.core g).launch == l then openCommands (s.core g) else []

/-- The fences of a launch on a core: a launch that has ended keeps those of its cores for its last accesses (R130). -/
def fencesOn (s : State) (g : Nat) (l : Option Nat) : List Fence :=
  if (s.core g).launch == l then (s.core g).fences
  else
    match l.bind s.launch? with
    | some x => (x.fences.filter fun (k, _) => k == g).map (·.2)
    | none => []

/-- An access reads: a load, a KLDH or an atomic. -/
def Access.reads (a : Access) : Bool :=
  match a.kind with
  | .write | .stamp => false
  | _ => true

/-- The function for which an access is made. -/
def Access.func (s : State) (a : Access) : Nat :=
  match a.role with
  | .shepherd => a.ident
  | _ => funcOfLaunch s (a.launch.getD 0)

/-- An access is a store or a KSTH. -/
def Access.isWrite (a : Access) : Bool :=
  match a.kind with
  | .write | .stamp => true
  | _ => false

/-- An access releases (R253). -/
def Access.releases (a : Access) : Bool :=
  match a.kind with
  | .read => false
  | _ => a.role == .slot && a.ord != 0

/-- A write is still to be acknowledged at a scope: the 48 slices at every scope, links from DOMAIN on, the host at
SYSTEM (R255). -/
def Access.pendingAt (a : Access) (scope : Nat) : Bool :=
  a.pieces.any fun p =>
    match pathOf a.g p.pa with
    | .link => 5 ≤ scope
    | .host => 6 ≤ scope
    | _ => true

/-! ### The counts of a core (R252)

They follow from the open accesses and the uncompleted commands of the core, which a pre-emption saves with it; no instruction reads
them. A release waits for the writes among them that come before it. -/

/-- The writes of a core of a class that are not acknowledged and have a byte that satisfies a test, and its uncompleted commands of the
class (R252). -/
def outstanding (s : State) (g cls : Nat) (p : Piece → Bool) : Nat :=
  ((openAccesses s g).filter fun (_, a) => a.isWrite && a.cls == cls && a.pieces.any p).length +
    ((openCommands (s.core g)).filter fun m => m.cls == cls).length

/-- The count of a slice and a class: the writes toward the slice that are not yet acknowledged (R252). -/
def sliceCount (s : State) (g slice cls : Nat) : Nat := outstanding s g cls fun p => sliceOf s p.pa == some slice

/-- The link count of a class (R252). -/
def linkCount (s : State) (g cls : Nat) : Nat := outstanding s g cls fun p => isDomain p.pa

/-- The host count of a class (R252). -/
def hostCount (s : State) (g cls : Nat) : Nat := outstanding s g cls fun p => isHost p.pa

/-- The touched-slice mask: bit s is 1 while any class's count for slice s is not zero (R252). -/
def touchedSlices (s : State) (g : Nat) : BitVec 48 :=
  (List.range 48).foldl (fun m sl => if (List.range 16).any fun c => sliceCount s g sl c != 0 then putBit m sl true else m) 0

/-- Every earlier write of the given classes of a launch is acknowledged at a scope, and no earlier command of them is uncompleted
(R252, R253). -/
def writesAckedOn (s : State) (g : Nat) (l : Option Nat) (seq scope : Nat) (mask : BitVec 16) : Bool :=
  !((slotsOn s g l).any fun (_, a) => a.isWrite && a.seq < seq && mask.getLsbD a.cls && a.pendingAt scope) &&
    !((commandsOn s g l).any fun m => m.seq < seq && mask.getLsbD m.cls)

/-- Every earlier write of the given classes is acknowledged at a scope, and no earlier command of them is uncompleted. -/
def writesAcked (s : State) (g seq scope : Nat) (mask : BitVec 16) : Bool := writesAckedOn s g (s.core g).launch seq scope mask

/-- The zero-length read of a release, if it sends one, is completed (R379). -/
def flushedOn (s : State) (g : Nat) (l : Option Nat) (seq : Nat) : Bool :=
  !((openOn s g l).any fun (_, a) => a.role == .flush && a.seq == seq)

/-- The zero-length read of a release of the launch that the core runs is completed. -/
def flushed (s : State) (g seq : Nat) : Bool := flushedOn s g (s.core g).launch seq

/-- Every earlier load and atomic of the given classes of a launch has returned its data (R253, R254). -/
def readsDoneOn (s : State) (g : Nat) (l : Option Nat) (seq : Nat) (mask : BitVec 16) : Bool :=
  !((slotsOn s g l).any fun (_, a) => a.reads && a.seq < seq && mask.getLsbD a.cls)

/-- Every earlier load and atomic of the given classes has returned its data. -/
def readsDone (s : State) (g seq : Nat) (mask : BitVec 16) : Bool := readsDoneOn s g (s.core g).launch seq mask

/-- An access waits behind a fence: an earlier access of the fence's classes, before the fence, is still open (R130). -/
def fenceBlocksOn (s : State) (g : Nat) (l : Option Nat) (cls seq : Nat) (f : Fence) : Bool :=
  f.seq < seq && f.mask.getLsbD cls &&
    !(writesAckedOn s g l f.seq f.scope f.mask && readsDoneOn s g l f.seq f.mask && flushedOn s g l f.seq)

/-- An access of the launch that the core runs waits behind a fence. -/
def fenceBlocks (s : State) (g cls seq : Nat) (f : Fence) : Bool := fenceBlocksOn s g (s.core g).launch cls seq f

/-- All sixteen classes. -/
def allClasses : BitVec 16 := 0xFFFF

/-- The earlier accesses of its class that an access still finds open (R249). -/
def classBefore (s : State) (x : Access) : List (Nat × Access) :=
  s.accesses.filter fun (_, b) =>
    b.role == .slot && b.g == x.g && b.launch == x.launch && !b.done && b.seq < x.seq && b.cls == x.cls

/-- A request for HBM (R277). -/
def usesHbm (s : State) (x : Access) : Bool := x.pieces.any fun p => pathOf x.g p.pa == .hbm && !(crosses s x.g p.pa && !s.dieLink)

/-- An access still waits at the source interface: it has not left it, or its request for HBM waits for its position (R253,
R277). -/
def Access.waits (s : State) (a : Access) : Bool := !a.left || (usesHbm s a && a.sent == 0)

/-- The accesses of a launch on a core that block a later access of any class: an acquire still open, and a release that still waits
(R130, R199, R223, R253, R254). -/
def blockersOn (s : State) (g : Nat) (l : Option Nat) (seq : Nat) : List (Nat × Access) :=
  (slotsOn s g l).filter fun (_, b) => b.seq < seq && ((b.reads && b.ord != 0) || (b.releases && b.waits s))

/-- The placement of a launch is saved out: what its accesses wait for is saved with it, and none of them leaves until it is brought back
(R350). -/
def isAway (s : State) (l : Option Nat) : Bool := match l.bind s.launch? with | some x => x.state == .saved | none => false

/-- No fence, no copy command of its class, no acquire, no waiting release and no release of its own keeps an access at the
source interface (R130, R249, R253, R254). The conditions are those of its own launch, also when that has ended (R256); where that is saved
out, it stays (R350). -/
def unfenced (s : State) (x : Access) : Bool :=
  let l := x.launch
  !x.held && !isAway s l && (blockersOn s x.g l x.seq).isEmpty &&
    !((commandsOn s x.g l).any fun m => m.seq < x.seq && m.cls == x.cls) &&
    !((fencesOn s x.g l).any fun f => fenceBlocksOn s x.g l x.cls x.seq f) &&
    (!x.releases ||
      (writesAckedOn s x.g l x.seq x.ord allClasses && readsDoneOn s x.g l x.seq allClasses && flushedOn s x.g l x.seq))

/-! ### What stays behind a held write or a paused command

A held write goes only at a commit, and an uncompleted command goes on only when its core does. During a save, or where the launch ends,
neither comes, and neither does what has to wait for them. -/

/-- What keeps later accesses of its core back: its place in program order, its class, and whether it keeps back every class. -/
structure Back where
  seq : Nat
  cls : Nat
  all : Bool
deriving DecidableEq, Repr

/-- An access has to perform after one that is kept back (R130, R249, R253, R254). -/
def Back.before (fs : List Fence) (x : Access) (d : Back) : Bool :=
  d.seq < x.seq && (x.cls == d.cls || d.all || x.releases || (x.role == .flush && x.mask.getLsbD d.cls) ||
    fs.any fun f => d.seq < f.seq && f.seq < x.seq && f.mask.getLsbD d.cls && f.mask.getLsbD x.cls)

/-- The accesses of the launch that a core runs which are kept back, by their numbers: held ones, ones that would cross a die link that is
lost (R360), and those that wait behind them or behind a command that is not complete. -/
def keptBack (s : State) (g : Nat) : List Nat :=
  let start := (openCommands (s.core g)).map fun m => Back.mk m.seq m.cls false
  let fs := (s.core g).fences
  ((allOpen s g).foldl (fun (acc : List Back × List Nat) (n, a) =>
    let cut := !s.dieLink && a.pieces.any fun p => crosses s g p.pa && (!a.left || (pathOf g p.pa == .hbm && a.sent = 0))
    if a.held || cut || (!a.left && acc.1.any (Back.before fs a)) then
      (⟨a.seq, a.cls, (a.reads && a.ord != 0) || a.releases⟩ :: acc.1, n :: acc.2)
    else acc) (start, [])).2

/-- The lane of a slot: C0, C1, K (R269). -/
def laneOf (slot : Nat) : Nat := if slot = 5 then 0 else if slot = 6 then 1 else 2

/-- The lane of a line at its bank. -/
def laneKey (g slot pa : Nat) : Nat := (g * 3 + laneOf slot) * 32 + bankOf pa

/-- The lines of plain accesses that wait for a lane (R269): access and place of each. -/
def laneWaits (s : State) (g slot pa : Nat) : List (Nat × Nat × Access × Piece) :=
  (s.accesses.filter fun (_, b) => b.role == .slot && b.g == g && b.left).flatMap fun (n, b) =>
    ((List.range b.pieces.length).zip b.pieces).filterMap fun (i, q) =>
      if !q.done && q.due != 0 && pathOf g q.pa == .own && laneKey g b.slot q.pa == laneKey g slot pa then some (n, i, b, q) else none

/-- The first reference cycle after issue at which a lane can serve a line of an access, behind the plain lines before it in issue order
that wait for the lane (R269, R270). A later one that waits gives way to it. -/
def laneFree (s : State) (x : Access) (pa : Nat) : Nat :=
  s.now + 1 + ((laneWaits s x.g x.slot pa).filter fun (_, _, b, _) => b.launch != x.launch || b.seq ≤ x.seq).length

/-- The first reference cycle at which a piece of an access can perform if the access goes now (R270, R271, R277; DEDUCED, log
entry 103). -/
def firstOf (s : State) (x : Access) (p : Piece) : Nat :=
  match pathOf x.g p.pa with
  | .own => laneFree s x p.pa
  | .remote => s.now + (if crosses s x.g p.pa then 68 else 20)
  | .hbm => s.now + (if crosses s x.g p.pa then 304 else 256)
  | _ => s.now

/-- The reference cycle at which a piece that has gone performs, where the source interface knows it: on a lane of its own
hive, or at a calendar position (R270, R277). -/
def instantOf (s : State) (x : Access) (p : Piece) : Option Nat :=
  match pathOf x.g p.pa with
  | .own => some p.due
  | .hbm => if p.due = 0 || (reencrypting s p.pa).isSome then none else some p.due
  | _ => none

/-- An access that goes now performs after every instant of an earlier one that has gone; nothing in the cycle of an atomic is
known to come after it (R222, R246, R249). -/
def after (s : State) (x b : Access) : Bool :=
  let strictly := match b.kind with | .atomic .. => 1 | _ => 0
  b.left && b.pieces.all fun q =>
    match instantOf s b q with
    | some t => x.pieces.all fun p => t + strictly ≤ firstOf s x p
    | none => false

/-- An access that goes now performs after every instant of the earlier accesses of its class (R249). -/
def inOrder (s : State) (x : Access) : Bool := (classBefore s x).all fun (_, b) => after s x b

/-- The earlier accesses of its class are done, or have all gone and the access has not yet been found too early behind them
(R249). -/
def classReady (s : State) (x : Access) : Bool :=
  (classBefore s x).isEmpty || (!x.strict && (classBefore s x).all fun (_, b) => b.left)

/-- An access may leave the source interface: nothing keeps it there, and time keeps it behind every earlier access of its class,
or they are done (R130, R249, R253, R254; DEDUCED, log entry 99). A request for HBM is held against its class at its position. -/
def mayLeave (s : State) (x : Access) : Bool := unfenced s x && classReady s x && (usesHbm s x || inOrder s x)

/-- A line has still to wait for its instant: an earlier access of its class has not performed (R249), or an earlier element
access of its engine in the same slice (R251), or an earlier write of the shepherd for its function (R301). -/
def behind (s : State) (n : Nat) (x : Access) (p : Piece) : Bool :=
  match x.role with
  | .slot => (classBefore s x).any fun (_, b) => b.pieces.any fun q => !q.done
  | .engine =>
    s.accesses.any fun (k, b) => b.role == .engine && b.g == x.g && b.launch == x.launch && b.slot == x.slot && k < n &&
      b.pieces.any fun q => !q.done && sliceOf s q.pa == sliceOf s p.pa
  | .shepherd =>
    s.accesses.any fun (k, b) => b.role == .shepherd && b.ident == x.ident && k < n &&
      b.pieces.any fun q => !q.done && ((b.kind != .read && x.kind != .read) ||
        (pathOf b.g q.pa == pathOf x.g p.pa && (isDomain p.pa || isHost p.pa || lineOf q.pa == lineOf p.pa)))
  | _ => false

/-! ## What waits for accesses -/

/-- A copy engine may begin its next command (R202, R205, R217, R249, R254). -/
def mayStart (s : State) (g : Nat) (m : Command) : Bool :=
  let c := s.core g
  match m.kind with
  | .cfence | .cacq | .crel => true
  | _ =>
    !((openAccesses s g).any fun (_, a) => a.cls == m.cls && a.seq < m.seq) &&
      !((openCommands c).any fun o => o.seq < m.seq && o.cls == m.cls) &&
      !(c.fences.any fun f => fenceBlocks s g m.cls m.seq f) &&
      !((openAccesses s g).any fun (_, a) => a.seq < m.seq && ((a.reads && a.ord != 0) || (a.releases && a.waits s))) &&
      (!m.acq || readsDone s g m.seq allClasses)

/-- A started command may complete (R205, R217). -/
def mayComplete (s : State) (g e : Nat) (m : Command) : Bool :=
  let c := s.core g
  match m.kind with
  | .cfence => !((c.cmdsOf e).any fun o => o.seq < m.seq && m.mask.getLsbD o.cls)
  | .cacq => readsDone s g m.seq m.mask
  | .crel =>
    !((openAccesses s g).any fun (_, a) => a.isWrite && a.seq < m.seq && m.mask.getLsbD a.cls && a.pendingAt m.scope) &&
      !((openCommands c).any fun o => o.seq < m.seq && m.mask.getLsbD o.cls) && readsDone s g m.seq m.mask && flushed s g m.seq
  | _ =>
    m.finished && (!m.rel ||
      (!((openAccesses s g).any fun (_, a) => a.isWrite && a.seq < m.seq && a.pendingAt m.scope) &&
        !((openCommands c).any fun o => o.seq < m.seq) && readsDone s g m.seq allClasses && flushed s g m.seq))

/-- Every line of a command has gone, and every one is acknowledged or answered (R205). -/
def engineDone (s : State) (g e : Nat) (m : Command) : Bool :=
  m.started && m.total ≤ m.ord && m.todo.isEmpty && (engineOpen s g e).isEmpty

/-- A phase line may rise: the phase is open, its count is zero and the writes before its PHASE are acknowledged (R229). -/
def lineReady (s : State) (g p : Nat) : Bool :=
  let x := (s.core g).phGet p
  x.isOpen && !x.line && (if x.gen then x.cnt1 else x.cnt0) == 0 && writesAcked s g x.seq 4 allClasses

/-- Every access of a core has performed and is answered, and every command is complete (R46, R350). -/
def drained (s : State) (g : Nat) : Bool := (allOpen s g).isEmpty && (openCommands (s.core g)).isEmpty

/-- The order of a step among those of one reference cycle: plain performs, atomics by core, atomics of links by link
number, replies, departures from a source interface, positions of the calendar (R222, R277). -/
def keyPlain : Nat := 10
/-- Order of an atomic of core `g`. -/
def keyAtomic (g : Nat) : Nat := 100 + g
/-- Order of a plain access that arrives over link `l`. -/
def keyLinkPlain (l : Nat) : Nat := 11 + l
/-- Order of an atomic that arrives over link `l`. -/
def keyLink (l : Nat) : Nat := 1000 + l
/-- Order of replies and completions. -/
def keyReply : Nat := 2000
/-- Order of departures. -/
def keyLeave : Nat := 3000
/-- Order of the end of a launch: after the calendar and after the acts of the directory in its cycle (R310). -/
def keyRetire : Nat := 7300

/-- The element at ord goes on with its next line at a reference cycle that the manual leaves open (R202). -/
def nextElement (s : State) (g e : Nat) : State :=
  (s.dueOnce (s.now + 1 + Config.copyDelay (s.place g)) keyPlain (.copyElement g e)).draw g

/-- An engine goes on after an answer: with its next line, or with the completion of its command (R202, R205). -/
def engineGoes (s : State) (g e : Nat) : State :=
  match (s.core g).cmdsOf e with
  | [] => s
  | m :: _ =>
    if !m.started || m.paused || m.finished then s
    else if engineDone s g e m then
      (s.dueOnce (s.now + 1 + Config.copyDelay (s.place g)) keyReply (.copyCommandComplete g e)).draw g
    else if m.total ≤ m.ord && m.todo.isEmpty then s
    else nextElement s g e

/-- The place of an open value of an access: its core's, while that runs its launch (R50). -/
def placeOf (s : State) (x : Access) : Nat := if (s.core x.g).launch == x.launch then s.place x.g else 2 ^ 91 + s.fresh

/-- An open value of an access has been drawn. -/
def drawOf (s : State) (x : Access) : State := if (s.core x.g).launch == x.launch then s.draw x.g else s.tick

/-- The zero-length reads of a core's releases go out once the host writes before them have been posted; where its function has written
to no host address after all, there is nothing to read (R379). -/
def sendFlushes (s : State) (g : Nat) : State :=
  (s.accesses.filter fun (_, a) => a.g == g && a.role == .flush && !a.left && !isAway s a.launch).foldl (fun st (n, a) =>
    let own := (commandsOn s g a.launch).any fun m => m.seq == a.seq && !m.finished && m.kind != .crel
    if own || !writesAckedOn s g a.launch a.seq 6 a.mask then st
    else
      let st1 := { st with accesses := st.accesses.put n { a with left := true } }
      match (st.func (funcOfLaunch st (a.launch.getD 0))).lastHost with
      | some _ => drawOf (st1.due (s.now + 1 + Config.hostReadTime (placeOf st a)) keyReply (.landingBufferArrival n)) a
      | none => st1.due s.now keyReply (.landingBufferArrival n)) s

/-- What may now follow from an access or a command of a core that has ended: accesses leave, engines go on, phase lines
rise, messages and proposals depart, a launch retires or is saved, a shootdown completes. Each step looks again at
its condition. -/
def wake (s0 : State) (g : Nat) : State :=
  let s := sendFlushes s0 g
  let c := s.core g
  let s1 := (s.accesses.filter fun (_, a) => a.g == g && a.role == .slot && !a.left).foldl (fun st (n, a) =>
    if unfenced s a && classReady s a then st.due s.now keyLeave (.sourceInterfaceRelease n) else st) s
  let s2 := [0, 1].foldl (fun st e =>
    match c.cmdsOf e with
    | [] => st
    | m :: _ =>
      if !m.started && mayStart s g m then st.due s.now keyLeave (.copyCommandStart g e)
      else if m.started && mayComplete s g e m then st.due s.now keyReply (.copyCommandComplete g e)
      else st) s1
  let s3 := (List.range 8).foldl (fun st p =>
    if lineReady s g p then st.due s.now keyLeave (.phaseLineRaise g p) else st) s2
  let s4 := s.arrives.foldl (fun st (n, m) =>
    if m.src = g && c.launch == some m.launch && !m.departed && writesAcked s g m.seq 4 allClasses then st.due s.now keyLeave (.arrivalDeparture n)
    else st) s3
  let s5 := s.proposals.foldl (fun st (n, p) =>
    if p.g == some g && c.launch == some p.launch && p.departed.isNone && writesAcked s g p.seq 4 allClasses then
      st.due s.now keyLeave (.claimDeparture n)
    else st) s4
  let s6 := s.shoots.foldl (fun st (n, _) => st.due s.now keyLeave (.shootdownComplete n)) s5
  match c.launch with
  | none => s6
  | some l =>
    match s.launch? l with
    | none => s6
    | some x =>
      match x.state with
      | .running =>
        if x.cores.all fun k => (s.core k).halted then s6.due s.now keyRetire (.launchRetirement l) else s6
      | .saving => s6.due s.now 4000 (.saveComplete l)
      | _ => s6

/-! ## Packets to other devices (R382 to R390) -/

/-- The packet of a piece (R386). -/
def packetOf (s : State) (x : Access) (n : Nat) (p : Piece) : Packet :=
  let (ty, aop, dat, len, id) :=
    match x.kind with
    | .read => (0, 0, [], p.len, n % 65536)
    | .write => (1, 0, p.bytes.map fun b => b.getD 0, p.len, n % 65536)
    | .stamp => (1, 0, leBytes p.len s.now, p.len, n % 65536)
    | .add v => (2, 0, leBytes p.len v.toNat, p.len, x.old.toNat)
    | .atomic op a b sg => (2, op, leBytes 4 a.toNat ++ leBytes 4 b.toNat ++ leBytes 4 (if sg then 1 else 0), 12, x.ident)
  { type := ty, len := len, srcDev := s.devnum, dstDev := deviceOf p.pa, srcCore := x.g, cls := x.cls, reqId := id, aop := aop
    psn := x.isWrite && p.poisoned, addr := deviceAddr p.pa, data := dat }

/-! ## The instant of a piece -/

/-- The slot of a boarder has taken a tile whose lines have performed (R244, R305). -/
def streamOver (s : State) (x : Access) : State :=
  if x.role == .stream then s.due s.now 30 (.streamTileComplete x.g x.cls x.ident) else s

/-- Record that a piece is done, and when the whole access is answered if it was the last (R246); a tile of a stream is then complete in
its slot. -/
def donePiece (s : State) (n : Nat) (x : Access) (i : Nat) (p : Piece) (reply : Nat) : State :=
  let y := { x with pieces := x.pieces.set i { p with done := true }, reply := Nat.max x.reply reply }
  let s1 := { s with accesses := s.accesses.put n y }
  if y.pieces.all (·.done) then
    (streamOver s1 y).due (Nat.max s.now y.reply) keyReply (if y.isWrite then .writeAcknowledge n else .landingBufferArrival n)
  else s1

/-- The reference cycle at which the reply to a piece that performs now is back (R270, R271, R277). -/
def replyTime (s : State) (x : Access) (p : Piece) : Nat :=
  let far := crosses s x.g p.pa
  let atom := match x.kind with | .atomic .. => true | _ => false
  match x.path p.pa with
  | .own => s.now + (if atom then 13 else if x.isWrite then 12 else 11)
  | .remote => s.now + (if far then (if atom then 72 else 68) else if atom then 24 else 20)
  | .hbm =>
    let gone := s.now - (if far then 304 else 256)
    let anyFar := x.pieces.any fun q => crosses s x.g q.pa
    gone + (if atom then 520 else 512) + (if anyFar then 96 else 0)
  | _ => s.now

/-- The result of an atomic on a word (R221): opcode − 0x38. -/
def atomicNew (op : Nat) (sg : Bool) (m a b : BitVec 32) : BitVec 32 :=
  let less := fun (x y : BitVec 32) => if sg then x.slt y else x.ult y
  match op with
  | 0 => m + a
  | 1 => m &&& a
  | 2 => m ||| a
  | 3 => m ^^^ a
  | 4 => if less a m then a else m
  | 5 => if less m a then a else m
  | 6 => a
  | _ => if m = b then a else m

/-- The stored reply of a target to a request of a source, if it is among the last 64 of that source (R224). -/
def storedReply (s : State) (target source ident : Nat) : Option (BitVec 32) :=
  ((Table.get [] s.atomReplies target).find? fun (a, b, _) => a == source && b == ident).map fun (_, _, r) => r

/-- Keep a reply: the newest first, the last 64 of each source (R224). -/
def keepReply (s : State) (target source ident : Nat) (r : BitVec 32) : State :=
  let old := Table.get [] s.atomReplies target
  let mine := (old.filter fun (a, _, _) => a == source).take 63
  let rest := old.filter fun (a, _, _) => a != source
  { s with atomReplies := Table.put s.atomReplies target ((source, ident, r) :: (mine ++ rest)) }

/-- An atomic executes at its target in one indivisible step, exactly once for each identifier (R221 to R224). It answers
the old word, and whether the line is poisoned, in which case the word stays. -/
def runAtomic (s : State) (target source ident pa op : Nat) (sg : Bool) (a b : BitVec 32) : State × BitVec 32 × Bool :=
  match storedReply s target source ident with
  | some r => (s, r, false)
  | none =>
    let (s1, bytes, p) := readLine s pa 4
    let m := BitVec.ofNat 32 (leNat bytes)
    if p then (s1, m, true)
    else
      let s2 := writeLine s1 pa ((leBytes 4 (atomicNew op sg m a b).toNat).map some)
      (keepReply s2 target source ident m, m, false)

/-- The source number of a core's atomics (R224, R383). -/
def sourceNumber (s : State) (g : Nat) : Nat := s.devnum * 256 + g

/-- The target of an atomic: a slice, or another device (R224). -/
def targetOf (s : State) (pa : Nat) : Nat :=
  if isDomain pa then 64 + deviceOf pa else (sliceOf s pa).getD 0

/-- A write that a rollback does not undo changes what the undo log would restore (R355). -/
def patchLog (s : State) (g pa : Nat) (bytes : List (Option Byte)) : State :=
  let put := fun (e : Nat × Line × Bool) =>
    let (l, old, ps) := e
    if l = lineOf pa then
      let v := (List.range bytes.length).foldl (fun (v : Line) i =>
        match bytes.getD i none with
        | some b => merge v (BitVec.ofNat 512 (b.toNat * 2 ^ (8 * (pa % 64 + i)))) (BitVec.ofNat 512 (255 * 2 ^ (8 * (pa % 64 + i))))
        | none => v) old
      (l, v, ps)
    else e
  s.updCore g fun c => { c with region := { c.region with lines := c.region.lines.map put } }

/-- The old contents of an own-hive line go to the undo log before a write of the present region; a write of an earlier
region is not undone (R355). -/
def logWrite (s : State) (g region pa : Nat) (bytes : List (Option Byte)) : State :=
  if pathOf g pa != .own then s
  else if region = (s.core g).region.num then logLine s g pa
  else patchLog s g pa bytes

/-- A piece performs now, wherever it goes (R246). A rollback does not undo what a stream writes, or a launch that has ended
(R355). -/
def performPiece (s : State) (n : Nat) (x : Access) (i : Nat) (p : Piece) : State :=
  match x.kind with
  | .read =>
    let (s1, bytes, ps) := readLine s p.pa p.len
    donePiece (noticePoison s1 p.pa) n x i { p with bytes := bytes.map some, poisoned := ps } (replyTime s x p)
  | .add v =>
    let (s1, bytes, ps) := readLine s p.pa p.len
    let s2 := if ps then s1 else writeLine s1 p.pa ((leBytes p.len (leNat bytes + v.toNat)).map some)
    donePiece s2 n x i p s.now
  | .stamp => donePiece (writeLine s p.pa ((leBytes p.len s.now).map some)) n x i p s.now
  | .write =>
    let own := x.role != .stream && (s.core x.g).launch == x.launch
    let s0 := if own then logWrite s x.g x.region p.pa p.bytes else patchLog s x.g p.pa p.bytes
    donePiece (writeMarked s0 p.pa p.bytes p.poisoned) n x i p (replyTime s x p)
  | .atomic op a b sg =>
    let (s1, m, ps) := runAtomic s (targetOf s p.pa) (sourceNumber s x.g) x.ident p.pa op sg a b
    let s2 := if pathOf x.g p.pa == .own then patchLog s1 x.g p.pa ((readBytes s1 p.pa 4).map some) else s1
    let y := { x with old := m }
    donePiece s2 n y i { p with bytes := (leBytes 4 m.toNat).map some, poisoned := ps } (replyTime s x p)

/-- The step by which a piece performs. -/
def performStep (x : Access) (n i : Nat) : Instr :=
  match x.kind with
  | .atomic .. => .atomicExecute n
  | _ => .accessPerform n i

/-- The order of a piece among those of its reference cycle (R222). -/
def pieceKey (x : Access) : Nat :=
  match x.kind with
  | .atomic .. => keyAtomic x.g
  | _ => keyPlain

/-- A remote port gives a request that has reached it the first cycle at which it is free (R271). -/
def bookPort (s : State) (pa : Nat) : Nat × State :=
  let k := hiveOf pa * 32 + bankOf pa
  let v := Nat.max s.now (Table.get 0 s.ports k)
  (v, { s with ports := Table.put s.ports k (v + 1) })

/-- A piece is told when it performs. -/
def putDue (s : State) (n i t : Nat) : State :=
  match s.accesses.find n with
  | some x => { s with accesses := s.accesses.put n { x with pieces := x.pieces.modify i fun p => { p with due := t } } }
  | none => s

/-- A piece looks again at a reference cycle. -/
def againAt (s : State) (n : Nat) (x : Access) (i t : Nat) : State := s.due t (pieceKey x) (performStep x n i)

/-- A lane has served a line in this reference cycle, or gives it to another line: to the oldest plain line that waits, and to an
engine only when no plain line waits (R269). -/
def laneBusy (s : State) (n : Nat) (x : Access) (i : Nat) (p : Piece) : Bool :=
  Table.get 0 s.lanes (laneKey x.g x.slot p.pa) == s.now + 1 ||
    (laneWaits s x.g x.slot p.pa).any fun (k, j, _, q) => q.due ≤ s.now && (x.role != .slot || k < n || (k == n && j < i))

/-- A fault that a core meets otherwise than by its own issue is raised in this reference cycle, in the order of the cores (R345). -/
def meetFault (s : State) (g : Nat) (f : FaultInfo) (handle : Nat) : State :=
  s.updCore g fun c => { c with elFault := c.elFault ++ [(f, handle)] }

/-- An element of the command at the head of an engine's queue faults at its access: the engine stops there with its placement
(R216, R344). -/
def elementFault (s : State) (x : Access) (code cause pa : Nat) : State :=
  let e := x.slot - 5
  let s1 := s.updCore x.g fun c =>
    match c.cmdsOf e with
    | m :: rest => c.setCmds e ({ m with paused := true, fetched := [] } :: rest)
    | [] => c
  if (s.core x.g).launch ≠ x.launch then s
  else meetFault s1 x.g
    { kind := 1, code := code, cause := cause, arg0 := BitVec.ofNat 64 pa, arg1 := BitVec.ofNat 64 x.ident, slot := x.slot
      rep := x.rep, origin := 2, issue := x.issue, baddr := x.baddr } 16

/-- A request to the host performs: a write is posted, or dropped and counted where the host denies it; a read of a copy engine
brings its bytes, and a denied one is a fault of its element (R379). -/
def hostPerform (s : State) (n : Nat) (x : Access) (i : Nat) (p : Piece) : State :=
  let f := x.func s
  let ok := Config.hostGrants f (p.pa - hostBase)
  match x.kind with
  | .read =>
    if ok then donePiece s n x i { p with bytes := (readBytes s p.pa p.len).map some } s.now
    else elementFault { s with accesses := s.accesses.del n } x 7 3 p.pa
  | .add v =>
    let new := (leBytes p.len (leNat (readBytes s p.pa p.len) + v.toNat)).map some
    donePiece (if ok then writeMasked s p.pa new else countLinkErr s f) n x i p s.now
  | _ =>
    let s1 := if x.role == .shepherd then s else s.updFunc f fun y => { y with lastHost := some p.pa }
    let bytes := if x.kind == .stamp then (leBytes p.len s.now).map some else p.bytes
    donePiece (if ok then writeMasked s1 p.pa bytes else countLinkErr s1 f) n x i p s.now

/-- A write or an atomic for which a route has no link left is dropped and counted, and its core raises the protection
fault; ARG1 names the element of a copy command (R344 to R346, R389). -/
def dropRequest (s : State) (x : Access) (pa : Nat) : State :=
  let s1 := countLinkErr s (x.func s)
  match x.launch with
  | none => s1
  | some l =>
    if (s.core x.g).launch != some l then s1
    else
      meetFault s1 x.g
        { kind := 1, code := 7, cause := 3, arg0 := BitVec.ofNat 64 pa
          arg1 := if x.role == .engine then BitVec.ofNat 64 x.ident else 0, slot := x.slot, rep := x.rep, origin := 5
          issue := x.issue, baddr := x.baddr } 16

/-- A piece for which a route has no link left: a read lands with poison marks (R389). -/
def failPiece (s : State) (n : Nat) (x : Access) (i : Nat) (p : Piece) : State :=
  let lost := { p with bytes := List.replicate p.len (some 0), poisoned := true }
  match x.kind with
  | .read => donePiece s n x i lost s.now
  | _ => donePiece (dropRequest s x p.pa) n x i { lost with poisoned := false } s.now

/-- A piece for another device becomes a packet on the lowest link of its route; with no link left it fails (R386, R389). -/
def sendPiece (s : State) (n : Nat) (x : Access) (i : Nat) (p : Piece) : State :=
  let pk := packetOf s x n p
  let f := x.func s
  match linkFor s (deviceOf p.pa) with
  | some l =>
    let (id, s1) := s.newId
    queuePacket { s1 with remotes := s1.remotes.put id { access := n, piece := i, func := f, link := l, pkt := pk, dev := deviceOf p.pa } } l f pk
  | none => failPiece s n x i p

/-- A piece comes to its instant, or to the lane, the port, the block or the budget that it has still to wait for (R249, R269,
R271, R285, R370). -/
def piecePerform (s : State) (n : Nat) (x : Access) (i : Nat) (p : Piece) : State :=
  if behind s n x p then againAt s n x i (s.now + 1)
  else
  match x.path p.pa with
  | .own =>
    if laneBusy s n x i p then againAt (putDue s n i (s.now + 1)) n x i (s.now + 1)
    else performPiece { s with lanes := Table.put s.lanes (laneKey x.g x.slot p.pa) (s.now + 1) } n x i p
  | .remote =>
    if p.due = 0 then
      let (v, s1) := bookPort s p.pa
      if v = s.now then performPiece s1 n x i p
      else
        ({ s1 with accesses := s1.accesses.put n { x with pieces := x.pieces.set i { p with due := v } } }).due v (pieceKey x)
          (performStep x n i)
    else performPiece s n x i p
  | .hbm =>
    match blockedLine s (x.kind != .read) p.pa with
    | (s1, some t) => againAt s1 n x i t
    | (s1, none) => performPiece s1 n x i p
  | .host =>
    if !hostBudget s (x.func s) p.len then againAt s n x i ((s.now / 12000 + 1) * 12000)
    else hostPerform (noteAts (chargeHost s (x.func s) p.len) (x.func s) (p.pa - hostBase)) n x i p
  | .link => sendPiece s n x i p
  | .none => s

/-! ## Leaving the source interface -/

/-- The first reference cycle from now on at a core's calendar position (R275, R277). -/
def nextPosition (s : State) (g : Nat) : Nat := s.now + (g % 64 + 64 - s.now % 64) % 64

/-- A launch has asked for a crossing of the lost die link: it fails in this reference cycle (R360). -/
def meetLostLink (s : State) (l : Nat) : State := (s.updLaunch l fun x => { x with crossed := true }).due s.now 0 .dieLinkLost

/-- A piece leaves the source interface now, but for HBM, whose requests go whole at a calendar position (R270, R271, R277). A
remote piece reaches its port 20 cycles after issue, or 68 across the dies. -/
def sendPieces (n : Nat) (x : Access) : List (Nat × Piece) → State → State
  | [], s => s
  | (i, p) :: rest, s =>
    let s1 :=
      match pathOf x.g p.pa with
      | .own =>
        let u := laneFree s x p.pa
        (putDue s n i u).due u (pieceKey x) (performStep x n i)
      | .remote => s.due (s.now + (if crosses s x.g p.pa then 68 else 20)) (pieceKey x) (performStep x n i)
      | .link => sendPiece s n ((s.accesses.find n).getD x) i p
      | .host => s.due s.now keyPlain (performStep x n i)
      | _ => s
    sendPieces n x rest s1

/-- The pieces of an access with their places. -/
def numbered (ps : List Piece) : List (Nat × Piece) := (List.range ps.length).zip ps

/-- The order of the calendar's steps of a core: plain requests in slot order, those of one slot as they have come, then those of its
engines (R277). -/
def keyHbm (x : Access) : Nat := if x.role == .slot then 20000 + 8 * x.g + x.slot else 22000 + 2 * x.g + (x.slot - 5)

/-- The later accesses of its class that wait look again once an access has gone; behind a release, everything looks again (R249,
R253). -/
def wakeClass (s : State) (x : Access) : State :=
  if x.releases then wake s x.g
  else
    (slotsOn s x.g x.launch).foldl (fun st (n, a) =>
      if a.cls == x.cls && x.seq < a.seq && !a.left then st.due s.now keyLeave (.sourceInterfaceRelease n) else st) s

/-- An access of a launch that has ended, and those of its core that wait behind it, are lost with the die link (R360). -/
def loseAccess (s : State) (x : Access) : State :=
  { s with accesses := s.accesses.filter fun (_, a) => !(a.g == x.g && a.launch == x.launch && !a.left && x.seq ≤ a.seq) }.dueOnce s.now
    keyRetire (.launchRetirement (x.launch.getD 0))

/-- An access leaves the source interface (R249, R270, R271, R277). One with a byte beyond a lost die link performs nowhere: its
launch fails (R360). -/
def leave (s : State) (n : Nat) (x : Access) : State :=
  let s1 := { s with accesses := s.accesses.put n { x with left := true } }
  if !s.dieLink && x.pieces.any fun p => crosses s x.g p.pa then
    if (s.core x.g).launch == x.launch then meetLostLink s (x.launch.getD 0) else loseAccess s x
  else
    let s2 := sendPieces n { x with left := true } (numbered x.pieces) s1
    wakeClass (if usesHbm s x then s2.due (nextPosition s x.g) (keyHbm x) (.hbmRequestSend n) else s2) x

/-- An access that would perform too early behind an earlier access of its class waits from now on for that one to be
acknowledged or answered (R249). -/
def keepBack (s : State) (n : Nat) (x : Access) : State :=
  { s with accesses := s.accesses.put n { x with left := false, strict := true } }

/-- An access leaves if it may. -/
def tryLeave (s : State) (n : Nat) : State :=
  match s.accesses.find n with
  | some x =>
    if x.left then s
    else
      match x.role with
      | .slot => if mayLeave s x then leave s n x else if unfenced s x && classReady s x then keepBack s n x else s
      | .engine => if x.held then s else leave s n x
      | .flush => sendFlushes s x.g
      | _ => s
  | none => s

/-! ## The egress hold (R356) -/

/-- A write that leaves the hive. -/
def leavesHive (g : Nat) (ps : List Piece) : Bool := ps.any fun p => pathOf g p.pa != .own

/-- The writes of up to 64 bytes that the egress hold of a core keeps: lines of its stores, and the eight parts of each
held message. -/
def heldLines (s : State) (g : Nat) : Nat :=
  (allOpen s g).foldl (fun k (_, a) => if a.held then k + a.pieces.length else k) 0 +
    8 * (s.messages.filter fun (_, m) => m.srcG == g && m.held).length

/-! ## Circuit messages on their way (R218, R219) -/

/-- The first reference cycle after `t` at which ρ of a launch is φ (R218, R219). -/
def nextSlot (x : Launch) (t phi : Nat) : Nat :=
  let rho := (t + 1 - x.rho) % 256
  t + 1 + (phi + 256 - rho) % 256

/-- R218: the slot position of a circuit entry. -/
def entryPhi (w : Word) : Nat := (bits w 39 8).toNat

/-- A message waits for its slot position. -/
def scheduleMessage (s : State) (n : Nat) (m : Message) : State :=
  match s.launch? m.launch with
  | none => s
  | some x => s.dueOnce (nextSlot x s.now (entryPhi (Table.get 0 x.circuits m.entry))) keyLeave (.circuitDeparture n)

/-- The engines of a core go on after a stop of its placement: with their next lines, or with what they still wait for (R216,
R347). -/
def goOnEngines (s : State) (g : Nat) : State :=
  [0, 1].foldl (fun st e =>
    match (st.core g).cmdsOf e with
    | m :: rest => engineGoes (st.updCore g fun c => c.setCmds e ({ m with paused := false } :: rest)) g e
    | [] => st) s

/-- The held writes of a core go on their way (R354, R356). -/
def releaseHeld (s : State) (g : Nat) : State :=
  let held := (allOpen s g).filter fun (_, a) => a.held
  let s1 := held.foldl (fun st (n, a) => { st with accesses := st.accesses.put n { a with held := false } }) s
  let s2 := held.foldl (fun st (n, _) => tryLeave st n) s1
  let msgs := s.messages.filter fun (_, m) => m.srcG == g && m.held
  msgs.foldl (fun st (n, m) =>
    scheduleMessage { st with messages := st.messages.put n { m with held := false } } n m) s2

/-- A write of a region enters the egress hold if it leaves the hive and the region is contained; where the hold is full, the
region is uncontained from then on and the write passes (R356). -/
def enterHold (s : State) (g : Nat) (region : Nat) (pieces : List Piece) : State × Bool :=
  let r := (s.core g).region
  if !leavesHive g pieces || region ≠ r.num || r.uncontained ≠ 0 then (s, false)
  else if 512 < heldLines s g + pieces.length then (s.updCore g fun c => { c with region := { c.region with uncontained := 3 } }, false)
  else (s, true)

/-- A SYSTEM release whose host count is not zero has a zero-length read to send (R379). -/
def askFlush (s : State) (g seq scope : Nat) (mask : BitVec 16) : State :=
  let c := s.core g
  if scope = 6 && (List.range 16).any fun k => mask.getLsbD k && hostCount s g k != 0 then
    let (n, s1) := s.newId
    let x : Access :=
      { role := .flush, g := g, launch := c.launch, seq := seq, slot := 0, issue := c.iCyc, baddr := c.iPc, rep := c.iRep, cls := 16
        mask := mask, kind := .read, ord := 0, pieces := [], size := 0, region := c.region.num, held := false, left := false
        strict := false, sent := 0, reply := 0, done := false, ident := 0, old := 0 }
    { s1 with accesses := s1.accesses.put n x }
  else s

/-! ## Making an access -/

/-- A request is told its data: it waits in the landing buffer for its named cycle (R49). A request of an earlier region keeps
it for a rerun of this one (R354). -/
def giveData (s : State) (g id : Nat) (data : List Byte) (rows : List Nat) (pline : Nat) : State :=
  let put := fun (r : Request) => if r.id = id then { r with data := some data, poison := rows, pline := pline } else r
  let all := fun (c : Core) => { c with reqs := c.reqs.map put }
  updPoint (s.updCore g all) g all

/-- The rows of a tile that come from poisoned lines; `[0]` for another target (R201). -/
def poisonRows (t : Target) (ps : List Piece) : List Nat :=
  let bad := ps.filter (·.poisoned)
  match t with
  | .tile _ => (List.range 128).filter fun r => bad.any fun p => p.off < 128 * (r + 1) && 128 * r < p.off + p.len
  | _ => if bad.isEmpty then [] else [0]

/-- The physical address of the first poisoned line. -/
def poisonLine (ps : List Piece) : Nat :=
  match ps.filter (·.poisoned) with
  | p :: _ => p.pa / 64 * 64
  | [] => 0

/-- An access of the running core joins the program order, and leaves the source interface at once if it may (R249). One
of no byte is none: a read of none has its zeros at once (R197). -/
def makeAccess (s : State) (h : Head) (cls ord : Nat) (kind : AccessKind) (pieces : List Piece) (size : Nat)
    (req : Option (Nat × Nat × Target)) (ident : Nat) : State :=
  let g := s.cur
  let (n, s0) := s.newId
  let (s1, held) := if kind == .write then enterHold s0 g (s0.core g).region.num pieces else (s0, false)
  let c := s1.core g
  let atom := match kind with | .atomic .. => true | _ => false
  let reqs := match req with
    | none => []
    | some (arr, entries, t) =>
      [{ id := n, issue := c.iCyc, arr := c.iCyc + arr, entries := entries, target := t, slot := slotNum h.slot, baddr := c.iPc
         rep := c.iRep, data := none, poison := [], pline := 0, cause := 0, paddr := 0, atomic := atom, recv := none : Request }]
  let s2 := s1.setCore g { c with seq := c.seq + 1, reqs := c.reqs ++ reqs }
  if pieces.isEmpty then giveData s2 g n (List.replicate size 0) [] 0
  else
    let x : Access :=
      { role := .slot, g := g, launch := c.launch, seq := c.seq, slot := slotNum h.slot, issue := c.iCyc, baddr := c.iPc, rep := c.iRep
        cls := cls, mask := allClasses, kind := kind, ord := ord, pieces := pieces, size := size, region := c.region.num, held := held
        left := false, strict := false, sent := 0, reply := 0, done := false, ident := ident, old := 0 }
    let s3 := { s2 with accesses := s2.accesses.put n x }
    tryLeave (if x.releases then askFlush s3 g x.seq ord allClasses else s3) n

/-- An element access of a copy engine: one line, which goes to its lane, its port, its position or its link as it may (R202,
R269, R277); a held write goes at the commit (R356). -/
def makeElementAccess (s : State) (g e : Nat) (m : Command) (ord : Nat) (kind : AccessKind) (p : Piece) : State :=
  let (n, s0) := s.newId
  let (s1, held) := if kind == .write && !(s.core g).halted then enterHold s0 g m.region [p] else (s0, false)
  let x : Access :=
    { role := .engine, g := g, launch := (s1.core g).launch, seq := m.seq, slot := 5 + e, issue := m.issue, baddr := m.baddr
      rep := m.rep, cls := m.cls, mask := allClasses, kind := kind, ord := 0, pieces := [p], size := p.len, region := m.region
      held := held, left := false, strict := false, sent := 0, reply := 0, done := false, ident := ord, old := 0 }
  tryLeave { s1 with accesses := s1.accesses.put n x } n

/-- `%oob` adds 1 when an access drops or zeroes an element (R197). -/
def countOob (s : State) (dropped : Bool) : State :=
  if dropped then s.updCur fun c => { c with oob := c.oob + 1 } else s

/-- A suppressed request still counts its landing entries (R49, R93). -/
def discardRequest (s : State) (slot arr entries : Nat) : State :=
  let (n, s1) := s.newId
  s1.updCur fun c => { c with reqs := c.reqs ++ [{ id := n, issue := c.iCyc, arr := c.iCyc + arr, entries := entries
                                                   target := .discard, slot := slot, baddr := c.iPc, rep := c.iRep
                                                   data := some [], poison := [], pline := 0, cause := 0, paddr := 0
                                                   atomic := false, recv := none }] }

/-! ## The steps of an access -/

/-- ACCESS_PERFORM (R246). -/
def execAccessPerform (a i : Nat) (s : State) : Res :=
  match s.accesses.find a with
  | none => .next s
  | some x =>
    match x.pieces[i]? with
    | none => .next s
    | some p => .next (if p.done then s else piecePerform s a x i p)

/-- ATOMIC_EXECUTE (R222, R224). -/
def execAtomicExecute (a : Nat) (s : State) : Res :=
  match s.accesses.find a with
  | none => .next s
  | some x =>
    match x.pieces with
    | p :: _ => .next (if p.done then s else piecePerform s a x 0 p)
    | [] => .next s

/-- The command at the head of an engine's queue takes a line that an element access of it has read (R202, R207). -/
def takeLine (s : State) (x : Access) : State :=
  s.updCore x.g fun c =>
    match c.cmdsOf (x.slot - 5), x.pieces with
    | m :: rest, p :: _ =>
      if c.launch = x.launch && m.seq = x.seq then
        c.setCmds (x.slot - 5) ({ m with fetched := m.fetched.put p.pa (p.bytes.map (·.getD 0), p.poisoned) } :: rest)
      else c
    | _, _ => c

/-- A packet that has been asked for is there (R331). -/
def Level.take (n : Nat) (data : List Byte) (v : Level) : Level :=
  match v.asked.find? fun (_, a) => a == n with
  | some (k, _) => { v with fetched := v.fetched.put k (BitVec.ofNat 512 (leNat data)), asked := v.asked.filter fun (_, a) => a != n }
  | none => v

/-- Writes of the shepherd wait no more: a request to the directory whose writes are all over is answered (R301). -/
def settleWrites (s : State) (gone : Nat → Bool) : State :=
  let s1 := { s with
    told := s.told.filter fun t => !gone t.1
    commonsReqs := s.commonsReqs.map fun (p : Nat × CommonsReq) => (p.1, { p.2 with waits := p.2.waits.filter fun n => !gone n }) }
  s1.commonsReqs.foldl (fun st (k, r) =>
    if r.result.isSome && r.waits.isEmpty then st.dueOnce st.now 6000 (actOf r.kind k) else st) s1

/-- An access of the shepherd is over: the queue that waits for it goes on, with what was read (R326); a packet is there (R331); the
notice flag that it held back is set, and a request to the directory whose writes have all performed is answered (R301). -/
def shepherdOver (s : State) (n : Nat) (x : Access) : State :=
  let got := match x.kind, x.pieces with
    | .read, p :: _ => some (p.bytes.map (·.getD 0))
    | _, _ => none
  let next := fun (q : Queue) =>
    let q1 := { q with levels := q.levels.map (Level.take n (got.getD [])) }
    if q.blocked = .remote n then { q1 with blocked := .none, got := got } else q1
  let s1 := { s with queues := s.queues.map fun (k, q) => (k, next q) }
  settleWrites ((s1.told.filter fun t => t.1 == n).foldl (fun st t => setMemberFlag st t.2.1 t.2.2.1 (some t.2.2.2)) s1) (· == n)

/-- Accesses of the shepherd are dropped: what waited for them waits no more (R380). -/
def dropAccesses (s : State) (gone : Nat → Access → Bool) : State :=
  let ids := (s.accesses.filter fun (n, a) => a.role == .shepherd && gone n a).map (·.1)
  settleWrites { s with accesses := s.accesses.filter fun (n, _) => !ids.contains n
                        remotes := s.remotes.filter fun (_, r) => !ids.contains r.access } ids.contains

/-- An access is over: what waited for it may go on, an engine with its command, and the end of a launch that waits for its
writes (R46, R205, R252). -/
def accessOver (s : State) (n : Nat) (x : Access) : State :=
  let s1 := match x.role with
    | .engine => if (s.core x.g).launch = x.launch then engineGoes s x.g (x.slot - 5) else s
    | .shepherd => shepherdOver s n x
    | _ => s
  let s2 := wake s1 x.g
  match x.launch with
  | none => s2
  | some l =>
    match s2.launch? l with
    | some y => if y.state = .ended then s2.dueOnce s2.now keyRetire (.launchRetirement l) else s2
    | none => s2

/-- LANDING_BUFFER_ARRIVAL (R49, R270): the data waits for its named cycle, or goes to the engine that asked for it; what waited for
it may go on. -/
def execLandingBufferArrival (a : Nat) (s : State) : Res :=
  match s.accesses.find a with
  | none => .next s
  | some x =>
    let t := ((s.core x.g).reqs.find? (·.id == a)).map (·.target)
    let s1 := { s with accesses := s.accesses.put a { x with done := true } }
    match t with
    | none =>
      let s2 := { s1 with accesses := s1.accesses.del a }
      .next (accessOver (if x.role == .engine then takeLine s2 x else s2) a x)
    | some t => .next (accessOver (giveData s1 x.g a (assemble x.size x.pieces) (poisonRows t x.pieces) (poisonLine x.pieces)) a x)

/-- WRITE_ACKNOWLEDGE (R252): the write is no longer outstanding at the source interface. -/
def execWriteAcknowledge (a : Nat) (s : State) : Res :=
  match s.accesses.find a with
  | none => .next s
  | some x => .next (accessOver { s with accesses := s.accesses.del a } a x)

/-- SOURCE_INTERFACE_RELEASE (R253): a waiting access leaves once its conditions hold. -/
def execSourceInterfaceRelease (a : Nat) (s : State) : Res := .next (tryLeave s a)

/-- The groups that an access touches (R277). -/
def accessGroups (s : State) (x : Access) : List Nat :=
  (x.pieces.filterMap fun p => if pathOf x.g p.pa == .hbm then groupOf s p.pa else none).eraseDups

/-- What an access at a group under sentinel refresh waits besides (`k` is its place among the open values), when the refresh meets its slot (R283). -/
def refreshWait (s : State) (k pa : Nat) : Nat :=
  match groupOf s pa with
  | some g =>
    match s.takeover.find g with
    | some none => Config.refreshWait k
    | some (some t) => if s.now < t then Config.refreshWait k else 0
    | none => 0
  | none => 0

/-- The pieces of an HBM request are due at their groups (R277). -/
def sendHbm (n : Nat) (x : Access) : List (Nat × Piece) → State → State
  | [], s => s
  | (i, p) :: rest, s =>
    let s1 :=
      if pathOf x.g p.pa == .hbm && !p.done then
        let t := firstOf s x p + refreshWait s (placeOf s x) p.pa
        drawOf ((putDue s n i t).due t (pieceKey x) (performStep x n i)) x
      else s
    sendHbm n x rest s1

/-- HBM_REQUEST_SEND (R277): the request goes whole at its position when every group it touches has the core's slot
free; otherwise it waits for the next rotation. One that would perform too early behind an earlier access of its class waits for
that one to be acknowledged or answered (R249). -/
def execHbmRequestSend (a : Nat) (s : State) : Res :=
  match s.accesses.find a with
  | none => .next s
  | some x =>
    if !x.left || x.sent ≠ 0 then .next s
    else
    let gs := accessGroups s x
    let keys := gs.map fun k => x.g * 24 + k
    if keys.any fun k => Table.get 0 s.calendar k == s.now + 1 then .next (s.due (s.now + 64) (keyHbm x) (.hbmRequestSend a))
    else if x.role == .slot && !inOrder s x then .next (keepBack s a x)
    else
      let cal := keys.foldl (fun t k => Table.put t k (s.now + 1)) s.calendar
      let y := { x with sent := s.now }
      .next (wakeClass (sendHbm a y (numbered y.pieces) { s with calendar := cal, accesses := s.accesses.put a y }) x)

/-- BLOCK_REENCRYPTION_COMPLETE (R285): the block's lines stand under the new counters, and accesses to it go on. -/
def execBlockReencryptionComplete (blk : Nat) (s : State) : Res :=
  .next { s with reencrypt := s.reencrypt.del blk }

end Sys2Proof.Machine
end

