-- ==== Sys2Proof/Machine/LoadStore.lean ====
section
/-!
DEFINITION. Loads and stores of the copy slots (R199 to R201), KLDH and KSTH (R192), the atomics (R221 to R224) and the
copy-class NOP.
-/
namespace Sys2Proof.Machine

/-! ## The forms of access -/

/-- What an access names: the record, the signed byte offset, and how it is cut and checked (R105, R196 to R198). -/
structure Form where
  bfn : Nat
  size : Nat                 -- bytes of one part
  elem : Nat                 -- element that `zero` mode drops
  align : Nat
  parts : List (Nat × Int)   -- offset in the data, offset in the record
deriving DecidableEq, Repr

/-- A vector or scalar access: one part. -/
def onePart (bfn size elem align off : Nat) (o : Int) : Form := ⟨bfn, size, elem, align, [(off, o)]⟩

/-- The pitch of a tile access (R200). -/
def tilePitch (bf : BufRec) : Nat := if bf.str0 = 0 then 128 else bf.str0

/-- A tile access: 128 rows of 128 bytes, each checked by itself (R200). -/
def tileForm (c : Core) (bfn : Nat) (o : Int) : Form :=
  ⟨bfn, 128, 4, 4, (List.range 128).map fun j => (128 * j, o + (j * tilePitch (c.bfGet bfn) : Nat))⟩

/-- KLDH and KSTH: n halfwords, each checked by itself (R192). -/
def halfForm (bfn n : Nat) (o : Int) : Form :=
  ⟨bfn, 2, 2, 2, (List.range n).map fun i => (2 * i, o + (2 * i : Nat))⟩

/-- The address of a form, formed and checked (R196). -/
def Form.form (f : Form) (s : State) (c : Core) (write : Bool) : Except Check Formed :=
  formAccess s c f.bfn write f.size f.elem f.align f.parts

/-- The runs that decide the source of a request: those that it reads, or, where it reads none, the first byte of its record
(R108; DEDUCED, log entry 108). -/
def Form.source (f : Form) (c : Core) (a : Formed) : List Span :=
  let bf := c.bfGet f.bfn
  if a.spans.isEmpty then [⟨0, (c.hUse bf.hnum).base + bf.base, 1⟩] else a.spans

/-- The check of a load: its address, then its arrival offset (R108, R196). -/
def loadCheck (s : State) (c : Core) (f : Form) (arr : Nat) : Option Check :=
  match f.form s c false with
  | .error k => some k
  | .ok a => arrivalCheck (arrivalMin s s.cur false (f.source c a)) arr

/-- The check of a store: its address (R196). -/
def storeCheck (s : State) (c : Core) (f : Form) : Option Check :=
  match f.form s c true with
  | .error k => some k
  | .ok _ => none

/-- A load goes out with its request (R199). -/
def runLoad (s : State) (h : Head) (f : Form) (cls ord arr size : Nat) (t : Target) : State :=
  match f.form s s.curCore false with
  | .error _ => s
  | .ok a =>
    countOob (makeAccess s h cls ord .read (readPieces a.spans) size (some (arr, (size + 63) / 64, t)) 0) a.dropped

/-- The offset of a store as `%sig` absorbs it: the one that it names, or, where `clamp` mode moves it as one access, the one to
which it is moved (R197, R357; DEDUCED, log entry 110 for a store of several parts). -/
def Form.movedTo (f : Form) (c : Core) (a : Formed) (o : Int) : Int :=
  let bf := c.bfGet f.bfn
  match bf.mode, f.parts, a.spans with
  | 1, [(_, first)], sp :: _ => o + ((sp.pa : Int) - ((c.hUse bf.hnum).base + bf.base : Nat) - first)
  | _, _, _ => o

/-- A store at offset `o` goes out (R199); `%sig` absorbs the bytes it writes (R357). -/
def runStore (s : State) (h : Head) (f : Form) (cls ord : Nat) (o : Int) (data : List (Option Byte)) : State :=
  match f.form s s.curCore true with
  | .error _ => s
  | .ok a =>
    let ps := writePieces a.spans data
    let s1 := makeAccess s h cls ord .write ps data.length none 0
    let written := ps.flatMap fun p => p.bytes.filterMap id
    countOob (absorbCur s1 11 (BitVec.ofInt 24 (f.movedTo s.curCore a o)).toNat written) a.dropped

/-- The offset of a syllable of format L, its address stepped (R96, R105). -/
def offL (c : Core) (h : Head) (x : FmtL) (unit size : Nat) : Int :=
  offsetOf (c.sGet x.so.toNat) x.imm.toInt unit (h.j * h.step.toNat * size)

/-- The offset of a syllable of format E, its address stepped (R96, R105). -/
def offE (c : Core) (h : Head) (x : FmtE) (unit size : Nat) : Int :=
  offsetOf (c.sGet x.so.toNat) x.imm.toInt unit (h.j * h.step.toNat * size)

/-- The offset register of an access, as a unit read. -/
def rOff (so : BitVec 6) : ReadUnit := rS so.toNat

/-- R200: bytes and sign extension of a scalar load. -/
def loadWidth : ScalarLoad → Nat × Bool
  | .i8 => (1, true) | .n8 => (1, false) | .i16 => (2, true) | .n16 => (2, false) | .i32 => (4, true)
  | .n32 => (4, false) | .n64 => (8, false)

/-- R200: bytes of a scalar store. -/
def storeWidth : ScalarStore → Nat
  | .w8 => 1 | .w16 => 2 | .w32 => 4 | .w64 => 8

/-- The lanes of a vector store (R200). -/
def storeLanes (c : Core) (lm : BitVec 4) : Mask := if lm = 15 then full 128 else c.mGet lm.toNat

/-- The first enabled lane. -/
def firstLane (m : Mask) : Nat := ((List.range 128).find? fun k => m.getLsbD k).getD 0
/-- The last enabled lane. -/
def lastLane (m : Mask) : Nat := ((List.range 128).reverse.find? fun k => m.getLsbD k).getD 0

/-- A vector store is one access over the span of its enabled lanes; all 128 with LM = 15 (R197, R200). -/
def vectorStoreForm (bfn : Nat) (m : Mask) (o : Int) : Form :=
  let f := firstLane m
  let l := lastLane m
  onePart bfn (4 * (l - f + 1)) 4 4 0 (o + (4 * f : Nat))

/-- The bytes of a vector store from its first enabled lane to its last, none where a lane is disabled. -/
def vectorStoreData (v : Vec) (m : Mask) : List (Option Byte) :=
  let f := firstLane m
  let l := lastLane m
  (List.range (4 * (l - f + 1))).map fun i =>
    if m.getLsbD (f + i / 4) then some (BitVec.ofNat 8 (elem 8 v (4 * f + i))) else none

/-- The bytes of a tile, row by row. -/
def tileData (c : Core) (t : Nat) : List (Option Byte) :=
  (List.range 128).flatMap fun r => (leBytes 128 (c.tGet (t * 128 + r)).toNat).map some

/-- The rows of a tile, as units read. -/
def rT (t : Nat) : List ReadUnit := (List.range 128).map fun r => ⟨5, t * 128 + r, 0, 128⟩

/-! ## Syllables -/

/-- NOP of the copy class (R109) does nothing, and ends sticking in its slot. -/
def planCNop (h : Head) (x : FmtL) (s : State) : Plan :=
  flagPlan h s.curCore [] none id id

/-- NOP of the copy class (R109) does nothing, and ends sticking in its slot. -/
def execCNop (h : Head) (x : FmtL) (s : State) : Res := runPlan (.cNop h x) (planCNop h x s) s

/-- LD of a vector register (R200). -/
def planLdVector (h : Head) (x : FmtL) (s : State) : Plan :=
  let c := s.curCore
  let f := onePart x.bf.toNat 512 4 4 0 (offL c h x 4 512)
  flagPlan h c [rOff x.so] (loadCheck s c f x.arr.toNat)
    (fun s => runLoad s h f x.cls.toNat x.ord.toNat x.arr.toNat 512 (.vec x.d.toNat))
    (fun s => discardRequest s (slotNum h.slot) x.arr.toNat ((512 + 63) / 64))

/-- LD of a vector register (R200). -/
def execLdVector (h : Head) (x : FmtL) (s : State) : Res := runPlan (.ldVector h x) (planLdVector h x s) s

/-- ST of a vector register (R197, R200). A store with no lane enabled makes no access and no check. -/
def planStVector (h : Head) (x : FmtE) (s : State) : Plan :=
  let c := s.curCore
  let m := storeLanes c x.lm
  let o := offE c h x 4 512
  let f := vectorStoreForm x.bf.toNat m o
  flagPlan h c ([rV x.d.toNat, rOff x.so] ++ (if x.lm = 15 then [] else [rM x.lm.toNat]))
    (if m = 0 then none else storeCheck s c f)
    (fun s => if m = 0 then s else runStore s h f x.cls.toNat x.ord.toNat o (vectorStoreData (c.vGet x.d.toNat) m)) id

/-- ST of a vector register (R197, R200). A store with no lane enabled makes no access and no check. -/
def execStVector (h : Head) (x : FmtE) (s : State) : Res := runPlan (.stVector h x) (planStVector h x s) s

/-- LD of a tile register (R200). -/
def planLdTile (h : Head) (x : FmtL) (s : State) : Plan :=
  let c := s.curCore
  let f := tileForm c x.bf.toNat (offL c h x 4 (128 * tilePitch (c.bfGet x.bf.toNat)))
  flagPlan h c [rOff x.so] (loadCheck s c f x.arr.toNat)
    (fun s => runLoad s h f x.cls.toNat x.ord.toNat x.arr.toNat 16384 (.tile x.d.toNat))
    (fun s => discardRequest s (slotNum h.slot) x.arr.toNat ((16384 + 63) / 64))

/-- LD of a tile register (R200). -/
def execLdTile (h : Head) (x : FmtL) (s : State) : Res := runPlan (.ldTile h x) (planLdTile h x s) s

/-- ST of a tile register (R200). -/
def planStTile (h : Head) (x : FmtE) (s : State) : Plan :=
  let c := s.curCore
  let o := offE c h x 4 (128 * tilePitch (c.bfGet x.bf.toNat))
  let f := tileForm c x.bf.toNat o
  flagPlan h c (rOff x.so :: rT x.d.toNat) (storeCheck s c f)
    (fun s => runStore s h f x.cls.toNat x.ord.toNat o (tileData c x.d.toNat)) id

/-- ST of a tile register (R200). -/
def execStTile (h : Head) (x : FmtE) (s : State) : Res := runPlan (.stTile h x) (planStTile h x s) s

/-- LD of a scalar register (R200). -/
def planLdScalar (k : ScalarLoad) (h : Head) (x : FmtL) (s : State) : Plan :=
  let c := s.curCore
  let f := onePart x.bf.toNat (loadWidth k).1 (loadWidth k).1 (loadWidth k).1 0 (offL c h x (loadWidth k).1 (loadWidth k).1)
  flagPlan h c [rOff x.so] (loadCheck s c f x.arr.toNat)
    (fun s => runLoad s h f x.cls.toNat x.ord.toNat x.arr.toNat (loadWidth k).1 (.scalar x.d.toNat (loadWidth k).1 (loadWidth k).2))
    (fun s => discardRequest s (slotNum h.slot) x.arr.toNat (((loadWidth k).1 + 63) / 64))

/-- LD of a scalar register (R200). -/
def execLdScalar (k : ScalarLoad) (h : Head) (x : FmtL) (s : State) : Res := runPlan (.ldScalar k h x) (planLdScalar k h x s) s

/-- ST of a scalar register (R200). -/
def planStScalar (k : ScalarStore) (h : Head) (x : FmtE) (s : State) : Plan :=
  let c := s.curCore
  let n := storeWidth k
  let o := offE c h x n n
  let f := onePart x.bf.toNat n n n 0 o
  flagPlan h c [rS x.d.toNat, rOff x.so] (storeCheck s c f)
    (fun s => runStore s h f x.cls.toNat x.ord.toNat o ((leBytes n (c.sGet x.d.toNat).toNat).map some)) id

/-- ST of a scalar register (R200). -/
def execStScalar (k : ScalarStore) (h : Head) (x : FmtE) (s : State) : Res := runPlan (.stScalar k h x) (planStScalar k h x s) s

/-- The number of halfwords of KLDH and KSTH (R192). -/
def halfCount (x : FmtK) : Nat := x.cnt.toNat + 1

/-- The offset of KLDH and KSTH, with `bc` for the offset register where BC is set (R89, R105, R191). -/
def offK (c : Core) (h : Head) (x : FmtK) : Int :=
  offsetOf (if x.bc = 1 then h.bcv else c.sGet x.so.toNat) x.imm.toInt 2 (h.j * h.step.toNat * (halfCount x * 2))

/-- The unit that gives the offset of KLDH and KSTH. -/
def rOffK (x : FmtK) : List ReadUnit := if x.bc = 1 then [] else [rS x.so.toNat]

/-- KLDH (R192). -/
def planKldh (h : Head) (x : FmtK) (s : State) : Plan :=
  let c := s.curCore
  let n := halfCount x
  let f := halfForm x.bf.toNat n (offK c h x)
  flagPlan h c (rOffK x) (loadCheck s c f x.arr.toNat)
    (fun s => runLoad s h f x.cls.toNat 0 x.arr.toNat (2 * n) (.zReg x.z.toNat (2 * n)))
    (fun s => discardRequest s (slotNum h.slot) x.arr.toNat ((2 * n + 63) / 64))

/-- KLDH (R192). -/
def execKldh (h : Head) (x : FmtK) (s : State) : Res := runPlan (.kldh h x) (planKldh h x s) s

/-- KSTH (R192). -/
def planKsth (h : Head) (x : FmtK) (s : State) : Plan :=
  let c := s.curCore
  let n := halfCount x
  let o := offK c h x
  let f := halfForm x.bf.toNat n o
  flagPlan h c (⟨8, x.z.toNat, 0, 2 * n⟩ :: rOffK x) (storeCheck s c f)
    (fun s => runStore s h f x.cls.toNat 0 o ((leBytes (2 * n) ((c.zGet x.z.toNat).toNat % 2 ^ (16 * n))).map some)) id

/-- KSTH (R192). -/
def execKsth (h : Head) (x : FmtK) (s : State) : Res := runPlan (.ksth h x) (planKsth h x s) s

/-! ## Atomics (R221 to R224) -/

/-- The word of an atomic. -/
def atomicForm (c : Core) (x : FmtU) : Form := onePart x.bf.toNat 4 4 4 0 (c.sGet x.so.toNat).toInt

/-- The check of an atomic: the record's format, the address as a write, then the arrival offset; a host word is refused
(R108, R221, R379). -/
def atomicCheck (s : State) (c : Core) (x : FmtU) : Option Check :=
  let fmt := (c.bfGet x.bf.toNat).fmt.toNat
  if fmt ≠ 0 && fmt ≠ 3 then some (illegalOp 0 0)
  else
    match (atomicForm c x).form s c true with
    | .error k => some k
    | .ok a =>
      let src := (atomicForm c x).source c a
      let pa := (src.headD ⟨0, 0, 0⟩).pa
      if isHost pa then some (protCheck 3 pa) else arrivalCheck (arrivalMin s s.cur true src) x.arr.toNat

/-- An atomic goes out: its identifier is the next of its target (R224); `%sig` absorbs its operands (R357). -/
def runAtomicIssue (s : State) (h : Head) (x : FmtU) (op : Nat) : State :=
  let c := s.curCore
  let a := (c.sGet x.sa.toNat).setWidth 32
  let b := (c.sGet x.sb.toNat).setWidth 32
  let sg := (c.bfGet x.bf.toNat).fmt = 0
  match (atomicForm c x).form s c true with
  | .error _ => s
  | .ok f =>
    let t := targetOf s ((f.spans.headD ⟨0, 0, 0⟩).pa)
    let id := Table.get 0 c.atomIds t
    let s1 := s.updCur fun c => { c with atomIds := if f.spans.isEmpty then c.atomIds else Table.put c.atomIds t ((id + 1) % 65536) }
    let s2 := makeAccess s1 h x.cls.toNat x.ord.toNat (.atomic op a b sg) (readPieces f.spans) 4
      (some (x.arr.toNat, 1, .scalar x.sd.toNat 4 sg)) id
    countOob (absorbCur s2 13 (0x38 + op) (leBytes 4 a.toNat ++ leBytes 4 b.toNat)) f.dropped

/-- An atomic (R221): a false predicate suppresses it completely but for its landing entry (R49, R93). -/
def atomicPlan (h : Head) (x : FmtU) (op : Nat) (s : State) : Plan :=
  let c := s.curCore
  flagPlan h c ([rS x.sa.toNat, rS x.so.toNat] ++ (if op = 7 then [rS x.sb.toNat] else [])) (atomicCheck s c x)
    (fun s => runAtomicIssue s h x op) (fun s => discardRequest s (slotNum h.slot) x.arr.toNat 1)

/-- AADD (R221). -/
def planAadd (h : Head) (x : FmtU) (s : State) : Plan :=
  atomicPlan h x 0 s

/-- AADD (R221). -/
def execAadd (h : Head) (x : FmtU) (s : State) : Res := runPlan (.aadd h x) (planAadd h x s) s

/-- AAND (R221). -/
def planAand (h : Head) (x : FmtU) (s : State) : Plan :=
  atomicPlan h x 1 s

/-- AAND (R221). -/
def execAand (h : Head) (x : FmtU) (s : State) : Res := runPlan (.aand h x) (planAand h x s) s

/-- AOR (R221). -/
def planAor (h : Head) (x : FmtU) (s : State) : Plan :=
  atomicPlan h x 2 s

/-- AOR (R221). -/
def execAor (h : Head) (x : FmtU) (s : State) : Res := runPlan (.aor h x) (planAor h x s) s

/-- AXOR (R221). -/
def planAxor (h : Head) (x : FmtU) (s : State) : Plan :=
  atomicPlan h x 3 s

/-- AXOR (R221). -/
def execAxor (h : Head) (x : FmtU) (s : State) : Res := runPlan (.axor h x) (planAxor h x s) s

/-- AMIN (R221). -/
def planAmin (h : Head) (x : FmtU) (s : State) : Plan :=
  atomicPlan h x 4 s

/-- AMIN (R221). -/
def execAmin (h : Head) (x : FmtU) (s : State) : Res := runPlan (.amin h x) (planAmin h x s) s

/-- AMAX (R221). -/
def planAmax (h : Head) (x : FmtU) (s : State) : Plan :=
  atomicPlan h x 5 s

/-- AMAX (R221). -/
def execAmax (h : Head) (x : FmtU) (s : State) : Res := runPlan (.amax h x) (planAmax h x s) s

/-- AXCHG (R221). -/
def planAxchg (h : Head) (x : FmtU) (s : State) : Plan :=
  atomicPlan h x 6 s

/-- AXCHG (R221). -/
def execAxchg (h : Head) (x : FmtU) (s : State) : Res := runPlan (.axchg h x) (planAxchg h x s) s

/-- ACAS (R221). -/
def planAcas (h : Head) (x : FmtU) (s : State) : Plan :=
  atomicPlan h x 7 s

/-- ACAS (R221). -/
def execAcas (h : Head) (x : FmtU) (s : State) : Res := runPlan (.acas h x) (planAcas h x s) s

end Sys2Proof.Machine
end

