-- ==== Sys2Proof/Machine/Circuit.lean ====
section
/-!
DEFINITION. Circuits: SEND, RECV and the way of a message (R218 to R220).
-/
namespace Sys2Proof.Machine

/-- The circuit entry that a syllable names, if its launch has it (R218). -/
def entryOf (s : State) (c : Core) (e : Nat) : Option Word :=
  match c.launch with
  | none => none
  | some l =>
    match s.launch? l with
    | none => none
    | some x => let w := Table.get 0 x.circuits e; if w.getLsbD 63 then some w else none

/-- R218: the sending rank. -/
def entrySrc (w : Word) : Nat := (bits w 55 8).toNat
/-- R218: the receiving rank. -/
def entryDst (w : Word) : Nat := (bits w 47 8).toNat

/-- The core of a rank of a launch. -/
def coreOfRank (s : State) (c : Core) (r : Nat) : Nat :=
  match c.launch with
  | none => 0
  | some l => match s.launch? l with | some x => x.cores.getD r 0 | none => 0

/-- The messages of an entry that have not yet left their sender (R219). -/
def waitingSends (s : State) (l e : Nat) : List (Nat × Message) :=
  s.messages.filter fun (_, m) => m.launch == l && m.entry == e && m.half < 2

/-- A message is given to its RECV: it leaves the receive queue, and lands at the named cycle (R219, R220). -/
def takeMessage (s : State) (n : Nat) (m : Message) : State :=
  let s1 := { s with messages := s.messages.put n { m with taken := true } }
  let give := fun (r : Request) =>
    if r.recv = some (m.entry, m.num) then { r with data := some (leBytes 512 m.data.toNat) } else r
  let all := fun (c : Core) => { c with reqs := c.reqs.map give }
  updPoint (s1.updCore m.dstG all) m.dstG all

/-- The check of SEND (R219). -/
def sendCheck (s : State) (c : Core) (e : Nat) : Option Check :=
  match entryOf s c e with
  | some w => if entrySrc w = c.rank then none else some (illegalOp 0 0)
  | none => some (illegalOp 0 0)

/-- The check of RECV: its rank, then the minimum of R108. -/
def recvCheck (s : State) (c : Core) (g e arr : Nat) : Option Check :=
  match entryOf s c e with
  | some w =>
    if entryDst w ≠ c.rank then some (illegalOp 0 0)
    else arrivalCheck (some (if dieOf (coreOfRank s c (entrySrc w)) = dieOf g then 24 else 120)) arr
  | none => some (illegalOp 0 0)

/-- A SEND makes a message; in a contained region that has not committed it waits in the egress hold, and one for which the hold has no
room passes and leaves the region uncontained (R219, R356). -/
def runSend (s : State) (v e : Nat) : State :=
  let c := s.curCore
  match entryOf s c e with
  | none => s
  | some w =>
    let (n, s1) := s.newId
    let hold := c.region.uncontained = 0 && heldLines s s.cur + 8 ≤ 512
    let m : Message :=
      { entry := e, srcG := s.cur, dstG := coreOfRank s c (entryDst w), data := c.vGet v, launch := c.launch.getD 0, half := 0
        sentAt := none, held := hold, arrived := false, taken := false, num := Table.get 0 c.sends e }
    let s2 := { s1 with messages := s1.messages.put n m }
    let full := c.region.uncontained = 0 && !hold
    let s3 := s2.updCur fun c =>
      { c with sends := Table.put c.sends e (m.num + 1)
               region := if full then { c.region with uncontained := 3 } else c.region }
    if hold then s3 else scheduleMessage s3 n m

/-- The k-th RECV on an entry asks for the k-th message; one that has arrived is taken at once (R219). -/
def runRecv (s : State) (h : Head) (v e arr : Nat) : State :=
  let c := s.curCore
  let k := Table.get 0 c.recvs e
  let (n, s1) := s.newId
  let r : Request :=
    { id := n, issue := c.iCyc, arr := c.iCyc + arr, entries := 8, target := .vec v, slot := slotNum h.slot, baddr := c.iPc
      rep := c.iRep, data := none, poison := [], pline := 0, cause := 0, paddr := 0, atomic := false, recv := some (e, k) }
  let s2 := s1.updCur fun c => { c with recvs := Table.put c.recvs e (k + 1), reqs := c.reqs ++ [r] }
  match s2.messages.find? fun (_, m) => m.dstG == s.cur && m.entry == e && m.num == k && m.arrived with
  | some (i, m) => takeMessage s2 i m
  | none => s2

/-- SEND (R219). -/
def planSend (h : Head) (x : FmtO) (s : State) : Plan :=
  let c := s.curCore
  let v := stepReg h x.v.toNat
  flagPlan h c [rV v] (sendCheck s c x.pair.toNat) (fun s => runSend s v x.pair.toNat) id

/-- SEND (R219). -/
def execSend (h : Head) (x : FmtO) (s : State) : Res := runPlan (.send h x) (planSend h x s) s

/-- RECV (R219). -/
def planRecv (h : Head) (x : FmtO) (s : State) : Plan :=
  let c := s.curCore
  flagPlan h c [] (recvCheck s c s.cur x.pair.toNat x.arr.toNat)
    (fun s => runRecv s h (stepReg h x.v.toNat) x.pair.toNat x.arr.toNat) (fun s => discardRequest s (slotNum h.slot) x.arr.toNat 8)

/-- RECV (R219). -/
def execRecv (h : Head) (x : FmtO) (s : State) : Res := runPlan (.recv h x) (planRecv h x s) s

/-- The messages in the receive queue of an entry, or on their way to it (R219). -/
def queuedMessages (s : State) (l e : Nat) : Nat :=
  (s.messages.filter fun (_, m) => m.launch == l && m.entry == e && m.half == 2 && !m.taken).length

/-- The slot of an entry in this reference cycle has taken a half already (R218, R219). -/
def slotTaken (s : State) (l e : Nat) : Bool :=
  s.messages.any fun (_, m) => m.launch == l && m.entry == e && m.sentAt == some s.now

/-- CIRCUIT_DEPARTURE (R219, R220): a half departs. The slot of an entry takes one half, of the oldest message that has one to send, and any
other waits a revolution (DEDUCED, log entry 126); so does a half that finds the receive queue full, but for one whose receiver has
halted, which is discarded with its message. -/
def execCircuitDeparture (n : Nat) (s : State) : Res :=
  match s.messages.find n with
  | none => .next s
  | some m =>
    let again := s.dueOnce (s.now + 256) keyLeave (.circuitDeparture n)
    let older := (waitingSends s m.launch m.entry).any fun (_, o) => o.num < m.num
    if m.held || 2 ≤ m.half then .next s
    else if older || slotTaken s m.launch m.entry then .next again
    else if 4 ≤ queuedMessages s m.launch m.entry then
      .next (if (s.core m.dstG).halted then wake { s with messages := s.messages.del n } m.srcG else again)
    else
      let s1 := { s with messages := s.messages.put n { m with half := m.half + 1, sentAt := some s.now } }
      let lat := if dieOf m.srcG = dieOf m.dstG then 24 else 120
      .next (if m.half = 0 then s1.dueOnce (s.now + 256) keyLeave (.circuitDeparture n) else s1.due (s.now + lat) keyReply (.circuitArrival n))

/-- CIRCUIT_ARRIVAL (R219, R220): the message joins the receive queue, or goes to the RECV that waits for it. -/
def execCircuitArrival (n : Nat) (s : State) : Res :=
  match s.messages.find n with
  | none => .next s
  | some m =>
    let m1 := { m with arrived := true }
    let s1 := { s with messages := s.messages.put n m1 }
    let asked := m.num < Table.get 0 (s.core m.dstG).recvs m.entry
    .next (wake (if asked then takeMessage s1 n m1 else s1) m.srcG)

end Sys2Proof.Machine
end

