-- ==== Sys2Proof/Machine/Scalar.lean ====
section
/-!
DEFINITION. The scalar arithmetic of the S slot: ALU, multiply, divide, select, immediate forms, compares, flag logic,
spill memory and control registers (R111 to R120).
-/
namespace Sys2Proof.Machine

/-- A format-A instruction with two sources (R113). -/
def alu2 (h : SHead) (x : FmtA) (lat : Nat) (op : Word → Word → Word) (s : State) : Plan :=
  let c := s.curCore
  sPlan h c [rS x.sa.toNat, rS x.sb.toNat] none
    fun s => landS s 0 lat x.sd.toNat (op (c.sGet x.sa.toNat) (c.sGet x.sb.toNat))

/-- A format-A instruction with one source (R113). -/
def alu1 (h : SHead) (x : FmtA) (lat : Nat) (op : Word → Word) (s : State) : Plan :=
  let c := s.curCore
  sPlan h c [rS x.sa.toNat] none fun s => landS s 0 lat x.sd.toNat (op (c.sGet x.sa.toNat))

/-- A format-I instruction (R116): the immediate is sign-extended. -/
def aluImm (h : SHead) (x : FmtI) (lat : Nat) (op : Word → Word → Word) (s : State) : Plan :=
  let c := s.curCore
  sPlan h c [rS x.sa.toNat] none
    fun s => landS s 0 lat x.sd.toNat (op (c.sGet x.sa.toNat) (x.imm.signExtend 64))

/-- R113: ADD.S and SUB.S saturate to 64 signed bits. -/
def satWord (x : Int) : Word := BitVec.ofInt 64 (clampInt (intMin true 64) (intMax true 64) x)

/-- R114: DIV. -/
def divS (a b : Word) : Word :=
  if b = 0 then BitVec.allOnes 64 else BitVec.ofInt 64 (Int.tdiv a.toInt b.toInt)
/-- R114: DIVU. -/
def divU (a b : Word) : Word := if b = 0 then BitVec.allOnes 64 else BitVec.ofNat 64 (a.toNat / b.toNat)
/-- R114: REM. -/
def remS (a b : Word) : Word := if b = 0 then a else BitVec.ofInt 64 (Int.tmod a.toInt b.toInt)
/-- R114: REMU. -/
def remU (a b : Word) : Word := if b = 0 then a else BitVec.ofNat 64 (a.toNat % b.toNat)

/-- NOP (R112) does nothing. -/
def planSNop (h : SHead) (x : FmtA) (s : State) : Plan :=
  sPlan h s.curCore [] none id

/-- NOP (R112) does nothing. -/
def execSNop (h : SHead) (x : FmtA) (s : State) : Res := runPlan (.sNop h x) (planSNop h x s) s

/-- ADD (R113). -/
def planAdd (h : SHead) (x : FmtA) (s : State) : Plan :=
  alu2 h x 1 (fun a b => a + b) s

/-- ADD (R113). -/
def execAdd (h : SHead) (x : FmtA) (s : State) : Res := runPlan (.add h x) (planAdd h x s) s

/-- SUB (R113). -/
def planSub (h : SHead) (x : FmtA) (s : State) : Plan :=
  alu2 h x 1 (fun a b => a - b) s

/-- SUB (R113). -/
def execSub (h : SHead) (x : FmtA) (s : State) : Res := runPlan (.sub h x) (planSub h x s) s

/-- AND (R113). -/
def planAnd (h : SHead) (x : FmtA) (s : State) : Plan :=
  alu2 h x 1 (fun a b => a &&& b) s

/-- AND (R113). -/
def execAnd (h : SHead) (x : FmtA) (s : State) : Res := runPlan (.and h x) (planAnd h x s) s

/-- OR (R113). -/
def planOr (h : SHead) (x : FmtA) (s : State) : Plan :=
  alu2 h x 1 (fun a b => a ||| b) s

/-- OR (R113). -/
def execOr (h : SHead) (x : FmtA) (s : State) : Res := runPlan (.or h x) (planOr h x s) s

/-- XOR (R113). -/
def planXor (h : SHead) (x : FmtA) (s : State) : Plan :=
  alu2 h x 1 (fun a b => a ^^^ b) s

/-- XOR (R113). -/
def execXor (h : SHead) (x : FmtA) (s : State) : Res := runPlan (.xor h x) (planXor h x s) s

/-- ANDN (R113). -/
def planAndn (h : SHead) (x : FmtA) (s : State) : Plan :=
  alu2 h x 1 (fun a b => a &&& (~~~b)) s

/-- ANDN (R113). -/
def execAndn (h : SHead) (x : FmtA) (s : State) : Res := runPlan (.andn h x) (planAndn h x s) s

/-- SHL (R113). -/
def planShl (h : SHead) (x : FmtA) (s : State) : Plan :=
  alu2 h x 1 (fun a b => a <<< (b.toNat % 64)) s

/-- SHL (R113). -/
def execShl (h : SHead) (x : FmtA) (s : State) : Res := runPlan (.shl h x) (planShl h x s) s

/-- SHR (R113). -/
def planShr (h : SHead) (x : FmtA) (s : State) : Plan :=
  alu2 h x 1 (fun a b => a >>> (b.toNat % 64)) s

/-- SHR (R113). -/
def execShr (h : SHead) (x : FmtA) (s : State) : Res := runPlan (.shr h x) (planShr h x s) s

/-- SRA (R113). -/
def planSra (h : SHead) (x : FmtA) (s : State) : Plan :=
  alu2 h x 1 (fun a b => a.sshiftRight (b.toNat % 64)) s

/-- SRA (R113). -/
def execSra (h : SHead) (x : FmtA) (s : State) : Res := runPlan (.sra h x) (planSra h x s) s

/-- MIN (R113). -/
def planMin (h : SHead) (x : FmtA) (s : State) : Plan :=
  alu2 h x 1 (fun a b => if a.slt b then a else b) s

/-- MIN (R113). -/
def execMin (h : SHead) (x : FmtA) (s : State) : Res := runPlan (.min h x) (planMin h x s) s

/-- MAX (R113). -/
def planMax (h : SHead) (x : FmtA) (s : State) : Plan :=
  alu2 h x 1 (fun a b => if a.slt b then b else a) s

/-- MAX (R113). -/
def execMax (h : SHead) (x : FmtA) (s : State) : Res := runPlan (.max h x) (planMax h x s) s

/-- MINU (R113). -/
def planMinu (h : SHead) (x : FmtA) (s : State) : Plan :=
  alu2 h x 1 (fun a b => if a.ult b then a else b) s

/-- MINU (R113). -/
def execMinu (h : SHead) (x : FmtA) (s : State) : Res := runPlan (.minu h x) (planMinu h x s) s

/-- MAXU (R113). -/
def planMaxu (h : SHead) (x : FmtA) (s : State) : Plan :=
  alu2 h x 1 (fun a b => if a.ult b then b else a) s

/-- MAXU (R113). -/
def execMaxu (h : SHead) (x : FmtA) (s : State) : Res := runPlan (.maxu h x) (planMaxu h x s) s

/-- ADD.S (R113). -/
def planAddS (h : SHead) (x : FmtA) (s : State) : Plan :=
  alu2 h x 1 (fun a b => satWord (a.toInt + b.toInt)) s

/-- ADD.S (R113). -/
def execAddS (h : SHead) (x : FmtA) (s : State) : Res := runPlan (.addS h x) (planAddS h x s) s

/-- SUB.S (R113). -/
def planSubS (h : SHead) (x : FmtA) (s : State) : Plan :=
  alu2 h x 1 (fun a b => satWord (a.toInt - b.toInt)) s

/-- SUB.S (R113). -/
def execSubS (h : SHead) (x : FmtA) (s : State) : Res := runPlan (.subS h x) (planSubS h x s) s

/-- MUL (R113). -/
def planMul (h : SHead) (x : FmtA) (s : State) : Plan :=
  alu2 h x 3 (fun a b => a * b) s

/-- MUL (R113). -/
def execMul (h : SHead) (x : FmtA) (s : State) : Res := runPlan (.mul h x) (planMul h x s) s

/-- MULH (R113): bits 127 to 64 of the signed product. -/
def planMulh (h : SHead) (x : FmtA) (s : State) : Plan :=
  alu2 h x 3 (fun a b => BitVec.ofInt 64 ((a.toInt * b.toInt) / 2 ^ 64)) s

/-- MULH (R113): bits 127 to 64 of the signed product. -/
def execMulh (h : SHead) (x : FmtA) (s : State) : Res := runPlan (.mulh h x) (planMulh h x s) s

/-- MULHU (R113). -/
def planMulhu (h : SHead) (x : FmtA) (s : State) : Plan :=
  alu2 h x 3 (fun a b => BitVec.ofNat 64 (a.toNat * b.toNat / 2 ^ 64)) s

/-- MULHU (R113). -/
def execMulhu (h : SHead) (x : FmtA) (s : State) : Res := runPlan (.mulhu h x) (planMulhu h x s) s

/-- DIV (R114). -/
def planDiv (h : SHead) (x : FmtA) (s : State) : Plan :=
  alu2 h x 18 divS s

/-- DIV (R114). -/
def execDiv (h : SHead) (x : FmtA) (s : State) : Res := runPlan (.div h x) (planDiv h x s) s

/-- DIVU (R114). -/
def planDivu (h : SHead) (x : FmtA) (s : State) : Plan :=
  alu2 h x 18 divU s

/-- DIVU (R114). -/
def execDivu (h : SHead) (x : FmtA) (s : State) : Res := runPlan (.divu h x) (planDivu h x s) s

/-- REM (R114). -/
def planRem (h : SHead) (x : FmtA) (s : State) : Plan :=
  alu2 h x 18 remS s

/-- REM (R114). -/
def execRem (h : SHead) (x : FmtA) (s : State) : Res := runPlan (.rem h x) (planRem h x s) s

/-- REMU (R114). -/
def planRemu (h : SHead) (x : FmtA) (s : State) : Plan :=
  alu2 h x 18 remU s

/-- REMU (R114). -/
def execRemu (h : SHead) (x : FmtA) (s : State) : Res := runPlan (.remu h x) (planRemu h x s) s

/-- POPC (R113). -/
def planPopc (h : SHead) (x : FmtA) (s : State) : Plan :=
  alu1 h x 1 (fun a => BitVec.ofNat 64 (popcount 64 a.toNat)) s

/-- POPC (R113). -/
def execPopc (h : SHead) (x : FmtA) (s : State) : Res := runPlan (.popc h x) (planPopc h x s) s

/-- CLZ (R113). -/
def planClz (h : SHead) (x : FmtA) (s : State) : Plan :=
  alu1 h x 1 (fun a => BitVec.ofNat 64 (leadingZeros 64 a.toNat)) s

/-- CLZ (R113). -/
def execClz (h : SHead) (x : FmtA) (s : State) : Res := runPlan (.clz h x) (planClz h x s) s

/-- CTZ (R113). -/
def planCtz (h : SHead) (x : FmtA) (s : State) : Plan :=
  alu1 h x 1 (fun a => BitVec.ofNat 64 (trailingZeros 64 a.toNat)) s

/-- CTZ (R113). -/
def execCtz (h : SHead) (x : FmtA) (s : State) : Res := runPlan (.ctz h x) (planCtz h x s) s

/-- SEL (R115). -/
def planSel (h : SHead) (x : FmtA) (s : State) : Plan :=
  let c := s.curCore
  sPlan h c [rF x.fx.toNat, rS x.sa.toNat, rS x.sb.toNat] none
    fun s => landS s 0 1 x.sd.toNat (if c.fGet x.fx.toNat then c.sGet x.sa.toNat else c.sGet x.sb.toNat)

/-- SEL (R115). -/
def execSel (h : SHead) (x : FmtA) (s : State) : Res := runPlan (.sel h x) (planSel h x s) s

/-- ADDI (R116). -/
def planAddi (h : SHead) (x : FmtI) (s : State) : Plan :=
  aluImm h x 1 (fun a i => a + i) s

/-- ADDI (R116). -/
def execAddi (h : SHead) (x : FmtI) (s : State) : Res := runPlan (.addi h x) (planAddi h x s) s

/-- ANDI (R116). -/
def planAndi (h : SHead) (x : FmtI) (s : State) : Plan :=
  aluImm h x 1 (fun a i => a &&& i) s

/-- ANDI (R116). -/
def execAndi (h : SHead) (x : FmtI) (s : State) : Res := runPlan (.andi h x) (planAndi h x s) s

/-- ORI (R116). -/
def planOri (h : SHead) (x : FmtI) (s : State) : Plan :=
  aluImm h x 1 (fun a i => a ||| i) s

/-- ORI (R116). -/
def execOri (h : SHead) (x : FmtI) (s : State) : Res := runPlan (.ori h x) (planOri h x s) s

/-- XORI (R116). -/
def planXori (h : SHead) (x : FmtI) (s : State) : Plan :=
  aluImm h x 1 (fun a i => a ^^^ i) s

/-- XORI (R116). -/
def execXori (h : SHead) (x : FmtI) (s : State) : Res := runPlan (.xori h x) (planXori h x s) s

/-- SHLI (R116). -/
def planShli (h : SHead) (x : FmtI) (s : State) : Plan :=
  aluImm h x 1 (fun a i => a <<< i.toNat) s

/-- SHLI (R116). -/
def execShli (h : SHead) (x : FmtI) (s : State) : Res := runPlan (.shli h x) (planShli h x s) s

/-- SHRI (R116). -/
def planShri (h : SHead) (x : FmtI) (s : State) : Plan :=
  aluImm h x 1 (fun a i => a >>> i.toNat) s

/-- SHRI (R116). -/
def execShri (h : SHead) (x : FmtI) (s : State) : Res := runPlan (.shri h x) (planShri h x s) s

/-- SRAI (R116). -/
def planSrai (h : SHead) (x : FmtI) (s : State) : Plan :=
  aluImm h x 1 (fun a i => a.sshiftRight i.toNat) s

/-- SRAI (R116). -/
def execSrai (h : SHead) (x : FmtI) (s : State) : Res := runPlan (.srai h x) (planSrai h x s) s

/-- MULI (R116). -/
def planMuli (h : SHead) (x : FmtI) (s : State) : Plan :=
  aluImm h x 3 (fun a i => a * i) s

/-- MULI (R116). -/
def execMuli (h : SHead) (x : FmtI) (s : State) : Res := runPlan (.muli h x) (planMuli h x s) s

/-- LIU (R116). -/
def planLiu (h : SHead) (x : FmtI) (s : State) : Plan :=
  aluImm h x 1 (fun a i => (i.extractLsb' 0 26) ++ (a.extractLsb' 0 38)) s

/-- LIU (R116). -/
def execLiu (h : SHead) (x : FmtI) (s : State) : Res := runPlan (.liu h x) (planLiu h x s) s

/-- CMP (R117). -/
def planCmp (h : SHead) (x : FmtC) (s : State) : Plan :=
  let c := s.curCore
  let b := if x.im = 1 then x.imm.signExtend 64 else c.sGet x.sb.toNat
  sPlan h c (if x.im = 1 then [rS x.sa.toNat] else [rS x.sa.toNat, rS x.sb.toNat]) none
    fun s => landF s 0 1 x.fd.toNat (cond x.cc.toNat (c.sGet x.sa.toNat) b)

/-- CMP (R117). -/
def execCmp (h : SHead) (x : FmtC) (s : State) : Res := runPlan (.cmp h x) (planCmp h x s) s

/-- Flag logic (R118): the two flags are in the low three bits of the source fields. -/
def flagLogic (h : SHead) (x : FmtC) (op : Bool → Bool → Bool) (s : State) : Plan :=
  let c := s.curCore
  sPlan h c [rF (x.sa.toNat % 8), rF (x.sb.toNat % 8)] none
    fun s => landF s 0 1 x.fd.toNat (op (c.fGet (x.sa.toNat % 8)) (c.fGet (x.sb.toNat % 8)))

/-- FAND (R118). -/
def planFlagAnd (h : SHead) (x : FmtC) (s : State) : Plan :=
  flagLogic h x (fun a b => a && b) s

/-- FAND (R118). -/
def execFlagAnd (h : SHead) (x : FmtC) (s : State) : Res := runPlan (.flagAnd h x) (planFlagAnd h x s) s

/-- FOR (R118). -/
def planFlagOr (h : SHead) (x : FmtC) (s : State) : Plan :=
  flagLogic h x (fun a b => a || b) s

/-- FOR (R118). -/
def execFlagOr (h : SHead) (x : FmtC) (s : State) : Res := runPlan (.flagOr h x) (planFlagOr h x s) s

/-- FXOR (R118). -/
def planFlagXor (h : SHead) (x : FmtC) (s : State) : Plan :=
  flagLogic h x (fun a b => a != b) s

/-- FXOR (R118). -/
def execFlagXor (h : SHead) (x : FmtC) (s : State) : Res := runPlan (.flagXor h x) (planFlagXor h x s) s

/-- FANDN (R118). -/
def planFlagAndn (h : SHead) (x : FmtC) (s : State) : Plan :=
  flagLogic h x (fun a b => a && !b) s

/-- FANDN (R118). -/
def execFlagAndn (h : SHead) (x : FmtC) (s : State) : Res := runPlan (.flagAndn h x) (planFlagAndn h x s) s

/-- R119: the spill index `s[sa]` + IDX, and the bounds fault of R29. -/
def spillIndex (c : Core) (x : FmtX) : Word := c.sGet x.sa.toNat + x.idx.setWidth 64

/-- R29: a spill index above 2,047 raises the bounds fault. -/
def spillCheck (k : Word) : Option Check :=
  if k.toNat < 2048 then none else some { code := 8, cause := 0x100, arg0 := k, arg1 := 0, handle := 16 }

/-- SPLD (R119). -/
def planSpld (h : SHead) (x : FmtX) (s : State) : Plan :=
  let c := s.curCore
  let k := spillIndex c x
  sPlan h c [rS x.sa.toNat, ⟨10, k.toNat, 0, 8⟩] (spillCheck k)
    fun s => landS s 0 1 x.s.toNat (c.spillGet k.toNat)

/-- SPLD (R119). -/
def execSpld (h : SHead) (x : FmtX) (s : State) : Res := runPlan (.spld h x) (planSpld h x s) s

/-- SPST (R119). -/
def planSpst (h : SHead) (x : FmtX) (s : State) : Plan :=
  let c := s.curCore
  let k := spillIndex c x
  sPlan h c [rS x.sa.toNat, rS x.s.toNat] (spillCheck k) fun s => land s 0 1 (.spill k.toNat (c.sGet x.s.toNat))

/-- SPST (R119). -/
def execSpst (h : SHead) (x : FmtX) (s : State) : Res := runPlan (.spst h x) (planSpst h x s) s

/-- The image of the launch of a core; an empty one for a core of no launch. -/
def imageOf (s : State) (c : Core) : Image :=
  match c.launch with
  | none => ⟨0, 0, 0, 0, false, false, 0, 0, 0, 0⟩
  | some l =>
    match s.launch? l with
    | some x => x.image
    | none => ⟨0, 0, 0, 0, false, false, 0, 0, 0, 0⟩

/-- The tile grid of a launch (R43, R323): gz, gy, gx in word 6 of the LAUNCH packet. -/
def gridWord (s : State) (c : Core) : Word :=
  match c.launch with
  | none => 0
  | some l =>
    match s.launch? l with
    | some x => (bits (x.packet.getD 6 0) 0 48).setWidth 64
    | none => 0

/-- The value of a control or status register (R30). -/
def csrValue (s : State) (g : Nat) (n : Nat) : Word :=
  let c := s.core g
  let w := fun (k : Nat) => BitVec.ofNat 64 k
  match n with
  | 0x000 => w c.iCyc | 0x001 => w c.refcyc | 0x002 => w c.rank | 0x003 => w c.hive | 0x004 => w c.coreid
  | 0x005 => w (imageOf s c).h | 0x006 => w (imageOf s c).c | 0x007 => w g | 0x008 => w c.vdie
  | 0x009 => gridWord s c | 0x010 => c.fpflags.setWidth 64 | 0x011 => c.sig.setWidth 64
  | 0x012 => if c.prt then 1 else 0 | 0x013 => w c.segbase | 0x020 => w c.drones | 0x021 => w c.lates
  | 0x022 => w c.segstall | 0x023 => w c.waitholds | 0x024 => w c.xlholds | 0x025 => w c.lbholds
  | 0x026 => w c.cqholds | 0x027 => w c.bankholds | 0x028 => w c.pgfreezes | 0x029 => w c.rollbacks
  | 0x02A => w c.faults | 0x02B => w c.preempts | 0x02C => w c.heldcyc | 0x02D => w c.oob
  | _ => 0

/-- R33: the illegal uses of a control register. -/
def csrCheck (n : Nat) (write : Bool) : Option Check :=
  if write then (if n = 0x10 then none else some (illegalOp 0 0)) else if csrListed n then none else some (illegalOp 0 0)

/-- CSRR (R120). -/
def planCsrr (h : SHead) (x : FmtX) (s : State) : Plan :=
  let v := csrValue s s.cur x.idx.toNat
  sPlan h s.curCore [] (csrCheck x.idx.toNat false) fun s => landS s 0 1 x.s.toNat v

/-- CSRR (R120). -/
def execCsrr (h : SHead) (x : FmtX) (s : State) : Res := runPlan (.csrr h x) (planCsrr h x s) s

/-- CSRW (R31, R120). -/
def planCsrw (h : SHead) (x : FmtX) (s : State) : Plan :=
  let c := s.curCore
  sPlan h c [rS x.s.toNat] (csrCheck x.idx.toNat true)
    fun s => land s 0 1 (.csrFlags ((c.sGet x.s.toNat).setWidth 8))

/-- CSRW (R31, R120). -/
def execCsrw (h : SHead) (x : FmtX) (s : State) : Res := runPlan (.csrw h x) (planCsrw h x s) s

end Sys2Proof.Machine
end

