-- ==== Sys2Proof/Machine/Control.lean ====
section
/-!
DEFINITION. Sequencing in the S slot: branch targets, loops, fences, wait flags, traps, HALT, chaining and tiles
(R43 to R46, R121 to R125, R130 to R134, R226).
-/
namespace Sys2Proof.Machine

/-- The next place in the program order of the core whose syllables are being run (R249). -/
def takeSeq (s : State) : Nat × State := (s.curCore.seq, s.updCur fun c => { c with seq := c.seq + 1 })

/-- R121: a target that a branch register can hold. -/
def targetOk (t : Word) : Bool := t.toNat % 8 == 0 && t.toNat < 0x1000000

/-- PREP (R121): the target lands in bN at issue + 3. -/
def planPrep (h : SHead) (x : FmtB) (s : State) : Plan :=
  let c := s.curCore
  let t := c.sGet x.sa.toNat + BitVec.ofNat 64 (x.addr.toNat * 8)
  sPlan h c [rS x.sa.toNat] none
    fun s => land s 0 3 (.bReg x.n.toNat (if targetOk t then some t.toNat else none))

/-- PREP (R121): the target lands in bN at issue + 3. -/
def execPrep (h : SHead) (x : FmtB) (s : State) : Res := runPlan (.prep h x) (planPrep h x s) s

/-- LOOP (R124): the counter lands at issue + 1, with the address after this bundle as its start. -/
def planLoop (h : SHead) (x : FmtB) (s : State) : Plan :=
  let c := s.curCore
  let count := (c.sGet x.sa.toNat).toNat + x.addr.toNat
  sPlan h c [rS x.sa.toNat] (if 2 ^ 32 - 1 < count then some (illegalOp 0 0) else none)
    fun s => land s 0 1 (.lpReg x.n.toNat { active := true, count := count, start := c.iNext })

/-- LOOP (R124): the counter lands at issue + 1, with the address after this bundle as its start. -/
def execLoop (h : SHead) (x : FmtB) (s : State) : Res := runPlan (.loop h x) (planLoop h x s) s

/-- ENDLOOP (R125): acts at the last repetition; it counts down and returns to the start, or deactivates the counter. A
taken header transfer chooses the next bundle instead. -/
def planEndLoop (h : SHead) (x : FmtB) (s : State) : Plan :=
  let c := s.curCore
  let l := c.lpGet x.n.toNat
  sPlan h c [] (if c.iLast && !l.active then some (illegalOp 0 0) else none) fun s =>
    if !c.iLast then s
    else if 1 < l.count then
      (land s 0 1 (.lpReg x.n.toNat { l with count := l.count - 1 })).updCur fun c => { c with iNext := l.start }
    else land s 0 1 (.lpReg x.n.toNat { l with active := false })

/-- ENDLOOP (R125): acts at the last repetition; it counts down and returns to the start, or deactivates the counter. A
taken header transfer chooses the next bundle instead. -/
def execEndLoop (h : SHead) (x : FmtB) (s : State) : Res := runPlan (.endLoop h x) (planEndLoop h x s) s

/-- FENCE (R130): joins the core's program order; later accesses of the masked classes wait for it at the source
interface. A SYSTEM release has its zero-length read to send (R379). -/
def planFence (h : SHead) (x : FmtI) (s : State) : Plan :=
  sPlan h s.curCore [] none fun s =>
    let (q, s1) := takeSeq s
    let f : Fence := { seq := q, mask := x.imm.extractLsb' 0 16, scope := (x.imm.extractLsb' 16 3).toNat,
                       acq := x.imm.getLsbD 19, rel := x.imm.getLsbD 20 }
    let s2 := s1.updCur fun c => { c with fences := c.fences ++ [f] }
    if f.rel then askFlush s2 s2.cur q f.scope f.mask else s2

/-- FENCE (R130): joins the core's program order; later accesses of the masked classes wait for it at the source
interface. -/
def execFence (h : SHead) (x : FmtI) (s : State) : Res := runPlan (.fence h x) (planFence h x s) s

/-- WCLR (R226): the masked wait flags clear at issue + 1. -/
def planWclr (h : SHead) (x : FmtI) (s : State) : Plan :=
  sPlan h s.curCore [] none fun s => land s 0 1 (.clearWait (x.imm.extractLsb' 0 32))

/-- WCLR (R226): the masked wait flags clear at issue + 1. -/
def execWclr (h : SHead) (x : FmtI) (s : State) : Res := runPlan (.wclr h x) (planWclr h x s) s

/-- TRAP (R131, R344): at the first repetition the placement stops with a trap record. The other syllables of the
repetition issue; STOPCYC is the first cycle after it. -/
def planTrap (h : SHead) (x : FmtY) (s : State) : Plan :=
  let c := s.curCore
  sPlan h c [] none fun s =>
    match c.launch with
    | none => s
    | some l =>
      if c.iRep = 0 && (onceSeen s).isNone then
        stopWithRecord (noteOnce s 0 none) s.cur l
          { kind := 2, code := 0, cause := x.imm.toNat, arg0 := 0, arg1 := 0, slot := 0, rep := c.iRep, origin := 5,
            issue := c.iCyc, baddr := c.iPc } 2 16 (c.iCyc + 1)
      else s

/-- TRAP (R131, R344): at the first repetition the placement stops with a trap record. The other syllables of the
repetition issue; STOPCYC is the first cycle after it. -/
def execTrap (h : SHead) (x : FmtY) (s : State) : Res := runPlan (.trap h x) (planTrap h x s) s

/-- HALT (R46, R111, R132): acts at the first repetition of its bundle; the core issues nothing after it. The end of the
repetition discards its pending register writes and its sticky syllables. -/
def planHalt (h : SHead) (x : FmtY) (s : State) : Plan :=
  let first := s.curCore.iRep = 0
  sPlan h s.curCore [] none fun s => if first then s.updCur fun c => { c with halted := true, haltRef := s.now } else s

/-- HALT (R46, R132): the core issues nothing after the first repetition of its bundle. The end of the repetition discards
its pending register writes and its sticky syllables. -/
def execHalt (h : SHead) (x : FmtY) (s : State) : Res := runPlan (.halt h x) (planHalt h x s) s

/-- R133: the spill index of TAIL, a sum of 64 bits (DESIGN CHOICE, log entry 143). -/
def tailIndex (c : Core) (x : FmtY) : Word := c.sGet x.sa.toNat + x.imm.setWidth 64

/-- TAIL (R45, R133): eight spill words become the core's child record. -/
def planTail (h : SHead) (x : FmtY) (s : State) : Plan :=
  let c := s.curCore
  let k := tailIndex c x
  sPlan h c (rS x.sa.toNat :: (List.range 8).map fun i => ⟨10, k.toNat + i, 0, 8⟩)
    (if k.toNat ≤ 2040 then none else some { code := 8, cause := 0x100, arg0 := k, arg1 := 0, handle := 16 })
    fun s => s.updCur fun d => { d with child := some ((List.range 8).map fun i => c.spillGet (k.toNat + i)) }

/-- TAIL (R45, R133): eight spill words become the core's child record. -/
def execTail (h : SHead) (x : FmtY) (s : State) : Res := runPlan (.tail h x) (planTail h x s) s

/-- R44: the value that a tile index gives in the grid of the launch. -/
def tileValue (grid : Word) (idx : Nat) : Word :=
  let gx := (bits grid 0 16).toNat
  let gy := (bits grid 16 16).toNat
  let gz := (bits grid 32 16).toNat
  if gx * gy * gz ≤ idx then ntNullWord
  else 0#16 ++ BitVec.ofNat 16 (idx / (gx * gy)) ++ BitVec.ofNat 16 (idx / gx % gy) ++ BitVec.ofNat 16 (idx % gx)

/-- R44, R134: the target register of a request still has a landing pending, or holds a value not yet taken. -/
def requestBusy (c : Core) : Bool :=
  !c.ntTaken.getLsbD c.ntReq || c.writes.any fun w =>
    match w.eff with
    | .ntReg r _ => r == c.ntReq
    | _ => false

/-- The next tile index of a core (R43): its own in static order, the launch's dispenser's in dynamic order. -/
def nextIndex (s : State) (c : Core) : Nat × State :=
  let im := imageOf s c
  if im.dyn then
    match c.launch with
    | none => (0, s)
    | some l =>
      match s.launch? l with
      | none => (0, s)
      | some x => (x.dispensed, s.setLaunch l { x with dispensed := x.dispensed + 1 })
  else (c.rank + c.ntCount * (im.h * im.c), s)

/-- NEXTTILE (R43, R44, R134): requests the next tile index. -/
def planNextTile (h : SHead) (x : FmtY) (s : State) : Plan :=
  let c := s.curCore
  sPlan h c [] (if requestBusy c then some (illegalOp 0 0) else none) fun s =>
    let (v, s1) := match onceSeen s with
      | some r => (BitVec.ofNat 64 (leNat (r.data.getD [])), s)
      | none =>
        let (idx, s1) := nextIndex s c
        let v := if c.ntNull then ntNullWord else tileValue (gridWord s c) idx
        (v, noteOnce s1 0 (some (leBytes 8 v.toNat)))
    let s2 := land s1 0 40 (.ntReg c.ntReq v)
    s2.updCur fun d =>
      { d with ntReq := (d.ntReq + 1) % 4, ntCount := d.ntCount + 1, ntNull := d.ntNull || v == ntNullWord }

/-- NEXTTILE (R43, R44, R134): requests the next tile index. -/
def execNextTile (h : SHead) (x : FmtY) (s : State) : Res := runPlan (.nextTile h x) (planNextTile h x s) s

/-- NEXTTILE.TAKE (R134): takes the value at the take pointer. -/
def planNextTileTake (h : SHead) (x : FmtY) (s : State) : Plan :=
  let c := s.curCore
  sPlan h c [⟨9, c.ntTake, 0, 8⟩] none fun s =>
    (landS s 0 1 x.sd.toNat (c.ntGet c.ntTake)).updCur fun d =>
      { d with ntTaken := putBit d.ntTaken c.ntTake true, ntTake := (c.ntTake + 1) % 4 }

/-- NEXTTILE.TAKE (R134): takes the value at the take pointer. -/
def execNextTileTake (h : SHead) (x : FmtY) (s : State) : Res := runPlan (.nextTileTake h x) (planNextTileTake h x s) s

end Sys2Proof.Machine
end

