-- ==== Sys2Proof/Machine/Transc.lean ====
section
/-!
DEFINITION. The transcendental functions (R163, R164): the exact value of each is enclosed between two fixed-point
numbers, at rising precision until both round alike, and is rounded once.
-/
namespace Sys2Proof.Machine

/-- An enclosure of a positive value v: m × 2^e < v < (m + width) × 2^e. -/
structure Enclosure where
  m : Nat
  width : Nat
  e : Int

/-- Round an enclosed value if both its ends round alike. -/
def FFmt.roundEncl (f : FFmt) (rm : Nat) (neg : Bool) (x : Enclosure) : Option Rounded :=
  let a := f.round rm neg x.m x.e true
  let b := f.round rm neg (x.m + x.width - 1) x.e true
  if a == b && x.m != 0 then some a else none

/-- Round a value given by its enclosures at rising precision. No value of R163 that is not exact lies so near to a
rounding boundary that the last precision leaves it open. -/
def FFmt.roundWith (f : FFmt) (rm : Nat) (neg : Bool) (encl : Nat → Enclosure) : List Nat → Rounded
  | [] => ⟨f.nan, 0⟩
  | p :: ps =>
    match f.roundEncl rm neg (encl p) with
    | some r => r
    | none => f.roundWith rm neg encl ps

/-- The precisions tried, in bits. -/
def precisions : List Nat := [160, 320, 640, 1280]

/-- Bits of slack of every enclosure below. -/
def slack : Nat := 2 ^ 24

/-- Σ z^k / k!, from term `t` = z^k / k! on, in units of 2^−p. -/
def expSeries (p z : Nat) : Nat → Nat → Nat → Nat
  | 0, _, _ => 0
  | n + 1, k, t => t + expSeries p z n (k + 1) (t * z / 2 ^ p / (k + 1))

/-- Σ y^(2k+1) / (2k+1), from the power `t` = y^(2k+1) on, in units of 2^−p. -/
def atanhSeries (p y2 : Nat) : Nat → Nat → Nat → Nat
  | 0, _, _ => 0
  | n + 1, k, t => t / (2 * k + 1) + atanhSeries p y2 n (k + 1) (t * y2 / 2 ^ p)

/-- ln 2 = 2 atanh(1/3) in units of 2^−p, from below. -/
def ln2 (p : Nat) : Nat :=
  let y := 2 ^ p / 3
  2 * atanhSeries p (y * y / 2 ^ p) (p / 3 + 2) 0 y

/-- e^z for z = x × 2^−p below 1, in units of 2^−p, from below. -/
def expFix (p z : Nat) : Nat := expSeries p z (p / 2 + 8) 0 (2 ^ p)

/-- A signed dyadic number split into its floor and its fraction in units of 2^−p, both from below. -/
def floorFrac (p : Nat) (neg : Bool) (m : Nat) (e : Int) : Int × Nat :=
  let x := signed neg m
  if 0 ≤ e then (x * (2 ^ e.toNat : Nat), 0)
  else
    let d : Int := (2 ^ (-e).toNat : Nat)
    (x.fdiv d, ((x.fmod d) * (2 ^ p : Nat) / d).toNat)

/-- Whether m × 2^e is an integer. -/
def isInteger (m : Nat) (e : Int) : Bool := 0 ≤ e || m % 2 ^ (-e).toNat == 0

/-- 2^x enclosed, for |x| < 2^12. -/
def exp2Encl (neg : Bool) (m : Nat) (e : Int) (p : Nat) : Enclosure :=
  let (n, f) := floorFrac p neg m e
  ⟨expFix p (f * ln2 p / 2 ^ p) - slack, 2 * slack, n - p⟩

/-- VEXP2 of a finite value (R163). -/
def FFmt.exp2 (f : FFmt) (rm : Nat) (neg : Bool) (m : Nat) (e : Int) : Rounded :=
  if m = 0 then f.round rm false 1 0
  else if 12 ≤ (Nat.log2 m : Int) + e then f.round rm false 1 (if neg then -4096 else 4096) true
  else if isInteger m e then
    let n := signed neg (if 0 ≤ e then m * 2 ^ e.toNat else m / 2 ^ (-e).toNat)
    f.round rm false 1 n
  else f.roundWith rm false (exp2Encl neg m e) precisions

/-- log2 of m × 2^e, m > 0, as its sign and an enclosure of its magnitude. -/
def log2Encl (m : Nat) (e : Int) (p : Nat) : Bool × Enclosure :=
  let b := Nat.log2 m
  let k := (b : Int) + e
  let y := (m - 2 ^ b) * 2 ^ p / (m + 2 ^ b)
  let ln := 2 * atanhSeries p (y * y / 2 ^ p) (p / 3 + 2) 0 y
  let v := k * (2 ^ p : Nat) + ((ln * 2 ^ p / ln2 p : Nat) : Int)
  (v < 0, ⟨v.natAbs - slack, 2 * slack, -p⟩)

/-- VLOG2 of a finite value (R163, R164). The zero of x = 1 is +0 in every rounding mode (DESIGN CHOICE, log entry 146). -/
def FFmt.log2 (f : FFmt) (rm : Nat) (neg : Bool) (m : Nat) (e : Int) : Rounded :=
  if m = 0 then ⟨f.sign true f.infEnc, fDZ⟩
  else if neg then f.nanWith fNV
  else if m = 2 ^ Nat.log2 m then f.roundInt rm ((Nat.log2 m : Int) + e) 0 false
  else
    let s := (log2Encl m e 160).1
    f.roundWith rm s (fun p => (log2Encl m e p).2) precisions

/-- VRCP of a finite value (R163, R164): the quotient and its remainder round exactly. -/
def FFmt.rcp (f : FFmt) (rm : Nat) (neg : Bool) (m : Nat) (e : Int) : Rounded :=
  if m = 0 then ⟨f.sign neg f.infEnc, fDZ⟩
  else
    let n := 2 ^ (Nat.log2 m + 40)
    f.round rm neg (n / m) (-(e + Nat.log2 m + 40)) (n % m != 0)

/-- VRSQ of a finite value (R163, R164). -/
def FFmt.rsq (f : FFmt) (rm : Nat) (neg : Bool) (m : Nat) (e : Int) : Rounded :=
  if m = 0 then ⟨f.sign neg f.infEnc, fDZ⟩
  else if neg then f.nanWith fNV
  else
    let (m2, e2) := if e % 2 = 0 then (m, e) else (2 * m, e - 1)
    let k := Nat.log2 m2 + 60
    let n := 2 ^ (2 * k)
    let q := Nat.sqrt (n / m2)
    f.round rm false q (-(e2 / 2) - k) (q * q * m2 != n)

/-- tanh of m × 2^e, m > 0, enclosed, for a value below 2^7: (E − 1) / (E + 1) with E = e^(2x). -/
def tanhEncl (m : Nat) (e : Int) (p : Nat) : Enclosure :=
  let l := ln2 p
  let z := if 0 ≤ e + 1 then m * 2 ^ (e + 1).toNat * 2 ^ p else m * 2 ^ p / 2 ^ (-(e + 1)).toNat
  let n := z / l
  let ex := expFix p (z - n * l) * 2 ^ n
  ⟨(ex - 2 ^ p) * 2 ^ p / (ex + 2 ^ p) - slack * 2 ^ 10, slack * 2 ^ 11, -p⟩

/-- VTANH of a finite value (R163, R164). -/
def FFmt.tanh (f : FFmt) (rm : Nat) (neg : Bool) (m : Nat) (e : Int) : Rounded :=
  if m = 0 then ⟨f.sign neg 0, 0⟩
  else if 7 ≤ (Nat.log2 m : Int) + e then f.round rm neg (2 ^ 180 - 1) (-180) true
  else f.roundWith rm neg (tanhEncl m e) precisions

/-- The transcendental functions. -/
inductive Transc where
  | exp2 | log2 | rcp | rsq | tanh
deriving DecidableEq, Repr

/-- A transcendental of an encoding (R163, R164). -/
def FFmt.transc (f : FFmt) (op : Transc) (rm x : Nat) : Rounded :=
  match f.decode x with
  | .nan s => f.nanWith (flagIf s fNV)
  | .inf n =>
    match op with
    | .exp2 => if n then ⟨0, 0⟩ else ⟨f.infEnc, 0⟩
    | .log2 => if n then f.nanWith fNV else ⟨f.infEnc, 0⟩
    | .rcp => ⟨f.sign n 0, 0⟩
    | .rsq => if n then f.nanWith fNV else ⟨0, 0⟩
    | .tanh => f.round 0 n 1 0
  | .num n m e =>
    match op with
    | .exp2 => f.exp2 rm n m e
    | .log2 => f.log2 rm n m e
    | .rcp => f.rcp rm n m e
    | .rsq => f.rsq rm n m e
    | .tanh => f.tanh rm n m e

end Sys2Proof.Machine
end

