-- ==== Sys2Proof/Machine/Vector.lean ====
section
/-!
DEFINITION. The V slots, first part: element-wise arithmetic and logic, immediate forms, compares and masks
(R146 to R154).
-/
namespace Sys2Proof.Machine

/-- An integer result without flags. -/
def intRes (x : Nat) : Rounded := ⟨x, 0⟩

/-- A format-V instruction of two sources, or of one when `unary`: `f` gives the result of an element (R146). -/
def vecOp (h : Head) (x : FmtV) (unary : Bool) (lat : Nat) (f : Nat → Nat → Rounded) (s : State) : Plan :=
  let c := s.curCore
  let w := widthOf x.fmt.toNat
  let vd := stepReg h x.vd.toNat
  let va := stepReg h x.va.toNat
  let vb := if unary || x.bc = 1 then [] else [stepReg h x.vb.toNat]
  let p := maskPred c h.prd h.pn
  vPlan h ((va :: vb).map rV) none fun s =>
    landElems s (slotNum h.slot) (lat + crossing h.slot (vd :: va :: vb)) vd w (4096 / w) (lanes p w)
      fun k => f (elem w (c.vGet va) k) (secondSource c h x.bc x.vb w k)

/-- The latency of R106 that depends on an integer or a floating-point FMT. -/
def latIF (fmt i f : Nat) : Nat := if isIntCode fmt then i else f

/-- An element operation of integers or of floating point, on values of the FMT of the syllable (R146, R147). -/
def arith (fmt : BitVec 4) (sat : BitVec 1) (rm : BitVec 2) (i : Int → Int → Int)
    (f : FFmt → Nat → FVal → FVal → Rounded) (a b : Nat) : Rounded :=
  let k := fmt.toNat
  let w := widthOf k
  if isIntCode k then
    intRes (reduceInt (isSignedCode k) w (sat == 1) (i (ival (isSignedCode k) w a) (ival (isSignedCode k) w b)))
  else
    let ff := floatOf k
    f ff rm.toNat (ff.decode a) (ff.decode b)

/-- The smaller or larger of two elements (R148). -/
def minMaxElem (fmt : Nat) (max : Bool) (a b : Nat) : Rounded :=
  if isIntCode fmt then
    let less := ival (isSignedCode fmt) (widthOf fmt) a < ival (isSignedCode fmt) (widthOf fmt) b
    intRes (if less then (if max then b else a) else (if max then a else b))
  else (floatOf fmt).minMax max a b

/-- VABS and VNEG in floating point act on the sign bit (R147). -/
def signOp (fmt : Nat) (op : Bool → Bool) (a : Nat) : Rounded :=
  let f := floatOf fmt
  match f.decode a with
  | .nan s => f.nanWith (flagIf s fNV)
  | _ => intRes (f.sign (op (a.testBit (f.width - 1))) (a % 2 ^ (f.width - 1)))

/-- The V-class NOP (R169) does nothing. Its PRD is a read for `%debug.PRT`, as that of every V syllable (R144; DEDUCED, log entry 148). -/
def planVNop (h : Head) (x : FmtV) (s : State) : Plan :=
  vPlan h [] none id

/-- The V-class NOP (R169) does nothing. -/
def execVNop (h : Head) (x : FmtV) (s : State) : Res := runPlan (.vNop h x) (planVNop h x s) s

/-- VADD (R146, R147). -/
def planVadd (h : Head) (x : FmtV) (s : State) : Plan :=
  vecOp h x false (latIF x.fmt.toNat 2 4) (arith x.fmt x.sat x.rm (fun a b => a + b) fun f rm a b => f.addV rm a b) s

/-- VADD (R146, R147). -/
def execVadd (h : Head) (x : FmtV) (s : State) : Res := runPlan (.vadd h x) (planVadd h x s) s

/-- VSUB (R146, R147). -/
def planVsub (h : Head) (x : FmtV) (s : State) : Plan :=
  vecOp h x false (latIF x.fmt.toNat 2 4) (arith x.fmt x.sat x.rm (fun a b => a - b) fun f rm a b => f.addV rm a b.neg) s

/-- VSUB (R146, R147). -/
def execVsub (h : Head) (x : FmtV) (s : State) : Res := runPlan (.vsub h x) (planVsub h x s) s

/-- VMIN (R148). -/
def planVmin (h : Head) (x : FmtV) (s : State) : Plan :=
  vecOp h x false 2 (minMaxElem x.fmt.toNat false) s

/-- VMIN (R148). -/
def execVmin (h : Head) (x : FmtV) (s : State) : Res := runPlan (.vmin h x) (planVmin h x s) s

/-- VMAX (R148). -/
def planVmax (h : Head) (x : FmtV) (s : State) : Plan :=
  vecOp h x false 2 (minMaxElem x.fmt.toNat true) s

/-- VMAX (R148). -/
def execVmax (h : Head) (x : FmtV) (s : State) : Res := runPlan (.vmax h x) (planVmax h x s) s

/-- VMUL (R146, R147). -/
def planVmul (h : Head) (x : FmtV) (s : State) : Plan :=
  vecOp h x false 4 (arith x.fmt x.sat x.rm (fun a b => a * b) fun f rm a b => f.mulV rm a b) s

/-- VMUL (R146, R147). -/
def execVmul (h : Head) (x : FmtV) (s : State) : Res := runPlan (.vmul h x) (planVmul h x s) s

/-- VABS (R146, R147). -/
def planVabs (h : Head) (x : FmtV) (s : State) : Plan :=
  let k := x.fmt.toNat
  vecOp h x true 2 (fun a _ =>
    if isIntCode k then
      intRes (reduceInt (isSignedCode k) (widthOf k) (x.sat == 1) ((ival (isSignedCode k) (widthOf k) a).natAbs : Nat))
    else signOp k (fun _ => false) a) s

/-- VABS (R146, R147). -/
def execVabs (h : Head) (x : FmtV) (s : State) : Res := runPlan (.vabs h x) (planVabs h x s) s

/-- VNEG (R146, R147). -/
def planVneg (h : Head) (x : FmtV) (s : State) : Plan :=
  let k := x.fmt.toNat
  vecOp h x true 2 (fun a _ =>
    if isIntCode k then
      intRes (reduceInt (isSignedCode k) (widthOf k) (x.sat == 1) (-(ival (isSignedCode k) (widthOf k) a)))
    else signOp k (fun n => !n) a) s

/-- VNEG (R146, R147). -/
def execVneg (h : Head) (x : FmtV) (s : State) : Res := runPlan (.vneg h x) (planVneg h x s) s

/-- VAND (R146). -/
def planVand (h : Head) (x : FmtV) (s : State) : Plan :=
  vecOp h x false 2 (fun a b => intRes (a &&& b)) s

/-- VAND (R146). -/
def execVand (h : Head) (x : FmtV) (s : State) : Res := runPlan (.vand h x) (planVand h x s) s

/-- VOR (R146). -/
def planVor (h : Head) (x : FmtV) (s : State) : Plan :=
  vecOp h x false 2 (fun a b => intRes (a ||| b)) s

/-- VOR (R146). -/
def execVor (h : Head) (x : FmtV) (s : State) : Res := runPlan (.vor h x) (planVor h x s) s

/-- VXOR (R146). -/
def planVxor (h : Head) (x : FmtV) (s : State) : Plan :=
  vecOp h x false 2 (fun a b => intRes (a ^^^ b)) s

/-- VXOR (R146). -/
def execVxor (h : Head) (x : FmtV) (s : State) : Res := runPlan (.vxor h x) (planVxor h x s) s

/-- VANDN (R146). -/
def planVandn (h : Head) (x : FmtV) (s : State) : Plan :=
  vecOp h x false 2 (fun a b => intRes (a ^^^ (a &&& b))) s

/-- VANDN (R146). -/
def execVandn (h : Head) (x : FmtV) (s : State) : Res := runPlan (.vandn h x) (planVandn h x s) s

/-- The amount of a vector shift: b[log2 w − 1 : 0] (R146). -/
def shiftAmount (fmt b : Nat) : Nat := b % widthOf fmt

/-- VSHL (R146). -/
def planVshl (h : Head) (x : FmtV) (s : State) : Plan :=
  let k := x.fmt.toNat
  vecOp h x false 2 (fun a b => intRes (a * 2 ^ shiftAmount k b % 2 ^ widthOf k)) s

/-- VSHL (R146). -/
def execVshl (h : Head) (x : FmtV) (s : State) : Res := runPlan (.vshl h x) (planVshl h x s) s

/-- VSHR (R146). -/
def planVshr (h : Head) (x : FmtV) (s : State) : Plan :=
  let k := x.fmt.toNat
  vecOp h x false 2 (fun a b => intRes (a / 2 ^ shiftAmount k b)) s

/-- VSHR (R146). -/
def execVshr (h : Head) (x : FmtV) (s : State) : Res := runPlan (.vshr h x) (planVshr h x s) s

/-- VSRA (R146). -/
def planVsra (h : Head) (x : FmtV) (s : State) : Plan :=
  let k := x.fmt.toNat
  vecOp h x false 2 (fun a b => intRes (wrapTo (widthOf k) ((sval (widthOf k) a) / (2 ^ shiftAmount k b : Nat)))) s

/-- VSRA (R146). -/
def execVsra (h : Head) (x : FmtV) (s : State) : Res := runPlan (.vsra h x) (planVsra h x s) s

/-- VPOPC (R146). -/
def planVpopc (h : Head) (x : FmtV) (s : State) : Plan :=
  vecOp h x true 2 (fun a _ => intRes (popcount (widthOf x.fmt.toNat) a)) s

/-- VPOPC (R146). -/
def execVpopc (h : Head) (x : FmtV) (s : State) : Res := runPlan (.vpopc h x) (planVpopc h x s) s

/-- VCLZ (R146). -/
def planVclz (h : Head) (x : FmtV) (s : State) : Plan :=
  vecOp h x true 2 (fun a _ => intRes (leadingZeros (widthOf x.fmt.toNat) a)) s

/-- VCLZ (R146). -/
def execVclz (h : Head) (x : FmtV) (s : State) : Res := runPlan (.vclz h x) (planVclz h x s) s

/-- VSEL (R149): the predicate selects the source, and every element is written. -/
def planVsel (h : Head) (x : FmtV) (s : State) : Plan :=
  let c := s.curCore
  let w := widthOf x.fmt.toNat
  let vd := stepReg h x.vd.toNat
  let va := stepReg h x.va.toNat
  let vb := if x.bc = 1 then [] else [stepReg h x.vb.toNat]
  let p := maskPred c h.prd h.pn
  vPlan h ((va :: vb).map rV) none fun s =>
    landElems s (slotNum h.slot) (2 + crossing h.slot (vd :: va :: vb)) vd w (4096 / w) (fun _ => true)
      fun k => intRes (if lanes p w k then elem w (c.vGet va) k else secondSource c h x.bc x.vb w k)

/-- VSEL (R149): the predicate selects the source, and every element is written. -/
def execVsel (h : Head) (x : FmtV) (s : State) : Res := runPlan (.vsel h x) (planVsel h x s) s

/-- A fused instruction (R150): `neg1` negates the product and `neg2` the addend. -/
def fusedOp (h : Head) (x : FmtW) (neg1 neg2 : Bool) (s : State) : Plan :=
  let c := s.curCore
  let w := widthOf x.fmt.toNat
  let f := floatOf x.fmt.toNat
  let vd := stepReg h x.vd.toNat
  let va := stepReg h x.va.toNat
  let vb := stepReg h x.vb.toNat
  let vc := stepReg h x.vc.toNat
  let p := maskPred c h.prd h.pn
  vPlan h [rV va, rV vb, rV vc] none fun s =>
    landElems s (slotNum h.slot) (4 + crossing h.slot [vd, va, vb, vc]) vd w (4096 / w) (lanes p w) fun k =>
      let a := f.decode (elem w (c.vGet va) k)
      let b := f.decode (elem w (c.vGet vb) k)
      let d := f.decode (elem w (c.vGet vc) k)
      f.fmaV x.rm.toNat (if neg1 then a.neg else a) b (if neg2 then d.neg else d)

/-- VFMA (R150). -/
def planVfma (h : Head) (x : FmtW) (s : State) : Plan :=
  fusedOp h x false false s

/-- VFMA (R150). -/
def execVfma (h : Head) (x : FmtW) (s : State) : Res := runPlan (.vfma h x) (planVfma h x s) s

/-- VFMS (R150). -/
def planVfms (h : Head) (x : FmtW) (s : State) : Plan :=
  fusedOp h x false true s

/-- VFMS (R150). -/
def execVfms (h : Head) (x : FmtW) (s : State) : Res := runPlan (.vfms h x) (planVfms h x s) s

/-- VFNMA (R150). -/
def planVfnma (h : Head) (x : FmtW) (s : State) : Plan :=
  fusedOp h x true false s

/-- VFNMA (R150). -/
def execVfnma (h : Head) (x : FmtW) (s : State) : Res := runPlan (.vfnma h x) (planVfnma h x s) s

/-- A format-J instruction with an immediate (R151). -/
def vecImm (h : Head) (x : FmtJ) (source : Bool) (lat : Nat) (f : Nat → Rounded) (s : State) : Plan :=
  let c := s.curCore
  let w := widthOf x.fmt.toNat
  let vd := stepReg h x.vd.toNat
  let va := stepReg h x.va.toNat
  let p := maskPred c h.prd h.pn
  vPlan h (if source then [rV va] else []) none fun s =>
    landElems s (slotNum h.slot) (lat + crossing h.slot (if source then [vd, va] else [vd])) vd w (4096 / w) (lanes p w)
      fun k => f (elem w (c.vGet va) k)

/-- The sign-extended immediate modulo 2^w (R151). -/
def immBits (x : FmtJ) : Nat := wrapTo (widthOf x.fmt.toNat) x.imm.toInt

/-- VADDI (R151). -/
def planVaddi (h : Head) (x : FmtJ) (s : State) : Plan :=
  vecImm h x true 2 (fun a => intRes ((a + immBits x) % 2 ^ widthOf x.fmt.toNat)) s

/-- VADDI (R151). -/
def execVaddi (h : Head) (x : FmtJ) (s : State) : Res := runPlan (.vaddi h x) (planVaddi h x s) s

/-- VANDI (R151). -/
def planVandi (h : Head) (x : FmtJ) (s : State) : Plan :=
  vecImm h x true 2 (fun a => intRes (a &&& immBits x)) s

/-- VANDI (R151). -/
def execVandi (h : Head) (x : FmtJ) (s : State) : Res := runPlan (.vandi h x) (planVandi h x s) s

/-- VSHLI (R151). -/
def planVshli (h : Head) (x : FmtJ) (s : State) : Plan :=
  vecImm h x true 2 (fun a => intRes (a * 2 ^ x.imm.toNat % 2 ^ widthOf x.fmt.toNat)) s

/-- VSHLI (R151). -/
def execVshli (h : Head) (x : FmtJ) (s : State) : Res := runPlan (.vshli h x) (planVshli h x s) s

/-- VSHRI (R151). -/
def planVshri (h : Head) (x : FmtJ) (s : State) : Plan :=
  vecImm h x true 2 (fun a => intRes (a / 2 ^ x.imm.toNat)) s

/-- VSHRI (R151). -/
def execVshri (h : Head) (x : FmtJ) (s : State) : Res := runPlan (.vshri h x) (planVshri h x s) s

/-- VSRAI (R151). -/
def planVsrai (h : Head) (x : FmtJ) (s : State) : Plan :=
  let w := widthOf x.fmt.toNat
  vecImm h x true 2 (fun a => intRes (wrapTo w ((sval w a) / (2 ^ x.imm.toNat : Nat)))) s

/-- VSRAI (R151). -/
def execVsrai (h : Head) (x : FmtJ) (s : State) : Res := runPlan (.vsrai h x) (planVsrai h x s) s

/-- What VLI loads (R151): for `.F32` the immediate is the upper half of the encoding. -/
def liValue (x : FmtJ) : Nat :=
  if isIntCode x.fmt.toNat then immBits x else if x.fmt = 6 then x.imm.toNat * 2 ^ 16 else x.imm.toNat

/-- VLI (R151). -/
def planVli (h : Head) (x : FmtJ) (s : State) : Plan :=
  vecImm h x false 2 (fun _ => intRes (liValue x)) s

/-- VLI (R151). -/
def execVli (h : Head) (x : FmtJ) (s : State) : Res := runPlan (.vli h x) (planVli h x s) s

/-- The condition of a compare of two lanes, with NV for a signalling NaN (R152). -/
def compareLane (fmt cc a b : Nat) : Bool × BitVec 8 :=
  if fmt = 6 then condFloat cc a b else (condInt cc (isSignedCode fmt) a b, 0)

/-- A mask whose bits are given. -/
def maskOf (f : Nat → Bool) : Mask := BitVec.ofNat 128 (packNat 1 (fun i => if f i then 1 else 0) 128)

/-- VCMP (R152): bit i of md for each enabled lane i. -/
def planVcmp (h : Head) (x : FmtP) (s : State) : Plan :=
  let c := s.curCore
  let md := stepReg h x.md.toNat
  let va := stepReg h x.va.toNat
  let vb := if x.bc = 1 then [] else [stepReg h x.vb.toNat]
  let p := maskPred c h.prd h.pn
  let t := fun i => compareLane x.fmt.toNat x.cc.toNat (elem 32 (c.vGet va) i) (secondSource c h x.bc x.vb 32 i)
  vPlan h ((va :: vb).map rV) none fun s =>
    let lat := 2 + crossing h.slot (va :: vb)
    landFlags (land s (slotNum h.slot) lat (.mReg md (maskOf fun i => (t i).1) p)) (slotNum h.slot) lat
      (flagsOf (fun i => p.getLsbD i) (fun i => ⟨0, (t i).2⟩) 128)

/-- VCMP (R152): bit i of md for each enabled lane i. -/
def execVcmp (h : Head) (x : FmtP) (s : State) : Res := runPlan (.vcmp h x) (planVcmp h x s) s

/-- A mask instruction (R153): bits of md where the predicate is 1. -/
def maskOp (h : Head) (x : FmtQ) (srcs : List Nat) (f : Core → Mask) (s : State) : Plan :=
  let c := s.curCore
  vPlan h (srcs.map rM) none fun s =>
    land s (slotNum h.slot) 2 (.mReg (stepReg h x.md.toNat) (f c) (maskPred c h.prd h.pn))

/-- MAND (R153). -/
def planMand (h : Head) (x : FmtQ) (s : State) : Plan :=
  maskOp h x [stepReg h x.ma.toNat, stepReg h x.mb.toNat] (fun c => c.mGet (stepReg h x.ma.toNat) &&& c.mGet (stepReg h x.mb.toNat)) s

/-- MAND (R153). -/
def execMand (h : Head) (x : FmtQ) (s : State) : Res := runPlan (.mand h x) (planMand h x s) s

/-- MOR (R153). -/
def planMor (h : Head) (x : FmtQ) (s : State) : Plan :=
  maskOp h x [stepReg h x.ma.toNat, stepReg h x.mb.toNat] (fun c => c.mGet (stepReg h x.ma.toNat) ||| c.mGet (stepReg h x.mb.toNat)) s

/-- MOR (R153). -/
def execMor (h : Head) (x : FmtQ) (s : State) : Res := runPlan (.mor h x) (planMor h x s) s

/-- MXOR (R153). -/
def planMxor (h : Head) (x : FmtQ) (s : State) : Plan :=
  maskOp h x [stepReg h x.ma.toNat, stepReg h x.mb.toNat] (fun c => c.mGet (stepReg h x.ma.toNat) ^^^ c.mGet (stepReg h x.mb.toNat)) s

/-- MXOR (R153). -/
def execMxor (h : Head) (x : FmtQ) (s : State) : Res := runPlan (.mxor h x) (planMxor h x s) s

/-- MANDN (R153). -/
def planMandn (h : Head) (x : FmtQ) (s : State) : Plan :=
  maskOp h x [stepReg h x.ma.toNat, stepReg h x.mb.toNat] (fun c => c.mGet (stepReg h x.ma.toNat) &&& (~~~(c.mGet (stepReg h x.mb.toNat)))) s

/-- MANDN (R153). -/
def execMandn (h : Head) (x : FmtQ) (s : State) : Res := runPlan (.mandn h x) (planMandn h x s) s

/-- MNOT (R153). -/
def planMnot (h : Head) (x : FmtQ) (s : State) : Plan :=
  maskOp h x [stepReg h x.ma.toNat] (fun c => ~~~(c.mGet (stepReg h x.ma.toNat))) s

/-- MNOT (R153). -/
def execMnot (h : Head) (x : FmtQ) (s : State) : Res := runPlan (.mnot h x) (planMnot h x s) s

/-- MLEAD (R153): the first n bits. -/
def planMlead (h : Head) (x : FmtQ) (s : State) : Plan :=
  maskOp h x [] (fun _ => BitVec.ofNat 128 (2 ^ x.imm.toNat - 1)) s

/-- MLEAD (R153): the first n bits. -/
def execMlead (h : Head) (x : FmtQ) (s : State) : Res := runPlan (.mlead h x) (planMlead h x s) s

/-- A reduction of a mask to a flag or a scalar (R154): `f` is given the mask and the expanded predicate. -/
def maskReduce (h : Head) (x : FmtQ) (fin : State → Mask → Mask → State) (s : State) : Plan :=
  let c := s.curCore
  let ma := stepReg h x.ma.toNat
  vPlan h [rM ma] none fun s => fin s (c.mGet ma) (maskPred c h.prd h.pn)

/-- MANY (R154). -/
def planMany (h : Head) (x : FmtQ) (s : State) : Plan :=
  maskReduce h x (fun s m p => landF s (slotNum h.slot) 2 (x.sd.toNat % 8) ((m &&& p) != 0)) s

/-- MANY (R154). -/
def execMany (h : Head) (x : FmtQ) (s : State) : Res := runPlan (.many h x) (planMany h x s) s

/-- MALL (R154). -/
def planMall (h : Head) (x : FmtQ) (s : State) : Plan :=
  maskReduce h x (fun s m p => landF s (slotNum h.slot) 2 (x.sd.toNat % 8) ((m ||| (~~~p)) == BitVec.allOnes 128)) s

/-- MALL (R154). -/
def execMall (h : Head) (x : FmtQ) (s : State) : Res := runPlan (.mall h x) (planMall h x s) s

/-- MPOP (R154). -/
def planMpop (h : Head) (x : FmtQ) (s : State) : Plan :=
  maskReduce h x (fun s m p => landS s (slotNum h.slot) 2 x.sd.toNat (BitVec.ofNat 64 (popcount 128 (m &&& p).toNat))) s

/-- MPOP (R154). -/
def execMpop (h : Head) (x : FmtQ) (s : State) : Res := runPlan (.mpop h x) (planMpop h x s) s

/-- MFIRST (R154). -/
def planMfirst (h : Head) (x : FmtQ) (s : State) : Plan :=
  maskReduce h x (fun s m p => landS s (slotNum h.slot) 2 x.sd.toNat (BitVec.ofNat 64 (trailingZeros 128 (m &&& p).toNat))) s

/-- MFIRST (R154). -/
def execMfirst (h : Head) (x : FmtQ) (s : State) : Res := runPlan (.mfirst h x) (planMfirst h x s) s

end Sys2Proof.Machine
end

