-- ==== Sys2Proof/Machine/Vector2.lean ====
section
/-!
DEFINITION. The V slots, second part: conversions, quantising, the long sum, reductions, permutes, transcendentals,
compare-exchange, tile rows and columns (R155 to R169).
-/
namespace Sys2Proof.Machine

/-- VCVT (R155): the source element of a destination element, none for one that is not written, as the index j. -/
def cvtIndex (ws wd part i : Nat) : Option Nat :=
  let n := 4096 / Nat.max ws wd
  if ws > wd then (if part * n ≤ i && i < part * n + n then some (i - part * n) else none)
  else if i < n then some i else none

/-- VCVT (R155). -/
def planVcvt (h : Head) (x : FmtJ) (s : State) : Plan :=
  let c := s.curCore
  let src := (x.imm.extractLsb' 0 4).toNat
  let dst := x.fmt.toNat
  let part := (x.imm.extractLsb' 5 2).toNat
  let ws := widthOf src
  let wd := widthOf dst
  let n := 4096 / Nat.max ws wd
  let vd := stepReg h x.vd.toNat
  let va := stepReg h x.va.toNat
  let p := maskPred c h.prd h.pn
  vPlan h [rV va] none fun s =>
    landElems s (slotNum h.slot) (3 + crossing h.slot [vd, va]) vd wd (4096 / wd)
      (fun i => match cvtIndex ws wd part i with
        | some j => lanes p (Nat.max ws wd) j
        | none => false)
      fun i =>
        let j := (cvtIndex ws wd part i).getD 0
        convert src dst (x.imm.getLsbD 4) x.rm.toNat (elem ws (c.vGet va) (if ws < wd then part * n + j else j))

/-- VCVT (R155). -/
def execVcvt (h : Head) (x : FmtJ) (s : State) : Res := runPlan (.vcvt h x) (planVcvt h x s) s

/-- The level tables of a core with the conversion table of one of its engines (R66). -/
def levelsOf (c : Core) (e : Nat) : Levels :=
  { a := fun k => (c.levelGet 0 k).toNat, b := fun k => (c.levelGet 1 k).toNat, cv := fun k => (c.convGet e k).toNat
    bf := c.convBf.getLsbD e }

/-- Elements of a block of a vector as `.F32` lanes, each disabled lane holding +0 (R156). -/
def blockInput (v : Vec) (p : Mask) (first n : Nat) : List Nat :=
  (List.range n).map fun j => if p.getLsbD (first + j) then elem 32 v (first + j) else 0

/-- Blocks `0` to `nb − 1` of a vector quantised: codes and headers of those with an enabled lane (R156). -/
def quantBlocks (c : Core) (fmt mask : Nat) (v : Vec) (p : Mask) : Nat → QBlock := fun b =>
  quantBlock (levelsOf c 0) fmt mask (blockInput v p (b * blockElems fmt) (blockElems fmt))

/-- Whether a block of 32 or 64 lanes has an enabled lane. -/
def blockEnabled (fmt : Nat) (p : Mask) (b : Nat) : Bool :=
  (List.range (blockElems fmt)).any fun j => p.getLsbD (b * blockElems fmt + j)

/-- Codes and headers of quantised blocks land together (R156, R188). -/
def landBlocks (s : State) (slot lat fmt vd zd nb : Nat) (en : Nat → Bool) (q : Nat → QBlock) : State :=
  let cw := codeBytes fmt * 8
  let s1 := land s slot lat (.vReg vd (pack cw nb fun b => (q b).codes) (packEn cw nb en))
  let s2 := land s1 slot lat (.zReg zd (pack 16 nb fun b => (q b).header) (packEn 16 nb en))
  landFlags s2 slot lat (flagsOf en (fun b => ⟨0, flagIf (q b).clamp fQCLAMP⟩) nb)

/-- VQUANT (R156). -/
def planVquant (h : Head) (x : FmtG) (s : State) : Plan :=
  let c := s.curCore
  let fmt := x.fmt.toNat
  let vd := stepReg h x.vd.toNat
  let vs := stepReg h x.vs.toNat
  let p := maskPred c h.prd h.pn
  vPlan h [rV vs] none fun s =>
    landBlocks s (slotNum h.slot) (8 + crossing h.slot [vd, vs]) fmt vd (stepReg h x.z.toNat) (128 / blockElems fmt)
      (blockEnabled fmt p) (quantBlocks c fmt x.cand.toNat (c.vGet vs) p)

/-- VQUANT (R156). -/
def execVquant (h : Head) (x : FmtG) (s : State) : Res := runPlan (.vquant h x) (planVquant h x s) s

/-- R344: selector corruption of block `b` with header `h`. -/
def selectorCheck (b h : Nat) : Check :=
  { code := 10, cause := b, arg0 := BitVec.ofNat 64 h, arg1 := 0, handle := 16 }

/-- The first of `n` blocks that is needed and whose header fails its check (R63): the lowest (DESIGN CHOICE, log entry 147). -/
def badHeader (fmt : Nat) (need : Nat → Bool) (hdr : Nat → Nat) (n : Nat) : Option Check :=
  match (List.range n).find? fun b => need b && !headerOk fmt (hdr b) with
  | some b => some (selectorCheck b (hdr b))
  | none => none

/-- VDEQ (R157): decodes selector blocks; the headers of the blocks with an enabled element are checked at step 3. -/
def planVdeq (h : Head) (x : FmtG) (s : State) : Plan :=
  let c := s.curCore
  let blk := (x.cand.extractLsb' 0 4).toNat
  let wd := widthOf x.fmt.toNat
  let nb := 4096 / wd / blockElems blk
  let vd := stepReg h x.vd.toNat
  let vs := stepReg h x.vs.toNat
  let z := c.zGet (stepReg h x.z.toNat)
  let p := maskPred c h.prd h.pn
  let need := fun b => (List.range (blockElems blk)).any fun j => lanes p wd (b * blockElems blk + j)
  vPlan h [rV vs, rZ (stepReg h x.z.toNat)] (badHeader blk need (fun b => elem 16 z b) nb) fun s =>
    landElems s (slotNum h.slot) (6 + crossing h.slot [vd, vs]) vd wd (4096 / wd) (lanes p wd) fun k =>
      let b := k / blockElems blk
      blockElem (levelsOf c 0) blk (elem 16 z b)
        (codeAt blk (elem (codeBytes blk * 8) (c.vGet vs) b) (k % blockElems blk)) (floatOf x.fmt.toNat) x.rm.toNat

/-- VDEQ (R157): decodes selector blocks; the headers of the blocks with an enabled element are checked at step 3. -/
def execVdeq (h : Head) (x : FmtG) (s : State) : Res := runPlan (.vdeq h x) (planVdeq h x s) s

/-- VLSCV (R80, R158). -/
def planVlscv (h : Head) (x : FmtJ) (s : State) : Plan :=
  let c := s.curCore
  let w := widthOf x.fmt.toNat
  let vd := stepReg h x.vd.toNat
  let va := stepReg h x.va.toNat
  let p := maskPred c h.prd h.pn
  vPlan h [rV va] none fun s =>
    landElems s (slotNum h.slot) (4 + crossing h.slot [vd, va]) vd 128 32 (fun j => p.getLsbD j)
      fun j => toLS (floatOf x.fmt.toNat) x.imm.toInt (elem w (c.vGet va) j)

/-- VLSCV (R80, R158). -/
def execVlscv (h : Head) (x : FmtJ) (s : State) : Res := runPlan (.vlscv h x) (planVlscv h x s) s

/-- VLSADD (R80, R158). -/
def planVlsadd (h : Head) (x : FmtV) (s : State) : Plan :=
  let c := s.curCore
  let vd := stepReg h x.vd.toNat
  let va := stepReg h x.va.toNat
  let vb := stepReg h x.vb.toNat
  let p := maskPred c h.prd h.pn
  vPlan h [rV va, rV vb] none fun s =>
    landElems s (slotNum h.slot) (4 + crossing h.slot [vd, va, vb]) vd 128 32 (fun j => p.getLsbD j)
      fun j => addLS (elem 128 (c.vGet va) j) (elem 128 (c.vGet vb) j)

/-- VLSADD (R80, R158). -/
def execVlsadd (h : Head) (x : FmtV) (s : State) : Res := runPlan (.vlsadd h x) (planVlsadd h x s) s

/-- VLSOUT (R81, R158). -/
def planVlsout (h : Head) (x : FmtJ) (s : State) : Plan :=
  let c := s.curCore
  let w := widthOf x.fmt.toNat
  let vd := stepReg h x.vd.toNat
  let va := stepReg h x.va.toNat
  let p := maskPred c h.prd h.pn
  vPlan h [rV va] none fun s =>
    landElems s (slotNum h.slot) (4 + crossing h.slot [vd, va]) vd w 32 (fun j => p.getLsbD j)
      fun j => fromLS (floatOf x.fmt.toNat) x.rm.toNat x.imm.toInt (elem 128 (c.vGet va) j)

/-- VLSOUT (R81, R158). -/
def execVlsout (h : Head) (x : FmtJ) (s : State) : Res := runPlan (.vlsout h x) (planVlsout h x s) s

/-- The strides N/2, N/4, …, 1 of R159. -/
def strides : Nat → Nat → List Nat
  | 0, _ => []
  | fuel + 1, n => if n ≤ 1 then [] else (n / 2) :: strides fuel (n / 2)

/-- A reduction (R159): the tree over the inputs that the predicate selects, its result for every element. -/
def reduceOp (h : Head) (x : FmtV) (identity : Nat) (combine : Nat → Nat → Rounded) (fin : List Nat → Rounded → Rounded)
    (s : State) : Plan :=
  let c := s.curCore
  let w := widthOf x.fmt.toNat
  let n := 4096 / w
  let vd := stepReg h x.vd.toNat
  let va := stepReg h x.va.toNat
  let p := maskPred c h.prd h.pn
  let on := (List.range n).filter (lanes p w)
  let inp := (List.range n).map fun k => intRes (if lanes p w k then elem w (c.vGet va) k else identity)
  let step := fun (a b : Rounded) =>
    let r := combine a.enc b.enc
    Rounded.mk r.enc (r.flags ||| a.flags ||| b.flags)
  vPlan h [rV va] none fun s =>
    let r := fin (on.map fun k => elem w (c.vGet va) k) ((pairTree step (strides 10 n) inp).headD (intRes identity))
    let lat := 6 + crossing h.slot [vd, va]
    landFlags (land s (slotNum h.slot) lat (.vReg vd (pack w n fun _ => r.enc) (full 4096))) (slotNum h.slot) lat r.flags

/-- The identity of VRMAX (`max`) or VRMIN (R159). -/
def reduceIdentity (fmt : Nat) (max : Bool) : Nat :=
  let w := widthOf fmt
  if isIntCode fmt then wrapTo w (if max then intMin (isSignedCode fmt) w else intMax (isSignedCode fmt) w)
  else (floatOf fmt).sign max (floatOf fmt).infEnc

/-- A float reduction whose enabled inputs are all NaN gives the canonical NaN (R159). -/
def allNan (fmt : Nat) (on : List Nat) (r : Rounded) : Rounded :=
  if !isIntCode fmt && !on.isEmpty && on.all fun a => ((floatOf fmt).decode a).isNan then
    ⟨(floatOf fmt).nan, r.flags⟩
  else r

/-- VRSUM (R159): in integer formats the exact sum is reduced or clamped once. -/
def planVrsum (h : Head) (x : FmtV) (s : State) : Plan :=
  let k := x.fmt.toNat
  let w := widthOf k
  reduceOp h x 0
    (fun a b => if isIntCode k then intRes 0 else (floatOf k).addV x.rm.toNat ((floatOf k).decode a) ((floatOf k).decode b))
    (fun on r =>
      if isIntCode k then
        intRes (reduceInt (isSignedCode k) w (x.sat == 1) (on.foldl (fun acc a => acc + ival (isSignedCode k) w a) 0))
      else r) s

/-- VRSUM (R159): in integer formats the exact sum is reduced or clamped once. -/
def execVrsum (h : Head) (x : FmtV) (s : State) : Res := runPlan (.vrsum h x) (planVrsum h x s) s

/-- VRMAX (R159). -/
def planVrmax (h : Head) (x : FmtV) (s : State) : Plan :=
  reduceOp h x (reduceIdentity x.fmt.toNat true) (minMaxElem x.fmt.toNat true) (allNan x.fmt.toNat) s

/-- VRMAX (R159). -/
def execVrmax (h : Head) (x : FmtV) (s : State) : Res := runPlan (.vrmax h x) (planVrmax h x s) s

/-- VRMIN (R159). -/
def planVrmin (h : Head) (x : FmtV) (s : State) : Plan :=
  reduceOp h x (reduceIdentity x.fmt.toNat false) (minMaxElem x.fmt.toNat false) (allNan x.fmt.toNat) s

/-- VRMIN (R159). -/
def execVrmin (h : Head) (x : FmtV) (s : State) : Res := runPlan (.vrmin h x) (planVrmin h x s) s

/-- A move of elements (R160 to R162): `f` gives the value of an element of vd. -/
def moveOp (h : Head) (vd : Nat) (srcs : List Nat) (w : Nat) (f : Core → Nat → Nat) (s : State) : Plan :=
  let c := s.curCore
  let p := maskPred c h.prd h.pn
  vPlan h (srcs.map rV) none fun s =>
    landElems s (slotNum h.slot) (3 + crossing h.slot (vd :: srcs)) vd w (4096 / w) (lanes p w) fun k => intRes (f c k)

/-- VPERM (R160). -/
def planVperm (h : Head) (x : FmtV) (s : State) : Plan :=
  let w := widthOf x.fmt.toNat
  let va := stepReg h x.va.toNat
  moveOp h (stepReg h x.vd.toNat) (if x.bc = 1 then [va] else [va, stepReg h x.vb.toNat]) w (fun c i =>
    let ix := secondSource c h x.bc x.vb w i
    elem w (c.vGet va) (if w = 8 then i / 256 * 256 + ix else ix % (4096 / w))) s

/-- VPERM (R160). -/
def execVperm (h : Head) (x : FmtV) (s : State) : Res := runPlan (.vperm h x) (planVperm h x s) s

/-- VZIP (R161). -/
def planVzip (h : Head) (x : FmtV) (s : State) : Plan :=
  let w := widthOf x.fmt.toNat
  let va := stepReg h x.va.toNat
  let vb := stepReg h x.vb.toNat
  moveOp h (stepReg h x.vd.toNat) [va, vb] w (fun c i =>
    if i % 2 = 0 then elem w (c.vGet va) (i / 2) else elem w (c.vGet vb) (i / 2)) s

/-- VZIP (R161). -/
def execVzip (h : Head) (x : FmtV) (s : State) : Res := runPlan (.vzip h x) (planVzip h x s) s

/-- VUNZIP (R161). -/
def planVunzip (h : Head) (x : FmtV) (s : State) : Plan :=
  let w := widthOf x.fmt.toNat
  let half := 4096 / w / 2
  let va := stepReg h x.va.toNat
  let vb := stepReg h x.vb.toNat
  moveOp h (stepReg h x.vd.toNat) [va, vb] w (fun c i =>
    if i < half then elem w (c.vGet va) (2 * i) else elem w (c.vGet vb) (2 * (i - half))) s

/-- VUNZIP (R161). -/
def execVunzip (h : Head) (x : FmtV) (s : State) : Res := runPlan (.vunzip h x) (planVunzip h x s) s

/-- VROT (R162). -/
def planVrot (h : Head) (x : FmtJ) (s : State) : Plan :=
  let w := widthOf x.fmt.toNat
  let va := stepReg h x.va.toNat
  moveOp h (stepReg h x.vd.toNat) [va] w (fun c i => elem w (c.vGet va) ((i + x.imm.toNat) % (4096 / w))) s

/-- VROT (R162). -/
def execVrot (h : Head) (x : FmtJ) (s : State) : Res := runPlan (.vrot h x) (planVrot h x s) s

/-- VBCAST (R162). -/
def planVbcast (h : Head) (x : FmtJ) (s : State) : Plan :=
  let w := widthOf x.fmt.toNat
  let va := stepReg h x.va.toNat
  moveOp h (stepReg h x.vd.toNat) [va] w (fun c _ => elem w (c.vGet va) x.imm.toNat) s

/-- VBCAST (R162). -/
def execVbcast (h : Head) (x : FmtJ) (s : State) : Res := runPlan (.vbcast h x) (planVbcast h x s) s

/-- VEXP2 (R163, R164). -/
def planVexp2 (h : Head) (x : FmtV) (s : State) : Plan :=
  vecOp h x true 10 (fun a _ => (floatOf x.fmt.toNat).transc .exp2 x.rm.toNat a) s

/-- VEXP2 (R163, R164). -/
def execVexp2 (h : Head) (x : FmtV) (s : State) : Res := runPlan (.vexp2 h x) (planVexp2 h x s) s

/-- VLOG2 (R163, R164). -/
def planVlog2 (h : Head) (x : FmtV) (s : State) : Plan :=
  vecOp h x true 10 (fun a _ => (floatOf x.fmt.toNat).transc .log2 x.rm.toNat a) s

/-- VLOG2 (R163, R164). -/
def execVlog2 (h : Head) (x : FmtV) (s : State) : Res := runPlan (.vlog2 h x) (planVlog2 h x s) s

/-- VRCP (R163, R164). -/
def planVrcp (h : Head) (x : FmtV) (s : State) : Plan :=
  vecOp h x true 10 (fun a _ => (floatOf x.fmt.toNat).transc .rcp x.rm.toNat a) s

/-- VRCP (R163, R164). -/
def execVrcp (h : Head) (x : FmtV) (s : State) : Res := runPlan (.vrcp h x) (planVrcp h x s) s

/-- VRSQ (R163, R164). -/
def planVrsq (h : Head) (x : FmtV) (s : State) : Plan :=
  vecOp h x true 10 (fun a _ => (floatOf x.fmt.toNat).transc .rsq x.rm.toNat a) s

/-- VRSQ (R163, R164). -/
def execVrsq (h : Head) (x : FmtV) (s : State) : Res := runPlan (.vrsq h x) (planVrsq h x s) s

/-- VTANH (R163, R164). -/
def planVtanh (h : Head) (x : FmtV) (s : State) : Plan :=
  vecOp h x true 10 (fun a _ => (floatOf x.fmt.toNat).transc .tanh x.rm.toNat a) s

/-- VTANH (R163, R164). -/
def execVtanh (h : Head) (x : FmtV) (s : State) : Res := runPlan (.vtanh h x) (planVtanh h x s) s

/-- R166: pair (v1, i1) ranks strictly ahead of pair (v2, i2). -/
def rankedBefore (fmt v1 i1 v2 i2 : Nat) : Bool :=
  if fmt = 6 then
    let a := f32.decode v1
    let b := f32.decode v2
    match a.isNan, b.isNan with
    | true, true => i1 < i2
    | true, false => false
    | false, true => true
    | false, false => ltV false b a || (!ltV false a b && i1 < i2)
  else
    let a := ival (isSignedCode fmt) 32 v1
    let b := ival (isSignedCode fmt) 32 v2
    b < a || (a == b && i1 < i2)

/-- VCX (R165): the higher-ranked pair goes to vd and the lower-ranked to vc. -/
def planVcx (h : Head) (x : FmtW) (s : State) : Plan :=
  let c := s.curCore
  let vd := stepReg h x.vd.toNat
  let va := stepReg h x.va.toNat
  let vb := stepReg h x.vb.toNat
  let vc := stepReg h x.vc.toNat
  let p := maskPred c h.prd h.pn
  let g := fun r i => elem 32 (c.vGet r) i
  let swap := fun i => rankedBefore x.fmt.toNat (g vb i) (g (vb + 1) i) (g va i) (g (va + 1) i)
  vPlan h [rV va, rV (va + 1), rV vb, rV (vb + 1)] none fun s =>
    let lat := 4 + crossing h.slot [vd, vd + 1, va, va + 1, vb, vb + 1, vc, vc + 1]
    let put := fun (s : State) (r hi lo : Nat) =>
      landElems s (slotNum h.slot) lat r 32 128 (fun i => p.getLsbD i) fun i => intRes (if swap i then g hi i else g lo i)
    put (put (put (put s vd vb va) (vd + 1) (vb + 1) (va + 1)) vc va vb) (vc + 1) (va + 1) (vb + 1)

/-- VCX (R165): the higher-ranked pair goes to vd and the lower-ranked to vc. -/
def execVcx (h : Head) (x : FmtW) (s : State) : Res := runPlan (.vcx h x) (planVcx h x s) s

/-- VTWR (R167): a row of a tile register from converted elements. -/
def planVtwr (h : Head) (x : FmtT) (s : State) : Plan :=
  let c := s.curCore
  let wt := widthOf x.tfmt.toNat
  let wv := widthOf x.vfmt.toNat
  let v := stepReg h x.v.toNat
  let k := x.t.toNat * 128 + stepReg h x.idx.toNat
  let p := maskPred c h.prd h.pn
  let f := fun i => convert x.vfmt.toNat x.tfmt.toNat false x.rm.toNat (elem wv (c.vGet v) i)
  vPlan h [rV v] none fun s =>
    let lat := 3 + crossing h.slot [v]
    let row := fun (u : Nat → Nat) => BitVec.ofNat 1024 (packNat wt u (1024 / wt))
    let s1 := land s (slotNum h.slot) lat
      (.tRow k (row fun i => (f i).enc) (row fun i => if lanes p wv i then 2 ^ wt - 1 else 0) false)
    landFlags s1 (slotNum h.slot) lat (flagsOf (lanes p wv) f (1024 / wt))

/-- VTWR (R167): a row of a tile register from converted elements. -/
def execVtwr (h : Head) (x : FmtT) (s : State) : Res := runPlan (.vtwr h x) (planVtwr h x s) s

/-- VTRD (R168): a column of a tile register, converted. It reads the words of its column (R144, R362; DEDUCED, log entry 107). -/
def planVtrd (h : Head) (x : FmtT) (s : State) : Plan :=
  let c := s.curCore
  let wt := widthOf x.tfmt.toNat
  let wv := widthOf x.vfmt.toNat
  let v := stepReg h x.v.toNat
  let col := stepReg h x.idx.toNat
  let p := maskPred c h.prd h.pn
  let rows := (List.range 128).map fun j => ReadUnit.mk 5 (x.t.toNat * 128 + j) (col * wt / 8) (col * wt / 8 + wt / 8)
  vPlan h rows (if 1024 / wt ≤ col then some (illegalOp 0 0) else none) fun s =>
    landElems s (slotNum h.slot) (3 + crossing h.slot [v]) v wv 128 (lanes p wv)
      fun j => convert x.tfmt.toNat x.vfmt.toNat false x.rm.toNat (elem wt (c.tGet (x.t.toNat * 128 + j)) col)

/-- VTRD (R168): a column of a tile register, converted. -/
def execVtrd (h : Head) (x : FmtT) (s : State) : Res := runPlan (.vtrd h x) (planVtrd h x s) s

end Sys2Proof.Machine
end

