-- ==== Sys2Proof/Machine/Matrix.lean ====
section
/-!
DEFINITION. The M slot and the register moves of the K slot: routines and their micro-steps, accumulators and drains
(R170 to R190, R193).
-/
namespace Sys2Proof.Machine

/-! ## The routine table and the micro-steps (R179, R181) -/

/-- R179: the entry is a valid routine. -/
def rtValid (e : Word) : Bool := e.getLsbD 63
/-- R179: index of the first micro-step. -/
def rtStart (e : Word) : Nat := (bits e 51 12).toNat
/-- R179: duration. -/
def rtDur (e : Word) : Nat := (bits e 14 24).toNat
/-- R179: the accumulator offsets that some step names. -/
def rtOffsets (e : Word) : List Nat := (List.range 4).filter fun o => (bits e 10 4).getLsbD o

/-- The micro-step that a routine is at. -/
def stepWord (c : Core) (r : Routine) : Word :=
  Table.get 0 c.usteps (rtStart (Table.get 0 c.routines r.entry) + r.pos)

/-- R345: the step word of a matrix fault. -/
def faultStep (r : Routine) : Word :=
  BitVec.ofNat 8 r.entry ++ 0#12 ++ BitVec.ofNat 12 r.pos ++ 0#20 ++ BitVec.ofNat 12 r.pass

/-- A check of a micro-step: its ARG1 is the step word. -/
def stepFail (r : Routine) (code cause : Nat) (arg0 : Nat) : Check :=
  { code := code, cause := cause, arg0 := BitVec.ofNat 64 arg0, arg1 := faultStep r, handle := 16 }

/-! ## Operands of a step (R171 to R173) -/

/-- The block format of a WFMT code. -/
def wfmtCode (f : Nat) : Nat := 11 + f

/-- Byte `a` and the bytes after it of the weight buffer, `n` of them, as a little-endian number. -/
def wbBytes (c : Core) (a n : Nat) : Nat :=
  let first := a / 64
  let whole := packNat 512 (fun i => (c.wbGet (first + i)).toNat) ((a % 64 + n + 63) / 64)
  whole / 2 ^ (8 * (a % 64)) % 2 ^ (8 * n)

/-- R171: block j of a tile image with this map is stored. -/
def mapBit (map j : Nat) : Bool := map.testBit j

/-- R171: the address of the codes of block j of the tile at line `x`. -/
def codesAt (fmt x map j : Nat) : Nat := x * 64 + 64 + codeBytes fmt * popcount j map

/-- R173: halfword `i` of a half of a scale register. -/
def halfword (c : Core) (h i : Nat) : Nat := elem 16 (c.zGet (h / 2)) (128 * (h % 2) + i)

/-- The block format of a selector BFMT; none for a plain format. -/
def bfmtBlock (b : Nat) : Option Nat := if b = 0 then some 11 else if b = 1 then some 12 else none

/-- R172: 32 elements of a plain format as levels with scale 1. -/
def plainSide (b : Nat) (row : Row) (kb : Nat) : Side :=
  let w := if b = 6 then 16 else 8
  let lv := fun j =>
    let x := elem w row (kb * 32 + j)
    match b with
    | 2 => levelOfI (sval 8 x)
    | 3 => levelOfI x
    | 4 => levelOfF (f8e4.decode x)
    | 5 => levelOfF (f8e5.decode x)
    | _ => levelOfF (f16.decode x)
  ⟨false, false, (List.range 32).map lv, 1, 0⟩

/-- Block `kb` of row `r` of tile `t` as a side of a product. -/
def tileSide (c : Core) (t b kb h r : Nat) : Side :=
  let row := c.tGet (t * 128 + r)
  match bfmtBlock b with
  | some fmt => blockSide (levelsOf c 0) fmt (halfword c h r) (elem (codeBytes fmt * 8) row kb) 0
  | none => plainSide b row kb

/-- The operands that an MMA or MMAN names on the present pass (R181, R182). -/
structure MmaOps where
  ao : Nat
  fmt : Nat                  -- weight format
  line : Nat                 -- tile line X
  ka : Nat
  t : Nat
  kb : Nat
  b : Nat                    -- BFMT
  zha : Nat
  zhb : Nat
deriving DecidableEq, Repr

/-- The operands of an MMA step, with the loop's increments added (R182). -/
def mmaOps (r : Routine) (w : Word) : MmaOps :=
  let l := if r.len = 0 then 0 else r.loopWord
  let add := fun (x : Nat) (lo n : Nat) => x + r.pass * (bits l lo n).toNat
  let (line, fmt) := Table.get (0, 0) r.bindings (bits w 56 2).toNat
  { ao := (bits w 58 2).toNat, fmt := wfmtCode fmt, line := line, ka := add (bits w 54 2).toNat 42 2,
    t := add (bits w 51 3).toNat 36 3, kb := add (bits w 48 3).toNat 39 3, b := (bits w 45 3).toNat,
    zha := add (bits w 39 6).toNat 30 6, zhb := add (bits w 33 6).toNat 24 6 }

/-- R184: the cost of an MMA step. -/
def mmaCost (o : MmaOps) : Nat :=
  if o.fmt = 13 then 16 else if o.b = 6 then 64 else if o.fmt = 11 && o.b = 0 then 16 else 32

/-- The weight rows whose block of column KA is stored. -/
def storedRows (o : MmaOps) (map : Nat) : List Nat :=
  (List.range 128).filter fun c => mapBit map (c * rowBlocks o.fmt + o.ka)

/-- Header and codes of the block of weight row `i` (R171, R173). -/
def weightBlock (c : Core) (o : MmaOps) (map i : Nat) : Nat × Nat :=
  (halfword c o.zha i, wbBytes c (codesAt o.fmt o.line map (i * rowBlocks o.fmt + o.ka)) (codeBytes o.fmt))

/-- Whether a step decodes its B headers: a stored A block that is not a NaN block pairs with them (R183). -/
def decodesB (c : Core) (o : MmaOps) (map : Nat) : Bool :=
  (storedRows o map).any fun i => !isNanBlock (halfword c o.zha i)

/-- The checks of an MMA step, in the order weight bounds, poison, A headers, B headers (R177, R182, R183). A stored block that
reaches past 2 MiB is reported by the line of its first code byte (DEDUCED, log entry 11). -/
def mmaCheck (c : Core) (r : Routine) (o : MmaOps) (map : Nat) : Option Check :=
  let stored := storedRows o map
  let nb := rowBlocks o.fmt
  let addr := fun i => codesAt o.fmt o.line map (i * nb + o.ka)
  match stored.find? fun i => decide (2 ^ 21 < addr i + codeBytes o.fmt) with
  | some i => some (stepFail r 8 0x200 (addr i / 64))
  | none =>
    let lines := o.line :: stored.flatMap fun i => [addr i / 64, (addr i + codeBytes o.fmt - 1) / 64]
    match lines.find? fun l => Table.get false c.wbPoison l with
    | some l => some (stepFail r 9 4 (l * 64))
    | none =>
      match (List.range 128).find? fun i => Table.get false c.tPoison (o.t * 128 + i) with
      | some i => some (stepFail r 9 5 (o.t * 128 + i))
      | none =>
        match stored.find? fun i => !headerOk o.fmt (halfword c o.zha i) with
        | some i => some (stepFail r 10 (i * nb + o.ka) (halfword c o.zha i))
        | none =>
          match bfmtBlock o.b with
          | none => none
          | some fmt =>
            if !decodesB c o map then none
            else
              let halves := if o.fmt = 13 then [(o.zhb, o.kb), (o.zhb + 1, o.kb + 1)] else [(o.zhb, o.kb)]
              let bad := fun (h : Nat) => !headerOk fmt h || (o.fmt = 13 && hSel h != 0 && hSel h != 7)
              let all := (List.range 128).flatMap fun i => halves.map fun (z, kb) => (halfword c z i, kb)
              match all.find? fun (h, _) => bad h with
              | some (h, j) => some (stepFail r 10 j h)
              | none => none

/-- acc ± p for one element, with the flags of both (R77, R183). -/
def accumulate (neg : Bool) (acc : Rounded) (p : Rounded) : Rounded :=
  let v := f32.decode p.enc
  let r := f32.addV 0 (f32.decode acc.enc) (if neg then v.neg else v)
  ⟨r.enc, acc.flags ||| p.flags ||| r.flags⟩

/-- The pairs of sides that one step forms for weight row `i` and tile row `j`: one, or two halves in ternary mode
(R78, R183). -/
def weightSides (c : Core) (o : MmaOps) (map i : Nat) : List Side :=
  if mapBit map (i * rowBlocks o.fmt + o.ka) then
    let (h, codes) := weightBlock c o map i
    if o.fmt = 13 then [blockSide (levelsOf c 0) 13 h codes 0, blockSide (levelsOf c 0) 13 h codes 32]
    else [blockSide (levelsOf c 0) o.fmt h codes 0]
  else if o.fmt = 13 then [absentSide, absentSide] else [absentSide]

/-- One tile row's sides. A selector block whose header the step does not decode gives no NaN and no flag: R183 leaves it
unread (DEDUCED, log entry 105). -/
def tileSides (c : Core) (o : MmaOps) (map j : Nat) : List Side :=
  if (bfmtBlock o.b).isSome && !decodesB c o map then if o.fmt = 13 then [absentSide, absentSide] else [absentSide]
  else if o.fmt = 13 then [tileSide c o.t o.b o.kb o.zhb j, tileSide c o.t o.b (o.kb + 1) (o.zhb + 1) j]
  else [tileSide c o.t o.b o.kb o.zhb j]

/-- One row of the accumulator after a step, and the flags of the row (R183). -/
def mmaRow (neg : Bool) (weights : List (List Side)) (tile : List Side) (acc : Vec) : Vec × BitVec 8 :=
  let out := (List.zip (List.range 128) weights).map fun (i, ws) =>
    (List.zip ws tile).foldl (fun a (x, y) => accumulate neg a (pairProduct x y)) (⟨elem 32 acc i, 0⟩ : Rounded)
  (pack 32 128 fun i => (out.getD i ⟨0, 0⟩).enc, out.foldl (fun f r => f ||| r.flags) 0)

/-- What one MMA or MMAN step computes (R183). -/
def mmaStep (c : Core) (r : Routine) (neg : Bool) (o : MmaOps) (map : Nat) : Routine :=
  let weights := (List.range 128).map (weightSides c o map)
  (List.range 128).foldl (fun r j =>
    let k := o.ao * 128 + j
    let (v, f) := mmaRow neg weights (tileSides c o map j) (Table.get 0 r.work k)
    { r with work := r.work.put k v, flags := r.flags.put k (Table.get 0 r.flags k ||| f) }) r

/-! ## Running a routine (R174 to R182) -/

/-- The routine moves past its step, whose cost in cycles is given; the loop returns to its body while passes are
left (R182). -/
def advance (r : Routine) (cost : Nat) : Routine :=
  let next := r.pos + 1
  let r1 := { r with at_ := r.at_ + cost, pos := next }
  if r.len ≠ 0 && next = r.body + r.len then
    if r.passes = 0 then { r1 with len := 0, pass := 0 } else { r1 with pos := r.body, passes := r.passes - 1, pass := r.pass + 1 }
  else r1

/-- The rows of an accumulator offset replaced, each by `f` of its old value and flags. -/
def mapRows (r : Routine) (o : Nat) (f : Nat → Vec × BitVec 8) : Routine :=
  (List.range 128).foldl (fun r j =>
    let (v, fl) := f j
    { r with work := r.work.put (o * 128 + j) v, flags := r.flags.put (o * 128 + j) fl }) r

/-- A row with every element multiplied by an `.F32` (R181, ASCALE). -/
def scaleRow (f : Nat) (acc : Vec) : Vec × BitVec 8 :=
  let m := fun i => f32.mulV 0 (f32.decode (elem 32 acc i)) (f32.decode f)
  (pack 32 128 fun i => (m i).enc, flagsOf (fun _ => true) m 128)

/-- One micro-step at the cycle at which it begins (R181 to R183). It does not look at the map bits 256 to 511 of a `.TB2` tile (R171;
DESIGN CHOICE, log entry 128). -/
def microStep (c : Core) (r : Routine) : Except Check Routine :=
  let w := stepWord c r
  match (bits w 60 4).toNat with
  | 0 => .ok { r with ended := true }
  | 1 => .ok (advance r ((bits w 44 16).toNat + 1))
  | 2 =>
    let base := if w.getLsbD 55 then Table.get 0 r.regs (bits w 52 3).toNat else 0
    let x := base + (bits w 37 15).setWidth 64 + BitVec.ofNat 64 (r.pass * (bits w 25 12).toNat)
    if 32767 < x.toNat then .error { code := 8, cause := 0x200, arg0 := x, arg1 := faultStep r, handle := 16 }
    else
      let r1 := { r with bindings := r.bindings.put (bits w 58 2).toNat (x.toNat, (bits w 56 2).toNat) }
      .ok (advance r1 4)
  | 3 => mma c r false w
  | 4 => mma c r true w
  | 5 =>
    .ok { r with passes := (bits w 48 12).toNat, pass := 0, body := r.pos + 1, len := (bits w 44 4).toNat, loopWord := w,
                 pos := r.pos + 1 }
  | 6 => .ok (advance (mapRows r (bits w 58 2).toNat fun _ => (0, 0)) 1)
  | 7 =>
    let k := (bits w 57 3).toNat
    let r1 := { r with regs := r.regs.put k (Table.get 0 r.regs k + (bits w 25 32).signExtend 64) }
    .ok (advance r1 1)
  | 8 =>
    let as_ := (bits w 56 2).toNat
    .ok (advance (mapRows r (bits w 58 2).toNat fun j =>
      (Table.get 0 r.work (as_ * 128 + j), Table.get 0 r.flags (as_ * 128 + j))) 16)
  | _ =>
    let ad := (bits w 58 2).toNat
    let f := (Table.get 0 r.regs (bits w 55 3).toNat).toNat % 2 ^ 32
    .ok (advance (mapRows r ad fun j =>
      let (v, fl) := scaleRow f (Table.get 0 r.work (ad * 128 + j))
      (v, Table.get 0 r.flags (ad * 128 + j) ||| fl)) 16)
where
  /-- An MMA or MMAN step with its checks. -/
  mma (c : Core) (r : Routine) (neg : Bool) (w : Word) : Except Check Routine :=
    let o := mmaOps r w
    let map := (c.wbGet o.line).toNat % 2 ^ (128 * rowBlocks o.fmt)
    match mmaCheck c r o map with
    | some k => .error k
    | none => .ok (advance (mmaStep c r neg o map) (mmaCost o))

/-- A routine reads its accumulators at S (R174). -/
def beginRoutine (c : Core) (r : Routine) : Routine :=
  let offs := rtOffsets (Table.get 0 c.routines r.entry)
  let keys := offs.flatMap fun o => (List.range 128).map fun j => (o * 128 + j, (r.acc + o) % 4 * 128 + j)
  let rows := keys.map fun (k, a) => (k, c.accGet a)
  let fl := keys.map fun (k, a) => (k, c.accFlagGet a)
  { r with begun := true, init := rows, initFlags := fl, work := rows, flags := fl, regs := r.params, pos := 0, at_ := r.start
           pass := 0, passes := 0, len := 0, ended := false }

/-- The micro-steps of a routine that begin at or before cycle `upTo`, at most `fuel` of them; the first that fails its
check. -/
def runSteps (c : Core) (upTo : Nat) : Nat → Routine → Routine × Option Check
  | 0, r => (r, none)
  | fuel + 1, r =>
    if r.ended || upTo < r.at_ then (r, none)
    else
      match microStep c r with
      | .ok r1 => runSteps c upTo fuel r1
      | .error k => (r, some k)

/-- A bound on the micro-steps that can begin at or before a cycle: every pass of a loop takes a cycle, and a step of no
cost is LOOP or END. -/
def stepFuel (r : Routine) (upTo : Nat) : Nat := 8192 + 2 * (upTo + 1 - r.start)

/-- Under `%debug.PRT`, the first word that a routine which has waited reads at its start and that is still to be written
(R174, R362; DEDUCED, log entry 12). -/
def startPending (c : Core) (r : Routine) : Option Check :=
  if !c.prt || r.begun || r.issue = r.start then none
  else
    ((rtOffsets (Table.get 0 c.routines r.entry)).flatMap fun o => (List.range 128).map fun j => (r.acc + o) % 4 * 128 + j).findSome?
      fun k =>
        (firstPending (c.writes.foldl (fun acc w => acc ||| pendingBits 6 k w.eff) 0) 0 128).map fun b =>
          { code := 13, cause := 6, arg0 := BitVec.ofNat 64 k, arg1 := BitVec.ofNat 64 b, handle := 16 }

/-- A check of a routine has failed: its placement stops (R177, R345). -/
def routineFault (s : State) (g origin : Nat) (r : Routine) (k : Check) : State :=
  takeFault s g { kind := 1, code := k.code, cause := k.cause, arg0 := k.arg0, arg1 := k.arg1, slot := 3, rep := r.rep
                  origin := origin, issue := r.issue, baddr := r.baddr }

/-- The running routine of a core up to its present cycle: it reads its accumulators at S, and each step acts at the
cycle at which it begins. A step that meets a fault stops the placement there (R175, R177). -/
def runRoutine (s : State) (g cyc : Nat) : State :=
  let c := s.core g
  match c.running with
  | none => s
  | some r =>
    if cyc < r.start then s
    else
      match startPending c r with
      | some k => routineFault s g 0 r k
      | none =>
        let r0 := if r.begun then r else beginRoutine c r
        let (r1, k) := runSteps c cyc (stepFuel r0 cyc) r0
        let s1 := s.updCore g fun c => { c with running := some r1 }
        match k with
        | none => s1
        | some k => routineFault s1 g 3 r k

/-- ROUTINE_START (R175): at the end cycle of the routine before it, or at its issue, a routine starts and reads its
accumulators; its steps up to the core's present cycle act. -/
def execRoutineStart (g : Nat) (s : State) : Res := .next (runRoutine s g (s.core g).cycle)

/-- The rows that a routine lands, with their flags (R174). -/
def routineWritesOf (c : Core) (r : Routine) : List Write :=
  (rtOffsets (Table.get 0 c.routines r.entry)).flatMap fun o => (List.range 128).map fun j =>
    { due := r.stop, issue := r.issue, slot := 3,
      eff := .accRow ((r.acc + o) % 4 * 128 + j) (Table.get 0 r.work (o * 128 + j)) (Table.get 0 r.flags (o * 128 + j)) }

/-- The M-class NOP (R190) does nothing. -/
def planMNop (h : Head) (x : FmtM) (s : State) : Plan :=
  flagPlan h s.curCore [] none id id

/-- The M-class NOP (R190) does nothing. -/
def execMNop (h : Head) (x : FmtM) (s : State) : Res := runPlan (.mNop h x) (planMNop h x s) s

/-- The K-class NOP (R190) does nothing. -/
def planKNop (h : Head) (x : FmtK) (s : State) : Plan :=
  flagPlan h s.curCore [] none id id

/-- The K-class NOP (R190) does nothing. -/
def execKNop (h : Head) (x : FmtK) (s : State) : Res := runPlan (.kNop h x) (planKNop h x s) s

/-- What an MCALL reads under pending-read mode: the parameter registers, and the accumulators when it starts at its
issue (R174, R362). -/
def mcallReads (c : Core) (entry acc : Nat) (bc : Bool) : List ReadUnit :=
  let ps := (List.range (if bc then 7 else 8)).map fun k => ReadUnit.mk 7 k 0 8
  if c.running.isSome then ps
  else ps ++ (rtOffsets (Table.get 0 c.routines entry)).flatMap fun o =>
    (List.range 128).map fun j => ReadUnit.mk 6 ((acc + o) % 4 * 128 + j) 0 512

/-- MCALL (R89, R174): starts a routine, or queues it behind the running one. -/
def planMcall (h : Head) (x : FmtM) (s : State) : Plan :=
  let c := s.curCore
  let k := x.rout.toNat
  let n := stepReg h x.acc.toNat
  let bc := x.bc == 1
  let en := Table.get 0 c.routines k
  let ok := rtValid en && !(c.running.isSome && c.waiting.isSome)
  flagPlan h c (mcallReads c k n bc) (if ok then none else some (illegalOp 0 0)) (fun s =>
    let ps : Table Word := (List.range 8).map fun i => (i, if bc && i = 7 then h.bcv else c.aGet i)
    let start := match c.running with
      | none => c.iCyc
      | some r => r.stop
    let r : Routine :=
      { entry := k, acc := n, params := ps, regs := ps, issue := c.iCyc, baddr := c.iPc, rep := c.iRep, start := start,
        stop := start + rtDur en, begun := false, init := [], initFlags := [], work := [], flags := [], bindings := [],
        pos := 0, at_ := start, passes := 0, pass := 0, body := 0, len := 0, loopWord := 0, ended := false }
    let s1 := if bc then land s (slotNum h.slot) 1 (.aReg 7 h.bcv) else s
    s1.updCur fun d => match d.running with
      | none => { d with running := some r }
      | some _ => { d with waiting := some r }) id

/-- MCALL (R89, R174): starts a routine, or queues it behind the running one. -/
def execMcall (h : Head) (x : FmtM) (s : State) : Res := runPlan (.mcall h x) (planMcall h x s) s

/-- MZERO (R186): the accumulator becomes +0 at issue + 2. -/
def planMzero (h : Head) (x : FmtM) (s : State) : Plan :=
  flagPlan h s.curCore [] none (fun s => land s (slotNum h.slot) 2 (.accZero (stepReg h x.acc.toNat))) id

/-- MZERO (R186): the accumulator becomes +0 at issue + 2. -/
def execMzero (h : Head) (x : FmtM) (s : State) : Res := runPlan (.mzero h x) (planMzero h x s) s

/-! ## Drains (R187 to R189) -/

/-- The check of a post-processing descriptor (R187): CAUSE 9 for a non-zero zq with a float OFMT. A value that the table of R187 reserves
or wants zero, and its list of faults does not name, is an illegal operation too (DESIGN CHOICE, log entry 127). -/
def drainCheck (d : Word) (zq : Nat) : Option Check :=
  let f := (bits d 0 4).toNat
  let float := f = 6 || f = 7 || f = 8
  let block := f = 11 || f = 12 || f = 13
  let ok := bits d 34 30 == 0 && (float || block) && (bits d 23 2 != 3) &&
    (if d.getLsbD 12 then decide ((bits d 13 10).toNat < 640) else bits d 13 10 == 0) &&
    (d.getLsbD 6 || bits d 7 5 == 0) &&
    (if float then bits d 25 8 == 0 && !d.getLsbD 33 else bits d 4 2 == 0 && candOk (bits d 0 4) (bits d 25 8))
  if !ok then some (illegalOp 0 0) else if float && zq != 0 then some (illegalOp 9 0) else none

/-- One element through scale, bias and activation (R188). -/
def drainElem (d : Word) (rm : Nat) (z bias : Vec) (acc : Vec) (i : Nat) : Rounded :=
  let x0 : Rounded := ⟨elem 32 acc i, 0⟩
  let then_ := fun (a : Rounded) (r : Rounded) => Rounded.mk r.enc (a.flags ||| r.flags)
  let x1 := if d.getLsbD 6 then then_ x0 (f32.mulV rm (f32.decode x0.enc) (f32.decode (elem 32 z i))) else x0
  let x2 := if d.getLsbD 12 then then_ x1 (f32.addV rm (f32.decode x1.enc) (f32.decode (elem 32 bias i))) else x1
  match (bits d 23 2).toNat with
  | 1 =>
    match f32.decode x2.enc with
    | .nan _ => ⟨f32.nan, x2.flags⟩
    | v => if ltV false (.num false 0 0) v then x2 else ⟨0, x2.flags⟩
  | 2 => then_ x2 (f32.transc .tanh rm x2.enc)
  | _ => x2

/-- R189: the kept blocks, their codes packed from byte 0, and the presence map. -/
def compressBlocks (fmt nb : Nat) (q : Nat → QBlock) : Nat × Nat :=
  let kept := (List.range nb).filter fun b => !elidable fmt (q b).header (q b).codes
  (packNat (codeBytes fmt * 8) (fun i => (q (kept.getD i 0)).codes) kept.length, kept.foldl (fun m b => m + 2 ^ b) 0)

/-- MDRAIN (R187 to R189). -/
def planMdrain (h : Head) (x : FmtD) (s : State) : Plan :=
  let c := s.curCore
  let d := c.aGet x.ap.toNat
  let row := x.acc.toNat * 128 + stepReg h x.row.toNat
  let vd := stepReg h x.vd.toNat
  let zq := stepReg h x.zq.toNat
  let f := (bits d 0 4).toNat
  let block := 11 ≤ f
  let sz := (bits d 7 5).toNat
  let bv := (bits d 13 10).toNat
  let reads := [ReadUnit.mk 7 x.ap.toNat 0 8, ReadUnit.mk 6 row 0 512] ++ (if d.getLsbD 6 then [rZ sz] else []) ++
    (if d.getLsbD 12 then [rV bv] else [])
  let check := if block && f ≤ 13 && 32 ≤ zq then some (illegalOp 12 0) else drainCheck d x.zq.toNat
  flagPlan h c reads check (fun s =>
    let rm := if block then 0 else (bits d 4 2).toNat
    let y := fun i => drainElem d rm (c.zGet sz) (c.vGet bv) (c.accGet row) i
    let fl := c.accFlagGet row ||| flagsOf (fun _ => true) y 128
    let sl := slotNum h.slot
    if block then
      let ys := (List.range 128).map fun i => (y i).enc
      let nb := 128 / blockElems f
      let q := fun b => quantBlock (levelsOf c 0) f (bits d 25 8).toNat ((ys.drop (b * blockElems f)).take (blockElems f))
      let s2 :=
        if d.getLsbD 33 then
          let (codes, map) := compressBlocks f nb q
          let cw := nb * codeBytes f * 8
          let hdrs := packNat 16 (fun b => (q b).header) nb + map * 2 ^ 64
          let s1 := land s sl 10 (.vReg vd (BitVec.ofNat 4096 codes) (BitVec.ofNat 4096 (2 ^ cw - 1)))
          let en := 2 ^ (16 * nb) - 1 ||| (2 ^ 16 - 1) * 2 ^ 64
          landFlags (land s1 sl 10 (.zReg zq (BitVec.ofNat 4096 hdrs) (BitVec.ofNat 4096 en))) sl 10
            (flagsOf (fun _ => true) (fun b => ⟨0, flagIf (q b).clamp fQCLAMP⟩) nb)
        else landBlocks s sl 10 f vd zq nb (fun _ => true) q
      landFlags s2 sl 10 fl
    else
      let r := fun i => let v := y i; let o := convert 6 f false (bits d 4 2).toNat v.enc; Rounded.mk o.enc (v.flags ||| o.flags)
      landFlags (landElems s sl 10 vd (widthOf f) 128 (fun _ => true) r) sl 10 fl) id

/-- MDRAIN (R187 to R189). -/
def execMdrain (h : Head) (x : FmtD) (s : State) : Res := runPlan (.mdrain h x) (planMdrain h x s) s

/-! ## Register moves of the K slot (R193) -/

/-- KMVV (R193). -/
def planKmvv (h : Head) (x : FmtZ) (s : State) : Plan :=
  let c := s.curCore
  let v := stepReg h x.v.toNat
  flagPlan h c [rV v] none (fun s => land s (slotNum h.slot) 6 (.zReg (stepReg h x.zd.toNat) (c.vGet v) (full 4096))) id

/-- KMVV (R193). -/
def execKmvv (h : Head) (x : FmtZ) (s : State) : Res := runPlan (.kmvv h x) (planKmvv h x s) s

/-- KMVZ (R193). -/
def planKmvz (h : Head) (x : FmtZ) (s : State) : Plan :=
  let c := s.curCore
  let z := stepReg h x.za.toNat
  flagPlan h c [rZ z] none (fun s => land s (slotNum h.slot) 6 (.vReg (stepReg h x.v.toNat) (c.zGet z) (full 4096))) id

/-- KMVZ (R193). -/
def execKmvz (h : Head) (x : FmtZ) (s : State) : Res := runPlan (.kmvz h x) (planKmvz h x s) s

/-- KMOV (R193): the parameter registers from a scale register. -/
def planKmov (h : Head) (x : FmtZ) (s : State) : Plan :=
  let c := s.curCore
  let z := stepReg h x.za.toNat
  flagPlan h c [⟨8, z, 0, 64⟩] none (fun s =>
    landAll s (slotNum h.slot) 6 ((List.range 8).map fun k => .aReg k (BitVec.ofNat 64 (elem 64 (c.zGet z) k)))) id

/-- KMOV (R193): the parameter registers from a scale register. -/
def execKmov (h : Head) (x : FmtZ) (s : State) : Res := runPlan (.kmov h x) (planKmov h x s) s

/-- KLTL (R193): a level table from a vector register. -/
def planKltl (h : Head) (x : FmtZ) (s : State) : Plan :=
  let c := s.curCore
  let v := stepReg h x.v.toNat
  flagPlan h c [⟨4, v, 0, 32⟩] none (fun s =>
    land s (slotNum h.slot) 6 (.levelTable x.tb.toNat ((c.vGet v).setWidth 256))) id

/-- KLTL (R193): a level table from a vector register. -/
def execKltl (h : Head) (x : FmtZ) (s : State) : Res := runPlan (.kltl h x) (planKltl h x s) s

end Sys2Proof.Machine
end

