-- ==== Sys2Proof/Machine/Copy.lean ====
section
/-!
DEFINITION. Copy commands: how they queue (R202 to R206), their elements by kind (R207 to R216), the commands of format F
(R217), and the three steps of an engine: start, element, completion.
-/
namespace Sys2Proof.Machine

/-! ## The descriptor (R206) -/

/-- Word `i` of a descriptor. -/
def dWord (m : Command) (i : Nat) : Word := m.desc.getD i 0
/-- R206: the number of elements along dimension `k`. -/
def dCount (d : List Word) (k : Nat) : Nat :=
  let w := d.getD 2 0
  if k = 0 then (bits w 0 16).toNat + 1 else (bits w (7 + 9 * k) 9).toNat + 1
/-- R206: the elements of a nested command. -/
def dTotal (d : List Word) : Nat := (List.range 6).foldl (fun acc k => acc * dCount d k) 1
/-- R206: source stride of dimension `k`, from 1 on. -/
def dSS (d : List Word) (k : Nat) : Int := (bits (d.getD (2 + k) 0) 0 32).toInt
/-- R206: destination stride of dimension `k`, from 1 on. -/
def dDS (d : List Word) (k : Nat) : Int := (bits (d.getD (2 + k) 0) 32 32).toInt
/-- R206: the banks declared. -/
def dBanks (d : List Word) : BitVec 32 := bits (d.getD 8 0) 0 32
/-- R206: the auxiliary offset. -/
def dXoff (d : List Word) : Nat := (bits (d.getD 8 0) 32 32).toNat

/-- The index along dimension `k` of element `n` (R207: dimension 0 fastest). -/
def dIndex (d : List Word) (k n : Nat) : Nat := n / (List.range k).foldl (fun acc i => acc * dCount d i) 1 % dCount d k

/-- R207: the offset of element `n` from a start, an element step and strides. -/
def nestedOffset (d : List Word) (start : Int) (es : Nat) (stride : Nat → Int) (n : Nat) : Int :=
  [1, 2, 3, 4, 5].foldl (fun acc k => acc + (dIndex d k n : Int) * stride k) (start + (dIndex d 0 n * es : Nat))

/-- The width in bytes of an element of CPY and MCAST (R208). -/
def copyWidth (fmt : Nat) : Nat := if fmt = 14 then 16 else if 11 ≤ fmt then 1 else widthOf fmt / 8

/-- Element steps of source and destination (R208). -/
def elemSteps (m : Command) (fs fd : Nat) : Nat × Nat :=
  match m.kind with
  | .cpyc => (1, 2)
  | .cpyq => (4 * blockElems fd, codeBytes fd)
  | .cpyx => (codeBytes fs, blockElems fs * widthOf fd / 8)
  | .cpyz => (128 * rowBlocks fs * codeBytes fs, 64 * imageLines fs)
  | .wbld => (if (dWord m 9).getLsbD 15 then 64 * imageLines (11 + (bits (dWord m 9) 16 2).toNat) else 64, 0)
  | _ => (copyWidth fs, copyWidth fs)

/-! ## What an element reads and writes -/

/-- Why an element does not go through: a fault, or lines of another device that have to be fetched first. -/
inductive Halt where
  | fault (k : Check)
  | need (lines : List Span)
deriving DecidableEq, Repr

/-- What an element does: the lines that it writes to memory and to the weight buffer, each with the poison mark that it carries,
the conversion table it loads, the flags it raises, and whether `zero` mode zeroed or dropped. -/
structure ElemAct where
  writes : List LineWrite
  lines : List (Nat × Line × Line × Bool)
  table : Option (List Byte)
  flags : BitVec 8
  dropped : Bool
deriving DecidableEq, Repr

/-- Bytes with their poison marks: a mark goes with every byte of its line (R201, R216). -/
abbrev Marked := List (Byte × Bool)

/-- Bytes that carry no mark. -/
def clean (d : List Byte) : Marked := d.map fun b => (b, false)

/-- The lines of a write, each poisoned if a byte that it takes is. -/
def lineWrites (spans : List Span) (d : Marked) : List LineWrite :=
  (linesOf spans).map fun sp =>
    let x := (d.drop sp.off).take sp.len
    { pa := sp.pa, data := x.map (·.1), poison := x.any (·.2) }

/-- An element that only writes memory. -/
def ElemAct.store (ws : List LineWrite) (flags : BitVec 8) (dropped : Bool) : ElemAct :=
  { writes := ws, lines := [], table := none, flags := flags, dropped := dropped }

/-- A span lies in an own-hive bank that the command has not declared (R203). -/
def undeclared (g : Nat) (m : Command) (spans : List Span) : Bool :=
  (linesOf spans).any fun sp => isScratch sp.pa && hiveOf sp.pa = hiveOfCore g && !(dBanks m.desc).getLsbD (bankOf sp.pa)

/-- The accesses of a command that R203 holds to its banks: CTLD has no such field (DEDUCED, log entry 111), and MCAST forms its
destination in the own hive also where it does not write there. -/
def heldToBanks (s : State) (g : Nat) (m : Command) (write : Bool) : Bool :=
  match m.kind with
  | .ctld => false
  | .mcast => !write || (dWord m 9).getLsbD (s.core g).hive
  | _ => true

/-- The address of an element access through a record as the command read it: a handle that was not valid then is found so here
(R196 to R198, R203, R363). -/
def engineForm (s : State) (g : Nat) (m : Command) (r : CopyRec) (write : Bool) (size : Nat) (off : Int) :
    Except Halt Formed :=
  let ord := fun (k : Check) => Halt.fault (if k.code = 5 then k else { k with arg1 := BitVec.ofNat 64 m.ord })
  match handleUse r.buf.hnum r.handle write (r.buf.base + off.toNat) with
  | some k => .error (ord k)
  | none =>
    match formParts r.num r.buf r.handle size size 1 [(0, off)] with
    | .error k => .error (ord k)
    | .ok f =>
      match addressCheck s write f.spans with
      | some k => .error (ord k)
      | none => if heldToBanks s g m write && undeclared g m f.spans then .error (ord (boundsCheck r.num off)) else .ok f

/-- Lines that the element has not read yet. -/
def missing (m : Command) (spans : List Span) : List Span :=
  (linesOf spans).filter fun sp =>
    match m.fetched.find sp.pa with
    | some (d, _) => d.length < sp.len
    | none => true

/-- The bytes of a line that has been read, with its mark. -/
def lineRead (m : Command) (sp : Span) : Marked :=
  match m.fetched.find sp.pa with
  | some (d, p) => (d.take sp.len).map fun b => (b, p)
  | none => []

/-- What an element reads: its bytes with their marks, zero where nothing is read, and its first poisoned line; or the lines that
its engine has to read first. -/
def readSource (m : Command) (size : Nat) (a : Formed) : Except Halt (Marked × Option Nat) :=
  let need := missing m a.spans
  if !need.isEmpty then .error (.need need)
  else
    let d := (linesOf a.spans).foldl (fun acc sp => acc ++ clean (List.replicate (sp.off - acc.length) 0) ++ lineRead m sp) []
    .ok (d ++ clean (List.replicate (size - d.length) 0),
      ((linesOf a.spans).find? fun sp => (lineRead m sp).any (·.2)).map fun sp => sp.pa / 64 * 64)

/-- A poisoned source line is a fault for the kinds that use its values (R216, R344). -/
def noPoison (m : Command) (p : Option Nat) : Except Halt Unit :=
  match p with
  | none => .ok ()
  | some pa =>
    .error (.fault { code := 9, cause := 3, arg0 := BitVec.ofNat 64 pa, arg1 := BitVec.ofNat 64 m.ord, handle := 16 })

/-- The little-endian number of bytes read. -/
def numOf (d : Marked) : Nat := leNat (d.map (·.1))

/-- A fault of an element that is not one of its address. -/
def elemFault (m : Command) (code cause arg0 : Nat) : Halt :=
  .fault { code := code, cause := cause, arg0 := BitVec.ofNat 64 arg0, arg1 := BitVec.ofNat 64 m.ord, handle := 16 }

/-- The destination in the virtual hive `v` of a byte of the core's own hive (R215). -/
def mcastAddr (s : State) (g v pa : Nat) : Nat :=
  let hive := match (s.core g).launch with
    | some l =>
      match s.launch? l with
      | some x => ((x.cores.find? fun k => (s.core k).hive == v).map hiveOfCore).getD (hiveOfCore g)
      | none => hiveOfCore g
    | none => hiveOfCore g
  scratchBase + hive * 0x1000000 + (pa - scratchBase) % 0x1000000

/-- A weight-buffer line as written from bytes: the bytes beyond them stay; poisoned if one of them is. -/
def wbLine (line : Nat) (d : Marked) : Nat × Line × Line × Bool :=
  (line, BitVec.ofNat 512 (numOf d), BitVec.ofNat 512 (2 ^ (8 * d.length) - 1), d.any (·.2))

/-- Bytes cut into weight-buffer lines from `line` on. -/
def wbLines : Nat → Nat → Marked → List (Nat × Line × Line × Bool)
  | 0, _, _ => []
  | fuel + 1, line, d => if d.isEmpty then [] else wbLine line (d.take 64) :: wbLines fuel (line + 1) (d.drop 64)

/-- The compressed image of a tile of `n` blocks: presence map, then the codes of the kept blocks (R171, R212). -/
def tileImage (fmt n : Nat) (codes hdrs : List Byte) : List Byte :=
  let cb := codeBytes fmt
  let block := fun j => (codes.drop (j * cb)).take cb
  let kept := (List.range n).filter fun j =>
    !elidable fmt (leNat ((hdrs.drop (2 * j)).take 2)) (leNat (block j))
  leBytes 64 (kept.foldl (fun acc j => acc + 2 ^ j) 0) ++ kept.flatMap block

/-- The element at the command's ord (R207 to R216). A poisoned table line is a fault for CTLD (DEDUCED, log entry 112); a poisoned index
line is one for GATH, and marks what SCAT writes (DESIGN CHOICE, log entry 130). A WBLD with TILE = 1 reads its map and its image by two
accesses, each clamped or zeroed by its own size (DESIGN CHOICE, log entry 149). -/
def element (s : State) (g e : Nat) (m : Command) : Except Halt ElemAct := do
  let src := m.src.getD ⟨0, BufRec.reset, Handle.reset⟩
  let dst := m.dst.getD ⟨0, BufRec.reset, Handle.reset⟩
  let srcN := m.srcNext.getD ⟨0, BufRec.reset, Handle.reset⟩
  let dstN := m.dstNext.getD ⟨0, BufRec.reset, Handle.reset⟩
  let fs := src.buf.fmt.toNat
  let fd := dst.buf.fmt.toNat
  let (es, ed) := elemSteps m fs fd
  let sa := nestedOffset m.desc (dWord m 0).toInt es (dSS m.desc) m.ord
  let da := nestedOffset m.desc (dWord m 1).toInt ed (dDS m.desc) m.ord
  let parm := dWord m 9
  match m.kind with
  | .cpyc =>
    let a ← engineForm s g m src false 1 sa
    let b ← engineForm s g m dst true 2 da
    let (d, p) ← readSource m 1 a
    noPoison m p
    pure (.store (lineWrites b.spans (clean (leBytes 2 ((s.core g).convGet e (numOf d)).toNat))) 0 (a.dropped || b.dropped))
  | .cpyq =>
    let a ← engineForm s g m src false es sa
    let b ← engineForm s g m dst true ed da
    let hd ← engineForm s g m dstN true 2 (dXoff m.desc + 2 * m.ord : Nat)
    let (d, p) ← readSource m es a
    noPoison m p
    let xs := (List.range (blockElems fd)).map fun i => numOf ((d.drop (4 * i)).take 4)
    let q := quantBlock (levelsOf (s.core g) e) fd (bits parm 0 8).toNat xs
    pure (.store (lineWrites b.spans (clean (leBytes ed q.codes)) ++ lineWrites hd.spans (clean (leBytes 2 q.header)))
      (flagIf q.clamp fQCLAMP) (a.dropped || b.dropped || hd.dropped))
  | .cpyx =>
    let hd ← engineForm s g m srcN false 2 (dXoff m.desc + 2 * m.ord : Nat)
    let (h, ph) ← readSource m 2 hd
    noPoison m ph
    let hv := numOf h
    if !headerOk fs hv then .error (elemFault m 10 m.ord hv)
    let a ← engineForm s g m src false es sa
    let b ← engineForm s g m dst true ed da
    let (d, p) ← readSource m es a
    noPoison m p
    let t := levelsOf (s.core g) e
    let r := fun i => blockElem t fs hv (codeAt fs (numOf d) i) (floatOf fd) (bits parm 0 2).toNat
    let out := (List.range (blockElems fs)).flatMap fun i => leBytes (widthOf fd / 8) (r i).enc
    pure (.store (lineWrites b.spans (clean out)) (flagsOf (fun _ => true) r (blockElems fs)) (hd.dropped || a.dropped || b.dropped))
  | .cpyz =>
    let n := 128 * rowBlocks fs
    let hd ← engineForm s g m srcN false (2 * n) (dXoff m.desc + 2 * n * m.ord : Nat)
    let a ← engineForm s g m src false es sa
    let (h, ph) ← readSource m (2 * n) hd
    noPoison m ph
    match (List.range n).find? fun j => !headerOk fs (numOf ((h.drop (2 * j)).take 2)) with
    | some j => .error (elemFault m 10 j (numOf ((h.drop (2 * j)).take 2)))
    | none =>
      let (d, p) ← readSource m es a
      noPoison m p
      let img := tileImage fs n (d.map (·.1)) (h.map (·.1))
      let b ← engineForm s g m dst true img.length da
      pure (.store (lineWrites b.spans (clean img)) 0 (hd.dropped || a.dropped || b.dropped))
  | .wbld =>
    let line0 := (bits parm 0 15).toNat
    if parm.getLsbD 15 then
      let wf := 11 + (bits parm 16 2).toNat
      let a ← engineForm s g m src false 64 sa
      let (map, _) ← readSource m 64 a
      let mv := numOf map
      if wf = 13 && mv / 2 ^ 256 != 0 then .error (elemFault m 10 0 (mv / 2 ^ 256 % 2 ^ 64))
      let n := 64 + codeBytes wf * popcount 512 mv
      let b ← engineForm s g m src false n sa
      let (d, _) ← readSource m n b
      let line := line0 + m.ord * imageLines wf
      let last := line + (n + 63) / 64 - 1
      if 32767 < last then .error (elemFault m 8 0x200 (Nat.max line 32768))
      pure { writes := [], lines := wbLines (n / 64 + 2) line d, table := none, flags := 0, dropped := a.dropped || b.dropped }
    else
      let line := line0 + m.ord
      let a ← engineForm s g m src false 64 sa
      if 32767 < line then .error (elemFault m 8 0x200 line)
      let (d, _) ← readSource m 64 a
      pure { writes := [], lines := [wbLine line d], table := none, flags := 0, dropped := a.dropped }
  | .gath =>
    let len := (bits parm 0 16).toNat + 1
    let x ← engineForm s g m srcN false 4 (dXoff m.desc + 4 * m.ord : Nat)
    let (i, pi) ← readSource m 4 x
    noPoison m pi
    let a ← engineForm s g m src false len ((dWord m 0).toInt + (numOf i * src.buf.str1 : Nat))
    let b ← engineForm s g m dst true len ((dWord m 1).toInt + (m.ord * len : Nat))
    let (d, p) ← readSource m len a
    noPoison m p
    pure (.store (lineWrites b.spans d) 0 (x.dropped || a.dropped || b.dropped))
  | .scat =>
    let len := (bits parm 0 16).toNat + 1
    let x ← engineForm s g m dstN false 4 (dXoff m.desc + 4 * m.ord : Nat)
    let (i, pi) ← readSource m 4 x
    let a ← engineForm s g m src false len ((dWord m 0).toInt + (m.ord * len : Nat))
    let b ← engineForm s g m dst true len ((dWord m 1).toInt + (numOf i * dst.buf.str1 : Nat))
    let (d, _) ← readSource m len a
    pure (.store (lineWrites b.spans (d.map fun (v, p) => (v, p || pi.isSome))) 0 (x.dropped || a.dropped || b.dropped))
  | .mcast =>
    let a ← engineForm s g m src false es sa
    let b ← engineForm s g m dst true ed da
    let (d, _) ← readSource m es a
    let dests := (List.range 24).filter fun v => parm.getLsbD v
    pure (.store (dests.flatMap fun v => lineWrites (b.spans.map fun sp => { sp with pa := mcastAddr s g v sp.pa }) d) 0
      (a.dropped || b.dropped))
  | .ctld =>
    let a ← engineForm s g m src false 512 (BitVec.ofNat 64 m.off).toInt
    let (d, p) ← readSource m 512 a
    noPoison m p
    pure { writes := [], lines := [], table := some (d.map (·.1)), flags := 0, dropped := a.dropped }
  | .cpy =>
    let a ← engineForm s g m src false es sa
    let b ← engineForm s g m dst true ed da
    let (d, _) ← readSource m es a
    pure (.store (lineWrites b.spans d) 0 (a.dropped || b.dropped))
  | _ => pure (.store [] 0 false)

/-! ## The steps of an engine -/

/-- A command of an engine replaced by a change of its head. -/
def updHead (s : State) (g e : Nat) (u : Command → Command) : State :=
  s.updCore g fun c =>
    match c.cmdsOf e with
    | m :: rest => c.setCmds e (u m :: rest)
    | [] => c

/-- COPY_COMMAND_START (R202): the engine begins the command at the head of its queue. -/
def execCopyCommandStart (g e : Nat) (s : State) : Res :=
  match (s.core g).cmdsOf e with
  | [] => .next s
  | m :: _ =>
    if m.started || !mayStart s g m then .next s
    else
      let s1 := updHead s g e fun m => { m with started := true }
      .next (match m.kind with
        | .cfence | .cacq | .crel => if mayComplete s g e m then s1.due s.now keyReply (.copyCommandComplete g e) else s1
        | _ => nextElement s1 g e)

/-- Put lines into the weight buffer of a core; the mark of a line is set by poisoned data and cleared by a whole clean
line (R201, R213). -/
def wbWrite (ls : List (Nat × Line × Line × Bool)) (c : Core) : Core :=
  ls.foldl (fun c (l, v, en, p) =>
    let mark := if p then true else if en = full 512 then false else Table.get false c.wbPoison l
    { c with wb := Table.put c.wb l (merge (c.wbGet l) v en), wbPoison := Table.put c.wbPoison l mark }) c

/-- A command's lines go into the weight buffer: those of the present region take their place in the undo log, those of an
earlier one change what the log would restore (R355). -/
def putWbLines (s : State) (g region : Nat) (ls : List (Nat × Line × Line × Bool)) : State :=
  let s1 := s.updCore g fun c =>
    { wbWrite ls c with region := ls.foldl (fun r (l, _, _, _) => logUnit r (9 * 2 ^ 20 + l) 64) c.region }
  if region = (s.core g).region.num then s1 else updPoint s1 g (wbWrite ls)

/-- An element has read what it needs: the lines that it writes are to go one by one, its lines of the weight buffer and its table
are written, and ord moves on (R207). -/
def applyElement (s : State) (g e : Nat) (m : Command) (a : ElemAct) : State :=
  let s2 := putWbLines s g m.region a.lines
  let s3 := match a.table with
    | none => s2
    | some d =>
        let load := fun (c : Core) =>
          { c with conv := (List.range 256).foldl (fun t i =>
                     Table.put t (e * 256 + i) (BitVec.ofNat 16 (leNat ((d.drop (2 * i)).take 2)))) c.conv
                   convBf := putBit c.convBf e m.bf16 }
        let s3 := s2.updCore g fun c => { load c with region := logUnit c.region (11 * 2 ^ 20 + 2 + e) 512 }
        if m.region = (s2.core g).region.num then s3 else updPoint s3 g load
  let s4 := s3.updCore g fun c => if a.dropped && !m.oob then { c with oob := c.oob + 1 } else c
  updHead s4 g e fun m =>
    { m with ord := m.ord + 1, flags := m.flags ||| a.flags, oob := m.oob || a.dropped, fetched := [], todo := a.writes }

/-- The placement of a core runs, or its launch only drains. -/
def engineRuns (s : State) (g : Nat) : Bool :=
  match (s.core g).launch with
  | none => false
  | some l =>
    match s.launch? l with
    | some x => x.state == .running
    | none => false

/-- An engine pauses before its next element. -/
def pauseEngine (s : State) (g e : Nat) : State := updHead s g e fun m => { m with paused := true }

/-- A line of an element that is read. -/
def readPiece (sp : Span) : Piece :=
  { pa := sp.pa, off := 0, len := sp.len, bytes := [], due := 0, done := false, poisoned := false }

/-- A line of an element that is written. -/
def writePiece (w : LineWrite) : Piece :=
  { pa := w.pa, off := 0, len := w.data.length, bytes := w.data.map some, due := 0, done := false, poisoned := w.poison }

/-- An element access in one slice performs after the engine's earlier ones there: a read waits for writes that are still open
(R251). -/
def mustWait (s : State) (g e pa : Nat) : Bool :=
  (engineOpen s g e).any fun (_, a) => a.pieces.any fun q => sliceOf s q.pa == sliceOf s pa

/-- A fault that a core has met is raised. One of an element is not where the placement has stopped before, or the core has a record for
this stop already: then the element meets it again once the placement goes on (R345, R347). -/
def raiseOne (g : Nat) (s : State) (f : FaultInfo × Nat) : State :=
  match (s.core g).launch with
  | none => s
  | some l =>
    match s.launch? l with
    | none => s
    | some x =>
      let now_ := x.state = .running || (x.state = .stopped && x.stopAt = s.now)
      if f.1.origin = 2 && (!now_ || x.stops.any fun r => r.g == g && r.answer.isNone) then s
      else stopWithRecord s g l f.1 (if f.1.kind = 3 then 3 else 2) f.2 (s.core g).cycle

/-- The faults that a core has met in this reference cycle are raised (R345). -/
def raiseMet (s : State) (g : Nat) : State := (s.core g).elFault.foldl (raiseOne g) (s.updCore g fun c => { c with elFault := [] })

/-- An engine of a stopped placement is at the end of an element: it reads no line of the next and has none of the last to write (R347). -/
def betweenElements (s : State) (g e : Nat) (m : Command) : Bool :=
  m.fetched.isEmpty && m.todo.isEmpty && !((engineOpen s g e).any fun (_, a) => a.kind == .read)

/-- COPY_ELEMENT (R202, R207, R216): the engine moves one line: it writes the next line of an element that has been read, or reads
the next line that the element at ord needs; the element's fault stops the placement there, and the element reads anew when it goes on
(R351). While the placement is stopped the engine finishes the element in progress and pauses (R347). As the step of no engine but of the
core (`e` = 2) it raises the faults that the core has met (R345). -/
def execCopyElement (g e : Nat) (s : State) : Res :=
  if e = 2 && !(s.core g).elFault.isEmpty then .next (raiseMet s g) else
  match (s.core g).cmdsOf e with
  | [] => .next s
  | m :: _ =>
    if !m.started || m.paused || (m.total ≤ m.ord && m.todo.isEmpty) then .next s
    else if !engineRuns s g && betweenElements s g e m then .next (pauseEngine s g e)
    else
      match m.todo with
      | w :: ws =>
        let s1 := updHead s g e fun m => { m with todo := ws }
        .next (engineGoes (makeElementAccess s1 g e m (m.ord - 1) .write (writePiece w)) g e)
      | [] =>
        if (engineOpen s g e).any fun (_, a) => a.kind == .read then .next s
        else
          match element s g e m with
          | .error (.fault k) =>
            .next (meetFault (updHead s g e fun m => { m with paused := true, fetched := [] }) g
              { kind := 1, code := k.code, cause := k.cause, arg0 := k.arg0, arg1 := k.arg1, slot := 5 + e, rep := m.rep, origin := 2
                issue := m.issue, baddr := m.baddr } k.handle)
          | .error (.need []) => .next s
          | .error (.need (sp :: _)) =>
            if mustWait s g e sp.pa then .next s else .next (makeElementAccess s g e m m.ord .read (readPiece sp))
          | .ok a => .next (engineGoes (applyElement s g e m a) g e)

/-- COPY_COMMAND_COMPLETE (R205): when its conditions hold, the queue entry frees, the reservation ends, its flags are ORed
in and its wait flag is set, all in one reference cycle. -/
def execCopyCommandComplete (g e : Nat) (s : State) : Res :=
  match (s.core g).cmdsOf e with
  | [] => .next s
  | m :: rest =>
    if !m.started then .next s
    else
      let barrier := match m.kind with | .cfence | .cacq | .crel => true | _ => false
      if !barrier && !engineDone s g e m then .next s
      else
        let m1 := { m with finished := true }
        if mayComplete s g e m1 then
          let s1 := s.updCore g fun c => (c.setCmds e rest).orFlags s.now m.flags
          .next (wake (setWaitFlag? s1 g m.flag) g)
        else .next (sendFlushes (s.updCore g fun c => c.setCmds e (m1 :: rest)) g)

/-! ## Queueing a command (R202, R204, R217) -/

/-- The reads and marks of lines that a source shows are met at the element (R272); a record as the command keeps it. -/
def copyRec (c : Core) (n : Nat) : CopyRec := ⟨n, c.bfGet n, c.hUse (c.bfGet n).hnum⟩

/-- Whether a kind uses the record after bfS, and the one after bfD (R210 to R212, R214). -/
def usesNext (k : CopyKind) : Bool × Bool :=
  match k with
  | .cpyx | .cpyz | .gath => (true, false)
  | .cpyq | .scat => (false, true)
  | _ => (false, false)

/-- The formats and the descriptor fields that the kinds allow (R206, R208, R210, R213, R214). WFMT = 3 is not allowed, whatever TILE is
(DESIGN CHOICE, log entry 129). -/
def kindOk (k : CopyKind) (fs fd : Nat) (d : List Word) : Bool :=
  let parm := d.getD 9 0
  let block := fun f => f = 11 || f = 12 || f = 13
  let strides := [3, 4, 5, 6, 7].all fun i => d.getD i 0 = 0
  (bits (d.getD 2 0) 61 3) = 0 && fs != 15 &&
  match k with
  | .cpy => parm = 0
  | .cpyc => (fs = 5 || fs = 2) && (fd = 7 || fd = 8) && parm = 0
  | .cpyq => fs = 6 && block fd && parm.toNat < 256 && candOk (BitVec.ofNat 4 fd) (bits parm 0 8)
  | .cpyx => block fs && (fd = 6 || fd = 7 || fd = 8) && parm.toNat < 4
  | .cpyz => block fs && fd = 5 && parm = 0
  | .wbld => parm.toNat < 2 ^ 18 && bits parm 16 2 != 3 && d.getD 1 0 = 0 && [1, 2, 3, 4, 5].all fun i => dDS d i == 0
  | .gath | .scat => parm.toNat < 65536 && strides && (d.getD 2 0).toNat < 65536 && fd != 15
  | .mcast => parm.toNat < 2 ^ 24 && parm != 0 && fd != 15
  | _ => true

/-- MCAST: the destination is the core's own scratchpad, and the hives named are hives of the launch (R215). -/
def mcastOk (s : State) (c : Core) (bfd : Nat) (d : List Word) : Bool :=
  let hd := c.hUse (c.bfGet bfd).hnum
  let own := scratchBase + hiveOfCore s.cur * 0x1000000
  own ≤ hd.base && hd.base + hd.extent ≤ own + 0x1000000 && (d.getD 9 0).toNat < 2 ^ (imageOf s c).h

/-- The spill index of a descriptor (R96, R204). -/
def descIndexOf (h : Head) (x : FmtN) : Nat := x.dsc.toNat + h.j * h.step.toNat

/-- The descriptor of a command of format N. -/
def descOf (c : Core) (k : Nat) : List Word := (List.range 10).map fun i => c.spillGet (k + i)

/-- The records that a command names, the destination of WBLD apart (R208). -/
def recordsOf (k : CopyKind) (x : FmtN) : List Nat :=
  let (a, b) := usesNext k
  [x.bfs.toNat] ++ (if k = .wbld then [] else [x.bfd.toNat]) ++ (if a then [x.bfs.toNat + 1] else []) ++
    (if b then [x.bfd.toNat + 1] else [])

/-- The check of step 3 of a command of format N (R204, R208, R215); a handle that is not valid is found at the element (R196). -/
def commandCheck (s : State) (c : Core) (k : CopyKind) (h : Head) (x : FmtN) : Option Check :=
  let i := descIndexOf h x
  let d := descOf c i
  let (a, b) := usesNext k
  if 2038 < i then some { code := 8, cause := 0x100, arg0 := BitVec.ofNat 64 i, arg1 := 0, handle := 16 }
  else if (a && x.bfs.toNat = 31) || (b && x.bfd.toNat = 31) then some (illegalOp 0 0)
  else if !kindOk k (c.bfGet x.bfs.toNat).fmt.toNat (c.bfGet x.bfd.toNat).fmt.toNat d then some (illegalOp 0 0)
  else if k = .mcast && !mcastOk s c x.bfd.toNat d then some (illegalOp 0 0)
  else none

/-- A command takes its queue entry; an idle engine that may begin it will (R202). A SYSTEM release has its zero-length read to send
(R379). -/
def enqueue (s : State) (e : Nat) (m : Command) : State :=
  let g := s.cur
  let s0 := s.updCur fun c => { c.setCmds e (c.cmdsOf e ++ [m]) with seq := c.seq + 1 }
  let s1 := if m.rel then askFlush s0 g m.seq m.scope (if m.kind = .crel then m.mask else allClasses) else s0
  let c := s1.curCore
  if (c.cmdsOf e).length = 1 then
    if mayStart s1 g m then (s1.due (s1.now + 1 + Config.copyDelay (s1.place g)) keyLeave (.copyCommandStart g e)).draw g
    else s1
  else s1

/-- The number of elements of a command. -/
def totalOf (k : CopyKind) (d : List Word) : Nat :=
  match k with
  | .gath | .scat => dCount d 0
  | _ => dTotal d

/-- A command of format N issues (R202); `%sig` absorbs its descriptor (R357). -/
def runCommand (k : CopyKind) (h : Head) (x : FmtN) (s : State) : State :=
  let c := s.curCore
  let i := descIndexOf h x
  let d := descOf c i
  let (a, b) := usesNext k
  let m : Command :=
    { kind := k, seq := c.seq, src := some (copyRec c x.bfs.toNat)
      dst := if k = .wbld then none else some (copyRec c x.bfd.toNat)
      srcNext := if a then some (copyRec c (x.bfs.toNat + 1)) else none
      dstNext := if b then some (copyRec c (x.bfd.toNat + 1)) else none
      desc := d, descIndex := i, cls := x.cls.toNat, mask := 0, acq := x.acq = 1, rel := x.rel = 1, scope := x.scope.toNat
      flag := if x.wfe = 1 then some x.wf.toNat else none, off := 0, bf16 := false, issue := c.iCyc, baddr := c.iPc, rep := c.iRep
      region := c.region.num, started := false, ord := 0, total := totalOf k d, flags := 0, oob := false, paused := false
      fetched := [], todo := [], finished := false }
  absorbCur (enqueue s (engineOf h.slot) m) 12 (x.bfs.toNat * 32 + x.bfd.toNat) (d.flatMap fun w => leBytes 8 w.toNat)

/-- A copy command of format N (R202 to R208). -/
def commandPlan (k : CopyKind) (h : Head) (x : FmtN) (s : State) : Plan :=
  let c := s.curCore
  flagPlan h c ((List.range 10).map fun i => ⟨10, descIndexOf h x + i, 0, 8⟩) (commandCheck s c k h x) (runCommand k h x) id

/-- R217: the fields of CFENCE, CACQ and CREL. -/
def barrierOk (x : FmtF) : Bool :=
  x.cmask != 0 && 1 ≤ x.scope.toNat && x.scope.toNat ≤ 6 && x.bf = 0 && x.so = 0 && x.bft = 0

/-- A command of format F issues (R217). -/
def runFCommand (k : CopyKind) (h : Head) (x : FmtF) (s : State) : State :=
  let c := s.curCore
  let m : Command :=
    { kind := k, seq := c.seq, src := if k = .ctld then some (copyRec c x.bf.toNat) else none, dst := none, srcNext := none
      dstNext := none, desc := [], descIndex := 0, cls := if k = .ctld then 0 else 16, mask := x.cmask, acq := k = .cacq
      rel := k = .crel, scope := x.scope.toNat, flag := if x.wfe = 1 then some x.wf.toNat else none
      off := (c.sGet x.so.toNat).toNat, bf16 := x.bft = 1, issue := c.iCyc, baddr := c.iPc, rep := c.iRep, region := c.region.num
      started := false, ord := 0, total := if k = .ctld then 1 else 0, flags := 0, oob := false, paused := false
      fetched := [], todo := [], finished := false }
  enqueue s (engineOf h.slot) m

/-- CFENCE, CACQ or CREL (R217). -/
def barrierPlan (k : CopyKind) (h : Head) (x : FmtF) (s : State) : Plan :=
  flagPlan h s.curCore [] (if barrierOk x then none else some (illegalOp 0 0)) (runFCommand k h x) id

/-! ## Syllables -/

/-- CPY (R208). -/
def planCpy (h : Head) (x : FmtN) (s : State) : Plan :=
  commandPlan .cpy h x s

/-- CPY (R208). -/
def execCpy (h : Head) (x : FmtN) (s : State) : Res := runPlan (.cpy h x) (planCpy h x s) s

/-- CPYC (R209). -/
def planCpyc (h : Head) (x : FmtN) (s : State) : Plan :=
  commandPlan .cpyc h x s

/-- CPYC (R209). -/
def execCpyc (h : Head) (x : FmtN) (s : State) : Res := runPlan (.cpyc h x) (planCpyc h x s) s

/-- CPYQ (R210). -/
def planCpyq (h : Head) (x : FmtN) (s : State) : Plan :=
  commandPlan .cpyq h x s

/-- CPYQ (R210). -/
def execCpyq (h : Head) (x : FmtN) (s : State) : Res := runPlan (.cpyq h x) (planCpyq h x s) s

/-- CPYX (R211). -/
def planCpyx (h : Head) (x : FmtN) (s : State) : Plan :=
  commandPlan .cpyx h x s

/-- CPYX (R211). -/
def execCpyx (h : Head) (x : FmtN) (s : State) : Res := runPlan (.cpyx h x) (planCpyx h x s) s

/-- CPYZ (R212). -/
def planCpyz (h : Head) (x : FmtN) (s : State) : Plan :=
  commandPlan .cpyz h x s

/-- CPYZ (R212). -/
def execCpyz (h : Head) (x : FmtN) (s : State) : Res := runPlan (.cpyz h x) (planCpyz h x s) s

/-- WBLD (R213). -/
def planWbld (h : Head) (x : FmtN) (s : State) : Plan :=
  commandPlan .wbld h x s

/-- WBLD (R213). -/
def execWbld (h : Head) (x : FmtN) (s : State) : Res := runPlan (.wbld h x) (planWbld h x s) s

/-- GATH (R214). -/
def planGath (h : Head) (x : FmtN) (s : State) : Plan :=
  commandPlan .gath h x s

/-- GATH (R214). -/
def execGath (h : Head) (x : FmtN) (s : State) : Res := runPlan (.gath h x) (planGath h x s) s

/-- SCAT (R214). -/
def planScat (h : Head) (x : FmtN) (s : State) : Plan :=
  commandPlan .scat h x s

/-- SCAT (R214). -/
def execScat (h : Head) (x : FmtN) (s : State) : Res := runPlan (.scat h x) (planScat h x s) s

/-- MCAST (R215). -/
def planMcast (h : Head) (x : FmtN) (s : State) : Plan :=
  commandPlan .mcast h x s

/-- MCAST (R215). -/
def execMcast (h : Head) (x : FmtN) (s : State) : Res := runPlan (.mcast h x) (planMcast h x s) s

/-- CFENCE (R217). -/
def planCfence (h : Head) (x : FmtF) (s : State) : Plan :=
  barrierPlan .cfence h x s

/-- CFENCE (R217). -/
def execCfence (h : Head) (x : FmtF) (s : State) : Res := runPlan (.cfence h x) (planCfence h x s) s

/-- CACQ (R217). -/
def planCacq (h : Head) (x : FmtF) (s : State) : Plan :=
  barrierPlan .cacq h x s

/-- CACQ (R217). -/
def execCacq (h : Head) (x : FmtF) (s : State) : Res := runPlan (.cacq h x) (planCacq h x s) s

/-- CREL (R217). -/
def planCrel (h : Head) (x : FmtF) (s : State) : Plan :=
  barrierPlan .crel h x s

/-- CREL (R217). -/
def execCrel (h : Head) (x : FmtF) (s : State) : Res := runPlan (.crel h x) (planCrel h x s) s

/-- CTLD (R217). -/
def planCtld (h : Head) (x : FmtF) (s : State) : Plan :=
  let c := s.curCore
  flagPlan h c [rOff x.so]
    (if x.cmask != 0 || x.scope != 0 then some (illegalOp 0 0) else none) (runFCommand .ctld h x) id

/-- CTLD (R217). -/
def execCtld (h : Head) (x : FmtF) (s : State) : Res := runPlan (.ctld h x) (planCtld h x s) s

end Sys2Proof.Machine
end

