-- ==== Sys2Proof/Machine/Sync.lean ====
section
/-!
DEFINITION. Phases (R228 to R230), claims (R231 to R238) and the issue of the commons instructions (R239 to R243).
-/
namespace Sys2Proof.Machine

/-! ## Instructions that act once -/

/-- A request of a member is told its data; an instruction that acts once keeps it for a rerun, also of a region that goes on after a save
(R49, R350, R356). -/
def giveMember (s : State) (l rank id : Nat) (data : List Byte) : State :=
  let put := fun (r : Request) => if r.id = id then { r with data := some data } else r
  let keep := fun (r : OnceRec) => if r.id = id then { r with data := some data } else r
  let all := fun (c : Core) => { c with reqs := c.reqs.map put, region := { c.region with once := c.region.once.map keep } }
  updMemberBoth s l rank all

/-- A request of an S instruction whose result lands in a scalar register (R227). -/
def askScalar (s : State) (id sd arr : Nat) (data : Option (List Byte)) : State :=
  let mk := fun (c : Core) => Request.mk id c.iCyc (c.iCyc + arr) 1 (.scalar sd 8 false) 0 c.iPc c.iRep data [] 0 0 0 false none
  s.updCur fun c => { c with reqs := c.reqs ++ [mk c] }

/-- An S instruction that acts once and has a result: its first run asks and acts; a rerun takes the first run's result
(R356). -/
def askOnce (s : State) (sd arr : Nat) (act : Nat → State → State) : State :=
  match onceSeen s with
  | some r => askScalar s r.id sd arr r.data
  | none =>
    let (id, s1) := s.newId
    act id (askScalar (noteOnce s1 id none) id sd arr none)

/-- An S instruction that acts once and has no result (R356). -/
def actOnce (s : State) (act : State → State) : State :=
  match onceSeen s with
  | some _ => s
  | none => act (noteOnce s 0 none)

/-! ## Phases (R228 to R230) -/

/-- The members of a phase for a core: their ranks in the launch (R228). -/
def phaseMembers (s : State) (x : Launch) (c : Core) (p : Nat) : List Nat :=
  (List.range x.cores.length).filter fun r =>
    let o := s.core (x.cores.getD r 0)
    match Table.get 0 x.phases p with
    | 1 => o.hive == c.hive
    | 2 => o.vdie == c.vdie
    | 3 => true
    | _ => false

/-- The tree latency of a phase (R228). -/
def phaseLatency (s : State) (x : Launch) (members : List Nat) : Nat :=
  let die := fun (r : Nat) => (s.core (x.cores.getD r 0)).vdie
  if members.all fun r => die r == die (members.headD 0) then 48 else 144

/-- The members of a phase for a core of a launch; none when the phase is not declared. -/
def membersOf (s : State) (c : Core) (p : Nat) : List Nat :=
  match c.launch with
  | none => []
  | some l => match s.launch? l with | some x => phaseMembers s x c p | none => []

/-- The count of PHASE, or the rank of ARRIVE (R229). -/
def phaseOperand (c : Core) (x : FmtY) : Nat := (c.sGet x.sa.toNat).toNat + x.imm.toNat

/-- The check of PHASE (R228, R229). -/
def phaseCheck (s : State) (c : Core) (x : FmtY) : Option Check :=
  if (membersOf s c x.n.toNat).isEmpty then some (illegalOp 0 0)
  else if 2 ^ 20 - 1 < phaseOperand c x || (c.phGet x.n.toNat).isOpen then some (illegalOp 0 0)
  else none

/-- PHASE opens a generation and adds its count (R229). -/
def runPhase (s : State) (p : Nat) (wf : Nat) (count : Nat) (word : Word) : State :=
  let (q, s1) := takeSeq s
  let s2 := s1.updCur fun c =>
    let x := c.phGet p
    let y := if x.gen then { x with cnt1 := x.cnt1 + count } else { x with cnt0 := x.cnt0 + count }
    c.phSet p { y with isOpen := true, flag := wf, line := false, seq := q, word := word, baddr := c.iPc, issue := c.iCyc }
  if lineReady s2 s2.cur p then s2.due s2.now keyLeave (.phaseLineRaise s2.cur p) else s2

/-- The word of a syllable. -/
def wordOf (i : Instr) : Word := match encode i with | some (_, w) => w | none => 0

/-- PHASE (R229). -/
def planPhase (h : SHead) (x : FmtY) (s : State) : Plan :=
  let c := s.curCore
  sPlan h c [rS x.sa.toNat] (if (onceSeen s).isSome then none else phaseCheck s c x)
    (fun s => actOnce s fun s => runPhase s x.n.toNat x.wf.toNat (phaseOperand c x) (wordOf (.phase h x)))

/-- PHASE (R229). -/
def execPhase (h : SHead) (x : FmtY) (s : State) : Res := runPlan (.phase h x) (planPhase h x s) s

/-- The check of ARRIVE: the rank is a member (R228, R229). -/
def arriveCheck (s : State) (c : Core) (x : FmtY) : Option Check :=
  if (membersOf s c x.n.toNat).contains (phaseOperand c x) then none else some (illegalOp 0 0)

/-- ARRIVE sends its message, which departs once the writes before it are acknowledged (R229). -/
def runArrive (s : State) (p rank : Nat) : State :=
  let c := s.curCore
  match c.launch with
  | none => s
  | some l =>
    match s.launch? l with
    | none => s
    | some x =>
      let (q, s1) := takeSeq s
      let (n, s2) := s1.newId
      let m : ArriveMsg := { launch := l, phase := p, gen := (c.phGet p).gen, src := s.cur, dst := x.cores.getD rank 0, seq := q
                             latency := phaseLatency s x (phaseMembers s x c p), departed := false }
      let s3 := { s2 with arrives := s2.arrives.put n m }
      if writesAcked s3 s.cur q 4 allClasses then s3.due s.now keyLeave (.arrivalDeparture n) else s3

/-- ARRIVE (R229). -/
def planArrive (h : SHead) (x : FmtY) (s : State) : Plan :=
  let c := s.curCore
  sPlan h c [rS x.sa.toNat] (arriveCheck s c x) (fun s => actOnce s fun s => runArrive s x.n.toNat (phaseOperand c x))

/-- ARRIVE (R229). -/
def execArrive (h : SHead) (x : FmtY) (s : State) : Res := runPlan (.arrive h x) (planArrive h x s) s

/-- ARRIVAL_DEPARTURE (R229). -/
def execArrivalDeparture (a : Nat) (s : State) : Res :=
  match s.arrives.find a with
  | none => .next s
  | some m =>
    if m.departed || (s.core m.src).launch ≠ some m.launch || !writesAcked s m.src m.seq 4 allClasses then .next s
    else
      .next ({ s with arrives := s.arrives.put a { m with departed := true } }.due (s.now + m.latency) keyReply (.arrivalDelivery a))

/-- ARRIVAL_DELIVERY (R229): the counter of the message's generation counts down; one that falls below zero while the phase
is open in that generation is a fault of the target core. -/
def execArrivalDelivery (a : Nat) (s : State) : Res :=
  match s.arrives.find a with
  | none => .next s
  | some m =>
    let c := s.core m.dst
    let x := c.phGet m.phase
    let y := if m.gen then { x with cnt1 := x.cnt1 - 1 } else { x with cnt0 := x.cnt0 - 1 }
    let s1 := { s with arrives := s.arrives.del a }.setCore m.dst (c.phSet m.phase y)
    let below := decide ((if m.gen then y.cnt1 else y.cnt0) < (0 : Int))
    if below && y.isOpen && m.gen == y.gen then
      .next (meetFault s1 m.dst
        { kind := 1, code := 2, cause := 0, arg0 := y.word, arg1 := 0, slot := 0, rep := 0, origin := 5, issue := y.issue
          baddr := y.baddr } 16)
    else if lineReady s1 m.dst m.phase then .next (s1.due s.now keyLeave (.phaseLineRaise m.dst m.phase))
    else .next s1

/-- PHASE_LINE_RAISE (R229): the line rises; with the last line of the members the completion is due L later. -/
def execPhaseLineRaise (g p : Nat) (s : State) : Res :=
  if !lineReady s g p then .next s
  else
    let c := s.core g
    let s1 := s.setCore g (c.phSet p { c.phGet p with line := true })
    match c.launch with
    | none => .next s1
    | some l =>
      match s1.launch? l with
      | none => .next s1
      | some x =>
        let ms := phaseMembers s1 x c p
        if ms.all fun r => ((s1.core (x.cores.getD r 0)).phGet p).line then
          .next (s1.due (s1.now + phaseLatency s1 x ms) keyReply (.phaseCompletion g p))
        else .next s1

/-- PHASE_COMPLETION (R229, R230): at every member the flag is set, the phase closes and the generation flips. -/
def execPhaseCompletion (g p : Nat) (s : State) : Res :=
  let c := s.core g
  match c.launch with
  | none => .next s
  | some l =>
    match s.launch? l with
    | none => .next s
    | some x =>
      .next ((phaseMembers s x c p).foldl (fun st r =>
        let k := x.cores.getD r 0
        let o := st.core k
        let y := o.phGet p
        setWaitFlag (st.setCore k (o.phSet p { y with isOpen := false, gen := !y.gen, line := false })) k y.flag) s)

/-! ## Claim words (R232, R233) -/

/-- What a claim word reference names: its coded word, the group's flags, the launches and ranks that are members, and
the plane bound. -/
structure ClaimRef where
  word : Nat
  bound : Nat
  members : List (Nat × Nat)
  queues : List Nat
deriving DecidableEq, Repr

/-- The group that holds a launch's claim word. -/
def groupOfWord (x : Launch) (k : Nat) : Option ClaimGroup :=
  x.groups.find? fun g => g.kind ≠ 0 && g.first ≤ k && k < g.first + g.words

/-- The ranks that are members of a group for a core of a virtual hive (R232). -/
def groupRanks (s : State) (l : Nat) (x : Launch) (hive : Nat) (g : ClaimGroup) : List Nat :=
  let n := x.image.h * x.image.c
  match g.kind with
  | 1 => List.range n
  | 2 => (List.range n).filter fun r => (memberCore s l r).hive == hive
  | _ => (List.range n).filter fun r => g.a ≤ r && r ≤ g.b

/-- The directory entry of a queue's subscription (R233, R297). -/
def entryOfSub (s : State) (q sub : Nat) : Option (Nat × DirEntry) :=
  s.directory.find? fun (_, d) => d.subs.any fun x => x.queue == q && x.sub == sub

/-- The coded claim word of a directory entry. -/
def entryWord (e : Nat) : Nat := 2 ^ 60 + e

/-- A launch whose cores are placed and run, or are stopped or saved (R233). -/
def Launch.live (x : Launch) : Bool :=
  match x.state with
  | .running | .stopped | .saving | .saved => true
  | _ => false

/-- The members of a directory entry's claim word: every core of every running launch of a subscribing queue, and those
queues (R233). -/
def entryMembers (s : State) (d : DirEntry) : List (Nat × Nat) :=
  let qs := d.subs.map (·.queue)
  (s.launches.filter fun (_, x) => x.live && qs.contains x.queue).flatMap fun (l, x) =>
    (List.range (x.image.h * x.image.c)).map fun r => (l, r)

/-- R344: a reference outside the claim words. -/
def claimBounds (k : Nat) : Check := { code := 8, cause := 0, arg0 := BitVec.ofNat 64 k, arg1 := 0, handle := 16 }

/-- The claim word that a reference of a core names (R233). -/
def claimRef (s : State) (c : Core) (k : Nat) : Except Check ClaimRef :=
  match c.launch with
  | none => .error (claimBounds k)
  | some l =>
    match s.launch? l with
    | none => .error (claimBounds k)
    | some x =>
      if k < x.words then
        match groupOfWord x k with
        | none => .error (claimBounds k)
        | some g =>
          let ranks := groupRanks s l x c.hive g
          if !ranks.contains c.rank then .error (protCheck 6 k)
          else
            let die := fun (r : Nat) => (memberCore s l r).vdie
            let b := if ranks.all fun r => die r == die (ranks.headD 0) then 64 else 192
            .ok { word := l * 2 ^ 24 + (if g.kind = 2 then c.hive * 2 ^ 16 else 0) + k, bound := b
                  members := ranks.map fun r => (l, r), queues := [] }
      else if 0x2000 ≤ k && k < 0x2100 then
        match entryOfSub s x.queue (k - 0x2000) with
        | none => .error (protCheck 7 k)
        | some (e, d) =>
          .ok { word := entryWord e, bound := 192, members := entryMembers s d, queues := d.subs.map (·.queue) }
      else .error (claimBounds k)

/-- R233: the number of the word that a reference names, an exact sum. -/
def claimIndex (c : Core) (x : FmtY) : Nat := (c.sGet x.sa.toNat).toNat + (x.imm.setWidth 11).toNat

/-- The flags that a member sets for a word: its group's, or those of its launch for commons words (R232, R309). -/
def memberFlags (s : State) (l k : Nat) : Option Nat × Option Nat :=
  match s.launch? l with
  | none => (none, none)
  | some x =>
    if 2 ^ 60 ≤ k then
      let w := x.commonsWord
      let get := fun (i : Nat) => if w.getLsbD 12 && w.getLsbD (i + 5) then some (bits w i 5).toNat else none
      (get 0, get 6)
    else
      match groupOfWord x (k % 2 ^ 16) with
      | some g => (g.notify, g.outcome)
      | none => (none, none)

/-- The members of a coded word now. -/
def membersOfWord (s : State) (k : Nat) : List (Nat × Nat) :=
  if 2 ^ 60 ≤ k then
    match s.directory.find (k - 2 ^ 60) with
    | some d => entryMembers s d
    | none => []
  else
    let l := k / 2 ^ 24
    match s.launch? l with
    | none => []
    | some x =>
      match groupOfWord x (k % 2 ^ 16) with
      | some g => (groupRanks s l x (k / 2 ^ 16 % 2 ^ 8) g).map fun r => (l, r)
      | none => []

/-- A claim word's state (R232). -/
def State.claimWord (s : State) (k : Nat) : ClaimWord :=
  if 2 ^ 60 ≤ k then
    let c := Table.get ClaimWord.reset s.claimWords k
    match s.directory.find (k - 2 ^ 60) with
    | some d => { c with value := d.clw }
    | none => c
  else Table.get ClaimWord.reset s.claimWords k

/-- A claim word changed; an entry's word stands in the directory (R294, R304). -/
def setClaimWord (s : State) (k : Nat) (c : ClaimWord) : State :=
  let s1 := { s with claimWords := Table.put s.claimWords k c }
  if 2 ^ 60 ≤ k then
    match s.directory.find (k - 2 ^ 60) with
    | some d => { s1 with directory := s1.directory.put (k - 2 ^ 60) { d with clw := c.value } }
    | none => s1
  else s1

/-! ## Claims (R234 to R238) -/

/-- CWSET (R234). -/
def planCwSet (h : SHead) (x : FmtY) (s : State) : Plan :=
  let c := s.curCore
  let v := phaseOperand c x
  sPlan h c [rS x.sa.toNat] (if 4095 < v then some (illegalOp 0 0) else none) (fun s => land s 0 1 (.cwReg x.n.toNat v))

/-- CWSET (R234). -/
def execCwSet (h : SHead) (x : FmtY) (s : State) : Res := runPlan (.cwSet h x) (planCwSet h x s) s

/-- Undecided proposals on a word. -/
def openProposals (s : State) (k : Nat) : List (Nat × Proposal) := s.proposals.filter fun (_, p) => p.word == k && !p.done

/-- The check of CLAIM (R233, R234). -/
def claimCheck (s : State) (c : Core) (x : FmtY) : Option Check :=
  match claimRef s c (claimIndex c x) with
  | .error k => some k
  | .ok r =>
    let w := c.cwGet x.n.toNat
    if w < 2 * r.bound + 32 || 4095 < w + r.bound then some (illegalOp 0 0)
    else if x.arr.toNat < w + r.bound then arrivalCheck (some (w + r.bound)) x.arr.toNat
    else if (openProposals s r.word).any fun (_, p) => p.g == some s.cur && p.launch == c.launch.getD 0 then some (illegalOp 0 0)
    else none

/-- The effective priority of a running launch (R235, R333). -/
def launchPriority (s : State) (l : Nat) : Nat := match s.launch? l with | some x => x.eff | none => 0

/-- A proposal joins those of its word (R234). -/
def runClaim (s : State) (x : FmtY) (id : Nat) : State :=
  let c := s.curCore
  match claimRef s c (claimIndex c x) with
  | .error _ => s
  | .ok r =>
    let (q, s1) := takeSeq s
    let p : Proposal :=
      { word := r.word, launch := c.launch.getD 0, g := some s.cur, queue := 0, func := (match s.launch? (c.launch.getD 0) with | some y => y.func | none => 0), rank := c.rank, order := s.cur, prio := 0
        value := (c.sGet x.sb.toNat).setWidth 48, window := c.cwGet x.n.toNat, bound := r.bound, seq := q, reqId := id, raddr := 0, packet := 0
        departed := none, decision := none, objectors := [], overtakenBy := [], done := false }
    let s2 := { s1 with proposals := s1.proposals.put id p }
    if writesAcked s2 s.cur q 4 allClasses then s2.due s.now keyLeave (.claimDeparture id) else s2

/-- CLAIM (R234). -/
def planClaim (h : SHead) (x : FmtY) (s : State) : Plan :=
  let c := s.curCore
  { sPlan h c [rS x.sa.toNat, rS x.sb.toNat] (if (onceSeen s).isSome then none else claimCheck s c x)
      (fun s => askOnce s x.sd.toNat x.arr.toNat fun id s => runClaim s x id) with
    off := fun s => discardRequest s 0 x.arr.toNat 1 }

/-- CLAIM (R234). -/
def execClaim (h : SHead) (x : FmtY) (s : State) : Res := runPlan (.claim h x) (planClaim h x s) s

/-- A proposal ranks above another (R235). -/
def Proposal.above (p q : Proposal) : Bool := q.prio < p.prio || (p.prio == q.prio && p.order < q.order)

/-- Two proposals that collide: the one that ranks lower is overtaken by the other (R235). -/
def collide (s : State) (a b : Nat) : State :=
  match s.proposals.find a, s.proposals.find b with
  | some p, some q =>
    if p.above q then
      { s with proposals := s.proposals.put b { q with overtakenBy := (p.prio, p.order, p.launch, p.rank) :: q.overtakenBy } }
    else if q.above p then
      { s with proposals := s.proposals.put a { p with overtakenBy := (q.prio, q.order, q.launch, q.rank) :: p.overtakenBy } }
    else s
  | _, _ => s

/-- A proposal departs now: its priority is taken, it collides with those whose windows it meets, and its arrival and
decision are due (R234, R235). -/
def departProposal (s : State) (n : Nat) (p : Proposal) (prio : Nat) : State :=
  let q := { p with departed := some s.now, prio := prio, decision := some (s.now + p.window + p.bound) }
  let s1 := { s with proposals := s.proposals.put n q }
  let met := (openProposals s p.word).filter fun (m, o) =>
    m != n && (match o.departed with | some t => s.now < t + o.window | none => false)
  let s2 := met.foldl (fun st (m, _) => collide st m n) s1
  (s2.due (s.now + p.bound) keyReply (.proposalArrival n)).due (s.now + p.window + p.bound) (keyReply + 1) (.claimDecision n)

/-- CLAIM_DEPARTURE (R234). -/
def execClaimDeparture (n : Nat) (s : State) : Res :=
  match s.proposals.find n with
  | none => .next s
  | some p =>
    if p.departed.isSome then .next s
    else
      match p.g with
      | some g => if (s.core g).launch = some p.launch && writesAcked s g p.seq 4 allClasses then .next (departProposal s n p (launchPriority s p.launch)) else .next s
      | none => .next (departProposal s n p p.prio)

/-- PROPOSAL_ARRIVAL (R234, R309): the notify flag is set at every member; the window opens. -/
def execProposalArrival (n : Nat) (s : State) : Res :=
  match s.proposals.find n with
  | none => .next s
  | some p => .next ((membersOfWord s p.word).foldl (fun st (l, r) => setMemberFlag st l r (memberFlags st l p.word).1) s)

/-- The outcome word of CLAIM (R237). -/
def outcomeWord (out rk : Nat) (v : BitVec 48) : Word := BitVec.ofNat 2 out ++ 0#6 ++ BitVec.ofNat 8 rk ++ v

/-- A rank as a member of launch `l` sees it: 0xFF outside that launch (R237). -/
def rankSeen (l l' rank : Nat) : Nat := if l = l' then rank else 0xFF

/-- The highest-ranking of the proposals that overtook one (R235). -/
def highest : List (Nat × Nat × Nat × Nat) → Option (Nat × Nat × Nat × Nat)
  | [] => none
  | x :: xs =>
    match highest xs with
    | none => some x
    | some y => if y.1 < x.1 || (x.1 == y.1 && x.2.1 < y.2.1) then some x else some y

/-- The outcome of a proposal and its RK (R234, R235, R237). -/
def decide_ (p : Proposal) : Nat × Nat :=
  match p.objectors with
  | _ :: _ => (1, p.objectors.foldl (fun m (l, r) => Nat.min m (rankSeen p.launch l r)) 0xFF)
  | [] =>
    match highest p.overtakenBy with
    | some (_, _, l, r) => (2, rankSeen p.launch l r)
    | none => (0, 0)

/-- CLAIM_DECISION (R234 to R238, R304): the word takes the value when the proposal is accepted; the outcome flag is set at
every member and the outcome lands at the proposer. A commons claim that is accepted is reported to system software. -/
def execClaimDecision (n : Nat) (s : State) : Res :=
  match s.proposals.find n with
  | none => .next s
  | some p =>
    if p.done then .next s
    else
      let (out, rk) := decide_ p
      let w := s.claimWord p.word
      let v := if out = 0 then p.value else w.value
      let s1 := setClaimWord s p.word { value := v, last := out, lastLaunch := p.launch, lastRank := p.rank }
      let s2 := (membersOfWord s1 p.word).foldl (fun st (l, r) => setMemberFlag st l r (memberFlags st l p.word).2) s1
      let res := outcomeWord out rk v
      let s3 :=
        match p.g with
        | some _ => giveMember s2 p.launch p.rank p.reqId (leBytes 8 res.toNat)
        | none => writeResult s2 p.queue n p.func p.raddr p.packet res
      let s4 :=
        if out = 0 && 2 ^ 60 ≤ p.word then
          match s3.directory.find (p.word - 2 ^ 60) with
          | some d => healthEvent s3 13 0xFF 0 [d.words.getD 0 0, d.words.getD 1 0, v.setWidth 64, BitVec.ofNat 64 rk]
          | none => s3
        else s3
      let s5 := { s4 with proposals := s4.proposals.put n { p with done := true } }
      .next { s5 with proposals := s5.proposals.filter fun (_, o) =>
        !(o.done && (match o.departed with | some t => t + o.window ≤ s.now | none => true)) }

/-- A proposal's window is open at a member at reference cycle `t` (R234). -/
def windowOpen (p : Proposal) (t : Nat) : Bool :=
  match p.departed with
  | some d => d + p.bound ≤ t && t < d + p.window
  | none => false

/-- The check of OBJECT (R233, R236). -/
def objectCheck (s : State) (c : Core) (x : FmtY) : Option Check :=
  match claimRef s c (claimIndex c x) with
  | .error k => some k
  | .ok r =>
    if (openProposals s r.word).any fun (_, p) => windowOpen p s.now then none
    else some { code := 11, cause := 0, arg0 := BitVec.ofNat 64 (claimIndex c x), arg1 := 0, handle := 16 }

/-- The objection applies to every proposal whose window is open (R236). -/
def runObject (s : State) (c : Core) (x : FmtY) : State :=
  match claimRef s c (claimIndex c x) with
  | .error _ => s
  | .ok r =>
    (openProposals s r.word).foldl (fun st (n, p) =>
      if windowOpen p s.now then
        { st with proposals := st.proposals.put n { p with objectors := (c.launch.getD 0, c.rank) :: p.objectors } }
      else st) s

/-- OBJECT (R236). -/
def planObject (h : SHead) (x : FmtY) (s : State) : Plan :=
  let c := s.curCore
  sPlan h c [rS x.sa.toNat] (if (onceSeen s).isSome then none else objectCheck s c x) (fun s => actOnce s fun s => runObject s c x)

/-- OBJECT (R236). -/
def execObject (h : SHead) (x : FmtY) (s : State) : Res := runPlan (.object h x) (planObject h x s) s

/-- The check of CLAIM.READ (R233, R237). -/
def claimReadCheck (s : State) (c : Core) (x : FmtY) : Option Check :=
  match claimRef s c (claimIndex c x) with
  | .error k => some k
  | .ok r => arrivalCheck (some r.bound) x.arr.toNat

/-- CLAIM.READ asks for a sample at issue + B (R237). -/
def runClaimRead (s : State) (c : Core) (x : FmtY) (id : Nat) : State :=
  match claimRef s c (claimIndex c x) with
  | .error _ => s
  | .ok r =>
    let smp : Sample := { word := r.word, launch := c.launch.getD 0, rank := c.rank, reqId := id }
    { s with samples := s.samples.put id smp }.due (s.now + r.bound) (keyReply + 2) (.claimReadSample id)

/-- CLAIM.READ (R237). -/
def planClaimRead (h : SHead) (x : FmtY) (s : State) : Plan :=
  let c := s.curCore
  { sPlan h c [rS x.sa.toNat] (if (onceSeen s).isSome then none else claimReadCheck s c x)
      (fun s => askOnce s x.sd.toNat x.arr.toNat fun id s => runClaimRead s c x id) with
    off := fun s => discardRequest s 0 x.arr.toNat 1 }

/-- CLAIM.READ (R237). -/
def execClaimRead (h : SHead) (x : FmtY) (s : State) : Res := runPlan (.claimRead h x) (planClaimRead h x s) s

/-- The highest-ranking undecided proposal that has reached the members (R237). -/
def leadProposal (s : State) (k : Nat) : Option Proposal :=
  let here := (openProposals s k).filter fun (_, p) => match p.departed with | some t => t + p.bound ≤ s.now | none => false
  here.foldl (fun acc (_, p) =>
    match acc with
    | none => some p
    | some q => if p.above q then some p else some q) none

/-- The state word of CLAIM.READ at a member of launch `l` (R237). -/
def stateWord (s : State) (l k : Nat) : Word :=
  let w := s.claimWord k
  match leadProposal s k with
  | some p =>
    BitVec.ofNat 2 1 ++ BitVec.ofNat 2 w.last ++ 0#4 ++ BitVec.ofNat 8 (rankSeen l p.launch p.rank) ++ p.value
  | none =>
    let rk := if w.last = 3 then 0xFF else rankSeen l w.lastLaunch w.lastRank
    BitVec.ofNat 2 0 ++ BitVec.ofNat 2 w.last ++ 0#4 ++ BitVec.ofNat 8 rk ++ w.value

/-- CLAIM_READ_SAMPLE (R237). -/
def execClaimReadSample (a : Nat) (s : State) : Res :=
  match s.samples.find a with
  | none => .next s
  | some m =>
    .next (giveMember { s with samples := s.samples.del a } m.launch m.rank m.reqId
      (leBytes 8 (stateWord s m.launch m.word).toNat))

/-! ## The commons instructions issue (R239 to R243) -/

/-- The least arrival offset of a commons result (R108, R239). -/
def commonsMin (c : Core) : Nat := if c.vdie = 0 then 256 else 352

/-- The requests of a core that the directory has not acted on by `t` are acted on at `t`, in their order: it keeps the issue order of
the core within the time of a later request (R239). -/
def bringForward (s : State) (g t : Nat) (mine : List (Nat × CommonsReq)) : State :=
  mine.foldl (fun st (i, r) =>
    if t < r.due then
      let s1 := st.undue fun j => j == actOf r.kind i
      { s1 with commonsReqs := s1.commonsReqs.put i { r with due := t } }.due t (6000 + g) (actOf r.kind i)
    else st) s

/-- A request goes to the directory, which acts on it at a reference cycle that the manual leaves open, before the named cycle of its
result and after every earlier request of the core (R239). -/
def askDirectory (s : State) (kind sub : Nat) (block : List Word) (flag : Option Nat) (arr id : Nat) : State :=
  let c := s.curCore
  let l := c.launch.getD 0
  let (f, q) := match s.launch? l with | some x => (x.func, x.queue) | none => (0, 0)
  let t := s.now + 1 + Config.actDelay (s.place s.cur) % (arr - 1)
  let s1 := bringForward s s.cur t (s.commonsReqs.filter fun (_, r) => r.launch == l && r.rank == some c.rank)
  let r : CommonsReq := { kind := kind, rank := some c.rank, queue := q, func := f, launch := l, sub := sub, block := block
                          flag := flag, reqId := id, due := t, raddr := 0, packet := 0, saddr := 0, sext := 0, result := none, waits := [] }
  ({ s1 with commonsReqs := s1.commonsReqs.put id r }.due t (6000 + s.cur) (actOf kind id)).draw s.cur

/-- The spill index of a request block, or the number of a subscription, an exact sum (R239). -/
def blockIndex (c : Core) (x : FmtY) : Nat := (c.sGet x.sa.toNat).toNat + (x.imm.setWidth 11).toNat

/-- The wait flag that FE enables (R227). -/
def commonsFlag (x : FmtY) : Option Nat := if x.imm.getLsbD 11 then some x.wf.toNat else none

/-- A commons instruction: its checks, then its request (R108, R227, R239). -/
def commonsPlan (h : SHead) (x : FmtY) (s : State) (kind words : Nat) : Plan :=
  let c := s.curCore
  let k := blockIndex c x
  let bounds := if words ≠ 0 && 2048 - words < k then
      some { code := 8, cause := 0x100, arg0 := BitVec.ofNat 64 k, arg1 := 0, handle := 16 : Check } else none
  { sPlan h c (rS x.sa.toNat :: (List.range words).map fun i => ⟨10, k + i, 0, 8⟩)
      (firstCheck [fun _ => bounds, fun _ => arrivalCheck (some (commonsMin c)) x.arr.toNat])
      (fun s => askOnce s x.sd.toNat x.arr.toNat fun id s =>
        askDirectory s kind k ((List.range words).map fun i => c.spillGet (k + i)) (commonsFlag x) x.arr.toNat id) with
    off := fun s => discardRequest s 0 x.arr.toNat 1 }

/-- SUBSCRIBE (R239, R240). -/
def planSubscribe (h : SHead) (x : FmtY) (s : State) : Plan :=
  commonsPlan h x s 0 4

/-- SUBSCRIBE (R239, R240). -/
def execSubscribe (h : SHead) (x : FmtY) (s : State) : Res := runPlan (.subscribe h x) (planSubscribe h x s) s

/-- LAPSE (R239, R243). -/
def planLapse (h : SHead) (x : FmtY) (s : State) : Plan :=
  commonsPlan h x s 1 0

/-- LAPSE (R239, R243). -/
def execLapse (h : SHead) (x : FmtY) (s : State) : Res := runPlan (.lapse h x) (planLapse h x s) s

/-- BOARD (R239, R241). -/
def planBoard (h : SHead) (x : FmtY) (s : State) : Plan :=
  commonsPlan h x s 2 2

/-- BOARD (R239, R241). -/
def execBoard (h : SHead) (x : FmtY) (s : State) : Res := runPlan (.board h x) (planBoard h x s) s

/-- ALIGHT (R239, R243). -/
def planAlight (h : SHead) (x : FmtY) (s : State) : Plan :=
  commonsPlan h x s 3 0

/-- ALIGHT (R239, R243). -/
def execAlight (h : SHead) (x : FmtY) (s : State) : Res := runPlan (.alight h x) (planAlight h x s) s

/-- CSTAT (R239, R243). -/
def planCstat (h : SHead) (x : FmtY) (s : State) : Plan :=
  commonsPlan h x s 4 0

/-- CSTAT (R239, R243). -/
def execCstat (h : SHead) (x : FmtY) (s : State) : Res := runPlan (.cstat h x) (planCstat h x s) s

end Sys2Proof.Machine
end

