-- ==== Sys2Proof/Machine/Translate.lean ====
section
/-!
DEFINITION. Address translation by the cores: the translation caches (R291), XLATE and HREL (R126 to R129), and
shootdowns (R292, R293).
-/
namespace Sys2Proof.Machine

/-! ## Translation caches (R291) -/

/-- The entries of a hive's cache. -/
def cacheOf (s : State) (hive : Nat) : List CacheEntry := Table.get [] s.tcache hive

/-- Look an entry up by function and page. -/
def lookup (s : State) (hive f page : Nat) : Option CacheEntry :=
  (cacheOf s hive).find? fun e => e.func == f && e.page == page

/-- An entry becomes the most recently used of its hive; the least recently used of more than 1,024 goes (R291). -/
def touch (s : State) (hive : Nat) (e : CacheEntry) : State :=
  let rest := (cacheOf s hive).filter fun x => !(x.func == e.func && x.page == e.page)
  { s with tcache := Table.put s.tcache hive ((e :: rest).take 1024) }

/-! ## XLATE and HREL (R126 to R129) -/

/-- An XLATE leaves its function. -/
def funcOfCore (s : State) (c : Core) : Nat := funcOfLaunch s (c.launch.getD 0)

/-- The end of a cache lookup is due within 96 reference cycles: a hit makes the handle valid, a miss stops the placement
(R291). -/
def startLookup (s : State) (g h : Nat) (va : Word) : State :=
  let hit := 2 ^ 48 ≤ va.toNat || (lookup s (hiveOfCore g) (funcOfCore s (s.core g)) (pageOf va.toNat)).isSome
  if hit then (s.due (s.now + 1 + Config.xlateDelay (s.place g) % 96) 0 (.handleValid g h)).draw g
  else (s.due (s.now + 1 + Config.missDelay (s.place g) % 96) 0 (.translationCacheMiss g h)).draw g

/-- XLATE: the handle turns invalid at issue, and the translation begins (R126). -/
def runXlate (h : Nat) (va : Word) (write : Bool) (s : State) : State :=
  let s1 := s.updCur fun c =>
    let old := c.hGet h
    { c.hSet h { old with valid := false, va := va, write := write, region := none
                          xl := some { va := va, write := write, issue := c.iCyc, baddr := c.iPc, rep := c.iRep, caused := false } } with
      hOld := some (h, old) }
  startLookup s1 s.cur h va

/-- XLATE (R126): RW is 1 for reading or 2 for reading and writing; the other values are of row 10 of R109. -/
def planXlate (h : SHead) (x : FmtH) (s : State) : Plan :=
  let c := s.curCore
  sPlan h c [rS x.sa.toNat] (if x.rw = 1 || x.rw = 2 then none else some (illegalOp 10 0))
    (runXlate x.hn.toNat (c.sGet x.sa.toNat) (x.rw = 2))

/-- XLATE (R126). -/
def execXlate (h : SHead) (x : FmtH) (s : State) : Res := runPlan (.xlate h x) (planXlate h x s) s

/-- HREL (R129): the handle's valid bit clears at issue + 1. -/
def planHrel (h : SHead) (x : FmtH) (s : State) : Plan :=
  sPlan h s.curCore [] (if x.sa = 0 && x.rw = 0 then none else some (illegalOp 9 0))
    (fun s => land s 0 1 (.releaseHandle x.hn.toNat))

/-- HREL (R129). -/
def execHrel (h : SHead) (x : FmtH) (s : State) : Res := runPlan (.hrel h x) (planHrel h x s) s

/-! ## The end of a translation -/

/-- A handle of a core changed, and with it its checkpoint copy where the region has not changed it (R354). -/
def updHandle (s : State) (g h : Nat) (u : Handle → Handle) : State :=
  let old := (s.core g).hGet h
  let s1 := s.updCore g fun c => c.hSet h (u old)
  updPoint s1 g fun c => if c.hGet h = old then c.hSet h (u old) else c

/-- The record of a translation that fails with a protection fault (R128, R344). -/
def xlateInfo (x : Xlate) (cause : Nat) : FaultInfo :=
  { kind := 1, code := 7, cause := cause, arg0 := x.va, arg1 := 0, slot := 0, rep := x.rep, origin := 4, issue := x.issue, baddr := x.baddr }

/-- The translation of an XLATE fails with a protection fault: it is over, and the handle stays invalid after a resume (R128; DEDUCED, log
entry 123: a RETRY redoes the walk of a freeze, not this one). -/
def xlateFault (s : State) (g h : Nat) (x : Xlate) (cause : Nat) : State :=
  meetFault (updHandle s g h fun o => { o with xl := none }) g (xlateInfo x cause) 16

/-- The handle that a translation gives with an entry (R126, R290). -/
def handleOf (x : Xlate) (e : CacheEntry) : Handle :=
  { valid := true, base := e.ppage * 65536, extent := extentOf e, write := x.write, va := BitVec.ofNat 64 (e.page * 65536)
    ipa := e.ipage * 65536, region := none, cut := false, xl := none }

/-- A handle becomes valid with the translation of an entry, or its XLATE faults (R126). The virtual address that it keeps is that of its
page, and until then the one that its XLATE was given (DESIGN CHOICE, log entry 136). -/
def giveHandle (s : State) (g h : Nat) (x : Xlate) (e : CacheEntry) : State :=
  if e.allows x.write then
    updHandle (touch s (hiveOfCore g) e) g h fun _ => handleOf x e
  else xlateFault s g h x 1

/-- A translation of a core is still in hand. -/
def translates (s : State) (cores : List Nat) : Bool :=
  s.agenda.any fun (_, _, i) =>
    match i with
    | .handleValid g _ => cores.contains g
    | .translationCacheMiss g _ => cores.contains g
    | .translationWalkEnd g _ => cores.contains g
    | _ => false

/-- The placement of a launch restarts at the first later reference cycle at the calendar position of its stop, once every
record of the stop is answered and no walk or lookup of its cores is in progress (R275, R291, R351, R395). -/
def tryRestart (s : State) (l : Nat) : State :=
  match s.launch? l with
  | none => s
  | some x =>
    if x.state = .stopped && x.walking = 0 && x.restart.isNone && x.terminated.isNone && !translates s x.cores &&
        (x.stops.all fun r => r.answer.isSome) && x.cores.all fun g => (s.core g).elFault.isEmpty then
      let t := s.now + 1 + (x.stopPos + 128 - (s.now + 1) % 64) % 64
      (s.setLaunch l { x with restart := some t }).due t 0 (.placementRestart l)
    else s

/-- A stop that waits for a translation of a core may end (R395). -/
def tryRestartOf (s : State) (g : Nat) : State :=
  match (s.core g).launch with
  | some l => tryRestart s l
  | none => s

/-- HANDLE_VALID (R126, R291): the lookup of an XLATE ends in a hit; an entry that a shootdown has removed is a miss. -/
def execHandleValid (g h : Nat) (s : State) : Res :=
  let c := s.core g
  match (c.hGet h).xl with
  | none => .next s
  | some x =>
    if 2 ^ 48 ≤ x.va.toNat then .next (xlateFault s g h x 2)
    else
      match lookup s (hiveOfCore g) (funcOfCore s c) (pageOf x.va.toNat) with
      | some e => .next (tryRestartOf (giveHandle s g h x e) g)
      | none => .next (s.due s.now 0 (.translationCacheMiss g h))

/-- A walk ends at a reference cycle that the manual leaves open (R291). -/
def startWalk (s : State) (g h : Nat) : State :=
  (s.due (s.now + 1 + Config.walkTime (s.place g)) 0 (.translationWalkEnd g h)).draw g

/-- TRANSLATION_CACHE_MISS (R291): the placement stops and a walk starts. During another stop the walk runs beside it
(R395). -/
def execTranslationCacheMiss (g h : Nat) (s : State) : Res :=
  let c := s.core g
  match (c.hGet h).xl, c.launch with
  | some x, some l =>
    match s.launch? l with
    | none => .next s
    | some y =>
      if rollingBack s l then .next (s.due (s.now + 1) 0 (.translationCacheMiss g h))
      else if y.state = .running then
        let s1 := (stopLaunch s l).updLaunch l fun y => { y with walking := y.walking + 1 }
        let s2 := updHandle s1 g h fun o => { o with xl := some { x with caused := true } }
        .next (startWalk (s2.updCore g fun c => { bumpCause c 3 with hold := 3 }) g h)
      else .next (startWalk s g h)
  | _, _ => .next s

/-- The record of a page-not-present freeze (R345, R352). -/
def freezeInfo (x : Xlate) (stage ipa : Nat) : FaultInfo :=
  { kind := 3, code := 6, cause := stage, arg0 := x.va, arg1 := BitVec.ofNat 64 ipa, slot := 0, rep := x.rep, origin := 4
    issue := x.issue, baddr := x.baddr }

/-- What a walk for a handle finds: a page, whose entry fills the cache and goes on with `k`; a stage that is not present, for which a
record is written; or a fault (R128, R291, R352). -/
def walked (s : State) (g l h : Nat) (x : Xlate) (k : State → CacheEntry → State) : State :=
  if 2 ^ 48 ≤ x.va.toNat then xlateFault s g h x 2 else
  match walk s (funcOfLaunch s l) x.va.toNat with
  | .page e => if e.allows x.write then k (touch s (hiveOfCore g) e) e else xlateFault (touch s (hiveOfCore g) e) g h x 1
  | .absent stage ipa =>
    let s1 := updHandle s g h fun o => { o with xl := some { x with caused := true } }
    meetFault s1 g (freezeInfo x stage ipa) 16
  | .malformed => xlateFault s g h x 1

/-- TRANSLATION_WALK_END (R291, R352): the walker fills the cache and resumes the placement that the miss stopped; or a stage
is not present, and a record is written; or the entry is malformed or lacks a permission, which is a fault. A walk
that meets a table entry in a block in re-encryption goes on at its end, also past the 96 cycles of R128 (R285; DEDUCED, log entry 140). -/
def execTranslationWalkEnd (g h : Nat) (s : State) : Res :=
  let c := s.core g
  match (c.hGet h).xl, c.launch with
  | some x, some l =>
    match walkWait s (funcOfLaunch s l) x.va.toNat with
    | some t => .next (s.due t 0 (.translationWalkEnd g h))
    | none =>
    let stopped := match s.launch? l with | some y => y.state != .running | none => false
    let s1 := if x.caused && stopped then s.updLaunch l fun y => { y with walking := y.walking - 1 } else s
    .next (walked s1 g l h x fun st e => tryRestart (if x.caused && stopped then st else giveHandle st g h x e) l)
  | _, _ => .next s

/-- The XLATE that caused a stop is redone at the restart: from the cache, or by a walk that does not stop the placement
again (R291, R352). -/
def redoXlate (s : State) (g h : Nat) (x : Xlate) : State :=
  let s1 := updHandle s g h fun o => { o with xl := some { x with caused := false } }
  let t := s.now + 1 + Config.xlateDelay (s.place g) % 95
  let hit := 2 ^ 48 ≤ x.va.toNat || (lookup s (hiveOfCore g) (funcOfCore s (s.core g)) (pageOf x.va.toNat)).isSome
  (s1.due t 0 (if hit then .handleValid g h else .translationWalkEnd g h)).draw g

/-! ## Shootdowns (R292, R293) -/

/-- Two ranges of addresses overlap. -/
def overlap (a n b m : Nat) : Bool := a < b + m && b < a + n && 0 < n && 0 < m

/-- A shootdown names a virtual or an intermediate range, or the whole function. -/
def Shootdown.covers (d : Shootdown) (va ipa ext : Nat) : Bool :=
  match d.kind with
  | 0 => overlap (d.first * 65536) (d.count * 65536) va ext
  | 1 => overlap (d.first * 65536) (d.count * 65536) ipa ext
  | _ => true

/-- A subscription's range matches a shootdown (R302). -/
def Shootdown.hitsRange (d : Shootdown) (b : Subscription) : Bool :=
  b.func == d.func &&
    match d.kind with
    | 0 => match b.va with | some v => overlap (d.first * 65536) (d.count * 65536) v b.ext | none => false
    | 1 => b.ipages.any fun p => decide (d.first ≤ p ∧ p < d.first + d.count)
    | _ => true

/-- A handle of the function matches a shootdown; a tier-0 region is no translation of a range (R26, R292). -/
def Shootdown.hits (d : Shootdown) (h : Handle) : Bool :=
  if d.kind < 2 && h.region.isSome then false else d.covers h.va.toNat h.ipa h.extent

/-- A cache entry of the function matches a shootdown. -/
def Shootdown.hitsEntry (d : Shootdown) (e : CacheEntry) : Bool :=
  e.func == d.func && d.covers (e.page * 65536) (e.ipage * 65536) (extentOf e)

/-- The handles of a core that satisfy a test are changed. -/
def mapHandles (c : Core) (p : Handle → Bool) (u : Handle → Handle) : Core :=
  { c with h := c.h.map fun (n, h) => (n, if p h then u h else h) }

/-- The cores on which a placement of a function runs or is stopped. -/
def coresOfFunc (s : State) (f : Nat) : List Nat :=
  s.launches.flatMap fun (_, x) =>
    if x.func = f && (x.state = .running || x.state = .stopped || x.state = .saving) then x.cores else []

/-- The members of the placements of a function, running, saved out, or ended with accesses in flight: launch and rank. -/
def membersOfFunc (s : State) (f : Nat) : List (Nat × Nat) :=
  s.launches.flatMap fun (l, x) =>
    if x.func = f && (x.state = .running || x.state = .stopped || x.state = .saving || x.state = .saved || x.state = .ended) then
      (List.range x.cores.length).map fun r => (l, r)
    else []

/-- A launch is on no core: it is saved out, or has ended and only its last accesses are in flight. -/
def savedOut (s : State) (l : Nat) : Bool :=
  match s.launch? l with | some x => x.state == .saved || x.state == .ended | none => false

/-- Every use that a member has issued before a number has performed, and every such command is complete (R292); a placement that is
saved out has no access open (R293), and one that has ended issues no more: of that, whatever is still to perform is such a use. -/
def usesDone (s : State) (l r q : Nat) : Bool :=
  match s.launch? l with
  | none => true
  | some x =>
    !((openCommands (memberCore s l r)).any fun m => m.seq < q) &&
      (x.state == .saved || !((openOn s (x.cores.getD r 0) (some l)).any fun (_, a) => x.state == .ended || (a.role == .slot && a.seq < q)))

/-- A shootdown completes if it may; SHOOTN stays busy while another of the function's own is in progress (R292, R373). -/
def finishShoot (s : State) (n : Nat) : State :=
  match s.shoots.find n with
  | none => s
  | some d =>
    if d.waitCores.isEmpty && d.reached.all fun (l, r, q) => usesDone s l r q then
      let drop := fun (c : Core) => mapHandles c (fun h => h.cut && d.hits h) fun h => { h with valid := false, cut := false }
      let s1 := d.reached.foldl (fun st (l, r, _) => updMemberBoth st l r drop) s
      let s2 := { s1 with shoots := s1.shoots.del n }
      let busy := s2.shoots.any fun (_, o) => o.func == d.func && !o.host
      if d.host then { s2 with cmdst := 0 } else s2.updFunc d.func fun f => { f with shootBusy := busy }
    else s

/-- From now on a use of a matching handle by a member raises handle invalid (R292). -/
def reachMember (s : State) (d : Shootdown) (l r : Nat) : State × Shootdown :=
  let mark := fun (c : Core) => mapHandles c (fun h => h.valid && d.hits h) fun h => { h with cut := true }
  (updMemberBoth s l r mark, { d with reached := (l, r, (memberCore s l r).seq) :: d.reached })

/-- A placement leaves its cores, saved out or at its end: the requests that have not reached them reach its members now (R292, R293). -/
def reachSaved (s : State) (l : Nat) (x : Launch) : State :=
  s.shoots.foldl (fun st (n, d) =>
    let mine := (List.range x.cores.length).filter fun r => d.func == x.func && d.waitCores.contains (x.cores.getD r 0) && !(d.reached.any fun (k, q, _) => k == l && q == r)
    if mine.isEmpty then st
    else
      let (st1, d1) := mine.foldl (fun (acc : State × Shootdown) r => reachMember acc.1 acc.2 l r) (st, d)
      { st1 with shoots := st1.shoots.put n d1 }.due st1.now keyReply (.shootdownComplete n)) s

/-- A write of a subscription's range that waits is not performed, for a shootdown stops it (R302). -/
def stopsWrite (s : State) (d : Shootdown) (a : Access) : Bool :=
  a.cls == 1 && a.kind == .write && a.ident == d.func &&
    s.directory.any fun (_, y) => y.subs.any fun b => d.hitsRange b && a.pieces.any fun p => b.holds p.pa

/-- A request of a shootdown: cache entries go at once, handles of placements that are saved out are invalid, ranges of
subscriptions are written no more, what waits to be written there included, and the request sets out to every core of the function (R292,
R293, R302). -/
def startShoot (s : State) (d : Shootdown) : State :=
  let (n, s0) := s.newId
  let s1 := dropAccesses s0 fun _ a => stopsWrite s0 d a
  let cores := coresOfFunc s d.func
  let s2 := { s1 with
    tcache := s1.tcache.map fun (k, es) => (k, es.filter fun e => !d.hitsEntry e)
    directory := s1.directory.map fun (e, y) =>
      (e, { y with subs := y.subs.map fun b => if d.hitsRange b then { b with stopped := true } else b }) }
  let out := (membersOfFunc s d.func).filter fun (l, _) => savedOut s l
  let (s3, d1) := out.foldl (fun (acc : State × Shootdown) p => reachMember acc.1 acc.2 p.1 p.2) (s2, { d with waitCores := cores, reached := [] })
  let s4 := { s3 with shoots := s3.shoots.put n d1 }
  let s5 := cores.foldl (fun st g => (st.due (st.now + 1 + Config.shootDelay (st.place g)) 0 (.shootdownReachCore n g)).draw g) s4
  if cores.isEmpty then finishShoot s5 n else s5

/-- SHOOTDOWN_REACH_CORE (R292, R293): from this reference cycle on, a use of a matching handle raises handle invalid. -/
def execShootdownReachCore (sd g : Nat) (s : State) : Res :=
  match s.shoots.find sd with
  | none => .next s
  | some d =>
    if !d.waitCores.contains g then .next s
    else
      let c := s.core g
      let d1 := { d with waitCores := d.waitCores.filter (· != g) }
      let (s2, d2) := match c.launch with
        | some l =>
          if funcOfCore s c = d.func && !(d.reached.any fun (k, r, _) => k == l && r == c.rank) then reachMember s d1 l c.rank else (s, d1)
        | none => (s, d1)
      .next (finishShoot { s2 with shoots := s2.shoots.put sd d2 } sd)

/-- SHOOTDOWN_COMPLETE (R292): once the earlier uses have performed, matching handles read invalid and the requester is
told. -/
def execShootdownComplete (sd : Nat) (s : State) : Res := .next (finishShoot s sd)

/-- SHOOTN (R292, R373): a stage-1 shootdown of a range of virtual pages of the writing function. -/
def execShootN (s : State) : Res :=
  let f := s.func s.hostFn
  let d : Shootdown :=
    { func := s.hostFn, kind := 0, first := entryOut f.shootVa % 2 ^ 32, count := (bits s.hostVal 0 32).toNat, waitCores := []
      reached := [], host := false }
  .next (startShoot (s.updFunc s.hostFn fun f => { f with shootN := s.hostVal, shootBusy := true }) d)

/-- A command operand by its offset (R375). -/
def State.operand (s : State) (off : Nat) : Word := Table.get 0 s.operands (off / 8)

/-- A command is done (R374). -/
def cmdDone (s : State) : State := { s with cmdst := 0 }
/-- A command is refused with a reason (R375). -/
def cmdRefuse (s : State) (reason : Nat) : State := { s with cmdst := BitVec.ofNat 64 (2 ^ 62 + reason) }
/-- A command meets BUSY (R374). -/
def cmdBusy (s : State) : State := { s with cmdst := 2 ^ 63 }
/-- A command is in progress (R374). -/
def cmdStarted (s : State) : State := { s with cmdst := 3 * 2 ^ 62 }

/-- SHOOT2 (R292, R375): a stage-2 shootdown of a range of intermediate pages of a function. -/
def execShoot2 (s : State) : Res :=
  let d : Shootdown :=
    { func := (bits s.cmd 0 6).toNat, kind := 1, first := (bits (s.operand 0x10) 16 32).toNat
      count := (bits (s.operand 0x18) 0 32).toNat, waitCores := [], reached := [], host := true }
  .next (startShoot (cmdStarted s) d)

/-- SHOOTF (R292, R374): a whole-function shootdown. -/
def execShootF (s : State) : Res :=
  let d : Shootdown :=
    { func := (bits s.cmd 0 6).toNat, kind := 2, first := 0, count := 0, waitCores := [], reached := [], host := true }
  .next (startShoot (cmdStarted s) d)

end Sys2Proof.Machine
end

