-- ==== Sys2Proof/Machine/Commons.lean ====
section
/-!
DEFINITION. The commons directory: its acts on requests (R239 to R243, R297, R298), streams (R244, R305 to R308), period
boundaries (R301, R303), and the commands of system software (R296, R308, R375).
-/
namespace Sys2Proof.Machine

/-! ## Answers (R239, R243, R330) -/

/-- A commons result word (R243). -/
def resWord (res : Nat) (rest : BitVec 60) : Word := BitVec.ofNat 4 res ++ rest

/-- The result of a SUBSCRIBE or a LAPSE (R243). -/
def shareWord (share sub : Nat) : Word := resWord 0 (0#20 ++ BitVec.ofNat 32 share ++ BitVec.ofNat 8 sub)

/-- A request is answered: the result waits for its landing, or is written at the result address of the packet. -/
def answer (s : State) (id : Nat) (r : CommonsReq) (w : Word) : State :=
  let s1 := { s with commonsReqs := s.commonsReqs.del id }
  match r.rank with
  | some k => giveMember s1 r.launch k r.reqId (leBytes 8 w.toNat)
  | none => writeResult s1 r.queue id r.func r.raddr r.packet w

/-- A request is answered after what it has caused: while a status write or a notice of its act, whose accesses begin at `first`, has
still to perform, the result is kept (R301, R310). -/
def answerAfter (first : Nat) (s : State) (id : Nat) (r : CommonsReq) (w : Word) : State :=
  match writesFrom s first with
  | [] => answer s id r w
  | ws => { s with commonsReqs := s.commonsReqs.put id { r with result := some w, waits := ws } }

/-- The directory acts on a request; one that it has acted on already is answered once its writes have performed (R301). -/
def actOn (id : Nat) (act : CommonsReq → State → State) (s : State) : Res :=
  match s.commonsReqs.find id with
  | none => .next s
  | some r =>
    match r.result with
    | some w => .next (if r.waits.isEmpty then answer s id r w else s)
    | none => .next (act r s)

/-- A request is refused with a result code: nothing changes (R243). -/
def refuse (s : State) (id : Nat) (r : CommonsReq) (res : Nat) : State := answer s id r (resWord res 0)

/-! ## Records that a request names (R239, R297) -/

/-- The requesting core as it stands. -/
def requester (s : State) (r : CommonsReq) : Core := memberCore s r.launch (r.rank.getD 0)

/-- A record of the requesting core that the directory may write, with `n` bytes from offset `o`: its physical address.
The directory reads records and handles when it acts; a handle that is not valid then is no record (R239). -/
def recordRange (s : State) (c : Core) (num o n : Nat) : Option Nat :=
  let bf := c.bfGet num
  let hd := c.hGet bf.hnum
  if hd.valid && !hd.cut && hd.write && o + n ≤ bf.ext && bf.base + o + n ≤ hd.extent &&
      (addressCheck s true [⟨0, hd.base + bf.base + o, n⟩]).isNone && !isDomain (hd.base + bf.base + o) then
    some (hd.base + bf.base + o)
  else none

/-- The range of a subscription: its pages, the offset in the first, its extent, and the virtual address and the intermediate
pages that a shootdown is matched with (R302). -/
structure SbfRange where
  pages : List Nat
  off : Nat
  ext : Nat
  va : Option Nat
  ipages : List Nat
deriving DecidableEq, Repr

/-- The range of record SBF of a core (R240, R297). -/
def sbfOfCore (s : State) (c : Core) (num : Nat) : Option SbfRange :=
  let bf := c.bfGet num
  let hd := c.hGet bf.hnum
  if bf.ext < 192 then none
  else
    (recordRange s c num 0 bf.ext).map fun pa =>
      let places := List.range ((pa % 65536 + bf.ext + 65535) / 65536)
      { pages := places.map fun i => pa / 65536 + i
        off := pa % 65536, ext := bf.ext, va := if hd.region.isSome then none else some (hd.va.toNat + bf.base)
        ipages := if hd.region.isSome then [] else places.map fun i => (hd.ipa + bf.base) / 65536 + i }

/-- A page that the directory may write: none of the commons set, of metadata, of the deep tier or of another device (R264, R296). -/
def writablePage (s : State) (p : Nat) : Bool := (addressCheck s true [⟨0, p * 65536, 65536⟩]).isNone && !isDomain (p * 65536)

/-- The range that a COMMONS packet names (R297, R330). -/
def sbfOfPacket (s : State) (f saddr sext : Nat) : Option SbfRange :=
  if sext < 192 then none
  else
    match walkRange s f saddr sext true with
    | none => none
    | some es =>
      if es.all fun e => writablePage s e.ppage then
        some { pages := es.map (·.ppage), off := saddr % 65536, ext := sext, va := some saddr, ipages := es.map (·.ipage) }
      else none

/-! ## Shares (R298) -/

/-- The computed shares of an entry's subscriptions, oldest first (R298). -/
def sharesOf (cost n : Nat) : List Nat := (List.range n).map fun i => cost / n + (if i < cost % n then 1 else 0)

/-- The shares of an entry are computed anew. -/
def recompute (d : DirEntry) : DirEntry :=
  { d with subs := (d.subs.zip (sharesOf d.cost d.subs.length)).map fun (b, x) => { b with computed := x } }

/-- A limit notice for a subscription whose new computed share exceeds LIMIT and differs from the one before (R301). -/
def limitNotice (old : List Subscription) (s : State) (b : Subscription) : State × Subscription :=
  let before := match old.find? fun o => o.queue == b.queue && o.sub == b.sub with | some o => o.computed | none => 0
  if b.limit < b.computed && b.computed != before then writeNotice s b 1 0 b.limit else (s, b)

/-- Limit notices after a change, in ascending age. -/
def limitNotices (s : State) (e : Nat) (d : DirEntry) (old : List Subscription) : State :=
  let (s1, subs) := overSubs (limitNotice old) s d.subs
  s1.setEntry e { d with subs := subs }

/-- What follows an act: the status block of every subscription, one that has lapsed at its place with ST = 1, then the
limit notices (R301). -/
def afterAct (s : State) (e : Nat) (old : List Subscription) (d : DirEntry) (gone : Option Subscription) : State :=
  let d1 := recompute d
  let all : List (Subscription × Nat) := match gone with
    | none => d1.subs.map fun b => (b, 0)
    | some g => old.map fun o =>
        if o.queue = g.queue && o.sub = g.sub then (g, 1)
        else ((d1.subs.find? fun b => b.queue == o.queue && b.sub == o.sub).getD o, 0)
  let (s1, subs) := all.foldl (fun (acc : State × List Subscription) (p : Subscription × Nat) =>
    let (st, bs) := acc
    let (b, k) := p
    let (st1, b1) := writeStatus st d1 b k
    (st1, if k = 0 then bs ++ [b1] else bs)) (s, [])
  limitNotices (s1.setEntry e { d1 with subs := subs }) e { d1 with subs := subs } old

/-! ## SUBSCRIBE (R240, R243, R297) -/

/-- The entry with a key that is held or unheld. -/
def entryOfKey (s : State) (lo hi : Word) : Option (Nat × DirEntry) :=
  s.directory.find? fun (_, d) => d.state != 0 && d.key == (lo, hi)

/-- The subscription numbers that a queue uses. -/
def subsOfQueue (s : State) (q : Nat) : List Nat :=
  s.directory.flatMap fun (_, d) => (d.subs.filter fun b => b.queue == q).map (·.sub)

/-- The lowest number that a queue does not use (R297). -/
def lowestSub (used : List Nat) : Nat := ((List.range 256).find? fun k => !used.contains k).getD 0

/-- The poison notices that a new subscription receives at its act (R308). -/
def poisonNotices (s : State) (b : Subscription) : List Nat → State × Subscription
  | [] => (s, b)
  | t :: ts =>
    let (s1, b1) := writeNotice s b 3 0 t
    poisonNotices s1 b1 ts

/-- The reference cycle for which the translation of a packet's range waits (R285). -/
def rangeHeld (s : State) (r : CommonsReq) : Option Nat :=
  if r.rank.isNone && 192 ≤ r.sext then rangeWait s r.func r.saddr r.sext else none

/-- The act on a SUBSCRIBE (R297): the checks, in the order block, key, right, subscribed, room, range; then the subscription. A packet's
range is translated once no block of a table that it needs is in re-encryption (R285). -/
def subscribeAct (id : Nat) (r : CommonsReq) (s : State) : State :=
  let w := fun i => r.block.getD i 0
  let block := r.rank.isNone || (bits (w 2) 33 31 = 0 && bits (w 3) 5 59 = 0)
  let used := subsOfQueue s r.queue
  if !block then refuse s id r 6
  else
    match entryOfKey s (w 0) (w 1) with
    | none => refuse s id r 1
    | some (e, d) =>
      if !d.rights.getLsbD r.func then refuse s id r 2
      else if d.subs.any fun b => b.queue == r.queue then refuse s id r 4
      else if 256 ≤ d.subs.length || 256 ≤ used.length then refuse s id r 3
      else match rangeHeld s r with
      | some t => s.due t 6000 (.subscribeAct id)
      | none =>
        let sbf := (bits (w 3) 0 5).toNat
        let range := match r.rank with
          | some _ => sbfOfCore s (requester s r) sbf
          | none => sbfOfPacket s r.func r.saddr r.sext
        match range with
        | none => refuse s id r 6
        | some g =>
          let b : Subscription :=
            { queue := r.queue, func := r.func, sub := lowestSub used, limit := (bits (w 2) 0 32).toNat, hard := (w 2).getLsbD 32
              computed := 0, inForce := 0, pages := g.pages, off := g.off, va := g.va, ipages := g.ipages, ext := g.ext, recNum := sbf
              notice := match r.rank, r.flag with | some k, some f => some (r.launch, k, f) | _, _ => none
              seqNo := 0, capPaid := 0, fetPaid := 0, nprod := 0, stopped := false }
          let d1 := { d with state := 1, lastLeft := none, unheldAt := none, subs := d.subs ++ [b] }
          let s1 := afterAct s e d.subs d1 none
          let d2 := (s1.directory.find e).getD d1
          let (s2, b2) := poisonNotices s1 (d2.subs.getLastD b) d2.poisoned.reverse
          let s3 := s2.setEntry e { d2 with subs := d2.subs.dropLast ++ [b2] }
          answerAfter s.nextId s3 id r (shareWord b2.computed b2.sub)

/-- SUBSCRIBE_ACT (R297). -/
def execSubscribeAct (id : Nat) (s : State) : Res := actOn id (subscribeAct id) s

/-! ## Boardings -/

/-- Every boarding of the cores of a queue on an entry ends after the tile in flight (R243, R244); where several are, after the last tile
fetched (DESIGN CHOICE, log entry 132). -/
def endBoarding (e fetched : Nat) (p : Boarding → Bool) (c : Core) : Core :=
  { c with boardings := c.boardings.map fun b =>
      if b.entry = e && b.stop.isNone && p b then { b with stop := some (Nat.max b.g0 fetched) } else b }

/-- The fetch cycle of a tile of the present schedule (R305). -/
def DirEntry.fetchAt (d : DirEntry) (q : Nat) : Nat := d.fstart + (q - d.first) * d.period

/-- The tiles of a stream fetched by now are those below this number (R305). -/
def fetchedBelow (s : State) (d : DirEntry) : Nat :=
  if !d.run then d.nextSeq
  else if d.fstart ≤ s.now && 0 < d.period then d.first + (s.now - d.fstart) / d.period + 1
  else d.first

/-- Change every placed core and every core that is saved out. -/
def mapCores (s : State) (f : Core → Core) : State :=
  { s with cores := s.cores.map fun (g, c) => (g, f c)
           launches := s.launches.map fun (l, x) => (l, { x with savedCores := x.savedCores.map f }) }

/-- The boardings of a queue's cores on an entry end. -/
def endQueueBoardings (s : State) (e : Nat) (d : DirEntry) (queue : Nat) : State :=
  mapCores s (endBoarding e (fetchedBelow s d) fun b => b.queue == queue)

/-- The boardings on an entry end. -/
def endEntryBoardings (s : State) (e : Nat) (d : DirEntry) : State := mapCores s (endBoarding e (fetchedBelow s d) fun _ => true)

/-! ## LAPSE (R243, R297, R298) -/

/-- The period in which the last subscription has left, when none is left (R303). -/
def noteLeft (s : State) (d : DirEntry) : DirEntry := if d.subs.isEmpty then { d with lastLeft := some (periodNow s) } else d

/-- The act on a LAPSE (R297, R298, R301). -/
def lapseAct (id : Nat) (r : CommonsReq) (s : State) : State :=
  match if 256 ≤ r.sub then none else entryOfSub s r.queue r.sub with
  | none => refuse s id r 1
  | some (e, d) =>
    match d.subs.find? fun b => b.queue == r.queue && b.sub == r.sub with
    | none => refuse s id r 1
    | some b =>
      let s1 := endQueueBoardings s e d r.queue
      let d1 := noteLeft s1 { d with subs := d.subs.filter fun o => !(o.queue == b.queue && o.sub == b.sub) }
      answerAfter s.nextId (afterAct s1 e d.subs d1 (some b)) id r (shareWord b.computed b.sub)

/-- LAPSE_ACT (R297, R298, R301). -/
def execLapseAct (id : Nat) (s : State) : Res := actOn id (lapseAct id) s

/-! ## BOARD and ALIGHT (R241, R243, R244, R306) -/

/-- The first tile whose fetch cycle is later than `a` + 64 (R306). -/
def firstSeq (d : DirEntry) (a : Nat) : Nat := d.first + (if a + 64 < d.fstart then 0 else (a + 64 - d.fstart) / d.period + 1)

/-- The block of a BOARD has no bit set that R241 keeps zero. -/
def boardBlockOk (w0 w1 : Word) : Bool :=
  !w0.getLsbD 13 && bits w0 39 25 = 0 &&
    (if w0.getLsbD 8 then bits w0 29 5 = 0 && bits w1 0 32 = 0 else bits w0 14 15 = 0)

/-- The slots of a BOARD lie inside their records, or within the weight buffer (R241). A record that cannot take a delivery, for it is not
writable, lies in the domain window or, for images, is not in scratchpad, counts as one that does not hold them (DESIGN CHOICE, log
entry 131). -/
def boardSlotsOk (s : State) (c : Core) (d : DirEntry) (w0 w1 : Word) : Bool :=
  let n := (bits w0 9 4).toNat + 1
  let hdr := (recordRange s c (bits w0 34 5).toNat (bits w1 32 32).toNat (n * d.headerSize)).isSome
  let img :=
    if w0.getLsbD 8 then decide ((bits w0 14 15).toNat + n * imageLines (11 + d.fmt) ≤ 32768)
    else
      match recordRange s c (bits w0 29 5).toNat (bits w1 0 32).toNat (n * d.imageSize) with
      | some pa => isScratch pa
      | none => false
  hdr && img

/-- The landing cycle of a request's result. -/
def landingOf (c : Core) (id : Nat) : Nat := ((c.reqs.find? (·.id == id)).map (·.arr)).getD 0

/-- The act on a BOARD (R241, R306). -/
def boardAct (id : Nat) (r : CommonsReq) (s : State) : State :=
  let c := requester s r
  let w0 := r.block.getD 0 0
  let w1 := r.block.getD 1 0
  match entryOfSub s r.queue (bits w0 0 8).toNat with
  | none => refuse s id r (if boardBlockOk w0 w1 then 1 else 6)
  | some (e, d) =>
    if !boardBlockOk w0 w1 then refuse s id r 6
    else if c.boardings.any fun b => b.stop.isNone then refuse s id r 4
    else if !d.run then refuse s id r 5
    else if !boardSlotsOk s c d w0 w1 then refuse s id r 6
    else
      let g0 := firstSeq d s.now
      let base := c.cycle + (d.fetchAt g0 + 1024 - s.now)
      let full := if landingOf c r.reqId < base then base else base + 2 ^ 32
      let rec_ := fun n => CopyRec.mk n (c.bfGet n) (c.hGet (c.bfGet n).hnum)
      let b : Boarding :=
        { entry := e, sub := (bits w0 0 8).toNat, queue := r.queue, g0 := g0, k0 := g0 % d.nt, stop := none, base := full
          period := d.period, nbuf := (bits w0 9 4).toNat + 1, wb := w0.getLsbD 8, line := (bits w0 14 15).toNat
          doff := (bits w1 0 32).toNat, hoff := (bits w1 32 32).toNat
          dst := if w0.getLsbD 8 then none else some (rec_ (bits w0 29 5).toNat), hdr := rec_ (bits w0 34 5).toNat
          flag := r.flag, complete := [], pending := [] }
      let s1 := updMember s r.launch (r.rank.getD 0) fun c => { c with boardings := b :: c.boardings }
      answer s1 id r (resWord 0 (BitVec.ofNat 12 b.k0 ++ BitVec.ofNat 16 d.period ++ BitVec.ofNat 32 base))

/-- BOARD_ACT (R241, R306). -/
def execBoardAct (id : Nat) (s : State) : Res := actOn id (boardAct id) s

/-- KLAST: the core's tile K0 + i that a boarding delivers last; of one that delivers none, the tile before its first (R243, R306;
DEDUCED, log entry 101). -/
def lastTile (b : Boarding) : Nat := (b.k0 + b.stop.getD b.g0 + 4095 - b.g0) % 4096

/-- The act on an ALIGHT (R243, R244): no tile after the one in flight is sent. -/
def alightAct (id : Nat) (r : CommonsReq) (s : State) : State :=
  match if 256 ≤ r.sub then none else entryOfSub s r.queue r.sub with
  | none => refuse s id r 1
  | some (e, d) =>
    let mine := fun (b : Boarding) => b.stop.isNone && b.entry == e && b.sub == r.sub
    match (requester s r).boardings.find? mine with
    | none => refuse s id r 4
    | some b =>
      let n := fetchedBelow s d
      let s1 := updMember s r.launch (r.rank.getD 0) (endBoarding e n fun b => b.sub == r.sub)
      answer s1 id r (resWord 0 (BitVec.ofNat 12 (lastTile { b with stop := some (Nat.max b.g0 n) }) ++ 0#40 ++
        BitVec.ofNat 8 r.sub))

/-- ALIGHT_ACT (R243, R244). -/
def execAlightAct (id : Nat) (s : State) : Res := actOn id (alightAct id) s

/-! ## CSTAT (R243, R302, R307) -/

/-- The next tile of a boarding at a `%cycle`, counted from its first (R307). -/
def nextTile (b : Boarding) (cycle : Nat) : Nat := if cycle ≤ b.base then 0 else (cycle - b.base + b.period - 1) / b.period

/-- The tiles after the core's next one that are already complete for it (R307). -/
def tilesAhead (c : Core) (e : Nat) : Nat :=
  match c.boardings.find? fun b => b.stop.isNone && b.entry == e with
  | none => 0
  | some b => (b.complete.filter fun q => b.g0 + nextTile b c.cycle < q).length

/-- A subscription with a new range is written again, and its status block at once (R302). -/
def reattach (s : State) (e : Nat) (d : DirEntry) (b : Subscription) : State :=
  let (s1, b1) := writeStatus s d b 0
  s1.setEntry e { d with subs := d.subs.map fun o => if o.queue = b.queue && o.sub = b.sub then b1 else o }

/-- The act on a CSTAT (R240, R243, R302). -/
def cstatAct (id : Nat) (r : CommonsReq) (s : State) : State :=
  match if 256 ≤ r.sub then none else entryOfSub s r.queue r.sub with
  | none => refuse s id r 1
  | some (e, d) =>
    match d.subs.find? fun b => b.queue == r.queue && b.sub == r.sub with
    | none => refuse s id r 1
    | some b =>
      let ahead := match r.rank with | some _ => Nat.min (tilesAhead (requester s r) e) 4095 | none => 0
      let w := resWord 0 (BitVec.ofNat 2 (tierField d) ++ BitVec.ofBool d.run ++ BitVec.ofBool (!d.poisoned.isEmpty) ++
        BitVec.ofNat 12 ahead ++ 0#4 ++ BitVec.ofNat 32 b.computed ++ BitVec.ofNat 8 b.sub)
      match r.rank, r.flag with
      | some k, some f =>
        match sbfOfCore s (requester s r) b.recNum with
        | none => refuse s id r 6
        | some g =>
          let b1 := { b with notice := some (r.launch, k, f), pages := g.pages, off := g.off, va := g.va, ipages := g.ipages
                             ext := g.ext, stopped := false }
          answerAfter s.nextId (reattach s e d b1) id r w
      | _, _ => answer s id r w

/-- CSTAT_ACT (R240, R243, R302). -/
def execCstatAct (id : Nat) (s : State) : Res := actOn id (cstatAct id) s

/-! ## Streams (R244, R305 to R308) -/

/-- The address of a tile's image and of its headers where a delivery reads them: the HBM copy, or the deep tier (R305,
R307). -/
def tileSource (s : State) (d : DirEntry) (t : Nat) : Nat × Nat :=
  if d.tier = 2 then
    ((bits (d.word 5) 0 52).toNat + t * d.imageSize, (bits (d.word 6) 0 52).toNat + t * d.headerSize)
  else
    let b := (commonsBase s).getD 0
    (b + d.imageAt t, b + d.headerAt t)

/-- The address of a tile in the replica (R294, R308). -/
def replicaSource (d : DirEntry) (t : Nat) : Nat × Nat :=
  ((bits (d.word 7) 0 52).toNat + t * d.imageSize, (bits (d.word 8) 0 52).toNat + t * d.headerSize)

/-- The stored image bytes of a tile: its map and the codes that the map names (R294). -/
def storedImage (d : DirEntry) (img : List Byte) : List Byte :=
  img.take (64 + codeBytes (11 + d.fmt) * popcount 512 (leNat (img.take 64)))

/-- The lines of a tile at a place. -/
def tileLines (d : DirEntry) (p : Nat × Nat) : List Span :=
  cutLines (d.imageSize / 64 + 2) 0 p.1 d.imageSize ++ cutLines (d.headerSize / 64 + 2) 0 p.2 d.headerSize

/-- Some line of a tile at a place holds an error that its code does not correct. -/
def tileBad (s : State) (d : DirEntry) (p : Nat × Nat) : Bool := (tileLines d p).any fun sp => lineBad s sp.pa

/-- A tile as a delivery takes it from a place, with its mark (R305, R308). -/
def tileAt (s : State) (d : DirEntry) (q : Nat) (p : Nat × Nat) : Staged :=
  { img := storedImage d (readBytes s p.1 d.imageSize), hdr := readBytes s p.2 d.headerSize, poison := d.poisoned.contains (q % d.nt)
    read := false, fetched := false, retried := false, at_ := 0 }

/-- The fetch size of a tile (R294). -/
def Staged.size (t : Staged) : Nat := t.img.length + t.hdr.length

/-- Change what is staged of an entry for a tile. -/
def putStaged (s : State) (e q : Nat) (t : Staged) : State :=
  match s.directory.find e with
  | some d => s.setEntry e { d with staged := d.staged.put q t }
  | none => s

/-- A boarding includes a tile of an entry. -/
def Boarding.covers (b : Boarding) (e q : Nat) : Bool :=
  b.entry == e && b.g0 ≤ q && (match b.stop with | none => true | some n => q < n)

/-- The cores with a boarding that includes a tile: global core number, launch, rank (R299, R305). -/
def boarders (s : State) (e q : Nat) : List (Nat × Nat × Nat) :=
  s.launches.flatMap fun (l, x) =>
    if x.live then
      (List.range x.cores.length).filterMap fun r =>
        if (memberCore s l r).boardings.any (·.covers e q) then some (x.cores.getD r 0, l, r) else none
    else []

/-- The charge of a fetch among the boarded subscriptions, the oldest paying the rest (R299). -/
def chargeFetch (s : State) (e q size : Nat) : State :=
  match s.directory.find e with
  | none => s
  | some d =>
    let queues := ((boarders s e q).filterMap fun (_, l, _) => (s.launch? l).map (·.queue)).eraseDups
    let m := (d.subs.filter fun b => queues.contains b.queue).length
    if m = 0 then s
    else
      let (_, subs) := d.subs.foldl (fun (acc : Nat × List Subscription) b =>
        let (i, bs) := acc
        if queues.contains b.queue then
          (i + 1, bs ++ [{ b with fetPaid := b.fetPaid + size / m + (if i < size % m then 1 else 0) }])
        else (i, bs ++ [b])) (0, [])
      s.setEntry e { d with subs := subs, fetSum := d.fetSum + size }

/-- The reference cycles before its completion at which a tile reaches the remote ports of its slot (DESIGN CHOICE, log entry 113). -/
def streamLead : Nat := 128

/-- The writes of a tile to the slots of its boarders are due, to be complete at a reference cycle (R305). -/
def dueTile (s : State) (e q t : Nat) : State :=
  (boarders s e q).foldl (fun st (g, _, _) => st.due (t - streamLead) 30 (.streamSlotWrite g e q)) s

/-- A tile is read from its HBM copy (R305): the errors of its cells show, and a poisoned line marks the tile; a mark that it had at its
fetch cycle stays (R281, R308). -/
def readTile (s : State) (e q : Nat) (t : Staged) : State :=
  match s.directory.find e with
  | none => s
  | some d =>
    let lines := tileLines d (tileSource s d (q % d.nt))
    let s1 := lines.foldl (fun st sp => meetFlaw st sp.pa) s
    let s2 := if lines.any fun sp => poisoned s1 sp.pa then markTile s1 e (q % d.nt) else s1
    match s2.directory.find e with
    | none => s2
    | some d2 =>
      let x := tileAt s2 d2 q (tileSource s2 d2 (q % d.nt))
      putStaged s2 e q { x with poison := x.poison || t.poison, read := true, fetched := true, at_ := t.at_ }

/-- The end of the re-encryption that the read of a tile's HBM copy has to wait for (R285). -/
def tileWait (s : State) (d : DirEntry) (q : Nat) : Option Nat :=
  (tileLines d (tileSource s d (q % d.nt))).findSome? fun sp => reencrypting s sp.pa

/-- STREAM_FETCH (R299, R305): the tile is fetched for every boarder and charged once; one read from the deep tier follows
its read, and one of a block in re-encryption waits for its end (R285, R307). Without a boarder nothing is delivered, but a deep-tier read
under way goes on to its end (R308). -/
def execStreamFetch (e q : Nat) (s : State) : Res :=
  match s.directory.find e with
  | none => .next s
  | some d =>
    if !d.run then .next s
    else
      let s0 := s.due (s.now + d.period) 25 (.streamFetch e (q + 1))
      if (boarders s0 e q).isEmpty then
        .next (match d.staged.find q with
          | some t => if t.read then s0.setEntry e { d with staged := d.staged.del q } else putStaged s0 e q { t with fetched := true }
          | none => s0)
      else
        let t0 := (d.staged.find q).getD (tileAt s0 d q (tileSource s0 d (q % d.nt)))
        let t := { t0 with fetched := true, poison := t0.poison || d.poisoned.contains (q % d.nt), at_ := s0.now + 1024 }
        let s1 := chargeFetch (putStaged s0 e q t) e q t.size
        if d.tier = 2 then .next (if t.read then dueTile s1 e q t.at_ else s1)
        else .next (dueTile (if (tileWait s1 d q).isSome then s1 else readTile s1 e q t) e q t.at_)

/-- The staging copy of a tile goes once every boarder has received it (R305). -/
def dropStaged (s : State) (e q : Nat) : State :=
  let waits := (boarders s e q).any fun (_, l, r) =>
    (memberCore s l r).boardings.any fun b => b.covers e q && !b.complete.contains q
  match s.directory.find e with
  | some d => if waits then s else s.setEntry e { d with staged := d.staged.del q }
  | none => s

/-- DEEP_TIER_READ_START (R307): the read of a tile begins; that of the next tile begins a period later, and while the reads are behind the
schedule in the next cycle (DESIGN CHOICE, log entry 134). -/
def execDeepTierReadStart (e q : Nat) (s : State) : Res :=
  match s.directory.find e with
  | none => .next s
  | some d =>
    if !d.run || d.tier != 2 then .next s
    else
      let next := Nat.max (s.now + 1) (d.fetchAt (q + 1) - d.pre * d.period)
      let p := tileSource s d (q % d.nt)
      let s1 := (s.setEntry e { d with staged := d.staged.put q (tileAt s d q p) }).due next 24 (.deepTierReadStart e (q + 1))
      .next (s1.due (s1.now + 1 + Config.deepReadTime s1.fresh) 24 (.deepTierReadEnd e q (tileBad s d p))).tick

/-- DEEP_TIER_READ_END (R307, R308): the tile is there for its delivery; a failing read is tried again once from the replica, which takes
another read, or the tile is marked poisoned. -/
def execDeepTierReadEnd (e q : Nat) (bad : Bool) (s : State) : Res :=
  match s.directory.find e with
  | none => .next s
  | some d =>
    match d.staged.find q with
    | none => .next s
    | some t =>
      if bad && (d.word 7).getLsbD 63 && !t.retried then
        let p := replicaSource d (q % d.nt)
        let s1 := putStaged s e q { tileAt s d q p with fetched := t.fetched, retried := true, at_ := t.at_ }
        .next (s1.due (s1.now + 1 + Config.deepReadTime s1.fresh) 24 (.deepTierReadEnd e q (tileBad s d p))).tick
      else
        let s1 := if bad then markTile s e (q % d.nt) else s
        let at_ := Nat.max t.at_ (s1.now + 1024)
        let s2 := putStaged s1 e q { t with poison := t.poison || bad, read := true, at_ := at_ }
        .next (if t.fetched then dropStaged (dueTile s2 e q at_) e q else s2)

/-- A core has reached a `%cycle`: every issue before it has taken place, or it has halted (R244). -/
def reached (c : Core) (t : Nat) : Bool := c.halted || t ≤ c.cycle

/-- A slot for a tile of a boarding is free: the tile NBUF − 1 before it is due, or lies before the boarding's first (R244). -/
def slotFree (c : Core) (b : Boarding) (q : Nat) : Bool :=
  let i := q - b.g0
  i + 1 < b.nbuf || reached c (b.base + (i + 1 - b.nbuf) * b.period)

/-- The slot of a boarding that takes a tile (R241). -/
def slotOf (b : Boarding) (q : Nat) : Nat := (q - b.g0) % b.nbuf

/-- The lines that a tile writes through a record. -/
def slotLines (r : CopyRec) (o : Nat) (data : List Byte) (p : Bool) : List Piece :=
  (cutLines (data.length / 64 + 2) 0 (r.handle.base + r.buf.base + o) data.length).map fun sp =>
    { pa := sp.pa, off := sp.off, len := sp.len, bytes := ((data.drop sp.off).take sp.len).map some, due := 0, done := false, poisoned := p }

/-- The lines of memory that a tile writes in its slot: its headers, and its image when that goes to scratchpad (R241). -/
def slotPieces (b : Boarding) (q : Nat) (t : Staged) (lmax hsize : Nat) : List Piece :=
  let img := match b.dst with
    | some d => slotLines d (b.doff + slotOf b q * 64 * lmax) t.img t.poison
    | none => []
  img ++ slotLines b.hdr (b.hoff + slotOf b q * hsize) t.hdr t.poison

/-- The writes of a tile to a slot of a core of a launch, until they are acknowledged (R271). -/
def inFlight (s : State) (g l e q : Nat) : Bool :=
  s.accesses.any fun (_, a) => a.role == .stream && a.g == g && a.launch == some l && a.cls == e && a.ident == q

/-- Some line of a tile has still to be written in a slot. -/
def unwritten (s : State) (g l e q : Nat) : Bool :=
  s.accesses.any fun (_, a) =>
    a.role == .stream && a.g == g && a.launch == some l && a.cls == e && a.ident == q && a.pieces.any fun p => !p.done

/-- Change the boardings of a member that include a tile. -/
def updBoarding (s : State) (l r e q : Nat) (u : Boarding → Boarding) : State :=
  updMember s l r fun c => { c with boardings := c.boardings.map fun b => if b.covers e q then u b else b }

/-- The lines of a tile come to the remote ports of a boarder's slot, if the slot is free; otherwise the write is withheld (R241, R244,
R271, R305). -/
def startSlot (s : State) (e q : Nat) (t : Staged) (lmax hsize : Nat) (p : Nat × Nat × Nat) : State :=
  let (g, l, r) := p
  let c := memberCore s l r
  match c.boardings.find? (·.covers e q) with
  | none => s
  | some b =>
    if b.complete.contains q || inFlight s g l e q then s
    else if !slotFree c b q then
      if b.pending.contains q then s else updBoarding s l r e q fun b => { b with pending := q :: b.pending }
    else
      let s1 := updBoarding s l r e q fun b => { b with pending := b.pending.filter (· != q) }
      let (n, s2) := s1.newId
      let x : Access :=
        { role := .stream, g := g, launch := some l, seq := 0, slot := 7, issue := 0, baddr := 0, rep := 0, cls := e, mask := 0
          kind := .write, ord := 0, pieces := slotPieces b q t lmax hsize, size := 0, region := 0, held := false, left := true
          strict := false, sent := 0, reply := 0, done := false, ident := q, old := 0 }
      (numbered x.pieces).foldl (fun st (i, _) => st.due st.now keyPlain (.accessPerform n i)) { s2 with accesses := s2.accesses.put n x }

/-- STREAM_SLOT_WRITE (R241, R244, R305): a tile goes to the slots of its boarders on a core. -/
def execStreamSlotWrite (g e q : Nat) (s : State) : Res :=
  match s.directory.find e with
  | none => .next s
  | some d =>
    match d.staged.find q with
    | none => .next s
    | some t =>
      match if t.read then none else tileWait s d q with
      | some w => .next (s.due w 30 (.streamSlotWrite g e q))
      | none =>
        let s1 := if t.read then s else readTile s e q t
        let t1 := ((s1.directory.find e).bind fun d => d.staged.find q).getD t
        .next (((boarders s1 e q).filter fun (k, _, _) => k == g).foldl (fun st p =>
          startSlot st e q t1 (imageLines (11 + d.fmt)) d.headerSize p) s1)

/-- The image of a tile goes into a weight buffer; a rollback does not undo it (R241, R355). -/
def putImage (s : State) (l r : Nat) (b : Boarding) (q : Nat) (t : Staged) (lmax : Nat) : State :=
  match b.dst with
  | some _ => s
  | none =>
    let put := wbWrite (wbLines (t.img.length / 64 + 2) (b.line + slotOf b q * lmax) (t.img.map fun x => (x, t.poison)))
    updMemberBoth s l r put

/-- A tile is complete in its slot of a boarder, and its tile flag is set; a boarding that has ended goes with its last tile (R244). -/
def completeTile (s : State) (e q : Nat) (t : Staged) (lmax : Nat) (p : Nat × Nat × Nat) : State :=
  let (g, l, r) := p
  match (memberCore s l r).boardings.find? (·.covers e q) with
  | none => s
  | some b =>
    if b.complete.contains q || b.pending.contains q || unwritten s g l e q then s
    else
      let s1 := updBoarding (putImage s l r b q t lmax) l r e q fun b => { b with complete := q :: b.complete }
      let goesOn := fun (x : Boarding) => match x.stop with | none => true | some n => decide (x.complete.length < n - x.g0)
      setMemberFlag (updMember s1 l r fun c => { c with boardings := c.boardings.filter goesOn }) l r b.flag

/-- STREAM_TILE_COMPLETE (R244, R305): the writes of a tile to the slots of its boarders on a core have performed; the tile is complete
there no earlier than its schedule has it. -/
def execStreamTileComplete (g e q : Nat) (s : State) : Res :=
  match s.directory.find e with
  | none => .next s
  | some d =>
    match d.staged.find q with
    | none => .next s
    | some t =>
      if s.now < t.at_ then .next (s.due t.at_ 30 (.streamTileComplete g e q)) else
      let s1 := ((boarders s e q).filter fun (k, _, _) => k == g).foldl (fun st p => completeTile st e q t (imageLines (11 + d.fmt)) p) s
      .next (dropStaged s1 e q)

/-- The withheld writes whose slots the progress of a core has freed are due (R244). -/
def freeSlots (s : State) (g : Nat) : State :=
  let c := s.core g
  c.boardings.foldl (fun st b => b.pending.foldl (fun st q =>
    if slotFree c b q then st.dueOnce (st.now + 1) 30 (.streamSlotWrite g b.entry q) else st) st) s

/-- A stream ends: nothing more is fetched, and every boarding ends after the tile in flight (R296, R303). -/
def stopStream (s : State) (e : Nat) : State :=
  match s.directory.find e with
  | none => s
  | some d =>
    let n := fetchedBelow s d
    let later := fun (i : Instr) => match i with
      | .streamFetch k _ => k == e
      | .deepTierReadStart k _ => k == e
      | .deepTierReadEnd k q _ => k == e && n ≤ q
      | _ => false
    ((endEntryBoardings s e d).undue later).setEntry e { d with run := false, nextSeq := n, staged := d.staged.filter fun (q, _) => q < n }

/-- The order of the commands of system software: after the requests of every core (R239, R296). -/
def keyCommand : Nat := 7290

/-- STREAM_STOP (R296). -/
def execStreamStop (e : Nat) (s : State) : Res := .next (stopStream s e)

/-- A stream starts with the first tile whose fetch cycle is still to come; a deep-tier stream reads ahead (R305, R307). A schedule that
runs ends with the command, and its boardings with it, as at STOP; its tiles that are in flight go on (DESIGN CHOICE, log entry 133). A
read that would have begun before the command begins at the next cycle (DESIGN CHOICE, log entry 134). -/
def startStream (s : State) (e : Nat) (d : DirEntry) : State :=
  let s1 := stopStream s e
  let old := (s1.directory.find e).getD d
  let first := (old.nextSeq + d.nt - 1) / d.nt * d.nt
  let q := first + (if s.now < d.fstart then 0 else (s.now - d.fstart) / d.period + 1)
  let d1 := { d with run := true, first := first, nextSeq := old.nextSeq, staged := old.staged }
  let s2 := (s1.setEntry e d1).due (d1.fetchAt q) 25 (.streamFetch e q)
  if d.tier = 2 then s2.due (Nat.max (s.now + 1) (d1.fetchAt q - d.pre * d.period)) 24 (.deepTierReadStart e q) else s2

/-! ## Period boundaries (R295, R301, R303) -/

/-- A subscription lapses by force: its boardings end, its status block is written with ST = 2 and INFORCE 0, and its notice
(R301, R311). -/
def forceLapse (s : State) (e : Nat) (b : Subscription) (why : Nat) : State :=
  match s.directory.find e with
  | none => s
  | some d =>
    let s1 := endQueueBoardings s e d b.queue
    let d1 := noteLeft s1 { d with subs := d.subs.filter fun o => !(o.queue == b.queue && o.sub == b.sub) }
    let s2 := s1.setEntry e d1
    let (s3, b1) := writeStatus s2 d1 { b with inForce := 0 } 2
    (writeNotice s3 b1 2 why b.limit).1

/-- The first three steps of a boundary for a held entry (R301). -/
def boundaryShares (s : State) (e : Nat) : State :=
  match s.directory.find e with
  | none => s
  | some d =>
    let old := d.subs
    let revoked := old.filter fun b => !d.rights.getLsbD b.func
    let hard := old.filter fun b => d.rights.getLsbD b.func && b.hard && b.limit < b.computed
    let s1 := revoked.foldl (fun st b => forceLapse st e b 2) s
    let s2 := hard.foldl (fun st b => forceLapse st e b 1) s1
    match s2.directory.find e with
    | none => s2
    | some d2 =>
      let d3 := if revoked.isEmpty && hard.isEmpty then d2 else recompute d2
      let d4 := { d3 with subs := d3.subs.map fun b => { b with inForce := b.computed } }
      let s3 := limitNotices (s2.setEntry e d4) e d4 old
      match s3.directory.find e with
      | none => s3
      | some d5 =>
        let sum := d5.subs.foldl (fun n b => n + b.inForce) 0
        writeStatuses s3 e { d5 with capSum := d5.capSum + sum, subs := d5.subs.map fun b => { b with capPaid := b.capPaid + b.inForce } }

/-- The last step of a boundary: an entry becomes unheld, or is removed (R303). -/
def boundarySettle (s : State) (e : Nat) : State :=
  match s.directory.find e with
  | none => s
  | some d =>
    let p := periodNow s
    if d.state = 1 then
      match d.lastLeft with
      | some k =>
        if d.subs.isEmpty && k < p then
          let s1 := stopStream s e
          match s1.directory.find e with
          | some d1 => s1.setEntry e { d1 with state := 2, lastLeft := none, unheldAt := some p }
          | none => s1
        else s
      | none => s
    else if d.state = 2 then
      match d.unheldAt with
      | some k =>
        if k < p then
          let s1 := healthEvent s 14 0xFF 0 [d.word 0, d.word 1, BitVec.ofNat 64 d.capSum]
          s1.setEntry e { d with state := 0, clw := 0, lastLeft := none, unheldAt := none, staged := [] }
        else s
      | none => s
    else s

/-- The boundary work of one entry, in its order. -/
def boundaryEntry (s : State) (e : Nat) : State :=
  match s.directory.find e with
  | some d => boundarySettle (if d.state = 1 then boundaryShares s e else s) e
  | none => s

/-- PERIOD_BOUNDARY (R295, R301, R303). -/
def execPeriodBoundary (s : State) : Res :=
  let s1 := { s with period := periodNow s }.due (s.now + 3000000) 0 .periodBoundary
  .next ((s1.directory.map (·.1)).foldl boundaryEntry s1)

/-! ## Commands of system software (R296, R375) -/

/-- The entry that a command names. -/
def cmdEntry (s : State) : Nat := (bits s.cmd 0 16).toNat
/-- Operand word `0x20` + 8k of a commons command. -/
def entryOperand (s : State) (k : Nat) : Word := s.operand (0x20 + 8 * k)

/-- The entry as it stands, a free one when it has never been written. -/
def State.entry (s : State) (e : Nat) : DirEntry := Table.get DirEntry.reset s.directory e

/-- CREATE (R294, R296, R375): words 0 to 9, 11 and 12 are written and the other words stay, but that no tile of the new
contents has been found poisoned (DEDUCED, log entry 100). Refused when the entry is not free, the key is held or unheld, C is 0, or a field of an entry
word breaks R294. -/
def execCreate (s : State) : Res :=
  let e := cmdEntry s
  let w := entryOperand s
  let ws := (List.range 10).map w
  let bad := bits (w 2) 44 14 != 0 || bits (w 2) 58 2 = 3 || !(bits (w 2) 60 2 = 1 || bits (w 2) 60 2 = 2) || bits (w 2) 0 32 = 0 ||
    bits (w 3) 48 16 != 0 || bits (w 4) 48 16 != 0 || bits (w 5) 52 12 != 0 || bits (w 6) 52 12 != 0 || bits (w 7) 52 11 != 0 ||
    bits (w 8) 52 12 != 0 || bits (w 11) 16 16 != 0 || bits (w 11) 45 19 != 0 ||
    ((w 11).getLsbD 44 && bits (w 11) 0 16 < 256)
  if (s.entry e).state != 0 then .next (cmdRefuse s 2)
  else if (entryOfKey s (w 0) (w 1)).isSome then .next (cmdRefuse s 3)
  else if bad then .next (cmdRefuse s 1)
  else
    let d : DirEntry :=
      { s.entry e with
        words := ws, state := 1, poisoned := [], subs := [], lastLeft := none, unheldAt := none, staged := [], run := false
        tier := (bits (w 2) 60 2).toNat, fmt := (bits (w 2) 58 2).toNat, nt := (bits (w 2) 32 12).toNat + 1
        cost := (bits (w 2) 0 32).toNat, rights := w 9, pre := (bits (w 11) 32 12).toNat, period := (bits (w 11) 0 16).toNat
        fstart := (w 12).toNat }
    let s1 := s.setEntry e d
    .next (cmdDone (if (w 11).getLsbD 44 then startStream s1 e d else s1))

/-- COST (R296, R298): a new C; shares are computed anew as at a change of subscriptions. -/
def execCost (s : State) : Res :=
  let e := cmdEntry s
  let d := s.entry e
  if d.state = 0 then .next (cmdRefuse s 2)
  else .next (cmdDone (afterAct s e d.subs { d with cost := (bits (entryOperand s 2) 0 32).toNat } none))

/-- RIGHTS (R296). -/
def execRights (s : State) : Res :=
  let e := cmdEntry s
  let d := s.entry e
  if d.state = 0 then .next (cmdRefuse s 2)
  else .next (cmdDone (s.setEntry e { d with rights := entryOperand s 9, words := d.words.set 9 (entryOperand s 9) }))

/-- REPLICA (R296): RV, RIMG and RHDR. -/
def execReplica (s : State) : Res :=
  let e := cmdEntry s
  let d := s.entry e
  let w7 := entryOperand s 7
  let w8 := entryOperand s 8
  if d.state = 0 then .next (cmdRefuse s 2)
  else if bits w7 52 11 != 0 || bits w8 52 12 != 0 then .next (cmdRefuse s 1)
  else .next (cmdDone (s.setEntry e { d with words := (d.words.set 7 w7).set 8 w8 }))

/-- SCHEDULE (R296): PERIOD, PRE and FSTART; the stream runs. -/
def execSchedule (s : State) : Res :=
  let e := cmdEntry s
  let d := s.entry e
  let w11 := entryOperand s 11
  let w12 := entryOperand s 12
  if d.state = 0 then .next (cmdRefuse s 2)
  else if bits w11 0 16 < 256 || w12.toNat < s.now + 3000 then .next (cmdRefuse s 5)
  else
    let d1 := { d with pre := (bits w11 32 12).toNat, period := (bits w11 0 16).toNat, fstart := w12.toNat, run := true }
    .next (cmdDone (startStream s e d1))

/-- STOP (R296): the stream stops at the given reference cycle, after every core. -/
def execStop (s : State) : Res :=
  .next (cmdDone (s.due (Nat.max s.now (s.operand 0x20).toNat) keyCommand (.streamStop (cmdEntry s))))

/-- A command that takes time is done at a reference cycle that the manual leaves open (R374). -/
def cmdLater (s : State) (most : Nat) : State :=
  ((cmdStarted s).due (s.now + 1 + Config.commandTime s.fresh % most) 7000 .commandDone).tick

/-- COMMAND_DONE (R374): CMDST changes from in progress to done. -/
def execCommandDone (s : State) : Res := .next (if bits s.cmdst 62 2 = 3 then cmdDone s else s)

/-- The host memory of the PF that a command reads: its bytes, if the host grants them. -/
def hostRead (s : State) (io n : Nat) : Option (List Byte) :=
  if Config.hostGrants 0 io then some (readBytes s (hostBase + io) n) else none

/-- A command goes on at the next frame, where the PF's budget has no more room (R370). -/
def actNextFrame (s : State) (i : Instr) : Res := .next (s.due ((s.now / 12000 + 1) * 12000) keyCommand i)

/-- The pages of the host that a command has read (R378). -/
def noteRead (s : State) (io n : Nat) : State :=
  (List.range ((io % 4096 + n + 4095) / 4096)).foldl (fun st i => noteAts st 0 (io + 4096 * i)) s

/-- The host requests by which a command reads `n` bytes: those for which the PF's budget of this frame has room go out, and the answer tells
whether they are the last; the others wait for the next frame (R370; DEDUCED, log entry 125). -/
def readMore (s : State) (n : Nat) : State × Bool :=
  let left := s.cmdLeft.getD n
  let f := s.func 0
  let k := Nat.min left (f.hostQuota - f.hostBytes)
  ({ chargeHost s 0 k with cmdLeft := some (left - k) }, left == k)

/-- A command that has read what it needs of the host has acted: it is done at a reference cycle that the manual leaves open (R374). -/
def cmdAfterRead (s : State) : State := cmdLater { s with cmdLeft := none } (2 ^ 32)

/-- Write a tile's image and headers at a place, whatever it held (R308). -/
def putTile (s : State) (p : Nat × Nat) (img hd : List Byte) : State :=
  let put := fun (st : State) (a : Nat) (d : List Byte) =>
    if isDeep a then
      writeBytes { st with flaws := (cutLines (d.length / 64 + 2) 0 a d.length).foldl (fun t sp => Table.put t (lineOf sp.pa) 0) st.flaws } a d
    else storeBytes st a d
  put (put s p.1 img) p.2 hd

/-- The lines of a tile's HBM copy. -/
def copyLines (s : State) (d : DirEntry) (t : Nat) : List Nat :=
  match commonsBase s with
  | some b => (tileLines d (b + d.imageAt t, b + d.headerAt t)).map (·.pa)
  | none => []

/-- The reads of a replaced tile that are under way mark it no more: a delivery whose fetch cycle is still to come carries the new
contents and no mark, and one in flight keeps its marks (R308). -/
def mendReads (s : State) (e t : Nat) (img hd : List Byte) : State :=
  match s.directory.find e with
  | none => s
  | some d =>
    let failing := fun (q : Nat) => s.agenda.any fun (_, _, i) => i == .deepTierReadEnd e q true
    let anew := fun (q : Nat) (x : Staged) =>
      if q % d.nt != t then x
      else if x.fetched then { x with poison := x.poison || failing q }
      else { x with img := storedImage d img, hdr := hd, poison := false }
    let good := fun (i : Instr) => match i with
      | .deepTierReadEnd k q true => if k = e && q % d.nt = t then .deepTierReadEnd k q false else i
      | _ => i
    { s.setEntry e { d with poisoned := d.poisoned.filter (· != t), staged := d.staged.map fun (q, x) => (q, anew q x) } with
      agenda := s.agenda.map fun (z, k, i) => (z, k, good i) }

/-- REPLACE (R308, R375): new contents of a poisoned tile, in the deep tier and in its HBM copy, whose blocks are re-encrypted first
where that is due (R285), once they have been read of the host (R370); the mark is cleared, and every subscription receives a notice. -/
def execReplace (s : State) : Res :=
  let e := cmdEntry s
  let d := s.entry e
  let t := (bits (s.operand 0x20) 0 12).toNat
  let (iat, hat) := ((s.operand 0x28).toNat, (s.operand 0x30).toNat)
  if d.state = 0 || !d.poisoned.contains t then .next (cmdRefuse { s with cmdLeft := none } 2)
  else
    match hostRead s iat d.imageSize, hostRead s hat d.headerSize with
    | some img, some hd =>
      let (s0, last) := readMore s (d.imageSize + d.headerSize)
      if !last then actNextFrame s0 .replace else
      match blockedLines s0 true (copyLines s0 d t) with
      | (s1, some u) => .next (s1.due u keyCommand .replace)
      | (s1, none) =>
        let deep := tileSource s1 { d with tier := 2 } t
        let s2 := noteRead (noteRead s1 iat d.imageSize) hat d.headerSize
        let s3 := markLines (if isDeep deep.1 && isDeep deep.2 then putTile s2 deep img hd else s2) d t false
        let s4 := match commonsBase s3 with
          | some b => putTile s3 (b + d.imageAt t, b + d.headerAt t) img hd
          | none => s3
        let s5 := mendReads s4 e t img hd
        .next (cmdAfterRead (noticeAll s5 e (s5.entry e) 4 t))
    | _, _ => .next (cmdRefuse s 5)

/-- The deep-tier ranges of a held entry: DIMG, DHDR, RIMG and RHDR (R375). -/
def deepRanges (d : DirEntry) : List (Nat × Nat) :=
  let at_ := fun i => (bits (d.word i) 0 52).toNat
  let img := d.nt * d.imageSize
  let hd := d.nt * d.headerSize
  [(at_ 5, img), (at_ 6, hd), (at_ 7, img), (at_ 8, hd)]

/-- LOAD (R265, R296, R375): bytes of host memory, once they have been read (R370), into a deep-tier region that no held entry uses. -/
def execLoadDeep (s : State) : Res :=
  let a := (s.operand 0x20).toNat
  let n := (s.operand 0x30).toNat
  if a % 64 != 0 || n % 64 != 0 then .next (cmdRefuse s 1)
  else if !isDeep a || 2 * deepBase < a + n then .next (cmdRefuse s 5)
  else if s.directory.any fun (_, d) => d.state == 1 && (deepRanges d).any fun (b, m) => overlap a n b m then
    .next (cmdRefuse { s with cmdLeft := none } 4)
  else
    match hostRead s (s.operand 0x28).toNat n with
    | none => .next (cmdRefuse s 5)
    | some data =>
      let (s1, last) := readMore s n
      if !last then actNextFrame s1 .loadDeep
      else .next (cmdAfterRead (noteRead (putTile s1 (a, a) data []) (s.operand 0x28).toNat n))

end Sys2Proof.Machine
end

