-- ==== Sys2Proof/Machine/Front.lean ====
section
/-!
DEFINITION. The front end: portals (R314, R315), queue creation and reset (R316 to R318), binding and frames (R319, R322),
polls and the command packets (R320, R323 to R332).
-/
namespace Sys2Proof.Machine

/-! ## Portals (R314, R372) -/

/-- MISUSE of a function counts (R373). -/
def countMisuse (s : State) (f : Nat) : State := s.updFunc f fun x => { x with misuse := Nat.min (x.misuse + 1) (2 ^ 64 - 1) }

/-- A host request is answered. -/
def reply (s : State) (k : Nat) : State := { s with hostReply := k }

/-- PORTAL_DMWR (R314, R372, R402): 1 Successful Completion, 2 Retry, 3 Completer Abort, 4 Unsupported Request. -/
def execPortalDmwr (fn page size off : Nat) (packet : BitVec 512) (s : State) : Res :=
  let f := s.func fn
  if !s.up then .next (reply s 3)
  else if !f.en then .next (reply s 4)
  else if f.qcnt ≤ page then .next (reply (countMisuse s fn) 4)
  else if size != 64 || off != 0 then .next (reply s 4)
  else if f.resetting then .next (reply s 2)
  else
    match s.queue? (f.qbase + page) with
    | none => .next (reply s 3)
    | some q =>
      if q.ring then .next (reply s 4)
      else if q.state = 2 || q.slot.isNone then .next (reply s 3)
      else if 8 ≤ q.buffer.length then .next (reply s 2)
      else .next (reply (s.updQueue (f.qbase + page) fun q => { q with buffer := q.buffer ++ [packet] }) 1)

/-- PORTAL_MISUSE (R314, R372): a posted write is dropped, a read returns all ones; MISUSE counts. After a fatal error a read is answered
Completer Abort, and nothing counts (R402). -/
def execPortalMisuse (fn _page : Nat) (write : Bool) (s : State) : Res :=
  if !s.up then .next (if write then s else reply s 3) else
  let s1 := countMisuse s fn
  .next (if write then s1 else reply s1 5)

/-! ## Queue control blocks (R316, R317) -/

/-- Word `k` of a queue's control block in guest memory. -/
def qcbWord (s : State) (q : Queue) (k : Nat) : Word := readWord s (hostBase + q.qcb + 8 * k)

/-- The queue's own buffer, entered at a packet. -/
def ownLevel (n : Nat) : Level :=
  { addr := 0, count := 0, next := n, start := n, fetched := [], asked := [], skip := 0, loopStart := none, loopLeft := 0 }

/-- The bytes of a control block that one reading takes: words 0, 1, 2 and 4 (R316). -/
def qcbBytes : Nat := 32

/-- The control block of a queue can be read in this frame: it is a host request of its function (R370). -/
def mayReadQcb (s : State) (q : Queue) : Bool := hostBudget s q.func qcbBytes

/-- The privileged word of a control block is compared with the shadow: one that differs is reported, and the shadow stays (R317). -/
def compareShadow (s : State) (n : Nat) (q : Queue) : State :=
  let w0 := qcbWord s q 0
  let s1 := noteAts (chargeHost s q.func qcbBytes) q.func q.qcb
  if w0 = q.word0 then s1 else healthEvent s1 11 0xFF n [BitVec.ofNat 64 n, w0, q.word0]

/-- A reading of the control block: its privileged word is compared with the shadow (R317); RBASE, RLOG and TAIL are taken, and a ring that
holds more than its size is an error (R316), unless the queue is in one. One for which the frame's budget has no room comes later (R370). -/
def readQcb (s : State) (n : Nat) : State :=
  match s.queue? n with
  | none => s
  | some q =>
    if !mayReadQcb s q then s else
    let s1 := compareShadow s n q
    let rlog := (bits (qcbWord s q 2) 0 5).toNat
    let tail := (qcbWord s q 4).toNat
    let s2 := s1.updQueue n fun q => { q with rbase := (qcbWord s q 1).toNat, rlog := rlog, tail := tail }
    if q.ring && q.state != 2 && (rlog < 3 || 16 < rlog || q.head + 2 ^ rlog < tail || tail < q.head || qcbWord s q 1 % 4096 != 0) then
      queueError s2 n 1 0
    else s2

/-- The free slots of a function (R313, R367). -/
def freeSlotsOf (s : State) (f : Nat) : List Nat :=
  let w := (s.func f).word 1
  let first := (bits w 0 10).toNat
  (List.range (bits w 10 11).toNat).filterMap fun i =>
    if (Table.get none s.slots (first + i)).isNone then some (first + i) else none

/-- A queue is bound to a slot; it goes on where it stood, one in error or in reset too (R317, R318, R322). -/
def bindQueue (s : State) (n k : Nat) : State :=
  let s1 := { s with slots := s.slots.put k (some n) }.updQueue n fun q =>
    { q with slot := some k, state := if q.state = 0 then 1 else q.state, doorbell := none, levels := if q.levels.isEmpty then [ownLevel q.head] else q.levels
             blocked := if q.blocked = Block.bind then Block.none else q.blocked }
  let s2 := readQcb s1 n
  writeQcb s2 n

/-- A queue leaves its slot; one in error or in reset stays so (R318, R322). -/
def unbindQueue (s : State) (n : Nat) : State :=
  match s.queue? n with
  | none => s
  | some q =>
    let s1 := match q.slot with | some k => { s with slots := s.slots.put k none } | none => s
    writeQcb (s1.updQueue n fun q => { q with slot := none, state := if q.state = 1 then 0 else q.state }) n

/-- The polling position of a slot within its frame (R319). -/
def pollTime (sl : Nat) : Nat := 480 + 180 * (sl % 512 / 8)

/-- The shepherd core that polls a slot: die * 8 + i mod 8 (R319). -/
def pollCore (sl : Nat) : Nat := sl / 512 * 8 + sl % 8

/-- The poll of a bound slot in the frame that begins at a reference cycle is due, unless its position has passed or its shepherd
core has failed (R319, R400). -/
def duePoll (begins : Nat) (s : State) (k : Nat) : State :=
  let t := begins + pollTime k
  if s.now ≤ t && !(s.shepDead.any fun (c, _) => c == pollCore k) then s.dueOnce t (40 + k) (.slotPoll k) else s

/-- Bindings may change: it is one of the first 480 cycles of a frame (R319). -/
def mayBind (s : State) : Bool := s.now % 12000 < 480

/-- QCREATE (R316, R317, R319, R374): the queue takes the privileged fields of its control block into its shadow, and is bound, in this
frame or at the start of the next one. It is refused when a field is malformed, the queue is not its function's, it exists, or no slot
is free. -/
def execQcreate (s : State) : Res :=
  let n := (bits s.cmd 32 16).toNat
  let qcb := (bits s.cmd 0 32).toNat
  let w := readWord s (hostBase + qcb)
  let f := (bits w 42 6).toNat
  let fn := s.func f
  if bits w 0 25 != 0 || bits w 48 16 != BitVec.ofNat 16 n || !Config.hostGrants f qcb then .next (cmdRefuse s 1)
  else if n < fn.qbase || fn.qbase + fn.qcnt ≤ n then .next (cmdRefuse s 5)
  else if !fn.en || (s.queue? n).isSome then .next (cmdRefuse s 2)
  else
    match freeSlotsOf s f with
    | [] => .next (cmdRefuse s 2)
    | k :: _ =>
      if !hostBudget s f qcbBytes then actNextFrame (cmdStarted s) .qcreate else
      let s1 := noteAts (chargeHost s f qcbBytes) f qcb
      let q : Queue :=
        { qcb := qcb, word0 := w, func := f, maxPri := (bits w 39 3).toNat, pinOk := w.getLsbD 38, ring := w.getLsbD 37
          stepMax := (bits w 25 12).toNat, state := 0, ecode := 0, slot := none, lsn := 0, eaddr := 0, head := 0, buffer := []
          levels := [], refs := [], dependPending := false, blocked := .none, doorbell := none, ended := [], rbase := 0, rlog := 3
          tail := 0, got := none }
      if mayBind s then .next (cmdDone (duePoll (s.now / 12000 * 12000) (bindQueue { s1 with queues := s1.queues.put n q } n k) k))
      else .next (cmdStarted { s1 with queues := s1.queues.put n { q with blocked := Block.bind } })

/-- QDESTROY (R318, R319, R329, R374): the queue's waiting launches are discarded, and it exists no more; its slot is free at once where
bindings may change, otherwise from the next frame on. -/
def execQdestroy (s : State) : Res :=
  let n := (bits s.cmd 32 16).toNat
  match s.queue? n with
  | none => .next (cmdRefuse s 2)
  | some q =>
    let s0 := discardWaiting s n
    let s1 := if mayBind s then unbindQueue s0 n else s0
    .next (cmdDone (forgetQueue s1 n ((s1.queue? n).getD q)))

/-- A queue number lies in a function's range (R367). -/
def ownsQueue (f : Func) (n : Nat) : Bool := f.qbase ≤ n && n < f.qbase + f.qcnt

/-- DOORBELL (R322, R373): a pending doorbell for a ring queue of the function. -/
def execDoorbell (s : State) : Res :=
  let f := s.func s.hostFn
  let n := (bits s.hostVal 0 16).toNat
  if f.resetting || !ownsQueue f n then .next s
  else .next (s.updQueue n fun q =>
    if q.ring && q.doorbell.isNone then { q with doorbell := some s.now } else q)

/-- The reset of a queue begins: STATE is 3, its waiting launches are discarded, and its buffer and its positions are dropped (R318). -/
def beginReset (s : State) (n : Nat) : State :=
  (discardWaiting s n).updQueue n fun q =>
    let head := q.head + q.buffer.length
    { q with state := 3, ecode := 0, eaddr := 0, buffer := [], head := head, levels := [ownLevel head], refs := [], dependPending := false
             blocked := if q.blocked = Block.bind then Block.bind else Block.none, got := none }

/-- The reset of a queue ends with STATE 0. HEAD of a ring takes TAIL: that reading of its control block is a host request of its function,
and waits for a frame whose budget has room (R318, R370). In a reset of the function the block is written at its end (R380). -/
def finishReset (s : State) (n : Nat) : State :=
  match s.queue? n with
  | none => s
  | some q =>
    if q.state != 3 || (q.ring && !mayReadQcb s q) then s
    else
      let s1 := if q.ring then noteAts (chargeHost s q.func qcbBytes) q.func q.qcb else s
      let head := if q.ring then (qcbWord s q 4).toNat else q.head
      let s2 := s1.updQueue n fun q => { q with state := 0, head := head, tail := if q.ring then head else q.tail, levels := [ownLevel head] }
      if (s.func q.func).resetting then s2 else writeQcb s2 n

/-- QRESET (R318, R373): STATE becomes 3 and then 0; the queue's buffer and its positions are dropped, and HEAD of a ring takes
TAIL, at once where the frame's budget has room for its reading and otherwise in a later frame (DEDUCED, log entry 125). -/
def execQreset (s : State) : Res :=
  let f := s.func s.hostFn
  let n := (bits s.hostVal 0 16).toNat
  if f.resetting || !ownsQueue f n then .next s
  else
    match s.queue? n with
    | none => .next s
    | some _ => .next (finishReset (writeQcb (beginReset s n) n) n)

/-! ## Frames and binding (R319, R322) -/

/-- The top level of a queue. -/
def Queue.top (q : Queue) : Level := q.levels.getLastD (ownLevel q.head)

/-- A buffer of a queue holds no packet that is still to be processed. -/
def levelEmpty (q : Queue) (depth : Nat) (v : Level) : Bool := if depth = 0 then v.next == q.tail else decide (v.count ≤ v.next)

/-- A ring queue may be unbound: its ring and buffer are empty, it is in no loop pass or indirect buffer that has packets left, nothing of
it is waiting, blocked or in flight, and another ring queue of its function has a pending doorbell (R322). -/
def mayUnbind (s : State) (n : Nat) (q : Queue) : Bool :=
  q.ring && q.slot.isSome && q.head == q.tail && q.buffer.isEmpty && q.blocked = .none &&
    (((List.range q.levels.length).zip q.levels).all fun (d, v) => levelEmpty q d v) && !(s.launches.any fun (_, x) => x.ofQueue n) &&
    (s.queues.any fun (m, o) => m != n && o.func == q.func && o.ring && o.doorbell.isSome && o.slot.isNone)

/-- Unbinding, in the order of queue numbers (R322). -/
def unbindAll (s : State) : State :=
  s.queues.foldl (fun st (n, _) =>
    match st.queue? n with
    | some q => if mayUnbind st n q then unbindQueue st n else st
    | none => st) s

/-- Insert a doorbell in the order of its time, then of the queue number (R322). -/
def insertBell (t n : Nat) : List (Nat × Nat) → List (Nat × Nat)
  | [] => [(t, n)]
  | (t', n') :: rest => if t < t' || (t == t' && n < n') then (t, n) :: (t', n') :: rest else (t', n') :: insertBell t n rest

/-- Queues with pending doorbells, in order, those in error among them; those of a disabled function cannot be bound (R322, R366). -/
def bells (s : State) : List Nat :=
  (s.queues.foldl (fun acc (n, q) =>
    match q.doorbell with
    | some t => if q.slot.isNone && q.blocked != Block.bind && (s.func q.func).en && !(s.func q.func).resetting then insertBell t n acc else acc
    | none => acc) []).map (·.2)

/-- A free slot of its function goes to a queue. -/
def giveSlot (s : State) (n : Nat) : State :=
  match s.queue? n with
  | none => s
  | some q => match freeSlotsOf s q.func with | k :: _ => bindQueue s n k | [] => s

/-- The slots of queues that exist no more are free (R319). -/
def freeStale (s : State) : State :=
  { s with slots := s.slots.map fun (k, q) =>
      (k, match q with | some n => if (s.queue? n).any fun o => o.slot == some k then q else none | none => none) }

/-- Binding: a queue that has been created takes its slot, and its command is done; then free slots go to queues with pending doorbells
(R317, R322). -/
def bindAll (s : State) : State :=
  let made := (s.queues.filter fun (_, q) => q.blocked == Block.bind).map (·.1)
  let s1 := made.foldl (fun st n => cmdDone (giveSlot st n)) s
  (bells s1).foldl giveSlot s1

/-- FRAME_START (R319, R322, R370, R400): budgets start anew, the records that waited for them are written and the queue resets that did
end, bindings change, and the polls of the frame are due, but for the
positions of a shepherd core that has failed. A spare shepherd core takes the positions of a failed one, which event 3 tells. -/
def execFrameStart (s : State) : Res :=
  let frame := s.now / 12000
  let s0 := { s with funcs := s.funcs.map fun (f, x) => (f, { x with hostBytes := x.hostBytes - x.hostQuota })
                     shepDead := s.shepDead.filter fun (_, until_) => frame < until_ }
  let come := (s.shepDead.filter fun (_, until_) => until_ ≤ frame).map (·.1)
  let s000 := come.foldl (fun st k => unitEvent st 2 3 (k / 8) k [BitVec.ofNat 64 k]) s0
  let s00 := s.funcs.foldl (fun st (f, x) => drainRecords f x.frHeld st) s000
  let s01 := s00.queues.foldl (fun st (n, _) => finishReset st n) s00
  let s1 := bindAll (unbindAll (freeStale s01))
  let s2 := s1.slots.foldl (fun st (k, q) => if q.isSome then duePoll s.now st k else st) s1
  .next (s2.due (s2.now + 12000) 0 .frameStart)

/-! ## Reading packets (R331) -/

/-- The top level of a queue changed. -/
def updTop (s : State) (n : Nat) (u : Level → Level) : State :=
  s.updQueue n fun q => { q with levels := q.levels.dropLast ++ [u q.top] }

/-- The virtual address of a packet; 0 for a packet of a portal (R316, R327). -/
def packetAddr (q : Queue) (depth : Nat) (v : Level) (k : Nat) : Nat :=
  if depth = 0 then (if q.ring then q.rbase + 64 * (k % 2 ^ q.rlog) else 0) else v.addr + 64 * k

/-- What reading a packet from memory comes to (R331). -/
inductive Fetched where
  | packet (p : BitVec 512) (s : State)
  | asked (a : Nat) (s : State) -- it is asked for from another device (R382)
  | later                    -- it is read once the block is re-encrypted, or the frame's budget has room (R285, R370)
  | unread                   -- its address does not translate, or the host refuses it
deriving DecidableEq, Repr

/-- The front end reads a packet of a function. -/
def readPacket (s : State) (f va : Nat) : Fetched :=
  if (rangeWait s f va 64).isSome then .later else
  match translate s f va 64 false with
  | none => .unread
  | some pa =>
    let got := BitVec.ofNat 512 (leNat (deviceLoad s pa 64))
    if isDomain pa then let (a, s1) := shepherdAccess s f .read pa 64 [] s.now; .asked a s1
    else if isHost pa then
      if !Config.hostGrants f (pa - hostBase) then .unread
      else if !hostBudget s f 64 then .later
      else .packet got (noteAts (chargeHost s f 64) f (pa - hostBase))
    else if (reencrypting s pa).isSome then .later
    else .packet got s

/-- Packet `k` of a level is read, unless it has been. -/
def fetchOne (q : Queue) (depth : Nat) (s : State) (v : Level) (k : Nat) : State × Level :=
  if (v.fetched.find k).isSome || v.asked.any fun (j, _) => j == k then (s, v)
  else
    match readPacket s q.func (packetAddr q depth v k) with
    | .packet p s1 => (s1, { v with fetched := v.fetched.put k p })
    | .asked a s1 => (s1, { v with asked := (k, a) :: v.asked })
    | _ => (s, v)

/-- The packets of a level that R331 reads by now: those up to eight beyond the last one begun, and the first nine. A packet of a portal is
its accepted 64 bytes. -/
def fillLevel (s : State) (q : Queue) (depth : Nat) (v : Level) (begun : Bool) : State × Level :=
  if depth = 0 && !q.ring then (s, v)
  else
    let bound := if depth = 0 then q.tail else v.count
    let limit := Nat.min bound (Nat.max (v.start + 9) (v.next + (if begun then 9 else 8)))
    ((List.range (limit - v.next)).map fun i => v.next + i).foldl (fun (st, w) k => fetchOne q depth st w k) (s, v)

/-- Read ahead in the top level. -/
def fillTop (s : State) (n : Nat) (begun : Bool) : State :=
  match s.queue? n with
  | none => s
  | some q =>
    let (s1, v) := fillLevel s q (q.levels.length - 1) q.top begun
    updTop s1 n fun _ => v

/-- Read ahead in some levels of a queue, from the outermost on. -/
def fillLevels (q : Queue) (s : State) : List (Nat × Level) → State × List Level
  | [] => (s, [])
  | (d, v) :: rest =>
    let (s1, v1) := fillLevel s q d v false
    let (s2, more) := fillLevels q s1 rest
    (s2, v1 :: more)

/-- Read ahead in every level: what a ring's TAIL has come to cover is read at the first poll that sees it (R331). -/
def fillAll (s : State) (n : Nat) : State :=
  match s.queue? n with
  | none => s
  | some q =>
    let (s1, vs) := fillLevels q s ((List.range q.levels.length).zip q.levels)
    s1.updQueue n fun q => { q with levels := vs }

/-- What a queue has to process next. -/
inductive Head_ where
  | empty
  | pop                      -- the end of an indirect buffer
  | packet (p : BitVec 512) (va : Nat)
  | later                    -- it has still to be read
  | unread (va : Nat)        -- its address does not translate, or the host refuses it (DESIGN CHOICE, log entry 124)
deriving DecidableEq, Repr

/-- The next packet of a queue. -/
def nextPacket (s : State) (q : Queue) : Head_ :=
  let depth := q.levels.length - 1
  let v := q.top
  let va := packetAddr q depth v v.next
  let found := match v.fetched.find v.next with
    | some p => some p
    | none => if depth = 0 && !q.ring then q.buffer[v.next - q.head]? else none
  if depth ≠ 0 && v.count ≤ v.next then .pop
  else if depth = 0 && q.ring && q.tail ≤ v.next then .empty
  else if depth = 0 && !q.ring && q.head + q.buffer.length ≤ v.next then .empty
  else match found with
    | some p => .packet p va
    | none => match readPacket s q.func va with | .unread => .unread va | _ => .later

/-- A packet is consumed: it frees its buffer entry or its place in the ring; the body of a loop is kept (R314, R328). -/
def consume (s : State) (n : Nat) (p : BitVec 512) : State :=
  s.updQueue n fun q =>
    let depth := q.levels.length - 1
    let v := q.top
    let kept := match v.loopStart with
      | some _ => v.fetched.put v.next p
      | none => v.fetched.filter fun (k, _) => v.next < k
    let v1 := { v with next := v.next + 1, fetched := kept }
    let q1 := { q with levels := q.levels.dropLast ++ [v1] }
    if depth ≠ 0 then q1
    else if q.ring then { q1 with head := Nat.max q.head v1.next }
    else if v.next = q.head then { q1 with head := q.head + 1, buffer := q.buffer.drop 1 }
    else q1

/-! ## The packets (R323 to R330) -/

/-- What processing a packet leads to. -/
inductive Step_ where
  | go (s : State)                   -- it is consumed and processing goes on
  | stay (s : State)                 -- it blocks and is processed again at the next poll
  | stop (s : State)                 -- it is consumed and the queue is blocked
  | jump (s : State)                 -- the position has been set; processing goes on
  | error (s : State) (code : Nat)
deriving DecidableEq, Repr

/-- Word `i` of a packet. -/
def pWord (p : BitVec 512) (i : Nat) : Word := p.extractLsb' (64 * i) 64

/-- The bits of a packet that its layout does not name are zero: word 0 beside OPC and TAG, and each other word (R323). -/
def reservedOk (p : BitVec 512) (named : List Word) : Bool :=
  let w0 := pWord p 0 &&& (~~~ ((named.getD 0 0) ||| 0xFF00FFFF00000000#64))
  w0 == 0 && (List.range 7).all fun i => (pWord p (i + 1) &&& (~~~ (named.getD (i + 1) 0))) == 0

/-- All bits of a word. -/
def allOnes : Word := BitVec.allOnes 64
/-- Bits [hi:lo] of a word. -/
def fieldMask (hi lo : Nat) : Word := BitVec.ofNat 64 (2 ^ (hi + 1) - 2 ^ lo)

/-- The masked compare of PRED and WAITMEM on the bytes of the word (R326). -/
def compareWord (p : BitVec 512) (bytes : List Byte) : Bool :=
  let w64 := (pWord p 0).getLsbD 27
  let cc := (bits (pWord p 0) 28 4).toNat
  let x := BitVec.ofNat 64 (leNat bytes) &&& pWord p 3
  if w64 then cond cc x (pWord p 2)
  else
    let sext := fun (w : Word) => if 2 ≤ cc && cc ≤ 5 then ((w.setWidth 32).signExtend 64) else ((w.setWidth 32).setWidth 64)
    cond cc (sext x) (sext (pWord p 2))

/-- What the read of PRED and WAITMEM comes to. -/
inductive Look where
  | known (b : Bool) (s : State)
  | wait (s : State)         -- it is read at a later poll
  | fault
deriving DecidableEq, Repr

/-- The read of PRED and WAITMEM (R326): a word of another device is asked for, and is there at a later poll (R382); one of a block in
re-encryption or beyond the frame's budget waits (R285, R370). -/
def lookWord (s : State) (n : Nat) (q : Queue) (p : BitVec 512) : Look :=
  let len := if (pWord p 0).getLsbD 27 then 8 else 4
  if q.got.isNone && (rangeWait s q.func (pWord p 1).toNat len).isSome then .wait s else
  match translate s q.func (pWord p 1).toNat len false with
  | none => .fault
  | some pa =>
    if isDomain pa then
      match q.got with
      | some d => .known (compareWord p d) (s.updQueue n fun q => { q with got := none })
      | none =>
        let (a, s1) := shepherdAccess s q.func .read pa len [] s.now
        .wait (s1.updQueue n fun q => { q with blocked := .remote a })
    else if isHost pa then
      if !hostBudget s q.func len then .wait s
      else if !Config.hostGrants q.func (pa - hostBase) then .fault
      else .known (compareWord p (readBytes s pa len)) (noteAts (chargeHost s q.func len) q.func (pa - hostBase))
    else if (reencrypting s pa).isSome then .wait s
    else .known (compareWord p (readBytes s pa len)) s

/-- PRED and WAITMEM keep their fields: the condition and the alignment of the address. -/
def testOk (p : BitVec 512) : Bool :=
  (bits (pWord p 0) 28 4).toNat ≤ 9 && (pWord p 1).toNat % (if (pWord p 0).getLsbD 27 then 8 else 4) = 0

/-- Every earlier launch chain of a queue has retired (R326). -/
def chainsDone (s : State) (n : Nat) : Bool := !(s.launches.any fun (_, x) => x.ofQueue n)

/-- A write of a packet has performed, or its queue waits for it (R326). -/
def written (n : Nat) (r : State × Option Nat) : Step_ :=
  match r.2 with
  | none => .go r.1
  | some a => .stop (r.1.updQueue n fun q => { q with blocked := .remote a })

/-- WRITE: a store, or an addition in one step at the word's slice, at the word's width (R326). Its translation waits for the re-encryption
of a table's block (R285). -/
def writePacket (s : State) (n : Nat) (q : Queue) (p : BitVec 512) : Step_ :=
  let len := if (pWord p 0).getLsbD 29 then 8 else 4
  let v := pWord p 2
  if (rangeWait s q.func (pWord p 1).toNat len).isSome then .stay s else
  match translate s q.func (pWord p 1).toNat len true with
  | none => .error s 6
  | some pa =>
    if bits (pWord p 0) 30 2 = 0 then written n (deviceWord s q.func pa len .write (leBytes len v.toNat))
    else if poisoned s pa then .go s
    else written n (deviceWord s q.func pa len (.add v) (leBytes len (leNat (readBytes s pa len) + v.toNat)))

/-- TIMESTAMP: the device time at the instant of the write (R326). -/
def stampPacket (s : State) (n : Nat) (q : Queue) (p : BitVec 512) : Step_ :=
  if (rangeWait s q.func (pWord p 1).toNat 8).isSome then .stay s else
  match translate s q.func (pWord p 1).toNat 8 true with
  | some pa => written n (deviceWord s q.func pa 8 .stamp (leBytes 8 s.now))
  | none => .error s 6

/-- An image of which nothing is known yet. -/
def Image.empty : Image := ⟨0, 0, 0, 0, false, false, 0, 0, 0, 0⟩

/-- A launch that has been made by a packet or a kept TAIL record and waits for its first decision (R320, R324). -/
def newLaunch (f n slot : Nat) (ws : List Word) (eaddr now : Nat) (deps : List (Nat × Nat)) (failed : Bool) : Launch :=
  let w0 := ws.getD 0 0
  { func := f, queue := n, slot := slot, lsn := 0, packet := ws, eaddr := eaddr, pollAt := now, prio := (bits w0 53 3).toNat
    pin := w0.getLsbD 52, chain := w0.getLsbD 51, image := { Image.empty with img := (ws.getD 1 0).toNat }, state := .waiting
    deps := deps, depFailed := failed, decided := none, since := now, own := 0, eff := 0, admittedAt := 0, start := 0, cores := []
    base0 := 0, dispensed := 0, phases := [], groups := [], words := 0, commonsWord := 0, circuits := [], rho := 0, savedAt := 0
    savedCores := [], savedSteps := [], stops := [], stopPos := 0, stopAt := 0, stopWay := 0, walking := 0, restart := none, preempting := false
    fcode := none, drn := 0, terminated := none, lastStart := 0, crossed := false, savedPoints := [], fences := [], rise := [], orphan := 0, final := none }

/-- LAUNCH: the packet becomes a launch that waits; the queue is blocked until it is admitted (R320, R329). -/
def launchPacket (s : State) (n : Nat) (q : Queue) (p : BitVec 512) (va : Nat) : State :=
  let status := fun (d : Nat × Nat) => chainStatus s d.1 d.2
  let refs := q.refs.filter fun d => d.2 != 0
  let open_ := refs.filter fun d => (status d).isNone
  let failed := refs.any fun d => match status d with | some k => k != 0 | none => false
  let ws := (List.range 8).map (pWord p)
  let (l, s1) := s.newId
  let s2 := { s1 with launches := s1.launches.put l (newLaunch q.func n (q.slot.getD 0) ws va s.now open_ failed) }
  s2.updQueue n fun q => { q with refs := [], dependPending := false, blocked := .launch l }

/-- DEPEND: its references join those of the next LAUNCH; LSN 0 names the queue's last one, and is satisfied where that is 0 (R329). -/
def dependPacket (s : State) (n : Nat) (q : Queue) (p : BitVec 512) : Step_ :=
  let k := (bits (pWord p 0) 0 3).toNat
  let refs := (List.range k).map fun i => ((bits (pWord p (i + 1)) 48 16).toNat, (bits (pWord p (i + 1)) 0 48).toNat)
  let last := fun m => match s.queue? m with | some x => x.lsn | none => 0
  let real := refs.map fun (m, l) => (m, if l = 0 then last m else l)
  if refs.any fun (m, _) => !ownsQueue (s.func q.func) m then .error s 9
  else if 42 < q.refs.length + real.length then .error s 1
  else .go (s.updQueue n fun q => { q with refs := q.refs ++ real, dependPending := true })

/-- A COMMONS packet that asks the directory: the queue is blocked until its result is written (R320, R330). -/
def commonsPacket (s : State) (n : Nat) (q : Queue) (p : BitVec 512) (va kind : Nat) : State :=
  let (id, s1) := s.newId
  let t := s.now + 1 + Config.actDelay (2 ^ 80 + s.now * 2 ^ 16 + n)
  let r : CommonsReq :=
    { kind := kind, rank := none, queue := n, func := q.func, launch := 0, sub := (bits (pWord p 0) 21 8).toNat
      block := [pWord p 2, pWord p 3, pWord p 4, 0], flag := none, reqId := id, due := t, raddr := (pWord p 1).toNat, packet := va
      saddr := (pWord p 5).toNat, sext := (bits (pWord p 6) 0 32).toNat, result := none, waits := [] }
  let s2 := { s1 with commonsReqs := s1.commonsReqs.put id r }.due t (6000 + 256 + q.slot.getD 0) (actOf kind id)
  s2.updQueue n fun q => { q with blocked := .commons id }

/-- A COMMONS CLAIM: a proposal on the claim word of a subscription departs; with no such subscription the result says at once
that none was made (R330). -/
def claimPacket (s : State) (n : Nat) (q : Queue) (p : BitVec 512) (va : Nat) : State :=
  let raddr := (pWord p 1).toNat
  match entryOfSub s n (bits (pWord p 0) 21 8).toNat with
  | none =>
    let (id, s1) := s.newId
    writeResult (s1.updQueue n fun q => { q with blocked := .commons id }) n id q.func raddr va (outcomeWord 3 0xFF 0)
  | some (e, _) =>
    let (id, s1) := s.newId
    let x : Proposal :=
      { word := entryWord e, launch := 0, g := none, queue := n, func := q.func, rank := 0xFF, order := 256 + q.slot.getD 0
        prio := (bits (pWord p 0) 53 3).toNat, value := (pWord p 2).setWidth 48, window := (bits (pWord p 0) 0 12).toNat, bound := 192
        seq := 0, reqId := id, raddr := raddr, packet := va, departed := none, decision := none, objectors := [], overtakenBy := []
        done := false }
    let s2 := { s1 with proposals := s1.proposals.put id x }.updQueue n fun q => { q with blocked := .commons id }
    departProposal s2 id x x.prio

/-- COMMONS (R323, R330). -/
def doCommons (s : State) (n : Nat) (q : Queue) (p : BitVec 512) (va : Nat) : Step_ :=
  let w0 := pWord p 0
  let opn := (bits w0 29 3).toNat
  let named : List Word := [fieldMask 55 53 ||| fieldMask 31 29 ||| fieldMask 28 21 ||| fieldMask 11 0, allOnes, allOnes, allOnes, fieldMask 32 0, allOnes, fieldMask 31 0]
  let win := (bits w0 0 12).toNat
  let bad := !reservedOk p named || 3 < opn || (pWord p 1).toNat % 8 != 0 || (opn == 0 && (pWord p 5).toNat % 64 != 0) ||
    (opn == 3 && (win < 416 || 3903 < win))
  if bad then .error s 1
  else if q.maxPri < (bits w0 53 3).toNat then .error s 4
  else
    match opn with
    | 0 => .stop (commonsPacket s n q p va 0)
    | 1 => .stop (commonsPacket s n q p va 1)
    | 2 => .stop (commonsPacket s n q p va 4)
    | _ => .stop (claimPacket s n q p va)

/-- FETCHFENCE: the packets read beyond it in its buffer and in every enclosing one are discarded and read again; those of a portal are its
accepted bytes and stay (R331, R332). -/
def fetchFence (s : State) (n : Nat) (p : BitVec 512) : State :=
  let s1 := consume s n p
  match s1.queue? n with
  | none => s1
  | some q =>
    let drop := fun (d : Nat × Level) =>
      if d.1 = 0 && !q.ring then d
      else (d.1, { d.2 with start := d.2.next, fetched := d.2.fetched.filter fun (k, _) => k < d.2.next, asked := [] })
    let (s2, vs) := fillLevels q s1 (((List.range q.levels.length).zip q.levels).map drop)
    s2.updQueue n fun q => { q with levels := vs }

/-- LOOP and ENDLOOP (R328). -/
def loopPacket (s : State) (n : Nat) (v : Level) (p : BitVec 512) : Step_ :=
  match v.loopStart with
  | some _ => .error s 3
  | none =>
    .jump (updTop (consume s n p) n fun v => { v with loopStart := some (v.next - 1), loopLeft := (bits (pWord p 0) 0 6).toNat })

/-- A packet is the eighth of a loop's body: a loop's body ends with the seventh at the latest, the packets that PRED skips among them
(R328). -/
def bodyTooLong (v : Level) (p : BitVec 512) : Bool :=
  match v.loopStart with
  | some a => decide (a + 8 ≤ v.next) && bits (pWord p 0) 56 8 != 5
  | none => false

/-- ENDLOOP (R328): the body runs again, or the loop ends; a body of no packet or of more than seven is an error. -/
def endLoopPacket (s : State) (n : Nat) (v : Level) (p : BitVec 512) : Step_ :=
  match v.loopStart with
  | none => .error s 3
  | some a =>
    if v.next = a + 1 || a + 9 ≤ v.next then .error s 3
    else if v.loopLeft = 0 then .jump (updTop (consume s n p) n fun v =>
      { v with loopStart := none, fetched := v.fetched.filter fun (k, _) => v.next ≤ k })
    else .jump (updTop (consume s n p) n fun v => { v with next := a + 1, loopLeft := v.loopLeft - 1 })

/-- One packet is processed (R323 to R330). -/
def processPacket (s : State) (n : Nat) (q : Queue) (p : BitVec 512) (va : Nat) : Step_ :=
  let w0 := pWord p 0
  let opc := (bits w0 56 8).toNat
  let v := q.top
  let inLoop := v.loopStart.isSome && (opc = 4 || opc = 9)
  let waits := fun (after : Bool) (go : Step_) => if after && !chainsDone s n then Step_.stay s else go
  if q.dependPending && opc != 1 && opc != 10 then .error s 1
  else if bodyTooLong v p || inLoop then .error s 3
  else
    match opc with
    | 0 => if reservedOk p [] then .go s else .error s 1
    | 1 => if (pWord p 7).toNat % 64 = 0 then .stop (launchPacket s n q p va) else .error s 1
    | 2 =>
      if !reservedOk p [0, allOnes, fieldMask 15 0] || (pWord p 1).toNat % 64 != 0 then .error s 1
      else if 3 ≤ q.levels.length then .error s 2
      else
        let w := { ownLevel 0 with addr := (pWord p 1).toNat, count := (bits (pWord p 2) 0 16).toNat + 1 }
        let s1 := (consume s n p).updQueue n fun q => { q with levels := q.levels ++ [w] }
        .jump (fillTop s1 n false)
    | 3 =>
      let k := (bits w0 48 8).toNat
      if !reservedOk p [fieldMask 55 48 ||| fieldMask 31 27, allOnes, allOnes, allOnes] || !testOk p || k = 0 then .error s 1
      else
        match lookWord s n q p with
        | .fault => .error s 6
        | .wait s1 => .stay s1
        | .known true s1 => .go s1
        | .known false s1 => .jump (updTop (consume s1 n p) n fun v => { v with skip := k })
    | 4 => if reservedOk p [fieldMask 5 0] then loopPacket s n v p else .error s 1
    | 5 => if reservedOk p [] then endLoopPacket s n v p else .error s 1
    | 6 =>
      let al := if w0.getLsbD 29 then 8 else 4
      if !reservedOk p [fieldMask 31 29, allOnes, allOnes] || 1 < (bits w0 30 2).toNat || (pWord p 1).toNat % al != 0 then .error s 1
      else writePacket s n q p
    | 7 =>
      if !reservedOk p [fieldMask 31 27, allOnes, allOnes, allOnes] || !testOk p then .error s 1
      else
        match lookWord s n q p with
        | .fault => .error s 6
        | .wait s1 => .stay s1
        | .known true s1 => .go s1
        | .known false s1 => .stay s1
    | 8 => if reservedOk p [] then waits true (.go s) else .error s 1
    | 9 => if reservedOk p [] then .jump (fetchFence s n p) else .error s 1
    | 10 => if reservedOk p ([fieldMask 2 0] ++ List.replicate 7 allOnes) && bits w0 0 3 != 0 then dependPacket s n q p else .error s 1
    | 11 =>
      if !reservedOk p [1, allOnes] || (pWord p 1).toNat % 8 != 0 then .error s 1
      else waits (w0.getLsbD 0) (stampPacket s n q p)
    | 12 => doCommons s n q p va
    | 13 =>
      if !reservedOk p [fieldMask 11 0] then .error s 1
      else waits (w0.getLsbD 11) (if shepherdOpen s q.func then .stay s else .go (sendMsix s q.func (bits w0 0 11).toNat))
    | _ => .error s 1

/-- The end of an indirect buffer: processing goes on after its IB; a loop that has not ended there is an error (R326 to
R328). -/
def popLevel (s : State) (n : Nat) (q : Queue) : State × Bool :=
  match q.top.loopStart with
  | some _ => (queueError s n 3 (packetAddr q (q.levels.length - 1) q.top (q.top.next - 1)), false)
  | none => (s.updQueue n fun q => { q with levels := q.levels.dropLast }, true)

/-- A poll processes packets in order: 8 of them, skipped ones among them, or until one blocks or none is left (R320). The
first number bounds the ends of buffers met between packets. -/
def pollPackets (n : Nat) : Nat → Nat → State → State
  | _, 0, s => s
  | 0, _, s => s
  | fuel + 1, left + 1, s =>
    match s.queue? n with
    | none => s
    | some q =>
      if q.state = 2 || q.state = 3 || q.blocked != .none then s
      else
        match nextPacket s q with
        | .empty => s
        | .pop => let (s1, ok) := popLevel s n q; if ok then pollPackets n fuel (left + 1) s1 else s1
        | .later => s
        | .unread va => queueError s n 6 va
        | .packet p va =>
          let s1 := fillTop s n true
          if 0 < q.top.skip then
            if bodyTooLong q.top p then queueError s1 n 3 va else
            pollPackets n fuel left (updTop (consume s1 n p) n fun v => { v with skip := v.skip - 1 })
          else
            match processPacket s1 n ((s1.queue? n).getD q) p va with
            | .go s2 => pollPackets n fuel left (consume s2 n p)
            | .jump s2 => pollPackets n fuel left s2
            | .stop s2 => consume s2 n p
            | .stay s2 => s2
            | .error s2 code => queueError s2 n code va

/-- SLOT_POLL (R317, R319, R320): the poll of a bound slot; a ring queue's control block is read first, and its doorbell is
answered by that (DEDUCED, log entry 104). The poll of one in error processes no packet (R317, R318); one whose control block the frame's
budget does not let it read waits for the next frame (R370), and so does one whose reset has still to end. -/
def execSlotPoll (sl : Nat) (s : State) : Res :=
  match Table.get none s.slots sl with
  | none => .next s
  | some n =>
    match s.queue? n with
    | none => .next s
    | some q =>
      if (s.func q.func).resetting || q.slot != some sl then .next s
      else if q.ring && !mayReadQcb s q then .next s
      else if q.state = 3 then .next s
      else
        let s1 := if q.ring then (readQcb s n).updQueue n fun q => { q with doorbell := none } else s
        if q.state = 2 then .next s1 else
        let s2 := pollPackets n 32 8 (fillAll s1 n)
        .next (if q.ring then writeQcb s2 n else s2)

end Sys2Proof.Machine
end

