-- ==== Sys2Proof/Machine/Image.lean ====
section
/-!
DEFINITION. The Lindin image (R39 to R42): its header and sections, the check that it is valid, the validation of matrix
routines (R179 to R184), and the state of a core at launch start (R25 to R28, R38).
-/
namespace Sys2Proof.Machine

/-! ## Reading an image -/

/-- `n` bytes of a run of pages from an offset in the first. -/
def bytesAt (s : State) (ps : List Nat) (off n : Nat) : List Byte :=
  (List.range n).map fun i => readByte s (ps.getD ((off + i) / 65536) 0 * 65536 + (off + i) % 65536)

/-- `n` bytes at a virtual address of a function, where they translate for reading. -/
def readVa (s : State) (f va n : Nat) : Option (List Byte) :=
  if n = 0 then some [] else (translateRange s f va n false).map fun ps => bytesAt s ps (va % 65536) n

/-- The 4 KiB blocks of a run of pages from an offset in the first, by an address in each. -/
def blocksOf (ps : List Nat) (off n : Nat) : List Nat :=
  (List.range ((off % 4096 + n + 4095) / 4096)).map fun i =>
    let o := off / 4096 * 4096 + 4096 * i
    ps.getD (o / 65536) 0 * 65536 + o % 65536

/-- The reference cycle for which the reading of `n` bytes at a virtual address waits: a table entry of its translation, or some of the
bytes, lie in a block in re-encryption (R285). -/
def readWait (s : State) (f va n : Nat) : Option Nat :=
  if n = 0 then none
  else
    match rangeWait s f va n with
    | some t => some t
    | none => (translateRange s f va n false).bind fun ps => (blocksOf ps (va % 65536) n).findSome? (reencrypting s)

/-- The bytes at a virtual address that lie in the host: they count against its frame's budget (R370). -/
def hostPart (s : State) (f va n : Nat) : Nat :=
  if n = 0 then 0
  else
    match translateRange s f va n false with
    | some ps => (blocksOf ps (va % 65536) n).foldl (fun k a => if isHost a then k + 4096 else k) 0 |> Nat.min n
    | none => 0

/-- The words of a run of bytes. -/
def wordsOf : List Byte → List Word
  | a :: b :: c :: d :: e :: f :: g :: h :: rest => BitVec.ofNat 64 (leNat [a, b, c, d, e, f, g, h]) :: wordsOf rest
  | _ => []

/-- A field of `n` bytes at a byte offset. -/
def field (b : List Byte) (o n : Nat) : Nat := leNat ((b.drop o).take n)

/-- The offset and the size of a section (R39). -/
def sectOf (b : List Byte) (k : Nat) : Nat × Nat := (field b (64 + 8 * k) 4, field b (68 + 8 * k) 4)

/-- The sections of an image by their virtual addresses and sizes, its header first (R39). -/
def imageParts (s : State) (f img : Nat) : List (Nat × Nat) :=
  (img, 256) :: ((readVa s f img 256).map fun b => (List.range 8).map fun k => (img + (sectOf b k).1, (sectOf b k).2)).getD []

/-- The reference cycle for which the reading of an image's header and sections waits (R285). -/
def imageWait (s : State) (f img : Nat) : Option Nat := (imageParts s f img).findSome? fun (a, n) => readWait s f a n

/-- The bytes of an image's header and sections that are read from the host (R370). -/
def imageHost (s : State) (f img : Nat) : Nat := (imageParts s f img).foldl (fun k (a, n) => k + hostPart s f a n) 0

/-- An image can be checked now: no block of it is in re-encryption, and, where it lies in the host, the frame's budget has room for its
first line (R285, R370). -/
def mayReadImage (s : State) (f img : Nat) : Bool :=
  (imageWait s f img).isNone && (imageHost s f img = 0 || hostBudget s f 64)

/-- The words of a section; none where it does not translate. -/
def sectWords (s : State) (f img : Nat) (b : List Byte) (k : Nat) : Option (List Word) :=
  let (o, n) := sectOf b k
  (readVa s f (img + o) n).map wordsOf

/-- What the header of an image says (R39). -/
def headImage (img : Nat) (b : List Byte) : Image :=
  { img := img, h := field b 48 1, c := field b 49 1, split := field b 50 1, dyn := (field b 6 2).testBit 1
    prt := (field b 6 2).testBit 0, entry := field b 52 4, segbase := field b 56 4, tier0 := field b 60 4, step := field b 12 4 }

/-- A region entry (R40). -/
structure RegionEntry where
  tier : Nat
  hnd : Nat
  size : Nat
  off : Nat
  foff : Nat
  flen : Nat
  clean : Bool               -- its reserved bits are zero
deriving DecidableEq, Repr

/-- The region entries of a section (R40). -/
def regionsOf : List Word → List RegionEntry
  | a :: b :: c :: d :: rest =>
    { tier := (bits a 0 1).toNat, hnd := (bits a 1 5).toNat, size := (bits b 0 48).toNat, off := (bits c 0 48).toNat
      foff := (bits d 0 32).toNat, flen := (bits d 32 32).toNat
      clean := bits a 6 58 == 0 && bits b 48 16 == 0 && bits c 48 16 == 0 } :: regionsOf rest
  | _ => []

/-- A buffer record from its words (R194). -/
def recordOf (a b c d : Word) : BufRec :=
  { hnum := (bits a 60 4).toNat, mode := (bits a 58 2).toNat, fmt := bits a 54 4, win := bits a 45 9, base := (bits b 0 48).toNat
    ext := (bits c 0 48).toNat, str0 := (bits d 0 32).toNat, str1 := (bits d 32 32).toNat }

/-- The buffer records of a section with their numbers; one that is all zero is not declared (R40). -/
def recordsFrom (n : Nat) : List Word → List (Nat × BufRec × Bool)
  | a :: b :: c :: d :: rest =>
    let more := recordsFrom (n + 1) rest
    if a = 0 && b = 0 && c = 0 && d = 0 then more
    else (n, recordOf a b c d, bits a 0 45 == 0 && bits b 48 16 == 0 && bits c 48 16 == 0) :: more
  | _ => []

/-! ## Validity (R42) -/

/-- The header's own fields (R39). -/
def headOk (b : List Byte) : Bool :=
  field b 0 4 == 0x31494E4C && field b 4 2 == 1 && decide (field b 6 2 < 4) && field b 51 1 == 0 && (b.drop 136).all (· == 0)

/-- R34: the shape of a placement. -/
def shapeOk (i : Image) : Bool :=
  1 ≤ i.c && i.c ≤ 8 &&
    (if i.split = 0 then decide (1 ≤ i.h ∧ i.h ≤ 12) else decide (i.split ≤ 12 ∧ i.split < i.h ∧ i.h ≤ i.split + 12))

/-- LINES of a code directory entry. -/
def segLines (w : Word) : Nat := (bits w 32 11).toNat
/-- The offset of a segment's first byte. -/
def segOff (w : Word) : Nat := (bits w 0 32).toNat

/-- The code directory (R40). -/
def dirOk (size : Nat) (dir : List Word) : Bool :=
  dir.length == 256 && dir.all fun w =>
    bits w 43 21 == 0 && segOff w % 64 == 0 && decide (segLines w ≤ 1024) && (segLines w == 0 || decide (segOff w + 64 * segLines w ≤ size))

/-- A code address lies in a segment. -/
def inSegment (dir : List Word) (a : Nat) : Bool := decide (a % 65536 < 64 * segLines (dir.getD (a / 65536) 0))

/-- ENTRY and SEGBASE (R42). -/
def entryOk (i : Image) (dir : List Word) : Bool :=
  let k := i.entry / 65536
  i.entry % 8 == 0 && decide (k ≤ (if i.segbase = 0 then 3 else 1)) && inSegment dir i.entry &&
    (i.segbase == 0 || (decide (i.segbase < 2 * 65536) && inSegment dir i.segbase))

/-- The regions (R40, R42). A statement of R40 that the list of R42 does not name counts as one of its checks (DESIGN CHOICE, log entry 122). -/
def regionsOk (i : Image) (size : Nat) (rs : List RegionEntry) : Bool :=
  let hs := (rs.filter fun r => r.hnd != 31).map (·.hnd)
  decide (rs.length ≤ 64) && decide (hs.length ≤ 16) && hs.all (fun h => decide (h < 16)) && hs.eraseDups.length == hs.length &&
    rs.all fun r =>
      r.clean && (if r.tier = 0 then r.off % 64 == 0 && decide (r.off + r.size ≤ i.tier0) && decide (r.flen ≤ r.size) &&
                    (r.flen == 0 || decide (r.foff + r.flen ≤ size))
                  else r.off % 65536 == 0 && decide (r.off + r.size ≤ size) && r.foff == 0 && r.flen == 0)

/-- R194 and R195: a declared record, over its region. -/
def recordOk (rs : List RegionEntry) (n : Nat × BufRec × Bool) : Bool :=
  let (_, b, clean) := n
  clean && b.mode != 3 && b.fmt != 15 && decide (-149 ≤ b.win.toInt ∧ b.win.toInt ≤ 31) &&
    match rs.find? fun r => r.hnd == b.hnum with
    | some r => decide (b.base + b.ext ≤ r.size)
    | none => true

/-- R218: the circuit slot table. -/
def circuitsOk (n : Nat) (ws : List Word) : Bool :=
  let used := ws.filter fun w => w.getLsbD 63
  let key := fun (lo : Nat) (w : Word) => (bits w lo 8).toNat * 256 + (bits w 39 8).toNat
  decide (ws.length ≤ 256) && ws.all (fun w => bits w 0 39 == 0) &&
    used.all (fun w => decide ((bits w 55 8).toNat < n) && decide ((bits w 47 8).toNat < n)) &&
    (used.map (key 55)).eraseDups.length == used.length && (used.map (key 47)).eraseDups.length == used.length

/-- A claim group entry (R40). -/
def groupFrom (a : Word) : ClaimGroup :=
  { first := (bits a 0 14).toNat, words := (bits a 14 14).toNat, kind := (bits a 28 2).toNat, a := (bits a 30 8).toNat
    b := (bits a 38 8).toNat, notify := if a.getLsbD 51 then some (bits a 46 5).toNat else none
    outcome := if a.getLsbD 57 then some (bits a 52 5).toNat else none }

/-- The claim group entries of section 6, unused ones left out, and whether their reserved bits are zero. -/
def groupsFrom : List Word → List ClaimGroup × Bool
  | a :: b :: rest =>
    let (gs, ok) := groupsFrom rest
    let clean := bits a 58 6 == 0 && b == 0
    (if (groupFrom a).kind = 0 then gs else groupFrom a :: gs, clean && ok)
  | _ => ([], true)

/-- R232: claim words are numbered from 0 in the order of the groups; the ranks of a group exist. -/
def groupsOk (n : Nat) : Nat → List ClaimGroup → Bool
  | k, [] => decide (k ≤ 8192)
  | k, g :: rest => g.first == k && (g.kind != 3 || decide (g.a ≤ g.b ∧ g.b < n)) && groupsOk n (k + g.words) rest

/-- Section 6: phase scopes, commons word, groups (R40). -/
def scopesOf (ws : List Word) : Table Nat :=
  (List.range 8).filterMap fun p =>
    let v := (bits (ws.getD 0 0) (8 * p) 2).toNat
    if v = 0 then none else some (p, v)

/-- Section 6 is as R40 lays it out. -/
def scopesOk (ws : List Word) : Bool :=
  (List.range 8).all (fun p => bits (ws.getD 0 0) (8 * p + 2) 6 == 0) && bits (ws.getD 1 0) 13 51 == 0

/-- The pairs of the spill initialisation (R40). -/
def spillPairs : List Word → List (Nat × Word)
  | i :: v :: rest => (i.toNat, v) :: spillPairs rest
  | _ => []

/-- What a launch keeps of an image from its check on. -/
structure ImageInfo where
  image : Image
  phases : Table Nat
  groups : List ClaimGroup
  words : Nat
  commonsWord : Word
  circuits : Table Word
deriving DecidableEq, Repr

/-- The valid entries of a circuit slot table by number. -/
def circuitTable (ws : List Word) : Table Word := ((List.range ws.length).zip ws).filter fun (_, w) => w.getLsbD 63

/-- What a check finds of an image: its header does not translate, it is not valid, or it is. -/
inductive ImageCheck where
  | absent
  | bad
  | ok (i : ImageInfo)
deriving DecidableEq, Repr

/-- The sections of a header lie within the image (R39, R42), and hold whole words (DESIGN CHOICE, log entry 122). The routine table and
the micro-steps are no part of the check otherwise. -/
def sectionsOk (b : List Byte) : Bool :=
  let size := field b 128 8
  (List.range 8).all fun k => let (o, n) := sectOf b k; n == 0 || (decide (o + n ≤ size) && (k == 3 || k == 4 || n % 8 == 0))

/-- The shepherd reads the segments that a launch start loads (R28): their pages translate. -/
def segmentsRead (s : State) (f : Nat) (i : Image) (dir : List Word) : Bool :=
  (List.range (if i.segbase = 0 then 4 else 2)).all fun k =>
    let w := dir.getD k 0
    segLines w == 0 || (translateRange s f (i.img + segOff w) (64 * segLines w) false).isSome

/-- R42: the image at a virtual address of a function; what else R40 says of a layout is checked too (DESIGN CHOICE, log entry
122). -/
def checkImage (s : State) (f img : Nat) : ImageCheck :=
  match readVa s f img 256 with
  | none => .absent
  | some b =>
    let i := headImage img b
    let size := field b 128 8
    let n := i.h * i.c
    if !(headOk b && shapeOk i && sectionsOk b && i.tier0 % 2048 == 0 && decide (i.tier0 ≤ 0x1000000)) then .bad
    else
      match (List.range 8).map (sectWords s f img b) with
      | [some dir0, some reg, some bufs, _, _, some circ, some scope, some spill] =>
        let dir := dir0.take 256
        let rs := regionsOf reg
        let (gs, clean) := groupsFrom ((scope.drop 2).take 64)
        let recs := recordsFrom 0 bufs
        if dirOk size dir && entryOk i dir && regionsOk i size rs && decide (bufs.length ≤ 128) && recs.all (recordOk rs) &&
            circuitsOk n circ && scopesOk scope && clean && groupsOk n 0 gs &&
            (spillPairs spill).all (fun (k, _) => decide (k < 2048)) && segmentsRead s f i dir then
          .ok { image := i, phases := scopesOf scope, groups := gs, words := gs.foldl (fun k g => k + g.words) 0
                commonsWord := scope.getD 1 0, circuits := circuitTable circ }
        else .bad
      | _ => .bad

/-! ## Validation of matrix routines (R179 to R184) -/

/-- What validation computes on its way through a routine: the format of each weight binding, DUR less 8, and ACCM. -/
structure Valid where
  bind : Table Nat
  dur : Nat
  accm : Nat
deriving DecidableEq, Repr

/-- The bits that a kind of micro-step does not use are zero, and its fields hold no reserved value (R181). -/
def stepClean (w : Word) : Bool :=
  match (bits w 60 4).toNat with
  | 0 => w == 0
  | 1 => bits w 0 44 == 0
  | 2 => bits w 0 25 == 0 && bits w 56 2 != 3
  | 3 | 4 => bits w 0 33 == 0 && bits w 45 3 != 7 && (decide ((bits w 45 3).toNat < 2) || bits w 33 6 == 0)
  | 5 => bits w 0 24 == 0 && bits w 44 4 != 0
  | 6 => bits w 0 58 == 0
  | 7 => bits w 0 25 == 0
  | 8 => bits w 0 56 == 0
  | 9 => bits w 0 55 == 0
  | _ => false

/-- Blocks of a tile row in an activation format (R172). -/
def tileBlocks (b : Nat) : Nat := if b = 0 then 8 else if b = 6 then 2 else 4

/-- The operands of an MMA on a pass, for validation: `wfmt` is the format of its binding. -/
def mmaOn (w loop : Word) (pass wfmt : Nat) : MmaOps :=
  let add := fun (x : BitVec 64) (lo n : Nat) => x.toNat + pass * (bits loop lo n).toNat
  { ao := (bits w 58 2).toNat, fmt := wfmtCode wfmt, line := 0, ka := add ((bits w 54 2).setWidth 64) 42 2
    t := add ((bits w 51 3).setWidth 64) 36 3, kb := add ((bits w 48 3).setWidth 64) 39 3, b := (bits w 45 3).toNat
    zha := add ((bits w 39 6).setWidth 64) 30 6, zhb := add ((bits w 33 6).setWidth 64) 24 6 }

/-- The static limits of an MMA (R182 to R184). -/
def mmaOk (o : MmaOps) : Bool :=
  let tern := o.fmt == 13
  let last := if tern then 1 else 0
  decide (o.ka < rowBlocks o.fmt) && decide (o.kb + last < tileBlocks o.b) && decide (o.t ≤ 7) && decide (o.zha ≤ 63) &&
    (decide (2 ≤ o.b) || decide (o.zhb + last ≤ 63)) && (!tern || o.b == 1 || o.b == 2)

/-- The bit of ACCM for an accumulator offset. -/
def accBit (o : BitVec 2) : Nat := 2 ^ o.toNat

/-- One micro-step on a pass, other than END and LOOP. -/
def checkStep (loop : Word) (pass : Nat) (v : Valid) (w : Word) : Option Valid :=
  if !stepClean w then none
  else
    let cost := fun (n : Nat) (m : Nat) => some { v with dur := v.dur + n, accm := v.accm ||| m }
    match (bits w 60 4).toNat with
    | 1 => cost ((bits w 44 16).toNat + 1) 0
    | 2 => some { v with bind := v.bind.put (bits w 58 2).toNat (bits w 56 2).toNat, dur := v.dur + 4 }
    | 3 | 4 =>
      match v.bind.find (bits w 56 2).toNat with
      | none => none
      | some wfmt => let o := mmaOn w loop pass wfmt; if mmaOk o then cost (mmaCost o) (accBit (bits w 58 2)) else none
    | 6 => cost 1 (accBit (bits w 58 2))
    | 7 => cost 1 0
    | 8 => cost 16 (accBit (bits w 58 2) ||| accBit (bits w 56 2))
    | 9 => cost 16 (accBit (bits w 58 2))
    | _ => none

/-- A run of micro-steps on a pass. -/
def checkPass (loop : Word) (pass : Nat) : List Word → Valid → Option Valid
  | [], v => some v
  | w :: rest, v => (checkStep loop pass v w).bind (checkPass loop pass rest)

/-- The passes of a loop: every limit is met on every pass when it is met on passes 0, 1 and the last; every pass from 1 on
costs the same. -/
def checkLoop (loop : Word) (body : List Word) (v : Valid) : Option Valid :=
  let n := (bits loop 48 12).toNat
  (checkPass loop 0 body v).bind fun v0 =>
    if n = 0 then some v0
    else (checkPass loop 1 body v0).bind fun v1 =>
      (checkPass loop n body v1).map fun vn => { vn with dur := v0.dur + n * (v1.dur - v0.dur) }

/-- The micro-steps of a routine up to its only END, the last of them. The number bounds the steps. -/
def checkSteps : Nat → List Word → Valid → Option Valid
  | 0, _, _ => none
  | _, [], _ => none
  | fuel + 1, w :: rest, v =>
    match (bits w 60 4).toNat with
    | 0 => if w = 0 && rest.isEmpty then some v else none
    | 5 =>
      let len := (bits w 44 4).toNat
      if !stepClean w || rest.length < len then none
      else (checkLoop w (rest.take len) v).bind (checkSteps fuel (rest.drop len))
    | _ => (checkStep 0 0 v w).bind (checkSteps fuel rest)

/-- A routine table entry passes validation (R179). Words of the store that no step of the image fills are zero (R28). -/
def routineOk (usteps : List Word) (e : Word) : Bool :=
  let start := rtStart e
  let steps := (bits e 38 13).toNat
  let ws := (List.range steps).map fun i => usteps.getD (start + i) 0
  bits e 0 10 == 0 && decide (1 ≤ steps) && decide (start + steps ≤ 4096) &&
    match checkSteps (steps + 1) ws { bind := [], dur := 0, accm := 0 } with
    | some v => rtDur e == v.dur + 8 && (bits e 10 4).toNat == v.accm
    | none => false

/-- The routine table as loaded: an entry that fails validation has V = 0 (R179). -/
def loadRoutines (usteps entries : List Word) : Table Word :=
  ((List.range 256).zip entries).map fun (k, e) =>
    (k, if e.getLsbD 63 && routineOk usteps e then e else e &&& 0x7FFFFFFFFFFFFFFF#64)

/-! ## Launch start (R26, R28, R38, R40) -/

/-- A list of words as a table from a number on. -/
def tableFrom (n : Nat) (ws : List Word) : Table Word := ((List.range ws.length).map (n + ·)).zip ws

/-- Where the copy of a byte of a launch's tier-0 block lies in a hive (R40). -/
def blockAddr (hive base0 o : Nat) : Nat := scratchBase + hive * 0x1000000 + base0 + o

/-- The handle of a region on a core (R26). A region of the first tier whose page is absent or unreadable at launch start keeps read-only
permission for RETRANSLATE (DESIGN CHOICE, log entry 141). -/
def regionHandle (s : State) (f img base0 g idx : Nat) (r : RegionEntry) : Handle :=
  if r.tier = 0 then
    { Handle.reset with valid := true, base := blockAddr (hiveOfCore g) base0 r.off, extent := r.size, write := true, region := some idx }
  else
    let va := img + r.off
    let kept : Handle := { Handle.reset with va := BitVec.ofNat 64 va }
    match walk s f va with
    | .page e =>
      if e.read then
        { kept with valid := true, base := e.ppage * 65536, extent := Nat.min r.size (extentOf e), write := e.write, ipa := e.ipage * 65536 }
      else kept
    | _ => kept

/-- A section's words at launch start. -/
def loadSect (s : State) (f img : Nat) (b : List Byte) (k : Nat) : List Word := (sectWords s f img b k).getD []

/-- What launch start loads into every core of a launch (R25 to R30, R38). -/
structure LoadedImage where
  code : Table Word
  frames : Table (Option Nat)
  regions : List RegionEntry
  bufs : Table BufRec
  routines : Table Word
  usteps : Table Word
  spill : Table Word
deriving DecidableEq, Repr

/-- The resident segments of an image in their frames (R136). -/
def loadCode (s : State) (f : Nat) (i : Image) (dir : List Word) : Table Word :=
  (List.range (if i.segbase = 0 then 4 else 2)).flatMap fun k =>
    let w := dir.getD k 0
    tableFrom (k * 8192) (((readVa s f (i.img + segOff w) (64 * segLines w)).map wordsOf).getD [])

/-- The bytes that launch start reads from the host beside the header and the sections: resident segments, and the initial bytes of regions,
once for each hive (R28, R40, R370). -/
def startHost (s : State) (f : Nat) (i : Image) (hives : Nat) : Nat :=
  let b := (readVa s f i.img 256).getD []
  let dir := loadSect s f i.img b 0
  let code := (List.range (if i.segbase = 0 then 4 else 2)).foldl (fun k j =>
    let w := dir.getD j 0
    k + hostPart s f (i.img + segOff w) (64 * segLines w)) 0
  let init := (regionsOf (loadSect s f i.img b 1)).foldl (fun k r => k + if r.tier = 0 then hostPart s f (i.img + r.foff) r.flen else 0) 0
  imageHost s f i.img + code + hives * init

/-- Read an image for its launch start. -/
def loadImage (s : State) (f : Nat) (i : Image) : LoadedImage :=
  let b := (readVa s f i.img 256).getD []
  let dir := loadSect s f i.img b 0
  let usteps := loadSect s f i.img b 4
  { code := loadCode s f i dir
    frames := ((List.range (if i.segbase = 0 then 4 else 2)).filter fun k => segLines (dir.getD k 0) != 0).map fun k => (k, some k)
    regions := regionsOf (loadSect s f i.img b 1)
    bufs := (recordsFrom 0 (loadSect s f i.img b 2)).map fun (n, r, _) => (n, r)
    routines := loadRoutines usteps (loadSect s f i.img b 3)
    usteps := tableFrom 0 (usteps.take 4096)
    spill := (spillPairs (loadSect s f i.img b 7)).foldl (fun t (k, v) => t.put k v) [] }

/-- The handles of a core at launch start (R26). -/
def loadHandles (s : State) (x : Launch) (g : Nat) (rs : List RegionEntry) : Table Handle :=
  ((List.range rs.length).zip rs).foldl (fun t (i, r) =>
    if r.hnd = 31 then t else t.put r.hnd (regionHandle s x.func x.image.img x.base0 g i r)) []

/-- The state of a core at launch start (R25 to R30, R38). -/
def loadCore (s : State) (l : Nat) (x : Launch) (im : LoadedImage) (rank g : Nat) : Core :=
  let hive := rank / x.image.c
  { Core.reset with
    launch := some l, rank := rank, hive := hive, coreid := rank % x.image.c
    vdie := if x.image.split = 0 || hive < x.image.split then 0 else 1
    started := true
    s := (List.range 4).foldl (fun t i => t.put (60 + i) (x.packet.getD (2 + i) 0)) []
    h := loadHandles s x g im.regions, bf := im.bufs, code := im.code, frameSeg := im.frames, usteps := im.usteps
    routines := im.routines, spill := im.spill, prt := x.image.prt, segbase := x.image.segbase, pc := x.image.entry, turn := s.now
    atomIds := (s.core g).atomIds, region := { Region.reset with num := 1 } }

/-- The tier-0 block of a launch in a hive: each region's initial bytes, then zeros (R40). -/
def fillBlock (s : State) (x : Launch) (hive : Nat) (rs : List RegionEntry) : State :=
  rs.foldl (fun st r =>
    if r.tier = 0 then
      let init := (readVa st x.func (x.image.img + r.foff) r.flen).getD []
      storeBytes st (blockAddr hive x.base0 r.off) (init ++ List.replicate (r.size - init.length) 0)
    else st) s

end Sys2Proof.Machine
end

