-- ==== Sys2Proof/Machine/Retire.lean ====
section
/-!
DEFINITION. The end of a launch: the check of a LAUNCH (R321), completion records (R324, R325), retirement with its child
(R45, R46), termination by the host, and the loss of the die link (R360).
-/
namespace Sys2Proof.Machine

/-! ## What a launch holds -/

/-- R337: the power step of a launch. -/
def Launch.step (x : Launch) : Nat := Nat.max (bits (x.packet.getD 0 0) 20 12).toNat x.image.step

/-- A launch that has cores placed: admitted, running, stopped, being saved, or about to resume (R335). -/
def Launch.holdsCores (x : Launch) : Bool :=
  match x.state with
  | .admitted | .running | .stopped | .saving => true
  | .saved => x.restart.isSome
  | _ => false

/-- A launch that is placed or saved, or whose last writes are in flight: it keeps its tier-0 block and its claim words (R232, R335). -/
def Launch.holdsBlock (x : Launch) : Bool := x.state != .waiting

/-- A launch that has been admitted and has not ended. -/
def Launch.goesOn (x : Launch) : Bool := x.holdsBlock && x.state != .ended

/-- No launch is placed or saved in a hive (R400). -/
def hiveEmpty (s : State) (hive : Nat) : Bool :=
  !(s.launches.any fun (_, x) => x.holdsBlock && x.cores.any fun g => hiveOfCore g == hive)

/-- The hive of a unit that carries a spare. -/
def spareHive (u : SpareUnit) : Nat :=
  match u with
  | .core h _ => h
  | .bank h _ => h

/-- The spares that wait for an empty hive are due (R400). -/
def bringSpares (s : State) : State :=
  s.spareDue.foldl (fun st u => if hiveEmpty st (spareHive u) then st.dueOnce st.now 4100 (.spareBringIn u) else st) s

/-! ## The check of a LAUNCH (R321) -/

/-- The fields and reserved bits of a LAUNCH packet (R323). -/
def launchFieldsOk (ws : List Word) : Bool :=
  let w0 := ws.getD 0 0
  bits w0 56 8 == 1 && bits w0 48 3 == 0 && bits w0 0 20 == 0 && (ws.getD 1 0).toNat % 65536 == 0 &&
    bits (ws.getD 6 0) 48 16 == 0 && (ws.getD 7 0).toNat % 64 == 0

/-- The cores that a hive can give once nothing runs there (R335, R400). -/
def hiveCores (s : State) (hive : Nat) : Nat :=
  if s.outOfService.contains hive then 0
  else ((List.range 8).filter fun p => !s.coresLost.contains (hive * 8 + p)).length

/-- A function holds a hive (R367). -/
def holdsHive (s : State) (f hive : Nat) : Bool := ((s.func f).word 0).getLsbD hive

/-- The hives of a die in which a function can ever place `c` cores. -/
def hivesEver (s : State) (f c die : Nat) : Nat :=
  ((List.range 12).filter fun k => holdsHive s f (12 * die + k) && c ≤ hiveCores s (12 * die + k)).length

/-- A placement can ever fit a function's hives (R321, R335). -/
def canEverFit (s : State) (f : Nat) (i : Image) : Bool :=
  if i.split = 0 then i.h ≤ hivesEver s f i.c 0 || i.h ≤ hivesEver s f i.c 1
  else i.split ≤ hivesEver s f i.c 0 && i.h - i.split ≤ hivesEver s f i.c 1

/-- What the check of a LAUNCH finds. -/
inductive Verdict where
  | ok (i : ImageInfo)
  | refused
  | absent                   -- the image header does not translate
deriving DecidableEq, Repr

/-- The check of a LAUNCH (R321). -/
def checkLaunch (s : State) (x : Launch) : Verdict :=
  match s.queue? x.queue with
  | none => .refused
  | some q =>
    let step := (bits (x.packet.getD 0 0) 20 12).toNat
    if !launchFieldsOk x.packet || q.maxPri < x.prio || (x.pin && !q.pinOk) || q.stepMax < step then .refused
    else
      match checkImage s x.func x.image.img with
      | .absent => .absent
      | .bad => .refused
      | .ok i =>
        if canEverFit s x.func i.image && Nat.max step i.image.step ≤ s.govCap then .ok i else .refused

/-- A launch takes what its check has found of its image. -/
def Launch.withImage (x : Launch) (i : ImageInfo) : Launch :=
  { x with image := i.image, phases := i.phases, groups := i.groups, words := i.words, commonsWord := i.commonsWord
           circuits := i.circuits }

/-! ## Completion records (R325) -/

/-- What a completion record says beside the launch's own data. -/
structure Ending where
  status : Nat
  drn : Nat
  tna : Bool
  disc : Nat
  rbmp : Nat
deriving DecidableEq, Repr

/-- An ending of a launch of which no core ran. -/
def Ending.unrun (status : Nat) : Ending := { status := status, drn := 0, tna := false, disc := 0, rbmp := 0 }

/-- The words of a completion record (R325). -/
def completionWords (s : State) (x : Launch) (e : Ending) : List Word :=
  let rb := BitVec.ofNat 192 e.rbmp
  [BitVec.ofNat 8 e.status ++ BitVec.ofNat 8 (x.fcode.getD 0) ++ bits (x.packet.getD 0 0) 32 16 ++ BitVec.ofNat 32 (Nat.min e.drn (2 ^ 32 - 1)),
   0#7 ++ BitVec.ofBool e.tna ++ BitVec.ofNat 8 (Nat.min e.disc 255) ++ BitVec.ofNat 48 x.lsn,
   BitVec.ofNat 64 x.admittedAt, BitVec.ofNat 64 x.start, BitVec.ofNat 64 s.now,
   rb.extractLsb' 0 64, rb.extractLsb' 64 64, rb.extractLsb' 128 64]

/-- The error code of a queue for a STATUS (R325). -/
def statusEcode (status : Nat) : Option Nat :=
  match status with
  | 1 => some 10
  | 2 => some 8
  | 3 => some 7
  | 4 => some 4
  | 5 => some 5
  | _ => none

/-- The queue of a launch enters the error state, where it still exists (R318, R329). -/
def failQueue (s : State) (x : Launch) (code : Nat) : State :=
  match if x.orphan = 0 then s.queue? x.queue else none with
  | some q => if q.state = 2 then s else queueError s x.queue code x.eaddr
  | none => s

/-- The completion record of a launch, its STATUS and its words, is written, and its queue takes the error that its STATUS gives; where CADDR does not
translate for writing the record is not written, and the queue's error is 6 (R324, R325). A function in reset gets none,
and none is written after a fatal error (R380, R402). -/
def writeCompletion (s : State) (x : Launch) (status : Nat) (ws : List Word) : State :=
  let caddr := (x.packet.getD 7 0).toNat
  let fail := fun (st : State) => match statusEcode status with | some k => failQueue st x k | none => st
  if caddr = 0 || (s.func x.func).resetting || !s.up then fail s
  else
    match translate s x.func caddr 64 true with
    | some pa => fail (deviceStoreFrom (rangeWait s x.func caddr 64) s x.func pa (wordBytes ws)).1
    | none => failQueue s x 6

/-- A launch ends without having run: refused, a ramp violation, or a failed dependence (R321, R325, R341). -/
def endUnrun (s : State) (l : Nat) (x : Launch) (status : Nat) : State :=
  let s1 := { s with launches := s.launches.del l }
  let s2 := writeCompletion s1 x status (completionWords s x (Ending.unrun status))
  let s3 := if x.lsn = 0 then s2 else endChain s2 x.chainQueue x.lsn status
  s3.updQueue x.queue fun q => { q with blocked := if q.blocked = .launch l then .none else q.blocked }

/-! ## Cores that a launch leaves -/

/-- A step of the agenda that acts on a core and belongs to what runs there. -/
def coreStep (i : Instr) : Option Nat :=
  match i with
  | .copyCommandStart g _ => some g
  | .copyElement g _ => some g
  | .copyCommandComplete g _ => some g
  | .phaseLineRaise g _ => some g
  | .phaseCompletion g _ => some g
  | .handleValid g _ => some g
  | .translationCacheMiss g _ => some g
  | .translationWalkEnd g _ => some g
  | .segmentLineDelivered g _ _ => some g
  | .dataErrorDetected g => some g
  | .rollbackRerunEnd g => some g
  | _ => none

/-- A step of the agenda that acts on one of the given cores. -/
def ofCores (cores : List Nat) (i : Instr) : Bool := match coreStep i with | some g => cores.contains g | none => false

/-- The accesses of a launch on a core that go with it when it ends: its loads, the writes of its streams, held writes, and what would have
to wait for those or for a command, which is discarded; all that waits, where it is saved out (R46, R351, R356). -/
def lostOn (s : State) (l g : Nat) : List Nat :=
  let live := (s.core g).launch == some l
  let back := keptBack s g
  let gone := fun (n : Nat) (a : Access) =>
    a.done || a.role == .stream || a.kind == .read && a.role != .flush || (if live then back.contains n else !a.left) ||
      a.role == .flush && (commandsOn s g (some l)).any fun m => m.seq == a.seq
  (s.accesses.filter fun (n, a) => a.g == g && a.launch == some l && gone n a).map (·.1)

/-- The accesses of a launch that ends: some go with it, and its other writes and atomics perform, each once what it has to wait for at the
source interface has come (R46, R130, R249 to R256). -/
def leaveAccesses (s : State) (l : Nat) : State :=
  let lost := ((s.accesses.filter fun (_, a) => a.launch == some l).map (·.2.g)).eraseDups.flatMap (lostOn s l)
  let stay := fun (p : Nat × Access) => p.2.launch != some l || !lost.contains p.1
  let free := fun (p : Nat × Access) => if p.2.launch == some l then (p.1, { p.2 with region := 0 }) else p
  let s1 : State := { s with accesses := (s.accesses.filter stay).map free }
  (s1.accesses.filter fun (_, a) => a.launch == some l && !a.left).foldl (fun st (n, _) =>
    st.due s.now keyLeave (.sourceInterfaceRelease n)) s1

/-- Writes or atomics of a launch are still in flight. -/
def inFlightOf (s : State) (l : Nat) : Bool := s.accesses.any fun (_, a) => a.launch == some l && !a.done

/-- A core that no launch is placed on. -/
def emptyCore (c : Core) : Core := { Core.reset with atomIds := c.atomIds }

/-- A core is left by its launch; its copy commands go with it. -/
def leaveCore (s : State) (g : Nat) : State := { s.setCore g (emptyCore (s.core g)) with checkpoints := s.checkpoints.del g }

/-- The power of a launch that has risen: all of its step once it has started; before, in the pre-ramp of its start or of its resume, what
its slots have added, that of its last slot apart (R338, R340). -/
def powerRan (s : State) (x : Launch) : Nat :=
  let j := x.rise.foldl (fun n (k, _) => Nat.max n k) 0
  let left := x.rise.foldl (fun n (k, w) => if s.now / 3000 < k || k = j then n + w else n) 0
  match x.state, x.restart with
  | .admitted, _ => x.step - left
  | .saved, some _ => x.step - left
  | .running, _ | .stopped, _ | .saving, _ => x.step
  | _, _ => 0

/-- The elements that a core's engines have begun to write are written to their end; nothing else of their commands is (R216, R347). -/
def finishElements (s : State) (g : Nat) : State :=
  [0, 1].foldl (fun st e =>
    match (st.core g).cmdsOf e with
    | m :: _ => m.todo.foldl (fun st w => makeElementAccess st g e m (m.ord - 1) .write (writePiece w)) st
    | [] => st) s

/-- A launch is forgotten: its cores are free, its messages, claim words and undecided claims on them are gone, and its power
ramps down (R46, R232, R340). -/
def dropLaunch (s : State) (l : Nat) : State :=
  match s.launch? l with
  | none => s
  | some x =>
    let placed := x.holdsCores && x.state != .saved
    let s0 := leaveAccesses (if placed then x.cores.foldl finishElements s else s) l
    let s1 := if placed then x.cores.foldl leaveCore s0 else s0
    let s2 := { s1 with
      launches := s1.launches.del l
      messages := s1.messages.filter fun (_, m) => m.launch != l
      arrives := s1.arrives.filter fun (_, m) => m.launch != l
      samples := s1.samples.filter fun (_, m) => m.launch != l
      claimWords := s1.claimWords.filter fun (k, _) => 2 ^ 60 ≤ k || k / 2 ^ 24 != l
      proposals := s1.proposals.filter fun (_, p) => p.g.isNone || p.launch != l || (2 ^ 60 ≤ p.word && p.departed.isSome)
      agenda := if placed then s1.agenda.filter fun (_, _, i) => !ofCores x.cores i else s1.agenda }
    let s3 := if 0 < powerRan s x then { s2 with ramps := s2.ramps ++ [(l, powerRan s x, x.cores)] } else s2
    bringSpares (s3.shoots.foldl (fun st (n, _) => st.due st.now keyReply (.shootdownComplete n)) s3)

/-! ## The end of a launch that has been admitted -/

/-- The members of a launch by rank, as they stand; none of one that has not started. -/
def membersNow (s : State) (l : Nat) (x : Launch) : List Core :=
  if x.state = .admitted then [] else (List.range x.cores.length).map (memberCore s l)

/-- The drone cycles of the pre-ramps of a launch that have run by now: one that ends before its cycle 0, or before its restart after a
save, has not run the whole of its last one (R325, R338, R340). -/
def rampCycles (s : State) (x : Launch) : Nat :=
  let n := x.cores.length
  match x.state, x.restart with
  | .admitted, _ => Nat.min x.drn (n * (s.now - 3000 * (x.admittedAt / 3000)))
  | .saved, some t => x.drn - n * (3000 * (t / 3000) - s.now)
  | _, _ => x.drn

/-- The drone cycles of a launch (R325): those of its pre-ramp, those of its cores to HALT, and one for each cycle from HALT
on, until its retirement or its save. -/
def droneCycles (s : State) (x : Launch) (cs : List Core) : Nat :=
  let until_ := if x.state = .saved then x.savedAt else s.now
  cs.foldl (fun n c =>
    let c1 := if x.state = .saved then c else settleHeld s.now c.hold c
    n + c1.drones + (if c.halted then until_ - c.haltRef else 0)) (rampCycles s x)

/-- The check of a kept TAIL record (R133): its launch takes what its image says, or the chain of its parent ends. What it reads of the host
counts (R370). -/
def checkChild (s : State) (l : Nat) (y : Launch) : State :=
  let s1 := chargeHost s y.func (imageHost s y.func y.image.img)
  let gone := { s1 with launches := s1.launches.del l }
  match checkLaunch s y with
  | .ok i => s1.setLaunch l (y.withImage i)
  | .refused =>
    if (y.packet.getD 7 0).toNat % 64 = 0 then endUnrun s1 l y 4 else endChain (failQueue gone y 4) y.chainQueue y.lsn 4
  | .absent => endChain (failQueue gone y 6) y.chainQueue y.lsn 4

/-- The child of a launch that has retired (R45, R133, R324): it has its parent's LSN, and is checked as a LAUNCH is, as soon as its image
can be read (R285, R370). -/
def startChild (s : State) (x : Launch) (ws : List Word) : State :=
  let y0 := newLaunch x.func x.queue x.slot ws x.eaddr (s.now - 600) [] false
  let y := { y0 with lsn := x.lsn }
  let (l, s1) := s.newId
  let s2 := s1.setLaunch l y
  match if x.orphan = 0 then s.queue? x.queue else none with
  | none => endChain s x.chainQueue x.lsn 1
  | some q =>
    if q.state = 2 then endChain s x.chainQueue x.lsn 1
    else if mayReadImage s2 y.func y.image.img then checkChild s2 l y
    else s2

/-- Whatever a launch has written is performed: its completion record is written, and its chain ends (R257, R324). -/
def closeLaunch (s : State) (x : Launch) (status : Nat) (ws : List Word) : State :=
  endChain (writeCompletion s x status ws) x.chainQueue x.lsn status

/-- The fences of a launch's cores. -/
def fencesNow (s : State) (x : Launch) : List (Nat × Fence) :=
  if x.holdsCores && x.state != .saved then x.cores.flatMap fun g => (s.core g).fences.map fun f => (g, f) else []

/-- A launch that has been admitted ends with a STATUS: its cores are left, its completion record is written once its writes in flight
have performed, and its chain ends or goes on with its child (R45, R46, R257, R324, R325). -/
def finishLaunch (s : State) (l status : Nat) : State :=
  match s.launch? l with
  | none => s
  | some x =>
    let cs := membersNow s l x
    let kids := if status = 0 then cs.filterMap (·.child) else []
    let rb := (List.range cs.length).foldl (fun n r => if (cs.getD r Core.reset).halted then n + 2 ^ r else n) 0
    let e : Ending :=
      { status := status, drn := droneCycles s x cs / 1024, tna := !kids.isEmpty && !x.chain, disc := kids.length - 1
        rbmp := if status = 5 then 0 else rb }
    let ws := completionWords s x e
    let s1 := dropLaunch (reachSaved s l x) l
    if status ≠ 0 && inFlightOf s1 l then
      s1.setLaunch l { x with state := .ended, final := some (status, ws), stops := [], restart := none, preempting := false, savedCores := []
                              savedPoints := [], savedSteps := [], deps := [], fences := fencesNow s x }
    else
      match kids with
      | k :: _ =>
        if x.chain then startChild (writeCompletion s1 x status ws) x k else closeLaunch s1 x status ws
      | [] => closeLaunch s1 x status ws

/-- Every act that the directory owes a launch is done, with the writes that it caused, and every claim is decided (R310). -/
def directoryDone (s : State) (l : Nat) : Bool :=
  !(s.commonsReqs.any fun (_, r) => r.launch == l && r.rank.isSome) &&
    !(s.proposals.any fun (_, p) => p.launch == l && p.g.isSome && !p.done)

/-- What a launch still waits for before it retires: its writes, the arrival of its messages, its requests to the directory and its claims
(R46, R220, R310). -/
def mayRetire (s : State) (l : Nat) (x : Launch) : Bool :=
  x.cores.all (fun g => (s.core g).halted && drained s g && (s.core g).rerun.isNone) &&
    !(s.messages.any fun (_, m) => m.launch == l && !m.arrived) && directoryDone s l

/-- LAUNCH_RETIREMENT (R46, R257): when every core has halted and all writes have drained, the launch retires; one that was ended
closes when its last writes have performed. -/
def execLaunchRetirement (l : Nat) (s : State) : Res :=
  match s.launch? l with
  | none => .next s
  | some x =>
    match x.state, x.final with
    | .ended, some (status, ws) =>
      .next (if inFlightOf s l then s else bringSpares (closeLaunch { s with launches := s.launches.del l } x status ws))
    | _, _ =>
      if x.state != .running || !(x.cores.all fun g => (s.core g).halted) then .next s
      else if mayRetire s l x then .next (finishLaunch s l 0)
      else .next (s.dueOnce (s.now + 1) keyRetire (.launchRetirement l))

/-- HOST_TERMINATION (R46, R325): the launch ends with STATUS 2; after a fatal error no launch ends (R402). -/
def execHostTermination (l : Nat) (s : State) : Res :=
  match s.launch? l with
  | none => .next s
  | some x => .next (if x.goesOn && s.up then finishLaunch s l 2 else s)

/-! ## The die link (R360) -/

/-- A launch has a request outstanding across the die link: it, or its reply, has still to cross. -/
def crossesNow (s : State) (l : Nat) : Bool :=
  s.accesses.any fun (_, a) => a.launch == some l && a.left && !a.done && a.pieces.any fun p => crosses s a.g p.pa

/-- A record that concerns no core (R344, R345). -/
def launchRecord (s : State) (l : Nat) (x : Launch) (code cause : Nat) (a0 a1 : Word) : State :=
  let info : FaultInfo :=
    { kind := 1, code := code, cause := cause, arg0 := a0, arg1 := a1, slot := 7, rep := 0, origin := 5, issue := 0, baddr := 0 }
  let (s1, _) := writeRecord s x.func (recordWords info 0xFF 0xFF x.queue x.lsn 0 s.now)
  s1.updLaunch l fun y => { y with fcode := y.fcode.orElse fun _ => some code }

/-- A launch fails with die link lost. -/
def failByLink (s : State) (l : Nat) (x : Launch) : State := finishLaunch (launchRecord s l x 0x10 0 0 0) l 3

/-- DIE_LINK_LOST (R360, R402): every launch that is split, or has a request across the link or asks for one, fails. -/
def execDieLinkLost (s : State) : Res :=
  let s1 := { s with dieLink := false }
  .next (s1.launches.foldl (fun st (l, x) =>
    if s.up && x.goesOn && (x.image.split != 0 || x.crossed || crossesNow s1 l) then failByLink st l x else st) s1)

end Sys2Proof.Machine
end

