-- ==== Sys2Proof/Machine/Admission.lean ====
section
/-!
DEFINITION. The admission pass (R333 to R336), the load-step governor (R337 to R341), pre-emption (R342, R343, R350) and
launch start (R38).
-/
namespace Sys2Proof.Machine

/-! ## Effective priority (R333) -/

/-- a of R333: the priority of a packet with its age. -/
def aged (now : Nat) (x : Launch) : Nat := if x.prio = 7 then 7 else Nat.min 6 (x.prio + (now - x.since) / 600000)

/-- A launch waits for admission: since its first decision, or since its pre-emption (R333, R343). -/
def Launch.waits (x : Launch) : Bool := (x.state == .waiting && x.decided.isSome) || (x.state == .saved && x.restart.isNone)

/-- a of R333 for a waiting or a placed launch. -/
def ownPriority (now : Nat) (x : Launch) : Nat := if x.waits then aged now x else x.own

/-- One round of inheritance: e is at least the e of every launch that waits on this one's chain. -/
def inherit (ls : Table Launch) : Table Launch :=
  ls.map fun (l, x) =>
    let above := ls.foldl (fun n (_, y) => if y.state == .waiting && y.deps.contains (x.chainQueue, x.lsn) then Nat.max n y.eff else n) 0
    (l, if x.lsn = 0 then x else { x with eff := Nat.max x.eff above })

/-- Rounds of inheritance, one for each launch that may lie on a path. -/
def inheritAll : Nat → Table Launch → Table Launch
  | 0, ls => ls
  | n + 1, ls => inheritAll n (inherit ls)

/-- Every launch takes its effective priority at a pass. -/
def setPriorities (s : State) : State :=
  let own := s.launches.map fun (l, x) => (l, { x with eff := ownPriority s.now x })
  { s with launches := inheritAll own.length own }

/-! ## First decisions (R321, R324) -/

/-- A waiting launch is decided at a pass at least 600 cycles after the poll that saw it. While its image cannot be read, for a block of it
is in re-encryption or the host's budget is spent, the decision is that it waits, and it is checked at a later pass (R285, R370). One that
has been checked waits on unless GOVCAP has been lowered below its step, or a chain that it refers to has failed and all of them have ended
(R321, R325, R329, R405). -/
def decideLaunch (s : State) (l : Nat) (x : Launch) : State :=
  if x.state != .waiting || s.now < x.pollAt + 600 || !(s.func x.func).en || (s.func x.func).resetting then s
  else
    let after := fun (st : State) (y : Launch) =>
      if s.govCap < y.step then endUnrun st l y 4
      else if y.depFailed && y.deps.isEmpty then endUnrun st l y 6
      else { st with launches := st.launches.put l y }
    let take := fun (y : Launch) => { y with decided := some (y.decided.getD s.now), since := if y.decided.isNone then s.now else y.since }
    if x.image.h ≠ 0 then after s (take x)
    else if !mayReadImage s x.func x.image.img then s.setLaunch l (take x)
    else if x.lsn ≠ 0 then
      let s1 := checkChild s l (take x)
      match s1.launch? l with
      | some y => after s1 y
      | none => s1
    else
      let s0 := chargeHost s x.func (imageHost s x.func x.image.img)
      match checkLaunch s x with
      | .absent => failQueue { s0 with launches := s0.launches.del l } x 6
      | .refused => endUnrun s0 l x 4
      | .ok i =>
        let lsn := (match s.queue? x.queue with | some q => q.lsn | none => 0) + 1
        let s1 := s0.updQueue x.queue fun q => { q with lsn := lsn }
        after (writeQcb s1 x.queue) { (take x).withImage i with lsn := lsn }

/-- The decisions of a pass. -/
def decideAll (s : State) : State :=
  s.launches.foldl (fun st (l, _) => match st.launch? l with | some x => decideLaunch st l x | none => st) s

/-! ## Placements (R334, R335) -/

/-- A core is taken: a launch is placed on it, the launches `gone` left aside. -/
def coreTaken (s : State) (gone : List Nat) (g : Nat) : Bool :=
  s.launches.any fun (l, x) => x.holdsCores && !gone.contains l && x.cores.contains g

/-- A core position can be used: it has a core, which no spare is to replace (R400). -/
def coreUsable (s : State) (g : Nat) : Bool :=
  let hive := hiveOfCore g
  !s.coresLost.contains g && !s.outOfService.contains hive && !s.bankBusy.contains hive &&
    !(s.spareDue.any fun u => match u with | .core h p => h * 8 + p == g | .bank .. => false)

/-- The free cores of a hive, ascending. -/
def freeCores (s : State) (gone : List Nat) (hive : Nat) : List Nat :=
  ((List.range 8).map (hive * 8 + ·)).filter fun g => coreUsable s g && !coreTaken s gone g

/-- The tier-0 blocks that lie in a hive: their bases and sizes. -/
def blocksIn (s : State) (hive : Nat) : List (Nat × Nat) :=
  s.launches.filterMap fun (_, x) =>
    if x.holdsBlock && x.cores.any fun g => hiveOfCore g == hive then some (x.base0, x.image.tier0) else none

/-- A run of scratchpad is free in a hive (R335). -/
def freeRun (s : State) (hive base n : Nat) : Bool :=
  base + n ≤ 0x1000000 && (blocksIn s hive).all fun (b, m) => !(base < b + m && b < base + n)

/-- The bases at which the lowest free run may start: 0 and the ends of the blocks. -/
def basesOf (s : State) : List Nat :=
  (0 :: s.launches.filterMap fun (_, x) => if x.holdsBlock then some (x.base0 + x.image.tier0) else none).eraseDups

/-- The lowest `n` fitting hives of a die for a launch at a base. -/
def hivesAt (s : State) (gone : List Nat) (x : Launch) (base die n : Nat) : Option (List Nat) :=
  let hs := ((List.range 12).map (12 * die + ·)).filter fun hv =>
    holdsHive s x.func hv && x.image.c ≤ (freeCores s gone hv).length && freeRun s hv base x.image.tier0
  if n ≤ hs.length then some (hs.take n) else none

/-- The hives of a placement at a base: the virtual dies of a split launch lie on dies A and B (R34, R335). -/
def hivesFor (s : State) (gone : List Nat) (x : Launch) (base : Nat) : Option (List Nat) :=
  if x.image.split = 0 then (hivesAt s gone x base 0 x.image.h).or (hivesAt s gone x base 1 x.image.h)
  else
    match hivesAt s gone x base 0 x.image.split, hivesAt s gone x base 1 (x.image.h - x.image.split) with
    | some a, some b => some (a ++ b)
    | _, _ => none

/-- The order of lists of numbers by their first difference. -/
def lexLt : List Nat → List Nat → Bool
  | [], [] => false
  | [], _ => true
  | _, [] => false
  | a :: as, b :: bs => a < b || (a == b && lexLt as bs)

/-- The placement of a launch: its cores in rank order and its base, with the lowest-numbered hives, then the lowest base;
one that is saved out resumes on its own cores, whatever spare waits for it to leave them (R335, R343, R400). -/
def placeFor (s : State) (gone : List Nat) (x : Launch) : Option (List Nat × Nat) :=
  if x.state = .saved then
    if x.cores.all fun g => !coreTaken s gone g then some (x.cores, x.base0) else none
  else
    let best := (basesOf s).foldl (fun (acc : Option (List Nat × Nat)) b =>
      match hivesFor s gone x b, acc with
      | some hs, some (hs', b') => if lexLt (hs ++ [b]) (hs' ++ [b']) then some (hs, b) else acc
      | some hs, none => some (hs, b)
      | none, _ => acc) none
    best.map fun (hs, b) => (hs.flatMap fun hv => (freeCores s gone hv).take x.image.c, b)

/-- The claim groups and words of a launch; a `hive` group is replicated for each virtual hive (R232). -/
def claimNeeds (x : Launch) : Nat × Nat :=
  x.groups.foldl (fun (a, b) g => let k := if g.kind = 2 then x.image.h else 1; (a + k, b + k * g.words)) (0, 0)

/-- The claim groups and words that launches hold, those of one function or of all. -/
def claimsHeld (s : State) (f : Option Nat) : Nat × Nat :=
  s.launches.foldl (fun (a, b) (_, x) =>
    if x.holdsBlock && (f.isNone || f == some x.func) then (a + (claimNeeds x).1, b + (claimNeeds x).2) else (a, b)) (0, 0)

/-- The claim groups and words of a launch fit (R232, R334, R367). -/
def claimsFit (s : State) (x : Launch) : Bool :=
  if x.state = .saved then true
  else
    let w := (s.func x.func).word 3
    let (g, k) := claimNeeds x
    let (fg, fk) := claimsHeld s (some x.func)
    let (ag, ak) := claimsHeld s none
    fg + g ≤ (bits w 0 9).toNat && fk + k ≤ (bits w 9 15).toNat && ag + g ≤ 256 && ak + k ≤ 16384

/-! ## The governor (R337 to R341, R405) -/

/-- The allowance of a slot not yet reserved. -/
def allowanceLeft (s : State) (j : Nat) : Nat := s.riseNow - Table.get 0 s.reserved j

/-- Reserve allowance from slot `j` on; the answer is the last slot in which some was reserved. The number bounds the
slots looked at. -/
def reserveFrom (s : State) : Nat → Nat → Nat → Nat → State × Nat
  | 0, _, _, last => (s, last)
  | _, 0, _, last => (s, last)
  | fuel + 1, need + 1, j, last =>
    let x := Nat.min (need + 1) (allowanceLeft s j)
    if x = 0 then reserveFrom s fuel (need + 1) (j + 1) last
    else reserveFrom { s with reserved := s.reserved.put j (Table.get 0 s.reserved j + x) } fuel (need + 1 - x) (j + 1) j

/-- The drone power of launches ramping down on some cores, and the ramps with those cores taken (R338). -/
def takeCredit (cores : List Nat) : List (Nat × Nat × List Nat) → Nat × List (Nat × Nat × List Nat)
  | [] => (0, [])
  | (l, w, cs) :: rest =>
    let (n, more) := takeCredit cores rest
    let mine := (cs.filter fun g => cores.contains g).length
    let share := if cs.isEmpty then 0 else w * mine / cs.length
    let left := cs.filter fun g => !cores.contains g
    if left.isEmpty then (n + share, more) else (n + share, (l, w - share, left) :: more)

/-- The steps of running and admitted launches (R405). -/
def powerHeld (s : State) : Nat := s.launches.foldl (fun n (_, x) => if x.holdsCores then n + x.step else n) 0

/-- The cap lets a step be reserved; at 95 °C the cap is the power already reserved (R405). -/
def capAllows (s : State) (step : Nat) : Bool := if !s.hot.isEmpty then step == 0 else powerHeld s + step ≤ s.capNow

/-- The first reference cycle at or after the start of a slot at a calendar position (R275, R338). -/
def startTime (j pos : Nat) : Nat := 3000 * j + (pos + 64 - 3000 * j % 64) % 64

/-- A launch is admitted, or resumes: its cores are its own, its power rises from slot `t` to slot `j`, and its start is due
(R324, R338, R343). -/
def admitLaunch (s : State) (l : Nat) (x : Launch) (cores : List Nat) (base t j : Nat) : State :=
  let pre := cores.length * 3000 * (j - t)
  if x.state = .saved then
    let at_ := startTime j x.stopPos
    (s.setLaunch l { x with own := aged s.now x, restart := some at_, drn := x.drn + pre }).due at_ 4500 (.placementRestart l)
  else
    let s1 := s.setLaunch l { x with own := aged s.now x, state := .admitted, admittedAt := s.now, cores := cores, base0 := base, drn := pre }
    let s2 := s1.updQueue x.queue fun q =>
      { q with blocked := if q.blocked = .launch l then (if x.chain then .chain x.lsn else .none) else q.blocked }
    s2.due (startTime j 0) 4500 (.launchStart l)

/-- A pinned launch's need exceeds what slot `t` has left: its record, and its end with STATUS 5 (R341, R344). -/
def rampViolation (s : State) (l : Nat) (x : Launch) (t : Nat) : State :=
  let s1 := launchRecord s l x 0x0F 0 (BitVec.ofNat 64 x.step) (BitVec.ofNat 64 (allowanceLeft s t))
  endUnrun s1 l ((s1.launch? l).getD x) 5

/-- What the governor makes of a candidate that fits: it is admitted, it waits for the cap, or it is a ramp violation. The
answer tells whether it was admitted. -/
def govern (s : State) (l : Nat) (x : Launch) (cores : List Nat) (base : Nat) : State × Bool :=
  let t := s.now / 3000
  let (credit, ramps) := takeCredit cores s.ramps
  let need := x.step - credit
  if x.pin && (allowanceLeft s t < need || !capAllows s x.step) then (rampViolation s l x t, false)
  else if !capAllows s x.step then (s, false)
  else
    let (s1, j) := reserveFrom { s with ramps := ramps } (need + s.reserved.length + 1) need t t
    let rise := s1.reserved.filterMap fun (k, n) => let w := n - Table.get 0 s.reserved k; if w = 0 then none else some (k, w)
    (admitLaunch s1 l { x with rise := rise } cores base t j, true)

/-! ## The pass (R334) -/

/-- What a pass has done so far: launches admitted, functions of which no later candidate is admitted, functions whose first
candidate has come, and first candidates whose placement does not fit. -/
structure Pass where
  s : State
  count : Nat
  closed : List Nat
  seen : List Nat
  unfit : List Nat
deriving DecidableEq, Repr

/-- The order of candidates (R334): pinned launches by slot, then by e, first decision and slot. -/
def candidateKey (x : Launch) : List Nat :=
  if x.pin then [0, x.slot] else [1, 7 - x.eff, x.decided.getD 0, x.slot]

/-- A launch is a candidate: it has passed its check, it waits and its dependences are satisfied (R334). -/
def isCandidate (s : State) (x : Launch) : Bool :=
  x.waits && x.image.h != 0 && x.deps.isEmpty && !x.depFailed && (s.func x.func).en && !(s.func x.func).resetting

/-- Insert a candidate in its place. -/
def insertCandidate (l : Nat) (x : Launch) : List (Nat × Launch) → List (Nat × Launch)
  | [] => [(l, x)]
  | (k, y) :: rest =>
    if lexLt (candidateKey x) (candidateKey y) then (l, x) :: (k, y) :: rest else (k, y) :: insertCandidate l x rest

/-- The candidates of a pass, in order. -/
def candidates (s : State) : List (Nat × Launch) :=
  s.launches.foldl (fun acc (l, x) => if isCandidate s x then insertCandidate l x acc else acc) []

/-- One candidate of a pass: admitted, or not; a function's first candidate whose placement does not fit is one for pre-emption even when
the pass has admitted its 24 (R334, R343). -/
def passOne (p : Pass) (c : Nat × Launch) : Pass :=
  let (l, x) := c
  let first := !p.seen.contains x.func
  let p1 := { p with seen := x.func :: p.seen }
  if p.closed.contains x.func then p1
  else
    match placeFor p.s [] x with
    | none => { p1 with closed := x.func :: p.closed, unfit := if first then p.unfit ++ [l] else p.unfit }
    | some (cores, base) =>
      if 24 ≤ p.count then p1
      else if !claimsFit p.s x then { p1 with closed := x.func :: p.closed }
      else
        let (s1, ok) := govern p.s l x cores base
        { p1 with s := s1, count := if ok then p.count + 1 else p.count }

/-! ## Pre-emption (R342, R343) -/

/-- The save of a launch begins: its placement stops, and its cores are held by the pre-emption (R346, R48). A core that is
rolling back finishes first (R359). -/
def beginSave (s : State) (l : Nat) : State :=
  if rollingBack s l then s.updLaunch l fun x => { x with preempting := true }
  else
    let s1 := (stopLaunch s l).undue (· == .placementRestart l)
    let s2 := s1.updLaunch l fun x => { x with state := .saving, preempting := true, restart := none, savedAt := 0, since := s.now }
    let cores := match s2.launch? l with | some x => x.cores | none => []
    let s3 := cores.foldl (fun st g => st.updCore g fun c =>
      if c.halted || c.hold = 1 then c else { bumpCause c 1 with hold := 1 }) s2
    s3.due s3.now 4000 (.saveComplete l)

/-- Whether a victim is taken before another: lowest e, then latest start, then highest slot (R343). -/
def victimBefore (x y : Launch) : Bool :=
  x.eff < y.eff || (x.eff == y.eff && (y.start < x.start || (x.start == y.start && y.slot < x.slot)))

/-- Insert a victim in its place. -/
def insertVictim (l : Nat) (x : Launch) : List (Nat × Launch) → List (Nat × Launch)
  | [] => [(l, x)]
  | (k, y) :: rest => if victimBefore x y then (l, x) :: (k, y) :: rest else (k, y) :: insertVictim l x rest

/-- The launches that may be pre-empted for a launch (R343). -/
def victimsFor (s : State) (x : Launch) : List (Nat × Launch) :=
  s.launches.foldl (fun acc (l, y) =>
    if y.func == x.func && !y.pin && !y.preempting && (y.state == .running || y.state == .stopped) &&
        (x.pin || (y.lastStart + 300000 ≤ s.now && y.eff < x.eff)) then insertVictim l y acc else acc) []

/-- The fewest victims in order whose cores make a placement fit; none when all together do not. -/
def enoughVictims (s : State) (x : Launch) (gone : List Nat) : List Nat → Option (List Nat)
  | [] => none
  | v :: rest =>
    if (placeFor s (v :: gone) x).isSome then some [v]
    else (enoughVictims s x (v :: gone) rest).map (v :: ·)

/-- Pre-emption for a function's first candidate that does not fit, unless launches that are being saved already make room
(R343). -/
def preemptFor (s : State) (l : Nat) : State :=
  match s.launch? l with
  | none => s
  | some x =>
    let saving := s.launches.filterMap fun (k, y) => if y.preempting && y.holdsCores then some k else none
    if (placeFor s saving x).isSome then s
    else
      match enoughVictims s x saving ((victimsFor s x).map (·.1)) with
      | none => s
      | some vs => vs.foldl beginSave s

/-- ADMISSION_PASS (R321, R334, R343). -/
def execAdmissionPass (s : State) : Res :=
  let s1 := setPriorities (decideAll (s.due (s.now + 3000) 2 .admissionPass))
  let p := (candidates s1).foldl passOne { s := s1, count := 0, closed := [], seen := [], unfit := [] }
  .next (p.unfit.foldl preemptFor p.s)

/-! ## Ramp slots (R337, R340, R405) -/

/-- Power falls: launches that ramp down take the fall allowance in the order of their retirement (R340). -/
def fallRamps : Nat → List (Nat × Nat × List Nat) → List (Nat × Nat × List Nat)
  | _, [] => []
  | n, (l, w, cs) :: rest =>
    let x := Nat.min n w
    if w ≤ x then fallRamps (n - x) rest else (l, w - x, cs) :: fallRamps (n - x) rest

/-- RAMP_SLOT_BOUNDARY (R337, R340, R405): the governor's registers take effect, power falls, and the reservations of past
slots are done. -/
def execRampSlotBoundary (s : State) : Res :=
  let j := s.now / 3000
  let s1 := { s with riseNow := s.govRise, fallNow := s.govFall, capNow := s.govCap, ramps := fallRamps s.govFall s.ramps
                     reserved := s.reserved.filter fun (k, _) => j ≤ k }
  .next (s1.due (s.now + 3000) 1 .rampSlotBoundary)

/-! ## Launch start (R38) -/

/-- The cores of a launch are loaded, and take their first checkpoint (R38, R354). -/
def loadCores (s : State) (l : Nat) (x : Launch) (im : LoadedImage) : State :=
  ((List.range x.cores.length).zip x.cores).foldl (fun st (r, g) =>
    let c := loadCore s l x im r g
    { st.setCore g c with checkpoints := st.checkpoints.put g [c] }) s

/-- LAUNCH_START (R3, R26, R38): every core is loaded, the tier-0 block is written in every hive, and the cores run from this
reference cycle, with what lies in the host counted against the budgets from now on (R370). A split launch without its die link fails
(R360), and one of a function in reset never starts (R381). -/
def execLaunchStart (l : Nat) (s : State) : Res :=
  match s.launch? l with
  | none => .next s
  | some x =>
    if x.state != .admitted || (s.func x.func).resetting then .next s
    else
      let im := loadImage s x.func x.image
      let hives := (x.cores.map hiveOfCore).eraseDups
      let s0 := chargeHost s x.func (startHost s x.func x.image hives.length)
      let s1 := hives.foldl (fun st hv => fillBlock st x hv im.regions) s0
      let s2 := loadCores s1 l x im
      let s3 := s2.setLaunch l { x with state := .running, start := s.now, rho := s.now, lastStart := s.now }
      .next (if x.image.split ≠ 0 && !s.dieLink then s3.due s.now 4600 .dieLinkLost else s3)

/-! ## The save (R342, R350) -/

/-- A step of the agenda that belongs to a placement and waits with it: its phases, its arrivals, its circuits and the errors that are to be
handled (R218, R229, R358). -/
def savedStep (s : State) (l : Nat) (cores : List Nat) (i : Instr) : Bool :=
  match i with
  | .phaseLineRaise g _ => cores.contains g
  | .phaseCompletion g _ => cores.contains g
  | .arrivalDeparture n => match s.arrives.find n with | some m => m.launch == l | none => false
  | .arrivalDelivery n => match s.arrives.find n with | some m => m.launch == l | none => false
  | .circuitDeparture n => match s.messages.find n with | some m => m.launch == l | none => false
  | .circuitArrival n => match s.messages.find n with | some m => m.launch == l | none => false
  | .dataErrorDetected g => cores.contains g
  | _ => false

/-- An engine of a core has a step to take: it begins, moves or completes a command. -/
def engineSteps (s : State) (g : Nat) : Bool :=
  s.agenda.any fun (_, _, i) =>
    match i with
    | .copyCommandStart k _ => k == g
    | .copyElement k _ => k == g
    | .copyCommandComplete k _ => k == g
    | _ => false

/-- Every access has performed and its reply has come; the engines stand between two elements. What cannot perform while the placement is
stopped does not count and waits with the save: held writes, and what has to wait for them or for a command that is not complete (R350,
R356; DEDUCED, log entry 139). -/
def mayEndSave (s : State) (x : Launch) : Bool :=
  !translates s x.cores && x.cores.all fun g =>
    (s.core g).elFault.isEmpty && !engineSteps s g && (allOpen s g).all (fun (n, _) => (keptBack s g).contains n)

/-- The save is written to the function's save area, in a form and of a length that no rule gives (R342, R350, R367; DESIGN CHOICE, log
entry 68). -/
def writeSave (s : State) (l : Nat) (x : Launch) : State :=
  let at_ := (bits ((s.func x.func).word 4) 0 48).toNat
  let data := Config.saveImage s.now l
  (cutLines (data.length / 64 + 2) 0 at_ data.length).foldl (fun st sp => storeNow st x.func sp.pa ((data.drop sp.off).take sp.len)) s

/-- A placement is saved out: its cores, their checkpoints and its steps go to the save, and its cores are free (R342, R350). -/
def saveOut (s : State) (l : Nat) (x : Launch) : State :=
  let cs := x.cores.map fun g => settleHeld s.now 1 (s.core g)
  let points := x.cores.map fun g => Table.get [] s.checkpoints g
  let mine := fun (i : Instr) => savedStep s l x.cores i
  let steps := (s.agenda.filter fun (_, _, i) => mine i).map fun (t, k, i) => (t - s.now, k, i)
  let s1 := x.cores.foldl (fun st g => { st.setCore g (emptyCore (st.core g)) with checkpoints := st.checkpoints.del g }) s
  let s2 := s1.undue fun i => mine i || ofCores x.cores i
  let s3 := s2.setLaunch l { x with state := .saved, preempting := false, savedAt := s.now, savedCores := cs, savedPoints := points
                                    savedSteps := steps }
  let s4 := reachSaved s3 l x
  { writeSave s4 l x with ramps := s4.ramps ++ [(l, x.step, x.cores)] }

/-- SAVE_COMPLETE (R342, R350): once every access of the cores has performed and its reply has arrived, the placement is saved. -/
def execSaveComplete (l : Nat) (s : State) : Res :=
  match s.launch? l with
  | none => .next s
  | some x =>
    if x.state != .saving then .next s
    else if x.savedAt = 0 then
      if mayEndSave s x then
        let t := s.now + 1 + Config.saveTime (2 ^ 90 + s.now * 256 + x.cores.headD 0)
        .next ((s.setLaunch l { x with savedAt := t }).due t 4000 (.saveComplete l))
      else .next (s.dueOnce (s.now + 1) 4000 (.saveComplete l))
    else if s.now < x.savedAt then .next s
    else if mayEndSave s x then .next (saveOut s l x)
    else .next ((s.setLaunch l { x with savedAt := 0 }).dueOnce (s.now + 1) 4000 (.saveComplete l))

end Sys2Proof.Machine
end

