-- ==== Sys2Proof/Machine/Stop.lean ====
section
/-!
DEFINITION. The answers of the host to a stop and the restart of a placement (R349 to R352), and checkpoint rollback (R353 to
R359).
-/
namespace Sys2Proof.Machine

/-! ## Resume commands (R351, R373) -/

/-- The modes that R344 lists for a record: 0 RETRY, 1 RETRANSLATE, 2 SKIP, 3 CLEARPRT, 4 TERMINATE. -/
def allowedModes (r : StopRec) : List Nat :=
  let byCode :=
    if r.kind = 2 then [0, 4]
    else if r.kind = 3 then [0]
    else
      match r.code with
      | 0x01 | 0x02 | 0x04 | 0x0B | 0x11 => [2, 4]
      | 0x03 | 0x07 | 0x08 => [0, 2, 4]
      | 0x05 => [0, 1, 4]
      | 0x06 => [0]
      | 0x09 | 0x0A | 0x0C => [0, 4]
      | 0x0D => [3, 4]
      | _ => []
  byCode.filter fun m => m != 2 || r.origin == 0 || r.code == 3

/-- The oldest record of a launch that no accepted command has answered, and its place (R351). -/
def oldestRecord (x : Launch) : Option (Nat × StopRec) :=
  ((List.range x.stops.length).zip x.stops).find? fun (_, r) => r.answer.isNone && !r.pending

/-- The stopped launch that RESQ names, with its oldest record (R373). -/
def stoppedLaunch (s : State) (f : Nat) : Option (Nat × Launch × Nat × StopRec) :=
  let w := (s.func f).resq
  s.launches.findSome? fun (l, x) =>
    if x.func == f && BitVec.ofNat 16 x.queue == bits w 48 16 && BitVec.ofNat 48 x.lsn == bits w 0 48 then
      (oldestRecord x).map fun (i, r) => (l, x, i, r)
    else none

/-- RESMODE reads how the last command was taken: 0 accepted, 1 refused, 2 no such stop (R373). -/
def resumeStatus (s : State) (f k : Nat) : State := s.updFunc f fun x => { x with resMode := BitVec.ofNat 64 (k * 2 ^ 62) }

/-- A resume command (R351): it answers the oldest record of the LSN, or is refused. TERMINATE ends the launch at once; the
placement restarts when every record of its stop is answered. During a reset of the function it is dropped (R381). -/
def resume (s : State) (mode : Nat) : State :=
  let f := s.hostFn
  if (s.func f).resetting then s else
  match stoppedLaunch s f with
  | none => resumeStatus s f 2
  | some (l, x, i, r) =>
    if !(allowedModes r).contains mode then resumeStatus s f 1
    else if mode = 4 then finishLaunch (resumeStatus s f 0) l 1
    else tryRestart ((resumeStatus s f 0).setLaunch l { x with stops := x.stops.set i { r with answer := some mode } }) l

/-- RETRY (R351). -/
def execResumeRetry (s : State) : Res := .next (resume s 0)
/-- RETRANSLATE (R351). -/
def execResumeRetranslate (s : State) : Res := .next (resume s 1)
/-- SKIP (R351). -/
def execResumeSkip (s : State) : Res := .next (resume s 2)
/-- CLEARPRT (R351). -/
def execResumeClearPrt (s : State) : Res := .next (resume s 3)
/-- TERMINATE (R351). -/
def execResumeTerminate (s : State) : Res := .next (resume s 4)

/-! ## What a mode does at the restart (R351) -/

/-- A request whose arrival faulted is performed again from its source (R351). -/
def redoRequest (s : State) (g id : Nat) : State :=
  let clear := fun (r : Request) => if r.id = id then { r with data := none, poison := [], pline := 0, cause := 0, paddr := 0 } else r
  let s1 := s.updCore g fun c => { c with reqs := c.reqs.map clear }
  match s1.accesses.find id with
  | none => s1
  | some a =>
    let again := fun (p : Piece) => { p with due := 0, done := false, poisoned := false, bytes := if a.isWrite then p.bytes else [] }
    tryLeave { s1 with accesses := s1.accesses.put id { a with pieces := a.pieces.map again, left := false, strict := false, sent := 0, reply := 0, done := false } } id

/-- The request whose arrival a record is about: it names its slot and its issue cycle (R345). -/
def faultyRequest (c : Core) (r : StopRec) : Option Nat :=
  (c.reqs.find? fun q => q.slot == r.slot && BitVec.ofNat 64 q.issue == r.words.getD 3 0 && (q.cause != 0 || !q.poison.isEmpty)).map (·.id)

/-- A matrix routine that faulted runs again from step 0 up to the present cycle with the core's clock gated; the cycles are
charged to cause 2. A step that fails again is met at the reference cycle at which it begins (R48, R177). -/
def rerunRoutine (s : State) (g : Nat) : State :=
  let c := s.core g
  match c.running with
  | none => s
  | some r =>
    let again := { r with regs := r.params, work := r.init, flags := r.initFlags, bindings := [], pos := 0, at_ := r.start
                          passes := 0, pass := 0, body := 0, len := 0, ended := false }
    let (r1, bad) := runSteps c (c.cycle - 1) (stepFuel again (c.cycle - 1)) again
    let n := (if bad.isSome then r1.at_ else c.cycle) - r.start
    let c1 := passCycles n { c with running := some r1 }
    let c2 := if n = 0 || c1.hold = 2 then c1 else { bumpCause c1 2 with hold := 2 }
    s.setCore g { c2 with heldcyc := c2.heldcyc + n, turn := s.now + n }

/-- The records of a command that name a handle. -/
def recordsOn (m : Command) (h : Nat) : List CopyRec :=
  ([m.src, m.dst, m.srcNext, m.dstNext].filterMap id).filter fun r => r.buf.hnum == h

/-- The handle that the command which an element has stopped keeps of its issue (R363). -/
def keptHandle (c : Core) (h e : Nat) : Option Handle :=
  match c.cmdsOf e with
  | m :: _ => if m.started && m.paused then ((recordsOn m h).map (·.handle)).head? else none
  | [] => none

/-- The command at the head of an engine's queue that an element stopped takes a handle; no other does (R351, R363). -/
def renewRecords (s : State) (g h e : Nat) (new : Handle) : State :=
  let put := fun (r : CopyRec) => if r.buf.hnum = h then { r with handle := new } else r
  let renew := fun (m : Command) =>
    { m with src := m.src.map put, dst := m.dst.map put, srcNext := m.srcNext.map put, dstNext := m.dstNext.map put }
  s.updCore g fun c =>
    match c.cmdsOf e with
    | m :: rest => if m.started && m.paused then c.setCmds e (renew m :: rest) else c
    | [] => c

/-- A command that an element stopped keeps a handle that is no longer the core's, for a later XLATE has given the core's another address:
the translation of the kept address is redone for its records alone (R351, R363). -/
def retranslateKept (s : State) (x : Launch) (g h e : Nat) (kept : Handle) : State :=
  let c := s.core g
  let xl : Xlate := { va := kept.va, write := kept.write, issue := c.cycle, baddr := c.pc, rep := c.rep, caused := true }
  match kept.region with
  | some i =>
    match (loadImage s x.func x.image).regions[i]? with
    | some r => renewRecords s g h e (regionHandle s x.func x.image.img x.base0 g i r)
    | none => s
  | none =>
    match if 2 ^ 48 ≤ xl.va.toNat then Walk.malformed else walk s x.func xl.va.toNat with
    | .page y =>
      let s1 := touch s (hiveOfCore g) y
      if y.allows xl.write then renewRecords s1 g h e (handleOf xl y) else meetFault s1 g (xlateInfo xl 1) 16
    | .absent stage ipa => meetFault s g (freezeInfo xl stage ipa) 16
    | .malformed => meetFault s g (xlateInfo xl (if 2 ^ 48 ≤ xl.va.toNat then 2 else 1)) 16

/-- The shepherd redoes the translation of a handle, or installs a tier-0 region's again (R26, R351). A command that an element stopped
needs it at once: it is walked for before the restart, and the command's record takes it. -/
def retranslateOwn (s : State) (l : Nat) (x : Launch) (g h : Nat) (engine : Option Nat) : State :=
  let c := s.core g
  let renew := fun (st : State) => match engine with | some e => renewRecords st g h e ((st.core g).hGet h) | none => st
  let old := c.hGet h
  match old.region with
  | some i =>
    match (loadImage s x.func x.image).regions[i]? with
    | some r =>
      renew (updHandle s g h fun _ => regionHandle s x.func x.image.img x.base0 g i r)
    | none => s
  | none =>
    let xl : Xlate := { va := old.va, write := old.write, issue := c.cycle, baddr := c.pc, rep := c.rep, caused := true }
    let s1 := updHandle s g h fun o => { o with valid := false, cut := false, xl := some xl }
    if engine.isSome then walked s1 g l h xl fun st e => renew (giveHandle st g h xl e) else redoXlate s1 g h xl

/-- RETRANSLATE (R351): of the handle as the core has it, or as the stopped command keeps it where that is another (R363). -/
def retranslate (s : State) (l : Nat) (x : Launch) (g h : Nat) (engine : Option Nat) : State :=
  let now := (s.core g).hGet h
  match engine.bind fun e => (keptHandle (s.core g) h e).map fun k => (e, k) with
  | some (e, k) =>
    if k.va = now.va && k.write = now.write && k.region = now.region then retranslateOwn s l x g h engine
    else retranslateKept s x g h e k
  | none => retranslateOwn s l x g h engine

/-- What an answered record does at the restart (R351). -/
def applyAnswer (l : Nat) (x : Launch) (s : State) (r : StopRec) : State :=
  match r.answer with
  | some 1 => if r.handle < 16 then retranslate s l x r.g r.handle (if r.origin = 2 then some (r.slot - 5) else none) else s
  | some 2 => s.updCore r.g fun c => { c with skip := true }
  | some 3 =>
    let clear := fun (c : Core) => { c with prt := false }
    x.cores.foldl (fun st g => updPoint (st.updCore g clear) g clear) s
  | _ =>
    if r.kind != 1 then s
    else if r.code = 0x0C then s.updCore r.g fun c => { c with frozen := 0, frozenBy := 0 }
    else if r.origin = 1 then
      match faultyRequest (s.core r.g) r with
      | some id => redoRequest s r.g id
      | none => s
    else if r.origin = 3 then rerunRoutine s r.g
    else s

/-- The XLATEs of a core that caused the stop are redone (R128, R291, R352). -/
def redoXlates (s : State) (g : Nat) : State :=
  (List.range 16).foldl (fun st h =>
    match ((st.core g).hGet h).xl with
    | some x => if x.caused then redoXlate st g h x else st
    | none => st) s

/-- Every core of a placement restarts at the present reference cycle (R349, R351): the cycles of the stop are charged, the
modes take effect together, the paused engines go on. -/
def restart (s : State) (l : Nat) (x : Launch) (cause : Nat) : State :=
  let s1 := restartCores s cause x.cores
  let s2 := s1.setLaunch l { x with state := .running, stops := [], restart := none }
  let s3 := x.cores.foldl redoXlates s2
  let s4 := x.stops.foldl (applyAnswer l x) s3
  x.cores.foldl (fun st g => wake (goOnEngines st g) g) s4

/-- The cause to which the cycles of a stop are charged: 2 for a fault or a trap, 3 for a freeze (R48). -/
def stopCause (x : Launch) : Nat := if x.stops.any fun r => r.kind != 3 then 2 else 3

/-- The lines of an overlay copy that were not delivered are delivered after the resume (R141). -/
def resumeOverlay (s : State) (g : Nat) : State :=
  match (s.core g).overlay with
  | none => s
  | some o => ((o.late ++ [o.next]).filter (· < o.lines)).foldl (fun st j => st.due (s.now + 640 + 2 * j) 0 (.segmentLineDelivered g o.frame j)) s

/-- The atomic identifiers of a checkpoint that comes back with its core (R224, R356): where the region had sent none before the save it goes
on from the core's own; where it had, and no other launch has sent any since, they stand, and a rerun takes the stored replies; otherwise
the replies are no longer held (R358). -/
def pointIds (point saved core : Table Nat) : Table Nat :=
  core.map fun (t, n) =>
    let p := Table.get 0 point t
    let c := Table.get 0 saved t
    (t, if p = c then n else if c = n then p else (n + 65536 - 65) % 65536)

/-- A core that has raised a stop which is not yet answered is charged to its cause again, after its placement was saved out (R48). -/
def chargeAgain (x : Launch) (g : Nat) (c : Core) : Core :=
  let k := stopCause x
  let mine := fun (r : StopRec) => r.g == g && decide (k = if r.kind = 3 then 3 else 2)
  if c.halted || x.stops.all (fun r => r.answer.isSome) then c
  else if x.stops.any mine then { bumpCause c k with hold := k }
  else { c with hold := k }

/-- A placement that was saved out is brought back to its cores: time outside counts neither in its cores nor in its circuits'
revolution, and its steps go on at their offsets (R141, R218, R343, R350). A core's counters of atomic identifiers are those of the
atomics that the core has sent, its other launches' among them (R224; DEDUCED, log entry 114), and so are those of its checkpoint. Where
its stop is not answered, its cores are charged to that again (R48). -/
def bringBack (s : State) (l : Nat) (x : Launch) : State :=
  let away := s.now - x.savedAt
  let put := fun (st : State) (k : Nat × Core × List Core) =>
    let (g, c, ps) := k
    let ids := (st.core g).atomIds
    let c1 := { c with turn := s.now, atomIds := ids, haltRef := if c.halted then c.haltRef + away else c.haltRef }
    resumeOverlay { st.setCore g (chargeAgain x g c1) with
      checkpoints := st.checkpoints.put g (ps.map fun p => { p with atomIds := pointIds p.atomIds c.atomIds ids }) } g
  let s1 := (x.cores.zip (x.savedCores.zip x.savedPoints)).foldl put s
  let s2 := x.savedSteps.foldl (fun st (o, k, i) => st.due (s.now + o) k i) s1
  s2.setLaunch l { x with state := .stopped, savedCores := [], savedPoints := [], savedSteps := [], rho := x.rho + away
                          restart := none, lastStart := s.now }

/-- PLACEMENT_RESTART (R38, R275, R343, R349, R351): the placement restarts at its calendar position; one that is saved out is
brought back first, and stays stopped while a record of its stop is unanswered. -/
def execPlacementRestart (l : Nat) (s : State) : Res :=
  match s.launch? l with
  | none => .next s
  | some x =>
    if x.restart.isNone then .next s
    else if x.state = .saved then
      let s1 := bringBack s l x
      match s1.launch? l with
      | none => .next s1
      | some y =>
        if y.walking = 0 && y.stops.all fun r => r.answer.isSome then .next (restart s1 l y 1) else .next s1
    else if x.state = .stopped then .next (restart s l x (stopCause x))
    else .next s

/-! ## Checkpoint rollback (R353 to R359) -/

/-- A step of the agenda that belongs to what a region has begun and a rollback discards: elements and ends of discarded
commands, and translations of XLATEs of the region (R358). -/
def discardedStep (c p : Core) (g : Nat) (i : Instr) : Bool :=
  let cmd := fun (k e : Nat) => k == g && (match c.cmdsOf e with | m :: _ => m.region == c.region.num | [] => false)
  let xl := fun (k h : Nat) => k == g && (match (c.hGet h).xl with | some x => decide (p.cycle ≤ x.issue) | none => false)
  match i with
  | .copyCommandStart k e => cmd k e
  | .copyElement k e => cmd k e
  | .copyCommandComplete k e => cmd k e
  | .handleValid k h => xl k h
  | .translationCacheMiss k h => xl k h
  | .translationWalkEnd k h => xl k h
  | _ => false

/-- The own-hive lines that a region has written take back their old contents (R355, R358). -/
def undoLines (s : State) : List (Nat × Line × Bool) → State
  | [] => s
  | (l, old, p) :: rest => undoLines (setPoison (writeBytes s (l * 64) (leBytes 64 old.toNat)) (l * 64) p) rest

/-- The wait flags after a restore: those of the checkpoint, and those set since. -/
def restoredFlags (c p : Core) : BitVec 32 :=
  c.setAt.foldl (fun w (k, t) => if p.turn < t then putBit w k true else w) p.w

/-- The core after a restore (R354 to R356, R358, R359): its checkpoint copy, with the counters of events, the reference
counters, the segment state, the phases and the boardings as they stand, and the faults that it has met of what it issued before. -/
def restoredCore (now : Nat) (c p : Core) (r : Rerun) : Core :=
  let n := 16 + c.region.units.length
  let ref := c.refcyc + n
  let old := fun (e : Nat) => (c.cmdsOf e).filter fun m => m.region != c.region.num
  let early := fun (fs : List (FaultInfo × Nat)) => fs.filter fun f => f.1.issue < p.cycle
  { p with
    w := restoredFlags c p, setAt := c.setAt, refcyc := ref, heldcyc := ref - p.cycle
    drones := if p.running.isSome then c.drones else c.drones + n
    lates := c.lates, segstall := c.segstall, waitholds := c.waitholds, xlholds := c.xlholds, lbholds := c.lbholds
    cqholds := c.cqholds, bankholds := c.bankholds, pgfreezes := c.pgfreezes, rollbacks := c.rollbacks, faults := c.faults
    preempts := c.preempts, code := c.code, frameSeg := c.frameSeg, frameAge := c.frameAge
    cursor := c.cursor, overlay := c.overlay, phases := c.phases, boardings := c.boardings, seq := c.seq
    elFault := early c.elFault, later := early c.later
    cmds := [(0, old 0), (1, old 1)], turn := Nat.max now c.turn + n, hold := 4, frozen := 0, frozenBy := 0, rerun := some r
    region := { Region.reset with num := c.region.num, once := c.region.once } }

/-- The translations that a checkpoint has in hand and for which no step is due are begun again. -/
def renewXlates (s : State) (g : Nat) : State :=
  (List.range 16).foldl (fun st h =>
    match ((st.core g).hGet h).xl with
    | some x => if translates st [g] then st else redoXlate st g h x
    | none => st) s

/-- The restore before a rerun (R358): the log is undone, what the region has issued is discarded, and the core takes its
checkpoint copy, in 16 cycles and one for each entry. -/
def restoreRegion (s : State) (g : Nat) (r : Rerun) : State :=
  match s.checkpoints.find g with
  | some (p :: _) =>
    let c := s.core g
    let s1 := undoLines s c.region.lines
    let mine := fun (a : Access) => a.g == g && a.role != .stream && a.launch == c.launch && a.region == c.region.num
    let back := fun (m : Message) => if m.dstG = g && Table.get 0 p.recvs m.entry ≤ m.num then { m with taken := false } else m
    let keep := s1.messages.filter fun (_, m) => !(m.srcG == g && m.held)
    let s2 := { s1.undue (discardedStep c p g) with
      accesses := s1.accesses.filter fun (_, a) => !mine a
      messages := keep.map fun (n, m) => (n, back m) }
    renewXlates (s2.setCore g (restoredCore s.now c p r)) g
  | _ => s

/-- The record of a rollback: KIND 4 for a success, KIND 1 for a checkpoint mismatch (R344, R358). -/
def rollbackRecord (s : State) (g l kind code cause : Nat) (a0 a1 : Word) : State :=
  match s.launch? l with
  | none => s
  | some x =>
    let c := s.core g
    let info : FaultInfo :=
      { kind := kind, code := code, cause := cause, arg0 := a0, arg1 := a1, slot := 7, rep := 0, origin := 5, issue := c.cycle, baddr := c.pc }
    let ws := recordWords info c.rank g x.queue x.lsn c.cycle s.now
    let (s1, _) := writeRecord (s.keepRecord g ws) x.func ws
    if kind = 1 then s1.updLaunch l fun y => { y with fcode := y.fcode.orElse fun _ => some code } else s1

/-- CHECKPOINT_MISMATCH (R358): the launch ends with STATUS 1, and the core is retired. -/
def mismatch (s : State) (g l cause : Nat) (a0 a1 : Word) : State :=
  let s1 := finishLaunch (rollbackRecord s g l 1 0x0E cause a0 a1) l 1
  s1.due s.now 4050 (.spareThreshold (.core (g / 8) (g % 8)))

/-- The stored reply of an atomic of the region is no longer held: its source has sent more than 64 to one target since (R224). -/
def atomicLost (c p : Core) : Bool := c.atomIds.any fun (t, n) => 64 < (n + 65536 - Table.get 0 p.atomIds t) % 65536

/-- DATA_ERROR_DETECTED (R353, R358): the core rolls back to its checkpoint. During a stop of its placement the error waits for
the restart. -/
def execDataErrorDetected (g : Nat) (s : State) : Res :=
  let c := s.core g
  match c.launch with
  | none => .next s
  | some l =>
    match s.launch? l with
    | none => .next s
    | some x =>
      if c.halted || !s.up then .next s
      else if x.state != .running then .next (s.due (s.now + 1) 0 (.dataErrorDetected g))
      else if let some r := c.rerun then .next (mismatch s g l 4 (r.sig1.setWidth 64) 0)
      else if c.region.uncontained ≠ 0 then .next (mismatch s g l c.region.uncontained 0 0)
      else
        match s.checkpoints.find g with
        | some (p :: _) =>
          if atomicLost c p then .next (mismatch s g l 5 0 0)
          else .next (restoreRegion s g { run := 1, sig1 := 0, cyc1 := 0 })
        | _ => .next s

/-- Four successful rollbacks of a core within a second bring in its spare (R400). -/
def countRollback (s : State) (g : Nat) : State :=
  let ts := (s.now :: Table.get [] s.rollTimes g).take 4
  let s1 := { s with rollTimes := s.rollTimes.put g ts }
  if ts.length = 4 && s.now - ts.getD 3 0 ≤ 3000000000 then s1.due s.now 4050 (.spareThreshold (.core (g / 8) (g % 8))) else s1

/-- The stops and the pre-emption that were asked for during a rollback take effect at its end (R359). -/
def afterRollback (s : State) (l : Nat) : State :=
  match s.launch? l with
  | none => s
  | some x =>
    if rollingBack s l then s
    else
      let gs := x.cores.filter fun g => !(s.core g).later.isEmpty
      let met := fun (c : Core) => { c with elFault := c.elFault ++ c.later, later := [] }
      let s1 := gs.foldl (fun st g => st.updCore g met) (if gs.isEmpty then s else stopNow s l)
      if x.preempting then beginSave s1 l else s1

/-- ROLLBACK_RERUN_END (R358, R359): a rerun has come to the commit point that ends its region. After the second, the region
goes on with its state if both runs agree; otherwise the launch ends with a checkpoint mismatch. -/
def execRollbackRerunEnd (g : Nat) (s : State) : Res :=
  let c := s.core g
  match c.rerun, c.launch, s.checkpoints.find g with
  | some r, some l, some (p :: _) =>
    let used := c.cycle - p.cycle
    if r.run = 1 then .next (restoreRegion s g { run := 2, sig1 := c.sig, cyc1 := used })
    else if r.sig1 = c.sig && r.cyc1 = used then
      let s1 := s.setCore g { c with rerun := none, rollbacks := c.rollbacks + 1 }
      .next (afterRollback (countRollback (rollbackRecord s1 g l 4 0 0 0 0) g) l)
    else .next (mismatch s g l 1 (r.sig1.setWidth 64) (c.sig.setWidth 64))
  | _, _, _ => .next s

end Sys2Proof.Machine
end

