-- ==== Sys2Proof/Machine/Plans.lean ====
section
/-!
DEFINITION. What the issue of a bundle asks of each syllable: its plan, the range of its stepped fields (R97), the handles
it uses (R127), the landing entries it counts (R49), the banks it declares (R203), and whether it holds a release (R354).
-/
namespace Sys2Proof.Machine

/-- A plan that does nothing. -/
def idlePlan : Plan := { slot := 7, pred := [], enabled := false, reads := [], check := none, run := id, off := id }

/-- The plan of a syllable. -/
def planOf (i : Instr) (s : State) : Plan :=
  match i with
  | .sNop h x => planSNop h x s
  | .add h x => planAdd h x s
  | .sub h x => planSub h x s
  | .and h x => planAnd h x s
  | .or h x => planOr h x s
  | .xor h x => planXor h x s
  | .andn h x => planAndn h x s
  | .shl h x => planShl h x s
  | .shr h x => planShr h x s
  | .sra h x => planSra h x s
  | .min h x => planMin h x s
  | .max h x => planMax h x s
  | .minu h x => planMinu h x s
  | .maxu h x => planMaxu h x s
  | .addS h x => planAddS h x s
  | .subS h x => planSubS h x s
  | .mul h x => planMul h x s
  | .mulh h x => planMulh h x s
  | .mulhu h x => planMulhu h x s
  | .popc h x => planPopc h x s
  | .clz h x => planClz h x s
  | .ctz h x => planCtz h x s
  | .div h x => planDiv h x s
  | .divu h x => planDivu h x s
  | .rem h x => planRem h x s
  | .remu h x => planRemu h x s
  | .sel h x => planSel h x s
  | .addi h x => planAddi h x s
  | .andi h x => planAndi h x s
  | .ori h x => planOri h x s
  | .xori h x => planXori h x s
  | .shli h x => planShli h x s
  | .shri h x => planShri h x s
  | .srai h x => planSrai h x s
  | .muli h x => planMuli h x s
  | .liu h x => planLiu h x s
  | .cmp h x => planCmp h x s
  | .flagAnd h x => planFlagAnd h x s
  | .flagOr h x => planFlagOr h x s
  | .flagXor h x => planFlagXor h x s
  | .flagAndn h x => planFlagAndn h x s
  | .spld h x => planSpld h x s
  | .spst h x => planSpst h x s
  | .csrr h x => planCsrr h x s
  | .csrw h x => planCsrw h x s
  | .prep h x => planPrep h x s
  | .loop h x => planLoop h x s
  | .endLoop h x => planEndLoop h x s
  | .xlate h x => planXlate h x s
  | .hrel h x => planHrel h x s
  | .fence h x => planFence h x s
  | .wclr h x => planWclr h x s
  | .trap h x => planTrap h x s
  | .halt h x => planHalt h x s
  | .tail h x => planTail h x s
  | .nextTile h x => planNextTile h x s
  | .nextTileTake h x => planNextTileTake h x s
  | .phase h x => planPhase h x s
  | .arrive h x => planArrive h x s
  | .cwSet h x => planCwSet h x s
  | .claim h x => planClaim h x s
  | .object h x => planObject h x s
  | .claimRead h x => planClaimRead h x s
  | .subscribe h x => planSubscribe h x s
  | .lapse h x => planLapse h x s
  | .board h x => planBoard h x s
  | .alight h x => planAlight h x s
  | .cstat h x => planCstat h x s
  | .vNop h x => planVNop h x s
  | .vadd h x => planVadd h x s
  | .vsub h x => planVsub h x s
  | .vmin h x => planVmin h x s
  | .vmax h x => planVmax h x s
  | .vmul h x => planVmul h x s
  | .vabs h x => planVabs h x s
  | .vneg h x => planVneg h x s
  | .vand h x => planVand h x s
  | .vor h x => planVor h x s
  | .vxor h x => planVxor h x s
  | .vandn h x => planVandn h x s
  | .vshl h x => planVshl h x s
  | .vshr h x => planVshr h x s
  | .vsra h x => planVsra h x s
  | .vpopc h x => planVpopc h x s
  | .vclz h x => planVclz h x s
  | .vsel h x => planVsel h x s
  | .vfma h x => planVfma h x s
  | .vfms h x => planVfms h x s
  | .vfnma h x => planVfnma h x s
  | .vaddi h x => planVaddi h x s
  | .vandi h x => planVandi h x s
  | .vshli h x => planVshli h x s
  | .vshri h x => planVshri h x s
  | .vsrai h x => planVsrai h x s
  | .vli h x => planVli h x s
  | .vcmp h x => planVcmp h x s
  | .mand h x => planMand h x s
  | .mor h x => planMor h x s
  | .mxor h x => planMxor h x s
  | .mandn h x => planMandn h x s
  | .mnot h x => planMnot h x s
  | .mlead h x => planMlead h x s
  | .many h x => planMany h x s
  | .mall h x => planMall h x s
  | .mpop h x => planMpop h x s
  | .mfirst h x => planMfirst h x s
  | .vcvt h x => planVcvt h x s
  | .vquant h x => planVquant h x s
  | .vdeq h x => planVdeq h x s
  | .vlscv h x => planVlscv h x s
  | .vlsadd h x => planVlsadd h x s
  | .vlsout h x => planVlsout h x s
  | .vrsum h x => planVrsum h x s
  | .vrmax h x => planVrmax h x s
  | .vrmin h x => planVrmin h x s
  | .vperm h x => planVperm h x s
  | .vzip h x => planVzip h x s
  | .vunzip h x => planVunzip h x s
  | .vrot h x => planVrot h x s
  | .vbcast h x => planVbcast h x s
  | .vexp2 h x => planVexp2 h x s
  | .vlog2 h x => planVlog2 h x s
  | .vrcp h x => planVrcp h x s
  | .vrsq h x => planVrsq h x s
  | .vtanh h x => planVtanh h x s
  | .vcx h x => planVcx h x s
  | .vtwr h x => planVtwr h x s
  | .vtrd h x => planVtrd h x s
  | .mNop h x => planMNop h x s
  | .mcall h x => planMcall h x s
  | .mzero h x => planMzero h x s
  | .mdrain h x => planMdrain h x s
  | .kNop h x => planKNop h x s
  | .kldh h x => planKldh h x s
  | .ksth h x => planKsth h x s
  | .kmvv h x => planKmvv h x s
  | .kmvz h x => planKmvz h x s
  | .kmov h x => planKmov h x s
  | .kltl h x => planKltl h x s
  | .cNop h x => planCNop h x s
  | .ldVector h x => planLdVector h x s
  | .stVector h x => planStVector h x s
  | .ldTile h x => planLdTile h x s
  | .stTile h x => planStTile h x s
  | .ldScalar k h x => planLdScalar k h x s
  | .stScalar k h x => planStScalar k h x s
  | .cpy h x => planCpy h x s
  | .cpyc h x => planCpyc h x s
  | .cpyq h x => planCpyq h x s
  | .cpyx h x => planCpyx h x s
  | .cpyz h x => planCpyz h x s
  | .wbld h x => planWbld h x s
  | .gath h x => planGath h x s
  | .scat h x => planScat h x s
  | .mcast h x => planMcast h x s
  | .cfence h x => planCfence h x s
  | .cacq h x => planCacq h x s
  | .crel h x => planCrel h x s
  | .ctld h x => planCtld h x s
  | .send h x => planSend h x s
  | .recv h x => planRecv h x s
  | .aadd h x => planAadd h x s
  | .aand h x => planAand h x s
  | .aor h x => planAor h x s
  | .axor h x => planAxor h x s
  | .amin h x => planAmin h x s
  | .amax h x => planAmax h x s
  | .axchg h x => planAxchg h x s
  | .acas h x => planAcas h x s
  | _ => idlePlan

/-! ## Stepped fields (R97) -/

/-- A stepped field reaches `n` or beyond. -/
def outOf (h : Head) (n r : Nat) : Bool := n ≤ stepReg h r

/-- A stepped vector register leaves the file. -/
def vOut (h : Head) (rs : List (BitVec 10)) : Bool := rs.any fun r => outOf h 640 r.toNat

/-- A stepped pair of vector registers leaves the file (R165). -/
def pairOut (h : Head) (rs : List (BitVec 10)) : Bool := rs.any fun r => outOf h 639 r.toNat

/-- A stepped mask register leaves the file. -/
def mOut (h : Head) (rs : List (BitVec 4)) : Bool := rs.any fun r => outOf h 12 r.toNat

/-- A stepped register field of a re-issue is out of its range (R97). The zq of MDRAIN counts for a block format only, which its
descriptor names (DEDUCED, log entry 17): its plan looks at it. -/
def steppedOut (i : Instr) : Bool :=
  match i with
  | .vadd h x => vOut h (if x.bc = 1 then [x.vd, x.va] else [x.vd, x.va, x.vb])
  | .vsub h x => vOut h (if x.bc = 1 then [x.vd, x.va] else [x.vd, x.va, x.vb])
  | .vmin h x => vOut h (if x.bc = 1 then [x.vd, x.va] else [x.vd, x.va, x.vb])
  | .vmax h x => vOut h (if x.bc = 1 then [x.vd, x.va] else [x.vd, x.va, x.vb])
  | .vmul h x => vOut h (if x.bc = 1 then [x.vd, x.va] else [x.vd, x.va, x.vb])
  | .vabs h x => vOut h [x.vd, x.va]
  | .vneg h x => vOut h [x.vd, x.va]
  | .vand h x => vOut h (if x.bc = 1 then [x.vd, x.va] else [x.vd, x.va, x.vb])
  | .vor h x => vOut h (if x.bc = 1 then [x.vd, x.va] else [x.vd, x.va, x.vb])
  | .vxor h x => vOut h (if x.bc = 1 then [x.vd, x.va] else [x.vd, x.va, x.vb])
  | .vandn h x => vOut h (if x.bc = 1 then [x.vd, x.va] else [x.vd, x.va, x.vb])
  | .vshl h x => vOut h (if x.bc = 1 then [x.vd, x.va] else [x.vd, x.va, x.vb])
  | .vshr h x => vOut h (if x.bc = 1 then [x.vd, x.va] else [x.vd, x.va, x.vb])
  | .vsra h x => vOut h (if x.bc = 1 then [x.vd, x.va] else [x.vd, x.va, x.vb])
  | .vpopc h x => vOut h [x.vd, x.va]
  | .vclz h x => vOut h [x.vd, x.va]
  | .vsel h x => vOut h (if x.bc = 1 then [x.vd, x.va] else [x.vd, x.va, x.vb])
  | .vfma h x => vOut h [x.vd, x.va, x.vb, x.vc]
  | .vfms h x => vOut h [x.vd, x.va, x.vb, x.vc]
  | .vfnma h x => vOut h [x.vd, x.va, x.vb, x.vc]
  | .vaddi h x => vOut h [x.vd, x.va]
  | .vandi h x => vOut h [x.vd, x.va]
  | .vshli h x => vOut h [x.vd, x.va]
  | .vshri h x => vOut h [x.vd, x.va]
  | .vsrai h x => vOut h [x.vd, x.va]
  | .vli h x => vOut h [x.vd]
  | .vcmp h x => mOut h [x.md] || vOut h (if x.bc = 1 then [x.va] else [x.va, x.vb])
  | .mand h x => mOut h [x.md, x.ma, x.mb]
  | .mor h x => mOut h [x.md, x.ma, x.mb]
  | .mxor h x => mOut h [x.md, x.ma, x.mb]
  | .mandn h x => mOut h [x.md, x.ma, x.mb]
  | .mnot h x => mOut h [x.md, x.ma]
  | .mlead h x => mOut h [x.md]
  | .many h x => mOut h [x.ma]
  | .mall h x => mOut h [x.ma]
  | .mpop h x => mOut h [x.ma]
  | .mfirst h x => mOut h [x.ma]
  | .vcvt h x => vOut h [x.vd, x.va]
  | .vquant h x => vOut h [x.vd, x.vs] || outOf h 32 x.z.toNat
  | .vdeq h x => vOut h [x.vd, x.vs] || outOf h 32 x.z.toNat
  | .vlscv h x => vOut h [x.vd, x.va]
  | .vlsadd h x => vOut h (if x.bc = 1 then [x.vd, x.va] else [x.vd, x.va, x.vb])
  | .vlsout h x => vOut h [x.vd, x.va]
  | .vrsum h x => vOut h [x.vd, x.va]
  | .vrmax h x => vOut h [x.vd, x.va]
  | .vrmin h x => vOut h [x.vd, x.va]
  | .vperm h x => vOut h (if x.bc = 1 then [x.vd, x.va] else [x.vd, x.va, x.vb])
  | .vzip h x => vOut h (if x.bc = 1 then [x.vd, x.va] else [x.vd, x.va, x.vb])
  | .vunzip h x => vOut h (if x.bc = 1 then [x.vd, x.va] else [x.vd, x.va, x.vb])
  | .vrot h x => vOut h [x.vd, x.va]
  | .vbcast h x => vOut h [x.vd, x.va]
  | .vexp2 h x => vOut h [x.vd, x.va]
  | .vlog2 h x => vOut h [x.vd, x.va]
  | .vrcp h x => vOut h [x.vd, x.va]
  | .vrsq h x => vOut h [x.vd, x.va]
  | .vtanh h x => vOut h [x.vd, x.va]
  | .vcx h x => pairOut h [x.vd, x.va, x.vb, x.vc]
  | .vtwr h x => vOut h [x.v] || outOf h 128 x.idx.toNat
  | .vtrd h x => vOut h [x.v] || outOf h 128 x.idx.toNat
  | .mcall h x => outOf h 4 x.acc.toNat
  | .mzero h x => outOf h 4 x.acc.toNat
  | .mdrain h x => outOf h 128 x.row.toNat || vOut h [x.vd]
  | .kmvv h x => outOf h 32 x.zd.toNat || vOut h [x.v]
  | .kmvz h x => outOf h 32 x.za.toNat || vOut h [x.v]
  | .kmov h x => outOf h 32 x.za.toNat
  | .kltl h x => vOut h [x.v]
  | .cpy h x => outOf h 2048 x.dsc.toNat
  | .cpyc h x => outOf h 2048 x.dsc.toNat
  | .cpyq h x => outOf h 2048 x.dsc.toNat
  | .cpyx h x => outOf h 2048 x.dsc.toNat
  | .cpyz h x => outOf h 2048 x.dsc.toNat
  | .wbld h x => outOf h 2048 x.dsc.toNat
  | .gath h x => outOf h 2048 x.dsc.toNat
  | .scat h x => outOf h 2048 x.dsc.toNat
  | .mcast h x => outOf h 2048 x.dsc.toNat
  | .send h x => vOut h [x.v]
  | .recv h x => vOut h [x.v]
  | _ => false

/-! ## Uses of handles (R127) -/

/-- The handle of a buffer record. -/
def handleNum (c : Core) (bf : Nat) : Nat := (c.bfGet bf).hnum

/-- The handles that a syllable uses when its predicate lets it act. A vector store with no lane enabled makes no access. -/
def usesHandles (c : Core) (i : Instr) : List Nat :=
  match i with
  | .xlate _ x => [x.hn.toNat]
  | .hrel _ x => [x.hn.toNat]
  | .kldh _ x => [handleNum c x.bf.toNat]
  | .ksth _ x => [handleNum c x.bf.toNat]
  | .ldVector _ x => [handleNum c x.bf.toNat]
  | .stVector _ x => if storeLanes c x.lm = 0 then [] else [handleNum c x.bf.toNat]
  | .ldTile _ x => [handleNum c x.bf.toNat]
  | .stTile _ x => [handleNum c x.bf.toNat]
  | .ldScalar _ _ x => [handleNum c x.bf.toNat]
  | .stScalar _ _ x => [handleNum c x.bf.toNat]
  | .cpy _ x => (recordsOf .cpy x).map (handleNum c)
  | .cpyc _ x => (recordsOf .cpyc x).map (handleNum c)
  | .cpyq _ x => (recordsOf .cpyq x).map (handleNum c)
  | .cpyx _ x => (recordsOf .cpyx x).map (handleNum c)
  | .cpyz _ x => (recordsOf .cpyz x).map (handleNum c)
  | .wbld _ x => (recordsOf .wbld x).map (handleNum c)
  | .gath _ x => (recordsOf .gath x).map (handleNum c)
  | .scat _ x => (recordsOf .scat x).map (handleNum c)
  | .mcast _ x => (recordsOf .mcast x).map (handleNum c)
  | .ctld _ x => [handleNum c x.bf.toNat]
  | .aadd _ x => [handleNum c x.bf.toNat]
  | .aand _ x => [handleNum c x.bf.toNat]
  | .aor _ x => [handleNum c x.bf.toNat]
  | .axor _ x => [handleNum c x.bf.toNat]
  | .amin _ x => [handleNum c x.bf.toNat]
  | .amax _ x => [handleNum c x.bf.toNat]
  | .axchg _ x => [handleNum c x.bf.toNat]
  | .acas _ x => [handleNum c x.bf.toNat]
  | _ => []

/-! ## Landing entries (R49) -/

/-- The arrival offset and the landing entries of a request. -/
def entriesOf (i : Instr) : Nat × Nat :=
  match i with
  | .ldVector _ x => (x.arr.toNat, 8)
  | .ldTile _ x => (x.arr.toNat, 256)
  | .ldScalar _ _ x => (x.arr.toNat, 1)
  | .kldh _ x => (x.arr.toNat, (2 * halfCount x + 63) / 64)
  | .recv _ x => (x.arr.toNat, 8)
  | .claim _ x => (x.arr.toNat, 1)
  | .claimRead _ x => (x.arr.toNat, 1)
  | .subscribe _ x => (x.arr.toNat, 1)
  | .lapse _ x => (x.arr.toNat, 1)
  | .board _ x => (x.arr.toNat, 1)
  | .alight _ x => (x.arr.toNat, 1)
  | .cstat _ x => (x.arr.toNat, 1)
  | .aadd _ x => (x.arr.toNat, 1)
  | .aand _ x => (x.arr.toNat, 1)
  | .aor _ x => (x.arr.toNat, 1)
  | .axor _ x => (x.arr.toNat, 1)
  | .amin _ x => (x.arr.toNat, 1)
  | .amax _ x => (x.arr.toNat, 1)
  | .axchg _ x => (x.arr.toNat, 1)
  | .acas _ x => (x.arr.toNat, 1)
  | _ => (0, 0)

/-! ## Copy commands -/

/-- A syllable is a copy command (R202). -/
def isCommand (i : Instr) : Bool :=
  match i with
  | .cpy _ _ => true
  | .cpyc _ _ => true
  | .cpyq _ _ => true
  | .cpyx _ _ => true
  | .cpyz _ _ => true
  | .wbld _ _ => true
  | .gath _ _ => true
  | .scat _ _ => true
  | .mcast _ _ => true
  | .cfence _ _ => true
  | .cacq _ _ => true
  | .crel _ _ => true
  | .ctld _ _ => true
  | _ => false

/-- The banks that a copy command declares (R203). -/
def banksOf (c : Core) (i : Instr) : BitVec 32 :=
  match i with
  | .cpy h x => dBanks (descOf c (descIndexOf h x))
  | .cpyc h x => dBanks (descOf c (descIndexOf h x))
  | .cpyq h x => dBanks (descOf c (descIndexOf h x))
  | .cpyx h x => dBanks (descOf c (descIndexOf h x))
  | .cpyz h x => dBanks (descOf c (descIndexOf h x))
  | .wbld h x => dBanks (descOf c (descIndexOf h x))
  | .gath h x => dBanks (descOf c (descIndexOf h x))
  | .scat h x => dBanks (descOf c (descIndexOf h x))
  | .mcast h x => dBanks (descOf c (descIndexOf h x))
  | _ => 0

/-! ## Releases (R253, R354) -/

/-- A syllable whose bundle is a commit point: a release of R253, PHASE, ARRIVE, CLAIM, or HALT (R354). -/
def commits (i : Instr) : Bool :=
  match i with
  | .fence _ x => x.imm.getLsbD 20
  | .phase _ _ => true
  | .arrive _ _ => true
  | .claim _ _ => true
  | .halt _ _ => true
  | .crel _ _ => true
  | .stVector _ x => x.ord != 0
  | .stTile _ x => x.ord != 0
  | .stScalar _ _ x => x.ord != 0
  | .cpy _ x => x.rel = 1
  | .cpyc _ x => x.rel = 1
  | .cpyq _ x => x.rel = 1
  | .cpyx _ x => x.rel = 1
  | .cpyz _ x => x.rel = 1
  | .wbld _ x => x.rel = 1
  | .gath _ x => x.rel = 1
  | .scat _ x => x.rel = 1
  | .mcast _ x => x.rel = 1
  | .aadd _ x => x.ord != 0
  | .aand _ x => x.ord != 0
  | .aor _ x => x.ord != 0
  | .axor _ x => x.ord != 0
  | .amin _ x => x.ord != 0
  | .amax _ x => x.ord != 0
  | .axchg _ x => x.ord != 0
  | .acas _ x => x.ord != 0
  | _ => false

end Sys2Proof.Machine
end

