-- ==== Sys2Proof/Machine/Issue.lean ====
section
/-!
DEFINITION. How a core issues: fetch and overlay segments (R83, R84, R136 to R141), holds (R48 to R50), the checks of step 3
(R91, R109, R110), sticky syllables (R96), landings (R94, R95, R199, R201), commit points (R354), and which core takes the
next step of a reference cycle (R47, R345, R346).
-/
namespace Sys2Proof.Machine

/-! ## Fetch (R83, R84, R136, R140) -/

/-- The word that instruction memory holds where nothing has filled it (R84). -/
def unfilled : Word := BitVec.allOnes 64

/-- The frame that holds the segment of an image address (R136), the lowest where several do (DEDUCED, log entry 106). An
address past 0xFF_FFFF lies in no segment (DEDUCED, log entry 145). -/
def frameOf (c : Core) (addr : Nat) : Option Nat := [0, 1, 2, 3].find? fun f => Table.get none c.frameSeg f == some (addr / 65536)

/-- A line of a frame that the overlay copy in progress has not delivered (R139). -/
def undelivered (c : Core) (f line : Nat) : Bool :=
  match c.overlay with
  | some o => o.frame == f && (o.late.contains line || (decide (o.next ≤ line) && decide (line < o.lines)))
  | none => false

/-- A word of a frame. -/
def codeWord (c : Core) (f k : Nat) : Word := if k < 8192 then Table.get unfilled c.code (f * 8192 + k) else unfilled

/-- A bundle as fetched (R83, R85): its header, its length, the words of its present slots, and whether it crosses the end of
its frame. -/
structure Bundle where
  word : Word
  head : Header
  len : Nat
  words : List (Slot × Word)
  crosses : Bool
deriving DecidableEq, Repr

/-- What a fetch finds: no frame holds the segment, a line of the bundle is not yet delivered, or the bundle. -/
inductive Fetch where
  | absent
  | stall
  | ok (b : Bundle)
deriving DecidableEq, Repr

/-- The bundle whose header is word `k` of a frame. -/
def bundleAt (c : Core) (f k : Nat) : Bundle :=
  let w := codeWord c f k
  let slots := presentSlots (readHeader w).pres
  { word := w, head := readHeader w, len := 8 + 8 * slots.length, crosses := decide (8192 < k + 1 + slots.length)
    words := (List.range slots.length).zipWith (fun i sl => (sl, codeWord c f (k + 1 + i))) slots }

/-- Fetch the bundle at the program counter. A bundle lies in at most two lines of its frame (R140). -/
def fetch (c : Core) : Fetch :=
  match frameOf c c.pc with
  | none => .absent
  | some f =>
    let k := c.pc % 65536 / 8
    if undelivered c f (k / 8) then .stall
    else
      let b := bundleAt c f k
      if undelivered c f (Nat.min (k + b.words.length) 8191 / 8) then .stall else .ok b

/-- The header of a fetch that finds no segment, where SKIP issues a repetition of it (R351). -/
def blankBundle : Bundle := { word := unfilled, head := readHeader unfilled, len := 64, words := [], crosses := false }

/-! ## Overlay segments (R137 to R141) -/

/-- The word at an image address of segments 0 and 1, which stay in frames 0 and 1. -/
def residentWord (c : Core) (a : Nat) : Word :=
  let get := fun (k : Nat) => if k < 16384 then Table.get unfilled c.code k else unfilled
  let r := 8 * (a % 8)
  if r = 0 then get (a / 8) else (get (a / 8) >>> r) ||| (get (a / 8 + 1) <<< (64 - r))

/-- The segment-table entry at the cursor (R137). -/
def segEntry (c : Core) : Word :=
  if c.segbase = 0 then 0 else residentWord c (c.segbase + 8 * c.cursor.getD 0)

/-- A segment table fault (R344). -/
def segFault (c : Core) (cause : Nat) : Check :=
  { code := 0x11, cause := cause, arg0 := BitVec.ofNat 64 (c.cursor.getD 0), arg1 := segEntry c, handle := 16 }

/-- The checks of a SEG mark, in the order of R139. -/
def segCheck (c : Core) : Option Check :=
  let e := segEntry c
  let lines := (bits e 0 11).toNat
  if c.segbase = 0 then some (segFault c 1)
  else if c.cursor.isNone then some (segFault c 2)
  else if c.overlay.isSome then some (segFault c 3)
  else if bits e 11 36 != 0 || bits e 56 8 < 2#8 || lines = 0 || decide (1024 < lines) then some (segFault c 4)
  else none

/-- The frame that a SEG mark fills (R139). -/
def segFrame (c : Core) : Nat :=
  match frameOf c c.pc with
  | some 2 => 3
  | some 3 => 2
  | _ => if Table.get 0 c.frameAge 3 < Table.get 0 c.frameAge 2 then 3 else 2

/-- The core with the frame of a SEG mark given to its new segment (R139). -/
def giveFrame (c : Core) : Core :=
  { c with frameSeg := c.frameSeg.put (segFrame c) (some (bits (segEntry c) 56 8).toNat) }

/-- The virtual address of a segment's first byte: its place in the image (R40). None where the header or the code directory
does not translate (DEDUCED, log entry 23). -/
def segmentSource (s : State) (c : Core) (seg : Nat) : Option Nat :=
  let f := funcOfLaunch s (c.launch.getD 0)
  let img := (imageOf s c).img
  (readVa s f img 256).bind fun b =>
    (readVa s f (img + (sectOf b 0).1 + 8 * seg) 8).map fun d => img + leNat (d.take 4)

/-- The reference cycle until which the reading of the image header and of a segment's directory entry waits for a block in re-encryption;
0 where it does not (R285). -/
def sourceReady (s : State) (c : Core) (seg : Nat) : Nat :=
  let f := funcOfLaunch s (c.launch.getD 0)
  let img := (imageOf s c).img
  let entry := (readVa s f img 256).bind fun b => readWait s f (img + (sectOf b 0).1 + 8 * seg) 8
  Nat.max ((readWait s f img 256).getD 0) (entry.getD 0)

/-- A SEG mark acts: the cursor moves on, and the background copy of the segment begins (R139). -/
def startSegment (s : State) (g : Nat) : State :=
  let c := s.core g
  let e := segEntry c
  let f := segFrame c
  let o : Overlay :=
    { frame := f, seg := (bits e 56 8).toNat, lines := (bits e 0 11).toNat, next := 0, late := []
      ready := sourceReady s c (bits e 56 8).toNat
      src := segmentSource s c (bits e 56 8).toNat }
  let c1 := { giveFrame c with
    cursor := if e.getLsbD 47 then none else some (bits e 48 8).toNat
    code := c.code.filter fun (k, _) => k / 8192 != f
    frameAge := c.frameAge.put f (s.now + 1), overlay := some o }
  (s.setCore g c1).due (s.now + 640) 0 (.segmentLineDelivered g f 0)

/-- The words of a line of a segment; none where it does not translate. -/
def segmentLine (s : State) (c : Core) (o : Overlay) (line : Nat) : List Word :=
  ((o.src.bind fun a => readVa s (funcOfLaunch s (c.launch.getD 0)) (a + 64 * line) 64).map wordsOf).getD []

/-- A line of a segment comes over the lost die link (R360). -/
def lineLost (s : State) (g : Nat) (c : Core) (o : Overlay) (line : Nat) : Bool :=
  match o.src.bind fun a => translate s (funcOfLaunch s (c.launch.getD 0)) (a + 64 * line) 64 false with
  | some pa => crosses s g pa && !s.dieLink
  | none => false

/-- The reference cycle for which a line of a segment waits: its block, or one of a table entry or of the directory, is in re-encryption
(R285). -/
def lineWait (s : State) (c : Core) (o : Overlay) (line : Nat) : Option Nat :=
  if s.now < o.ready then some o.ready
  else o.src.bind fun a => readWait s (funcOfLaunch s (c.launch.getD 0)) (a + 64 * line) 64

/-- The copy of a segment after a line has had its turn: the line is there, or is late; nothing is left of a copy whose lines are all
there (R139). -/
def Overlay.after (o : Overlay) (line : Nat) (late : Bool) : Option Overlay :=
  let ls := if o.next = line then (if late then o.late ++ [line] else o.late) else if late then o.late else o.late.filter (· != line)
  let k := if o.next = line then line + 1 else o.next
  if o.lines ≤ k && ls.isEmpty then none else some { o with next := k, late := ls }

/-- A line of a segment stands in its frame. -/
def fillLine (c : Core) (fr line : Nat) (words : List Word) : Core :=
  { c with code := (List.range words.length).foldl (fun t i => t.put (fr * 8192 + line * 8 + i) (words.getD i 0)) c.code }

/-- SEGMENT_LINE_DELIVERED (R139, R140): a line of the segment stands in its frame, and the next is due two cycles later. A line
whose page does not translate fills nothing (R84); one that would have to cross the lost die link fails the launch (R360), and one of a
block in re-encryption comes at its end, by itself (R285). -/
def execSegmentLineDelivered (g fr line : Nat) (s : State) : Res :=
  let c := s.core g
  match c.overlay with
  | none => .next s
  | some o =>
    if o.frame ≠ fr || (o.next ≠ line && !o.late.contains line) then .next s
    else if lineLost s g c o line then .next (meetLostLink s (c.launch.getD 0))
    else
      let more := fun (st : State) =>
        if o.next = line && line + 1 < o.lines then st.due (s.now + 2) 0 (.segmentLineDelivered g fr (line + 1)) else st
      match lineWait s c o line with
      | some t => .next ((more (s.setCore g { c with overlay := o.after line true })).due t 0 (.segmentLineDelivered g fr line))
      | none => .next (more (s.setCore g { fillLine c fr line (segmentLine s c o line) with overlay := o.after line false }))

/-! ## The syllables of a repetition (R86, R89, R96) -/

/-- A syllable of the repetition: its slot, its word, whether the bundle names it, and what it decodes to. -/
structure Item where
  slot : Slot
  word : Word
  named : Bool
  instr : Except Bad Instr

/-- A syllable with its re-issue count and its `bc` value. -/
def atIssue (i : Instr) (j : Nat) (bc : Word) : Instr :=
  match i.head? with
  | some h => i.withHead { h with j := j, bcv := bc }
  | none => i

/-- The operand `bc` of a bundle (R89). -/
def broadcast (c : Core) (h : Header) : Word := if h.be = 1 then c.sGet h.bs.toNat else 0

/-- The stick bit of a decoded syllable. -/
def sticks (i : Instr) : Bool := match i.head? with | some h => h.stk == 1 | none => false

/-- A named syllable: a sticky one is stepped at the later repetitions of its own bundle (R96). -/
def namedItem (c : Core) (h : Header) (p : Slot × Word) : Item :=
  let (sl, w) := p
  match decodeSyllable sl w with
  | .error e => { slot := sl, word := w, named := true, instr := .error e }
  | .ok i =>
    let j := if sticks i && c.rep != 0 then (match c.stickyOf (slotNum sl) with | some x => x.j | none => 0) else 0
    { slot := sl, word := w, named := true, instr := .ok (atIssue i j (broadcast c h)) }

/-- The slots that can stick, in order. -/
def stickSlots : List Slot := [.v0, .v1, .m, .k, .c0, .c1]

/-- The re-issues of the slots that the bundle does not name (R96). -/
def stickyItems (c : Core) (b : Bundle) : List Item :=
  stickSlots.filterMap fun sl =>
    if b.words.any fun (x, _) => x == sl then none
    else
      match c.stickyOf (slotNum sl) with
      | none => none
      | some x =>
        let bc := match x.instr.head? with | some h => h.bcv | none => 0
        some { slot := sl, word := wordOf x.instr, named := false, instr := .ok (atIssue x.instr x.j bc) }

/-- The syllables of a repetition, in the order of their checks (R110). -/
def itemsOf (c : Core) (b : Bundle) : List Item := b.words.map (namedItem c b.head) ++ stickyItems c b

/-- Insert a syllable by its slot. -/
def insertItem (it : Item) : List Item → List Item
  | [] => [it]
  | x :: xs => if slotNum it.slot < slotNum x.slot then it :: x :: xs else x :: insertItem it xs

/-- The syllables of a repetition, in slot order. -/
def bySlot (items : List Item) : List Item := items.foldl (fun acc it => insertItem it acc) []

/-- The instructions of the syllables that decode. -/
def instrsOf (items : List Item) : List Instr :=
  items.filterMap fun it => match it.instr with | .ok i => some i | .error _ => none

/-! ## The header (R85 to R88) -/

/-- The mask that a transfer condition names. -/
def condMask (c : Core) (h : Header) : Mask := c.mGet (h.xc.toNat - 8)

/-- The condition of a transfer, its mask uniform (R88). -/
def transferTaken (c : Core) (h : Header) : Bool :=
  let t := if h.xc.toNat < 7 then c.fGet h.xc.toNat else if h.xc = 7 then true else condMask c h == full 128
  h.xe = 1 && (t != (h.xn = 1))

/-- The bundle's HALT acts at this repetition (R111, R132). -/
def haltActs (c : Core) (b : Bundle) : Bool :=
  c.rep = 0 && b.words.any fun (sl, w) =>
    match decodeSyllable sl w with
    | .ok (.halt h _) => flagPred c h.prd h.pn
    | _ => false

/-- The header transfer is taken: its condition holds, and no HALT of the bundle acts (R88, R132). -/
def takes (c : Core) (b : Bundle) : Bool := transferTaken c b.head && !haltActs c b

/-- This repetition is the last of its bundle. -/
def lastRep (c : Core) (h : Header) : Bool := h.rep.toNat ≤ c.rep

/-- A legal header. -/
def headerLegal (b : Bundle) : Bool := (headerBad b.head).isNone && !b.crosses

/-- The core with the frame of this repetition's SEG mark already given away (R139). -/
def framesAfter (c : Core) (b : Bundle) : Core := if b.head.seg = 1 && c.rep = 0 && (segCheck c).isNone then giveFrame c else c

/-- An illegal bundle (R344). -/
def illegalBundle (b : Bundle) (row : Nat) : Check :=
  { code := 1, cause := row, arg0 := b.word, arg1 := 0, handle := 16 }

/-- The checks of a transfer at the last repetition, in the order of R109: its register holds no target, its mask is not
uniform, its target lies in no frame (R26, R88, R122). -/
def transferCheck (c : Core) (b : Bundle) : Option Check :=
  let h := b.head
  if h.xe = 0 || !lastRep c h then none
  else
    match c.bGet h.xt.toNat with
    | none => some (illegalBundle b 5)
    | some t =>
      let m := condMask c h
      if 8 ≤ h.xc.toNat && m != 0 && m != full 128 then
        some { code := 3, cause := h.xc.toNat - 8, arg0 := m.setWidth 64, arg1 := (m >>> 64).setWidth 64, handle := 16 }
      else if takes c b && (frameOf (framesAfter c b) t).isNone then some (segFault c 5)
      else none

/-- A syllable of the bundle has BC = 1, and the header has BE = 0 (R109). -/
def badBroadcast (b : Bundle) : Bool :=
  b.head.be = 0 && b.words.any fun (sl, w) => match readSlot sl w with | some (i, _) => usesBroadcast i | none => false

/-- The checks of a header (R109, R110, R139); the rows that make a bundle illegal are checks of its header (DEDUCED, log
entry 14). Row 5 comes before row 4, and the transfer before the mark of a segment header (DESIGN CHOICE, log entry 142). -/
def headerCheck (c : Core) (b : Bundle) : Option Check :=
  match headerBad b.head with
  | some r => some (illegalBundle b r)
  | none =>
    if b.crosses then some (illegalBundle b 5)
    else if badBroadcast b then some (illegalBundle b 4)
    else
      match transferCheck c b with
      | some k => some k
      | none => if b.head.seg = 1 && c.rep = 0 then segCheck c else none

/-! ## The state in which a repetition is checked and issues -/

/-- The core with what its syllables read of the repetition in hand. -/
def prepareCore (c : Core) (b : Bundle) : Core :=
  let last := lastRep c b.head
  { c with iPc := c.pc, iNext := c.pc + b.len, iRep := c.rep, iCyc := c.cycle, iLast := last
           iTaken := last && takes c b, iTarget := (c.bGet b.head.xt.toNat).getD 0 }

/-- The state in which a repetition of a core is checked and issues. -/
def prepare (s : State) (g : Nat) (b : Bundle) : State := { s.setCore g (prepareCore (s.core g) b) with cur := g }

/-! ## Holds (R48 to R50, R127, R202, R203, R219) -/

/-- A use of a handle whose XLATE is in progress (R127). -/
def interlocked (s : State) (is : List Instr) : Bool :=
  let c := s.curCore
  is.any fun i => (planOf i s).enabled && (usesHandles c i).any fun h => (c.hGet h).xl.isSome

/-- The landing entries counted at the present cycle (R49). The count is largest at the issue of a request. -/
def entriesNow (c : Core) : Nat := c.reqs.foldl (fun n r => if c.cycle < r.arr then n + r.entries else n) 0

/-- The landing entries that a repetition adds. -/
def entriesNew (is : List Instr) : Nat :=
  is.foldl (fun n i => let (arr, k) := entriesOf i; if arr = 0 then n else n + k) 0

/-- The landing-buffer hold (R49). -/
def landingFull (c : Core) (is : List Instr) : Bool :=
  let n := entriesNew is
  n != 0 && decide (1024 < entriesNow c + n)

/-- The engine of a copy command. -/
def engineOfInstr (i : Instr) : Nat := match i.head? with | some h => engineOf h.slot | none => 0

/-- The circuit entries on which a repetition sends. -/
def sendsOf (s : State) (is : List Instr) : List Nat :=
  is.filterMap fun i => match i with
    | .send _ x => if (planOf i s).enabled then some x.pair.toNat else none
    | _ => none

/-- The fields of an atomic. -/
def atomicFields (i : Instr) : Option FmtU :=
  match i with
  | .aadd _ x | .aand _ x | .aor _ x | .axor _ x | .amin _ x | .amax _ x | .axchg _ x | .acas _ x => some x
  | _ => none

/-- The targets of the atomics of a repetition (R224). -/
def atomicTargets (s : State) (is : List Instr) : List Nat :=
  is.filterMap fun i =>
    match atomicFields i with
    | some x =>
      if (planOf i s).enabled then
        match (atomicForm s.curCore x).form s s.curCore true with
        | .ok f => f.spans.head?.map fun sp => targetOf s sp.pa
        | .error _ => none
      else none
    | none => none

/-- The atomics of a core to a target that have not been answered (R224). -/
def unanswered (s : State) (g t : Nat) : Nat :=
  ((openAccesses s g).filter fun (_, a) =>
    (match a.kind with | .atomic .. => true | _ => false) && a.pieces.any fun p => targetOf s p.pa == t).length

/-- A copy command finds its queue full (R202), a fifth SEND of an entry its sender (R219), or a 65th atomic to a target 64 that have
not been answered (R224). -/
def queueFull (s : State) (is : List Instr) : Bool :=
  let c := s.curCore
  let sends := sendsOf s is
  let targets := atomicTargets s is
  (is.any fun i => isCommand i && (planOf i s).enabled && decide (16 ≤ (c.cmdsOf (engineOfInstr i)).length)) ||
    (sends.any fun e => decide (4 < (waitingSends s (c.launch.getD 0) e).length + sends.count e)) ||
    targets.any fun t => decide (64 < unanswered s s.cur t + targets.count t)

/-- A copy command declares a bank that an uncompleted command of the other engine has reserved (R203). -/
def banksReserved (s : State) (is : List Instr) : Bool :=
  let c := s.curCore
  is.any fun i => isCommand i && (planOf i s).enabled &&
    (c.cmdsOf (1 - engineOfInstr i)).any fun m => (dBanks m.desc &&& banksOf c i) != 0

/-- The cause of R48 that holds a fetched repetition, the earliest in its table; 0 for none. -/
def holdCause (s : State) (is : List Instr) : Nat :=
  if interlocked s is then 7
  else if landingFull s.curCore is then 9
  else if queueFull s is then 10
  else if banksReserved s is then 11
  else 0

/-- A request whose named cycle has come (R199). -/
def Request.dueAt (r : Request) (c : Core) : Bool := r.arr ≤ c.cycle

/-- The requests whose named cycle has come and whose data has not (R48, cause 5). -/
def lateRequests (c : Core) : List Request := c.reqs.filter fun r => r.dueAt c && r.data.isNone && r.cause = 0

/-- The core does not issue on this reference cycle (R48). -/
def holdCore (s : State) (g cause : Nat) : State := s.updCore g (chargeHold s.now cause)

/-! ## The checks of step 3 (R91, R109, R110) -/

/-- The units that a syllable reads of its bundle: `s[BS]` where it takes `bc`. -/
def broadcastReads (b : Bundle) (it : Item) (i : Instr) : List ReadUnit :=
  if it.named && usesBroadcast i then [rS b.head.bs.toNat] else []

/-- A loop return into a segment that no frame holds (R125, R136). -/
def returnCheck (c : Core) (b : Bundle) (i : Instr) : Option Check :=
  match i with
  | .endLoop h x =>
    let l := c.lpGet x.n.toNat
    if flagPred c h.prd h.pn && c.iLast && !c.iTaken && 1 < l.count && (frameOf (framesAfter c b) l.start).isNone then
      some (segFault c 5)
    else none
  | _ => none

/-- The checks of one syllable: its encoding, its stepped fields, then those of its operands. -/
def itemCheck (s : State) (b : Bundle) (it : Item) : Option Check :=
  let c := s.curCore
  match it.instr with
  | .error e => some (illegalOp (badCause e) it.word)
  | .ok i =>
    if steppedOut i then some (illegalOp 12 it.word)
    else
      let p := planOf i s
      match firstCheck [fun _ => p.fault c, fun _ => if p.enabled then pendingCheck c (broadcastReads b it i) else none,
                        fun _ => returnCheck c b i] with
      | some k => some (if k.code = 2 then { k with arg0 := it.word } else k)
      | none => none

/-- The banks that an enabled command of a repetition declares. -/
def itemBanks (s : State) (it : Item) : BitVec 32 :=
  match it.instr with
  | .ok i => if isCommand i && (planOf i s).enabled then banksOf s.curCore i else 0
  | .error _ => 0

/-- The first check that fails among the syllables, with its slot; two commands of one repetition may not declare one bank
(R203). -/
def itemsCheck (s : State) (b : Bundle) : BitVec 32 → List Item → Option (Nat × Check)
  | _, [] => none
  | banks, it :: rest =>
    match itemCheck s b it with
    | some k => some (slotNum it.slot, k)
    | none =>
      let mine := itemBanks s it
      if (banks &&& mine) != 0 then some (slotNum it.slot, illegalOp 0 it.word) else itemsCheck s b (banks ||| mine) rest

/-- The checks of step 3 of a repetition: the header, then the syllables (R110). -/
def stepCheck (s : State) (b : Bundle) (items : List Item) : Option (Nat × Check) :=
  match headerCheck s.curCore b with
  | some k => some (7, k)
  | none => itemsCheck s b 0 items

/-! ## Commit points (R354) -/

/-- The issue boundary at which a core stands is a commit point: the first repetition of a checkpoint, or of a bundle that
holds a release, a PHASE, an ARRIVE, a CLAIM or a HALT. -/
def commitDue (c : Core) (b : Bundle) (is : List Instr) : Bool :=
  c.rep = 0 && headerLegal b && (b.head.ckp = 1 || is.any commits)

/-- A core commits: it takes a checkpoint copy, the log is clear, the egress hold lets go, and the messages it has received are
no longer kept. -/
def commitCore (s : State) (g : Nat) : State :=
  let c := s.core g
  let same := match s.checkpoints.find g with
    | some (p :: _) => p.cycle == c.cycle && p.pc == c.pc && p.rep == c.rep
    | _ => false
  if same then s
  else
    let c1 := { c with region := { Region.reset with num := c.region.num + 1 } }
    let s1 := { s.setCore g c1 with
      checkpoints := s.checkpoints.put g [c1]
      messages := s.messages.filter fun (_, m) => !(m.dstG == g && m.taken) }
    releaseHeld s1 g

/-- A core commits where it stands at a commit point. -/
def commitIf (s : State) (g : Nat) (p : Bool) : State := if p then commitCore s g else s

/-! ## Issue (R91) -/

/-- What a repetition leaves sticking in its slots: a named slot takes what it names at the first repetition, and every syllable
that sticks has been issued once more (R96). -/
def restick (n : Nat) (c : Core) (it : Item) : Core :=
  match it.instr with
  | .error _ => if c.iRep = 0 then c.setSticky (slotNum it.slot) none else c
  | .ok i =>
    match i.head? with
    | some h =>
      if h.stk = 1 then c.setSticky (slotNum it.slot) (some { instr := i.withHead { h with j := 0 }, j := h.j + n })
      else if it.named && c.iRep = 0 then c.setSticky (slotNum it.slot) none
      else c
    | none => c

/-- The marks of a header act at the first repetition (R90). -/
def runMarks (s : State) (g : Nat) (b : Bundle) : State :=
  let c := s.core g
  if c.rep ≠ 0 || !headerLegal b then s
  else
    let s1 := if b.head.ckp = 1 then s.setCore g { c with sig := 0xFFFFFFFF } else s
    if b.head.seg = 1 && (segCheck c).isNone then startSegment s1 g else s1

/-- A repetition issues: its syllables are to run in slot order. -/
def issue (s : State) (g : Nat) (b : Bundle) (items : List Item) : State :=
  let s1 := (runMarks s g b).updCore g fun c => { items.foldl (restick 1) c with turn := s.now + 1 }
  { s1 with micro := instrsOf (bySlot items), issuing := true }

/-- A repetition issues with every syllable suppressed, without landing entries and without stepping; its transfer is not taken
(R351). -/
def issueSkipped (s : State) (g : Nat) (b : Bundle) (items : List Item) : State :=
  let s1 := (runMarks s g b).updCore g fun c =>
    { (items.filter (·.named)).foldl (restick 0) c with turn := s.now + 1, iTaken := false }
  { s1 with micro := [], issuing := true }

/-- A core has met a fault in this reference cycle that is still to be raised (R345). -/
def hasMet (s : State) (g : Nat) : Bool := !(s.core g).elFault.isEmpty

/-- BUNDLE_ISSUE (R91): a repetition of the bundle at the program counter is held, fails a check, or issues. A commit point whose
held writes meet a fault as they leave stops the placement before the repetition (R346, R389). -/
def execBundleIssue (g : Nat) (s : State) : Res :=
  let c := s.core g
  match fetch c with
  | .stall => .next (holdCore s g 6)
  | .absent =>
    if c.skip then .next (issueSkipped (prepare s g blankBundle) g blankBundle [])
    else
      let k := segFault c 5
      .next (stepFault (prepare s g blankBundle) 7 k.code k.cause k.arg0 k.arg1)
  | .ok b =>
    let items := itemsOf c b
    let is := instrsOf items
    let s0 := commitIf s g (commitDue c b is)
    let s1 := prepare s0 g b
    if hasMet s0 g then .next s0
    else if c.skip then .next (issueSkipped s1 g b items)
    else
      match holdCause s1 is with
      | 0 =>
        match stepCheck s1 b items with
        | some (slot, k) => .next (raise s1 slot k)
        | none => .next (issue s1 g b items)
      | k => .next (holdCore s1 g k)

/-- A core that has issued HALT: its pending writes, its requests and its routines are discarded, and what it has written goes on
its way (R46, R220). -/
def endCore (s : State) (g : Nat) : State :=
  let s1 := s.updCore g fun c =>
    { c with writes := [], reqs := [], sticky := [], running := none, waiting := none, haltRef := s.now + 1 }
  wake (releaseHeld s1 g) g

/-- The core after a repetition (R86, R88): the next repetition, or the target of a taken transfer, or the bundle that
follows. -/
def closeCore (c : Core) : Core :=
  let c1 := { c with cycle := c.iCyc + 1, hOld := none, skip := false, hold := 0, frozen := 0 }
  if c.iLast then { c1 with pc := if c.iTaken then c.iTarget else c.iNext, rep := 0, waitOk := false }
  else { c1 with rep := c.iRep + 1 }

/-- A repetition has issued: a matrix routine that it started takes its steps of this cycle, and the core moves on. -/
def closeIssue (s : State) : State :=
  let g := s.cur
  let cyc := s.curCore.iCyc
  let s1 := { s with micro := [], issuing := false }.updCore g closeCore
  let s2 := freeSlots ((runRoutine s1 g cyc).updCore g (passCycles 1)) g
  if (s2.core g).halted then endCore s2 g else s2

/-! ## The wait (R87) -/

/-- A wait of a fetched bundle is still to be satisfied. -/
def waits (c : Core) (b : Bundle) : Bool := c.rep = 0 && b.head.we = 1 && !c.waitOk && !c.skip

/-- The flag of a wait is in the named state. -/
def flagReady (c : Core) (h : Header) : Bool := c.w.getLsbD h.wf.toNat != (h.wp = 1)

/-- WAIT_EVALUATION (R87): the wait is satisfied, or the core commits and is held. -/
def execWaitEvaluation (g : Nat) (s : State) : Res :=
  let c := s.core g
  match fetch c with
  | .ok b =>
    if !waits c b then .next s
    else if flagReady c b.head then .next (s.setCore g { c with waitOk := true })
    else
      let s1 := prepare (commitCore s g) g b
      .next (holdCore s1 g (if interlocked s1 (instrsOf (itemsOf c b)) then 7 else 8))
  | _ => .next s

/-! ## Landings (R49, R94, R95, R199 to R201, R221) -/

/-- The due cycle that a core has reached of a stream tile that is not complete in its slot (R244). -/
def lateTile (c : Core) : Option Nat :=
  c.boardings.findSome? fun b =>
    if b.stop.isNone && b.base ≤ c.cycle && 0 < b.period then
      let i := (c.cycle - b.base) / b.period
      if b.complete.contains (b.g0 + i) then none else some (b.base + i * b.period)
    else none

/-- A late landing freezes the core (R48, cause 5). -/
def isLate (c : Core) : Bool := !(lateRequests c).isEmpty || (lateTile c).isSome

/-- A request whose arrival raises a fault: a poisoned vector, scalar or scale load or atomic, or one that another device has
refused (R201, R223, R344, R382). -/
def arrivalBad (r : Request) : Bool :=
  r.cause != 0 || (match r.target with | .tile _ => false | .discard => false | _ => !r.poison.isEmpty)

/-- The first request of a core whose arrival raises a fault. -/
def badArrival (c : Core) : Option Request := c.reqs.find? fun r => r.dueAt c && arrivalBad r

/-- The fault of an arrival (R344, R346). -/
def arrivalFault (s : State) (g : Nat) (r : Request) : State :=
  let (code, cause, addr) := if r.cause ≠ 0 then (7, r.cause, r.paddr) else (9, if r.atomic then 2 else 1, r.pline)
  takeFault s g
    { kind := 1, code := code, cause := cause, arg0 := BitVec.ofNat 64 addr, arg1 := 0, slot := r.slot, rep := r.rep, origin := 1
      issue := r.issue, baddr := r.baddr }

/-- The writes that the data of a request makes (R200, R221, R227). -/
def landingEffects (r : Request) : List Effect :=
  let d := r.data.getD []
  match r.target with
  | .vec n => [.vReg n (BitVec.ofNat 4096 (leNat d)) (full 4096)]
  | .tile n => (List.range 128).map fun j =>
      .tRow (n * 128 + j) (BitVec.ofNat 1024 (leNat ((d.drop (128 * j)).take 128))) (full 1024) (r.poison.contains j)
  | .scalar n bytes signed =>
    if n = 0 then []
    else
      let v := leNat d % 2 ^ (8 * bytes)
      let neg := signed && decide (2 ^ (8 * bytes - 1) ≤ v)
      [.sReg n (BitVec.ofNat 64 (if neg then v + (2 ^ 64 - 2 ^ (8 * bytes)) else v))]
  | .zReg n bytes => [.zReg n (BitVec.ofNat 4096 (leNat d)) (BitVec.ofNat 4096 (2 ^ (8 * bytes) - 1))]
  | .discard => []

/-- The data of the requests whose named cycle has come joins the writes that land in this cycle. -/
def landRequests (s : State) (g : Nat) : State :=
  let c := s.core g
  let (due, rest) := (c.reqs.filter (·.dueAt c), c.reqs.filter fun r => !r.dueAt c)
  let ws := due.flatMap fun r => (landingEffects r).map fun e => Write.mk c.cycle r.issue r.slot e
  let s1 := s.setCore g { c with reqs := rest, writes := c.writes ++ ws }
  { s1 with accesses := s1.accesses.filter fun (n, a) => !(a.done && due.any fun r => r.id == n) }

/-- VARIABLE_LANDING (R199, R201): the data whose named cycle has come lands, or its arrival is a fault, or the core freezes until
it comes. -/
def execVariableLanding (g : Nat) (s : State) : Res :=
  let c := s.core g
  if isLate c then .next (holdCore s g 5)
  else
    match badArrival c with
    | some r => .next (arrivalFault s g r)
    | none => .next (landRequests s g)

/-- The landings that are due in the present cycle of a core. -/
def dueWrites (c : Core) : List Write := c.writes.filter fun w => w.due ≤ c.cycle

/-- One landing: `%sig` absorbs it, the undo log takes its unit, and the unit is written (R95, R355, R357). -/
def landOne (now : Nat) (c : Core) (w : Write) : Core :=
  applyEffect now { c with sig := absorbEffect c.sig w.eff, region := logEffect c.region w.eff } w.eff

/-- REGISTER_WRITE_LANDING (R94, R95): the writes of the present cycle land in their order. -/
def execRegisterWriteLanding (g : Nat) (s : State) : Res :=
  let c := s.core g
  let c1 := { c with writes := c.writes.filter fun w => !(w.due ≤ c.cycle) }
  .next (s.setCore g ((sortWrites (dueWrites c)).foldl (landOne s.now) c1))

/-- A routine has come to its end cycle. -/
def routineDone (c : Core) : Bool := match c.running with | some r => r.stop ≤ c.cycle | none => false

/-- ROUTINE_LANDING (R174, R175): the rows of the routine join the writes that land in this cycle, and the waiting routine
becomes the running one. -/
def execRoutineLanding (g : Nat) (s : State) : Res :=
  let c := s.core g
  match c.running with
  | some r =>
    if r.stop ≤ c.cycle then
      .next (s.setCore g { c with writes := c.writes ++ routineWritesOf c r, running := c.waiting, waiting := none })
    else .next s
  | none => .next s

/-- A routine has steps to take at the present cycle. -/
def routineSteps (c : Core) : Bool :=
  match c.running with
  | some r => r.start ≤ c.cycle && (!r.begun || (!r.ended && r.at_ ≤ c.cycle))
  | none => false

/-- The start of a routine at the present cycle, or a step of it, fails its check. -/
def routineBad (c : Core) : Bool :=
  match c.running with
  | some r =>
    let r0 := if r.begun then r else beginRoutine c r
    routineSteps c && ((startPending c r).isSome || (runSteps c c.cycle (stepFuel r0 c.cycle) r0).2.isSome)
  | none => false

/-- The length of a freeze or landing-buffer hold that is a fault: 2 ms (R361). -/
def timeoutLimit : Nat := 6000000

/-- The due cycle that a core has reached of a stream tile (R244). -/
def boardedTile (c : Core) : Option Nat :=
  c.boardings.findSome? fun b =>
    if b.stop.isNone && b.base ≤ c.cycle && 0 < b.period then some (b.base + (c.cycle - b.base) / b.period * b.period) else none

/-- The named cycle and the slot of the first request of the bundle that a landing-buffer hold keeps (R49). -/
def heldRequest (c : Core) : Option (Nat × Nat) :=
  match fetch c with
  | .ok b =>
    (bySlot (itemsOf c b)).findSome? fun it =>
      match it.instr with
      | .ok i => let (arr, k) := entriesOf i; if arr = 0 || k = 0 then none else some (c.cycle + arr, slotNum it.slot)
      | .error _ => none
  | _ => none

/-- LANDING_TIMEOUT (R361): CAUSE tells a late landing from a landing-buffer hold, ARG0 gives the cycle that the late or the held request
names, and ARG1 its slot; also where the data has come with the last cycle of the freeze. -/
def execLandingTimeout (g : Nat) (s : State) : Res :=
  let c := s.core g
  let info := fun (cause : Nat) (named : Nat) (slot rep issue baddr : Nat) =>
    ({ kind := 1, code := 0x0C, cause := cause, arg0 := BitVec.ofNat 64 named, arg1 := BitVec.ofNat 64 slot, slot := slot
       rep := rep, origin := 5, issue := issue, baddr := baddr } : FaultInfo)
  let f :=
    if c.frozenBy = 9 then
      let (named, slot) := (heldRequest c).getD (c.cycle, 7)
      info 2 named slot c.rep c.cycle c.pc
    else
      match (lateRequests c).head?, lateTile c, c.reqs.find? (·.dueAt c) with
      | some r, _, _ => info 1 r.arr r.slot r.rep r.issue r.baddr
      | none, some t, _ => info 1 t 7 c.rep c.cycle c.pc
      | none, none, some r => info 1 r.arr r.slot r.rep r.issue r.baddr
      | none, none, none => info 1 ((boardedTile c).getD c.cycle) 7 c.rep c.cycle c.pc
  .next ((takeFault s g f).updCore g fun c => { c with frozen := 0, frozenBy := 0 })

/-! ## Which core steps next (R47, R345, R346) -/

/-- Where a launch stands for a step of one of its cores: it runs; or it has been stopped in this reference cycle before any of
its cores issues, or after one has. -/
inductive Standing where
  | runs | faults | issues | no
deriving DecidableEq, Repr

/-- The standing of a core: none for a core that has its record, or that has taken its turn, or that waits for the end of a rollback with a
fault of its cycle (R359). -/
def standing (s : State) (g : Nat) : Standing :=
  let c := s.core g
  match c.launch with
  | none => .no
  | some l =>
    match s.launch? l with
    | none => .no
    | some x =>
      let told := x.stops.any fun r => r.g == g && r.answer.isNone
      if !c.started || c.halted || s.now < c.turn then .no
      else if x.state = .running then (if c.rerun.isNone && c.later.any fun f => f.1.ofCycle then .no else .runs)
      else if x.state = .stopped && x.stopAt = s.now && !told then
        (if x.stopWay = 1 then .faults else if x.stopWay = 2 then .issues else .no)
      else .no

/-- The region of a rerun ends here: at a commit point after its checkpoint, or where the first rerun ended (R358). -/
def rerunEnds (s : State) (g : Nat) (b : Bundle) : Bool :=
  let c := s.core g
  match c.rerun, s.checkpoints.find g with
  | some r, some (p :: _) =>
    let wait := waits c b && !flagReady c b.head
    (p.cycle < c.cycle && (wait || commitDue c b (instrsOf (itemsOf c b)))) || (r.run = 2 && r.cyc1 = c.cycle - p.cycle)
  | _, _ => false

/-- What a core does in its cycle before it issues: landings, the steps of a routine, the end of its wait. A step that raises a
fault is left until every core of the module has come so far; a core that is late or waits is charged only after the faults of the
cycle, which come before its cause in the table of R48. -/
def landingStep (s : State) (g : Nat) : Option Instr :=
  let c := s.core g
  if standing s g != .runs || timeoutLimit ≤ c.frozen || isLate c then none
  else if (badArrival c).isSome then none
  else if c.reqs.any (·.dueAt c) then some (.variableLanding g)
  else if routineDone c then some (.routineLanding g)
  else if !(dueWrites c).isEmpty then some (.registerWriteLanding g)
  else if routineSteps c then (if routineBad c then none else some (.routineStart g))
  else
    match fetch c with
    | .ok b =>
      if rerunEnds s g b then some (.rollbackRerunEnd g)
      else if waits c b && flagReady c b.head then some (.waitEvaluation g)
      else none
    | _ => none

/-- The header wait of the bundle at the program counter holds the core (R87). -/
def heldByWait (c : Core) : Bool :=
  match fetch c with
  | .ok b => waits c b
  | _ => false

/-- The repetition that a core is to issue fails a check of step 3. -/
def issueBad (s : State) (g : Nat) : Bool :=
  let c := s.core g
  !c.skip && !isLate c && !heldByWait c &&
    match fetch c with
    | .stall => false
    | .absent => true
    | .ok b =>
      let items := itemsOf c b
      let s1 := prepare s g b
      holdCause s1 (instrsOf items) = 0 && (stepCheck s1 b items).isSome

/-- The step of a core that raises a fault in its cycle: one that it has met, or one of its own cycle (R345), which in a rerun ends the
region. -/
def faultingStep (s : State) (g : Nat) : Option Instr :=
  let c := s.core g
  let st := standing s g
  if hasMet s g then some (.copyElement g 2)
  else if st != .runs && st != .faults then none
  else
    let i : Option Instr :=
      if timeoutLimit ≤ c.frozen then some (.landingTimeout g)
      else if !isLate c && (badArrival c).isSome then some (.variableLanding g)
      else if !isLate c && routineBad c then some (.routineStart g)
      else if issueBad s g then some (.bundleIssue g)
      else none
    match i with
    | some i => some (if c.rerun.isSome then .rollbackRerunEnd g else i)
    | none => none

/-- A core issues, or is held: by a late landing, by its wait, or as its repetition finds. -/
def issuingStep (s : State) (g : Nat) : Option Instr :=
  let c := s.core g
  let i : Instr := if isLate c then .variableLanding g else if heldByWait c then .waitEvaluation g else .bundleIssue g
  match standing s g with
  | .runs => some i
  | .issues => some i
  | _ => none

/-- The next step of a core in this reference cycle: every core lands first, then every fault of the cycle is raised, in ascending
core number, and then the cores issue. A device that is down runs no core (R402). -/
def coreStepNow (s : State) : Option Instr :=
  let gs := if s.up then s.cores.map (·.1) else []
  match gs.findSome? (landingStep s) with
  | some i => some i
  | none =>
    match gs.findSome? (faultingStep s) with
    | some i => some i
    | none => gs.findSome? (issuingStep s)

/-- A request for HBM at its calendar position: it comes after the issues of the cycle, whose requests have a part in the position
(R277). -/
def isSend (i : Instr) : Bool := match i with | .hbmRequestSend _ => true | _ => false

/-- Some core has still to issue in this reference cycle. -/
def toIssue (s : State) : Bool := s.up && s.cores.any fun (g, _) => (issuingStep s g).isSome

/-- The first due step of an agenda that satisfies a test, and the agenda without it. -/
def takeDue (now : Nat) (p : Instr → Bool) : List (Nat × Nat × Instr) → Option (Instr × List (Nat × Nat × Instr))
  | [] => none
  | (t, k, i) :: rest =>
    if now < t then none
    else if p i then some (i, rest)
    else (takeDue now p rest).map fun (j, r) => (j, (t, k, i) :: r)

/-- The next step at the present reference cycle, with the state in which it is taken: a step of the agenda that is due, or a core's; the
sends of a calendar position come after every issue of the cycle (R277; DEDUCED, log entry 1). -/
def nextNow (s : State) : Option (Instr × State) :=
  match s.agenda with
  | (t, _, i) :: rest =>
    if s.now < t then (coreStepNow s).map fun i => (i, s)
    else if isSend i && toIssue s then
      match takeDue s.now (fun j => !isSend j) rest with
      | some (j, r) => some (j, { s with agenda := s.agenda.take 1 ++ r })
      | none => (coreStepNow s).map fun i => (i, s)
    else some (i, { s with agenda := rest })
  | [] => (coreStepNow s).map fun i => (i, s)

/-- The reference cycle of the next step. -/
def nextTime (s : State) : Nat :=
  let turns := s.cores.filterMap fun (g, c) => if standing { s with now := Nat.max s.now c.turn } g = .runs then some c.turn else none
  let first := match s.agenda with | (t, _, _) :: _ => some t | [] => none
  match (first.toList ++ turns) with
  | [] => s.now
  | t :: ts => Nat.max s.now (ts.foldl Nat.min t)

/-- Device time and the domain count go on to the next step (R319, R392). -/
def advanceTime (s : State) : State :=
  let t := nextTime s
  { s with now := t, domCount := s.domCount + (t - s.now) }

end Sys2Proof.Machine
end

