-- ==== Sys2Proof/Machine/Links.lean ====
section
/-!
DEFINITION. Xehan links: flits and their replay (R384, R387), control messages, lanes and sparing (R385, R388), packets and the
compressor (R386, R390, R391), what other devices ask for and answer (R382, R383), links that go down (R389), and the link
schedule (R377, R392).
-/
namespace Sys2Proof.Machine

/-- The number of links of the module. -/
def moduleLinks : Nat := 24

/-! ## Flits (R384) -/

/-- One byte of CRC-64 with the ECMA-182 polynomial, most significant bit first. -/
def crc64Byte (c : BitVec 64) (b : Byte) : BitVec 64 :=
  (List.range 8).foldl (fun (x : BitVec 64) _ => if x.getLsbD 63 then (x <<< 1) ^^^ 0x42F0E1EBA9EA3693#64 else x <<< 1)
    (c ^^^ ((b.setWidth 64) <<< 56))

/-- The CRC of a run of bytes (R384). -/
def crc64 (bs : List Byte) : BitVec 64 := bs.foldl crc64Byte 0

/-- Bits of a flit from bit `lo`. -/
def flitBits (x : BitVec 1792) (lo n : Nat) : Nat := x.toNat / 2 ^ lo % 2 ^ n

/-- R384: SEQ. -/
def flitSeq (x : BitVec 1792) : Nat := flitBits x 116 12
/-- R384: ACKSEQ. -/
def flitAck (x : BitVec 1792) : Nat := flitBits x 104 12
/-- R384: ACKV. -/
def flitAckV (x : BitVec 1792) : Bool := x.getLsbD 103
/-- R384: NAK. -/
def flitNak (x : BitVec 1792) : Bool := x.getLsbD 102
/-- R384: KIND. -/
def flitKind (x : BitVec 1792) : Nat := flitBits x 100 2
/-- R384: PKT. -/
def flitPkt (x : BitVec 1792) : Nat := flitBits x 96 4
/-- R384: the 192 bytes of the payload. -/
def flitPayload (x : BitVec 1792) : List Byte := leBytes 192 (flitBits x 128 1536)
/-- The CRC that a flit should carry: over bytes 0 to 207. -/
def flitCrc (x : BitVec 1792) : BitVec 64 := crc64 (leBytes 208 x.toNat)
/-- The CRC field of a flit agrees with its bytes. -/
def flitGood (x : BitVec 1792) : Bool := (flitCrc x).toNat == flitBits x 1664 64

/-- A flit without its acknowledgment fields and CRC. -/
def bareFlit (seq kind pkt : Nat) (payload : List Byte) (beacon : Nat) : BitVec 1792 :=
  BitVec.ofNat 1792 (seq * 2 ^ 116 + kind * 2 ^ 100 + pkt * 2 ^ 96 + leNat payload % 2 ^ 1536 * 2 ^ 128 + beacon % 2 ^ 64 * 2 ^ 1728)

/-- A flit as it leaves: it acknowledges the last flit received in order, asks for a replay when one is due, and has its
CRC (R384, R387). -/
def stampFlit (k : Link) (x : BitVec 1792) : BitVec 1792 :=
  let y := BitVec.ofNat 1792 (x.toNat + (k.seqIn + 4095) % 4096 * 2 ^ 104 + (if k.ackIn then 2 ^ 103 else 0) +
    (if k.nakDue then 2 ^ 102 else 0))
  BitVec.ofNat 1792 (y.toNat + (flitCrc y).toNat * 2 ^ 1664)

/-- SEQ `a` lies at or after `b`, modulo 4,096. -/
def seqFrom (b a : Nat) : Bool := (a + 4096 - b) % 4096 < 2048

/-! ## The compressor (R391) -/

/-- The 64-byte chunks of a run of bytes, of `n` chunks. -/
def chunksOf : Nat → List Byte → List (List Byte)
  | 0, _ => []
  | n + 1, bs => bs.take 64 :: chunksOf n (bs.drop 64)

/-- The 32-bit words of a chunk. -/
def chunkWords (c : List Byte) : List (List Byte) := (List.range 16).map fun i => (c.drop (4 * i)).take 4

/-- A word is not zero. -/
def nonZero (w : List Byte) : Bool := w.any (· != 0)

/-- A chunk as it travels: the map of its words that are not zero, then those words (R391). -/
def compressChunk (c : List Byte) : List Byte :=
  let ws := chunkWords c
  let map := (List.range 16).foldl (fun n i => if nonZero (ws.getD i []) then n + 2 ^ i else n) 0
  leBytes 2 map ++ (ws.filter nonZero).flatten

/-- The compressed form of data (R391). -/
def compressData (data : List Byte) : List Byte := (chunksOf (data.length / 64) data).flatMap compressChunk

/-- The words of a chunk restored from its map and the words that follow it; and the bytes after them. -/
def expandWords (map : Nat) : Nat → List Byte → Option (List Byte × List Byte)
  | 0, bs => some ([], bs)
  | n + 1, bs =>
    let i := 15 - n
    if map.testBit i then
      if bs.length < 4 then none
      else (expandWords map n (bs.drop 4)).map fun (d, r) => (bs.take 4 ++ d, r)
    else (expandWords map n bs).map fun (d, r) => (List.replicate 4 0 ++ d, r)

/-- `n` chunks restored, and the bytes after them; none when bytes are still to come (R391). -/
def expandData : Nat → List Byte → Option (List Byte × List Byte)
  | 0, bs => some ([], bs)
  | n + 1, bs =>
    if bs.length < 2 then none
    else
      match expandWords (leNat (bs.take 2)) 16 (bs.drop 2) with
      | none => none
      | some (c, r) => (expandData n r).map fun (d, r2) => (c ++ d, r2)

/-! ## Packets (R386) -/

/-- The header of a packet (R386). -/
def packetHeader (p : Packet) (cmp : Bool) : List Byte :=
  leBytes 16 (p.type % 16 * 2 ^ 124 + (if cmp then 2 ^ 123 else 0) + p.len % 2048 * 2 ^ 112 + p.srcDev % 512 * 2 ^ 103 +
    p.dstDev % 512 * 2 ^ 94 + p.srcCore % 256 * 2 ^ 86 + p.cls % 16 * 2 ^ 82 + p.reqId % 65536 * 2 ^ 66 + p.aop % 8 * 2 ^ 63 +
    (if p.psn then 2 ^ 62 else 0) + p.addr % 2 ^ 41)

/-- The compressor takes a packet: LEN is a multiple of 64 that is not zero and the compressed form is smaller (R390). -/
def shrinks (p : Packet) : Bool :=
  p.len != 0 && p.len % 64 == 0 && p.type != 0 && decide ((compressData p.data).length < p.len)

/-- The bytes of a packet (R386, R390). -/
def packetBytes (p : Packet) (on : Bool) : List Byte :=
  let cmp := on && shrinks p
  packetHeader p cmp ++ (if cmp then compressData p.data else p.data)

/-- What the bytes of a payload hold at a packet boundary. -/
inductive Parsed where
  | more                     -- the packet continues in the next data flit
  | none_                    -- no packet begins here
  | bad                      -- a malformed packet
  | packet (p : Packet) (rest : List Byte)

/-- The bytes that fill a packet up to a 16-byte boundary. -/
def padOf (n : Nat) : Nat := (16 - n % 16) % 16

/-- Read a packet (R386). A unit of zeros is no packet. -/
def parsePacket (bs : List Byte) : Parsed :=
  if bs.length < 16 then .more
  else
    let h := leNat (bs.take 16)
    let field := fun (lo n : Nat) => h / 2 ^ lo % 2 ^ n
    let ty := field 124 4
    let cmp := h.testBit 123
    let len := field 112 11
    if h = 0 then .none_
    else if 6 ≤ ty || field 41 21 ≠ 0 || 1024 < len || (cmp && (len = 0 || len % 64 ≠ 0 || ty = 0)) then .bad
    else
      let body := bs.drop 16
      let data := if cmp then expandData (len / 64) body
        else if body.length < dataLen ty len then none else some (body.take (dataLen ty len), body.drop (dataLen ty len))
      match data with
      | none => .more
      | some (d, rest) =>
        let pad := padOf (bs.length - rest.length)
        .packet { type := ty, len := len, srcDev := field 103 9, dstDev := field 94 9, srcCore := field 86 8, cls := field 82 4
                  reqId := field 66 16, aop := field 63 3, psn := h.testBit 62, addr := field 0 41, data := d } (rest.drop pad)

/-- The packets of a run of payload bytes, the bytes of one that continues, and whether a malformed packet was found. -/
def parsePackets : Nat → List Byte → List Packet × List Byte × Bool
  | 0, _ => ([], [], false)
  | n + 1, bs =>
    match parsePacket bs with
    | .more => ([], bs, false)
    | .none_ => ([], [], false)
    | .bad => ([], [], true)
    | .packet p rest =>
      let (ps, r, b) := parsePackets n rest
      (p :: ps, r, b)

/-! ## Building a flit (R384, R390, R392) -/

/-- The compressor of a queue as a packet's first flit is built: on at 64 flits or more (R390). -/
def compressorAt (k : Link) (f : Nat) : Bool := decide (64 ≤ flitsOf (Table.get [] k.queues f)) || Table.get false k.compress f

/-- A packet has left a queue: those that wait for room join it, and the compressor turns off at 16 flits or fewer (R390). -/
def leaveQueue (f : Nat) (k : Link) : Link :=
  let k1 := refill f (Table.get [] k.waiting f) k
  if flitsOf (Table.get [] k1.queues f) ≤ 16 then { k1 with compress := Table.put k1.compress f false } else k1

/-- Fill a payload with packets of a function, from the bytes it holds: the payload, the unit at which the first packet begins,
and the link with the bytes that do not fit. -/
def fillPayload (f : Nat) : Nat → Link → List Byte → Nat → Link × List Byte × Nat
  | 0, k, acc, first => (k, acc, first)
  | n + 1, k, acc, first =>
    let at_ := acc ++ List.replicate (padOf acc.length) 0
    if 192 ≤ at_.length then (k, acc, first)
    else
      match Table.get [] k.queues f with
      | [] => (k, acc, first)
      | o :: rest =>
        let on := compressorAt k f
        let all := at_ ++ packetBytes o.pkt on
        let k1 := leaveQueue f { k with
          queues := Table.put k.queues f rest, compress := Table.put k.compress f on, outParts := Table.put k.outParts f (all.drop 192) }
        fillPayload f n k1 (all.take 192) (if first = 15 then at_.length / 16 else first)

/-- The bytes of a function's packet in transmission that have not left. -/
def outPart (k : Link) (f : Nat) : List Byte := Table.get [] k.outParts f

/-- A function has something to send on a link: the rest of a packet, or a packet of its queue. Another function's packet in
transmission keeps none of its positions from it (R370). -/
def canSend (k : Link) (f : Nat) : Bool := !(outPart k f).isEmpty || !(Table.get [] k.queues f).isEmpty

/-- A data flit of a function: KIND, PKT and payload. -/
def dataFlit (k : Link) (f : Nat) : Link × Nat × Nat × List Byte :=
  let part := (outPart k f).take 192
  let k1 := { k with outParts := Table.put k.outParts f ((outPart k f).drop 192) }
  if (outPart k1 f).isEmpty then
    let (k2, bytes, first) := fillPayload f 13 k1 part 15
    (k2, 0, first, bytes)
  else (k1, 0, 15, part)

/-- A control message as it leaves: ALIGN and ALIGNACK take the domain count (R385). -/
def stampMessage (count : Nat) (m : BitVec 128) : BitVec 128 :=
  let ty := m.toNat / 2 ^ 120
  if ty = 3 || ty = 4 then BitVec.ofNat 128 (m.toNat / 2 ^ 64 * 2 ^ 64 + count % 2 ^ 64) else m

/-- A control flit of up to twelve messages (R385). -/
def controlFlit (k : Link) (count : Nat) : Link × Nat × Nat × List Byte :=
  ({ k with control := k.control.drop 12 }, 1, 15, (k.control.take 12).flatMap fun m => leBytes 16 (stampMessage count m).toNat)

/-- The position of the rotation at a domain count (R392). -/
def rotationPos (count : Nat) : Nat := count / 6 % 256

/-- The flit that a link sends at a position (R384, R392): the owner's packets first; otherwise control messages and service
traffic; otherwise an idle flit. Before alignment, of this device or of the one at the other end, control flits only. -/
def chooseFlit (s : State) (l : Nat) (k : Link) : Link × Nat × Nat × List Byte :=
  let owner := Table.get 255 s.lschedNow (l * 256 + rotationPos s.domCount)
  if !s.aligned || k.apart then controlFlit k s.domCount
  else if owner < 64 && canSend k owner then dataFlit k owner
  else if !k.control.isEmpty then controlFlit k s.domCount
  else if canSend k 64 then dataFlit k 64
  else (k, 2, 15, [])

/-- A control flit as it leaves again: its messages and its BEACON have the domain count of that moment (R384, R385). -/
def renewFlit (count : Nat) (x : BitVec 1792) : BitVec 1792 :=
  if flitKind x = 1 then
    bareFlit (flitSeq x) 1 15 ((List.range 12).flatMap fun i =>
      leBytes 16 (stampMessage count (BitVec.ofNat 128 (flitBits x (128 + 128 * i) 128))).toNat) count
  else x

/-- A link's direction at a flit time: a flit to be replayed, or a new one, of which at most 512 may stand unacknowledged
(R384, R387). -/
def sendFlit (s : State) (l : Nat) (k : Link) : Link :=
  match k.replay with
  | x :: rest => { k with replay := rest, last := some (stampFlit k (renewFlit s.domCount x)), nakDue := false }
  | [] =>
    if 512 ≤ k.unacked.length then { k with last := none }
    else
      let (k1, kind, pkt, payload) := chooseFlit s l k
      let x := bareFlit k.seqOut kind pkt payload (if kind = 1 then s.domCount else 0)
      { k1 with last := some (stampFlit k x), nakDue := false, seqOut := (k.seqOut + 1) % 4096, unacked := k.unacked ++ [(k.seqOut, x)] }

/-- The reference cycles of silence after which a link goes down: 10 µs (R389). -/
def silence : Nat := 30000

/-- A link at a flit time. -/
def linkFlitTime (s : State) (l : Nat) : State :=
  let k := s.link l
  if !k.up then s
  else
    let s1 := { s with links := Table.put s.links l (sendFlit s l k) }
    let s2 := match k.spareAt with
      | some a => if k.heard && seqFrom a k.seqOut then s1.dueOnce s.now 20 (.laneSpareSwitch l) else s1
      | none => s1
    if k.lastFlit + silence ≤ s.now then s2.dueOnce s.now 20 (.linkSilenceTimeout l) else s2

/-- FLIT_TIME (R384): every 6 reference cycles each direction of a link sends one flit. -/
def execFlitTime (s : State) : Res :=
  .next (((List.range moduleLinks).foldl linkFlitTime s).due (s.now + 6) 0 .flitTime)

/-! ## The link schedule (R377, R392) -/

/-- The written schedules take effect at the first rotation that begins at or after the domain count in LSCHEDAT; a rotation
that has begun keeps its schedule. -/
def planSchedule (s : State) : State :=
  let at_ := (Nat.max (s.domCount + 1) s.lschedAt + 1535) / 1536 * 1536
  (s.undue fun i => i == .linkScheduleActivate).due (s.now + (at_ - s.domCount)) 0 .linkScheduleActivate

/-- LINK_SCHEDULE_ACTIVATE (R377). -/
def execLinkScheduleActivate (s : State) : Res := .next { s with lschedNow := s.lsched }

/-! ## Links that go down (R389) -/

/-- A control message (R385). -/
def message (ctype lane slane atseq reason : Nat) : BitVec 128 :=
  BitVec.ofNat 128 (ctype * 2 ^ 120 + lane * 2 ^ 117 + slane * 2 ^ 114 + atseq * 2 ^ 102 + reason * 2 ^ 96)

/-- A control message joins those to send. -/
def sendControl (s : State) (l : Nat) (m : BitVec 128) : State := s.updLink l fun k => { k with control := k.control ++ [m] }

/-- A request outstanding for which a route has no link left (R389). -/
def failRemote (s : State) (r : Remote) : State :=
  match s.accesses.find r.access with
  | none => s
  | some x => match x.pieces[r.piece]? with
    | some p => failPiece s r.access x r.piece p
    | none => s

/-- A request outstanding on a link that has gone down is sent again on another (R389). -/
def rerouteRemote (l : Nat) (s : State) (e : Nat × Remote) : State :=
  let (id, r) := e
  if r.link ≠ l then s
  else
    match linkFor s r.dev with
    | some k => queuePacket { s with remotes := s.remotes.put id { r with link := k } } k r.func r.pkt
    | none => failRemote { s with remotes := s.remotes.del id } r

/-- An answer waiting on a link that has gone down goes by another link; with none it is lost, and its request comes again. -/
def rerouteReply (s : State) (o : OutPacket) : State :=
  if o.pkt.type < 3 then s
  else match linkFor s o.pkt.dstDev with | some k => queuePacket s k o.func o.pkt | none => s

/-- The traffic of a link uses the other links: requests outstanding on it, and answers that wait to go (R389). -/
def leaveLink (s : State) (l : Nat) (k : Link) : State :=
  let s1 := s.remotes.foldl (rerouteRemote l) s
  (k.queues ++ k.waiting).foldl (fun st e => e.2.foldl rerouteReply st) s1

/-- A link goes down: event 7 is reported, and its traffic uses the other links (R389, R401). -/
def takeDown (s : State) (l reason : Nat) (announce : Bool) : State :=
  let k := s.link l
  if !k.up then s
  else
    let x := bareFlit k.seqOut 1 15 (leBytes 16 (message 5 0 0 0 reason).toNat) s.domCount
    let down := { Link.reset with
      up := false, lanesFailed := k.lanesFailed, spareUsed := k.spareUsed, last := if announce then some (stampFlit k x) else none }
    healthEvent (leaveLink { s with links := Table.put s.links l down } l k) 7 0xFF l [BitVec.ofNat 64 reason]

/-- The device at the other end of a link has been reset: until its domain count is aligned its traffic goes round the link as round one
that is down, and control flits alone use it (R392). -/
def goRound (s : State) (l : Nat) : State :=
  let k := s.link l
  if k.apart then s
  else
    let s1 := { s with links := Table.put s.links l { k with apart := true, queues := [], waiting := [], outParts := [], inParts := [] } }
    leaveLink s1 l k

/-- LINK_DOWN (R385, R389): DOWN is sent first when the cause still allows a flit to pass. -/
def execLinkDown (l reason : Nat) (s : State) : Res := .next (takeDown s l reason (Config.flitPasses s.fresh)).tick

/-- LINK_SILENCE_TIMEOUT (R389): no flit has passed for 10 µs. -/
def execLinkSilenceTimeout (l : Nat) (s : State) : Res :=
  let k := s.link l
  .next (if k.up && k.lastFlit + silence ≤ s.now then s.due s.now 21 (.linkDown l 3) else s)

/-! ## Lanes (R388) -/

/-- This end announces the flit at which its transmitter moves to the spare lane. -/
def announceSpare (s : State) (l ctype lane slane : Nat) : State :=
  let k := s.link l
  let at_ := (k.seqOut + 1 + Config.spareAhead s.fresh % 512) % 4096
  (sendControl (s.updLink l fun k => { k with lanesFailed := k.lanesFailed ++ [lane], spareUsed := true, spareAt := some at_ }) l
    (message ctype lane slane at_ 0)).tick

/-- LANE_FAILED (R388, R389): the two ends move the lane's traffic to the spare lane; with no free spare the link goes down. A lane
that carries nothing is only noted. -/
def execLaneFailed (l lane : Nat) (s : State) : Res :=
  let k := s.link l
  if !k.up || k.lanesFailed.contains lane then .next s
  else if lane = 4 && !k.spareUsed then .next (s.updLink l fun k => { k with lanesFailed := k.lanesFailed ++ [lane], spareUsed := true })
  else if k.spareUsed then .next ((s.updLink l fun k => { k with lanesFailed := k.lanesFailed ++ [lane] }).due s.now 21 (.linkDown l 1))
  else .next (announceSpare s l 1 lane 4)

/-- LANE_SPARE_SWITCH (R385, R388): each direction moves at its announced flit; when both have moved, event 6 is reported. -/
def execLaneSpareSwitch (l : Nat) (s : State) : Res :=
  let k := s.link l
  let out := match k.spareAt with | some a => if k.heard && seqFrom a k.seqOut then none else some a | none => none
  let into := match k.switchAt with | some a => if seqFrom a k.seqIn then none else some a | none => none
  let was := k.spareAt.isSome || k.switchAt.isSome
  let done := was && out.isNone && into.isNone && k.heard
  let s1 := s.updLink l fun k => { k with spareAt := out, switchAt := into, heard := k.heard && !done }
  .next (if done then healthEvent s1 6 0xFF l [BitVec.ofNat 64 (k.lanesFailed.getLastD 0)] else s1)

/-! ## Control messages (R385) -/

/-- A control message sets a reserved type or a reserved bit. -/
def messageBad (m : BitVec 128) : Bool :=
  let n := m.toNat
  6 ≤ n / 2 ^ 120 || n / 2 ^ 64 % 2 ^ 32 ≠ 0

/-- The step that acts on a control message. -/
def messageStep (m : BitVec 128) : Option Instr :=
  match m.toNat / 2 ^ 120 with
  | 1 => some .spare
  | 2 => some .spareAck
  | 3 => some .align
  | 4 => some .alignAck
  | 5 => some .down
  | _ => none

/-- The oldest control message received: its link, and the message. -/
def takeControl (s : State) : Option (Nat × BitVec 128 × State) :=
  match s.ctlIn with
  | [] => none
  | (l, m) :: rest => some (l, m, { s with ctlIn := rest })

/-- A field of a control message. -/
def msgField (m : BitVec 128) (lo n : Nat) : Nat := m.toNat / 2 ^ lo % 2 ^ n

/-- The other end has announced its flit. -/
def hearSpare (s : State) (l : Nat) (m : BitVec 128) : State :=
  s.updLink l fun k => { k with heard := true, switchAt := some (msgField m 102 12) }

/-- SPARE (R385): the other end names its ATSEQ, and this end answers with its own. -/
def execSpare (s : State) : Res :=
  match takeControl s with
  | none => .next s
  | some (l, m, s1) => .next (announceSpare (hearSpare s1 l m) l 2 (msgField m 117 3) (msgField m 114 3))

/-- SPAREACK (R385). -/
def execSpareAck (s : State) : Res :=
  match takeControl s with
  | none => .next s
  | some (l, m, s1) => .next (hearSpare s1 l m)

/-- A device that is not yet aligned takes its neighbour's domain count: the count as the flit left, and the latency of the
link since then (R385, R392). -/
def takeCount (s : State) (l : Nat) (m : BitVec 128) : State :=
  if s.aligned then s
  else
    let s1 := { s with domCount := msgField m 0 64 + Config.linkLatency l, aligned := true }
    if s1.lsched != s1.lschedNow then planSchedule s1 else s1

/-- ALIGN (R385): it comes from a device at its bring-up, whose domain count is not aligned. An aligned device answers it with ALIGNACK,
and goes round that link until the other end is aligned (R392; DEDUCED, log entry 116). -/
def execAlign (s : State) : Res :=
  match takeControl s with
  | none => .next s
  | some (l, _, s1) =>
    if s1.aligned then .next (sendControl (goRound s1 l) l (message 4 0 0 0 0)) else .next s1

/-- ALIGNACK (R385, R392): the answer of an aligned neighbour, whose domain count a device that is not yet aligned takes. -/
def execAlignAck (s : State) : Res :=
  match takeControl s with
  | none => .next s
  | some (l, m, s1) => .next (takeCount s1 l m)

/-- DOWN (R385, R389): the other end takes the link down. -/
def execDown (s : State) : Res :=
  match takeControl s with
  | none => .next s
  | some (l, m, s1) => .next (takeDown s1 l (msgField m 96 6) false)

/-! ## Receiving a flit (R387) -/

/-- The step that serves a packet. -/
def packetStep (ty : Nat) : Instr :=
  match ty with
  | 0 => .linkRead
  | 1 => .linkWrite
  | 2 => .linkAtomic
  | 3 => .readReply
  | 4 => .writeAcknowledgment
  | _ => .atomicReply

/-- The order of a packet's step in its reference cycle: plain requests before every atomic, then atomics and answers by link (R222). -/
def packetKey (l ty : Nat) : Nat := if ty < 2 then keyLinkPlain l else keyLink l

/-- A packet has been received: it is looked at in this reference cycle, in ascending link number (R222, R383). -/
def receivePacket (l : Nat) (s : State) (p : Packet) : State :=
  let (id, s1) := s.newId
  { s1 with pktIn := s1.pktIn.put id { link := l, pkt := p, due := s.now, tfunc := none, lines := [], got := [], psn := false } }.due s.now
    (packetKey l p.type) (packetStep p.type)

/-- The control messages of a flit are acted on in their order. -/
def receiveMessages (l : Nat) : List (BitVec 128) → State → State
  | [], s => s
  | m :: rest, s =>
    if messageBad m then s.due s.now 21 (.linkDown l 2)
    else
      match messageStep m with
      | some i => receiveMessages l rest ({ s with ctlIn := s.ctlIn ++ [(l, m)] }.due s.now 19 i)
      | none => receiveMessages l rest s

/-- The bytes of a data flit in which to look for packets, and the packets that continue elsewhere: a flit whose first packet does not begin
at unit 0 goes on with the packet continued longest ago (R384; DESIGN CHOICE, log entry 115). -/
def flitBytes (k : Link) (x : BitVec 1792) : List Byte × List (List Byte) :=
  match k.inParts with
  | [] => (if flitPkt x = 15 then [] else (flitPayload x).drop (16 * flitPkt x), [])
  | part :: rest => if flitPkt x = 0 then (flitPayload x, part :: rest) else (part ++ flitPayload x, rest)

/-- What an accepted flit carries (R384 to R386). A flit of a kind other than control comes from a device whose domain count is aligned
(R392). -/
def openFlit (s0 : State) (l : Nat) (x : BitVec 1792) : State :=
  let s := if flitKind x = 1 then s0 else s0.updLink l fun k => { k with apart := false }
  match flitKind x with
  | 0 =>
    let (bytes, others) := flitBytes (s.link l) x
    let (ps, rest, bad) := parsePackets 13 bytes
    let parts := if rest.isEmpty then others else others ++ [rest]
    let s1 := ps.foldl (receivePacket l) (s.updLink l fun k => { k with inParts := parts })
    if bad then s1.due s.now 21 (.linkDown l 2) else s1
  | 1 => receiveMessages l ((List.range 12).map fun i => BitVec.ofNat 128 (flitBits x (128 + 128 * i) 128)) s
  | 2 => s
  | _ => s.due s.now 21 (.linkDown l 2)

/-- The flits that an acknowledgment leaves unacknowledged. One that names no such flit changes nothing. -/
def ackFlits (k : Link) (ack : Nat) : List (Nat × BitVec 1792) :=
  if k.unacked.any fun (q, _) => q == ack then (k.unacked.dropWhile fun (q, _) => q != ack).drop 1 else k.unacked

/-- The acknowledgment of a flit is taken, and a NAK replays what is left (R387). -/
def takeAck (k : Link) (x : BitVec 1792) : Link :=
  let k1 := if flitAckV x then { k with unacked := ackFlits k (flitAck x) } else k
  if flitNak x then { k1 with replay := k1.unacked.map (·.2) } else k1

/-- A link that is down, but not for its lanes, is trained again when the device at its other end comes to its bring-up: its first flit is a
control flit with ALIGN (R392, R406; DEDUCED, log entry 116). -/
def trains (k : Link) (x : BitVec 1792) : Bool :=
  !k.up && k.lanesFailed.length ≤ 1 && flitGood x && flitKind x == 1 && flitSeq x == 0 &&
    (List.range 12).any fun i => flitBits x (128 + 128 * i + 120) 8 == 3

/-- A link after training: its lanes stay as they are. -/
def trainLink (s : State) (l : Nat) : State :=
  s.updLink l fun k => { Link.reset with lanesFailed := k.lanesFailed, spareUsed := k.spareUsed, lastFlit := s.now }

/-- FLIT_RECEIVE (R387): a flit whose CRC is correct and whose SEQ is the next expected is accepted; another is discarded, and
unless it repeats one accepted before, a NAK is sent. -/
def execFlitReceive (l : Nat) (flit : BitVec 1792) (s0 : State) : Res :=
  let s := if trains (s0.link l) flit && l < moduleLinks then trainLink s0 l else s0
  let k := s.link l
  if !k.up || moduleLinks ≤ l then .next s
  else if !flitGood flit then .next (s.updLink l fun k => { k with nakDue := true })
  else
    let k1 := { takeAck k flit with lastFlit := s.now }
    let s1 := { s with links := Table.put s.links l k1 }
    if flitSeq flit = k.seqIn then
      let s2 := s1.updLink l fun k => { k with seqIn := (k.seqIn + 1) % 4096, ackIn := true }
      let s3 := if k.switchAt = some (flitSeq flit) then s2.dueOnce s.now 20 (.laneSpareSwitch l) else s2
      .next (openFlit s3 l flit)
    else if seqFrom k.seqIn (flitSeq flit) then .next (s1.updLink l fun k => { k with nakDue := true })
    else .next s1

/-! ## What other devices ask for (R377, R382) -/

/-- A range lies wholly in data parts of a function's sets or in its scratchpads (R377). -/
def rangeOfFunc (s : State) (f base len : Nat) : Bool :=
  let w := (s.func f).word 0
  if isHbm base then
    match setOf s base with
    | some (g, mask, o) => w.getLsbD (24 + g) && o + len ≤ (groupsOf mask).length * 0x700000000
    | none => false
  else
    isScratch base && base + len ≤ scratchBase + 24 * 0x1000000 &&
      (List.range 24).all fun h => !overlap (scratchBase + h * 0x1000000) 0x1000000 base len || w.getLsbD h

/-- An entry of the export table (R377). -/
structure Export where
  base : Nat
  len : Nat
  sdev : Nat
  sfunc : Nat
  tfunc : Nat
  rw : Bool
deriving DecidableEq, Repr

/-- The entry that words give, if it is valid (R377). -/
def exportOf (s : State) (ws : List Word) : Option Export :=
  let w := fun k => ws.getD k 0
  let e : Export :=
    { base := (bits (w 0) 0 41).toNat, len := (bits (w 1) 0 41).toNat, sdev := (bits (w 2) 0 9).toNat
      sfunc := (bits (w 2) 9 6).toNat, tfunc := (bits (w 2) 15 6).toNat, rw := (w 2).getLsbD 21 }
  if (w 0).getLsbD 63 && e.base % 64 = 0 && e.len % 64 = 0 && rangeOfFunc s e.tfunc e.base e.len then some e else none

/-- The place of an open value of a link request among the open values: its own, whatever other requests there are. -/
def linkPlace (s : State) (x : InPacket) : Nat := 2 ^ 100 + (s.now * 32 + x.link) * 2 ^ 20 + x.pkt.reqId * 16

/-- The entry that lets an access in: its range, source and rights (R382). -/
def admits (s : State) (x : InPacket) (write : Bool) : Option Export :=
  let p := x.pkt
  let src := (Config.sourceFunc p.srcDev p.srcCore (linkPlace s x)).toNat
  s.exports.findSome? fun (_, ws) =>
    match exportOf s ws with
    | some e =>
      if e.sdev = p.srcDev && e.sfunc = src && (e.rw || !write) && e.base ≤ p.addr && p.addr + Nat.max p.len 1 ≤ e.base + e.len then
        some e
      else none
    | none => none

/-- The packet of a type that is to be looked at: of those due, the lowest link first, and of one link the oldest. -/
def takePacket (s : State) (ty : Nat) : Option (Nat × InPacket) :=
  (s.pktIn.filter fun (_, x) => x.due ≤ s.now && x.pkt.type == ty).foldl (fun (b : Option (Nat × InPacket)) e =>
    match b with
    | none => some e
    | some o => if e.2.link < o.2.link then some e else some o) none

/-- An answer sets out for the device that asked, in the positions of the target function (R386, R392). -/
def answerPacket (s : State) (f : Nat) (x : InPacket) (ty : Nat) (psn : Bool) (data : List Byte) : State :=
  let p := x.pkt
  let r : Packet := { type := ty, len := data.length, srcDev := s.devnum, dstDev := p.srcDev, srcCore := p.srcCore, cls := p.cls
                      reqId := p.reqId, aop := if ty = 5 then p.aop else 0, psn := psn, addr := p.addr, data := data }
  let l := (linkFor s p.srcDev).getD x.link
  if (s.link l).up then queuePacket s l f r else s

/-- The lines of a request. -/
def packetLines (p : Packet) : List Span := cutLines (p.len / 64 + 2) 0 p.addr (if p.type = 2 then 4 else p.len)

/-- The reference cycle at which a line of an admitted request performs, unless its block is in re-encryption then: a scratchpad's at its
remote port, HBM's in a slot that the target function's cores leave free (R271, R276, R382). -/
def grantLine (s : State) (k pa : Nat) : Nat × State := if isScratch pa then bookPort s pa else (s.now + Config.linkDelay k, s)

/-- The lines of an admitted request have their reference cycles. -/
def grantLines (k : Nat) : List Span → State → State × List (Nat × Nat × Nat × Nat)
  | [], s => (s, [])
  | sp :: rest, s =>
    let (t, s1) := grantLine s k sp.pa
    let (s2, more) := grantLines (k + 1) rest s1
    (s2, (t, sp.off, sp.pa, sp.len) :: more)

/-- What a line of a request does at its instant: the state, what the line reads and whether it is poisoned. -/
abbrev LineAct := InPacket → Span → State → State × List Byte × Bool

/-- The lines of a request whose reference cycle has come perform; what they read joins what has been read, at its offset. -/
def runLines (write : Bool) (act : LineAct) : List (Nat × Nat × Nat × Nat) → InPacket → State → State × InPacket
  | [], x, s => (s, x)
  | (t, off, pa, len) :: rest, x, s =>
    if s.now < t then
      runLines write act rest { x with lines := x.lines ++ [(t, off, pa, len)] } s
    else
      match blockedLine s write pa with
      | (s1, some u) => runLines write act rest { x with lines := x.lines ++ [(u, off, pa, len)] } s1
      | (s1, none) =>
        let (s2, d, p) := act x ⟨off, pa, len⟩ s1
        let got := x.got ++ List.replicate (off - x.got.length) 0
        runLines write act rest { x with got := got.take off ++ d ++ got.drop (off + d.length), psn := x.psn || p } s2

/-- An admitted request goes on: its lines whose time has come perform, and with the last it is answered. -/
def goOnPacket (id : Nat) (ty f : Nat) (write : Bool) (act : LineAct) (answer : Nat → InPacket → State → State) (x : InPacket) (s : State) : State :=
  let (s1, y) := runLines write act x.lines { x with lines := [] } s
  match y.lines.map (·.1) with
  | [] => answer f y { s1 with pktIn := s1.pktIn.del id }
  | t :: ts =>
    let u := ts.foldl Nat.min t
    { s1 with pktIn := s1.pktIn.put id { y with due := u } }.due u (packetKey x.link ty) (packetStep ty)

/-- A request of another device: refused, or let in for a target function, once and for all, and served line by line (R382). -/
def serve (ty : Nat) (write : Bool) (refused : Nat → InPacket → State → State) (act : LineAct) (answer : Nat → InPacket → State → State)
    (s : State) : Res :=
  match takePacket s ty with
  | none => .next s
  | some (id, x) =>
    match x.tfunc with
    | some f => .next (goOnPacket id ty f write act answer x s)
    | none =>
      match admits s x write with
      | none => .next (refused 64 x { s with pktIn := s.pktIn.del id })
      | some e =>
        let (s1, lines) := grantLines (linkPlace s x) (packetLines x.pkt) s
        .next (goOnPacket id ty e.tfunc write act answer { x with tfunc := some e.tfunc, lines := lines } s1)

/-- LINK_READ (R382, R386): the data comes back in a reply; a refused read is answered without data. -/
def execLinkRead (s : State) : Res :=
  serve 0 false (fun f x s => answerPacket s f x 3 false []) (fun _ sp s => readLine s sp.pa sp.len)
    (fun f x s => answerPacket s f x 3 x.psn x.got) s

/-- A line of a write of another device performs, with a poison mark where the packet carries one. -/
def linkWriteLine : LineAct := fun x sp s => (writeRun s x.pkt.psn [sp] x.pkt.data, [], false)

/-- LINK_WRITE (R382, R386): the write performs and is acknowledged; a refused write is acknowledged with PSN set. -/
def execLinkWrite (s : State) : Res :=
  serve 1 true (fun f x s => answerPacket s f x 4 true []) linkWriteLine (fun f x s => answerPacket s f x 4 false []) s

/-- The number of this device as the target of the atomics of other devices, whose identifiers count for the whole device (R224). -/
def linkTarget : Nat := 64 + 512

/-- The atomic of another device executes: data of 12 bytes is that of an atomic of R221; data of 8 bytes is added to the 64-bit word, as a
WRITE packet of another shepherd asks (R224, R326; DESIGN CHOICE, log entry 117). -/
def linkAtomicLine : LineAct := fun x sp s =>
  let p := x.pkt
  let target := linkTarget
  let source := p.srcDev * 256 + p.srcCore
  if p.data.length = 8 then
    match storedReply s target source p.reqId with
    | some r => (s, leBytes 4 r.toNat, false)
    | none =>
      let (s1, old, psn) := readLine s sp.pa 8
      if psn then (s1, old.take 4, true)
      else
        (keepReply (writeLine s1 sp.pa ((leBytes 8 (leNat old + leNat p.data)).map some)) target source p.reqId (BitVec.ofNat 32 (leNat old)),
          old.take 4, false)
  else
    let word := fun i => BitVec.ofNat 32 (leNat ((p.data.drop (4 * i)).take 4))
    let (s1, old, psn) := runAtomic s target source p.reqId p.addr p.aop (word 2 != 0) (word 0) (word 1)
    (s1, leBytes 4 old.toNat, psn)

/-- LINK_ATOMIC (R224, R382, R383, R386): the atomic executes once, and its reply carries the old word; a refused one is answered
without data. -/
def execLinkAtomic (s : State) : Res :=
  serve 2 true (fun f x s => answerPacket s f x 5 false []) linkAtomicLine (fun f x s => answerPacket s f x 5 x.psn x.got) s

/-! ## Answers of other devices (R382, R386) -/

/-- The outstanding request that an answer names. -/
def remoteOf (s : State) (p : Packet) (ty : Nat) : Option (Nat × Remote) :=
  s.remotes.find? fun (_, r) =>
    r.dev == p.srcDev && r.pkt.type == ty && r.pkt.reqId == p.reqId && r.pkt.srcCore == p.srcCore && r.pkt.addr == p.addr

/-- A request of a core learns that the other device has refused it: a protection fault is due at its arrival cycle. -/
def refuseRequest (s : State) (x : Access) (n pa : Nat) : State :=
  s.updCore x.g fun c =>
    if c.launch = x.launch then
      { c with reqs := c.reqs.map fun r => if r.id = n && r.cause = 0 then { r with cause := 3, paddr := pa } else r }
    else c

/-- A request that another device has refused: a load of a core raises the protection fault at its arrival cycle, an element of a copy
command at once; a read of the shepherd reads zeros, and a write or an atomic of the shepherd is counted (R216, R382; log entry 118). -/
def refuseRemote (s : State) (n : Nat) (x : Access) (i : Nat) (p : Piece) : State :=
  let none_ := { p with bytes := List.replicate p.len (some (0 : Byte)) }
  match x.role with
  | .engine => if x.kind == .read then elementFault { s with accesses := s.accesses.del n } x 7 3 p.pa else donePiece s n x i none_ s.now
  | .slot => donePiece (refuseRequest s x n p.pa) n x i none_ s.now
  | _ => donePiece (if x.kind == .read then s else countLinkErr s (x.func s)) n x i none_ s.now

/-- An answer comes back: what it means for the piece that asked. An answer to no outstanding request changes nothing. -/
def takeAnswer (ty request : Nat) (act : Nat → Remote → Access → Piece → Packet → State → State) (s : State) : Res :=
  match takePacket s ty with
  | none => .next s
  | some (id, y) =>
    let s1 := { s with pktIn := s.pktIn.del id }
    match remoteOf s y.pkt request with
    | none => .next s1
    | some (k, r) =>
      let s2 := { s1 with remotes := s1.remotes.del k }
      match s2.accesses.find r.access with
      | none => .next s2
      | some x =>
        match x.pieces[r.piece]? with
        | none => .next s2
        | some q => .next (act k r x q y.pkt s2)

/-- READ_REPLY (R382, R386). -/
def execReadReply (s : State) : Res :=
  takeAnswer 3 0 (fun _ r x q p s =>
    if p.len = 0 && q.len ≠ 0 then refuseRemote s r.access x r.piece q
    else donePiece s r.access x r.piece { q with bytes := p.data.map some, poisoned := p.psn } s.now) s

/-- ATOMIC_REPLY (R224, R386). -/
def execAtomicReply (s : State) : Res :=
  takeAnswer 5 2 (fun _ r x q p s =>
    if p.len = 0 then refuseRemote s r.access x r.piece q
    else
      donePiece s r.access { x with old := BitVec.ofNat 32 (leNat p.data) } r.piece { q with bytes := p.data.map some, poisoned := p.psn } s.now) s

/-- WRITE_ACKNOWLEDGMENT (R252, R386): the write is no longer outstanding; a refused one is counted in LINKERR (R382). -/
def execWriteAcknowledgment (s : State) : Res :=
  takeAnswer 4 1 (fun _ r x q p s => donePiece (if p.psn then countLinkErr s r.func else s) r.access x r.piece q s.now) s

/-! ## CXL.mem (R378) -/

/-- System software holds the set of an address, and its data part has the address: no function's record names the set (R368, R378). -/
def systemHeld (s : State) (pa : Nat) : Bool :=
  isHbm pa && !isMetadata s pa &&
    match setOf s pa with
    | some (g, _, _) => (List.range 64).all fun f => !((s.func f).word 0).getLsbD (24 + g)
    | none => false

/-- What an access of the host over CXL.mem comes to. -/
inductive HostAccess where
  | done (s : State) (data : List Byte) (psn : Bool)
  | later (s : State) (t : Nat)  -- its block is in re-encryption until then (R285)
  | unmapped                 -- the address lies in no data part of a system-held set
deriving DecidableEq, Repr

/-- The host reads a line of host-managed device memory, at its slice (R246, R378; log entry 94). -/
def hdmRead (s : State) (pa : Nat) : HostAccess :=
  if !systemHeld s pa then .unmapped
  else
    match blockedLine s false pa with
    | (s1, some t) => .later s1 t
    | (s1, none) =>
      let (s2, d, p) := readLine s1 (pa / 64 * 64) 64
      .done (noticePoison s2 pa) d p

/-- The host writes bytes of a line of host-managed device memory, at its slice, under its set's key and counters (R246, R285, R378; log
entry 94). -/
def hdmWrite (s : State) (pa : Nat) (bytes : List (Option Byte)) : HostAccess :=
  if !systemHeld s pa then .unmapped
  else
    match blockedLine s true pa with
    | (s1, some t) => .later s1 t
    | (s1, none) => .done (writeLine s1 pa bytes) [] false

end Sys2Proof.Machine
end

