-- ==== Sys2Proof/Machine/Manage.lean ====
section
/-!
DEFINITION. What system software and the management core do: function records and the commands of BAR4 (R366 to R377), rekeying
(R286), function-level and device reset (R380, R381, R406), spares, TSV groups and refresh (R280 to R283, R400), health ring,
fatal errors and the dump (R401 to R403), temperature (R405), firmware and attestation (R407 to R409); and the register
interface through which the host reaches them (R371 to R377).
-/
namespace Sys2Proof.Machine

/-! ## Function records (R366, R367, R376) -/

/-- A word of the written configuration record. -/
def Func.new (f : Func) (k : Nat) : Word := f.written.getD k 0

/-- A record that a rule of its layout breaks (R367). -/
def recordBad (s : State) (f : Func) : Bool :=
  let sets := bits (f.new 0) 24 24
  bits (f.new 0) 48 15 != 0 || bits (f.new 1) 54 10 != 0 || bits (f.new 3) 51 13 != 0 || bits (f.new 4) 48 16 != 0 ||
    bits (f.new 4) 0 16 != 0 || ((List.range 7).any fun i => f.new (9 + i) != 0) || 1024 < (bits (f.new 1) 10 11).toNat ||
    65536 < (bits (f.new 1) 37 17).toNat || 256 < (bits (f.new 3) 0 9).toNat || 16384 < (bits (f.new 3) 9 15).toNat ||
    ((List.range 24).any fun g => sets.getLsbD g && Table.get 0 s.setTable g = 0)

/-- A record whose slots or queues pass their last number. -/
def recordOut (f : Func) : Bool :=
  1024 < (bits (f.new 1) 0 10).toNat + (bits (f.new 1) 10 11).toNat || 65536 < (bits (f.new 1) 21 16).toNat + (bits (f.new 1) 37 17).toNat

/-- The fields that may not change while a launch of the function is placed or saved or a queue of it is bound differ (R367). -/
def recordMoves (f : Func) : Bool :=
  bits (f.new 0) 0 48 != bits (f.word 0) 0 48 || bits (f.new 1) 0 54 != bits (f.word 1) 0 54 ||
    bits (f.new 2) 16 36 != bits (f.word 2) 16 36 || (f.new 2).getLsbD 0 != (f.word 2).getLsbD 0 ||
    (List.range 4).any fun i => f.new (5 + i) != f.word (5 + i)

/-- A spare is to come into a hive, or its copy is in progress: its function holds it until then (R368). -/
def spareIn (s : State) (hive : Nat) : Bool := s.bankBusy.contains hive || s.spareDue.any fun u => spareHive u == hive

/-- A launch of a function is placed or saved, or a queue of it is bound (R367). -/
def funcBusy (s : State) (f : Nat) : Bool :=
  (s.launches.any fun (_, x) => x.func == f && x.holdsBlock) || s.queues.any fun (_, q) => q.func == f && q.slot.isSome

/-- A hive with a spare-in operation would leave the function that holds it (R368). -/
def heldMoves (s : State) (f : Nat) : Bool :=
  (List.range 24).any fun h => (s.func f).en && holdsHive s f h && spareIn s h && !(((s.func f).new 0).getLsbD 63 && ((s.func f).new 0).getLsbD h)

/-- Two ranges that both hold something overlap. -/
def rangesMeet (a n b m : Nat) : Bool := a < b + m && b < a + n && n != 0 && m != 0

/-- Two records claim the same hive, set, slot or queue (R367, R368). -/
def recordsMeet (a b : Func) : Bool :=
  bits (a.new 0) 0 48 &&& bits (b.new 0) 0 48 != 0 ||
    rangesMeet (bits (a.new 1) 0 10).toNat (bits (a.new 1) 10 11).toNat (bits (b.new 1) 0 10).toNat (bits (b.new 1) 10 11).toNat ||
    rangesMeet (bits (a.new 1) 21 16).toNat (bits (a.new 1) 37 17).toNat (bits (b.new 1) 21 16).toNat (bits (b.new 1) 37 17).toNat

/-- Two records of the table are enabled and overlap. -/
def recordsOverlap (s : State) : Bool :=
  (List.range 64).any fun i => ((s.func i).new 0).getLsbD 63 &&
    (List.range i).any fun j => ((s.func j).new 0).getLsbD 63 && recordsMeet (s.func i) (s.func j)

/-- The written set table breaks a rule (R376). -/
def setTableBad (s : State) : Bool :=
  let mask := fun g => Table.get 0 s.setTable g
  ((List.range 24).any fun g => mask g != 0 && (!(mask g).testBit g || mask g % 2 ^ g != 0 || 2 ^ 24 ≤ mask g)) ||
    ((List.range 24).any fun g => (List.range g).any fun h => mask g &&& mask h != 0) ||
    (s.comSet.getLsbD 63 && mask (s.comSet.setWidth 5).toNat = 0)

/-- The sets of the written table. -/
def newSets (s : State) : Table Nat := s.setTable.filter fun (_, m) => m != 0

/-- EXEC changes the set table. -/
def setsMove (s : State) : Bool := newSets s != s.setApplied || s.comSet != s.comSetApplied

/-- The key under which a set's lines are written: none for the system key (R284). -/
def keyOfSet (s : State) (g : Nat) : Option (List Word) :=
  if s.comSetApplied.getLsbD 63 && g = (s.comSetApplied.setWidth 5).toNat then none
  else
    match (List.range 64).find? fun f => (s.func f).en && ((s.func f).word 0).getLsbD (24 + g) with
    | none => none
    | some f =>
      if f = 0 && Table.get 0 s.setApplied g = 2 ^ 24 - 1 then none
      else some (s.func f).key

/-- A line's MAC fails from now on (R287, R369). -/
def spoilLine (s : State) (pa : Nat) : State :=
  { s with flaws := Table.put s.flaws (lineOf pa) (Table.get 0 s.flaws (lineOf pa) % 2 ^ 72 + 2 ^ 72) }

/-- The lines of HBM that hold data: those with a byte that is not zero, those written since their set was last zeroed, and those of a
block that has been re-encrypted (R285). -/
def heldHbm (s : State) : List Nat :=
  (s.mem.map (·.1)).filter isHbm ++ (s.minor.filter fun (_, n) => n != 0).map (fun e => 64 * e.1) ++
    ((s.major.filter fun (_, n) => n != 0).flatMap fun e => (List.range 64).map fun i => 4096 * e.1 + 64 * i)

/-- Lines that hold data written under another key, or in another set, no longer decode (R369). -/
def spoilSets (old s : State) : State :=
  (heldHbm s).foldl (fun st a =>
    match setOf s a with
    | some (g, _, _) => if keyOfSet old g = keyOfSet s g && old.setApplied = s.setApplied then st else spoilLine st a
    | none => st) s

/-- The key of a record that is applied: the record's, where its words differ from those last applied (DESIGN CHOICE, log entry 119). -/
def newKey (x : Func) : List Word :=
  let words := fun (r : List Word) => (List.range 4).map fun i => r.getD (5 + i) 0
  if words x.written = words x.applied then x.key else words x.written

/-- A key from the device's random source (R286, R380). -/
def randomKey (s : State) (f : Nat) : List Word := (List.range 4).map fun i => Config.randomWord ((s.now * 64 + f) * 4 + i)

/-- EXEC (R367, R376): the records and the set table are applied together, or nothing is. -/
def execExecCmd (s : State) : Res :=
  let fs := (List.range 64).map s.func
  if setTableBad s || fs.any (recordBad s) then .next (cmdRefuse s 1)
  else if fs.any recordOut then .next (cmdRefuse s 5)
  else if recordsOverlap s || ((List.range 64).any fun f => (recordMoves (s.func f) && funcBusy s f) || heldMoves s f) ||
      (setsMove s && (List.range 64).any (funcBusy s)) then .next (cmdBusy s)
  else
    let s1 := { s with setApplied := newSets s, comSetApplied := s.comSet
                       funcs := s.funcs.map fun (f, x) => (f, { x with applied := x.written, key := newKey x }) }
    .next (cmdDone (spoilSets s s1))

/-! ## Rekeying (R286) -/

/-- The sets of a function, by lowest group. -/
def setsOf (s : State) (f : Nat) : List Nat := (List.range 24).filter fun g => ((s.func f).word 0).getLsbD (24 + g)

/-- An address lies in one of the given sets. -/
def inSets (s : State) (gs : List Nat) (pa : Nat) : Bool :=
  isHbm pa && match setOf s pa with | some (g, _, _) => gs.contains g | none => false

/-- The counters of sets start anew, and the sets can be written again. -/
def resetCounters (s : State) (gs : List Nat) : State :=
  { s with
    minor := s.minor.filter fun (l, _) => !inSets s gs (64 * l)
    major := s.major.filter fun (b, _) => !inSets s gs (4096 * b)
    tree := s.tree.filter fun (k, _) => !gs.contains (k / 2 ^ 36)
    roSets := s.roSets.filter fun g => !gs.contains g }

/-- REKEY (R286, R374): the function's sets take a new key from the device's random source, every counter is reset and every line re-encrypted, while no launch
of the function runs. -/
def execRekey (s : State) : Res :=
  let f := (bits s.cmd 0 6).toNat
  if s.launches.any fun (_, x) => x.func == f && x.holdsCores then .next (cmdRefuse s 2)
  else .next (cmdLater ((resetCounters s (setsOf s f)).updFunc f fun x => { x with key := randomKey s f }) (2 ^ 32))

/-! ## The fault ring (R373) -/

/-- The record that has waited longest for room in the fault ring of a function: its time, launch and place. -/
def oldestPending (s : State) (f : Nat) : Option (Nat × Nat × Nat) :=
  s.launches.foldl (fun b (l, x) =>
    if x.func ≠ f then b
    else
      ((List.range x.stops.length).zip x.stops).foldl (fun (b : Option (Nat × Nat × Nat)) (i, r) =>
        if !r.pending then b
        else
          let t := (r.words.getD 7 0).toNat
          match b with
          | some (u, _, _) => if t < u then some (t, l, i) else b
          | none => some (t, l, i)) b) none

/-- Records that have waited are written while there is room, the oldest first. -/
def releasePending (f : Nat) : Nat → State → State
  | 0, s => s
  | n + 1, s =>
    match oldestPending s f with
    | none => s
    | some (_, l, i) =>
      match s.launch? l with
      | none => s
      | some x =>
        match x.stops[i]? with
        | none => s
        | some r =>
          let (s1, ok) := writeRecord s f r.words
          if ok then releasePending f n (s1.updLaunch l fun y => { y with stops := y.stops.set i { r with pending := false } }) else s

/-- The most records that can wait: one for each core. -/
def mostPending : Nat := 216

/-- FRHEAD (R373): the driver has consumed records, and one that waits for room is written. -/
def execFrHead (s : State) : Res :=
  let f := s.hostFn
  .next (releasePending f mostPending (s.updFunc f fun x => { x with frHead := (bits s.hostVal 0 32).toNat }))

/-- A new place of the fault ring. -/
def setFrBase (s : State) : State :=
  let f := s.hostFn
  releasePending f mostPending (s.updFunc f fun x => { x with frBase := s.hostVal })

/-! ## The health ring (R401) -/

/-- HRBASE (R401): the events held until now are written. -/
def execHrBase (s : State) : Res :=
  if ringSize s.hostVal = 0 then .next s
  else
    let s1 := { s with hrBase := s.hostVal, hrHeld := [] }
    .next (s.hrHeld.foldl putHealth s1)

/-! ## Function-level reset (R380, R381) -/

/-- The 90 ms of the scrub (R380). -/
def scrubTime : Nat := 270000000

/-- The component that is to be started of a kind: the image stored for this reset, or the one in use (R408). -/
def nextFirmware (s : State) (kind : Nat) : Firmware :=
  (s.staged.find kind).getD ((s.running.find kind).getD { version := Config.firmwareVersion kind, digest := Config.firmwareDigest kind })

/-- A component is started: its digest and its signature were verified as it was stored, and its version is at least the fused minimum
(R408). -/
def starts (s : State) (kind : Nat) : Bool := decide (Table.get 0 s.fusedMin kind ≤ (nextFirmware s kind).version)

/-- The number by which events name a unit: a core's position in the module, or a bank's. -/
def unitNum (u : SpareUnit) : Nat :=
  match u with
  | .core h p => h * 8 + p
  | .bank h b => h * 32 + b

/-- The kind of a unit, by which events count (R401). -/
def unitKind (u : SpareUnit) : Nat :=
  match u with
  | .core _ _ => 0
  | .bank _ _ => 1

/-- The number of a die's spare shepherd core, beside the positions die * 8 + i. -/
def shepherdSpare (die : Nat) : Nat := 16 + die

/-- The failed shepherd cores of a die, in the order of their failures. -/
def shepherdsFailed (s : State) (die : Nat) : List Nat := s.shepFailed.filter fun k => k == shepherdSpare die || (k < 16 && k / 8 == die)

/-- The position of a die that its spare shepherd core has taken, if any: that of the first core to fail, unless the spare has failed
before it (R400). -/
def shepherdReplaced (s : State) (die : Nat) : List Nat := ((shepherdsFailed s die).take 1).filter (· < 16)

/-- The positions of a die that no core serves: their cores have failed, and the spare has served another or has failed too (R400). -/
def shepherdsLost (s : State) (die : Nat) : List Nat :=
  let ks := shepherdsFailed s die
  (if ks.contains (shepherdSpare die) then ks else ks.drop 1).filter (· < 16)

/-- The units that have failed and have no spare are reported at step 3 (R406). -/
def reportLost (s : State) : State :=
  let s1 := s.coresLost.foldl (fun st p => unitEvent st 0 4 (p / 96) p []) s
  let s2 := s1.outOfService.foldl (fun st h => unitEvent st 5 4 (h / 12) h []) s1
  let s3 := [0, 1].foldl (fun st d => (shepherdsLost s d).foldl (fun st k => unitEvent st 2 4 d k []) st) s2
  let s4 := (List.range 24).foldl (fun st ch =>
    ((Table.get [] s.tsvFailed ch).drop 2).foldl (fun st t => unitEvent st 3 4 (ch / 12) ch [BitVec.ofNat 64 t]) st) s3
  s.links.foldl (fun st (l, k) => if 1 < k.lanesFailed.length then unitEvent st 4 4 0xFF l [BitVec.ofNat 64 (k.lanesFailed.getLastD 0)] else st) s4

/-- The exchanges that are due take place at a reset, which leaves every hive empty (R400, R406). -/
def bringDue (due_ : List SpareUnit) (s : State) : State :=
  due_.foldl (fun st u => unitEvent { st with fused := st.fused ++ [u] } (unitKind u) 3 (spareHive u / 12) (unitNum u) [BitVec.ofNat 64 (unitNum u)]) s

/-- The reset of the device keeps the deep tier, the fuse rows and the identity key; host memory lies outside it (R406). The management
firmware is verified at step 2: if it is not started, the PF offers FWSTAGE and DEVRESET alone, and the exchanges that are due wait for a reset
that comes further. A shepherd firmware or a microcode that is not
started at step 5 is event 16, and the device waits for a reset (R408). The polling positions of a shepherd core that was lost with no spare
left go unpolled from then on (DEDUCED, log entry 137). -/
def bringUp (s : State) (count : Nat) : State :=
  let r := State.reset
  let kept := fun (a : Nat) => isDeep a || isHost a
  let trained := fun (l : Nat) (k : Link) =>
    let ok := k.lanesFailed.length ≤ 1
    { Link.reset with up := ok, lanesFailed := k.lanesFailed, spareUsed := k.spareUsed
                      control := if ok && l < moduleLinks then [message 3 0 0 0 0] else [] }
  let s1 := { r with
    domCount := count, aligned := false
    mem := s.mem.filter fun (a, _) => kept a
    poison := s.poison.filter fun (l, _) => kept (64 * l)
    flaws := s.flaws.filter fun (l, _) => kept (64 * l)
    fused := s.fused, coresLost := s.coresLost, outOfService := s.outOfService, tsvFailed := s.tsvFailed, tsvSpared := s.tsvSpared
    sweep := s.sweep.map fun (k, _) => (k, 2 ^ 29)
    shepFailed := s.shepFailed, fusedMin := s.fusedMin, staged := []
    shepDead := [0, 1].flatMap fun d => (shepherdsLost s d).map fun k => (k, 2 ^ 64)
    sysKey := (List.range 4).map fun i => Config.randomWord (2 ^ 64 + 4 * (s.fresh + 1) + i)
    running := s.staged.foldl (fun (t : Table Firmware) (p : Nat × Firmware) => Table.put t p.1 p.2) s.running
    links := (List.range moduleLinks).map fun l => (l, trained l (s.link l))
    msix := s.msix, hostReply := s.hostReply, fresh := s.fresh + 1, nextId := s.nextId, attestations := s.attestations }
  if !starts s 1 then { s1 with up := false, mgmtFailed := true, agenda := [], spareDue := s.spareDue }
  else
    let s2 := bringDue s.spareDue (reportLost s1)
    if starts s 2 && starts s 3 then s2
    else { healthEvent s2 16 0xFF 0 [] with up := false, agenda := [] }

/-- DEVRESET (R406, R408): bring-up from step 2. Device time is 0 again; the domain count runs on until it is taken from an
aligned neighbour (R392). -/
def execDevReset (s : State) : Res := .next (bringUp s s.domCount)

/-- POWER_GOOD (R406): bring-up from step 1. -/
def execPowerGood (s : State) : Res := .next (bringUp s 0)

/-- An access is the write of a packet that was begun: its queue waits for it (R326, R381). -/
def packetWrite (s : State) (n : Nat) : Bool := s.queues.any fun (_, q) => q.blocked == .remote n

/-- An access writes a control block of a function. -/
def qcbWrite (s : State) (f : Nat) (a : Access) : Bool :=
  a.pieces.any fun p => s.queues.any fun (_, q) => q.func == f && hostBase + q.qcb ≤ p.pa && p.pa < hostBase + q.qcb + 64

/-- FLR (R380, R381): the function's outputs stop from now on, those too that wait for a budget or a block, but for the writes of packets
begun, and at the next frame start it is quiesced; an FLR of the PF resets the device. -/
def execFlr (fn : Nat) (s : State) : Res :=
  if fn = 0 then .next (bringUp s s.domCount)
  else if 64 ≤ fn || (s.func fn).resetting then .next s
  else
    let s1 := dropAccesses (s.updFunc fn fun x => { x with resetting := true, frHeld := [] }) fun n a =>
      a.ident == fn && a.kind != .read && !packetWrite s n && !qcbWrite s fn a
    .next (s1.due ((s.now / 12000 + 1) * 12000) 0 (.flrQuiesce fn))

/-- Every launch of a function is discarded, with its requests in flight (R380); one that holds an LSN counts as a chain that has ended
with a STATUS other than 0 (R329). -/
def discardLaunches (s : State) (f : Nat) : State :=
  (s.launches.filter fun (_, x) => x.func == f).foldl (fun st (l, x) =>
    let s1 := if x.holdsBlock then dropLaunch st l else { st with launches := st.launches.del l }
    let s2 := { s1 with accesses := s1.accesses.filter fun (_, a) => a.launch != some l
                        remotes := s1.remotes.filter fun (_, r) => !(s1.accesses.find r.access).any fun a => a.launch == some l }
    if x.lsn = 0 then s2 else endChain s2 x.chainQueue x.lsn 1) s

/-- The queues of a function hold nothing: each is reset, and TAIL of a ring is read as the budgets have room (R370, R380). -/
def emptyQueues (s : State) (f : Nat) : State :=
  (s.queues.filter fun (_, q) => q.func == f).foldl (fun st (n, _) =>
    finishReset ((beginReset st n).updQueue n fun q => { q with blocked := .none, doorbell := none }) n) s

/-- The queues of a function are idle as its reset ends (R380). -/
def idleQueues (s : State) (f : Nat) : State :=
  { s with queues := s.queues.map fun (n, q) => (n, if q.func = f then { q with state := 0 } else q) }

/-- Every subscription of a function's queues lapses, entry by entry, and shares are computed anew (R298, R380). -/
def lapseFunc (s : State) (f : Nat) : State :=
  s.directory.foldl (fun st (e, _) =>
    let d := st.entry e
    if d.subs.any fun b => b.func == f then
      afterAct st e d.subs (noteLeft st { d with subs := d.subs.filter fun b => b.func != f }) none
    else st) s

/-- A write of a packet is on its way: it goes on (R381). -/
def writeGoesOn (s : State) (n : Nat) : Bool := (s.accesses.find n).any fun a => a.role == .shepherd && a.kind != .read

/-- FLR_QUIESCE (R380, R381): what the function has under way is discarded, but for the writes of packets begun before the reset. -/
def execFlrQuiesce (fn : Nat) (s : State) : Res :=
  let s0 := emptyQueues (lapseFunc (discardLaunches s fn) fn) fn
  let s1 := dropAccesses s0 fun _ a => a.ident == fn && a.kind == .read
  .next ({ s1 with
    commonsReqs := s1.commonsReqs.filter fun (_, r) => r.func != fn
    remotes := s1.remotes.filter fun (_, r) => r.func != fn || writeGoesOn s1 r.access
    ats := s1.ats.filter fun e => e.1 != fn
    tcache := s1.tcache.map fun (p : Nat × List CacheEntry) => (p.1, p.2.filter fun e => e.func != fn) }.due (s1.now + scrubTime) 0 (.flrComplete fn))

/-- An address lies in a function's scratchpads or sets. -/
def ofFunc (s : State) (f : Nat) (pa : Nat) : Bool :=
  (isScratch pa && holdsHive s f (hiveOf pa)) || inSets s (setsOf s f) pa

/-- FLR_COMPLETE (R380): the function's scratchpads and sets are zero, under a new key; its portals accept again. -/
def execFlrComplete (fn : Nat) (s : State) : Res :=
  let s1 := resetCounters s (setsOf s fn)
  let s2 := { s1 with
    mem := s1.mem.filter fun (a, _) => !ofFunc s fn a
    poison := s1.poison.filter fun (l, _) => !ofFunc s fn (64 * l)
    flaws := s1.flaws.filter fun (l, _) => !ofFunc s fn (64 * l)
    badCounters := s1.badCounters.filter fun b => !ofFunc s fn (4096 * b) }
  let s3 := s2.updFunc fn fun x => { x with resetting := false, key := randomKey s fn }
  .next ((s3.queues.filter fun (_, q) => q.func == fn).foldl (fun st (n, _) => writeQcb st n) (idleQueues s3 fn))

/-! ## Spares (R400) -/

/-- Two units have the same spare (R400). -/
def sameSpare (u v : SpareUnit) : Bool := unitKind u == unitKind v && spareHive u == spareHive v

/-- The spare of the unit's kind in its hive is in use, or is to take the place of another unit (R400). -/
def spareTaken (s : State) (u : SpareUnit) : Bool := s.fused.any (sameSpare u) || s.spareDue.any (sameSpare u)

/-- The corrected errors of a bank have reached their threshold (R400). -/
def bankThreshold (s : State) (u : SpareUnit) : Bool :=
  match u with
  | .core _ _ => false
  | .bank h b =>
    let times := Table.get [] s.bankErrs (h * 32 + b)
    times.length = 16 && times.headD 0 - times.getD 15 0 ≤ 3000000

/-- A unit has failed and no spare is left: the hive has a core fewer, or is out of service; what runs there goes on (R400). -/
def loseUnit (s : State) (u : SpareUnit) : State :=
  match u with
  | .core _ _ => { s with coresLost := s.coresLost ++ [unitNum u] }
  | .bank h _ => { s with outOfService := s.outOfService ++ [h] }

/-- A unit has been lost before. -/
def unitLost (s : State) (u : SpareUnit) : Bool :=
  match u with
  | .core _ _ => s.coresLost.contains (unitNum u)
  | .bank h _ => s.outOfService.contains h

/-- SPARE_THRESHOLD (R400, R401): a spare is scheduled for the hive's next launch boundary, or event 4 tells that none is left. -/
def execSpareThreshold (u : SpareUnit) (s : State) : Res :=
  let die := spareHive u / 12
  let arg := [BitVec.ofNat 64 (unitNum u)]
  if s.spareDue.contains u || unitLost s u then .next s
  else
    let s1 := if bankThreshold s u then unitEvent s 1 1 die (unitNum u) arg else s
    if spareTaken s u then .next (loseUnit (unitEvent s1 (unitKind u) 4 die (unitNum u) arg) u)
    else
      let s2 := unitEvent s1 (unitKind u) 2 die (unitNum u) arg
      .next (bringSpares { s2 with spareDue := s2.spareDue ++ [u] })

/-- The longest copy of a bank: 2 ms (R400). -/
def bankCopyLimit : Nat := 6000000

/-- The cells of a bank are the spare's from now on: no error of the failed bank's stands in them; what its copy could not correct stays
poisoned (R272, R400). -/
def freshCells (s : State) (hive bank : Nat) : State :=
  let mine := fun (l : Nat) => isScratch (64 * l) && hiveOf (64 * l) == hive && bankOf (64 * l) == bank
  let lost := (s.flaws.filter fun (l, k) => mine l && k == 2).map (·.1)
  lost.foldl (fun st l => setPoison st (64 * l) true) { s with flaws := s.flaws.filter fun (l, _) => !mine l }

/-- SPARE_BRING_IN (R268, R400): the hive is empty, and the spare takes the unit's place. -/
def execSpareBringIn (u : SpareUnit) (s : State) : Res :=
  let h := spareHive u
  if !s.spareDue.contains u || !hiveEmpty s h then .next s
  else
    let s1 := { s with spareDue := s.spareDue.filter (· != u), fused := s.fused ++ [u] }
    let s2 := unitEvent s1 (unitKind u) 3 (h / 12) (unitNum u) [BitVec.ofNat 64 (unitNum u)]
    match u with
    | .core _ _ => .next { s2 with rollTimes := s2.rollTimes.del (unitNum u) }
    | .bank _ b =>
      .next ({ freshCells s2 h b with bankBusy := s2.bankBusy ++ [h], bankErrs := s2.bankErrs.del (h * 32 + b) }.due
        (s2.now + 1 + Config.bankCopyTime s2.fresh % bankCopyLimit) 0 (.bankCopyComplete h b)).tick

/-- BANK_COPY_COMPLETE (R400): the hive admits placements again. -/
def execBankCopyComplete (hive _bank : Nat) (s : State) : Res :=
  .next { s with bankBusy := s.bankBusy.filter (· != hive) }

/-- SHEPHERD_CORE_FAILURE (R400): the spare takes the polling positions at the next frame start; with none left the error is fatal. A
failure at a position that the spare serves is the spare's, and so is one of core 8, which has no position of its own. -/
def execShepherdCoreFailure (die i : Nat) (s : State) : Res :=
  let k := die * 8 + i
  let ks := shepherdsFailed s die
  let fatal := fun (n : Nat) => .next ({ s with shepFailed := s.shepFailed ++ [n] }.due s.now 20 (.fatalError 1 die))
  if 8 ≤ i || ks.contains k then
    if ks.contains (shepherdSpare die) || s.shepDead.any fun (c, _) => c == k && i < 8 then .next s
    else if ks.isEmpty then .next { s with shepFailed := s.shepFailed ++ [shepherdSpare die] }
    else fatal (shepherdSpare die)
  else if !ks.isEmpty then fatal k
  else
    let mine := fun (i : Instr) => match i with | .slotPoll sl => pollCore sl == k | _ => false
    .next ({ s with shepFailed := s.shepFailed ++ [k], shepDead := s.shepDead ++ [(k, s.now / 12000 + 1)] }.undue mine)

/-! ## TSV groups and refresh (R280, R282, R283) -/

/-- The lines of a channel. -/
def channelLines : Nat := 2 ^ 29

/-- TSV_GROUP_FAILED (R280, R400): event 5; a spare, if one remains, takes the group's symbols, and a sweep rewrites the
channel's lines. With none left the group's symbols stay erasures, and the channel is reported degraded. -/
def execTsvGroupFailed (ch grp : Nat) (s : State) : Res :=
  let failed := Table.get [] s.tsvFailed ch
  if failed.contains grp then .next s
  else
    let used := Table.get 0 s.tsvSpared ch
    let s1 := healthEvent { s with tsvFailed := Table.put s.tsvFailed ch (failed ++ [grp]) } 5 (ch / 12) ch [BitVec.ofNat 64 grp]
    if used < 2 then
      .next ({ s1 with tsvSpared := Table.put s1.tsvSpared ch (used + 1), sweep := s1.sweep.put (ch * 32 + grp) 0 }.due
        (s1.now + 1 + Config.sweepDelay s1.fresh) 0 (.sparingSweepLine ch 0)).tick
    else .next (unitEvent s1 3 4 (ch / 12) ch [BitVec.ofNat 64 grp])

/-- The address of a line of a channel, counted in its group's share of its set (R273). -/
def channelAddr : Nat → Table Nat → Nat → Nat → Option Nat
  | _, [], _, _ => none
  | base, (_, mask) :: rest, ch, line =>
    let gs := groupsOf mask
    if gs.contains ch then some (base + (line / 2 * gs.length + gs.idxOf ch) * 128 + line % 2 * 64)
    else channelAddr (base + gs.length * 0x800000000) rest ch line

/-- A line is rewritten by a sweep, with its failed groups' symbols on their spares: what its code corrects is gone, and what it does not
marks the line (R280, R281). -/
def rewriteLine (s : State) (pa : Nat) : State :=
  let s1 := meetFlaw s pa
  noticePoison (placeOnSpare { s1 with flaws := Table.put s1.flaws (lineOf pa) 0 } pa) pa

/-- SPARING_SWEEP_LINE (R280): the line is rewritten, and the next one follows. -/
def execSparingSweepLine (ch line : Nat) (s : State) : Res :=
  let mine := s.sweep.filter fun (k, next) => k / 32 == ch && next == line
  if mine.isEmpty then .next s
  else
    let s1 := match channelAddr 0 s.setApplied ch line with
      | some pa => rewriteLine s pa
      | none => s
    let s2 := { s1 with sweep := mine.foldl (fun t (k, _) => t.put k (line + 1)) s1.sweep }
    .next (if line + 1 < channelLines then
      (s2.due (s2.now + 1 + Config.sweepDelay s2.fresh) 0 (.sparingSweepLine ch (line + 1))).tick else s2)

/-- Half of a channel's refresh interval: 32 ms, or 16 ms above 85 °C (R282, R283). -/
def halfInterval (s : State) (ch : Nat) : Nat := if s.refreshHot.contains ch then 24000000 else 48000000

/-- The first rotation boundary after a reference cycle (R275). -/
def nextRotation (t : Nat) : Nat := (t / 64 + 1) * 64

/-- REFRESH_PLAN_WRITE (R282, R283): the plan is updated; with a release a takeover ends at the next rotation boundary. -/
def execRefreshPlanWrite (ch : Nat) (hot release : Bool) (s : State) : Res :=
  let cool := s.refreshHot.filter (· != ch)
  let s1 := { s with
    refreshPlan := Table.put s.refreshPlan ch (s.now + 1), refreshHot := if hot then ch :: cool else cool
    takeover := match s.takeover.find ch with
      | some none => if release then s.takeover.put ch (some (nextRotation s.now)) else s.takeover
      | _ => s.takeover }
  .next (s1.due (s1.now + halfInterval s1 ch + Config.takeoverDelay s1.fresh % 6001) 0 (.refreshTakeover ch)).tick

/-- REFRESH_TAKEOVER (R283): no plan update has come for half the interval; the sentinel takes over, and event 8 is raised. -/
def execRefreshTakeover (ch : Nat) (s : State) : Res :=
  let since := Table.get 0 s.refreshPlan ch - 1
  let running := match s.takeover.find ch with
    | some none => true
    | some (some t) => decide (s.now < t)
    | none => false
  if s.now < since + halfInterval s ch || running then .next s
  else .next (healthEvent { s with takeover := s.takeover.put ch none } 8 (ch / 12) ch [])

/-! ## Fatal errors and the dump (R402, R403) -/

/-- The words of an entry (R294). Where all 4,096 tiles are poisoned NPOIS sets bit 12 of word 15 (DESIGN CHOICE, log entry 151). -/
def entryWords (d : DirEntry) : List Word :=
  let low := fun (w : Word) (n : Nat) => BitVec.ofNat 64 (w.toNat % 2 ^ n)
  [d.word 0, d.word 1,
   BitVec.ofNat 2 d.state ++ BitVec.ofNat 2 d.tier ++ BitVec.ofNat 2 d.fmt ++ 0#14 ++ BitVec.ofNat 12 (d.nt - 1) ++ BitVec.ofNat 32 d.cost,
   low (d.word 3) 48, low (d.word 4) 48, low (d.word 5) 52, low (d.word 6) 52, d.word 7, low (d.word 8) 52, d.rights,
   0#7 ++ BitVec.ofNat 9 d.subs.length ++ d.clw,
   0#19 ++ BitVec.ofBool d.run ++ BitVec.ofNat 12 d.pre ++ 0#16 ++ BitVec.ofNat 16 d.period, BitVec.ofNat 64 d.fstart,
   BitVec.ofNat 64 d.capSum, BitVec.ofNat 64 d.fetSum, BitVec.ofNat 64 d.poisoned.length]

/-- The numbers of the control and status registers (R30). -/
def csrNumbers : List Nat := List.range 10 ++ [0x10, 0x11, 0x12, 0x13] ++ (List.range 14).map (0x20 + ·)

/-- The queue and the LSN of a core's launch (R403). -/
def coreLaunch (s : State) (g : Nat) : List Word :=
  match (s.core g).launch.bind s.launch? with
  | none => [0, 0]
  | some x => [BitVec.ofNat 64 x.queue, BitVec.ofNat 64 x.lsn]

/-- What a core record of the dump holds, as words: the registers named by R403, those of R30, its launch and its last fault record. -/
def coreContent (s : State) (g : Nat) : List Word :=
  let c := s.core g
  (List.range 64).map c.sGet ++ [c.f.setWidth 64] ++ (List.range 16).flatMap (fun r => [(c.mGet r).setWidth 64, ((c.mGet r) >>> 64).setWidth 64]) ++
    (List.range 8).map (fun r => BitVec.ofNat 64 ((c.bGet r).getD (2 ^ 64 - 1))) ++ (List.range 4).map c.ntGet ++
    (List.range 4).flatMap (fun r => [if (c.lpGet r).active then 1 else 0, BitVec.ofNat 64 (c.lpGet r).count, BitVec.ofNat 64 (c.lpGet r).start]) ++
    (List.range 4).map (fun r => BitVec.ofNat 64 (c.cwGet r)) ++
    [c.w.setWidth 64, BitVec.ofNat 64 c.pc] ++ csrNumbers.map (csrValue s g) ++ coreLaunch s g ++ Table.get [] s.lastRec g

/-- The position that a physical core of a hive serves: its own, unless a spare has taken it; the ninth serves the position that it has
taken (R36, R400). -/
def positionOf (s : State) (hive i : Nat) : Option Nat :=
  let spared := s.fused.findSome? fun u => match u with | .core h p => if h = hive then some p else none | .bank .. => none
  if i = 8 then spared.map (hive * 8 + ·) else if spared = some i then none else some (hive * 8 + i)

/-- The words of a packet. -/
def packetWords (p : BitVec 512) : List Word := (List.range 8).map fun i => p.extractLsb' (64 * i) 64

/-- A position of a queue in an indirect buffer and in a LOOP (R327, R328, R403). -/
def levelContent (v : Level) : List Word :=
  [BitVec.ofNat 64 v.addr, BitVec.ofNat 64 v.count, BitVec.ofNat 64 v.next, BitVec.ofNat 64 v.start, BitVec.ofNat 64 v.skip,
   (match v.loopStart with | some k => BitVec.ofNat 64 (k + 1) | none => 0), BitVec.ofNat 64 v.loopLeft] ++
    v.fetched.flatMap fun (k, p) => BitVec.ofNat 64 k :: packetWords p

/-- What a slot of the dump holds, as words: its queue, the queue's shadow and state, its buffered packets and its positions (R403). -/
def slotContent (s : State) (k : Nat) : List Word :=
  match Table.get none s.slots k with
  | none => []
  | some n =>
    match s.queue? n with
    | none => [BitVec.ofNat 64 n]
    | some q => [BitVec.ofNat 64 n, q.word0, BitVec.ofNat 64 q.head, BitVec.ofNat 64 q.lsn, BitVec.ofNat 64 q.state,
        BitVec.ofNat 64 q.ecode, BitVec.ofNat 64 q.eaddr, BitVec.ofNat 64 q.buffer.length] ++
        q.buffer.flatMap packetWords ++ q.levels.flatMap levelContent

/-- A record of the dump whose layout no rule gives. -/
def openRecord (section_ size : Nat) (content : List Word) : List Byte := (List.range size).map (Config.dumpByte section_ content)

/-- Bytes cut or filled up to a length. -/
def fitBytes (n : Nat) (d : List Byte) : List Byte := (d ++ List.replicate (n - d.length) 0).take n

/-- The bytes of a section of the dump, with their offset in it (R403); die A's core records are left out when die B's shepherd writes it. -/
def dumpSection (s : State) (byB : Bool) (n : Nat) : Nat × List Byte :=
  match n with
  | 1 =>
    let from_ := if byB then 108 else 0
    (2048 * from_, (List.range (216 - from_)).flatMap fun i =>
      openRecord 1 2048 (match positionOf s ((from_ + i) / 9) ((from_ + i) % 9) with | some g => coreContent s g | none => []))
  | 2 => (0, (List.range 1024).flatMap fun k => openRecord 2 1024 (slotContent s k))
  | 3 => (0, (List.range 65536).flatMap fun e => wordBytes (entryWords (s.entry e)))
  | _ => (0, fitBytes 0x100000 (s.hrLog.reverse.flatMap wordBytes))

/-- Where a section of the dump lies: its offset and size (R403). -/
def dumpPlace (n : Nat) : Nat × Nat :=
  match n with
  | 0 => (0, 0x1000)
  | 1 => (0x1000, 216 * 2048)
  | 2 => (0x80000, 1024 * 1024)
  | 3 => (0x180000, 0x800000)
  | _ => (0x980000, 0x100000)

/-- The sections that the dump region holds (R403). -/
def dumpSections (s : State) : List Nat :=
  [0, 1, 2, 3, 4].filter fun n => (dumpPlace n).1 + (dumpPlace n).2 ≤ s.dumpSize

/-- The length of a signature (R407). -/
def sigLen : Nat := 3309

/-- DUMP_WRITE (R403). -/
def writeDump (s : State) (cause die : Nat) : State :=
  if s.dumpBase = 0 then s
  else
    let byB := cause = 1 && die = 0
    let sections := dumpSections s
    let body := (sections.filter (· != 0)).map fun n =>
      let (o, d) := dumpSection s byB n
      ((dumpPlace n).1 + o, d)
    let sect := sections.foldl (fun k n => k + 2 ^ n) 0
    let head := leBytes 2 1 ++ leBytes 1 cause ++ leBytes 1 die ++ leBytes 4 sect ++ leBytes 8 s.now ++
      leBytes 8 Config.serial.toNat ++ leBytes 64 (Config.shake256 (body.flatMap (·.2))).toNat
    let header := fitBytes 4096 (head ++ fitBytes sigLen (Config.mlDsaSign head))
    let all := (if sections.contains 0 then [(0, header)] else []) ++ body
    all.foldl (fun st (o, d) => storeNow st 0 (hostBase + s.dumpBase.toNat + o) d) s

/-- Every placement stops where it stands, in a rollback too (R346, R402). -/
def stopAll (s : State) : State := s.launches.foldl (fun st (l, _) => stopNow st l) s

/-- FATAL_ERROR (R402): cause is the number of its bullet. Every placement stops, the dump and event 16 are written, and the
device takes no further step until it is reset; after a thermal error the compute dies are powered down. -/
def execFatalError (cause die : Nat) (s : State) : Res :=
  if !s.up then .next s
  else
    let s1 := writeDump (stopAll s) cause die
    let s2 := healthEvent s1 16 die 0 [BitVec.ofNat 64 cause]
    .next { s2 with up := false, agenda := [], cores := if cause = 4 then [] else s2.cores }

/-- THERMAL_EVENT (R402, R405): at 95 °C or more nothing new rises, and event 15 is written; below 90 °C the cap returns; above
105 °C the error is fatal. -/
def execThermalEvent (deg die : Nat) (s : State) : Res :=
  let rest := s.hot.filter (· != die)
  if 95 ≤ deg then
    let s1 := healthEvent { s with hot := die :: rest } 15 die 0 [BitVec.ofNat 64 deg]
    .next (if 105 < deg then s1.due s1.now 20 (.fatalError 4 die) else s1)
  else .next (if deg < 90 then { s with hot := rest } else s)

/-! ## Firmware and attestation (R408, R409) -/

/-- The bytes of a firmware header (R408). -/
def firmwareHeader : Nat := 3437

/-- A number in a run of bytes. -/
def numAt (d : List Byte) (o n : Nat) : Nat := leNat ((d.drop o).take n)

/-- The component in use of a kind (R408). -/
def runningFirmware (s : State) (kind : Nat) : Firmware :=
  (s.running.find kind).getD { version := Config.firmwareVersion kind, digest := Config.firmwareDigest kind }

/-- A firmware image verifies (R408): its digest matches, its signature verifies, and its version is at least the fused
minimum. -/
def firmwareOk (s : State) (d : List Byte) : Bool :=
  let kind := numAt d 0 2
  1 ≤ kind && kind ≤ 3 && ((d.drop 8).take 56).all (· == 0) && d.length == firmwareHeader + numAt d 4 4 &&
    Config.shake256 (d.drop firmwareHeader) == BitVec.ofNat 512 (numAt d 64 64) && Config.mlDsaVerify (d.take firmwareHeader) &&
    Table.get 0 s.fusedMin kind ≤ numAt d 2 2

/-- FWSTAGE (R408): the image is verified and stored for the next device reset. -/
def execFwStage (s : State) : Res :=
  match hostRead s (s.operand 0x20).toNat (s.operand 0x28).toNat with
  | none => .next (cmdRefuse s 5)
  | some d =>
    if !firmwareOk s d then .next (cmdRefuse s 6)
    else .next (cmdDone { s with staged := s.staged.put (numAt d 0 2) { version := numAt d 2 2, digest := BitVec.ofNat 512 (numAt d 64 64) } })

/-- FWCOMMIT (R408): the fused minimum of a kind rises to the version in use. -/
def execFwCommit (s : State) : Res :=
  let kind := (bits s.cmd 0 8).toNat
  if kind < 1 || 3 < kind then .next (cmdRefuse s 1)
  else .next (cmdDone { s with fusedMin := Table.put s.fusedMin kind (Nat.max (Table.get 0 s.fusedMin kind) (runningFirmware s kind).version) })

/-- The spare map of the fuse rows: the units that spares have replaced, each by its kind and number (R400, R409). A lane that is the spare
itself, and a unit that found no spare left, is none of them. -/
def spareMap (s : State) : List Nat :=
  s.fused.map (fun u => unitKind u * 2 ^ 20 + unitNum u) ++ [0, 1].flatMap (fun d => (shepherdReplaced s d).map (2 * 2 ^ 20 + ·)) ++
    s.tsvFailed.flatMap (fun e => (e.2.take (Table.get 0 s.tsvSpared e.1)).map fun t => 3 * 2 ^ 20 + e.1 * 32 + t) ++
    s.links.flatMap fun e => ((e.2.lanesFailed.take 1).filter (· != 4)).map fun n => 4 * 2 ^ 20 + e.1 * 8 + n

/-- The attestation report (R409). -/
def attestReport (s : State) : List Byte :=
  let records := (List.range 64).flatMap fun f => (s.func f).applied
  let measured := [Config.firmwareDigest 0, (runningFirmware s 1).digest, (runningFirmware s 2).digest, (runningFirmware s 3).digest,
    Config.shake256 (Config.recordsBytes records)]
  let body := leBytes 2 1 ++ leBytes 6 s.now ++ (List.range 4).flatMap (fun k => leBytes 8 (s.operand (0x20 + 8 * k)).toNat) ++
    leBytes 8 Config.serial.toNat ++ measured.flatMap (fun d => leBytes 64 d.toNat) ++
    leBytes 64 (Config.shake256 (Config.fuseMapBytes (spareMap s))).toNat
  fitBytes 3744 (body ++ fitBytes sigLen (Config.mlDsaSign body))

/-- ATTEST (R407, R409): the report is written within 10 ms, and the certificate chain of the public key is returned with it. -/
def execAttest (s : State) : Res :=
  let s1 := { s with attestations := s.attestations + 1, chain := Config.certificates Config.publicKey }
  .next (cmdLater (storeNow s1 0 (hostBase + (s.operand 0x40).toNat) (attestReport s)) 30000000)

/-! ## The register interface (R371 to R377) -/

/-- A command of the commons that the host has written is carried out in this reference cycle, after every core, and reads its operands
then (R239, R296, R375). -/
def commonsCommand (s : State) (i : Instr) : Res := .next ((cmdStarted s).due s.now keyCommand i)

/-- A command written to BAR4 (R374, R408). A second one while one is in progress is refused and changes nothing; so is one whose
code is unused. -/
def runHostCommand (s : State) : Res :=
  match (bits s.cmd 56 8).toNat with
  | 1 => execExecCmd s
  | 2 => execQcreate s
  | 3 => execQdestroy s
  | 4 => execShoot2 s
  | 5 => execShootF s
  | 6 => execRekey s
  | 16 => commonsCommand s .create
  | 17 => commonsCommand s .cost
  | 18 => commonsCommand s .rights
  | 19 => commonsCommand s .replica
  | 20 => commonsCommand s .schedule
  | 21 => commonsCommand s .stop
  | 22 => commonsCommand s .replace
  | 23 => commonsCommand s .loadDeep
  | 32 => execFwStage s
  | 33 => execFwCommit s
  | 34 => execDevReset s
  | 35 => execAttest s
  | _ => .next (cmdRefuse s 0)

/-- A governor register takes a value in its range; any other is dropped (R405). -/
def inRange (v : Word) (lo hi : Nat) : Bool := lo ≤ (bits v 0 12).toNat && (bits v 0 12).toNat ≤ hi

/-- The device number is written while no launch runs (R377). -/
def mayNumber (s : State) : Bool := !(s.launches.any fun (_, x) => x.holdsCores)

/-- A word of an export entry is written (R377). -/
def putExport (s : State) (i k : Nat) (v : Word) : State :=
  { s with exports := Table.put s.exports i ((Table.get (List.replicate 4 (0 : Word)) s.exports i).set k v) }

/-- A route is written, unless its DLAT lies outside its range (R377). -/
def putRoute (s : State) (e : Nat) (v : Word) : State :=
  let d := (bits v 24 11).toNat
  if d < 700 || 2039 < d then s else { s with routes := Table.put s.routes e v }

/-- Eight positions of a link's schedule are written (R377). -/
def putSchedule (s : State) (at_ : Nat) (v : Word) : State :=
  planSchedule { s with lsched := (List.range 8).foldl (fun t i => Table.put t (at_ + i) (bits v (8 * i) 8).toNat) s.lsched }

/-- A write of a register of BAR4 (R371, R374 to R377, R401, R403, R405). -/
def writeBar4 (s : State) (off : Nat) (v : Word) : Res :=
  if off = 0 then (if bits s.cmdst 62 2 = 3 && s.up then .next s else runHostCommand { s with cmd := v })
  else if 0x10 ≤ off && off < 0x100 then .next { s with operands := Table.put s.operands (off / 8) v }
  else if off = 0x100 then execHrBase { s with hostVal := v }
  else if off = 0x108 then .next { s with hrHead := v.toNat }
  else if off = 0x120 then .next { s with dumpBase := v }
  else if off = 0x128 then .next { s with dumpSize := v.toNat }
  else if off = 0x130 then .next (if mayNumber s then { s with devnum := (bits v 0 9).toNat } else s)
  else if off = 0x138 then .next (planSchedule { s with lschedAt := v.toNat })
  else if off = 0x200 then .next (if inRange v 25 200 then { s with govRise := (bits v 0 12).toNat } else s)
  else if off = 0x208 then .next (if inRange v 25 200 then { s with govFall := (bits v 0 12).toNat } else s)
  else if off = 0x210 then .next (if inRange v 1000 2800 then { s with govCap := (bits v 0 12).toNat } else s)
  else if 0x1000 ≤ off && off < 0x10C0 then .next { s with setTable := Table.put s.setTable ((off - 0x1000) / 8) (bits v 0 24).toNat }
  else if off = 0x10C0 then .next { s with comSet := v }
  else if 0x2000 ≤ off && off < 0x2800 then .next (putExport s ((off - 0x2000) / 32) (off % 32 / 8) v)
  else if 0x4000 ≤ off && off < 0x5000 then .next (putRoute s ((off - 0x4000) / 8) v)
  else if 0x5000 ≤ off && off < 0x6800 then .next (putSchedule s (off - 0x5000) v)
  else if 0x10000 ≤ off && off < 0x12000 then
    .next (s.updFunc ((off - 0x10000) / 128) fun x => { x with written := x.written.set (off % 128 / 8) v })
  else .next s

/-- RESMODE issues a resume command (R351, R373); a mode that does not exist is refused. -/
def runResMode (s : State) : Res :=
  match (bits s.hostVal 0 3).toNat with
  | 0 => execResumeRetry s
  | 1 => execResumeRetranslate s
  | 2 => execResumeSkip s
  | 3 => execResumeClearPrt s
  | 4 => execResumeTerminate s
  | _ => .next (if (s.func s.hostFn).resetting then s else resumeStatus s s.hostFn 1)

/-- A write of a register of BAR2 (R373); one not listed is dropped. -/
def writeBar2 (s : State) (off : Nat) (v : Word) : Res :=
  let f := s.hostFn
  if off = 0x00 then execDoorbell s
  else if off = 0x08 then execQreset s
  else if off = 0x10 then .next (s.updFunc f fun x => { x with resq := v })
  else if off = 0x18 then runResMode s
  else if off = 0x20 then .next (s.updFunc f fun x => { x with shootVa := v })
  else if off = 0x28 then execShootN s
  else if off = 0x30 then .next (s.updFunc f fun x => { x with s1Root := v })
  else if off = 0x38 then .next (if v = 0 || ringSize v ≠ 0 then setFrBase s else s)
  else if off = 0x40 then execFrHead s
  else .next s

/-- What the PF still takes of a device that is down: the DEVRESET command; while its management firmware has failed FWSTAGE too, with its
operands, and otherwise a first HRBASE, at which the events held, 16 among them, are written (R401, R402, R408). -/
def takenDown (s : State) (bar off : Nat) (v : Word) : Bool :=
  bar == 4 && ((off == 0 && (bits v 56 8 == 34 || (s.mgmtFailed && bits v 56 8 == 32))) ||
    (if s.mgmtFailed then 0x10 ≤ off && off < 0x100 else off == 0x100 && s.hrBase == 0))

/-- REGISTER_WRITE (R371): an aligned write of 8 bytes to a register of a function has the register's effect, stores its value, or is
dropped. Any other access, and one of BAR4 of a VF, is an Unsupported Request. -/
def execRegisterWrite (fn bar : Nat) (at_ : RegSpan) (val : Word) (s : State) : Res :=
  let off := at_.off
  if 64 ≤ fn || off % 8 ≠ 0 || at_.size ≠ 8 then .next (reply s 4)
  else if !s.up && !(fn = 0 && takenDown s bar off val) then .next s
  else
    let s1 := { s with hostFn := fn, hostVal := val }
    match bar with
    | 0 => execPortalMisuse fn (off / 4096) true s1
    | 2 => writeBar2 s1 off val
    | 4 => if fn = 0 then writeBar4 s1 off val else .next (reply s1 4)
    | _ => .next (reply s1 4)

/-- What a register of BAR2 reads (R373). -/
def readBar2 (s : State) (f off : Nat) : Word :=
  let x := s.func f
  if off = 0x10 then x.resq
  else if off = 0x18 then x.resMode
  else if off = 0x20 then x.shootVa
  else if off = 0x28 then (if x.shootBusy then 2 ^ 63 else 0)
  else if off = 0x30 then x.s1Root
  else if off = 0x38 then x.frBase
  else if off = 0x40 then BitVec.ofNat 64 x.frHead
  else if off = 0x48 then BitVec.ofNat 64 (x.frTail % 2 ^ 32)
  else if off = 0x50 then BitVec.ofNat 64 x.misuse
  else if off = 0x58 then BitVec.ofNat 64 x.linkErr
  else 0

/-- What a register of BAR4 reads (R367, R371, R374 to R377, R401, R403, R405). The words of KEY read 0, and so does V of an export
entry that is not valid. -/
def readBar4 (s : State) (off : Nat) : Word :=
  if off = 0 then s.cmd
  else if off = 8 then s.cmdst
  else if 0x10 ≤ off && off < 0x100 then s.operand off
  else if off = 0x100 then s.hrBase
  else if off = 0x108 then BitVec.ofNat 64 s.hrHead
  else if off = 0x110 then BitVec.ofNat 64 s.hrTail
  else if off = 0x118 then BitVec.ofNat 64 s.hrLost
  else if off = 0x120 then s.dumpBase
  else if off = 0x128 then BitVec.ofNat 64 s.dumpSize
  else if off = 0x130 then BitVec.ofNat 64 s.devnum
  else if off = 0x138 then BitVec.ofNat 64 s.lschedAt
  else if off = 0x140 then BitVec.ofNat 64 s.domCount
  else if off = 0x200 then BitVec.ofNat 64 s.govRise
  else if off = 0x208 then BitVec.ofNat 64 s.govFall
  else if off = 0x210 then BitVec.ofNat 64 s.govCap
  else if 0x1000 ≤ off && off < 0x10C0 then BitVec.ofNat 64 (Table.get 0 s.setTable ((off - 0x1000) / 8))
  else if off = 0x10C0 then s.comSet
  else if 0x2000 ≤ off && off < 0x2800 then
    let ws := Table.get (List.replicate 4 0) s.exports ((off - 0x2000) / 32)
    let w := ws.getD (off % 32 / 8) 0
    if off % 32 = 0 && (exportOf s ws).isNone then putBit w 63 false else w
  else if 0x4000 ≤ off && off < 0x5000 then Table.get 0 s.routes ((off - 0x4000) / 8)
  else if 0x5000 ≤ off && off < 0x6800 then
    BitVec.ofNat 64 ((List.range 8).foldl (fun n i => n + Table.get 255 s.lsched (off - 0x5000 + i) * 2 ^ (8 * i)) 0)
  else if 0x10000 ≤ off && off < 0x12000 then
    let k := off % 128 / 8
    if 5 ≤ k && k ≤ 8 then 0 else (s.func ((off - 0x10000) / 128)).new k
  else if 0x800000 ≤ off && off < 0x1000000 then (entryWords (s.entry ((off - 0x800000) / 128))).getD (off % 128 / 8) 0
  else 0

/-- What a register reads; none for an Unsupported Request (R371). A read changes nothing but at a portal page (R314). -/
def registerRead (s : State) (fn bar off size : Nat) : Option Word :=
  if 64 ≤ fn || off % 8 ≠ 0 || size ≠ 8 then none
  else match bar with
    | 2 => some (readBar2 s fn off)
    | 4 => if fn = 0 then some (readBar4 s off) else none
    | _ => none

end Sys2Proof.Machine
end

