-- ==== Sys2Proof/Machine/Dispatch.lean ====
section
/-!
DEFINITION. What each step of the machine does: one arm for each constructor of Instr.
-/
namespace Sys2Proof.Machine

open Sys2Proof

/-- What a step of the machine does to a state. -/
def exec (i : Instr) (s : State) : Host.Outcome State Fault Refusal :=
  match i with
  | .bundleIssue g => Sys2Proof.Machine.execBundleIssue g s
  | .waitEvaluation g => Sys2Proof.Machine.execWaitEvaluation g s
  | .registerWriteLanding g => Sys2Proof.Machine.execRegisterWriteLanding g s
  | .variableLanding g => Sys2Proof.Machine.execVariableLanding g s
  | .landingBufferArrival a => Sys2Proof.Machine.execLandingBufferArrival a s
  | .landingTimeout g => Sys2Proof.Machine.execLandingTimeout g s
  | .sNop h x => Sys2Proof.Machine.execSNop h x s
  | .add h x => Sys2Proof.Machine.execAdd h x s
  | .sub h x => Sys2Proof.Machine.execSub h x s
  | .and h x => Sys2Proof.Machine.execAnd h x s
  | .or h x => Sys2Proof.Machine.execOr h x s
  | .xor h x => Sys2Proof.Machine.execXor h x s
  | .andn h x => Sys2Proof.Machine.execAndn h x s
  | .shl h x => Sys2Proof.Machine.execShl h x s
  | .shr h x => Sys2Proof.Machine.execShr h x s
  | .sra h x => Sys2Proof.Machine.execSra h x s
  | .min h x => Sys2Proof.Machine.execMin h x s
  | .max h x => Sys2Proof.Machine.execMax h x s
  | .minu h x => Sys2Proof.Machine.execMinu h x s
  | .maxu h x => Sys2Proof.Machine.execMaxu h x s
  | .addS h x => Sys2Proof.Machine.execAddS h x s
  | .subS h x => Sys2Proof.Machine.execSubS h x s
  | .mul h x => Sys2Proof.Machine.execMul h x s
  | .mulh h x => Sys2Proof.Machine.execMulh h x s
  | .mulhu h x => Sys2Proof.Machine.execMulhu h x s
  | .popc h x => Sys2Proof.Machine.execPopc h x s
  | .clz h x => Sys2Proof.Machine.execClz h x s
  | .ctz h x => Sys2Proof.Machine.execCtz h x s
  | .div h x => Sys2Proof.Machine.execDiv h x s
  | .divu h x => Sys2Proof.Machine.execDivu h x s
  | .rem h x => Sys2Proof.Machine.execRem h x s
  | .remu h x => Sys2Proof.Machine.execRemu h x s
  | .sel h x => Sys2Proof.Machine.execSel h x s
  | .addi h x => Sys2Proof.Machine.execAddi h x s
  | .andi h x => Sys2Proof.Machine.execAndi h x s
  | .ori h x => Sys2Proof.Machine.execOri h x s
  | .xori h x => Sys2Proof.Machine.execXori h x s
  | .shli h x => Sys2Proof.Machine.execShli h x s
  | .shri h x => Sys2Proof.Machine.execShri h x s
  | .srai h x => Sys2Proof.Machine.execSrai h x s
  | .muli h x => Sys2Proof.Machine.execMuli h x s
  | .liu h x => Sys2Proof.Machine.execLiu h x s
  | .cmp h x => Sys2Proof.Machine.execCmp h x s
  | .flagAnd h x => Sys2Proof.Machine.execFlagAnd h x s
  | .flagOr h x => Sys2Proof.Machine.execFlagOr h x s
  | .flagXor h x => Sys2Proof.Machine.execFlagXor h x s
  | .flagAndn h x => Sys2Proof.Machine.execFlagAndn h x s
  | .spld h x => Sys2Proof.Machine.execSpld h x s
  | .spst h x => Sys2Proof.Machine.execSpst h x s
  | .csrr h x => Sys2Proof.Machine.execCsrr h x s
  | .csrw h x => Sys2Proof.Machine.execCsrw h x s
  | .prep h x => Sys2Proof.Machine.execPrep h x s
  | .loop h x => Sys2Proof.Machine.execLoop h x s
  | .endLoop h x => Sys2Proof.Machine.execEndLoop h x s
  | .xlate h x => Sys2Proof.Machine.execXlate h x s
  | .hrel h x => Sys2Proof.Machine.execHrel h x s
  | .fence h x => Sys2Proof.Machine.execFence h x s
  | .wclr h x => Sys2Proof.Machine.execWclr h x s
  | .trap h x => Sys2Proof.Machine.execTrap h x s
  | .halt h x => Sys2Proof.Machine.execHalt h x s
  | .tail h x => Sys2Proof.Machine.execTail h x s
  | .nextTile h x => Sys2Proof.Machine.execNextTile h x s
  | .nextTileTake h x => Sys2Proof.Machine.execNextTileTake h x s
  | .phase h x => Sys2Proof.Machine.execPhase h x s
  | .arrive h x => Sys2Proof.Machine.execArrive h x s
  | .arrivalDeparture a => Sys2Proof.Machine.execArrivalDeparture a s
  | .arrivalDelivery a => Sys2Proof.Machine.execArrivalDelivery a s
  | .phaseLineRaise g p => Sys2Proof.Machine.execPhaseLineRaise g p s
  | .phaseCompletion g p => Sys2Proof.Machine.execPhaseCompletion g p s
  | .cwSet h x => Sys2Proof.Machine.execCwSet h x s
  | .claim h x => Sys2Proof.Machine.execClaim h x s
  | .claimDeparture c => Sys2Proof.Machine.execClaimDeparture c s
  | .proposalArrival c => Sys2Proof.Machine.execProposalArrival c s
  | .claimDecision c => Sys2Proof.Machine.execClaimDecision c s
  | .object h x => Sys2Proof.Machine.execObject h x s
  | .claimRead h x => Sys2Proof.Machine.execClaimRead h x s
  | .claimReadSample a => Sys2Proof.Machine.execClaimReadSample a s
  | .subscribe h x => Sys2Proof.Machine.execSubscribe h x s
  | .lapse h x => Sys2Proof.Machine.execLapse h x s
  | .board h x => Sys2Proof.Machine.execBoard h x s
  | .alight h x => Sys2Proof.Machine.execAlight h x s
  | .cstat h x => Sys2Proof.Machine.execCstat h x s
  | .subscribeAct r => Sys2Proof.Machine.execSubscribeAct r s
  | .lapseAct r => Sys2Proof.Machine.execLapseAct r s
  | .boardAct r => Sys2Proof.Machine.execBoardAct r s
  | .alightAct r => Sys2Proof.Machine.execAlightAct r s
  | .cstatAct r => Sys2Proof.Machine.execCstatAct r s
  | .vNop h x => Sys2Proof.Machine.execVNop h x s
  | .vadd h x => Sys2Proof.Machine.execVadd h x s
  | .vsub h x => Sys2Proof.Machine.execVsub h x s
  | .vmin h x => Sys2Proof.Machine.execVmin h x s
  | .vmax h x => Sys2Proof.Machine.execVmax h x s
  | .vmul h x => Sys2Proof.Machine.execVmul h x s
  | .vabs h x => Sys2Proof.Machine.execVabs h x s
  | .vneg h x => Sys2Proof.Machine.execVneg h x s
  | .vand h x => Sys2Proof.Machine.execVand h x s
  | .vor h x => Sys2Proof.Machine.execVor h x s
  | .vxor h x => Sys2Proof.Machine.execVxor h x s
  | .vandn h x => Sys2Proof.Machine.execVandn h x s
  | .vshl h x => Sys2Proof.Machine.execVshl h x s
  | .vshr h x => Sys2Proof.Machine.execVshr h x s
  | .vsra h x => Sys2Proof.Machine.execVsra h x s
  | .vpopc h x => Sys2Proof.Machine.execVpopc h x s
  | .vclz h x => Sys2Proof.Machine.execVclz h x s
  | .vsel h x => Sys2Proof.Machine.execVsel h x s
  | .vfma h x => Sys2Proof.Machine.execVfma h x s
  | .vfms h x => Sys2Proof.Machine.execVfms h x s
  | .vfnma h x => Sys2Proof.Machine.execVfnma h x s
  | .vaddi h x => Sys2Proof.Machine.execVaddi h x s
  | .vandi h x => Sys2Proof.Machine.execVandi h x s
  | .vshli h x => Sys2Proof.Machine.execVshli h x s
  | .vshri h x => Sys2Proof.Machine.execVshri h x s
  | .vsrai h x => Sys2Proof.Machine.execVsrai h x s
  | .vli h x => Sys2Proof.Machine.execVli h x s
  | .vcmp h x => Sys2Proof.Machine.execVcmp h x s
  | .mand h x => Sys2Proof.Machine.execMand h x s
  | .mor h x => Sys2Proof.Machine.execMor h x s
  | .mxor h x => Sys2Proof.Machine.execMxor h x s
  | .mandn h x => Sys2Proof.Machine.execMandn h x s
  | .mnot h x => Sys2Proof.Machine.execMnot h x s
  | .mlead h x => Sys2Proof.Machine.execMlead h x s
  | .many h x => Sys2Proof.Machine.execMany h x s
  | .mall h x => Sys2Proof.Machine.execMall h x s
  | .mpop h x => Sys2Proof.Machine.execMpop h x s
  | .mfirst h x => Sys2Proof.Machine.execMfirst h x s
  | .vcvt h x => Sys2Proof.Machine.execVcvt h x s
  | .vquant h x => Sys2Proof.Machine.execVquant h x s
  | .vdeq h x => Sys2Proof.Machine.execVdeq h x s
  | .vlscv h x => Sys2Proof.Machine.execVlscv h x s
  | .vlsadd h x => Sys2Proof.Machine.execVlsadd h x s
  | .vlsout h x => Sys2Proof.Machine.execVlsout h x s
  | .vrsum h x => Sys2Proof.Machine.execVrsum h x s
  | .vrmax h x => Sys2Proof.Machine.execVrmax h x s
  | .vrmin h x => Sys2Proof.Machine.execVrmin h x s
  | .vperm h x => Sys2Proof.Machine.execVperm h x s
  | .vzip h x => Sys2Proof.Machine.execVzip h x s
  | .vunzip h x => Sys2Proof.Machine.execVunzip h x s
  | .vrot h x => Sys2Proof.Machine.execVrot h x s
  | .vbcast h x => Sys2Proof.Machine.execVbcast h x s
  | .vexp2 h x => Sys2Proof.Machine.execVexp2 h x s
  | .vlog2 h x => Sys2Proof.Machine.execVlog2 h x s
  | .vrcp h x => Sys2Proof.Machine.execVrcp h x s
  | .vrsq h x => Sys2Proof.Machine.execVrsq h x s
  | .vtanh h x => Sys2Proof.Machine.execVtanh h x s
  | .vcx h x => Sys2Proof.Machine.execVcx h x s
  | .vtwr h x => Sys2Proof.Machine.execVtwr h x s
  | .vtrd h x => Sys2Proof.Machine.execVtrd h x s
  | .mNop h x => Sys2Proof.Machine.execMNop h x s
  | .mcall h x => Sys2Proof.Machine.execMcall h x s
  | .routineStart g => Sys2Proof.Machine.execRoutineStart g s
  | .routineLanding g => Sys2Proof.Machine.execRoutineLanding g s
  | .mzero h x => Sys2Proof.Machine.execMzero h x s
  | .mdrain h x => Sys2Proof.Machine.execMdrain h x s
  | .kNop h x => Sys2Proof.Machine.execKNop h x s
  | .kldh h x => Sys2Proof.Machine.execKldh h x s
  | .ksth h x => Sys2Proof.Machine.execKsth h x s
  | .kmvv h x => Sys2Proof.Machine.execKmvv h x s
  | .kmvz h x => Sys2Proof.Machine.execKmvz h x s
  | .kmov h x => Sys2Proof.Machine.execKmov h x s
  | .kltl h x => Sys2Proof.Machine.execKltl h x s
  | .cNop h x => Sys2Proof.Machine.execCNop h x s
  | .ldVector h x => Sys2Proof.Machine.execLdVector h x s
  | .stVector h x => Sys2Proof.Machine.execStVector h x s
  | .ldTile h x => Sys2Proof.Machine.execLdTile h x s
  | .stTile h x => Sys2Proof.Machine.execStTile h x s
  | .ldScalar k h x => Sys2Proof.Machine.execLdScalar k h x s
  | .stScalar k h x => Sys2Proof.Machine.execStScalar k h x s
  | .cpy h x => Sys2Proof.Machine.execCpy h x s
  | .cpyc h x => Sys2Proof.Machine.execCpyc h x s
  | .cpyq h x => Sys2Proof.Machine.execCpyq h x s
  | .cpyx h x => Sys2Proof.Machine.execCpyx h x s
  | .cpyz h x => Sys2Proof.Machine.execCpyz h x s
  | .wbld h x => Sys2Proof.Machine.execWbld h x s
  | .gath h x => Sys2Proof.Machine.execGath h x s
  | .scat h x => Sys2Proof.Machine.execScat h x s
  | .mcast h x => Sys2Proof.Machine.execMcast h x s
  | .cfence h x => Sys2Proof.Machine.execCfence h x s
  | .cacq h x => Sys2Proof.Machine.execCacq h x s
  | .crel h x => Sys2Proof.Machine.execCrel h x s
  | .ctld h x => Sys2Proof.Machine.execCtld h x s
  | .copyCommandStart g e => Sys2Proof.Machine.execCopyCommandStart g e s
  | .copyElement g e => Sys2Proof.Machine.execCopyElement g e s
  | .copyCommandComplete g e => Sys2Proof.Machine.execCopyCommandComplete g e s
  | .send h x => Sys2Proof.Machine.execSend h x s
  | .recv h x => Sys2Proof.Machine.execRecv h x s
  | .circuitDeparture m => Sys2Proof.Machine.execCircuitDeparture m s
  | .circuitArrival m => Sys2Proof.Machine.execCircuitArrival m s
  | .aadd h x => Sys2Proof.Machine.execAadd h x s
  | .aand h x => Sys2Proof.Machine.execAand h x s
  | .aor h x => Sys2Proof.Machine.execAor h x s
  | .axor h x => Sys2Proof.Machine.execAxor h x s
  | .amin h x => Sys2Proof.Machine.execAmin h x s
  | .amax h x => Sys2Proof.Machine.execAmax h x s
  | .axchg h x => Sys2Proof.Machine.execAxchg h x s
  | .acas h x => Sys2Proof.Machine.execAcas h x s
  | .atomicExecute a => Sys2Proof.Machine.execAtomicExecute a s
  | .accessPerform a i1 => Sys2Proof.Machine.execAccessPerform a i1 s
  | .writeAcknowledge a => Sys2Proof.Machine.execWriteAcknowledge a s
  | .sourceInterfaceRelease a => Sys2Proof.Machine.execSourceInterfaceRelease a s
  | .hbmRequestSend a => Sys2Proof.Machine.execHbmRequestSend a s
  | .segmentLineDelivered g fr line => Sys2Proof.Machine.execSegmentLineDelivered g fr line s
  | .handleValid g h => Sys2Proof.Machine.execHandleValid g h s
  | .translationCacheMiss g h => Sys2Proof.Machine.execTranslationCacheMiss g h s
  | .translationWalkEnd g h => Sys2Proof.Machine.execTranslationWalkEnd g h s
  | .placementRestart l => Sys2Proof.Machine.execPlacementRestart l s
  | .dataErrorDetected g => Sys2Proof.Machine.execDataErrorDetected g s
  | .rollbackRerunEnd g => Sys2Proof.Machine.execRollbackRerunEnd g s
  | .launchStart l => Sys2Proof.Machine.execLaunchStart l s
  | .launchRetirement l => Sys2Proof.Machine.execLaunchRetirement l s
  | .portalDmwr fn page size off packet => Sys2Proof.Machine.execPortalDmwr fn page size off packet s
  | .portalMisuse fn page write => Sys2Proof.Machine.execPortalMisuse fn page write s
  | .slotPoll sl => Sys2Proof.Machine.execSlotPoll sl s
  | .saveComplete l => Sys2Proof.Machine.execSaveComplete l s
  | .shootdownReachCore sd g => Sys2Proof.Machine.execShootdownReachCore sd g s
  | .shootdownComplete sd => Sys2Proof.Machine.execShootdownComplete sd s
  | .registerWrite fn bar off val => Sys2Proof.Machine.execRegisterWrite fn bar off val s
  | .streamStop e => Sys2Proof.Machine.execStreamStop e s
  | .streamFetch e sq => Sys2Proof.Machine.execStreamFetch e sq s
  | .deepTierReadStart e sq => Sys2Proof.Machine.execDeepTierReadStart e sq s
  | .deepTierReadEnd e sq bad => Sys2Proof.Machine.execDeepTierReadEnd e sq bad s
  | .streamTileComplete g e sq => Sys2Proof.Machine.execStreamTileComplete g e sq s
  | .streamSlotWrite g e sq => Sys2Proof.Machine.execStreamSlotWrite g e sq s
  | .tsvGroupFailed ch grp => Sys2Proof.Machine.execTsvGroupFailed ch grp s
  | .sparingSweepLine ch line => Sys2Proof.Machine.execSparingSweepLine ch line s
  | .refreshPlanWrite ch hot release => Sys2Proof.Machine.execRefreshPlanWrite ch hot release s
  | .refreshTakeover ch => Sys2Proof.Machine.execRefreshTakeover ch s
  | .blockReencryptionComplete blk => Sys2Proof.Machine.execBlockReencryptionComplete blk s
  | .spareBringIn u => Sys2Proof.Machine.execSpareBringIn u s
  | .spareThreshold u => Sys2Proof.Machine.execSpareThreshold u s
  | .shepherdCoreFailure die i1 => Sys2Proof.Machine.execShepherdCoreFailure die i1 s
  | .fatalError cause die => Sys2Proof.Machine.execFatalError cause die s
  | .thermalEvent deg die => Sys2Proof.Machine.execThermalEvent deg die s
  | .flr fn => Sys2Proof.Machine.execFlr fn s
  | .flrQuiesce fn => Sys2Proof.Machine.execFlrQuiesce fn s
  | .flrComplete fn => Sys2Proof.Machine.execFlrComplete fn s
  | .flitReceive l flit => Sys2Proof.Machine.execFlitReceive l flit s
  | .laneFailed l lane => Sys2Proof.Machine.execLaneFailed l lane s
  | .laneSpareSwitch l => Sys2Proof.Machine.execLaneSpareSwitch l s
  | .linkDown l reason => Sys2Proof.Machine.execLinkDown l reason s
  | .linkSilenceTimeout l => Sys2Proof.Machine.execLinkSilenceTimeout l s
  | .hostTermination l => Sys2Proof.Machine.execHostTermination l s
  | .bankCopyComplete hive bank => Sys2Proof.Machine.execBankCopyComplete hive bank s
  | .frameStart => Sys2Proof.Machine.execFrameStart s
  | .admissionPass => Sys2Proof.Machine.execAdmissionPass s
  | .rampSlotBoundary => Sys2Proof.Machine.execRampSlotBoundary s
  | .doorbell => Sys2Proof.Machine.execDoorbell s
  | .qreset => Sys2Proof.Machine.execQreset s
  | .resumeRetry => Sys2Proof.Machine.execResumeRetry s
  | .resumeRetranslate => Sys2Proof.Machine.execResumeRetranslate s
  | .resumeSkip => Sys2Proof.Machine.execResumeSkip s
  | .resumeClearPrt => Sys2Proof.Machine.execResumeClearPrt s
  | .resumeTerminate => Sys2Proof.Machine.execResumeTerminate s
  | .shootN => Sys2Proof.Machine.execShootN s
  | .frHead => Sys2Proof.Machine.execFrHead s
  | .execCmd => Sys2Proof.Machine.execExecCmd s
  | .qcreate => Sys2Proof.Machine.execQcreate s
  | .qdestroy => Sys2Proof.Machine.execQdestroy s
  | .shoot2 => Sys2Proof.Machine.execShoot2 s
  | .shootF => Sys2Proof.Machine.execShootF s
  | .rekey => Sys2Proof.Machine.execRekey s
  | .create => Sys2Proof.Machine.execCreate s
  | .cost => Sys2Proof.Machine.execCost s
  | .rights => Sys2Proof.Machine.execRights s
  | .replica => Sys2Proof.Machine.execReplica s
  | .schedule => Sys2Proof.Machine.execSchedule s
  | .stop => Sys2Proof.Machine.execStop s
  | .replace => Sys2Proof.Machine.execReplace s
  | .loadDeep => Sys2Proof.Machine.execLoadDeep s
  | .fwStage => Sys2Proof.Machine.execFwStage s
  | .fwCommit => Sys2Proof.Machine.execFwCommit s
  | .devReset => Sys2Proof.Machine.execDevReset s
  | .attest => Sys2Proof.Machine.execAttest s
  | .hrBase => Sys2Proof.Machine.execHrBase s
  | .periodBoundary => Sys2Proof.Machine.execPeriodBoundary s
  | .powerGood => Sys2Proof.Machine.execPowerGood s
  | .spare => Sys2Proof.Machine.execSpare s
  | .spareAck => Sys2Proof.Machine.execSpareAck s
  | .align => Sys2Proof.Machine.execAlign s
  | .alignAck => Sys2Proof.Machine.execAlignAck s
  | .down => Sys2Proof.Machine.execDown s
  | .linkRead => Sys2Proof.Machine.execLinkRead s
  | .linkWrite => Sys2Proof.Machine.execLinkWrite s
  | .linkAtomic => Sys2Proof.Machine.execLinkAtomic s
  | .readReply => Sys2Proof.Machine.execReadReply s
  | .writeAcknowledgment => Sys2Proof.Machine.execWriteAcknowledgment s
  | .atomicReply => Sys2Proof.Machine.execAtomicReply s
  | .linkScheduleActivate => Sys2Proof.Machine.execLinkScheduleActivate s
  | .dieLinkLost => Sys2Proof.Machine.execDieLinkLost s
  | .flitTime => Sys2Proof.Machine.execFlitTime s
  | .commandDone => Sys2Proof.Machine.execCommandDone s

end Sys2Proof.Machine
end

