-- ==== Sys2Proof/Machine/Step.lean ====
section
/-!
DEFINITION. One step of the machine: the next step of the agenda or of a core, and, for the issue of a bundle, every syllable of
the repetition (R91).
-/
namespace Sys2Proof.Machine

open Sys2Proof

/-- The syllables of a repetition run one after another; all have read their sources of the same cycle (R94). -/
def runSyllables : List Instr → State → Res
  | [], s => .next s
  | i :: is, s =>
    match exec i s with
    | .next s1 => runSyllables is s1
    | .fault f => .fault f
    | .refused r => .refused r

/-- A step runs, and the repetition that it has issued, if it has, runs to its end. -/
def runStep (i : Instr) (s : State) : Res :=
  match exec i s with
  | .next s1 =>
    if s1.issuing then
      match runSyllables s1.micro s1 with
      | .next s2 => .next (closeIssue s2)
      | .fault f => .fault f
      | .refused r => .refused r
    else .next s1
  | .fault f => .fault f
  | .refused r => .refused r

/-- Why no step is due. -/
def idleFault (s : State) : Fault := if s.up then .noSuchAgent else .deviceDown

/-- One step: what is due at the present reference cycle, or, with nothing due, at the next one at which something is. -/
def step (s : State) : Host.Outcome State Fault Refusal :=
  match nextNow s with
  | some (i, s1) => runStep i s1
  | none =>
    match nextNow (advanceTime s) with
    | some (i, s1) => runStep i s1
    | none => .fault (idleFault s)

/-- The core that `State.withFetchWord` lets run: at launch start, with the given words from address 0 on. -/
def fetchCore (now l : Nat) (words : List Word) : Core :=
  { Core.reset with
    launch := some l, started := true, code := (List.range words.length).zip words, frameSeg := [(0, some 0)], turn := now
    region := { Region.reset with num := 1 } }

/-- The launch of that core. -/
def fetchLaunch (now : Nat) : Launch :=
  { newLaunch 0 0 0 [] 0 now [] false with
    state := .running, cores := [0], start := now, rho := now, lastStart := now, image := { Image.empty with h := 1, c := 1 } }

/-- The state with a bundle placed where the next step fetches: core 0 runs a launch of its own whose first bundle is that of
the words, nothing else is due in this reference cycle, and every other core has taken its turn (DESIGN CHOICE, log entry 2). -/
def State.withFetchWord (s : State) (nbits w : Nat) : State :=
  let x := w % 2 ^ nbits
  let words := (List.range 8).map fun i => BitVec.ofNat 64 (x / 2 ^ (64 * i))
  let c := fetchCore s.now s.nextId words
  let others := (s.cores.filter fun (g, _) => g != 0).map fun (g, c) => (g, { c with turn := Nat.max c.turn (s.now + 1) })
  { s with
    up := true, nextId := s.nextId + 1, cores := (0, c) :: others, launches := s.launches.put s.nextId (fetchLaunch s.now)
    checkpoints := s.checkpoints.put 0 [c], agenda := s.agenda.filter fun (t, _, _) => s.now < t, issuing := false, micro := [] }

end Sys2Proof.Machine
end

