-- ==== Sys2Proof/Safety.lean ====
section
/-!
DEFINITION. What counts as a safe run, the invariant of the machine, and the terms in which statements about steps are made:
when a syllable acts, what a step leaves alone, and the elements that a result lands with.
-/
namespace Sys2Proof.Machine

/-- A step is safe when the machine goes on. -/
def Safe (o : Host.Outcome State Fault Refusal) : Prop := ∃ t, o = .next t

/-- A run of `n` steps from a state is safe. -/
def SafeRun : Nat → State → Prop
  | 0, _ => True
  | n + 1, s => ∃ t, step s = .next t ∧ SafeRun n t

/-- The invariant of the machine: memory keeps its canonical form. -/
def State.Inv (s : State) : Prop := Memory.wf s.mem = true

/-! ## When a syllable acts -/

/-- The predicate of an S syllable is true, and neither it nor a unit the syllable reads is pending under `%debug.PRT`. -/
def SReady (s : State) (h : SHead) (reads : List ReadUnit) : Prop :=
  pendingCheck s.curCore (rFlagPred h.prd) = none ∧ flagPred s.curCore h.prd h.pn = true ∧
    pendingCheck s.curCore reads = none

/-- The same of a syllable of the M, K or copy class. -/
def FReady (s : State) (h : Head) (reads : List ReadUnit) : Prop :=
  pendingCheck s.curCore (rFlagPred h.prd) = none ∧ flagPred s.curCore h.prd h.pn = true ∧
    pendingCheck s.curCore reads = none

/-- Neither the predicate of a V syllable nor a unit it reads is pending under `%debug.PRT`. -/
def VReady (s : State) (h : Head) (reads : List ReadUnit) : Prop :=
  pendingCheck s.curCore (rMaskPred h.prd) = none ∧ pendingCheck s.curCore reads = none

/-! ## What a step leaves alone -/

/-- Two states that differ in their cores and launches at most: memory, its metadata, the memory system's queues, the front end,
translation, the commons, the links and the management registers are the same. -/
def SameButCores (s t : State) : Prop :=
  t = { s with cores := t.cores, launches := t.launches }

/-- Every byte of memory reads the same, and so does every poison mark. -/
def SameMemory (s t : State) : Prop :=
  (∀ a, readByte t a = readByte s a) ∧ ∀ a, poisoned t a = poisoned s a

/-- Two cores hold the same architectural registers: scalars, flags, masks, vectors, scales, tiles, accumulators, parameters,
handles, buffer records, branch targets, wait flags, next tiles, loop counters, claim windows, spill memory, the weight
buffer, the tables, and the control registers that software writes. -/
def SameRegisters (c d : Core) : Prop :=
  d.s = c.s ∧ d.f = c.f ∧ d.m = c.m ∧ d.v = c.v ∧ d.z = c.z ∧ d.t = c.t ∧ d.tPoison = c.tPoison ∧ d.acc = c.acc ∧
    d.accFlags = c.accFlags ∧ d.a = c.a ∧ d.h = c.h ∧ d.bf = c.bf ∧ d.b = c.b ∧ d.w = c.w ∧ d.nt = c.nt ∧ d.lp = c.lp ∧
    d.cw = c.cw ∧ d.spill = c.spill ∧ d.wb = c.wb ∧ d.levels = c.levels ∧ d.conv = c.conv ∧ d.fpflags = c.fpflags ∧
    d.prt = c.prt

/-- The numbers of a table stand in rising order, each once. -/
def Rising {α : Type} (t : Table α) : Prop := (t.map (·.1)).Pairwise (· < ·)

/-- What an S syllable answers whose check names an illegal operation of its own (R344). -/
def illegalS (s : State) (i : Instr) : Res := .next (stepFault s 0 2 0 (withWord i (illegalOp 0 0)).arg0 0)

/-- A step is due: it stands in the agenda at a reference cycle. -/
def DueAt (t : State) (at_ : Nat) (i : Instr) : Prop := ∃ k, (at_, k, i) ∈ t.agenda

/-! ## Results -/

/-- `t` is `s` with elements of `vd` to land: of the first `n` elements of `w` bits those for which `en` holds are written, each with
the encoding that `f` gives it, and the flags of those are ORed in. -/
def LandsElems (s t : State) (slot lat vd w n : Nat) (en : Nat → Bool) (f : Nat → Rounded) : Prop :=
  ∃ v e : Vec, t = landFlags (land s slot lat (.vReg vd v e)) slot lat (flagsOf en f n) ∧
    ∀ k, k < n → (en k = true → elem w v k = (f k).enc % 2 ^ w) ∧ elem w e k = if en k then 2 ^ w - 1 else 0

/-- A format-V instruction of two sources, or of one when `unary`: element `k` of the result is `f` of element `k` of the
sources, and lands `lat` cycles after the issue, or one more where a register lies outside the slot's cluster (R27, R146). -/
def VectorResult (s t : State) (h : Head) (x : FmtV) (unary : Bool) (lat : Nat) (f : Nat → Nat → Rounded) : Prop :=
  let w := widthOf x.fmt.toNat
  let regs := [stepReg h x.vd.toNat, stepReg h x.va.toNat] ++ (if unary || x.bc = 1 then [] else [stepReg h x.vb.toNat])
  LandsElems s t (slotNum h.slot) (lat + crossing h.slot regs) (stepReg h x.vd.toNat) w (4096 / w)
    (lanes (maskPred s.curCore h.prd h.pn) w) fun k =>
      f (elem w (s.curCore.vGet (stepReg h x.va.toNat)) k) (secondSource s.curCore h x.bc x.vb w k)

/-- The units that a format-V instruction reads. -/
def vectorReads (h : Head) (x : FmtV) (unary : Bool) : List ReadUnit :=
  (stepReg h x.va.toNat :: if unary || x.bc = 1 then [] else [stepReg h x.vb.toNat]).map rV

/-- A format-J instruction: element `k` of the result is `f` of element `k` of `va` (R151). -/
def ImmediateResult (s t : State) (h : Head) (x : FmtJ) (f : Nat → Rounded) : Prop :=
  let w := widthOf x.fmt.toNat
  LandsElems s t (slotNum h.slot) (2 + crossing h.slot [stepReg h x.vd.toNat, stepReg h x.va.toNat])
    (stepReg h x.vd.toNat) w (4096 / w) (lanes (maskPred s.curCore h.prd h.pn) w) fun k =>
      f (elem w (s.curCore.vGet (stepReg h x.va.toNat)) k)

/-- A move of elements: element `k` of the result is `f k` (R160 to R162). -/
def MoveResult (s t : State) (h : Head) (fmt vd : Nat) (srcs : List Nat) (f : Nat → Nat) : Prop :=
  let w := widthOf fmt
  LandsElems s t (slotNum h.slot) (3 + crossing h.slot (stepReg h vd :: srcs)) (stepReg h vd) w (4096 / w)
    (lanes (maskPred s.curCore h.prd h.pn) w) fun k => ⟨f k, 0⟩

end Sys2Proof.Machine
end

