-- ==== Sys2Proof/Certificates/Slice0/Obligations.lean ====
section
/-!
DEFINITION. The statements about this machine for the provers: what each instruction and each step of the device does, what it
leaves alone, and the rules of the whole machine.
-/
open Sys2Proof Sys2Proof.Machine

/-! ## The machine -/

/-- R25, R26, R36, R40, R405, R406: what the manual says of the module right after reset: device time 0, nothing in memory,
no function enabled, no queue, no launch, no subscription, every link trained, the ramp limits and the power cap at their
defaults; and of a core: `s0`, the flags but `f7`, masks, vectors, tiles and accumulators zero, handles invalid, records
undeclared, no prepared target, null next tiles, `%sig` all ones. The model's own choices in it are log entries 2, 4 and 5. -/
def Obligations.ResetState : Prop :=
  let s := State.reset
  s.now = 0 ∧ s.up = true ∧ s.mem = [] ∧ (∀ f, (s.func f).en = false) ∧ s.queues = [] ∧ s.launches = [] ∧ s.accesses = [] ∧
  s.riseNow = 200 ∧ s.fallNow = 200 ∧ s.capNow = 2800 ∧ s.dieLink = true ∧ (∀ l, (Table.get Link.reset s.links l).up = true) ∧
  (∀ e, (Table.get DirEntry.reset s.directory e).state = 0) ∧
  ∀ g, let c := s.core g
    (∀ r, c.sGet r = 0) ∧ (∀ r < 7, c.fGet r = false) ∧ c.fGet 7 = true ∧ (∀ r, c.mGet r = 0) ∧ (∀ r, c.vGet r = 0) ∧
    (∀ r, c.zGet r = 0) ∧ (∀ k, c.tGet k = 0) ∧ (∀ k, c.accGet k = 0) ∧ (∀ r, c.aGet r = 0) ∧ (∀ r, (c.hGet r).valid = false) ∧
    (∀ r, (c.bfGet r).ext = 0) ∧ (∀ r, c.bGet r = none) ∧ (∀ r, c.ntGet r = 0x8000000000000000) ∧
    (∀ r, (c.lpGet r).active = false) ∧ c.w = 0 ∧ c.fpflags = 0 ∧ c.sig = 0xFFFFFFFF ∧ c.cycle = 0 ∧ c.pc = 0

/-- The invariant holds at reset: memory has its canonical form. The model's own choices in it are log entry 4. -/
def Obligations.ResetHasTheInvariant : Prop := State.reset.Inv

/-- The machine's invariant: from every state whose memory has its canonical form, a step that goes on leads to such a
state. The model's own choices in it are log entry 4. -/
def Obligations.StepKeepsTheInvariant : Prop := ∀ s t : State, s.Inv → step s = .next t → t.Inv

/-- Memory in canonical form: a byte written reads back, every other byte reads as before, the form is kept, and a word of 8
bytes reads back with its lowest byte at its lowest address (R19, R246). The model's own choices in it are log entry 4. -/
def Obligations.MemoryReadsBack : Prop :=
  ∀ (s : State) (a : Nat), s.Inv →
    (∀ b : Byte, (writeByte s a b).Inv ∧ ∀ x, readByte (writeByte s a b) x = if x = a then b else readByte s x) ∧
    (∀ w : Word, (writeWord s a w).Inv ∧ readWord (writeWord s a w) a = w ∧ readByte (writeWord s a w) a = w.setWidth 8 ∧
      ∀ x, x < a ∨ a + 8 ≤ x → readByte (writeWord s a w) x = readByte s x)

/-- A step runs the decoded instruction. When a core is next to issue, its bundle names one slot, the word there decodes to
`i`, nothing sticks, nothing holds the repetition and no check fails, the step is `exec` of `i`, with the bundle's broadcast
value, in the state in which the repetition has issued, followed by the end of the repetition (R83, R91); where the core
commits first, nothing that its commit sends on its way stops the placement. A step of the agenda that is due is `exec` of
it with the entry removed (R48). The model's own choices in it are log entries 1 and 27. -/
def Obligations.StepRunsTheDecodedInstruction : Prop :=
  (∀ (s : State) (g : Nat) (b : Bundle) (sl : Slot) (w : Word) (i : Instr),
    let c := s.core g
    let i' := atIssue i 0 (broadcast c b.head)
    let items : List Item := [⟨sl, w, true, .ok i'⟩]
    let s1 := prepare (commitIf s g (commitDue c b [i'])) g b
    nextNow s = some (.bundleIssue g, s) → hasMet (commitIf s g (commitDue c b [i'])) g = false → c.skip = false → c.sticky = [] → fetch c = .ok b → b.words = [(sl, w)] →
    decodeSyllable sl w = .ok i → holdCause s1 [i'] = 0 → stepCheck s1 b items = none →
      step s = match exec i' (issue s1 g b items) with
        | .next t => .next (closeIssue t)
        | .fault f => .fault f
        | .refused r => .refused r) ∧
  (∀ (s t : State) (a k : Nat) (i : Instr) (rest : List (Nat × Nat × Instr)),
    s.agenda = (a, k, i) :: rest → a ≤ s.now → exec i { s with agenda := rest } = .next t → t.issuing = false →
      step s = .next t)

/-- The words that the manual writes out decode to the instructions that it says they stand for: of the S class PREP, CMP,
ADDI, CWSET, CLAIM.READ, PHASE, FENCE and HALT, of the V class MLEAD, VCVT, VCX, VADD and a VQUANT that sticks, of the M
class MCALL and MDRAIN, of the K class KLDH, and of the copy class a load, a store, a copy and an atomic. -/
def Obligations.WordsDecode : Prop :=
  decodeSyllable .s 0x4078800000300000 = .ok (.prep ⟨15, 0⟩ ⟨1, 0, 24⟩) ∧
  decodeSyllable .s 0x30788200C0000000 = .ok (.cmp ⟨15, 0⟩ ⟨1, 1, 0, 1, 1, 0⟩) ∧
  decodeSyllable .s 0x2078514000000400 = .ok (.addi ⟨15, 0⟩ ⟨5, 5, 1024⟩) ∧
  decodeSyllable .s 0x6A780000200000A0 = .ok (.cwSet ⟨15, 0⟩ ⟨0, 0, 0, 1, 0, 0, 160⟩) ∧
  decodeSyllable .s 0x6878C00000040800 = .ok (.claimRead ⟨15, 0⟩ ⟨12, 0, 0, 0, 0, 64, 2048⟩) ∧
  decodeSyllable .s 0x6078000049000000 = .ok (.phase ⟨15, 0⟩ ⟨0, 0, 0, 2, 9, 0, 0⟩) ∧
  decodeSyllable .s 0x5078000000040003 = .ok (.fence ⟨15, 0⟩ ⟨0, 0, 0x40003⟩) ∧
  decodeSyllable .s 0x5978000000000000 = .ok (.halt ⟨15, 0⟩ ⟨0, 0, 0, 0, 0, 0, 0⟩) ∧
  decodeSyllable .v0 0x2D78400020000000 = .ok (.mlead ⟨.v0, 0, 15, 0, 0, 0, 0⟩ ⟨1, 0, 0, 0, 32⟩) ∧
  decodeSyllable .v0 0x3879C06004009800 = .ok (.vcvt ⟨.v0, 0, 15, 0, 0, 0, 0⟩ ⟨7, 6, 1, 0x26, 0⟩) ∧
  decodeSyllable .v1 0x607994A501425300 = .ok (.vcx ⟨.v1, 0, 15, 0, 0, 0, 0⟩ ⟨6, 330, 320, 322, 332, 0⟩) ∧
  decodeSyllable .v1 0x0179956559540000 = .ok (.vadd ⟨.v1, 0, 15, 0, 0, 0, 0⟩ ⟨6, 342, 342, 340, 0, 0, 0⟩) ∧
  decodeSyllable .v0 0x3A8AC0B080306080 = .ok (.vquant ⟨.v0, 1, 1, 0, 1, 0, 0⟩ ⟨0xB, 11, 1, 1, 0x83, 0⟩) ∧
  decodeSyllable .m 0x0178150000000000 = .ok (.mcall ⟨.m, 0, 15, 0, 0, 0, 0⟩ ⟨5, 1, 0⟩) ∧
  decodeSyllable .m 0x0379000A15800000 = .ok (.mdrain ⟨.m, 0, 15, 0, 0, 0, 0⟩ ⟨1, 0, 20, 5, 3⟩) ∧
  decodeSyllable .k 0x0178830000BFC00C = .ok (.kldh ⟨.k, 0, 15, 0, 0, 0, 0⟩ ⟨4, 3, 0, 0, 0, 2, 255, 12⟩) ∧
  decodeSyllable .c0 0x01782808000C00C8 = .ok (.ldVector ⟨.c0, 0, 15, 0, 0, 0, 0⟩ ⟨40, 1, 0, 0, 3, 0, 200⟩) ∧
  decodeSyllable .c0 0x02780C0800020820 = .ok (.stVector ⟨.c0, 0, 15, 0, 0, 0, 0⟩ ⟨12, 1, 0, 4, 1, 0, 2⟩) ∧
  decodeSyllable .c0 0x2278010C86090000 = .ok (.cpyq ⟨.c0, 0, 15, 0, 0, 0, 0⟩ ⟨0, 1, 100, 3, 0, 0, 0, 1, 4⟩) ∧
  decodeSyllable .c0 0x3878518010E20070 =
    .ok (.aadd ⟨.c0, 0, 15, 0, 0, 0, 0⟩ ⟨5, 6, 0, 2, 7, 1, 0, 14⟩)

/-- Every syllable that a word of the program can give has an encoding that decodes to it again, with every operand at every
value that the encoding admits. -/
def Obligations.EncodingDecodesBack : Prop :=
  ∀ i : Instr, isWord i = true → ∃ sl w, encode i = some (sl, w) ∧ decodeSyllable sl w = .ok i

/-- A word has one meaning: a word of a slot that decodes is the encoding of what it decodes to; and a header word is that
of its fields. -/
def Obligations.WordsHaveOneMeaning : Prop :=
  (∀ (sl : Slot) (w : Word) (i : Instr), decodeSyllable sl w = .ok i → encode i = some (sl, w)) ∧
  (∀ w : Word, headerWord (readHeader w) = w) ∧ ∀ h : Header, readHeader (headerWord h) = h

/-- R91, R93: every syllable issues by its plan: a check of step 3 that fails stops the placement with its fault, for the
slot of the syllable, and nothing else of it happens; a false predicate suppresses it; otherwise it acts. R93: an S syllable
that takes no landing entries and a syllable of the M, K and copy classes other than a request do nothing when their
predicate is false and not pending: here all of the S slot but CLAIM, CLAIM.READ and the commons instructions, all of M, the
K moves, the stores, the copy commands and SEND. -/
def Obligations.SyllablesIssueByTheirPlan : Prop :=
  (∀ (i : Instr) (s : State), i.isSyllable = true →
     let p := planOf i s
     (∀ k, p.fault s.curCore = some k → exec i s = .next (raise s p.slot (withWord i k))) ∧
     (p.fault s.curCore = none → p.enabled = false → exec i s = .next (p.off s)) ∧
     (p.fault s.curCore = none → p.enabled = true → exec i s = .next (p.run s))) ∧
  (∀ (i : Instr) (s : State), i.isSyllable = true → (planOf i s).enabled = false →
     pendingCheck s.curCore (planOf i s).pred = none →
     (entriesOf i).2 = 0 → exec i s = .next s)

/-- R344 to R348: a check of step 3 that fails while the placement runs stops its launch, at this reference cycle, with a
record of the fault; the core keeps every register, and no other core changes. The model's own choices in it are log entry
25. -/
def Obligations.FaultStopsThePlacement : Prop :=
  ∀ (s : State) (slot code cause : Nat) (a0 a1 : Word) (l : Nat) (x : Launch),
    s.curCore.launch = some l → s.launch? l = some x → x.state = .running → (∀ g ∈ x.cores, (s.core g).rerun = none) →
    ∃ y, (stepFault s slot code cause a0 a1).launch? l = some y ∧ y.state = .stopped ∧ y.stopAt = s.now ∧
      (∃ r, y.stops = x.stops ++ [r] ∧ r.g = s.cur ∧ r.kind = 1 ∧ r.code = code ∧ r.slot = slot ∧ r.answer = none ∧
        r.words.getD 3 0 = BitVec.ofNat 64 s.curCore.iCyc ∧ r.words.getD 5 0 = a0 ∧ r.words.getD 6 0 = a1) ∧
      SameRegisters s.curCore ((stepFault s slot code cause a0 a1).core s.cur) ∧
      ∀ g ≠ s.cur, (stepFault s slot code cause a0 a1).core g = s.core g

/-- R94, R95, R111: a result that is made lands later: until then it is one more pending write of the core, due the latency
after the issue cycle, and no register, no other core and no memory changes; a result for `s0` or `f7` is none. R95: of two
writes of one cycle to one scalar register the one issued later lands last, and of one issue cycle that of the later slot;
flags that results OR in follow a CSRW to `%fpflags`, and so do those that an engine has ORed in during the reference cycle
(R31). -/
def Obligations.ResultsLandInOrder : Prop :=
  (∀ (s : State) (slot lat r : Nat) (e : Effect) (v : Word) (f : Bool),
     let c := s.curCore
     (land s slot lat e = s.setCore s.cur { c with writes := c.writes ++ [⟨c.iCyc + lat, c.iCyc, slot, e⟩] }) ∧
     SameRegisters c (land s slot lat e).curCore ∧ (∀ g ≠ s.cur, (land s slot lat e).core g = s.core g) ∧
     SameMemory s (land s slot lat e) ∧ SameButCores s (land s slot lat e) ∧
     landS s slot lat r v = (if r = 0 then s else land s slot lat (.sReg r v)) ∧
     landF s slot lat r f = (if r = 7 then s else land s slot lat (.fReg r f))) ∧
  (∀ (s : State) (g : Nat) (a b : Write),
     let c := s.core g
     (dueWrites c = [a, b] ∨ dueWrites c = [b, a]) →
     (∀ r u v, r ≠ 0 → a.eff = .sReg r u → b.eff = .sReg r v → a.issue < b.issue ∨ (a.issue = b.issue ∧ a.slot < b.slot) →
       ∃ t, exec (.registerWriteLanding g) s = .next t ∧ (t.core g).sGet r = v) ∧
     (∀ u v, a.eff = .csrFlags u → b.eff = .orFlags v →
       ∃ t, exec (.registerWriteLanding g) s = .next t ∧
         (t.core g).fpflags = u ||| (if c.flagsAt = s.now + 1 then c.flagsIn else 0) ||| v))

/-- R25, R31, R94, R95: a write lands in its unit at the cycle it is due, and nowhere else: the core keeps everything but
the unit, its pending writes, `%sig` and the undo log of its region. The units: a scalar or flag register, the enabled bits
of a mask, vector or scale register, the enabled bytes of a tile row with its poison mark, an accumulator row with its row
flags, all rows of an accumulator, a parameter, a next tile, which counts as not taken, a spill word, a branch target, a
loop counter, a claim window, `%fpflags`, the wait flags, of which one set in the same reference cycle stays set, a level
table, and the valid bit of a handle. `s0` reads zero and `f7` one, whatever lands. The model's own choices in it are log
entry 144. -/
def Obligations.LandingsWriteTheirUnit : Prop :=
  ∀ (s : State) (g : Nat) (w : Write),
    let c := s.core g
    let c1 := { c with writes := c.writes.filter (fun x => !decide (x.due ≤ c.cycle)), sig := absorbEffect c.sig w.eff
                       region := logEffect c.region w.eff }
    dueWrites c = [w] → ∃ t, exec (.registerWriteLanding g) s = .next t ∧ SameMemory s t ∧ SameButCores s t ∧ t.launches = s.launches ∧
      (∀ k ≠ g, t.core k = s.core k) ∧
      let d := t.core g
      (∀ r v, w.eff = .sReg r v → d = { c1 with s := d.s } ∧
        ∀ q, d.sGet q = if q = 0 then 0 else if q = r then v else c.sGet q) ∧
      (∀ r v, w.eff = .fReg r v → r < 8 → d = { c1 with f := d.f } ∧
        ∀ q < 8, d.fGet q = if q = 7 then true else if q = r then v else c.fGet q) ∧
      (∀ r v en, w.eff = .mReg r v en → d = { c1 with m := d.m } ∧ ∀ q i, i < 128 →
        (d.mGet q).getLsbD i = if q = r ∧ en.getLsbD i = true then v.getLsbD i else (c.mGet q).getLsbD i) ∧
      (∀ r v en, w.eff = .vReg r v en → d = { c1 with v := d.v } ∧ ∀ q i, i < 4096 →
        (d.vGet q).getLsbD i = if q = r ∧ en.getLsbD i = true then v.getLsbD i else (c.vGet q).getLsbD i) ∧
      (∀ r v en, w.eff = .zReg r v en → d = { c1 with z := d.z } ∧ ∀ q i, i < 4096 →
        (d.zGet q).getLsbD i = if q = r ∧ en.getLsbD i = true then v.getLsbD i else (c.zGet q).getLsbD i) ∧
      (∀ k v en p, w.eff = .tRow k v en p → d = { c1 with t := d.t, tPoison := d.tPoison } ∧
        (∀ q i, i < 1024 →
          (d.tGet q).getLsbD i = if q = k ∧ en.getLsbD i = true then v.getLsbD i else (c.tGet q).getLsbD i) ∧
        ∀ q, Table.get false d.tPoison q =
          if q = k then (p || (decide (en ≠ BitVec.allOnes 1024) && Table.get false c.tPoison k)) else Table.get false c.tPoison q) ∧
      (∀ k v fl, w.eff = .accRow k v fl → d = { c1 with acc := d.acc, accFlags := d.accFlags } ∧
        ∀ q, d.accGet q = (if q = k then v else c.accGet q) ∧ d.accFlagGet q = if q = k then fl else c.accFlagGet q) ∧
      (∀ n, w.eff = .accZero n → d = { c1 with acc := d.acc, accFlags := d.accFlags } ∧
        ∀ q, d.accGet q = (if q / 128 = n then 0 else c.accGet q) ∧ d.accFlagGet q = if q / 128 = n then 0 else c.accFlagGet q) ∧
      (∀ r v, w.eff = .aReg r v → d = { c1 with a := d.a } ∧ ∀ q, d.aGet q = if q = r then v else c.aGet q) ∧
      (∀ r v, w.eff = .ntReg r v → r < 4 → d = { c1 with nt := d.nt, ntTaken := d.ntTaken } ∧
        ∀ q < 4, d.ntGet q = (if q = r then v else c.ntGet q) ∧
          d.ntTaken.getLsbD q = if q = r then false else c.ntTaken.getLsbD q) ∧
      (∀ r v, w.eff = .spill r v → d = { c1 with spill := d.spill } ∧ ∀ q, d.spillGet q = if q = r then v else c.spillGet q) ∧
      (∀ r v, w.eff = .bReg r v → d = { c1 with b := d.b } ∧ ∀ q, d.bGet q = if q = r then v else c.bGet q) ∧
      (∀ r v, w.eff = .lpReg r v → d = { c1 with lp := d.lp } ∧ ∀ q, d.lpGet q = if q = r then v else c.lpGet q) ∧
      (∀ r v, w.eff = .cwReg r v → d = { c1 with cw := d.cw } ∧ ∀ q, d.cwGet q = if q = r then v else c.cwGet q) ∧
      (∀ v, w.eff = .orFlags v → d = { c1 with fpflags := c.fpflags ||| v }) ∧
      (∀ v, w.eff = .csrFlags v → d = { c1 with fpflags := v ||| if c.flagsAt = s.now + 1 then c.flagsIn else 0 }) ∧
      (∀ m, w.eff = .clearWait m → d = { c1 with w := d.w } ∧ ∀ i < 32,
        d.w.getLsbD i = (c.w.getLsbD i && (!m.getLsbD i || c.setAt.any fun e => e.1 == i && e.2 == s.now + 1))) ∧
      (∀ tab v, w.eff = .levelTable tab v → d = { c1 with levels := d.levels } ∧ ∀ n code, code < 16 →
        d.levelGet n code = if n = tab then v.extractLsb' (16 * code) 16 else c.levelGet n code) ∧
      (∀ h, w.eff = .releaseHandle h → d = { c1 with h := d.h } ∧
        ∀ q, d.hGet q = if q = h then { c.hGet h with valid := false } else c.hGet q)

/-- R48, R49, R87, R91, R361: how a core takes its cycle. A repetition that nothing holds and no check stops issues: its
syllables are to run in slot order. One that is held takes a reference cycle in which the core does not issue: the cause of
R48 that holds it is charged (7 a handle of an XLATE in progress, 9 the landing buffer, 10 a full queue, 11 a reserved
bank), its counter adds 1 if the cycle before was charged to another, and `%cycle` stays; so does one whose wait is not
satisfied (8). A bundle in no frame is the segment table fault. The data whose named cycle has come joins the landings, data
that has not come freezes the core (5), and a freeze or a landing-buffer hold of 2 ms is the landing timeout, with CAUSE 1
and the named cycle and slot of the late data, or CAUSE 2 and those of the request that is held. R139, R140: a line of a
segment that is delivered, neither its block nor what names it in re-encryption, stands in its frame, at its place, and no
other word of the program changes; the next line is due two cycles later, and the copy is over with its last line when none
is late. The model's own choices in it are log entries 1, 21, 23 and 27. -/
def Obligations.CoresTakeTheirCycle : Prop :=
  (∀ (s : State) (g : Nat) (b : Bundle),
     let c := s.core g
     let is := instrsOf (itemsOf c b)
     let s0 := commitIf s g (commitDue c b is)
     let s1 := prepare s0 g b
     (fetch c = .ok b → hasMet s0 g = false → c.skip = false →
       (holdCause s1 is = 0 → stepCheck s1 b (itemsOf c b) = none →
         ∃ t, exec (.bundleIssue g) s = .next t ∧ t = issue s1 g b (itemsOf c b) ∧ t.issuing = true ∧ t.cur = g ∧
           t.micro = instrsOf (bySlot (itemsOf c b)) ∧ t.curCore.turn = s.now + 1) ∧
       (holdCause s1 is = 0 → ∀ sl k, stepCheck s1 b (itemsOf c b) = some (sl, k) →
         exec (.bundleIssue g) s = .next (raise s1 sl k)) ∧
       (∀ k, holdCause s1 is = k → k ≠ 0 → (k = 7 ∨ k = 9 ∨ k = 10 ∨ k = 11) ∧ exec (.bundleIssue g) s = .next (holdCore s1 g k) ∧
         holdCore s1 g k = s1.setCore g (chargeHold s.now k (s1.core g)))) ∧
     (fetch c = .stall → exec (.bundleIssue g) s = .next (s.setCore g (chargeHold s.now 6 c))) ∧
     (fetch c = .absent → c.skip = false → ∃ k, k.code = 0x11 ∧ k.cause = 5 ∧
       exec (.bundleIssue g) s = .next (raise (prepare s g blankBundle) 7 k)) ∧
     (fetch c = .ok b → waits c b = true → flagReady c b.head = true →
       exec (.waitEvaluation g) s = .next (s.setCore g { c with waitOk := true })) ∧
     (fetch c = .ok b → waits c b = true → flagReady c b.head = false →
       let s2 := prepare (commitCore s g) g b
       let k := if interlocked s2 is then 7 else 8
       exec (.waitEvaluation g) s = .next (holdCore s2 g k) ∧ holdCore s2 g k = s2.setCore g (chargeHold s.now k (s2.core g))) ∧
     (isLate c = true → exec (.variableLanding g) s = .next (holdCore s g 5) ∧ holdCore s g 5 = s.setCore g (chargeHold s.now 5 c)) ∧
     (isLate c = false → badArrival c = none → ∃ t, exec (.variableLanding g) s = .next t ∧
       (t.core g).reqs = c.reqs.filter (fun r => !r.dueAt c) ∧ SameRegisters c (t.core g) ∧ t.mem = s.mem ∧
       ∀ r ∈ c.reqs, r.dueAt c = true → ∀ n, r.target = .vec n →
         ⟨c.cycle, r.issue, r.slot, .vReg n (BitVec.ofNat 4096 (leNat (r.data.getD []))) (BitVec.allOnes 4096)⟩ ∈ (t.core g).writes) ∧
     (∃ f : FaultInfo, f.kind = 1 ∧ f.code = 0x0C ∧ f.origin = 5 ∧ f.arg1 = BitVec.ofNat 64 f.slot ∧
       exec (.landingTimeout g) s = .next ((takeFault s g f).updCore g fun d => { d with frozen := 0, frozenBy := 0 }) ∧
       (c.frozenBy = 9 → f.cause = 2 ∧ (f.arg0 = BitVec.ofNat 64 ((heldRequest c).getD (c.cycle, 7)).1 ∧ f.slot = ((heldRequest c).getD (c.cycle, 7)).2)) ∧
       (c.frozenBy ≠ 9 → f.cause = 1 ∧
         (∀ r, (lateRequests c).head? = some r ∨
             ((lateRequests c).head? = none ∧ lateTile c = none ∧ c.reqs.find? (fun r => r.dueAt c) = some r) →
           f.arg0 = BitVec.ofNat 64 r.arr ∧ f.slot = r.slot ∧ f.issue = r.issue ∧ f.baddr = r.baddr ∧ f.rep = r.rep) ∧
         ((lateRequests c).head? = none → ∀ k, lateTile c = some k → f.slot = 7 ∧ f.arg0 = BitVec.ofNat 64 k) ∧
         ((lateRequests c).head? = none → lateTile c = none → c.reqs.find? (fun r => r.dueAt c) = none →
           f.slot = 7 ∧ f.arg0 = BitVec.ofNat 64 ((boardedTile c).getD c.cycle))))) ∧
  (∀ (now k : Nat) (c : Core), c.rerun = none → 5 ≤ k → k ≤ 11 →
     let d := chargeHold now k c
     let one := if c.hold = k then 0 else 1
     d.heldcyc = c.heldcyc + 1 ∧ d.refcyc = c.refcyc + 1 ∧ d.cycle = c.cycle ∧ d.pc = c.pc ∧ d.rep = c.rep ∧ d.turn = now + 1 ∧
     d.hold = k ∧ SameRegisters c d ∧
     d.lates = c.lates + (if k = 5 then one else 0) ∧ d.segstall = c.segstall + (if k = 6 then one else 0) ∧
     d.xlholds = c.xlholds + (if k = 7 then one else 0) ∧ d.waitholds = c.waitholds + (if k = 8 then one else 0) ∧
     d.lbholds = c.lbholds + (if k = 9 then one else 0) ∧ d.cqholds = c.cqholds + (if k = 10 then one else 0) ∧
     d.bankholds = c.bankholds + (if k = 11 then one else 0) ∧
     (k = 5 ∨ k = 9 → d.frozenBy = k ∧ d.frozen = if c.frozenBy = k then c.frozen + 1 else 1)) ∧
  (∀ (s : State) (g a : Nat) (o : Overlay) (d : List Byte), (s.core g).overlay = some o → o.src = some a → s.dieLink = true → lineWait s (s.core g) o o.next = none →
     readVa s (funcOfLaunch s ((s.core g).launch.getD 0)) (a + 64 * o.next) 64 = some d →
     let c := s.core g
     let base := o.frame * 8192 + o.next * 8
     ∃ t, exec (.segmentLineDelivered g o.frame o.next) s = .next t ∧ t.mem = s.mem ∧ SameRegisters c (t.core g) ∧
       (∀ k ≠ g, t.core k = s.core k) ∧
       (∀ a, Table.get unfilled (t.core g).code a =
         if base ≤ a ∧ a < base + (wordsOf d).length then (wordsOf d).getD (a - base) 0 else Table.get unfilled c.code a) ∧
       (o.next + 1 < o.lines → (t.core g).overlay = some { o with next := o.next + 1 } ∧
         DueAt t (s.now + 2) (.segmentLineDelivered g o.frame (o.next + 1))) ∧
       (o.lines ≤ o.next + 1 → (t.core g).overlay = if o.late = [] then none else some { o with next := o.next + 1 }))
/-! ## The S slot -/

/-- R113, R114: an enabled format-A instruction of two sources lands op(a, b) in `s[sd]` at issue + its latency, and does
nothing else. R113: POPC, CLZ and CTZ land the number of ones, of leading zeros and of trailing zeros of `s[sa]` at issue +
1. -/
def Obligations.ScalarRegisterResults : Prop :=
  (∀ (s : State) (h : SHead) (x : FmtA), SReady s h [rS x.sa.toNat, rS x.sb.toNat] →
     let a := s.curCore.sGet x.sa.toNat
     let b := s.curCore.sGet x.sb.toNat
     let n := b.toNat % 64
     let lands := fun (lat : Nat) (v : Word) => (.next (landS s 0 lat x.sd.toNat v) : Res)
     exec (.add h x) s = lands 1 (BitVec.ofNat 64 (a.toNat + b.toNat)) ∧
     exec (.sub h x) s = lands 1 (BitVec.ofInt 64 (a.toInt - b.toInt)) ∧
     exec (.and h x) s = lands 1 (a &&& b) ∧
     exec (.or h x) s = lands 1 (a ||| b) ∧
     exec (.xor h x) s = lands 1 (a ^^^ b) ∧
     exec (.andn h x) s = lands 1 (a &&& ~~~b) ∧
     exec (.shl h x) s = lands 1 (BitVec.ofNat 64 (a.toNat * 2 ^ n)) ∧
     exec (.shr h x) s = lands 1 (BitVec.ofNat 64 (a.toNat / 2 ^ n)) ∧
     exec (.sra h x) s = lands 1 (BitVec.ofInt 64 (a.toInt / 2 ^ n)) ∧
     exec (.min h x) s = lands 1 (BitVec.ofInt 64 (Min.min a.toInt b.toInt)) ∧
     exec (.max h x) s = lands 1 (BitVec.ofInt 64 (Max.max a.toInt b.toInt)) ∧
     exec (.minu h x) s = lands 1 (BitVec.ofNat 64 (Min.min a.toNat b.toNat)) ∧
     exec (.maxu h x) s = lands 1 (BitVec.ofNat 64 (Max.max a.toNat b.toNat)) ∧
     exec (.addS h x) s = lands 1 (BitVec.ofInt 64 (Max.max (-2 ^ 63) (Min.min (2 ^ 63 - 1) (a.toInt + b.toInt)))) ∧
     exec (.subS h x) s = lands 1 (BitVec.ofInt 64 (Max.max (-2 ^ 63) (Min.min (2 ^ 63 - 1) (a.toInt - b.toInt)))) ∧
     exec (.mul h x) s = lands 3 (BitVec.ofNat 64 (a.toNat * b.toNat)) ∧
     exec (.mulh h x) s = lands 3 (BitVec.ofInt 64 (a.toInt * b.toInt / 2 ^ 64)) ∧
     exec (.mulhu h x) s = lands 3 (BitVec.ofNat 64 (a.toNat * b.toNat / 2 ^ 64)) ∧
     exec (.div h x) s = lands 18 (if b = 0 then BitVec.allOnes 64 else BitVec.ofInt 64 (a.toInt.tdiv b.toInt)) ∧
     exec (.divu h x) s = lands 18 (if b = 0 then BitVec.allOnes 64 else BitVec.ofNat 64 (a.toNat / b.toNat)) ∧
     exec (.rem h x) s = lands 18 (if b = 0 then a else BitVec.ofInt 64 (a.toInt - a.toInt.tdiv b.toInt * b.toInt)) ∧
     exec (.remu h x) s = lands 18 (if b = 0 then a else BitVec.ofNat 64 (a.toNat % b.toNat))) ∧
  (∀ (s : State) (h : SHead) (x : FmtA), SReady s h [rS x.sa.toNat] →
     let a := s.curCore.sGet x.sa.toNat
     let lands := fun (n : Nat) => (.next (landS s 0 1 x.sd.toNat (BitVec.ofNat 64 n)) : Res)
     exec (.popc h x) s = lands ((List.range 64).countP fun i => a.getLsbD i) ∧
     (∃ n ≤ 64, exec (.clz h x) s = lands n ∧ (∀ i < n, a.getLsbD (63 - i) = false) ∧
       (n < 64 → a.getLsbD (63 - n) = true)) ∧
     (∃ n ≤ 64, exec (.ctz h x) s = lands n ∧ (∀ i < n, a.getLsbD i = false) ∧ (n < 64 → a.getLsbD n = true)))

/-- R116: an enabled format-I instruction lands its result of `s[sa]` and the sign-extended immediate in `s[sd]`. -/
def Obligations.ScalarImmediateResults : Prop :=
  ∀ (s : State) (h : SHead) (x : FmtI), SReady s h [rS x.sa.toNat] →
    let a := s.curCore.sGet x.sa.toNat
    let i := x.imm.signExtend 64
    let lands := fun (lat : Nat) (v : Word) => (.next (landS s 0 lat x.sd.toNat v) : Res)
    exec (.addi h x) s = lands 1 (BitVec.ofInt 64 (a.toInt + x.imm.toInt)) ∧
    exec (.andi h x) s = lands 1 (a &&& i) ∧
    exec (.ori h x) s = lands 1 (a ||| i) ∧
    exec (.xori h x) s = lands 1 (a ^^^ i) ∧
    (x.imm.toNat < 64 → exec (.shli h x) s = lands 1 (BitVec.ofNat 64 (a.toNat * 2 ^ x.imm.toNat))) ∧
    (x.imm.toNat < 64 → exec (.shri h x) s = lands 1 (BitVec.ofNat 64 (a.toNat / 2 ^ x.imm.toNat))) ∧
    (x.imm.toNat < 64 → exec (.srai h x) s = lands 1 (BitVec.ofInt 64 (a.toInt / 2 ^ x.imm.toNat))) ∧
    exec (.muli h x) s = lands 3 (BitVec.ofInt 64 (a.toInt * x.imm.toInt)) ∧
    (x.imm.toNat < 2 ^ 26 →
      exec (.liu h x) s = lands 1 (BitVec.ofNat 64 (x.imm.toNat * 2 ^ 38 + a.toNat % 2 ^ 38)))

/-- R100, R115, R117, R118: the meaning of each condition code over two words; SEL lands the source that a flag selects; CMP
lands the condition of its operands in a flag; the flag instructions land the logic of two flags. Nothing else changes. -/
def Obligations.FlagResults : Prop :=
  (∀ a b : Word,
     (Machine.cond 0 a b = true ↔ a = b) ∧ (Machine.cond 1 a b = true ↔ a ≠ b) ∧ (Machine.cond 2 a b = true ↔ a.toInt < b.toInt) ∧
     (Machine.cond 3 a b = true ↔ b.toInt ≤ a.toInt) ∧ (Machine.cond 4 a b = true ↔ b.toInt < a.toInt) ∧
     (Machine.cond 5 a b = true ↔ a.toInt ≤ b.toInt) ∧ (Machine.cond 6 a b = true ↔ a.toNat < b.toNat) ∧
     (Machine.cond 7 a b = true ↔ b.toNat ≤ a.toNat) ∧ (Machine.cond 8 a b = true ↔ b.toNat < a.toNat) ∧
     (Machine.cond 9 a b = true ↔ a.toNat ≤ b.toNat) ∧ (Machine.cond 10 a b = true ↔ ∃ i < 64, a.getLsbD i = true ∧ b.getLsbD i = true)) ∧
  ((∀ (s : State) (h : SHead) (x : FmtA), SReady s h [rF x.fx.toNat, rS x.sa.toNat, rS x.sb.toNat] →
     exec (.sel h x) s = .next (landS s 0 1 x.sd.toNat
       (if s.curCore.fGet x.fx.toNat then s.curCore.sGet x.sa.toNat else s.curCore.sGet x.sb.toNat))) ∧
   (∀ (s : State) (h : SHead) (x : FmtC),
     (x.im = 0 → SReady s h [rS x.sa.toNat, rS x.sb.toNat] →
       exec (.cmp h x) s = .next (landF s 0 1 x.fd.toNat
         (Machine.cond x.cc.toNat (s.curCore.sGet x.sa.toNat) (s.curCore.sGet x.sb.toNat)))) ∧
     (x.im = 1 → SReady s h [rS x.sa.toNat] →
       exec (.cmp h x) s = .next (landF s 0 1 x.fd.toNat
         (Machine.cond x.cc.toNat (s.curCore.sGet x.sa.toNat) (x.imm.signExtend 64))))) ∧
   (∀ (s : State) (h : SHead) (x : FmtC), SReady s h [rF (x.sa.toNat % 8), rF (x.sb.toNat % 8)] →
     let a := s.curCore.fGet (x.sa.toNat % 8)
     let b := s.curCore.fGet (x.sb.toNat % 8)
     exec (.flagAnd h x) s = .next (landF s 0 1 x.fd.toNat (a && b)) ∧
     exec (.flagOr h x) s = .next (landF s 0 1 x.fd.toNat (a || b)) ∧
     exec (.flagXor h x) s = .next (landF s 0 1 x.fd.toNat (a ^^ b)) ∧
     exec (.flagAndn h x) s = .next (landF s 0 1 x.fd.toNat (a && !b))))

/-- R29, R119: SPLD and SPST of spill word k = `s[sa]` + IDX; an index above 2,047 stops the placement with the bounds fault
of CAUSE 0x100 before the syllable has any effect. R30, R31, R33, R120: CSRR of a listed register lands its value, here
spelled out for every register of the table: of a core that a launch is placed on `%hivecount`, `%corecount` and `%tilegrid`
are those of its image and of word 6 of its LAUNCH packet; CSRW to `%fpflags` lands the low byte; every other use is an
illegal operation. -/
def Obligations.SpillAndControlRegisters : Prop :=
  (∀ (s : State) (h : SHead) (x : FmtX),
     let k := s.curCore.sGet x.sa.toNat + x.idx.setWidth 64
     let beyond : Res := .next (stepFault s 0 8 0x100 k 0)
     (SReady s h [rS x.sa.toNat, ⟨10, k.toNat, 0, 8⟩] →
       (k.toNat < 2048 → exec (.spld h x) s = .next (landS s 0 1 x.s.toNat (s.curCore.spillGet k.toNat))) ∧
       (2048 ≤ k.toNat → exec (.spld h x) s = beyond)) ∧
     (SReady s h [rS x.sa.toNat, rS x.s.toNat] →
       (k.toNat < 2048 → exec (.spst h x) s = .next (land s 0 1 (.spill k.toNat (s.curCore.sGet x.s.toNat)))) ∧
       (2048 ≤ k.toNat → exec (.spst h x) s = beyond))) ∧
  (∀ (s : State) (h : SHead) (x : FmtX),
     let c := s.curCore
     let n := x.idx.toNat
     let illegal : Instr → Res := fun i => .next (stepFault s 0 2 0 (withWord i (illegalOp 0 0)).arg0 0)
     (SReady s h [] →
       (csrListed n = true → exec (.csrr h x) s = .next (landS s 0 1 x.s.toNat (csrValue s s.cur n))) ∧
       (csrListed n = false → exec (.csrr h x) s = illegal (.csrr h x)) ∧
       (∀ m, csrListed m = decide (m ≤ 0x009 ∨ (0x010 ≤ m ∧ m ≤ 0x013) ∨ (0x020 ≤ m ∧ m ≤ 0x02D))) ∧
       (∀ m v, (m, v) ∈
         [(0x000, c.iCyc), (0x001, c.refcyc), (0x002, c.rank), (0x003, c.hive), (0x004, c.coreid), (0x007, s.cur), (0x008, c.vdie),
          (0x012, if c.prt then 1 else 0), (0x013, c.segbase), (0x020, c.drones), (0x021, c.lates), (0x022, c.segstall),
          (0x023, c.waitholds), (0x024, c.xlholds), (0x025, c.lbholds), (0x026, c.cqholds), (0x027, c.bankholds), (0x028, c.pgfreezes),
          (0x029, c.rollbacks), (0x02A, c.faults), (0x02B, c.preempts), (0x02C, c.heldcyc), (0x02D, c.oob)] →
         csrValue s s.cur m = BitVec.ofNat 64 v) ∧
       csrValue s s.cur 0x10 = c.fpflags.setWidth 64 ∧ csrValue s s.cur 0x11 = c.sig.setWidth 64 ∧
       (∀ l y, c.launch = some l → s.launch? l = some y →
         csrValue s s.cur 0x005 = BitVec.ofNat 64 y.image.h ∧ csrValue s s.cur 0x006 = BitVec.ofNat 64 y.image.c ∧
         csrValue s s.cur 0x009 = ((y.packet.getD 6 0).extractLsb' 0 48).setWidth 64)) ∧
     (SReady s h [rS x.s.toNat] →
       (n = 0x10 → exec (.csrw h x) s = .next (land s 0 1 (.csrFlags ((c.sGet x.s.toNat).setWidth 8)))) ∧
       (n ≠ 0x10 → exec (.csrw h x) s = illegal (.csrw h x))))

/-- R121, R124, R125: PREP lands the target `s[sa]` + ADDR × 8 in `bN` at issue + 3 when it is a multiple of 8 below
0x100_0000, and no prepared target otherwise. LOOP activates its counter with count `s[sa]` + ADDR and the fall-through
address as its start; a count above 2^32 − 1 is an illegal operation. ENDLOOP acts at the last repetition: it counts down
and returns to the start, or deactivates the counter; on an inactive counter it is an illegal operation. R112, R130, R131,
R132, R226, R344, R345: NOP does nothing; FENCE joins the program order with the classes, scope, ACQ and REL of its
immediate, and as a release asks for the zero-length read that a SYSTEM release may owe the host (R379); WCLR lands the
clearing of the masked wait flags; HALT ends the core with the first repetition of its bundle, and does nothing at a later
one (R111). At the first repetition TRAP stops the placement with a trap record, KIND 2 and the immediate as its CAUSE,
whose STOPCYC is the cycle after the issue; at a later repetition, and in a rerun of a region whose first run has come to it
(R356), it does nothing. R86, R88, R96, R132: how a repetition ends. The transfer of its header is taken at the last
repetition when XE is set and the flag, or the uniform mask, that XC names is as XN asks, unless a HALT of the bundle acts;
then the core goes on at the prepared target, otherwise at the next repetition or, after the last, at the bundle that
follows. A slot that the bundle does not name keeps the syllable that sticks in it, which has been issued once more; one
that it names takes a syllable with STK = 1, whose re-issues count on, and none sticks in it from the first repetition of
one with STK = 0. The host count for which a SYSTEM release asks is that at its issue, of the classes that it names. The
model's own choices in it are log entry 121. -/
def Obligations.BranchesLoopsAndSequencing : Prop :=
  ((∀ (s : State) (g : Nat) (b : Bundle),
      let c := s.core g
      let h := b.head
      let d := (prepare s g b).core g
      let holds := if h.xc.toNat < 7 then c.fGet h.xc.toNat else if h.xc.toNat = 7 then true else
        decide (c.mGet (h.xc.toNat - 8) = BitVec.allOnes 128)
      d.iPc = c.pc ∧ d.iNext = c.pc + b.len ∧ d.iRep = c.rep ∧ d.iCyc = c.cycle ∧ d.iLast = decide (h.rep.toNat ≤ c.rep) ∧
      d.iTarget = (c.bGet h.xt.toNat).getD 0 ∧
      d.iTaken = (decide (h.rep.toNat ≤ c.rep) && decide (h.xe = 1) && (holds != decide (h.xn = 1)) && !haltActs c b)) ∧
   (∀ s : State, s.curCore.halted = false →
      let c := s.curCore
      let t := closeIssue s
      let d := t.core s.cur
      t.issuing = false ∧ t.micro = [] ∧ d.cycle = c.iCyc + 1 ∧ d.refcyc = c.refcyc + 1 ∧ d.sticky = c.sticky ∧
      (c.iLast = false → d.pc = c.pc ∧ d.rep = c.iRep + 1 ∧ d.waitOk = c.waitOk) ∧
      (c.iLast = true → d.pc = (if c.iTaken then c.iTarget else c.iNext) ∧ d.rep = 0 ∧ d.waitOk = false)) ∧
   (∀ (s : State) (g : Nat) (b : Bundle),
      let c := s.core g
      let d := (issue s g b (itemsOf c b)).core g
      (b.words.map (·.1)).Nodup → c.iRep = c.rep →
      (∀ sl ∈ stickSlots, sl ∉ b.words.map (·.1) →
        (c.stickyOf (slotNum sl) = none → d.stickyOf (slotNum sl) = none) ∧
        ∀ y h, c.stickyOf (slotNum sl) = some y → y.instr.head? = some h → h.stk = 1 → h.j = 0 →
          d.stickyOf (slotNum sl) = some { y with j := y.j + 1 }) ∧
      (∀ sl w i h, (sl, w) ∈ b.words → decodeSyllable sl w = .ok i → i.head? = some h →
        let j := if c.rep = 0 then 0 else match c.stickyOf (slotNum sl) with | some y => y.j | none => 0
        (h.stk = 1 → d.stickyOf (slotNum sl) = some ⟨i.withHead { h with j := 0, bcv := broadcast c b.head }, j + 1⟩) ∧
        (h.stk = 0 → c.rep = 0 → d.stickyOf (slotNum sl) = none)))) ∧
  ((∀ (s : State) (h : SHead) (x : FmtB), SReady s h [rS x.sa.toNat] →
      let t := ((s.curCore.sGet x.sa.toNat).toNat + x.addr.toNat * 8) % 2 ^ 64
      (t % 8 = 0 ∧ t < 0x1000000 → exec (.prep h x) s = .next (land s 0 3 (.bReg x.n.toNat (some t)))) ∧
      (¬ (t % 8 = 0 ∧ t < 0x1000000) → exec (.prep h x) s = .next (land s 0 3 (.bReg x.n.toNat none)))) ∧
   (∀ (s : State) (h : SHead) (x : FmtB),
      let c := s.curCore
      let n := x.n.toNat
      let l := c.lpGet n
      let count := (c.sGet x.sa.toNat).toNat + x.addr.toNat
      let illegal : Instr → Res := fun i => .next (stepFault s 0 2 0 (withWord i (illegalOp 0 0)).arg0 0)
      (SReady s h [rS x.sa.toNat] →
        (count < 2 ^ 32 → exec (.loop h x) s = .next (land s 0 1 (.lpReg n ⟨true, count, c.iNext⟩))) ∧
        (2 ^ 32 ≤ count → exec (.loop h x) s = illegal (.loop h x))) ∧
      (SReady s h [] →
        (c.iLast = false → exec (.endLoop h x) s = .next s) ∧
        (c.iLast = true → l.active = false → exec (.endLoop h x) s = illegal (.endLoop h x)) ∧
        (c.iLast = true → l.active = true → l.count ≤ 1 →
          exec (.endLoop h x) s = .next (land s 0 1 (.lpReg n { l with active := false }))) ∧
        (c.iLast = true → l.active = true → 1 < l.count → ∃ t, exec (.endLoop h x) s = .next t ∧
          t.curCore = { (land s 0 1 (.lpReg n { l with count := l.count - 1 })).curCore with iNext := l.start } ∧
          t = s.setCore s.cur t.curCore)))) ∧
  ((∀ (s : State) (h : SHead),
      (SReady s h [] → ∀ x : FmtA, exec (.sNop h x) s = .next s) ∧
      (SReady s h [] → ∀ x : FmtI,
        (let q := s.curCore.seq
         let scope := (x.imm.extractLsb' 16 3).toNat
         let mask := x.imm.extractLsb' 0 16
         let s1 := s.setCore s.cur { s.curCore with
           seq := q + 1, fences := s.curCore.fences ++ [⟨q, mask, scope, x.imm.getLsbD 19, x.imm.getLsbD 20⟩] }
         (x.imm.getLsbD 20 = false ∨ scope ≠ 6 → exec (.fence h x) s = .next s1) ∧
         (x.imm.getLsbD 20 = true → exec (.fence h x) s = .next (askFlush s1 s.cur q scope mask))) ∧
        exec (.wclr h x) s = .next (land s 0 1 (.clearWait (x.imm.extractLsb' 0 32)))) ∧
      (SReady s h [] → ∀ x : FmtY,
        (s.curCore.iRep = 0 → exec (.halt h x) s = .next (s.setCore s.cur { s.curCore with halted := true, haltRef := s.now })) ∧
        (s.curCore.iRep ≠ 0 → exec (.halt h x) s = .next s))) ∧
   (∀ (s : State) (h : SHead) (x : FmtY) (l : Nat), SReady s h [] → s.curCore.launch = some l →
      (s.curCore.iRep = 0 → onceSeen s = none →
        exec (.trap h x) s = .next (stopWithRecord (noteOnce s 0 none) s.cur l
          { kind := 2, code := 0, cause := x.imm.toNat, arg0 := 0, arg1 := 0, slot := 0, rep := 0, origin := 5
            issue := s.curCore.iCyc, baddr := s.curCore.iPc } 2 16 (s.curCore.iCyc + 1))) ∧
      (s.curCore.iRep ≠ 0 ∨ (onceSeen s).isSome = true → exec (.trap h x) s = .next s)))

/-- R45, R133: TAIL takes eight spill words from `s[sa]` + IMM on as the core's child record; an index above 2,040 is the
bounds fault of CAUSE 0x100. R43, R44, R134: in static order the n-th NEXTTILE of a core asks for tile rank + n × H × C,
whose coordinates, or the null answer once the grid is exhausted, land 40 cycles later in the register at the request
pointer; a request whose register is not yet taken is an illegal operation. The taking form lands the register at the take
pointer and moves that pointer on. The model's own choices in it are log entry 143. -/
def Obligations.TilesAndTailRecords : Prop :=
  (∀ (s : State) (h : SHead) (x : FmtY),
     let k := s.curCore.sGet x.sa.toNat + x.imm.setWidth 64
     SReady s h (rS x.sa.toNat :: (List.range 8).map fun i => ⟨10, k.toNat + i, 0, 8⟩) →
     (k.toNat ≤ 2040 → ∃ t, exec (.tail h x) s = .next t ∧ t = s.setCore s.cur t.curCore ∧
       t.curCore = { s.curCore with child := some ((List.range 8).map fun i => s.curCore.spillGet (k.toNat + i)) }) ∧
     (2040 < k.toNat → exec (.tail h x) s = .next (stepFault s 0 8 0x100 k 0))) ∧
  (∀ (s : State) (h : SHead) (x : FmtY),
     let c := s.curCore
     (SReady s h [] → requestBusy c = true →
       exec (.nextTile h x) s = .next (stepFault s 0 2 0 (withWord (.nextTile h x) (illegalOp 0 0)).arg0 0)) ∧
     (SReady s h [] → requestBusy c = false → onceSeen s = none → (imageOf s c).dyn = false → c.ntNull = false →
       let v := tileValue (gridWord s c) (c.rank + c.ntCount * ((imageOf s c).h * (imageOf s c).c))
       ∃ t, exec (.nextTile h x) s = .next t ∧ t = s.setCore s.cur t.curCore ∧
         t.curCore.writes = c.writes ++ [⟨c.iCyc + 40, c.iCyc, 0, .ntReg c.ntReq v⟩] ∧
         t.curCore.ntReq = (c.ntReq + 1) % 4 ∧ t.curCore.ntCount = c.ntCount + 1 ∧
         t.curCore.ntNull = (v == ntNullWord) ∧ SameRegisters c t.curCore) ∧
     (SReady s h [⟨9, c.ntTake, 0, 8⟩] →
       ∃ t, exec (.nextTileTake h x) s = .next t ∧ t = s.setCore s.cur t.curCore ∧
         t.curCore = { (landS s 0 1 x.sd.toNat (c.ntGet c.ntTake)).curCore with
           ntTaken := putBit c.ntTaken c.ntTake true, ntTake := (c.ntTake + 1) % 4 }))

/-! ## The V slots -/

/-- R146, R148: the integer results of the element-wise instructions: the exact value reduced modulo 2^w, or clamped where
SAT is 1; the smaller and the larger in the signedness of FMT; logic, shifts and counts of bits. -/
def Obligations.VectorIntegerResults : Prop :=
  ∀ (s : State) (h : Head) (x : FmtV), x.fmt.toNat ≤ 5 →
    let k := x.fmt.toNat
    let w := widthOf k
    let v := fun (a : Nat) => ival (isSignedCode k) w a
    let exact := fun (e : Int) => (⟨reduceInt (isSignedCode k) w (x.sat == 1) e, 0⟩ : Rounded)
    let two := fun (i : Instr) (lat : Nat) (f : Nat → Nat → Rounded) =>
      ∃ t, exec i s = .next t ∧ VectorResult s t h x false lat f
    let one := fun (i : Instr) (f : Nat → Rounded) => ∃ t, exec i s = .next t ∧ VectorResult s t h x true 2 fun a _ => f a
    (VReady s h (vectorReads h x false) →
      two (.vadd h x) 2 (fun a b => exact (v a + v b)) ∧
      two (.vsub h x) 2 (fun a b => exact (v a - v b)) ∧
      two (.vmul h x) 4 (fun a b => exact (v a * v b)) ∧
      two (.vmin h x) 2 (fun a b => ⟨if v a ≤ v b then a else b, 0⟩) ∧
      two (.vmax h x) 2 (fun a b => ⟨if v a ≤ v b then b else a, 0⟩) ∧
      two (.vand h x) 2 (fun a b => ⟨a &&& b, 0⟩) ∧
      two (.vor h x) 2 (fun a b => ⟨a ||| b, 0⟩) ∧
      two (.vxor h x) 2 (fun a b => ⟨a ^^^ b, 0⟩) ∧
      two (.vandn h x) 2 (fun a b => ⟨a &&& (2 ^ w - 1 - b), 0⟩) ∧
      two (.vshl h x) 2 (fun a b => ⟨a * 2 ^ (b % w), 0⟩) ∧
      two (.vshr h x) 2 (fun a b => ⟨a / 2 ^ (b % w), 0⟩) ∧
      two (.vsra h x) 2 (fun a b => ⟨wrapTo w (sval w a / 2 ^ (b % w)), 0⟩)) ∧
    (VReady s h (vectorReads h x true) →
      one (.vabs h x) (fun a => exact (v a).natAbs) ∧
      one (.vneg h x) (fun a => exact (-(v a))) ∧
      one (.vpopc h x) (fun a => ⟨(List.range w).countP fun i => a.testBit i, 0⟩) ∧
      one (.vclz h x) (fun a => ⟨if a = 0 then w else w - 1 - a.log2, 0⟩))

/-- R147, R148, R150, R163, R164: the floating-point results of the element-wise and fused instructions and of the
transcendentals, each rounded once by RM; VABS and VNEG act on the sign bit; the fused instructions round a × b + c, a × b −
c and −(a × b) + c. The model's own choices in it are log entries 8, 29 and 146. -/
def Obligations.VectorFloatResults : Prop :=
  (∀ (s : State) (h : Head) (x : FmtV), 6 ≤ x.fmt.toNat → x.fmt.toNat ≤ 8 →
     let f := floatOf x.fmt.toNat
     let rm := x.rm.toNat
     let two := fun (i : Instr) (lat : Nat) (g : Nat → Nat → Rounded) =>
       ∃ t, exec i s = .next t ∧ VectorResult s t h x false lat g
     let one := fun (i : Instr) (lat : Nat) (g : Nat → Rounded) =>
       ∃ t, exec i s = .next t ∧ VectorResult s t h x true lat fun a _ => g a
     let signBit := fun (op : Bool → Bool) (a : Nat) =>
       if (f.decode a).isNan then (⟨f.nan, snanFlag (f.decode a)⟩ : Rounded)
       else ⟨(if op (a.testBit (f.width - 1)) then 2 ^ (f.width - 1) else 0) + a % 2 ^ (f.width - 1), 0⟩
     (VReady s h (vectorReads h x false) →
       two (.vadd h x) 4 (fun a b => f.addV rm (f.decode a) (f.decode b)) ∧
       two (.vsub h x) 4 (fun a b => f.addV rm (f.decode a) (f.decode b).neg) ∧
       two (.vmul h x) 4 (fun a b => f.mulV rm (f.decode a) (f.decode b)) ∧
       two (.vmin h x) 2 (fun a b => f.minMax false a b) ∧
       two (.vmax h x) 2 (fun a b => f.minMax true a b)) ∧
     (VReady s h (vectorReads h x true) →
       one (.vabs h x) 2 (signBit fun _ => false) ∧
       one (.vneg h x) 2 (signBit fun n => !n) ∧
       one (.vexp2 h x) 10 (f.transc .exp2 rm) ∧
       one (.vlog2 h x) 10 (f.transc .log2 rm) ∧
       one (.vrcp h x) 10 (f.transc .rcp rm) ∧
       one (.vrsq h x) 10 (f.transc .rsq rm) ∧
       one (.vtanh h x) 10 (f.transc .tanh rm))) ∧
  (∀ (s : State) (h : Head) (x : FmtW), 6 ≤ x.fmt.toNat → x.fmt.toNat ≤ 8 →
     let c := s.curCore
     let f := floatOf x.fmt.toNat
     let w := widthOf x.fmt.toNat
     let regs := [stepReg h x.va.toNat, stepReg h x.vb.toNat, stepReg h x.vc.toNat]
     let at_ := fun (r : BitVec 10) (k : Nat) => f.decode (elem w (c.vGet (stepReg h r.toNat)) k)
     let fused := fun (i : Instr) (g : Nat → Rounded) => ∃ t, exec i s = .next t ∧
       LandsElems s t (slotNum h.slot) (4 + crossing h.slot (stepReg h x.vd.toNat :: regs)) (stepReg h x.vd.toNat) w (4096 / w)
         (lanes (maskPred c h.prd h.pn) w) g
     VReady s h (regs.map rV) →
       fused (.vfma h x) (fun k => f.fmaV x.rm.toNat (at_ x.va k) (at_ x.vb k) (at_ x.vc k)) ∧
       fused (.vfms h x) (fun k => f.fmaV x.rm.toNat (at_ x.va k) (at_ x.vb k) (at_ x.vc k).neg) ∧
       fused (.vfnma h x) (fun k => f.fmaV x.rm.toNat (at_ x.va k).neg (at_ x.vb k) (at_ x.vc k)))

/-- R151, R162: the immediate forms, whose immediate is sign-extended and reduced modulo 2^w. -/
def Obligations.VectorImmediateResults : Prop :=
  ∀ (s : State) (h : Head) (x : FmtJ),
    let k := x.fmt.toNat
    let w := widthOf k
    let i := wrapTo w x.imm.toInt
    let n := x.imm.toNat
    let lands := fun (e : Instr) (f : Nat → Nat) => ∃ t, exec e s = .next t ∧ ImmediateResult s t h x fun a => ⟨f a, 0⟩
    (VReady s h [rV (stepReg h x.va.toNat)] →
      lands (.vaddi h x) (fun a => a + i) ∧
      lands (.vandi h x) (fun a => a &&& i) ∧
      lands (.vshli h x) (fun a => a * 2 ^ n) ∧
      lands (.vshri h x) (fun a => a / 2 ^ n) ∧
      lands (.vsrai h x) (fun a => wrapTo w (sval w a / 2 ^ n))) ∧
    (VReady s h [] → ∃ t, exec (.vli h x) s = .next t ∧
      LandsElems s t (slotNum h.slot) (2 + crossing h.slot [stepReg h x.vd.toNat]) (stepReg h x.vd.toNat) w (4096 / w)
        (lanes (maskPred s.curCore h.prd h.pn) w) fun _ =>
          ⟨if k ≤ 5 then i else if k = 6 then n * 2 ^ 16 else n, 0⟩)

/-- R149, R152, R153, R154, R169: VSEL writes every element, from the source that the predicate selects; VCMP lands the
condition of each enabled lane; a mask instruction lands its logic where the predicate is 1; NOP does nothing; MANY, MALL,
MPOP and MFIRST reduce the enabled lanes of a mask; with no lane enabled MANY gives 0 and MALL gives 1. -/
def Obligations.SelectCompareAndMasks : Prop :=
  ((∀ (s : State) (h : Head) (x : FmtV),
     let w := widthOf x.fmt.toNat
     let p := maskPred s.curCore h.prd h.pn
     (VReady s h [] → exec (.vNop h x) s = .next s) ∧
     (VReady s h (vectorReads h x false) → ∃ t, exec (.vsel h x) s = .next t ∧
       LandsElems s t (slotNum h.slot)
         (2 + crossing h.slot ([stepReg h x.vd.toNat, stepReg h x.va.toNat] ++ if x.bc = 1 then [] else [stepReg h x.vb.toNat]))
         (stepReg h x.vd.toNat) w (4096 / w) (fun _ => true)
         fun k => ⟨if lanes p w k then elem w (s.curCore.vGet (stepReg h x.va.toNat)) k
           else secondSource s.curCore h x.bc x.vb w k, 0⟩)) ∧
   (∀ (s : State) (h : Head) (x : FmtP),
     let c := s.curCore
     let regs := stepReg h x.va.toNat :: if x.bc = 1 then [] else [stepReg h x.vb.toNat]
     let p := maskPred c h.prd h.pn
     let r := fun i => compareLane x.fmt.toNat x.cc.toNat (elem 32 (c.vGet (stepReg h x.va.toNat)) i)
       (secondSource c h x.bc x.vb 32 i)
     let lat := 2 + crossing h.slot regs
     VReady s h (regs.map rV) → ∃ v : Mask,
       exec (.vcmp h x) s = .next (landFlags (land s (slotNum h.slot) lat (.mReg (stepReg h x.md.toNat) v p)) (slotNum h.slot) lat
         (flagsOf (fun i => p.getLsbD i) (fun i => ⟨0, (r i).2⟩) 128)) ∧
       ∀ i < 128, v.getLsbD i = (r i).1) ∧
   (∀ (s : State) (h : Head) (x : FmtQ),
     let a := s.curCore.mGet (stepReg h x.ma.toNat)
     let b := s.curCore.mGet (stepReg h x.mb.toNat)
     let lands := fun (v : Mask) =>
       (.next (land s (slotNum h.slot) 2 (.mReg (stepReg h x.md.toNat) v (maskPred s.curCore h.prd h.pn))) : Res)
     (VReady s h [rM (stepReg h x.ma.toNat), rM (stepReg h x.mb.toNat)] →
       exec (.mand h x) s = lands (a &&& b) ∧ exec (.mor h x) s = lands (a ||| b) ∧
       exec (.mxor h x) s = lands (a ^^^ b) ∧ exec (.mandn h x) s = lands (a &&& ~~~b)) ∧
     (VReady s h [rM (stepReg h x.ma.toNat)] → exec (.mnot h x) s = lands (~~~a)) ∧
     (VReady s h [] → ∃ v : Mask, exec (.mlead h x) s = lands v ∧ ∀ i < 128, v.getLsbD i = decide (i < x.imm.toNat)))) ∧
  (∀ (s : State) (h : Head) (x : FmtQ), VReady s h [rM (stepReg h x.ma.toNat)] →
     let m := s.curCore.mGet (stepReg h x.ma.toNat)
     let p := maskPred s.curCore h.prd h.pn
     let on := fun (i : Nat) => m.getLsbD i && p.getLsbD i
     let toFlag := fun (f : Bool) => (.next (landF s (slotNum h.slot) 2 (x.sd.toNat % 8) f) : Res)
     let toReg := fun (n : Nat) => (.next (landS s (slotNum h.slot) 2 x.sd.toNat (BitVec.ofNat 64 n)) : Res)
     (∃ f, exec (.many h x) s = toFlag f ∧ (f = true ↔ ∃ i < 128, on i = true)) ∧
     (∃ f, exec (.mall h x) s = toFlag f ∧ (f = true ↔ ∀ i < 128, p.getLsbD i = true → m.getLsbD i = true)) ∧
     exec (.mpop h x) s = toReg ((List.range 128).countP on) ∧
     (∃ n ≤ 128, exec (.mfirst h x) s = toReg n ∧ (∀ i < n, on i = false) ∧ (n < 128 → on n = true)))

/-- R155, R156, R157: VCVT converts n = 4,096 / wmax elements, those of part p of the wider register; VQUANT quantises the
blocks with an enabled lane; VDEQ decodes blocks whose needed headers pass their check, and a bad one is the selector
corruption fault of the lowest such block. R80, R81, R158: the long sum: 32 elements of 128 bits, converted from a
floating-point format, added, and converted back. The model's own choices in it are log entry 147. -/
def Obligations.VectorConversions : Prop :=
  ((∀ (s : State) (h : Head) (x : FmtJ), VReady s h [rV (stepReg h x.va.toNat)] →
     let src := (x.imm.extractLsb' 0 4).toNat
     let ws := widthOf src
     let wd := widthOf x.fmt.toNat
     let part := (x.imm.extractLsb' 5 2).toNat
     let n := 4096 / Nat.max ws wd
     let p := maskPred s.curCore h.prd h.pn
     ∃ t, exec (.vcvt h x) s = .next t ∧
       LandsElems s t (slotNum h.slot) (3 + crossing h.slot [stepReg h x.vd.toNat, stepReg h x.va.toNat]) (stepReg h x.vd.toNat) wd
         (4096 / wd)
         (fun i => if wd < ws then decide (part * n ≤ i) && decide (i < part * n + n) && lanes p ws (i - part * n)
           else decide (i < n) && lanes p wd i)
         fun i => convert src x.fmt.toNat (x.imm.getLsbD 4) x.rm.toNat (elem ws (s.curCore.vGet (stepReg h x.va.toNat))
           (if wd < ws then i - part * n else if ws < wd then part * n + i else i))) ∧
   (∀ (s : State) (h : Head) (x : FmtG), 11 ≤ x.fmt.toNat → x.fmt.toNat ≤ 13 → VReady s h [rV (stepReg h x.vs.toNat)] →
     let k := x.fmt.toNat
     let size := blockElems k
     let cw := codeBytes k * 8
     let c := s.curCore
     let p := maskPred c h.prd h.pn
     let input := fun (j : Nat) => if p.getLsbD j then elem 32 (c.vGet (stepReg h x.vs.toNat)) j else 0
     let q := fun b => quantBlock (levelsOf c 0) k x.cand.toNat ((List.range size).map fun j => input (b * size + j))
     let on := fun b => (List.range size).any fun j => p.getLsbD (b * size + j)
     let lat := 8 + crossing h.slot [stepReg h x.vd.toNat, stepReg h x.vs.toNat]
     let sl := slotNum h.slot
     ∃ v ve z ze : Vec,
       exec (.vquant h x) s = .next (landFlags (land (land s sl lat (.vReg (stepReg h x.vd.toNat) v ve)) sl lat
         (.zReg (stepReg h x.z.toNat) z ze)) sl lat (flagsOf on (fun b => ⟨0, if (q b).clamp then fQCLAMP else 0⟩) (128 / size))) ∧
       ∀ b < 128 / size,
         elem cw v b = (q b).codes % 2 ^ cw ∧ elem cw ve b = (if on b then 2 ^ cw - 1 else 0) ∧
         elem 16 z b = (q b).header % 2 ^ 16 ∧ elem 16 ze b = if on b then 2 ^ 16 - 1 else 0) ∧
   (∀ (s : State) (h : Head) (x : FmtG), VReady s h [rV (stepReg h x.vs.toNat), rZ (stepReg h x.z.toNat)] →
     let c := s.curCore
     let k := (x.cand.extractLsb' 0 4).toNat
     let size := blockElems k
     let wd := widthOf x.fmt.toNat
     let nb := 4096 / wd / size
     let hdr := fun b => elem 16 (c.zGet (stepReg h x.z.toNat)) b
     let p := maskPred c h.prd h.pn
     let need := fun b => (List.range size).any fun j => lanes p wd (b * size + j)
     ((∀ b < nb, need b = true → headerOk k (hdr b) = true) → ∃ t, exec (.vdeq h x) s = .next t ∧
       LandsElems s t (slotNum h.slot) (6 + crossing h.slot [stepReg h x.vd.toNat, stepReg h x.vs.toNat]) (stepReg h x.vd.toNat) wd
         (4096 / wd) (lanes p wd) fun i =>
           blockElem (levelsOf c 0) k (hdr (i / size))
             (codeAt k (elem (codeBytes k * 8) (c.vGet (stepReg h x.vs.toNat)) (i / size)) (i % size))
             (floatOf x.fmt.toNat) x.rm.toNat) ∧
     (∀ b < nb, need b = true → headerOk k (hdr b) = false → (∀ b' < b, need b' = true → headerOk k (hdr b') = true) →
       exec (.vdeq h x) s = .next (stepFault s (slotNum h.slot) 10 b (BitVec.ofNat 64 (hdr b)) 0)))) ∧
  ((∀ (s : State) (h : Head) (x : FmtJ), VReady s h [rV (stepReg h x.va.toNat)] →
     let f := floatOf x.fmt.toNat
     let w := widthOf x.fmt.toNat
     let a := s.curCore.vGet (stepReg h x.va.toNat)
     let p := maskPred s.curCore h.prd h.pn
     let lat := 4 + crossing h.slot [stepReg h x.vd.toNat, stepReg h x.va.toNat]
     (∃ t, exec (.vlscv h x) s = .next t ∧ LandsElems s t (slotNum h.slot) lat (stepReg h x.vd.toNat) 128 32
       (fun j => p.getLsbD j) fun j => toLS f x.imm.toInt (elem w a j)) ∧
     (∃ t, exec (.vlsout h x) s = .next t ∧ LandsElems s t (slotNum h.slot) lat (stepReg h x.vd.toNat) w 32
       (fun j => p.getLsbD j) fun j => fromLS f x.rm.toNat x.imm.toInt (elem 128 a j))) ∧
   (∀ (s : State) (h : Head) (x : FmtV), VReady s h [rV (stepReg h x.va.toNat), rV (stepReg h x.vb.toNat)] →
     ∃ t, exec (.vlsadd h x) s = .next t ∧
       LandsElems s t (slotNum h.slot)
         (4 + crossing h.slot [stepReg h x.vd.toNat, stepReg h x.va.toNat, stepReg h x.vb.toNat]) (stepReg h x.vd.toNat) 128 32
         (fun j => (maskPred s.curCore h.prd h.pn).getLsbD j)
         fun j => addLS (elem 128 (s.curCore.vGet (stepReg h x.va.toNat)) j) (elem 128 (s.curCore.vGet (stepReg h x.vb.toNat)) j)))

/-- R159: an integer VRSUM lands the sum of the enabled elements, reduced or clamped once, in every element; VRMAX and VRMIN
land the largest and the smallest enabled element, or the identity when none is enabled. In floating point VRSUM adds the
tree of strides N/2, …, 1 and rounds at each step; VRMAX and VRMIN take the larger and the smaller by R148 over the same
tree from −∞ and +∞, with the flags of every step, and give the canonical NaN where every enabled element is a NaN. -/
def Obligations.Reductions : Prop :=
  ∀ (s : State) (h : Head) (x : FmtV), VReady s h [rV (stepReg h x.va.toNat)] →
    let k := x.fmt.toNat
    let w := widthOf k
    let n := 4096 / w
    let sl := slotNum h.slot
    let lat := 6 + crossing h.slot [stepReg h x.vd.toNat, stepReg h x.va.toNat]
    let p := maskPred s.curCore h.prd h.pn
    let a := fun i => elem w (s.curCore.vGet (stepReg h x.va.toNat)) i
    let val := fun (e : Nat) => ival (isSignedCode k) w e
    let lands := fun (i : Instr) (r : Nat) => ∃ v : Vec,
      exec i s = .next (land s sl lat (.vReg (stepReg h x.vd.toNat) v (full 4096))) ∧ ∀ j < n, elem w v j = r % 2 ^ w
    (k ≤ 5 →
      lands (.vrsum h x) (reduceInt (isSignedCode k) w (x.sat == 1)
        (((List.range n).filter (lanes p w)).map fun i => val (a i)).sum) ∧
      (∃ r, lands (.vrmax h x) r ∧ (∀ i < n, lanes p w i = true → val (a i) ≤ val r) ∧
        (val r = intMin (isSignedCode k) w ∨ ∃ i < n, lanes p w i = true ∧ r = a i)) ∧
      (∃ r, lands (.vrmin h x) r ∧ (∀ i < n, lanes p w i = true → val r ≤ val (a i)) ∧
        (val r = intMax (isSignedCode k) w ∨ ∃ i < n, lanes p w i = true ∧ r = a i))) ∧
    (6 ≤ k → k ≤ 8 →
      let f := floatOf k
      let on := (List.range n).filter (lanes p w)
      let tree := fun (combine : Nat → Nat → Rounded) (identity : Nat) =>
        let step := fun (u v : Rounded) =>
          let r := combine u.enc v.enc
          Rounded.mk r.enc (r.flags ||| u.flags ||| v.flags)
        (pairTree step (strides 10 n) ((List.range n).map fun i => ⟨if lanes p w i then a i else identity, 0⟩)).headD ⟨identity, 0⟩
      let known := fun (r : Rounded) =>
        Rounded.mk (if on ≠ [] ∧ ∀ i ∈ on, (f.decode (a i)).isNan = true then f.nan else r.enc) r.flags
      let landsF := fun (i : Instr) (r : Rounded) => ∃ v : Vec,
        exec i s = .next (landFlags (land s sl lat (.vReg (stepReg h x.vd.toNat) v (full 4096))) sl lat r.flags) ∧
          ∀ j < n, elem w v j = r.enc % 2 ^ w
      landsF (.vrsum h x) (tree (fun u v => f.addV x.rm.toNat (f.decode u) (f.decode v)) 0) ∧
      landsF (.vrmax h x) (known (tree (f.minMax true) (f.sign true f.infEnc))) ∧
      landsF (.vrmin h x) (known (tree (f.minMax false) (f.sign false f.infEnc))))

/-- R160 to R162: the permutes, the rotation and the broadcast move elements of the sources, bit for bit. R165, R166: VCX
puts the pair that ranks ahead into vd and vd + 1 and the other into vc and vc + 1, lane by lane. R167, R168: VTWR lands the
converted elements of a vector in a tile row where the predicate enables them; VTRD lands a column of a tile, converted; a
column outside the tile is an illegal operation. -/
def Obligations.ElementMoves : Prop :=
  ((∀ (s : State) (h : Head) (x : FmtV),
     let c := s.curCore
     let w := widthOf x.fmt.toNat
     let n := 4096 / w
     let va := stepReg h x.va.toNat
     let vb := stepReg h x.vb.toNat
     let a := fun i => elem w (c.vGet va) i
     let b := fun i => elem w (c.vGet vb) i
     let ix := fun i => secondSource c h x.bc x.vb w i
     (VReady s h (vectorReads h x false) → ∃ t, exec (.vperm h x) s = .next t ∧
       MoveResult s t h x.fmt.toNat x.vd.toNat (if x.bc = 1 then [va] else [va, vb])
         fun i => if w = 8 then a (i / 256 * 256 + ix i) else a (ix i % n)) ∧
     (VReady s h [rV va, rV vb] →
       (∃ t, exec (.vzip h x) s = .next t ∧ MoveResult s t h x.fmt.toNat x.vd.toNat [va, vb]
         fun i => if i % 2 = 0 then a (i / 2) else b (i / 2)) ∧
       (∃ t, exec (.vunzip h x) s = .next t ∧ MoveResult s t h x.fmt.toNat x.vd.toNat [va, vb]
         fun i => if i < n / 2 then a (2 * i) else b (2 * (i - n / 2))))) ∧
   (∀ (s : State) (h : Head) (x : FmtJ), VReady s h [rV (stepReg h x.va.toNat)] →
     let w := widthOf x.fmt.toNat
     let va := stepReg h x.va.toNat
     let a := fun i => elem w (s.curCore.vGet va) i
     (∃ t, exec (.vrot h x) s = .next t ∧ MoveResult s t h x.fmt.toNat x.vd.toNat [va]
       fun i => a ((i + x.imm.toNat) % (4096 / w))) ∧
     (∃ t, exec (.vbcast h x) s = .next t ∧ MoveResult s t h x.fmt.toNat x.vd.toNat [va] fun _ => a x.imm.toNat))) ∧
  (∀ (s : State) (h : Head) (x : FmtW),
     let c := s.curCore
     let vd := stepReg h x.vd.toNat
     let va := stepReg h x.va.toNat
     let vb := stepReg h x.vb.toNat
     let vc := stepReg h x.vc.toNat
     let g := fun r i => elem 32 (c.vGet r) i
     let bFirst := fun i => rankedBefore x.fmt.toNat (g vb i) (g (vb + 1) i) (g va i) (g (va + 1) i)
     let lat := 4 + crossing h.slot [vd, vd + 1, va, va + 1, vb, vb + 1, vc, vc + 1]
     let put := fun (s t : State) (r ahead behind : Nat) =>
       LandsElems s t (slotNum h.slot) lat r 32 128 (fun i => (maskPred c h.prd h.pn).getLsbD i)
         fun i => ⟨if bFirst i then g ahead i else g behind i, 0⟩
     VReady s h [rV va, rV (va + 1), rV vb, rV (vb + 1)] → ∃ t1 t2 t3 t, exec (.vcx h x) s = .next t ∧
       put s t1 vd vb va ∧ put t1 t2 (vd + 1) (vb + 1) (va + 1) ∧ put t2 t3 vc va vb ∧ put t3 t (vc + 1) (va + 1) (vb + 1)) ∧
  (∀ (s : State) (h : Head) (x : FmtT),
     let c := s.curCore
     let wt := widthOf x.tfmt.toNat
     let wv := widthOf x.vfmt.toNat
     let v := stepReg h x.v.toNat
     let lat := 3 + crossing h.slot [v]
     let on := lanes (maskPred c h.prd h.pn) wv
     let col := stepReg h x.idx.toNat
     (VReady s h [rV v] →
       let f := fun i => convert x.vfmt.toNat x.tfmt.toNat false x.rm.toNat (elem wv (c.vGet v) i)
       ∃ r e : Row,
         exec (.vtwr h x) s = .next (landFlags (land s (slotNum h.slot) lat
           (.tRow (x.t.toNat * 128 + stepReg h x.idx.toNat) r e false)) (slotNum h.slot) lat (flagsOf on f (1024 / wt))) ∧
         ∀ i < 1024 / wt, elem wt r i = (f i).enc % 2 ^ wt ∧ elem wt e i = if on i then 2 ^ wt - 1 else 0) ∧
     (VReady s h ((List.range 128).map fun j =>
         ⟨5, x.t.toNat * 128 + j, col * wt / 8, col * wt / 8 + wt / 8⟩) →
       (col < 1024 / wt → ∃ t, exec (.vtrd h x) s = .next t ∧
         LandsElems s t (slotNum h.slot) lat v wv 128 on
           fun j => convert x.tfmt.toNat x.vfmt.toNat false x.rm.toNat (elem wt (c.tGet (x.t.toNat * 128 + j)) col)) ∧
       (1024 / wt ≤ col →
         exec (.vtrd h x) s = .next (stepFault s (slotNum h.slot) 2 0 (withWord (.vtrd h x) (illegalOp 0 0)).arg0 0))))

/-! ## The M and K slots -/

/-- R174, R190: with the array free MCALL starts its routine at its own issue, with the parameter registers copied and `bc`
in place of `a7` where BC is 1; with a routine running it waits and starts at that routine's end; a third one, and an
invalid entry, are illegal operations. -/
def Obligations.MatrixCall : Prop :=
  ∀ (s : State) (h : Head) (x : FmtM),
    let c := s.curCore
    let n := stepReg h x.acc.toNat
    let en := Table.get 0 c.routines x.rout.toNat
    let own := if x.bc = 1 then [Write.mk (c.iCyc + 1) c.iCyc (slotNum h.slot) (.aReg 7 h.bcv)] else []
    let called := fun (r : Routine) (start : Nat) =>
      r.entry = x.rout.toNat ∧ r.acc = n ∧ r.start = start ∧ r.stop = start + rtDur en ∧ r.begun = false ∧ r.issue = c.iCyc ∧
        ∀ i < 8, Table.get 0 r.params i = if x.bc = 1 ∧ i = 7 then h.bcv else c.aGet i
    let illegal : Res := .next (stepFault s (slotNum h.slot) 2 0 (withWord (.mcall h x) (illegalOp 0 0)).arg0 0)
    FReady s h (mcallReads c x.rout.toNat n (x.bc == 1)) →
      (rtValid en = true → c.running = none → ∃ r t, exec (.mcall h x) s = .next t ∧ called r c.iCyc ∧
        t = s.setCore s.cur { c with writes := c.writes ++ own, running := some r }) ∧
      (∀ r0, rtValid en = true → c.running = some r0 → c.waiting = none → ∃ r t, exec (.mcall h x) s = .next t ∧
        called r r0.stop ∧ t = s.setCore s.cur { c with writes := c.writes ++ own, waiting := some r }) ∧
      (rtValid en = false → exec (.mcall h x) s = illegal) ∧
      (c.running.isSome = true → c.waiting.isSome = true → exec (.mcall h x) s = illegal)

/-- R186, R190, R193: MZERO lands the zeroing of its accumulator; the NOPs do nothing; the K moves land a scale register, a
vector register, the eight parameter registers and a level table, whole. R187, R188: MDRAIN of an accumulator row under a
legal descriptor, for a floating-point OFMT: each element goes through scale, bias and activation and is converted once, and
the row flags are ORed in with those of the drain; for a block OFMT: the 128 elements are quantised block by block into vd
and zq. R189: with COMP = 1 the codes of the blocks that are not elidable are packed from byte 0 of vd, the rest up to nb ×
C is zero and the bytes beyond keep their value, zq takes every header, and its halfword 4 the presence map. A descriptor
that breaks R187 is an illegal operation, and so is a zq stepped past 31. The model's own choices in it are log entries 8,
17 and 127. -/
def Obligations.MatrixMovesAndDrains : Prop :=
  ((∀ (s : State) (h : Head) (x : FmtM), FReady s h [] →
     exec (.mNop h x) s = .next s ∧
     exec (.mzero h x) s = .next (land s (slotNum h.slot) 2 (.accZero (stepReg h x.acc.toNat)))) ∧
   (∀ (s : State) (h : Head) (x : FmtK), FReady s h [] → exec (.kNop h x) s = .next s) ∧
   (∀ (s : State) (h : Head) (x : FmtL), FReady s h [] → exec (.cNop h x) s = .next s) ∧
   (∀ (s : State) (h : Head) (x : FmtZ),
     let c := s.curCore
     let sl := slotNum h.slot
     let v := stepReg h x.v.toNat
     let z := stepReg h x.za.toNat
     (FReady s h [rV v] →
       exec (.kmvv h x) s = .next (land s sl 6 (.zReg (stepReg h x.zd.toNat) (c.vGet v) (BitVec.allOnes 4096)))) ∧
     (FReady s h [rZ z] → exec (.kmvz h x) s = .next (land s sl 6 (.vReg v (c.zGet z) (BitVec.allOnes 4096)))) ∧
     (FReady s h [⟨8, z, 0, 64⟩] → ∃ t, exec (.kmov h x) s = .next t ∧ t = s.setCore s.cur { c with
       writes := c.writes ++ (List.range 8).map fun k =>
         Write.mk (c.iCyc + 6) c.iCyc sl (.aReg k ((c.zGet z).extractLsb' (64 * k) 64)) }) ∧
     (FReady s h [⟨4, v, 0, 32⟩] →
       exec (.kltl h x) s = .next (land s sl 6 (.levelTable x.tb.toNat ((c.vGet v).extractLsb' 0 256)))))) ∧
  (∀ (s : State) (h : Head) (x : FmtD),
     let c := s.curCore
     let d := c.aGet x.ap.toNat
     let row := x.acc.toNat * 128 + stepReg h x.row.toNat
     let f := (bits d 0 4).toNat
     let sz := (bits d 7 5).toNat
     let bv := (bits d 13 10).toNat
     let sl := slotNum h.slot
     let reads := [ReadUnit.mk 7 x.ap.toNat 0 8, ReadUnit.mk 6 row 0 512] ++ (if d.getLsbD 6 then [rZ sz] else []) ++
       if d.getLsbD 12 then [rV bv] else []
     let y := fun rm i => drainElem d rm (c.zGet sz) (c.vGet bv) (c.accGet row) i
     let all := fun (_ : Nat) => true
     FReady s h reads →
       (drainCheck d x.zq.toNat = none → f < 11 → ∃ t,
         exec (.mdrain h x) s = .next (landFlags t sl 10 (c.accFlagGet row ||| flagsOf all (y (bits d 4 2).toNat) 128)) ∧
         LandsElems s t sl 10 (stepReg h x.vd.toNat) (widthOf f) 128 all fun i =>
           let v := y (bits d 4 2).toNat i
           let o := convert 6 f false (bits d 4 2).toNat v.enc
           ⟨o.enc, v.flags ||| o.flags⟩) ∧
       (drainCheck d x.zq.toNat = none → 11 ≤ f → f ≤ 13 → stepReg h x.zq.toNat < 32 → ∃ v ve z ze : Vec,
         let size := blockElems f
         let nb := 128 / size
         let cw := codeBytes f * 8
         let q := fun b => quantBlock (levelsOf c 0) f (bits d 25 8).toNat ((List.range size).map fun j => (y 0 (b * size + j)).enc)
         let kept := (List.range nb).filter fun b => !elidable f (q b).header (q b).codes
         exec (.mdrain h x) s = .next (landFlags (landFlags (land (land s sl 10 (.vReg (stepReg h x.vd.toNat) v ve)) sl 10
           (.zReg (stepReg h x.zq.toNat) z ze)) sl 10 (flagsOf all (fun b => ⟨0, if (q b).clamp then fQCLAMP else 0⟩) nb))
           sl 10 (c.accFlagGet row ||| flagsOf all (y 0) 128)) ∧
         (∀ b < nb, elem cw ve b = 2 ^ cw - 1 ∧ elem 16 z b = (q b).header % 2 ^ 16 ∧ elem 16 ze b = 2 ^ 16 - 1) ∧
         (d.getLsbD 33 = false → ∀ b < nb, elem cw v b = (q b).codes % 2 ^ cw) ∧
         (d.getLsbD 33 = true →
           (∀ i < nb, elem cw v i = if i < kept.length then (q (kept.getD i 0)).codes % 2 ^ cw else 0) ∧
           (∀ i < 4096, nb * cw ≤ i → ve.getLsbD i = false) ∧
           elem 16 ze 4 = 2 ^ 16 - 1 ∧ ∀ b < 16, (elem 16 z 4).testBit b = kept.contains b)) ∧
       (11 ≤ f → f ≤ 13 → 32 ≤ stepReg h x.zq.toNat →
         exec (.mdrain h x) s = .next (stepFault s sl 2 12 (withWord (.mdrain h x) (illegalOp 12 0)).arg0 0)) ∧
       (∀ k, drainCheck d x.zq.toNat = some k → (11 ≤ f → f ≤ 13 → stepReg h x.zq.toNat < 32) →
         exec (.mdrain h x) s = .next (stepFault s sl 2 k.cause (withWord (.mdrain h x) k).arg0 0)))

/-- R174 to R176: at its start cycle a routine reads the accumulators its entry names, and its first steps act; at its end
cycle the rows it has computed, those that its entry names and no others, join the landings of that cycle with their flags,
and the waiting routine becomes the running one. R181 to R185: what each micro-step does to a routine's working copies and
row flags, and what it costs: END, IDLE, BINDW, whose line past 32,767 is the bounds fault, MMA and MMAN, which add or
subtract the products of R77 and R78 one by one and OR their flags into the row, LOOP, CLR, ADDA, ACOPY and ASCALE; a step
that ends a loop's body returns to it while passes are left. The map of a weight tile is looked at up to the blocks of a
row, and a subnormal result is rounded once. Kinds 10 to 15 make a routine invalid and are steps of none. The model's own
choices in it are log entries 8, 11, 105 and 128. -/
def Obligations.RoutinesRun : Prop :=
  (∀ (s : State) (g : Nat) (r : Routine),
     let c := s.core g
     (c.running = some r → r.begun = false → r.start = c.cycle → startPending c r = none → ∀ r1,
       runSteps c c.cycle (stepFuel (beginRoutine c r) c.cycle) (beginRoutine c r) = (r1, none) →
       (∀ o < 4, ∀ j < 128, (bits (Table.get 0 c.routines r.entry) 10 4).getLsbD o = true →
         Table.get 0 (beginRoutine c r).work (o * 128 + j) = c.accGet ((r.acc + o) % 4 * 128 + j)) ∧
       exec (.routineStart g) s = .next (s.setCore g { c with running := some r1 })) ∧
     (c.running = some r → r.stop ≤ c.cycle →
       exec (.routineLanding g) s = .next (s.setCore g { c with
         writes := c.writes ++ routineWritesOf c r, running := c.waiting, waiting := none }) ∧
       ∀ w, w ∈ routineWritesOf c r ↔ ∃ o j, o < 4 ∧ j < 128 ∧ (bits (Table.get 0 c.routines r.entry) 10 4).getLsbD o = true ∧
         w = ⟨r.stop, r.issue, 3,
           .accRow ((r.acc + o) % 4 * 128 + j) (Table.get 0 r.work (o * 128 + j)) (Table.get 0 r.flags (o * 128 + j))⟩)) ∧
  (∀ (c : Core) (r : Routine),
     let w := stepWord c r
     let op := (bits w 60 4).toNat
     let ad := (bits w 58 2).toNat
     let acc := fun (t : Routine) (o j : Nat) => Table.get 0 t.work (o * 128 + j)
     let fl := fun (t : Routine) (o j : Nat) => Table.get 0 t.flags (o * 128 + j)
     let kept := fun (t : Routine) (o j : Nat) => acc t o j = acc r o j ∧ fl t o j = fl r o j
     let moved := fun (t : Routine) (cost : Nat) => t.at_ = r.at_ + cost ∧ t.ended = r.ended ∧
       if r.len ≠ 0 ∧ r.pos + 1 = r.body + r.len then
         (r.passes = 0 → t.pos = r.pos + 1 ∧ t.len = 0 ∧ t.pass = 0) ∧
         (r.passes ≠ 0 → t.pos = r.body ∧ t.len = r.len ∧ t.pass = r.pass + 1 ∧ t.passes + 1 = r.passes)
       else t.pos = r.pos + 1 ∧ t.len = r.len ∧ t.pass = r.pass ∧ t.passes = r.passes
     let line := (if w.getLsbD 55 then Table.get 0 r.regs (bits w 52 3).toNat else 0) + (bits w 37 15).setWidth 64 +
       BitVec.ofNat 64 (r.pass * (bits w 25 12).toNat)
     let mops := mmaOps r w
     let map := (c.wbGet mops.line).toNat % 2 ^ (128 * rowBlocks mops.fmt)
     (op = 0 → microStep c r = .ok { r with ended := true }) ∧
     (op = 1 → ∃ t, microStep c r = .ok t ∧ moved t ((bits w 44 16).toNat + 1) ∧ t.work = r.work ∧ t.flags = r.flags ∧
       t.regs = r.regs ∧ t.bindings = r.bindings) ∧
     (op = 2 → line.toNat ≤ 32767 → ∃ t, microStep c r = .ok t ∧ moved t 4 ∧ t.work = r.work ∧ t.flags = r.flags ∧ t.regs = r.regs ∧
       ∀ k, Table.get (0, 0) t.bindings k =
         if k = (bits w 58 2).toNat then (line.toNat, (bits w 56 2).toNat) else Table.get (0, 0) r.bindings k) ∧
     (op = 2 → 32767 < line.toNat → microStep c r = .error ⟨8, 0x200, line, faultStep r, 16⟩) ∧
     (op = 3 ∨ op = 4 →
       (∀ k, mmaCheck c r mops map = some k → microStep c r = .error k) ∧
       (mmaCheck c r mops map = none → ∃ t, microStep c r = .ok t ∧ t.regs = r.regs ∧ t.bindings = r.bindings ∧
         moved t (if mops.fmt = 13 then 16 else if mops.b = 6 then 64 else if mops.fmt = 11 ∧ mops.b = 0 then 16 else 32) ∧
         (∀ o ≠ mops.ao, ∀ j < 128, kept t o j) ∧
         ∀ j < 128,
           let out := fun (i : Nat) => ((weightSides c mops map i).zip (tileSides c mops map j)).foldl
             (fun a xy => accumulate (op = 4) a (pairProduct xy.1 xy.2)) (⟨elem 32 (acc r mops.ao j) i, 0⟩ : Rounded)
           (∀ i < 128, elem 32 (acc t mops.ao j) i = (out i).enc % 2 ^ 32) ∧
           fl t mops.ao j = fl r mops.ao j ||| flagsOf (fun _ => true) out 128)) ∧
     (op = 5 → microStep c r = .ok { r with
       passes := (bits w 48 12).toNat, pass := 0, body := r.pos + 1, len := (bits w 44 4).toNat, loopWord := w, pos := r.pos + 1 }) ∧
     (op = 6 → ∃ t, microStep c r = .ok t ∧ moved t 1 ∧ t.regs = r.regs ∧ (∀ j < 128, acc t ad j = 0 ∧ fl t ad j = 0) ∧
       ∀ o ≠ ad, ∀ j < 128, kept t o j) ∧
     (op = 7 → ∃ t, microStep c r = .ok t ∧ moved t 1 ∧ t.work = r.work ∧ t.flags = r.flags ∧
       ∀ k, Table.get 0 t.regs k = if k = (bits w 57 3).toNat then Table.get 0 r.regs k + (bits w 25 32).signExtend 64
         else Table.get 0 r.regs k) ∧
     (op = 8 → ∃ t, microStep c r = .ok t ∧ moved t 16 ∧ t.regs = r.regs ∧
       (∀ j < 128, acc t ad j = acc r (bits w 56 2).toNat j ∧ fl t ad j = fl r (bits w 56 2).toNat j) ∧
       ∀ o ≠ ad, ∀ j < 128, kept t o j) ∧
     (op = 9 → ∃ t, microStep c r = .ok t ∧ moved t 16 ∧ t.regs = r.regs ∧
       (∀ j < 128,
         let m := fun (i : Nat) => f32.mulV 0 (f32.decode (elem 32 (acc r ad j) i))
           (f32.decode ((Table.get 0 r.regs (bits w 55 3).toNat).toNat % 2 ^ 32))
         (∀ i < 128, elem 32 (acc t ad j) i = (m i).enc % 2 ^ 32) ∧ fl t ad j = fl r ad j ||| flagsOf (fun _ => true) m 128) ∧
       ∀ o ≠ ad, ∀ j < 128, kept t o j))

/-! ## The copy slots: loads, stores and atomics -/

/-- R196, R199, R200, R192: an enabled load whose address forms and whose arrival offset reaches the minimum of its tier
goes out as one access of the program order, with a request that names its landing cycle and target; an address that does
not form is the fault of its first failing check; an offset below the minimum is the arrival fault, also where every element
is dropped: then the record's first byte names the source; a suppressed load only counts its landing entries. R195 to R198:
the address of an access, of a load or of a store, is the handle's base, the record's base and the offset `s[so]` + IMM ×
unit with the step of a sticky re-issue; an unaligned offset, one out of range in `trap` mode, an extent smaller than the
access in `clamp` mode and a byte beyond the handle's extent are bounds faults; `clamp` mode moves the whole part to the
nearest aligned place in range; `zero` mode keeps the elements in range alone; a tile is checked row by row and a K access
halfword by halfword. The model's own choices in it are log entries 9 and 108. -/
def Obligations.LoadsGoOut : Prop :=
  (∀ (f : Form) (s : State) (c : Core) (write : Bool),
     let bf := c.bfGet f.bfn
     let hd := c.hUse bf.hnum
     let bounds := fun (o : Int) => ({ code := 8, cause := f.bfn, arg0 := BitVec.ofInt 64 o, arg1 := 0, handle := 16 } : Check)
     let protection := fun (cause addr : Nat) => ({ code := 7, cause := cause, arg0 := BitVec.ofNat 64 addr, arg1 := 0, handle := 16 } : Check)
     let permitted := hd.valid = true ∧ hd.cut = false ∧ (write = true → hd.write = true)
     (hd.valid = false ∨ hd.cut = true → f.form s c write = .error
       { code := 5, cause := bf.hnum, arg0 := hd.va, arg1 := if hd.write then 2 else 1, handle := bf.hnum }) ∧
     (∀ off o rest, f.parts = (off, o) :: rest → hd.valid = true → hd.cut = false → write = true → hd.write = false →
       f.form s c write = .error (protection 1 (hd.va.toNat + (bf.base + o.toNat)))) ∧
     (∀ (off : Nat) (o : Int), permitted → f.parts = [(off, o)] →
       let inRange := 0 ≤ o ∧ o + f.size ≤ bf.ext
       let run := fun (o' : Int) (n off' : Nat) (d : Bool) =>
         let sp : Span := ⟨off', hd.base + bf.base + o'.toNat, n⟩
         if hd.extent < bf.base + o'.toNat + n then f.form s c write = .error (bounds o')
         else match addressCheck s write [sp] with
           | some k => f.form s c write = .error k
           | none => f.form s c write = .ok ⟨[sp], d⟩
       (¬ (f.align : Int) ∣ o → f.form s c write = .error (bounds o)) ∧
       ((f.align : Int) ∣ o → inRange → run o f.size off false) ∧
       ((f.align : Int) ∣ o → ¬ inRange → bf.mode ≠ 1 → bf.mode ≠ 2 → f.form s c write = .error (bounds o)) ∧
       ((f.align : Int) ∣ o → ¬ inRange → bf.mode = 1 →
         (bf.ext < f.size → f.form s c write = .error (bounds o)) ∧
         (f.size ≤ bf.ext → run (min (max o 0) (((bf.ext - f.size) / f.align * f.align : Nat) : Int)) f.size off false)) ∧
       (∀ n lo hi : Nat, (f.align : Int) ∣ o → ¬ inRange → bf.mode = 2 → 0 < f.elem → f.size = n * f.elem → lo ≤ hi → hi ≤ n →
         (∀ k : Nat, k < n → ((lo ≤ k ∧ k < hi) ↔ (0 ≤ o + (k * f.elem : Nat) ∧ o + ((k + 1) * f.elem : Nat) ≤ bf.ext))) →
         (lo < hi → run (o + (lo * f.elem : Nat)) ((hi - lo) * f.elem) (off + lo * f.elem) true) ∧
         (lo = hi → f.form s c write = .ok ⟨[], true⟩))) ∧
     (∀ p rest, permitted → f.parts = p :: rest →
       let first := ({ f with parts := [p] } : Form).form s c write
       let others := ({ f with parts := rest } : Form).form s c write
       (∀ a b, first = .ok a → others = .ok b → f.form s c write = .ok ⟨a.spans ++ b.spans, a.dropped || b.dropped⟩) ∧
       (∀ a k, first = .ok a → others = .error k → f.form s c write = .error k) ∧
       (∀ k, first = .error k → k.code = 8 → f.form s c write = .error k)) ∧
     (∀ sp rest, let last := sp.pa + (sp.len - 1)
       (reachable s sp.pa = false → addressCheck s write (sp :: rest) = some (protection 3 sp.pa)) ∧
       (reachable s sp.pa = true → reachable s last = false → addressCheck s write (sp :: rest) = some (protection 3 last)) ∧
       (isDeep sp.pa = true → reachable s sp.pa = false) ∧
       (reachable s sp.pa = true → reachable s last = true → write = true → isHbm sp.pa = true →
         (isCommons s sp.pa = true ∨ isCommons s last = true →
           addressCheck s write (sp :: rest) = some (protection 4 sp.pa)) ∧
         (isCommons s sp.pa = false → isCommons s last = false → readOnlySet s sp.pa = true ∨ readOnlySet s last = true →
           addressCheck s write (sp :: rest) = some (protection 5 sp.pa))) ∧
       (reachable s sp.pa = true → reachable s last = true →
         write = false ∨ isHbm sp.pa = false ∨ (isCommons s sp.pa = false ∧ isCommons s last = false ∧
           readOnlySet s sp.pa = false ∧ readOnlySet s last = false) →
         addressCheck s write (sp :: rest) = addressCheck s write rest) ∧
       addressCheck s write [] = none)) ∧
  (∀ (c : Core) (h : Head) (unit size : Nat),
     let stepped := fun (base : Word) (imm : Int) =>
       (base + BitVec.ofInt 64 (imm * unit) + BitVec.ofNat 64 (h.j * h.step.toNat * size)).toInt
     (∀ x : FmtL, offL c h x unit size = stepped (c.sGet x.so.toNat) x.imm.toInt) ∧
     (∀ x : FmtE, offE c h x unit size = stepped (c.sGet x.so.toNat) x.imm.toInt) ∧
     (∀ x : FmtK, unit = 2 → size = 2 * (x.cnt.toNat + 1) →
       offK c h x = stepped (if x.bc = 1 then h.bcv else c.sGet x.so.toNat) x.imm.toInt) ∧
     (∀ (b n off : Nat) (o : Int),
       let pitch := if (c.bfGet b).str0 = 0 then 128 else (c.bfGet b).str0
       onePart b n unit size off o = ⟨b, n, unit, size, [(off, o)]⟩ ∧
       tileForm c b o = ⟨b, 128, 4, 4, (List.range 128).map fun j => (128 * j, o + (j * pitch : Nat))⟩ ∧
       halfForm b n o = ⟨b, 2, 2, 2, (List.range n).map fun i => (2 * i, o + (2 * i : Nat))⟩)) ∧
  ∀ (s : State) (h : Head),
    let c := s.curCore
    let sl := slotNum h.slot
    let load := fun (i : Instr) (reads : List ReadUnit) (f : Form) (cls ord arr size : Nat) (t : Target) =>
      (∀ a, FReady s h reads → f.form s c false = .ok a → arrivalCheck (arrivalMin s s.cur false (f.source c a)) arr = none →
        exec i s = .next (countOob (makeAccess s h cls ord .read (readPieces a.spans) size (some (arr, (size + 63) / 64, t)) 0)
          a.dropped)) ∧
      (∀ a, f.source c a = if a.spans = [] then [⟨0, (c.hUse (c.bfGet f.bfn).hnum).base + (c.bfGet f.bfn).base, 1⟩] else a.spans) ∧
      (∀ a m, FReady s h reads → f.form s c false = .ok a → arrivalMin s s.cur false (f.source c a) = some m → arr < m →
        exec i s = .next (stepFault s sl 4 m (BitVec.ofNat 64 arr) 0)) ∧
      (∀ k, FReady s h reads → f.form s c false = .error k →
        exec i s = .next (raise s sl (withWord i k))) ∧
      (pendingCheck c (rFlagPred h.prd) = none → flagPred c h.prd h.pn = false →
        exec i s = .next (discardRequest s sl arr ((size + 63) / 64)))
    (∀ x : FmtL,
      load (.ldVector h x) [rS x.so.toNat] (onePart x.bf.toNat 512 4 4 0 (offL c h x 4 512)) x.cls.toNat x.ord.toNat x.arr.toNat
        512 (.vec x.d.toNat) ∧
      load (.ldTile h x) [rS x.so.toNat] (tileForm c x.bf.toNat (offL c h x 4 (128 * tilePitch (c.bfGet x.bf.toNat))))
        x.cls.toNat x.ord.toNat x.arr.toNat 16384 (.tile x.d.toNat) ∧
      ∀ k : ScalarLoad, let n := (loadWidth k).1
        load (.ldScalar k h x) [rS x.so.toNat] (onePart x.bf.toNat n n n 0 (offL c h x n n)) x.cls.toNat x.ord.toNat x.arr.toNat n
          (.scalar x.d.toNat n (loadWidth k).2)) ∧
    (∀ x : FmtK, let n := x.cnt.toNat + 1
      load (.kldh h x) (if x.bc = 1 then [] else [rS x.so.toNat]) (halfForm x.bf.toNat n (offK c h x)) x.cls.toNat 0 x.arr.toNat
        (2 * n) (.zReg x.z.toNat (2 * n)))

/-- R192, R197, R199, R200: an enabled store whose address forms goes out as one write access of the source bytes, which
`%sig` absorbs under the low 24 bits of the offset that the store names, or to which `clamp` mode moves it; a vector store
with no lane enabled does nothing; a failed check is the fault. The model's own choices in it are log entries 9, 18 and 110. -/
def Obligations.StoresGoOut : Prop :=
  ∀ (s : State) (h : Head),
    let c := s.curCore
    let store := fun (i : Instr) (reads : List ReadUnit) (f : Form) (cls ord : Nat) (o : Int) (data : List (Option Byte)) =>
      (∀ a, FReady s h reads → f.form s c true = .ok a →
        let ps := writePieces a.spans data
        ((c.bfGet f.bfn).mode ≠ 1 → f.movedTo c a o = o) ∧
        exec i s = .next (countOob (absorbCur (makeAccess s h cls ord .write ps data.length none 0) 11
          (BitVec.ofInt 24 (f.movedTo c a o)).toNat (ps.flatMap fun p => p.bytes.filterMap id)) a.dropped)) ∧
      (∀ k, FReady s h reads → f.form s c true = .error k → exec i s = .next (raise s (slotNum h.slot) (withWord i k)))
    (∀ x : FmtE,
      let m := storeLanes c x.lm
      let vreads := [rV x.d.toNat, rS x.so.toNat] ++ if x.lm = 15 then [] else [rM x.lm.toNat]
      (m ≠ 0 → store (.stVector h x) vreads (vectorStoreForm x.bf.toNat m (offE c h x 4 512)) x.cls.toNat x.ord.toNat
        (offE c h x 4 512) (vectorStoreData (c.vGet x.d.toNat) m)) ∧
      (m = 0 → FReady s h vreads → exec (.stVector h x) s = .next s) ∧
      store (.stTile h x) (rS x.so.toNat :: rT x.d.toNat)
        (tileForm c x.bf.toNat (offE c h x 4 (128 * tilePitch (c.bfGet x.bf.toNat)))) x.cls.toNat x.ord.toNat
        (offE c h x 4 (128 * tilePitch (c.bfGet x.bf.toNat))) (tileData c x.d.toNat) ∧
      ∀ k : ScalarStore, let n := storeWidth k
        store (.stScalar k h x) [rS x.d.toNat, rS x.so.toNat] (onePart x.bf.toNat n n n 0 (offE c h x n n)) x.cls.toNat x.ord.toNat
          (offE c h x n n) ((leBytes n (c.sGet x.d.toNat).toNat).map some)) ∧
    (∀ x : FmtK, let n := x.cnt.toNat + 1
      store (.ksth h x) (⟨8, x.z.toNat, 0, 2 * n⟩ :: if x.bc = 1 then [] else [rS x.so.toNat]) (halfForm x.bf.toNat n (offK c h x))
        x.cls.toNat 0 (offK c h x) ((leBytes (2 * n) ((c.zGet x.z.toNat).toNat % 2 ^ (16 * n))).map some))

/-- R108, R221, R224: an enabled atomic whose check passes and whose word is kept goes out with the next identifier of its
target, which it takes modulo 65,536, and `%sig` absorbs its operands; a suppressed one only counts its landing entry. The
model's own choices in it are log entries 18 and 35. -/
def Obligations.AtomicsGoOut : Prop :=
  ∀ (s : State) (h : Head) (x : FmtU),
    let c := s.curCore
    let a := (c.sGet x.sa.toNat).setWidth 32
    let b := (c.sGet x.sb.toNat).setWidth 32
    let sg := (c.bfGet x.bf.toNat).fmt = 0
    let atomic := fun (i : Instr) (op : Nat) =>
      (∀ f sp, FReady s h ([rS x.sa.toNat, rS x.so.toNat] ++ if op = 7 then [rS x.sb.toNat] else []) → atomicCheck s c x = none →
        (atomicForm c x).form s c true = .ok f → f.spans = [sp] →
        let t := targetOf s sp.pa
        let id := Table.get 0 c.atomIds t
        exec i s = .next (countOob (absorbCur (makeAccess
          (s.setCore s.cur { c with atomIds := Table.put c.atomIds t ((id + 1) % 65536) }) h x.cls.toNat x.ord.toNat
          (.atomic op a b sg) (readPieces f.spans) 4 (some (x.arr.toNat, 1, .scalar x.sd.toNat 4 sg)) id)
          13 (0x38 + op) (leBytes 4 a.toNat ++ leBytes 4 b.toNat)) f.dropped)) ∧
      (pendingCheck c (rFlagPred h.prd) = none → flagPred c h.prd h.pn = false →
        exec i s = .next (discardRequest s (slotNum h.slot) x.arr.toNat 1)) ∧
      (∀ k, FReady s h ([rS x.sa.toNat, rS x.so.toNat] ++ if op = 7 then [rS x.sb.toNat] else []) → atomicCheck s c x = some k →
        exec i s = .next (raise s (slotNum h.slot) (withWord i k)))
    atomic (.aadd h x) 0 ∧ atomic (.aand h x) 1 ∧ atomic (.aor h x) 2 ∧ atomic (.axor h x) 3 ∧ atomic (.amin h x) 4 ∧
    atomic (.amax h x) 5 ∧ atomic (.axchg h x) 6 ∧ atomic (.acas h x) 7

/-- R249: an access that reads joins the program order of its core, and its request names the issue cycle plus the arrival
offset. It leaves the source interface at once where it may and waits there where it may not; one that only time does not
keep behind its class waits for that class from then on. The model's own choices in it are log entry 99. -/
def Obligations.AccessJoinsTheProgramOrder : Prop :=
  ∀ (s : State) (h : Head) (cls ord : Nat) (ps : List Piece) (size arr entries ident : Nat) (t : Target),
    let c := s.curCore
    let n := s.nextId
    let r : Request :=
      { id := n, issue := c.iCyc, arr := c.iCyc + arr, entries := entries, target := t, slot := slotNum h.slot, baddr := c.iPc
        rep := c.iRep, data := none, poison := [], pline := 0, cause := 0, paddr := 0, atomic := false, recv := none }
    let a : Access :=
      { role := .slot, g := s.cur, launch := c.launch, seq := c.seq, slot := slotNum h.slot, issue := c.iCyc, baddr := c.iPc, rep := c.iRep
        cls := cls, mask := allClasses, kind := .read, ord := ord, pieces := ps, size := size, region := c.region.num, held := false, left := false, strict := false, sent := 0, reply := 0, done := false
        ident := ident, old := 0 }
    let joined := { s.setCore s.cur { c with seq := c.seq + 1, reqs := c.reqs ++ [r] } with
      nextId := n + 1, accesses := Table.put s.accesses n a }
    ps ≠ [] →
      (mayLeave joined a = true →
        makeAccess s h cls ord .read ps size (some (arr, entries, t)) ident = leave joined n a) ∧
      (mayLeave joined a = false → (unfenced joined a && classReady joined a) = false →
        makeAccess s h cls ord .read ps size (some (arr, entries, t)) ident = joined) ∧
      (mayLeave joined a = false → (unfenced joined a && classReady joined a) = true →
        makeAccess s h cls ord .read ps size (some (arr, entries, t)) ident = keepBack joined n a)

/-! ## How an access performs -/

/-- R246, R252, R269: a piece of a write to the core's own hive whose lane is free, over cells that hold a good codeword,
puts its given bytes at its own addresses and changes no other byte of memory and no register. R246, R249, R270: a piece of
such a read takes the bytes that memory holds and the line's mark; memory and the registers stay, and with its last piece
the data is on its way back. R221, R224: an atomic on a word of the own hive that has not been answered before replaces the
word by its result, answers the old word and keeps the reply under its source and identifier; a request whose reply is kept
changes nothing and gets the same reply. The word that each atomic leaves: sum, logic, the smaller or larger in the
signedness of the record's format, an exchange, and an exchange on equality. The model's own choices in it are log entries
37 and 99. -/
def Obligations.PiecesAndAtomicsPerform : Prop :=
  ((∀ (s : State) (n i : Nat) (x : Access) (p : Piece), s.Inv →
      s.accesses.find n = some x → x.pieces[i]? = some p → p.done = false → x.kind = .write → x.role ≠ .stream →
      pathOf x.g p.pa = .own → behind s n x p = false → laneBusy s n x i p = false →
      Table.get 0 s.flaws (lineOf p.pa) = 0 →
      ∃ t, exec (.accessPerform n i) s = .next t ∧
        (∀ a, readByte t a = if p.pa ≤ a ∧ a < p.pa + p.bytes.length then (p.bytes.getD (a - p.pa) none).getD (readByte s a)
          else readByte s a) ∧
        (∀ g, SameRegisters (s.core g) (t.core g)) ∧
        ∃ y, t.accesses.find n = some y ∧ y.pieces = x.pieces.set i { p with done := true }) ∧
   (∀ (s : State) (n i : Nat) (x : Access) (p : Piece),
      s.accesses.find n = some x → x.pieces[i]? = some p → p.done = false → x.kind = .read → x.role ≠ .stream →
      pathOf x.g p.pa = .own → behind s n x p = false → laneBusy s n x i p = false →
      Table.get 0 s.flaws (lineOf p.pa) = 0 →
      let q := { p with bytes := (readBytes s p.pa p.len).map some, poisoned := poisoned s p.pa, done := true }
      ∃ t, exec (.accessPerform n i) s = .next t ∧ SameMemory s t ∧ t.cores = s.cores ∧
        (∃ y, t.accesses.find n = some y ∧ y.pieces = x.pieces.set i q ∧ y.reply = Nat.max x.reply (s.now + 11)) ∧
        ((x.pieces.set i q).all (·.done) = true →
          (Nat.max s.now (Nat.max x.reply (s.now + 11)), keyReply, .landingBufferArrival n) ∈ t.agenda))) ∧
  ((∀ (sg : Bool) (m a b : BitVec 32),
      let v := fun (x : BitVec 32) => if sg then x.toInt else (x.toNat : Int)
      atomicNew 0 sg m a b = BitVec.ofNat 32 (m.toNat + a.toNat) ∧ atomicNew 1 sg m a b = m &&& a ∧
      atomicNew 2 sg m a b = m ||| a ∧ atomicNew 3 sg m a b = m ^^^ a ∧
      (v (atomicNew 4 sg m a b) = Min.min (v m) (v a)) ∧ (v (atomicNew 5 sg m a b) = Max.max (v m) (v a)) ∧
      atomicNew 6 sg m a b = a ∧ atomicNew 7 sg m a b = if m = b then a else m) ∧
   (∀ (s : State) (n : Nat) (x : Access) (p : Piece) (op : Nat) (a b : BitVec 32) (sg : Bool), s.Inv →
      s.accesses.find n = some x → x.pieces = [p] → p.done = false → x.kind = .atomic op a b sg → x.role ≠ .stream →
      pathOf x.g p.pa = .own → behind s n x p = false → laneBusy s n x 0 p = false →
      p.pa % 4 = 0 → Table.get 0 s.flaws (lineOf p.pa) = 0 → poisoned s p.pa = false →
      let word := fun (s : State) => BitVec.ofNat 32 (leNat (readBytes s p.pa 4))
      (storedReply s (targetOf s p.pa) (sourceNumber s x.g) x.ident = none →
        ∃ t, exec (.atomicExecute n) s = .next t ∧ word t = atomicNew op sg (word s) a b ∧
          (∀ c, c < p.pa ∨ p.pa + 4 ≤ c → readByte t c = readByte s c) ∧
          storedReply t (targetOf s p.pa) (sourceNumber s x.g) x.ident = some (word s) ∧
          (∃ y, t.accesses.find n = some y ∧ y.old = word s) ∧ ∀ g, SameRegisters (s.core g) (t.core g)) ∧
      (∀ r, storedReply s (targetOf s p.pa) (sourceNumber s x.g) x.ident = some r →
        ∃ t, exec (.atomicExecute n) s = .next t ∧ SameMemory s t ∧ ∃ y, t.accesses.find n = some y ∧ y.old = r)))

/-- R49, R252, R253, R277: data that is back waits in its request for the named cycle; an acknowledged write is outstanding
no longer, and one of the shepherd sets the notice flag that waits for it (R301); a waiting access leaves when it may, and
not before; one that may leave performs no sooner than any instant of an earlier open access of its class; an HBM request
goes whole at its position, its pieces due at their groups, waits for the next rotation when a group's slot is taken, or
waits for its class. The model's own choices in it are log entries 19 and 99. -/
def Obligations.AccessStepsOn : Prop :=
  ∀ (s : State) (n : Nat) (x : Access), s.accesses.find n = some x →
    ((∀ e ∈ s.told, e.1 ≠ n) → ∀ r ∈ (s.core x.g).reqs, r.id = n → ∃ t, exec (.landingBufferArrival n) s = .next t ∧
      (∀ q ∈ (t.core x.g).reqs, q.id = n → q.data = some (assemble x.size x.pieces)) ∧
      (t.core x.g).reqs.map (·.id) = (s.core x.g).reqs.map (·.id) ∧ SameRegisters (s.core x.g) (t.core x.g) ∧ t.mem = s.mem) ∧
    (∃ t, exec (.writeAcknowledge n) s = .next t ∧ t.mem = s.mem ∧
      ((∀ e ∈ s.told, e.1 ≠ n) → ∀ g, SameRegisters (s.core g) (t.core g)) ∧
      (∀ l m y g f, x.role = .shepherd → s.told = [(n, l, m, f)] → s.launch? l = some y → y.state = .running → y.cores[m]? = some g → f < 32 →
        t.told = [] ∧ (t.core g).w = putBit (s.core g).w f true ∧ ∀ k ≠ g, SameRegisters (s.core k) (t.core k)) ∧
      ((∀ e ∈ s.accesses, e.2.role ≠ .flush) → t.accesses = Table.del s.accesses n)) ∧
    (x.role = .slot → x.left = false → mayLeave s x = false → exec (.sourceInterfaceRelease n) s =
      .next (if unfenced s x && classReady s x then keepBack s n x else s)) ∧
    (mayLeave s x = true → usesHbm s x = false → ∀ b ∈ s.accesses, b.2.role = .slot → b.2.g = x.g → b.2.launch = x.launch → b.2.done = false →
      b.2.seq < x.seq → b.2.cls = x.cls → b.2.left = true ∧ ∀ q ∈ b.2.pieces, ∃ k, instantOf s b.2 q = some k ∧
        ∀ p ∈ x.pieces, k ≤ firstOf s x p) ∧
    (x.role = .slot → x.left = false → mayLeave s x = true → exec (.sourceInterfaceRelease n) s = .next (leave s n x)) ∧
    (x.left = true → x.sent = 0 → (∃ k ∈ accessGroups s x, Table.get 0 s.calendar (x.g * 24 + k) = s.now + 1) →
      exec (.hbmRequestSend n) s = .next (s.due (s.now + 64) (keyHbm x) (.hbmRequestSend n))) ∧
    (∀ p, x.role = .slot → x.left = true → x.sent = 0 → x.pieces = [p] → p.done = false → pathOf x.g p.pa = .hbm →
      (∀ k ∈ accessGroups s x, Table.get 0 s.calendar (x.g * 24 + k) ≠ s.now + 1) →
      (inOrder s x = false → exec (.hbmRequestSend n) s = .next (keepBack s n x)) ∧
      (inOrder s x = true → s.takeover = [] → ∃ t, exec (.hbmRequestSend n) s = .next t ∧ t.mem = s.mem ∧ (∀ g, SameRegisters (s.core g) (t.core g)) ∧
        (∀ k ∈ accessGroups s x, Table.get 0 t.calendar (x.g * 24 + k) = s.now + 1) ∧
        ∃ m i, (s.now + (if crosses s x.g p.pa then 304 else 256), m, i) ∈ t.agenda ∧
          (i = .accessPerform n 0 ∨ i = .atomicExecute n)))

/-! ## Copy engines and circuits -/

/-- R202, R204, R206: a copy command whose check passes joins its engine's queue with its descriptor, records, class and
flags as they are at issue, and `%sig` absorbs the descriptor; a format-F command joins likewise. A failed check is the
fault. A command that joins a queue with others in it waits behind them, and so does one that may not begin; one that joins
an empty queue and may begin has its start due at a later reference cycle. Only the queue and the program order of the core
change, and a release asks for the zero-length read that it may owe the host (R379). The model's own choices in it are log
entries 18, 40, 48, 121 and 129. -/
def Obligations.CopyCommandsQueue : Prop :=
  (∀ (s : State) (h : Head),
     let c := s.curCore
     let e := engineOf h.slot
     (∀ x : FmtN,
       let i := descIndexOf h x
       let d := (List.range 10).map fun k => c.spillGet (i + k)
       let record := fun (n : Nat) => CopyRec.mk n (c.bfGet n) (c.hUse (c.bfGet n).hnum)
       let command := fun (k : CopyKind) (second nextS nextD : Bool) =>
         ({ kind := k, seq := c.seq, src := some (record x.bfs.toNat), dst := if second then some (record x.bfd.toNat) else none
            srcNext := if nextS then some (record (x.bfs.toNat + 1)) else none
            dstNext := if nextD then some (record (x.bfd.toNat + 1)) else none
            desc := d, descIndex := i, cls := x.cls.toNat, mask := 0, acq := x.acq = 1, rel := x.rel = 1, scope := x.scope.toNat
            flag := if x.wfe = 1 then some x.wf.toNat else none, off := 0, bf16 := false, issue := c.iCyc, baddr := c.iPc, rep := c.iRep
            region := c.region.num, started := false, ord := 0
            total := if k = .gath ∨ k = .scat then dCount d 0 else dTotal d
            flags := 0, oob := false, paused := false, fetched := [], todo := [], finished := false } : Command)
       let queues := fun (i : Instr) (k : CopyKind) (second nextS nextD : Bool) =>
         FReady s h ((List.range 10).map fun j => ⟨10, descIndexOf h x + j, 0, 8⟩) →
         (commandCheck s c k h x = none → exec i s = .next (absorbCur (enqueue s e (command k second nextS nextD)) 12
           (x.bfs.toNat * 32 + x.bfd.toNat) (d.flatMap fun w => leBytes 8 w.toNat))) ∧
         (∀ f, commandCheck s c k h x = some f → exec i s = .next (raise s (slotNum h.slot) (withWord i f)))
       queues (.cpy h x) .cpy true false false ∧ queues (.cpyc h x) .cpyc true false false ∧
       queues (.cpyq h x) .cpyq true false true ∧ queues (.cpyx h x) .cpyx true true false ∧
       queues (.cpyz h x) .cpyz true true false ∧ queues (.wbld h x) .wbld false false false ∧
       queues (.gath h x) .gath true true false ∧ queues (.scat h x) .scat true false true ∧
       queues (.mcast h x) .mcast true false false) ∧
     (∀ x : FmtF,
       let command := fun (k : CopyKind) =>
         ({ kind := k, seq := c.seq, src := if k = .ctld then some ⟨x.bf.toNat, c.bfGet x.bf.toNat, c.hUse (c.bfGet x.bf.toNat).hnum⟩ else none
            dst := none, srcNext := none, dstNext := none, desc := [], descIndex := 0, cls := if k = .ctld then 0 else 16
            mask := x.cmask, acq := k = .cacq, rel := k = .crel, scope := x.scope.toNat
            flag := if x.wfe = 1 then some x.wf.toNat else none, off := (c.sGet x.so.toNat).toNat, bf16 := x.bft = 1, issue := c.iCyc
            baddr := c.iPc, rep := c.iRep, region := c.region.num, started := false, ord := 0, total := if k = .ctld then 1 else 0
            flags := 0, oob := false, paused := false, fetched := [], todo := [], finished := false } : Command)
       (FReady s h [] → barrierOk x = true →
         exec (.cfence h x) s = .next (enqueue s e (command .cfence)) ∧ exec (.cacq h x) s = .next (enqueue s e (command .cacq)) ∧
         exec (.crel h x) s = .next (enqueue s e (command .crel))) ∧
       (FReady s h [rS x.so.toNat] → x.cmask = 0 → x.scope = 0 →
         exec (.ctld h x) s = .next (enqueue s e (command .ctld))))) ∧
  (∀ (s : State) (e : Nat) (m : Command),
     let c := s.curCore
     let joined := s.setCore s.cur { c with cmds := Table.put c.cmds e (c.cmdsOf e ++ [m]), seq := c.seq + 1 }
     let queued := if m.rel then askFlush joined s.cur m.seq m.scope (if m.kind = .crel then m.mask else 0xFFFF) else joined
     (c.cmdsOf e ≠ [] ∨ mayStart queued s.cur m = false → enqueue s e m = queued) ∧
     (c.cmdsOf e = [] → mayStart queued s.cur m = true → ∃ d, s.now < d ∧
       enqueue s e m = (queued.due d keyLeave (.copyCommandStart s.cur e)).draw s.cur))

/-- R202, R205, R207, R216, R217, R345: the engine begins the command at the head of its queue when its order allows, and
moves one line a step: it writes the next line of an element that it has read, reads the next line that the element at the
ordinal needs, or, with all of them read, lets the element act, and the ordinal moves on; the step after is due at a later
reference cycle. An element that does not form is a fault of ORIGIN 2 that names the command, raised later in the same
reference cycle; in a stopped placement the engine finishes the element in progress and pauses. At its completion the
command leaves the queue, its flags are ORed in and its wait flag is set. R206 to R217: what one element of CPY, CPYC, CPYQ,
CPYX, CPYZ, WBLD, GATH, SCAT, MCAST and CTLD reads and writes, and where its source, its destination, its header and its
index lie. The model's own choices in it are log entries 9, 30, 31, 40, 109, 111, 112, 130 and 149. -/
def Obligations.CopyEngineSteps : Prop :=
  (∀ (s : State) (g e : Nat) (m : Command),
     let d := m.desc
     let count := fun (k : Nat) => if k = 0 then (bits (d.getD 2 0) 0 16).toNat + 1 else (bits (d.getD 2 0) (7 + 9 * k) 9).toNat + 1
     let index := fun (k : Nat) => m.ord / (List.range k).foldl (fun acc i => acc * count i) 1 % count k
     let nested := fun (start : Word) (step at_ : Nat) =>
       start.toInt + (index 0 * step : Nat) + (index 1 : Int) * (bits (d.getD 3 0) at_ 32).toInt
         + (index 2 : Int) * (bits (d.getD 4 0) at_ 32).toInt + (index 3 : Int) * (bits (d.getD 5 0) at_ 32).toInt
         + (index 4 : Int) * (bits (d.getD 6 0) at_ 32).toInt + (index 5 : Int) * (bits (d.getD 7 0) at_ 32).toInt
     let sa := fun (es : Nat) => nested (d.getD 0 0) es 0
     let da := fun (ed : Nat) => nested (d.getD 1 0) ed 32
     let aux := fun (n : Nat) => (((bits (d.getD 8 0) 32 32).toNat + n : Nat) : Int)
     let parm := d.getD 9 0
     let fault := fun (code cause arg0 : Nat) => Halt.fault
       { code := code, cause := cause, arg0 := BitVec.ofNat 64 arg0, arg1 := BitVec.ofNat 64 m.ord, handle := 16 }
     let number := fun (x : Marked) => leNat (x.map (·.1))
     let stores := fun (ws : List LineWrite) (flags : BitVec 8) (dropped : Bool) =>
       element s g e m = .ok { writes := ws, lines := [], table := none, flags := flags, dropped := dropped }
     let unmarked := fun (x : List Byte) => x.map fun b => (b, false)
     let halts := fun (h : Halt) => element s g e m = .error h
     (∀ (spans : List Span) (x : Marked), lineWrites spans x = (linesOf spans).map fun sp =>
       { pa := sp.pa, data := ((x.drop sp.off).take sp.len).map (·.1), poison := ((x.drop sp.off).take sp.len).any (·.2) }) ∧
     -- the address of an element (R196 to R198, R203)
     (∀ (c : Core) (r : CopyRec) (write : Bool) (n : Nat) (o : Int), c.bfGet r.num = r.buf → c.hUse r.buf.hnum = r.handle →
       let formed := (⟨r.num, n, n, 1, [(0, o)]⟩ : Form).form s c write
       let held := match m.kind with
         | .ctld => false
         | .mcast => !write || parm.getLsbD (s.core g).hive
         | _ => true
       let undeclared := fun (a : Formed) => (linesOf a.spans).any fun sp =>
         isScratch sp.pa && hiveOf sp.pa = hiveOfCore g && !(bits (d.getD 8 0) 0 32).getLsbD (bankOf sp.pa)
       (∀ k, formed = .error k → engineForm s g m r write n o = .error (.fault
         (if k.code = 5 then k else { k with arg1 := BitVec.ofNat 64 m.ord }))) ∧
       (∀ a, formed = .ok a → held = true → undeclared a = true → engineForm s g m r write n o = .error (.fault
         { code := 8, cause := r.num, arg0 := BitVec.ofInt 64 o, arg1 := BitVec.ofNat 64 m.ord, handle := 16 })) ∧
       (∀ a, formed = .ok a → held = false ∨ undeclared a = false → engineForm s g m r write n o = .ok a)) ∧
     -- the bytes that it reads, line by line, and zeros where `zero` mode reads none
     (∀ (n : Nat) (a : Formed),
       let lines := linesOf a.spans
       let read := fun (sp : Span) => match m.fetched.find sp.pa with
         | some (x, p) => (x.take sp.len).map fun b => (b, p)
         | none => []
       let open_ := lines.filter fun sp => match m.fetched.find sp.pa with
         | some (x, _) => x.length < sp.len
         | none => true
       (open_ ≠ [] → readSource m n a = .error (.need open_)) ∧
       (open_ = [] → (∀ i sp, lines[i]? = some sp → sp.off = ((lines.take i).map (·.len)).sum) →
         readSource m n a = .ok (lines.flatMap read ++ unmarked (List.replicate (n - (lines.map (·.len)).sum) 0),
           (lines.find? fun sp => (read sp).any (·.2)).map fun sp => sp.pa / 64 * 64))) ∧
     (∀ src, m.src = some src →
       let fs := src.buf.fmt.toNat
       let w := if fs = 14 then 16 else if 11 ≤ fs then 1 else widthOf fs / 8
       (∀ dst, m.dst = some dst →
         let fd := dst.buf.fmt.toNat
         -- CPY, MCAST and CPYC (R208, R209, R215)
         (∀ a b x p, engineForm s g m src false w (sa w) = .ok a → engineForm s g m dst true w (da w) = .ok b →
           readSource m w a = .ok (x, p) →
           (m.kind = .cpy → stores (lineWrites b.spans x) 0 (a.dropped || b.dropped)) ∧
           (m.kind = .mcast → stores (((List.range 24).filter fun v => parm.getLsbD v).flatMap fun v =>
             lineWrites (b.spans.map fun sp => { sp with pa := mcastAddr s g v sp.pa }) x) 0 (a.dropped || b.dropped))) ∧
         (∀ a b x p, m.kind = .cpyc → engineForm s g m src false 1 (sa 1) = .ok a → engineForm s g m dst true 2 (da 2) = .ok b →
           readSource m 1 a = .ok (x, p) →
           (p = none → stores (lineWrites b.spans (unmarked (leBytes 2 ((s.core g).convGet e (number x)).toNat))) 0
             (a.dropped || b.dropped)) ∧
           (∀ pa, p = some pa → halts (fault 9 3 pa))) ∧
         -- CPYQ (R210)
         (∀ dstN a b hd x p, m.kind = .cpyq → m.dstNext = some dstN →
           let n := blockElems fd
           engineForm s g m src false (4 * n) (sa (4 * n)) = .ok a → engineForm s g m dst true (codeBytes fd) (da (codeBytes fd)) = .ok b →
           engineForm s g m dstN true 2 (aux (2 * m.ord)) = .ok hd → readSource m (4 * n) a = .ok (x, p) →
           let q := quantBlock (levelsOf (s.core g) e) fd (bits parm 0 8).toNat
             ((List.range n).map fun i => number ((x.drop (4 * i)).take 4))
           (p = none → stores (lineWrites b.spans (unmarked (leBytes (codeBytes fd) q.codes))
             ++ lineWrites hd.spans (unmarked (leBytes 2 q.header))) (flagIf q.clamp fQCLAMP)
             (a.dropped || b.dropped || hd.dropped)) ∧
           (∀ pa, p = some pa → halts (fault 9 3 pa))) ∧
         -- CPYX (R211)
         (∀ srcN hd hx, m.kind = .cpyx → m.srcNext = some srcN → engineForm s g m srcN false 2 (aux (2 * m.ord)) = .ok hd →
           let n := blockElems fs
           let size := n * widthOf fd / 8
           let value := fun x i => blockElem (levelsOf (s.core g) e) fs (number hx) (codeAt fs (number x) i) (floatOf fd) (bits parm 0 2).toNat
           (∀ pa, readSource m 2 hd = .ok (hx, some pa) → halts (fault 9 3 pa)) ∧
           (readSource m 2 hd = .ok (hx, none) → headerOk fs (number hx) = false → halts (fault 10 m.ord (number hx))) ∧
           (∀ a b x p, readSource m 2 hd = .ok (hx, none) → headerOk fs (number hx) = true →
             engineForm s g m src false (codeBytes fs) (sa (codeBytes fs)) = .ok a → engineForm s g m dst true size (da size) = .ok b →
             readSource m (codeBytes fs) a = .ok (x, p) →
             (p = none → stores (lineWrites b.spans (unmarked ((List.range n).flatMap fun i =>
               leBytes (widthOf fd / 8) (value x i).enc))) (flagsOf (fun _ => true) (value x) n)
               (hd.dropped || a.dropped || b.dropped)) ∧
             (∀ pa, p = some pa → halts (fault 9 3 pa)))) ∧
         -- CPYZ (R212)
         (∀ srcN hd a hx, m.kind = .cpyz → m.srcNext = some srcN →
           let n := 128 * rowBlocks fs
           let size := n * codeBytes fs
           let header := fun (j : Nat) => number ((hx.drop (2 * j)).take 2)
           engineForm s g m srcN false (2 * n) (aux (2 * n * m.ord)) = .ok hd → engineForm s g m src false size (sa size) = .ok a →
           (∀ pa, readSource m (2 * n) hd = .ok (hx, some pa) → halts (fault 9 3 pa)) ∧
           (∀ j, readSource m (2 * n) hd = .ok (hx, none) → j < n → headerOk fs (header j) = false →
             (∀ i < j, headerOk fs (header i) = true) → halts (fault 10 j (header j))) ∧
           (∀ x p, readSource m (2 * n) hd = .ok (hx, none) → (∀ i < n, headerOk fs (header i) = true) →
             readSource m size a = .ok (x, p) →
             let code := fun (j : Nat) => ((x.map (·.1)).drop (j * codeBytes fs)).take (codeBytes fs)
             let kept := (List.range n).filter fun j => !elidable fs (header j) (leNat (code j))
             let image := leBytes 64 (kept.map fun j => 2 ^ j).sum ++ kept.flatMap code
             (∀ pa, p = some pa → halts (fault 9 3 pa)) ∧
             (∀ b, p = none → engineForm s g m dst true image.length (da (64 * imageLines fs)) = .ok b →
               stores (lineWrites b.spans (unmarked image)) 0 (hd.dropped || a.dropped || b.dropped)))) ∧
         -- GATH and SCAT (R214)
         (let len := (bits parm 0 16).toNat + 1
          (∀ srcN ix a b iv x p, m.kind = .gath → m.srcNext = some srcN → engineForm s g m srcN false 4 (aux (4 * m.ord)) = .ok ix →
            (∀ pa, readSource m 4 ix = .ok (iv, some pa) → halts (fault 9 3 pa)) ∧
            (readSource m 4 ix = .ok (iv, none) →
              engineForm s g m src false len ((d.getD 0 0).toInt + (number iv * src.buf.str1 : Nat)) = .ok a →
              engineForm s g m dst true len ((d.getD 1 0).toInt + (m.ord * len : Nat)) = .ok b → readSource m len a = .ok (x, p) →
              (p = none → stores (lineWrites b.spans x) 0 (ix.dropped || a.dropped || b.dropped)) ∧
              (∀ pa, p = some pa → halts (fault 9 3 pa)))) ∧
          (∀ dstN ix a b iv pi x p, m.kind = .scat → m.dstNext = some dstN → engineForm s g m dstN false 4 (aux (4 * m.ord)) = .ok ix →
            readSource m 4 ix = .ok (iv, pi) → engineForm s g m src false len ((d.getD 0 0).toInt + (m.ord * len : Nat)) = .ok a →
            engineForm s g m dst true len ((d.getD 1 0).toInt + (number iv * dst.buf.str1 : Nat)) = .ok b →
            readSource m len a = .ok (x, p) →
            stores (lineWrites b.spans (x.map fun (v, mark) => (v, mark || pi.isSome))) 0 (ix.dropped || a.dropped || b.dropped)))) ∧
       -- WBLD (R213)
       (m.kind = .wbld →
         let line0 := (bits parm 0 15).toNat
         let wf := 11 + (bits parm 16 2).toNat
         let line := fun (n : Nat) (x : Marked) =>
           (n, BitVec.ofNat 512 (number x), BitVec.ofNat 512 (2 ^ (8 * x.length) - 1), x.any (·.2))
         (∀ a x p, parm.getLsbD 15 = false → engineForm s g m src false 64 (sa 64) = .ok a →
           (32767 < line0 + m.ord → halts (fault 8 0x200 (line0 + m.ord))) ∧
           (line0 + m.ord ≤ 32767 → readSource m 64 a = .ok (x, p) → element s g e m = .ok
             { writes := [], lines := [line (line0 + m.ord) x], table := none, flags := 0, dropped := a.dropped })) ∧
         (∀ a map pm, parm.getLsbD 15 = true → engineForm s g m src false 64 (sa (64 * imageLines wf)) = .ok a →
           readSource m 64 a = .ok (map, pm) →
           let size := 64 + codeBytes wf * popcount 512 (number map)
           let first := line0 + m.ord * imageLines wf
           let last := first + (size + 63) / 64 - 1
           (wf = 13 → 2 ^ 256 ≤ number map → halts (fault 10 0 (number map / 2 ^ 256 % 2 ^ 64))) ∧
           (∀ b x p, wf ≠ 13 ∨ number map < 2 ^ 256 → engineForm s g m src false size (sa (64 * imageLines wf)) = .ok b →
             readSource m size b = .ok (x, p) →
             (32767 < last → halts (fault 8 0x200 (max first 32768))) ∧
             (last ≤ 32767 → x.length = size → element s g e m = .ok
               { writes := [], table := none, flags := 0, dropped := a.dropped || b.dropped
                 lines := (List.range ((size + 63) / 64)).map fun i => line (first + i) ((x.drop (64 * i)).take 64) })))) ∧
       -- CTLD (R209, R217)
       (∀ a x p, m.kind = .ctld → engineForm s g m src false 512 (BitVec.ofNat 64 m.off).toInt = .ok a → readSource m 512 a = .ok (x, p) →
         (p = none → element s g e m = .ok
           { writes := [], lines := [], table := some (x.map (·.1)), flags := 0, dropped := a.dropped }) ∧
         (∀ pa, p = some pa → halts (fault 9 3 pa)))) ∧
     -- the hive that a virtual hive of the launch stands for (R215)
     (∀ l x v k pa, (s.core g).launch = some l → s.launch? l = some x → x.cores.find? (fun k => (s.core k).hive == v) = some k →
       mcastAddr s g v pa = scratchBase + hiveOfCore k * 0x1000000 + (pa - scratchBase) % 0x1000000)) ∧
  -- what an element that has what it reads leaves (R207, R216, R217)
  (∀ (s : State) (g e : Nat) (m : Command) (rest : List Command) (a : ElemAct), (s.core g).cmdsOf e = m :: rest →
     let t := applyElement s g e m a
     t.mem = s.mem ∧ (t.core g).cmdsOf e = { m with
       ord := m.ord + 1, flags := m.flags ||| a.flags, oob := m.oob || a.dropped, fetched := [], todo := a.writes } :: rest ∧
     (t.core g).oob = (s.core g).oob + (if a.dropped && !m.oob then 1 else 0) ∧
     (∀ n, (∀ x ∈ a.lines, x.1 ≠ n) → (t.core g).wbGet n = (s.core g).wbGet n) ∧
     (∀ n v en p, a.lines = [(n, v, en, p)] → (t.core g).wbGet n = merge ((s.core g).wbGet n) v en) ∧
     (∀ i, a.table = none → (t.core g).convGet e i = (s.core g).convGet e i) ∧
     (∀ i x, a.table = some x → i < 256 → (t.core g).convGet e i = BitVec.ofNat 16 (leNat ((x.drop (2 * i)).take 2)))) ∧
  ∀ (s : State) (g e : Nat) (m : Command) (rest : List Command),
    let c := s.core g
    c.cmdsOf e = m :: rest →
    (m.started = false → mayStart s g m = false → exec (.copyCommandStart g e) s = .next s) ∧
    (m.started = false → mayStart s g m = true → m.kind ≠ .cfence → m.kind ≠ .cacq → m.kind ≠ .crel →
      ∃ t d, exec (.copyCommandStart g e) s = .next t ∧ s.now < d ∧
        t = ((s.setCore g { c with cmds := Table.put c.cmds e ({ m with started := true } :: rest) }).dueOnce d keyPlain
          (.copyElement g e)).draw g) ∧
    (m.started = false → m.kind = .cfence ∨ m.kind = .cacq ∨ m.kind = .crel →
      let t := s.setCore g { c with cmds := Table.put c.cmds e ({ m with started := true } :: rest) }
      exec (.copyCommandStart g e) s = .next (if mayComplete s g e m then t.due s.now keyReply (.copyCommandComplete g e) else t)) ∧
    (m.started = true → m.paused = false → (m.ord < m.total ∨ m.todo ≠ []) → engineRuns s g = false → betweenElements s g e m = true → (e = 2 → c.elFault = []) →
      exec (.copyElement g e) s = .next (s.setCore g { c with cmds := Table.put c.cmds e ({ m with paused := true } :: rest) })) ∧
    (m.started = true → m.paused = false → engineRuns s g = true ∨ betweenElements s g e m = false → (e = 2 → c.elFault = []) →
      (∀ w ws, m.todo = w :: ws → exec (.copyElement g e) s = .next (engineGoes (makeElementAccess
        (s.setCore g { c with cmds := Table.put c.cmds e ({ m with todo := ws } :: rest) }) g e m (m.ord - 1) .write (writePiece w)) g e)) ∧
      (m.ord < m.total → m.todo = [] → (∀ x ∈ engineOpen s g e, x.2.kind ≠ .read) →
        (∀ k, element s g e m = .error (.fault k) →
          exec (.copyElement g e) s = .next (meetFault
            (s.setCore g { c with cmds := Table.put c.cmds e ({ m with paused := true, fetched := [] } :: rest) }) g
            { kind := 1, code := k.code, cause := k.cause, arg0 := k.arg0, arg1 := k.arg1, slot := 5 + e, rep := m.rep, origin := 2
              issue := m.issue, baddr := m.baddr } k.handle)) ∧
        (∀ sp more, element s g e m = .error (.need (sp :: more)) → mustWait s g e sp.pa = false →
          exec (.copyElement g e) s = .next (makeElementAccess s g e m m.ord .read (readPiece sp))) ∧
        (∀ a, element s g e m = .ok a → exec (.copyElement g e) s = .next (engineGoes (applyElement s g e m a) g e)))) ∧
    (m.started = true → m.paused = false → m.finished = false → m.ord < m.total →
      ∃ d, s.now < d ∧ engineGoes s g e = (s.dueOnce d keyPlain (.copyElement g e)).draw g) ∧
    (∀ f handle l x, c.elFault = [(f, handle)] → c.launch = some l → s.launch? l = some x → x.state = .running →
      (∀ r ∈ x.stops, r.g = g → r.answer ≠ none) →
      exec (.copyElement g 2) s = .next (stopWithRecord (s.setCore g { c with elFault := [] }) g l f (if f.kind = 3 then 3 else 2) handle
        c.cycle)) ∧
    (m.started = true → (m.kind = .cfence ∨ m.kind = .cacq ∨ m.kind = .crel ∨ engineDone s g e m = true) →
      mayComplete s g e { m with finished := true } = true →
      exec (.copyCommandComplete g e) s = .next (wake (setWaitFlag? (s.setCore g { c with
        cmds := Table.put c.cmds e rest, fpflags := c.fpflags ||| m.flags, flagsAt := s.now + 1
        flagsIn := if c.flagsAt = s.now + 1 then c.flagsIn ||| m.flags else m.flags }) g m.flag) g))

/-- R219, R356: a SEND of a rank that owns the entry makes the next message of the entry with the vector as it is at issue,
held while the region has not committed; a RECV asks for the next message of its entry, and takes one that has arrived; a
rank that the entry does not name is an illegal operation. R219, R220: the first half of the oldest unheld message of an
entry departs while fewer than four messages are queued at the receiver, the second a revolution later, and the message
arrives 24 cycles after that on one die and 120 on two; with the queue full it waits a revolution, or is discarded where the
receiver has halted; a slot of the entry takes one half. A message that arrives joins the receive queue. The model's own
choices in it are log entries 33, 34 and 126. -/
def Obligations.Circuits : Prop :=
  (∀ (s : State) (h : Head) (x : FmtO) (w : Word),
     let c := s.curCore
     let e := x.pair.toNat
     let v := stepReg h x.v.toNat
     let n := s.nextId
     let illegal : Instr → Res := fun i => .next (stepFault s (slotNum h.slot) 2 0 (withWord i (illegalOp 0 0)).arg0 0)
     entryOf s c e = some w →
     (FReady s h [rV v] → entrySrc w = c.rank → c.region.uncontained = 0 → heldLines s s.cur < 500 → ∃ t,
       exec (.send h x) s = .next t ∧
       t = { s.setCore s.cur { c with sends := Table.put c.sends e (Table.get 0 c.sends e + 1) } with
         nextId := n + 1
         messages := Table.put s.messages n
           { entry := e, srcG := s.cur, dstG := coreOfRank s c (entryDst w), data := c.vGet v, launch := c.launch.getD 0, half := 0
             sentAt := none, held := true, arrived := false, taken := false, num := Table.get 0 c.sends e } }) ∧
     (FReady s h [rV v] → entrySrc w ≠ c.rank → exec (.send h x) s = illegal (.send h x)) ∧
     (FReady s h [] → entryDst w = c.rank → recvCheck s c s.cur e x.arr.toNat = none → ∃ t, exec (.recv h x) s = .next t ∧
       t.curCore.recvs = Table.put c.recvs e (Table.get 0 c.recvs e + 1) ∧ t.mem = s.mem ∧ SameRegisters c t.curCore ∧
       (t.curCore.reqs.map (·.id)) = c.reqs.map (·.id) ++ [n] ∧
       ∃ r ∈ t.curCore.reqs, r.id = n ∧ r.arr = c.iCyc + x.arr.toNat ∧ r.target = .vec v ∧
         r.recv = some (e, Table.get 0 c.recvs e)) ∧
     (FReady s h [] → entryDst w ≠ c.rank → exec (.recv h x) s = illegal (.recv h x))) ∧
  (∀ (s : State) (n : Nat) (m : Message), s.messages.find n = some m →
     (m.held = false → m.half < 2 →
       (slotTaken s m.launch m.entry = true ∨
         (∃ o ∈ s.messages, o.2.launch = m.launch ∧ o.2.entry = m.entry ∧ o.2.half < 2 ∧ o.2.num < m.num) →
         exec (.circuitDeparture n) s = .next (s.dueOnce (s.now + 256) keyLeave (.circuitDeparture n))) ∧
       (slotTaken s m.launch m.entry = false →
         (∀ o ∈ s.messages, o.2.launch = m.launch → o.2.entry = m.entry → o.2.half < 2 → m.num ≤ o.2.num) →
         (m.half = 0 → queuedMessages s m.launch m.entry < 4 →
           exec (.circuitDeparture n) s = .next ({ s with
             messages := Table.put s.messages n { m with half := 1, sentAt := some s.now } }.dueOnce (s.now + 256) keyLeave
               (.circuitDeparture n))) ∧
         (m.half = 1 → queuedMessages s m.launch m.entry < 4 → ∃ t, exec (.circuitDeparture n) s = .next t ∧
           (s.now + (if dieOf m.srcG = dieOf m.dstG then 24 else 120), keyReply, .circuitArrival n) ∈ t.agenda ∧
           t.messages = Table.put s.messages n { m with half := 2, sentAt := some s.now } ∧ t.cores = s.cores ∧ t.mem = s.mem) ∧
         (4 ≤ queuedMessages s m.launch m.entry →
           ((s.core m.dstG).halted = false →
             exec (.circuitDeparture n) s = .next (s.dueOnce (s.now + 256) keyLeave (.circuitDeparture n))) ∧
           ((s.core m.dstG).halted = true → ∃ t, exec (.circuitDeparture n) s = .next t ∧ t.messages = Table.del s.messages n ∧
             t.mem = s.mem ∧ ∀ g, SameRegisters (s.core g) (t.core g))))) ∧
     (Table.get 0 (s.core m.dstG).recvs m.entry ≤ m.num → ∃ t, exec (.circuitArrival n) s = .next t ∧
       t.messages = Table.put s.messages n { m with arrived := true } ∧ t.mem = s.mem ∧
       ∀ g, SameRegisters (s.core g) (t.core g) ∧ (t.core g).reqs = (s.core g).reqs) ∧
     (m.num < Table.get 0 (s.core m.dstG).recvs m.entry → ∃ t, exec (.circuitArrival n) s = .next t ∧
       t.messages = Table.put s.messages n { m with arrived := true, taken := true } ∧ t.mem = s.mem ∧
       ∀ r ∈ (t.core m.dstG).reqs, r.recv = some (m.entry, m.num) → r.data = some (leBytes 512 m.data.toNat)))

/-! ## Phases and claims -/

/-- R228, R229: PHASE of a closed phase opens a generation, adds its count to the counter of the generation and keeps its
flag; its line may rise once the count is zero and what the core wrote before is acknowledged. A phase that the launch does
not declare, a count of 2^20 or more, or a phase that is open, is an illegal operation. ARRIVE makes a message to a member;
a rank that is no member is an illegal operation. The model's own choices in it are log entry 47. -/
def Obligations.PhaseInstructions : Prop :=
  ∀ (s : State) (h : SHead) (x : FmtY) (l : Nat) (y : Launch),
    let c := s.curCore
    let p := x.n.toNat
    let n := (c.sGet x.sa.toNat).toNat + x.imm.toNat
    let ph := c.phGet p
    SReady s h [rS x.sa.toNat] → c.launch = some l → s.launch? l = some y → onceSeen s = none →
    (phaseMembers s y c p ≠ [] → n < 2 ^ 20 → ph.isOpen = false → ∃ t, exec (.phase h x) s = .next t ∧
      let d := t.curCore.phGet p
      d.isOpen = true ∧ d.line = false ∧ d.flag = x.wf.toNat ∧ d.gen = ph.gen ∧
      d.cnt0 = ph.cnt0 + (if ph.gen then 0 else n) ∧ d.cnt1 = ph.cnt1 + (if ph.gen then n else 0) ∧
      SameRegisters c t.curCore ∧ t.mem = s.mem ∧ (∀ k ≠ s.cur, t.core k = s.core k) ∧
      ((if ph.gen then ph.cnt1 else ph.cnt0) + n = 0 → drained s s.cur = true → DueAt t s.now (.phaseLineRaise s.cur p))) ∧
    (phaseMembers s y c p = [] ∨ 2 ^ 20 ≤ n ∨ ph.isOpen = true → exec (.phase h x) s = illegalS s (.phase h x)) ∧
    (n ∈ phaseMembers s y c p → ∃ t, exec (.arrive h x) s = .next t ∧ SameRegisters c t.curCore ∧ t.mem = s.mem ∧
      t.arrives = Table.put s.arrives s.nextId
        { launch := l, phase := p, gen := ph.gen, src := s.cur, dst := y.cores.getD n 0, seq := c.seq
          latency := phaseLatency s y (phaseMembers s y c p), departed := false } ∧
      (drained s s.cur = true → DueAt t s.now (.arrivalDeparture s.nextId))) ∧
    (n ∉ phaseMembers s y c p → exec (.arrive h x) s = illegalS s (.arrive h x))

/-- R229, R230: an arrival departs once the writes before it are acknowledged and is delivered its latency later; it counts
down the counter of its generation, and one that goes below zero while the phase is open in that generation is a fault. A
line that may rise rises, and with the last of the members the completion is due a latency later: at every member the flag
is set, the phase closes and the generation flips. -/
def Obligations.PhaseSteps : Prop :=
  (∀ (s : State) (a : Nat) (m : ArriveMsg), s.arrives.find a = some m →
    let x := (s.core m.dst).phGet m.phase
    let v := (if m.gen then x.cnt1 else x.cnt0) - 1
    (m.departed = false → (s.core m.src).launch = some m.launch → writesAcked s m.src m.seq 4 allClasses = true →
      exec (.arrivalDeparture a) s = .next
      ({ s with arrives := Table.put s.arrives a { m with departed := true } }.due (s.now + m.latency) keyReply (.arrivalDelivery a))) ∧
    ((0 ≤ v ∨ x.isOpen = false ∨ m.gen ≠ x.gen) → ∃ t, exec (.arrivalDelivery a) s = .next t ∧ t.arrives = Table.del s.arrives a ∧
      (t.core m.dst).phGet m.phase = (if m.gen then { x with cnt1 := v } else { x with cnt0 := v }) ∧
      SameRegisters (s.core m.dst) (t.core m.dst) ∧ (∀ g ≠ m.dst, t.core g = s.core g) ∧ t.mem = s.mem) ∧
    (v < 0 → x.isOpen = true → m.gen = x.gen → ∃ t f, exec (.arrivalDelivery a) s = .next t ∧
      t = meetFault ({ s with arrives := Table.del s.arrives a }.setCore m.dst ((s.core m.dst).phSet m.phase
        (if m.gen then { x with cnt1 := v } else { x with cnt0 := v }))) m.dst f 16 ∧ f.kind = 1 ∧ f.code = 2 ∧ f.arg0 = x.word)) ∧
  (∀ (s : State) (g p l : Nat) (y : Launch), (s.core g).launch = some l → s.launch? l = some y →
    let c := s.core g
    let ms := phaseMembers s y c p
    (lineReady s g p = true → ∃ t, exec (.phaseLineRaise g p) s = .next t ∧ t.mem = s.mem ∧ SameRegisters c (t.core g) ∧
      (t.core g).phGet p = { c.phGet p with line := true } ∧ (∀ k ≠ g, t.core k = s.core k) ∧
      ((∀ r ∈ ms, y.cores.getD r 0 = g ∨ ((s.core (y.cores.getD r 0)).phGet p).line = true) →
        DueAt t (s.now + phaseLatency s y ms) (.phaseCompletion g p))) ∧
    (y.cores.Nodup → ∃ t, exec (.phaseCompletion g p) s = .next t ∧ t.mem = s.mem ∧
      (∀ r ∈ ms, let k := y.cores.getD r 0
        let q := (s.core k).phGet p
        (t.core k).phGet p = { q with isOpen := false, gen := !q.gen, line := false } ∧
        (t.core k).w = putBit (s.core k).w q.flag true ∧ (t.core k).s = (s.core k).s) ∧
      ∀ k, (∀ r ∈ ms, y.cores.getD r 0 ≠ k) → t.core k = s.core k))

/-- R233 to R237: CWSET lands a window. CLAIM makes a proposal with the value and the window, and asks for the outcome in
`sd` at its named arrival, which lies the window and the plane bound or more after the issue; a window below twice the bound
plus 32, a window plus bound above 4,095 or a proposal of the core that is still open is an illegal operation, an earlier
arrival a landing fault. CLAIM.READ asks for a sample that is taken the plane bound later. OBJECT marks every proposal of
the word whose window is open; with none it is an objection fault. The model's own choices in it are log entries 32 and 47. -/
def Obligations.ClaimInstructions : Prop :=
  ∀ (s : State) (h : SHead) (x : FmtY),
    let c := s.curCore
    let v := (c.sGet x.sa.toNat).toNat + x.imm.toNat
    let w := c.cwGet x.n.toNat
    let k := claimIndex c x
    let id := s.nextId
    let asks : State → Prop := fun t => SameRegisters c t.curCore ∧ t.mem = s.mem ∧
      ∃ q ∈ t.curCore.reqs, q.id = id ∧ q.arr = c.iCyc + x.arr.toNat ∧ q.target = .scalar x.sd.toNat 8 false ∧ q.data = none
    (SReady s h [rS x.sa.toNat] →
      (v ≤ 4095 → exec (.cwSet h x) s = .next (land s 0 1 (.cwReg x.n.toNat v))) ∧
      (4095 < v → exec (.cwSet h x) s = illegalS s (.cwSet h x))) ∧
    (∀ e, claimRef s c k = .error e → onceSeen s = none →
      (SReady s h [rS x.sa.toNat, rS x.sb.toNat] → exec (.claim h x) s = .next (raise s 0 e)) ∧
      (SReady s h [rS x.sa.toNat] → exec (.claimRead h x) s = .next (raise s 0 e) ∧ exec (.object h x) s = .next (raise s 0 e))) ∧
    (∀ r, claimRef s c k = .ok r → onceSeen s = none →
      let mine := (openProposals s r.word).any fun (_, p) => p.g == some s.cur && p.launch == c.launch.getD 0
      (SReady s h [rS x.sa.toNat, rS x.sb.toNat] →
        (2 * r.bound + 32 ≤ w → w + r.bound ≤ 4095 → w + r.bound ≤ x.arr.toNat → mine = false →
          ∃ t, exec (.claim h x) s = .next t ∧ asks t ∧
          t.proposals = Table.put s.proposals id
            { word := r.word, launch := c.launch.getD 0, g := some s.cur, queue := 0
              func := (match s.launch? (c.launch.getD 0) with | some y => y.func | none => 0), rank := c.rank, order := s.cur, prio := 0
              value := (c.sGet x.sb.toNat).setWidth 48, window := w, bound := r.bound, seq := c.seq, reqId := id, raddr := 0
              packet := 0, departed := none, decision := none, objectors := [], overtakenBy := [], done := false } ∧
          (drained s s.cur = true → DueAt t s.now (.claimDeparture id))) ∧
        (w < 2 * r.bound + 32 ∨ 4095 < w + r.bound ∨ (w + r.bound ≤ x.arr.toNat ∧ mine = true) →
          exec (.claim h x) s = illegalS s (.claim h x)) ∧
        (2 * r.bound + 32 ≤ w → w + r.bound ≤ 4095 → x.arr.toNat < w + r.bound →
          exec (.claim h x) s = .next (stepFault s 0 4 (w + r.bound) (BitVec.ofNat 64 x.arr.toNat) 0))) ∧
      (SReady s h [rS x.sa.toNat] →
        (r.bound ≤ x.arr.toNat → ∃ t, exec (.claimRead h x) s = .next t ∧ asks t ∧
          t.samples = Table.put s.samples id { word := r.word, launch := c.launch.getD 0, rank := c.rank, reqId := id } ∧
          DueAt t (s.now + r.bound) (.claimReadSample id)) ∧
        (((openProposals s r.word).any fun (_, p) => windowOpen p s.now) = true → Rising s.proposals →
          ∃ t, exec (.object h x) s = .next t ∧ SameRegisters c t.curCore ∧ t.mem = s.mem ∧
          ∀ n p, s.proposals.find n = some p → t.proposals.find n = some
            (if p.word = r.word ∧ p.done = false ∧ windowOpen p s.now = true
             then { p with objectors := (c.launch.getD 0, c.rank) :: p.objectors } else p)) ∧
        (((openProposals s r.word).any fun (_, p) => windowOpen p s.now) = false →
          exec (.object h x) s = .next (stepFault s 0 11 0 (BitVec.ofNat 64 k) 0))))

/-- R234 to R238: a proposal departs once the writes before it are acknowledged: its priority is taken, of two that collide
the one that ranks lower is overtaken, and its arrival and decision are due the bound and the window plus the bound later.
At the arrival the notify flag is set at every member. It is accepted when nobody objected and nobody overtook it: the word
takes its value then, else it keeps its own; the outcome comes to the proposer. A sample gives the state of the word. -/
def Obligations.ClaimSteps : Prop :=
  (∀ (s : State) (n : Nat) (p : Proposal), s.proposals.find n = some p →
    (∀ g, p.g = some g → p.departed = none → (s.core g).launch = some p.launch → writesAcked s g p.seq 4 allClasses = true →
      ∃ t q, exec (.claimDeparture n) s = .next t ∧ t.proposals.find n = some q ∧ t.cores = s.cores ∧ t.mem = s.mem ∧
        q.departed = some s.now ∧ q.prio = launchPriority s p.launch ∧ q.value = p.value ∧ q.word = p.word ∧
        DueAt t (s.now + p.bound) (.proposalArrival n) ∧ DueAt t (s.now + p.window + p.bound) (.claimDecision n) ∧
        ∀ m o d, s.proposals.find m = some o → m ≠ n → o.word = p.word → o.done = false → o.departed = some d →
          s.now < d + o.window → ∃ o', t.proposals.find m = some o' ∧
            (q.prio < o.prio ∨ (q.prio = o.prio ∧ o.order < q.order) → (o.prio, o.order, o.launch, o.rank) ∈ q.overtakenBy) ∧
            (o.prio < q.prio ∨ (q.prio = o.prio ∧ q.order < o.order) → (q.prio, q.order, q.launch, q.rank) ∈ o'.overtakenBy)) ∧
    (∃ t, exec (.proposalArrival n) s = .next t ∧ t.mem = s.mem ∧ t.proposals = s.proposals ∧
      ∀ l r f x, (l, r) ∈ membersOfWord s p.word → (memberFlags s l p.word).1 = some f → f < 32 → s.launch? l = some x →
        x.state ≠ .saved → x.state ≠ .ended → r < x.cores.length →
        (t.core (x.cores.getD r 0)).w.getLsbD f = true ∧ (t.core (x.cores.getD r 0)).s = (s.core (x.cores.getD r 0)).s) ∧
    (∀ g, p.g = some g → p.done = false → ∃ t v, exec (.claimDecision n) s = .next t ∧ (t.claimWord p.word).value = v ∧
      (t.claimWord p.word).lastLaunch = p.launch ∧ (t.claimWord p.word).lastRank = p.rank ∧
      (p.objectors ≠ [] → (t.claimWord p.word).last = 1 ∧ v = (s.claimWord p.word).value) ∧
      (p.objectors = [] → p.overtakenBy ≠ [] → (t.claimWord p.word).last = 2 ∧ v = (s.claimWord p.word).value) ∧
      (p.objectors = [] → p.overtakenBy = [] → (t.claimWord p.word).last = 0 ∧ v = p.value) ∧
      (p.word < 2 ^ 60 → t.mem = s.mem) ∧
      ∀ x, s.launch? p.launch = some x → x.state ≠ .saved → x.state ≠ .ended → p.rank < x.cores.length →
        ∀ q ∈ (t.core (x.cores.getD p.rank 0)).reqs, q.id = p.reqId →
          q.data = some (leBytes 8 (outcomeWord (decide_ p).1 (decide_ p).2 v).toNat))) ∧
  ∀ (s : State) (a : Nat) (m : Sample) (x : Launch), s.samples.find a = some m → s.launch? m.launch = some x →
    x.state ≠ .saved → x.state ≠ .ended → m.rank < x.cores.length → ∃ t, exec (.claimReadSample a) s = .next t ∧ t.mem = s.mem ∧
      t.samples = Table.del s.samples a ∧
      ∀ q ∈ (t.core (x.cores.getD m.rank 0)).reqs, q.id = m.reqId → q.data = some (leBytes 8 (stateWord s m.launch m.word).toNat)

/-! ## The commons -/

/-- R108, R227, R239: a commons instruction asks for its result in `sd` at its named arrival and sends its request, with the
spill words of its block, to the directory, which acts on it later, before its result lands and after every earlier request
of the core; a block outside the spill memory is a bounds fault, an arrival sooner than 256 cycles, or 352 on the other die,
a landing fault. The model's own choices in it are log entry 40. -/
def Obligations.CommonsInstructions : Prop :=
  ∀ (s : State) (h : SHead) (x : FmtY),
    let c := s.curCore
    let k := (c.sGet x.sa.toNat).toNat + (x.imm.setWidth 11).toNat
    let id := s.nextId
    let least := if c.vdie = 0 then 256 else 352
    let reads := fun (words : Nat) => rS x.sa.toNat :: (List.range words).map fun i => (⟨10, k + i, 0, 8⟩ : ReadUnit)
    let goes : Nat → Nat → Instr → Instr → Prop := fun kind words i act =>
      (words = 0 ∨ k + words ≤ 2048 → least ≤ x.arr.toNat → onceSeen s = none → ∃ t r q, exec i s = .next t ∧
        SameRegisters c t.curCore ∧ t.mem = s.mem ∧ t.directory = s.directory ∧
        q ∈ t.curCore.reqs ∧ q.id = id ∧ q.arr = c.iCyc + x.arr.toNat ∧ q.target = .scalar x.sd.toNat 8 false ∧ q.data = none ∧
        t.commonsReqs.find id = some r ∧ r.kind = kind ∧ r.rank = some c.rank ∧ r.launch = c.launch.getD 0 ∧
        r.sub = k ∧ r.block = (List.range words).map (fun j => c.spillGet (k + j)) ∧
        r.flag = (if x.imm.getLsbD 11 then some x.wf.toNat else none) ∧ r.reqId = id ∧ s.now < r.due ∧
        r.due < s.now + x.arr.toNat ∧ DueAt t r.due act ∧
        ∀ n o, t.commonsReqs.find n = some o → o.launch = r.launch → o.rank = r.rank → o.due ≤ r.due) ∧
      (words ≠ 0 → 2048 < k + words → exec i s = .next (stepFault s 0 8 0x100 (BitVec.ofNat 64 k) 0)) ∧
      (words = 0 ∨ k + words ≤ 2048 → x.arr.toNat < least →
        exec i s = .next (stepFault s 0 4 least (BitVec.ofNat 64 x.arr.toNat) 0))
    (SReady s h (reads 4) → goes 0 4 (.subscribe h x) (.subscribeAct id)) ∧
    (SReady s h (reads 0) → goes 1 0 (.lapse h x) (.lapseAct id)) ∧
    (SReady s h (reads 2) → goes 2 2 (.board h x) (.boardAct id)) ∧
    (SReady s h (reads 0) → goes 3 0 (.alight h x) (.alightAct id)) ∧
    (SReady s h (reads 0) → goes 4 0 (.cstat h x) (.cstatAct id))

/-- R239 to R243, R297, R298, R306: how the directory acts on the request of a core. A SUBSCRIBE that passes its checks adds
a subscription with the lowest number that its queue does not use, the youngest of its entry; a LAPSE takes it away; both
divide the cost anew; where a write of theirs has to wait, the result is kept until it has performed. A BOARD of a running
stream makes a boarding from the first tile whose fetch is more than 64 cycles away; an ALIGHT ends it after the tile in
flight; a CSTAT reports. A refusal answers with its code and changes nothing. The model's own choices in it are log entries
54, 55, 101, 131 and 132. -/
def Obligations.CommonsActs : Prop :=
  ∀ (s : State) (id k : Nat) (r : CommonsReq) (x : Launch), s.commonsReqs.find id = some r → r.rank = some k →
    s.launch? r.launch = some x → x.state ≠ .saved → x.state ≠ .ended → k < x.cores.length →
    let g := x.cores.getD k 0
    let c := s.core g
    let w := fun i => r.block.getD i 0
    let answers : State → Word → Prop := fun t v => t.commonsReqs = Table.del s.commonsReqs id ∧
      ∀ q ∈ (t.core g).reqs, q.id = r.reqId → q.data = some (leBytes 8 v.toNat)
    let owes : State → Word → Prop := fun t v => answers t v ∨
      ∃ ws, ws ≠ [] ∧ t.commonsReqs = Table.put s.commonsReqs id { r with result := some v, waits := ws }
    let who := fun (b : Subscription) => (b.queue, b.sub)
    let used := subsOfQueue s r.queue
    (∀ res, answers (refuse s id r res) (BitVec.ofNat 4 res ++ (0 : BitVec 60)) ∧ (refuse s id r res).directory = s.directory ∧
      (refuse s id r res).mem = s.mem ∧ SameRegisters c ((refuse s id r res).core g)) ∧
    (∀ v, r.result = some v → answers (answer s id r v) v ∧
      ∀ i ∈ [Instr.subscribeAct id, .lapseAct id, .boardAct id, .alightAct id, .cstatAct id],
        exec i s = .next (if r.waits = [] then answer s id r v else s)) ∧
    (r.result = none →
    ((¬(bits (w 2) 33 31 = 0 ∧ bits (w 3) 5 59 = 0) → exec (.subscribeAct id) s = .next (refuse s id r 6)) ∧
      (bits (w 2) 33 31 = 0 → bits (w 3) 5 59 = 0 →
        (entryOfKey s (w 0) (w 1) = none → exec (.subscribeAct id) s = .next (refuse s id r 1)) ∧
        ∀ e d, entryOfKey s (w 0) (w 1) = some (e, d) →
          (d.rights.getLsbD r.func = false → exec (.subscribeAct id) s = .next (refuse s id r 2)) ∧
          (d.rights.getLsbD r.func = true → (∀ b ∈ d.subs, b.queue ≠ r.queue) → d.subs.length < 256 → used.length < 256 →
            (sbfOfCore s c (bits (w 3) 0 5).toNat).isSome → ∃ t d', exec (.subscribeAct id) s = .next t ∧
              t.directory.find e = some d' ∧ d'.state = 1 ∧
              d'.subs.map who = d.subs.map who ++ [(r.queue, lowestSub used)] ∧
              d'.subs.map (·.computed) = sharesOf d.cost (d.subs.length + 1) ∧
              (∃ b, d'.subs.getLast? = some b ∧ b.func = r.func ∧ b.limit = (bits (w 2) 0 32).toNat ∧ b.hard = (w 2).getLsbD 32 ∧
                owes t (0#4 ++ (0#20 ++ BitVec.ofNat 32 b.computed ++ BitVec.ofNat 8 (lowestSub used))))))) ∧
    (r.sub < 256 → entryOfSub s r.queue r.sub = none → exec (.lapseAct id) s = .next (refuse s id r 1) ∧
      exec (.alightAct id) s = .next (refuse s id r 1) ∧ exec (.cstatAct id) s = .next (refuse s id r 1)) ∧
    (r.sub < 256 → ∀ e d, entryOfSub s r.queue r.sub = some (e, d) →
      (∀ b, (d.subs.map who).Nodup → d.subs.find? (fun b => b.queue == r.queue && b.sub == r.sub) = some b →
        (∃ t d', exec (.lapseAct id) s = .next t ∧ t.directory.find e = some d' ∧
          d'.subs.map who = (d.subs.map who).filter (· != (r.queue, r.sub)) ∧
          d'.subs.map (·.computed) = sharesOf d.cost (d.subs.length - 1) ∧
          owes t (0#4 ++ (0#20 ++ BitVec.ofNat 32 b.computed ++ BitVec.ofNat 8 b.sub))) ∧
        (r.flag = none → ∃ t, exec (.cstatAct id) s = .next t ∧ t.directory = s.directory ∧ t.mem = s.mem ∧
          answers t (0#4 ++ (BitVec.ofNat 2 (tierField d) ++ BitVec.ofBool d.run ++ BitVec.ofBool (!d.poisoned.isEmpty) ++
            BitVec.ofNat 12 (Nat.min (tilesAhead c e) 4095) ++ 0#4 ++ BitVec.ofNat 32 b.computed ++ BitVec.ofNat 8 b.sub)))) ∧
      (∀ b, c.boardings.find? (fun b => b.stop.isNone && b.entry == e && b.sub == r.sub) = some b →
        ∃ t, exec (.alightAct id) s = .next t ∧ t.directory = s.directory ∧ t.mem = s.mem ∧
          (t.core g).boardings = c.boardings.map (fun o => if o.entry = e ∧ o.stop = none ∧ o.sub = r.sub
            then { o with stop := some (Nat.max o.g0 (fetchedBelow s d)) } else o) ∧
          answers t (0#4 ++ (BitVec.ofNat 12 (lastTile { b with stop := some (Nat.max b.g0 (fetchedBelow s d)) }) ++ 0#40 ++
            BitVec.ofNat 8 r.sub)))) ∧
    (∀ e d, entryOfSub s r.queue (bits (w 0) 0 8).toNat = some (e, d) → boardBlockOk (w 0) (w 1) = true →
      ((∃ b ∈ c.boardings, b.stop = none) → exec (.boardAct id) s = .next (refuse s id r 4)) ∧
      ((∀ b ∈ c.boardings, b.stop ≠ none) →
        (d.run = false → exec (.boardAct id) s = .next (refuse s id r 5)) ∧
        (d.run = true → boardSlotsOk s c d (w 0) (w 1) = true → ∃ t b, exec (.boardAct id) s = .next t ∧
          (t.core g).boardings = b :: c.boardings ∧ b.entry = e ∧ b.stop = none ∧ b.g0 = firstSeq d s.now ∧ b.k0 = b.g0 % d.nt ∧
          b.period = d.period ∧ b.nbuf = (bits (w 0) 9 4).toNat + 1 ∧ b.complete = [] ∧ t.directory = s.directory ∧ t.mem = s.mem ∧
          answers t (0#4 ++ (BitVec.ofNat 12 b.k0 ++ BitVec.ofNat 16 d.period ++
            BitVec.ofNat 32 (c.cycle + (d.fstart + (b.g0 - d.first) * d.period + 1024 - s.now))))))))

/-- R244, R296, R299, R305 to R307: a fetch takes the tile for its boarders, charges it once, and its lines are due at their
slots so that it is complete 1,024 cycles later; the next fetch is a period later, and a tile that nobody boards is not
fetched; its copy is dropped once it has been read. A deep-tier read begins a period after the one before; it ends when its
data is there, and a tile that has been fetched by then goes on its way. Its lines come to the remote ports of a free slot,
one for which the core has reached the due cycle of the tile NBUF − 1 before it, or that has no such tile; while the slot is
not free the write is withheld; when they have performed, and the time of the schedule has come, the tile is complete in its
slot and its flag is set. A stop fetches nothing more and ends every boarding after the tile in flight. The model's own
choices in it are log entries 40, 58, 59, 113, 132 and 134. -/
def Obligations.StreamSteps : Prop :=
  ∀ (s : State) (e q : Nat) (d : DirEntry), s.directory.find e = some d →
    let n := q % d.nt
    let tile := fun (p : Nat × Nat) =>
      ({ img := storedImage d (readBytes s p.1 d.imageSize), hdr := readBytes s p.2 d.headerSize, poison := d.poisoned.contains n
         read := false, fetched := false, retried := false, at_ := 0 } : Staged)
    let toBoarders : State → Nat → Prop := fun t z => ∀ b ∈ boarders s e q, DueAt t (z - 128) (.streamSlotWrite b.1 e q)
    (d.run = true → boarders s e q = [] →
      let next := s.due (s.now + d.period) 25 (.streamFetch e (q + 1))
      (d.staged.find q = none → exec (.streamFetch e q) s = .next next) ∧
      ∀ x, d.staged.find q = some x → exec (.streamFetch e q) s = .next (next.setEntry e { d with
        staged := if x.read then Table.del d.staged q else Table.put d.staged q { x with fetched := true } })) ∧
    (d.run = true → d.tier ≠ 2 → boarders s e q ≠ [] →
      s.flaws = [] → s.poison = [] → s.badCounters = [] → s.tsvFailed = [] → s.reencrypt = [] →
      let x := tile (tileSource s d n)
      ∃ t d', exec (.streamFetch e q) s = .next t ∧ t.directory.find e = some d' ∧
        d'.staged.find q = some { x with
          poison := x.poison || (d.staged.find q).any (·.poison), read := true, fetched := true, at_ := s.now + 1024 } ∧ toBoarders t (s.now + 1024) ∧
        DueAt t (s.now + d.period) (.streamFetch e (q + 1)) ∧ t.mem = s.mem ∧ t.cores = s.cores ∧
        (d.staged.find q = none → (∃ u ∈ d.subs, ∃ b ∈ boarders s e q, (s.launch? b.2.1).map (·.queue) = some u.queue) →
          d'.fetSum = d.fetSum + (x.img.length + x.hdr.length))) ∧
    (∀ x, d.run = true → d.tier = 2 → boarders s e q ≠ [] → d.staged.find q = some x →
      ∃ t d', exec (.streamFetch e q) s = .next t ∧ t.directory.find e = some d' ∧ t.mem = s.mem ∧ t.cores = s.cores ∧
        d'.staged.find q = some { x with fetched := true, poison := x.poison || d.poisoned.contains n, at_ := s.now + 1024 } ∧
        DueAt t (s.now + d.period) (.streamFetch e (q + 1)) ∧ (x.read = true → toBoarders t (s.now + 1024))) ∧
    (d.run = true → d.tier = 2 → ∃ t d' z, exec (.deepTierReadStart e q) s = .next t ∧ t.mem = s.mem ∧ t.cores = s.cores ∧
      t.directory.find e = some d' ∧ d'.staged.find q = some (tile (tileSource s d n)) ∧
      s.now < z ∧ DueAt t z (.deepTierReadEnd e q (tileBad s d (tileSource s d n))) ∧
      DueAt t (Nat.max (s.now + 1) (d.fstart + (q + 1 - d.first) * d.period - d.pre * d.period)) (.deepTierReadStart e (q + 1))) ∧
    (∀ x, d.staged.find q = some x → ∃ t d', exec (.deepTierReadEnd e q false) s = .next t ∧ t.directory.find e = some d' ∧
      t.mem = s.mem ∧ (x.fetched = true → toBoarders t (Nat.max x.at_ (s.now + 1024))) ∧
      (x.fetched = false ∨ (∃ b ∈ boarders s e q, ∃ o ∈ (memberCore s b.2.1 b.2.2).boardings, o.covers e q = true ∧ q ∉ o.complete) →
        d'.staged.find q = some { x with read := true, at_ := Nat.max x.at_ (s.now + 1024) }) ∧
      (x.fetched = true → boarders s e q = [] → d'.staged = Table.del (Table.put d.staged q
        { x with read := true, at_ := Nat.max x.at_ (s.now + 1024) }) q)) ∧
    (∀ (c : Core) (b : Boarding), slotFree c b q = true ↔ q - b.g0 + 1 < b.nbuf ∨ c.halted = true ∨
      b.base + (q - b.g0 + 1 - b.nbuf) * b.period ≤ c.cycle) ∧
    (∀ g l r y b x, (boarders s e q).filter (·.1 == g) = [(g, l, r)] → s.launch? l = some y → y.state ≠ .saved → r < y.cores.length →
      let c := s.core g
      c.boardings.find? (·.covers e q) = some b → d.staged.find q = some x → x.read = true → q ∉ b.complete →
      inFlight s g l e q = false →
      (slotFree c b q = true → ∃ t a, exec (.streamSlotWrite g e q) s = .next t ∧ t.mem = s.mem ∧
        t.accesses.find s.nextId = some a ∧ a.role = .stream ∧ a.kind = .write ∧ a.g = g ∧ a.launch = some l ∧ a.cls = e ∧
        a.ident = q ∧ a.pieces = slotPieces b q x (imageLines (11 + d.fmt)) d.headerSize ∧
        (∀ i < a.pieces.length, DueAt t s.now (.accessPerform s.nextId i))) ∧
      (slotFree c b q = false → q ∉ b.pending → ∃ t,
        exec (.streamSlotWrite g e q) s = .next t ∧ t.mem = s.mem ∧ t.directory = s.directory ∧
        (t.core g).boardings = c.boardings.map fun o => if o.covers e q then { o with pending := q :: o.pending } else o) ∧
      (s.now < x.at_ → exec (.streamTileComplete g e q) s = .next (s.due x.at_ 30 (.streamTileComplete g e q))) ∧
      (x.at_ ≤ s.now → q ∉ b.pending → ∃ t, exec (.streamTileComplete g e q) s = .next t ∧ t.mem = s.mem ∧
        (∀ o ∈ (t.core g).boardings, o.covers e q = true → q ∈ o.complete) ∧
        ∀ f, b.flag = some f → f < 32 → (t.core g).w.getLsbD f = true)) ∧
    (∃ t, exec (.streamStop e) s = .next t ∧ t.mem = s.mem ∧
      t.directory.find e = some { d with
        run := false, nextSeq := fetchedBelow s d, staged := d.staged.filter fun x => x.1 < fetchedBelow s d } ∧
      (∀ z m i, (z, m, i) ∈ t.agenda → (∀ j, i ≠ .streamFetch e j) ∧ ∀ j, i ≠ .deepTierReadStart e j) ∧
      ∀ g, (t.core g).boardings = (s.core g).boardings.map fun o =>
        if o.entry = e ∧ o.stop = none then { o with stop := some (Nat.max o.g0 (fetchedBelow s d)) } else o)

/-- R295, R298, R301, R303: a period boundary gives every subscription of a held entry its computed share to be in force and
charges it once; an entry whose last subscription lapsed before this period becomes unheld and its stream stops; one that
became unheld before this period is free; the next boundary is 1 ms later. That the capacity an entry has charged stays when
it becomes free is the model's own choice, log entry 100. -/
def Obligations.PeriodBoundaries : Prop :=
  ∀ s : State, Rising s.directory → ∃ t, exec .periodBoundary s = .next t ∧ t.period = s.now / 3000000 ∧
    DueAt t (s.now + 3000000) .periodBoundary ∧
    ∀ e d, s.directory.find e = some d →
      (d.state = 1 → d.lastLeft = none →
        (∀ b ∈ d.subs, d.rights.getLsbD b.func = true ∧ ¬(b.hard = true ∧ b.limit < b.computed)) →
        ∃ d', t.directory.find e = some d' ∧ d'.state = 1 ∧
          d'.subs.map (fun b => (b.queue, b.sub, b.computed, b.inForce, b.capPaid)) =
            d.subs.map (fun b => (b.queue, b.sub, b.computed, b.computed, b.capPaid + b.computed)) ∧
          d'.capSum = d.capSum + (d.subs.map (·.computed)).sum) ∧
      (∀ k, d.state = 1 → d.subs = [] → d.lastLeft = some k → k < s.now / 3000000 →
        ∃ d', t.directory.find e = some d' ∧ d'.state = 2 ∧ d'.run = false ∧ d'.unheldAt = some (s.now / 3000000)) ∧
      (∀ k, d.state = 2 → d.unheldAt = some k → k < s.now / 3000000 →
        ∃ d', t.directory.find e = some d' ∧ d'.state = 0 ∧ d'.clw = 0 ∧ d'.capSum = d.capSum) ∧
      (∀ k, d.state = 2 → d.unheldAt = some k → s.now / 3000000 ≤ k → t.directory.find e = some d)

/-! ## Translation -/

/-- R126, R129, R291, R352: XLATE makes its handle invalid at once and looks the page up within 96 cycles; RW other than
reading, or reading and writing, is an illegal operation (row 10 of R109). A hit that allows the access makes the handle
valid with its page; an address of more than 48 bits is a protection fault; a miss stops the placement and starts a walk. A
walk that finds the page fills the cache and restarts the placement at the calendar position of its stop; one that finds a
stage absent leaves a freeze, whose record is due at the end of its reference cycle; one that reads a table entry in a block
in re-encryption waits for its end; the restart waits for every translation of the placement's cores. HREL lands the release
of a handle. The model's own choices in it are log entries 10, 40, 49, 50, 52, 136 and 140. -/
def Obligations.XlateSteps : Prop :=
  (∀ (s : State) (h : SHead) (x : FmtH),
    let c := s.curCore
    let n := x.hn.toNat
    (SReady s h [rS x.sa.toNat] → x.rw = 1 ∨ x.rw = 2 → ∃ t z, exec (.xlate h x) s = .next t ∧ s.now < z ∧ z ≤ s.now + 96 ∧
      (t.curCore.hGet n).valid = false ∧ (t.curCore.hGet n).va = c.sGet x.sa.toNat ∧
      (t.curCore.hGet n).write = decide (x.rw = 2) ∧ (t.curCore.hGet n).xl.isSome ∧ (∀ k ≠ n, t.curCore.hGet k = c.hGet k) ∧
      t.curCore.s = c.s ∧ t.curCore.bf = c.bf ∧ t.mem = s.mem ∧
      (DueAt t z (.handleValid s.cur n) ∨ DueAt t z (.translationCacheMiss s.cur n))) ∧
    (SReady s h [rS x.sa.toNat] → x.rw = 0 ∨ x.rw = 3 →
      exec (.xlate h x) s = .next (raise s 0 (withWord (.xlate h x) (illegalOp 10 0)))) ∧
    (SReady s h [] → x.sa = 0 → x.rw = 0 → exec (.hrel h x) s = .next (land s 0 1 (.releaseHandle n)) ∧
      ∀ now d, ((applyEffect now d (.releaseHandle n)).hGet n).valid = false)) ∧
  ∀ (s : State) (g h l : Nat) (x : Xlate) (y : Launch), ((s.core g).hGet h).xl = some x → (s.core g).launch = some l →
    s.launch? l = some y →
    let page := x.va.toNat / 65536
    (2 ^ 48 ≤ x.va.toNat → exec (.handleValid g h) s = .next (xlateFault s g h x 2)) ∧
    (x.va.toNat < 2 ^ 48 → lookup s (hiveOfCore g) y.func page = none →
      exec (.handleValid g h) s = .next (s.due s.now 0 (.translationCacheMiss g h))) ∧
    (∀ e, x.va.toNat < 2 ^ 48 → lookup s (hiveOfCore g) y.func page = some e →
      (e.allows x.write = true → ∃ t, exec (.handleValid g h) s = .next t ∧ t.mem = s.mem ∧ (t.core g).hGet h =
        { valid := true, base := e.ppage * 65536, extent := extentOf e, write := x.write, va := BitVec.ofNat 64 (e.page * 65536)
          ipa := e.ipage * 65536, region := none, cut := false, xl := none }) ∧
      (e.allows x.write = false → exec (.handleValid g h) s = .next (tryRestart (xlateFault s g h x 1) l))) ∧
    (y.state = .running → rollingBack s l = false → ∃ t y' z, exec (.translationCacheMiss g h) s = .next t ∧
      t.launch? l = some y' ∧ y'.state = .stopped ∧ y'.stopAt = s.now ∧ y'.stopPos = s.now % 64 ∧ y'.walking = y.walking + 1 ∧
      (t.core g).hold = 3 ∧ s.now < z ∧ DueAt t z (.translationWalkEnd g h) ∧ t.mem = s.mem) ∧
    let ready := walkWait s y.func x.va.toNat = none ∧ x.va.toNat < 2 ^ 48
    (∀ z, walkWait s y.func x.va.toNat = some z →
      exec (.translationWalkEnd g h) s = .next (s.due z 0 (.translationWalkEnd g h))) ∧
    (walkWait s y.func x.va.toNat = none → 2 ^ 48 ≤ x.va.toNat → x.caused = false →
      exec (.translationWalkEnd g h) s = .next (xlateFault s g h x 2)) ∧
    (∀ e, ready → walk s y.func x.va.toNat = .page e → e.allows x.write = true →
      ∃ t, exec (.translationWalkEnd g h) s = .next t ∧ lookup t (hiveOfCore g) e.func e.page = some e ∧ t.mem = s.mem ∧
        (x.caused = true → y.state = .stopped → y.walking = 1 → y.restart = none → y.terminated = none →
          translates s y.cores = false → (∀ r ∈ y.stops, r.answer.isSome) → (∀ k ∈ y.cores, (s.core k).elFault = []) → ∃ z, DueAt t z (.placementRestart l) ∧ s.now < z ∧ z ≤ s.now + 64 ∧
            z % 64 = y.stopPos % 64)) ∧
    (∀ stage ipa, ready → walk s y.func x.va.toNat = .absent stage ipa → ∃ t f, exec (.translationWalkEnd g h) s = .next t ∧
      (t.core g).elFault = (s.core g).elFault ++ [(f, 16)] ∧
      f.kind = 3 ∧ f.code = 6 ∧ f.cause = stage ∧ f.arg0 = x.va ∧ f.arg1 = BitVec.ofNat 64 ipa ∧ t.mem = s.mem ∧
      ((t.core g).hGet h).xl = some { x with caused := true }) ∧
    (x.caused = false → ready → walk s y.func x.va.toNat = .malformed →
      exec (.translationWalkEnd g h) s = .next (xlateFault s g h x 1))

/-- R292, R293, R373 to R375: SHOOTN, SHOOT2 and SHOOTF take the matching translations out of every cache at once and set
out to every core on which a placement of the function is; with none the requester is told at once. A shootdown that reaches
a core, which it has not reached before, cuts every matching handle, so that its use is a fault; it completes once every
core is reached and what the cores used before has performed: the cut handles are invalid and the requester is told; SHOOTN
stays busy while another of the function's own is in progress. The model's own choices in it are log entries 40 and 51. -/
def Obligations.Shootdowns : Prop :=
  (∀ s : State,
    let starts : State → Shootdown → Prop := fun t d => t.mem = s.mem ∧
      (∀ hive, cacheOf t hive = (cacheOf s hive).filter fun e => !d.hitsEntry e) ∧
      ∀ g ∈ coresOfFunc s d.func, ∃ z, s.now < z ∧ DueAt t z (.shootdownReachCore s.nextId g)
    let noneSaved : Nat → Prop := fun f => ∀ p ∈ s.launches, p.2.func = f → p.2.state ≠ .saved ∧ p.2.state ≠ .ended
    let told : State → Nat → Prop := fun t f => (coresOfFunc s f ≠ [] → t.cmdst = 0xC000000000000000) ∧
      (coresOfFunc s f = [] → noneSaved f → t.cmdst = 0)
    let cmd := (bits s.cmd 0 6).toNat
    (∃ t, exec .shootN s = .next t ∧
      starts t { func := s.hostFn, kind := 0, first := entryOut (s.func s.hostFn).shootVa % 2 ^ 32
                 count := (bits s.hostVal 0 32).toNat, waitCores := [], reached := [], host := false } ∧
      (coresOfFunc s s.hostFn ≠ [] → (t.func s.hostFn).shootBusy = true) ∧
      (coresOfFunc s s.hostFn = [] → Rising s.shoots → noneSaved s.hostFn → (t.func s.hostFn).shootBusy =
        (Table.del s.shoots s.nextId).any fun o => o.2.func == s.hostFn && !o.2.host)) ∧
    (∃ t, exec .shoot2 s = .next t ∧
      starts t { func := cmd, kind := 1, first := (bits (s.operand 0x10) 16 32).toNat, count := (bits (s.operand 0x18) 0 32).toNat
                 waitCores := [], reached := [], host := true } ∧
      told t cmd) ∧
    (∃ t, exec .shootF s = .next t ∧
      starts t { func := cmd, kind := 2, first := 0, count := 0, waitCores := [], reached := [], host := true } ∧
      told t cmd)) ∧
  ∀ (s : State) (n : Nat) (d : Shootdown), s.shoots.find n = some d →
    (∀ g, g ∉ d.waitCores → exec (.shootdownReachCore n g) s = .next s) ∧
    (∀ g l y, g ∈ d.waitCores → (s.core g).launch = some l → s.launch? l = some y → y.func = d.func → y.state ≠ .saved → y.state ≠ .ended →
      y.cores[(s.core g).rank]? = some g → (∀ p ∈ d.reached, p.1 ≠ l ∨ p.2.1 ≠ (s.core g).rank) → ∃ t, exec (.shootdownReachCore n g) s = .next t ∧ t.mem = s.mem ∧
        ∀ k, let h := (s.core g).hGet k
          let h' := (t.core g).hGet k
          (h.valid = true → d.hits h = true → h'.cut = true ∨ h'.valid = false) ∧ (d.hits h = false → h' = h)) ∧
    (d.waitCores ≠ [] → exec (.shootdownComplete n) s = .next s) ∧
    ((∃ p ∈ d.reached, usesDone s p.1 p.2.1 p.2.2 = false) → exec (.shootdownComplete n) s = .next s) ∧
    (d.waitCores = [] → (∀ p ∈ d.reached, usesDone s p.1 p.2.1 p.2.2 = true) → ∃ t, exec (.shootdownComplete n) s = .next t ∧
      t.mem = s.mem ∧ t.shoots = Table.del s.shoots n ∧
      (if d.host then t.cmdst = 0
       else (t.func d.func).shootBusy = (Table.del s.shoots n).any fun o => o.2.func == d.func && !o.2.host) ∧
      ∀ l r y g, (∃ q, (l, r, q) ∈ d.reached) → s.launch? l = some y → y.state ≠ .saved → y.state ≠ .ended → y.cores[r]? = some g →
        ∀ k, let h := (s.core g).hGet k
          h.cut = true → d.hits h = true → ((t.core g).hGet k).valid = false)

/-! ## Answers to a stop, restarts and rollback -/

/-- R349, R351, R373: a resume command answers the oldest unanswered record of the launch that RESQ names: a mode that R344
lists for it is taken, another is refused, and with no such stop RESMODE says so; TERMINATE ends the launch with STATUS 1.
The placement restarts, at the calendar position of its stop, once every record is answered: its cores run on from where
they stood, one that SKIP answers with its next repetition suppressed, and CLEARPRT clears `%debug.PRT` in all. The model's
own choices in it are log entries 24, 52 and 86. -/
def Obligations.ResumeAndRestart : Prop :=
  (∀ s : State,
    let f := s.hostFn
    (s.func f).resetting = false →
    let cmds : List (Nat × Instr) :=
      [(0, .resumeRetry), (1, .resumeRetranslate), (2, .resumeSkip), (3, .resumeClearPrt), (4, .resumeTerminate)]
    (stoppedLaunch s f = none → ∀ p ∈ cmds, exec p.2 s = .next (resumeStatus s f 2)) ∧
    ∀ l x i r, stoppedLaunch s f = some (l, x, i, r) → ∀ p ∈ cmds,
      (p.1 ∉ allowedModes r → exec p.2 s = .next (resumeStatus s f 1)) ∧
      (p.1 ∈ allowedModes r → p.1 ≠ 4 → ∃ t y, exec p.2 s = .next t ∧ t.launch? l = some y ∧
        y.stops = x.stops.set i { r with answer := some p.1 } ∧ (t.func f).resMode = 0 ∧ t.mem = s.mem ∧ t.cores = s.cores ∧
        (x.state = .stopped → x.walking = 0 → x.restart = none → x.terminated = none → translates s x.cores = false →
          (∀ q ∈ y.stops, q.answer.isSome) → (∀ k ∈ x.cores, (s.core k).elFault = []) →
          ∃ z, DueAt t z (.placementRestart l) ∧ s.now < z ∧ z ≤ s.now + 64 ∧ z % 64 = x.stopPos % 64)) ∧
      (p.1 ∈ allowedModes r → p.1 = 4 → exec p.2 s = .next (finishLaunch (resumeStatus s f 0) l 1))) ∧
  ∀ (s : State) (l : Nat) (x : Launch), s.launch? l = some x → x.restart.isSome → x.state = .stopped →
    (∀ r ∈ x.stops, r.origin = 0 ∨ (r.kind ≠ 1 ∧ r.answer ≠ some 1)) → ∃ t y, exec (.placementRestart l) s = .next t ∧ t.launch? l = some y ∧
      y.state = .running ∧ y.stops = [] ∧ y.restart = none ∧ t.mem = s.mem ∧
      (∀ g ∈ x.cores, let c := s.core g
        (t.core g).pc = c.pc ∧ (t.core g).cycle = c.cycle ∧ (t.core g).s = c.s ∧ (t.core g).v = c.v ∧
        (c.started = true → c.halted = false → (t.core g).turn = Nat.max s.now c.turn) ∧
        ((∃ r ∈ x.stops, r.answer = some 3) → (t.core g).prt = false)) ∧
      ∀ r ∈ x.stops, r.answer = some 2 → (t.core r.g).skip = true

/-- R353 to R359: a core that reports a data error and whose region is contained goes back to its checkpoint, in 16 cycles
and one for each entry of the log from its next turn on, and runs the region twice; when both runs end at the same cycle
with the same signature, and neither a fault of the placement nor a pre-emption has waited for the end, the region goes on
and the rollback is counted; otherwise, when the region is not contained, or when a further error comes in a rerun, its
launch ends with a checkpoint mismatch. The model's own choices in it are log entries 26 and 75. -/
def Obligations.Rollback : Prop :=
  ∀ (s : State) (g l : Nat) (x : Launch) (p : Core), s.checkpoints.find g = some [p] → (s.core g).launch = some l →
    s.launch? l = some x →
    let c := s.core g
    let restored : State → Rerun → Prop := fun t r =>
      (t.core g).rerun = some r ∧ (t.core g).s = p.s ∧ (t.core g).v = p.v ∧ (t.core g).acc = p.acc ∧ (t.core g).spill = p.spill ∧
      (t.core g).pc = p.pc ∧ (t.core g).rep = p.rep ∧ (t.core g).cycle = p.cycle ∧ (t.core g).hold = 4 ∧
      (t.core g).turn = Nat.max s.now c.turn + 16 + c.region.units.length ∧ (∀ k ≠ g, t.core k = s.core k) ∧
      (c.region.lines = [] → t.mem = s.mem)
    (c.halted = false → s.up = true → x.state = .running → c.rerun = none →
      (c.region.uncontained ≠ 0 → exec (.dataErrorDetected g) s = .next (mismatch s g l c.region.uncontained 0 0)) ∧
      (c.region.uncontained = 0 → atomicLost c p = false →
        ∃ t, exec (.dataErrorDetected g) s = .next t ∧ restored t { run := 1, sig1 := 0, cyc1 := 0 })) ∧
    (∀ r, c.rerun = some r →
      (c.halted = false → s.up = true → x.state = .running →
        exec (.dataErrorDetected g) s = .next (mismatch s g l 4 (r.sig1.setWidth 64) 0)) ∧
      let used := c.cycle - p.cycle
      (r.run = 1 → ∃ t, exec (.rollbackRerunEnd g) s = .next t ∧ restored t { run := 2, sig1 := c.sig, cyc1 := used }) ∧
      (r.run = 2 → r.sig1 = c.sig → r.cyc1 = used → (∀ k ∈ x.cores, (s.core k).later = []) → x.preempting = false →
        ∃ t, exec (.rollbackRerunEnd g) s = .next t ∧ t.core g = { c with rerun := none, rollbacks := c.rollbacks + 1 } ∧
          ∀ k ≠ g, t.core k = s.core k) ∧
      (r.run = 2 → r.sig1 ≠ c.sig ∨ r.cyc1 ≠ used →
        exec (.rollbackRerunEnd g) s = .next (mismatch s g l 1 (r.sig1.setWidth 64) (c.sig.setWidth 64))))

/-! ## The front end -/

/-- R314 to R318, R322, R372 to R374: how portals, doorbells and the commands on queues act. A portal write of 64 bytes at
offset 0 joins the eight entries of a bound portal queue; the other answers are Retry, Completer Abort and Unsupported
Request. A misuse is counted. A doorbell is kept for a ring queue of the function. QCREATE makes the queue of its control
block and binds it; QDESTROY takes it away; QRESET makes it idle and empty, and HEAD of a ring takes TAIL, in a later frame
where the budget has no room for its reading. Bindings change in the first 480 cycles of a frame only, and a control block
is read within the function's budget. The model's own choices in it are log entries 60, 61, 69 and 125. -/
def Obligations.PortalsAndQueues : Prop :=
  (∀ (s : State) (fn page : Nat) (p : BitVec 512),
    let f := s.func fn
    let n := f.qbase + page
    let answers : Nat → Res := fun k => .next { s with hostReply := k }
    let more := Nat.min (f.misuse + 1) (2 ^ 64 - 1)
    (s.up = false → exec (.portalDmwr fn page 64 0 p) s = answers 3) ∧
    (s.up = true → f.en = false → exec (.portalDmwr fn page 64 0 p) s = answers 4) ∧
    (s.up = true → f.en = true → f.qcnt ≤ page → ∃ t, exec (.portalDmwr fn page 64 0 p) s = .next t ∧ t.hostReply = 4 ∧
      (t.func fn).misuse = more ∧ t.queues = s.queues) ∧
    (s.up = true → f.en = true → page < f.qcnt →
      (∀ size off, size ≠ 64 ∨ off ≠ 0 → exec (.portalDmwr fn page size off p) s = answers 4) ∧
      (f.resetting = true → exec (.portalDmwr fn page 64 0 p) s = answers 2) ∧
      (f.resetting = false →
        (s.queue? n = none → exec (.portalDmwr fn page 64 0 p) s = answers 3) ∧
        ∀ q, s.queue? n = some q →
          (q.ring = true → exec (.portalDmwr fn page 64 0 p) s = answers 4) ∧
          (q.ring = false → q.state = 2 ∨ q.slot = none → exec (.portalDmwr fn page 64 0 p) s = answers 3) ∧
          (q.ring = false → q.state ≠ 2 → q.slot ≠ none → 8 ≤ q.buffer.length →
            exec (.portalDmwr fn page 64 0 p) s = answers 2) ∧
          (q.ring = false → q.state ≠ 2 → q.slot ≠ none → q.buffer.length < 8 →
            exec (.portalDmwr fn page 64 0 p) s = .next { s with
              queues := Table.put s.queues n { q with buffer := q.buffer ++ [p] }, hostReply := 1 }))) ∧
    ∀ w, (s.up = true → ∃ t, exec (.portalMisuse fn page w) s = .next t ∧ (t.func fn).misuse = more ∧
        t.hostReply = (if w then s.hostReply else 5) ∧ t.queues = s.queues ∧ t.mem = s.mem) ∧
      (s.up = false → exec (.portalMisuse fn page w) s = if w then .next s else answers 3)) ∧
  (∀ (s : State) (q : Queue),
    let f := s.func s.hostFn
    let n := (bits s.hostVal 0 16).toNat
    (ownsQueue f n = false → exec .doorbell s = .next s ∧ exec .qreset s = .next s) ∧
    (ownsQueue f n = true → f.resetting = false → s.queue? n = some q →
      (q.ring = true → q.doorbell = none →
        exec .doorbell s = .next { s with queues := Table.put s.queues n { q with doorbell := some s.now } }) ∧
      ∃ t q', exec .qreset s = .next t ∧ t.queue? n = some q' ∧ q'.ecode = 0 ∧ q'.buffer = [] ∧ q'.refs = [] ∧
        q'.blocked = (if q.blocked = .bind then .bind else .none) ∧ q'.slot = q.slot ∧
        (q.ring = false → q'.state = 0 ∧ q'.head = q.head + q.buffer.length) ∧
        (q.ring = true → hostBudget s q.func 64 = true → q'.state = 0 ∧ q'.head = (qcbWord s q 4).toNat) ∧
        (q.ring = true → hostBudget s q.func 32 = false → q'.state = 3))) ∧
  ∀ s : State,
    let n := (bits s.cmd 32 16).toNat
    let qcb := (bits s.cmd 0 32).toNat
    let w := readWord s (hostBase + qcb)
    let f := (bits w 42 6).toNat
    let fn := s.func f
    (∀ k ks, bits w 0 25 = 0 → (bits w 48 16).toNat = n → ownsQueue fn n = true → fn.en = true → s.queue? n = none →
      freeSlotsOf s f = k :: ks → Config.hostGrants f qcb = true →
      (hostBudget s f 32 = false → exec .qcreate s =
        .next ({ s with cmdst := 0xC000000000000000 }.due ((s.now / 12000 + 1) * 12000) 7290 .qcreate)) ∧
      (hostBudget s f 32 = true → ∃ t q, exec .qcreate s = .next t ∧ t.queue? n = some q ∧
        q.func = f ∧ q.word0 = w ∧ q.qcb = qcb ∧ q.ring = w.getLsbD 37 ∧ q.pinOk = w.getLsbD 38 ∧
        q.maxPri = (bits w 39 3).toNat ∧ q.stepMax = (bits w 25 12).toNat ∧
        (mayBind s = true → q.slot = some k ∧ t.cmdst = 0 ∧ Table.get none t.slots k = some n) ∧
        (mayBind s = false → q.slot = none ∧ q.blocked = .bind ∧ t.cmdst = 0xC000000000000000 ∧ t.slots = s.slots ∧
          t.mem = s.mem))) ∧
    (bits w 0 25 ≠ 0 ∨ (bits w 48 16).toNat ≠ n ∨ Config.hostGrants f qcb = false → exec .qcreate s = .next (cmdRefuse s 1)) ∧
    (bits w 0 25 = 0 → (bits w 48 16).toNat = n → Config.hostGrants f qcb = true →
      (ownsQueue fn n = false → exec .qcreate s = .next (cmdRefuse s 5)) ∧
      (ownsQueue fn n = true → fn.en = false ∨ (s.queue? n).isSome ∨ freeSlotsOf s f = [] →
        exec .qcreate s = .next (cmdRefuse s 2))) ∧
    (s.queue? n = none → exec .qdestroy s = .next (cmdRefuse s 2)) ∧
    (∀ q k, Rising s.queues → s.queue? n = some q → q.slot = some k → ∃ t, exec .qdestroy s = .next t ∧ t.queue? n = none ∧
      t.cmdst = 0 ∧ (mayBind s = true → Table.get none t.slots k = none) ∧ (mayBind s = false → t.slots = s.slots))

/-- R319, R320, R322 to R324: a frame starts every 12,000 cycles, and each bound slot is polled at its place in it, but for
those of a failed shepherd core. What a function has moved to and from the host counts up to its quota in the frame that
ends, and the excess counts in the next, where no queue of the frame reads its control block and no record waits. A poll of
a portal queue processes its packets in order: a NOP is consumed; a LAUNCH becomes a launch that waits and blocks the queue;
an unknown opcode is a queue error. A slot with no queue is not polled, and the poll of a queue in error or in reset
processes no packet. The model's own choices in it are log entries 63, 91 and 125. -/
def Obligations.FramesAndPolls : Prop :=
  (∀ s : State, ∃ t, exec .frameStart s = .next t ∧ DueAt t (s.now + 12000) .frameStart ∧
    t.shepDead = s.shepDead.filter (fun x => decide (s.now / 12000 < x.2)) ∧
    ((∀ x ∈ s.funcs, x.2.frHeld = []) → (∀ x ∈ s.queues, x.2.ring = false ∧ x.2.blocked ≠ .bind ∧ x.2.doorbell = none ∧ x.2.state ≠ 3) →
      ∀ f, (t.func f).hostBytes = (s.func f).hostBytes - (s.func f).hostQuota) ∧
    ∀ k n, (k, some n) ∈ t.slots → (∀ x ∈ s.agenda, x.2.2 ≠ .slotPoll k) → (∀ x ∈ t.shepDead, x.1 ≠ k / 512 * 8 + k % 8) →
      DueAt t (s.now + 480 + 180 * (k % 512 / 8)) (.slotPoll k)) ∧
  ∀ (s : State) (k n : Nat) (q : Queue) (p : BitVec 512),
    (Table.get none s.slots k = none → exec (.slotPoll k) s = .next s) ∧
    (Rising s.queues → Table.get none s.slots k = some n → s.queue? n = some q → q.slot = some k → (s.func q.func).resetting = false → q.ring = false →
      (q.state = 2 ∨ q.state = 3 → exec (.slotPoll k) s = .next s)) ∧
    (Rising s.queues → Table.get none s.slots k = some n → s.queue? n = some q → q.slot = some k → (s.func q.func).resetting = false → q.ring = false → q.state ≠ 2 → q.state ≠ 3 →
      q.blocked = .none → q.dependPending = false → q.levels = [ownLevel q.head] →
      let opc := (pWord p 0 >>> 56).toNat
      (q.buffer = [] → exec (.slotPoll k) s = .next s) ∧
      (q.buffer = [p] → opc = 0 → (pWord p 0 &&& 0xFFFFFFFF) = 0 → (pWord p 0 >>> 48) = 0 → (∀ i, i < 7 → pWord p (i + 1) = 0) →
        ∃ t q', exec (.slotPoll k) s = .next t ∧ t.queue? n = some q' ∧ q'.head = q.head + 1 ∧ q'.buffer = [] ∧
          q'.state = q.state ∧ q'.blocked = .none ∧ t.mem = s.mem ∧ t.launches = s.launches) ∧
      (q.buffer = [p] → opc = 1 → (pWord p 7).toNat % 64 = 0 → q.refs = [] →
        ∃ t q' x, exec (.slotPoll k) s = .next t ∧ t.queue? n = some q' ∧ q'.head = q.head + 1 ∧ q'.buffer = [] ∧
          q'.blocked = .launch s.nextId ∧ t.launches = Table.put s.launches s.nextId x ∧ x.func = q.func ∧ x.queue = n ∧
          x.state = .waiting ∧ x.packet = (List.range 8).map (pWord p) ∧ x.lsn = 0 ∧ x.deps = [] ∧ t.mem = s.mem) ∧
      (q.buffer = [p] → 14 ≤ opc → exec (.slotPoll k) s = .next (queueError s n 1 0)))

/-- R38, R321, R333 to R341, R405: an admission pass comes every 3,000 cycles. A candidate that fits alone, within the
allowance and the cap, is admitted: its cores are its own, and the allowance that its power step needs beyond the credit of
the ramps on them is reserved from this slot on. Its start is due at the first device time at or after the start of the last
slot J in which some was reserved, or of this slot where it needs none, that falls at calendar position 0. At a ramp slot
the governor's registers take effect and the power of launches that end falls by the fall allowance. At its start every core
is loaded from the image, in rank order, and runs from this cycle with an empty pipeline; a launch of a function in reset
does not start. The model's own choices in it are log entries 66 and 77. -/
def Obligations.LaunchesStart : Prop :=
  (∀ s : State, (s.launches = [] → exec .admissionPass s = .next (s.due (s.now + 3000) 2 .admissionPass)) ∧
    (∃ t, exec .rampSlotBoundary s = .next t ∧ t.riseNow = s.govRise ∧ t.fallNow = s.govFall ∧ t.capNow = s.govCap ∧
      DueAt t (s.now + 3000) .rampSlotBoundary ∧ (t.ramps.map (·.2.1)).sum = (s.ramps.map (·.2.1)).sum - s.govFall ∧
      t.launches = s.launches ∧ t.cores = s.cores ∧ t.mem = s.mem) ∧
    ∀ l x cores base, s.launches = [(l, x)] → x.state = .waiting → x.decided.isSome → x.deps = [] → x.depFailed = false →
      (s.func x.func).en = true → (s.func x.func).resetting = false → x.image.h ≠ 0 → x.pollAt + 600 ≤ s.now → x.pin = false →
      x.step ≤ s.govCap → x.step ≤ s.capNow → s.hot = [] → 0 < s.riseNow →
      placeFor s [] x = some (cores, base) → claimsFit s x = true →
      let T := s.now / 3000
      let credit := (s.ramps.map fun (_, w, cs) =>
        if cs = [] then 0 else w * (cs.filter fun g => cores.contains g).length / cs.length).sum
      let need := x.step - credit
      let left := fun (j : Nat) => s.riseNow - Table.get 0 s.reserved j
      let before := fun (j : Nat) => ((List.range (j - T)).map fun i => left (T + i)).sum
      ∃ t y J z, exec .admissionPass s = .next t ∧
        DueAt t (s.now + 3000) .admissionPass ∧ t.launch? l = some y ∧ y.state = .admitted ∧ y.cores = cores ∧ y.base0 = base ∧
        y.admittedAt = s.now ∧ T ≤ J ∧ need ≤ before (J + 1) ∧ (T < J → before J < need) ∧
        (∀ j, Table.get 0 t.reserved j = Table.get 0 s.reserved j + if T ≤ j ∧ j ≤ J then min (left j) (need - before j) else 0) ∧
        DueAt t z (.launchStart l) ∧ z % 64 = 0 ∧ 3000 * J ≤ z ∧ z < 3000 * J + 64 ∧ t.mem = s.mem) ∧
  (∀ (s : State) (l : Nat) (x : Launch), s.launch? l = some x → (s.func x.func).resetting = true →
    exec (.launchStart l) s = .next s) ∧
  ∀ (s : State) (l : Nat) (x : Launch), s.launch? l = some x → x.state = .admitted → (s.func x.func).resetting = false →
    x.cores.Nodup →
    ∃ t, exec (.launchStart l) s = .next t ∧
      t.launch? l = some { x with state := .running, start := s.now, rho := s.now, lastStart := s.now } ∧
      (∀ g, g ∉ x.cores → t.core g = s.core g) ∧
      ∀ r g, x.cores[r]? = some g → let c := t.core g
        t.checkpoints.find g = some [c] ∧ c.launch = some l ∧ c.rank = r ∧ c.hive = r / x.image.c ∧ c.coreid = r % x.image.c ∧
        c.started = true ∧ c.halted = false ∧ c.cycle = 0 ∧ c.pc = x.image.entry ∧ c.turn = s.now ∧ c.prt = x.image.prt ∧
        (∀ k < 4, c.sGet (60 + k) = x.packet.getD (2 + k) 0) ∧ (∀ k, k < 60 → c.sGet k = 0) ∧ c.f = 0 ∧ c.m = [] ∧ c.v = [] ∧
        c.z = [] ∧ c.t = [] ∧ c.acc = [] ∧ c.a = [] ∧ c.b = [] ∧ c.w = 0 ∧ c.lp = [] ∧ c.fpflags = 0 ∧ c.sig = 0xFFFFFFFF ∧
        c.writes = [] ∧ c.reqs = []

/-- R46, R325, R342, R350, R360: a launch retires with STATUS 0 once every core has halted and what it has begun is done;
the host's termination ends it with STATUS 2, and the loss of the die link ends every split launch. A launch that ends
leaves its cores free; once the writes it has in flight have performed it is forgotten, and its queue notes how its chain
ended. A pre-empted launch is saved once what can perform of its accesses has performed, which is looked at again at the
cycle of the save, and its cores are free. The model's own choices in it are log entries 68, 78 and 139. -/
def Obligations.LaunchesEnd : Prop :=
  ∀ (s : State) (l : Nat) (x : Launch), s.launch? l = some x →
    (x.state = .running → (∀ g ∈ x.cores, (s.core g).halted = true) →
      (mayRetire s l x = true → exec (.launchRetirement l) s = .next (finishLaunch s l 0)) ∧
      (mayRetire s l x = false → exec (.launchRetirement l) s = .next (s.dueOnce (s.now + 1) keyRetire (.launchRetirement l)))) ∧
    (exec (.hostTermination l) s = .next (if x.goesOn = true ∧ s.up = true then finishLaunch s l 2 else s)) ∧
    (∀ status, Rising s.launches → x.state = .running → x.chain = false →
      let t := finishLaunch s l status
      let waits := decide (status ≠ 0) && inFlightOf (dropLaunch s l) l
      (∀ g ∈ x.cores, (t.core g).launch = none ∧ (t.core g).started = false) ∧
      (∀ g, g ∉ x.cores → (t.core g).launch = (s.core g).launch) ∧
      (waits = true → ∃ y ws, t.launch? l = some y ∧ y.state = .ended ∧ y.final = some (status, ws)) ∧
      (waits = false → t.launch? l = none ∧ ∀ q, x.orphan = 0 → s.queue? x.queue = some q → ∃ q', t.queue? x.queue = some q' ∧
        (x.lsn, status) ∈ q'.ended)) ∧
    (∀ status ws, Rising s.launches → x.state = .ended → x.final = some (status, ws) →
      (inFlightOf s l = true → exec (.launchRetirement l) s = .next s) ∧
      (inFlightOf s l = false → ∃ t, exec (.launchRetirement l) s = .next t ∧ t.launch? l = none ∧
        ∀ q, x.orphan = 0 → s.queue? x.queue = some q → ∃ q', t.queue? x.queue = some q' ∧ (x.lsn, status) ∈ q'.ended)) ∧
    (Rising s.launches → x.goesOn = true → s.up = true → x.image.split ≠ 0 → ∃ t, exec .dieLinkLost s = .next t ∧
      t.dieLink = false ∧ ∀ y, t.launch? l = some y → y.state = .ended) ∧
    (x.state = .saving →
      (x.savedAt = 0 → mayEndSave s x = true → ∃ t z, exec (.saveComplete l) s = .next t ∧ s.now < z ∧
        t.launch? l = some { x with savedAt := z } ∧ DueAt t z (.saveComplete l) ∧ t.mem = s.mem ∧ t.cores = s.cores) ∧
      (x.savedAt = 0 → mayEndSave s x = false →
        exec (.saveComplete l) s = .next (s.dueOnce (s.now + 1) 4000 (.saveComplete l))) ∧
      (x.savedAt ≠ 0 → x.savedAt ≤ s.now → mayEndSave s x = false → exec (.saveComplete l) s =
        .next ((s.setLaunch l { x with savedAt := 0 }).dueOnce (s.now + 1) 4000 (.saveComplete l))) ∧
      (x.savedAt ≠ 0 → x.savedAt ≤ s.now → mayEndSave s x = true → ∃ (t : State) (y : Launch), exec (.saveComplete l) s = .next t ∧ t.launch? l = some y ∧
        y.state = .saved ∧ y.preempting = false ∧ y.savedAt = s.now ∧ y.cores = x.cores ∧ y.savedCores.length = x.cores.length ∧
        (s.Inv → ∀ a, let base := (bits ((s.func x.func).word 4) 0 48).toNat
          isScratch a = true → a < base ∨ base + (Config.saveImage s.now l).length ≤ a → readByte t a = readByte s a) ∧
        (∀ g ∈ x.cores, (t.core g).launch = none) ∧ (∀ g, g ∉ x.cores → t.core g = s.core g) ∧
        ∀ (r g : Nat) (c : Core), s.shoots = [] → x.cores[r]? = some g → y.savedCores[r]? = some c →
          SameRegisters (s.core g) c ∧ c.pc = (s.core g).pc ∧ c.cycle = (s.core g).cycle))

/-! ## Commands of system software -/

/-- R294, R296, R298, R308, R374, R375: the commands on the commons. CREATE writes a free entry whose key no other entry
has; COST, RIGHTS and REPLICA change one that is not free; SCHEDULE starts its stream at FSTART, which lies 3,000 cycles or
more ahead; STOP ends it at its time; REPLACE clears the mark of a poisoned tile; LOAD writes the deep tier where no held
entry lies; both read the host as far as the PF's budget of the frame goes, and go on in the next. Each is refused with its
reason, and nothing else changes then. The model's own choices in it are log entries 40, 43, 92 and 125. -/
def Obligations.CommonsCommands : Prop :=
  ∀ s : State,
    let e := (bits s.cmd 0 16).toNat
    let d := s.entry e
    let w := fun (k : Nat) => s.operand (0x20 + 8 * k)
    let no : Nat → Res := fun k => .next { s with cmdst := BitVec.ofNat 64 (2 ^ 62 + k) }
    let noReplace : Res := .next { s with cmdst := BitVec.ofNat 64 (2 ^ 62 + 2), cmdLeft := none }
    let put : DirEntry → Res := fun y => .next { s with directory := Table.put s.directory e y, cmdst := 0 }
    let left := fun (total : Nat) => s.cmdLeft.getD total
    let room := (s.func 0).hostQuota - (s.func 0).hostBytes
    let reads := fun (total : Nat) =>
      let k := Nat.min (left total) room
      { chargeHost s 0 k with cmdLeft := some (left total - k) }
    let fstart := (w 12).toNat
    let tile := (bits (w 0) 0 12).toNat
    let a := (w 0).toNat
    let n := (w 2).toNat
    let io := (w 1).toNat
    (d.state ≠ 0 → exec .create s = no 2) ∧
    (d.state = 0 → (entryOfKey s (w 0) (w 1)).isSome → exec .create s = no 3) ∧
    (d.state = 0 → entryOfKey s (w 0) (w 1) = none → bits (w 2) 44 14 = 0 → bits (w 2) 58 2 ≠ 3 →
      bits (w 2) 60 2 = 1 ∨ bits (w 2) 60 2 = 2 → bits (w 2) 0 32 ≠ 0 → bits (w 3) 48 16 = 0 → bits (w 4) 48 16 = 0 →
      bits (w 5) 52 12 = 0 → bits (w 6) 52 12 = 0 → bits (w 7) 52 11 = 0 → bits (w 8) 52 12 = 0 → bits (w 11) 16 16 = 0 →
      bits (w 11) 45 19 = 0 → ((w 11).getLsbD 44 = true → 256 ≤ (bits (w 11) 0 16).toNat) →
      ∃ t y, exec .create s = .next t ∧ t.directory.find e = some y ∧ t.cmdst = 0 ∧ t.mem = s.mem ∧ y.state = 1 ∧
        y.words = (List.range 10).map w ∧ y.tier = (bits (w 2) 60 2).toNat ∧ y.fmt = (bits (w 2) 58 2).toNat ∧
        y.nt = (bits (w 2) 32 12).toNat + 1 ∧ y.cost = (bits (w 2) 0 32).toNat ∧ y.rights = w 9 ∧ y.subs = [] ∧
        y.run = (w 11).getLsbD 44 ∧ y.fstart = fstart ∧
        ((w 11).getLsbD 44 = true → s.now < fstart → ∃ q, q % y.nt = 0 ∧ DueAt t fstart (.streamFetch e q))) ∧
    (d.state = 0 → exec .cost s = no 2 ∧ exec .rights s = no 2 ∧ exec .replica s = no 2 ∧ exec .schedule s = no 2 ∧
      exec .replace s = noReplace) ∧
    (d.state ≠ 0 →
      (∃ t y, exec .cost s = .next t ∧ t.directory.find e = some y ∧ t.cmdst = 0 ∧ y.cost = (bits (w 2) 0 32).toNat ∧
        y.subs.map (fun b => (b.queue, b.sub)) = d.subs.map (fun b => (b.queue, b.sub)) ∧
        y.subs.map (·.computed) = sharesOf (bits (w 2) 0 32).toNat d.subs.length) ∧
      exec .rights s = put { d with rights := w 9, words := d.words.set 9 (w 9) } ∧
      (bits (w 7) 52 11 = 0 → bits (w 8) 52 12 = 0 →
        exec .replica s = put { d with words := (d.words.set 7 (w 7)).set 8 (w 8) }) ∧
      (bits (w 7) 52 11 ≠ 0 ∨ bits (w 8) 52 12 ≠ 0 → exec .replica s = no 1) ∧
      (256 ≤ (bits (w 11) 0 16).toNat → s.now + 3000 ≤ fstart → ∃ t y, exec .schedule s = .next t ∧ t.cmdst = 0 ∧ t.mem = s.mem ∧
        t.directory.find e = some y ∧ y.run = true ∧ y.period = (bits (w 11) 0 16).toNat ∧ y.fstart = fstart ∧
        y.pre = (bits (w 11) 32 12).toNat ∧ y.subs = d.subs ∧ ∃ q, q % d.nt = 0 ∧ DueAt t fstart (.streamFetch e q)) ∧
      ((bits (w 11) 0 16).toNat < 256 ∨ fstart < s.now + 3000 → exec .schedule s = no 5) ∧
      ((tile ∉ d.poisoned → exec .replace s = noReplace) ∧
        (tile ∈ d.poisoned → ∃ t, exec .replace s = .next t ∧
          if Config.hostGrants 0 (w 1).toNat = true ∧ Config.hostGrants 0 (w 2).toNat = true then
            let size := d.imageSize + d.headerSize
            let (s1, wait) := blockedLines (reads size) true (copyLines (reads size) d tile)
            (room < left size → t = (reads size).due ((s.now / 12000 + 1) * 12000) 7290 .replace) ∧
            (∀ u, left size ≤ room → wait = some u → t = s1.due u 7290 .replace) ∧
            (left size ≤ room → wait = none → ∃ y z, t.directory.find e = some y ∧ y.poisoned = d.poisoned.filter (· != tile) ∧ t.cmdst = 0xC000000000000000 ∧
              s.now < z ∧ DueAt t z .commandDone)
          else t = { s with cmdst := BitVec.ofNat 64 (2 ^ 62 + 5) }))) ∧
    (∃ t, exec .stop s = .next t ∧ t.cmdst = 0 ∧ DueAt t (Nat.max s.now (w 0).toNat) (.streamStop e) ∧ t.directory = s.directory ∧
      t.mem = s.mem) ∧
    ((a % 64 ≠ 0 ∨ n % 64 ≠ 0 → exec .loadDeep s = no 1) ∧
      (a % 64 = 0 → n % 64 = 0 → a < deepBase ∨ 2 * deepBase < a + n → exec .loadDeep s = no 5) ∧
      (a % 64 = 0 → n % 64 = 0 → deepBase ≤ a → a < 2 * deepBase → a + n ≤ 2 * deepBase →
        (∀ x ∈ s.directory, x.2.state = 1 → ∀ r ∈ deepRanges x.2, overlap a n r.1 r.2 = false) → s.Inv →
        ∃ t, exec .loadDeep s = .next t ∧
          if Config.hostGrants 0 io = true ∧ room < left n then
            t = (reads n).due ((s.now / 12000 + 1) * 12000) 7290 .loadDeep
          else if Config.hostGrants 0 io = true then t.cmdst = 0xC000000000000000 ∧
            (∀ x, readByte t x = if a ≤ x ∧ x < a + n then readByte s (hostBase + io + (x - a)) else readByte s x) ∧
            ∃ z, s.now < z ∧ DueAt t z .commandDone
          else t = { s with cmdst := BitVec.ofNat 64 (2 ^ 62 + 5) })) ∧
    exec .commandDone s = .next (if bits s.cmdst 62 2 = 3 then { s with cmdst := 0 } else s)

/-- R286, R366 to R369, R371, R374, R376, R401, R408, R409: a register write has the effect of the register it names: a
command written to CMD is run unless one is in progress. EXEC applies every record and the set table together, or nothing. A
command of the commons is in progress until it acts, after every core, in the same reference cycle. REKEY gives the
function's sets a new key and starts their counters anew. Firmware is staged if it verifies; FWCOMMIT raises the fused
minimum to the version in use; ATTEST writes its report and returns the certificates. HRBASE writes the events held until
then; FRHEAD takes the driver's index. A device that is down takes DEVRESET, and a first HRBASE. The model's own choices in
it are log entries 41, 43, 53, 69, 79, 84 to 87, 92 and 119. -/
def Obligations.ManagementCommands : Prop :=
  (∀ (s : State) (fn bar off size : Nat) (v : Word),
    let written : State := { s with hostFn := 0, hostVal := v, cmd := v }
    (64 ≤ fn ∨ off % 8 ≠ 0 ∨ size ≠ 8 → exec (.registerWrite fn bar ⟨off, size⟩ v) s = .next { s with hostReply := 4 }) ∧
    (fn < 64 → fn ≠ 0 → off % 8 = 0 → s.up = true →
      exec (.registerWrite fn 4 ⟨off, 8⟩ v) s = .next { s with hostFn := fn, hostVal := v, hostReply := 4 }) ∧
    (s.up = false → (bits v 56 8).toNat = 34 → exec (.registerWrite 0 4 ⟨0, 8⟩ v) s = exec .devReset written) ∧
    (s.up = false → s.mgmtFailed = false → off % 8 = 0 → fn < 64 → fn ≠ 0 ∨ bar ≠ 4 ∨ (off ≠ 0 ∧ (off ≠ 0x100 ∨ s.hrBase ≠ 0)) →
      exec (.registerWrite fn bar ⟨off, 8⟩ v) s = .next s) ∧
    (s.up = false → s.mgmtFailed = false → s.hrBase = 0 →
      exec (.registerWrite 0 4 ⟨0x100, 8⟩ v) s = exec .hrBase { s with hostFn := 0, hostVal := v }) ∧
    (s.up = true →
      (bits s.cmdst 62 2 ≠ 3 → ∀ p ∈ ([(1, .execCmd), (2, .qcreate), (3, .qdestroy), (4, .shoot2), (5, .shootF), (6, .rekey),
          (32, .fwStage), (33, .fwCommit), (34, .devReset), (35, .attest)] : List (Nat × Instr)),
        (bits v 56 8).toNat = p.1 → exec (.registerWrite 0 4 ⟨0, 8⟩ v) s = exec p.2 written) ∧
      (bits s.cmdst 62 2 ≠ 3 → ∀ p ∈ ([(16, .create), (17, .cost), (18, .rights), (19, .replica), (20, .schedule), (21, .stop),
          (22, .replace), (23, .loadDeep)] : List (Nat × Instr)),
        (bits v 56 8).toNat = p.1 → ∃ t, exec (.registerWrite 0 4 ⟨0, 8⟩ v) s = .next t ∧ DueAt t s.now p.2 ∧
          t = { written with cmdst := 0xC000000000000000, agenda := t.agenda }) ∧
      (bits s.cmdst 62 2 = 3 → exec (.registerWrite 0 4 ⟨0, 8⟩ v) s = .next { s with hostFn := 0, hostVal := v }) ∧
      exec (.registerWrite 0 4 ⟨0x100, 8⟩ v) s = exec .hrBase { s with hostFn := 0, hostVal := v } ∧
      (∀ k, 2 ≤ k → k < 32 → exec (.registerWrite 0 4 ⟨8 * k, 8⟩ v) s =
        .next { s with hostFn := 0, hostVal := v, operands := Table.put s.operands k v }) ∧
      (25 ≤ (bits v 0 12).toNat → (bits v 0 12).toNat ≤ 200 → exec (.registerWrite 0 4 ⟨0x200, 8⟩ v) s =
        .next { s with hostFn := 0, hostVal := v, govRise := (bits v 0 12).toNat }) ∧
      (fn < 64 → ∀ p ∈ ([(0, .doorbell), (8, .qreset), (0x28, .shootN), (0x40, .frHead)] : List (Nat × Instr)),
        exec (.registerWrite fn 2 ⟨p.1, 8⟩ v) s = exec p.2 { s with hostFn := fn, hostVal := v }))) ∧
  ∀ s : State,
    let fs := (List.range 64).map s.func
    let no : Nat → Res := fun k => .next { s with cmdst := BitVec.ofNat 64 (2 ^ 62 + k) }
    let f := (bits s.cmd 0 6).toNat
    let kind := (bits s.cmd 0 8).toNat
    (setTableBad s = true ∨ (∃ x ∈ fs, recordBad s x = true) → exec .execCmd s = no 1) ∧
    (setTableBad s = false → (∀ x ∈ fs, recordBad s x = false) →
      ((∃ x ∈ fs, recordOut x = true) → exec .execCmd s = no 5) ∧
      ((∀ x ∈ fs, recordOut x = false) →
        (recordsOverlap s = true → exec .execCmd s = .next { s with cmdst := 0x8000000000000000 }) ∧
        (recordsOverlap s = false → (∃ i < 64, heldMoves s i = true) →
          exec .execCmd s = .next { s with cmdst := 0x8000000000000000 }) ∧
        (recordsOverlap s = false → (∀ i < 64, recordMoves (s.func i) = false ∨ funcBusy s i = false) →
          (∀ i < 64, heldMoves s i = false) → setsMove s = false ∨ (∀ i < 64, funcBusy s i = false) → ∃ t, exec .execCmd s = .next t ∧ t.cmdst = 0 ∧ t.mem = s.mem ∧
            (∀ i, (t.func i).applied = (s.func i).written ∧ (t.func i).written = (s.func i).written ∧
              (t.func i).key = newKey (s.func i)) ∧
            t.setApplied = s.setTable.filter (fun x => x.2 != 0) ∧ t.comSetApplied = s.comSet))) ∧
    ((∃ x ∈ s.launches, x.2.func = f ∧ x.2.holdsCores = true) → exec .rekey s = no 2) ∧
    ((∀ x ∈ s.launches, x.2.func = f → x.2.holdsCores = false) → ∃ t z, exec .rekey s = .next t ∧ t.mem = s.mem ∧
      t.cmdst = 0xC000000000000000 ∧ s.now < z ∧ DueAt t z .commandDone ∧
      (∀ x ∈ t.minor, inSets s (setsOf s f) (64 * x.1) = false) ∧ (∀ g ∈ setsOf s f, g ∉ t.roSets) ∧
      (t.func f).key = randomKey s f) ∧
    (∃ t, exec .fwStage s = .next t ∧ t.mem = s.mem ∧
      let io := (s.operand 0x20).toNat
      let img := readBytes s (hostBase + io) (s.operand 0x28).toNat
      if Config.hostGrants 0 io = false then t = { s with cmdst := BitVec.ofNat 64 (2 ^ 62 + 5) }
      else if firmwareOk s img = false then t = { s with cmdst := BitVec.ofNat 64 (2 ^ 62 + 6) }
      else t.cmdst = 0 ∧ t.staged = Table.put s.staged (numAt img 0 2)
        { version := numAt img 2 2, digest := BitVec.ofNat 512 (numAt img 64 64) }) ∧
    (kind < 1 ∨ 3 < kind → exec .fwCommit s = no 1) ∧
    (1 ≤ kind → kind ≤ 3 → exec .fwCommit s = .next { s with
      fusedMin := Table.put s.fusedMin kind (Nat.max (Table.get 0 s.fusedMin kind) (runningFirmware s kind).version), cmdst := 0 }) ∧
    (∃ t z, exec .attest s = .next t ∧ t.cmdst = 0xC000000000000000 ∧ t.attestations = s.attestations + 1 ∧
      t.chain = Config.certificates Config.publicKey ∧ s.now < z ∧
      z ≤ s.now + 30000000 ∧ DueAt t z .commandDone) ∧
    (ringSize s.hostVal = 0 → exec .hrBase s = .next s) ∧
    (ringSize s.hostVal ≠ 0 → ∃ t, exec .hrBase s = .next t ∧ t.hrBase = s.hostVal ∧ t.hrHeld = [] ∧
      (s.hrHeld.length + (s.hrTail - s.hrHead) ≤ ringSize s.hostVal → s.hrHead ≤ s.hrTail →
        t.hrTail = s.hrTail + s.hrHeld.length)) ∧
    (∃ t, exec .frHead s = .next t ∧ (t.func s.hostFn).frHead = (bits s.hostVal 0 32).toNat) ∧
    ((∀ x ∈ s.launches, ∀ r ∈ x.2.stops, r.pending = false) → exec .frHead s =
      .next (s.updFunc s.hostFn fun x => { x with frHead := (bits s.hostVal 0 32).toNat }))

/-- R380, R381, R406: a reset of the device, by power, by DEVRESET or by a function-level reset of the PF, leaves the state
after bring-up, with the deep tier, host memory and the fuses kept, and the exchanges of units that were due made; where a
component of its firmware is not started the device stays down. A function-level reset of another function stops it,
quiesces it at the next frame start (its launches, queue contents and translations are gone), and completes when its
scratchpads and sets are zero, 90 ms later, under a new key. The model's own choices in it are log entries 2, 89, 92, 93 and
119. -/
def Obligations.Resets : Prop :=
  (∀ s : State, s.Inv →
    let fresh : State → Prop := fun t => t.Inv ∧ t.now = 0 ∧ t.up = true ∧ t.aligned = false ∧ t.launches = [] ∧ t.queues = [] ∧
      t.cores = [] ∧ t.directory = [] ∧ t.funcs = [] ∧ t.agenda = State.reset.agenda ∧ t.fused = s.fused ++ s.spareDue ∧ t.fusedMin = s.fusedMin ∧
      (∀ a, readByte t a = if isDeep a = true ∨ isHost a = true then readByte s a else 0)
    let good := ∀ k ∈ [1, 2, 3], starts s k = true
    (good → Rising s.staged → (∃ t, exec .powerGood s = .next t ∧ fresh t ∧ t.domCount = 0) ∧
      ∃ t, exec .devReset s = .next t ∧ fresh t ∧ t.domCount = s.domCount) ∧
    (¬ good → Rising s.staged → ∀ i ∈ [Instr.powerGood, .devReset], ∃ t, exec i s = .next t ∧ t.up = false ∧ t.agenda = [] ∧
      t.Inv ∧ t.mgmtFailed = !starts s 1) ∧
    exec (.flr 0) s = exec .devReset s) ∧
  ∀ (s : State) (fn : Nat),
    (fn ≠ 0 → fn < 64 → (s.func fn).resetting = false → ∃ t, exec (.flr fn) s = .next t ∧ (t.func fn).resetting = true ∧
      DueAt t ((s.now / 12000 + 1) * 12000) (.flrQuiesce fn) ∧ t.mem = s.mem ∧ t.cores = s.cores) ∧
    (fn ≠ 0 → 64 ≤ fn ∨ (s.func fn).resetting = true → exec (.flr fn) s = .next s) ∧
    (Rising s.launches → Rising s.queues → ∃ t, exec (.flrQuiesce fn) s = .next t ∧ DueAt t (s.now + 270000000) (.flrComplete fn) ∧
      (∀ l x, t.launch? l = some x → x.func ≠ fn) ∧ (∀ x ∈ t.queues, x.2.func = fn → x.2.buffer = [] ∧
        (x.2.state = 0 ∨ (x.2.ring = true ∧ x.2.state = 3))) ∧
      (∀ x ∈ t.tcache, ∀ e ∈ x.2, e.func ≠ fn) ∧ ∀ x ∈ t.commonsReqs, x.2.func ≠ fn) ∧
    (s.Inv → ∃ t, exec (.flrComplete fn) s = .next t ∧ (t.func fn).resetting = false ∧ (t.func fn).key = randomKey s fn ∧ t.Inv ∧
      (∀ a, ofFunc s fn a = true → readByte t a = 0 ∧ poisoned t a = false) ∧
      ((∀ x ∈ s.queues, x.2.func ≠ fn) → ∀ a, ofFunc s fn a = false → readByte t a = readByte s a))

/-! ## Reliability -/

/-- R280, R282, R283, R285, R400 to R402, R405: a failed TSV group is noted and a spare, of which a channel has two, takes
its place, with a sweep of the channel's lines; a channel without a plan update for half its interval is taken over by the
sentinel and event 8 is reported. A sweep rewrites each line, corrected, and marks one that its code does not correct. A
spare core or bank waits for its hive to be empty; with none left the hive loses the core or goes out of service. The first
failure of a die's shepherd cores is spared, the next one, of the spare or of another, is fatal. At 95 °C nothing new rises,
above 105 °C the error is fatal. After a fatal error the device takes no further step. The model's own choices in it are log
entries 37, 38, 40, 79, 90 and 91. -/
def Obligations.Reliability : Prop :=
  ∀ s : State,
    (∀ ch grp, let failed := Table.get [] s.tsvFailed ch
      let used := Table.get 0 s.tsvSpared ch
      (grp ∈ failed → exec (.tsvGroupFailed ch grp) s = .next s) ∧
      (grp ∉ failed → ∃ t, exec (.tsvGroupFailed ch grp) s = .next t ∧ Table.get [] t.tsvFailed ch = failed ++ [grp] ∧
        (used < 2 → Table.get 0 t.tsvSpared ch = used + 1 ∧ ∃ z, s.now < z ∧ DueAt t z (.sparingSweepLine ch 0)) ∧
        (2 ≤ used → Table.get 0 t.tsvSpared ch = used))) ∧
    (∀ ch line, let sweeps : Nat × Nat → Prop := fun x => x.1 / 32 = ch ∧ x.2 = line
      ((∀ x ∈ s.sweep, ¬ sweeps x) → exec (.sparingSweepLine ch line) s = .next s) ∧
      ((∃ x ∈ s.sweep, sweeps x) → ∃ t, exec (.sparingSweepLine ch line) s = .next t ∧
        (∀ x ∈ s.sweep, sweeps x → Table.get 0 t.sweep x.1 = line + 1) ∧
        (line + 1 < 2 ^ 29 → ∃ z, s.now < z ∧ DueAt t z (.sparingSweepLine ch (line + 1))) ∧
        ∀ pa, channelAddr 0 s.setApplied ch line = some pa → isScratch pa = false → isHbm pa = true →
          Table.get 0 t.flaws (lineOf pa) = 0 ∧
          (pa / 4096 ∉ s.badCounters → decodes s pa = true → macBad s pa = false →
            poisoned s pa = false ∨ isCommons s pa = false → t.mem = s.mem ∧ poisoned t pa = poisoned s pa) ∧
          (pa / 4096 ∉ s.badCounters → decodes s pa = false →
            (isCommons s pa = false → t.mem = s.mem ∧ poisoned t pa = true) ∧
            ∀ e n, isCommons s pa = true → tileOfAddr s pa = some (e, n) →
              ∃ d, t.directory.find e = some d ∧ n ∈ d.poisoned))) ∧
    (∀ ch hot release, let half := if hot then 24000000 else 48000000
      ∃ t z, exec (.refreshPlanWrite ch hot release) s = .next t ∧ Table.get 0 t.refreshPlan ch = s.now + 1 ∧
        (ch ∈ t.refreshHot ↔ hot = true) ∧ s.now + half ≤ z ∧ DueAt t z (.refreshTakeover ch) ∧ t.mem = s.mem ∧
        (s.takeover.find ch = some none → release = true → t.takeover.find ch = some (some ((s.now / 64 + 1) * 64)))) ∧
    (∀ ch, let since := Table.get 0 s.refreshPlan ch - 1
      let half := if ch ∈ s.refreshHot then 24000000 else 48000000
      (s.now < since + half → exec (.refreshTakeover ch) s = .next s) ∧
      (since + half ≤ s.now → s.takeover.find ch = none → exec (.refreshTakeover ch) s =
        .next (healthEvent { s with takeover := Table.put s.takeover ch none } 8 (ch / 12) ch []))) ∧
    (∀ blk, exec (.blockReencryptionComplete blk) s = .next { s with reencrypt := Table.del s.reencrypt blk }) ∧
    (∀ u, (u ∈ s.spareDue ∨ unitLost s u = true → exec (.spareThreshold u) s = .next s) ∧
      (u ∉ s.spareDue → unitLost s u = false → ∃ t, exec (.spareThreshold u) s = .next t ∧ t.fused = s.fused ∧
        (spareTaken s u = false → t.spareDue = s.spareDue ++ [u] ∧
          (hiveEmpty s (spareHive u) = true → ∃ z, DueAt t z (.spareBringIn u))) ∧
        (spareTaken s u = true → t.spareDue = s.spareDue ∧ (∀ h p, u = .core h p → t.coresLost = s.coresLost ++ [h * 8 + p]) ∧
          ∀ h b, u = .bank h b → t.outOfService = s.outOfService ++ [h]))) ∧
    (∀ u, (u ∉ s.spareDue ∨ hiveEmpty s (spareHive u) = false → exec (.spareBringIn u) s = .next s) ∧
      (u ∈ s.spareDue → hiveEmpty s (spareHive u) = true → ∃ t, exec (.spareBringIn u) s = .next t ∧
        t.spareDue = s.spareDue.filter (· != u) ∧ t.fused = s.fused ++ [u] ∧
        ∀ h b, u = .bank h b → h ∈ t.bankBusy ∧ ∃ z, s.now < z ∧ z ≤ s.now + 6000000 ∧ DueAt t z (.bankCopyComplete h b))) ∧
    (∀ h b, exec (.bankCopyComplete h b) s = .next { s with bankBusy := s.bankBusy.filter (· != h) }) ∧
    (∀ die i, let k := die * 8 + i
      let ks := shepherdsFailed s die
      let fatal : Nat → Res := fun n => .next ({ s with shepFailed := s.shepFailed ++ [n] }.due s.now 20 (.fatalError 1 die))
      (8 ≤ i ∨ k ∈ ks →
        (16 + die ∈ ks ∨ (i < 8 ∧ ∃ x ∈ s.shepDead, x.1 = k) → exec (.shepherdCoreFailure die i) s = .next s) ∧
        (16 + die ∉ ks → 8 ≤ i ∨ (∀ x ∈ s.shepDead, x.1 ≠ k) →
          exec (.shepherdCoreFailure die i) s =
            if ks = [] then .next { s with shepFailed := s.shepFailed ++ [16 + die] } else fatal (16 + die))) ∧
      (i < 8 → k ∉ ks → ks ≠ [] → exec (.shepherdCoreFailure die i) s = fatal k) ∧
      (i < 8 → ks = [] → ∃ t, exec (.shepherdCoreFailure die i) s = .next t ∧
        t.shepFailed = s.shepFailed ++ [k] ∧
        ∀ a k sl, (a, k, .slotPoll sl) ∈ t.agenda → sl / 512 * 8 + sl % 8 ≠ die * 8 + i)) ∧
    (∀ deg die, let rest := s.hot.filter (· != die)
      (95 ≤ deg → ∃ t, exec (.thermalEvent deg die) s = .next t ∧ t.hot = die :: rest ∧
        (105 < deg → DueAt t s.now (.fatalError 4 die))) ∧
      (90 ≤ deg → deg < 95 → exec (.thermalEvent deg die) s = .next s) ∧
      (deg < 90 → exec (.thermalEvent deg die) s = .next { s with hot := rest })) ∧
    ∀ cause die, (s.up = false → exec (.fatalError cause die) s = .next s) ∧
      (s.up = true → ∃ t, exec (.fatalError cause die) s = .next t ∧ t.up = false ∧ step t = .fault .deviceDown)

/-! ## Links -/

/-- R377, R384, R385, R387 to R389, R392: at every flit time a link that is up sends one flit, of the next SEQ, which it
keeps until it is acknowledged, or the next one to be replayed; with 512 unacknowledged it sends none. A flit with the
expected SEQ and a correct CRC is accepted; with a wrong CRC, or a later SEQ, a NAK is due; and a NAK that comes replays
what is not acknowledged. The lane messages move a lane to the spare, with no spare left the link goes down. An aligned
device answers ALIGN with ALIGNACK and goes round the link until the other end is aligned; ALIGNACK gives a device that is
not aligned its domain count. A link that goes down carries nothing more until it is trained again, and silence of 10 µs
takes it down. The model's own choices in it are log entries 44, 80, 82, 83, 96 and 116. -/
def Obligations.LinkLayer : Prop :=
  ∀ s : State,
    (∃ t, exec .flitTime s = .next t ∧ DueAt t (s.now + 6) .flitTime ∧ t.mem = s.mem ∧ t.cores = s.cores ∧
      ∀ l < 24, let k := s.link l
        let k' := t.link l
        (k.up = false → k' = k) ∧
        (∀ x xs, k.up = true → k.replay = x :: xs → k'.replay = xs ∧
          k'.last = some (stampFlit k (renewFlit s.domCount x)) ∧ k'.nakDue = false ∧
          k'.seqOut = k.seqOut ∧ k'.unacked = k.unacked) ∧
        (k.up = true → k.replay = [] → 512 ≤ k.unacked.length → k' = { k with last := none }) ∧
        (k.up = true → k.replay = [] → k.unacked.length < 512 → ∃ x, k'.last = some (stampFlit k x) ∧
          k'.unacked = k.unacked ++ [(k.seqOut, x)] ∧ k'.seqOut = (k.seqOut + 1) % 4096 ∧ k'.nakDue = false)) ∧
    exec .linkScheduleActivate s = .next { s with lschedNow := s.lsched } ∧
    (∀ l flit, let k := s.link l
      (24 ≤ l ∨ (k.up = false ∧ trains k flit = false) → exec (.flitReceive l flit) s = .next s) ∧
      (l < 24 → trains k flit = true → ∃ t, exec (.flitReceive l flit) s = .next t ∧ (t.link l).up = true ∧ (t.link l).seqIn = 1 ∧
        (t.link l).lanesFailed = k.lanesFailed ∧ (t.link l).unacked = [] ∧ t.mem = s.mem) ∧
      (k.up = true → l < 24 →
        (flitGood flit = false → ∃ t, exec (.flitReceive l flit) s = .next t ∧ t.link l = { k with nakDue := true } ∧ t.mem = s.mem) ∧
        (flitGood flit = true → flitSeq flit = k.seqIn → ∃ t, exec (.flitReceive l flit) s = .next t ∧
          (t.link l).seqIn = (k.seqIn + 1) % 4096 ∧ (t.link l).ackIn = true ∧ (t.link l).lastFlit = s.now ∧ t.mem = s.mem ∧
          t.cores = s.cores ∧
          (flitNak flit = true → flitAckV flit = false → (t.link l).replay = k.unacked.map (·.2))) ∧
        (flitGood flit = true → flitSeq flit ≠ k.seqIn → ∃ t, exec (.flitReceive l flit) s = .next t ∧ (t.link l).seqIn = k.seqIn ∧
          t.pktIn = s.pktIn ∧ t.ctlIn = s.ctlIn ∧ t.mem = s.mem ∧
          ((flitSeq flit + 4096 - k.seqIn) % 4096 < 2048 → (t.link l).nakDue = true)))) ∧
    (∀ l lane, let k := s.link l
      (k.up = false ∨ lane ∈ k.lanesFailed → exec (.laneFailed l lane) s = .next s) ∧
      (k.up = true → lane ∉ k.lanesFailed →
        (k.spareUsed = true → ∃ t, exec (.laneFailed l lane) s = .next t ∧ DueAt t s.now (.linkDown l 1) ∧
          t.link l = { k with lanesFailed := k.lanesFailed ++ [lane] } ∧ t.mem = s.mem) ∧
        (k.spareUsed = false → lane = 4 → ∃ t, exec (.laneFailed l lane) s = .next t ∧
          t.link l = { k with lanesFailed := k.lanesFailed ++ [lane], spareUsed := true } ∧ t.agenda = s.agenda) ∧
        (k.spareUsed = false → lane ≠ 4 → ∃ t a, exec (.laneFailed l lane) s = .next t ∧ (t.link l).spareUsed = true ∧
          (t.link l).lanesFailed = k.lanesFailed ++ [lane] ∧ (t.link l).spareAt = some a ∧
          (t.link l).control = k.control ++ [message 1 lane 4 a 0] ∧ t.mem = s.mem))) ∧
    (∀ l a b, let k := s.link l
      k.spareAt = some a → k.switchAt = some b → k.heard = true → seqFrom a k.seqOut = true → seqFrom b k.seqIn = true →
        ∃ t, exec (.laneSpareSwitch l) s = .next t ∧ (t.link l).spareAt = none ∧ (t.link l).switchAt = none) ∧
    (∀ l m rest, s.ctlIn = (l, m) :: rest → let k := s.link l
      let at_ := msgField m 102 12
      (∃ t, exec .spare s = .next t ∧ t.ctlIn = rest ∧ (t.link l).switchAt = some at_ ∧ (t.link l).heard = true ∧
        ∃ a, (t.link l).spareAt = some a ∧ (t.link l).control = k.control ++ [message 2 (msgField m 117 3) (msgField m 114 3) a 0]) ∧
      (∃ t, exec .spareAck s = .next t ∧ t.ctlIn = rest ∧ t.link l = { k with heard := true, switchAt := some at_ }) ∧
      (s.aligned = true → ∃ t, exec .align s = .next t ∧ t.ctlIn = rest ∧ t.aligned = true ∧ t.domCount = s.domCount ∧
        (t.link l).apart = true ∧ (t.link l).control = k.control ++ [message 4 0 0 0 0]) ∧
      (s.aligned = false → exec .align s = .next { s with ctlIn := rest }) ∧
      (∃ t, exec .alignAck s = .next t ∧ t.ctlIn = rest ∧ t.aligned = true ∧
        (s.aligned = false → t.domCount = msgField m 0 64 + Config.linkLatency l) ∧ (s.aligned = true → t.domCount = s.domCount)) ∧
      (∃ t, exec .down s = .next t ∧ t.ctlIn = rest ∧ (k.up = true → (t.link l).up = false ∧ (t.link l).unacked = []))) ∧
    (∀ l reason, let k := s.link l
      (∃ t, exec (.linkDown l reason) s = .next t ∧ (k.up = true → (t.link l).up = false ∧ (t.link l).unacked = [] ∧
        (t.link l).lanesFailed = k.lanesFailed)) ∧
      (exec (.linkSilenceTimeout l) s =
        .next (if k.up = true ∧ k.lastFlit + 30000 ≤ s.now then s.due s.now 21 (.linkDown l 3) else s)))

/-- R222, R224, R382, R383, R386, R389: a request of another device that no export entry admits is refused: a read or an
atomic is answered without data, a write is acknowledged with PSN set, and no memory changes. An admitted one is let in once
and for all, and its lines wait for their times; then a write writes its bytes and is acknowledged, a read is answered with
them, and an atomic performs its read-modify-write and is answered with the old word. An answer finds its request: the
read's data is there, the write is no longer outstanding, a refused write is counted, and a refused read is a fault. The
model's own choices in it are log entries 20, 45, 81, 98 and 118. -/
def Obligations.LinkPackets : Prop :=
  (∀ (s : State) (id ty : Nat) (x : InPacket), takePacket s ty = some (id, x) → x.pkt.type = ty →
    let p := x.pkt
    let gone : State → State := fun t => { t with pktIn := Table.del t.pktIn id }
    (∀ q ∈ ([(0, .linkRead, 3, false), (1, .linkWrite, 4, true), (2, .linkAtomic, 5, false)] : List (Nat × Instr × Nat × Bool)),
      ty = q.1 →
        (x.tfunc = none → admits s x (decide (ty ≠ 0)) = none →
          exec q.2.1 s = .next (answerPacket (gone s) 64 x q.2.2.1 q.2.2.2 []) ∧
            (answerPacket (gone s) 64 x q.2.2.1 q.2.2.2 []).mem = s.mem) ∧
        (∀ e s1 lines, x.tfunc = none → admits s x (decide (ty ≠ 0)) = some e →
          grantLines (linkPlace s x) (packetLines p) s = (s1, lines) → lines ≠ [] → (∀ ln ∈ lines, s.now < ln.1) →
          ∃ t y, exec q.2.1 s = .next t ∧ t.mem = s.mem ∧ t.pktIn.find id = some y ∧
            y = { x with tfunc := some e.tfunc, lines := lines, due := y.due } ∧ (∀ ln ∈ lines, y.due ≤ ln.1) ∧
            s.now < y.due ∧ DueAt t y.due q.2.1)) ∧
    (∀ f, ty = 1 → x.tfunc = some f → (∀ ln ∈ x.lines, ln.1 ≤ s.now ∧ isHbm ln.2.2.1 = false) →
      let w := writeRun s p.psn (x.lines.map fun ln => ⟨ln.2.1, ln.2.2.1, ln.2.2.2⟩) p.data
      exec .linkWrite s = .next (answerPacket (gone w) f x 4 false []) ∧
        ∀ (y : State) k psn d, (answerPacket y f x k psn d).mem = y.mem) ∧
    (∀ f u, ty = 0 → x.tfunc = some f → x.lines = [(u, 0, p.addr, p.len)] → u ≤ s.now → x.got = [] → x.psn = false →
      isScratch p.addr = true → isHbm p.addr = false → s.flaws = [] →
      exec .linkRead s = .next (answerPacket (gone s) f x 3 (poisoned s p.addr) (readBytes s p.addr p.len))) ∧
    (∀ f u, ty = 2 → x.tfunc = some f → x.lines = [(u, 0, p.addr, 4)] → u ≤ s.now → x.got = [] → x.psn = false →
      isScratch p.addr = true → isHbm p.addr = false → s.flaws = [] → p.data.length = 12 →
      let target := linkTarget
      let source := p.srcDev * 256 + p.srcCore
      let word := fun (k : Nat) => BitVec.ofNat 32 (leNat ((p.data.drop (4 * k)).take 4))
      let old := BitVec.ofNat 32 (leNat (readBytes s p.addr 4))
      (∀ r, storedReply s target source p.reqId = some r →
        exec .linkAtomic s = .next (answerPacket (gone s) f x 5 false (leBytes 4 r.toNat))) ∧
      (storedReply s target source p.reqId = none → s.Inv → poisoned s p.addr = false → ∃ t, exec .linkAtomic s = .next t ∧
        storedReply t target source p.reqId = some old ∧
        readBytes t p.addr 4 = leBytes 4 (atomicNew p.aop (word 2 != 0) old (word 0) (word 1)).toNat ∧
        (∀ a, a < p.addr ∨ p.addr + 4 ≤ a → readByte t a = readByte s a) ∧
        ∃ w, t = answerPacket (gone w) f x 5 false (leBytes 4 old.toNat)))) ∧
  (∀ (s : State) (id ty : Nat) (y : InPacket), takePacket s ty = some (id, y) →
    let p := y.pkt
    let s1 := { s with pktIn := Table.del s.pktIn id }
    (∀ q ∈ ([(3, .readReply, 0), (4, .writeAcknowledgment, 1), (5, .atomicReply, 2)] : List (Nat × Instr × Nat)),
      ty = q.1 → remoteOf s p q.2.2 = none → exec q.2.1 s = .next s1) ∧
    ∀ (k : Nat) (r : Remote) (a : Access) (q : Piece), s.accesses.find r.access = some a → a.pieces[r.piece]? = some q →
      let s2 := { s1 with remotes := Table.del s.remotes k }
      (ty = 4 → remoteOf s p 1 = some (k, r) → exec .writeAcknowledgment s =
        .next (donePiece (if p.psn = true then countLinkErr s2 r.func else s2) r.access a r.piece q s.now)) ∧
      (ty = 3 → remoteOf s p 0 = some (k, r) →
        (p.len ≠ 0 → exec .readReply s = .next (donePiece s2 r.access a r.piece
          { q with bytes := p.data.map some, poisoned := p.psn } s.now)) ∧
        (p.len = 0 → q.len ≠ 0 → a.role = .slot → exec .readReply s = .next (donePiece (refuseRequest s2 a r.access q.pa) r.access a
          r.piece { q with bytes := List.replicate q.len (some 0) } s.now)) ∧
        (p.len = 0 → q.len ≠ 0 → a.role = .engine → a.kind = .read → exec .readReply s =
          .next (elementFault { s2 with accesses := Table.del s2.accesses r.access } a 7 3 q.pa))) ∧
      (ty = 5 → remoteOf s p 2 = some (k, r) → p.len ≠ 0 → exec .atomicReply s = .next (donePiece s2 r.access
        { a with old := BitVec.ofNat 32 (leNat p.data) } r.piece { q with bytes := p.data.map some, poisoned := p.psn } s.now))) ∧
  ∀ (s : State) (a n : Nat) (x : Access) (q : Piece), x.pieces[n]? = some q → (∀ m y, x.pieces[m]? = some y → m ≠ n → y.done = false) →
    1 < x.pieces.length → ∃ t y, donePiece s a x n q s.now = t ∧ t.accesses.find a = some y ∧ y.done = x.done ∧
      y.pieces[n]? = some { q with done := true } ∧ t.mem = s.mem
end

