-- ==== Sys2Proof/Laws/Table.lean ====
section
/-!
SUPPORT. The laws of sparse tables: what a table reads as after an entry is put, removed or set, and that the canonical form is kept.
-/
namespace Sys2Proof

variable {α : Type}

@[simp] theorem Table.get_nil (d : α) (n : Nat) : Table.get d [] n = d := rfl

/-- A table reads, after a put, as before but at the number put. -/
theorem Table.get_put (d : α) (t : Table α) (n : Nat) (x : α) (m : Nat) :
    Table.get d (Table.put t n x) m = if m = n then x else Table.get d t m := by
  induction t with
  | nil => simp [Table.put, Table.get]
  | cons e r ih =>
    obtain ⟨k, v⟩ := e
    simp only [Table.put]
    split_ifs <;> simp only [Table.get, ih] <;> split_ifs <;> first | rfl | omega

@[simp] theorem Table.get_put_self (d : α) (t : Table α) (n : Nat) (x : α) : Table.get d (Table.put t n x) n = x := by
  simp [Table.get_put]

theorem Table.get_put_ne (d : α) (t : Table α) {n m : Nat} (x : α) (h : m ≠ n) :
    Table.get d (Table.put t n x) m = Table.get d t m := by
  simp [Table.get_put, h]

/-- The later of two puts of one number is the one that stays. -/
@[simp] theorem Table.put_put (t : Table α) (n : Nat) (x y : α) : Table.put (Table.put t n x) n y = Table.put t n y := by
  induction t with
  | nil => simp [Table.put]
  | cons e r ih =>
    obtain ⟨k, v⟩ := e
    simp only [Table.put]
    split_ifs <;> simp [Table.put, *]

/-- A put seen through `map`, where the map leaves the numbers. -/
theorem Table.map_put {β : Type} (f : α → β) (t : Table α) (n : Nat) (x : α) :
    (Table.put t n x).map (fun e => (e.1, f e.2)) = Table.put (t.map fun e => (e.1, f e.2)) n (f x) := by
  induction t with
  | nil => simp [Table.put]
  | cons e r ih =>
    obtain ⟨k, v⟩ := e
    simp only [Table.put, List.map_cons]
    split_ifs <;> simp [ih]

@[simp] theorem Table.find_nil (n : Nat) : Table.find ([] : Table α) n = none := rfl

/-- What `find` answers after a put. -/
theorem Table.find_put (t : Table α) (n : Nat) (x : α) (m : Nat) :
    Table.find (Table.put t n x) m = if m = n then some x else Table.find t m := by
  have h := Table.map_put some t n x
  simp only [Table.find]
  rw [show (List.map (fun (x : Nat × α) => match x with | (k, v) => (k, some v)) (Table.put t n x)) =
    List.map (fun e => (e.1, some e.2)) (Table.put t n x) from rfl, h, Table.get_put]

@[simp] theorem Table.find_put_self (t : Table α) (n : Nat) (x : α) : Table.find (Table.put t n x) n = some x := by
  simp [Table.find_put]

/-! ## The canonical form -/

section
variable [DecidableEq α] (d : α)

/-- A table whose numbers all lie at or above a bound reads its default below it. -/
theorem Table.get_below {lo : Nat} {t : Table α} (h : Table.wfFrom d lo t = true) {n : Nat} (hn : n < lo) :
    Table.get d t n = d := by
  cases t with
  | nil => rfl
  | cons e r =>
    obtain ⟨k, v⟩ := e
    simp only [Table.wfFrom, Bool.and_eq_true, decide_eq_true_eq] at h
    simp only [Table.get]
    rw [if_neg (by omega), if_pos (by omega)]

/-- A lower bound of a canonical table may be lowered. -/
theorem Table.wfFrom_mono {lo lo' : Nat} {t : Table α} (hle : lo' ≤ lo) (h : Table.wfFrom d lo t = true) :
    Table.wfFrom d lo' t = true := by
  cases t with
  | nil => rfl
  | cons e r =>
    obtain ⟨k, v⟩ := e
    simp only [Table.wfFrom, Bool.and_eq_true, decide_eq_true_eq] at h ⊢
    exact ⟨⟨by omega, h.1.2⟩, h.2⟩

theorem Table.put_wfFrom {lo : Nat} {t : Table α} {n : Nat} {x : α} (h : Table.wfFrom d lo t = true) (hn : lo ≤ n)
    (hx : x ≠ d) : Table.wfFrom d lo (Table.put t n x) = true := by
  induction t generalizing lo with
  | nil => simp [Table.put, Table.wfFrom, hn, hx]
  | cons e r ih =>
    obtain ⟨k, v⟩ := e
    simp only [Table.wfFrom, Bool.and_eq_true, decide_eq_true_eq] at h
    simp only [Table.put]
    split_ifs with h1 h2
    · subst h1; simp [Table.wfFrom, hn, hx, h.2]
    · simp only [Table.wfFrom, Bool.and_eq_true, decide_eq_true_eq]
      exact ⟨⟨hn, hx⟩, ⟨by omega, h.1.2⟩, h.2⟩
    · simp only [Table.wfFrom, Bool.and_eq_true, decide_eq_true_eq]
      exact ⟨h.1, ih h.2 (by omega)⟩

theorem Table.del_wfFrom {lo : Nat} {t : Table α} {n : Nat} (h : Table.wfFrom d lo t = true) :
    Table.wfFrom d lo (Table.del t n) = true := by
  induction t generalizing lo with
  | nil => rfl
  | cons e r ih =>
    obtain ⟨k, v⟩ := e
    simp only [Table.del]
    have h' := h
    simp only [Table.wfFrom, Bool.and_eq_true, decide_eq_true_eq] at h'
    split_ifs
    · exact Table.wfFrom_mono d (by omega) h'.2
    · exact h
    · simp only [Table.wfFrom, Bool.and_eq_true, decide_eq_true_eq]
      exact ⟨h'.1, ih h'.2⟩

/-- Setting an entry keeps the canonical form. -/
theorem Table.set_wf {t : Table α} (h : Table.wf d t = true) (n : Nat) (x : α) : Table.wf d (Table.set d t n x) = true := by
  simp only [Table.set, Table.wf] at *
  split_ifs with hx
  · exact Table.del_wfFrom d h
  · exact Table.put_wfFrom d h (Nat.zero_le n) hx

/-- Dropping entries keeps the canonical form. -/
theorem Table.filter_wfFrom {lo : Nat} {t : Table α} (p : Nat × α → Bool) (h : Table.wfFrom d lo t = true) :
    Table.wfFrom d lo (List.filter p t) = true := by
  induction t generalizing lo with
  | nil => rfl
  | cons e r ih =>
    obtain ⟨k, v⟩ := e
    simp only [Table.wfFrom, Bool.and_eq_true, decide_eq_true_eq] at h
    cases hp : p (k, v)
    · rw [List.filter_cons_of_neg (by simp [hp])]
      exact Table.wfFrom_mono d (by omega) (ih h.2)
    · rw [List.filter_cons_of_pos hp]
      simp only [Table.wfFrom, Bool.and_eq_true, decide_eq_true_eq]
      exact ⟨h.1, ih h.2⟩

theorem Table.filter_wf {t : Table α} (p : Nat × α → Bool) (h : Table.wf d t = true) : Table.wf d (List.filter p t) = true :=
  Table.filter_wfFrom d p h

theorem Table.get_del {lo : Nat} {t : Table α} (h : Table.wfFrom d lo t = true) (n m : Nat) :
    Table.get d (Table.del t n) m = if m = n then d else Table.get d t m := by
  induction t generalizing lo with
  | nil => simp [Table.del]
  | cons e r ih =>
    obtain ⟨k, v⟩ := e
    simp only [Table.wfFrom, Bool.and_eq_true, decide_eq_true_eq] at h
    simp only [Table.del]
    split_ifs with h1 h2 h3 h4 h5
    · exact Table.get_below d h.2 (by omega)
    · simp only [Table.get]
      rw [if_neg (by omega)]
      split_ifs with h6
      · exact Table.get_below d h.2 (by omega)
      · rfl
    · simp only [Table.get]
      rw [if_neg (by omega), if_pos (by omega)]
    · rfl
    · simp only [Table.get, ih h.2, if_pos h5]
      rw [if_neg (by omega), if_neg (by omega)]
    · simp only [Table.get, ih h.2, if_neg h5]

/-- A canonical table reads, after a set, as before but at the number set. -/
theorem Table.get_set {t : Table α} (h : Table.wf d t = true) (n : Nat) (x : α) (m : Nat) :
    Table.get d (Table.set d t n x) m = if m = n then x else Table.get d t m := by
  simp only [Table.set]
  split_ifs with hx hm hm
  · rw [Table.get_del d h, if_pos hm, hx]
  · rw [Table.get_del d h, if_neg hm]
  · rw [Table.get_put, if_pos hm]
  · rw [Table.get_put, if_neg hm]

end

end Sys2Proof
end

