-- ==== Sys2Proof/Laws/State.lean ====
section
/-!
SUPPORT. What each update of the state leaves alone, field by field, and what the accessors of cores, launches and functions read
after it.
-/
namespace Sys2Proof.Machine

/-! ## A core replaced -/

@[simp] theorem setCore_now (s : State) (g : Nat) (c : Core) : (s.setCore g c).now = s.now := rfl
@[simp] theorem setCore_domCount (s : State) (g : Nat) (c : Core) : (s.setCore g c).domCount = s.domCount := rfl
@[simp] theorem setCore_aligned (s : State) (g : Nat) (c : Core) : (s.setCore g c).aligned = s.aligned := rfl
@[simp] theorem setCore_up (s : State) (g : Nat) (c : Core) : (s.setCore g c).up = s.up := rfl
@[simp] theorem setCore_mem (s : State) (g : Nat) (c : Core) : (s.setCore g c).mem = s.mem := rfl
@[simp] theorem setCore_poison (s : State) (g : Nat) (c : Core) : (s.setCore g c).poison = s.poison := rfl
@[simp] theorem setCore_lanes (s : State) (g : Nat) (c : Core) : (s.setCore g c).lanes = s.lanes := rfl
@[simp] theorem setCore_ports (s : State) (g : Nat) (c : Core) : (s.setCore g c).ports = s.ports := rfl
@[simp] theorem setCore_calendar (s : State) (g : Nat) (c : Core) : (s.setCore g c).calendar = s.calendar := rfl
@[simp] theorem setCore_bankErrs (s : State) (g : Nat) (c : Core) : (s.setCore g c).bankErrs = s.bankErrs := rfl
@[simp] theorem setCore_flaws (s : State) (g : Nat) (c : Core) : (s.setCore g c).flaws = s.flaws := rfl
@[simp] theorem setCore_badCounters (s : State) (g : Nat) (c : Core) : (s.setCore g c).badCounters = s.badCounters := rfl
@[simp] theorem setCore_minor (s : State) (g : Nat) (c : Core) : (s.setCore g c).minor = s.minor := rfl
@[simp] theorem setCore_major (s : State) (g : Nat) (c : Core) : (s.setCore g c).major = s.major := rfl
@[simp] theorem setCore_tree (s : State) (g : Nat) (c : Core) : (s.setCore g c).tree = s.tree := rfl
@[simp] theorem setCore_roSets (s : State) (g : Nat) (c : Core) : (s.setCore g c).roSets = s.roSets := rfl
@[simp] theorem setCore_reencrypt (s : State) (g : Nat) (c : Core) : (s.setCore g c).reencrypt = s.reencrypt := rfl
@[simp] theorem setCore_refreshPlan (s : State) (g : Nat) (c : Core) : (s.setCore g c).refreshPlan = s.refreshPlan := rfl
@[simp] theorem setCore_refreshHot (s : State) (g : Nat) (c : Core) : (s.setCore g c).refreshHot = s.refreshHot := rfl
@[simp] theorem setCore_takeover (s : State) (g : Nat) (c : Core) : (s.setCore g c).takeover = s.takeover := rfl
@[simp] theorem setCore_tsvErrs (s : State) (g : Nat) (c : Core) : (s.setCore g c).tsvErrs = s.tsvErrs := rfl
@[simp] theorem setCore_tsvFailed (s : State) (g : Nat) (c : Core) : (s.setCore g c).tsvFailed = s.tsvFailed := rfl
@[simp] theorem setCore_tsvSpared (s : State) (g : Nat) (c : Core) : (s.setCore g c).tsvSpared = s.tsvSpared := rfl
@[simp] theorem setCore_sweep (s : State) (g : Nat) (c : Core) : (s.setCore g c).sweep = s.sweep := rfl
@[simp] theorem setCore_onSpare (s : State) (g : Nat) (c : Core) : (s.setCore g c).onSpare = s.onSpare := rfl
@[simp] theorem setCore_setTable (s : State) (g : Nat) (c : Core) : (s.setCore g c).setTable = s.setTable := rfl
@[simp] theorem setCore_setApplied (s : State) (g : Nat) (c : Core) : (s.setCore g c).setApplied = s.setApplied := rfl
@[simp] theorem setCore_comSet (s : State) (g : Nat) (c : Core) : (s.setCore g c).comSet = s.comSet := rfl
@[simp] theorem setCore_comSetApplied (s : State) (g : Nat) (c : Core) : (s.setCore g c).comSetApplied = s.comSetApplied := rfl
@[simp] theorem setCore_funcs (s : State) (g : Nat) (c : Core) : (s.setCore g c).funcs = s.funcs := rfl
@[simp] theorem setCore_tcache (s : State) (g : Nat) (c : Core) : (s.setCore g c).tcache = s.tcache := rfl
@[simp] theorem setCore_shoots (s : State) (g : Nat) (c : Core) : (s.setCore g c).shoots = s.shoots := rfl
@[simp] theorem setCore_launches (s : State) (g : Nat) (c : Core) : (s.setCore g c).launches = s.launches := rfl
@[simp] theorem setCore_checkpoints (s : State) (g : Nat) (c : Core) : (s.setCore g c).checkpoints = s.checkpoints := rfl
@[simp] theorem setCore_accesses (s : State) (g : Nat) (c : Core) : (s.setCore g c).accesses = s.accesses := rfl
@[simp] theorem setCore_messages (s : State) (g : Nat) (c : Core) : (s.setCore g c).messages = s.messages := rfl
@[simp] theorem setCore_arrives (s : State) (g : Nat) (c : Core) : (s.setCore g c).arrives = s.arrives := rfl
@[simp] theorem setCore_proposals (s : State) (g : Nat) (c : Core) : (s.setCore g c).proposals = s.proposals := rfl
@[simp] theorem setCore_claimWords (s : State) (g : Nat) (c : Core) : (s.setCore g c).claimWords = s.claimWords := rfl
@[simp] theorem setCore_samples (s : State) (g : Nat) (c : Core) : (s.setCore g c).samples = s.samples := rfl
@[simp] theorem setCore_queues (s : State) (g : Nat) (c : Core) : (s.setCore g c).queues = s.queues := rfl
@[simp] theorem setCore_slots (s : State) (g : Nat) (c : Core) : (s.setCore g c).slots = s.slots := rfl
@[simp] theorem setCore_reserved (s : State) (g : Nat) (c : Core) : (s.setCore g c).reserved = s.reserved := rfl
@[simp] theorem setCore_ramps (s : State) (g : Nat) (c : Core) : (s.setCore g c).ramps = s.ramps := rfl
@[simp] theorem setCore_riseNow (s : State) (g : Nat) (c : Core) : (s.setCore g c).riseNow = s.riseNow := rfl
@[simp] theorem setCore_fallNow (s : State) (g : Nat) (c : Core) : (s.setCore g c).fallNow = s.fallNow := rfl
@[simp] theorem setCore_capNow (s : State) (g : Nat) (c : Core) : (s.setCore g c).capNow = s.capNow := rfl
@[simp] theorem setCore_hot (s : State) (g : Nat) (c : Core) : (s.setCore g c).hot = s.hot := rfl
@[simp] theorem setCore_govRise (s : State) (g : Nat) (c : Core) : (s.setCore g c).govRise = s.govRise := rfl
@[simp] theorem setCore_govFall (s : State) (g : Nat) (c : Core) : (s.setCore g c).govFall = s.govFall := rfl
@[simp] theorem setCore_govCap (s : State) (g : Nat) (c : Core) : (s.setCore g c).govCap = s.govCap := rfl
@[simp] theorem setCore_directory (s : State) (g : Nat) (c : Core) : (s.setCore g c).directory = s.directory := rfl
@[simp] theorem setCore_commonsReqs (s : State) (g : Nat) (c : Core) : (s.setCore g c).commonsReqs = s.commonsReqs := rfl
@[simp] theorem setCore_period (s : State) (g : Nat) (c : Core) : (s.setCore g c).period = s.period := rfl
@[simp] theorem setCore_hostFn (s : State) (g : Nat) (c : Core) : (s.setCore g c).hostFn = s.hostFn := rfl
@[simp] theorem setCore_hostVal (s : State) (g : Nat) (c : Core) : (s.setCore g c).hostVal = s.hostVal := rfl
@[simp] theorem setCore_cmd (s : State) (g : Nat) (c : Core) : (s.setCore g c).cmd = s.cmd := rfl
@[simp] theorem setCore_operands (s : State) (g : Nat) (c : Core) : (s.setCore g c).operands = s.operands := rfl
@[simp] theorem setCore_cmdst (s : State) (g : Nat) (c : Core) : (s.setCore g c).cmdst = s.cmdst := rfl
@[simp] theorem setCore_cmdLeft (s : State) (g : Nat) (c : Core) : (s.setCore g c).cmdLeft = s.cmdLeft := rfl
@[simp] theorem setCore_devnum (s : State) (g : Nat) (c : Core) : (s.setCore g c).devnum = s.devnum := rfl
@[simp] theorem setCore_lschedAt (s : State) (g : Nat) (c : Core) : (s.setCore g c).lschedAt = s.lschedAt := rfl
@[simp] theorem setCore_exports (s : State) (g : Nat) (c : Core) : (s.setCore g c).exports = s.exports := rfl
@[simp] theorem setCore_routes (s : State) (g : Nat) (c : Core) : (s.setCore g c).routes = s.routes := rfl
@[simp] theorem setCore_lsched (s : State) (g : Nat) (c : Core) : (s.setCore g c).lsched = s.lsched := rfl
@[simp] theorem setCore_lschedNow (s : State) (g : Nat) (c : Core) : (s.setCore g c).lschedNow = s.lschedNow := rfl
@[simp] theorem setCore_links (s : State) (g : Nat) (c : Core) : (s.setCore g c).links = s.links := rfl
@[simp] theorem setCore_ctlIn (s : State) (g : Nat) (c : Core) : (s.setCore g c).ctlIn = s.ctlIn := rfl
@[simp] theorem setCore_pktIn (s : State) (g : Nat) (c : Core) : (s.setCore g c).pktIn = s.pktIn := rfl
@[simp] theorem setCore_remotes (s : State) (g : Nat) (c : Core) : (s.setCore g c).remotes = s.remotes := rfl
@[simp] theorem setCore_atomReplies (s : State) (g : Nat) (c : Core) : (s.setCore g c).atomReplies = s.atomReplies := rfl
@[simp] theorem setCore_hrBase (s : State) (g : Nat) (c : Core) : (s.setCore g c).hrBase = s.hrBase := rfl
@[simp] theorem setCore_hrHead (s : State) (g : Nat) (c : Core) : (s.setCore g c).hrHead = s.hrHead := rfl
@[simp] theorem setCore_hrTail (s : State) (g : Nat) (c : Core) : (s.setCore g c).hrTail = s.hrTail := rfl
@[simp] theorem setCore_hrLost (s : State) (g : Nat) (c : Core) : (s.setCore g c).hrLost = s.hrLost := rfl
@[simp] theorem setCore_hrHeld (s : State) (g : Nat) (c : Core) : (s.setCore g c).hrHeld = s.hrHeld := rfl
@[simp] theorem setCore_hrCounts (s : State) (g : Nat) (c : Core) : (s.setCore g c).hrCounts = s.hrCounts := rfl
@[simp] theorem setCore_hrLog (s : State) (g : Nat) (c : Core) : (s.setCore g c).hrLog = s.hrLog := rfl
@[simp] theorem setCore_dumpBase (s : State) (g : Nat) (c : Core) : (s.setCore g c).dumpBase = s.dumpBase := rfl
@[simp] theorem setCore_dumpSize (s : State) (g : Nat) (c : Core) : (s.setCore g c).dumpSize = s.dumpSize := rfl
@[simp] theorem setCore_fused (s : State) (g : Nat) (c : Core) : (s.setCore g c).fused = s.fused := rfl
@[simp] theorem setCore_spareDue (s : State) (g : Nat) (c : Core) : (s.setCore g c).spareDue = s.spareDue := rfl
@[simp] theorem setCore_bankBusy (s : State) (g : Nat) (c : Core) : (s.setCore g c).bankBusy = s.bankBusy := rfl
@[simp] theorem setCore_outOfService (s : State) (g : Nat) (c : Core) : (s.setCore g c).outOfService = s.outOfService := rfl
@[simp] theorem setCore_coresLost (s : State) (g : Nat) (c : Core) : (s.setCore g c).coresLost = s.coresLost := rfl
@[simp] theorem setCore_rollTimes (s : State) (g : Nat) (c : Core) : (s.setCore g c).rollTimes = s.rollTimes := rfl
@[simp] theorem setCore_shepFailed (s : State) (g : Nat) (c : Core) : (s.setCore g c).shepFailed = s.shepFailed := rfl
@[simp] theorem setCore_shepDead (s : State) (g : Nat) (c : Core) : (s.setCore g c).shepDead = s.shepDead := rfl
@[simp] theorem setCore_dieLink (s : State) (g : Nat) (c : Core) : (s.setCore g c).dieLink = s.dieLink := rfl
@[simp] theorem setCore_staged (s : State) (g : Nat) (c : Core) : (s.setCore g c).staged = s.staged := rfl
@[simp] theorem setCore_running (s : State) (g : Nat) (c : Core) : (s.setCore g c).running = s.running := rfl
@[simp] theorem setCore_fusedMin (s : State) (g : Nat) (c : Core) : (s.setCore g c).fusedMin = s.fusedMin := rfl
@[simp] theorem setCore_attestations (s : State) (g : Nat) (c : Core) : (s.setCore g c).attestations = s.attestations := rfl
@[simp] theorem setCore_lastRec (s : State) (g : Nat) (c : Core) : (s.setCore g c).lastRec = s.lastRec := rfl
@[simp] theorem setCore_sysKey (s : State) (g : Nat) (c : Core) : (s.setCore g c).sysKey = s.sysKey := rfl
@[simp] theorem setCore_mgmtFailed (s : State) (g : Nat) (c : Core) : (s.setCore g c).mgmtFailed = s.mgmtFailed := rfl
@[simp] theorem setCore_chain (s : State) (g : Nat) (c : Core) : (s.setCore g c).chain = s.chain := rfl
@[simp] theorem setCore_ats (s : State) (g : Nat) (c : Core) : (s.setCore g c).ats = s.ats := rfl
@[simp] theorem setCore_hostReply (s : State) (g : Nat) (c : Core) : (s.setCore g c).hostReply = s.hostReply := rfl
@[simp] theorem setCore_msix (s : State) (g : Nat) (c : Core) : (s.setCore g c).msix = s.msix := rfl
@[simp] theorem setCore_agenda (s : State) (g : Nat) (c : Core) : (s.setCore g c).agenda = s.agenda := rfl
@[simp] theorem setCore_micro (s : State) (g : Nat) (c : Core) : (s.setCore g c).micro = s.micro := rfl
@[simp] theorem setCore_cur (s : State) (g : Nat) (c : Core) : (s.setCore g c).cur = s.cur := rfl
@[simp] theorem setCore_issuing (s : State) (g : Nat) (c : Core) : (s.setCore g c).issuing = s.issuing := rfl
@[simp] theorem setCore_told (s : State) (g : Nat) (c : Core) : (s.setCore g c).told = s.told := rfl
@[simp] theorem setCore_fresh (s : State) (g : Nat) (c : Core) : (s.setCore g c).fresh = s.fresh := rfl
@[simp] theorem setCore_nextId (s : State) (g : Nat) (c : Core) : (s.setCore g c).nextId = s.nextId := rfl

/-! ## A launch replaced -/

@[simp] theorem setLaunch_now (s : State) (l : Nat) (x : Launch) : (s.setLaunch l x).now = s.now := rfl
@[simp] theorem setLaunch_domCount (s : State) (l : Nat) (x : Launch) : (s.setLaunch l x).domCount = s.domCount := rfl
@[simp] theorem setLaunch_aligned (s : State) (l : Nat) (x : Launch) : (s.setLaunch l x).aligned = s.aligned := rfl
@[simp] theorem setLaunch_up (s : State) (l : Nat) (x : Launch) : (s.setLaunch l x).up = s.up := rfl
@[simp] theorem setLaunch_mem (s : State) (l : Nat) (x : Launch) : (s.setLaunch l x).mem = s.mem := rfl
@[simp] theorem setLaunch_poison (s : State) (l : Nat) (x : Launch) : (s.setLaunch l x).poison = s.poison := rfl
@[simp] theorem setLaunch_lanes (s : State) (l : Nat) (x : Launch) : (s.setLaunch l x).lanes = s.lanes := rfl
@[simp] theorem setLaunch_ports (s : State) (l : Nat) (x : Launch) : (s.setLaunch l x).ports = s.ports := rfl
@[simp] theorem setLaunch_calendar (s : State) (l : Nat) (x : Launch) : (s.setLaunch l x).calendar = s.calendar := rfl
@[simp] theorem setLaunch_bankErrs (s : State) (l : Nat) (x : Launch) : (s.setLaunch l x).bankErrs = s.bankErrs := rfl
@[simp] theorem setLaunch_flaws (s : State) (l : Nat) (x : Launch) : (s.setLaunch l x).flaws = s.flaws := rfl
@[simp] theorem setLaunch_badCounters (s : State) (l : Nat) (x : Launch) : (s.setLaunch l x).badCounters = s.badCounters := rfl
@[simp] theorem setLaunch_minor (s : State) (l : Nat) (x : Launch) : (s.setLaunch l x).minor = s.minor := rfl
@[simp] theorem setLaunch_major (s : State) (l : Nat) (x : Launch) : (s.setLaunch l x).major = s.major := rfl
@[simp] theorem setLaunch_tree (s : State) (l : Nat) (x : Launch) : (s.setLaunch l x).tree = s.tree := rfl
@[simp] theorem setLaunch_roSets (s : State) (l : Nat) (x : Launch) : (s.setLaunch l x).roSets = s.roSets := rfl
@[simp] theorem setLaunch_reencrypt (s : State) (l : Nat) (x : Launch) : (s.setLaunch l x).reencrypt = s.reencrypt := rfl
@[simp] theorem setLaunch_refreshPlan (s : State) (l : Nat) (x : Launch) : (s.setLaunch l x).refreshPlan = s.refreshPlan := rfl
@[simp] theorem setLaunch_refreshHot (s : State) (l : Nat) (x : Launch) : (s.setLaunch l x).refreshHot = s.refreshHot := rfl
@[simp] theorem setLaunch_takeover (s : State) (l : Nat) (x : Launch) : (s.setLaunch l x).takeover = s.takeover := rfl
@[simp] theorem setLaunch_tsvErrs (s : State) (l : Nat) (x : Launch) : (s.setLaunch l x).tsvErrs = s.tsvErrs := rfl
@[simp] theorem setLaunch_tsvFailed (s : State) (l : Nat) (x : Launch) : (s.setLaunch l x).tsvFailed = s.tsvFailed := rfl
@[simp] theorem setLaunch_tsvSpared (s : State) (l : Nat) (x : Launch) : (s.setLaunch l x).tsvSpared = s.tsvSpared := rfl
@[simp] theorem setLaunch_sweep (s : State) (l : Nat) (x : Launch) : (s.setLaunch l x).sweep = s.sweep := rfl
@[simp] theorem setLaunch_onSpare (s : State) (l : Nat) (x : Launch) : (s.setLaunch l x).onSpare = s.onSpare := rfl
@[simp] theorem setLaunch_setTable (s : State) (l : Nat) (x : Launch) : (s.setLaunch l x).setTable = s.setTable := rfl
@[simp] theorem setLaunch_setApplied (s : State) (l : Nat) (x : Launch) : (s.setLaunch l x).setApplied = s.setApplied := rfl
@[simp] theorem setLaunch_comSet (s : State) (l : Nat) (x : Launch) : (s.setLaunch l x).comSet = s.comSet := rfl
@[simp] theorem setLaunch_comSetApplied (s : State) (l : Nat) (x : Launch) : (s.setLaunch l x).comSetApplied = s.comSetApplied := rfl
@[simp] theorem setLaunch_funcs (s : State) (l : Nat) (x : Launch) : (s.setLaunch l x).funcs = s.funcs := rfl
@[simp] theorem setLaunch_tcache (s : State) (l : Nat) (x : Launch) : (s.setLaunch l x).tcache = s.tcache := rfl
@[simp] theorem setLaunch_shoots (s : State) (l : Nat) (x : Launch) : (s.setLaunch l x).shoots = s.shoots := rfl
@[simp] theorem setLaunch_cores (s : State) (l : Nat) (x : Launch) : (s.setLaunch l x).cores = s.cores := rfl
@[simp] theorem setLaunch_checkpoints (s : State) (l : Nat) (x : Launch) : (s.setLaunch l x).checkpoints = s.checkpoints := rfl
@[simp] theorem setLaunch_accesses (s : State) (l : Nat) (x : Launch) : (s.setLaunch l x).accesses = s.accesses := rfl
@[simp] theorem setLaunch_messages (s : State) (l : Nat) (x : Launch) : (s.setLaunch l x).messages = s.messages := rfl
@[simp] theorem setLaunch_arrives (s : State) (l : Nat) (x : Launch) : (s.setLaunch l x).arrives = s.arrives := rfl
@[simp] theorem setLaunch_proposals (s : State) (l : Nat) (x : Launch) : (s.setLaunch l x).proposals = s.proposals := rfl
@[simp] theorem setLaunch_claimWords (s : State) (l : Nat) (x : Launch) : (s.setLaunch l x).claimWords = s.claimWords := rfl
@[simp] theorem setLaunch_samples (s : State) (l : Nat) (x : Launch) : (s.setLaunch l x).samples = s.samples := rfl
@[simp] theorem setLaunch_queues (s : State) (l : Nat) (x : Launch) : (s.setLaunch l x).queues = s.queues := rfl
@[simp] theorem setLaunch_slots (s : State) (l : Nat) (x : Launch) : (s.setLaunch l x).slots = s.slots := rfl
@[simp] theorem setLaunch_reserved (s : State) (l : Nat) (x : Launch) : (s.setLaunch l x).reserved = s.reserved := rfl
@[simp] theorem setLaunch_ramps (s : State) (l : Nat) (x : Launch) : (s.setLaunch l x).ramps = s.ramps := rfl
@[simp] theorem setLaunch_riseNow (s : State) (l : Nat) (x : Launch) : (s.setLaunch l x).riseNow = s.riseNow := rfl
@[simp] theorem setLaunch_fallNow (s : State) (l : Nat) (x : Launch) : (s.setLaunch l x).fallNow = s.fallNow := rfl
@[simp] theorem setLaunch_capNow (s : State) (l : Nat) (x : Launch) : (s.setLaunch l x).capNow = s.capNow := rfl
@[simp] theorem setLaunch_hot (s : State) (l : Nat) (x : Launch) : (s.setLaunch l x).hot = s.hot := rfl
@[simp] theorem setLaunch_govRise (s : State) (l : Nat) (x : Launch) : (s.setLaunch l x).govRise = s.govRise := rfl
@[simp] theorem setLaunch_govFall (s : State) (l : Nat) (x : Launch) : (s.setLaunch l x).govFall = s.govFall := rfl
@[simp] theorem setLaunch_govCap (s : State) (l : Nat) (x : Launch) : (s.setLaunch l x).govCap = s.govCap := rfl
@[simp] theorem setLaunch_directory (s : State) (l : Nat) (x : Launch) : (s.setLaunch l x).directory = s.directory := rfl
@[simp] theorem setLaunch_commonsReqs (s : State) (l : Nat) (x : Launch) : (s.setLaunch l x).commonsReqs = s.commonsReqs := rfl
@[simp] theorem setLaunch_period (s : State) (l : Nat) (x : Launch) : (s.setLaunch l x).period = s.period := rfl
@[simp] theorem setLaunch_hostFn (s : State) (l : Nat) (x : Launch) : (s.setLaunch l x).hostFn = s.hostFn := rfl
@[simp] theorem setLaunch_hostVal (s : State) (l : Nat) (x : Launch) : (s.setLaunch l x).hostVal = s.hostVal := rfl
@[simp] theorem setLaunch_cmd (s : State) (l : Nat) (x : Launch) : (s.setLaunch l x).cmd = s.cmd := rfl
@[simp] theorem setLaunch_operands (s : State) (l : Nat) (x : Launch) : (s.setLaunch l x).operands = s.operands := rfl
@[simp] theorem setLaunch_cmdst (s : State) (l : Nat) (x : Launch) : (s.setLaunch l x).cmdst = s.cmdst := rfl
@[simp] theorem setLaunch_cmdLeft (s : State) (l : Nat) (x : Launch) : (s.setLaunch l x).cmdLeft = s.cmdLeft := rfl
@[simp] theorem setLaunch_devnum (s : State) (l : Nat) (x : Launch) : (s.setLaunch l x).devnum = s.devnum := rfl
@[simp] theorem setLaunch_lschedAt (s : State) (l : Nat) (x : Launch) : (s.setLaunch l x).lschedAt = s.lschedAt := rfl
@[simp] theorem setLaunch_exports (s : State) (l : Nat) (x : Launch) : (s.setLaunch l x).exports = s.exports := rfl
@[simp] theorem setLaunch_routes (s : State) (l : Nat) (x : Launch) : (s.setLaunch l x).routes = s.routes := rfl
@[simp] theorem setLaunch_lsched (s : State) (l : Nat) (x : Launch) : (s.setLaunch l x).lsched = s.lsched := rfl
@[simp] theorem setLaunch_lschedNow (s : State) (l : Nat) (x : Launch) : (s.setLaunch l x).lschedNow = s.lschedNow := rfl
@[simp] theorem setLaunch_links (s : State) (l : Nat) (x : Launch) : (s.setLaunch l x).links = s.links := rfl
@[simp] theorem setLaunch_ctlIn (s : State) (l : Nat) (x : Launch) : (s.setLaunch l x).ctlIn = s.ctlIn := rfl
@[simp] theorem setLaunch_pktIn (s : State) (l : Nat) (x : Launch) : (s.setLaunch l x).pktIn = s.pktIn := rfl
@[simp] theorem setLaunch_remotes (s : State) (l : Nat) (x : Launch) : (s.setLaunch l x).remotes = s.remotes := rfl
@[simp] theorem setLaunch_atomReplies (s : State) (l : Nat) (x : Launch) : (s.setLaunch l x).atomReplies = s.atomReplies := rfl
@[simp] theorem setLaunch_hrBase (s : State) (l : Nat) (x : Launch) : (s.setLaunch l x).hrBase = s.hrBase := rfl
@[simp] theorem setLaunch_hrHead (s : State) (l : Nat) (x : Launch) : (s.setLaunch l x).hrHead = s.hrHead := rfl
@[simp] theorem setLaunch_hrTail (s : State) (l : Nat) (x : Launch) : (s.setLaunch l x).hrTail = s.hrTail := rfl
@[simp] theorem setLaunch_hrLost (s : State) (l : Nat) (x : Launch) : (s.setLaunch l x).hrLost = s.hrLost := rfl
@[simp] theorem setLaunch_hrHeld (s : State) (l : Nat) (x : Launch) : (s.setLaunch l x).hrHeld = s.hrHeld := rfl
@[simp] theorem setLaunch_hrCounts (s : State) (l : Nat) (x : Launch) : (s.setLaunch l x).hrCounts = s.hrCounts := rfl
@[simp] theorem setLaunch_hrLog (s : State) (l : Nat) (x : Launch) : (s.setLaunch l x).hrLog = s.hrLog := rfl
@[simp] theorem setLaunch_dumpBase (s : State) (l : Nat) (x : Launch) : (s.setLaunch l x).dumpBase = s.dumpBase := rfl
@[simp] theorem setLaunch_dumpSize (s : State) (l : Nat) (x : Launch) : (s.setLaunch l x).dumpSize = s.dumpSize := rfl
@[simp] theorem setLaunch_fused (s : State) (l : Nat) (x : Launch) : (s.setLaunch l x).fused = s.fused := rfl
@[simp] theorem setLaunch_spareDue (s : State) (l : Nat) (x : Launch) : (s.setLaunch l x).spareDue = s.spareDue := rfl
@[simp] theorem setLaunch_bankBusy (s : State) (l : Nat) (x : Launch) : (s.setLaunch l x).bankBusy = s.bankBusy := rfl
@[simp] theorem setLaunch_outOfService (s : State) (l : Nat) (x : Launch) : (s.setLaunch l x).outOfService = s.outOfService := rfl
@[simp] theorem setLaunch_coresLost (s : State) (l : Nat) (x : Launch) : (s.setLaunch l x).coresLost = s.coresLost := rfl
@[simp] theorem setLaunch_rollTimes (s : State) (l : Nat) (x : Launch) : (s.setLaunch l x).rollTimes = s.rollTimes := rfl
@[simp] theorem setLaunch_shepFailed (s : State) (l : Nat) (x : Launch) : (s.setLaunch l x).shepFailed = s.shepFailed := rfl
@[simp] theorem setLaunch_shepDead (s : State) (l : Nat) (x : Launch) : (s.setLaunch l x).shepDead = s.shepDead := rfl
@[simp] theorem setLaunch_dieLink (s : State) (l : Nat) (x : Launch) : (s.setLaunch l x).dieLink = s.dieLink := rfl
@[simp] theorem setLaunch_staged (s : State) (l : Nat) (x : Launch) : (s.setLaunch l x).staged = s.staged := rfl
@[simp] theorem setLaunch_running (s : State) (l : Nat) (x : Launch) : (s.setLaunch l x).running = s.running := rfl
@[simp] theorem setLaunch_fusedMin (s : State) (l : Nat) (x : Launch) : (s.setLaunch l x).fusedMin = s.fusedMin := rfl
@[simp] theorem setLaunch_attestations (s : State) (l : Nat) (x : Launch) : (s.setLaunch l x).attestations = s.attestations := rfl
@[simp] theorem setLaunch_lastRec (s : State) (l : Nat) (x : Launch) : (s.setLaunch l x).lastRec = s.lastRec := rfl
@[simp] theorem setLaunch_sysKey (s : State) (l : Nat) (x : Launch) : (s.setLaunch l x).sysKey = s.sysKey := rfl
@[simp] theorem setLaunch_mgmtFailed (s : State) (l : Nat) (x : Launch) : (s.setLaunch l x).mgmtFailed = s.mgmtFailed := rfl
@[simp] theorem setLaunch_chain (s : State) (l : Nat) (x : Launch) : (s.setLaunch l x).chain = s.chain := rfl
@[simp] theorem setLaunch_ats (s : State) (l : Nat) (x : Launch) : (s.setLaunch l x).ats = s.ats := rfl
@[simp] theorem setLaunch_hostReply (s : State) (l : Nat) (x : Launch) : (s.setLaunch l x).hostReply = s.hostReply := rfl
@[simp] theorem setLaunch_msix (s : State) (l : Nat) (x : Launch) : (s.setLaunch l x).msix = s.msix := rfl
@[simp] theorem setLaunch_agenda (s : State) (l : Nat) (x : Launch) : (s.setLaunch l x).agenda = s.agenda := rfl
@[simp] theorem setLaunch_micro (s : State) (l : Nat) (x : Launch) : (s.setLaunch l x).micro = s.micro := rfl
@[simp] theorem setLaunch_cur (s : State) (l : Nat) (x : Launch) : (s.setLaunch l x).cur = s.cur := rfl
@[simp] theorem setLaunch_issuing (s : State) (l : Nat) (x : Launch) : (s.setLaunch l x).issuing = s.issuing := rfl
@[simp] theorem setLaunch_told (s : State) (l : Nat) (x : Launch) : (s.setLaunch l x).told = s.told := rfl
@[simp] theorem setLaunch_fresh (s : State) (l : Nat) (x : Launch) : (s.setLaunch l x).fresh = s.fresh := rfl
@[simp] theorem setLaunch_nextId (s : State) (l : Nat) (x : Launch) : (s.setLaunch l x).nextId = s.nextId := rfl

/-! ## A byte written -/

@[simp] theorem writeByte_now (s : State) (a : Nat) (b : Byte) : (writeByte s a b).now = s.now := rfl
@[simp] theorem writeByte_domCount (s : State) (a : Nat) (b : Byte) : (writeByte s a b).domCount = s.domCount := rfl
@[simp] theorem writeByte_aligned (s : State) (a : Nat) (b : Byte) : (writeByte s a b).aligned = s.aligned := rfl
@[simp] theorem writeByte_up (s : State) (a : Nat) (b : Byte) : (writeByte s a b).up = s.up := rfl
@[simp] theorem writeByte_poison (s : State) (a : Nat) (b : Byte) : (writeByte s a b).poison = s.poison := rfl
@[simp] theorem writeByte_lanes (s : State) (a : Nat) (b : Byte) : (writeByte s a b).lanes = s.lanes := rfl
@[simp] theorem writeByte_ports (s : State) (a : Nat) (b : Byte) : (writeByte s a b).ports = s.ports := rfl
@[simp] theorem writeByte_calendar (s : State) (a : Nat) (b : Byte) : (writeByte s a b).calendar = s.calendar := rfl
@[simp] theorem writeByte_bankErrs (s : State) (a : Nat) (b : Byte) : (writeByte s a b).bankErrs = s.bankErrs := rfl
@[simp] theorem writeByte_flaws (s : State) (a : Nat) (b : Byte) : (writeByte s a b).flaws = s.flaws := rfl
@[simp] theorem writeByte_badCounters (s : State) (a : Nat) (b : Byte) : (writeByte s a b).badCounters = s.badCounters := rfl
@[simp] theorem writeByte_minor (s : State) (a : Nat) (b : Byte) : (writeByte s a b).minor = s.minor := rfl
@[simp] theorem writeByte_major (s : State) (a : Nat) (b : Byte) : (writeByte s a b).major = s.major := rfl
@[simp] theorem writeByte_tree (s : State) (a : Nat) (b : Byte) : (writeByte s a b).tree = s.tree := rfl
@[simp] theorem writeByte_roSets (s : State) (a : Nat) (b : Byte) : (writeByte s a b).roSets = s.roSets := rfl
@[simp] theorem writeByte_reencrypt (s : State) (a : Nat) (b : Byte) : (writeByte s a b).reencrypt = s.reencrypt := rfl
@[simp] theorem writeByte_refreshPlan (s : State) (a : Nat) (b : Byte) : (writeByte s a b).refreshPlan = s.refreshPlan := rfl
@[simp] theorem writeByte_refreshHot (s : State) (a : Nat) (b : Byte) : (writeByte s a b).refreshHot = s.refreshHot := rfl
@[simp] theorem writeByte_takeover (s : State) (a : Nat) (b : Byte) : (writeByte s a b).takeover = s.takeover := rfl
@[simp] theorem writeByte_tsvErrs (s : State) (a : Nat) (b : Byte) : (writeByte s a b).tsvErrs = s.tsvErrs := rfl
@[simp] theorem writeByte_tsvFailed (s : State) (a : Nat) (b : Byte) : (writeByte s a b).tsvFailed = s.tsvFailed := rfl
@[simp] theorem writeByte_tsvSpared (s : State) (a : Nat) (b : Byte) : (writeByte s a b).tsvSpared = s.tsvSpared := rfl
@[simp] theorem writeByte_sweep (s : State) (a : Nat) (b : Byte) : (writeByte s a b).sweep = s.sweep := rfl
@[simp] theorem writeByte_onSpare (s : State) (a : Nat) (b : Byte) : (writeByte s a b).onSpare = s.onSpare := rfl
@[simp] theorem writeByte_setTable (s : State) (a : Nat) (b : Byte) : (writeByte s a b).setTable = s.setTable := rfl
@[simp] theorem writeByte_setApplied (s : State) (a : Nat) (b : Byte) : (writeByte s a b).setApplied = s.setApplied := rfl
@[simp] theorem writeByte_comSet (s : State) (a : Nat) (b : Byte) : (writeByte s a b).comSet = s.comSet := rfl
@[simp] theorem writeByte_comSetApplied (s : State) (a : Nat) (b : Byte) : (writeByte s a b).comSetApplied = s.comSetApplied := rfl
@[simp] theorem writeByte_funcs (s : State) (a : Nat) (b : Byte) : (writeByte s a b).funcs = s.funcs := rfl
@[simp] theorem writeByte_tcache (s : State) (a : Nat) (b : Byte) : (writeByte s a b).tcache = s.tcache := rfl
@[simp] theorem writeByte_shoots (s : State) (a : Nat) (b : Byte) : (writeByte s a b).shoots = s.shoots := rfl
@[simp] theorem writeByte_launches (s : State) (a : Nat) (b : Byte) : (writeByte s a b).launches = s.launches := rfl
@[simp] theorem writeByte_cores (s : State) (a : Nat) (b : Byte) : (writeByte s a b).cores = s.cores := rfl
@[simp] theorem writeByte_checkpoints (s : State) (a : Nat) (b : Byte) : (writeByte s a b).checkpoints = s.checkpoints := rfl
@[simp] theorem writeByte_accesses (s : State) (a : Nat) (b : Byte) : (writeByte s a b).accesses = s.accesses := rfl
@[simp] theorem writeByte_messages (s : State) (a : Nat) (b : Byte) : (writeByte s a b).messages = s.messages := rfl
@[simp] theorem writeByte_arrives (s : State) (a : Nat) (b : Byte) : (writeByte s a b).arrives = s.arrives := rfl
@[simp] theorem writeByte_proposals (s : State) (a : Nat) (b : Byte) : (writeByte s a b).proposals = s.proposals := rfl
@[simp] theorem writeByte_claimWords (s : State) (a : Nat) (b : Byte) : (writeByte s a b).claimWords = s.claimWords := rfl
@[simp] theorem writeByte_samples (s : State) (a : Nat) (b : Byte) : (writeByte s a b).samples = s.samples := rfl
@[simp] theorem writeByte_queues (s : State) (a : Nat) (b : Byte) : (writeByte s a b).queues = s.queues := rfl
@[simp] theorem writeByte_slots (s : State) (a : Nat) (b : Byte) : (writeByte s a b).slots = s.slots := rfl
@[simp] theorem writeByte_reserved (s : State) (a : Nat) (b : Byte) : (writeByte s a b).reserved = s.reserved := rfl
@[simp] theorem writeByte_ramps (s : State) (a : Nat) (b : Byte) : (writeByte s a b).ramps = s.ramps := rfl
@[simp] theorem writeByte_riseNow (s : State) (a : Nat) (b : Byte) : (writeByte s a b).riseNow = s.riseNow := rfl
@[simp] theorem writeByte_fallNow (s : State) (a : Nat) (b : Byte) : (writeByte s a b).fallNow = s.fallNow := rfl
@[simp] theorem writeByte_capNow (s : State) (a : Nat) (b : Byte) : (writeByte s a b).capNow = s.capNow := rfl
@[simp] theorem writeByte_hot (s : State) (a : Nat) (b : Byte) : (writeByte s a b).hot = s.hot := rfl
@[simp] theorem writeByte_govRise (s : State) (a : Nat) (b : Byte) : (writeByte s a b).govRise = s.govRise := rfl
@[simp] theorem writeByte_govFall (s : State) (a : Nat) (b : Byte) : (writeByte s a b).govFall = s.govFall := rfl
@[simp] theorem writeByte_govCap (s : State) (a : Nat) (b : Byte) : (writeByte s a b).govCap = s.govCap := rfl
@[simp] theorem writeByte_directory (s : State) (a : Nat) (b : Byte) : (writeByte s a b).directory = s.directory := rfl
@[simp] theorem writeByte_commonsReqs (s : State) (a : Nat) (b : Byte) : (writeByte s a b).commonsReqs = s.commonsReqs := rfl
@[simp] theorem writeByte_period (s : State) (a : Nat) (b : Byte) : (writeByte s a b).period = s.period := rfl
@[simp] theorem writeByte_hostFn (s : State) (a : Nat) (b : Byte) : (writeByte s a b).hostFn = s.hostFn := rfl
@[simp] theorem writeByte_hostVal (s : State) (a : Nat) (b : Byte) : (writeByte s a b).hostVal = s.hostVal := rfl
@[simp] theorem writeByte_cmd (s : State) (a : Nat) (b : Byte) : (writeByte s a b).cmd = s.cmd := rfl
@[simp] theorem writeByte_operands (s : State) (a : Nat) (b : Byte) : (writeByte s a b).operands = s.operands := rfl
@[simp] theorem writeByte_cmdst (s : State) (a : Nat) (b : Byte) : (writeByte s a b).cmdst = s.cmdst := rfl
@[simp] theorem writeByte_cmdLeft (s : State) (a : Nat) (b : Byte) : (writeByte s a b).cmdLeft = s.cmdLeft := rfl
@[simp] theorem writeByte_devnum (s : State) (a : Nat) (b : Byte) : (writeByte s a b).devnum = s.devnum := rfl
@[simp] theorem writeByte_lschedAt (s : State) (a : Nat) (b : Byte) : (writeByte s a b).lschedAt = s.lschedAt := rfl
@[simp] theorem writeByte_exports (s : State) (a : Nat) (b : Byte) : (writeByte s a b).exports = s.exports := rfl
@[simp] theorem writeByte_routes (s : State) (a : Nat) (b : Byte) : (writeByte s a b).routes = s.routes := rfl
@[simp] theorem writeByte_lsched (s : State) (a : Nat) (b : Byte) : (writeByte s a b).lsched = s.lsched := rfl
@[simp] theorem writeByte_lschedNow (s : State) (a : Nat) (b : Byte) : (writeByte s a b).lschedNow = s.lschedNow := rfl
@[simp] theorem writeByte_links (s : State) (a : Nat) (b : Byte) : (writeByte s a b).links = s.links := rfl
@[simp] theorem writeByte_ctlIn (s : State) (a : Nat) (b : Byte) : (writeByte s a b).ctlIn = s.ctlIn := rfl
@[simp] theorem writeByte_pktIn (s : State) (a : Nat) (b : Byte) : (writeByte s a b).pktIn = s.pktIn := rfl
@[simp] theorem writeByte_remotes (s : State) (a : Nat) (b : Byte) : (writeByte s a b).remotes = s.remotes := rfl
@[simp] theorem writeByte_atomReplies (s : State) (a : Nat) (b : Byte) : (writeByte s a b).atomReplies = s.atomReplies := rfl
@[simp] theorem writeByte_hrBase (s : State) (a : Nat) (b : Byte) : (writeByte s a b).hrBase = s.hrBase := rfl
@[simp] theorem writeByte_hrHead (s : State) (a : Nat) (b : Byte) : (writeByte s a b).hrHead = s.hrHead := rfl
@[simp] theorem writeByte_hrTail (s : State) (a : Nat) (b : Byte) : (writeByte s a b).hrTail = s.hrTail := rfl
@[simp] theorem writeByte_hrLost (s : State) (a : Nat) (b : Byte) : (writeByte s a b).hrLost = s.hrLost := rfl
@[simp] theorem writeByte_hrHeld (s : State) (a : Nat) (b : Byte) : (writeByte s a b).hrHeld = s.hrHeld := rfl
@[simp] theorem writeByte_hrCounts (s : State) (a : Nat) (b : Byte) : (writeByte s a b).hrCounts = s.hrCounts := rfl
@[simp] theorem writeByte_hrLog (s : State) (a : Nat) (b : Byte) : (writeByte s a b).hrLog = s.hrLog := rfl
@[simp] theorem writeByte_dumpBase (s : State) (a : Nat) (b : Byte) : (writeByte s a b).dumpBase = s.dumpBase := rfl
@[simp] theorem writeByte_dumpSize (s : State) (a : Nat) (b : Byte) : (writeByte s a b).dumpSize = s.dumpSize := rfl
@[simp] theorem writeByte_fused (s : State) (a : Nat) (b : Byte) : (writeByte s a b).fused = s.fused := rfl
@[simp] theorem writeByte_spareDue (s : State) (a : Nat) (b : Byte) : (writeByte s a b).spareDue = s.spareDue := rfl
@[simp] theorem writeByte_bankBusy (s : State) (a : Nat) (b : Byte) : (writeByte s a b).bankBusy = s.bankBusy := rfl
@[simp] theorem writeByte_outOfService (s : State) (a : Nat) (b : Byte) : (writeByte s a b).outOfService = s.outOfService := rfl
@[simp] theorem writeByte_coresLost (s : State) (a : Nat) (b : Byte) : (writeByte s a b).coresLost = s.coresLost := rfl
@[simp] theorem writeByte_rollTimes (s : State) (a : Nat) (b : Byte) : (writeByte s a b).rollTimes = s.rollTimes := rfl
@[simp] theorem writeByte_shepFailed (s : State) (a : Nat) (b : Byte) : (writeByte s a b).shepFailed = s.shepFailed := rfl
@[simp] theorem writeByte_shepDead (s : State) (a : Nat) (b : Byte) : (writeByte s a b).shepDead = s.shepDead := rfl
@[simp] theorem writeByte_dieLink (s : State) (a : Nat) (b : Byte) : (writeByte s a b).dieLink = s.dieLink := rfl
@[simp] theorem writeByte_staged (s : State) (a : Nat) (b : Byte) : (writeByte s a b).staged = s.staged := rfl
@[simp] theorem writeByte_running (s : State) (a : Nat) (b : Byte) : (writeByte s a b).running = s.running := rfl
@[simp] theorem writeByte_fusedMin (s : State) (a : Nat) (b : Byte) : (writeByte s a b).fusedMin = s.fusedMin := rfl
@[simp] theorem writeByte_attestations (s : State) (a : Nat) (b : Byte) : (writeByte s a b).attestations = s.attestations := rfl
@[simp] theorem writeByte_lastRec (s : State) (a : Nat) (b : Byte) : (writeByte s a b).lastRec = s.lastRec := rfl
@[simp] theorem writeByte_sysKey (s : State) (a : Nat) (b : Byte) : (writeByte s a b).sysKey = s.sysKey := rfl
@[simp] theorem writeByte_mgmtFailed (s : State) (a : Nat) (b : Byte) : (writeByte s a b).mgmtFailed = s.mgmtFailed := rfl
@[simp] theorem writeByte_chain (s : State) (a : Nat) (b : Byte) : (writeByte s a b).chain = s.chain := rfl
@[simp] theorem writeByte_ats (s : State) (a : Nat) (b : Byte) : (writeByte s a b).ats = s.ats := rfl
@[simp] theorem writeByte_hostReply (s : State) (a : Nat) (b : Byte) : (writeByte s a b).hostReply = s.hostReply := rfl
@[simp] theorem writeByte_msix (s : State) (a : Nat) (b : Byte) : (writeByte s a b).msix = s.msix := rfl
@[simp] theorem writeByte_agenda (s : State) (a : Nat) (b : Byte) : (writeByte s a b).agenda = s.agenda := rfl
@[simp] theorem writeByte_micro (s : State) (a : Nat) (b : Byte) : (writeByte s a b).micro = s.micro := rfl
@[simp] theorem writeByte_cur (s : State) (a : Nat) (b : Byte) : (writeByte s a b).cur = s.cur := rfl
@[simp] theorem writeByte_issuing (s : State) (a : Nat) (b : Byte) : (writeByte s a b).issuing = s.issuing := rfl
@[simp] theorem writeByte_told (s : State) (a : Nat) (b : Byte) : (writeByte s a b).told = s.told := rfl
@[simp] theorem writeByte_fresh (s : State) (a : Nat) (b : Byte) : (writeByte s a b).fresh = s.fresh := rfl
@[simp] theorem writeByte_nextId (s : State) (a : Nat) (b : Byte) : (writeByte s a b).nextId = s.nextId := rfl

/-! ## A step made due -/

@[simp] theorem due_now (s : State) (t k : Nat) (i : Instr) : (s.due t k i).now = s.now := rfl
@[simp] theorem due_domCount (s : State) (t k : Nat) (i : Instr) : (s.due t k i).domCount = s.domCount := rfl
@[simp] theorem due_aligned (s : State) (t k : Nat) (i : Instr) : (s.due t k i).aligned = s.aligned := rfl
@[simp] theorem due_up (s : State) (t k : Nat) (i : Instr) : (s.due t k i).up = s.up := rfl
@[simp] theorem due_mem (s : State) (t k : Nat) (i : Instr) : (s.due t k i).mem = s.mem := rfl
@[simp] theorem due_poison (s : State) (t k : Nat) (i : Instr) : (s.due t k i).poison = s.poison := rfl
@[simp] theorem due_lanes (s : State) (t k : Nat) (i : Instr) : (s.due t k i).lanes = s.lanes := rfl
@[simp] theorem due_ports (s : State) (t k : Nat) (i : Instr) : (s.due t k i).ports = s.ports := rfl
@[simp] theorem due_calendar (s : State) (t k : Nat) (i : Instr) : (s.due t k i).calendar = s.calendar := rfl
@[simp] theorem due_bankErrs (s : State) (t k : Nat) (i : Instr) : (s.due t k i).bankErrs = s.bankErrs := rfl
@[simp] theorem due_flaws (s : State) (t k : Nat) (i : Instr) : (s.due t k i).flaws = s.flaws := rfl
@[simp] theorem due_badCounters (s : State) (t k : Nat) (i : Instr) : (s.due t k i).badCounters = s.badCounters := rfl
@[simp] theorem due_minor (s : State) (t k : Nat) (i : Instr) : (s.due t k i).minor = s.minor := rfl
@[simp] theorem due_major (s : State) (t k : Nat) (i : Instr) : (s.due t k i).major = s.major := rfl
@[simp] theorem due_tree (s : State) (t k : Nat) (i : Instr) : (s.due t k i).tree = s.tree := rfl
@[simp] theorem due_roSets (s : State) (t k : Nat) (i : Instr) : (s.due t k i).roSets = s.roSets := rfl
@[simp] theorem due_reencrypt (s : State) (t k : Nat) (i : Instr) : (s.due t k i).reencrypt = s.reencrypt := rfl
@[simp] theorem due_refreshPlan (s : State) (t k : Nat) (i : Instr) : (s.due t k i).refreshPlan = s.refreshPlan := rfl
@[simp] theorem due_refreshHot (s : State) (t k : Nat) (i : Instr) : (s.due t k i).refreshHot = s.refreshHot := rfl
@[simp] theorem due_takeover (s : State) (t k : Nat) (i : Instr) : (s.due t k i).takeover = s.takeover := rfl
@[simp] theorem due_tsvErrs (s : State) (t k : Nat) (i : Instr) : (s.due t k i).tsvErrs = s.tsvErrs := rfl
@[simp] theorem due_tsvFailed (s : State) (t k : Nat) (i : Instr) : (s.due t k i).tsvFailed = s.tsvFailed := rfl
@[simp] theorem due_tsvSpared (s : State) (t k : Nat) (i : Instr) : (s.due t k i).tsvSpared = s.tsvSpared := rfl
@[simp] theorem due_sweep (s : State) (t k : Nat) (i : Instr) : (s.due t k i).sweep = s.sweep := rfl
@[simp] theorem due_onSpare (s : State) (t k : Nat) (i : Instr) : (s.due t k i).onSpare = s.onSpare := rfl
@[simp] theorem due_setTable (s : State) (t k : Nat) (i : Instr) : (s.due t k i).setTable = s.setTable := rfl
@[simp] theorem due_setApplied (s : State) (t k : Nat) (i : Instr) : (s.due t k i).setApplied = s.setApplied := rfl
@[simp] theorem due_comSet (s : State) (t k : Nat) (i : Instr) : (s.due t k i).comSet = s.comSet := rfl
@[simp] theorem due_comSetApplied (s : State) (t k : Nat) (i : Instr) : (s.due t k i).comSetApplied = s.comSetApplied := rfl
@[simp] theorem due_funcs (s : State) (t k : Nat) (i : Instr) : (s.due t k i).funcs = s.funcs := rfl
@[simp] theorem due_tcache (s : State) (t k : Nat) (i : Instr) : (s.due t k i).tcache = s.tcache := rfl
@[simp] theorem due_shoots (s : State) (t k : Nat) (i : Instr) : (s.due t k i).shoots = s.shoots := rfl
@[simp] theorem due_launches (s : State) (t k : Nat) (i : Instr) : (s.due t k i).launches = s.launches := rfl
@[simp] theorem due_cores (s : State) (t k : Nat) (i : Instr) : (s.due t k i).cores = s.cores := rfl
@[simp] theorem due_checkpoints (s : State) (t k : Nat) (i : Instr) : (s.due t k i).checkpoints = s.checkpoints := rfl
@[simp] theorem due_accesses (s : State) (t k : Nat) (i : Instr) : (s.due t k i).accesses = s.accesses := rfl
@[simp] theorem due_messages (s : State) (t k : Nat) (i : Instr) : (s.due t k i).messages = s.messages := rfl
@[simp] theorem due_arrives (s : State) (t k : Nat) (i : Instr) : (s.due t k i).arrives = s.arrives := rfl
@[simp] theorem due_proposals (s : State) (t k : Nat) (i : Instr) : (s.due t k i).proposals = s.proposals := rfl
@[simp] theorem due_claimWords (s : State) (t k : Nat) (i : Instr) : (s.due t k i).claimWords = s.claimWords := rfl
@[simp] theorem due_samples (s : State) (t k : Nat) (i : Instr) : (s.due t k i).samples = s.samples := rfl
@[simp] theorem due_queues (s : State) (t k : Nat) (i : Instr) : (s.due t k i).queues = s.queues := rfl
@[simp] theorem due_slots (s : State) (t k : Nat) (i : Instr) : (s.due t k i).slots = s.slots := rfl
@[simp] theorem due_reserved (s : State) (t k : Nat) (i : Instr) : (s.due t k i).reserved = s.reserved := rfl
@[simp] theorem due_ramps (s : State) (t k : Nat) (i : Instr) : (s.due t k i).ramps = s.ramps := rfl
@[simp] theorem due_riseNow (s : State) (t k : Nat) (i : Instr) : (s.due t k i).riseNow = s.riseNow := rfl
@[simp] theorem due_fallNow (s : State) (t k : Nat) (i : Instr) : (s.due t k i).fallNow = s.fallNow := rfl
@[simp] theorem due_capNow (s : State) (t k : Nat) (i : Instr) : (s.due t k i).capNow = s.capNow := rfl
@[simp] theorem due_hot (s : State) (t k : Nat) (i : Instr) : (s.due t k i).hot = s.hot := rfl
@[simp] theorem due_govRise (s : State) (t k : Nat) (i : Instr) : (s.due t k i).govRise = s.govRise := rfl
@[simp] theorem due_govFall (s : State) (t k : Nat) (i : Instr) : (s.due t k i).govFall = s.govFall := rfl
@[simp] theorem due_govCap (s : State) (t k : Nat) (i : Instr) : (s.due t k i).govCap = s.govCap := rfl
@[simp] theorem due_directory (s : State) (t k : Nat) (i : Instr) : (s.due t k i).directory = s.directory := rfl
@[simp] theorem due_commonsReqs (s : State) (t k : Nat) (i : Instr) : (s.due t k i).commonsReqs = s.commonsReqs := rfl
@[simp] theorem due_period (s : State) (t k : Nat) (i : Instr) : (s.due t k i).period = s.period := rfl
@[simp] theorem due_hostFn (s : State) (t k : Nat) (i : Instr) : (s.due t k i).hostFn = s.hostFn := rfl
@[simp] theorem due_hostVal (s : State) (t k : Nat) (i : Instr) : (s.due t k i).hostVal = s.hostVal := rfl
@[simp] theorem due_cmd (s : State) (t k : Nat) (i : Instr) : (s.due t k i).cmd = s.cmd := rfl
@[simp] theorem due_operands (s : State) (t k : Nat) (i : Instr) : (s.due t k i).operands = s.operands := rfl
@[simp] theorem due_cmdst (s : State) (t k : Nat) (i : Instr) : (s.due t k i).cmdst = s.cmdst := rfl
@[simp] theorem due_cmdLeft (s : State) (t k : Nat) (i : Instr) : (s.due t k i).cmdLeft = s.cmdLeft := rfl
@[simp] theorem due_devnum (s : State) (t k : Nat) (i : Instr) : (s.due t k i).devnum = s.devnum := rfl
@[simp] theorem due_lschedAt (s : State) (t k : Nat) (i : Instr) : (s.due t k i).lschedAt = s.lschedAt := rfl
@[simp] theorem due_exports (s : State) (t k : Nat) (i : Instr) : (s.due t k i).exports = s.exports := rfl
@[simp] theorem due_routes (s : State) (t k : Nat) (i : Instr) : (s.due t k i).routes = s.routes := rfl
@[simp] theorem due_lsched (s : State) (t k : Nat) (i : Instr) : (s.due t k i).lsched = s.lsched := rfl
@[simp] theorem due_lschedNow (s : State) (t k : Nat) (i : Instr) : (s.due t k i).lschedNow = s.lschedNow := rfl
@[simp] theorem due_links (s : State) (t k : Nat) (i : Instr) : (s.due t k i).links = s.links := rfl
@[simp] theorem due_ctlIn (s : State) (t k : Nat) (i : Instr) : (s.due t k i).ctlIn = s.ctlIn := rfl
@[simp] theorem due_pktIn (s : State) (t k : Nat) (i : Instr) : (s.due t k i).pktIn = s.pktIn := rfl
@[simp] theorem due_remotes (s : State) (t k : Nat) (i : Instr) : (s.due t k i).remotes = s.remotes := rfl
@[simp] theorem due_atomReplies (s : State) (t k : Nat) (i : Instr) : (s.due t k i).atomReplies = s.atomReplies := rfl
@[simp] theorem due_hrBase (s : State) (t k : Nat) (i : Instr) : (s.due t k i).hrBase = s.hrBase := rfl
@[simp] theorem due_hrHead (s : State) (t k : Nat) (i : Instr) : (s.due t k i).hrHead = s.hrHead := rfl
@[simp] theorem due_hrTail (s : State) (t k : Nat) (i : Instr) : (s.due t k i).hrTail = s.hrTail := rfl
@[simp] theorem due_hrLost (s : State) (t k : Nat) (i : Instr) : (s.due t k i).hrLost = s.hrLost := rfl
@[simp] theorem due_hrHeld (s : State) (t k : Nat) (i : Instr) : (s.due t k i).hrHeld = s.hrHeld := rfl
@[simp] theorem due_hrCounts (s : State) (t k : Nat) (i : Instr) : (s.due t k i).hrCounts = s.hrCounts := rfl
@[simp] theorem due_hrLog (s : State) (t k : Nat) (i : Instr) : (s.due t k i).hrLog = s.hrLog := rfl
@[simp] theorem due_dumpBase (s : State) (t k : Nat) (i : Instr) : (s.due t k i).dumpBase = s.dumpBase := rfl
@[simp] theorem due_dumpSize (s : State) (t k : Nat) (i : Instr) : (s.due t k i).dumpSize = s.dumpSize := rfl
@[simp] theorem due_fused (s : State) (t k : Nat) (i : Instr) : (s.due t k i).fused = s.fused := rfl
@[simp] theorem due_spareDue (s : State) (t k : Nat) (i : Instr) : (s.due t k i).spareDue = s.spareDue := rfl
@[simp] theorem due_bankBusy (s : State) (t k : Nat) (i : Instr) : (s.due t k i).bankBusy = s.bankBusy := rfl
@[simp] theorem due_outOfService (s : State) (t k : Nat) (i : Instr) : (s.due t k i).outOfService = s.outOfService := rfl
@[simp] theorem due_coresLost (s : State) (t k : Nat) (i : Instr) : (s.due t k i).coresLost = s.coresLost := rfl
@[simp] theorem due_rollTimes (s : State) (t k : Nat) (i : Instr) : (s.due t k i).rollTimes = s.rollTimes := rfl
@[simp] theorem due_shepFailed (s : State) (t k : Nat) (i : Instr) : (s.due t k i).shepFailed = s.shepFailed := rfl
@[simp] theorem due_shepDead (s : State) (t k : Nat) (i : Instr) : (s.due t k i).shepDead = s.shepDead := rfl
@[simp] theorem due_dieLink (s : State) (t k : Nat) (i : Instr) : (s.due t k i).dieLink = s.dieLink := rfl
@[simp] theorem due_staged (s : State) (t k : Nat) (i : Instr) : (s.due t k i).staged = s.staged := rfl
@[simp] theorem due_running (s : State) (t k : Nat) (i : Instr) : (s.due t k i).running = s.running := rfl
@[simp] theorem due_fusedMin (s : State) (t k : Nat) (i : Instr) : (s.due t k i).fusedMin = s.fusedMin := rfl
@[simp] theorem due_attestations (s : State) (t k : Nat) (i : Instr) : (s.due t k i).attestations = s.attestations := rfl
@[simp] theorem due_lastRec (s : State) (t k : Nat) (i : Instr) : (s.due t k i).lastRec = s.lastRec := rfl
@[simp] theorem due_sysKey (s : State) (t k : Nat) (i : Instr) : (s.due t k i).sysKey = s.sysKey := rfl
@[simp] theorem due_mgmtFailed (s : State) (t k : Nat) (i : Instr) : (s.due t k i).mgmtFailed = s.mgmtFailed := rfl
@[simp] theorem due_chain (s : State) (t k : Nat) (i : Instr) : (s.due t k i).chain = s.chain := rfl
@[simp] theorem due_ats (s : State) (t k : Nat) (i : Instr) : (s.due t k i).ats = s.ats := rfl
@[simp] theorem due_hostReply (s : State) (t k : Nat) (i : Instr) : (s.due t k i).hostReply = s.hostReply := rfl
@[simp] theorem due_msix (s : State) (t k : Nat) (i : Instr) : (s.due t k i).msix = s.msix := rfl
@[simp] theorem due_micro (s : State) (t k : Nat) (i : Instr) : (s.due t k i).micro = s.micro := rfl
@[simp] theorem due_cur (s : State) (t k : Nat) (i : Instr) : (s.due t k i).cur = s.cur := rfl
@[simp] theorem due_issuing (s : State) (t k : Nat) (i : Instr) : (s.due t k i).issuing = s.issuing := rfl
@[simp] theorem due_told (s : State) (t k : Nat) (i : Instr) : (s.due t k i).told = s.told := rfl
@[simp] theorem due_fresh (s : State) (t k : Nat) (i : Instr) : (s.due t k i).fresh = s.fresh := rfl
@[simp] theorem due_nextId (s : State) (t k : Nat) (i : Instr) : (s.due t k i).nextId = s.nextId := rfl

/-! ## A function changed -/

@[simp] theorem updFunc_now (s : State) (f : Nat) (u : Func → Func) : (s.updFunc f u).now = s.now := rfl
@[simp] theorem updFunc_domCount (s : State) (f : Nat) (u : Func → Func) : (s.updFunc f u).domCount = s.domCount := rfl
@[simp] theorem updFunc_aligned (s : State) (f : Nat) (u : Func → Func) : (s.updFunc f u).aligned = s.aligned := rfl
@[simp] theorem updFunc_up (s : State) (f : Nat) (u : Func → Func) : (s.updFunc f u).up = s.up := rfl
@[simp] theorem updFunc_mem (s : State) (f : Nat) (u : Func → Func) : (s.updFunc f u).mem = s.mem := rfl
@[simp] theorem updFunc_poison (s : State) (f : Nat) (u : Func → Func) : (s.updFunc f u).poison = s.poison := rfl
@[simp] theorem updFunc_lanes (s : State) (f : Nat) (u : Func → Func) : (s.updFunc f u).lanes = s.lanes := rfl
@[simp] theorem updFunc_ports (s : State) (f : Nat) (u : Func → Func) : (s.updFunc f u).ports = s.ports := rfl
@[simp] theorem updFunc_calendar (s : State) (f : Nat) (u : Func → Func) : (s.updFunc f u).calendar = s.calendar := rfl
@[simp] theorem updFunc_bankErrs (s : State) (f : Nat) (u : Func → Func) : (s.updFunc f u).bankErrs = s.bankErrs := rfl
@[simp] theorem updFunc_flaws (s : State) (f : Nat) (u : Func → Func) : (s.updFunc f u).flaws = s.flaws := rfl
@[simp] theorem updFunc_badCounters (s : State) (f : Nat) (u : Func → Func) : (s.updFunc f u).badCounters = s.badCounters := rfl
@[simp] theorem updFunc_minor (s : State) (f : Nat) (u : Func → Func) : (s.updFunc f u).minor = s.minor := rfl
@[simp] theorem updFunc_major (s : State) (f : Nat) (u : Func → Func) : (s.updFunc f u).major = s.major := rfl
@[simp] theorem updFunc_tree (s : State) (f : Nat) (u : Func → Func) : (s.updFunc f u).tree = s.tree := rfl
@[simp] theorem updFunc_roSets (s : State) (f : Nat) (u : Func → Func) : (s.updFunc f u).roSets = s.roSets := rfl
@[simp] theorem updFunc_reencrypt (s : State) (f : Nat) (u : Func → Func) : (s.updFunc f u).reencrypt = s.reencrypt := rfl
@[simp] theorem updFunc_refreshPlan (s : State) (f : Nat) (u : Func → Func) : (s.updFunc f u).refreshPlan = s.refreshPlan := rfl
@[simp] theorem updFunc_refreshHot (s : State) (f : Nat) (u : Func → Func) : (s.updFunc f u).refreshHot = s.refreshHot := rfl
@[simp] theorem updFunc_takeover (s : State) (f : Nat) (u : Func → Func) : (s.updFunc f u).takeover = s.takeover := rfl
@[simp] theorem updFunc_tsvErrs (s : State) (f : Nat) (u : Func → Func) : (s.updFunc f u).tsvErrs = s.tsvErrs := rfl
@[simp] theorem updFunc_tsvFailed (s : State) (f : Nat) (u : Func → Func) : (s.updFunc f u).tsvFailed = s.tsvFailed := rfl
@[simp] theorem updFunc_tsvSpared (s : State) (f : Nat) (u : Func → Func) : (s.updFunc f u).tsvSpared = s.tsvSpared := rfl
@[simp] theorem updFunc_sweep (s : State) (f : Nat) (u : Func → Func) : (s.updFunc f u).sweep = s.sweep := rfl
@[simp] theorem updFunc_onSpare (s : State) (f : Nat) (u : Func → Func) : (s.updFunc f u).onSpare = s.onSpare := rfl
@[simp] theorem updFunc_setTable (s : State) (f : Nat) (u : Func → Func) : (s.updFunc f u).setTable = s.setTable := rfl
@[simp] theorem updFunc_setApplied (s : State) (f : Nat) (u : Func → Func) : (s.updFunc f u).setApplied = s.setApplied := rfl
@[simp] theorem updFunc_comSet (s : State) (f : Nat) (u : Func → Func) : (s.updFunc f u).comSet = s.comSet := rfl
@[simp] theorem updFunc_comSetApplied (s : State) (f : Nat) (u : Func → Func) : (s.updFunc f u).comSetApplied = s.comSetApplied := rfl
@[simp] theorem updFunc_tcache (s : State) (f : Nat) (u : Func → Func) : (s.updFunc f u).tcache = s.tcache := rfl
@[simp] theorem updFunc_shoots (s : State) (f : Nat) (u : Func → Func) : (s.updFunc f u).shoots = s.shoots := rfl
@[simp] theorem updFunc_launches (s : State) (f : Nat) (u : Func → Func) : (s.updFunc f u).launches = s.launches := rfl
@[simp] theorem updFunc_cores (s : State) (f : Nat) (u : Func → Func) : (s.updFunc f u).cores = s.cores := rfl
@[simp] theorem updFunc_checkpoints (s : State) (f : Nat) (u : Func → Func) : (s.updFunc f u).checkpoints = s.checkpoints := rfl
@[simp] theorem updFunc_accesses (s : State) (f : Nat) (u : Func → Func) : (s.updFunc f u).accesses = s.accesses := rfl
@[simp] theorem updFunc_messages (s : State) (f : Nat) (u : Func → Func) : (s.updFunc f u).messages = s.messages := rfl
@[simp] theorem updFunc_arrives (s : State) (f : Nat) (u : Func → Func) : (s.updFunc f u).arrives = s.arrives := rfl
@[simp] theorem updFunc_proposals (s : State) (f : Nat) (u : Func → Func) : (s.updFunc f u).proposals = s.proposals := rfl
@[simp] theorem updFunc_claimWords (s : State) (f : Nat) (u : Func → Func) : (s.updFunc f u).claimWords = s.claimWords := rfl
@[simp] theorem updFunc_samples (s : State) (f : Nat) (u : Func → Func) : (s.updFunc f u).samples = s.samples := rfl
@[simp] theorem updFunc_queues (s : State) (f : Nat) (u : Func → Func) : (s.updFunc f u).queues = s.queues := rfl
@[simp] theorem updFunc_slots (s : State) (f : Nat) (u : Func → Func) : (s.updFunc f u).slots = s.slots := rfl
@[simp] theorem updFunc_reserved (s : State) (f : Nat) (u : Func → Func) : (s.updFunc f u).reserved = s.reserved := rfl
@[simp] theorem updFunc_ramps (s : State) (f : Nat) (u : Func → Func) : (s.updFunc f u).ramps = s.ramps := rfl
@[simp] theorem updFunc_riseNow (s : State) (f : Nat) (u : Func → Func) : (s.updFunc f u).riseNow = s.riseNow := rfl
@[simp] theorem updFunc_fallNow (s : State) (f : Nat) (u : Func → Func) : (s.updFunc f u).fallNow = s.fallNow := rfl
@[simp] theorem updFunc_capNow (s : State) (f : Nat) (u : Func → Func) : (s.updFunc f u).capNow = s.capNow := rfl
@[simp] theorem updFunc_hot (s : State) (f : Nat) (u : Func → Func) : (s.updFunc f u).hot = s.hot := rfl
@[simp] theorem updFunc_govRise (s : State) (f : Nat) (u : Func → Func) : (s.updFunc f u).govRise = s.govRise := rfl
@[simp] theorem updFunc_govFall (s : State) (f : Nat) (u : Func → Func) : (s.updFunc f u).govFall = s.govFall := rfl
@[simp] theorem updFunc_govCap (s : State) (f : Nat) (u : Func → Func) : (s.updFunc f u).govCap = s.govCap := rfl
@[simp] theorem updFunc_directory (s : State) (f : Nat) (u : Func → Func) : (s.updFunc f u).directory = s.directory := rfl
@[simp] theorem updFunc_commonsReqs (s : State) (f : Nat) (u : Func → Func) : (s.updFunc f u).commonsReqs = s.commonsReqs := rfl
@[simp] theorem updFunc_period (s : State) (f : Nat) (u : Func → Func) : (s.updFunc f u).period = s.period := rfl
@[simp] theorem updFunc_hostFn (s : State) (f : Nat) (u : Func → Func) : (s.updFunc f u).hostFn = s.hostFn := rfl
@[simp] theorem updFunc_hostVal (s : State) (f : Nat) (u : Func → Func) : (s.updFunc f u).hostVal = s.hostVal := rfl
@[simp] theorem updFunc_cmd (s : State) (f : Nat) (u : Func → Func) : (s.updFunc f u).cmd = s.cmd := rfl
@[simp] theorem updFunc_operands (s : State) (f : Nat) (u : Func → Func) : (s.updFunc f u).operands = s.operands := rfl
@[simp] theorem updFunc_cmdst (s : State) (f : Nat) (u : Func → Func) : (s.updFunc f u).cmdst = s.cmdst := rfl
@[simp] theorem updFunc_cmdLeft (s : State) (f : Nat) (u : Func → Func) : (s.updFunc f u).cmdLeft = s.cmdLeft := rfl
@[simp] theorem updFunc_devnum (s : State) (f : Nat) (u : Func → Func) : (s.updFunc f u).devnum = s.devnum := rfl
@[simp] theorem updFunc_lschedAt (s : State) (f : Nat) (u : Func → Func) : (s.updFunc f u).lschedAt = s.lschedAt := rfl
@[simp] theorem updFunc_exports (s : State) (f : Nat) (u : Func → Func) : (s.updFunc f u).exports = s.exports := rfl
@[simp] theorem updFunc_routes (s : State) (f : Nat) (u : Func → Func) : (s.updFunc f u).routes = s.routes := rfl
@[simp] theorem updFunc_lsched (s : State) (f : Nat) (u : Func → Func) : (s.updFunc f u).lsched = s.lsched := rfl
@[simp] theorem updFunc_lschedNow (s : State) (f : Nat) (u : Func → Func) : (s.updFunc f u).lschedNow = s.lschedNow := rfl
@[simp] theorem updFunc_links (s : State) (f : Nat) (u : Func → Func) : (s.updFunc f u).links = s.links := rfl
@[simp] theorem updFunc_ctlIn (s : State) (f : Nat) (u : Func → Func) : (s.updFunc f u).ctlIn = s.ctlIn := rfl
@[simp] theorem updFunc_pktIn (s : State) (f : Nat) (u : Func → Func) : (s.updFunc f u).pktIn = s.pktIn := rfl
@[simp] theorem updFunc_remotes (s : State) (f : Nat) (u : Func → Func) : (s.updFunc f u).remotes = s.remotes := rfl
@[simp] theorem updFunc_atomReplies (s : State) (f : Nat) (u : Func → Func) : (s.updFunc f u).atomReplies = s.atomReplies := rfl
@[simp] theorem updFunc_hrBase (s : State) (f : Nat) (u : Func → Func) : (s.updFunc f u).hrBase = s.hrBase := rfl
@[simp] theorem updFunc_hrHead (s : State) (f : Nat) (u : Func → Func) : (s.updFunc f u).hrHead = s.hrHead := rfl
@[simp] theorem updFunc_hrTail (s : State) (f : Nat) (u : Func → Func) : (s.updFunc f u).hrTail = s.hrTail := rfl
@[simp] theorem updFunc_hrLost (s : State) (f : Nat) (u : Func → Func) : (s.updFunc f u).hrLost = s.hrLost := rfl
@[simp] theorem updFunc_hrHeld (s : State) (f : Nat) (u : Func → Func) : (s.updFunc f u).hrHeld = s.hrHeld := rfl
@[simp] theorem updFunc_hrCounts (s : State) (f : Nat) (u : Func → Func) : (s.updFunc f u).hrCounts = s.hrCounts := rfl
@[simp] theorem updFunc_hrLog (s : State) (f : Nat) (u : Func → Func) : (s.updFunc f u).hrLog = s.hrLog := rfl
@[simp] theorem updFunc_dumpBase (s : State) (f : Nat) (u : Func → Func) : (s.updFunc f u).dumpBase = s.dumpBase := rfl
@[simp] theorem updFunc_dumpSize (s : State) (f : Nat) (u : Func → Func) : (s.updFunc f u).dumpSize = s.dumpSize := rfl
@[simp] theorem updFunc_fused (s : State) (f : Nat) (u : Func → Func) : (s.updFunc f u).fused = s.fused := rfl
@[simp] theorem updFunc_spareDue (s : State) (f : Nat) (u : Func → Func) : (s.updFunc f u).spareDue = s.spareDue := rfl
@[simp] theorem updFunc_bankBusy (s : State) (f : Nat) (u : Func → Func) : (s.updFunc f u).bankBusy = s.bankBusy := rfl
@[simp] theorem updFunc_outOfService (s : State) (f : Nat) (u : Func → Func) : (s.updFunc f u).outOfService = s.outOfService := rfl
@[simp] theorem updFunc_coresLost (s : State) (f : Nat) (u : Func → Func) : (s.updFunc f u).coresLost = s.coresLost := rfl
@[simp] theorem updFunc_rollTimes (s : State) (f : Nat) (u : Func → Func) : (s.updFunc f u).rollTimes = s.rollTimes := rfl
@[simp] theorem updFunc_shepFailed (s : State) (f : Nat) (u : Func → Func) : (s.updFunc f u).shepFailed = s.shepFailed := rfl
@[simp] theorem updFunc_shepDead (s : State) (f : Nat) (u : Func → Func) : (s.updFunc f u).shepDead = s.shepDead := rfl
@[simp] theorem updFunc_dieLink (s : State) (f : Nat) (u : Func → Func) : (s.updFunc f u).dieLink = s.dieLink := rfl
@[simp] theorem updFunc_staged (s : State) (f : Nat) (u : Func → Func) : (s.updFunc f u).staged = s.staged := rfl
@[simp] theorem updFunc_running (s : State) (f : Nat) (u : Func → Func) : (s.updFunc f u).running = s.running := rfl
@[simp] theorem updFunc_fusedMin (s : State) (f : Nat) (u : Func → Func) : (s.updFunc f u).fusedMin = s.fusedMin := rfl
@[simp] theorem updFunc_attestations (s : State) (f : Nat) (u : Func → Func) : (s.updFunc f u).attestations = s.attestations := rfl
@[simp] theorem updFunc_lastRec (s : State) (f : Nat) (u : Func → Func) : (s.updFunc f u).lastRec = s.lastRec := rfl
@[simp] theorem updFunc_sysKey (s : State) (f : Nat) (u : Func → Func) : (s.updFunc f u).sysKey = s.sysKey := rfl
@[simp] theorem updFunc_mgmtFailed (s : State) (f : Nat) (u : Func → Func) : (s.updFunc f u).mgmtFailed = s.mgmtFailed := rfl
@[simp] theorem updFunc_chain (s : State) (f : Nat) (u : Func → Func) : (s.updFunc f u).chain = s.chain := rfl
@[simp] theorem updFunc_ats (s : State) (f : Nat) (u : Func → Func) : (s.updFunc f u).ats = s.ats := rfl
@[simp] theorem updFunc_hostReply (s : State) (f : Nat) (u : Func → Func) : (s.updFunc f u).hostReply = s.hostReply := rfl
@[simp] theorem updFunc_msix (s : State) (f : Nat) (u : Func → Func) : (s.updFunc f u).msix = s.msix := rfl
@[simp] theorem updFunc_agenda (s : State) (f : Nat) (u : Func → Func) : (s.updFunc f u).agenda = s.agenda := rfl
@[simp] theorem updFunc_micro (s : State) (f : Nat) (u : Func → Func) : (s.updFunc f u).micro = s.micro := rfl
@[simp] theorem updFunc_cur (s : State) (f : Nat) (u : Func → Func) : (s.updFunc f u).cur = s.cur := rfl
@[simp] theorem updFunc_issuing (s : State) (f : Nat) (u : Func → Func) : (s.updFunc f u).issuing = s.issuing := rfl
@[simp] theorem updFunc_told (s : State) (f : Nat) (u : Func → Func) : (s.updFunc f u).told = s.told := rfl
@[simp] theorem updFunc_fresh (s : State) (f : Nat) (u : Func → Func) : (s.updFunc f u).fresh = s.fresh := rfl
@[simp] theorem updFunc_nextId (s : State) (f : Nat) (u : Func → Func) : (s.updFunc f u).nextId = s.nextId := rfl

/-! ## A record kept -/

@[simp] theorem keepRecord_now (s : State) (g : Nat) (ws : List Word) : (s.keepRecord g ws).now = s.now := rfl
@[simp] theorem keepRecord_domCount (s : State) (g : Nat) (ws : List Word) : (s.keepRecord g ws).domCount = s.domCount := rfl
@[simp] theorem keepRecord_aligned (s : State) (g : Nat) (ws : List Word) : (s.keepRecord g ws).aligned = s.aligned := rfl
@[simp] theorem keepRecord_up (s : State) (g : Nat) (ws : List Word) : (s.keepRecord g ws).up = s.up := rfl
@[simp] theorem keepRecord_mem (s : State) (g : Nat) (ws : List Word) : (s.keepRecord g ws).mem = s.mem := rfl
@[simp] theorem keepRecord_poison (s : State) (g : Nat) (ws : List Word) : (s.keepRecord g ws).poison = s.poison := rfl
@[simp] theorem keepRecord_lanes (s : State) (g : Nat) (ws : List Word) : (s.keepRecord g ws).lanes = s.lanes := rfl
@[simp] theorem keepRecord_ports (s : State) (g : Nat) (ws : List Word) : (s.keepRecord g ws).ports = s.ports := rfl
@[simp] theorem keepRecord_calendar (s : State) (g : Nat) (ws : List Word) : (s.keepRecord g ws).calendar = s.calendar := rfl
@[simp] theorem keepRecord_bankErrs (s : State) (g : Nat) (ws : List Word) : (s.keepRecord g ws).bankErrs = s.bankErrs := rfl
@[simp] theorem keepRecord_flaws (s : State) (g : Nat) (ws : List Word) : (s.keepRecord g ws).flaws = s.flaws := rfl
@[simp] theorem keepRecord_badCounters (s : State) (g : Nat) (ws : List Word) : (s.keepRecord g ws).badCounters = s.badCounters := rfl
@[simp] theorem keepRecord_minor (s : State) (g : Nat) (ws : List Word) : (s.keepRecord g ws).minor = s.minor := rfl
@[simp] theorem keepRecord_major (s : State) (g : Nat) (ws : List Word) : (s.keepRecord g ws).major = s.major := rfl
@[simp] theorem keepRecord_tree (s : State) (g : Nat) (ws : List Word) : (s.keepRecord g ws).tree = s.tree := rfl
@[simp] theorem keepRecord_roSets (s : State) (g : Nat) (ws : List Word) : (s.keepRecord g ws).roSets = s.roSets := rfl
@[simp] theorem keepRecord_reencrypt (s : State) (g : Nat) (ws : List Word) : (s.keepRecord g ws).reencrypt = s.reencrypt := rfl
@[simp] theorem keepRecord_refreshPlan (s : State) (g : Nat) (ws : List Word) : (s.keepRecord g ws).refreshPlan = s.refreshPlan := rfl
@[simp] theorem keepRecord_refreshHot (s : State) (g : Nat) (ws : List Word) : (s.keepRecord g ws).refreshHot = s.refreshHot := rfl
@[simp] theorem keepRecord_takeover (s : State) (g : Nat) (ws : List Word) : (s.keepRecord g ws).takeover = s.takeover := rfl
@[simp] theorem keepRecord_tsvErrs (s : State) (g : Nat) (ws : List Word) : (s.keepRecord g ws).tsvErrs = s.tsvErrs := rfl
@[simp] theorem keepRecord_tsvFailed (s : State) (g : Nat) (ws : List Word) : (s.keepRecord g ws).tsvFailed = s.tsvFailed := rfl
@[simp] theorem keepRecord_tsvSpared (s : State) (g : Nat) (ws : List Word) : (s.keepRecord g ws).tsvSpared = s.tsvSpared := rfl
@[simp] theorem keepRecord_sweep (s : State) (g : Nat) (ws : List Word) : (s.keepRecord g ws).sweep = s.sweep := rfl
@[simp] theorem keepRecord_onSpare (s : State) (g : Nat) (ws : List Word) : (s.keepRecord g ws).onSpare = s.onSpare := rfl
@[simp] theorem keepRecord_setTable (s : State) (g : Nat) (ws : List Word) : (s.keepRecord g ws).setTable = s.setTable := rfl
@[simp] theorem keepRecord_setApplied (s : State) (g : Nat) (ws : List Word) : (s.keepRecord g ws).setApplied = s.setApplied := rfl
@[simp] theorem keepRecord_comSet (s : State) (g : Nat) (ws : List Word) : (s.keepRecord g ws).comSet = s.comSet := rfl
@[simp] theorem keepRecord_comSetApplied (s : State) (g : Nat) (ws : List Word) : (s.keepRecord g ws).comSetApplied = s.comSetApplied := rfl
@[simp] theorem keepRecord_funcs (s : State) (g : Nat) (ws : List Word) : (s.keepRecord g ws).funcs = s.funcs := rfl
@[simp] theorem keepRecord_tcache (s : State) (g : Nat) (ws : List Word) : (s.keepRecord g ws).tcache = s.tcache := rfl
@[simp] theorem keepRecord_shoots (s : State) (g : Nat) (ws : List Word) : (s.keepRecord g ws).shoots = s.shoots := rfl
@[simp] theorem keepRecord_launches (s : State) (g : Nat) (ws : List Word) : (s.keepRecord g ws).launches = s.launches := rfl
@[simp] theorem keepRecord_cores (s : State) (g : Nat) (ws : List Word) : (s.keepRecord g ws).cores = s.cores := rfl
@[simp] theorem keepRecord_checkpoints (s : State) (g : Nat) (ws : List Word) : (s.keepRecord g ws).checkpoints = s.checkpoints := rfl
@[simp] theorem keepRecord_accesses (s : State) (g : Nat) (ws : List Word) : (s.keepRecord g ws).accesses = s.accesses := rfl
@[simp] theorem keepRecord_messages (s : State) (g : Nat) (ws : List Word) : (s.keepRecord g ws).messages = s.messages := rfl
@[simp] theorem keepRecord_arrives (s : State) (g : Nat) (ws : List Word) : (s.keepRecord g ws).arrives = s.arrives := rfl
@[simp] theorem keepRecord_proposals (s : State) (g : Nat) (ws : List Word) : (s.keepRecord g ws).proposals = s.proposals := rfl
@[simp] theorem keepRecord_claimWords (s : State) (g : Nat) (ws : List Word) : (s.keepRecord g ws).claimWords = s.claimWords := rfl
@[simp] theorem keepRecord_samples (s : State) (g : Nat) (ws : List Word) : (s.keepRecord g ws).samples = s.samples := rfl
@[simp] theorem keepRecord_queues (s : State) (g : Nat) (ws : List Word) : (s.keepRecord g ws).queues = s.queues := rfl
@[simp] theorem keepRecord_slots (s : State) (g : Nat) (ws : List Word) : (s.keepRecord g ws).slots = s.slots := rfl
@[simp] theorem keepRecord_reserved (s : State) (g : Nat) (ws : List Word) : (s.keepRecord g ws).reserved = s.reserved := rfl
@[simp] theorem keepRecord_ramps (s : State) (g : Nat) (ws : List Word) : (s.keepRecord g ws).ramps = s.ramps := rfl
@[simp] theorem keepRecord_riseNow (s : State) (g : Nat) (ws : List Word) : (s.keepRecord g ws).riseNow = s.riseNow := rfl
@[simp] theorem keepRecord_fallNow (s : State) (g : Nat) (ws : List Word) : (s.keepRecord g ws).fallNow = s.fallNow := rfl
@[simp] theorem keepRecord_capNow (s : State) (g : Nat) (ws : List Word) : (s.keepRecord g ws).capNow = s.capNow := rfl
@[simp] theorem keepRecord_hot (s : State) (g : Nat) (ws : List Word) : (s.keepRecord g ws).hot = s.hot := rfl
@[simp] theorem keepRecord_govRise (s : State) (g : Nat) (ws : List Word) : (s.keepRecord g ws).govRise = s.govRise := rfl
@[simp] theorem keepRecord_govFall (s : State) (g : Nat) (ws : List Word) : (s.keepRecord g ws).govFall = s.govFall := rfl
@[simp] theorem keepRecord_govCap (s : State) (g : Nat) (ws : List Word) : (s.keepRecord g ws).govCap = s.govCap := rfl
@[simp] theorem keepRecord_directory (s : State) (g : Nat) (ws : List Word) : (s.keepRecord g ws).directory = s.directory := rfl
@[simp] theorem keepRecord_commonsReqs (s : State) (g : Nat) (ws : List Word) : (s.keepRecord g ws).commonsReqs = s.commonsReqs := rfl
@[simp] theorem keepRecord_period (s : State) (g : Nat) (ws : List Word) : (s.keepRecord g ws).period = s.period := rfl
@[simp] theorem keepRecord_hostFn (s : State) (g : Nat) (ws : List Word) : (s.keepRecord g ws).hostFn = s.hostFn := rfl
@[simp] theorem keepRecord_hostVal (s : State) (g : Nat) (ws : List Word) : (s.keepRecord g ws).hostVal = s.hostVal := rfl
@[simp] theorem keepRecord_cmd (s : State) (g : Nat) (ws : List Word) : (s.keepRecord g ws).cmd = s.cmd := rfl
@[simp] theorem keepRecord_operands (s : State) (g : Nat) (ws : List Word) : (s.keepRecord g ws).operands = s.operands := rfl
@[simp] theorem keepRecord_cmdst (s : State) (g : Nat) (ws : List Word) : (s.keepRecord g ws).cmdst = s.cmdst := rfl
@[simp] theorem keepRecord_cmdLeft (s : State) (g : Nat) (ws : List Word) : (s.keepRecord g ws).cmdLeft = s.cmdLeft := rfl
@[simp] theorem keepRecord_devnum (s : State) (g : Nat) (ws : List Word) : (s.keepRecord g ws).devnum = s.devnum := rfl
@[simp] theorem keepRecord_lschedAt (s : State) (g : Nat) (ws : List Word) : (s.keepRecord g ws).lschedAt = s.lschedAt := rfl
@[simp] theorem keepRecord_exports (s : State) (g : Nat) (ws : List Word) : (s.keepRecord g ws).exports = s.exports := rfl
@[simp] theorem keepRecord_routes (s : State) (g : Nat) (ws : List Word) : (s.keepRecord g ws).routes = s.routes := rfl
@[simp] theorem keepRecord_lsched (s : State) (g : Nat) (ws : List Word) : (s.keepRecord g ws).lsched = s.lsched := rfl
@[simp] theorem keepRecord_lschedNow (s : State) (g : Nat) (ws : List Word) : (s.keepRecord g ws).lschedNow = s.lschedNow := rfl
@[simp] theorem keepRecord_links (s : State) (g : Nat) (ws : List Word) : (s.keepRecord g ws).links = s.links := rfl
@[simp] theorem keepRecord_ctlIn (s : State) (g : Nat) (ws : List Word) : (s.keepRecord g ws).ctlIn = s.ctlIn := rfl
@[simp] theorem keepRecord_pktIn (s : State) (g : Nat) (ws : List Word) : (s.keepRecord g ws).pktIn = s.pktIn := rfl
@[simp] theorem keepRecord_remotes (s : State) (g : Nat) (ws : List Word) : (s.keepRecord g ws).remotes = s.remotes := rfl
@[simp] theorem keepRecord_atomReplies (s : State) (g : Nat) (ws : List Word) : (s.keepRecord g ws).atomReplies = s.atomReplies := rfl
@[simp] theorem keepRecord_hrBase (s : State) (g : Nat) (ws : List Word) : (s.keepRecord g ws).hrBase = s.hrBase := rfl
@[simp] theorem keepRecord_hrHead (s : State) (g : Nat) (ws : List Word) : (s.keepRecord g ws).hrHead = s.hrHead := rfl
@[simp] theorem keepRecord_hrTail (s : State) (g : Nat) (ws : List Word) : (s.keepRecord g ws).hrTail = s.hrTail := rfl
@[simp] theorem keepRecord_hrLost (s : State) (g : Nat) (ws : List Word) : (s.keepRecord g ws).hrLost = s.hrLost := rfl
@[simp] theorem keepRecord_hrHeld (s : State) (g : Nat) (ws : List Word) : (s.keepRecord g ws).hrHeld = s.hrHeld := rfl
@[simp] theorem keepRecord_hrCounts (s : State) (g : Nat) (ws : List Word) : (s.keepRecord g ws).hrCounts = s.hrCounts := rfl
@[simp] theorem keepRecord_hrLog (s : State) (g : Nat) (ws : List Word) : (s.keepRecord g ws).hrLog = s.hrLog := rfl
@[simp] theorem keepRecord_dumpBase (s : State) (g : Nat) (ws : List Word) : (s.keepRecord g ws).dumpBase = s.dumpBase := rfl
@[simp] theorem keepRecord_dumpSize (s : State) (g : Nat) (ws : List Word) : (s.keepRecord g ws).dumpSize = s.dumpSize := rfl
@[simp] theorem keepRecord_fused (s : State) (g : Nat) (ws : List Word) : (s.keepRecord g ws).fused = s.fused := rfl
@[simp] theorem keepRecord_spareDue (s : State) (g : Nat) (ws : List Word) : (s.keepRecord g ws).spareDue = s.spareDue := rfl
@[simp] theorem keepRecord_bankBusy (s : State) (g : Nat) (ws : List Word) : (s.keepRecord g ws).bankBusy = s.bankBusy := rfl
@[simp] theorem keepRecord_outOfService (s : State) (g : Nat) (ws : List Word) : (s.keepRecord g ws).outOfService = s.outOfService := rfl
@[simp] theorem keepRecord_coresLost (s : State) (g : Nat) (ws : List Word) : (s.keepRecord g ws).coresLost = s.coresLost := rfl
@[simp] theorem keepRecord_rollTimes (s : State) (g : Nat) (ws : List Word) : (s.keepRecord g ws).rollTimes = s.rollTimes := rfl
@[simp] theorem keepRecord_shepFailed (s : State) (g : Nat) (ws : List Word) : (s.keepRecord g ws).shepFailed = s.shepFailed := rfl
@[simp] theorem keepRecord_shepDead (s : State) (g : Nat) (ws : List Word) : (s.keepRecord g ws).shepDead = s.shepDead := rfl
@[simp] theorem keepRecord_dieLink (s : State) (g : Nat) (ws : List Word) : (s.keepRecord g ws).dieLink = s.dieLink := rfl
@[simp] theorem keepRecord_staged (s : State) (g : Nat) (ws : List Word) : (s.keepRecord g ws).staged = s.staged := rfl
@[simp] theorem keepRecord_running (s : State) (g : Nat) (ws : List Word) : (s.keepRecord g ws).running = s.running := rfl
@[simp] theorem keepRecord_fusedMin (s : State) (g : Nat) (ws : List Word) : (s.keepRecord g ws).fusedMin = s.fusedMin := rfl
@[simp] theorem keepRecord_attestations (s : State) (g : Nat) (ws : List Word) : (s.keepRecord g ws).attestations = s.attestations := rfl
@[simp] theorem keepRecord_sysKey (s : State) (g : Nat) (ws : List Word) : (s.keepRecord g ws).sysKey = s.sysKey := rfl
@[simp] theorem keepRecord_mgmtFailed (s : State) (g : Nat) (ws : List Word) : (s.keepRecord g ws).mgmtFailed = s.mgmtFailed := rfl
@[simp] theorem keepRecord_chain (s : State) (g : Nat) (ws : List Word) : (s.keepRecord g ws).chain = s.chain := rfl
@[simp] theorem keepRecord_ats (s : State) (g : Nat) (ws : List Word) : (s.keepRecord g ws).ats = s.ats := rfl
@[simp] theorem keepRecord_hostReply (s : State) (g : Nat) (ws : List Word) : (s.keepRecord g ws).hostReply = s.hostReply := rfl
@[simp] theorem keepRecord_msix (s : State) (g : Nat) (ws : List Word) : (s.keepRecord g ws).msix = s.msix := rfl
@[simp] theorem keepRecord_agenda (s : State) (g : Nat) (ws : List Word) : (s.keepRecord g ws).agenda = s.agenda := rfl
@[simp] theorem keepRecord_micro (s : State) (g : Nat) (ws : List Word) : (s.keepRecord g ws).micro = s.micro := rfl
@[simp] theorem keepRecord_cur (s : State) (g : Nat) (ws : List Word) : (s.keepRecord g ws).cur = s.cur := rfl
@[simp] theorem keepRecord_issuing (s : State) (g : Nat) (ws : List Word) : (s.keepRecord g ws).issuing = s.issuing := rfl
@[simp] theorem keepRecord_told (s : State) (g : Nat) (ws : List Word) : (s.keepRecord g ws).told = s.told := rfl
@[simp] theorem keepRecord_fresh (s : State) (g : Nat) (ws : List Word) : (s.keepRecord g ws).fresh = s.fresh := rfl
@[simp] theorem keepRecord_nextId (s : State) (g : Nat) (ws : List Word) : (s.keepRecord g ws).nextId = s.nextId := rfl

/-! ## A poison mark -/

@[simp] theorem setPoison_now (s : State) (a : Nat) (p : Bool) : (setPoison s a p).now = s.now := rfl
@[simp] theorem setPoison_domCount (s : State) (a : Nat) (p : Bool) : (setPoison s a p).domCount = s.domCount := rfl
@[simp] theorem setPoison_aligned (s : State) (a : Nat) (p : Bool) : (setPoison s a p).aligned = s.aligned := rfl
@[simp] theorem setPoison_up (s : State) (a : Nat) (p : Bool) : (setPoison s a p).up = s.up := rfl
@[simp] theorem setPoison_mem (s : State) (a : Nat) (p : Bool) : (setPoison s a p).mem = s.mem := rfl
@[simp] theorem setPoison_lanes (s : State) (a : Nat) (p : Bool) : (setPoison s a p).lanes = s.lanes := rfl
@[simp] theorem setPoison_ports (s : State) (a : Nat) (p : Bool) : (setPoison s a p).ports = s.ports := rfl
@[simp] theorem setPoison_calendar (s : State) (a : Nat) (p : Bool) : (setPoison s a p).calendar = s.calendar := rfl
@[simp] theorem setPoison_bankErrs (s : State) (a : Nat) (p : Bool) : (setPoison s a p).bankErrs = s.bankErrs := rfl
@[simp] theorem setPoison_flaws (s : State) (a : Nat) (p : Bool) : (setPoison s a p).flaws = s.flaws := rfl
@[simp] theorem setPoison_badCounters (s : State) (a : Nat) (p : Bool) : (setPoison s a p).badCounters = s.badCounters := rfl
@[simp] theorem setPoison_minor (s : State) (a : Nat) (p : Bool) : (setPoison s a p).minor = s.minor := rfl
@[simp] theorem setPoison_major (s : State) (a : Nat) (p : Bool) : (setPoison s a p).major = s.major := rfl
@[simp] theorem setPoison_tree (s : State) (a : Nat) (p : Bool) : (setPoison s a p).tree = s.tree := rfl
@[simp] theorem setPoison_roSets (s : State) (a : Nat) (p : Bool) : (setPoison s a p).roSets = s.roSets := rfl
@[simp] theorem setPoison_reencrypt (s : State) (a : Nat) (p : Bool) : (setPoison s a p).reencrypt = s.reencrypt := rfl
@[simp] theorem setPoison_refreshPlan (s : State) (a : Nat) (p : Bool) : (setPoison s a p).refreshPlan = s.refreshPlan := rfl
@[simp] theorem setPoison_refreshHot (s : State) (a : Nat) (p : Bool) : (setPoison s a p).refreshHot = s.refreshHot := rfl
@[simp] theorem setPoison_takeover (s : State) (a : Nat) (p : Bool) : (setPoison s a p).takeover = s.takeover := rfl
@[simp] theorem setPoison_tsvErrs (s : State) (a : Nat) (p : Bool) : (setPoison s a p).tsvErrs = s.tsvErrs := rfl
@[simp] theorem setPoison_tsvFailed (s : State) (a : Nat) (p : Bool) : (setPoison s a p).tsvFailed = s.tsvFailed := rfl
@[simp] theorem setPoison_tsvSpared (s : State) (a : Nat) (p : Bool) : (setPoison s a p).tsvSpared = s.tsvSpared := rfl
@[simp] theorem setPoison_sweep (s : State) (a : Nat) (p : Bool) : (setPoison s a p).sweep = s.sweep := rfl
@[simp] theorem setPoison_onSpare (s : State) (a : Nat) (p : Bool) : (setPoison s a p).onSpare = s.onSpare := rfl
@[simp] theorem setPoison_setTable (s : State) (a : Nat) (p : Bool) : (setPoison s a p).setTable = s.setTable := rfl
@[simp] theorem setPoison_setApplied (s : State) (a : Nat) (p : Bool) : (setPoison s a p).setApplied = s.setApplied := rfl
@[simp] theorem setPoison_comSet (s : State) (a : Nat) (p : Bool) : (setPoison s a p).comSet = s.comSet := rfl
@[simp] theorem setPoison_comSetApplied (s : State) (a : Nat) (p : Bool) : (setPoison s a p).comSetApplied = s.comSetApplied := rfl
@[simp] theorem setPoison_funcs (s : State) (a : Nat) (p : Bool) : (setPoison s a p).funcs = s.funcs := rfl
@[simp] theorem setPoison_tcache (s : State) (a : Nat) (p : Bool) : (setPoison s a p).tcache = s.tcache := rfl
@[simp] theorem setPoison_shoots (s : State) (a : Nat) (p : Bool) : (setPoison s a p).shoots = s.shoots := rfl
@[simp] theorem setPoison_launches (s : State) (a : Nat) (p : Bool) : (setPoison s a p).launches = s.launches := rfl
@[simp] theorem setPoison_cores (s : State) (a : Nat) (p : Bool) : (setPoison s a p).cores = s.cores := rfl
@[simp] theorem setPoison_checkpoints (s : State) (a : Nat) (p : Bool) : (setPoison s a p).checkpoints = s.checkpoints := rfl
@[simp] theorem setPoison_accesses (s : State) (a : Nat) (p : Bool) : (setPoison s a p).accesses = s.accesses := rfl
@[simp] theorem setPoison_messages (s : State) (a : Nat) (p : Bool) : (setPoison s a p).messages = s.messages := rfl
@[simp] theorem setPoison_arrives (s : State) (a : Nat) (p : Bool) : (setPoison s a p).arrives = s.arrives := rfl
@[simp] theorem setPoison_proposals (s : State) (a : Nat) (p : Bool) : (setPoison s a p).proposals = s.proposals := rfl
@[simp] theorem setPoison_claimWords (s : State) (a : Nat) (p : Bool) : (setPoison s a p).claimWords = s.claimWords := rfl
@[simp] theorem setPoison_samples (s : State) (a : Nat) (p : Bool) : (setPoison s a p).samples = s.samples := rfl
@[simp] theorem setPoison_queues (s : State) (a : Nat) (p : Bool) : (setPoison s a p).queues = s.queues := rfl
@[simp] theorem setPoison_slots (s : State) (a : Nat) (p : Bool) : (setPoison s a p).slots = s.slots := rfl
@[simp] theorem setPoison_reserved (s : State) (a : Nat) (p : Bool) : (setPoison s a p).reserved = s.reserved := rfl
@[simp] theorem setPoison_ramps (s : State) (a : Nat) (p : Bool) : (setPoison s a p).ramps = s.ramps := rfl
@[simp] theorem setPoison_riseNow (s : State) (a : Nat) (p : Bool) : (setPoison s a p).riseNow = s.riseNow := rfl
@[simp] theorem setPoison_fallNow (s : State) (a : Nat) (p : Bool) : (setPoison s a p).fallNow = s.fallNow := rfl
@[simp] theorem setPoison_capNow (s : State) (a : Nat) (p : Bool) : (setPoison s a p).capNow = s.capNow := rfl
@[simp] theorem setPoison_hot (s : State) (a : Nat) (p : Bool) : (setPoison s a p).hot = s.hot := rfl
@[simp] theorem setPoison_govRise (s : State) (a : Nat) (p : Bool) : (setPoison s a p).govRise = s.govRise := rfl
@[simp] theorem setPoison_govFall (s : State) (a : Nat) (p : Bool) : (setPoison s a p).govFall = s.govFall := rfl
@[simp] theorem setPoison_govCap (s : State) (a : Nat) (p : Bool) : (setPoison s a p).govCap = s.govCap := rfl
@[simp] theorem setPoison_directory (s : State) (a : Nat) (p : Bool) : (setPoison s a p).directory = s.directory := rfl
@[simp] theorem setPoison_commonsReqs (s : State) (a : Nat) (p : Bool) : (setPoison s a p).commonsReqs = s.commonsReqs := rfl
@[simp] theorem setPoison_period (s : State) (a : Nat) (p : Bool) : (setPoison s a p).period = s.period := rfl
@[simp] theorem setPoison_hostFn (s : State) (a : Nat) (p : Bool) : (setPoison s a p).hostFn = s.hostFn := rfl
@[simp] theorem setPoison_hostVal (s : State) (a : Nat) (p : Bool) : (setPoison s a p).hostVal = s.hostVal := rfl
@[simp] theorem setPoison_cmd (s : State) (a : Nat) (p : Bool) : (setPoison s a p).cmd = s.cmd := rfl
@[simp] theorem setPoison_operands (s : State) (a : Nat) (p : Bool) : (setPoison s a p).operands = s.operands := rfl
@[simp] theorem setPoison_cmdst (s : State) (a : Nat) (p : Bool) : (setPoison s a p).cmdst = s.cmdst := rfl
@[simp] theorem setPoison_cmdLeft (s : State) (a : Nat) (p : Bool) : (setPoison s a p).cmdLeft = s.cmdLeft := rfl
@[simp] theorem setPoison_devnum (s : State) (a : Nat) (p : Bool) : (setPoison s a p).devnum = s.devnum := rfl
@[simp] theorem setPoison_lschedAt (s : State) (a : Nat) (p : Bool) : (setPoison s a p).lschedAt = s.lschedAt := rfl
@[simp] theorem setPoison_exports (s : State) (a : Nat) (p : Bool) : (setPoison s a p).exports = s.exports := rfl
@[simp] theorem setPoison_routes (s : State) (a : Nat) (p : Bool) : (setPoison s a p).routes = s.routes := rfl
@[simp] theorem setPoison_lsched (s : State) (a : Nat) (p : Bool) : (setPoison s a p).lsched = s.lsched := rfl
@[simp] theorem setPoison_lschedNow (s : State) (a : Nat) (p : Bool) : (setPoison s a p).lschedNow = s.lschedNow := rfl
@[simp] theorem setPoison_links (s : State) (a : Nat) (p : Bool) : (setPoison s a p).links = s.links := rfl
@[simp] theorem setPoison_ctlIn (s : State) (a : Nat) (p : Bool) : (setPoison s a p).ctlIn = s.ctlIn := rfl
@[simp] theorem setPoison_pktIn (s : State) (a : Nat) (p : Bool) : (setPoison s a p).pktIn = s.pktIn := rfl
@[simp] theorem setPoison_remotes (s : State) (a : Nat) (p : Bool) : (setPoison s a p).remotes = s.remotes := rfl
@[simp] theorem setPoison_atomReplies (s : State) (a : Nat) (p : Bool) : (setPoison s a p).atomReplies = s.atomReplies := rfl
@[simp] theorem setPoison_hrBase (s : State) (a : Nat) (p : Bool) : (setPoison s a p).hrBase = s.hrBase := rfl
@[simp] theorem setPoison_hrHead (s : State) (a : Nat) (p : Bool) : (setPoison s a p).hrHead = s.hrHead := rfl
@[simp] theorem setPoison_hrTail (s : State) (a : Nat) (p : Bool) : (setPoison s a p).hrTail = s.hrTail := rfl
@[simp] theorem setPoison_hrLost (s : State) (a : Nat) (p : Bool) : (setPoison s a p).hrLost = s.hrLost := rfl
@[simp] theorem setPoison_hrHeld (s : State) (a : Nat) (p : Bool) : (setPoison s a p).hrHeld = s.hrHeld := rfl
@[simp] theorem setPoison_hrCounts (s : State) (a : Nat) (p : Bool) : (setPoison s a p).hrCounts = s.hrCounts := rfl
@[simp] theorem setPoison_hrLog (s : State) (a : Nat) (p : Bool) : (setPoison s a p).hrLog = s.hrLog := rfl
@[simp] theorem setPoison_dumpBase (s : State) (a : Nat) (p : Bool) : (setPoison s a p).dumpBase = s.dumpBase := rfl
@[simp] theorem setPoison_dumpSize (s : State) (a : Nat) (p : Bool) : (setPoison s a p).dumpSize = s.dumpSize := rfl
@[simp] theorem setPoison_fused (s : State) (a : Nat) (p : Bool) : (setPoison s a p).fused = s.fused := rfl
@[simp] theorem setPoison_spareDue (s : State) (a : Nat) (p : Bool) : (setPoison s a p).spareDue = s.spareDue := rfl
@[simp] theorem setPoison_bankBusy (s : State) (a : Nat) (p : Bool) : (setPoison s a p).bankBusy = s.bankBusy := rfl
@[simp] theorem setPoison_outOfService (s : State) (a : Nat) (p : Bool) : (setPoison s a p).outOfService = s.outOfService := rfl
@[simp] theorem setPoison_coresLost (s : State) (a : Nat) (p : Bool) : (setPoison s a p).coresLost = s.coresLost := rfl
@[simp] theorem setPoison_rollTimes (s : State) (a : Nat) (p : Bool) : (setPoison s a p).rollTimes = s.rollTimes := rfl
@[simp] theorem setPoison_shepFailed (s : State) (a : Nat) (p : Bool) : (setPoison s a p).shepFailed = s.shepFailed := rfl
@[simp] theorem setPoison_shepDead (s : State) (a : Nat) (p : Bool) : (setPoison s a p).shepDead = s.shepDead := rfl
@[simp] theorem setPoison_dieLink (s : State) (a : Nat) (p : Bool) : (setPoison s a p).dieLink = s.dieLink := rfl
@[simp] theorem setPoison_staged (s : State) (a : Nat) (p : Bool) : (setPoison s a p).staged = s.staged := rfl
@[simp] theorem setPoison_running (s : State) (a : Nat) (p : Bool) : (setPoison s a p).running = s.running := rfl
@[simp] theorem setPoison_fusedMin (s : State) (a : Nat) (p : Bool) : (setPoison s a p).fusedMin = s.fusedMin := rfl
@[simp] theorem setPoison_attestations (s : State) (a : Nat) (p : Bool) : (setPoison s a p).attestations = s.attestations := rfl
@[simp] theorem setPoison_lastRec (s : State) (a : Nat) (p : Bool) : (setPoison s a p).lastRec = s.lastRec := rfl
@[simp] theorem setPoison_sysKey (s : State) (a : Nat) (p : Bool) : (setPoison s a p).sysKey = s.sysKey := rfl
@[simp] theorem setPoison_mgmtFailed (s : State) (a : Nat) (p : Bool) : (setPoison s a p).mgmtFailed = s.mgmtFailed := rfl
@[simp] theorem setPoison_chain (s : State) (a : Nat) (p : Bool) : (setPoison s a p).chain = s.chain := rfl
@[simp] theorem setPoison_ats (s : State) (a : Nat) (p : Bool) : (setPoison s a p).ats = s.ats := rfl
@[simp] theorem setPoison_hostReply (s : State) (a : Nat) (p : Bool) : (setPoison s a p).hostReply = s.hostReply := rfl
@[simp] theorem setPoison_msix (s : State) (a : Nat) (p : Bool) : (setPoison s a p).msix = s.msix := rfl
@[simp] theorem setPoison_agenda (s : State) (a : Nat) (p : Bool) : (setPoison s a p).agenda = s.agenda := rfl
@[simp] theorem setPoison_micro (s : State) (a : Nat) (p : Bool) : (setPoison s a p).micro = s.micro := rfl
@[simp] theorem setPoison_cur (s : State) (a : Nat) (p : Bool) : (setPoison s a p).cur = s.cur := rfl
@[simp] theorem setPoison_issuing (s : State) (a : Nat) (p : Bool) : (setPoison s a p).issuing = s.issuing := rfl
@[simp] theorem setPoison_told (s : State) (a : Nat) (p : Bool) : (setPoison s a p).told = s.told := rfl
@[simp] theorem setPoison_fresh (s : State) (a : Nat) (p : Bool) : (setPoison s a p).fresh = s.fresh := rfl
@[simp] theorem setPoison_nextId (s : State) (a : Nat) (p : Bool) : (setPoison s a p).nextId = s.nextId := rfl

/-! ## What the accessors read -/

@[simp] theorem core_setCore (s : State) (g g' : Nat) (c : Core) :
    (s.setCore g c).core g' = if g' = g then c else s.core g' := by
  simp [State.core, State.setCore, Table.get_put]

@[simp] theorem curCore_setCore (s : State) (c : Core) : (s.setCore s.cur c).curCore = c := by
  simp [State.curCore]

@[simp] theorem setCore_setCore (s : State) (g : Nat) (c d : Core) : (s.setCore g c).setCore g d = s.setCore g d := by
  simp [State.setCore]

theorem core_updCore (s : State) (g g' : Nat) (f : Core → Core) :
    (s.updCore g f).core g' = if g' = g then f (s.core g) else s.core g' := by
  simp [State.updCore]

@[simp] theorem curCore_updCur (s : State) (f : Core → Core) : (s.updCur f).curCore = f s.curCore := by
  simp [State.updCur]

@[simp] theorem core_keepRecord (s : State) (g' : Nat) (ws : List Word) (g : Nat) : (s.keepRecord g' ws).core g = s.core g := rfl
@[simp] theorem core_due (s : State) (t k : Nat) (i : Instr) (g : Nat) : (s.due t k i).core g = s.core g := rfl
@[simp] theorem core_setLaunch (s : State) (l : Nat) (x : Launch) (g : Nat) : (s.setLaunch l x).core g = s.core g := rfl
@[simp] theorem core_writeByte (s : State) (a : Nat) (b : Byte) (g : Nat) : (writeByte s a b).core g = s.core g := rfl
@[simp] theorem core_updFunc (s : State) (f : Nat) (u : Func → Func) (g : Nat) : (s.updFunc f u).core g = s.core g := rfl

@[simp] theorem launch_setLaunch (s : State) (l l' : Nat) (x : Launch) :
    (s.setLaunch l x).launch? l' = if l' = l then some x else s.launch? l' := by
  simp [State.launch?, State.setLaunch, Table.find_put]

@[simp] theorem launch_setCore (s : State) (g : Nat) (c : Core) (l : Nat) : (s.setCore g c).launch? l = s.launch? l := rfl
@[simp] theorem launch_due (s : State) (t k : Nat) (i : Instr) (l : Nat) : (s.due t k i).launch? l = s.launch? l := rfl
@[simp] theorem launch_writeByte (s : State) (a : Nat) (b : Byte) (l : Nat) :
    (writeByte s a b).launch? l = s.launch? l := rfl
@[simp] theorem launch_updFunc (s : State) (f : Nat) (u : Func → Func) (l : Nat) :
    (s.updFunc f u).launch? l = s.launch? l := rfl

@[simp] theorem func_updFunc (s : State) (f f' : Nat) (u : Func → Func) :
    (s.updFunc f u).func f' = if f' = f then u (s.func f) else s.func f' := by
  simp only [State.func, State.updFunc, Table.get_put]

@[simp] theorem func_setCore (s : State) (g : Nat) (c : Core) (f : Nat) : (s.setCore g c).func f = s.func f := rfl
@[simp] theorem func_setLaunch (s : State) (l : Nat) (x : Launch) (f : Nat) : (s.setLaunch l x).func f = s.func f := rfl

/-- A launch changed: the others, and everything but the launches, stay. -/
theorem updLaunch_eq (s : State) (l : Nat) (u : Launch → Launch) :
    s.updLaunch l u = match s.launch? l with | some x => s.setLaunch l (u x) | none => s := rfl

theorem launch_updLaunch (s : State) (l l' : Nat) (u : Launch → Launch) :
    (s.updLaunch l u).launch? l' = if l' = l then (s.launch? l).map u else s.launch? l' := by
  unfold State.updLaunch
  split
  · next x h => simp [h]
  · next h => split_ifs with e <;> simp_all

@[simp] theorem core_updLaunch (s : State) (l : Nat) (u : Launch → Launch) (g : Nat) :
    (s.updLaunch l u).core g = s.core g := by
  unfold State.updLaunch; split <;> rfl

@[simp] theorem mem_updLaunch (s : State) (l : Nat) (u : Launch → Launch) : (s.updLaunch l u).mem = s.mem := by
  unfold State.updLaunch; split <;> rfl

@[simp] theorem mem_updQueue (s : State) (q : Nat) (u : Queue → Queue) : (s.updQueue q u).mem = s.mem := by
  unfold State.updQueue; split <;> rfl

@[simp] theorem mem_dueOnce (s : State) (t k : Nat) (i : Instr) : (s.dueOnce t k i).mem = s.mem := by
  unfold State.dueOnce; split <;> rfl

@[simp] theorem mem_undue (s : State) (p : Instr → Bool) : (s.undue p).mem = s.mem := rfl
@[simp] theorem mem_tick (s : State) : s.tick.mem = s.mem := rfl
@[simp] theorem mem_newId (s : State) : s.newId.2.mem = s.mem := rfl
@[simp] theorem core_tick (s : State) (g : Nat) : s.tick.core g = s.core g := rfl
@[simp] theorem core_newId (s : State) (g : Nat) : s.newId.2.core g = s.core g := rfl

@[simp] theorem mem_setWaitFlag (s : State) (g n : Nat) : (setWaitFlag s g n).mem = s.mem := rfl

@[simp] theorem mem_sendMsix (s : State) (f v : Nat) : (sendMsix s f v).mem = s.mem := by
  unfold sendMsix; split <;> rfl

@[simp] theorem core_sendMsix (s : State) (f v g : Nat) : (sendMsix s f v).core g = s.core g := by
  unfold sendMsix; split <;> rfl

/-- A wait flag that is set reads 1, and no other core changes. -/
theorem core_setWaitFlag_ne (s : State) (g n g' : Nat) (h : g' ≠ g) : (setWaitFlag s g n).core g' = s.core g' := by
  simp [setWaitFlag, State.updCore, h]

/-! ## Registers of a core -/

@[simp] theorem hGet_hSet (c : Core) (r r' : Nat) (h : Handle) : (c.hSet r h).hGet r' = if r' = r then h else c.hGet r' := by
  simp [Core.hGet, Core.hSet, Table.get_put]

@[simp] theorem phGet_phSet (c : Core) (p p' : Nat) (x : PhaseSt) :
    (c.phSet p x).phGet p' = if p' = p then x else c.phGet p' := by
  simp [Core.phGet, Core.phSet, Table.get_put]

@[simp] theorem cmdsOf_setCmds (c : Core) (e e' : Nat) (q : List Command) :
    (c.setCmds e q).cmdsOf e' = if e' = e then q else c.cmdsOf e' := by
  simp [Core.cmdsOf, Core.setCmds, Table.get_put]

@[simp] theorem stickyOf_setSticky (c : Core) (n n' : Nat) (x : Option Sticky) :
    (c.setSticky n x).stickyOf n' = if n' = n then x else c.stickyOf n' := by
  simp [Core.stickyOf, Core.setSticky, Table.get_put]

@[simp] theorem sGet_zero (c : Core) : c.sGet 0 = 0 := rfl
@[simp] theorem fGet_seven (c : Core) : c.fGet 7 = true := rfl

end Sys2Proof.Machine
end

