-- ==== Sys2Proof/Laws/Memory.lean ====
section
/-!
SUPPORT. The laws of memory: what a byte reads as after a write, and that every memory operation keeps the canonical form.
-/
namespace Sys2Proof.Machine

/-- Memory right after reset has its canonical form. -/
theorem reset_mem_wf : Memory.wf State.reset.mem = true := rfl

/-- A write of one byte keeps the canonical form. -/
theorem writeByte_wf {s : State} (h : Memory.wf s.mem = true) (a : Nat) (b : Byte) : Memory.wf (writeByte s a b).mem = true :=
  Table.set_wf _ h a b

/-- A byte reads, after a write, as before but at the address written. -/
theorem readByte_writeByte {s : State} (h : Memory.wf s.mem = true) (a : Nat) (b : Byte) (x : Nat) :
    readByte (writeByte s a b) x = if x = a then b else readByte s x :=
  Table.get_set _ h a b x

/-- Dropping the bytes of some addresses, as a reset of the device or of a function does, keeps the canonical form. -/
theorem filter_wf {m : List Host.Cell} (h : Memory.wf m = true) (p : Host.Cell → Bool) : Memory.wf (m.filter p) = true :=
  Table.filter_wf _ p h

theorem writeBytes_wf {s : State} (h : Memory.wf s.mem = true) (a : Nat) (bs : List Byte) :
    Memory.wf (writeBytes s a bs).mem = true := by
  induction bs generalizing s a with
  | nil => exact h
  | cons b bs ih => exact ih (writeByte_wf h a b) (a + 1)

theorem writeMasked_wf {s : State} (h : Memory.wf s.mem = true) (a : Nat) (bs : List (Option Byte)) :
    Memory.wf (writeMasked s a bs).mem = true := by
  induction bs generalizing s a with
  | nil => exact h
  | cons b bs ih =>
    cases b with
    | none => exact ih h (a + 1)
    | some b => exact ih (writeByte_wf h a b) (a + 1)

theorem writeWord_wf {s : State} (h : Memory.wf s.mem = true) (a : Nat) (w : Word) :
    Memory.wf (writeWord s a w).mem = true := writeBytes_wf h a _

theorem writeWords_cons (s : State) (a : Nat) (w : Word) (ws : List Word) :
    writeWords s a (w :: ws) = writeWords (writeWord s a w) (a + 8) ws := by
  delta writeWords; rfl

theorem writeWords_wf {s : State} (h : Memory.wf s.mem = true) (a : Nat) (ws : List Word) :
    Memory.wf (writeWords s a ws).mem = true := by
  induction ws generalizing s a with
  | nil => exact h
  | cons w ws ih => rw [writeWords_cons]; exact ih (writeWord_wf h a w) (a + 8)

/-- A run of bytes written leaves every byte outside it. -/
theorem readByte_writeBytes_outside {s : State} (h : Memory.wf s.mem = true) (a : Nat) (bs : List Byte) {x : Nat}
    (hx : x < a ∨ a + bs.length ≤ x) : readByte (writeBytes s a bs) x = readByte s x := by
  induction bs generalizing s a with
  | nil => rfl
  | cons b bs ih =>
    simp only [List.length_cons] at hx
    rw [writeBytes, ih (writeByte_wf h a b) (a + 1) (by omega), readByte_writeByte h, if_neg (by omega)]

/-- Byte `i` of a run written reads as written. -/
theorem readByte_writeBytes_inside {s : State} (h : Memory.wf s.mem = true) (a : Nat) (bs : List Byte) {i : Nat}
    (hi : i < bs.length) : readByte (writeBytes s a bs) (a + i) = bs[i] := by
  induction bs generalizing s a i with
  | nil => simp at hi
  | cons b bs ih =>
    cases i with
    | zero =>
      rw [writeBytes, readByte_writeBytes_outside (writeByte_wf h a b) _ _ (by omega), readByte_writeByte h]
      simp
    | succ i =>
      have := ih (writeByte_wf h a b) (a + 1) (i := i) (by simpa using hi)
      simp only [List.getElem_cons_succ, writeBytes]
      rw [← this]; congr 1; omega

/-- A masked run written leaves every byte outside it. -/
theorem readByte_writeMasked_outside {s : State} (h : Memory.wf s.mem = true) (a : Nat) (bs : List (Option Byte)) {x : Nat}
    (hx : x < a ∨ a + bs.length ≤ x) : readByte (writeMasked s a bs) x = readByte s x := by
  induction bs generalizing s a with
  | nil => rfl
  | cons b bs ih =>
    simp only [List.length_cons] at hx
    cases b with
    | none => rw [writeMasked, ih h (a + 1) (by omega)]
    | some b =>
      rw [writeMasked, ih (writeByte_wf h a b) (a + 1) (by omega), readByte_writeByte h, if_neg (by omega)]

/-- Reading what was written gives it back. -/
theorem readBytes_writeBytes {s : State} (h : Memory.wf s.mem = true) (a : Nat) (bs : List Byte) :
    readBytes (writeBytes s a bs) a bs.length = bs := by
  induction bs generalizing s a with
  | nil => rfl
  | cons b bs ih =>
    simp only [List.length_cons, readBytes, writeBytes]
    rw [readByte_writeBytes_outside (writeByte_wf h a b) _ _ (by omega), readByte_writeByte h, if_pos rfl,
      ih (writeByte_wf h a b)]

@[simp] theorem length_bytesOfNat (n x : Nat) : (bytesOfNat n x).length = n := by
  induction n generalizing x with
  | zero => rfl
  | succ n ih => simp [bytesOfNat, ih]

/-- The little-endian bytes of a number name its low part. -/
theorem leNat_bytesOfNat (n x : Nat) : leNat (bytesOfNat n x) = x % 256 ^ n := by
  induction n generalizing x with
  | zero => simp [bytesOfNat, leNat, Nat.mod_one]
  | succ n ih =>
    have h : leNat (bytesOfNat (n + 1) x) = leNat (bytesOfNat n (x / 256)) * 256 + x % 256 := by
      simp [bytesOfNat, leNat]
    rw [h, ih, Nat.pow_succ', Nat.mod_mul]
    ring

@[simp] theorem core_writeBytes (s : State) (a : Nat) (bs : List Byte) (g : Nat) : (writeBytes s a bs).core g = s.core g := by
  induction bs generalizing s a with
  | nil => rfl
  | cons b bs ih => rw [writeBytes, ih, core_writeByte]

@[simp] theorem core_writeWords (s : State) (a : Nat) (ws : List Word) (g : Nat) : (writeWords s a ws).core g = s.core g := by
  induction ws generalizing s a with
  | nil => rfl
  | cons w ws ih => rw [writeWords_cons, ih, writeWord, core_writeBytes]

@[simp] theorem launch_writeBytes (s : State) (a : Nat) (bs : List Byte) (l : Nat) :
    (writeBytes s a bs).launch? l = s.launch? l := by
  induction bs generalizing s a with
  | nil => rfl
  | cons b bs ih => rw [writeBytes, ih, launch_writeByte]

@[simp] theorem launch_writeWords (s : State) (a : Nat) (ws : List Word) (l : Nat) :
    (writeWords s a ws).launch? l = s.launch? l := by
  induction ws generalizing s a with
  | nil => rfl
  | cons w ws ih => rw [writeWords_cons, ih, writeWord, launch_writeBytes]

end Sys2Proof.Machine
end

