-- ==== Sys2Proof/Laws/Ops.lean ====
section
/-!
SUPPORT. One lemma for each shared operation that says what it can do: results that are made, plans of syllables, the landings of a
cycle, and taking a fault.
-/
namespace Sys2Proof.Machine

/-! ## Results that are made (R94) -/

/-- A result that is made is one more pending write of the core, and nothing else. -/
theorem land_eq (s : State) (slot lat : Nat) (e : Effect) :
    land s slot lat e = s.setCore s.cur
      { s.curCore with writes := s.curCore.writes ++ [⟨s.curCore.iCyc + lat, s.curCore.iCyc, slot, e⟩] } := rfl

@[simp] theorem mem_land (s : State) (slot lat : Nat) (e : Effect) : (land s slot lat e).mem = s.mem := rfl
@[simp] theorem cur_land (s : State) (slot lat : Nat) (e : Effect) : (land s slot lat e).cur = s.cur := rfl
@[simp] theorem now_land (s : State) (slot lat : Nat) (e : Effect) : (land s slot lat e).now = s.now := rfl

theorem core_land_ne (s : State) (slot lat : Nat) (e : Effect) {g : Nat} (h : g ≠ s.cur) :
    (land s slot lat e).core g = s.core g := by
  simp [land_eq, h]

@[simp] theorem curCore_land (s : State) (slot lat : Nat) (e : Effect) : (land s slot lat e).curCore =
    { s.curCore with writes := s.curCore.writes ++ [⟨s.curCore.iCyc + lat, s.curCore.iCyc, slot, e⟩] } := by
  rw [land_eq]; simp

@[simp] theorem mem_landS (s : State) (slot lat r : Nat) (v : Word) : (landS s slot lat r v).mem = s.mem := by
  unfold landS; split <;> rfl

@[simp] theorem mem_landF (s : State) (slot lat r : Nat) (v : Bool) : (landF s slot lat r v).mem = s.mem := by
  unfold landF; split <;> rfl

@[simp] theorem mem_landFlags (s : State) (slot lat : Nat) (fl : BitVec 8) : (landFlags s slot lat fl).mem = s.mem := by
  unfold landFlags; split <;> rfl

@[simp] theorem mem_landElems (s : State) (slot lat vd w n : Nat) (en : Nat → Bool) (f : Nat → Rounded) :
    (landElems s slot lat vd w n en f).mem = s.mem := by simp [landElems]

@[simp] theorem mem_landAll (s : State) (slot lat : Nat) (es : List Effect) : (landAll s slot lat es).mem = s.mem := by
  induction es generalizing s with
  | nil => rfl
  | cons e es ih => rw [landAll, ih, mem_land]

/-- A result for `s0` is discarded (R111). -/
@[simp] theorem landS_zero (s : State) (slot lat : Nat) (v : Word) : landS s slot lat 0 v = s := rfl
/-- A result for `f7` is discarded (R111). -/
@[simp] theorem landF_seven (s : State) (slot lat : Nat) (v : Bool) : landF s slot lat 7 v = s := rfl

/-! ## Plans (R91, R93) -/

/-- With `%debug.PRT` 0 no read is pending (R33). -/
theorem pendingCheck_off {c : Core} (h : c.prt = false) (reads : List ReadUnit) : pendingCheck c reads = none := by
  cases reads <;> simp [pendingCheck, h]

/-- A plan with a failed check raises it. -/
theorem runPlan_fault {i : Instr} {p : Plan} {s : State} {k : Check} (h : p.fault s.curCore = some k) :
    runPlan i p s = .next (raise s p.slot (withWord i k)) := by
  simp [runPlan, h]

/-- A plan without a failed check acts, or does what its suppressed form does. -/
theorem runPlan_ok {i : Instr} {p : Plan} {s : State} (h : p.fault s.curCore = none) :
    runPlan i p s = .next (if p.enabled then p.run s else p.off s) := by
  simp only [runPlan, h]

/-- An S syllable that is ready runs. -/
theorem runPlan_sReady {i : Instr} {h : SHead} {s : State} {reads : List ReadUnit} {run : State → State}
    (hr : SReady s h reads) : runPlan i (sPlan h s.curCore reads none run) s = .next (run s) := by
  obtain ⟨h1, h2, h3⟩ := hr
  simp [runPlan, Plan.fault, sPlan, h1, h2, h3]

/-- An S syllable that is ready and whose own check fails is a fault. -/
theorem runPlan_sReady_check {i : Instr} {h : SHead} {s : State} {reads : List ReadUnit} {run : State → State} {k : Check}
    (hr : SReady s h reads) : runPlan i (sPlan h s.curCore reads (some k) run) s = .next (raise s 0 (withWord i k)) := by
  obtain ⟨h1, h2, h3⟩ := hr
  simp [runPlan, Plan.fault, sPlan, h1, h2, h3]

/-- A syllable of the M, K or copy class that is ready runs. -/
theorem runPlan_fReady {i : Instr} {h : Head} {s : State} {reads : List ReadUnit} {run off : State → State}
    (hr : FReady s h reads) : runPlan i (flagPlan h s.curCore reads none run off) s = .next (run s) := by
  obtain ⟨h1, h2, h3⟩ := hr
  simp [runPlan, Plan.fault, flagPlan, h1, h2, h3]

/-- A V syllable that is ready runs. -/
theorem runPlan_vReady {i : Instr} {h : Head} {s : State} {reads : List ReadUnit} {run : State → State}
    (hr : VReady s h reads) : runPlan i (vPlan h reads none run) s = .next (run s) := by
  obtain ⟨h1, h2⟩ := hr
  simp [runPlan, Plan.fault, vPlan, h1, h2]

/-! ## Landings (R95) -/

theorem insertWrite_perm (w : Write) (ws : List Write) : (insertWrite w ws).Perm (w :: ws) := by
  induction ws with
  | nil => exact List.Perm.refl _
  | cons x xs ih =>
    simp only [insertWrite]
    split
    · exact (List.Perm.cons x ih).trans (List.Perm.swap w x xs)
    · exact List.Perm.refl _

/-- Ordering landings drops none and adds none. -/
theorem sortWrites_perm (ws : List Write) : (sortWrites ws).Perm ws := by
  have h : ∀ (ws acc : List Write), (ws.foldl (fun acc w => insertWrite w acc) acc).Perm (acc ++ ws) := by
    intro ws
    induction ws with
    | nil => intro acc; simp
    | cons w ws ih =>
      intro acc
      refine (ih _).trans ?_
      refine ((insertWrite_perm w acc).append_right ws).trans ?_
      exact (List.perm_middle).symm
  simpa [sortWrites] using h ws []

/-- `s0` reads zero whatever lands. -/
theorem applyEffect_s0 (now : Nat) (c : Core) (e : Effect) : (applyEffect now c e).sGet 0 = 0 := rfl

/-- What a scalar landing writes. -/
theorem sGet_applyEffect_sReg (now : Nat) (c : Core) (r : Nat) (v : Word) (q : Nat) :
    (applyEffect now c (.sReg r v)).sGet q = if q = 0 then 0 else if q = r then v else c.sGet q := by
  by_cases h : r = 0
  · subst h
    by_cases hq : q = 0 <;> simp [applyEffect, Core.sGet, hq]
  · by_cases hq : q = 0 <;> simp [applyEffect, Core.sGet, h, hq, Table.get_put]

/-- An enable mask of all ones puts the whole value in. -/
@[simp] theorem merge_full {n : Nat} (old v : BitVec n) : merge old v (BitVec.allOnes n) = v := by
  ext i; simp [merge]

/-- An enable mask of zeros leaves the unit. -/
@[simp] theorem merge_zero {n : Nat} (old v : BitVec n) : merge old v 0#n = old := by
  ext i; simp [merge]

/-! ## Taking a fault (R344 to R348) -/

@[simp] theorem mem_stopLaunch (s : State) (l : Nat) : (stopLaunch s l).mem = s.mem := by
  unfold stopLaunch stopNow; split <;> simp

@[simp] theorem core_stopLaunch (s : State) (l g : Nat) : (stopLaunch s l).core g = s.core g := by
  unfold stopLaunch stopNow; split <;> simp

@[simp] theorem mem_stopByCore (s : State) (l way : Nat) : (stopByCore s l way).mem = s.mem := by
  unfold stopByCore; split
  · split <;> simp
  · rfl

@[simp] theorem core_stopByCore (s : State) (l way g : Nat) : (stopByCore s l way).core g = s.core g := by
  unfold stopByCore; split
  · split <;> simp
  · rfl

@[simp] theorem mem_noteAts (s : State) (f a : Nat) : (noteAts s f a).mem = s.mem := by
  unfold noteAts; split <;> rfl

@[simp] theorem core_noteAts (s : State) (f a g : Nat) : (noteAts s f a).core g = s.core g := by
  unfold noteAts; split <;> rfl

@[simp] theorem now_noteAts (s : State) (f a : Nat) : (noteAts s f a).now = s.now := by
  unfold noteAts; split <;> rfl

/-- A record put into the ring leaves every core. -/
@[simp] theorem core_putRecord (s : State) (f : Nat) (ws : List Word) (g : Nat) : (putRecord s f ws).core g = s.core g := by
  simp only [putRecord, core_sendMsix, core_updFunc]
  split <;> simp [chargeHost]

/-- A record put into the ring keeps the canonical form of memory. -/
theorem putRecord_wf {s : State} (h : Memory.wf s.mem = true) (f : Nat) (ws : List Word) : Memory.wf (putRecord s f ws).mem = true := by
  simp only [putRecord, mem_sendMsix, updFunc_mem]
  split
  · exact writeWords_wf (by simpa [chargeHost] using h) _ _
  · simpa [chargeHost] using h

/-- A record that is written, held or not written leaves every core. -/
@[simp] theorem core_writeRecord (s : State) (f : Nat) (ws : List Word) (g : Nat) :
    (writeRecord s f ws).1.core g = s.core g := by
  simp only [writeRecord]
  split
  · rfl
  · split
    · rfl
    · split <;> simp

/-- A record that is written, held or not written keeps the canonical form of memory. -/
theorem writeRecord_wf {s : State} (h : Memory.wf s.mem = true) (f : Nat) (ws : List Word) :
    Memory.wf (writeRecord s f ws).1.mem = true := by
  simp only [writeRecord]
  split
  · exact h
  · split
    · exact h
    · split
      · simpa using h
      · exact putRecord_wf h _ _

/-- A stop that is put off changes its core alone. -/
@[simp] theorem mem_deferStop (s : State) (g : Nat) (f : FaultInfo) (cause handle : Nat) : (deferStop s g f cause handle).mem = s.mem := rfl

/-- A stop that is put off leaves every other core. -/
theorem core_deferStop_ne (s : State) (g : Nat) (f : FaultInfo) (cause handle : Nat) {g' : Nat} (hg : g' ≠ g) :
    (deferStop s g f cause handle).core g' = s.core g' := by
  simp [deferStop, State.updCore, hg]

/-- Taking a fault keeps the canonical form of memory. -/
theorem stopWithRecord_wf {s : State} (h : Memory.wf s.mem = true) (g l : Nat) (f : FaultInfo) (cause handle stopcyc : Nat) :
    Memory.wf (stopWithRecord s g l f cause handle stopcyc).mem = true := by
  simp only [stopWithRecord]
  split
  · simpa using h
  split
  · simpa using h
  · simp only [State.updCore, setCore_mem, mem_updLaunch]
    exact writeRecord_wf (by simpa using h) _ _

theorem takeFault_wf {s : State} (h : Memory.wf s.mem = true) (g : Nat) (f : FaultInfo) (n : Nat) :
    Memory.wf (takeFault s g f n).mem = true := by
  unfold takeFault
  split
  · exact h
  · exact stopWithRecord_wf h _ _ _ _ _ _

theorem raise_wf {s : State} (h : Memory.wf s.mem = true) (slot : Nat) (k : Check) : Memory.wf (raise s slot k).mem = true :=
  takeFault_wf h _ _ _

/-- A core that takes no part in a stop keeps everything. -/
theorem core_stopWithRecord_ne (s : State) (g l : Nat) (f : FaultInfo) (cause handle stopcyc : Nat) {g' : Nat} (hg : g' ≠ g) :
    (stopWithRecord s g l f cause handle stopcyc).core g' = s.core g' := by
  simp only [stopWithRecord]
  split
  · exact core_deferStop_ne _ _ _ _ _ hg
  split
  · simp
  · simp [State.updCore, hg]

theorem core_takeFault_ne (s : State) (g : Nat) (f : FaultInfo) (n : Nat) {g' : Nat} (hg : g' ≠ g) :
    (takeFault s g f n).core g' = s.core g' := by
  unfold takeFault
  split
  · rfl
  · exact core_stopWithRecord_ne _ _ _ _ _ _ _ hg

/-- Counting a cause changes no register. -/
theorem bumpCause_registers (c : Core) (k : Nat) : SameRegisters c (bumpCause c k) := by
  unfold bumpCause
  split <;> simp [SameRegisters]

/-! ## The invariant -/

/-- A state with the same memory keeps the invariant. -/
theorem Inv_of_mem {s t : State} (h : s.Inv) (e : t.mem = s.mem) : t.Inv := by
  unfold State.Inv; rw [e]; exact h

end Sys2Proof.Machine
end

