-- ==== Sys2Proof/Laws/PerInstr.lean ====
section
/-!
SUPPORT. A statement made of every instruction as syntax, one lemma for each constructor: exactly the syllables have a word (R92).
-/
namespace Sys2Proof.Laws

/-- An instruction has an encoding as a word of a slot if and only if it is a syllable.  -/
def Coded.Statement (i : Instr) : Prop := (encode i).isSome = i.isSyllable

theorem Coded.bundleIssue (g : Nat) : Coded.Statement (.bundleIssue g) := rfl
theorem Coded.waitEvaluation (g : Nat) : Coded.Statement (.waitEvaluation g) := rfl
theorem Coded.registerWriteLanding (g : Nat) : Coded.Statement (.registerWriteLanding g) := rfl
theorem Coded.variableLanding (g : Nat) : Coded.Statement (.variableLanding g) := rfl
theorem Coded.landingBufferArrival (a : Nat) : Coded.Statement (.landingBufferArrival a) := rfl
theorem Coded.landingTimeout (g : Nat) : Coded.Statement (.landingTimeout g) := rfl
theorem Coded.sNop (h : SHead) (x : FmtA) : Coded.Statement (.sNop h x) := rfl
theorem Coded.add (h : SHead) (x : FmtA) : Coded.Statement (.add h x) := rfl
theorem Coded.sub (h : SHead) (x : FmtA) : Coded.Statement (.sub h x) := rfl
theorem Coded.and (h : SHead) (x : FmtA) : Coded.Statement (.and h x) := rfl
theorem Coded.or (h : SHead) (x : FmtA) : Coded.Statement (.or h x) := rfl
theorem Coded.xor (h : SHead) (x : FmtA) : Coded.Statement (.xor h x) := rfl
theorem Coded.andn (h : SHead) (x : FmtA) : Coded.Statement (.andn h x) := rfl
theorem Coded.shl (h : SHead) (x : FmtA) : Coded.Statement (.shl h x) := rfl
theorem Coded.shr (h : SHead) (x : FmtA) : Coded.Statement (.shr h x) := rfl
theorem Coded.sra (h : SHead) (x : FmtA) : Coded.Statement (.sra h x) := rfl
theorem Coded.min (h : SHead) (x : FmtA) : Coded.Statement (.min h x) := rfl
theorem Coded.max (h : SHead) (x : FmtA) : Coded.Statement (.max h x) := rfl
theorem Coded.minu (h : SHead) (x : FmtA) : Coded.Statement (.minu h x) := rfl
theorem Coded.maxu (h : SHead) (x : FmtA) : Coded.Statement (.maxu h x) := rfl
theorem Coded.addS (h : SHead) (x : FmtA) : Coded.Statement (.addS h x) := rfl
theorem Coded.subS (h : SHead) (x : FmtA) : Coded.Statement (.subS h x) := rfl
theorem Coded.mul (h : SHead) (x : FmtA) : Coded.Statement (.mul h x) := rfl
theorem Coded.mulh (h : SHead) (x : FmtA) : Coded.Statement (.mulh h x) := rfl
theorem Coded.mulhu (h : SHead) (x : FmtA) : Coded.Statement (.mulhu h x) := rfl
theorem Coded.popc (h : SHead) (x : FmtA) : Coded.Statement (.popc h x) := rfl
theorem Coded.clz (h : SHead) (x : FmtA) : Coded.Statement (.clz h x) := rfl
theorem Coded.ctz (h : SHead) (x : FmtA) : Coded.Statement (.ctz h x) := rfl
theorem Coded.div (h : SHead) (x : FmtA) : Coded.Statement (.div h x) := rfl
theorem Coded.divu (h : SHead) (x : FmtA) : Coded.Statement (.divu h x) := rfl
theorem Coded.rem (h : SHead) (x : FmtA) : Coded.Statement (.rem h x) := rfl
theorem Coded.remu (h : SHead) (x : FmtA) : Coded.Statement (.remu h x) := rfl
theorem Coded.sel (h : SHead) (x : FmtA) : Coded.Statement (.sel h x) := rfl
theorem Coded.addi (h : SHead) (x : FmtI) : Coded.Statement (.addi h x) := rfl
theorem Coded.andi (h : SHead) (x : FmtI) : Coded.Statement (.andi h x) := rfl
theorem Coded.ori (h : SHead) (x : FmtI) : Coded.Statement (.ori h x) := rfl
theorem Coded.xori (h : SHead) (x : FmtI) : Coded.Statement (.xori h x) := rfl
theorem Coded.shli (h : SHead) (x : FmtI) : Coded.Statement (.shli h x) := rfl
theorem Coded.shri (h : SHead) (x : FmtI) : Coded.Statement (.shri h x) := rfl
theorem Coded.srai (h : SHead) (x : FmtI) : Coded.Statement (.srai h x) := rfl
theorem Coded.muli (h : SHead) (x : FmtI) : Coded.Statement (.muli h x) := rfl
theorem Coded.liu (h : SHead) (x : FmtI) : Coded.Statement (.liu h x) := rfl
theorem Coded.cmp (h : SHead) (x : FmtC) : Coded.Statement (.cmp h x) := rfl
theorem Coded.flagAnd (h : SHead) (x : FmtC) : Coded.Statement (.flagAnd h x) := rfl
theorem Coded.flagOr (h : SHead) (x : FmtC) : Coded.Statement (.flagOr h x) := rfl
theorem Coded.flagXor (h : SHead) (x : FmtC) : Coded.Statement (.flagXor h x) := rfl
theorem Coded.flagAndn (h : SHead) (x : FmtC) : Coded.Statement (.flagAndn h x) := rfl
theorem Coded.spld (h : SHead) (x : FmtX) : Coded.Statement (.spld h x) := rfl
theorem Coded.spst (h : SHead) (x : FmtX) : Coded.Statement (.spst h x) := rfl
theorem Coded.csrr (h : SHead) (x : FmtX) : Coded.Statement (.csrr h x) := rfl
theorem Coded.csrw (h : SHead) (x : FmtX) : Coded.Statement (.csrw h x) := rfl
theorem Coded.prep (h : SHead) (x : FmtB) : Coded.Statement (.prep h x) := rfl
theorem Coded.loop (h : SHead) (x : FmtB) : Coded.Statement (.loop h x) := rfl
theorem Coded.endLoop (h : SHead) (x : FmtB) : Coded.Statement (.endLoop h x) := rfl
theorem Coded.xlate (h : SHead) (x : FmtH) : Coded.Statement (.xlate h x) := rfl
theorem Coded.hrel (h : SHead) (x : FmtH) : Coded.Statement (.hrel h x) := rfl
theorem Coded.fence (h : SHead) (x : FmtI) : Coded.Statement (.fence h x) := rfl
theorem Coded.wclr (h : SHead) (x : FmtI) : Coded.Statement (.wclr h x) := rfl
theorem Coded.trap (h : SHead) (x : FmtY) : Coded.Statement (.trap h x) := rfl
theorem Coded.halt (h : SHead) (x : FmtY) : Coded.Statement (.halt h x) := rfl
theorem Coded.tail (h : SHead) (x : FmtY) : Coded.Statement (.tail h x) := rfl
theorem Coded.nextTile (h : SHead) (x : FmtY) : Coded.Statement (.nextTile h x) := rfl
theorem Coded.nextTileTake (h : SHead) (x : FmtY) : Coded.Statement (.nextTileTake h x) := rfl
theorem Coded.phase (h : SHead) (x : FmtY) : Coded.Statement (.phase h x) := rfl
theorem Coded.arrive (h : SHead) (x : FmtY) : Coded.Statement (.arrive h x) := rfl
theorem Coded.arrivalDeparture (a : Nat) : Coded.Statement (.arrivalDeparture a) := rfl
theorem Coded.arrivalDelivery (a : Nat) : Coded.Statement (.arrivalDelivery a) := rfl
theorem Coded.phaseLineRaise (g p : Nat) : Coded.Statement (.phaseLineRaise g p) := rfl
theorem Coded.phaseCompletion (g p : Nat) : Coded.Statement (.phaseCompletion g p) := rfl
theorem Coded.cwSet (h : SHead) (x : FmtY) : Coded.Statement (.cwSet h x) := rfl
theorem Coded.claim (h : SHead) (x : FmtY) : Coded.Statement (.claim h x) := rfl
theorem Coded.claimDeparture (c : Nat) : Coded.Statement (.claimDeparture c) := rfl
theorem Coded.proposalArrival (c : Nat) : Coded.Statement (.proposalArrival c) := rfl
theorem Coded.claimDecision (c : Nat) : Coded.Statement (.claimDecision c) := rfl
theorem Coded.object (h : SHead) (x : FmtY) : Coded.Statement (.object h x) := rfl
theorem Coded.claimRead (h : SHead) (x : FmtY) : Coded.Statement (.claimRead h x) := rfl
theorem Coded.claimReadSample (a : Nat) : Coded.Statement (.claimReadSample a) := rfl
theorem Coded.subscribe (h : SHead) (x : FmtY) : Coded.Statement (.subscribe h x) := rfl
theorem Coded.lapse (h : SHead) (x : FmtY) : Coded.Statement (.lapse h x) := rfl
theorem Coded.board (h : SHead) (x : FmtY) : Coded.Statement (.board h x) := rfl
theorem Coded.alight (h : SHead) (x : FmtY) : Coded.Statement (.alight h x) := rfl
theorem Coded.cstat (h : SHead) (x : FmtY) : Coded.Statement (.cstat h x) := rfl
theorem Coded.subscribeAct (r : Nat) : Coded.Statement (.subscribeAct r) := rfl
theorem Coded.lapseAct (r : Nat) : Coded.Statement (.lapseAct r) := rfl
theorem Coded.boardAct (r : Nat) : Coded.Statement (.boardAct r) := rfl
theorem Coded.alightAct (r : Nat) : Coded.Statement (.alightAct r) := rfl
theorem Coded.cstatAct (r : Nat) : Coded.Statement (.cstatAct r) := rfl
theorem Coded.vNop (h : Head) (x : FmtV) : Coded.Statement (.vNop h x) := rfl
theorem Coded.vadd (h : Head) (x : FmtV) : Coded.Statement (.vadd h x) := rfl
theorem Coded.vsub (h : Head) (x : FmtV) : Coded.Statement (.vsub h x) := rfl
theorem Coded.vmin (h : Head) (x : FmtV) : Coded.Statement (.vmin h x) := rfl
theorem Coded.vmax (h : Head) (x : FmtV) : Coded.Statement (.vmax h x) := rfl
theorem Coded.vmul (h : Head) (x : FmtV) : Coded.Statement (.vmul h x) := rfl
theorem Coded.vabs (h : Head) (x : FmtV) : Coded.Statement (.vabs h x) := rfl
theorem Coded.vneg (h : Head) (x : FmtV) : Coded.Statement (.vneg h x) := rfl
theorem Coded.vand (h : Head) (x : FmtV) : Coded.Statement (.vand h x) := rfl
theorem Coded.vor (h : Head) (x : FmtV) : Coded.Statement (.vor h x) := rfl
theorem Coded.vxor (h : Head) (x : FmtV) : Coded.Statement (.vxor h x) := rfl
theorem Coded.vandn (h : Head) (x : FmtV) : Coded.Statement (.vandn h x) := rfl
theorem Coded.vshl (h : Head) (x : FmtV) : Coded.Statement (.vshl h x) := rfl
theorem Coded.vshr (h : Head) (x : FmtV) : Coded.Statement (.vshr h x) := rfl
theorem Coded.vsra (h : Head) (x : FmtV) : Coded.Statement (.vsra h x) := rfl
theorem Coded.vpopc (h : Head) (x : FmtV) : Coded.Statement (.vpopc h x) := rfl
theorem Coded.vclz (h : Head) (x : FmtV) : Coded.Statement (.vclz h x) := rfl
theorem Coded.vsel (h : Head) (x : FmtV) : Coded.Statement (.vsel h x) := rfl
theorem Coded.vfma (h : Head) (x : FmtW) : Coded.Statement (.vfma h x) := rfl
theorem Coded.vfms (h : Head) (x : FmtW) : Coded.Statement (.vfms h x) := rfl
theorem Coded.vfnma (h : Head) (x : FmtW) : Coded.Statement (.vfnma h x) := rfl
theorem Coded.vaddi (h : Head) (x : FmtJ) : Coded.Statement (.vaddi h x) := rfl
theorem Coded.vandi (h : Head) (x : FmtJ) : Coded.Statement (.vandi h x) := rfl
theorem Coded.vshli (h : Head) (x : FmtJ) : Coded.Statement (.vshli h x) := rfl
theorem Coded.vshri (h : Head) (x : FmtJ) : Coded.Statement (.vshri h x) := rfl
theorem Coded.vsrai (h : Head) (x : FmtJ) : Coded.Statement (.vsrai h x) := rfl
theorem Coded.vli (h : Head) (x : FmtJ) : Coded.Statement (.vli h x) := rfl
theorem Coded.vcmp (h : Head) (x : FmtP) : Coded.Statement (.vcmp h x) := rfl
theorem Coded.mand (h : Head) (x : FmtQ) : Coded.Statement (.mand h x) := rfl
theorem Coded.mor (h : Head) (x : FmtQ) : Coded.Statement (.mor h x) := rfl
theorem Coded.mxor (h : Head) (x : FmtQ) : Coded.Statement (.mxor h x) := rfl
theorem Coded.mandn (h : Head) (x : FmtQ) : Coded.Statement (.mandn h x) := rfl
theorem Coded.mnot (h : Head) (x : FmtQ) : Coded.Statement (.mnot h x) := rfl
theorem Coded.mlead (h : Head) (x : FmtQ) : Coded.Statement (.mlead h x) := rfl
theorem Coded.many (h : Head) (x : FmtQ) : Coded.Statement (.many h x) := rfl
theorem Coded.mall (h : Head) (x : FmtQ) : Coded.Statement (.mall h x) := rfl
theorem Coded.mpop (h : Head) (x : FmtQ) : Coded.Statement (.mpop h x) := rfl
theorem Coded.mfirst (h : Head) (x : FmtQ) : Coded.Statement (.mfirst h x) := rfl
theorem Coded.vcvt (h : Head) (x : FmtJ) : Coded.Statement (.vcvt h x) := rfl
theorem Coded.vquant (h : Head) (x : FmtG) : Coded.Statement (.vquant h x) := rfl
theorem Coded.vdeq (h : Head) (x : FmtG) : Coded.Statement (.vdeq h x) := rfl
theorem Coded.vlscv (h : Head) (x : FmtJ) : Coded.Statement (.vlscv h x) := rfl
theorem Coded.vlsadd (h : Head) (x : FmtV) : Coded.Statement (.vlsadd h x) := rfl
theorem Coded.vlsout (h : Head) (x : FmtJ) : Coded.Statement (.vlsout h x) := rfl
theorem Coded.vrsum (h : Head) (x : FmtV) : Coded.Statement (.vrsum h x) := rfl
theorem Coded.vrmax (h : Head) (x : FmtV) : Coded.Statement (.vrmax h x) := rfl
theorem Coded.vrmin (h : Head) (x : FmtV) : Coded.Statement (.vrmin h x) := rfl
theorem Coded.vperm (h : Head) (x : FmtV) : Coded.Statement (.vperm h x) := rfl
theorem Coded.vzip (h : Head) (x : FmtV) : Coded.Statement (.vzip h x) := rfl
theorem Coded.vunzip (h : Head) (x : FmtV) : Coded.Statement (.vunzip h x) := rfl
theorem Coded.vrot (h : Head) (x : FmtJ) : Coded.Statement (.vrot h x) := rfl
theorem Coded.vbcast (h : Head) (x : FmtJ) : Coded.Statement (.vbcast h x) := rfl
theorem Coded.vexp2 (h : Head) (x : FmtV) : Coded.Statement (.vexp2 h x) := rfl
theorem Coded.vlog2 (h : Head) (x : FmtV) : Coded.Statement (.vlog2 h x) := rfl
theorem Coded.vrcp (h : Head) (x : FmtV) : Coded.Statement (.vrcp h x) := rfl
theorem Coded.vrsq (h : Head) (x : FmtV) : Coded.Statement (.vrsq h x) := rfl
theorem Coded.vtanh (h : Head) (x : FmtV) : Coded.Statement (.vtanh h x) := rfl
theorem Coded.vcx (h : Head) (x : FmtW) : Coded.Statement (.vcx h x) := rfl
theorem Coded.vtwr (h : Head) (x : FmtT) : Coded.Statement (.vtwr h x) := rfl
theorem Coded.vtrd (h : Head) (x : FmtT) : Coded.Statement (.vtrd h x) := rfl
theorem Coded.mNop (h : Head) (x : FmtM) : Coded.Statement (.mNop h x) := rfl
theorem Coded.mcall (h : Head) (x : FmtM) : Coded.Statement (.mcall h x) := rfl
theorem Coded.routineStart (g : Nat) : Coded.Statement (.routineStart g) := rfl
theorem Coded.routineLanding (g : Nat) : Coded.Statement (.routineLanding g) := rfl
theorem Coded.mzero (h : Head) (x : FmtM) : Coded.Statement (.mzero h x) := rfl
theorem Coded.mdrain (h : Head) (x : FmtD) : Coded.Statement (.mdrain h x) := rfl
theorem Coded.kNop (h : Head) (x : FmtK) : Coded.Statement (.kNop h x) := rfl
theorem Coded.kldh (h : Head) (x : FmtK) : Coded.Statement (.kldh h x) := rfl
theorem Coded.ksth (h : Head) (x : FmtK) : Coded.Statement (.ksth h x) := rfl
theorem Coded.kmvv (h : Head) (x : FmtZ) : Coded.Statement (.kmvv h x) := rfl
theorem Coded.kmvz (h : Head) (x : FmtZ) : Coded.Statement (.kmvz h x) := rfl
theorem Coded.kmov (h : Head) (x : FmtZ) : Coded.Statement (.kmov h x) := rfl
theorem Coded.kltl (h : Head) (x : FmtZ) : Coded.Statement (.kltl h x) := rfl
theorem Coded.cNop (h : Head) (x : FmtL) : Coded.Statement (.cNop h x) := rfl
theorem Coded.ldVector (h : Head) (x : FmtL) : Coded.Statement (.ldVector h x) := rfl
theorem Coded.stVector (h : Head) (x : FmtE) : Coded.Statement (.stVector h x) := rfl
theorem Coded.ldTile (h : Head) (x : FmtL) : Coded.Statement (.ldTile h x) := rfl
theorem Coded.stTile (h : Head) (x : FmtE) : Coded.Statement (.stTile h x) := rfl
theorem Coded.ldScalar (k : ScalarLoad) (h : Head) (x : FmtL) : Coded.Statement (.ldScalar k h x) := rfl
theorem Coded.stScalar (k : ScalarStore) (h : Head) (x : FmtE) : Coded.Statement (.stScalar k h x) := rfl
theorem Coded.cpy (h : Head) (x : FmtN) : Coded.Statement (.cpy h x) := rfl
theorem Coded.cpyc (h : Head) (x : FmtN) : Coded.Statement (.cpyc h x) := rfl
theorem Coded.cpyq (h : Head) (x : FmtN) : Coded.Statement (.cpyq h x) := rfl
theorem Coded.cpyx (h : Head) (x : FmtN) : Coded.Statement (.cpyx h x) := rfl
theorem Coded.cpyz (h : Head) (x : FmtN) : Coded.Statement (.cpyz h x) := rfl
theorem Coded.wbld (h : Head) (x : FmtN) : Coded.Statement (.wbld h x) := rfl
theorem Coded.gath (h : Head) (x : FmtN) : Coded.Statement (.gath h x) := rfl
theorem Coded.scat (h : Head) (x : FmtN) : Coded.Statement (.scat h x) := rfl
theorem Coded.mcast (h : Head) (x : FmtN) : Coded.Statement (.mcast h x) := rfl
theorem Coded.cfence (h : Head) (x : FmtF) : Coded.Statement (.cfence h x) := rfl
theorem Coded.cacq (h : Head) (x : FmtF) : Coded.Statement (.cacq h x) := rfl
theorem Coded.crel (h : Head) (x : FmtF) : Coded.Statement (.crel h x) := rfl
theorem Coded.ctld (h : Head) (x : FmtF) : Coded.Statement (.ctld h x) := rfl
theorem Coded.copyCommandStart (g e : Nat) : Coded.Statement (.copyCommandStart g e) := rfl
theorem Coded.copyElement (g e : Nat) : Coded.Statement (.copyElement g e) := rfl
theorem Coded.copyCommandComplete (g e : Nat) : Coded.Statement (.copyCommandComplete g e) := rfl
theorem Coded.send (h : Head) (x : FmtO) : Coded.Statement (.send h x) := rfl
theorem Coded.recv (h : Head) (x : FmtO) : Coded.Statement (.recv h x) := rfl
theorem Coded.circuitDeparture (m : Nat) : Coded.Statement (.circuitDeparture m) := rfl
theorem Coded.circuitArrival (m : Nat) : Coded.Statement (.circuitArrival m) := rfl
theorem Coded.aadd (h : Head) (x : FmtU) : Coded.Statement (.aadd h x) := rfl
theorem Coded.aand (h : Head) (x : FmtU) : Coded.Statement (.aand h x) := rfl
theorem Coded.aor (h : Head) (x : FmtU) : Coded.Statement (.aor h x) := rfl
theorem Coded.axor (h : Head) (x : FmtU) : Coded.Statement (.axor h x) := rfl
theorem Coded.amin (h : Head) (x : FmtU) : Coded.Statement (.amin h x) := rfl
theorem Coded.amax (h : Head) (x : FmtU) : Coded.Statement (.amax h x) := rfl
theorem Coded.axchg (h : Head) (x : FmtU) : Coded.Statement (.axchg h x) := rfl
theorem Coded.acas (h : Head) (x : FmtU) : Coded.Statement (.acas h x) := rfl
theorem Coded.atomicExecute (a : Nat) : Coded.Statement (.atomicExecute a) := rfl
theorem Coded.accessPerform (a i : Nat) : Coded.Statement (.accessPerform a i) := rfl
theorem Coded.writeAcknowledge (a : Nat) : Coded.Statement (.writeAcknowledge a) := rfl
theorem Coded.sourceInterfaceRelease (a : Nat) : Coded.Statement (.sourceInterfaceRelease a) := rfl
theorem Coded.hbmRequestSend (a : Nat) : Coded.Statement (.hbmRequestSend a) := rfl
theorem Coded.segmentLineDelivered (g fr line : Nat) : Coded.Statement (.segmentLineDelivered g fr line) := rfl
theorem Coded.handleValid (g h : Nat) : Coded.Statement (.handleValid g h) := rfl
theorem Coded.translationCacheMiss (g h : Nat) : Coded.Statement (.translationCacheMiss g h) := rfl
theorem Coded.translationWalkEnd (g h : Nat) : Coded.Statement (.translationWalkEnd g h) := rfl
theorem Coded.placementRestart (l : Nat) : Coded.Statement (.placementRestart l) := rfl
theorem Coded.dataErrorDetected (g : Nat) : Coded.Statement (.dataErrorDetected g) := rfl
theorem Coded.rollbackRerunEnd (g : Nat) : Coded.Statement (.rollbackRerunEnd g) := rfl
theorem Coded.launchStart (l : Nat) : Coded.Statement (.launchStart l) := rfl
theorem Coded.launchRetirement (l : Nat) : Coded.Statement (.launchRetirement l) := rfl
theorem Coded.portalDmwr (fn page : Nat) (size off : Nat) (packet : BitVec 512) : Coded.Statement (.portalDmwr fn page size off packet) := rfl
theorem Coded.portalMisuse (fn page : Nat) (write : Bool) : Coded.Statement (.portalMisuse fn page write) := rfl
theorem Coded.slotPoll (sl : Nat) : Coded.Statement (.slotPoll sl) := rfl
theorem Coded.saveComplete (l : Nat) : Coded.Statement (.saveComplete l) := rfl
theorem Coded.shootdownReachCore (sd g : Nat) : Coded.Statement (.shootdownReachCore sd g) := rfl
theorem Coded.shootdownComplete (sd : Nat) : Coded.Statement (.shootdownComplete sd) := rfl
theorem Coded.registerWrite (fn bar : Nat) (off : RegSpan) (val : Word) : Coded.Statement (.registerWrite fn bar off val) := rfl
theorem Coded.streamStop (e : Nat) : Coded.Statement (.streamStop e) := rfl
theorem Coded.streamFetch (e sq : Nat) : Coded.Statement (.streamFetch e sq) := rfl
theorem Coded.deepTierReadStart (e sq : Nat) : Coded.Statement (.deepTierReadStart e sq) := rfl
theorem Coded.deepTierReadEnd (e sq : Nat) (bad : Bool) : Coded.Statement (.deepTierReadEnd e sq bad) := rfl
theorem Coded.streamTileComplete (g e sq : Nat) : Coded.Statement (.streamTileComplete g e sq) := rfl
theorem Coded.streamSlotWrite (g e sq : Nat) : Coded.Statement (.streamSlotWrite g e sq) := rfl
theorem Coded.tsvGroupFailed (ch grp : Nat) : Coded.Statement (.tsvGroupFailed ch grp) := rfl
theorem Coded.sparingSweepLine (ch line : Nat) : Coded.Statement (.sparingSweepLine ch line) := rfl
theorem Coded.refreshPlanWrite (ch : Nat) (hot release : Bool) : Coded.Statement (.refreshPlanWrite ch hot release) := rfl
theorem Coded.refreshTakeover (ch : Nat) : Coded.Statement (.refreshTakeover ch) := rfl
theorem Coded.blockReencryptionComplete (blk : Nat) : Coded.Statement (.blockReencryptionComplete blk) := rfl
theorem Coded.spareBringIn (u : SpareUnit) : Coded.Statement (.spareBringIn u) := rfl
theorem Coded.spareThreshold (u : SpareUnit) : Coded.Statement (.spareThreshold u) := rfl
theorem Coded.shepherdCoreFailure (die i : Nat) : Coded.Statement (.shepherdCoreFailure die i) := rfl
theorem Coded.fatalError (cause die : Nat) : Coded.Statement (.fatalError cause die) := rfl
theorem Coded.thermalEvent (deg die : Nat) : Coded.Statement (.thermalEvent deg die) := rfl
theorem Coded.flr (fn : Nat) : Coded.Statement (.flr fn) := rfl
theorem Coded.flrQuiesce (fn : Nat) : Coded.Statement (.flrQuiesce fn) := rfl
theorem Coded.flrComplete (fn : Nat) : Coded.Statement (.flrComplete fn) := rfl
theorem Coded.flitReceive (l : Nat) (flit : BitVec 1792) : Coded.Statement (.flitReceive l flit) := rfl
theorem Coded.laneFailed (l lane : Nat) : Coded.Statement (.laneFailed l lane) := rfl
theorem Coded.laneSpareSwitch (l : Nat) : Coded.Statement (.laneSpareSwitch l) := rfl
theorem Coded.linkDown (l reason : Nat) : Coded.Statement (.linkDown l reason) := rfl
theorem Coded.linkSilenceTimeout (l : Nat) : Coded.Statement (.linkSilenceTimeout l) := rfl
theorem Coded.hostTermination (l : Nat) : Coded.Statement (.hostTermination l) := rfl
theorem Coded.bankCopyComplete (hive bank : Nat) : Coded.Statement (.bankCopyComplete hive bank) := rfl
theorem Coded.frameStart : Coded.Statement (.frameStart) := rfl
theorem Coded.admissionPass : Coded.Statement (.admissionPass) := rfl
theorem Coded.rampSlotBoundary : Coded.Statement (.rampSlotBoundary) := rfl
theorem Coded.doorbell : Coded.Statement (.doorbell) := rfl
theorem Coded.qreset : Coded.Statement (.qreset) := rfl
theorem Coded.resumeRetry : Coded.Statement (.resumeRetry) := rfl
theorem Coded.resumeRetranslate : Coded.Statement (.resumeRetranslate) := rfl
theorem Coded.resumeSkip : Coded.Statement (.resumeSkip) := rfl
theorem Coded.resumeClearPrt : Coded.Statement (.resumeClearPrt) := rfl
theorem Coded.resumeTerminate : Coded.Statement (.resumeTerminate) := rfl
theorem Coded.shootN : Coded.Statement (.shootN) := rfl
theorem Coded.frHead : Coded.Statement (.frHead) := rfl
theorem Coded.execCmd : Coded.Statement (.execCmd) := rfl
theorem Coded.qcreate : Coded.Statement (.qcreate) := rfl
theorem Coded.qdestroy : Coded.Statement (.qdestroy) := rfl
theorem Coded.shoot2 : Coded.Statement (.shoot2) := rfl
theorem Coded.shootF : Coded.Statement (.shootF) := rfl
theorem Coded.rekey : Coded.Statement (.rekey) := rfl
theorem Coded.create : Coded.Statement (.create) := rfl
theorem Coded.cost : Coded.Statement (.cost) := rfl
theorem Coded.rights : Coded.Statement (.rights) := rfl
theorem Coded.replica : Coded.Statement (.replica) := rfl
theorem Coded.schedule : Coded.Statement (.schedule) := rfl
theorem Coded.stop : Coded.Statement (.stop) := rfl
theorem Coded.replace : Coded.Statement (.replace) := rfl
theorem Coded.loadDeep : Coded.Statement (.loadDeep) := rfl
theorem Coded.fwStage : Coded.Statement (.fwStage) := rfl
theorem Coded.fwCommit : Coded.Statement (.fwCommit) := rfl
theorem Coded.devReset : Coded.Statement (.devReset) := rfl
theorem Coded.attest : Coded.Statement (.attest) := rfl
theorem Coded.hrBase : Coded.Statement (.hrBase) := rfl
theorem Coded.periodBoundary : Coded.Statement (.periodBoundary) := rfl
theorem Coded.powerGood : Coded.Statement (.powerGood) := rfl
theorem Coded.spare : Coded.Statement (.spare) := rfl
theorem Coded.spareAck : Coded.Statement (.spareAck) := rfl
theorem Coded.align : Coded.Statement (.align) := rfl
theorem Coded.alignAck : Coded.Statement (.alignAck) := rfl
theorem Coded.down : Coded.Statement (.down) := rfl
theorem Coded.linkRead : Coded.Statement (.linkRead) := rfl
theorem Coded.linkWrite : Coded.Statement (.linkWrite) := rfl
theorem Coded.linkAtomic : Coded.Statement (.linkAtomic) := rfl
theorem Coded.readReply : Coded.Statement (.readReply) := rfl
theorem Coded.writeAcknowledgment : Coded.Statement (.writeAcknowledgment) := rfl
theorem Coded.atomicReply : Coded.Statement (.atomicReply) := rfl
theorem Coded.linkScheduleActivate : Coded.Statement (.linkScheduleActivate) := rfl
theorem Coded.dieLinkLost : Coded.Statement (.dieLinkLost) := rfl
theorem Coded.flitTime : Coded.Statement (.flitTime) := rfl
theorem Coded.commandDone : Coded.Statement (.commandDone) := rfl

end Sys2Proof.Laws
end

