-- ==== Sys2Proof/Tests/Slice0.lean ====
section
/-!
SUPPORT. Tests: encodings written out from the manual's tables decode to what they stand for, ill-formed encodings are refused, and
each statement's hypotheses are met by a state and operands named here.
-/
namespace Sys2Proof.Tests

open Sys2Proof Sys2Proof.Machine

set_option Elab.async false

/-! ## Decoding -/

/-! ## Small states -/

/-- The module after reset with core 0 as given. -/
def withCore (c : Core) : State := { State.reset with cores := [(0, c)] }

/-- A core in the middle of a repetition at address 0x40 and cycle 100. -/
def core0 : Core := { Core.reset with iPc := 0x40, iNext := 0x58, iCyc := 100, iLast := true, cycle := 100, turn := 100 }

/-- An unpredicated S syllable of a core with `%debug.PRT` 0 is ready, whatever it reads. -/
theorem sReady_of_prt {s : State} (h : s.curCore.prt = false) (reads : List ReadUnit) : SReady s ⟨15, 0⟩ reads :=
  ⟨rfl, rfl, pendingCheck_off h reads⟩

/-- So is an unpredicated syllable of the M, K and copy classes. -/
theorem fReady_of_prt {s : State} (h : s.curCore.prt = false) (sl : Slot) (reads : List ReadUnit) :
    FReady s ⟨sl, 0, 15, 0, 0, 0, 0⟩ reads := ⟨rfl, rfl, pendingCheck_off h reads⟩

/-- So is an unpredicated V syllable. -/
theorem vReady_of_prt {s : State} (h : s.curCore.prt = false) (sl : Slot) (reads : List ReadUnit) :
    VReady s ⟨sl, 0, 15, 0, 0, 0, 0⟩ reads := ⟨rfl, pendingCheck_off h reads⟩

/-- The module with the page of virtual address 0 of the PF mapped to physical page 5, for reading and writing, by tables in pages 1
to 3 (R288, R289). -/
def mapped (s : State) : State :=
  let s1 := writeWord (writeWord (writeWord s 0x10000 0x20001) 0x20000 0x30001) 0x30000 0x5000F
  s1.updFunc 0 fun f => { f with applied := [0, 0, 1], s1Root := 0x10000 }

/-- The module about to issue a bundle of one S syllable on core 0, which runs launch 1. -/
def running (w : Nat) : State := State.reset.withFetchWord 128 (0x8000000000000000 + 2 ^ 64 * w)

/-- What a step leads to, where it goes on. -/
def nextOr (r : Res) : State :=
  match r with
  | .next t => t
  | _ => State.reset

/-- A vector request that has come to its cycle, with its data or without. -/
def request (data : Option (List Byte)) : Request :=
  { id := 7, issue := 40, arr := 100, entries := 8, target := .vec 3, slot := 5, baddr := 0, rep := 0, data := data, poison := [],
    pline := 0, cause := 0, paddr := 0, atomic := false, recv := none }

/-- The module with core 0 as given, in launch 1, which runs. -/
def launched (c : Core) : State :=
  { State.reset with cores := [(0, { c with launch := some 1 })], launches := [(1, fetchLaunch 0)], nextId := 2 }

/-- Words of format A, written out from R92, R101 and R106. -/
theorem test_decode_alu :
    decodeSyllable .s 0x0004000000000000 = .ok (.sNop ⟨0, 1⟩ ⟨0, 0, 0, 0⟩) ∧
    decodeSyllable .s 0x0178525100000000 = .ok (.add ⟨15, 0⟩ ⟨5, 9, 17, 0⟩) ∧
    decodeSyllable .s 0x0278525100000000 = .ok (.sub ⟨15, 0⟩ ⟨5, 9, 17, 0⟩) ∧
    decodeSyllable .s 0x031C525100000000 = .ok (.and ⟨3, 1⟩ ⟨5, 9, 17, 0⟩) ∧
    decodeSyllable .s 0x0478525100000000 = .ok (.or ⟨15, 0⟩ ⟨5, 9, 17, 0⟩) ∧
    decodeSyllable .s 0x0578525100000000 = .ok (.xor ⟨15, 0⟩ ⟨5, 9, 17, 0⟩) ∧
    decodeSyllable .s 0x0604525100000000 = .ok (.andn ⟨0, 1⟩ ⟨5, 9, 17, 0⟩) ∧
    decodeSyllable .s 0x0778525100000000 = .ok (.shl ⟨15, 0⟩ ⟨5, 9, 17, 0⟩) ∧
    decodeSyllable .s 0x0878525100000000 = .ok (.shr ⟨15, 0⟩ ⟨5, 9, 17, 0⟩) ∧
    decodeSyllable .s 0x091C525100000000 = .ok (.sra ⟨3, 1⟩ ⟨5, 9, 17, 0⟩) ∧
    decodeSyllable .s 0x0A78525100000000 = .ok (.min ⟨15, 0⟩ ⟨5, 9, 17, 0⟩) ∧
    decodeSyllable .s 0x0B78525100000000 = .ok (.max ⟨15, 0⟩ ⟨5, 9, 17, 0⟩) ∧
    decodeSyllable .s 0x0C04525100000000 = .ok (.minu ⟨0, 1⟩ ⟨5, 9, 17, 0⟩) ∧
    decodeSyllable .s 0x0D78525100000000 = .ok (.maxu ⟨15, 0⟩ ⟨5, 9, 17, 0⟩) ∧
    decodeSyllable .s 0x0E78525100000000 = .ok (.addS ⟨15, 0⟩ ⟨5, 9, 17, 0⟩) ∧
    decodeSyllable .s 0x0F1C525100000000 = .ok (.subS ⟨3, 1⟩ ⟨5, 9, 17, 0⟩) ∧
    decodeSyllable .s 0x1078525100000000 = .ok (.mul ⟨15, 0⟩ ⟨5, 9, 17, 0⟩) ∧
    decodeSyllable .s 0x1178525100000000 = .ok (.mulh ⟨15, 0⟩ ⟨5, 9, 17, 0⟩) ∧
    decodeSyllable .s 0x1204525100000000 = .ok (.mulhu ⟨0, 1⟩ ⟨5, 9, 17, 0⟩) ∧
    decodeSyllable .s 0x1378524000000000 = .ok (.popc ⟨15, 0⟩ ⟨5, 9, 0, 0⟩) ∧
    decodeSyllable .s 0x1478524000000000 = .ok (.clz ⟨15, 0⟩ ⟨5, 9, 0, 0⟩) ∧
    decodeSyllable .s 0x151C524000000000 = .ok (.ctz ⟨3, 1⟩ ⟨5, 9, 0, 0⟩) ∧
    decodeSyllable .s 0x1678525100000000 = .ok (.div ⟨15, 0⟩ ⟨5, 9, 17, 0⟩) ∧
    decodeSyllable .s 0x1778525100000000 = .ok (.divu ⟨15, 0⟩ ⟨5, 9, 17, 0⟩) ∧
    decodeSyllable .s 0x1804525100000000 = .ok (.rem ⟨0, 1⟩ ⟨5, 9, 17, 0⟩) ∧
    decodeSyllable .s 0x1978525100000000 = .ok (.remu ⟨15, 0⟩ ⟨5, 9, 17, 0⟩) ∧
    decodeSyllable .s 0x1A78525160000000 = .ok (.sel ⟨15, 0⟩ ⟨5, 9, 17, 3⟩) := by
  repeat' apply And.intro
  all_goals rfl

/-- Words of format I, written out from R92, R101 and R106. -/
theorem test_decode_immediate :
    decodeSyllable .s 0x201C527FFFFFFFFD = .ok (.addi ⟨3, 1⟩ ⟨5, 9, 274877906941⟩) ∧
    decodeSyllable .s 0x2178527FFFFFFFFD = .ok (.andi ⟨15, 0⟩ ⟨5, 9, 274877906941⟩) ∧
    decodeSyllable .s 0x2278527FFFFFFFFD = .ok (.ori ⟨15, 0⟩ ⟨5, 9, 274877906941⟩) ∧
    decodeSyllable .s 0x2304527FFFFFFFFD = .ok (.xori ⟨0, 1⟩ ⟨5, 9, 274877906941⟩) ∧
    decodeSyllable .s 0x2478524000000025 = .ok (.shli ⟨15, 0⟩ ⟨5, 9, 37⟩) ∧
    decodeSyllable .s 0x2578524000000025 = .ok (.shri ⟨15, 0⟩ ⟨5, 9, 37⟩) ∧
    decodeSyllable .s 0x261C524000000025 = .ok (.srai ⟨3, 1⟩ ⟨5, 9, 37⟩) ∧
    decodeSyllable .s 0x2778527FFFFFFFFD = .ok (.muli ⟨15, 0⟩ ⟨5, 9, 274877906941⟩) ∧
    decodeSyllable .s 0x2878524002ABCDEF = .ok (.liu ⟨15, 0⟩ ⟨5, 9, 44813807⟩) ∧
    decodeSyllable .s 0x5078000000168001 = .ok (.fence ⟨15, 0⟩ ⟨0, 0, 1474561⟩) ∧
    decodeSyllable .s 0x511C000080000001 = .ok (.wclr ⟨3, 1⟩ ⟨0, 0, 2147483649⟩) := by
  repeat' apply And.intro
  all_goals rfl

/-- Words of format C, written out from R92, R101 and R106. -/
theorem test_decode_compare :
    decodeSyllable .s 0x3006128900000000 = .ok (.cmp ⟨0, 1⟩ ⟨4, 9, 17, 2, 0, 0⟩) ∧
    decodeSyllable .s 0x317A0A1000000000 = .ok (.flagAnd ⟨15, 0⟩ ⟨4, 5, 2, 0, 0, 0⟩) ∧
    decodeSyllable .s 0x327A0A1000000000 = .ok (.flagOr ⟨15, 0⟩ ⟨4, 5, 2, 0, 0, 0⟩) ∧
    decodeSyllable .s 0x331E0A1000000000 = .ok (.flagXor ⟨3, 1⟩ ⟨4, 5, 2, 0, 0, 0⟩) ∧
    decodeSyllable .s 0x347A0A1000000000 = .ok (.flagAndn ⟨15, 0⟩ ⟨4, 5, 2, 0, 0, 0⟩) := by
  repeat' apply And.intro
  all_goals rfl

/-- Words of format X, written out from R92, R101 and R106. -/
theorem test_decode_spill_csr :
    decodeSyllable .s 0x3878625F3C000000 = .ok (.spld ⟨15, 0⟩ ⟨6, 9, 1999⟩) ∧
    decodeSyllable .s 0x3904625FFC000000 = .ok (.spst ⟨0, 1⟩ ⟨6, 9, 2047⟩) ∧
    decodeSyllable .s 0x3A786000B0000000 = .ok (.csrr ⟨15, 0⟩ ⟨6, 0, 44⟩) ∧
    decodeSyllable .s 0x3B78600040000000 = .ok (.csrw ⟨15, 0⟩ ⟨6, 0, 16⟩) := by
  repeat' apply And.intro
  all_goals rfl

/-- Words of format B, written out from R92, R101 and R106. -/
theorem test_decode_branch :
    decodeSyllable .s 0x401D1200009A0000 = .ok (.prep ⟨3, 1⟩ ⟨2, 9, 77⟩) ∧
    decodeSyllable .s 0x41799200009A0000 = .ok (.loop ⟨15, 0⟩ ⟨3, 9, 77⟩) ∧
    decodeSyllable .s 0x4278800000000000 = .ok (.endLoop ⟨15, 0⟩ ⟨1, 0, 0⟩) := by
  repeat' apply And.intro
  all_goals rfl

/-- Words of format H, written out from R92, R101 and R106. -/
theorem test_decode_handle :
    decodeSyllable .s 0x4806C98000000000 = .ok (.xlate ⟨0, 1⟩ ⟨11, 9, 2⟩) ∧
    decodeSyllable .s 0x497AC00000000000 = .ok (.hrel ⟨15, 0⟩ ⟨11, 0, 0⟩) := by
  repeat' apply And.intro
  all_goals rfl

/-- Words of format Y, written out from R92, R101 and R106. -/
theorem test_decode_sequencing :
    decodeSyllable .s 0x5878000000000ABC = .ok (.trap ⟨15, 0⟩ ⟨0, 0, 0, 0, 0, 0, 2748⟩) ∧
    decodeSyllable .s 0x5978000000000000 = .ok (.halt ⟨15, 0⟩ ⟨0, 0, 0, 0, 0, 0, 0⟩) ∧
    decodeSyllable .s 0x5A040240000007F8 = .ok (.tail ⟨0, 1⟩ ⟨0, 9, 0, 0, 0, 0, 2040⟩) ∧
    decodeSyllable .s 0x5B78000000000000 = .ok (.nextTile ⟨15, 0⟩ ⟨0, 0, 0, 0, 0, 0, 0⟩) ∧
    decodeSyllable .s 0x5B78700000000001 = .ok (.nextTileTake ⟨15, 0⟩ ⟨7, 0, 0, 0, 0, 0, 1⟩) ∧
    decodeSyllable .s 0x601C0240D30009A5 = .ok (.phase ⟨3, 1⟩ ⟨0, 9, 0, 6, 19, 0, 2469⟩) ∧
    decodeSyllable .s 0x6178024060000123 = .ok (.arrive ⟨15, 0⟩ ⟨0, 9, 0, 3, 0, 0, 291⟩) ∧
    decodeSyllable .s 0x6A780240A0000321 = .ok (.cwSet ⟨15, 0⟩ ⟨0, 9, 0, 5, 0, 0, 801⟩) ∧
    decodeSyllable .s 0x6804525140309025 = .ok (.claim ⟨0, 1⟩ ⟨5, 9, 17, 2, 0, 777, 37⟩) ∧
    decodeSyllable .s 0x6978024000000025 = .ok (.object ⟨15, 0⟩ ⟨0, 9, 0, 0, 0, 0, 37⟩) ∧
    decodeSyllable .s 0x6878524000309825 = .ok (.claimRead ⟨15, 0⟩ ⟨5, 9, 0, 0, 0, 777, 2085⟩) ∧
    decodeSyllable .s 0x701C524013309825 = .ok (.subscribe ⟨3, 1⟩ ⟨5, 9, 0, 0, 19, 777, 2085⟩) ∧
    decodeSyllable .s 0x7178524000309025 = .ok (.lapse ⟨15, 0⟩ ⟨5, 9, 0, 0, 0, 777, 37⟩) ∧
    decodeSyllable .s 0x7278524013309825 = .ok (.board ⟨15, 0⟩ ⟨5, 9, 0, 0, 19, 777, 2085⟩) ∧
    decodeSyllable .s 0x7304524000309025 = .ok (.alight ⟨0, 1⟩ ⟨5, 9, 0, 0, 0, 777, 37⟩) ∧
    decodeSyllable .s 0x7478524013309825 = .ok (.cstat ⟨15, 0⟩ ⟨5, 9, 0, 0, 19, 777, 2085⟩) := by
  repeat' apply And.intro
  all_goals rfl

/-- Words of format V, written out from R92, R102 and R106. -/
theorem test_decode_vector :
    decodeSyllable .v0 0x00F8000000000000 = .ok (.vNop ⟨.v0, 1, 15, 0, 0, 0, 0⟩ ⟨0, 0, 0, 0, 0, 0, 0⟩) ∧
    decodeSyllable .v1 0x011DD552AA554500 = .ok (.vadd ⟨.v1, 0, 3, 1, 5, 0, 0⟩ ⟨7, 341, 170, 597, 0, 2, 0⟩) ∧
    decodeSyllable .v0 0x02F91552AA551500 = .ok (.vsub ⟨.v0, 1, 15, 0, 5, 0, 0⟩ ⟨4, 341, 170, 597, 0, 0, 1⟩) ∧
    decodeSyllable .v1 0x03785552AA550500 = .ok (.vmin ⟨.v1, 0, 15, 0, 5, 0, 0⟩ ⟨1, 341, 170, 597, 0, 0, 0⟩) ∧
    decodeSyllable .v0 0x04845552AA550500 = .ok (.vmax ⟨.v0, 1, 0, 1, 5, 0, 0⟩ ⟨1, 341, 170, 597, 0, 0, 0⟩) ∧
    decodeSyllable .v1 0x05785552A8008500 = .ok (.vmul ⟨.v1, 0, 15, 0, 5, 0, 0⟩ ⟨1, 341, 170, 0, 1, 0, 0⟩) ∧
    decodeSyllable .v0 0x06F85552A8000500 = .ok (.vabs ⟨.v0, 1, 15, 0, 5, 0, 0⟩ ⟨1, 341, 170, 0, 0, 0, 0⟩) ∧
    decodeSyllable .v1 0x071C5552A8000500 = .ok (.vneg ⟨.v1, 0, 3, 1, 5, 0, 0⟩ ⟨1, 341, 170, 0, 0, 0, 0⟩) ∧
    decodeSyllable .v0 0x08F85552AA550500 = .ok (.vand ⟨.v0, 1, 15, 0, 5, 0, 0⟩ ⟨1, 341, 170, 597, 0, 0, 0⟩) ∧
    decodeSyllable .v1 0x09785552AA550500 = .ok (.vor ⟨.v1, 0, 15, 0, 5, 0, 0⟩ ⟨1, 341, 170, 597, 0, 0, 0⟩) ∧
    decodeSyllable .v0 0x0A845552AA550500 = .ok (.vxor ⟨.v0, 1, 0, 1, 5, 0, 0⟩ ⟨1, 341, 170, 597, 0, 0, 0⟩) ∧
    decodeSyllable .v1 0x0B785552AA550500 = .ok (.vandn ⟨.v1, 0, 15, 0, 5, 0, 0⟩ ⟨1, 341, 170, 597, 0, 0, 0⟩) ∧
    decodeSyllable .v0 0x0CF85552AA550500 = .ok (.vshl ⟨.v0, 1, 15, 0, 5, 0, 0⟩ ⟨1, 341, 170, 597, 0, 0, 0⟩) ∧
    decodeSyllable .v1 0x0D1C5552AA550500 = .ok (.vshr ⟨.v1, 0, 3, 1, 5, 0, 0⟩ ⟨1, 341, 170, 597, 0, 0, 0⟩) ∧
    decodeSyllable .v0 0x0EF89552AA550500 = .ok (.vsra ⟨.v0, 1, 15, 0, 5, 0, 0⟩ ⟨2, 341, 170, 597, 0, 0, 0⟩) ∧
    decodeSyllable .v1 0x0F785552A8000500 = .ok (.vpopc ⟨.v1, 0, 15, 0, 5, 0, 0⟩ ⟨1, 341, 170, 0, 0, 0, 0⟩) ∧
    decodeSyllable .v0 0x10845552A8000500 = .ok (.vclz ⟨.v0, 1, 0, 1, 5, 0, 0⟩ ⟨1, 341, 170, 0, 0, 0, 0⟩) ∧
    decodeSyllable .v1 0x11785552AA550500 = .ok (.vsel ⟨.v1, 0, 15, 0, 5, 0, 0⟩ ⟨1, 341, 170, 597, 0, 0, 0⟩) ∧
    decodeSyllable .v0 0x41FB9552AA550500 = .ok (.vlsadd ⟨.v0, 1, 15, 0, 5, 0, 0⟩ ⟨14, 341, 170, 597, 0, 0, 0⟩) ∧
    decodeSyllable .v0 0x48F85552A8000500 = .ok (.vrsum ⟨.v0, 1, 15, 0, 5, 0, 0⟩ ⟨1, 341, 170, 0, 0, 0, 0⟩) ∧
    decodeSyllable .v1 0x49785552A8000500 = .ok (.vrmax ⟨.v1, 0, 15, 0, 5, 0, 0⟩ ⟨1, 341, 170, 0, 0, 0, 0⟩) ∧
    decodeSyllable .v0 0x4A845552A8000500 = .ok (.vrmin ⟨.v0, 1, 0, 1, 5, 0, 0⟩ ⟨1, 341, 170, 0, 0, 0, 0⟩) ∧
    decodeSyllable .v1 0x50785552AA550500 = .ok (.vperm ⟨.v1, 0, 15, 0, 5, 0, 0⟩ ⟨1, 341, 170, 597, 0, 0, 0⟩) ∧
    decodeSyllable .v0 0x51F85552AA550500 = .ok (.vzip ⟨.v0, 1, 15, 0, 5, 0, 0⟩ ⟨1, 341, 170, 597, 0, 0, 0⟩) ∧
    decodeSyllable .v1 0x521C5552AA550500 = .ok (.vunzip ⟨.v1, 0, 3, 1, 5, 0, 0⟩ ⟨1, 341, 170, 597, 0, 0, 0⟩) ∧
    decodeSyllable .v0 0x58859552A8002500 = .ok (.vexp2 ⟨.v0, 1, 0, 1, 5, 0, 0⟩ ⟨6, 341, 170, 0, 0, 1, 0⟩) ∧
    decodeSyllable .v1 0x59799552A8002500 = .ok (.vlog2 ⟨.v1, 0, 15, 0, 5, 0, 0⟩ ⟨6, 341, 170, 0, 0, 1, 0⟩) ∧
    decodeSyllable .v0 0x5AF99552A8002500 = .ok (.vrcp ⟨.v0, 1, 15, 0, 5, 0, 0⟩ ⟨6, 341, 170, 0, 0, 1, 0⟩) ∧
    decodeSyllable .v1 0x5B1D9552A8002500 = .ok (.vrsq ⟨.v1, 0, 3, 1, 5, 0, 0⟩ ⟨6, 341, 170, 0, 0, 1, 0⟩) ∧
    decodeSyllable .v0 0x5CF99552A8002500 = .ok (.vtanh ⟨.v0, 1, 15, 0, 5, 0, 0⟩ ⟨6, 341, 170, 0, 0, 1, 0⟩) := by
  repeat' apply And.intro
  all_goals rfl

/-- Words of format W, written out from R92, R102 and R106. -/
theorem test_decode_fused :
    decodeSyllable .v0 0x14FA1552AA551575 = .ok (.vfma ⟨.v0, 1, 15, 0, 5, 0, 0⟩ ⟨8, 341, 170, 597, 85, 3⟩) ∧
    decodeSyllable .v1 0x151E1552AA551575 = .ok (.vfms ⟨.v1, 0, 3, 1, 5, 0, 0⟩ ⟨8, 341, 170, 597, 85, 3⟩) ∧
    decodeSyllable .v0 0x16FA1552AA551575 = .ok (.vfnma ⟨.v0, 1, 15, 0, 5, 0, 0⟩ ⟨8, 341, 170, 597, 85, 3⟩) ∧
    decodeSyllable .v1 0x6078D552AA551545 = .ok (.vcx ⟨.v1, 0, 15, 0, 5, 0, 0⟩ ⟨3, 341, 170, 597, 85, 0⟩) := by
  repeat' apply And.intro
  all_goals rfl

/-- Words of format J, written out from R92, R102 and R106. -/
theorem test_decode_vector_immediate :
    decodeSyllable .v1 0x18785552ABFFC050 = .ok (.vaddi ⟨.v1, 0, 15, 0, 5, 0, 0⟩ ⟨1, 341, 170, 65520, 0⟩) ∧
    decodeSyllable .v0 0x19845552A8009450 = .ok (.vandi ⟨.v0, 1, 0, 1, 5, 0, 0⟩ ⟨1, 341, 170, 37, 0⟩) ∧
    decodeSyllable .v1 0x1A785552A8003C50 = .ok (.vshli ⟨.v1, 0, 15, 0, 5, 0, 0⟩ ⟨1, 341, 170, 15, 0⟩) ∧
    decodeSyllable .v0 0x1BF85552A8003C50 = .ok (.vshri ⟨.v0, 1, 15, 0, 5, 0, 0⟩ ⟨1, 341, 170, 15, 0⟩) ∧
    decodeSyllable .v1 0x1C1C5552A8003C50 = .ok (.vsrai ⟨.v1, 0, 3, 1, 5, 0, 0⟩ ⟨1, 341, 170, 15, 0⟩) ∧
    decodeSyllable .v0 0x1DF85550026AF050 = .ok (.vli ⟨.v0, 1, 15, 0, 5, 0, 0⟩ ⟨1, 341, 0, 39612, 0⟩) ∧
    decodeSyllable .v0 0x38F99552A8009D50 = .ok (.vcvt ⟨.v0, 1, 15, 0, 5, 0, 0⟩ ⟨6, 341, 170, 39, 1⟩) ∧
    decodeSyllable .v1 0x40799552ABFDAC50 = .ok (.vlscv ⟨.v1, 0, 15, 0, 5, 0, 0⟩ ⟨6, 341, 170, 65387, 0⟩) ∧
    decodeSyllable .v1 0x421DD552A8007D50 = .ok (.vlsout ⟨.v1, 0, 3, 1, 5, 0, 0⟩ ⟨7, 341, 170, 31, 1⟩) ∧
    decodeSyllable .v0 0x53F85552A803FC50 = .ok (.vrot ⟨.v0, 1, 15, 0, 5, 0, 0⟩ ⟨1, 341, 170, 255, 0⟩) ∧
    decodeSyllable .v1 0x54785552A8032050 = .ok (.vbcast ⟨.v1, 0, 15, 0, 5, 0, 0⟩ ⟨1, 341, 170, 200, 0⟩) := by
  repeat' apply And.intro
  all_goals rfl

/-- Words of format P, written out from R92, R102 and R106. -/
theorem test_decode_vcmp :
    decodeSyllable .v1 0x2079A4AA95562000 = .ok (.vcmp ⟨.v1, 0, 15, 0, 1, 0, 0⟩ ⟨6, 9, 170, 597, 0, 11⟩) := by
  rfl

/-- Words of format Q, written out from R92, R102 and R106. -/
theorem test_decode_mask :
    decodeSyllable .v0 0x28865AC000500000 = .ok (.mand ⟨.v0, 1, 0, 1, 5, 0, 0⟩ ⟨9, 6, 11, 0, 0⟩) ∧
    decodeSyllable .v1 0x297A5AC000500000 = .ok (.mor ⟨.v1, 0, 15, 0, 5, 0, 0⟩ ⟨9, 6, 11, 0, 0⟩) ∧
    decodeSyllable .v0 0x2AFA5AC000500000 = .ok (.mxor ⟨.v0, 1, 15, 0, 5, 0, 0⟩ ⟨9, 6, 11, 0, 0⟩) ∧
    decodeSyllable .v1 0x2B1E5AC000500000 = .ok (.mandn ⟨.v1, 0, 3, 1, 5, 0, 0⟩ ⟨9, 6, 11, 0, 0⟩) ∧
    decodeSyllable .v0 0x2CFA580000500000 = .ok (.mnot ⟨.v0, 1, 15, 0, 5, 0, 0⟩ ⟨9, 6, 0, 0, 0⟩) ∧
    decodeSyllable .v1 0x2D7A400080500000 = .ok (.mlead ⟨.v1, 0, 15, 0, 5, 0, 0⟩ ⟨9, 0, 0, 0, 128⟩) ∧
    decodeSyllable .v0 0x2E84180600500000 = .ok (.many ⟨.v0, 1, 0, 1, 5, 0, 0⟩ ⟨0, 6, 0, 6, 0⟩) ∧
    decodeSyllable .v1 0x2F78180600500000 = .ok (.mall ⟨.v1, 0, 15, 0, 5, 0, 0⟩ ⟨0, 6, 0, 6, 0⟩) ∧
    decodeSyllable .v0 0x30F8182D00500000 = .ok (.mpop ⟨.v0, 1, 15, 0, 5, 0, 0⟩ ⟨0, 6, 0, 45, 0⟩) ∧
    decodeSyllable .v1 0x311C182D00500000 = .ok (.mfirst ⟨.v1, 0, 3, 1, 5, 0, 0⟩ ⟨0, 6, 0, 45, 0⟩) := by
  repeat' apply And.intro
  all_goals rfl

/-- Words of format G, written out from R92, R102 and R106. -/
theorem test_decode_quantise :
    decodeSyllable .v1 0x3A7AD55AA9B06280 = .ok (.vquant ⟨.v1, 0, 15, 0, 5, 0, 0⟩ ⟨11, 341, 21, 333, 131, 0⟩) ∧
    decodeSyllable .v0 0x3B86155AA9A19280 = .ok (.vdeq ⟨.v0, 1, 0, 1, 5, 0, 0⟩ ⟨8, 341, 21, 333, 12, 2⟩) := by
  repeat' apply And.intro
  all_goals rfl

/-- Words of format T, written out from R92, R102 and R106. -/
theorem test_decode_tile :
    decodeSyllable .v0 0x688575B668850000 = .ok (.vtwr ⟨.v0, 1, 0, 1, 5, 0, 0⟩ ⟨5, 6, 91, 410, 2, 0⟩) ∧
    decodeSyllable .v1 0x697831F669850000 = .ok (.vtrd ⟨.v1, 0, 15, 0, 5, 0, 0⟩ ⟨0, 6, 31, 410, 6, 0⟩) := by
  repeat' apply And.intro
  all_goals rfl

/-- Words of format M, written out from R92, R103 and R106. -/
theorem test_decode_routine :
    decodeSyllable .m 0x00F8000000000000 = .ok (.mNop ⟨.m, 1, 15, 0, 0, 0, 0⟩ ⟨0, 0, 0⟩) ∧
    decodeSyllable .m 0x011F26A800000000 = .ok (.mcall ⟨.m, 0, 3, 1, 5, 0, 0⟩ ⟨201, 2, 1⟩) ∧
    decodeSyllable .m 0x02F8022800000000 = .ok (.mzero ⟨.m, 1, 15, 0, 5, 0, 0⟩ ⟨0, 2, 0⟩) := by
  repeat' apply And.intro
  all_goals rfl

/-- Words of format D, written out from R92, R103 and R106. -/
theorem test_decode_drain :
    decodeSyllable .m 0x037AB6AAB6A80000 = .ok (.mdrain ⟨.m, 0, 15, 0, 5, 0, 0⟩ ⟨2, 91, 341, 13, 5⟩) := by
  rfl

/-- Words of format K, written out from R92, R103 and R106. -/
theorem test_decode_scale_access :
    decodeSyllable .k 0x0084000000000000 = .ok (.kNop ⟨.k, 1, 0, 1, 0, 0, 0⟩ ⟨0, 0, 0, 0, 0, 0, 0, 0⟩) ∧
    decodeSyllable .k 0x017AB6B0966B57FF = .ok (.kldh ⟨.k, 0, 15, 0, 5, 0, 0⟩ ⟨21, 22, 44, 0, 37, 9, 173, 1023⟩) ∧
    decodeSyllable .k 0x02FAB602966B5400 = .ok (.ksth ⟨.k, 1, 15, 0, 5, 0, 0⟩ ⟨21, 22, 0, 1, 37, 9, 173, 0⟩) := by
  repeat' apply And.intro
  all_goals rfl

/-- Words of format Z, written out from R92, R103 and R106. -/
theorem test_decode_register_move :
    decodeSyllable .k 0x031E60668A000000 = .ok (.kmvv ⟨.k, 0, 3, 1, 5, 0, 0⟩ ⟨19, 0, 410, 0⟩) ∧
    decodeSyllable .k 0x04F80A668A000000 = .ok (.kmvz ⟨.k, 1, 15, 0, 5, 0, 0⟩ ⟨0, 10, 410, 0⟩) ∧
    decodeSyllable .k 0x05780A000A000000 = .ok (.kmov ⟨.k, 0, 15, 0, 5, 0, 0⟩ ⟨0, 10, 0, 0⟩) ∧
    decodeSyllable .k 0x06840066AA000000 = .ok (.kltl ⟨.k, 1, 0, 1, 5, 0, 0⟩ ⟨0, 0, 410, 1⟩) := by
  repeat' apply And.intro
  all_goals rfl

/-- Words of format L, written out from R92, R104 and R106. -/
theorem test_decode_load :
    decodeSyllable .c1 0x0078000000000000 = .ok (.cNop ⟨.c1, 0, 15, 0, 0, 0, 0⟩ ⟨0, 0, 0, 0, 0, 0, 0⟩) ∧
    decodeSyllable .c0 0x01FA7FB59925AB09 = .ok (.ldVector ⟨.c0, 1, 15, 0, 5, 0, 0⟩ ⟨639, 22, 44, 100, 9, 3, 777⟩) ∧
    decodeSyllable .c0 0x03F805B58965AB09 = .ok (.ldTile ⟨.c0, 1, 15, 0, 5, 0, 0⟩ ⟨5, 22, 44, 37, 9, 3, 777⟩) ∧
    decodeSyllable .c0 0x088429B58965AB09 = .ok (.ldScalar .i8 ⟨.c0, 1, 0, 1, 5, 0, 0⟩ ⟨41, 22, 44, 37, 9, 3, 777⟩) ∧
    decodeSyllable .c1 0x097829B58965AB09 = .ok (.ldScalar .n8 ⟨.c1, 0, 15, 0, 5, 0, 0⟩ ⟨41, 22, 44, 37, 9, 3, 777⟩) ∧
    decodeSyllable .c0 0x0AF829B58965AB09 = .ok (.ldScalar .i16 ⟨.c0, 1, 15, 0, 5, 0, 0⟩ ⟨41, 22, 44, 37, 9, 3, 777⟩) ∧
    decodeSyllable .c1 0x0B1C29B58965AB09 = .ok (.ldScalar .n16 ⟨.c1, 0, 3, 1, 5, 0, 0⟩ ⟨41, 22, 44, 37, 9, 3, 777⟩) ∧
    decodeSyllable .c0 0x0CF829B58965AB09 = .ok (.ldScalar .i32 ⟨.c0, 1, 15, 0, 5, 0, 0⟩ ⟨41, 22, 44, 37, 9, 3, 777⟩) ∧
    decodeSyllable .c1 0x0D7829B58965AB09 = .ok (.ldScalar .n32 ⟨.c1, 0, 15, 0, 5, 0, 0⟩ ⟨41, 22, 44, 37, 9, 3, 777⟩) ∧
    decodeSyllable .c0 0x0E8429B58965AB09 = .ok (.ldScalar .n64 ⟨.c0, 1, 0, 1, 5, 0, 0⟩ ⟨41, 22, 44, 37, 9, 3, 777⟩) := by
  repeat' apply And.intro
  all_goals rfl

/-- Words of format E, written out from R92, R104 and R106. -/
theorem test_decode_store :
    decodeSyllable .c1 0x021DF4B59387CB75 = .ok (.stVector ⟨.c1, 0, 3, 1, 5, 0, 0⟩ ⟨500, 22, 44, 9999, 9, 3, 7⟩) ∧
    decodeSyllable .c1 0x047806B58012CBF5 = .ok (.stTile ⟨.c1, 0, 15, 0, 5, 0, 0⟩ ⟨6, 22, 44, 37, 9, 3, 15⟩) ∧
    decodeSyllable .c1 0x107829B58012CBF5 = .ok (.stScalar .w8 ⟨.c1, 0, 15, 0, 5, 0, 0⟩ ⟨41, 22, 44, 37, 9, 3, 15⟩) ∧
    decodeSyllable .c0 0x11F829B58012CBF5 = .ok (.stScalar .w16 ⟨.c0, 1, 15, 0, 5, 0, 0⟩ ⟨41, 22, 44, 37, 9, 3, 15⟩) ∧
    decodeSyllable .c1 0x121C29B58012CBF5 = .ok (.stScalar .w32 ⟨.c1, 0, 3, 1, 5, 0, 0⟩ ⟨41, 22, 44, 37, 9, 3, 15⟩) ∧
    decodeSyllable .c0 0x13F829B58012CBF5 = .ok (.stScalar .w64 ⟨.c0, 1, 15, 0, 5, 0, 0⟩ ⟨41, 22, 44, 37, 9, 3, 15⟩) := by
  repeat' apply And.intro
  all_goals rfl

/-- Words of format N, written out from R92, R104 and R106. -/
theorem test_decode_copy :
    decodeSyllable .c1 0x207A47AAB2CCD400 = .ok (.cpy ⟨.c1, 0, 15, 0, 5, 0, 0⟩ ⟨18, 7, 1365, 9, 0, 1, 4, 1, 19⟩) ∧
    decodeSyllable .c0 0x218647AAB34CD400 = .ok (.cpyc ⟨.c0, 1, 0, 1, 5, 0, 0⟩ ⟨18, 7, 1365, 9, 1, 0, 4, 1, 19⟩) ∧
    decodeSyllable .c1 0x227A47AAB34CD400 = .ok (.cpyq ⟨.c1, 0, 15, 0, 5, 0, 0⟩ ⟨18, 7, 1365, 9, 1, 0, 4, 1, 19⟩) ∧
    decodeSyllable .c0 0x23FA47AAB34CD400 = .ok (.cpyx ⟨.c0, 1, 15, 0, 5, 0, 0⟩ ⟨18, 7, 1365, 9, 1, 0, 4, 1, 19⟩) ∧
    decodeSyllable .c1 0x241E47AAB34CD400 = .ok (.cpyz ⟨.c1, 0, 3, 1, 5, 0, 0⟩ ⟨18, 7, 1365, 9, 1, 0, 4, 1, 19⟩) ∧
    decodeSyllable .c0 0x25FA40AAB34CD400 = .ok (.wbld ⟨.c0, 1, 15, 0, 5, 0, 0⟩ ⟨18, 0, 1365, 9, 1, 0, 4, 1, 19⟩) ∧
    decodeSyllable .c1 0x267A47AAB34CD400 = .ok (.gath ⟨.c1, 0, 15, 0, 5, 0, 0⟩ ⟨18, 7, 1365, 9, 1, 0, 4, 1, 19⟩) ∧
    decodeSyllable .c0 0x278647AAB34CD400 = .ok (.scat ⟨.c0, 1, 0, 1, 5, 0, 0⟩ ⟨18, 7, 1365, 9, 1, 0, 4, 1, 19⟩) ∧
    decodeSyllable .c1 0x287A47AAB2001400 = .ok (.mcast ⟨.c1, 0, 15, 0, 5, 0, 0⟩ ⟨18, 7, 1365, 9, 0, 0, 0, 0, 0⟩) := by
  repeat' apply And.intro
  all_goals rfl

/-- Words of format F, written out from R92, R104 and R106. -/
theorem test_decode_copy_fence :
    decodeSyllable .c0 0x40FA970E66000000 = .ok (.cfence ⟨.c0, 1, 15, 0, 0, 0, 0⟩ ⟨42435, 4, 1, 19, 0, 0, 0⟩) ∧
    decodeSyllable .c1 0x411E970E66000000 = .ok (.cacq ⟨.c1, 0, 3, 1, 0, 0, 0⟩ ⟨42435, 4, 1, 19, 0, 0, 0⟩) ∧
    decodeSyllable .c0 0x42FA970E66000000 = .ok (.crel ⟨.c0, 1, 15, 0, 0, 0, 0⟩ ⟨42435, 4, 1, 19, 0, 0, 0⟩) ∧
    decodeSyllable .c1 0x43780000676B2000 = .ok (.ctld ⟨.c1, 0, 15, 0, 0, 0, 0⟩ ⟨0, 0, 1, 19, 22, 44, 1⟩) := by
  repeat' apply And.intro
  all_goals rfl

/-- Words of format O, written out from R92, R104 and R106. -/
theorem test_decode_circuit :
    decodeSyllable .c0 0x30859AB2000A0000 = .ok (.send ⟨.c0, 1, 0, 1, 5, 0, 0⟩ ⟨410, 178, 0⟩) ∧
    decodeSyllable .c1 0x31799AB2612A0000 = .ok (.recv ⟨.c1, 0, 15, 0, 5, 0, 0⟩ ⟨410, 178, 777⟩) := by
  repeat' apply And.intro
  all_goals rfl

/-- Words of format U, written out from R92, R104 and R106. -/
theorem test_decode_atomic :
    decodeSyllable .c0 0x38F85240B592D848 = .ok (.aadd ⟨.c0, 1, 15, 0, 0, 0, 0⟩ ⟨5, 9, 0, 22, 44, 9, 3, 777⟩) ∧
    decodeSyllable .c1 0x391C5240B592D848 = .ok (.aand ⟨.c1, 0, 3, 1, 0, 0, 0⟩ ⟨5, 9, 0, 22, 44, 9, 3, 777⟩) ∧
    decodeSyllable .c0 0x3AF85240B592D848 = .ok (.aor ⟨.c0, 1, 15, 0, 0, 0, 0⟩ ⟨5, 9, 0, 22, 44, 9, 3, 777⟩) ∧
    decodeSyllable .c1 0x3B785240B592D848 = .ok (.axor ⟨.c1, 0, 15, 0, 0, 0, 0⟩ ⟨5, 9, 0, 22, 44, 9, 3, 777⟩) ∧
    decodeSyllable .c0 0x3C845240B592D848 = .ok (.amin ⟨.c0, 1, 0, 1, 0, 0, 0⟩ ⟨5, 9, 0, 22, 44, 9, 3, 777⟩) ∧
    decodeSyllable .c1 0x3D785240B592D848 = .ok (.amax ⟨.c1, 0, 15, 0, 0, 0, 0⟩ ⟨5, 9, 0, 22, 44, 9, 3, 777⟩) ∧
    decodeSyllable .c0 0x3EF85240B592D848 = .ok (.axchg ⟨.c0, 1, 15, 0, 0, 0, 0⟩ ⟨5, 9, 0, 22, 44, 9, 3, 777⟩) ∧
    decodeSyllable .c1 0x3F1C5251B592D848 = .ok (.acas ⟨.c1, 0, 3, 1, 0, 0, 0⟩ ⟨5, 9, 17, 22, 44, 9, 3, 777⟩) := by
  repeat' apply And.intro
  all_goals rfl

/-! ## Ill-formed encodings are refused (R93, R98, R100, R109) -/

/-- Every check of the S class refuses a term made to fail it. -/
theorem test_ill_formed_s :
    Instr.bad (.add ⟨7, 0⟩ ⟨1, 2, 3, 0⟩) = some .predicate ∧
    Instr.bad (.add ⟨15, 1⟩ ⟨1, 2, 3, 0⟩) = some .predicate ∧
    Instr.bad (.add ⟨15, 0⟩ ⟨1, 2, 3, 1⟩) = some .field ∧
    Instr.bad (.popc ⟨15, 0⟩ ⟨1, 2, 3, 0⟩) = some .field ∧
    Instr.bad (.sNop ⟨15, 0⟩ ⟨1, 0, 0, 0⟩) = some .field ∧
    Instr.bad (.shli ⟨15, 0⟩ ⟨1, 2, 64⟩) = some .own ∧
    Instr.bad (.liu ⟨15, 0⟩ ⟨1, 2, 0x4000000⟩) = some .own ∧
    Instr.bad (.cmp ⟨15, 0⟩ ⟨1, 2, 3, 0, 1, 5⟩) = some .field ∧
    Instr.bad (.cmp ⟨15, 0⟩ ⟨1, 2, 3, 0, 0, 5⟩) = some .field ∧
    Instr.bad (.cmp ⟨15, 0⟩ ⟨1, 2, 3, 11, 0, 0⟩) = some .code ∧
    Instr.bad (.flagAnd ⟨15, 0⟩ ⟨1, 8, 3, 0, 0, 0⟩) = some .field ∧
    Instr.bad (.spld ⟨15, 0⟩ ⟨1, 2, 2048⟩) = some .register ∧
    Instr.bad (.csrr ⟨15, 0⟩ ⟨1, 2, 0⟩) = some .field ∧
    Instr.bad (.csrr ⟨15, 0⟩ ⟨1, 0, 10⟩) = some .own ∧
    Instr.bad (.csrw ⟨15, 0⟩ ⟨1, 0, 0x11⟩) = some .own ∧
    Instr.bad (.loop ⟨15, 0⟩ ⟨4, 2, 0⟩) = some .register ∧
    Instr.bad (.endLoop ⟨15, 0⟩ ⟨0, 1, 0⟩) = some .field ∧
    Instr.bad (.xlate ⟨15, 0⟩ ⟨0, 1, 3⟩) = some .register ∧
    Instr.bad (.hrel ⟨15, 0⟩ ⟨0, 1, 0⟩) = some .field ∧
    Instr.bad (.fence ⟨15, 0⟩ ⟨0, 0, 0x240001⟩) = some .field ∧
    Instr.bad (.fence ⟨15, 0⟩ ⟨0, 0, 0x70001⟩) = some .code ∧
    Instr.bad (.fence ⟨15, 0⟩ ⟨0, 0, 0x10000⟩) = some .own ∧
    Instr.bad (.wclr ⟨15, 0⟩ ⟨0, 0, 0x100000001⟩) = some .field ∧
    Instr.bad (.wclr ⟨15, 0⟩ ⟨0, 0, 0⟩) = some .own ∧
    Instr.bad (.halt ⟨15, 0⟩ ⟨0, 0, 0, 0, 0, 0, 1⟩) = some .field ∧
    Instr.bad (.tail ⟨15, 0⟩ ⟨0, 0, 0, 0, 0, 0, 2048⟩) = some .field ∧
    Instr.bad (.phase ⟨15, 0⟩ ⟨1, 0, 0, 0, 0, 0, 0⟩) = some .field ∧
    Instr.bad (.board ⟨15, 0⟩ ⟨1, 0, 0, 0, 5, 300, 0⟩) = some .field := by decide

/-- Every check of the V class refuses a term made to fail it. -/
theorem test_ill_formed_v :
    let h : Head := ⟨.v0, 0, 15, 0, 0, 0, 0⟩
    Instr.bad (.vadd ⟨.m, 0, 15, 0, 0, 0, 0⟩ ⟨6, 1, 2, 3, 0, 0, 0⟩) = some .operand ∧
    Instr.bad (.vadd ⟨.v1, 0, 12, 0, 0, 0, 0⟩ ⟨6, 1, 2, 3, 0, 0, 0⟩) = some .predicate ∧
    Instr.bad (.vadd h ⟨0, 1, 2, 3, 0, 1, 0⟩) = some .field ∧
    Instr.bad (.vadd h ⟨6, 1, 2, 3, 0, 0, 1⟩) = some .field ∧
    Instr.bad (.vadd h ⟨6, 1, 2, 3, 1, 0, 0⟩) = some .field ∧
    Instr.bad (.vabs h ⟨6, 1, 2, 3, 0, 0, 0⟩) = some .field ∧
    Instr.bad (.vadd h ⟨6, 640, 2, 3, 0, 0, 0⟩) = some .register ∧
    Instr.bad (.vadd h ⟨9, 1, 2, 3, 0, 0, 0⟩) = some .code ∧
    Instr.bad (.vsra h ⟨3, 1, 2, 3, 0, 0, 0⟩) = some .code ∧
    Instr.bad (.vNop ⟨.v0, 0, 15, 0, 1, 0, 0⟩ ⟨0, 0, 0, 0, 0, 0, 0⟩) = some .field ∧
    Instr.bad (.vfma h ⟨6, 1, 2, 3, 640, 0⟩) = some .register ∧
    Instr.bad (.vfma h ⟨5, 1, 2, 3, 4, 0⟩) = some .code ∧
    Instr.bad (.vshli h ⟨2, 1, 2, 8, 0⟩) = some .own ∧
    Instr.bad (.vli h ⟨0, 1, 2, 8, 0⟩) = some .field ∧
    Instr.bad (.vcmp h ⟨6, 1, 2, 3, 1, 0⟩) = some .field ∧
    Instr.bad (.vcmp h ⟨6, 12, 2, 3, 0, 0⟩) = some .register ∧
    Instr.bad (.vcmp h ⟨0, 1, 2, 3, 0, 11⟩) = some .code ∧
    Instr.bad (.mand h ⟨1, 2, 3, 1, 0⟩) = some .field ∧
    Instr.bad (.mlead h ⟨1, 0, 0, 0, 129⟩) = some .register ∧
    Instr.bad (.many h ⟨0, 2, 0, 8, 0⟩) = some .field ∧
    Instr.bad (.mall h ⟨0, 12, 0, 1, 0⟩) = some .register ∧
    Instr.bad (.vcvt h ⟨6, 1, 2, 0x206, 0⟩) = some .field ∧
    Instr.bad (.vcvt h ⟨6, 1, 2, 0x0B, 0⟩) = some .code ∧
    Instr.bad (.vcvt h ⟨6, 1, 2, 0x10, 0⟩) = some .own ∧
    Instr.bad (.vcvt h ⟨6, 1, 2, 0x26, 0⟩) = some .own ∧
    Instr.bad (.vquant h ⟨11, 1, 1, 2, 1, 1⟩) = some .field ∧
    Instr.bad (.vquant h ⟨10, 1, 1, 2, 1, 0⟩) = some .code ∧
    Instr.bad (.vquant h ⟨11, 1, 1, 2, 0x20, 0⟩) = some .own ∧
    Instr.bad (.vdeq h ⟨6, 1, 1, 2, 0x1B, 0⟩) = some .field ∧
    Instr.bad (.vdeq h ⟨6, 1, 1, 2, 0x0A, 0⟩) = some .code ∧
    Instr.bad (.vlscv h ⟨6, 1, 2, 32, 0⟩) = some .own ∧
    Instr.bad (.vlsadd h ⟨6, 1, 2, 3, 0, 0, 0⟩) = some .code ∧
    Instr.bad (.vlsout h ⟨6, 1, 2, 0xFF6A, 0⟩) = some .own ∧
    Instr.bad (.vrot h ⟨0, 1, 2, 128, 0⟩) = some .own ∧
    Instr.bad (.vcx h ⟨6, 1, 2, 3, 4, 1⟩) = some .field ∧
    Instr.bad (.vcx h ⟨1, 1, 2, 3, 4, 0⟩) = some .code ∧
    Instr.bad (.vcx h ⟨6, 639, 2, 3, 4, 0⟩) = some .own ∧
    Instr.bad (.vcx h ⟨6, 4, 2, 3, 5, 0⟩) = some .own ∧
    Instr.bad (.vtwr h ⟨0, 1, 2, 3, 0, 1⟩) = some .field ∧
    Instr.bad (.vtrd h ⟨0, 1, 32, 3, 0, 0⟩) = some .own := by decide

/-- Every check of the M, K and copy classes refuses a term made to fail it, and so do the ranges of the other steps. -/
theorem test_ill_formed_mkc :
    let m : Head := ⟨.m, 0, 15, 0, 0, 0, 0⟩
    let k : Head := ⟨.k, 0, 15, 0, 0, 0, 0⟩
    let c : Head := ⟨.c1, 0, 15, 0, 0, 0, 0⟩
    Instr.bad (.mcall k ⟨1, 0, 0⟩) = some .operand ∧
    Instr.bad (.mcall ⟨.m, 0, 7, 0, 0, 0, 0⟩ ⟨1, 0, 0⟩) = some .predicate ∧
    Instr.bad (.mNop m ⟨1, 0, 0⟩) = some .field ∧
    Instr.bad (.mzero m ⟨1, 0, 0⟩) = some .field ∧
    Instr.bad (.mdrain m ⟨1, 0, 640, 5, 3⟩) = some .register ∧
    Instr.bad (.kldh m ⟨4, 3, 0, 0, 0, 2, 255, 12⟩) = some .operand ∧
    Instr.bad (.kNop k ⟨4, 3, 0, 0, 0, 2, 255, 12⟩) = some .field ∧
    Instr.bad (.kldh k ⟨4, 3, 1, 1, 0, 2, 255, 12⟩) = some .field ∧
    Instr.bad (.ksth k ⟨4, 3, 0, 0, 0, 2, 255, 12⟩) = some .field ∧
    Instr.bad (.kmvv k ⟨1, 1, 2, 0⟩) = some .field ∧
    Instr.bad (.kmvz k ⟨0, 1, 640, 0⟩) = some .register ∧
    Instr.bad (.kmov k ⟨0, 1, 2, 0⟩) = some .field ∧
    Instr.bad (.kltl k ⟨0, 1, 2, 0⟩) = some .field ∧
    Instr.bad (.cNop c ⟨1, 0, 0, 0, 0, 0, 0⟩) = some .field ∧
    Instr.bad (.ldVector k ⟨40, 1, 0, 0, 3, 0, 200⟩) = some .operand ∧
    Instr.bad (.ldVector c ⟨640, 1, 0, 0, 3, 0, 200⟩) = some .register ∧
    Instr.bad (.ldVector c ⟨40, 1, 0, 0, 3, 7, 200⟩) = some .code ∧
    Instr.bad (.stVector c ⟨40, 1, 0, 0, 3, 0, 12⟩) = some .code ∧
    Instr.bad (.ldTile c ⟨8, 1, 0, 0, 3, 0, 200⟩) = some .field ∧
    Instr.bad (.stTile c ⟨7, 1, 0, 0, 3, 0, 0⟩) = some .code ∧
    Instr.bad (.ldScalar .n64 c ⟨64, 1, 0, 0, 3, 0, 200⟩) = some .field ∧
    Instr.bad (.stScalar .w8 c ⟨63, 1, 0, 0, 3, 0, 1⟩) = some .code ∧
    Instr.bad (.cpy c ⟨0, 1, 100, 3, 0, 0, 0, 0, 4⟩) = some .field ∧
    Instr.bad (.cpy c ⟨0, 1, 100, 3, 1, 0, 0, 1, 4⟩) = some .code ∧
    Instr.bad (.cpyq c ⟨0, 31, 100, 3, 0, 0, 0, 1, 4⟩) = some .own ∧
    Instr.bad (.cpyx c ⟨31, 0, 100, 3, 0, 0, 0, 1, 4⟩) = some .own ∧
    Instr.bad (.wbld c ⟨0, 1, 100, 3, 0, 0, 0, 1, 4⟩) = some .field ∧
    Instr.bad (.cfence c ⟨1, 1, 0, 0, 1, 0, 0⟩) = some .field ∧
    Instr.bad (.cfence c ⟨1, 7, 0, 0, 0, 0, 0⟩) = some .code ∧
    Instr.bad (.cfence c ⟨0, 1, 0, 0, 0, 0, 0⟩) = some .own ∧
    Instr.bad (.ctld c ⟨1, 0, 0, 0, 1, 0, 0⟩) = some .field ∧
    Instr.bad (.aadd ⟨.c0, 0, 15, 0, 1, 0, 0⟩ ⟨5, 6, 0, 2, 7, 1, 0, 14⟩) = some .operand ∧
    Instr.bad (.aadd c ⟨5, 6, 1, 2, 7, 1, 0, 14⟩) = some .field ∧
    Instr.bad (.acas c ⟨5, 6, 1, 2, 7, 1, 7, 14⟩) = some .code ∧
    Instr.bad (.send c ⟨1, 2, 3⟩) = some .field ∧
    Instr.bad (.recv c ⟨640, 2, 3⟩) = some .register ∧
    Instr.bad (.bundleIssue 192) = some .operand ∧
    Instr.bad (.copyElement 0 2) = some .operand ∧
    Instr.bad (.laneFailed 0 5) = some .operand := by decide

/-- The decoder refuses what is no instruction: an unassigned opcode, a stick bit in the S class, reserved bits. -/
theorem test_decode_refuses :
    decodeSyllable .s 0x1B78000000000000 = .error .opcode ∧
    decodeSyllable .s 0x0180525100000000 = .error .stick ∧
    decodeSyllable .s 0x0178525100000001 = .error .field ∧
    decodeSyllable .v0 0x1278000000000000 = .error .opcode ∧
    decodeSyllable .m 0x0478000000000000 = .error .opcode ∧
    decodeSyllable .k 0x0778000000000000 = .error .opcode ∧
    decodeSyllable .c1 0x0578000000000000 = .error .opcode := by
  repeat' apply And.intro
  all_goals rfl

/-- The bundle at `0x00A8` of the manual's worked program: its header and its two syllables, KSTH and ST. -/
theorem test_decode_bundle :
    (decodeBundle ((bytesOfNat 8 0x0C00000000000000) ++ (bytesOfNat 8 0x0278420004800000) ++
      (bytesOfNat 8 0x02780C0800020820) ++ [1])).toOption.map (fun r => (r.2.1, r.2.2)) =
    some ([.ksth ⟨.k, 0, 15, 0, 0, 0, 0⟩ ⟨2, 2, 0, 0, 1, 2, 0, 0⟩,
      .stVector ⟨.c0, 0, 15, 0, 0, 0, 0⟩ ⟨12, 1, 0, 4, 1, 0, 2⟩], [1]) := by rfl

/-- The host's numbering of an instruction's bits: the header is the first word, the syllable the second. -/
theorem test_decode_table_word :
    decodeTableWord 128 (0x8000000000000000 + 2 ^ 64 * 0x0178525100000000) = some (.add ⟨15, 0⟩ ⟨5, 9, 17, 0⟩) := by rfl

/-! ## One step from a fetched word -/

/-- R116: `ADDI s5, s5, #1024` issues from its word and leaves a write of 1,024 to `s5`, due one cycle later. -/
theorem test_step_addi :
    ((nextOr (step (running 0x2078514000000400))).core 0).writes = [⟨1, 0, 0, .sReg 5 1024⟩] := by decide +kernel

/-- R87, R91: after it the core stands at the next bundle. -/
theorem test_step_moves_on :
    ((nextOr (step (running 0x2078514000000400))).core 0).pc = 16 ∧
    ((nextOr (step (running 0x2078514000000400))).core 0).cycle = 1 := by decide +kernel

/-! ## Witnesses: the machine -/

/-- MemoryReadsBack, StepKeepsTheInvariant: memory that holds a byte is in canonical form, and a step goes on from it. -/
theorem witness_invariant :
    Memory.wf (writeByte (running 0x2078514000000400) 5 7).mem = true ∧
    Memory.wf (nextOr (step (writeByte (running 0x2078514000000400) 5 7))).mem = true ∧
    (nextOr (step (writeByte (running 0x2078514000000400) 5 7))).mem = [(5, 7)] := by decide +kernel

/-- StepRunsTheDecodedInstruction, first clause: core 0 issues ADDI. -/
theorem witness_step_runs :
    let s := running 0x2078514000000400
    let c := s.core 0
    ∃ b, fetch c = .ok b ∧ b.words = [(.s, 0x2078514000000400)] ∧
      decodeSyllable .s 0x2078514000000400 = .ok (.addi ⟨15, 0⟩ ⟨5, 5, 1024⟩) ∧
      nextNow s = some (.bundleIssue 0, s) ∧
      hasMet (commitIf s 0 (commitDue c b [atIssue (.addi ⟨15, 0⟩ ⟨5, 5, 1024⟩) 0 (broadcast c b.head)])) 0 = false ∧ c.skip = false ∧ c.sticky = [] ∧
      (let i' := atIssue (.addi ⟨15, 0⟩ ⟨5, 5, 1024⟩) 0 (broadcast c b.head)
       let s1 := prepare (commitIf s 0 (commitDue c b [i'])) 0 b
       holdCause s1 [i'] = 0 ∧ stepCheck s1 b [⟨.s, 0x2078514000000400, true, .ok i'⟩] = none) :=
  ⟨_, rfl, rfl, rfl, rfl, rfl, rfl, rfl, by decide +kernel, by decide +kernel⟩

/-- Its second clause: a landing is due in the agenda, and runs. -/
theorem witness_agenda_step :
    let s : State := { State.reset with agenda := [(0, 0, .registerWriteLanding 0)] }
    ∃ t, s.agenda = [(0, 0, .registerWriteLanding 0)] ∧ 0 ≤ s.now ∧
      exec (.registerWriteLanding 0) { s with agenda := [] } = .next t ∧ t.issuing = false :=
  ⟨_, rfl, Nat.le_refl _, rfl, rfl⟩

/-- EncodingDecodesBack, WordsHaveOneMeaning: a word and its syllable. -/
theorem witness_words :
    isWord (.addi ⟨15, 0⟩ ⟨5, 5, 1024⟩) = true ∧
    decodeSyllable .s 0x2078514000000400 = .ok (.addi ⟨15, 0⟩ ⟨5, 5, 1024⟩) := ⟨by decide, rfl⟩

/-- SyllablesIssueByTheirPlan: a spill index one too high fails a check; a false predicate suppresses; ADD acts. -/
theorem witness_plans :
    let s := withCore core0
    (planOf (.spld ⟨15, 0⟩ ⟨1, 0, 2048⟩) s).fault s.curCore ≠ none ∧
    (planOf (.spld ⟨15, 0⟩ ⟨1, 0, 2047⟩) s).fault s.curCore = none ∧
    (planOf (.add ⟨0, 0⟩ ⟨1, 2, 3, 0⟩) s).fault s.curCore = none ∧
    (planOf (.add ⟨0, 0⟩ ⟨1, 2, 3, 0⟩) s).enabled = false ∧
    pendingCheck s.curCore (planOf (.add ⟨0, 0⟩ ⟨1, 2, 3, 0⟩) s).pred = none ∧
    (entriesOf (.add ⟨0, 0⟩ ⟨1, 2, 3, 0⟩)).2 = 0 ∧
    (planOf (.add ⟨15, 0⟩ ⟨1, 2, 3, 0⟩) s).enabled = true := by decide +kernel

/-- FaultStopsThePlacement: core 0 runs launch 1. -/
theorem witness_fault :
    let s := running 0
    ∃ x, s.curCore.launch = some 1 ∧ s.launch? 1 = some x ∧ x.state = .running ∧ ∀ g ∈ x.cores, (s.core g).rerun = none :=
  ⟨_, rfl, rfl, rfl, by decide +kernel⟩

/-- ResultsLandInOrder: two writes of one cycle to one register, of two issue cycles and of two slots of one; flags. -/
theorem witness_landing_order :
    let a : Write := ⟨100, 98, 4, .sReg 3 1⟩
    let b : Write := ⟨100, 99, 0, .sReg 3 2⟩
    let b' : Write := ⟨100, 98, 5, .sReg 3 2⟩
    dueWrites ((withCore { core0 with writes := [b, a] }).core 0) = [b, a] ∧
    dueWrites ((withCore { core0 with writes := [b', a] }).core 0) = [b', a] ∧
    ({ core0 with flagsAt := 1, flagsIn := 4 } : Core).flagsAt = (withCore core0).now + 1 ∧
    dueWrites ((withCore { core0 with writes := [⟨100, 99, 5, .orFlags 1⟩, ⟨100, 99, 0, .csrFlags 2⟩] }).core 0) =
      [⟨100, 99, 5, .orFlags 1⟩, ⟨100, 99, 0, .csrFlags 2⟩] := by decide +kernel

/-- LandingsWriteTheirUnit: for every kind of write a core with that write due alone. -/
theorem witness_landings :
    ∀ e ∈ [Effect.sReg 0 1, .sReg 63 1, .fReg 7 true, .fReg 6 true, .mReg 11 5 1, .vReg 639 5 1, .zReg 31 5 1, .aReg 7 1,
      .spill 2047 1, .bReg 7 none, .orFlags 255, .csrFlags 255, .clearWait 1, .tRow 1023 5 1 true, .accRow 511 7 3, .accZero 3,
      .ntReg 3 1, .lpReg 3 ⟨true, 2, 0⟩, .cwReg 3 9, .levelTable 1 5, .releaseHandle 15],
      dueWrites ((withCore { core0 with writes := [⟨100, 99, 0, e⟩] }).core 0) = [⟨100, 99, 0, e⟩] := by decide +kernel

/-- CoresTakeTheirCycle: a repetition that issues. -/
theorem witness_issue :
    let s := running 0x2078514000000400
    let c := s.core 0
    ∃ b, fetch c = .ok b ∧ hasMet (commitIf s 0 (commitDue c b (instrsOf (itemsOf c b)))) 0 = false ∧ c.skip = false ∧
      (let s1 := prepare (commitIf s 0 (commitDue c b (instrsOf (itemsOf c b)))) 0 b
       holdCause s1 (instrsOf (itemsOf c b)) = 0 ∧ stepCheck s1 b (itemsOf c b) = none) :=
  ⟨_, rfl, rfl, rfl, by decide +kernel, by decide +kernel⟩

/-- CoresTakeTheirCycle: a repetition of an XLATE that waits for another XLATE of its handle is held by cause 7. -/
theorem witness_held :
    let xl : Xlate := ⟨0, false, 0, 0, 0, false⟩
    let s := (running 0x4878404000000000).updCur fun c => { c with h := [(1, { Handle.reset with xl := some xl })] }
    let c := s.core 0
    ∃ b, fetch c = .ok b ∧ hasMet (commitIf s 0 (commitDue c b (instrsOf (itemsOf c b)))) 0 = false ∧ c.skip = false ∧
      holdCause (prepare (commitIf s 0 (commitDue c b (instrsOf (itemsOf c b)))) 0 b) (instrsOf (itemsOf c b)) = 7 :=
  ⟨_, rfl, rfl, rfl, by decide +kernel⟩

/-- CoresTakeTheirCycle: what a hold charges, at both ends of the causes; a freeze, and a landing-buffer hold. -/
theorem witness_charges :
    core0.rerun = none ∧ core0.hold ≠ 5 ∧ ({ core0 with hold := 11 } : Core).hold = 11 ∧ core0.frozenBy ≠ 9 ∧
    ({ core0 with frozenBy := 9, frozen := 6000000 } : Core).frozenBy = 9 ∧
    { core0 with reqs := [request none] }.reqs.find? (fun r => r.dueAt { core0 with reqs := [request none] }) = some (request none) ∧
    core0.reqs.find? (fun r => r.dueAt core0) = none := by decide +kernel

/-- CoresTakeTheirCycle: a repetition that a check stops, an unassigned opcode. -/
theorem witness_issue_check :
    let s := running 0x1B78000000000000
    let c := s.core 0
    ∃ b k, fetch c = .ok b ∧ hasMet (commitIf s 0 (commitDue c b (instrsOf (itemsOf c b)))) 0 = false ∧ c.skip = false ∧
      (let s1 := prepare (commitIf s 0 (commitDue c b (instrsOf (itemsOf c b)))) 0 b
       holdCause s1 (instrsOf (itemsOf c b)) = 0 ∧ stepCheck s1 b (itemsOf c b) = some (0, k)) :=
  ⟨_, _, rfl, rfl, rfl, by decide +kernel, rfl⟩

/-- CoresTakeTheirCycle: an undelivered line, an absent segment, a wait that is satisfied and one that is not. -/
theorem witness_fetches :
    fetch ((withCore { core0 with pc := 0, frameSeg := [(0, some 0)], overlay := some ⟨0, 0, 4, 0, [], 0, some 0⟩ }).core 0) = .stall ∧
    fetch ((withCore { core0 with pc := 65536, frameSeg := [(0, some 0)] }).core 0) = .absent ∧
    (let c := (State.reset.withFetchWord 64 0x10400000000).core 0
     ∃ b, fetch c = .ok b ∧ waits c b = true ∧ flagReady c b.head = true) ∧
    (let c := (State.reset.withFetchWord 64 0x10000000000).core 0
     ∃ b, fetch c = .ok b ∧ waits c b = true ∧ flagReady c b.head = false) := by
  refine ⟨rfl, rfl, ⟨_, rfl, rfl, rfl⟩, ⟨_, rfl, rfl, rfl⟩⟩

/-- CoresTakeTheirCycle: a request that is late, one that is not and has no bad arrival, and a core that no cause holds. -/
theorem witness_variable_landing :
    let late := withCore { core0 with reqs := [request none] }
    let good := withCore { core0 with reqs := [request (some [1])] }
    isLate (late.core 0) = true ∧ isLate (good.core 0) = false ∧ badArrival (good.core 0) = none ∧
    (request (some [1])).dueAt (good.core 0) = true ∧
    lateRequests (good.core 0) = [] ∧ lateTile (good.core 0) = none ∧ (good.core 0).rerun = none ∧ (good.core 0).hold ≠ 6 := by
  decide +kernel

/-- CoresTakeTheirCycle: an overlay line whose source translates, the last but one and the last. -/
theorem witness_overlay :
    let s := mapped (withCore { core0 with overlay := some ⟨2, 0, 4, 2, [], 0, some 0⟩ })
    (s.core 0).overlay = some ⟨2, 0, 4, 2, [], 0, some 0⟩ ∧ s.dieLink = true ∧ lineWait s (s.core 0) ⟨2, 0, 4, 2, [], 0, some 0⟩ 2 = none ∧
    readVa s (funcOfLaunch s ((s.core 0).launch.getD 0)) (0 + 64 * 2) 64 = some (List.replicate 64 0) ∧
    readVa s (funcOfLaunch s ((s.core 0).launch.getD 0)) (0 + 64 * 3) 64 = some (List.replicate 64 0) := by decide +kernel

/-! ## Witnesses: the S slot -/

/-- Every statement of an S syllable that asks for SReady: it is met unpredicated, and under `f0` when `f0` is 1, whatever is read. -/
theorem witness_s_ready (reads : List ReadUnit) :
    SReady (withCore core0) ⟨15, 0⟩ reads ∧ SReady (withCore { core0 with f := 1 }) ⟨0, 0⟩ reads ∧
    SReady (withCore core0) ⟨0, 1⟩ reads :=
  ⟨sReady_of_prt rfl reads, ⟨rfl, rfl, pendingCheck_off rfl reads⟩, ⟨rfl, rfl, pendingCheck_off rfl reads⟩⟩

/-- Under `%debug.PRT` a core with no pending write is ready too. -/
theorem witness_s_ready_prt : SReady (withCore { core0 with prt := true }) ⟨15, 0⟩ [rS 1, rS 2] := ⟨rfl, rfl, rfl⟩

/-- SpillAndControlRegisters: the last spill word and the first beyond; a listed number, one that is not, and `%fpflags`. -/
theorem witness_spill_csr :
    (withCore { core0 with s := [(2, 2000)] }).curCore.sGet 2 + (47#12).setWidth 64 = 2047#64 ∧
    (withCore { core0 with s := [(2, 2000)] }).curCore.sGet 2 + (48#12).setWidth 64 = 2048#64 ∧
    csrListed 0x2D = true ∧ csrListed 0x2E = false ∧ csrListed 9 = true ∧ csrListed 10 = false := by decide +kernel

/-- SpillAndControlRegisters: a core that a launch is placed on, whose registers of the placement are those of its image and packet. -/
theorem witness_csr_placed :
    let s := running 0
    s.curCore.launch = some 1 ∧ ∃ y, s.launch? 1 = some y := ⟨rfl, _, rfl⟩

/-- BranchesLoopsAndSequencing: a core that has not halted, before its last repetition and at it. -/
theorem witness_close_issue :
    (withCore { core0 with iLast := false }).curCore.halted = false ∧ (withCore { core0 with iLast := false }).curCore.iLast = false ∧
    (withCore core0).curCore.halted = false ∧ (withCore core0).curCore.iLast = true := ⟨rfl, rfl, rfl, rfl⟩

/-- BranchesLoopsAndSequencing: a bundle that names V0 alone, over a core with a syllable that sticks in V1 and one in which none does;
the word that it names sticks, or does not. -/
theorem witness_sticky :
    let b : Bundle := ⟨0, readHeader 0, 16, [(.v0, 0x02F91552AA551500)], false⟩
    let c := b.words.map (·.1)
    let stuck : Sticky := ⟨.vsub ⟨.v1, 1, 15, 0, 5, 0, 0⟩ ⟨4, 341, 170, 597, 0, 0, 1⟩, 3⟩
    let core := ({ core0 with rep := 1, iRep := 1, sticky := [(slotNum .v1, stuck)] } : Core)
    c.Nodup ∧ core.iRep = core.rep ∧ core0.iRep = core0.rep ∧ .v1 ∈ stickSlots ∧ .v1 ∉ c ∧ core0.stickyOf (slotNum .v1) = none ∧
    core.stickyOf (slotNum .v1) = some stuck ∧ stuck.instr.head? = some ⟨.v1, 1, 15, 0, 5, 0, 0⟩ ∧
    decodeSyllable .v0 0x02F91552AA551500 = .ok (.vsub ⟨.v0, 1, 15, 0, 5, 0, 0⟩ ⟨4, 341, 170, 597, 0, 0, 1⟩) ∧
    (Instr.vsub ⟨.v0, 1, 15, 0, 5, 0, 0⟩ ⟨4, 341, 170, 597, 0, 0, 1⟩).head? = some ⟨.v0, 1, 15, 0, 5, 0, 0⟩ ∧ core0.rep = 0 ∧
    decodeSyllable .v0 0x02791552AA551500 = .ok (.vsub ⟨.v0, 0, 15, 0, 5, 0, 0⟩ ⟨4, 341, 170, 597, 0, 0, 1⟩) ∧
    (Instr.vsub ⟨.v0, 0, 15, 0, 5, 0, 0⟩ ⟨4, 341, 170, 597, 0, 0, 1⟩).head? = some ⟨.v0, 0, 15, 0, 5, 0, 0⟩ := by decide +kernel

/-- BranchesLoopsAndSequencing: the last legal target and the two kinds of illegal one; the largest count and the next. -/
theorem witness_prep_loop :
    let t := fun (base addr : Nat) => ((withCore { core0 with s := [(2, BitVec.ofNat 64 base)] }).curCore.sGet 2).toNat + addr
    t 0xFFFFF8 0 % 8 = 0 ∧ t 0xFFFFF8 0 < 0x1000000 ∧ ¬ t 0x1000000 0 < 0x1000000 ∧ t 4 0 % 8 ≠ 0 ∧
    t 0xFFFFFFFE 1 < 2 ^ 32 ∧ 2 ^ 32 ≤ t 0xFFFFFFFE 2 := by decide +kernel

/-- BranchesLoopsAndSequencing, ENDLOOP: before the last repetition; on an inactive counter; on the last pass; with a pass to go. -/
theorem witness_endloop :
    (withCore { core0 with iLast := false }).curCore.iLast = false ∧
    ((withCore core0).curCore.iLast = true ∧ ((withCore core0).curCore.lpGet 0).active = false) ∧
    (let l := (withCore { core0 with lp := [(0, ⟨true, 1, 0x40⟩)] }).curCore.lpGet 0; l.active = true ∧ l.count ≤ 1) ∧
    (let l := (withCore { core0 with lp := [(0, ⟨true, 2, 0x40⟩)] }).curCore.lpGet 0; l.active = true ∧ 1 < l.count) := by
  decide +kernel

/-- BranchesLoopsAndSequencing, TRAP: the first repetition of a core that runs launch 1; a later one; a rerun that has come to it. -/
theorem witness_trap :
    let s := running 0
    let rerun := s.updCur fun c => { c with region := { c.region with once := [⟨0, 0, none⟩] } }
    s.curCore.launch = some 1 ∧ s.curCore.iRep = 0 ∧ onceSeen s = none ∧
    (s.updCur fun c => { c with iRep := 1 }).curCore.iRep ≠ 0 ∧ (onceSeen rerun).isSome = true := by decide +kernel

/-- BranchesLoopsAndSequencing: a FENCE that releases in SYSTEM scope, one that does not release; HALT at the first repetition and at a
later one. -/
theorem witness_fence_halt :
    (0x160003 : BitVec 38).getLsbD 20 = true ∧ ((0x160003 : BitVec 38).extractLsb' 16 3).toNat = 6 ∧
    (0x060003 : BitVec 38).getLsbD 20 = false ∧ ((0x140003 : BitVec 38).extractLsb' 16 3).toNat ≠ 6 ∧
    (withCore core0).curCore.iRep = 0 ∧ (withCore { core0 with iRep := 1 }).curCore.iRep ≠ 0 := by decide

/-- TilesAndTailRecords: the last record and the first that leaves the spill memory; a request register taken or not. -/
theorem witness_tiles :
    let s := running 0
    (2040#64).toNat ≤ 2040 ∧ 2040 < (2041#64).toNat ∧
    requestBusy s.curCore = false ∧ requestBusy { s.curCore with ntTaken := 0 } = true ∧ onceSeen s = none ∧
    (imageOf s s.curCore).dyn = false ∧ s.curCore.ntNull = false ∧ SReady s ⟨15, 0⟩ [⟨9, s.curCore.ntTake, 0, 8⟩] := by
  refine ⟨by decide, by decide, rfl, rfl, rfl, rfl, rfl, sReady_of_prt rfl _⟩

/-! ## Witnesses: the V slots -/

/-- Every statement of a V syllable that asks for VReady, in both slots, and predicated. -/
theorem witness_v_ready (reads : List ReadUnit) :
    VReady (withCore core0) ⟨.v0, 0, 15, 0, 0, 0, 0⟩ reads ∧ VReady (withCore core0) ⟨.v1, 0, 15, 0, 0, 0, 0⟩ reads ∧
    VReady (withCore core0) ⟨.v0, 1, 3, 1, 2, 4, 9⟩ reads :=
  ⟨vReady_of_prt rfl .v0 reads, vReady_of_prt rfl .v1 reads, ⟨rfl, pendingCheck_off rfl reads⟩⟩

/-- VectorConversions: VDEQ of a good header, and of a bad one in the first block that it needs. -/
theorem witness_vdeq :
    headerOk 11 0 = true ∧ headerOk 13 0xC000 = true ∧
    (let c := (withCore { core0 with z := [(0, 1)] }).curCore
     headerOk 11 (elem 16 (c.zGet 0) 0) = false ∧ headerOk 11 (elem 16 (c.zGet 0) 1) = true ∧
     lanes (maskPred c 15 0) 32 0 = true) := by decide +kernel

/-- ElementMoves: the last column of a tile of 32-bit elements and the first beyond it, which a re-issue can reach. -/
theorem witness_vtrd :
    stepReg ⟨.v0, 1, 15, 0, 1, 0, 0⟩ 31 < 1024 / widthOf 0 ∧ 1024 / widthOf 0 ≤ stepReg ⟨.v0, 1, 15, 0, 1, 1, 0⟩ 31 := by
  decide

/-! ## Witnesses: the M and K slots -/

/-- Every statement of an M, K or copy syllable that asks for FReady. -/
theorem witness_f_ready (reads : List ReadUnit) :
    FReady (withCore core0) ⟨.m, 0, 15, 0, 0, 0, 0⟩ reads ∧ FReady (withCore core0) ⟨.k, 0, 15, 0, 0, 0, 0⟩ reads ∧
    FReady (withCore core0) ⟨.c1, 0, 15, 0, 0, 0, 0⟩ reads ∧
    FReady (withCore { core0 with f := 8 }) ⟨.c0, 1, 3, 0, 1, 2, 0⟩ reads :=
  ⟨fReady_of_prt rfl .m reads, fReady_of_prt rfl .k reads, fReady_of_prt rfl .c1 reads,
    ⟨rfl, rfl, pendingCheck_off rfl reads⟩⟩

/-- Routine 2, which is one NOP micro-step of 10 cycles and END, and names accumulator offset 0 (R179). -/
def routineCore : Core :=
  { core0 with routines := [(2, 0x800000000002C400)], usteps := [(0, 0x1000900000000000)] }

/-- The routine as MCALL leaves it. -/
def routine0 : Routine :=
  { entry := 2, acc := 0, params := [], regs := [], issue := 100, baddr := 0x40, rep := 0, start := 100, stop := 111, begun := false
    init := []
    initFlags := [], work := [], flags := [], bindings := [], pos := 0, at_ := 100, passes := 0, pass := 0, body := 0, len := 0
    loopWord := 0, ended := false }

/-- MatrixCall: a valid entry and an invalid one; the array free, one routine running, and one waiting. -/
theorem witness_mcall :
    let c := (withCore routineCore).curCore
    rtValid (Table.get 0 c.routines 2) = true ∧ rtDur (Table.get 0 c.routines 2) = 11 ∧
    rtValid (Table.get 0 c.routines 3) = false ∧ c.running = none ∧
    { c with running := some routine0 }.waiting = none ∧
    { c with running := some routine0, waiting := some routine0 }.waiting.isSome = true := by decide +kernel

/-- MatrixMovesAndDrains: a legal descriptor for `.F32`, one for `.SB4`, one with COMP, and one that breaks R187; the last
`z` register, and the first beyond it. -/
theorem witness_drain :
    drainCheck 6 0 = none ∧ (bits (6 : Word) 0 4).toNat = 6 ∧
    drainCheck 0x0200000B 1 = none ∧ (bits (0x0200000B : Word) 0 4).toNat = 11 ∧ (0x0200000B : Word).getLsbD 33 = false ∧
    drainCheck 0x20200000B 1 = none ∧ (0x20200000B : Word).getLsbD 33 = true ∧
    stepReg ⟨.m, 1, 15, 0, 1, 0, 0⟩ 31 = 31 ∧ stepReg ⟨.m, 1, 15, 0, 1, 1, 0⟩ 31 = 32 ∧
    drainCheck 0x0200000D 1 = some (illegalOp 0 0) ∧ drainCheck 6 1 = some (illegalOp 9 0) := by decide +kernel

/-- RoutinesRun: a routine at its start cycle whose first steps pass, and one at its end. -/
theorem witness_routine_start :
    let c := (withCore { routineCore with running := some routine0 }).core 0
    c.running = some routine0 ∧ routine0.begun = false ∧ routine0.start = c.cycle ∧ startPending c routine0 = none ∧
    (runSteps c c.cycle (stepFuel (beginRoutine c routine0) c.cycle) (beginRoutine c routine0)).2 = none ∧
    (bits (Table.get 0 c.routines routine0.entry) 10 4).getLsbD 0 = true ∧
    ({ routineCore with running := some { routine0 with begun := true }, cycle := 111 } : Core).cycle = routine0.stop := by
  decide +kernel

/-- RoutinesRun: a step word for each micro-step it names; a BINDW of the last line and of the next; an MMA whose check passes, and one of a
poisoned line; the last step of a loop's body, with a pass left and with none. -/
theorem witness_micro_steps :
    let op := fun (w : Word) => (bits (stepWord { routineCore with usteps := [(0, w)] } routine0) 60 4).toNat
    op 0 = 0 ∧ op 0x1000900000000000 = 1 ∧ op 0x6000000000000000 = 6 ∧ op 0x7000000000000000 = 7 ∧ op 0x8100000000000000 = 8 ∧
    (bits (0x8100000000000000 : Word) 56 2).toNat ≠ (bits (0x8100000000000000 : Word) 58 2).toNat ∧
    op 0x9000000000000000 = 9 ∧ op 0x2000000000000000 = 2 ∧ op 0x3000000000000000 = 3 ∧ op 0x4000000000000000 = 4 ∧
    op 0x5000000000000000 = 5 ∧
    ((32767#15).setWidth 64 : Word).toNat ≤ 32767 ∧ 32767 < ((1 : Word) + (32767#15).setWidth 64).toNat ∧
    mmaCheck routineCore routine0 (mmaOps routine0 0x3000000000000000) 0 = none ∧
    (mmaCheck { routineCore with wbPoison := [(0, true)] } routine0 (mmaOps routine0 0x3000000000000000) 0).isSome = true ∧
    (let r := { routine0 with len := 1, body := 0 }; r.len ≠ 0 ∧ r.pos + 1 = r.body + r.len ∧ r.passes = 0) ∧
    (let r := { routine0 with len := 1, body := 0, passes := 2 }; r.len ≠ 0 ∧ r.pos + 1 = r.body + r.len ∧ r.passes ≠ 0) := by
  decide +kernel

/-! ## Witnesses: memory -/

/-- A handle of 64 KiB of the own hive's scratchpad. -/
def handle0 : Handle := { Handle.reset with valid := true, base := scratchBase, extent := 0x10000, write := true }

/-- Core 0 with that handle behind record 0, of `.I32` elements in mode `trap`. -/
def memCore : Core :=
  { core0 with h := [(0, handle0)], bf := [(0, { BufRec.reset with ext := 0x10000, str0 := 128, str1 := 4 })] }

/-- LoadsGoOut: a vector load in bounds at the minimum offset and one below it; one past the end; a suppressed one. -/
theorem witness_loads :
    let s := withCore memCore
    let f := fun (o : Int) => onePart 0 512 4 4 0 o
    ∃ a, (f 0xFE00).form s s.curCore false = .ok a ∧ arrivalMin s s.cur false a.spans = some 12 ∧
      arrivalCheck (arrivalMin s s.cur false a.spans) 12 = none ∧ 11 < 12 ∧
      (f 0xFE04).form s s.curCore false = .error (boundsCheck 0 0xFE04) ∧
      pendingCheck s.curCore (rFlagPred 0) = none ∧ flagPred s.curCore 0 0 = false :=
  ⟨⟨[⟨0, scratchBase + 0xFE00, 512⟩], false⟩, by rfl, by rfl, by rfl, by decide, by rfl, by rfl, by rfl⟩

/-- The record of `memCore` in another mode, 0x100 bytes long, over its handle. -/
def modeCore (m ext : Nat) : Core := { memCore with bf := [(0, { BufRec.reset with mode := m, ext := ext })] }

/-- LoadsGoOut, the address: a handle that is invalid, cut, or for reading only; an offset in range, unaligned, and past the end in every
mode; a record too short for the access, one longer than its handle; a part of which `zero` mode keeps two elements, one of which it
keeps none; two parts. -/
theorem witness_form :
    let s := withCore memCore
    let f := fun (o : Int) => onePart 0 16 4 4 0 o
    let c := modeCore 2 0x100
    let hd := s.curCore.hUse 0
    hd.valid = true ∧ hd.cut = false ∧ hd.write = true ∧ handle0.valid = true ∧ ({ handle0 with write := false } : Handle).write = false ∧
    (f 0xF0).parts = [(0, 0xF0)] ∧ (4 : Int) ∣ 0xF0 ∧ ¬ (4 : Int) ∣ 0xF2 ∧
    (0 ≤ (0xF0 : Int) ∧ (0xF0 : Int) + 16 ≤ 0x100) ∧ ¬ (0 ≤ (0xF4 : Int) ∧ (0xF4 : Int) + 16 ≤ 0x100) ∧
    (modeCore 0 0x100).bf ≠ [] ∧ (c.bfGet 0).mode = 2 ∧ ((modeCore 1 0x100).bfGet 0).mode = 1 ∧ ((modeCore 0 8).bfGet 0).mode ≠ 1 ∧
    ((modeCore 1 8).bfGet 0).ext < 16 ∧ hd.extent < ((modeCore 0 0x20000).bfGet 0).base + 0x10000 + 16 ∧
    (∀ k : Nat, k < 4 → ((0 ≤ k ∧ k < 2) ↔ (0 ≤ (0xF8 : Int) + (k * 4 : Nat) ∧ (0xF8 : Int) + ((k + 1) * 4 : Nat) ≤ 0x100))) ∧
    (∀ k : Nat, k < 4 → ((1 ≤ k ∧ k < 1) ↔ (0 ≤ (0x100 : Int) + (k * 4 : Nat) ∧ (0x100 : Int) + ((k + 1) * 4 : Nat) ≤ 0x100))) ∧
    (∃ a b, (f 0xF0).form s c false = .ok a ∧ (f 0xF8).form s c false = .ok b) ∧
    (∃ k, (f 0xF2).form s c false = .error k ∧ k.code = 8) := by
  refine ⟨by decide, by decide, by decide, by decide, by decide, rfl, by decide, by decide, by decide, by decide, by decide, by decide,
    by decide, by decide, by decide, by decide, ?_, ?_, ⟨_, _, rfl, rfl⟩, _, rfl, rfl⟩
  · intro k hk; omega
  · intro k hk; omega

/-- LoadsGoOut, the check of a formed address: one that exists, one of the deep tier, one whose last byte leaves HBM, one in the commons set,
and one in a set that is read-only. -/
theorem witness_address_check :
    let s := { State.reset with setApplied := [(0, 1)] }
    let com := { State.reset with setApplied := [(0, 1)], comSetApplied := 2 ^ 63 }
    reachable s 0x100 = true ∧ reachable s deepBase = false ∧ isDeep deepBase = true ∧ reachable s 0x103 = true ∧ isHbm 0x100 = true ∧
    isCommons s 0x100 = false ∧ readOnlySet s 0x100 = false ∧ reachable s scratchBase = true ∧ isHbm scratchBase = false ∧
    reachable s (scratchBase + 24 * 0x1000000 - 1) = true ∧ reachable s (scratchBase + 24 * 0x1000000) = false ∧
    isCommons com 0x100 = true ∧ readOnlySet { s with roSets := [0] } 0x100 = true := by decide +kernel

/-- StoresGoOut: a store in bounds and one out of bounds; a lane mask with lanes and one without. -/
theorem witness_stores :
    let s := withCore { memCore with m := [(1, 5)] }
    (∃ a, (onePart 0 8 8 8 0 0xFFF8).form s s.curCore true = .ok a) ∧
    (onePart 0 8 8 8 0 0x10000).form s s.curCore true = .error (boundsCheck 0 0x10000) ∧
    storeLanes s.curCore 1 ≠ 0 ∧ storeLanes s.curCore 2 = 0 ∧ storeLanes s.curCore 15 ≠ 0 :=
  ⟨⟨_, rfl⟩, by rfl, by decide +kernel, by decide +kernel, by decide +kernel⟩

/-- AtomicsGoOut: an atomic whose word is formed in one run at its minimum offset; one offset too low; a record of `.F32`. -/
theorem witness_atomics :
    let s := withCore memCore
    let x : FmtU := ⟨5, 6, 0, 0, 7, 1, 0, 14⟩
    atomicCheck s s.curCore x = none ∧
    (∃ f sp, (atomicForm s.curCore x).form s s.curCore true = .ok f ∧ f.spans = [sp]) ∧
    atomicCheck s s.curCore { x with arr := 13 } ≠ none ∧
    atomicCheck s { s.curCore with bf := [(0, { BufRec.reset with fmt := 6, ext := 4 })] } x ≠ none :=
  ⟨by decide +kernel, ⟨_, _, rfl, rfl⟩, by decide +kernel, by decide +kernel⟩

/-- A piece of one word of the own hive's scratchpad. -/
def piece0 : Piece := { pa := scratchBase, off := 0, len := 4, bytes := [], due := 0, done := false, poisoned := false }

/-- An access of core 0 with given pieces. -/
def access0 (k : AccessKind) (ps : List Piece) : Access :=
  { role := .slot, mask := 0xFFFF, g := 0, launch := none, seq := 0, slot := 5, issue := 0, baddr := 0, rep := 0, cls := 1, kind := k, ord := 0
    pieces := ps, size := 4, region := 0, held := false
    left := false, strict := false, sent := 0, reply := 0, done := false, ident := 0, old := 0 }

/-- AccessJoinsTheProgramOrder: with nothing open an access may leave; behind one of its class that has not left it may not; behind
an atomic of its class that performs in the next cycle it is kept back. -/
theorem witness_access_order :
    let s := withCore core0
    let w := { s with accesses := [(0, access0 .write [piece0])], nextId := 1 }
    (∀ e ∈ s.accesses, e.2.held = false) ∧ openCommands s.curCore = [] ∧
    mayLeave { s with accesses := [(1, access0 .read [piece0])] } (access0 .read [piece0]) = true ∧
    (∀ e ∈ w.accesses, e.2.held = false) ∧
    mayLeave { w with accesses := [(0, access0 .write [piece0]), (1, { access0 .read [piece0] with seq := 1 })] }
      { access0 .read [piece0] with seq := 1 } = false ∧
    (unfenced { w with accesses := [(0, access0 .write [piece0]), (1, { access0 .read [piece0] with seq := 1 })] }
      { access0 .read [piece0] with seq := 1 } &&
     classReady { w with accesses := [(0, access0 .write [piece0]), (1, { access0 .read [piece0] with seq := 1 })] }
      { access0 .read [piece0] with seq := 1 }) = false := by decide +kernel

/-- An atomic of core 0 that performs at cycle 5, and a later load of its class. -/
def keptState : State :=
  { withCore core0 with
    accesses := [(0, { access0 (.atomic 0 1 0 false) [{ piece0 with due := 5 }] with left := true }), (1, { access0 .read [piece0] with seq := 1 })]
    nextId := 2 }

/-- AccessJoinsTheProgramOrder and AccessStepsOn: an access that only time does not keep behind its class. -/
theorem witness_access_kept :
    (∀ e ∈ keptState.accesses, e.2.held = false) ∧
    mayLeave keptState { access0 .read [piece0] with seq := 1 } = false ∧
    (unfenced keptState { access0 .read [piece0] with seq := 1 } && classReady keptState { access0 .read [piece0] with seq := 1 }) = true ∧
    mayLeave { keptState with accesses := [(0, { access0 .write [{ piece0 with due := 1 }] with left := true })] }
      { access0 .read [piece0] with seq := 1 } = true ∧
    usesHbm keptState (access0 .read [piece0]) = false := by decide +kernel

/-- PiecesAndAtomicsPerform: a write, a read and an atomic of the own hive over good cells, the atomic new or answered before. -/
theorem witness_pieces :
    let p := { piece0 with bytes := [some 1, none, some 2, some 3] }
    let s := { withCore core0 with accesses := [(1, access0 .write [p]), (2, access0 .read [piece0]),
      (3, access0 (.atomic 0 1 0 false) [piece0])] }
    let again := { s with atomReplies := [(targetOf s scratchBase, [(sourceNumber s 0, 0, 9)])] }
    s.accesses.find 1 = some (access0 .write [p]) ∧ s.accesses.find 2 = some (access0 .read [piece0]) ∧
    s.accesses.find 3 = some (access0 (.atomic 0 1 0 false) [piece0]) ∧ pathOf 0 scratchBase = .own ∧
    Table.get 0 s.flaws (lineOf scratchBase) = 0 ∧ poisoned s scratchBase = false ∧ scratchBase % 4 = 0 ∧
    storedReply s (targetOf s scratchBase) (sourceNumber s 0) 0 = none ∧
    storedReply again (targetOf s scratchBase) (sourceNumber s 0) 0 = some 9 := by decide +kernel

/-- AccessStepsOn: a request that waits for its data, an access that may leave or not, and an HBM access at a free slot of the
calendar and at a taken one. -/
theorem witness_access_steps :
    let hbm := access0 .read [{ piece0 with pa := 0x100 }]
    let s := { withCore { core0 with reqs := [request none] } with
      accesses := [(7, access0 .read [piece0]), (8, hbm)], setApplied := [(0, 1)] }
    s.accesses.find 7 = some (access0 .read [piece0]) ∧ (request none).id = 7 ∧
    mayLeave s (access0 .read [piece0]) = true ∧
    mayLeave s { access0 .read [piece0] with held := true } = false ∧
    pathOf 0 0x100 = .hbm ∧ accessGroups s hbm = [0] ∧ (∀ k ∈ accessGroups s hbm, Table.get 0 s.calendar (0 * 24 + k) ≠ s.now + 1) ∧
    (∃ k ∈ accessGroups s hbm, Table.get 0 [(0, s.now + 1)] (0 * 24 + k) = s.now + 1) ∧ s.takeover = [] ∧ inOrder s hbm = true ∧
    inOrder { s with accesses := [(6, { access0 .read [{ piece0 with pa := 0x200, due := 257 }] with left := true })] }
      { hbm with seq := 1 } = false := by
  decide +kernel

/-- AccessStepsOn: a write of the shepherd with a notice flag that waits for it, of a launch that runs, and one with none. -/
theorem witness_told :
    let x := { access0 .write [piece0] with role := .shepherd, g := shepherdCore, left := true }
    let s := { launched core0 with accesses := [(7, x)], told := [(7, 1, 0, 31)] }
    s.accesses.find 7 = some x ∧ x.role = .shepherd ∧ s.told = [(7, 1, 0, 31)] ∧ s.launch? 1 = some (fetchLaunch 0) ∧
    (fetchLaunch 0).state = .running ∧ (fetchLaunch 0).cores[0]? = some 0 ∧ (∀ e ∈ s.accesses, e.2.role ≠ .flush) ∧
    (∀ e ∈ (launched core0).told, e.1 ≠ 7) := by decide +kernel

/-! ## Witnesses: copy engines and circuits -/

/-- A descriptor of one element of 64 bytes at spill words 0 to 9, both records `.I32`. -/
def copyCore : Core := memCore

/-- CopyCommandsQueue: a CPY whose check passes, one whose descriptor index is too high; the fences and CTLD. -/
theorem witness_copy_issue :
    let s := withCore copyCore
    let h : Head := ⟨.c0, 0, 15, 0, 0, 0, 0⟩
    let x : FmtN := ⟨0, 0, 0, 3, 0, 0, 0, 1, 4⟩
    commandCheck s s.curCore .cpy h x = none ∧ commandCheck s s.curCore .cpy h { x with dsc := 2039 } ≠ none ∧
    barrierOk ⟨1, 3, 0, 0, 0, 0, 0⟩ = true := by decide +kernel

/-- A copy command. -/
def command0 : Command :=
  { kind := .cpy, seq := 5, src := some ⟨0, (memCore.bfGet 0), handle0⟩, dst := some ⟨0, (memCore.bfGet 0), handle0⟩, srcNext := none
    dstNext := none, desc := [0, 0, 0, 0, 0, 0, 0, 0, 0xFFFFFFFF, 0], descIndex := 0, cls := 3, mask := 0, acq := false, rel := false
    scope := 0, flag := none, off := 0, bf16 := false, issue := 90, baddr := 0, rep := 0, region := 0, started := false, ord := 0
    total := 1, flags := 0, oob := false, paused := false, fetched := [], todo := [], finished := false }

/-- CopyCommandsQueue and CopyEngineSteps: a queue with a command and an empty one; a command that may start and one that waits for an
earlier access of its class; one that runs; one whose last element is done; a barrier. -/
theorem witness_copy_engine :
    let s := launched { memCore with cmds := [(0, [command0])] }
    let w := { s with accesses := [(1, { access0 .write [piece0] with cls := 3, launch := some 1 })] }
    let run := { command0 with started := true }
    let done := { command0 with started := true, ord := 1 }
    let d := launched { memCore with cmds := [(0, [done])] }
    (s.core 0).cmdsOf 0 = [command0] ∧ (s.core 0).cmdsOf 1 = [] ∧ mayStart s 0 command0 = true ∧ mayStart w 0 command0 = false ∧
    run.started = true ∧ run.paused = false ∧ run.finished = false ∧ run.ord < run.total ∧ engineRuns s 0 = true ∧
    (s.core 0).elFault = [] ∧ betweenElements s 0 0 run = true ∧ betweenElements s 0 0 { run with fetched := [(scratchBase, ([], false))] } = false ∧ (∀ x ∈ engineOpen s 0 0, x.2.kind ≠ .read) ∧
    engineDone d 0 0 done = true ∧ mayComplete d 0 0 { done with finished := true } = true ∧
    (let b := { command0 with kind := .cfence, src := none, dst := none, cls := 16, total := 0 }
     mayComplete (launched { memCore with cmds := [(0, [{ b with started := true, finished := true }])] }) 0 0
       { b with started := true, finished := true } = true) := by decide +kernel

/-- CopyEngineSteps: an element that needs its first source line, one that has it, and one whose record it leaves; a line still to be
written; a fault that waits for its place in the reference cycle. -/
theorem witness_copy_element :
    let s := launched { memCore with cmds := [(0, [{ command0 with started := true }])] }
    let far := { command0 with started := true, src := some ⟨0, { (memCore.bfGet 0) with ext := 0 }, handle0⟩ }
    let had := { command0 with started := true, fetched := [(scratchBase, (List.replicate 4 1, false))] }
    let info : FaultInfo := { kind := 1, code := 8, cause := 0, arg0 := 0, arg1 := 0, slot := 5, rep := 0, origin := 2, issue := 90, baddr := 0 }
    let met := launched { core0 with elFault := [(info, 16)] }
    (match element s 0 0 { command0 with started := true } with
     | .error (.need [sp]) => sp.pa = scratchBase ∧ mustWait s 0 0 sp.pa = false
     | _ => False) ∧
    (match element s 0 0 had with | .ok _ => True | _ => False) ∧
    (match element s 0 0 far with | .error (.fault _) => True | _ => False) ∧
    (met.core 0).elFault = [(info, 16)] ∧ (met.core 0).launch = some 1 ∧
    (∃ x, met.launch? 1 = some x ∧ x.state = .running ∧ ∀ r ∈ x.stops, r.g = 0 → r.answer ≠ none) := by
  refine ⟨show _ ∧ _ from ⟨by rfl, by rfl⟩, trivial, trivial, rfl, rfl, ⟨_, rfl, rfl, by decide⟩⟩

/-- A command of a kind over formats of source and destination, the records after them behind, with PARM and the lines that it has read. -/
def elemCommand (k : CopyKind) (fs fd : Nat) (parm : Word) (lines : Table (List Byte × Bool)) : Command :=
  let rec_ := fun (n f base : Nat) => CopyRec.mk n { memCore.bfGet 0 with fmt := BitVec.ofNat 4 f, base := base } handle0
  { command0 with
    kind := k, started := true, src := some (rec_ 0 fs 0), dst := some (rec_ 2 fd 0x4000), srcNext := some (rec_ 1 0 0x1000)
    dstNext := some (rec_ 3 0 0x2000), desc := [0, 0, 0, 0, 0, 0, 0, 0, 0xFFFFFFFF, parm], fetched := lines }

/-- What an element comes to: 0 where it acts, the code of its fault, or 255 where it has to read first. -/
def elemCode (m : Command) : Nat :=
  match element (launched memCore) 0 0 m with
  | .ok _ => 0
  | .error (.fault k) => k.code
  | .error (.need _) => 255

/-- A line of the source, and one of the record after it, of zeros, marked or not. -/
def lines0 (p q : Bool) : Table (List Byte × Bool) :=
  [(scratchBase, (List.replicate 64 0, p)), (scratchBase + 64, (List.replicate 64 0, false)), (scratchBase + 0x1000, (List.replicate 64 0, q)),
   (scratchBase + 0x2000, (List.replicate 64 0, q))]

/-- CopyEngineSteps, the elements: each kind acts on what it has read, and meets its faults: a poisoned source, a poisoned header or index, a
header that its check refuses, a line of the weight buffer too high, a `.TB2` map with a high bit. -/
theorem witness_elements :
    ([CopyKind.cpy, .mcast, .cpyc, .scat].map fun k => elemCode (elemCommand k 5 7 3 (lines0 false false))) = [0, 0, 0, 0] ∧
    elemCode (elemCommand .cpyc 5 7 0 (lines0 true false)) = 9 ∧
    ([false, true].map fun p => elemCode (elemCommand .cpyq 6 11 1 (lines0 p false))) = [0, 9] ∧
    ([(false, false), (true, false), (false, true)].map fun (p, q) => elemCode (elemCommand .cpyx 11 6 0 (lines0 p q))) = [0, 9, 9] ∧
    ([(false, false), (true, false), (false, true)].map fun (p, q) => elemCode (elemCommand .gath 5 5 3 (lines0 p q))) = [0, 9, 9] ∧
    ([32767, 32768].map fun n => elemCode { elemCommand .wbld 5 0 32767 (lines0 false false) with ord := n - 32767 }) = [0, 8] ∧
    ([0x8000, 0xFFFF].map fun n => elemCode (elemCommand .wbld 5 0 n (lines0 false false))) = [0, 0] ∧
    elemCode (elemCommand .cpy 5 5 0 []) = 255 := by decide +kernel

/-- CopyEngineSteps, the elements: a header that its check refuses, an image that ends above the last line, a `.TB2` map with a high bit, and CTLD. -/
theorem witness_element_faults :
    let line := fun (a : Nat) (d : List Byte) (p : Bool) => (a, (d ++ List.replicate (64 - d.length) 0, p))
    let bad : Table (List Byte × Bool) := [line scratchBase [1] false, line (scratchBase + 64) [] false, line (scratchBase + 0x1000) [1] false]
    let high : Table (List Byte × Bool) := [line scratchBase (List.replicate 32 0 ++ [1]) false]
    let table := fun (p : Bool) => (List.range 8).map fun i => line (scratchBase + 64 * i) [] (p && i == 7)
    elemCode (elemCommand .cpyx 11 6 0 bad) = 10 ∧
    elemCode (elemCommand .wbld 5 0 0xFFFF bad) = 8 ∧ elemCode (elemCommand .wbld 5 0 0x28000 high) = 10 ∧
    ([false, true].map fun p => elemCode (elemCommand .ctld 7 0 0 (table p))) = [0, 9] := by decide +kernel

/-- A CPYZ of `.SB4` of which `zero` mode reads no code and writes nothing; its headers are zeros, but for the first, which is given. -/
def zCommand (header : Nat) (p : Bool) : Command :=
  let none_ := fun (n f : Nat) => CopyRec.mk n { memCore.bfGet 0 with fmt := BitVec.ofNat 4 f, mode := 2, ext := 0 } handle0
  { elemCommand .cpyz 11 5 0 ((List.range 16).map fun i => (scratchBase + 0x1000 + 64 * i, ((List.range 64).map fun j =>
      if i = 0 && j < 2 then BitVec.ofNat 8 (header / 256 ^ j) else 0, p && i == 0))) with
    src := some (none_ 0 11), dst := some (none_ 2 5) }

/-- CopyEngineSteps, CPYZ: a header that is poisoned, and one that its check refuses. -/
theorem witness_element_headers : elemCode (zCommand 0 true) = 9 ∧ elemCode (zCommand 1 false) = 10 := by decide +kernel

/-- CopyEngineSteps, CPYZ: where `zero` mode reads no header and no code, all headers pass, and the image, whatever its length, is formed. -/
theorem witness_element_image :
    let m := zCommand 0 false
    let zero := fun (n f : Nat) => CopyRec.mk n { memCore.bfGet 0 with fmt := BitVec.ofNat 4 f, mode := 2, ext := 0 } handle0
    engineForm (launched memCore) 0 m (zero 1 0) false 1024 0 = .ok ⟨[], true⟩ ∧
    engineForm (launched memCore) 0 m (zero 0 11) false 8192 0 = .ok ⟨[], true⟩ ∧
    (∀ n, readSource m n ⟨[], true⟩ = .ok (List.replicate n (0, false), none)) ∧
    (∀ i < 512, headerOk 11 (leNat (((((List.replicate 1024 ((0 : Byte), false)).drop (2 * i)).take 2).map (·.1)))) = true) ∧
    ∀ n, 0 < n → engineForm (launched memCore) 0 m (zero 2 5) true n 0 = .ok ⟨[], true⟩ := by
  refine ⟨by rfl, by rfl, fun n => ?_, fun i hi => ?_, fun n hn => ?_⟩
  · simp [readSource, missing, linesOf, clean]
  · have h : 2 ≤ 1024 - 2 * i := by omega
    simp only [List.drop_replicate, List.take_replicate, Nat.min_eq_left h]
    decide +kernel
  · have h' : Handle.reset.cut = false := rfl
    simp [Nat.ne_of_gt hn, h', engineForm, handleUse, handle0, formParts, formPart, addressCheck, undeclared, linesOf]

/-- CopyEngineSteps, the address of an element: the record as the command keeps it, an element that forms, one that does not, one in a bank
that the command has not declared; a virtual hive of the launch. -/
theorem witness_element_address :
    let s := launched memCore
    let m := elemCommand .cpy 0 0 0 (lines0 false false)
    let f := fun (o : Int) => (⟨0, 4, 4, 1, [(0, o)]⟩ : Form).form s memCore false
    memCore.bfGet 0 = memCore.bfGet 0 ∧ memCore.hUse (memCore.bfGet 0).hnum = handle0 ∧
    (∃ a, f 0 = .ok a ∧ Machine.undeclared 0 m a.spans = false ∧
      Machine.undeclared 0 { m with desc := [0, 0, 0, 0, 0, 0, 0, 0, 0, 0] } a.spans = true) ∧
    (∃ k, f 0x10000 = .error k) ∧ (s.core 0).launch = some 1 ∧
    ∃ x, s.launch? 1 = some x ∧ x.cores.find? (fun k => (s.core k).hive == 0) = some 0 :=
  ⟨rfl, rfl, ⟨_, rfl, rfl, rfl⟩, ⟨_, rfl⟩, rfl, _, rfl, rfl⟩

/-- A launch on cores 0 and 8 with circuit entry 3 from rank 0 to rank 1. -/
def circuitState : State :=
  let c := { core0 with launch := some 1 }
  let d := { core0 with launch := some 1, rank := 1 }
  { State.reset with
    cores := [(0, c), (8, d)], nextId := 2
    launches := [(1, { fetchLaunch 0 with cores := [0, 8], circuits := [(3, 0x8000800000000000)] })] }

/-- Circuits: the sender and the receiver of the entry, and a rank that is neither; the minimum offset of RECV. -/
theorem witness_circuits :
    let s := circuitState
    let r := { s with cur := 8 }
    let w : Word := 0x8000800000000000
    entryOf s s.curCore 3 = some w ∧ entrySrc w = s.curCore.rank ∧ entryDst w ≠ s.curCore.rank ∧
    s.curCore.region.uncontained = 0 ∧ heldLines s s.cur < 500 ∧
    entryOf r r.curCore 3 = some w ∧ entryDst w = r.curCore.rank ∧ entrySrc w ≠ r.curCore.rank ∧
    recvCheck r r.curCore r.cur 3 24 = none := by decide +kernel

/-- A message of that entry. -/
def message0 (half num : Nat) (arrived : Bool) : Message :=
  { entry := 3, srcG := 0, dstG := 8, data := 0, launch := 1, half := half, sentAt := none, held := false, arrived := arrived, taken := false, num := num }

/-- Circuits: the oldest message with room at the receiver, and with four queued there; a message that a RECV waits for, and one that
comes before its RECV; a slot that is taken, a message behind an older one, and a receiver that has halted. -/
theorem witness_circuit_steps :
    let s := { circuitState with messages := [(1, message0 0 0 false)] }
    let q := { circuitState with messages := [(1, message0 1 4 false), (2, message0 2 0 true), (3, message0 2 1 true),
      (4, message0 2 2 true), (5, message0 2 3 true)] }
    s.messages.find 1 = some (message0 0 0 false) ∧
    (∀ o ∈ s.messages, o.2.launch = 1 → o.2.entry = 3 → o.2.half < 2 → 0 ≤ o.2.num) ∧
    queuedMessages s 1 3 = 0 ∧ queuedMessages q 1 3 = 4 ∧ (q.core 8).halted = false ∧
    (∀ o ∈ q.messages, o.2.launch = 1 → o.2.entry = 3 → o.2.half < 2 → 4 ≤ o.2.num) ∧
    Table.get 0 (s.core 8).recvs 3 ≤ 0 ∧ 0 < Table.get 0 ({ core0 with recvs := [(3, 1)] } : Core).recvs 3 ∧
    slotTaken s 1 3 = false ∧ slotTaken q 1 3 = false ∧
    slotTaken { s with messages := [(2, { message0 1 0 false with sentAt := some s.now })] } 1 3 = true ∧
    (∃ o ∈ [(2, message0 1 0 false)], o.2.launch = 1 ∧ o.2.entry = 3 ∧ o.2.half < 2 ∧ o.2.num < (message0 0 1 false).num) ∧
    (({ q with cores := [(8, { core0 with halted := true })] } : State).core 8).halted = true := by
  decide +kernel

/-! ## Witnesses: phases and claims -/

/-- A launch on core 0 that declares phase 2 of its hive and two claim words of all its ranks. -/
def syncLaunch : Launch :=
  { fetchLaunch 0 with phases := [(2, 1)], words := 2, groups := [⟨0, 2, 1, 0, 0, some 4, some 5⟩] }

/-- The module with core 0 as given in that launch. -/
def synced (c : Core) : State := { launched c with launches := [(1, syncLaunch)] }

/-- PhaseInstructions: a declared phase and an undeclared one, a member and a rank that is none, the largest count and the next, a
phase that is open. -/
theorem witness_phase :
    let s := synced core0
    SReady s ⟨15, 0⟩ [rS 0] ∧ s.curCore.launch = some 1 ∧ s.launch? 1 = some syncLaunch ∧ onceSeen s = none ∧
    phaseMembers s syncLaunch s.curCore 2 = [0] ∧ phaseMembers s syncLaunch s.curCore 3 = [] ∧
    (s.curCore.phGet 2).isOpen = false ∧ drained s s.cur = true ∧
    ((s.curCore.phSet 2 { PhaseSt.reset with isOpen := true }).phGet 2).isOpen = true ∧
    (withCore { core0 with s := [(1, 0xFFFFF)] }).curCore.sGet 1 + (0#12).setWidth 64 < 2 ^ 20 := by
  refine ⟨sReady_of_prt rfl _, rfl, rfl, rfl, by decide +kernel, by decide +kernel, rfl, by decide +kernel, rfl, by decide +kernel⟩

/-- PhaseSteps: an arrival that may depart; one that counts down; one that takes the counter of an open phase below zero. -/
theorem witness_arrivals :
    let m : ArriveMsg := { launch := 1, phase := 2, gen := false, src := 0, dst := 0, seq := 0, latency := 48, departed := false }
    let s := { synced { core0 with phases := [(2, { PhaseSt.reset with isOpen := true })] } with arrives := [(1, m)] }
    let s1 := { synced { core0 with phases := [(2, { PhaseSt.reset with isOpen := true, cnt0 := 1 })] } with arrives := [(1, m)] }
    s.arrives.find 1 = some m ∧ m.departed = false ∧ (s.core m.src).launch = some m.launch ∧ writesAcked s m.src m.seq 4 allClasses = true ∧
    ((s.core 0).phGet 2).cnt0 - 1 < 0 ∧ ((s.core 0).phGet 2).isOpen = true ∧ m.gen = ((s.core 0).phGet 2).gen ∧
    0 ≤ ((s1.core 0).phGet 2).cnt0 - 1 := by decide +kernel

/-- PhaseSteps: a line that may rise, the last of its members. -/
theorem witness_phase_line :
    let s := synced { core0 with phases := [(2, { PhaseSt.reset with isOpen := true })] }
    (s.core 0).launch = some 1 ∧ s.launch? 1 = some syncLaunch ∧ lineReady s 0 2 = true ∧
    (∀ r ∈ phaseMembers s syncLaunch (s.core 0) 2, syncLaunch.cores.getD r 0 = 0) ∧ syncLaunch.cores.Nodup := by
  refine ⟨rfl, rfl, by decide +kernel, by decide +kernel, by decide⟩

/-- A proposal for the first word of launch 1. -/
def proposal0 : Proposal :=
  { word := 2 ^ 24, launch := 1, g := some 0, queue := 0, func := 0, rank := 0, order := 0, prio := 0, value := 9, window := 200, bound := 64, seq := 0
    reqId := 7, raddr := 0, packet := 0, departed := none, decision := none, objectors := [], overtakenBy := [], done := false }

/-- ClaimInstructions: a word of the launch and one beyond; the smallest window and arrival and the ones below; a proposal still open;
the largest value of a window and the next. -/
theorem witness_claims :
    let s := synced { core0 with cw := [(2, 160)] }
    let r : ClaimRef := { word := 2 ^ 24, bound := 64, members := [(1, 0)], queues := [] }
    claimRef s s.curCore 0 = .ok r ∧ (∃ e, claimRef s s.curCore 2 = .error e) ∧ onceSeen s = none ∧
    2 * r.bound + 32 ≤ s.curCore.cwGet 2 ∧ s.curCore.cwGet 2 + r.bound ≤ 4095 ∧ s.curCore.cwGet 2 + r.bound ≤ (224#12).toNat ∧
    (223#12).toNat < s.curCore.cwGet 2 + r.bound ∧ 159 < 2 * r.bound + 32 ∧ 4095 < 4032 + r.bound ∧
    ((openProposals s r.word).any fun (_, p) => p.g == some s.cur && p.launch == s.curCore.launch.getD 0) = false ∧
    (let o := { s with proposals := [(3, { proposal0 with departed := some 0 })], now := (64 : Nat) }
     ((openProposals o r.word).any fun (_, p) => p.g == some o.cur && p.launch == o.curCore.launch.getD 0) = true ∧
     ((openProposals o r.word).any fun (_, p) => windowOpen p o.now) = true ∧ (o.proposals.map (·.1)).Pairwise (· < ·)) ∧
    (0xFFF#12).toNat ≤ 4095 ∧ 4095 < 1 + (0xFFF#12).toNat := by
  refine ⟨by rfl, ⟨_, rfl⟩, by rfl, ?_⟩
  decide +kernel

/-- ClaimSteps: a proposal that departs beside an older one of its word in its window; the members of its word; a decision; a
sample. -/
theorem witness_claim_steps :
    let s := { synced core0 with
      proposals := [(3, { proposal0 with departed := some 0, g := some 8, order := 8 }), (4, proposal0)]
      samples := [(5, { word := 2 ^ 24, launch := 1, rank := 0, reqId := 7 })]
      now := 10 }
    s.proposals.find 4 = some proposal0 ∧ proposal0.departed = none ∧ (s.core 0).launch = some proposal0.launch ∧
    writesAcked s 0 proposal0.seq 4 allClasses = true ∧
    s.now < 0 + proposal0.window ∧ membersOfWord s (2 ^ 24) = [(1, 0)] ∧ memberFlags s 1 (2 ^ 24) = (some 4, some 5) ∧
    s.launch? 1 = some syncLaunch ∧ syncLaunch.state ≠ .saved ∧ syncLaunch.state ≠ .ended ∧ 0 < syncLaunch.cores.length ∧
    s.samples.find 5 = some { word := 2 ^ 24, launch := 1, rank := 0, reqId := 7 } := by
  and_intros <;> decide +kernel

/-! ## Witnesses: the commons and streams -/

/-- CommonsInstructions: the last block of four words and one past the end; the least arrival on each die and one below. -/
theorem witness_commons :
    let s := synced core0
    let t := synced { core0 with vdie := 1 }
    (2044#64).toNat + 4 ≤ 2048 ∧ 2048 < (2045#64).toNat + 4 ∧ (if s.curCore.vdie = 0 then 256 else 352) ≤ (256#12).toNat ∧
    (255#12).toNat < (if s.curCore.vdie = 0 then 256 else 352) ∧ (if t.curCore.vdie = 0 then 256 else 352) ≤ (352#12).toNat ∧
    onceSeen s = none := by decide +kernel

/-- A request of rank 0 of launch 1. -/
def commonsReq0 (kind : Nat) (block : List Word) : CommonsReq :=
  { kind := kind, rank := some 0, queue := 0, func := 0, launch := 1, sub := 0, block := block, flag := none, reqId := 7, due := 10, raddr := 0
    packet := 0, saddr := 0, sext := 0, result := none, waits := [] }

/-- A subscription of queue 0. -/
def subscription0 : Subscription :=
  { queue := 0, func := 0, sub := 0, limit := 9, hard := false, computed := 0, inForce := 0, pages := [], off := 0, va := some 0, ipages := [], ext := 0
    recNum := 0, notice := none, seqNo := 0, capPaid := 0, fetPaid := 0, nprod := 0, stopped := false }

/-- A held entry with a key, whose stream runs. -/
def entry0 : DirEntry := { DirEntry.reset with words := [5, 6], state := 1, nt := 4, rights := 1, run := true, period := 8000, cost := 10 }

/-- The module with that entry as number 3, and core 0 with record 0 behind a handle. -/
def commonsState (d : DirEntry) (c : Core) : State :=
  { synced c with directory := [(3, d)], commonsReqs := [(9, commonsReq0 0 [5, 6, 1, 0])] }

/-- CommonsActs: the request and its launch; a key that an entry has and one that none has; rights held or not; a record that can
hold a status block; a subscription of the queue. -/
theorem witness_commons_acts :
    let s := commonsState entry0 memCore
    let t := commonsState { entry0 with subs := [subscription0], rights := 0 } memCore
    s.commonsReqs.find 9 = some (commonsReq0 0 [5, 6, 1, 0]) ∧ s.launch? 1 = some syncLaunch ∧ syncLaunch.state ≠ .saved ∧ syncLaunch.state ≠ .ended ∧
    (commonsReq0 0 [5, 6, 1, 0]).result = none ∧ { commonsReq0 0 [] with result := some 1 }.result = some 1 ∧
    entryOfKey s 5 6 = some (3, entry0) ∧ entryOfKey s 6 5 = none ∧ entry0.rights.getLsbD 0 = true ∧
    (∀ b ∈ entry0.subs, b.queue ≠ 0) ∧ (sbfOfCore s s.curCore 0).isSome = true ∧
    entryOfSub s 0 0 = none ∧ entryOfSub t 0 0 = some (3, { entry0 with subs := [subscription0], rights := 0 }) ∧
    ([subscription0].find? fun b => b.queue == 0 && b.sub == 0) = some subscription0 := by
  and_intros <;> decide +kernel

/-- A boarding of the entry from tile 0 on, into the weight buffer. -/
def boarding0 : Boarding :=
  { entry := 3, sub := 0, queue := 0, g0 := 0, k0 := 0, stop := none, base := 100, period := 8000, nbuf := 2, wb := true, line := 0, doff := 0
    hoff := 0, dst := none, hdr := ⟨0, memCore.bfGet 0, handle0⟩, flag := some 3, complete := [], pending := [] }

/-- CoresTakeTheirCycle, the landing timeout: a late request; a late tile and no late request; data that has come with the last cycle of
the freeze; and nothing that the cycle waits for. -/
theorem witness_landing_timeout :
    let c := { core0 with boardings := [boarding0] }
    let d := { core0 with reqs := [request (some [1])] }
    (lateRequests { core0 with reqs := [request none] }).head? = some (request none) ∧
    (lateRequests c).head? = none ∧ lateTile c = some 100 ∧
    (lateRequests d).head? = none ∧ lateTile d = none ∧ d.reqs.find? (fun r => r.dueAt d) = some (request (some [1])) ∧
    (lateRequests core0).head? = none ∧ lateTile core0 = none ∧ core0.reqs.find? (fun r => r.dueAt core0) = none := by decide +kernel

/-- CommonsActs, BOARD and ALIGHT: a block that passes its checks with slots that fit, with and without a boarding. -/
theorem witness_board :
    let s := commonsState entry0 memCore
    let t := commonsState entry0 { memCore with boardings := [boarding0] }
    boardBlockOk 0x100 0 = true ∧ boardSlotsOk s s.curCore entry0 0x100 0 = true ∧ (∀ b ∈ s.curCore.boardings, b.stop ≠ none) ∧
    (∃ b ∈ t.curCore.boardings, b.stop = none) ∧
    (t.curCore.boardings.find? fun b => b.stop.isNone && b.entry == 3 && b.sub == 0) = some boarding0 := by decide +kernel

/-- A staged tile. -/
def staged0 : Staged := { img := [1], hdr := [2], poison := false, read := true, fetched := false, retried := false, at_ := 0 }

/-- StreamSteps: a tile with a boarder and one without, in the HBM tier and in the deep tier; a tile that is staged, read or not, fetched or
not, its slot free or not; what the shares of its fetch need. -/
theorem witness_streams :
    let d := { entry0 with staged := [(1, staged0)], subs := [subscription0] }
    let t := commonsState d { memCore with boardings := [boarding0] }
    t.directory.find 3 = some d ∧ d.run = true ∧ d.tier ≠ 2 ∧ { d with tier := 2 }.tier = 2 ∧
    boarders t 3 1 = [(0, 1, 0)] ∧ boarders t 4 1 = [] ∧ t.flaws = [] ∧ t.poison = [] ∧ t.badCounters = [] ∧ t.tsvFailed = [] ∧
    t.reencrypt = [] ∧ d.staged.find 0 = none ∧ (∃ u ∈ d.subs, ∃ b ∈ boarders t 3 1, (t.launch? b.2.1).map (·.queue) = some u.queue) ∧
    (boarders t 3 1).filter (·.1 == 0) = [(0, 1, 0)] ∧ d.staged.find 1 = some staged0 ∧ staged0.read = true ∧ 1 ∉ boarding0.complete ∧
    (t.core 0).boardings.find? (·.covers 3 1) = some boarding0 ∧ inFlight t 0 1 3 1 = false ∧
    staged0.at_ ≤ t.now ∧ t.now < { staged0 with at_ := 1 }.at_ ∧ slotFree (t.core 0) boarding0 1 = true ∧ slotFree (t.core 0) boarding0 2 = false ∧ 2 ∉ boarding0.pending ∧
    boarders (commonsState d memCore) 3 1 = [] ∧ { staged0 with read := false }.read = false ∧ staged0.fetched = false ∧
    { staged0 with fetched := true }.fetched = true ∧
    (∃ b ∈ boarders t 3 1, ∃ o ∈ (memberCore t b.2.1 b.2.2).boardings, o.covers 3 1 = true ∧ 1 ∉ o.complete) := by decide +kernel

/-- PeriodBoundaries: the four kinds of entry that a boundary meets. -/
theorem witness_periods :
    let s := { State.reset with
      now := 6000000
      directory := [(1, { entry0 with subs := [subscription0] }), (2, { entry0 with lastLeft := some 1 }),
        (3, { entry0 with state := 2, unheldAt := some 1 }), (4, { entry0 with state := 2, unheldAt := some 2 })] }
    (s.directory.map (·.1)).Pairwise (· < ·) ∧ s.directory.find 1 = some { entry0 with subs := [subscription0] } ∧
    s.directory.find 2 = some { entry0 with lastLeft := some 1 } ∧ 1 < s.now / 3000000 ∧ s.now / 3000000 ≤ 2 ∧
    (∀ b ∈ [subscription0], entry0.rights.getLsbD b.func = true ∧ ¬(b.hard = true ∧ b.limit < b.computed)) := by
  refine ⟨by decide, rfl, rfl, by decide, by decide, by decide⟩

/-! ## Witnesses: translation and shootdowns -/

/-- A handle whose XLATE of page 0 is in progress. -/
def handleInFlight (va : Word) (caused : Bool) : Handle :=
  { Handle.reset with va := va, xl := some { va := va, write := true, issue := 0, baddr := 0, rep := 0, caused := caused } }

/-- A cache entry of page 0 of the PF, as the tables of `mapped` give it. -/
def pageEntry : CacheEntry := { func := 0, page := 0, ipage := 5, ppage := 5, run := 0, read := true, write := true }

/-- XlateSteps: an address of 48 bits and one of more; a miss, a hit that allows a write and one that does not; a running launch; a
walk that finds the page, one that finds stage 1 absent, and one that meets a malformed entry. -/
theorem witness_xlate :
    let s := launched { core0 with h := [(2, handleInFlight 0 true)] }
    let hit := { s with tcache := [(0, [pageEntry])] }
    let bad := { s with tcache := [(0, [{ pageEntry with write := false }])] }
    ((s.core 0).hGet 2).xl.isSome = true ∧ (s.core 0).launch = some 1 ∧ s.launch? 1 = some (fetchLaunch 0) ∧
    (fetchLaunch 0).state = .running ∧ rollingBack s 1 = false ∧
    ((0xFFFFFFFFFFFF : Word).toNat < 2 ^ 48 ∧ 2 ^ 48 ≤ (0x1000000000000 : Word).toNat) ∧
    lookup s (hiveOfCore 0) 0 0 = none ∧ lookup hit (hiveOfCore 0) 0 0 = some pageEntry ∧ pageEntry.allows true = true ∧
    lookup bad (hiveOfCore 0) 0 0 = some { pageEntry with write := false } ∧
    { pageEntry with write := false }.allows true = false ∧
    walk (mapped s) 0 0 = .page pageEntry ∧ walk (mapped s) 0 0x10000 = .absent 1 0 ∧
    walk (writeWord (mapped s) 0x30000 0x5000B) 0 0 = .malformed ∧ walkWait (mapped s) 0 0 = none ∧ walkWait (mapped s) 0 0x10000 = none ∧
    walkWait (writeWord (mapped s) 0x30000 0x5000B) 0 0 = none ∧ walkWait { mapped s with reencrypt := [(0x20000 / 4096, 9)] } 0 0 = some 9 := by
  and_intros <;> decide +kernel

/-- XlateSteps: a walk that caused its stop, the only one, with nothing else to wait for. -/
theorem witness_walk_restart :
    let y := { fetchLaunch 0 with state := .stopped, walking := 1 }
    y.state = .stopped ∧ y.walking = 1 ∧ y.restart = none ∧ y.terminated = none ∧ translates (launched core0) y.cores = false ∧
    (∀ r ∈ y.stops, r.answer.isSome) ∧ ∀ k ∈ y.cores, ((launched core0).core k).elFault = [] := by decide +kernel

/-- A shootdown of page 0 of the PF. -/
def shootdown0 (wait : List Nat) (reached : List (Nat × Nat × Nat)) : Shootdown :=
  { func := 0, kind := 0, first := 0, count := 1, waitCores := wait, reached := reached, host := true }

/-- Shootdowns: one that has a core to reach, with a handle that it hits and one that it does not; one that has reached it, whose uses
have performed, its handle cut, and one whose uses have not; a function with no placement. -/
theorem witness_shootdowns :
    let far := { handle0 with va := 0x10000 }
    let s := { launched { core0 with h := [(0, handle0), (1, far)] } with shoots := [(4, shootdown0 [0] [])] }
    let t := { launched { core0 with h := [(0, { handle0 with cut := true })] } with shoots := [(4, shootdown0 [] [(1, 0, 3)])] }
    s.shoots.find 4 = some (shootdown0 [0] []) ∧ (s.core 0).launch = some 1 ∧ s.launch? 1 = some (fetchLaunch 0) ∧
    (fetchLaunch 0).func = 0 ∧ coresOfFunc s 0 = [0] ∧ (shootdown0 [0] []).hits handle0 = true ∧ (shootdown0 [0] []).hits far = false ∧
    t.shoots.find 4 = some (shootdown0 [] [(1, 0, 3)]) ∧ usesDone t 1 0 3 = true ∧
    usesDone { t with accesses := [(1, { access0 .write [piece0] with launch := some 1 })] } 1 0 3 = false ∧
    (shootdown0 [] [(1, 0, 3)]).hits { handle0 with cut := true } = true ∧
    (fetchLaunch 0).state ≠ .saved ∧ (fetchLaunch 0).state ≠ .ended ∧ (fetchLaunch 0).cores[(s.core 0).rank]? = some 0 ∧
    (∀ p ∈ (shootdown0 [0] []).reached, p.1 ≠ 1 ∨ p.2.1 ≠ (s.core 0).rank) ∧ coresOfFunc s 1 = [] ∧ (∀ p ∈ s.launches, p.2.func = 1 → p.2.state ≠ .saved ∧ p.2.state ≠ .ended) ∧
    (s.shoots.map (·.1)).Pairwise (· < ·) := by
  and_intros <;> decide +kernel

/-! ## Witnesses: stops and rollback -/

/-- A record of core 0 that waits for its answer: of a bounds fault of step 3, a trap, and a pending read. -/
def stop0 (kind code : Nat) : StopRec :=
  { g := 0, kind := kind, code := code, origin := 0, slot := 0, handle := 16, pending := false, words := [], answer := none }

/-- Launch 1, LSN 5 of queue 2, stopped with given records. -/
def stoppedWith (rs : List StopRec) : State :=
  { launched core0 with
    launches := [(1, { fetchLaunch 0 with state := .stopped, lsn := 5, queue := 2, stops := rs, stopPos := 7 })]
    funcs := [(0, { Func.reset with resq := 0x0002000000000005 })] }

/-- ResumeAndRestart: no stop that RESQ names; a stop; modes that it allows and modes that it does not. -/
theorem witness_resume :
    stoppedLaunch (launched core0) 0 = none ∧ (stoppedLaunch (stoppedWith [stop0 1 8]) 0).isSome = true ∧
    allowedModes (stop0 1 8) = [0, 2, 4] ∧ allowedModes (stop0 1 5) = [0, 1, 4] ∧ allowedModes (stop0 1 13) = [3, 4] ∧
    allowedModes (stop0 2 0) = [0, 4] ∧ ((stoppedWith []).func 0).resetting = false ∧
    (let x := { fetchLaunch 0 with state := .stopped, lsn := 5, queue := 2, stops := [stop0 1 8], stopPos := 7 }
     stoppedLaunch (stoppedWith [stop0 1 8]) 0 = some (1, x, 0, stop0 1 8) ∧ x.state = .stopped ∧ x.walking = 0 ∧ x.restart = none ∧
     x.terminated = none ∧ translates (stoppedWith [stop0 1 8]) x.cores = false ∧
     (∀ q ∈ x.stops.set 0 { stop0 1 8 with answer := some 2 }, q.answer.isSome) ∧
     ∀ k ∈ x.cores, ((stoppedWith [stop0 1 8]).core k).elFault = []) := by decide +kernel

/-- ResumeAndRestart: a stopped launch whose restart is due, with a record of step 3 that SKIP and one that CLEARPRT has answered. -/
theorem witness_restart :
    let s := stoppedWith [{ stop0 1 8 with answer := some 2 }, { stop0 1 13 with answer := some 3 }]
    let rs := [{ stop0 1 8 with answer := some 2 }, { stop0 1 13 with answer := some 3 }]
    let x := { fetchLaunch 0 with state := .stopped, lsn := 5, queue := 2, stopPos := 7, restart := some 71, stops := rs }
    (s.setLaunch 1 x).launch? 1 = some x ∧ x.restart.isSome ∧ x.state = .stopped ∧ (∀ r ∈ x.stops, r.origin = 0 ∨ (r.kind ≠ 1 ∧ r.answer ≠ some 1)) ∧
    (∃ r ∈ x.stops, r.answer = some 3) ∧ ∃ r ∈ x.stops, r.answer = some 2 := by
  refine ⟨rfl, rfl, rfl, by decide, by decide, by decide⟩

/-- Rollback: a core with a checkpoint, contained or not; in each run, with signatures that agree or differ. -/
theorem witness_rollback :
    let c := { core0 with rerun := some ⟨2, 0xFFFFFFFF, 60⟩ }
    let s := { launched core0 with checkpoints := [(0, [{ core0 with cycle := 40 }])] }
    s.checkpoints.find 0 = some [{ core0 with cycle := 40 }] ∧ (s.core 0).launch = some 1 ∧ s.launch? 1 = some (fetchLaunch 0) ∧
    (s.core 0).halted = false ∧ s.up = true ∧ (s.core 0).rerun = none ∧ (s.core 0).region.uncontained = 0 ∧
    { core0.region with uncontained := 2 }.uncontained ≠ 0 ∧ atomicLost (s.core 0) { core0 with cycle := 40 } = false ∧
    c.rerun = some ⟨2, 0xFFFFFFFF, 60⟩ ∧ c.sig = 0xFFFFFFFF ∧ c.cycle - 40 = 60 ∧ (fetchLaunch 0).stops = [] ∧
    (fetchLaunch 0).preempting = false ∧ (∀ k ∈ (fetchLaunch 0).cores, (s.core k).later = []) := by
  and_intros <;> decide +kernel

/-! ## Witnesses: the front end -/

/-- A bound portal queue of the PF with given entries. -/
def queue0 (buffer : List (BitVec 512)) : Queue :=
  { qcb := 0, word0 := 0, func := 0, maxPri := 7, pinOk := false, ring := false, stepMax := 100, state := 1, ecode := 0, slot := some 0, lsn := 0
    eaddr := 0, head := 0, buffer := buffer, levels := [ownLevel 0], refs := [], dependPending := false, blocked := .none
    doorbell := none, ended := [], got := none, rbase := 0, rlog := 0, tail := 0 }

/-- The module with the PF enabled, with queues 0 to 3, 24 hives and slots 0 to 3, and queue 0 as given. -/
def fronted (q : Queue) : State :=
  { State.reset with
    funcs := [(0, { Func.reset with applied := [0x8000000000FFFFFF, 0x0000008000001000, 1, 0x1000000] })], queues := [(0, q)]
    slots := [(0, some 0)] }

/-- PortalsAndQueues: a function that is enabled and one that is not; the last page and the next; a queue with room and a full one; an
error; a ring whose TAIL the budget has room for, and one for which it has not. -/
theorem witness_portals :
    let s := fronted (queue0 [])
    s.up = true ∧ { s with up := false }.up = false ∧ (s.func 0).en = true ∧ (s.func 1).en = false ∧ (s.func 0).qbase = 0 ∧ (s.func 0).qcnt = 4 ∧
    (s.func 0).resetting = false ∧ s.queue? 0 = some (queue0 []) ∧ s.queue? 3 = none ∧ (queue0 []).ring = false ∧
    (queue0 []).state ≠ 2 ∧ (queue0 []).slot ≠ none ∧ (queue0 (List.replicate 7 0)).buffer.length < 8 ∧
    8 ≤ (queue0 (List.replicate 8 0)).buffer.length ∧ ownsQueue (s.func 0) 3 = true ∧ ownsQueue (s.func 0) 4 = false ∧
    { queue0 [] with ring := true }.doorbell = none ∧ hostBudget s 0 64 = true ∧
    hostBudget (s.updFunc 0 fun f => { f with hostBytes := 4065 }) 0 32 = false ∧ freeSlotsOf s 0 = [1, 2, 3] ∧
    freeSlotsOf { s with slots := [(0, some 0), (1, some 1), (2, some 2), (3, some 3)] } 0 = [] ∧
    (s.queues.map (·.1)).Pairwise (· < ·) := by decide +kernel

/-- The module about to create a queue, with the privileged word of its control block and the command word. -/
def creating (w cmd : Word) : State := { writeWord (fronted (queue0 [])) hostBase w with cmd := cmd }

/-- PortalsAndQueues: QCREATE of queue 3 of the PF, in the cycles that bind and after them, the host granting its block or not; one
whose reserved bits are set, one of a queue that is not the function's, one that exists, and one of a function that is not enabled. -/
theorem witness_qcreate :
    let s := creating 0x0003000000000000 0x0000000300000000
    let w := readWord s (hostBase + (bits s.cmd 0 32).toNat)
    bits w 0 25 = 0 ∧ (bits w 48 16).toNat = (bits s.cmd 32 16).toNat ∧ (bits w 42 6).toNat = 0 ∧
    ownsQueue (s.func 0) (bits s.cmd 32 16).toNat = true ∧ s.queue? (bits s.cmd 32 16).toNat = none ∧ (s.func 0).en = true ∧
    freeSlotsOf s 0 = [1, 2, 3] ∧ hostBudget s 0 32 = true ∧
    hostBudget (s.updFunc 0 fun f => { f with hostBytes := 4065 }) 0 32 = false ∧ mayBind s = true ∧ mayBind { s with now := 480 } = false ∧
    (Config.hostGrants 0 0 = true ∨ Config.hostGrants 0 0 = false) ∧
    (let r := creating 0x0003000000000001 0x0000000300000000
     bits (readWord r (hostBase + (bits r.cmd 0 32).toNat)) 0 25 ≠ 0) ∧
    (let r := creating 0x0004000000000000 0x0000000400000000
     let v := readWord r (hostBase + (bits r.cmd 0 32).toNat)
     bits v 0 25 = 0 ∧ (bits v 48 16).toNat = (bits r.cmd 32 16).toNat ∧
     ownsQueue (r.func (bits v 42 6).toNat) (bits r.cmd 32 16).toNat = false) ∧
    (let r := creating 0 0
     let v := readWord r (hostBase + (bits r.cmd 0 32).toNat)
     bits v 0 25 = 0 ∧ (bits v 48 16).toNat = (bits r.cmd 32 16).toNat ∧
     ownsQueue (r.func (bits v 42 6).toNat) (bits r.cmd 32 16).toNat = true ∧ (r.queue? (bits r.cmd 32 16).toNat).isSome = true) := by
  and_intros <;> first | decide +kernel | (cases Config.hostGrants 0 0 <;> simp)

/-- PortalsAndQueues: QDESTROY of no queue, and of queue 0, in the cycles that bind and after them. -/
theorem witness_qdestroy :
    let s := fronted (queue0 [])
    s.queue? 3 = none ∧ s.queue? (bits s.cmd 32 16).toNat = some (queue0 []) ∧ (queue0 []).slot = some 0 ∧
    (s.queues.map (·.1)).Pairwise (· < ·) ∧ mayBind s = true ∧ mayBind { s with now := 479 } = true ∧
    mayBind { s with now := 480 } = false := by decide +kernel

/-- FramesAndPolls: a slot with a queue that has a NOP, a LAUNCH or an unknown packet, one with a queue in error or in reset, and a slot
with none. -/
theorem witness_polls :
    let s := fronted (queue0 [0])
    (s.queues.map (·.1)).Pairwise (· < ·) ∧ (queue0 [0]).slot = some 0 ∧ (s.func 0).resetting = false ∧ (queue0 [0]).ring = false ∧
    (queue0 [0]).state ≠ 2 ∧ (queue0 [0]).state ≠ 3 ∧ { queue0 [0] with state := 2 }.state = 2 ∧ { queue0 [0] with state := 3 }.state = 3 ∧
    (queue0 [0]).blocked = .none ∧ (queue0 [0]).dependPending = false ∧ (queue0 [0]).levels = [ownLevel 0] ∧
    (queue0 [0]).refs = [] ∧ (∀ x ∈ s.funcs, x.2.frHeld = []) ∧
    (∀ x ∈ s.queues, x.2.ring = false ∧ x.2.blocked ≠ .bind ∧ x.2.doorbell = none ∧ x.2.state ≠ 3) ∧ (∀ x ∈ s.agenda, x.2.2 ≠ .slotPoll 0) ∧
    (∀ x ∈ s.shepDead, x.1 ≠ 0) ∧ Table.get none s.slots 0 = some 0 ∧ Table.get none s.slots 1 = none ∧ s.queue? 0 = some (queue0 [0]) ∧
    (pWord 0 0 >>> 56).toNat = 0 ∧ (pWord 0 0 &&& 0xFFFFFFFF) = 0 ∧ (pWord 0 0 >>> 48) = 0 ∧ (∀ i, i < 7 → pWord 0 (i + 1) = 0) ∧
    (pWord 0x0100000000000000 0 >>> 56).toNat = 1 ∧ (pWord 0x0100000000000000 7).toNat % 64 = 0 ∧
    14 ≤ (pWord 0x0E00000000000000 0 >>> 56).toNat := by decide +kernel

/-- A launch that waits, of one hive and one core, step 100 W. -/
def waiting0 : Launch :=
  { fetchLaunch 0 with state := .waiting, decided := some 0, cores := [], image := { Image.empty with h := 1, c := 1, step := 100 } }

/-- LaunchesStart: a candidate that fits, and the placement it gets; with nothing reserved, and with a slot whose rise is taken and a ramp on
its core. -/
theorem witness_admission :
    let s := { fronted (queue0 []) with launches := [(1, waiting0)], now := 3000 }
    waiting0.state = .waiting ∧ waiting0.decided.isSome ∧ waiting0.deps = [] ∧ waiting0.depFailed = false ∧ (s.func 0).en = true ∧
    waiting0.image.h ≠ 0 ∧ waiting0.pollAt + 600 ≤ s.now ∧ waiting0.pin = false ∧ waiting0.step ≤ s.govCap ∧
    waiting0.step ≤ s.capNow ∧ s.hot = [] ∧ s.reserved = [] ∧ s.ramps = [] ∧ 0 < s.riseNow ∧
    (s.func 0).resetting = false ∧ placeFor s [] waiting0 = some ([0], 0) ∧ claimsFit s waiting0 = true ∧
    (let r := { s with reserved := [(1, s.riseNow)], ramps := [(3, 20, [0])] }
     0 < r.riseNow - Table.get 0 r.reserved 2 ∧ r.riseNow - Table.get 0 r.reserved 1 = 0 ∧ placeFor r [] waiting0 = some ([0], 0) ∧
     claimsFit r waiting0 = true) := by
  and_intros <;> decide +kernel

/-- LaunchesStart: an admitted launch of two cores, of a function that is in reset and of one that is not. -/
theorem witness_launch_start :
    let x := { waiting0 with state := .admitted, cores := [0, 1], image := { Image.empty with h := 1, c := 2 } }
    ({ State.reset with launches := [(1, x)] } : State).launch? 1 = some x ∧ x.state = .admitted ∧ x.cores.Nodup ∧
    x.cores[1]? = some 1 ∧ (State.reset.func x.func).resetting = false ∧
    ((State.reset.updFunc 0 fun f => { f with resetting := true }).func x.func).resetting = true := by
  refine ⟨rfl, rfl, by decide, rfl, rfl, rfl⟩

/-- LaunchesEnd: a running launch whose core has halted and that may retire or, with a write open, may not; a split launch; a launch
being saved, before its save, at its end, and with a write that has left open at either. -/
theorem witness_launch_end :
    let s := launched { core0 with halted := true }
    let w := { s with accesses := [(1, { access0 .write [piece0] with launch := some 1 })] }
    let x := { fetchLaunch 0 with image := { Image.empty with h := 2, c := 1, split := 1 } }
    let y := { fetchLaunch 0 with state := .saving }
    s.launch? 1 = some (fetchLaunch 0) ∧ (∀ g ∈ (fetchLaunch 0).cores, (s.core g).halted = true) ∧
    mayRetire s 1 (fetchLaunch 0) = true ∧ mayRetire w 1 (fetchLaunch 0) = false ∧ (fetchLaunch 0).chain = false ∧
    x.holdsBlock = true ∧ x.image.split ≠ 0 ∧ y.state = .saving ∧ y.savedAt = 0 ∧ mayEndSave (s.setLaunch 1 y) y = true ∧
    mayEndSave { w with accesses := [(1, { access0 .write [piece0] with launch := some 1, left := true })] } y = false ∧
    { y with savedAt := 5 }.savedAt ≠ 0 ∧ { y with savedAt := 5 }.savedAt ≤ { s with now := 5 }.now ∧
    mayEndSave { s.setLaunch 1 { y with savedAt := 5 } with now := 5 } { y with savedAt := 5 } = true ∧
    mayEndSave { w with now := 5, accesses := [(1, { access0 .write [piece0] with launch := some 1, left := true })] } { y with savedAt := 5 } = false ∧
    (fetchLaunch 0).orphan = 0 ∧ (s.launches.map (·.1)).Pairwise (· < ·) ∧ x.goesOn = true ∧ s.up = true ∧ s.shoots = [] ∧
    (fetchLaunch 0).state = .running := by
  and_intros <;> decide +kernel

/-- LaunchesEnd: an end with nothing in flight and one with a write that has left; the launch that waits for that write. -/
theorem witness_launch_ended :
    let s := launched core0
    let w := { s with accesses := [(1, { access0 .write [piece0] with launch := some 1, left := true })] }
    let e := { fetchLaunch 0 with state := .ended, final := some (2, []) }
    inFlightOf (dropLaunch s 1) 1 = false ∧ (decide ((2 : Nat) ≠ 0) && inFlightOf (dropLaunch w 1) 1) = true ∧
    (fetchLaunch 0).chain = false ∧ inFlightOf s 1 = false ∧ inFlightOf w 1 = true ∧ e.state = .ended ∧ e.final = some (2, []) ∧
    (s.launches.map (·.1)).Pairwise (· < ·) := by decide +kernel

/-! ## Witnesses: commands of system software -/

/-- The module with directory entry 3 as given, the command word of entry 3, and the operands of a CREATE with key (5, 6), 4 tiers and
cost 10. -/
def commanded (d : DirEntry) : State :=
  { State.reset with
    now := 100
    directory := [(3, d)]
    cmd := 3
    operands := [(4, 5), (5, 6), (6, 0x100000030000000A), (15, 0x000017D400000100), (16, 4000)] }

/-- CommonsCommands: an entry that is free and one that is held; a key that an entry has; operands that no rule refuses; a start and a
period that SCHEDULE accepts and ones that it does not. -/
theorem witness_commons_commands :
    let s := commanded DirEntry.reset
    let h := commanded entry0
    let w := fun (k : Nat) => s.operand (0x20 + 8 * k)
    (bits s.cmd 0 16).toNat = 3 ∧ (s.entry 3).state = 0 ∧ (h.entry 3).state ≠ 0 ∧ entryOfKey s (w 0) (w 1) = none ∧
    (entryOfKey { s with directory := [(4, entry0)] } (w 0) (w 1)).isSome = true ∧
    (bits (w 2) 44 14 = 0 ∧ bits (w 2) 58 2 ≠ 3 ∧ bits (w 2) 60 2 = 1 ∧ bits (w 2) 0 32 ≠ 0 ∧ bits (w 3) 48 16 = 0 ∧
      bits (w 4) 48 16 = 0 ∧ bits (w 5) 52 12 = 0 ∧ bits (w 6) 52 12 = 0 ∧ bits (w 7) 52 11 = 0 ∧ bits (w 8) 52 12 = 0 ∧
      bits (w 11) 16 16 = 0 ∧ bits (w 11) 45 19 = 0) ∧
    ((w 11).getLsbD 44 = true ∧ 256 ≤ (bits (w 11) 0 16).toNat ∧ s.now < (w 12).toNat ∧ s.now + 3000 ≤ (w 12).toNat ∧
      (w 12).toNat < 1001 + 3000) ∧
    bits (0x0010000000000000 : Word) 52 11 ≠ 0 := by decide +kernel

/-- CommonsCommands: SCHEDULE refused for its period and for its start, and a CREATE whose stream does not run. -/
theorem witness_schedule_refused :
    let s := { commanded entry0 with operands := [(15, 0xFF), (16, 3099)] }
    (bits (s.operand 0x78) 0 16).toNat < 256 ∧ (s.operand 0x80).toNat < s.now + 3000 ∧ (s.operand 0x78).getLsbD 44 = false := by
  decide +kernel

/-- CommonsCommands: REPLACE of a tile that is poisoned and of one that is not, before and after some of it has been read, within the budget
and beyond it. -/
theorem witness_replace :
    let s := commanded { entry0 with poisoned := [5] }
    let tile := (bits (s.operand 0x20) 0 12).toNat
    tile ∈ (s.entry 3).poisoned ∧ hostBudget s 0 64 = false ∧
    hostBudget (s.updFunc 0 fun f => { f with applied := [0, 0, 1, 0x1000000] }) 0 64 = true ∧
    (blockedLines s true (copyLines s (s.entry 3) tile)).2 = none ∧
    (blockedLines { s with reencrypt := [(0, 9)] } true [0]).2 = some 9 ∧ tile ∉ ((commanded entry0).entry 3).poisoned ∧ (s.entry 3).state ≠ 0 ∧
    (let size := (s.entry 3).imageSize + (s.entry 3).headerSize
     (s.func 0).hostQuota - (s.func 0).hostBytes < s.cmdLeft.getD size ∧
     { s with cmdLeft := some 0 }.cmdLeft.getD size ≤ (s.func 0).hostQuota - (s.func 0).hostBytes) := by decide +kernel

/-- CommonsCommands: LOAD within the budget and beyond it, to an unaligned address, past the end of the deep tier and below it, and to one where no held entry lies. -/
theorem witness_load :
    let e := { entry0 with words := [5, 6, 0, 0, 0, 0x20000000000, 0x20000100000, 0, 0] }
    let s := commanded e
    let a := 0x30000000000
    s.directory = [(3, e)] ∧ 0x30000000020 % 64 ≠ 0 ∧ deepBase ≤ a ∧ a < 2 * deepBase ∧ a + 128 ≤ 2 * deepBase ∧
    2 * deepBase < 2 * deepBase - 64 + 128 ∧ 0x1000 < deepBase ∧ (∀ r ∈ deepRanges e, overlap a 128 r.1 r.2 = false) ∧
    e.state = 1 ∧ (s.func 0).hostQuota - (s.func 0).hostBytes < s.cmdLeft.getD 128 ∧
    { s with cmdLeft := some 0 }.cmdLeft.getD 128 ≤ (s.func 0).hostQuota - (s.func 0).hostBytes := by decide +kernel

/-- ManagementCommands: registers that exist and ones that do not; the command in progress and none; the codes of CMD. -/
theorem witness_register_write :
    State.reset.up = true ∧ bits State.reset.cmdst 62 2 ≠ 3 ∧ bits (cmdStarted State.reset).cmdst 62 2 = 3 ∧
    (bits (0x1000000000000003 : Word) 56 8).toNat = 16 ∧ (bits (0x2300000000000000 : Word) 56 8).toNat = 35 ∧
    (25 ≤ (bits (200 : Word) 0 12).toNat ∧ (bits (200 : Word) 0 12).toNat ≤ 200) ∧ 12 % 8 ≠ 0 ∧
    (bits (0x2200000000000000 : Word) 56 8).toNat = 34 ∧ { State.reset with up := false }.mgmtFailed = false ∧
    State.reset.hrBase = 0 ∧ { State.reset with hrBase := 4 }.hrBase ≠ 0 := by decide +kernel

/-- The module with one function record as written, and sets as given. -/
def recorded (w : List Word) (sets : Table Nat) : State :=
  { State.reset with funcs := [(0, { Func.reset with written := w })], setTable := sets }

/-- ManagementCommands: EXEC with a set table and a record that rules break, with slots beyond the last, with two records that overlap, and
with records that it applies. -/
theorem witness_exec :
    let fs := fun (s : State) => (List.range 64).map s.func
    let good := recorded [0x8000000001000001, 0x400] [(0, 1)]
    let two := { good with funcs := good.funcs ++ [(1, { Func.reset with written := [0x8000000000000001] })] }
    setTableBad (recorded [] [(1, 1)]) = true ∧ (∃ x ∈ fs (recorded [0, 0, 0, 0, 1] []), recordBad (recorded [] []) x = true) ∧
    (∃ x ∈ fs (recorded [0, 0x100001] []), recordOut x = true) ∧ setTableBad good = false ∧ (∀ x ∈ fs good, recordBad good x = false) ∧
    (∀ x ∈ fs good, recordOut x = false) ∧ recordsOverlap good = false ∧ (∀ i < 64, funcBusy good i = false) ∧
    setTableBad two = false ∧ (∀ x ∈ fs two, recordBad two x = false) ∧ (∀ x ∈ fs two, recordOut x = false) ∧
    recordsOverlap two = true ∧ setsMove (recorded [] []) = false ∧ recordMoves ((recorded [] []).func 0) = false := by decide +kernel

/-- ManagementCommands: EXEC that would take away a hive whose bank's spare takes over. -/
theorem witness_exec_held :
    let s := { recorded [] [] with funcs := [(0, { Func.reset with applied := [0x8000000000000001], written := [] })], bankBusy := [0] }
    let fs := (List.range 64).map s.func
    setTableBad s = false ∧ (∀ x ∈ fs, recordBad s x = false) ∧ (∀ x ∈ fs, recordOut x = false) ∧ recordsOverlap s = false ∧
    (∃ i < 64, heldMoves s i = true) ∧ (∀ i < 64, heldMoves (recorded [] []) i = false) := by decide +kernel

/-- ManagementCommands: REKEY of a function with a launch that is placed and of one with none; FWCOMMIT of a component and of another
number; a health ring, none, and one with room for what is held; no record that waits for room. -/
theorem witness_rekey :
    let s := launched core0
    let t := { s with hrHeld := [[1]], hostVal := 4 }
    (∃ x ∈ s.launches, x.2.func = 0 ∧ x.2.holdsCores = true) ∧ (∀ x ∈ s.launches, x.2.func = 1 → x.2.holdsCores = false) ∧
    (bits (2 : Word) 0 8).toNat = 2 ∧ 3 < (bits (4 : Word) 0 8).toNat ∧ ringSize 0 = 0 ∧ ringSize t.hostVal ≠ 0 ∧
    t.hrHeld.length + (t.hrTail - t.hrHead) ≤ ringSize t.hostVal ∧ t.hrHead ≤ t.hrTail ∧
    ∀ x ∈ s.launches, ∀ r ∈ x.2.stops, r.pending = false := by decide +kernel

/-- Resets: the invariant holds at reset; a function that is not in reset and one that is; a table of launches in its form; no queue of
the function. -/
theorem witness_resets :
    State.reset.Inv ∧ (State.reset.func 5).resetting = false ∧
    ((State.reset.updFunc 5 fun f => { f with resetting := true }).func 5).resetting = true ∧ Rising (launched core0).launches ∧
    Rising (launched core0).queues ∧ (∀ x ∈ State.reset.queues, x.2.func ≠ 5) ∧ ofFunc State.reset 5 0x1000 = false :=
  ⟨rfl, rfl, by decide +kernel, by simp [Rising, launched], by simp [Rising, launched, State.reset], by decide, by decide +kernel⟩

/-- Resets: a module whose firmware starts, and one whose management firmware is below the fused minimum. -/
theorem witness_firmware :
    (∀ k ∈ [1, 2, 3], starts State.reset k = true) ∧ Rising State.reset.staged ∧
    (let s := { State.reset with fusedMin := [(1, 5)], staged := [(1, { version := 4, digest := 0 })] }
     starts s 1 = false ∧ Rising s.staged) := by
  refine ⟨?_, by simp [Rising, State.reset], by decide, by simp [Rising]⟩
  intro k _
  exact decide_eq_true (Nat.zero_le _)

/-- Resets: an address of a function. -/
theorem witness_of_func :
    ofFunc { State.reset with funcs := [(5, { Func.reset with applied := [0x8000000000000001] })] } 5 scratchBase = true := by
  decide +kernel

/-! ## Witnesses: reliability -/

/-- Reliability: a group that has failed and one that has not, with a spare left and with none; a line of a channel with a corrected error
and one without; a channel that the sentinel has taken over; a plan that is due and one that is not; a die whose spare shepherd core is
in use; a device that is up and one that is down. -/
theorem witness_reliability :
    let s := { State.reset with
      now := 48000000
      tsvFailed := [(0, [3])]
      tsvSpared := [(1, 2)]
      setApplied := [(0, 1)]
      flaws := [(1, 1)]
      takeover := [(2, none)]
      refreshPlan := [(1, 2)]
      shepFailed := [9, 24]
      shepDead := [(9, 2 ^ 64)] }
    3 ∈ Table.get [] s.tsvFailed 0 ∧ 4 ∉ Table.get [] s.tsvFailed 0 ∧ Table.get 0 s.tsvSpared 0 < 2 ∧ 2 ≤ Table.get 0 s.tsvSpared 1 ∧
    channelAddr 0 s.setApplied 0 1 = some 64 ∧ channelAddr 0 s.setApplied 0 2 = some 128 ∧ Table.get 0 s.flaws (lineOf 64) = 1 ∧
    Table.get 0 s.flaws (lineOf 128) ≠ 1 ∧ s.takeover.find 2 = some none ∧ s.takeover.find 0 = none ∧
    Table.get 0 s.refreshPlan 0 - 1 + 48000000 ≤ s.now ∧ s.now < Table.get 0 s.refreshPlan 1 - 1 + 48000000 ∧
    shepherdsFailed s 0 = [] ∧ shepherdsFailed { s with shepFailed := [9] } 1 = [9] ∧ 9 ∈ shepherdsFailed s 1 ∧
    17 ∈ shepherdsFailed { s with shepFailed := [17] } 1 ∧ (∃ x ∈ s.shepDead, x.1 = 9) ∧ (∀ x ∈ s.shepDead, x.1 ≠ 10) ∧
    16 + 1 ∉ shepherdsFailed s 1 ∧ s.up = true ∧ { s with up := false }.up = false ∧
    2 ^ 29 - 1 + 1 ≥ 2 ^ 29 := by
  decide +kernel

/-- Reliability: a sweep of channel 0 that has come to line 1, and one of a group of another channel. -/
theorem witness_sweep :
    let s := { State.reset with sweep := [(3, 1), (35, 2)], setApplied := [(0, 1)], badCounters := [], flaws := [(2, 31)] }
    (∃ x ∈ s.sweep, x.1 / 32 = 0 ∧ x.2 = 1) ∧ (∀ x ∈ s.sweep, ¬(x.1 / 32 = 0 ∧ x.2 = 2)) ∧
    channelAddr 0 s.setApplied 0 1 = some 64 ∧ isScratch 64 = false ∧ isHbm 64 = true ∧ 64 / 4096 ∉ s.badCounters ∧
    decodes s 64 = true ∧ macBad s 64 = false ∧ decodes s 128 = false ∧ poisoned s 64 = false ∧ isCommons s 64 = false ∧
    (let u := { s with comSetApplied := 2 ^ 63, directory := [(3, entry0)] }
     isCommons u 64 = true ∧ tileOfAddr u 64 = some (3, 0)) := by decide +kernel

/-- Reliability: a unit whose spare is due, in an empty hive and in one with a launch, with the spare free and taken; one that is lost. -/
theorem witness_spares :
    let s := { launched core0 with spareDue := [.core 1 2, .bank 1 3, .core 0 0], fused := [.core 1 7] }
    SpareUnit.core 1 2 ∈ s.spareDue ∧ SpareUnit.core 2 2 ∉ s.spareDue ∧ hiveEmpty s (spareHive (.core 1 2)) = true ∧
    hiveEmpty s (spareHive (.core 0 0)) = false ∧ spareTaken s (.core 1 2) = true ∧ spareTaken s (.bank 2 3) = false ∧
    unitLost s (.bank 2 3) = false ∧ hiveEmpty s 2 = true ∧ unitLost { s with outOfService := [2] } (.bank 2 3) = true := by
  decide +kernel

/-! ## Witnesses: links -/

/-- A flit whose low 208 bytes are the number's, with its CRC. -/
def sealed (y : Nat) : BitVec 1792 := BitVec.ofNat 1792 (y + (crc64 (leBytes 208 y)).toNat * 2 ^ 1664)

theorem bytesOfNat_add (n x c : Nat) : bytesOfNat n (x + c * 256 ^ n) = bytesOfNat n x := by
  induction n generalizing x c with
  | zero => rfl
  | succ n ih =>
    have h : x + c * 256 ^ (n + 1) = x + c * 256 ^ n * 256 := by ring
    simp only [bytesOfNat, h, Nat.add_mul_div_right _ _ (by decide : 0 < 256), ih]
    congr 1
    apply BitVec.eq_of_toNat_eq
    simp only [BitVec.toNat_ofNat, show (2 : Nat) ^ 8 = 256 from rfl, Nat.add_mul_mod_self_right]

theorem sealed_toNat {y : Nat} (h : y < 2 ^ 1664) : (sealed y).toNat = y + (crc64 (leBytes 208 y)).toNat * 2 ^ 1664 := by
  have hc : (crc64 (leBytes 208 y)).toNat < 2 ^ 64 := (crc64 (leBytes 208 y)).isLt
  simp only [sealed, BitVec.toNat_ofNat]
  apply Nat.mod_eq_of_lt
  generalize (crc64 (leBytes 208 y)).toNat = c at hc
  have h1 : c * 2 ^ 1664 ≤ (2 ^ 64 - 1) * 2 ^ 1664 := Nat.mul_le_mul_right _ (by omega)
  have h2 : (2 : Nat) ^ 1792 = 2 ^ 128 * 2 ^ 1664 := by rw [← Nat.pow_add]
  rw [h2]
  calc y + c * 2 ^ 1664 < 1 * 2 ^ 1664 + (2 ^ 64 - 1) * 2 ^ 1664 := by rw [Nat.one_mul]; exact Nat.add_lt_add_of_lt_of_le h h1
    _ ≤ 2 ^ 128 * 2 ^ 1664 := by rw [← Nat.add_mul]; exact Nat.mul_le_mul_right _ (by decide)

theorem sealed_bits {y : Nat} (h : y < 2 ^ 1664) {lo n : Nat} (hn : lo + n ≤ 1664) : flitBits (sealed y) lo n = y / 2 ^ lo % 2 ^ n := by
  obtain ⟨k, hk⟩ := Nat.exists_eq_add_of_le hn
  simp only [flitBits, sealed_toNat h, hk]
  generalize (crc64 (leBytes 208 y)).toNat = c
  have e : c * 2 ^ (lo + n + k) = c * 2 ^ k * 2 ^ n * 2 ^ lo := by rw [Nat.pow_add, Nat.pow_add]; ring
  rw [e, Nat.add_mul_div_right _ _ (Nat.two_pow_pos lo), Nat.add_mul_mod_self_right]

theorem sealed_good {y : Nat} (h : y < 2 ^ 1664) : flitGood (sealed y) = true := by
  have hp : (2 : Nat) ^ 1664 = 256 ^ 208 := Nat.pow_mul 2 8 208
  have e : leBytes 208 (sealed y).toNat = leBytes 208 y := by
    rw [sealed_toNat h, hp]
    exact bytesOfNat_add 208 y _
  have f : flitBits (sealed y) 1664 64 = (crc64 (leBytes 208 y)).toNat := by
    rw [flitBits, sealed_toNat h, Nat.add_mul_div_right _ _ (Nat.two_pow_pos 1664), Nat.div_eq_of_lt h, Nat.zero_add]
    exact Nat.mod_eq_of_lt (crc64 (leBytes 208 y)).isLt
  rw [flitGood, flitCrc, e, f]
  exact beq_self_eq_true _

theorem sealed_bit {y : Nat} (h : y < 2 ^ 1664) {i : Nat} (hi : i + 1 ≤ 1664) : (sealed y).getLsbD i = (y / 2 ^ i % 2 == 1) := by
  have e := sealed_bits h hi
  simp only [flitBits, Nat.pow_one] at e
  simp only [BitVec.getLsbD, Nat.testBit_eq_decide_div_mod_eq, e]
  rfl

/-- LinkLayer: flits whose CRC is correct and one whose is not, with the expected SEQ, a later one and an earlier one, and one that asks for
a replay. -/
theorem witness_flits :
    (flitGood (sealed 0) = true ∧ flitSeq (sealed 0) = Link.reset.seqIn) ∧
    (flitGood (sealed (2 ^ 102)) = true ∧ flitSeq (sealed (2 ^ 102)) = Link.reset.seqIn ∧ flitNak (sealed (2 ^ 102)) = true ∧
      flitAckV (sealed (2 ^ 102)) = false) ∧
    (flitGood (sealed (5 * 2 ^ 116)) = true ∧ flitSeq (sealed (5 * 2 ^ 116)) = 5) ∧
    (flitGood (sealed (4095 * 2 ^ 116)) = true ∧ flitSeq (sealed (4095 * 2 ^ 116)) = 4095) ∧
    (5 + 4096 - Link.reset.seqIn) % 4096 < 2048 ∧ 2048 ≤ (4095 + 4096 - Link.reset.seqIn) % 4096 := by
  have h0 : 0 < 2 ^ 1664 := Nat.two_pow_pos _
  have h1 : 2 ^ 102 < 2 ^ 1664 := by decide +kernel
  have h2 : 5 * 2 ^ 116 < 2 ^ 1664 := by decide +kernel
  have h3 : 4095 * 2 ^ 116 < 2 ^ 1664 := by decide +kernel
  refine ⟨⟨sealed_good h0, ?_⟩, ⟨sealed_good h1, ?_, ?_, ?_⟩, ⟨sealed_good h2, ?_⟩, ⟨sealed_good h3, ?_⟩, by decide, by decide⟩
  · exact (sealed_bits h0 (by decide)).trans (by decide +kernel)
  · exact (sealed_bits h1 (by decide)).trans (by decide +kernel)
  · exact (sealed_bit h1 (by decide)).trans (by decide +kernel)
  · exact (sealed_bit h1 (by decide)).trans (by decide +kernel)
  · exact (sealed_bits h2 (by decide)).trans (by decide +kernel)
  · exact (sealed_bits h3 (by decide)).trans (by decide +kernel)

/-- LinkLayer: a control flit with ALIGN, of SEQ 0, trains a link that is down; a flit of SEQ 5 does not. -/
theorem witness_trains :
    let k := { Link.reset with up := false }
    trains k (sealed (2 ^ 100 + 3 * 2 ^ 248)) = true ∧ trains k (sealed (5 * 2 ^ 116)) = false ∧ trains Link.reset (sealed 0) = false := by
  have h1 : 2 ^ 100 + 3 * 2 ^ 248 < 2 ^ 1664 := by decide +kernel
  have h2 : 5 * 2 ^ 116 < 2 ^ 1664 := by decide +kernel
  refine ⟨?_, ?_, rfl⟩
  · have hk : flitKind (sealed (2 ^ 100 + 3 * 2 ^ 248)) = 1 := (sealed_bits h1 (by decide)).trans (by decide +kernel)
    have hs : flitSeq (sealed (2 ^ 100 + 3 * 2 ^ 248)) = 0 := (sealed_bits h1 (by decide)).trans (by decide +kernel)
    have hm : flitBits (sealed (2 ^ 100 + 3 * 2 ^ 248)) 248 8 = 3 := (sealed_bits h1 (by decide)).trans (by decide +kernel)
    have ha : ((List.range 12).any fun i => flitBits (sealed (2 ^ 100 + 3 * 2 ^ 248)) (128 + 128 * i + 120) 8 == 3) = true :=
      List.any_eq_true.mpr ⟨0, by decide, beq_iff_eq.mpr hm⟩
    simp only [trains, sealed_good h1, hk, hs, ha]
    rfl
  · have hs : flitSeq (sealed (5 * 2 ^ 116)) = 5 := (sealed_bits h2 (by decide)).trans (by decide +kernel)
    have h : (flitSeq (sealed (5 * 2 ^ 116)) == 0) = false := by rw [hs]; rfl
    generalize sealed (5 * 2 ^ 116) = x at h
    simp only [trains, h, Bool.and_false, Bool.false_and]

/-- A flit of zeros but for its CRC field. -/
def badFlit : BitVec 1792 := BitVec.ofNat 1792 (2 ^ 1664)

theorem crc64_zeros (n : Nat) : crc64 (List.replicate n 0) = 0 := by
  induction n with
  | zero => rfl
  | succ n ih =>
    have h : crc64Byte 0 0 = 0 := by decide
    simpa only [crc64, List.replicate_succ, List.foldl_cons, h] using ih

/-- LinkLayer: a flit whose CRC is wrong. -/
theorem witness_bad_flit : flitGood badFlit = false := by
  have h : leBytes 208 badFlit.toNat = List.replicate 208 0 := by decide +kernel
  have h1 : flitBits badFlit 1664 64 = 1 := by decide +kernel
  simp only [flitGood, flitCrc, h, crc64_zeros, h1]
  rfl

/-- LinkLayer: a link that is down and one that is up, with a flit to replay, with 512 that are not acknowledged and with fewer; the lanes; a
link that moves to the spare lane; a control message; silence. -/
theorem witness_links :
    let k := { Link.reset with replay := [0], unacked := List.replicate 512 (0, 0) }
    let m := { Link.reset with spareAt := some 0, switchAt := some 4090, heard := true, lanesFailed := [2], spareUsed := true }
    let s := { State.reset with now := 30000, links := [(0, k), (1, m), (2, { k with up := false })], ctlIn := [(1, message 1 2 4 7 0)] }
    (s.link 0).up = true ∧ (s.link 0).replay = [0] ∧ 512 ≤ (s.link 0).unacked.length ∧ (s.link 3).unacked.length < 512 ∧
    (s.link 3).replay = [] ∧ { k with replay := [] }.replay = [] ∧ (s.link 2).up = false ∧ 2 ∈ (s.link 1).lanesFailed ∧
    3 ∉ (s.link 1).lanesFailed ∧ (s.link 1).spareUsed = true ∧ (s.link 0).spareUsed = false ∧
    4 ∉ (s.link 0).lanesFailed ∧ (s.link 1).spareAt = some 0 ∧
    (s.link 1).switchAt = some 4090 ∧ (s.link 1).heard = true ∧ seqFrom 0 (s.link 1).seqOut = true ∧
    seqFrom 4090 (s.link 1).seqIn = true ∧ s.ctlIn = [(1, message 1 2 4 7 0)] ∧ s.aligned = true ∧
    { s with aligned := false }.aligned = false ∧ (s.link 0).lastFlit + 30000 ≤ s.now := by decide +kernel

/-- A packet of device 3 for a word of hive 0's scratchpad. -/
def packet0 (ty : Nat) : Packet :=
  { type := ty, len := 4, srcDev := 3, dstDev := 0, srcCore := 0, cls := 1, reqId := 9, aop := 0, psn := false, addr := scratchBase
    data := if ty = 2 then [1, 2, 3, 4, 0, 0, 0, 0, 0, 0, 0, 0] else [1, 2, 3, 4] }

/-- That packet as link 2 has received it: not yet admitted, or admitted with a line that performs at `u`. -/
def inPacket0 (ty : Nat) (u : Option Nat) : InPacket :=
  { link := 2, pkt := packet0 ty, due := 0, tfunc := u.map fun _ => 0, got := [], psn := false
    lines := match u with | some t => [(t, 0, scratchBase, 4)] | none => [] }

/-- The module with that packet, an export entry with the given word 2 for the scratchpad of hive 0, and the bank's port taken until
cycle 5. -/
def linked (ty : Nat) (w : Word) (u : Option Nat) : State :=
  { State.reset with
    pktIn := [(8, inPacket0 ty u)]
    exports := [(0, [0x8000000000000000 + BitVec.ofNat 64 scratchBase, 64, w])]
    ports := [(0, 5)]
    funcs := [(0, { Func.reset with applied := [0x8000000000000001] })] }

/-- Word 2 of an export entry that lets function `v` of device 3 in, for reading and writing, as the PF. -/
def exportWord (v : BitVec 6) : Word := (0x200003 : Word) ||| v.setWidth 64 <<< 9

theorem exportWord_bits : ∀ v : BitVec 6, (bits (exportWord v) 0 9).toNat = 3 ∧ (bits (exportWord v) 9 6).toNat = v.toNat ∧
    (bits (exportWord v) 15 6).toNat = 0 ∧ (exportWord v).getLsbD 21 = true := by decide +kernel

theorem admits_of_export {s : State} {x : InPacket} {write : Bool} {n : Nat} {ws : List Word} {e : Export}
    (hx : s.exports = [(n, ws)]) (he : exportOf s ws = some e) :
    admits s x write =
      if e.sdev = x.pkt.srcDev && e.sfunc = (Config.sourceFunc x.pkt.srcDev x.pkt.srcCore (linkPlace s x)).toNat && (e.rw || !write) &&
        e.base ≤ x.pkt.addr && x.pkt.addr + Nat.max x.pkt.len 1 ≤ e.base + e.len then some e else none := by
  simp only [admits, hx, List.findSome?_cons, he, List.findSome?_nil]
  generalize (decide (e.sdev = x.pkt.srcDev) && decide (e.sfunc = (Config.sourceFunc x.pkt.srcDev x.pkt.srcCore (linkPlace s x)).toNat) &&
    (e.rw || !write) && decide (e.base ≤ x.pkt.addr) && decide (x.pkt.addr + Nat.max x.pkt.len 1 ≤ e.base + e.len)) = b
  cases b <;> rfl

theorem rangeOfFunc_witness {s : State} (h : (s.func 0).word 0 = 0x8000000000000001) : rangeOfFunc s 0 scratchBase 64 = true := by
  have h1 : isHbm scratchBase = false := by decide
  have h2 : (isScratch scratchBase && decide (scratchBase + 64 ≤ scratchBase + 24 * 0x1000000) &&
    (List.range 24).all fun k => !overlap (scratchBase + k * 0x1000000) 0x1000000 scratchBase 64 ||
      (0x8000000000000001 : Word).getLsbD k) = true := by decide +kernel
  simp only [rangeOfFunc, h, h1]
  exact h2

theorem exportOf_witness (ty : Nat) (v : BitVec 6) (u : Option Nat) :
    exportOf (linked ty (exportWord v) u) [0x8000000000000000 + BitVec.ofNat 64 scratchBase, 64, exportWord v] =
      some { base := scratchBase, len := 64, sdev := 3, sfunc := v.toNat, tfunc := 0, rw := true } := by
  obtain ⟨h0, h1, h2, h3⟩ := exportWord_bits v
  have hr : rangeOfFunc (linked ty (exportWord v) u) 0 scratchBase 64 = true := rangeOfFunc_witness rfl
  have hb : (bits (0x8000000000000000 + BitVec.ofNat 64 scratchBase) 0 41).toNat = scratchBase := by decide +kernel
  have hl : (bits (64 : Word) 0 41).toNat = 64 := by decide +kernel
  have hv : (0x8000000000000000 + BitVec.ofNat 64 scratchBase).getLsbD 63 = true := by decide +kernel
  have hm : scratchBase % 64 = 0 := by decide
  simp only [exportOf, List.getD_cons_zero, List.getD_cons_succ, h0, h1, h2, h3, hb, hl, hv, hr, hm]
  rfl

/-- LinkPackets: a packet that is due, and an entry that admits it; the line of the request waits for the bank's port. -/
theorem witness_admits (ty : Nat) (hty : ty < 3) (write : Bool) :
    let w := exportWord (Config.sourceFunc 3 0 (linkPlace (linked ty 0 none) (inPacket0 ty none)))
    let s := linked ty w none
    takePacket s ty = some (8, inPacket0 ty none) ∧ (inPacket0 ty none).pkt.type = ty ∧ (inPacket0 ty none).tfunc = none ∧
    (admits s (inPacket0 ty none) write).isSome = true ∧
    (∃ s1, grantLines (linkPlace s (inPacket0 ty none)) (packetLines (packet0 ty)) s = (s1, [(5, 0, scratchBase, 4)])) ∧
    s.now < 5 := by
  refine ⟨?_, rfl, rfl, ?_, ?_, show (0 : Nat) < 5 from by decide⟩
  · simp [takePacket, linked, inPacket0, packet0, State.reset]
  · rw [admits_of_export rfl (exportOf_witness ty _ none)]
    simp [packet0, inPacket0, linked, linkPlace, State.reset]
  · have hp : packetLines (packet0 ty) = [⟨0, scratchBase, 4⟩] := by
      match ty, hty with
      | 0, _ => decide
      | 1, _ => decide
      | 2, _ => decide
    rw [hp]
    have hs : isScratch scratchBase = true := by decide
    have hb : hiveOf scratchBase * 32 + bankOf scratchBase = 0 := by decide
    refine ⟨_, Prod.ext rfl ?_⟩
    simp only [grantLines, grantLine, hs, if_true, bookPort, hb]
    rfl

/-- LinkPackets: a packet that no entry admits. -/
theorem witness_no_export (ty : Nat) (write : Bool) : admits (linked ty 0 none) (inPacket0 ty none) write = none := by
  have hr : rangeOfFunc (linked ty 0 none) 0 scratchBase 64 = true := rangeOfFunc_witness rfl
  have h : exportOf (linked ty 0 none) [0x8000000000000000 + BitVec.ofNat 64 scratchBase, 64, 0] =
      some { base := scratchBase, len := 64, sdev := 0, sfunc := 0, tfunc := 0, rw := false } := by
    have hb : (bits (0x8000000000000000 + BitVec.ofNat 64 scratchBase) 0 41).toNat = scratchBase := by decide +kernel
    have hl : (bits (64 : Word) 0 41).toNat = 64 := by decide +kernel
    have hv : (0x8000000000000000 + BitVec.ofNat 64 scratchBase).getLsbD 63 = true := by decide +kernel
    have h0 : ∀ lo n, (bits (0 : Word) lo n).toNat = 0 := by intro lo n; simp [bits]
    have hm : scratchBase % 64 = 0 := by decide
    simp only [exportOf, List.getD_cons_zero, List.getD_cons_succ, h0, hb, hl, hv, hr, hm]
    rfl
  rw [admits_of_export rfl h]
  simp [packet0, inPacket0]

/-- LinkPackets: an admitted packet whose line performs now; an atomic that is new and one that has been answered before. -/
theorem witness_granted :
    let s := linked 2 0 (some 0)
    let again := { s with atomReplies := [(linkTarget, [(768, 9, 7)])] }
    (∀ ty ∈ [0, 1, 2], takePacket (linked ty 0 (some 0)) ty = some (8, inPacket0 ty (some 0)) ∧ (inPacket0 ty (some 0)).tfunc = some 0 ∧
      (∀ ln ∈ (inPacket0 ty (some 0)).lines, ln.1 ≤ (linked ty 0 (some 0)).now ∧ isHbm ln.2.2.1 = false)) ∧
    isScratch scratchBase = true ∧ s.flaws = [] ∧ (packet0 2).data.length = 12 ∧ poisoned s scratchBase = false ∧ Memory.wf s.mem = true ∧
    storedReply s linkTarget (3 * 256 + 0) 9 = none ∧
    storedReply again linkTarget (3 * 256 + 0) 9 = some 7 := by
  and_intros <;> decide +kernel

/-- LinkPackets: answers that find a request of an access and of a copy engine, and one that finds none. -/
theorem witness_answers :
    let r : Remote := { access := 5, piece := 0, func := 0, link := 2, pkt := { packet0 1 with srcDev := 0, dstDev := 3 }, dev := 3 }
    let s := { withCore core0 with
      pktIn := [(8, inPacket0 4 none)], remotes := [(1, r)], accesses := [(5, access0 .write [piece0])] }
    let t := fun (ty : Nat) (x : Access) => { s with
      remotes := [(1, { r with pkt := { r.pkt with type := ty } })], accesses := [(5, x)] }
    takePacket s 4 = some (8, inPacket0 4 none) ∧ remoteOf s (packet0 4) 1 = some (1, r) ∧ (packet0 4).psn = false ∧
    s.accesses.find 5 = some (access0 .write [piece0]) ∧ (access0 .write [piece0]).pieces[0]? = some piece0 ∧
    remoteOf State.reset (packet0 4) 1 = none ∧ (remoteOf (t 0 (access0 .read [piece0])) (packet0 3) 0).isSome = true ∧
    (remoteOf (t 2 (access0 (.atomic 0 1 0 false) [piece0])) (packet0 5) 2).isSome = true ∧ (packet0 3).len ≠ 0 ∧ piece0.len ≠ 0 ∧
    ({ packet0 3 with len := 0 } : Packet).len = 0 ∧ (access0 .read [piece0]).role = .slot ∧
    ({ access0 .read [piece0] with role := .engine } : Access).role = .engine := by decide +kernel

/-- LinkPackets: a piece of two that is done first. -/
theorem witness_done_piece :
    let x := access0 .write [piece0, { piece0 with off := 4 }]
    x.pieces[0]? = some piece0 ∧ (∀ m y, x.pieces[m]? = some y → m ≠ 0 → y.done = false) ∧ 1 < x.pieces.length := by
  refine ⟨rfl, ?_, by decide⟩
  intro m y h hm
  match m with
  | 0 => exact absurd rfl hm
  | 1 => cases h; rfl
  | _ + 2 => simp [access0] at h
end Sys2Proof.Tests
end

section
/-!
PROOFS. The results of the S slot's arithmetic, selects, compares and flag logic (R100, R113 to R115, R117, R118): what the
model's operations on words compute as numbers, the rule of each plan of a syllable that is ready, and the statements.
-/
namespace Sys2Proof.Machine

/-! ## Words as numbers -/

theorem ofNat_toNat_word (a : Word) : BitVec.ofNat 64 a.toNat = a := by
  rw [BitVec.ofNat_toNat, BitVec.setWidth_eq]

theorem add_eq_ofNat (a b : Word) : a + b = BitVec.ofNat 64 (a.toNat + b.toNat) := by
  simp [BitVec.ofNat_add]

theorem sub_eq_ofInt (a b : Word) : a - b = BitVec.ofInt 64 (a.toInt - b.toInt) := by
  rw [BitVec.sub_eq_add_neg, Int.sub_eq_add_neg, BitVec.ofInt_add, BitVec.ofInt_neg, BitVec.ofInt_toInt, BitVec.ofInt_toInt]

theorem mul_eq_ofNat (a b : Word) : a * b = BitVec.ofNat 64 (a.toNat * b.toNat) := by
  simp [BitVec.ofNat_mul]

theorem shiftLeft_eq_ofNat (a : Word) (n : Nat) : a <<< n = BitVec.ofNat 64 (a.toNat * 2 ^ n) := by
  apply BitVec.eq_of_toNat_eq
  simp [Nat.shiftLeft_eq]

theorem ushiftRight_eq_ofNat (a : Word) (n : Nat) : a >>> n = BitVec.ofNat 64 (a.toNat / 2 ^ n) := by
  rw [← Nat.shiftRight_eq_div_pow, ← BitVec.toNat_ushiftRight, ofNat_toNat_word]

theorem sshiftRight_eq_ofInt (a : Word) (n : Nat) : a.sshiftRight n = BitVec.ofInt 64 (a.toInt / 2 ^ n) := by
  rw [BitVec.sshiftRight_eq, Int.shiftRight_eq_div_pow]
  norm_cast

/-- The word with the smaller number is the word of the smaller number, where a word is made again from its number. -/
theorem ite_lt_eq_min {α : Type} [LinearOrder α] {num : Word → α} {word : α → Word} (h : ∀ a, word (num a) = a) (a b : Word) :
    (if num a < num b then a else b) = word (Min.min (num a) (num b)) := by
  split
  case isTrue hlt => rw [min_eq_left hlt.le, h]
  case isFalse hge => rw [min_eq_right (not_lt.mp hge), h]

/-- The word with the larger number is the word of the larger number, where a word is made again from its number. -/
theorem ite_lt_eq_max {α : Type} [LinearOrder α] {num : Word → α} {word : α → Word} (h : ∀ a, word (num a) = a) (a b : Word) :
    (if num a < num b then b else a) = word (Max.max (num a) (num b)) := by
  split
  case isTrue hlt => rw [max_eq_right hlt.le, h]
  case isFalse hge => rw [max_eq_left (not_lt.mp hge), h]

theorem smin_eq_ofInt (a b : Word) : (if a.slt b then a else b) = BitVec.ofInt 64 (Min.min a.toInt b.toInt) := by
  simpa only [BitVec.slt_iff_toInt_lt] using ite_lt_eq_min (fun _ => BitVec.ofInt_toInt) a b

theorem smax_eq_ofInt (a b : Word) : (if a.slt b then b else a) = BitVec.ofInt 64 (Max.max a.toInt b.toInt) := by
  simpa only [BitVec.slt_iff_toInt_lt] using ite_lt_eq_max (fun _ => BitVec.ofInt_toInt) a b

theorem umin_eq_ofNat (a b : Word) : (if a.ult b then a else b) = BitVec.ofNat 64 (Min.min a.toNat b.toNat) := by
  simpa only [BitVec.ult_iff_toNat_lt] using ite_lt_eq_min ofNat_toNat_word a b

theorem umax_eq_ofNat (a b : Word) : (if a.ult b then b else a) = BitVec.ofNat 64 (Max.max a.toNat b.toNat) := by
  simpa only [BitVec.ult_iff_toNat_lt] using ite_lt_eq_max ofNat_toNat_word a b

/-- A clamp to a range that is not empty is the larger of its low end and of what its high end leaves. -/
theorem clampInt_eq_max_min {lo hi : Int} (h : lo ≤ hi) (x : Int) : clampInt lo hi x = Max.max lo (Min.min hi x) := by
  unfold clampInt
  split_ifs <;> omega

theorem satWord_eq_ofInt (x : Int) :
    satWord x = BitVec.ofInt 64 (Max.max (-2 ^ 63) (Min.min (2 ^ 63 - 1) x)) :=
  congrArg _ (clampInt_eq_max_min (by decide) x)

/-- The remainder is what the quotient, rounded toward zero, leaves of the dividend (R114). -/
theorem remS_eq_ofInt (a b : Word) :
    remS a b = if b = 0 then a else BitVec.ofInt 64 (a.toInt - a.toInt.tdiv b.toInt * b.toInt) := by
  rw [remS, Int.tmod_def, Int.mul_comm]

/-! ## Counts of bits -/

theorem popcount_eq_countP (n x : Nat) : popcount n x = (List.range n).countP fun i => x.testBit i :=
  List.countP_eq_length_filter.symm

/-- The run of numbers from 0 that satisfy `p` ends at the bound or at the first number that does not. -/
theorem length_takeWhile_range (p : Nat → Bool) (n : Nat) :
    let k := ((List.range n).takeWhile p).length
    k ≤ n ∧ (∀ i < k, p i = true) ∧ (k < n → p k = false) := by
  have hk : ((List.range n).takeWhile p).length = (List.range n).findIdx fun i => !p i := by
    rw [List.takeWhile_eq_take_findIdx_not, List.length_take, Nat.min_eq_left List.findIdx_le_length]
  rw [hk]
  refine ⟨by simpa using List.findIdx_le_length (p := fun i => !p i) (xs := List.range n), fun i hi => ?_, fun hlt => ?_⟩
  · simpa using List.not_of_lt_findIdx hi
  · have hstop := List.findIdx_getElem (p := fun i => !p i) (xs := List.range n) (w := by simpa using hlt)
    rw [List.getElem_range] at hstop
    simpa using hstop

theorem leadingZeros_spec (n x : Nat) :
    leadingZeros n x ≤ n ∧ (∀ i < leadingZeros n x, x.testBit (n - 1 - i) = false) ∧
      (leadingZeros n x < n → x.testBit (n - 1 - leadingZeros n x) = true) := by
  simpa [leadingZeros] using length_takeWhile_range (fun i => !x.testBit (n - 1 - i)) n

theorem trailingZeros_spec (n x : Nat) :
    trailingZeros n x ≤ n ∧ (∀ i < trailingZeros n x, x.testBit i = false) ∧
      (trailingZeros n x < n → x.testBit (trailingZeros n x) = true) := by
  simpa [trailingZeros] using length_takeWhile_range (fun i => !x.testBit i) n

/-! ## Conditions (R100, R117) -/

/-- TST: two words have a common one if and only if their conjunction is not zero. -/
theorem and_ne_zero_iff (a b : Word) :
    ((a &&& b) != 0) = true ↔ ∃ i < 64, a.getLsbD i = true ∧ b.getLsbD i = true := by
  rw [bne_iff_ne, ne_eq, BitVec.eq_of_getLsbD_eq_iff]
  simp

/-! ## Plans of the S slot that are ready -/

section
variable {i : Instr} {h : SHead} {s : State}

/-- A format-A syllable of two sources lands the value that its operation has on them (R113). -/
theorem runPlan_alu2 {x : FmtA} {lat : Nat} {op : Word → Word → Word} {v : Word}
    (hr : SReady s h [rS x.sa.toNat, rS x.sb.toNat]) (hop : op (s.curCore.sGet x.sa.toNat) (s.curCore.sGet x.sb.toNat) = v) :
    runPlan i (alu2 h x lat op s) s = .next (landS s 0 lat x.sd.toNat v) :=
  hop ▸ runPlan_sReady hr

/-- A format-A syllable of one source lands the value that its operation has on it (R113). -/
theorem runPlan_alu1 {x : FmtA} {lat : Nat} {op : Word → Word} {v : Word} (hr : SReady s h [rS x.sa.toNat])
    (hop : op (s.curCore.sGet x.sa.toNat) = v) :
    runPlan i (alu1 h x lat op s) s = .next (landS s 0 lat x.sd.toNat v) :=
  hop ▸ runPlan_sReady hr

/-- A flag syllable lands its operation on the two flags (R118). -/
theorem runPlan_flagLogic {x : FmtC} {op : Bool → Bool → Bool} (hr : SReady s h [rF (x.sa.toNat % 8), rF (x.sb.toNat % 8)]) :
    runPlan i (flagLogic h x op s) s = .next (landF s 0 1 x.fd.toNat
      (op (s.curCore.fGet (x.sa.toNat % 8)) (s.curCore.fGet (x.sb.toNat % 8)))) :=
  runPlan_sReady hr

theorem exec_cmp (x : FmtC) : exec (.cmp h x) s = runPlan (.cmp h x) (planCmp h x s) s := rfl

/-- With IM = 0, CMP reads two registers (R117). -/
theorem planCmp_register {x : FmtC} (him : x.im = 0) :
    planCmp h x s = sPlan h s.curCore [rS x.sa.toNat, rS x.sb.toNat] none fun t =>
      landF t 0 1 x.fd.toNat (cond x.cc.toNat (s.curCore.sGet x.sa.toNat) (s.curCore.sGet x.sb.toNat)) := by
  simp [planCmp, him]

/-- With IM = 1, CMP reads one register and the sign-extended immediate (R117). -/
theorem planCmp_immediate {x : FmtC} (him : x.im = 1) :
    planCmp h x s = sPlan h s.curCore [rS x.sa.toNat] none fun t =>
      landF t 0 1 x.fd.toNat (cond x.cc.toNat (s.curCore.sGet x.sa.toNat) (x.imm.signExtend 64)) := by
  simp [planCmp, him]

end

/-! ## The statements -/

/-- Settles O14: each syllable's plan is `alu2` or `alu1` of an operation on words, which is the operation on numbers that R113
and R114 give. -/
theorem scalarRegisterResults : Obligations.ScalarRegisterResults := by
  refine ⟨fun s h x hr => ?_, fun s h x hr => ?_⟩
  · exact ⟨
      -- ADD, SUB and the bitwise forms
      runPlan_alu2 hr (add_eq_ofNat _ _), runPlan_alu2 hr (sub_eq_ofInt _ _),
      runPlan_alu2 hr rfl, runPlan_alu2 hr rfl, runPlan_alu2 hr rfl, runPlan_alu2 hr rfl,
      -- shifts
      runPlan_alu2 hr (shiftLeft_eq_ofNat _ _), runPlan_alu2 hr (ushiftRight_eq_ofNat _ _),
      runPlan_alu2 hr (sshiftRight_eq_ofInt _ _),
      -- minima, maxima and saturating forms
      runPlan_alu2 hr (smin_eq_ofInt _ _), runPlan_alu2 hr (smax_eq_ofInt _ _),
      runPlan_alu2 hr (umin_eq_ofNat _ _), runPlan_alu2 hr (umax_eq_ofNat _ _),
      runPlan_alu2 hr (satWord_eq_ofInt _), runPlan_alu2 hr (satWord_eq_ofInt _),
      -- MUL, MULH, MULHU
      runPlan_alu2 hr (mul_eq_ofNat _ _), runPlan_alu2 hr rfl, runPlan_alu2 hr rfl,
      -- DIV, DIVU, REM, REMU
      runPlan_alu2 hr rfl, runPlan_alu2 hr rfl, runPlan_alu2 hr (remS_eq_ofInt _ _), runPlan_alu2 hr rfl⟩
  · obtain ⟨hclz, hclz0, hclz1⟩ := leadingZeros_spec 64 (s.curCore.sGet x.sa.toNat).toNat
    obtain ⟨hctz, hctz0, hctz1⟩ := trailingZeros_spec 64 (s.curCore.sGet x.sa.toNat).toNat
    exact ⟨runPlan_alu1 hr (congrArg _ (popcount_eq_countP _ _)), ⟨_, hclz, runPlan_alu1 hr rfl, hclz0, hclz1⟩,
      ⟨_, hctz, runPlan_alu1 hr rfl, hctz0, hctz1⟩⟩

/-- Settles O16: the conditions are the comparisons of the words' numbers, SEL and CMP are their plans run, and each flag syllable's
plan is `flagLogic` of its operation. -/
theorem flagResults : Obligations.FlagResults := by
  refine ⟨fun a b => ?_, fun s h x hr => runPlan_sReady hr, fun s h x => ⟨fun him hr => ?_, fun him hr => ?_⟩,
    fun s h x hr => ⟨runPlan_flagLogic hr, runPlan_flagLogic hr, runPlan_flagLogic hr, runPlan_flagLogic hr⟩⟩
  · exact ⟨beq_iff_eq, bne_iff_ne, BitVec.slt_iff_toInt_lt, BitVec.sle_iff_toInt_le, BitVec.slt_iff_toInt_lt,
      BitVec.sle_iff_toInt_le, BitVec.ult_iff_toNat_lt, BitVec.ule_iff_toNat_le, BitVec.ult_iff_toNat_lt,
      BitVec.ule_iff_toNat_le, and_ne_zero_iff a b⟩
  · rw [exec_cmp, planCmp_register him, runPlan_sReady hr]
  · rw [exec_cmp, planCmp_immediate him, runPlan_sReady hr]

end Sys2Proof.Machine
end

section
/-!
PROOFS. The V slots' selects, compares, masks and moves of elements (R142 to R144, R149, R152 to R154, R160 to R162, R165 to
R169): what packing elements into a register gives, the rule of each plan of a syllable that is ready, and the statements.
-/
namespace Sys2Proof.Machine

/-! ## Packed elements (R142) -/

theorem packNat_lt (w : Nat) (f : Nat → Nat) (n : Nat) : packNat w f n < 2 ^ (w * n) := by
  induction n with
  | zero => simp [packNat]
  | succ n ih =>
    have htop : f n % 2 ^ w < 2 ^ w := Nat.mod_lt _ (Nat.two_pow_pos w)
    calc packNat w f n + f n % 2 ^ w * 2 ^ (w * n)
        < (f n % 2 ^ w + 1) * 2 ^ (w * n) := by rw [Nat.add_mul]; omega
      _ ≤ 2 ^ w * 2 ^ (w * n) := Nat.mul_le_mul_right _ htop
      _ = 2 ^ (w * (n + 1)) := by rw [← Nat.pow_add, Nat.mul_succ, Nat.add_comm]

/-- A multiple of a later element's weight changes no earlier element. -/
theorem add_mul_two_pow_div_mod {k n : Nat} (hk : k < n) (w a e : Nat) :
    (a + e * 2 ^ (w * n)) / 2 ^ (w * k) % 2 ^ w = a / 2 ^ (w * k) % 2 ^ w := by
  obtain ⟨d, rfl⟩ := Nat.exists_eq_add_of_lt hk
  have hweight : e * 2 ^ (w * (k + d + 1)) = 2 ^ (w * k) * (2 ^ w * (e * 2 ^ (w * d))) := by ring
  rw [hweight, Nat.add_mul_div_left _ _ (Nat.two_pow_pos _), Nat.add_mul_mod_self_left]

theorem packNat_div_mod (w : Nat) (f : Nat → Nat) {n k : Nat} (hk : k < n) :
    packNat w f n / 2 ^ (w * k) % 2 ^ w = f k % 2 ^ w := by
  induction n with
  | zero => omega
  | succ n ih =>
    rcases Nat.lt_succ_iff_lt_or_eq.mp hk with hlt | rfl
    · rw [packNat, add_mul_two_pow_div_mod hlt, ih hlt]
    · rw [packNat, Nat.add_mul_div_right _ _ (Nat.two_pow_pos _), Nat.div_eq_of_lt (packNat_lt w f k), Nat.zero_add, Nat.mod_mod]

/-- An element of a register whose first elements are packed, where the register holds them all. -/
theorem elem_ofNat_packNat {m w n k : Nat} (hfit : w * n ≤ m) (hk : k < n) (f : Nat → Nat) :
    elem w (BitVec.ofNat m (packNat w f n)) k = f k % 2 ^ w := by
  have hsmall : packNat w f n < 2 ^ m := (packNat_lt w f n).trans_le (Nat.pow_le_pow_right (by decide) hfit)
  rw [elem, BitVec.toNat_ofNat, Nat.mod_eq_of_lt hsmall, packNat_div_mod w f hk]

/-- The enable bits of an element are all ones or all zeros, and fit in it. -/
theorem elem_ofNat_packNat_enable {m w n k : Nat} (hfit : w * n ≤ m) (hk : k < n) (en : Nat → Bool) :
    elem w (BitVec.ofNat m (packNat w (fun i => if en i then 2 ^ w - 1 else 0) n)) k = if en k then 2 ^ w - 1 else 0 := by
  have hpos := Nat.two_pow_pos w
  rw [elem_ofNat_packNat hfit hk]
  apply Nat.mod_eq_of_lt
  split <;> omega

/-- A bit of a vector of bits is its element of one bit. -/
theorem getLsbD_eq_elem_one {n : Nat} (v : BitVec n) (i : Nat) : v.getLsbD i = decide (elem 1 v i = 1) := by
  rw [BitVec.getLsbD, Nat.testBit_eq_decide_div_mod_eq, elem, Nat.one_mul, Nat.pow_one]

theorem getLsbD_maskOf (f : Nat → Bool) {i : Nat} (hi : i < 128) : (maskOf f).getLsbD i = f i := by
  rw [getLsbD_eq_elem_one, maskOf, elem_ofNat_packNat (by decide) hi]
  cases f i <;> rfl

/-- The elements that `landElems` puts in flight are those of `LandsElems`, where a vector register holds them all. -/
theorem landsElems_landElems {w n : Nat} (hfit : w * n ≤ 4096) (s : State) (slot lat vd : Nat) (en : Nat → Bool)
    (f : Nat → Rounded) : LandsElems s (landElems s slot lat vd w n en f) slot lat vd w n en f :=
  ⟨_, _, rfl, fun _ hk => ⟨fun _ => elem_ofNat_packNat hfit hk _, elem_ofNat_packNat_enable hfit hk en⟩⟩

theorem widthOf_le (c : Nat) : widthOf c ≤ 32 := by
  unfold widthOf
  split <;> decide

/-! ## Masks as sets of lanes (R153, R154) -/

theorem getLsbD_two_pow_sub_one (n : Nat) {i : Nat} (hi : i < 128) :
    (BitVec.ofNat 128 (2 ^ n - 1)).getLsbD i = decide (i < n) := by
  rw [BitVec.getLsbD_ofNat, Nat.testBit_two_pow_sub_one, decide_eq_true hi, Bool.true_and]

/-- MANY: two masks have a common lane if and only if their conjunction is not zero. -/
theorem mask_and_ne_zero_iff (m p : Mask) :
    ((m &&& p) != 0) = true ↔ ∃ i < 128, (m.getLsbD i && p.getLsbD i) = true := by
  rw [bne_iff_ne, ne_eq, BitVec.eq_of_getLsbD_eq_iff]
  simp

/-- MALL: every lane of `p` is one of `m` if and only if `m` with the lanes outside `p` is full. -/
theorem mask_or_not_eq_allOnes_iff (m p : Mask) :
    ((m ||| ~~~p) == BitVec.allOnes 128) = true ↔ ∀ i < 128, p.getLsbD i = true → m.getLsbD i = true := by
  rw [beq_iff_eq, BitVec.eq_of_getLsbD_eq_iff]
  refine forall₂_congr fun i hi => ?_
  rw [BitVec.getLsbD_or, BitVec.getLsbD_not, BitVec.getLsbD_allOnes, decide_eq_true hi, Bool.true_and]
  cases m.getLsbD i <;> cases p.getLsbD i <;> decide

/-- The bits of the number of a conjunction of masks are its lanes. -/
theorem testBit_and_eq (m p : Mask) : (m &&& p).toNat.testBit = fun i => m.getLsbD i && p.getLsbD i :=
  funext fun _ => BitVec.getLsbD_and

theorem popcount_and_eq_countP (m p : Mask) :
    popcount 128 (m &&& p).toNat = (List.range 128).countP fun i => m.getLsbD i && p.getLsbD i := by
  rw [popcount_eq_countP, testBit_and_eq]

/-- MFIRST: the trailing zeros of a conjunction of masks end at its first common lane. -/
theorem trailingZeros_and_spec (m p : Mask) :
    ∃ n ≤ 128, trailingZeros 128 (m &&& p).toNat = n ∧ (∀ i < n, (m.getLsbD i && p.getLsbD i) = false) ∧
      (n < 128 → (m.getLsbD n && p.getLsbD n) = true) := by
  obtain ⟨hle, hzero, hone⟩ := trailingZeros_spec 128 (m &&& p).toNat
  rw [testBit_and_eq] at hzero hone
  exact ⟨_, hle, rfl, hzero, hone⟩

/-! ## Plans of the V slots that are ready (R91, R93) -/

/-- The units that a format-V instruction of two sources reads. -/
theorem vectorReads_two (h : Head) (x : FmtV) :
    vectorReads h x false = (stepReg h x.va.toNat :: if x.bc = 1 then [] else [stepReg h x.vb.toNat]).map rV := by
  simp [vectorReads]

/-- The units that VPERM reads are the sources that it moves elements of. -/
theorem vectorReads_eq_map_ite (h : Head) (x : FmtV) : vectorReads h x false =
    (if x.bc = 1 then [stepReg h x.va.toNat] else [stepReg h x.va.toNat, stepReg h x.vb.toNat]).map rV := by
  rw [vectorReads_two]
  split <;> rfl

section
variable {i : Instr} {h : Head} {s : State}

/-- A V syllable that is ready and whose own check fails is a fault. -/
theorem runPlan_vReady_check {reads : List ReadUnit} {run : State → State} {k : Check} (hr : VReady s h reads) :
    runPlan i (vPlan h reads (some k) run) s = .next (raise s (slotNum h.slot) (withWord i k)) := by
  obtain ⟨hpred, hreads⟩ := hr
  simp [runPlan, Plan.fault, vPlan, hpred, hreads]

/-- A V syllable that is ready lands the elements that its plan computes, where a vector register holds them all. -/
theorem exists_landsElems {reads : List ReadUnit} {lat vd w n : Nat} {en : Nat → Bool} {f : Nat → Rounded}
    (hr : VReady s h reads) (hfit : w * n ≤ 4096) :
    ∃ t, runPlan i (vPlan h reads none fun s => landElems s (slotNum h.slot) lat vd w n en f) s = .next t ∧
      LandsElems s t (slotNum h.slot) lat vd w n en f :=
  ⟨_, runPlan_vReady hr, landsElems_landElems hfit s _ lat vd en f⟩

/-- A mask syllable lands its value where the predicate is 1 (R153). -/
theorem runPlan_maskOp {x : FmtQ} {srcs : List Nat} {f : Core → Mask} (hr : VReady s h (srcs.map rM)) :
    runPlan i (maskOp h x srcs f s) s = .next (land s (slotNum h.slot) 2
      (.mReg (stepReg h x.md.toNat) (f s.curCore) (maskPred s.curCore h.prd h.pn))) :=
  runPlan_vReady hr

/-- A reduction of a mask ends in its function of the mask and of the predicate (R154). -/
theorem runPlan_maskReduce {x : FmtQ} {fin : State → Mask → Mask → State} (hr : VReady s h [rM (stepReg h x.ma.toNat)]) :
    runPlan i (maskReduce h x fin s) s =
      .next (fin s (s.curCore.mGet (stepReg h x.ma.toNat)) (maskPred s.curCore h.prd h.pn)) :=
  runPlan_vReady hr

/-- A move of elements lands the elements that it selects (R160 to R162). -/
theorem exists_moveResult {fmt vd : Nat} {srcs : List Nat} {f : Core → Nat → Nat} {g : Nat → Nat}
    (hr : VReady s h (srcs.map rV)) (hf : ∀ k, f s.curCore k = g k) :
    ∃ t, runPlan i (moveOp h (stepReg h vd) srcs (widthOf fmt) f s) s = .next t ∧ MoveResult s t h fmt vd srcs g :=
  (funext hf : f s.curCore = g) ▸ exists_landsElems hr (Nat.mul_div_le _ _)

end

theorem exec_vtrd (h : Head) (x : FmtT) (s : State) :
    exec (.vtrd h x) s = runPlan (.vtrd h x) (planVtrd h x s) s := rfl

/-! ## The statements -/

/-- Settles O23: VSEL and VCMP are their plans run, whose packed elements and bits are the ones given; each mask syllable's plan is
`maskOp` of its logic; and each reduction's plan is `maskReduce` of a function of masks that is the one of R154 on their lanes. -/
theorem selectCompareAndMasks : Obligations.SelectCompareAndMasks := by
  refine ⟨⟨fun s h x => ⟨runPlan_vReady, ?vsel⟩, fun s h x => ?vcmp, fun s h x => ⟨?logic, ?mnot, ?mlead⟩⟩,
    fun s h x hr => ⟨?many, ?mall, ?mpop, ?mfirst⟩⟩
  case vsel => exact fun hr => exists_landsElems (vectorReads_two h x ▸ hr) (Nat.mul_div_le _ _)
  case vcmp => exact fun hr => ⟨_, runPlan_vReady hr, fun i hi => getLsbD_maskOf _ hi⟩
  case logic => exact fun hr => ⟨runPlan_maskOp hr, runPlan_maskOp hr, runPlan_maskOp hr, runPlan_maskOp hr⟩
  case mnot => exact fun hr => runPlan_maskOp hr
  case mlead => exact fun hr => ⟨_, runPlan_maskOp (srcs := []) hr, fun i hi => getLsbD_two_pow_sub_one _ hi⟩
  case many => exact ⟨_, runPlan_maskReduce hr, mask_and_ne_zero_iff _ _⟩
  case mall => exact ⟨_, runPlan_maskReduce hr, mask_or_not_eq_allOnes_iff _ _⟩
  case mpop =>
    rw [← popcount_and_eq_countP]
    exact runPlan_maskReduce hr
  case mfirst =>
    obtain ⟨n, hle, hn, hzero, hone⟩ :=
      trailingZeros_and_spec (s.curCore.mGet (stepReg h x.ma.toNat)) (maskPred s.curCore h.prd h.pn)
    exact ⟨n, hle, hn ▸ runPlan_maskReduce hr, hzero, hone⟩

/-- Settles O26: the permutes, the rotation and the broadcast are plans of `moveOp`; VCX lands four registers of elements, one after
the other; VTWR packs a tile row; and VTRD passes its check if and only if the column is inside the tile. -/
theorem elementMoves : Obligations.ElementMoves := by
  refine ⟨⟨fun s h x => ⟨?vperm, fun hr => ⟨?vzip, ?vunzip⟩⟩, fun s h x hr => ⟨?vrot, ?vbcast⟩⟩,
    fun s h x hr => ?vcx, fun s h x => ⟨?vtwr, fun hr => ⟨fun hcol => ?inside, fun hcol => ?outside⟩⟩⟩
  case vperm => exact fun hr => exists_moveResult (vectorReads_eq_map_ite h x ▸ hr) fun _ => apply_ite (elem _ _) _ _ _
  case vzip => exact exists_moveResult hr fun _ => rfl
  case vunzip => exact exists_moveResult hr fun _ => rfl
  case vrot => exact exists_moveResult hr fun _ => rfl
  case vbcast => exact exists_moveResult hr fun _ => rfl
  case vcx =>
    have hfit : 32 * 128 ≤ 4096 := by decide
    exact ⟨_, _, _, _, runPlan_vReady hr, landsElems_landElems hfit _ _ _ _ _ _, landsElems_landElems hfit _ _ _ _ _ _,
      landsElems_landElems hfit _ _ _ _ _ _, landsElems_landElems hfit _ _ _ _ _ _⟩
  case vtwr =>
    intro hr
    have hfit : widthOf x.tfmt.toNat * (1024 / widthOf x.tfmt.toNat) ≤ 1024 := Nat.mul_div_le _ _
    exact ⟨_, _, runPlan_vReady hr, fun i hi => ⟨elem_ofNat_packNat hfit hi _, elem_ofNat_packNat_enable hfit hi _⟩⟩
  case inside =>
    rw [exec_vtrd, planVtrd, if_neg (Nat.not_le.mpr hcol)]
    exact exists_landsElems hr (Nat.mul_le_mul_right 128 (widthOf_le _))
  case outside =>
    rw [exec_vtrd, planVtrd, if_pos hcol]
    exact runPlan_vReady_check hr

end Sys2Proof.Machine
end

section
/-!
PROOFS. The encoding (R83, R92, R98, R101 to R104, R106, R109): what a field reads of a word that is appended of fields, one rule for
each format in each direction, and the statements that decoding and encoding undo each other.
-/
namespace Sys2Proof

/-! ## Fields of words -/

/-- A field that does not straddle the boundary of an appended word is a field of one of its parts. The width is not indexed, so
that the rule is found at every way of writing it. -/
theorem extractLsb'_append_field {a b : Nat} (x : BitVec a) (y : BitVec b) (lo n : Nat) (h : lo + n ≤ b ∨ b ≤ lo) :
    (@HAppend.hAppend _ _ (BitVec (no_index (a + b))) _ x y).extractLsb' lo n =
      if b ≤ lo then x.extractLsb' (lo - b) n else y.extractLsb' lo n := by
  split
  case isTrue hle => exact BitVec.extractLsb'_append_eq_of_le hle
  case isFalse hlt => exact BitVec.extractLsb'_append_eq_of_add_le (h.resolve_right hlt)

/-- Two fields of a word that lie side by side are one field. -/
theorem bits_append_bits {w : Word} {hi lo m n : Nat} (h : hi = lo + n) :
    (@HAppend.hAppend _ _ (BitVec (no_index (m + n))) _ (bits w hi m) (bits w lo n)) = bits w lo (m + n) :=
  BitVec.extractLsb'_append_extractLsb'_eq_extractLsb' h

theorem bits_zero_all (w : Word) : bits w 0 64 = w := BitVec.extractLsb'_eq_self

/-! ## The head of a syllable (R92) -/

section
variable (op : BitVec 8) (stk : BitVec 1) (prd : BitVec 4) (pn : BitVec 1) (body : BitVec 50)

theorem bits_syllable_op : bits (syllable op stk prd pn body) 56 8 = op := by
  simp [bits, syllable, extractLsb'_append_field]

theorem bits_syllable_stk : bits (syllable op stk prd pn body) 55 1 = stk := by
  simp [bits, syllable, extractLsb'_append_field]

theorem readSHead_syllable : readSHead (syllable op stk prd pn body) = ⟨prd, pn⟩ := by
  simp [readSHead, bits, syllable, extractLsb'_append_field]

theorem readHeadNoStep_syllable (sl : Slot) :
    readHeadNoStep sl (syllable op stk prd pn body) = ⟨sl, stk, prd, pn, 0, 0, 0⟩ := by
  simp [readHeadNoStep, bits, syllable, extractLsb'_append_field]

/-- A field of the body is read from the body. -/
theorem bits_syllable_body {lo n : Nat} (h : lo + n ≤ 50) :
    bits (syllable op stk prd pn body) lo n = body.extractLsb' lo n :=
  BitVec.extractLsb'_append_eq_of_add_le h

theorem readHead_syllable {lo : Nat} (h : lo + 4 ≤ 50) (sl : Slot) :
    readHead sl lo (syllable op stk prd pn body) = ⟨sl, stk, prd, pn, body.extractLsb' lo 4, 0, 0⟩ := by
  rw [readHead, bits_syllable_body _ _ _ _ _ h]
  simp [bits, syllable, extractLsb'_append_field]

/-! ## The body of each format (R101 to R104) -/

theorem readA_syllable (x : FmtA) : readA (syllable op stk prd pn (bodyA x)) = x := by
  simp [readA, bits, syllable, bodyA, extractLsb'_append_field]

theorem reservedA_syllable (x : FmtA) : reservedA (syllable op stk prd pn (bodyA x)) = true := by
  simp [reservedA, bits, syllable, bodyA, extractLsb'_append_field]

theorem readI_syllable (x : FmtI) : readI (syllable op stk prd pn (bodyI x)) = x := by
  simp [readI, bits, syllable, bodyI, extractLsb'_append_field]

theorem readC_syllable (x : FmtC) : readC (syllable op stk prd pn (bodyC x)) = x := by
  simp [readC, bits, syllable, bodyC, extractLsb'_append_field]

theorem readX_syllable (x : FmtX) : readX (syllable op stk prd pn (bodyX x)) = x := by
  simp [readX, bits, syllable, bodyX, extractLsb'_append_field]

theorem reservedX_syllable (x : FmtX) : reservedX (syllable op stk prd pn (bodyX x)) = true := by
  simp [reservedX, bits, syllable, bodyX, extractLsb'_append_field]

theorem readB_syllable (x : FmtB) : readB (syllable op stk prd pn (bodyB x)) = x := by
  simp [readB, bits, syllable, bodyB, extractLsb'_append_field]

theorem reservedB_syllable (x : FmtB) : reservedB (syllable op stk prd pn (bodyB x)) = true := by
  simp [reservedB, bits, syllable, bodyB, extractLsb'_append_field]

theorem readH_syllable (x : FmtH) : readH (syllable op stk prd pn (bodyH x)) = x := by
  simp [readH, bits, syllable, bodyH, extractLsb'_append_field]

theorem reservedH_syllable (x : FmtH) : reservedH (syllable op stk prd pn (bodyH x)) = true := by
  simp [reservedH, bits, syllable, bodyH, extractLsb'_append_field]

theorem readY_syllable (x : FmtY) : readY (syllable op stk prd pn (bodyY x)) = x := by
  simp [readY, bits, syllable, bodyY, extractLsb'_append_field]

theorem readV_syllable (x : FmtV) (step : BitVec 4) : readV (syllable op stk prd pn (bodyV x step)) = x := by
  simp [readV, bits, syllable, bodyV, extractLsb'_append_field]

theorem reservedV_syllable (x : FmtV) (step : BitVec 4) : reservedV (syllable op stk prd pn (bodyV x step)) = true := by
  simp [reservedV, bits, syllable, bodyV, extractLsb'_append_field]

theorem readW_syllable (x : FmtW) (step : BitVec 4) : readW (syllable op stk prd pn (bodyW x step)) = x := by
  simp [readW, bits, syllable, bodyW, extractLsb'_append_field]

theorem readJ_syllable (x : FmtJ) (step : BitVec 4) : readJ (syllable op stk prd pn (bodyJ x step)) = x := by
  simp [readJ, bits, syllable, bodyJ, extractLsb'_append_field]

theorem reservedJ_syllable (x : FmtJ) (step : BitVec 4) : reservedJ (syllable op stk prd pn (bodyJ x step)) = true := by
  simp [reservedJ, bits, syllable, bodyJ, extractLsb'_append_field]

theorem readP_syllable (x : FmtP) (step : BitVec 4) : readP (syllable op stk prd pn (bodyP x step)) = x := by
  simp [readP, bits, syllable, bodyP, extractLsb'_append_field]

theorem reservedP_syllable (x : FmtP) (step : BitVec 4) : reservedP (syllable op stk prd pn (bodyP x step)) = true := by
  simp [reservedP, bits, syllable, bodyP, extractLsb'_append_field]

theorem readQ_syllable (x : FmtQ) (step : BitVec 4) : readQ (syllable op stk prd pn (bodyQ x step)) = x := by
  simp [readQ, bits, syllable, bodyQ, extractLsb'_append_field]

theorem reservedQ_syllable (x : FmtQ) (step : BitVec 4) : reservedQ (syllable op stk prd pn (bodyQ x step)) = true := by
  simp [reservedQ, bits, syllable, bodyQ, extractLsb'_append_field]

theorem readG_syllable (x : FmtG) (step : BitVec 4) : readG (syllable op stk prd pn (bodyG x step)) = x := by
  simp [readG, bits, syllable, bodyG, extractLsb'_append_field]

theorem reservedG_syllable (x : FmtG) (step : BitVec 4) : reservedG (syllable op stk prd pn (bodyG x step)) = true := by
  simp [reservedG, bits, syllable, bodyG, extractLsb'_append_field]

theorem readT_syllable (x : FmtT) (step : BitVec 4) : readT (syllable op stk prd pn (bodyT x step)) = x := by
  simp [readT, bits, syllable, bodyT, extractLsb'_append_field]

theorem reservedT_syllable (x : FmtT) (step : BitVec 4) : reservedT (syllable op stk prd pn (bodyT x step)) = true := by
  simp [reservedT, bits, syllable, bodyT, extractLsb'_append_field]

theorem readM_syllable (x : FmtM) (step : BitVec 4) : readM (syllable op stk prd pn (bodyM x step)) = x := by
  simp [readM, bits, syllable, bodyM, extractLsb'_append_field]

theorem reservedM_syllable (x : FmtM) (step : BitVec 4) : reservedM (syllable op stk prd pn (bodyM x step)) = true := by
  simp [reservedM, bits, syllable, bodyM, extractLsb'_append_field]

theorem readD_syllable (x : FmtD) (step : BitVec 4) : readD (syllable op stk prd pn (bodyD x step)) = x := by
  simp [readD, bits, syllable, bodyD, extractLsb'_append_field]

theorem reservedD_syllable (x : FmtD) (step : BitVec 4) : reservedD (syllable op stk prd pn (bodyD x step)) = true := by
  simp [reservedD, bits, syllable, bodyD, extractLsb'_append_field]

theorem readK_syllable (x : FmtK) (step : BitVec 4) : readK (syllable op stk prd pn (bodyK x step)) = x := by
  simp [readK, bits, syllable, bodyK, extractLsb'_append_field]

theorem readZ_syllable (x : FmtZ) (step : BitVec 4) : readZ (syllable op stk prd pn (bodyZ x step)) = x := by
  simp [readZ, bits, syllable, bodyZ, extractLsb'_append_field]

theorem reservedZ_syllable (x : FmtZ) (step : BitVec 4) : reservedZ (syllable op stk prd pn (bodyZ x step)) = true := by
  simp [reservedZ, bits, syllable, bodyZ, extractLsb'_append_field]

theorem readL_syllable (x : FmtL) (step : BitVec 4) : readL (syllable op stk prd pn (bodyL x step)) = x := by
  simp [readL, bits, syllable, bodyL, extractLsb'_append_field]

theorem readE_syllable (x : FmtE) (step : BitVec 4) : readE (syllable op stk prd pn (bodyE x step)) = x := by
  simp [readE, bits, syllable, bodyE, extractLsb'_append_field]

theorem readN_syllable (x : FmtN) (step : BitVec 4) : readN (syllable op stk prd pn (bodyN x step)) = x := by
  simp [readN, bits, syllable, bodyN, extractLsb'_append_field]

theorem reservedN_syllable (x : FmtN) (step : BitVec 4) : reservedN (syllable op stk prd pn (bodyN x step)) = true := by
  simp [reservedN, bits, syllable, bodyN, extractLsb'_append_field]

theorem readO_syllable (x : FmtO) (step : BitVec 4) : readO (syllable op stk prd pn (bodyO x step)) = x := by
  simp [readO, bits, syllable, bodyO, extractLsb'_append_field]

theorem reservedO_syllable (x : FmtO) (step : BitVec 4) : reservedO (syllable op stk prd pn (bodyO x step)) = true := by
  simp [reservedO, bits, syllable, bodyO, extractLsb'_append_field]

theorem readU_syllable (x : FmtU) : readU (syllable op stk prd pn (bodyU x)) = x := by
  simp [readU, bits, syllable, bodyU, extractLsb'_append_field]

theorem reservedU_syllable (x : FmtU) : reservedU (syllable op stk prd pn (bodyU x)) = true := by
  simp [reservedU, bits, syllable, bodyU, extractLsb'_append_field]

theorem readF_syllable (x : FmtF) : readF (syllable op stk prd pn (bodyF x)) = x := by
  simp [readF, bits, syllable, bodyF, extractLsb'_append_field]

theorem reservedF_syllable (x : FmtF) : reservedF (syllable op stk prd pn (bodyF x)) = true := by
  simp [reservedF, bits, syllable, bodyF, extractLsb'_append_field]

end

theorem step_bodyV (x : FmtV) (step : BitVec 4) : (bodyV x step).extractLsb' 8 4 = step := by
  simp [bodyV, extractLsb'_append_field]

theorem step_bodyW (x : FmtW) (step : BitVec 4) : (bodyW x step).extractLsb' 0 4 = step := by
  simp [bodyW, extractLsb'_append_field]

theorem step_bodyJ (x : FmtJ) (step : BitVec 4) : (bodyJ x step).extractLsb' 4 4 = step := by
  simp [bodyJ, extractLsb'_append_field]

theorem step_bodyP (x : FmtP) (step : BitVec 4) : (bodyP x step).extractLsb' 13 4 = step := by
  simp [bodyP, extractLsb'_append_field]

theorem step_bodyQ (x : FmtQ) (step : BitVec 4) : (bodyQ x step).extractLsb' 20 4 = step := by
  simp [bodyQ, extractLsb'_append_field]

theorem step_bodyG (x : FmtG) (step : BitVec 4) : (bodyG x step).extractLsb' 7 4 = step := by
  simp [bodyG, extractLsb'_append_field]

theorem step_bodyT (x : FmtT) (step : BitVec 4) : (bodyT x step).extractLsb' 16 4 = step := by
  simp [bodyT, extractLsb'_append_field]

theorem step_bodyM (x : FmtM) (step : BitVec 4) : (bodyM x step).extractLsb' 35 4 = step := by
  simp [bodyM, extractLsb'_append_field]

theorem step_bodyD (x : FmtD) (step : BitVec 4) : (bodyD x step).extractLsb' 19 4 = step := by
  simp [bodyD, extractLsb'_append_field]

theorem step_bodyK (x : FmtK) (step : BitVec 4) : (bodyK x step).extractLsb' 10 4 = step := by
  simp [bodyK, extractLsb'_append_field]

theorem step_bodyZ (x : FmtZ) (step : BitVec 4) : (bodyZ x step).extractLsb' 25 4 = step := by
  simp [bodyZ, extractLsb'_append_field]

theorem step_bodyL (x : FmtL) (step : BitVec 4) : (bodyL x step).extractLsb' 11 4 = step := by
  simp [bodyL, extractLsb'_append_field]

theorem step_bodyE (x : FmtE) (step : BitVec 4) : (bodyE x step).extractLsb' 0 4 = step := by
  simp [bodyE, extractLsb'_append_field]

theorem step_bodyN (x : FmtN) (step : BitVec 4) : (bodyN x step).extractLsb' 10 4 = step := by
  simp [bodyN, extractLsb'_append_field]

theorem step_bodyO (x : FmtO) (step : BitVec 4) : (bodyO x step).extractLsb' 17 4 = step := by
  simp [bodyO, extractLsb'_append_field]

section
variable {w : Word}

theorem bodyA_readA (h : reservedA w = true) : bodyA (readA w) = bits w 0 50 := by
  have hzero : bits w 0 29 = 0#29 := by simpa [reservedA] using h
  simp [bodyA, readA, ← hzero, bits_append_bits]

theorem bodyI_readI : bodyI (readI w) = bits w 0 50 := by
  simp [bodyI, readI, bits_append_bits]

theorem bodyC_readC : bodyC (readC w) = bits w 0 50 := by
  simp [bodyC, readC, bits_append_bits]

theorem bodyX_readX (h : reservedX w = true) : bodyX (readX w) = bits w 0 50 := by
  have hzero : bits w 0 26 = 0#26 := by simpa [reservedX] using h
  simp [bodyX, readX, ← hzero, bits_append_bits]

theorem bodyB_readB (h : reservedB w = true) : bodyB (readB w) = bits w 0 50 := by
  have hzero : bits w 0 17 = 0#17 := by simpa [reservedB] using h
  simp [bodyB, readB, ← hzero, bits_append_bits]

theorem bodyH_readH (h : reservedH w = true) : bodyH (readH w) = bits w 0 50 := by
  have hzero : bits w 0 38 = 0#38 := by simpa [reservedH] using h
  simp [bodyH, readH, ← hzero, bits_append_bits]

theorem bodyY_readY : bodyY (readY w) = bits w 0 50 := by
  simp [bodyY, readY, bits_append_bits]

theorem bodyV_readV (h : reservedV w = true) : bodyV (readV w) (bits w 8 4) = bits w 0 50 := by
  have hzero : bits w 0 8 = 0#8 := by simpa [reservedV] using h
  simp [bodyV, readV, ← hzero, bits_append_bits]

theorem bodyW_readW : bodyW (readW w) (bits w 0 4) = bits w 0 50 := by
  simp [bodyW, readW, bits_append_bits]

theorem bodyJ_readJ (h : reservedJ w = true) : bodyJ (readJ w) (bits w 4 4) = bits w 0 50 := by
  have hzero : bits w 0 4 = 0#4 := by simpa [reservedJ] using h
  simp [bodyJ, readJ, ← hzero, bits_append_bits]

theorem bodyP_readP (h : reservedP w = true) : bodyP (readP w) (bits w 13 4) = bits w 0 50 := by
  have hzero : bits w 0 13 = 0#13 := by simpa [reservedP] using h
  simp [bodyP, readP, ← hzero, bits_append_bits]

theorem bodyQ_readQ (h : reservedQ w = true) : bodyQ (readQ w) (bits w 20 4) = bits w 0 50 := by
  have hzero : bits w 0 20 = 0#20 := by simpa [reservedQ] using h
  simp [bodyQ, readQ, ← hzero, bits_append_bits]

theorem bodyG_readG (h : reservedG w = true) : bodyG (readG w) (bits w 7 4) = bits w 0 50 := by
  have hzero : bits w 0 7 = 0#7 := by simpa [reservedG] using h
  simp [bodyG, readG, ← hzero, bits_append_bits]

theorem bodyT_readT (h : reservedT w = true) : bodyT (readT w) (bits w 16 4) = bits w 0 50 := by
  have hzero : bits w 0 16 = 0#16 := by simpa [reservedT] using h
  simp [bodyT, readT, ← hzero, bits_append_bits]

theorem bodyM_readM (h : reservedM w = true) : bodyM (readM w) (bits w 35 4) = bits w 0 50 := by
  have hzero : bits w 0 35 = 0#35 := by simpa [reservedM] using h
  simp [bodyM, readM, ← hzero, bits_append_bits]

theorem bodyD_readD (h : reservedD w = true) : bodyD (readD w) (bits w 19 4) = bits w 0 50 := by
  have hzero : bits w 0 19 = 0#19 := by simpa [reservedD] using h
  simp [bodyD, readD, ← hzero, bits_append_bits]

theorem bodyK_readK : bodyK (readK w) (bits w 10 4) = bits w 0 50 := by
  simp [bodyK, readK, bits_append_bits]

theorem bodyZ_readZ (h : reservedZ w = true) : bodyZ (readZ w) (bits w 25 4) = bits w 0 50 := by
  have hzero : bits w 0 25 = 0#25 := by simpa [reservedZ] using h
  simp [bodyZ, readZ, ← hzero, bits_append_bits]

theorem bodyL_readL : bodyL (readL w) (bits w 11 4) = bits w 0 50 := by
  simp [bodyL, readL, bits_append_bits]

theorem bodyE_readE : bodyE (readE w) (bits w 0 4) = bits w 0 50 := by
  simp [bodyE, readE, bits_append_bits]

theorem bodyN_readN (h : reservedN w = true) : bodyN (readN w) (bits w 10 4) = bits w 0 50 := by
  have hzero : bits w 0 10 = 0#10 := by simpa [reservedN] using h
  simp [bodyN, readN, ← hzero, bits_append_bits]

theorem bodyO_readO (h : reservedO w = true) : bodyO (readO w) (bits w 17 4) = bits w 0 50 := by
  have hzero : bits w 0 17 = 0#17 := by simpa [reservedO] using h
  simp [bodyO, readO, ← hzero, bits_append_bits]

theorem bodyU_readU (h : reservedU w = true) : bodyU (readU w) = bits w 0 50 := by
  have hzero : bits w 0 3 = 0#3 := by simpa [reservedU] using h
  simp [bodyU, readU, ← hzero, bits_append_bits]

theorem bodyF_readF (h : reservedF w = true) : bodyF (readF w) = bits w 0 50 := by
  have hzero : bits w 0 13 = 0#13 := by simpa [reservedF] using h
  simp [bodyF, readF, ← hzero, bits_append_bits]

/-- A word is the syllable of its fields. -/
theorem syllable_bits {op : BitVec 8} (hop : (bits w 56 8).toNat = op.toNat) :
    syllable op (bits w 55 1) (bits w 51 4) (bits w 50 1) (bits w 0 50) = w := by
  rw [← BitVec.eq_of_toNat_eq hop]
  simp [syllable, bits_append_bits, bits_zero_all]

/-- A word whose STK bit is 0 is the S syllable of its fields. -/
theorem syllableS_read {op : BitVec 8} (hop : (bits w 56 8).toNat = op.toNat) (hstk : bits w 55 1 = 0) :
    syllableS op (readSHead w) (bits w 0 50) = w := by
  rw [syllableS, ← hstk]
  exact syllable_bits hop

@[simp] theorem readHead_slot (sl : Slot) (lo : Nat) : (readHead sl lo w).slot = sl := rfl
@[simp] theorem readHead_step (sl : Slot) (lo : Nat) : (readHead sl lo w).step = bits w lo 4 := rfl
@[simp] theorem readHeadNoStep_slot (sl : Slot) : (readHeadNoStep sl w).slot = sl := rfl

theorem syllableH_readHead {op : BitVec 8} (hop : (bits w 56 8).toNat = op.toNat) (sl : Slot) (lo : Nat) :
    syllableH op (readHead sl lo w) (bits w 0 50) = w :=
  syllable_bits hop

theorem syllableH_readHeadNoStep {op : BitVec 8} (hop : (bits w 56 8).toNat = op.toNat) (sl : Slot) :
    syllableH op (readHeadNoStep sl w) (bits w 0 50) = w :=
  syllable_bits hop

end

/-! ## A word that decodes is the encoding of what it decodes to -/

theorem bit_eq_zero_iff (b : BitVec 1) : b = 0 ↔ ¬ b = 1 := by revert b; decide

/-- A word decodes when the map of its slot gives an instruction, with the reserved bits zero and STK = 0 in the S slot, and no check
of it fails (R109). -/
theorem decodeSyllable_of_readSlot {sl : Slot} {w : Word} {i : Instr} (hread : readSlot sl w = some (i, true))
    (hbad : i.bad = none) (hstk : sl = .s → bits w 55 1 = 0) : decodeSyllable sl w = .ok i := by
  simp only [bit_eq_zero_iff] at hstk
  simpa [decodeSyllable, hread, hbad] using hstk

/-- Only then does it decode. -/
theorem readSlot_of_decodeSyllable {sl : Slot} {w : Word} {i : Instr} (h : decodeSyllable sl w = .ok i) :
    readSlot sl w = some (i, true) ∧ (sl = .s → bits w 55 1 = 0) := by
  unfold decodeSyllable at h
  split at h
  case h_1 => contradiction
  case h_2 j r hread =>
    split at h
    · contradiction
    · split_ifs at h with hstk hres
      split at h
      · contradiction
      · simp only [Except.ok.injEq] at h
        subst h
        simp only [Bool.not_eq_true, Bool.not_eq_false'] at hres
        subst hres
        exact ⟨hread, fun hs => (bit_eq_zero_iff _).mpr (by simpa [hs] using hstk)⟩

/-- Both forms that share an opcode are encoded with it. -/
theorem encode_nextTile_ite (c : Prop) [Decidable c] (h : SHead) (x : FmtY) :
    encode (if c then .nextTileTake h x else .nextTile h x) = some (.s, syllableS 0x5B h (bodyY x)) := by
  split <;> rfl

theorem encode_claim_ite (c : Prop) [Decidable c] (h : SHead) (x : FmtY) :
    encode (if c then .claimRead h x else .claim h x) = some (.s, syllableS 0x68 h (bodyY x)) := by
  split <;> rfl

section
variable {w : Word} {i : Instr} {sl : Slot}

theorem encode_readSClass (h : readSClass w = some (i, true)) (hstk : bits w 55 1 = 0) : encode i = some (.s, w) := by
  unfold readSClass at h
  split at h <;> simp only [Option.some.injEq, Prod.mk.injEq, reduceCtorEq] at h
  all_goals
    rename_i hop
    obtain ⟨rfl, hres⟩ := h
    simp [encode, ↓encode_nextTile_ite, ↓encode_claim_ite, bodyA_readA, bodyI_readI, bodyC_readC, bodyX_readX, bodyB_readB, bodyH_readH, bodyY_readY,
      syllableS_read, hres, hop, hstk]

theorem encode_readVClass (h : readVClass sl w = some (i, true)) : encode i = some (sl, w) := by
  unfold readVClass at h
  split at h <;> simp only [Option.some.injEq, Prod.mk.injEq, reduceCtorEq] at h
  all_goals
    rename_i hop
    obtain ⟨rfl, hres⟩ := h
    simp [encode, bodyV_readV, bodyW_readW, bodyJ_readJ, bodyP_readP, bodyQ_readQ, bodyG_readG, bodyT_readT,
      syllableH_readHead, hres, hop]

theorem encode_readMClass (h : readMClass sl w = some (i, true)) : encode i = some (sl, w) := by
  unfold readMClass at h
  split at h <;> simp only [Option.some.injEq, Prod.mk.injEq, reduceCtorEq] at h
  all_goals
    rename_i hop
    obtain ⟨rfl, hres⟩ := h
    simp [encode, bodyM_readM, bodyD_readD, syllableH_readHead, hres, hop]

theorem encode_readKClass (h : readKClass sl w = some (i, true)) : encode i = some (sl, w) := by
  unfold readKClass at h
  split at h <;> simp only [Option.some.injEq, Prod.mk.injEq, reduceCtorEq] at h
  all_goals
    rename_i hop
    obtain ⟨rfl, hres⟩ := h
    simp [encode, bodyK_readK, bodyZ_readZ, syllableH_readHead, hres, hop]

theorem encode_readCClass (h : readCClass sl w = some (i, true)) : encode i = some (sl, w) := by
  unfold readCClass at h
  split at h <;> simp only [Option.some.injEq, Prod.mk.injEq, reduceCtorEq] at h
  all_goals
    rename_i hop
    obtain ⟨rfl, hres⟩ := h
    simp [encode, scalarLoadOp, scalarStoreOp, bodyL_readL, bodyE_readE, bodyN_readN, bodyO_readO, bodyU_readU, bodyF_readF,
      syllableH_readHead, syllableH_readHeadNoStep, hres, hop]

/-- What the map of a slot gives for a word is encoded as that word. -/
theorem encode_readSlot (h : readSlot sl w = some (i, true)) (hstk : sl = .s → bits w 55 1 = 0) : encode i = some (sl, w) := by
  cases sl with
  | s => exact encode_readSClass h (hstk rfl)
  | v0 | v1 => exact encode_readVClass h
  | m => exact encode_readMClass h
  | k => exact encode_readKClass h
  | c0 | c1 => exact encode_readCClass h

end

/-! ## Headers (R85) -/

theorem headerWord_readHeader (w : Word) : headerWord (readHeader w) = w := by
  simp [headerWord, readHeader, bits_append_bits, bits_zero_all]

theorem readHeader_headerWord (h : Header) : readHeader (headerWord h) = h := by
  simp [headerWord, readHeader, bits, extractLsb'_append_field]

/-! ## The encoding of an instruction decodes to it -/

theorem firstBad_cons_eq_none {ok : Bool} {b : Bad} {l : List (Bool × Bad)} :
    firstBad ((ok, b) :: l) = none ↔ ok = true ∧ firstBad l = none := by
  cases ok <;> simp [firstBad]

theorem firstBad_also_eq_none {a b : List (Bool × Bad)} :
    firstBad (also a b) = none ↔ firstBad a = none ∧ firstBad b = none := by
  rw [also]
  induction a with
  | nil => simp [firstBad]
  | cons e a ih => rw [List.cons_append, firstBad_cons_eq_none, firstBad_cons_eq_none, ih, and_assoc]

section
variable {h : Head} {w : Word}

/-- The head of a word of the program is read back: it counts no re-issue and holds no broadcast value. -/
theorem readHead_syllableH (hfresh : h.fresh = true) {op : BitVec 8} {body : BitVec 50} {lo : Nat} (hlo : lo + 4 ≤ 50)
    (hstep : body.extractLsb' lo 4 = h.step) : readHead h.slot lo (syllable op h.stk h.prd h.pn body) = h := by
  obtain ⟨slot, stk, prd, pn, step, j, bcv⟩ := h
  rw [readHead_syllable _ _ _ _ _ hlo, hstep]
  simp only [Head.fresh, Bool.and_eq_true, beq_iff_eq] at hfresh
  obtain ⟨rfl, rfl⟩ := hfresh
  rfl

/-- So is the head of a format without a STEP field, whose STEP is 0. -/
theorem readHeadNoStep_syllableH (hfresh : h.fresh = true) {op : BitVec 8} {body : BitVec 50} (hstep : h.step = 0) :
    readHeadNoStep h.slot (syllable op h.stk h.prd h.pn body) = h := by
  obtain ⟨slot, stk, prd, pn, step, j, bcv⟩ := h
  rw [readHeadNoStep_syllable]
  simp only [Head.fresh, Bool.and_eq_true, beq_iff_eq] at hfresh
  obtain ⟨rfl, rfl⟩ := hfresh
  exact congrArg (fun q => (⟨slot, stk, prd, pn, q, 0, 0⟩ : Head)) hstep.symm

/-! The slot of a head whose checks hold is one of its class, whose map reads it. -/

theorem readSlot_eq_readVClass (hh : firstBad (vHeadBad h) = none) : readSlot h.slot w = readVClass h.slot w ∧ h.slot ≠ .s := by
  simp only [vHeadBad, firstBad_cons_eq_none, Bool.or_eq_true, beq_iff_eq] at hh
  obtain ⟨hslot | hslot, -⟩ := hh <;> simp [hslot, readSlot]

theorem readSlot_eq_readMClass (hh : firstBad (mHeadBad h) = none) : readSlot h.slot w = readMClass h.slot w ∧ h.slot ≠ .s := by
  simp only [mHeadBad, firstBad_cons_eq_none, beq_iff_eq] at hh
  simp [hh.1, readSlot]

theorem readSlot_eq_readKClass (hh : firstBad (kHeadBad h) = none) : readSlot h.slot w = readKClass h.slot w ∧ h.slot ≠ .s := by
  simp only [kHeadBad, firstBad_cons_eq_none, beq_iff_eq] at hh
  simp [hh.1, readSlot]

theorem readSlot_eq_readCClass (hh : firstBad (cHeadBad h) = none) : readSlot h.slot w = readCClass h.slot w ∧ h.slot ≠ .s := by
  simp only [cHeadBad, firstBad_cons_eq_none, Bool.or_eq_true, beq_iff_eq] at hh
  obtain ⟨hslot | hslot, -⟩ := hh <;> simp [hslot, readSlot]

theorem step_eq_zero_of_cHeadNoStep (hh : firstBad (cHeadNoStepBad h) = none) : firstBad (cHeadBad h) = none ∧ h.step = 0 := by
  simpa [cHeadNoStepBad, firstBad_also_eq_none, firstBad_cons_eq_none, firstBad] using hh

end

/-- An instruction whose encoding decodes to it. -/
def DecodesBack (i : Instr) : Prop := ∃ sl w, encode i = some (sl, w) ∧ decodeSyllable sl w = .ok i

section
variable {i : Instr} {op : BitVec 8} {body : BitVec 50}

theorem decodesBack_sClass {h : SHead} (hbad : i.bad = none) (henc : encode i = some (.s, syllableS op h body))
    (hread : readSClass (syllable op 0 h.prd h.pn body) = some (i, true)) : DecodesBack i :=
  ⟨_, _, henc, decodeSyllable_of_readSlot hread hbad fun _ => bits_syllable_stk _ _ _ _ _⟩

theorem decodesBack_class {h : Head} {readClass : Slot → Word → Option (Instr × Bool)} (hbad : i.bad = none)
    (henc : encode i = some (h.slot, syllableH op h body))
    (hslot : ∀ {w : Word}, readSlot h.slot w = readClass h.slot w ∧ h.slot ≠ .s)
    (hread : readClass h.slot (syllable op h.stk h.prd h.pn body) = some (i, true)) : DecodesBack i :=
  ⟨_, _, henc, decodeSyllable_of_readSlot (hslot.1.trans hread) hbad fun hs => absurd hs (hslot (w := 0)).2⟩

end

theorem bit_eleven_eq (m : BitVec 12) : m[11] = decide (2048 ≤ m.toNat) := BitVec.msb_eq_decide m

/-- Every S syllable decodes back: its head and the body of its format do, and its opcode is its own in the map of its class. -/
theorem decodesBack_of_sHead {i : Instr} (hhead : i.sHead?.isSome = true) (hbad : i.bad = none) : DecodesBack i := by
  cases i with
  | sNop h x | add h x | sub h x | and h x | or h x | xor h x | andn h x | shl h x | shr h x | sra h x | min h x | max h x
  | minu h x | maxu h x | addS h x | subS h x | mul h x | mulh h x | mulhu h x | popc h x | clz h x | ctz h x | div h x
  | divu h x | rem h x | remu h x | sel h x =>
    refine decodesBack_sClass hbad rfl ?_
    rw [readSClass, bits_syllable_op, readSHead_syllable, readA_syllable, reservedA_syllable]
    rfl
  | addi h x | andi h x | ori h x | xori h x | shli h x | shri h x | srai h x | muli h x | liu h x | fence h x | wclr h x =>
    refine decodesBack_sClass hbad rfl ?_
    rw [readSClass, bits_syllable_op, readSHead_syllable, readI_syllable]
    rfl
  | cmp h x | flagAnd h x | flagOr h x | flagXor h x | flagAndn h x =>
    refine decodesBack_sClass hbad rfl ?_
    rw [readSClass, bits_syllable_op, readSHead_syllable, readC_syllable]
    rfl
  | spld h x | spst h x | csrr h x | csrw h x =>
    refine decodesBack_sClass hbad rfl ?_
    rw [readSClass, bits_syllable_op, readSHead_syllable, readX_syllable, reservedX_syllable]
    rfl
  | prep h x | loop h x | endLoop h x =>
    refine decodesBack_sClass hbad rfl ?_
    rw [readSClass, bits_syllable_op, readSHead_syllable, readB_syllable, reservedB_syllable]
    rfl
  | xlate h x | hrel h x =>
    refine decodesBack_sClass hbad rfl ?_
    rw [readSClass, bits_syllable_op, readSHead_syllable, readH_syllable, reservedH_syllable]
    rfl
  | trap h x | halt h x | tail h x | phase h x | arrive h x | cwSet h x | object h x | subscribe h x | lapse h x | board h x
  | alight h x | cstat h x =>
    refine decodesBack_sClass hbad rfl ?_
    rw [readSClass, bits_syllable_op, readSHead_syllable, readY_syllable]
    rfl
  | nextTile h x | nextTileTake h x | claim h x | claimRead h x =>
    refine decodesBack_sClass hbad rfl ?_
    obtain ⟨-, hfields⟩ := firstBad_also_eq_none.mp hbad
    simp only [firstBad_cons_eq_none, Bool.and_eq_true, beq_iff_eq, decide_eq_true_eq] at hfields
    obtain ⟨⟨-, himm⟩, -⟩ := hfields
    simp [readSClass, bits_syllable_op, readSHead_syllable, readY_syllable, reservedY, bit_eleven_eq, himm]
  | _ => contradiction

/-- So does every syllable of another class that is no re-issue. -/
theorem decodesBack_of_head {i : Instr} (hhead : i.head?.isSome = true) (hfresh : ∀ h, i.head? = some h → h.fresh = true)
    (hbad : i.bad = none) : DecodesBack i := by
  cases i with
  | vNop h x | vadd h x | vsub h x | vmin h x | vmax h x | vmul h x | vabs h x | vneg h x | vand h x | vor h x | vxor h x
  | vandn h x | vshl h x | vshr h x | vsra h x | vpopc h x | vclz h x | vsel h x | vlsadd h x | vrsum h x | vrmax h x
  | vrmin h x | vperm h x | vzip h x | vunzip h x | vexp2 h x | vlog2 h x | vrcp h x | vrsq h x | vtanh h x =>
    refine decodesBack_class hbad rfl (readSlot_eq_readVClass (firstBad_also_eq_none.mp hbad).1) ?_
    rw [readVClass, bits_syllable_op, readHead_syllableH (hfresh h rfl) (by decide) (step_bodyV ..), readV_syllable, reservedV_syllable]
    rfl
  | vfma h x | vfms h x | vfnma h x | vcx h x =>
    refine decodesBack_class hbad rfl (readSlot_eq_readVClass (firstBad_also_eq_none.mp hbad).1) ?_
    rw [readVClass, bits_syllable_op, readHead_syllableH (hfresh h rfl) (by decide) (step_bodyW ..), readW_syllable]
    rfl
  | vaddi h x | vandi h x | vshli h x | vshri h x | vsrai h x | vli h x | vcvt h x | vlscv h x | vlsout h x | vrot h x
  | vbcast h x =>
    refine decodesBack_class hbad rfl (readSlot_eq_readVClass (firstBad_also_eq_none.mp hbad).1) ?_
    rw [readVClass, bits_syllable_op, readHead_syllableH (hfresh h rfl) (by decide) (step_bodyJ ..), readJ_syllable, reservedJ_syllable]
    rfl
  | vcmp h x =>
    refine decodesBack_class hbad rfl (readSlot_eq_readVClass (firstBad_also_eq_none.mp hbad).1) ?_
    rw [readVClass, bits_syllable_op, readHead_syllableH (hfresh h rfl) (by decide) (step_bodyP ..), readP_syllable, reservedP_syllable]
    rfl
  | mand h x | mor h x | mxor h x | mandn h x | mnot h x | mlead h x | many h x | mall h x | mpop h x | mfirst h x =>
    refine decodesBack_class hbad rfl (readSlot_eq_readVClass (firstBad_also_eq_none.mp hbad).1) ?_
    rw [readVClass, bits_syllable_op, readHead_syllableH (hfresh h rfl) (by decide) (step_bodyQ ..), readQ_syllable, reservedQ_syllable]
    rfl
  | vquant h x | vdeq h x =>
    refine decodesBack_class hbad rfl (readSlot_eq_readVClass (firstBad_also_eq_none.mp hbad).1) ?_
    rw [readVClass, bits_syllable_op, readHead_syllableH (hfresh h rfl) (by decide) (step_bodyG ..), readG_syllable, reservedG_syllable]
    rfl
  | vtwr h x | vtrd h x =>
    refine decodesBack_class hbad rfl (readSlot_eq_readVClass (firstBad_also_eq_none.mp hbad).1) ?_
    rw [readVClass, bits_syllable_op, readHead_syllableH (hfresh h rfl) (by decide) (step_bodyT ..), readT_syllable, reservedT_syllable]
    rfl
  | mNop h x | mzero h x =>
    refine decodesBack_class hbad rfl (readSlot_eq_readMClass (firstBad_also_eq_none.mp hbad).1) ?_
    rw [readMClass, bits_syllable_op, readHead_syllableH (hfresh h rfl) (by decide) (step_bodyM ..), readM_syllable, reservedM_syllable]
    rfl
  | mdrain h x =>
    refine decodesBack_class hbad rfl (readSlot_eq_readMClass (firstBad_also_eq_none.mp hbad).1) ?_
    rw [readMClass, bits_syllable_op, readHead_syllableH (hfresh h rfl) (by decide) (step_bodyD ..), readD_syllable, reservedD_syllable]
    rfl
  | kNop h x | kldh h x | ksth h x =>
    refine decodesBack_class hbad rfl (readSlot_eq_readKClass (firstBad_also_eq_none.mp hbad).1) ?_
    rw [readKClass, bits_syllable_op, readHead_syllableH (hfresh h rfl) (by decide) (step_bodyK ..), readK_syllable]
    rfl
  | kmvv h x | kmvz h x | kmov h x | kltl h x =>
    refine decodesBack_class hbad rfl (readSlot_eq_readKClass (firstBad_also_eq_none.mp hbad).1) ?_
    rw [readKClass, bits_syllable_op, readHead_syllableH (hfresh h rfl) (by decide) (step_bodyZ ..), readZ_syllable, reservedZ_syllable]
    rfl
  | cNop h x | ldVector h x | ldTile h x =>
    refine decodesBack_class hbad rfl (readSlot_eq_readCClass (firstBad_also_eq_none.mp hbad).1) ?_
    rw [readCClass, bits_syllable_op, readHead_syllableH (hfresh h rfl) (by decide) (step_bodyL ..), readL_syllable]
    rfl
  | stVector h x | stTile h x =>
    refine decodesBack_class hbad rfl (readSlot_eq_readCClass (firstBad_also_eq_none.mp hbad).1) ?_
    rw [readCClass, bits_syllable_op, readHead_syllableH (hfresh h rfl) (by decide) (step_bodyE ..), readE_syllable]
    rfl
  | cpy h x | cpyc h x | cpyq h x | cpyx h x | cpyz h x | gath h x | scat h x | mcast h x =>
    refine decodesBack_class hbad rfl (readSlot_eq_readCClass (firstBad_also_eq_none.mp hbad).1) ?_
    rw [readCClass, bits_syllable_op, readHead_syllableH (hfresh h rfl) (by decide) (step_bodyN ..), readN_syllable, reservedN_syllable]
    rfl
  | cfence h x | cacq h x | crel h x | ctld h x =>
    obtain ⟨hclass, hstep⟩ := step_eq_zero_of_cHeadNoStep (firstBad_also_eq_none.mp hbad).1
    refine decodesBack_class hbad rfl (readSlot_eq_readCClass hclass) ?_
    rw [readCClass, bits_syllable_op, readHeadNoStep_syllableH (hfresh h rfl) hstep, readF_syllable, reservedF_syllable]
    rfl
  | send h x | recv h x =>
    refine decodesBack_class hbad rfl (readSlot_eq_readCClass (firstBad_also_eq_none.mp hbad).1) ?_
    rw [readCClass, bits_syllable_op, readHead_syllableH (hfresh h rfl) (by decide) (step_bodyO ..), readO_syllable, reservedO_syllable]
    rfl
  | aadd h x | aand h x | aor h x | axor h x | amin h x | amax h x | axchg h x | acas h x =>
    obtain ⟨hclass, hstep⟩ := step_eq_zero_of_cHeadNoStep (firstBad_also_eq_none.mp hbad).1
    refine decodesBack_class hbad rfl (readSlot_eq_readCClass hclass) ?_
    rw [readCClass, bits_syllable_op, readHeadNoStep_syllableH (hfresh h rfl) hstep, readU_syllable, reservedU_syllable]
    rfl
  | mcall h x =>
    refine decodesBack_class hbad rfl (readSlot_eq_readMClass hbad) ?_
    rw [readMClass, bits_syllable_op, readHead_syllableH (hfresh h rfl) (by decide) (step_bodyM ..), readM_syllable, reservedM_syllable]
    rfl
  | ldScalar k h x =>
    refine decodesBack_class hbad rfl (readSlot_eq_readCClass (firstBad_also_eq_none.mp hbad).1) ?_
    rw [readCClass, bits_syllable_op, readHead_syllableH (hfresh h rfl) (by decide) (step_bodyL ..), readL_syllable]
    cases k <;> rfl
  | stScalar k h x =>
    refine decodesBack_class hbad rfl (readSlot_eq_readCClass (firstBad_also_eq_none.mp hbad).1) ?_
    rw [readCClass, bits_syllable_op, readHead_syllableH (hfresh h rfl) (by decide) (step_bodyE ..), readE_syllable]
    cases k <;> rfl
  | wbld h x =>
    have hcopy : copyBad true h x = none := by
      by_contra hne
      simp only [Instr.bad] at hbad
      split at hbad <;> contradiction
    refine decodesBack_class hbad rfl (readSlot_eq_readCClass (firstBad_also_eq_none.mp hcopy).1) ?_
    rw [readCClass, bits_syllable_op, readHead_syllableH (hfresh h rfl) (by decide) (step_bodyN ..), readN_syllable, reservedN_syllable]
    rfl
  | _ => contradiction

/-! ## The statements -/

/-- Settles O7: a syllable of the S slot and one of another class decode back by their heads. -/
theorem encodingDecodesBack : Obligations.EncodingDecodesBack := by
  intro i hword
  simp only [isWord, wellFormed, Instr.isSyllable, Bool.and_eq_true, Bool.or_eq_true, Option.isNone_iff_eq_none] at hword
  obtain ⟨⟨hbad, hhead | hhead⟩, hfresh⟩ := hword
  · exact decodesBack_of_head hhead (fun h hh => by simpa [hh] using hfresh) hbad
  · exact decodesBack_of_sHead hhead hbad

/-- Settles O8: the maps of the slots give an instruction whose encoding is the word that they read, and the fields of a header fill
its word. -/
theorem wordsHaveOneMeaning : Obligations.WordsHaveOneMeaning := by
  refine ⟨fun sl w i h => ?_, headerWord_readHeader, readHeader_headerWord⟩
  obtain ⟨hread, hstk⟩ := readSlot_of_decodeSyllable h
  exact encode_readSlot hread hstk

end Sys2Proof
end

section
/-!
PROOFS. The machine's registers, memory and stops (R19, R25, R31, R94, R95, R246, R344 to R348): what a word of memory reads after a
write, what each landing writes, what a fault does to the launch of its core, and the statements.
-/
namespace Sys2Proof.Machine

theorem SameRegisters.refl (c : Core) : SameRegisters c c := by simp [SameRegisters]

/-! ## Words of memory (R19, R246) -/

/-- The bytes of a word written read back as the word (R19). -/
theorem readWord_writeWord {s : State} (h : Memory.wf s.mem = true) (a : Nat) (w : Word) : readWord (writeWord s a w) a = w := by
  have hread := readBytes_writeBytes h a (leBytes 8 w.toNat)
  rw [leBytes, length_bytesOfNat] at hread
  rw [readWord, writeWord, leBytes, hread, leNat_bytesOfNat, Nat.mod_eq_of_lt (show w.toNat < 256 ^ 8 from w.isLt), ofNat_toNat_word]

theorem readByte_writeWord_first {s : State} (h : Memory.wf s.mem = true) (a : Nat) (w : Word) :
    readByte (writeWord s a w) a = w.setWidth 8 := by
  have hfirst := readByte_writeBytes_inside h a (leBytes 8 w.toNat) (i := 0) (by simp [leBytes])
  simpa [leBytes, bytesOfNat, writeWord, BitVec.ofNat_toNat] using hfirst

/-! ## A fault stops a running placement (R344 to R348) -/

section
variable {s : State} {l : Nat} {x : Launch}

theorem rollingBack_eq_false (hx : s.launch? l = some x) (h : ∀ g ∈ x.cores, (s.core g).rerun = none) : rollingBack s l = false := by
  simpa [rollingBack, hx] using h

/-- A running placement that is stopped stands stopped at this reference cycle, and keeps its records and its queue (R346). -/
theorem launch_stopByCore (hx : s.launch? l = some x) (hrun : x.state = .running) (hroll : rollingBack s l = false) (way : Nat) :
    ∃ pos, (stopByCore s l way).launch? l =
      some { x with state := .stopped, stopPos := pos, stopAt := s.now, stopWay := way, restart := none } := by
  refine ⟨if way = 2 then (s.now + 1) % 64 else s.now % 64, ?_⟩
  simp [stopByCore, stopLaunch, stopNow, launch_updLaunch, hx, hrun, hroll]

end

@[simp] theorem launch_sendMsix (s : State) (f v l : Nat) : (sendMsix s f v).launch? l = s.launch? l := by
  unfold sendMsix; split <;> rfl

@[simp] theorem launch_noteAts (s : State) (f a l : Nat) : (noteAts s f a).launch? l = s.launch? l := by
  unfold noteAts; split <;> rfl

@[simp] theorem launch_writeRecord (s : State) (f : Nat) (ws : List Word) (l : Nat) :
    (writeRecord s f ws).1.launch? l = s.launch? l := by
  have hput : (putRecord s f ws).launch? l = s.launch? l := by
    simp only [putRecord, launch_sendMsix, launch_updFunc]
    split <;> simp [chargeHost]
  unfold writeRecord
  dsimp only
  split_ifs <;> simp [hput]

/-- The words of a record name the issue cycle and the arguments of its fault (R345). -/
theorem recordWords_getD (f : FaultInfo) (rank gcore queue lsn stopcyc dtime : Nat) :
    let ws := recordWords f rank gcore queue lsn stopcyc dtime
    ws.getD 3 0 = BitVec.ofNat 64 f.issue ∧ ws.getD 5 0 = f.arg0 ∧ ws.getD 6 0 = f.arg1 := ⟨rfl, rfl, rfl⟩

theorem stopWithRecord_running {s : State} {l : Nat} {x : Launch} (hx : s.launch? l = some x) (hrun : x.state = .running)
    (hroll : rollingBack s l = false) (g : Nat) (f : FaultInfo) (cause handle stopcyc : Nat) :
    ∃ y, (stopWithRecord s g l f cause handle stopcyc).launch? l = some y ∧ y.state = .stopped ∧ y.stopAt = s.now ∧
      (∃ r, y.stops = x.stops ++ [r] ∧ r.g = g ∧ r.kind = f.kind ∧ r.code = f.code ∧ r.slot = f.slot ∧ r.answer = none ∧
        r.words.getD 3 0 = BitVec.ofNat 64 f.issue ∧ r.words.getD 5 0 = f.arg0 ∧ r.words.getD 6 0 = f.arg1) ∧
      SameRegisters (s.core g) ((stopWithRecord s g l f cause handle stopcyc).core g) := by
  obtain ⟨pos, hstop⟩ := launch_stopByCore hx hrun hroll (stopWayOf s (s.core g) f)
  simp only [stopWithRecord, hroll, Bool.false_eq_true, if_false, hstop]
  simp only [State.updCore, launch_setCore, launch_updLaunch, core_setCore, if_true, core_updLaunch, core_writeRecord,
    core_keepRecord, core_stopByCore, launch_writeRecord]
  refine ⟨_, congrArg _ hstop, rfl, rfl, ⟨_, rfl, rfl, rfl, rfl, rfl, rfl, recordWords_getD ..⟩, ?_⟩
  split
  · exact SameRegisters.refl _
  · exact bumpCause_registers _ _

/-! ## Landings in their order (R95) -/

/-- Two writes land in the order of R95, in whatever order they became pending. -/
theorem sortWrites_pair {a b : Write} {ws : List Write} (hws : ws = [a, b] ∨ ws = [b, a]) (hab : a.before b = true)
    (hba : b.before a = false) : sortWrites ws = [a, b] := by
  rcases hws with rfl | rfl <;> simp [sortWrites, insertWrite, hab, hba]

theorem before_of_issue_slot {a b : Write} {r : Nat} {u v : Word} (ha : a.eff = .sReg r u) (hb : b.eff = .sReg r v)
    (h : a.issue < b.issue ∨ (a.issue = b.issue ∧ a.slot < b.slot)) : a.before b = true ∧ b.before a = false := by
  simp only [Write.before, ha, hb, Bool.or_eq_true, decide_eq_true_eq, Bool.and_eq_true, beq_iff_eq, Bool.or_eq_false_iff,
    decide_eq_false_iff_not, Bool.and_eq_false_iff, beq_eq_false_iff_ne]
  omega

/-- The landing of two writes of one cycle, the first of which comes before the second. -/
theorem exec_registerWriteLanding_pair {s : State} {g : Nat} {a b : Write}
    (hdue : dueWrites (s.core g) = [a, b] ∨ dueWrites (s.core g) = [b, a]) (hab : a.before b = true ∧ b.before a = false) :
    ∃ t, exec (.registerWriteLanding g) s = .next t ∧ t.core g =
      landOne s.now (landOne s.now
        { s.core g with writes := (s.core g).writes.filter fun w => !decide (w.due ≤ (s.core g).cycle) } a) b := by
  refine ⟨_, rfl, ?_⟩
  rw [sortWrites_pair hdue hab.1 hab.2, core_setCore, if_pos rfl]
  rfl

/-! ## A landing writes its unit (R25, R94, R95) -/

/-- A merged register has the new bits where they are enabled. -/
theorem getLsbD_merge {n : Nat} (old v en : BitVec n) {i : Nat} (hi : i < n) :
    (merge old v en).getLsbD i = if en.getLsbD i = true then v.getLsbD i else old.getLsbD i := by
  simp only [merge, BitVec.getLsbD_or, BitVec.getLsbD_and, BitVec.getLsbD_not, decide_eq_true hi, Bool.true_and]
  cases en.getLsbD i <;> simp

theorem getLsbD_putBit {n : Nat} (w : BitVec n) {k i : Nat} (b : Bool) (hi : i < n) :
    (putBit w k b).getLsbD i = if i = k then b else w.getLsbD i := by
  have hbit : (BitVec.ofNat n (2 ^ k)).getLsbD i = decide (i = k) := by
    rw [BitVec.getLsbD_ofNat, Nat.testBit_two_pow, decide_eq_true hi, Bool.true_and, decide_eq_decide]
    exact eq_comm
  cases b <;> simp only [putBit, if_true, Bool.false_eq_true, if_false, BitVec.getLsbD_or, BitVec.getLsbD_and, BitVec.getLsbD_not, hbit,
    decide_eq_true hi] <;> split <;> simp_all

/-- Entries put at successive numbers read as put; the others read as before. -/
theorem get_foldl_put {α : Type} (d : α) (t : Table α) (base n q : Nat) (v : Nat → α) :
    Table.get d ((List.range n).foldl (fun t i => Table.put t (base + i) (v i)) t) q =
      if base ≤ q ∧ q < base + n then v (q - base) else Table.get d t q := by
  induction n with
  | zero => rw [if_neg (by omega)]; rfl
  | succ n ih =>
    rw [List.range_succ, List.foldl_append, List.foldl_cons, List.foldl_nil, Table.get_put, ih]
    split_ifs <;> first | rfl | omega | (congr 1; omega)

/-- The wait flags that were set in the present reference cycle. -/
theorem getLsbD_foldl_putBit (l : List (Nat × Nat)) (at_ : Nat) (w : BitVec 32) {i : Nat} (hi : i < 32) :
    (l.foldl (fun acc (x : Nat × Nat) => if x.2 = at_ then putBit acc x.1 true else acc) w).getLsbD i =
      (w.getLsbD i || l.any fun e => e.1 == i && e.2 == at_) := by
  induction l generalizing w with
  | nil => simp
  | cons e l ih =>
    rw [List.foldl_cons, ih, List.any_cons]
    by_cases he : e.2 = at_
    · rw [if_pos he, getLsbD_putBit _ _ hi]
      by_cases hk : i = e.1
      · simp [he, hk]
      · rw [if_neg hk, beq_eq_false_iff_ne.mpr (Ne.symm hk), Bool.false_and, Bool.false_or]
    · rw [if_neg he, beq_eq_false_iff_ne.mpr he, Bool.and_false, Bool.false_or]

theorem getLsbD_get_put_merge {n : Nat} (t : Table (BitVec n)) (r : Nat) (v en : BitVec n) (q : Nat) {i : Nat} (hi : i < n) :
    (Table.get 0 (Table.put t r (merge (Table.get 0 t r) v en)) q).getLsbD i =
      if q = r ∧ en.getLsbD i = true then v.getLsbD i else (Table.get 0 t q).getLsbD i := by
  rw [Table.get_put]
  by_cases hq : q = r
  · subst hq
    simpa using getLsbD_merge _ v en hi
  · simp [hq]

/-- What a flag landing writes: `f7` reads 1 whatever lands. -/
theorem fGet_applyEffect_fReg (now : Nat) (c : Core) {r q : Nat} (hr : r < 8) (v : Bool) (hq : q < 8) :
    (applyEffect now c (.fReg r v)).fGet q = if q = 7 then true else if q = r then v else c.fGet q := by
  by_cases hq7 : q = 7
  · simp [Core.fGet, hq7]
  · by_cases hr7 : r = 7
    · simp [applyEffect, Core.fGet, hq7, hr7]
    · simp [applyEffect, Core.fGet, hq7, hr7, getLsbD_putBit _ _ (show q < 7 by omega)]

/-- The 128 rows of an accumulator put alike. -/
theorem get_foldl_put_rows {α : Type} (d : α) (t : Table α) (n q : Nat) (v : α) :
    Table.get d ((List.range 128).foldl (fun t r => Table.put t (n * 128 + r) v) t) q = if q / 128 = n then v else Table.get d t q := by
  have hrow : (n * 128 ≤ q ∧ q < n * 128 + 128) ↔ q / 128 = n := by omega
  rw [get_foldl_put d t (n * 128) 128 q fun _ => v]
  exact if_congr hrow rfl rfl

/-- A flag of the wait flags that are cleared stays set when it was set in the same reference cycle (R95). -/
theorem getLsbD_w_applyEffect_clearWait (now : Nat) (c : Core) (m : BitVec 32) {i : Nat} (hi : i < 32) :
    (applyEffect now c (.clearWait m)).w.getLsbD i =
      (c.w.getLsbD i && (!m.getLsbD i || c.setAt.any fun e => e.1 == i && e.2 == now + 1)) := by
  have hkeep := getLsbD_foldl_putBit c.setAt (now + 1) 0 hi
  simp only [applyEffect, BitVec.getLsbD_or, BitVec.getLsbD_and, BitVec.getLsbD_not, decide_eq_true hi, Bool.true_and,
    Bool.and_or_distrib_left]
  exact congrArg (fun b => (c.w.getLsbD i && !m.getLsbD i) || (c.w.getLsbD i && b)) (hkeep.trans (by simp))

theorem levelGet_applyEffect_levelTable (now : Nat) (c : Core) (tab : Nat) (v : BitVec 256) (n : Nat) {code : Nat} (hcode : code < 16) :
    (applyEffect now c (.levelTable tab v)).levelGet n code =
      if n = tab then v.extractLsb' (16 * code) 16 else c.levelGet n code := by
  have hentry : (tab * 16 ≤ n * 16 + code ∧ n * 16 + code < tab * 16 + 16) ↔ n = tab := by omega
  rw [applyEffect, Core.levelGet, get_foldl_put 0 c.levels (tab * 16) 16 _ fun i => v.extractLsb' (16 * i) 16, if_congr hentry rfl rfl]
  split
  case isTrue hn => rw [hn, Nat.add_sub_cancel_left]
  case isFalse => rfl

/-- A row's mark is set by a poisoned value, cleared by a whole row, and kept otherwise. -/
theorem mark_eq (p : Bool) (whole : Prop) [Decidable whole] (old : Bool) :
    (if p then true else if whole then false else old) = (p || (decide (¬whole) && old)) := by
  cases p <;> by_cases hw : whole <;> simp [hw]

/-! ## The statements -/

/-- Settles O1: the tables of a reset state and of a reset core are empty, so that every entry reads its default. -/
theorem resetState : Obligations.ResetState := by
  have hfunc : Func.reset.en = false := by decide
  have hflags : ∀ r < 7, Core.reset.fGet r = false := by decide
  exact ⟨rfl, rfl, rfl, fun _ => hfunc, rfl, rfl, rfl, rfl, rfl, rfl, rfl, fun _ => rfl, fun _ => rfl, fun _ =>
    ⟨fun _ => ite_self _, hflags, rfl, fun _ => rfl, fun _ => rfl, fun _ => rfl, fun _ => rfl, fun _ => rfl, fun _ => rfl,
      fun _ => rfl, fun _ => rfl, fun _ => rfl, fun _ => rfl, fun _ => rfl, rfl, rfl, rfl, rfl, rfl⟩⟩

/-- Settles O2: no byte of memory is listed at reset. -/
theorem resetHasTheInvariant : Obligations.ResetHasTheInvariant := reset_mem_wf

/-- Settles O4: a write of a byte is a put of a canonical table, and a word is written as its eight bytes. -/
theorem memoryReadsBack : Obligations.MemoryReadsBack := by
  intro s a h
  refine ⟨fun b => ⟨writeByte_wf h a b, readByte_writeByte h a b⟩, fun w => ⟨writeWord_wf h a w, readWord_writeWord h a w,
    readByte_writeWord_first h a w, fun x hx => readByte_writeBytes_outside h a _ ?_⟩⟩
  rwa [leBytes, length_bytesOfNat]

/-- Settles O6: each word is decoded. -/
theorem wordsDecode : Obligations.WordsDecode := by
  unfold Obligations.WordsDecode
  decide

/-- Settles O10: a fault is a stop with a record of a placement that runs and is in no rollback. -/
theorem faultStopsThePlacement : Obligations.FaultStopsThePlacement := by
  intro s slot code cause a0 a1 l x hl hx hrun hrerun
  have hcore : (s.core s.cur).launch = some l := hl
  have hfault : stepFault s slot code cause a0 a1 = stopWithRecord s s.cur l
      { kind := 1, code := code, cause := cause, arg0 := a0, arg1 := a1, slot := slot, rep := s.curCore.iRep, origin := 0
        issue := s.curCore.iCyc, baddr := s.curCore.iPc } 2 16 (s.core s.cur).cycle := by
    simp only [stepFault, takeFault, hcore]
  rw [hfault]
  obtain ⟨y, hy, hstate, hat, hrec, hregs⟩ :=
    stopWithRecord_running hx hrun (rollingBack_eq_false hx hrerun) s.cur _ 2 16 (s.core s.cur).cycle
  exact ⟨y, hy, hstate, hat, hrec, hregs, fun g hg => core_stopWithRecord_ne _ _ _ _ _ _ _ hg⟩

/-- Settles O11: a result is one more pending write, and two that are due together land in the order of R95. -/
theorem resultsLandInOrder : Obligations.ResultsLandInOrder := by
  refine ⟨fun s slot lat r e v f => ?_, fun s g a b => ?_⟩
  · refine ⟨land_eq s slot lat e, ?_, fun g hg => core_land_ne s slot lat e hg, ⟨fun _ => rfl, fun _ => rfl⟩, rfl, rfl, rfl⟩
    rw [curCore_land]
    exact SameRegisters.refl _
  · intro c hdue
    refine ⟨fun r u v hr ha hb hlt => ?_, fun u v ha hb => ?_⟩
    · obtain ⟨t, hexec, hcore⟩ := exec_registerWriteLanding_pair hdue (before_of_issue_slot ha hb hlt)
      refine ⟨t, hexec, ?_⟩
      rw [hcore, landOne, hb, sGet_applyEffect_sReg, if_neg hr, if_pos rfl]
    · have hbefore : a.before b = true ∧ b.before a = false := by simp [Write.before, ha, hb]
      obtain ⟨t, hexec, hcore⟩ := exec_registerWriteLanding_pair hdue hbefore
      refine ⟨t, hexec, ?_⟩
      rw [hcore, landOne, landOne, ha, hb]
      rfl

/-- Settles O12: with one write due, the landing is `applyEffect` of it, whose unit reads as each effect says. -/
theorem landingsWriteTheirUnit : Obligations.LandingsWriteTheirUnit := by
  intro s g w c c1 hdue
  have hexec : exec (.registerWriteLanding g) s = .next (s.setCore g (applyEffect s.now c1 w.eff)) := by
    show Host.Outcome.next (s.setCore g ((sortWrites (dueWrites c)).foldl (landOne s.now) _)) = _
    rw [hdue]
    rfl
  refine ⟨_, hexec, ⟨fun _ => rfl, fun _ => rfl⟩, rfl, rfl, fun k hk => by simp [hk], ?_⟩
  rw [core_setCore, if_pos rfl]
  refine ⟨?sReg, ?fReg, ?mReg, ?vReg, ?zReg, ?tRow, ?accRow, ?accZero, ?aReg, ?ntReg, ?spill, ?bReg, ?lpReg, ?cwReg, ?orFlags,
    ?csrFlags, ?clearWait, ?levelTable, ?releaseHandle⟩
  case sReg =>
    intro r v h
    rw [h]
    refine ⟨?_, fun q => sGet_applyEffect_sReg s.now c1 r v q⟩
    by_cases hr : r = 0 <;> simp [applyEffect, hr]
  case fReg =>
    intro r v h hr
    rw [h]
    refine ⟨?_, fun q hq => fGet_applyEffect_fReg s.now c1 hr v hq⟩
    by_cases hr7 : r = 7 <;> simp [applyEffect, hr7]
  case mReg | vReg | zReg =>
    intro r v en h
    rw [h]
    exact ⟨rfl, fun q i hi => getLsbD_get_put_merge _ r v en q hi⟩
  case tRow =>
    intro k v en p h
    rw [h]
    refine ⟨rfl, fun q i hi => getLsbD_get_put_merge _ k v en q hi, fun q => ?_⟩
    rw [applyEffect, Table.get_put]
    congr 1
    exact mark_eq p _ _
  case accRow =>
    intro k v fl h
    rw [h]
    exact ⟨rfl, fun q => ⟨Table.get_put _ _ _ _ _, Table.get_put _ _ _ _ _⟩⟩
  case accZero =>
    intro n h
    rw [h]
    simp only [applyEffect, Core.accGet, Core.accFlagGet, get_foldl_put_rows]
    exact ⟨trivial, fun q => ⟨rfl, rfl⟩⟩
  case aReg | spill | bReg | lpReg | cwReg =>
    intro r v h
    rw [h]
    exact ⟨rfl, fun q => Table.get_put _ _ _ _ _⟩
  case ntReg =>
    intro r v h _
    rw [h]
    exact ⟨rfl, fun q hq => ⟨Table.get_put _ _ _ _ _, getLsbD_putBit _ _ hq⟩⟩
  case orFlags | csrFlags =>
    intro v h
    rw [h]
    rfl
  case clearWait =>
    intro m h
    rw [h]
    exact ⟨rfl, fun i hi => getLsbD_w_applyEffect_clearWait s.now c1 m hi⟩
  case levelTable =>
    intro tab v h
    rw [h]
    refine ⟨?_, fun n code hcode => levelGet_applyEffect_levelTable s.now c1 tab v n hcode⟩
    simp only [applyEffect]
  case releaseHandle =>
    intro hn h
    rw [h]
    exact ⟨rfl, fun q => hGet_hSet _ _ _ _⟩

end Sys2Proof.Machine
end

section
/-!
PROOFS. The immediate forms, spill memory and control registers, TAIL and NEXTTILE (R29 to R33, R43 to R45, R116, R119, R120, R133,
R134): immediates as numbers, what a ready syllable of the S slot answers when its own check fails, changes of the issuing core, and
the statements.
-/
namespace Sys2Proof.Machine

/-! ## Immediates (R116) -/

theorem signExtend_eq_ofInt {n : Nat} (x : BitVec n) (w : Nat) : x.signExtend w = BitVec.ofInt w x.toInt := rfl

/-- An immediate whose sign bit is clear stays the number it is. -/
theorem toNat_signExtend_of_small {n w k : Nat} {x : BitVec n} (hx : x.toNat < k) (hk : 2 * k ≤ 2 ^ n) (hw : n ≤ w) :
    (x.signExtend w).toNat = x.toNat := by
  have hmsb : x.msb = false := by
    rw [BitVec.msb_eq_false_iff_two_mul_lt]; omega
  rw [BitVec.signExtend_eq_setWidth_of_msb_false hmsb, BitVec.toNat_setWidth_of_le hw]

theorem add_eq_ofInt (a b : Word) : a + b = BitVec.ofInt 64 (a.toInt + b.toInt) := by
  rw [BitVec.ofInt_add, BitVec.ofInt_toInt, BitVec.ofInt_toInt]

theorem mul_eq_ofInt (a b : Word) : a * b = BitVec.ofInt 64 (a.toInt * b.toInt) := by
  rw [BitVec.ofInt_mul, BitVec.ofInt_toInt, BitVec.ofInt_toInt]

theorem toInt_signExtend_word {n : Nat} (x : BitVec n) (hn : n ≤ 64) : (x.signExtend 64).toInt = x.toInt :=
  BitVec.toInt_signExtend_of_le hn

/-- LIU: the low 26 bits of the immediate above the low 38 bits of the source, as a number. -/
theorem liu_eq_ofNat {x : BitVec 38} (hx : x.toNat < 2 ^ 26) (a : Word) :
    ((x.signExtend 64).extractLsb' 0 26 ++ a.extractLsb' 0 38 : Word) =
      BitVec.ofNat 64 (x.toNat * 2 ^ 38 + a.toNat % 2 ^ 38) := by
  apply BitVec.eq_of_toNat_eq
  rw [BitVec.toNat_append, BitVec.extractLsb'_toNat, BitVec.extractLsb'_toNat, toNat_signExtend_of_small hx (by decide) (by decide),
    BitVec.toNat_ofNat, Nat.shiftRight_zero, Nat.shiftRight_zero, Nat.mod_eq_of_lt hx, ← Nat.shiftLeft_add_eq_or_of_lt (Nat.mod_lt _ (by decide)), Nat.shiftLeft_eq]
  omega

/-- A format-I syllable lands the value that its operation has on its source and its sign-extended immediate. -/
theorem runPlan_aluImm {i : Instr} {h : SHead} {s : State} {x : FmtI} {lat : Nat} {op : Word → Word → Word} {v : Word}
    (hr : SReady s h [rS x.sa.toNat]) (hop : op (s.curCore.sGet x.sa.toNat) (x.imm.signExtend 64) = v) :
    runPlan i (aluImm h x lat op s) s = .next (landS s 0 lat x.sd.toNat v) :=
  hop ▸ runPlan_sReady hr

/-- Settles O15: each syllable's plan is `aluImm` of an operation on words, which is the operation on numbers that R116 gives. -/
theorem scalarImmediateResults : Obligations.ScalarImmediateResults := by
  intro s h x hr
  have hsmall (hx : x.imm.toNat < 64) : (x.imm.signExtend 64).toNat = x.imm.toNat :=
    toNat_signExtend_of_small hx (by decide) (by decide)
  have hint : (x.imm.signExtend 64).toInt = x.imm.toInt := toInt_signExtend_word _ (by decide)
  refine ⟨runPlan_aluImm hr ?addi, runPlan_aluImm hr rfl, runPlan_aluImm hr rfl, runPlan_aluImm hr rfl,
    fun hx => runPlan_aluImm hr ?shli, fun hx => runPlan_aluImm hr ?shri, fun hx => runPlan_aluImm hr ?srai,
    runPlan_aluImm hr ?muli, fun hx => runPlan_aluImm hr (liu_eq_ofNat hx _)⟩
  case addi => rw [add_eq_ofInt, hint]
  case shli => rw [hsmall hx, shiftLeft_eq_ofNat]
  case shri => rw [hsmall hx, ushiftRight_eq_ofNat]
  case srai => rw [hsmall hx, sshiftRight_eq_ofInt]
  case muli => rw [mul_eq_ofInt, hint]
/-! ## Checks of the S slot, spill memory and control registers (R29, R30, R33) -/

section
variable {i : Instr} {h : SHead} {s : State} {reads : List ReadUnit} {run : State → State}

/-- What a syllable of the S slot that is ready answers when it names an illegal operation of its own (R344). -/
theorem runPlan_sReady_illegal (hr : SReady s h reads) :
    runPlan i (sPlan h s.curCore reads (some (illegalOp 0 0)) run) s = illegalS s i := by
  rw [runPlan_sReady_check hr]
  simp [illegalS, raise, withWord, illegalOp]

/-- A check that faults unless `P` holds lets a ready syllable act where `P` holds. -/
theorem runPlan_sReady_of {k : Option Check} (hr : SReady s h reads) (hk : k = none) :
    runPlan i (sPlan h s.curCore reads k run) s = .next (run s) := hk ▸ runPlan_sReady hr

/-- A ready syllable whose check is that of an illegal operation. -/
theorem runPlan_sReady_illegal_of {k : Option Check} (hr : SReady s h reads) (hk : k = some (illegalOp 0 0)) :
    runPlan i (sPlan h s.curCore reads k run) s = illegalS s i := hk ▸ runPlan_sReady_illegal hr

/-- A ready syllable whose check is a bounds fault of spill memory stops with it (R29). -/
theorem runPlan_sReady_spillFault {k : Option Check} {n : Word} (hr : SReady s h reads)
    (hk : k = some { code := 8, cause := 0x100, arg0 := n, arg1 := 0, handle := 16 }) :
    runPlan i (sPlan h s.curCore reads k run) s = .next (stepFault s 0 8 0x100 n 0) := by
  subst hk
  exact runPlan_sReady_check hr

end

theorem spillCheck_of_lt {k : Word} (hk : k.toNat < 2048) : spillCheck k = none := if_pos hk

theorem spillCheck_of_le {k : Word} (hk : 2048 ≤ k.toNat) :
    spillCheck k = some { code := 8, cause := 0x100, arg0 := k, arg1 := 0, handle := 16 } := if_neg (Nat.not_lt.mpr hk)

theorem csrListed_eq_decide (m : Nat) :
    csrListed m = decide (m ≤ 0x009 ∨ (0x010 ≤ m ∧ m ≤ 0x013) ∨ (0x020 ≤ m ∧ m ≤ 0x02D)) := by
  simp only [csrListed, Bool.decide_or, Bool.decide_and, Bool.or_assoc]

theorem csrCheck_read (n : Nat) : csrCheck n false = if csrListed n then none else some (illegalOp 0 0) := rfl

theorem csrCheck_write (n : Nat) : csrCheck n true = if n = 0x10 then none else some (illegalOp 0 0) := rfl

theorem imageOf_of_launch {s : State} {c : Core} {l : Nat} {y : Launch} (hl : c.launch = some l) (hy : s.launch? l = some y) :
    imageOf s c = y.image := by
  simp only [imageOf, hl, hy]

theorem gridWord_of_launch {s : State} {c : Core} {l : Nat} {y : Launch} (hl : c.launch = some l) (hy : s.launch? l = some y) :
    gridWord s c = ((y.packet.getD 6 0).extractLsb' 0 48).setWidth 64 := by
  simp only [gridWord, hl, hy, bits]

/-- Settles O17: the checks of a spill index and of a control register by their ranges, and the value of each register by its row. -/
theorem spillAndControlRegisters : Obligations.SpillAndControlRegisters := by
  refine ⟨fun s h x => ⟨fun hr => ⟨fun hk => ?_, fun hk => ?_⟩, fun hr => ⟨fun hk => ?_, fun hk => ?_⟩⟩,
    fun s h x => ⟨fun hr => ⟨fun hn => ?_, fun hn => ?_, csrListed_eq_decide, ?_, rfl, rfl, fun l y hl hy => ⟨?_, ?_, ?_⟩⟩, 
      fun hr => ⟨fun hn => ?_, fun hn => ?_⟩⟩⟩
  · exact runPlan_sReady_of hr (spillCheck_of_lt hk)
  · exact runPlan_sReady_spillFault hr (spillCheck_of_le hk)
  · exact runPlan_sReady_of hr (spillCheck_of_lt hk)
  · exact runPlan_sReady_spillFault hr (spillCheck_of_le hk)
  · exact runPlan_sReady_of hr (by rw [csrCheck_read, hn]; rfl)
  · exact runPlan_sReady_illegal_of hr (by rw [csrCheck_read, hn]; rfl)
  · have hprt : csrValue s s.cur 0x012 = BitVec.ofNat 64 (if s.curCore.prt then 1 else 0) := (apply_ite (BitVec.ofNat 64) _ _ _).symm
    refine Prod.forall (p := fun y => y ∈ _ → csrValue s s.cur y.1 = BitVec.ofNat 64 y.2) |>.mp ?_
    simp only [List.forall_mem_cons]
    exact ⟨rfl, rfl, rfl, rfl, rfl, rfl, rfl, hprt, rfl, rfl, rfl, rfl, rfl, rfl, rfl, rfl, rfl, rfl, rfl, rfl, rfl, rfl, rfl, nofun⟩
  · exact congrArg (fun im : Image => BitVec.ofNat 64 im.h) (imageOf_of_launch hl hy)
  · exact congrArg (fun im : Image => BitVec.ofNat 64 im.c) (imageOf_of_launch hl hy)
  · exact gridWord_of_launch hl hy
  · exact runPlan_sReady_of hr (by rw [csrCheck_write, if_pos hn])
  · exact runPlan_sReady_illegal_of hr (by rw [csrCheck_write, if_neg hn])

/-! ## Changes of the core that issues -/

@[simp] theorem cur_updCur (s : State) (f : Core → Core) : (s.updCur f).cur = s.cur := rfl

@[simp] theorem updCur_updCur (s : State) (f g : Core → Core) : (s.updCur f).updCur g = s.updCur fun c => g (f c) := by
  simp [State.updCur, State.curCore]

/-- A change of the issuing core gives the state with that core replaced. -/
theorem updCur_eq_setCore (s : State) (f : Core → Core) : s.updCur f = s.setCore s.cur (s.updCur f).curCore := by
  rw [curCore_updCur, State.updCur]

@[simp] theorem cur_landS (s : State) (slot lat r : Nat) (v : Word) : (landS s slot lat r v).cur = s.cur := by
  unfold landS; split <;> rfl

@[simp] theorem setCore_landS (s : State) (slot lat r : Nat) (v : Word) (c : Core) :
    (landS s slot lat r v).setCore s.cur c = s.setCore s.cur c := by
  unfold landS
  split
  · rfl
  · rw [land_eq, setCore_setCore]

/-- A change of the issuing core after a scalar result replaces that core alone. -/
theorem updCur_landS_eq_setCore (s : State) (slot lat r : Nat) (v : Word) (f : Core → Core) :
    (landS s slot lat r v).updCur f = s.setCore s.cur ((landS s slot lat r v).updCur f).curCore := by
  conv_lhs => rw [updCur_eq_setCore, cur_landS, setCore_landS]

theorem ntTaken_landS (s : State) (slot lat r : Nat) (v : Word) :
    (landS s slot lat r v).curCore.ntTaken = s.curCore.ntTaken := by
  unfold landS
  split
  · rfl
  · rw [curCore_land]

theorem noteOnce_eq_updCur (s : State) (id : Nat) (data : Option (List Byte)) : noteOnce s id data =
    s.updCur fun c => { c with region := { c.region with once := ⟨c.iCyc, id, data⟩ :: c.region.once } } := rfl

theorem nextIndex_static {s : State} {c : Core} (h : (imageOf s c).dyn = false) :
    nextIndex s c = (c.rank + c.ntCount * ((imageOf s c).h * (imageOf s c).c), s) := by
  simp [nextIndex, h]

/-- The change that a NEXTTILE with the value `v` makes to its core (R43, R44, R134). -/
def Core.requestTile (c : Core) (v : Word) : Core :=
  { c with
    region := { c.region with once := ⟨c.iCyc, 0, some (leBytes 8 v.toNat)⟩ :: c.region.once }
    writes := c.writes ++ [⟨c.iCyc + 40, c.iCyc, 0, .ntReg c.ntReq v⟩]
    ntReq := (c.ntReq + 1) % 4, ntCount := c.ntCount + 1, ntNull := c.ntNull || v == ntNullWord }

/-- In static order a NEXTTILE that has not run before takes the core's own next index, or the null answer after a null answer. -/
theorem planNextTile_run {h : SHead} {x : FmtY} {s : State} (hfirst : onceSeen s = none)
    (hstatic : (imageOf s s.curCore).dyn = false) : (planNextTile h x s).run s =
      s.updCur fun c => c.requestTile (if s.curCore.ntNull then ntNullWord else tileValue (gridWord s s.curCore)
        (s.curCore.rank + s.curCore.ntCount * ((imageOf s s.curCore).h * (imageOf s s.curCore).c))) := by
  simp only [planNextTile, sPlan, hfirst, nextIndex_static hstatic, noteOnce_eq_updCur, land, updCur_updCur]
  rfl

theorem Core.requestTile_registers (c : Core) (v : Word) : SameRegisters c (c.requestTile v) := by
  simp [SameRegisters, Core.requestTile]

/-- Settles O19: TAIL and the taking form change the issuing core alone, and a first static request is `requestTile` of it. -/
theorem tilesAndTailRecords : Obligations.TilesAndTailRecords := by
  refine ⟨fun s h x hr => ⟨fun hk => ?tail, fun hk => ?tailFault⟩,
    fun s h x => ⟨fun hr hbusy => ?busy, fun hr hfree hfirst hstatic hnull => ?request, fun hr => ?take⟩⟩
  case tail =>
    exact ⟨_, runPlan_sReady_of hr (if_pos hk), updCur_eq_setCore _ _, curCore_updCur _ _⟩
  case tailFault => exact runPlan_sReady_spillFault hr (if_neg (Nat.not_le.mpr hk))
  case busy => exact runPlan_sReady_illegal_of hr (if_pos hbusy)
  case request =>
    have hrun : exec (.nextTile h x) s = .next ((planNextTile h x s).run s) := runPlan_sReady_of hr (if_neg (by simp [hfree]))
    rw [planNextTile_run hfirst hstatic, hnull] at hrun
    refine ⟨_, hrun, updCur_eq_setCore _ _, ?_⟩
    rw [curCore_updCur]
    exact ⟨rfl, rfl, rfl, by simp [Core.requestTile, hnull], Core.requestTile_registers _ _⟩
  case take =>
    exact ⟨_, runPlan_sReady hr, updCur_landS_eq_setCore .., by simp only [curCore_updCur, ntTaken_landS]⟩

end Sys2Proof.Machine
end

section
/-!
PROOFS. The issue of a repetition (R86 to R96, R111, R121, R124, R125, R130 to R132, R226, R277): each syllable runs its plan, what sticks
in the slots, how a repetition ends, what a record leaves of the state, and the statements.
-/
namespace Sys2Proof.Machine

/-! ## Plans (R91, R93) -/

/-- Every syllable runs its plan. -/
theorem exec_eq_runPlan (i : Instr) (s : State) (hi : i.isSyllable = true) : exec i s = runPlan i (planOf i s) s := by
  cases i with
  | bundleIssue _ | waitEvaluation _ | registerWriteLanding _ | variableLanding _ | landingBufferArrival _
    | landingTimeout _ | arrivalDeparture _ | arrivalDelivery _ | phaseLineRaise _ _ | phaseCompletion _ _
    | claimDeparture _ | proposalArrival _ | claimDecision _ | claimReadSample _ | subscribeAct _ | lapseAct _ | boardAct _
    | alightAct _ | cstatAct _ | routineStart _ | routineLanding _ | copyCommandStart _ _ | copyElement _ _
    | copyCommandComplete _ _ | circuitDeparture _ | circuitArrival _ | atomicExecute _ | accessPerform _ _
    | writeAcknowledge _ | sourceInterfaceRelease _ | hbmRequestSend _ | segmentLineDelivered _ _ _ | handleValid _ _
    | translationCacheMiss _ _ | translationWalkEnd _ _ | placementRestart _ | dataErrorDetected _ | rollbackRerunEnd _
    | launchStart _ | launchRetirement _ | portalDmwr _ _ _ _ _ | portalMisuse _ _ _ | slotPoll _ | saveComplete _
    | shootdownReachCore _ _ | shootdownComplete _ | registerWrite _ _ _ _ | streamStop _ | streamFetch _ _
    | deepTierReadStart _ _ | deepTierReadEnd _ _ _ | streamTileComplete _ _ _ | streamSlotWrite _ _ _ | tsvGroupFailed _ _
    | sparingSweepLine _ _ | refreshPlanWrite _ _ _ | refreshTakeover _ | blockReencryptionComplete _ | spareBringIn _
    | spareThreshold _ | shepherdCoreFailure _ _ | fatalError _ _ | thermalEvent _ _ | flr _ | flrQuiesce _ | flrComplete _
    | flitReceive _ _ | laneFailed _ _ | laneSpareSwitch _ | linkDown _ _ | linkSilenceTimeout _ | hostTermination _
    | bankCopyComplete _ _ | frameStart | admissionPass | rampSlotBoundary | doorbell | qreset | resumeRetry
    | resumeRetranslate | resumeSkip | resumeClearPrt | resumeTerminate | shootN | frHead | execCmd | qcreate | qdestroy
    | shoot2 | shootF | rekey | create | cost | rights | replica | schedule | stop | replace | loadDeep | fwStage | fwCommit
    | devReset | attest | hrBase | periodBoundary | powerGood | spare | spareAck | align | alignAck | down | linkRead
    | linkWrite | linkAtomic | readReply | writeAcknowledgment | atomicReply | linkScheduleActivate | dieLinkLost | flitTime
    | commandDone => exact (Bool.false_ne_true hi).elim
  | sNop _ _ | add _ _ | sub _ _ | and _ _ | or _ _ | xor _ _ | andn _ _ | shl _ _ | shr _ _ | sra _ _ | min _ _ | max _ _
    | minu _ _ | maxu _ _ | addS _ _ | subS _ _ | mul _ _ | mulh _ _ | mulhu _ _ | popc _ _ | clz _ _ | ctz _ _ | div _ _
    | divu _ _ | rem _ _ | remu _ _ | sel _ _ | addi _ _ | andi _ _ | ori _ _ | xori _ _ | shli _ _ | shri _ _ | srai _ _
    | muli _ _ | liu _ _ | cmp _ _ | flagAnd _ _ | flagOr _ _ | flagXor _ _ | flagAndn _ _ | spld _ _ | spst _ _ | csrr _ _
    | csrw _ _ | prep _ _ | loop _ _ | endLoop _ _ | xlate _ _ | hrel _ _ | fence _ _ | wclr _ _ | trap _ _ | halt _ _
    | tail _ _ | nextTile _ _ | nextTileTake _ _ | phase _ _ | arrive _ _ | cwSet _ _ | claim _ _ | object _ _
    | claimRead _ _ | subscribe _ _ | lapse _ _ | board _ _ | alight _ _ | cstat _ _ | vNop _ _ | vadd _ _ | vsub _ _
    | vmin _ _ | vmax _ _ | vmul _ _ | vabs _ _ | vneg _ _ | vand _ _ | vor _ _ | vxor _ _ | vandn _ _ | vshl _ _ | vshr _ _
    | vsra _ _ | vpopc _ _ | vclz _ _ | vsel _ _ | vfma _ _ | vfms _ _ | vfnma _ _ | vaddi _ _ | vandi _ _ | vshli _ _
    | vshri _ _ | vsrai _ _ | vli _ _ | vcmp _ _ | mand _ _ | mor _ _ | mxor _ _ | mandn _ _ | mnot _ _ | mlead _ _
    | many _ _ | mall _ _ | mpop _ _ | mfirst _ _ | vcvt _ _ | vquant _ _ | vdeq _ _ | vlscv _ _ | vlsadd _ _ | vlsout _ _
    | vrsum _ _ | vrmax _ _ | vrmin _ _ | vperm _ _ | vzip _ _ | vunzip _ _ | vrot _ _ | vbcast _ _ | vexp2 _ _ | vlog2 _ _
    | vrcp _ _ | vrsq _ _ | vtanh _ _ | vcx _ _ | vtwr _ _ | vtrd _ _ | mNop _ _ | mcall _ _ | mzero _ _ | mdrain _ _
    | kNop _ _ | kldh _ _ | ksth _ _ | kmvv _ _ | kmvz _ _ | kmov _ _ | kltl _ _ | cNop _ _ | ldVector _ _ | stVector _ _
    | ldTile _ _ | stTile _ _ | ldScalar _ _ _ | stScalar _ _ _ | cpy _ _ | cpyc _ _ | cpyq _ _ | cpyx _ _ | cpyz _ _
    | wbld _ _ | gath _ _ | scat _ _ | mcast _ _ | cfence _ _ | cacq _ _ | crel _ _ | ctld _ _ | send _ _ | recv _ _
    | aadd _ _ | aand _ _ | aor _ _ | axor _ _ | amin _ _ | amax _ _ | axchg _ _ | acas _ _ => rfl

/-- Suppressed, a syllable that takes no landing entries leaves no trace (R93). -/
theorem planOf_off_of_no_entries (i : Instr) (s : State) (he : (entriesOf i).2 = 0) : (planOf i s).off s = s := by
  cases i with
  | kldh _ x =>
    simp only [entriesOf, halfCount] at he
    omega
  | claim _ _ | claimRead _ _ | subscribe _ _ | lapse _ _ | board _ _ | alight _ _ | cstat _ _ | ldVector _ _ | ldTile _ _
    | ldScalar _ _ _ | recv _ _ | aadd _ _ | aand _ _ | aor _ _ | axor _ _ | amin _ _ | amax _ _ | axchg _ _ | acas _ _ => exact (Nat.succ_ne_zero _ he).elim
  | bundleIssue _ | waitEvaluation _ | registerWriteLanding _ | variableLanding _ | landingBufferArrival _
    | landingTimeout _ | arrivalDeparture _ | arrivalDelivery _ | phaseLineRaise _ _ | phaseCompletion _ _
    | claimDeparture _ | proposalArrival _ | claimDecision _ | claimReadSample _ | subscribeAct _ | lapseAct _ | boardAct _
    | alightAct _ | cstatAct _ | routineStart _ | routineLanding _ | copyCommandStart _ _ | copyElement _ _
    | copyCommandComplete _ _ | circuitDeparture _ | circuitArrival _ | atomicExecute _ | accessPerform _ _
    | writeAcknowledge _ | sourceInterfaceRelease _ | hbmRequestSend _ | segmentLineDelivered _ _ _ | handleValid _ _
    | translationCacheMiss _ _ | translationWalkEnd _ _ | placementRestart _ | dataErrorDetected _ | rollbackRerunEnd _
    | launchStart _ | launchRetirement _ | portalDmwr _ _ _ _ _ | portalMisuse _ _ _ | slotPoll _ | saveComplete _
    | shootdownReachCore _ _ | shootdownComplete _ | registerWrite _ _ _ _ | streamStop _ | streamFetch _ _
    | deepTierReadStart _ _ | deepTierReadEnd _ _ _ | streamTileComplete _ _ _ | streamSlotWrite _ _ _ | tsvGroupFailed _ _
    | sparingSweepLine _ _ | refreshPlanWrite _ _ _ | refreshTakeover _ | blockReencryptionComplete _ | spareBringIn _
    | spareThreshold _ | shepherdCoreFailure _ _ | fatalError _ _ | thermalEvent _ _ | flr _ | flrQuiesce _ | flrComplete _
    | flitReceive _ _ | laneFailed _ _ | laneSpareSwitch _ | linkDown _ _ | linkSilenceTimeout _ | hostTermination _
    | bankCopyComplete _ _ | frameStart | admissionPass | rampSlotBoundary | doorbell | qreset | resumeRetry
    | resumeRetranslate | resumeSkip | resumeClearPrt | resumeTerminate | shootN | frHead | execCmd | qcreate | qdestroy
    | shoot2 | shootF | rekey | create | cost | rights | replica | schedule | stop | replace | loadDeep | fwStage | fwCommit
    | devReset | attest | hrBase | periodBoundary | powerGood | spare | spareAck | align | alignAck | down | linkRead
    | linkWrite | linkAtomic | readReply | writeAcknowledgment | atomicReply | linkScheduleActivate | dieLinkLost | flitTime
    | commandDone => rfl
  | sNop _ _ | add _ _ | sub _ _ | and _ _ | or _ _ | xor _ _ | andn _ _ | shl _ _ | shr _ _ | sra _ _ | min _ _ | max _ _
    | minu _ _ | maxu _ _ | addS _ _ | subS _ _ | mul _ _ | mulh _ _ | mulhu _ _ | popc _ _ | clz _ _ | ctz _ _ | div _ _
    | divu _ _ | rem _ _ | remu _ _ | sel _ _ | addi _ _ | andi _ _ | ori _ _ | xori _ _ | shli _ _ | shri _ _ | srai _ _
    | muli _ _ | liu _ _ | cmp _ _ | flagAnd _ _ | flagOr _ _ | flagXor _ _ | flagAndn _ _ | spld _ _ | spst _ _ | csrr _ _
    | csrw _ _ | prep _ _ | loop _ _ | endLoop _ _ | xlate _ _ | hrel _ _ | fence _ _ | wclr _ _ | trap _ _ | halt _ _
    | tail _ _ | nextTile _ _ | nextTileTake _ _ | phase _ _ | arrive _ _ | cwSet _ _ | object _ _ | vNop _ _ | vadd _ _
    | vsub _ _ | vmin _ _ | vmax _ _ | vmul _ _ | vabs _ _ | vneg _ _ | vand _ _ | vor _ _ | vxor _ _ | vandn _ _ | vshl _ _
    | vshr _ _ | vsra _ _ | vpopc _ _ | vclz _ _ | vsel _ _ | vfma _ _ | vfms _ _ | vfnma _ _ | vaddi _ _ | vandi _ _
    | vshli _ _ | vshri _ _ | vsrai _ _ | vli _ _ | vcmp _ _ | mand _ _ | mor _ _ | mxor _ _ | mandn _ _ | mnot _ _
    | mlead _ _ | many _ _ | mall _ _ | mpop _ _ | mfirst _ _ | vcvt _ _ | vquant _ _ | vdeq _ _ | vlscv _ _ | vlsadd _ _
    | vlsout _ _ | vrsum _ _ | vrmax _ _ | vrmin _ _ | vperm _ _ | vzip _ _ | vunzip _ _ | vrot _ _ | vbcast _ _ | vexp2 _ _
    | vlog2 _ _ | vrcp _ _ | vrsq _ _ | vtanh _ _ | vcx _ _ | vtwr _ _ | vtrd _ _ | mNop _ _ | mcall _ _ | mzero _ _
    | mdrain _ _ | kNop _ _ | ksth _ _ | kmvv _ _ | kmvz _ _ | kmov _ _ | kltl _ _ | cNop _ _ | stVector _ _ | stTile _ _
    | stScalar _ _ _ | cpy _ _ | cpyc _ _ | cpyq _ _ | cpyx _ _ | cpyz _ _ | wbld _ _ | gath _ _ | scat _ _ | mcast _ _
    | cfence _ _ | cacq _ _ | crel _ _ | ctld _ _ | send _ _ => rfl

theorem Plan.fault_of_disabled {p : Plan} {c : Core} (he : p.enabled = false) (hp : pendingCheck c p.pred = none) :
    p.fault c = none := by
  simp [Plan.fault, he, hp]

theorem runPlan_suppressed {i : Instr} {p : Plan} {s : State} (hf : p.fault s.curCore = none) (he : p.enabled = false) :
    runPlan i p s = .next (p.off s) := by
  simp [runPlan, hf, he]

/-! ## Heads of syllables -/

/-- A syllable with the head that it has is itself, whatever head it was given before. -/
theorem withHead_withHead_of_head {i : Instr} {h : Head} (hi : i.head? = some h) (k : Head) : (i.withHead k).withHead h = i := by
  cases i with
  | bundleIssue _ | waitEvaluation _ | registerWriteLanding _ | variableLanding _ | landingBufferArrival _
    | landingTimeout _ | sNop _ _ | add _ _ | sub _ _ | and _ _ | or _ _ | xor _ _ | andn _ _ | shl _ _ | shr _ _ | sra _ _
    | min _ _ | max _ _ | minu _ _ | maxu _ _ | addS _ _ | subS _ _ | mul _ _ | mulh _ _ | mulhu _ _ | popc _ _ | clz _ _
    | ctz _ _ | div _ _ | divu _ _ | rem _ _ | remu _ _ | sel _ _ | addi _ _ | andi _ _ | ori _ _ | xori _ _ | shli _ _
    | shri _ _ | srai _ _ | muli _ _ | liu _ _ | cmp _ _ | flagAnd _ _ | flagOr _ _ | flagXor _ _ | flagAndn _ _ | spld _ _
    | spst _ _ | csrr _ _ | csrw _ _ | prep _ _ | loop _ _ | endLoop _ _ | xlate _ _ | hrel _ _ | fence _ _ | wclr _ _
    | trap _ _ | halt _ _ | tail _ _ | nextTile _ _ | nextTileTake _ _ | phase _ _ | arrive _ _ | arrivalDeparture _
    | arrivalDelivery _ | phaseLineRaise _ _ | phaseCompletion _ _ | cwSet _ _ | claim _ _ | claimDeparture _
    | proposalArrival _ | claimDecision _ | object _ _ | claimRead _ _ | claimReadSample _ | subscribe _ _ | lapse _ _
    | board _ _ | alight _ _ | cstat _ _ | subscribeAct _ | lapseAct _ | boardAct _ | alightAct _ | cstatAct _
    | routineStart _ | routineLanding _ | copyCommandStart _ _ | copyElement _ _ | copyCommandComplete _ _
    | circuitDeparture _ | circuitArrival _ | atomicExecute _ | accessPerform _ _ | writeAcknowledge _
    | sourceInterfaceRelease _ | hbmRequestSend _ | segmentLineDelivered _ _ _ | handleValid _ _ | translationCacheMiss _ _
    | translationWalkEnd _ _ | placementRestart _ | dataErrorDetected _ | rollbackRerunEnd _ | launchStart _
    | launchRetirement _ | portalDmwr _ _ _ _ _ | portalMisuse _ _ _ | slotPoll _ | saveComplete _ | shootdownReachCore _ _
    | shootdownComplete _ | registerWrite _ _ _ _ | streamStop _ | streamFetch _ _ | deepTierReadStart _ _
    | deepTierReadEnd _ _ _ | streamTileComplete _ _ _ | streamSlotWrite _ _ _ | tsvGroupFailed _ _ | sparingSweepLine _ _
    | refreshPlanWrite _ _ _ | refreshTakeover _ | blockReencryptionComplete _ | spareBringIn _ | spareThreshold _
    | shepherdCoreFailure _ _ | fatalError _ _ | thermalEvent _ _ | flr _ | flrQuiesce _ | flrComplete _ | flitReceive _ _
    | laneFailed _ _ | laneSpareSwitch _ | linkDown _ _ | linkSilenceTimeout _ | hostTermination _ | bankCopyComplete _ _
    | frameStart | admissionPass | rampSlotBoundary | doorbell | qreset | resumeRetry | resumeRetranslate | resumeSkip
    | resumeClearPrt | resumeTerminate | shootN | frHead | execCmd | qcreate | qdestroy | shoot2 | shootF | rekey | create
    | cost | rights | replica | schedule | stop | replace | loadDeep | fwStage | fwCommit | devReset | attest | hrBase
    | periodBoundary | powerGood | spare | spareAck | align | alignAck | down | linkRead | linkWrite | linkAtomic
    | readReply | writeAcknowledgment | atomicReply | linkScheduleActivate | dieLinkLost | flitTime | commandDone => exact (Option.some_ne_none _ hi.symm).elim
  | vNop _ _ | vadd _ _ | vsub _ _ | vmin _ _ | vmax _ _ | vmul _ _ | vabs _ _ | vneg _ _ | vand _ _ | vor _ _ | vxor _ _
    | vandn _ _ | vshl _ _ | vshr _ _ | vsra _ _ | vpopc _ _ | vclz _ _ | vsel _ _ | vfma _ _ | vfms _ _ | vfnma _ _
    | vaddi _ _ | vandi _ _ | vshli _ _ | vshri _ _ | vsrai _ _ | vli _ _ | vcmp _ _ | mand _ _ | mor _ _ | mxor _ _
    | mandn _ _ | mnot _ _ | mlead _ _ | many _ _ | mall _ _ | mpop _ _ | mfirst _ _ | vcvt _ _ | vquant _ _ | vdeq _ _
    | vlscv _ _ | vlsadd _ _ | vlsout _ _ | vrsum _ _ | vrmax _ _ | vrmin _ _ | vperm _ _ | vzip _ _ | vunzip _ _ | vrot _ _
    | vbcast _ _ | vexp2 _ _ | vlog2 _ _ | vrcp _ _ | vrsq _ _ | vtanh _ _ | vcx _ _ | vtwr _ _ | vtrd _ _ | mNop _ _
    | mcall _ _ | mzero _ _ | mdrain _ _ | kNop _ _ | kldh _ _ | ksth _ _ | kmvv _ _ | kmvz _ _ | kmov _ _ | kltl _ _
    | cNop _ _ | ldVector _ _ | stVector _ _ | ldTile _ _ | stTile _ _ | ldScalar _ _ _ | stScalar _ _ _ | cpy _ _
    | cpyc _ _ | cpyq _ _ | cpyx _ _ | cpyz _ _ | wbld _ _ | gath _ _ | scat _ _ | mcast _ _ | cfence _ _ | cacq _ _
    | crel _ _ | ctld _ _ | send _ _ | recv _ _ | aadd _ _ | aand _ _ | aor _ _ | axor _ _ | amin _ _ | amax _ _ | axchg _ _
    | acas _ _ => cases hi; rfl

theorem head?_withHead {i : Instr} {h : Head} (hi : i.head? = some h) (k : Head) : (i.withHead k).head? = some k := by
  cases i with
  | bundleIssue _ | waitEvaluation _ | registerWriteLanding _ | variableLanding _ | landingBufferArrival _
    | landingTimeout _ | sNop _ _ | add _ _ | sub _ _ | and _ _ | or _ _ | xor _ _ | andn _ _ | shl _ _ | shr _ _ | sra _ _
    | min _ _ | max _ _ | minu _ _ | maxu _ _ | addS _ _ | subS _ _ | mul _ _ | mulh _ _ | mulhu _ _ | popc _ _ | clz _ _
    | ctz _ _ | div _ _ | divu _ _ | rem _ _ | remu _ _ | sel _ _ | addi _ _ | andi _ _ | ori _ _ | xori _ _ | shli _ _
    | shri _ _ | srai _ _ | muli _ _ | liu _ _ | cmp _ _ | flagAnd _ _ | flagOr _ _ | flagXor _ _ | flagAndn _ _ | spld _ _
    | spst _ _ | csrr _ _ | csrw _ _ | prep _ _ | loop _ _ | endLoop _ _ | xlate _ _ | hrel _ _ | fence _ _ | wclr _ _
    | trap _ _ | halt _ _ | tail _ _ | nextTile _ _ | nextTileTake _ _ | phase _ _ | arrive _ _ | arrivalDeparture _
    | arrivalDelivery _ | phaseLineRaise _ _ | phaseCompletion _ _ | cwSet _ _ | claim _ _ | claimDeparture _
    | proposalArrival _ | claimDecision _ | object _ _ | claimRead _ _ | claimReadSample _ | subscribe _ _ | lapse _ _
    | board _ _ | alight _ _ | cstat _ _ | subscribeAct _ | lapseAct _ | boardAct _ | alightAct _ | cstatAct _
    | routineStart _ | routineLanding _ | copyCommandStart _ _ | copyElement _ _ | copyCommandComplete _ _
    | circuitDeparture _ | circuitArrival _ | atomicExecute _ | accessPerform _ _ | writeAcknowledge _
    | sourceInterfaceRelease _ | hbmRequestSend _ | segmentLineDelivered _ _ _ | handleValid _ _ | translationCacheMiss _ _
    | translationWalkEnd _ _ | placementRestart _ | dataErrorDetected _ | rollbackRerunEnd _ | launchStart _
    | launchRetirement _ | portalDmwr _ _ _ _ _ | portalMisuse _ _ _ | slotPoll _ | saveComplete _ | shootdownReachCore _ _
    | shootdownComplete _ | registerWrite _ _ _ _ | streamStop _ | streamFetch _ _ | deepTierReadStart _ _
    | deepTierReadEnd _ _ _ | streamTileComplete _ _ _ | streamSlotWrite _ _ _ | tsvGroupFailed _ _ | sparingSweepLine _ _
    | refreshPlanWrite _ _ _ | refreshTakeover _ | blockReencryptionComplete _ | spareBringIn _ | spareThreshold _
    | shepherdCoreFailure _ _ | fatalError _ _ | thermalEvent _ _ | flr _ | flrQuiesce _ | flrComplete _ | flitReceive _ _
    | laneFailed _ _ | laneSpareSwitch _ | linkDown _ _ | linkSilenceTimeout _ | hostTermination _ | bankCopyComplete _ _
    | frameStart | admissionPass | rampSlotBoundary | doorbell | qreset | resumeRetry | resumeRetranslate | resumeSkip
    | resumeClearPrt | resumeTerminate | shootN | frHead | execCmd | qcreate | qdestroy | shoot2 | shootF | rekey | create
    | cost | rights | replica | schedule | stop | replace | loadDeep | fwStage | fwCommit | devReset | attest | hrBase
    | periodBoundary | powerGood | spare | spareAck | align | alignAck | down | linkRead | linkWrite | linkAtomic
    | readReply | writeAcknowledgment | atomicReply | linkScheduleActivate | dieLinkLost | flitTime | commandDone => exact (Option.some_ne_none _ hi.symm).elim
  | vNop _ _ | vadd _ _ | vsub _ _ | vmin _ _ | vmax _ _ | vmul _ _ | vabs _ _ | vneg _ _ | vand _ _ | vor _ _ | vxor _ _
    | vandn _ _ | vshl _ _ | vshr _ _ | vsra _ _ | vpopc _ _ | vclz _ _ | vsel _ _ | vfma _ _ | vfms _ _ | vfnma _ _
    | vaddi _ _ | vandi _ _ | vshli _ _ | vshri _ _ | vsrai _ _ | vli _ _ | vcmp _ _ | mand _ _ | mor _ _ | mxor _ _
    | mandn _ _ | mnot _ _ | mlead _ _ | many _ _ | mall _ _ | mpop _ _ | mfirst _ _ | vcvt _ _ | vquant _ _ | vdeq _ _
    | vlscv _ _ | vlsadd _ _ | vlsout _ _ | vrsum _ _ | vrmax _ _ | vrmin _ _ | vperm _ _ | vzip _ _ | vunzip _ _ | vrot _ _
    | vbcast _ _ | vexp2 _ _ | vlog2 _ _ | vrcp _ _ | vrsq _ _ | vtanh _ _ | vcx _ _ | vtwr _ _ | vtrd _ _ | mNop _ _
    | mcall _ _ | mzero _ _ | mdrain _ _ | kNop _ _ | kldh _ _ | ksth _ _ | kmvv _ _ | kmvz _ _ | kmov _ _ | kltl _ _
    | cNop _ _ | ldVector _ _ | stVector _ _ | ldTile _ _ | stTile _ _ | ldScalar _ _ _ | stScalar _ _ _ | cpy _ _
    | cpyc _ _ | cpyq _ _ | cpyx _ _ | cpyz _ _ | wbld _ _ | gath _ _ | scat _ _ | mcast _ _ | cfence _ _ | cacq _ _
    | crel _ _ | ctld _ _ | send _ _ | recv _ _ | aadd _ _ | aand _ _ | aor _ _ | axor _ _ | amin _ _ | amax _ _ | axchg _ _
    | acas _ _ => rfl

theorem withHead_withHead (i : Instr) (h k : Head) : (i.withHead k).withHead h = i.withHead h := by
  cases i with
  | bundleIssue _ | waitEvaluation _ | registerWriteLanding _ | variableLanding _ | landingBufferArrival _
    | landingTimeout _ | sNop _ _ | add _ _ | sub _ _ | and _ _ | or _ _ | xor _ _ | andn _ _ | shl _ _ | shr _ _ | sra _ _
    | min _ _ | max _ _ | minu _ _ | maxu _ _ | addS _ _ | subS _ _ | mul _ _ | mulh _ _ | mulhu _ _ | popc _ _ | clz _ _
    | ctz _ _ | div _ _ | divu _ _ | rem _ _ | remu _ _ | sel _ _ | addi _ _ | andi _ _ | ori _ _ | xori _ _ | shli _ _
    | shri _ _ | srai _ _ | muli _ _ | liu _ _ | cmp _ _ | flagAnd _ _ | flagOr _ _ | flagXor _ _ | flagAndn _ _ | spld _ _
    | spst _ _ | csrr _ _ | csrw _ _ | prep _ _ | loop _ _ | endLoop _ _ | xlate _ _ | hrel _ _ | fence _ _ | wclr _ _
    | trap _ _ | halt _ _ | tail _ _ | nextTile _ _ | nextTileTake _ _ | phase _ _ | arrive _ _ | arrivalDeparture _
    | arrivalDelivery _ | phaseLineRaise _ _ | phaseCompletion _ _ | cwSet _ _ | claim _ _ | claimDeparture _
    | proposalArrival _ | claimDecision _ | object _ _ | claimRead _ _ | claimReadSample _ | subscribe _ _ | lapse _ _
    | board _ _ | alight _ _ | cstat _ _ | subscribeAct _ | lapseAct _ | boardAct _ | alightAct _ | cstatAct _
    | routineStart _ | routineLanding _ | copyCommandStart _ _ | copyElement _ _ | copyCommandComplete _ _
    | circuitDeparture _ | circuitArrival _ | atomicExecute _ | accessPerform _ _ | writeAcknowledge _
    | sourceInterfaceRelease _ | hbmRequestSend _ | segmentLineDelivered _ _ _ | handleValid _ _ | translationCacheMiss _ _
    | translationWalkEnd _ _ | placementRestart _ | dataErrorDetected _ | rollbackRerunEnd _ | launchStart _
    | launchRetirement _ | portalDmwr _ _ _ _ _ | portalMisuse _ _ _ | slotPoll _ | saveComplete _ | shootdownReachCore _ _
    | shootdownComplete _ | registerWrite _ _ _ _ | streamStop _ | streamFetch _ _ | deepTierReadStart _ _
    | deepTierReadEnd _ _ _ | streamTileComplete _ _ _ | streamSlotWrite _ _ _ | tsvGroupFailed _ _ | sparingSweepLine _ _
    | refreshPlanWrite _ _ _ | refreshTakeover _ | blockReencryptionComplete _ | spareBringIn _ | spareThreshold _
    | shepherdCoreFailure _ _ | fatalError _ _ | thermalEvent _ _ | flr _ | flrQuiesce _ | flrComplete _ | flitReceive _ _
    | laneFailed _ _ | laneSpareSwitch _ | linkDown _ _ | linkSilenceTimeout _ | hostTermination _ | bankCopyComplete _ _
    | frameStart | admissionPass | rampSlotBoundary | doorbell | qreset | resumeRetry | resumeRetranslate | resumeSkip
    | resumeClearPrt | resumeTerminate | shootN | frHead | execCmd | qcreate | qdestroy | shoot2 | shootF | rekey | create
    | cost | rights | replica | schedule | stop | replace | loadDeep | fwStage | fwCommit | devReset | attest | hrBase
    | periodBoundary | powerGood | spare | spareAck | align | alignAck | down | linkRead | linkWrite | linkAtomic
    | readReply | writeAcknowledgment | atomicReply | linkScheduleActivate | dieLinkLost | flitTime | commandDone => rfl
  | vNop _ _ | vadd _ _ | vsub _ _ | vmin _ _ | vmax _ _ | vmul _ _ | vabs _ _ | vneg _ _ | vand _ _ | vor _ _ | vxor _ _
    | vandn _ _ | vshl _ _ | vshr _ _ | vsra _ _ | vpopc _ _ | vclz _ _ | vsel _ _ | vfma _ _ | vfms _ _ | vfnma _ _
    | vaddi _ _ | vandi _ _ | vshli _ _ | vshri _ _ | vsrai _ _ | vli _ _ | vcmp _ _ | mand _ _ | mor _ _ | mxor _ _
    | mandn _ _ | mnot _ _ | mlead _ _ | many _ _ | mall _ _ | mpop _ _ | mfirst _ _ | vcvt _ _ | vquant _ _ | vdeq _ _
    | vlscv _ _ | vlsadd _ _ | vlsout _ _ | vrsum _ _ | vrmax _ _ | vrmin _ _ | vperm _ _ | vzip _ _ | vunzip _ _ | vrot _ _
    | vbcast _ _ | vexp2 _ _ | vlog2 _ _ | vrcp _ _ | vrsq _ _ | vtanh _ _ | vcx _ _ | vtwr _ _ | vtrd _ _ | mNop _ _
    | mcall _ _ | mzero _ _ | mdrain _ _ | kNop _ _ | kldh _ _ | ksth _ _ | kmvv _ _ | kmvz _ _ | kmov _ _ | kltl _ _
    | cNop _ _ | ldVector _ _ | stVector _ _ | ldTile _ _ | stTile _ _ | ldScalar _ _ _ | stScalar _ _ _ | cpy _ _
    | cpyc _ _ | cpyq _ _ | cpyx _ _ | cpyz _ _ | wbld _ _ | gath _ _ | scat _ _ | mcast _ _ | cfence _ _ | cacq _ _
    | crel _ _ | ctld _ _ | send _ _ | recv _ _ | aadd _ _ | aand _ _ | aor _ _ | axor _ _ | amin _ _ | amax _ _ | axchg _ _
    | acas _ _ => rfl

/-! ## The header of a repetition (R86, R88, R132) -/

theorem condMask_full (c : Core) (h : Header) :
    (condMask c h == full 128) = decide (c.mGet (h.xc.toNat - 8) = BitVec.allOnes 128) := by
  simp only [condMask, full, beq_eq_decide]

/-- Whether a transfer is taken, by its condition (R88). -/
theorem takes_eq (c : Core) (b : Bundle) :
    takes c b = (decide (b.head.xe = 1) &&
      ((if b.head.xc.toNat < 7 then c.fGet b.head.xc.toNat else if b.head.xc.toNat = 7 then true else
        decide (c.mGet (b.head.xc.toNat - 8) = BitVec.allOnes 128)) != decide (b.head.xn = 1)) && !haltActs c b) := by
  have hseven : (b.head.xc = 7) = (b.head.xc.toNat = 7) := by
    rw [← BitVec.toNat_inj]; rfl
  simp only [takes, transferTaken, condMask_full, hseven]

/-! ## What a stop leaves of a core (R344, R347) -/

/-- A core with the marks of another: what a fault, a stop or the steps of a routine change of it. -/
def Core.withMarks (c d : Core) : Core :=
  { c with
    running := d.running, later := d.later, hold := d.hold, preempts := d.preempts, faults := d.faults, pgfreezes := d.pgfreezes
    rollbacks := d.rollbacks, lates := d.lates, segstall := d.segstall, waitholds := d.waitholds, xlholds := d.xlholds
    lbholds := d.lbholds, cqholds := d.cqholds, bankholds := d.bankholds }

theorem withMarks_self (c : Core) : c = c.withMarks c := rfl

theorem bumpCause_withMarks (c : Core) (k : Nat) : bumpCause c k = c.withMarks (bumpCause c k) := by
  unfold bumpCause
  split <;> rfl

theorem withMarks_trans {b c d : Core} (h1 : c = b.withMarks c) (h2 : d = c.withMarks d) : d = b.withMarks d := by
  rw [h2, h1]; rfl

theorem core_deferStop (s : State) (g : Nat) (f : FaultInfo) (cause handle : Nat) :
    (deferStop s g f cause handle).core g = (s.core g).withMarks ((deferStop s g f cause handle).core g) := by
  simp only [deferStop, core_updCore, if_true]
  split
  · exact withMarks_trans (c := bumpCause _ cause) (withMarks_trans rfl (bumpCause_withMarks _ _)) rfl
  · rfl

theorem core_stopWithRecord (s : State) (g l : Nat) (f : FaultInfo) (cause handle stopcyc : Nat) :
    (stopWithRecord s g l f cause handle stopcyc).core g =
      (s.core g).withMarks ((stopWithRecord s g l f cause handle stopcyc).core g) := by
  simp only [stopWithRecord]
  split
  · exact core_deferStop ..
  split
  · rw [core_stopByCore]; rfl
  · simp only [core_updCore, if_true, core_updLaunch, core_writeRecord, core_keepRecord, core_stopByCore]
    split
    · rfl
    · exact withMarks_trans (bumpCause_withMarks _ _) rfl

/-- A fault of a core marks it and keeps all else. -/
theorem core_takeFault (s : State) (g : Nat) (f : FaultInfo) (n : Nat) :
    (takeFault s g f n).core g = (s.core g).withMarks ((takeFault s g f n).core g) := by
  unfold takeFault
  split
  · rfl
  · exact core_stopWithRecord ..

theorem core_runRoutine (s : State) (g cyc : Nat) :
    (runRoutine s g cyc).core g = (s.core g).withMarks ((runRoutine s g cyc).core g) := by
  simp only [runRoutine]
  split
  · rfl
  split
  · rfl
  split
  · exact core_takeFault ..
  split
  · rw [core_updCore, if_pos rfl]; rfl
  · refine withMarks_trans ?_ (core_takeFault ..)
    rw [core_updCore, if_pos rfl]; rfl

@[simp] theorem core_dueOnce (s : State) (t k : Nat) (i : Instr) (g : Nat) : (s.dueOnce t k i).core g = s.core g := by
  unfold State.dueOnce; split <;> rfl

/-- What only puts steps into the agenda leaves every part of the state but the agenda. -/
def State.withAgenda (s t : State) : State := { s with agenda := t.agenda }

theorem withAgenda_trans {a b c : State} (h1 : b = a.withAgenda b) (h2 : c = b.withAgenda c) : c = a.withAgenda c := by
  rw [h2, h1]; rfl

theorem dueOnce_withAgenda (s : State) (t k : Nat) (i : Instr) : s.dueOnce t k i = s.withAgenda (s.dueOnce t k i) := by
  unfold State.dueOnce; split <;> rfl

/-- Steps put into the agenda one after another leave every other part. -/
theorem foldl_withAgenda {α : Type} (f : State → α → State) (hf : ∀ s a, f s a = s.withAgenda (f s a)) (l : List α) (s : State) :
    l.foldl f s = s.withAgenda (l.foldl f s) := by
  induction l generalizing s with
  | nil => rfl
  | cons a l ih => exact withAgenda_trans (hf s a) (ih _)

theorem freeSlots_withAgenda (s : State) (g : Nat) : freeSlots s g = s.withAgenda (freeSlots s g) := by
  rw [freeSlots]
  refine foldl_withAgenda _ (fun st b => ?_) _ _
  refine foldl_withAgenda _ (fun st q => ?_) _ _
  split
  · exact dueOnce_withAgenda ..
  · rfl

@[simp] theorem core_freeSlots (s : State) (g g' : Nat) : (freeSlots s g).core g' = s.core g' := by
  rw [freeSlots_withAgenda]; rfl

/-! ## What a record leaves of the state (R345) -/

/-- What writing a record or stopping a launch changes: memory, functions, launches, cores, the last records, host translations and
messages to the host. -/
def State.withRecords (s t : State) : State :=
  { s with
    mem := t.mem, funcs := t.funcs, launches := t.launches, cores := t.cores, lastRec := t.lastRec, ats := t.ats, msix := t.msix }

theorem withRecords_trans {a b c : State} (h1 : b = a.withRecords b) (h2 : c = b.withRecords c) : c = a.withRecords c := by
  rw [h2, h1]; rfl

theorem writeBytes_withRecords (s : State) (a : Nat) (bs : List Byte) : writeBytes s a bs = s.withRecords (writeBytes s a bs) := by
  induction bs generalizing s a with
  | nil => rfl
  | cons b bs ih => exact withRecords_trans (b := writeByte s a b) rfl (ih _ _)

theorem writeWord_withRecords (s : State) (a : Nat) (w : Word) : writeWord s a w = s.withRecords (writeWord s a w) :=
  writeBytes_withRecords s a (leBytes 8 w.toNat)

theorem writeWords_withRecords (s : State) (a : Nat) (ws : List Word) : writeWords s a ws = s.withRecords (writeWords s a ws) := by
  induction ws generalizing s a with
  | nil => rfl
  | cons w ws ih =>
    rw [writeWords_cons]
    exact withRecords_trans (writeWord_withRecords s a w) (ih _ _)

theorem noteAts_withRecords (s : State) (f a : Nat) : noteAts s f a = s.withRecords (noteAts s f a) := by
  unfold noteAts; split <;> rfl

theorem sendMsix_withRecords (s : State) (f v : Nat) : sendMsix s f v = s.withRecords (sendMsix s f v) := by
  unfold sendMsix; split <;> rfl

theorem putRecord_withRecords (s : State) (f : Nat) (ws : List Word) : putRecord s f ws = s.withRecords (putRecord s f ws) := by
  simp only [putRecord]
  split
  · exact withRecords_trans (withRecords_trans (b := chargeHost s f 64) rfl (noteAts_withRecords ..))
      (withRecords_trans (writeWords_withRecords ..) (withRecords_trans rfl (sendMsix_withRecords ..)))
  · exact withRecords_trans (withRecords_trans (b := chargeHost s f 64) rfl (noteAts_withRecords ..))
      (withRecords_trans rfl (sendMsix_withRecords ..))

theorem writeRecord_withRecords (s : State) (f : Nat) (ws : List Word) :
    (writeRecord s f ws).1 = s.withRecords (writeRecord s f ws).1 := by
  simp only [writeRecord]
  split
  · rfl
  split
  · rfl
  split
  · rfl
  · exact putRecord_withRecords ..

theorem updLaunch_withRecords (s : State) (l : Nat) (u : Launch → Launch) : s.updLaunch l u = s.withRecords (s.updLaunch l u) := by
  rw [updLaunch_eq]; split <;> rfl

theorem stopLaunch_withRecords (s : State) (l : Nat) : stopLaunch s l = s.withRecords (stopLaunch s l) := by
  unfold stopLaunch
  split
  · rfl
  · exact updLaunch_withRecords ..

theorem stopByCore_withRecords (s : State) (l way : Nat) : stopByCore s l way = s.withRecords (stopByCore s l way) := by
  unfold stopByCore
  split
  · split
    · exact withRecords_trans (stopLaunch_withRecords ..) (updLaunch_withRecords ..)
    · rfl
  · rfl

theorem stopWithRecord_withRecords (s : State) (g l : Nat) (f : FaultInfo) (cause handle stopcyc : Nat) :
    stopWithRecord s g l f cause handle stopcyc = s.withRecords (stopWithRecord s g l f cause handle stopcyc) := by
  simp only [stopWithRecord]
  split
  · rfl
  split
  · exact stopByCore_withRecords ..
  · refine withRecords_trans (stopByCore_withRecords s l (stopWayOf s (s.core g) f)) (withRecords_trans ?_ (withRecords_trans (updLaunch_withRecords ..) rfl))
    exact withRecords_trans rfl (writeRecord_withRecords ..)

theorem takeFault_withRecords (s : State) (g : Nat) (f : FaultInfo) (n : Nat) :
    takeFault s g f n = s.withRecords (takeFault s g f n) := by
  unfold takeFault
  split
  · rfl
  · exact stopWithRecord_withRecords ..

theorem runRoutine_withRecords (s : State) (g cyc : Nat) : runRoutine s g cyc = s.withRecords (runRoutine s g cyc) := by
  simp only [runRoutine]
  split
  · rfl
  split
  · rfl
  split
  · exact takeFault_withRecords ..
  split
  · rfl
  · exact withRecords_trans rfl (takeFault_withRecords ..)

/-! ## The end of a repetition (R86, R88) -/

/-- The state in which a repetition has ended, before a HALT of it acts. -/
def closedIssue (s : State) : State :=
  freeSlots ((runRoutine ({ s with micro := [], issuing := false }.updCore s.cur closeCore) s.cur s.curCore.iCyc).updCore s.cur
    (passCycles 1)) s.cur

theorem closedIssue_control (s : State) : (closedIssue s).issuing = false ∧ (closedIssue s).micro = [] := by
  rw [closedIssue, freeSlots_withAgenda, State.updCore, runRoutine_withRecords]
  exact ⟨rfl, rfl⟩

theorem core_closedIssue (s : State) :
    ∃ d, (closedIssue s).core s.cur = passCycles 1 ((closeCore s.curCore).withMarks d) := by
  rw [closedIssue, core_freeSlots, core_updCore, if_pos rfl, core_runRoutine, core_updCore, if_pos rfl]
  exact ⟨_, rfl⟩

theorem halted_closeCore (c : Core) : (closeCore c).halted = c.halted := by
  simp only [closeCore]; split <;> rfl

/-- A repetition whose core has not halted ends as `closedIssue`. -/
theorem closeIssue_of_running {s : State} (h : s.curCore.halted = false) : closeIssue s = closedIssue s := by
  obtain ⟨d, hd⟩ := core_closedIssue s
  have hhalted : ((closedIssue s).core s.cur).halted = false := by
    rw [hd, ← h, ← halted_closeCore s.curCore]; rfl
  exact if_neg (by rw [← Bool.not_eq_true] at hhalted; exact hhalted)

/-- How the core goes on after a repetition. -/
theorem closeIssue_spec {s : State} (h : s.curCore.halted = false) :
    let c := s.curCore
    let t := closeIssue s
    let d := t.core s.cur
    t.issuing = false ∧ t.micro = [] ∧ d.cycle = c.iCyc + 1 ∧ d.refcyc = c.refcyc + 1 ∧ d.sticky = c.sticky ∧
      (c.iLast = false → d.pc = c.pc ∧ d.rep = c.iRep + 1 ∧ d.waitOk = c.waitOk) ∧
      (c.iLast = true → d.pc = (if c.iTaken then c.iTarget else c.iNext) ∧ d.rep = 0 ∧ d.waitOk = false) := by
  obtain ⟨d, hd⟩ := core_closedIssue s
  obtain ⟨hissuing, hmicro⟩ := closedIssue_control s
  rw [closeIssue_of_running h]
  refine ⟨hissuing, hmicro, ?_⟩
  rw [hd]
  cases hlast : s.curCore.iLast <;> simp [passCycles, Core.withMarks, closeCore, hlast]

/-! ## Sticky syllables (R96) -/

theorem slotNum_injective {a b : Slot} (h : slotNum a = slotNum b) : a = b := by
  have hinv (x : Slot) : [Slot.s, .v0, .v1, .m, .k, .c0, .c1].getD (slotNum x) .s = x := by cases x <;> rfl
  rw [← hinv a, h, hinv b]

theorem restick_iRep (n : Nat) (c : Core) (it : Item) : (restick n c it).iRep = c.iRep := by
  unfold restick
  split
  · split <;> rfl
  · split
    · split
      · rfl
      · split <;> rfl
    · rfl

/-- A syllable leaves what sticks in every other slot. -/
theorem stickyOf_restick_ne (n : Nat) (c : Core) (it : Item) {k : Nat} (hk : k ≠ slotNum it.slot) :
    (restick n c it).stickyOf k = c.stickyOf k := by
  unfold restick
  split
  · split
    · rw [stickyOf_setSticky, if_neg hk]
    · rfl
  · split
    · split
      · rw [stickyOf_setSticky, if_neg hk]
      · split
        · rw [stickyOf_setSticky, if_neg hk]
        · rfl
    · rfl

/-- A slot that no syllable of a repetition stands in keeps what sticks in it. -/
theorem stickyOf_foldl_restick_of_absent (n k : Nat) (items : List Item) (c : Core) (hk : ∀ it ∈ items, slotNum it.slot ≠ k) :
    (items.foldl (restick n) c).stickyOf k = c.stickyOf k := by
  induction items generalizing c with
  | nil => rfl
  | cons it items ih =>
    rw [List.foldl_cons, ih _ fun x hx => hk x (List.mem_cons_of_mem _ hx),
      stickyOf_restick_ne _ _ _ (hk it List.mem_cons_self).symm]

/-- A syllable that sticks is what its slot keeps after the repetition, whatever stuck there before. -/
theorem stickyOf_restick_sticking (n : Nat) (c : Core) {it : Item} {i : Instr} {h : Head} (hi : it.instr = .ok i)
    (hh : i.head? = some h) (hs : h.stk = 1) :
    (restick n c it).stickyOf (slotNum it.slot) = some ⟨i.withHead { h with j := 0 }, h.j + n⟩ := by
  simp only [restick, hi, hh, if_pos hs, stickyOf_setSticky, if_true]

/-- At the first repetition a named syllable that does not stick leaves nothing in its slot. -/
theorem stickyOf_restick_loose (n : Nat) {c : Core} {it : Item} {i : Instr} {h : Head} (hi : it.instr = .ok i)
    (hh : i.head? = some h) (hs : h.stk = 0) (hn : it.named = true) (hc : c.iRep = 0) :
    (restick n c it).stickyOf (slotNum it.slot) = none := by
  have hloose : ¬ h.stk = 1 := by rw [hs]; decide
  simp only [restick, hi, hh, if_neg hloose, hn, hc, stickyOf_setSticky, Bool.true_and, decide_true, if_true]

/-- The slot of a syllable that stands alone in it keeps after a repetition what that syllable leaves. -/
theorem stickyOf_foldl_restick_of_mem (n : Nat) {items : List Item} (hnd : (items.map (·.slot)).Nodup) {it : Item} (hit : it ∈ items)
    (c : Core) : ∃ d : Core, d.iRep = c.iRep ∧ d.stickyOf (slotNum it.slot) = c.stickyOf (slotNum it.slot) ∧
      (items.foldl (restick n) c).stickyOf (slotNum it.slot) = (restick n d it).stickyOf (slotNum it.slot) := by
  induction items generalizing c with
  | nil => exact absurd hit List.not_mem_nil
  | cons x items ih =>
    rw [List.map_cons, List.nodup_cons] at hnd
    obtain ⟨hx, hnd⟩ := hnd
    rcases List.mem_cons.mp hit with rfl | hit
    · refine ⟨c, rfl, rfl, stickyOf_foldl_restick_of_absent n _ items _ fun y hy hslot => hx ?_⟩
      exact slotNum_injective hslot ▸ List.mem_map_of_mem hy
    · have hne : slotNum it.slot ≠ slotNum x.slot := fun hslot => hx (slotNum_injective hslot ▸ List.mem_map_of_mem hit)
      obtain ⟨d, hrep, hstick, hfold⟩ := ih hnd hit (restick n c x)
      exact ⟨d, hrep.trans (restick_iRep ..), hstick.trans (stickyOf_restick_ne _ _ _ hne), hfold⟩

/-! ## The syllables of a repetition -/

theorem slot_namedItem (c : Core) (h : Header) (p : Slot × Word) : (namedItem c h p).slot = p.1 := by
  unfold namedItem
  dsimp only
  split <;> rfl

theorem named_namedItem (c : Core) (h : Header) (p : Slot × Word) : (namedItem c h p).named = true := by
  unfold namedItem
  dsimp only
  split <;> rfl

theorem map_slot_namedItems (c : Core) (b : Bundle) :
    (b.words.map (namedItem c b.head)).map (·.slot) = b.words.map (·.1) := by
  rw [List.map_map]
  exact List.map_congr_left fun p _ => slot_namedItem c b.head p

/-- The re-issue of a slot that the bundle does not name (R96). -/
def stickyItem (sl : Slot) (y : Sticky) : Item :=
  { slot := sl, word := wordOf y.instr, named := false
    instr := .ok (atIssue y.instr y.j (match y.instr.head? with | some h => h.bcv | none => 0)) }

theorem mem_stickyItems {c : Core} {b : Bundle} {it : Item} : it ∈ stickyItems c b ↔
    ∃ sl ∈ stickSlots, sl ∉ b.words.map (·.1) ∧ ∃ y, c.stickyOf (slotNum sl) = some y ∧ it = stickyItem sl y := by
  simp only [stickyItems, List.mem_filterMap]
  refine exists_congr fun sl => and_congr_right fun _ => ?_
  have hany : (b.words.any fun (x, _) => x == sl) = true ↔ sl ∈ b.words.map (·.1) := by
    simp [List.any_eq_true]
  by_cases hsl : sl ∈ b.words.map (·.1)
  · rw [if_pos (hany.mpr hsl)]
    simp [hsl]
  · rw [if_neg (mt hany.mp hsl)]
    cases hy : c.stickyOf (slotNum sl) with
    | none => simp
    | some y =>
      have hitem : some (stickyItem sl y) = some it ↔ it = stickyItem sl y := by rw [Option.some_inj, eq_comm]
      exact hitem.trans (by simp [hsl])

theorem nodup_slots_stickyItems (c : Core) (b : Bundle) : ((stickyItems c b).map (·.slot)).Nodup := by
  have hslots : stickSlots.Nodup := by decide
  rw [List.Nodup, List.pairwise_map, stickyItems, List.pairwise_filterMap]
  refine hslots.imp fun {a a'} hne it hit it' hit' heq => hne ?_
  have hslot (sl : Slot) (y : Item) (hy : (if (b.words.any fun (x, _) => x == sl) = true then none
      else match c.stickyOf (slotNum sl) with
        | none => none
        | some x => some (stickyItem sl x)) = some y) : y.slot = sl := by
    split at hy
    · exact absurd hy.symm (Option.some_ne_none y)
    · split at hy
      · exact absurd hy.symm (Option.some_ne_none y)
      · exact (Option.some.inj hy) ▸ rfl
  rw [← hslot a it hit, ← hslot a' it' hit', heq]

theorem nodup_slots_itemsOf (c : Core) {b : Bundle} (hb : (b.words.map (·.1)).Nodup) : ((itemsOf c b).map (·.slot)).Nodup := by
  rw [itemsOf, List.map_append, map_slot_namedItems, List.nodup_append]
  refine ⟨hb, nodup_slots_stickyItems c b, fun sl hsl sl' hsl' heq => ?_⟩
  obtain ⟨it, hit, rfl⟩ := List.mem_map.mp hsl'
  obtain ⟨sl'', _, habsent, y, _, rfl⟩ := mem_stickyItems.mp hit
  have hsame : sl = sl'' := heq
  exact habsent (hsame ▸ hsl)

/-! ## Issue -/

theorem core_startSegment (s : State) (g : Nat) :
    ((startSegment s g).core g).sticky = (s.core g).sticky ∧ ((startSegment s g).core g).iRep = (s.core g).iRep := by
  simp only [startSegment, core_due, core_setCore, if_true]
  exact ⟨rfl, rfl⟩

/-- The marks of a header leave what sticks in the slots, and the repetition in hand. -/
theorem core_runMarks (s : State) (g : Nat) (b : Bundle) :
    ((runMarks s g b).core g).sticky = (s.core g).sticky ∧ ((runMarks s g b).core g).iRep = (s.core g).iRep := by
  have hmark (p : Prop) [Decidable p] : ((if p then s.setCore g { s.core g with sig := 0xFFFFFFFF } else s).core g).sticky =
      (s.core g).sticky ∧ ((if p then s.setCore g { s.core g with sig := 0xFFFFFFFF } else s).core g).iRep = (s.core g).iRep := by
    split
    · rw [core_setCore, if_pos rfl]; exact ⟨rfl, rfl⟩
    · exact ⟨rfl, rfl⟩
  simp only [runMarks]
  split
  · exact ⟨rfl, rfl⟩
  split
  · obtain ⟨hsticky, hrep⟩ := core_startSegment (if b.head.ckp = 1 then s.setCore g { s.core g with sig := 0xFFFFFFFF } else s) g
    exact ⟨hsticky.trans (hmark _).1, hrep.trans (hmark _).2⟩
  · exact hmark _

/-- What sticks after a repetition has issued: each syllable in its turn has left its mark. -/
theorem stickyOf_issue (s : State) (g : Nat) (b : Bundle) (items : List Item) (k : Nat) :
    ∃ d : Core, d.iRep = (s.core g).iRep ∧ (∀ k, d.stickyOf k = (s.core g).stickyOf k) ∧
      ((issue s g b items).core g).stickyOf k = (items.foldl (restick 1) d).stickyOf k := by
  obtain ⟨hsticky, hrep⟩ := core_runMarks s g b
  refine ⟨(runMarks s g b).core g, hrep, fun k => by rw [Core.stickyOf, hsticky, Core.stickyOf], ?_⟩
  have hcore : (issue s g b items).core g =
      { items.foldl (restick 1) ((runMarks s g b).core g) with turn := s.now + 1 } :=
    (core_updCore (runMarks s g b) g g fun c => { items.foldl (restick 1) c with turn := s.now + 1 }).trans (if_pos rfl)
  rw [hcore]
  rfl

/-- A syllable of a repetition leaves in its slot what it leaves when it stands there alone. -/
theorem stickyOf_issue_of_mem (s : State) (g : Nat) {b : Bundle} (hb : (b.words.map (·.1)).Nodup) {it : Item}
    (hit : it ∈ itemsOf (s.core g) b) :
    ∃ d : Core, d.iRep = (s.core g).iRep ∧ d.stickyOf (slotNum it.slot) = (s.core g).stickyOf (slotNum it.slot) ∧
      ((issue s g b (itemsOf (s.core g) b)).core g).stickyOf (slotNum it.slot) =
        (restick 1 d it).stickyOf (slotNum it.slot) := by
  obtain ⟨d, hrep, hsame, hissue⟩ := stickyOf_issue s g b (itemsOf (s.core g) b) (slotNum it.slot)
  obtain ⟨e, herep, hesame, hfold⟩ := stickyOf_foldl_restick_of_mem 1 (nodup_slots_itemsOf (s.core g) hb) hit d
  exact ⟨e, herep.trans hrep, hesame.trans (hsame _), hissue.trans hfold⟩

/-- Nothing sticks in a slot that the bundle does not name and in which nothing stuck. -/
theorem stickyOf_issue_empty (s : State) (g : Nat) {b : Bundle} {sl : Slot} (hsl : sl ∉ b.words.map (·.1))
    (hnone : (s.core g).stickyOf (slotNum sl) = none) :
    ((issue s g b (itemsOf (s.core g) b)).core g).stickyOf (slotNum sl) = none := by
  obtain ⟨d, -, hsame, hissue⟩ := stickyOf_issue s g b (itemsOf (s.core g) b) (slotNum sl)
  rw [hissue, stickyOf_foldl_restick_of_absent, hsame, hnone]
  intro it hit hslot
  rcases List.mem_append.mp hit with hnamed | hsticky
  · apply hsl
    rw [← map_slot_namedItems (s.core g) b, ← slotNum_injective hslot]
    exact List.mem_map_of_mem hnamed
  · obtain ⟨sl', -, -, y, hy, rfl⟩ := mem_stickyItems.mp hsticky
    rw [show slotNum sl' = slotNum sl from hslot, hnone] at hy
    exact absurd hy.symm (Option.some_ne_none y)

/-- A syllable that sticks in a slot that the bundle does not name has been issued once more (R96). -/
theorem stickyOf_issue_again (s : State) (g : Nat) {b : Bundle} (hb : (b.words.map (·.1)).Nodup) {sl : Slot} (hstick : sl ∈ stickSlots)
    (hsl : sl ∉ b.words.map (·.1)) {y : Sticky} {h : Head} (hy : (s.core g).stickyOf (slotNum sl) = some y)
    (hh : y.instr.head? = some h) (hs : h.stk = 1) (hj : h.j = 0) :
    ((issue s g b (itemsOf (s.core g) b)).core g).stickyOf (slotNum sl) = some { y with j := y.j + 1 } := by
  have hitem : stickyItem sl y ∈ itemsOf (s.core g) b :=
    List.mem_append_right _ (mem_stickyItems.mpr ⟨sl, hstick, hsl, y, hy, rfl⟩)
  obtain ⟨d, -, -, hissue⟩ := stickyOf_issue_of_mem s g hb hitem
  have hinstr : (stickyItem sl y).instr = .ok (y.instr.withHead { h with j := y.j }) := by
    simp only [stickyItem, atIssue, hh]
  have hself : (y.instr.withHead { h with j := y.j }).withHead { h with j := 0 } = y.instr := by
    apply withHead_withHead_of_head
    rw [hh, ← hj]
  exact hissue.trans ((stickyOf_restick_sticking 1 d hinstr (head?_withHead hh _) hs).trans
    (congrArg (fun i => some (Sticky.mk i (y.j + 1))) hself))

/-- The re-issue count with which a named syllable issues. -/
def namedCount (c : Core) (sl : Slot) : Nat :=
  if c.rep = 0 then 0 else match c.stickyOf (slotNum sl) with | some y => y.j | none => 0

theorem instr_namedItem {c : Core} {b : Header} {sl : Slot} {w : Word} {i : Instr} {h : Head} (hi : decodeSyllable sl w = .ok i)
    (hh : i.head? = some h) :
    (namedItem c b (sl, w)).instr =
      .ok (i.withHead { h with j := if h.stk = 1 then namedCount c sl else 0, bcv := broadcast c b }) := by
  have hcount : (if sticks i && c.rep != 0 then (match c.stickyOf (slotNum sl) with | some x => x.j | none => 0) else 0) =
      if h.stk = 1 then namedCount c sl else 0 := by
    have hsticks : sticks i = decide (h.stk = 1) := by simp only [sticks, hh, beq_eq_decide]
    rw [hsticks, namedCount]
    by_cases hs : h.stk = 1 <;> by_cases hr : c.rep = 0 <;> simp [hs, hr]
  simp only [namedItem, hi, atIssue, hh]
  exact congrArg (fun j => Except.ok (i.withHead { h with j := j, bcv := broadcast c b })) hcount

theorem mem_itemsOf_named {c : Core} {b : Bundle} {p : Slot × Word} (hp : p ∈ b.words) : namedItem c b.head p ∈ itemsOf c b :=
  List.mem_append_left _ (List.mem_map_of_mem hp)

/-- A named syllable with STK = 1 sticks, its count going on at the later repetitions of its bundle (R96). -/
theorem stickyOf_issue_named (s : State) (g : Nat) {b : Bundle} (hb : (b.words.map (·.1)).Nodup) {sl : Slot} {w : Word} {i : Instr}
    {h : Head} (hw : (sl, w) ∈ b.words) (hi : decodeSyllable sl w = .ok i) (hh : i.head? = some h) (hs : h.stk = 1) :
    ((issue s g b (itemsOf (s.core g) b)).core g).stickyOf (slotNum sl) =
      some ⟨i.withHead { h with j := 0, bcv := broadcast (s.core g) b.head }, namedCount (s.core g) sl + 1⟩ := by
  obtain ⟨d, -, -, hissue⟩ := stickyOf_issue_of_mem s g hb (mem_itemsOf_named hw)
  rw [slot_namedItem] at hissue
  have hstick := stickyOf_restick_sticking 1 d (instr_namedItem (c := s.core g) (b := b.head) hi hh) (head?_withHead hh _) hs
  rw [slot_namedItem, if_pos hs, withHead_withHead] at hstick
  exact hissue.trans hstick

/-- From the first repetition of a named syllable with STK = 0 on nothing sticks in its slot (R96). -/
theorem stickyOf_issue_loose (s : State) (g : Nat) {b : Bundle} (hb : (b.words.map (·.1)).Nodup) {sl : Slot} {w : Word} {i : Instr}
    {h : Head} (hw : (sl, w) ∈ b.words) (hi : decodeSyllable sl w = .ok i) (hh : i.head? = some h) (hs : h.stk = 0)
    (hrep : (s.core g).iRep = 0) :
    ((issue s g b (itemsOf (s.core g) b)).core g).stickyOf (slotNum sl) = none := by
  obtain ⟨d, hd, -, hissue⟩ := stickyOf_issue_of_mem s g hb (mem_itemsOf_named hw)
  rw [slot_namedItem] at hissue
  have hloose := stickyOf_restick_loose 1 (instr_namedItem (c := s.core g) (b := b.head) hi hh) (head?_withHead hh _) hs
    (named_namedItem _ _ _) (hd.trans hrep)
  rw [slot_namedItem] at hloose
  exact hissue.trans hloose

/-! ## Syllables of the sequencer -/

theorem toNat_branchTarget (a : Word) (n : Nat) : (a + BitVec.ofNat 64 (n * 8)).toNat = (a.toNat + n * 8) % 2 ^ 64 := by
  rw [BitVec.toNat_add, BitVec.toNat_ofNat, Nat.add_mod_mod]

theorem targetOk_iff (t : Word) : targetOk t = true ↔ t.toNat % 8 = 0 ∧ t.toNat < 0x1000000 := by
  simp [targetOk]

theorem askFlush_of_scope (s : State) (g q : Nat) {scope : Nat} (h : scope ≠ 6) (mask : BitVec 16) : askFlush s g q scope mask = s := by
  simp [askFlush, h]

/-- A fence takes the next place in the program order of its core (R130). -/
theorem planFence_run (h : SHead) (x : FmtI) (s : State) : (planFence h x s).run s =
    let q := s.curCore.seq
    let scope := (x.imm.extractLsb' 16 3).toNat
    let mask := x.imm.extractLsb' 0 16
    let s1 := s.setCore s.cur { s.curCore with
      seq := q + 1, fences := s.curCore.fences ++ [⟨q, mask, scope, x.imm.getLsbD 19, x.imm.getLsbD 20⟩] }
    if x.imm.getLsbD 20 then askFlush s1 s.cur q scope mask else s1 := by
  simp only [planFence, sPlan, takeSeq, updCur_updCur]
  rfl

/-- What a TRAP does that is ready in a core of a launch (R131, R344). -/
theorem exec_trap {s : State} {h : SHead} {x : FmtY} {l : Nat} (hr : SReady s h []) (hl : s.curCore.launch = some l) :
    exec (.trap h x) s = .next (if s.curCore.iRep = 0 ∧ (onceSeen s).isNone = true then
      stopWithRecord (noteOnce s 0 none) s.cur l
        { kind := 2, code := 0, cause := x.imm.toNat, arg0 := 0, arg1 := 0, slot := 0, rep := s.curCore.iRep, origin := 5
          issue := s.curCore.iCyc, baddr := s.curCore.iPc } 2 16 (s.curCore.iCyc + 1)
      else s) := by
  have hrun : exec (.trap h x) s = .next ((planTrap h x s).run s) := runPlan_sReady hr
  rw [hrun]
  simp only [planTrap, sPlan, hl, Bool.and_eq_true, decide_eq_true_eq]

/-! ## The statements -/

/-- Settles O18: the marks of a header by `takes_eq`, the end of a repetition by `closeIssue_spec`, what sticks by the rules of
`stickyOf_issue`, and each syllable by its plan. -/
theorem branchesLoopsAndSequencing : Obligations.BranchesLoopsAndSequencing := by
  refine ⟨⟨fun s g b => ?header, fun s hs => closeIssue_spec hs, fun s g b hb hrep => ⟨fun sl hstick hsl => ?unnamed, ?named⟩⟩,
    ⟨fun s h x hr => ?prep, fun s h x => ⟨fun hr => ?loop, fun hr => ?endLoop⟩⟩,
    ⟨fun s h => ⟨fun hr x => runPlan_sReady hr, fun hr x => ⟨?fence, runPlan_sReady hr⟩, fun hr x => ?halt⟩, fun s h x l hr hl => ?trap⟩⟩
  case header =>
    have hcore : (prepare s g b).core g = prepareCore (s.core g) b :=
      (core_setCore s g g (prepareCore (s.core g) b)).trans (if_pos rfl)
    intro c h d holds
    have htaken : d.iTaken = (decide (h.rep.toNat ≤ c.rep) && takes c b) := congrArg Core.iTaken hcore
    refine ⟨congrArg Core.iPc hcore, congrArg Core.iNext hcore, congrArg Core.iRep hcore, congrArg Core.iCyc hcore,
      congrArg Core.iLast hcore, congrArg Core.iTarget hcore, ?_⟩
    rw [htaken, takes_eq, ← Bool.and_assoc, ← Bool.and_assoc]
  case unnamed =>
    exact ⟨stickyOf_issue_empty s g hsl, fun y h hy hh hs hj => stickyOf_issue_again s g hb hstick hsl hy hh hs hj⟩
  case named =>
    exact fun sl w i h hw hi hh => ⟨fun hs => stickyOf_issue_named s g hb hw hi hh hs,
      fun hs hzero => stickyOf_issue_loose s g hb hw hi hh hs (hrep.trans hzero)⟩
  case prep =>
    have hrun : exec (.prep h x) s = .next (land s 0 3 (.bReg x.n.toNat _)) := runPlan_sReady hr
    have htarget := targetOk_iff (s.curCore.sGet x.sa.toNat + BitVec.ofNat 64 (x.addr.toNat * 8))
    rw [toNat_branchTarget] at htarget
    refine ⟨fun ht => ?_, fun ht => ?_⟩
    · rw [hrun, if_pos (htarget.mpr ht), toNat_branchTarget]
    · rw [hrun, if_neg (mt htarget.mp ht)]
  case loop =>
    exact ⟨fun hcount => runPlan_sReady_of hr (if_neg (by omega)), fun hcount => runPlan_sReady_illegal_of hr (if_pos (by omega))⟩
  case endLoop =>
    refine ⟨fun hlast => ?_, fun hlast hactive => ?_, fun hlast hactive hcount => ?_, fun hlast hactive hcount => ?_⟩
    · exact (runPlan_sReady_of hr (by simp [hlast])).trans (by simp [hlast])
    · exact runPlan_sReady_illegal_of hr (by simp [hlast, hactive])
    · exact (runPlan_sReady_of hr (by simp [hactive])).trans (by simp [hlast, Nat.not_lt.mpr hcount])
    · have hrun : exec (.endLoop h x) s = _ := runPlan_sReady_of hr (by simp [hactive])
      simp only [hlast, Bool.not_true, Bool.false_eq_true, if_false, if_pos hcount] at hrun
      refine ⟨_, hrun, curCore_updCur _ _, ?_⟩
      rw [land, updCur_updCur]
      exact updCur_eq_setCore _ _
  case fence =>
    have hrun : exec (.fence h x) s = .next ((planFence h x s).run s) := runPlan_sReady hr
    rw [planFence_run] at hrun
    refine ⟨fun hloose => hrun.trans ?_, fun hrel => hrun.trans ?_⟩
    · rcases hloose with hrel | hscope
      · simp only [hrel, Bool.false_eq_true, if_false]
      · simp only [askFlush_of_scope _ _ _ hscope, ite_self]
    · simp only [hrel, if_true]
  case halt =>
    have hrun : exec (.halt h x) s = .next (if s.curCore.iRep = 0 then _ else s) := runPlan_sReady hr
    exact ⟨fun hfirst => hrun.trans (by rw [if_pos hfirst]; rfl), fun hlater => hrun.trans (by rw [if_neg hlater])⟩
  case trap =>
    refine ⟨fun hfirst honce => ?_, fun hlater => ?_⟩
    · rw [exec_trap hr hl, if_pos ⟨hfirst, by rw [honce]; rfl⟩, hfirst]
    · rw [exec_trap hr hl, if_neg]
      rintro ⟨hfirst, honce⟩
      rcases hlater with hlater | hseen
      · exact hlater hfirst
      · rw [Option.isNone_iff_eq_none] at honce
        rw [honce] at hseen
        exact absurd hseen (by decide)

/-- Settles O9: a syllable's step is its plan run, by the three ways that `runPlan` has, and the suppressed form of a plan that takes no
landing entries does nothing. -/
theorem syllablesIssueByTheirPlan : Obligations.SyllablesIssueByTheirPlan := by
  refine ⟨fun i s hi => ⟨fun k hk => ?_, fun hf he => ?_, fun hf he => ?_⟩, fun i s hi he hp h0 => ?_⟩
  · rw [exec_eq_runPlan i s hi, runPlan_fault hk]
  · rw [exec_eq_runPlan i s hi, runPlan_suppressed hf he]
  · rw [exec_eq_runPlan i s hi, runPlan_ok hf, if_pos he]
  · rw [exec_eq_runPlan i s hi, runPlan_suppressed (Plan.fault_of_disabled he hp) he, planOf_off_of_no_entries i s h0]

/-! ## A due request for HBM waits for the issues of its cycle (R277) -/

/-- Core 0 runs a launch and stands at a bundle whose line is not yet delivered, so that it is still to take its turn, and a request
for HBM is due in the agenda. -/
def sendBeforeTurn : State :=
  let o : Overlay := { frame := 0, seg := 0, lines := 1, next := 0, late := [], ready := 0, src := none }
  { State.reset with
    cores := [(0, { fetchCore 0 0 [] with overlay := some o })], launches := [(0, fetchLaunch 0)]
    agenda := [(0, 0, .hbmRequestSend 0)] }

theorem exec_send_sendBeforeTurn :
    exec (.hbmRequestSend 0) { sendBeforeTurn with agenda := [] } = .next { sendBeforeTurn with agenda := [] } := rfl

/-- The step is the core's turn, and the request stays in the agenda. -/
theorem step_sendBeforeTurn : step sendBeforeTurn = .next (holdCore sendBeforeTurn 0 6) := rfl

/-- Refutes O5: a request for HBM that is due at the head of the agenda is not the next step where a core has still to issue in the
reference cycle (R277); the core's turn comes first. -/
theorem not_stepRunsTheDecodedInstruction : ¬ Obligations.StepRunsTheDecodedInstruction := by
  intro h
  have hstep : step sendBeforeTurn = .next { sendBeforeTurn with agenda := [] } :=
    h.2 sendBeforeTurn _ 0 0 (.hbmRequestSend 0) [] rfl (Nat.le_refl 0) exec_send_sendBeforeTurn rfl
  rw [step_sendBeforeTurn] at hstep
  have hagenda : (holdCore sendBeforeTurn 0 6).agenda = [] := congrArg (fun o => match o with
    | .next t => t.agenda
    | _ => []) hstep
  exact absurd hagenda (List.cons_ne_nil _ _)

end Sys2Proof.Machine
end

section
/-!
PROOFS. The V slots' arithmetic, immediates, conversions and reductions (R142, R144, R146 to R148, R150, R151, R155 to R159, R163,
R164): results that land alike, integers in elements, the tree of a reduction, and the statements.
-/
namespace Sys2Proof.Machine

/-! ## Elements that land alike (R142, R144) -/

/-- Two results land alike in elements of `w` bits: with the same flags and the same low bits. -/
def Rounded.Alike (w : Nat) (r q : Rounded) : Prop := r.flags = q.flags ∧ r.enc % 2 ^ w = q.enc % 2 ^ w

theorem Rounded.Alike.refl (w : Nat) (r : Rounded) : r.Alike w r := ⟨rfl, rfl⟩

theorem Rounded.Alike.of_eq {w : Nat} {r q : Rounded} (h : r = q) : r.Alike w q := h ▸ Rounded.Alike.refl w r

/-- Results without flags land alike where their low bits are the same. -/
theorem intRes_alike {w a b : Nat} (h : a % 2 ^ w = b % 2 ^ w) : (intRes a).Alike w ⟨b, 0⟩ := ⟨rfl, h⟩

theorem flagsOf_congr {en en' : Nat → Bool} {f g : Nat → Rounded} {n : Nat}
    (h : ∀ k < n, en k = en' k ∧ (en k = true → (f k).flags = (g k).flags)) : flagsOf en f n = flagsOf en' g n := by
  induction n with
  | zero => rfl
  | succ n ih =>
    obtain ⟨hen, hflags⟩ := h n (Nat.lt_succ_self n)
    rw [flagsOf, flagsOf, ih fun k hk => h k (Nat.lt_succ_of_lt hk), ← hen]
    cases he : en n
    · rfl
    · rw [if_pos rfl, if_pos rfl, hflags he]

/-- Elements that land are those of any function that gives like results where they are enabled. -/
theorem LandsElems.congr {s t : State} {slot lat vd w n : Nat} {en en' : Nat → Bool} {f g : Nat → Rounded}
    (h : LandsElems s t slot lat vd w n en f) (hfg : ∀ k < n, en k = en' k ∧ (en k = true → (f k).Alike w (g k))) :
    LandsElems s t slot lat vd w n en' g := by
  obtain ⟨v, e, ht, helem⟩ := h
  refine ⟨v, e, ht.trans (congrArg _ (flagsOf_congr fun k hk => ⟨(hfg k hk).1, fun he => ((hfg k hk).2 he).1⟩)), fun k hk => ?_⟩
  obtain ⟨hval, hen⟩ := helem k hk
  obtain ⟨hsame, halike⟩ := hfg k hk
  rw [← hsame]
  exact ⟨fun he => (hval he).trans (halike he).2, hen⟩

theorem elem_lt {n : Nat} (w : Nat) (v : BitVec n) (k : Nat) : elem w v k < 2 ^ w := Nat.mod_lt _ (Nat.two_pow_pos w)

theorem secondSource_lt (c : Core) (h : Head) (bc : BitVec 1) (vb : BitVec 10) (w k : Nat) : secondSource c h bc vb w k < 2 ^ w := by
  unfold secondSource
  split
  · exact Nat.mod_lt _ (Nat.two_pow_pos w)
  · exact elem_lt ..

section
variable {i : Instr} {h : Head} {s : State}

/-- A format-V syllable that is ready lands the results of any function that gives like results of two elements. -/
theorem exists_vectorResult {x : FmtV} {unary : Bool} {lat : Nat} {f g : Nat → Nat → Rounded} (hr : VReady s h (vectorReads h x unary))
    (hfg : ∀ a b, a < 2 ^ widthOf x.fmt.toNat → b < 2 ^ widthOf x.fmt.toNat → (f a b).Alike (widthOf x.fmt.toNat) (g a b)) :
    ∃ t, runPlan i (vecOp h x unary lat f s) s = .next t ∧ VectorResult s t h x unary lat g := by
  obtain ⟨t, ht, hlands⟩ := exists_landsElems (i := i) hr (Nat.mul_div_le _ _)
  exact ⟨t, ht, hlands.congr fun k _ => ⟨rfl, fun _ => hfg _ _ (elem_lt ..) (secondSource_lt ..)⟩⟩

/-- A fused syllable that is ready lands its products and sums (R150). -/
theorem exists_fusedResult {x : FmtW} {neg1 neg2 : Bool} {g : Nat → Rounded}
    (hr : VReady s h ([stepReg h x.va.toNat, stepReg h x.vb.toNat, stepReg h x.vc.toNat].map rV))
    (hg : ∀ k, g k =
      let f := floatOf x.fmt.toNat
      let at_ := fun (r : BitVec 10) => f.decode (elem (widthOf x.fmt.toNat) (s.curCore.vGet (stepReg h r.toNat)) k)
      f.fmaV x.rm.toNat (if neg1 then (at_ x.va).neg else at_ x.va) (at_ x.vb) (if neg2 then (at_ x.vc).neg else at_ x.vc)) :
    ∃ t, runPlan i (fusedOp h x neg1 neg2 s) s = .next t ∧
      LandsElems s t (slotNum h.slot)
        (4 + crossing h.slot [stepReg h x.vd.toNat, stepReg h x.va.toNat, stepReg h x.vb.toNat, stepReg h x.vc.toNat])
        (stepReg h x.vd.toNat) (widthOf x.fmt.toNat) (4096 / widthOf x.fmt.toNat)
        (lanes (maskPred s.curCore h.prd h.pn) (widthOf x.fmt.toNat)) g :=
  (funext hg : g = _) ▸ exists_landsElems hr (Nat.mul_div_le _ _)

/-- An immediate form that is ready lands the results of any function that gives like results of an element (R151). -/
theorem exists_immediateResult {x : FmtJ} {f g : Nat → Rounded} (hr : VReady s h [rV (stepReg h x.va.toNat)])
    (hfg : ∀ a, (f a).Alike (widthOf x.fmt.toNat) (g a)) :
    ∃ t, runPlan i (vecImm h x true 2 f s) s = .next t ∧ ImmediateResult s t h x g := by
  obtain ⟨t, ht, hlands⟩ := exists_landsElems (i := i) hr (Nat.mul_div_le _ _)
  exact ⟨t, ht, hlands.congr fun k _ => ⟨rfl, fun _ => hfg _⟩⟩

end

/-! ## Integers in elements (R51, R146, R148) -/

/-- Two encodings of one integer have the same low bits. -/
theorem mod_eq_of_ival_eq {sg : Bool} {w a b : Nat} (h : ival sg w a = ival sg w b) : a % 2 ^ w = b % 2 ^ w := by
  have ha := Nat.mod_lt a (Nat.two_pow_pos w)
  have hb := Nat.mod_lt b (Nat.two_pow_pos w)
  cases sg
  · exact Int.ofNat.inj h
  · simp only [ival, sval, if_true] at h
    split at h <;> split at h <;> omega

section
variable {k : Nat} (hk : k ≤ 5)
include hk

theorem isIntCode_of_le : isIntCode k = true := decide_eq_true hk

theorem minMaxElem_int_alike (max : Bool) (a b : Nat) : (minMaxElem k max a b).Alike (widthOf k)
    ⟨if ival (isSignedCode k) (widthOf k) a ≤ ival (isSignedCode k) (widthOf k) b then (if max then b else a)
      else if max then a else b, 0⟩ := by
  rw [minMaxElem, if_pos (isIntCode_of_le hk)]
  rcases lt_trichotomy (ival (isSignedCode k) (widthOf k) a) (ival (isSignedCode k) (widthOf k) b) with hlt | heq | hgt
  · rw [if_pos hlt.le]
    exact intRes_alike (by simp only [hlt, if_true])
  · rw [if_pos heq.le]
    have hmod := mod_eq_of_ival_eq heq
    refine intRes_alike ?_
    cases max <;> simp [heq, hmod]
  · rw [if_neg (not_le.mpr hgt)]
    exact intRes_alike (by simp only [not_lt.mpr hgt.le, if_false])

end

theorem arith_int {fmt : BitVec 4} (hk : fmt.toNat ≤ 5) (sat : BitVec 1) (rm : BitVec 2) (op : Int → Int → Int)
    (f : FFmt → Nat → FVal → FVal → Rounded) (a b : Nat) : arith fmt sat rm op f a b =
      ⟨reduceInt (isSignedCode fmt.toNat) (widthOf fmt.toNat) (sat == 1)
        (op (ival (isSignedCode fmt.toNat) (widthOf fmt.toNat) a) (ival (isSignedCode fmt.toNat) (widthOf fmt.toNat) b)), 0⟩ := by
  simp only [arith, isIntCode_of_le hk, if_true, intRes]

/-- The bits of `a` where `b` has none are those of `a` and of the complement of `b` in its width. -/
theorem xor_and_eq_and_complement {w a b : Nat} (ha : a < 2 ^ w) (hb : b < 2 ^ w) : a ^^^ (a &&& b) = a &&& (2 ^ w - 1 - b) := by
  apply Nat.eq_of_testBit_eq
  intro i
  have hcompl : 2 ^ w - 1 - b = 2 ^ w - (b + 1) := by omega
  rw [Nat.testBit_xor, Nat.testBit_and, Nat.testBit_and, hcompl, Nat.testBit_two_pow_sub_succ hb]
  by_cases hi : i < w
  · cases a.testBit i <;> cases b.testBit i <;> simp [hi]
  · have hzero : a.testBit i = false := Nat.testBit_lt_two_pow (ha.trans_le (Nat.pow_le_pow_right (by decide) (not_lt.mp hi)))
    simp [hzero]

/-- The leading zeros of a number in its width end at its highest one. -/
theorem leadingZeros_eq_log2 {w a : Nat} (ha : a < 2 ^ w) : leadingZeros w a = if a = 0 then w else w - 1 - a.log2 := by
  obtain ⟨hle, hzeros, hone⟩ := leadingZeros_spec w a
  split
  case isTrue hzero =>
    subst hzero
    by_contra hne
    exact absurd (hone (lt_of_le_of_ne hle hne)) (by simp)
  case isFalse hne =>
    have hlog : a.log2 < w := (Nat.log2_lt hne).mpr ha
    have htop : a.testBit a.log2 = true := Nat.testBit_log2 hne
    have hlt : leadingZeros w a < w := by
      by_contra hge
      have := hzeros (w - 1 - a.log2) (by omega)
      rw [show w - 1 - (w - 1 - a.log2) = a.log2 by omega, htop] at this
      exact absurd this (by decide)
    have hhigh : w - 1 - leadingZeros w a ≤ a.log2 := by
      by_contra hgt
      exact absurd (hone hlt) (by rw [Nat.testBit_lt_two_pow ((Nat.log2_lt hne).mp (not_le.mp hgt))]; decide)
    by_contra hneq
    have := hzeros (w - 1 - a.log2) (by omega)
    rw [show w - 1 - (w - 1 - a.log2) = a.log2 by omega, htop] at this
    exact absurd this (by decide)

/-! ## The integer syllables (R146, R148) -/

/-- A format-V syllable lands a result: it takes the state to one with the elements in flight. -/
def Lands (s : State) (h : Head) (x : FmtV) (unary : Bool) (i : Instr) (lat : Nat) (f : Nat → Nat → Rounded) : Prop :=
  ∃ t, exec i s = .next t ∧ VectorResult s t h x unary lat f

section
variable {s : State} {h : Head} {x : FmtV}

theorem Lands.of_plan {unary : Bool} {i : Instr} {lat : Nat} {f g : Nat → Nat → Rounded}
    (hi : exec i s = runPlan i (vecOp h x unary lat f s) s) (hr : VReady s h (vectorReads h x unary))
    (hfg : ∀ a b, a < 2 ^ widthOf x.fmt.toNat → b < 2 ^ widthOf x.fmt.toNat → (f a b).Alike (widthOf x.fmt.toNat) (g a b)) :
    Lands s h x unary i lat g := by
  rw [Lands, hi]
  exact exists_vectorResult hr hfg

theorem exec_vadd : exec (.vadd h x) s = runPlan (.vadd h x) (vecOp h x false (latIF x.fmt.toNat 2 4)
    (arith x.fmt x.sat x.rm (fun a b => a + b) fun f rm a b => f.addV rm a b) s) s := rfl

theorem exec_vsub : exec (.vsub h x) s = runPlan (.vsub h x) (vecOp h x false (latIF x.fmt.toNat 2 4)
    (arith x.fmt x.sat x.rm (fun a b => a - b) fun f rm a b => f.addV rm a b.neg) s) s := rfl

theorem exec_vmul : exec (.vmul h x) s = runPlan (.vmul h x) (vecOp h x false 4
    (arith x.fmt x.sat x.rm (fun a b => a * b) fun f rm a b => f.mulV rm a b) s) s := rfl

/-- The shifts, their amount taken modulo the width. -/
theorem lands_shifts (hr : VReady s h (vectorReads h x false)) :
    let w := widthOf x.fmt.toNat
    Lands s h x false (.vshl h x) 2 (fun a b => ⟨a * 2 ^ (b % w), 0⟩) ∧ Lands s h x false (.vshr h x) 2 (fun a b => ⟨a / 2 ^ (b % w), 0⟩) ∧
      Lands s h x false (.vsra h x) 2 (fun a b => ⟨wrapTo w (sval w a / 2 ^ (b % w)), 0⟩) := by
  refine ⟨.of_plan rfl hr fun a b _ _ => intRes_alike (Nat.mod_mod ..), .of_plan rfl hr fun a b _ _ => .refl _ _,
    .of_plan rfl hr fun a b _ _ => .of_eq ?_⟩
  simp only [intRes, shiftAmount, Nat.cast_pow, Nat.cast_ofNat]

theorem lands_logic (hr : VReady s h (vectorReads h x false)) :
    Lands s h x false (.vand h x) 2 (fun a b => ⟨a &&& b, 0⟩) ∧ Lands s h x false (.vor h x) 2 (fun a b => ⟨a ||| b, 0⟩) ∧
      Lands s h x false (.vxor h x) 2 (fun a b => ⟨a ^^^ b, 0⟩) ∧
      Lands s h x false (.vandn h x) 2 (fun a b => ⟨a &&& (2 ^ widthOf x.fmt.toNat - 1 - b), 0⟩) :=
  ⟨.of_plan rfl hr fun _ _ _ _ => .refl _ _, .of_plan rfl hr fun _ _ _ _ => .refl _ _, .of_plan rfl hr fun _ _ _ _ => .refl _ _,
    .of_plan rfl hr fun _ _ ha hb => intRes_alike (by rw [xor_and_eq_and_complement ha hb])⟩

theorem lands_counts (hr : VReady s h (vectorReads h x true)) :
    let w := widthOf x.fmt.toNat
    Lands s h x true (.vpopc h x) 2 (fun a _ => ⟨(List.range w).countP fun i => a.testBit i, 0⟩) ∧
      Lands s h x true (.vclz h x) 2 (fun a _ => ⟨if a = 0 then w else w - 1 - a.log2, 0⟩) :=
  ⟨.of_plan rfl hr fun _ _ _ _ => intRes_alike (by rw [popcount_eq_countP]),
    .of_plan rfl hr fun _ _ ha _ => intRes_alike (by rw [leadingZeros_eq_log2 ha])⟩

end

/-- Settles O20: each syllable's plan is `vecOp` of a function of two elements that lands like the one of R146 or R148. -/
theorem vectorIntegerResults : Obligations.VectorIntegerResults := by
  intro s h x hk
  have hint := isIntCode_of_le hk
  have hlat : latIF x.fmt.toNat 2 4 = 2 := by rw [latIF, if_pos hint]
  refine ⟨fun hr => ?two, fun hr => ?one⟩
  case two =>
    obtain ⟨hand, hor, hxor, handn⟩ := lands_logic hr
    obtain ⟨hshl, hshr, hsra⟩ := lands_shifts hr
    exact ⟨Lands.of_plan (hlat ▸ exec_vadd) hr fun a b _ _ => .of_eq (arith_int hk ..),
      Lands.of_plan (hlat ▸ exec_vsub) hr fun a b _ _ => .of_eq (arith_int hk ..),
      Lands.of_plan exec_vmul hr fun a b _ _ => .of_eq (arith_int hk ..),
      Lands.of_plan rfl hr fun a b _ _ => minMaxElem_int_alike hk false a b,
      Lands.of_plan rfl hr fun a b _ _ => minMaxElem_int_alike hk true a b, hand, hor, hxor, handn, hshl, hshr, hsra⟩
  case one =>
    obtain ⟨hpopc, hclz⟩ := lands_counts hr
    exact ⟨Lands.of_plan rfl hr fun a b _ _ => .of_eq (if_pos hint),
      Lands.of_plan rfl hr fun a b _ _ => .of_eq (if_pos hint), hpopc, hclz⟩

/-! ## The floating-point syllables (R147, R148, R150, R163, R164) -/

section
variable {k : Nat} (hk : 6 ≤ k)
include hk

theorem isIntCode_eq_false_of_le : isIntCode k = false := decide_eq_false (by omega)

theorem minMaxElem_float (max : Bool) (a b : Nat) : minMaxElem k max a b = (floatOf k).minMax max a b := by
  rw [minMaxElem, isIntCode_eq_false_of_le hk]
  rfl

end

theorem arith_float {fmt : BitVec 4} (hk : 6 ≤ fmt.toNat) (sat : BitVec 1) (rm : BitVec 2) (op : Int → Int → Int)
    (f : FFmt → Nat → FVal → FVal → Rounded) (a b : Nat) : arith fmt sat rm op f a b =
      f (floatOf fmt.toNat) rm.toNat ((floatOf fmt.toNat).decode a) ((floatOf fmt.toNat).decode b) := by
  simp only [arith, isIntCode_eq_false_of_le hk, Bool.false_eq_true, if_false]

/-- A sign operation gives the canonical NaN of a NaN, and else the encoding with the sign bit changed (R147). -/
theorem signOp_eq (k : Nat) (op : Bool → Bool) (a : Nat) :
    signOp k op a =
      let f := floatOf k
      if (f.decode a).isNan then ⟨f.nan, snanFlag (f.decode a)⟩
      else ⟨(if op (a.testBit (f.width - 1)) then 2 ^ (f.width - 1) else 0) + a % 2 ^ (f.width - 1), 0⟩ := by
  have hsign (f : FFmt) (neg : Bool) (e : Nat) : f.sign neg e = (if neg then 2 ^ (f.width - 1) else 0) + e := by
    have hwidth : f.width - 1 = f.ew + f.mw := by rw [FFmt.width]; omega
    rw [FFmt.sign, hwidth]
    cases neg <;> simp [Nat.add_comm]
  simp only [signOp]
  cases hd : (floatOf k).decode a with
  | nan s => cases s <;> rfl
  | inf n => simp only [FVal.isNan, Bool.false_eq_true, if_false, hsign, intRes]
  | num n m e => simp only [FVal.isNan, Bool.false_eq_true, if_false, hsign, intRes]

section
variable {s : State} {h : Head} {x : FmtV}

theorem lands_transcendentals (hr : VReady s h (vectorReads h x true)) :
    let f := floatOf x.fmt.toNat
    let rm := x.rm.toNat
    Lands s h x true (.vexp2 h x) 10 (fun a _ => f.transc .exp2 rm a) ∧ Lands s h x true (.vlog2 h x) 10 (fun a _ => f.transc .log2 rm a) ∧
      Lands s h x true (.vrcp h x) 10 (fun a _ => f.transc .rcp rm a) ∧ Lands s h x true (.vrsq h x) 10 (fun a _ => f.transc .rsq rm a) ∧
      Lands s h x true (.vtanh h x) 10 (fun a _ => f.transc .tanh rm a) :=
  ⟨.of_plan rfl hr fun _ _ _ _ => .refl _ _, .of_plan rfl hr fun _ _ _ _ => .refl _ _, .of_plan rfl hr fun _ _ _ _ => .refl _ _,
    .of_plan rfl hr fun _ _ _ _ => .refl _ _, .of_plan rfl hr fun _ _ _ _ => .refl _ _⟩

theorem exec_vabs : exec (.vabs h x) s = runPlan (.vabs h x) (vecOp h x true 2 (fun a _ =>
    if isIntCode x.fmt.toNat then intRes (reduceInt (isSignedCode x.fmt.toNat) (widthOf x.fmt.toNat) (x.sat == 1)
      ((ival (isSignedCode x.fmt.toNat) (widthOf x.fmt.toNat) a).natAbs : Nat))
    else signOp x.fmt.toNat (fun _ => false) a) s) s := rfl

theorem exec_vneg : exec (.vneg h x) s = runPlan (.vneg h x) (vecOp h x true 2 (fun a _ =>
    if isIntCode x.fmt.toNat then intRes (reduceInt (isSignedCode x.fmt.toNat) (widthOf x.fmt.toNat) (x.sat == 1)
      (-(ival (isSignedCode x.fmt.toNat) (widthOf x.fmt.toNat) a)))
    else signOp x.fmt.toNat (fun n => !n) a) s) s := rfl

end

/-- Settles O21: each syllable's plan is `vecOp` of the rounded function of R147, R148 or R163, or the fused one of R150. -/
theorem vectorFloatResults : Obligations.VectorFloatResults := by
  refine ⟨fun s h x hk _ => ?elements, fun s h x _ _ => ?fused⟩
  case elements =>
    have hfloat := isIntCode_eq_false_of_le hk
    have hlat : latIF x.fmt.toNat 2 4 = 4 := by rw [latIF, hfloat]; rfl
    have hsign (v : Nat) (op : Bool → Bool) (a : Nat) : (if isIntCode x.fmt.toNat then intRes v else signOp x.fmt.toNat op a) =
        signOp x.fmt.toNat op a := by rw [hfloat]; rfl
    refine ⟨fun hr => ?two, fun hr => ?one⟩
    case two =>
      exact ⟨Lands.of_plan (hlat ▸ exec_vadd) hr fun a b _ _ => .of_eq (arith_float hk ..),
        Lands.of_plan (hlat ▸ exec_vsub) hr fun a b _ _ => .of_eq (arith_float hk ..),
        Lands.of_plan exec_vmul hr fun a b _ _ => .of_eq (arith_float hk ..),
        Lands.of_plan rfl hr fun a b _ _ => .of_eq (minMaxElem_float hk false a b),
        Lands.of_plan rfl hr fun a b _ _ => .of_eq (minMaxElem_float hk true a b)⟩
    case one =>
      exact ⟨Lands.of_plan exec_vabs hr fun a b _ _ => .of_eq ((hsign ..).trans (signOp_eq ..)),
        Lands.of_plan exec_vneg hr fun a b _ _ => .of_eq ((hsign ..).trans (signOp_eq ..)), lands_transcendentals hr⟩
  case fused =>
    intro c f w regs at_ fused hr
    exact ⟨exists_fusedResult (neg1 := false) (neg2 := false) hr fun _ => rfl,
      exists_fusedResult (neg1 := false) (neg2 := true) hr fun _ => rfl,
      exists_fusedResult (neg1 := true) (neg2 := false) hr fun _ => rfl⟩

/-! ## The immediate forms (R151) -/

/-- VLI loads the immediate, in `.F32` as the upper half of the encoding. -/
theorem liValue_eq (x : FmtJ) : liValue x =
    if x.fmt.toNat ≤ 5 then wrapTo (widthOf x.fmt.toNat) x.imm.toInt else if x.fmt.toNat = 6 then x.imm.toNat * 2 ^ 16 else x.imm.toNat := by
  have hsix : (x.fmt = 6) = (x.fmt.toNat = 6) := by
    rw [← BitVec.toNat_inj]; rfl
  simp only [liValue, isIntCode, decide_eq_true_eq, immBits, hsix]

/-- Settles O22: each syllable's plan is `vecImm` of a function of an element that lands like the one of R151. -/
theorem vectorImmediateResults : Obligations.VectorImmediateResults := by
  intro s h x k w i n lands
  refine ⟨fun hr => ⟨?addi, ?andi, ?shli, ?shri, ?srai⟩, fun hr => ?li⟩
  case addi => exact exists_immediateResult hr fun a => intRes_alike (Nat.mod_mod ..)
  case andi => exact exists_immediateResult hr fun a => .refl _ _
  case shli => exact exists_immediateResult hr fun a => intRes_alike (Nat.mod_mod ..)
  case shri => exact exists_immediateResult hr fun a => .refl _ _
  case srai => exact exists_immediateResult hr fun a => .of_eq (by simp only [intRes, Nat.cast_pow, Nat.cast_ofNat, w, k, n])
  case li =>
    obtain ⟨t, ht, hlands⟩ := exists_landsElems (i := .vli h x) hr (Nat.mul_div_le _ _)
    exact ⟨t, ht, hlands.congr fun _ _ => ⟨rfl, fun _ => .of_eq (congrArg intRes (liValue_eq x))⟩⟩

/-! ## Conversions (R155 to R158) -/

section
variable {ws wd part i : Nat}

/-- Which elements a conversion writes, and from which lanes (R155). -/
theorem cvtIndex_enabled (p : Mask) : (match cvtIndex ws wd part i with
      | some j => lanes p (Nat.max ws wd) j
      | none => false) =
    if wd < ws then
      decide (part * (4096 / Nat.max ws wd) ≤ i) && decide (i < part * (4096 / Nat.max ws wd) + 4096 / Nat.max ws wd) &&
        lanes p ws (i - part * (4096 / Nat.max ws wd))
    else decide (i < 4096 / Nat.max ws wd) && lanes p wd i := by
  unfold cvtIndex
  by_cases hw : wd < ws
  · have hmax : Nat.max ws wd = ws := Nat.max_eq_left hw.le
    simp only [gt_iff_lt, hw, if_true, hmax]
    by_cases hlo : part * (4096 / ws) ≤ i
    · by_cases hhi : i < part * (4096 / ws) + 4096 / ws <;> simp [hlo, hhi]
    · simp [hlo]
  · have hmax : Nat.max ws wd = wd := Nat.max_eq_right (not_lt.mp hw)
    simp only [gt_iff_lt, hw, if_false, hmax]
    by_cases hi : i < 4096 / wd <;> simp [hi]

/-- The source element of an element that a conversion writes (R155). -/
theorem cvtIndex_source {j : Nat} (hj : cvtIndex ws wd part i = some j) :
    (if ws < wd then part * (4096 / Nat.max ws wd) + j else j) =
      if wd < ws then i - part * (4096 / Nat.max ws wd) else if ws < wd then part * (4096 / Nat.max ws wd) + i else i := by
  unfold cvtIndex at hj
  by_cases hw : wd < ws
  · simp only [gt_iff_lt, hw, if_true] at hj
    split at hj
    · rw [if_neg (by omega), if_pos hw, Option.some.inj hj]
    · exact absurd hj.symm (Option.some_ne_none j)
  · simp only [gt_iff_lt, hw, if_false] at hj
    split at hj
    · rw [if_neg hw, Option.some.inj hj]
    · exact absurd hj.symm (Option.some_ne_none j)

end

theorem codeBits_fit (k : Nat) : codeBytes k * 8 * (128 / blockElems k) ≤ 4096 := by
  unfold codeBytes blockElems
  split <;> split <;> decide

theorem headerBits_fit (k : Nat) : 16 * (128 / blockElems k) ≤ 4096 := by
  unfold blockElems
  split <;> decide

section
variable {k n b : Nat} {need : Nat → Bool} {hdr : Nat → Nat}

/-- No block that is needed has a bad header. -/
theorem badHeader_eq_none (h : ∀ b < n, need b = true → headerOk k (hdr b) = true) : badHeader k need hdr n = none := by
  have hnone : (List.range n).find? (fun b => need b && !headerOk k (hdr b)) = none := by
    rw [List.find?_eq_none]
    intro b hb
    cases hneed : need b
    · exact Bool.false_ne_true
    · rw [h b (List.mem_range.mp hb) hneed]; exact Bool.false_ne_true
  rw [badHeader, hnone]

/-- The lowest block that is needed and has a bad header is the one reported (R63). -/
theorem badHeader_eq_some (hb : b < n) (hneed : need b = true) (hbad : headerOk k (hdr b) = false)
    (hbefore : ∀ b' < b, need b' = true → headerOk k (hdr b') = true) : badHeader k need hdr n = some (selectorCheck b (hdr b)) := by
  have hfind : (List.range n).find? (fun b => need b && !headerOk k (hdr b)) = some b := by
    rw [List.find?_range_eq_some]
    refine ⟨by simp [hneed, hbad], List.mem_range.mpr hb, fun b' hb' => ?_⟩
    cases hneed' : need b'
    · rfl
    · rw [hbefore b' hb' hneed']; rfl
  rw [badHeader, hfind]

end

section
variable {i : Instr} {h : Head} {s : State} {reads : List ReadUnit} {k : Option Check}

/-- A V syllable that is ready and whose own check passes lands the elements that its plan computes. -/
theorem exists_landsElems_of {lat vd w n : Nat} {en : Nat → Bool} {f : Nat → Rounded} (hr : VReady s h reads) (hk : k = none)
    (hfit : w * n ≤ 4096) : ∃ t, runPlan i (vPlan h reads k fun s => landElems s (slotNum h.slot) lat vd w n en f) s = .next t ∧
      LandsElems s t (slotNum h.slot) lat vd w n en f :=
  hk ▸ exists_landsElems hr hfit

/-- A V syllable that is ready and whose own check is a selector corruption stops with it (R63, R344). -/
theorem runPlan_vReady_selector {run : State → State} {b hd : Nat} (hr : VReady s h reads) (hk : k = some (selectorCheck b hd)) :
    runPlan i (vPlan h reads k run) s = .next (stepFault s (slotNum h.slot) 10 b (BitVec.ofNat 64 hd) 0) := by
  subst hk
  exact runPlan_vReady_check hr

end

/-- Settles O24: a conversion and a decoding land elements that `landElems` puts in flight, VQUANT packs codes and headers, and the
first bad header is the one that `find?` gives. -/
theorem vectorConversions : Obligations.VectorConversions := by
  refine ⟨⟨fun s h x hr => ?vcvt, fun s h x _ _ hr => ?vquant, fun s h x hr => ⟨fun hok => ?vdeq, ?vdeqBad⟩⟩,
    fun s h x hr => ⟨?vlscv, ?vlsout⟩, fun s h x hr => exists_landsElems hr (by decide)⟩
  case vcvt =>
    obtain ⟨t, ht, hlands⟩ := exists_landsElems (i := .vcvt h x) hr (Nat.mul_div_le _ _)
    refine ⟨t, ht, hlands.congr fun i _ => ⟨cvtIndex_enabled _, fun hen => .of_eq ?_⟩⟩
    split at hen
    case h_1 j hj =>
      simp only [hj, Option.getD_some]
      rw [cvtIndex_source hj]
    case h_2 => exact absurd hen (by decide)
  case vquant =>
    exact ⟨_, _, _, _, runPlan_vReady hr, fun b hb =>
      ⟨elem_ofNat_packNat (codeBits_fit _) hb _, elem_ofNat_packNat_enable (codeBits_fit _) hb _,
        elem_ofNat_packNat (headerBits_fit _) hb _, elem_ofNat_packNat_enable (headerBits_fit _) hb _⟩⟩
  case vdeq =>
    exact exists_landsElems_of hr (badHeader_eq_none hok) (Nat.mul_div_le _ _)
  case vdeqBad =>
    intro b hb hneed hbad hbefore
    exact runPlan_vReady_selector hr (badHeader_eq_some hb hneed hbad hbefore)
  case vlscv => exact exists_landsElems hr (by decide)
  case vlsout => exact exists_landsElems hr ((Nat.mul_le_mul_right 32 (widthOf_le _)).trans (by decide))

/-! ## Reductions (R159) -/

/-- A list covers another: it holds only elements of it, and one at least as high as each by `key`. -/
def Covers {α : Type} (key : α → Int) (q q' : List α) : Prop :=
  (∀ a ∈ q', a ∈ q) ∧ ∀ a ∈ q, ∃ b ∈ q', key a ≤ key b

theorem Covers.refl {α : Type} (key : α → Int) (q : List α) : Covers key q q := ⟨fun _ h => h, fun a h => ⟨a, h, le_refl _⟩⟩

theorem Covers.trans {α : Type} {key : α → Int} {p q r : List α} (h1 : Covers key p q) (h2 : Covers key q r) : Covers key p r := by
  refine ⟨fun a ha => h1.1 a (h2.1 a ha), fun a ha => ?_⟩
  obtain ⟨b, hb, hab⟩ := h1.2 a ha
  obtain ⟨c, hc, hbc⟩ := h2.2 b hb
  exact ⟨c, hc, hab.trans hbc⟩

/-- A step of a reduction gives one of its two operands, the one that is highest by `key`. -/
def Picks {α : Type} (key : α → Int) (f : α → α → α) (q : List α) : Prop :=
  ∀ a ∈ q, ∀ b ∈ q, (f a b = a ∨ f a b = b) ∧ key a ≤ key (f a b) ∧ key b ≤ key (f a b)

section
variable {α : Type} {key : α → Int} {f : α → α → α}

theorem length_pairUp {q : List α} {n : Nat} (hq : q.length = 2 * n) : (pairUp f n q).length = n := by
  simp [pairUp, hq]
  omega

/-- The lower half of a list combined with its upper half covers the list. -/
theorem covers_pairUp {q : List α} {n : Nat} (hf : Picks key f q) (hq : q.length = 2 * n) : Covers key q (pairUp f n q) := by
  have hlen := length_pairUp (f := f) hq
  have hget {i : Nat} (hi : i < n) : (pairUp f n q)[i]'(by omega) = f (q[i]'(by omega)) (q[n + i]'(by omega)) := by
    simp [pairUp]
  refine ⟨fun a ha => ?_, fun a ha => ?_⟩
  · obtain ⟨i, hi, rfl⟩ := List.getElem_of_mem ha
    rw [hget (by omega)]
    rcases (hf _ (List.getElem_mem (n := i) (by omega)) _ (List.getElem_mem (n := n + i) (by omega))).1 with h | h
    · rw [h]; exact List.getElem_mem _
    · rw [h]; exact List.getElem_mem _
  · obtain ⟨i, hi, rfl⟩ := List.getElem_of_mem ha
    by_cases hlow : i < n
    · obtain ⟨-, hkey, -⟩ := hf _ (List.getElem_mem (n := i) hi) _ (List.getElem_mem (n := n + i) (by omega))
      exact ⟨_, List.getElem_mem (n := i) (by omega), by rw [hget hlow]; exact hkey⟩
    · obtain ⟨-, -, hkey⟩ := hf _ (List.getElem_mem (n := i - n) (by omega)) _ (List.getElem_mem (n := n + (i - n)) (by omega))
      refine ⟨_, List.getElem_mem (n := i - n) (by omega), ?_⟩
      rw [hget (by omega)]
      simpa only [Nat.add_sub_cancel' (not_lt.mp hlow)] using hkey

/-- The tree of strides over a power of two elements leaves one, which covers them all. -/
theorem pairTree_covers (fuel m : Nat) (hm : m ≤ fuel) {q : List α} (hf : Picks key f q) (hq : q.length = 2 ^ m) :
    ∃ r, pairTree f (strides fuel (2 ^ m)) q = [r] ∧ Covers key q [r] := by
  induction m generalizing fuel q with
  | zero =>
    obtain ⟨r, rfl⟩ := List.length_eq_one_iff.mp hq
    have hstrides : strides fuel (2 ^ 0) = [] := by cases fuel <;> rfl
    exact ⟨r, by rw [hstrides]; rfl, Covers.refl _ _⟩
  | succ m ih =>
    obtain ⟨fuel, rfl⟩ := Nat.exists_eq_add_of_lt (Nat.lt_of_lt_of_le (Nat.succ_pos m) hm)
    have hhalf : 2 ^ (m + 1) / 2 = 2 ^ m := by rw [Nat.pow_succ, Nat.mul_div_cancel _ (by decide)]
    have htwo : ¬ 2 ^ (m + 1) ≤ 1 := not_le.mpr (Nat.one_lt_two_pow (Nat.succ_ne_zero m))
    have hstrides : strides (0 + fuel + 1) (2 ^ (m + 1)) = 2 ^ m :: strides (0 + fuel) (2 ^ m) := by
      rw [strides, if_neg htwo, hhalf]
    have hq2 : q.length = 2 * 2 ^ m := by rw [hq, Nat.pow_succ, Nat.mul_comm]
    have hup := covers_pairUp hf hq2
    obtain ⟨r, hr, hcov⟩ := ih (0 + fuel) (by omega) (q := pairUp f (2 ^ m) q)
      (fun a ha b hb => hf a (hup.1 a ha) b (hup.1 b hb)) (length_pairUp hq2)
    exact ⟨r, by rw [hstrides, pairTree, hr], hup.trans hcov⟩

end

theorem elements_eq_two_pow (k : Nat) : ∃ m ≤ 10, 4096 / widthOf k = 2 ^ m := by
  unfold widthOf
  split
  case h_9 => exact ⟨7, by decide⟩
  case h_1 | h_3 | h_5 | h_6 => exact ⟨8, by decide⟩
  all_goals exact ⟨9, by decide⟩

theorem widthOf_pos (k : Nat) : 0 < widthOf k := by
  unfold widthOf
  split <;> decide

/-- An integer of a format is the one that its encoding stands for. -/
theorem ival_wrapTo {sg : Bool} {w : Nat} (hw : 0 < w) {x : Int} (hlo : intMin sg w ≤ x) (hhi : x ≤ intMax sg w) :
    ival sg w (wrapTo w x) = x := by
  obtain ⟨w, rfl⟩ := Nat.exists_eq_add_of_lt hw
  have hpow : (2 ^ (0 + w + 1) : Nat) = 2 * 2 ^ w := by rw [Nat.zero_add, Nat.pow_succ, Nat.mul_comm]
  have hpos : 0 < 2 ^ w := Nat.two_pow_pos w
  have hsub : 0 + w + 1 - 1 = w := by omega
  have hmod : ((wrapTo (0 + w + 1) x : Nat) : Int) = x % (2 * 2 ^ w : Nat) := by
    rw [wrapTo, hpow, Int.toNat_of_nonneg (Int.emod_nonneg _ (by omega))]
  have hlt : wrapTo (0 + w + 1) x < 2 ^ (0 + w + 1) := by
    have := Int.emod_lt_of_pos x (show (0 : Int) < (2 * 2 ^ w : Nat) by omega)
    omega
  cases sg
  · simp only [intMin, intMax, Bool.false_eq_true, if_false] at hlo hhi
    rw [ival, if_neg Bool.false_ne_true, Nat.mod_eq_of_lt hlt, hmod, Int.emod_eq_of_lt hlo (by omega)]
  · simp only [intMin, intMax, if_true, hsub] at hlo hhi
    simp only [ival, if_true, sval, Nat.mod_eq_of_lt hlt, hsub]
    rcases le_or_gt 0 x with hx | hx
    · rw [Int.emod_eq_of_lt hx (by omega)] at hmod
      split <;> omega
    · have hneg : x % (2 * 2 ^ w : Nat) = x + (2 * 2 ^ w : Nat) := by
        rw [← Int.add_emod_right, Int.emod_eq_of_lt (by omega) (by omega)]
      rw [hneg] at hmod
      split <;> omega

/-- The inputs of a reduction: the elements that the predicate selects, the identity in the place of the others (R159). -/
def reduceInputs (c : Core) (h : Head) (x : FmtV) (identity : Nat) : List Rounded :=
  (List.range (4096 / widthOf x.fmt.toNat)).map fun k =>
    intRes (if lanes (maskPred c h.prd h.pn) (widthOf x.fmt.toNat) k then
      elem (widthOf x.fmt.toNat) (c.vGet (stepReg h x.va.toNat)) k else identity)

/-- A step of a reduction, which keeps the flags of every step (R159). -/
def reduceStep (combine : Nat → Nat → Rounded) (a b : Rounded) : Rounded :=
  ⟨(combine a.enc b.enc).enc, (combine a.enc b.enc).flags ||| a.flags ||| b.flags⟩

/-- The result of the tree of a reduction (R159). -/
def reduceTree (c : Core) (h : Head) (x : FmtV) (identity : Nat) (combine : Nat → Nat → Rounded) : Rounded :=
  (pairTree (reduceStep combine) (strides 10 (4096 / widthOf x.fmt.toNat)) (reduceInputs c h x identity)).headD (intRes identity)

/-- The selected elements of a reduction. -/
def reduceOn (c : Core) (h : Head) (x : FmtV) : List Nat :=
  (List.range (4096 / widthOf x.fmt.toNat)).filter (lanes (maskPred c h.prd h.pn) (widthOf x.fmt.toNat))

section
variable {i : Instr} {h : Head} {s : State} {x : FmtV} {identity : Nat} {combine : Nat → Nat → Rounded}
  {fin : List Nat → Rounded → Rounded}

/-- A reduction that is ready lands its result in every element, with its flags. -/
theorem exists_reduced {r : Rounded} (hi : exec i s = runPlan i (reduceOp h x identity combine fin s) s) (hr : VReady s h [rV (stepReg h x.va.toNat)])
    (hfin : fin ((reduceOn s.curCore h x).map fun k => elem (widthOf x.fmt.toNat) (s.curCore.vGet (stepReg h x.va.toNat)) k)
      (reduceTree s.curCore h x identity combine) = r) :
    ∃ v : Vec, exec i s =
        .next (landFlags (land s (slotNum h.slot) (6 + crossing h.slot [stepReg h x.vd.toNat, stepReg h x.va.toNat])
          (.vReg (stepReg h x.vd.toNat) v (full 4096))) (slotNum h.slot)
          (6 + crossing h.slot [stepReg h x.vd.toNat, stepReg h x.va.toNat]) r.flags) ∧
      ∀ j < 4096 / widthOf x.fmt.toNat, elem (widthOf x.fmt.toNat) v j = r.enc % 2 ^ widthOf x.fmt.toNat := by
  subst hfin
  exact ⟨_, hi.trans <| runPlan_vReady hr, fun j hj => elem_ofNat_packNat (Nat.mul_div_le _ _) hj _⟩

/-- A reduction that sets no flags lands its result in every element. -/
theorem exists_reduced_int {e : Nat} (hi : exec i s = runPlan i (reduceOp h x identity combine fin s) s) (hr : VReady s h [rV (stepReg h x.va.toNat)])
    (hfin : fin ((reduceOn s.curCore h x).map fun k => elem (widthOf x.fmt.toNat) (s.curCore.vGet (stepReg h x.va.toNat)) k)
      (reduceTree s.curCore h x identity combine) = ⟨e, 0⟩) :
    ∃ v : Vec, exec i s =
        .next (land s (slotNum h.slot) (6 + crossing h.slot [stepReg h x.vd.toNat, stepReg h x.va.toNat])
          (.vReg (stepReg h x.vd.toNat) v (full 4096))) ∧
      ∀ j < 4096 / widthOf x.fmt.toNat, elem (widthOf x.fmt.toNat) v j = e % 2 ^ widthOf x.fmt.toNat :=
  exists_reduced hi hr hfin

end

/-- What the extreme of a reduction is the highest by: the value of an element, or its negative for a minimum. -/
def extremeKey (k : Nat) (max : Bool) (r : Rounded) : Int :=
  if max then ival (isSignedCode k) (widthOf k) r.enc else -ival (isSignedCode k) (widthOf k) r.enc

theorem picks_minMaxElem {k : Nat} (hk : k ≤ 5) (max : Bool) {q : List Rounded} (hq : ∀ r ∈ q, r.flags = 0) :
    Picks (extremeKey k max) (reduceStep (minMaxElem k max)) q := by
  intro a ha b hb
  obtain ⟨ea, fa⟩ := a
  obtain ⟨eb, fb⟩ := b
  obtain rfl : fa = 0 := hq _ ha
  obtain rfl : fb = 0 := hq _ hb
  simp only [reduceStep, minMaxElem, isIntCode_of_le hk, if_true, intRes, extremeKey]
  cases max <;> split <;> simp <;> omega

section
variable {s : State} {h : Head} {x : FmtV} (hk : x.fmt.toNat ≤ 5)
include hk

theorem isSignedCode_reduceIdentity (max : Bool) : ival (isSignedCode x.fmt.toNat) (widthOf x.fmt.toNat) (reduceIdentity x.fmt.toNat max) =
    if max then intMin (isSignedCode x.fmt.toNat) (widthOf x.fmt.toNat) else intMax (isSignedCode x.fmt.toNat) (widthOf x.fmt.toNat) := by
  have hle : intMin (isSignedCode x.fmt.toNat) (widthOf x.fmt.toNat) ≤ intMax (isSignedCode x.fmt.toNat) (widthOf x.fmt.toNat) := by
    have h1 := Nat.two_pow_pos (widthOf x.fmt.toNat - 1)
    have h2 := Nat.two_pow_pos (widthOf x.fmt.toNat)
    unfold intMin intMax
    split <;> omega
  rw [reduceIdentity, if_pos (isIntCode_of_le hk)]
  cases max
  · exact ival_wrapTo (widthOf_pos _) hle (le_refl _)
  · exact ival_wrapTo (widthOf_pos _) (le_refl _) hle

/-- The tree of a maximum or minimum gives an input that no input exceeds. -/
theorem reduceTree_extreme (c : Core) (max : Bool) (identity : Nat) :
    ∃ r ∈ reduceInputs c h x identity, reduceTree c h x identity (minMaxElem x.fmt.toNat max) = r ∧
      ∀ a ∈ reduceInputs c h x identity, extremeKey x.fmt.toNat max a ≤ extremeKey x.fmt.toNat max r := by
  obtain ⟨m, hm, hn⟩ := elements_eq_two_pow x.fmt.toNat
  have hflags : ∀ r ∈ reduceInputs c h x identity, r.flags = 0 := by
    intro r hr
    obtain ⟨j, -, rfl⟩ := List.mem_map.mp hr
    rfl
  obtain ⟨r, htree, hmem, htop⟩ := pairTree_covers 10 m hm (picks_minMaxElem hk max hflags)
    (show (reduceInputs c h x identity).length = 2 ^ m by rw [reduceInputs, List.length_map, List.length_range, hn])
  refine ⟨r, hmem r (List.mem_singleton_self r), by rw [reduceTree, hn, htree]; rfl, fun a ha => ?_⟩
  obtain ⟨b, hb, hle⟩ := htop a ha
  rwa [List.mem_singleton.mp hb] at hle

end

theorem allNan_int {k : Nat} (hk : k ≤ 5) (on : List Nat) (r : Rounded) : allNan k on r = r := by
  rw [allNan, isIntCode_of_le hk]
  rfl

/-- In floating point the canonical NaN stands for the result where every selected element is a NaN. -/
theorem allNan_float {k : Nat} (hk : 6 ≤ k) (c : Core) (h : Head) (x : FmtV) (a : Nat → Nat) (r : Rounded) :
    allNan k ((reduceOn c h x).map a) r = ⟨if reduceOn c h x ≠ [] ∧ ∀ i ∈ reduceOn c h x,
      ((floatOf k).decode (a i)).isNan = true then (floatOf k).nan else r.enc, r.flags⟩ := by
  rw [allNan, isIntCode_eq_false_of_le hk]
  cases hon : reduceOn c h x with
  | nil => rfl
  | cons j on =>
    simp only [Bool.not_false, Bool.true_and, List.map_cons, List.isEmpty_cons, List.all_eq_true, ne_eq, reduceCtorEq, not_false_eq_true,
      true_and, List.all_cons, Bool.and_eq_true, List.forall_mem_cons, List.mem_map, forall_exists_index, and_imp,
      forall_apply_eq_imp_iff₂]
    split <;> rfl

section
variable {s : State} {h : Head} {x : FmtV}

theorem exec_vrsum : exec (.vrsum h x) s = runPlan (.vrsum h x) (reduceOp h x 0
    (fun a b => if isIntCode x.fmt.toNat then intRes 0
      else (floatOf x.fmt.toNat).addV x.rm.toNat ((floatOf x.fmt.toNat).decode a) ((floatOf x.fmt.toNat).decode b))
    (fun on r => if isIntCode x.fmt.toNat then intRes (reduceInt (isSignedCode x.fmt.toNat) (widthOf x.fmt.toNat) (x.sat == 1)
        (on.foldl (fun acc a => acc + ival (isSignedCode x.fmt.toNat) (widthOf x.fmt.toNat) a) 0))
      else r) s) s := rfl

theorem exec_vrmax : exec (.vrmax h x) s = runPlan (.vrmax h x) (reduceOp h x (reduceIdentity x.fmt.toNat true)
    (minMaxElem x.fmt.toNat true) (allNan x.fmt.toNat) s) s := rfl

theorem exec_vrmin : exec (.vrmin h x) s = runPlan (.vrmin h x) (reduceOp h x (reduceIdentity x.fmt.toNat false)
    (minMaxElem x.fmt.toNat false) (allNan x.fmt.toNat) s) s := rfl

end

section
variable {s : State} {h : Head} {x : FmtV} (hk : x.fmt.toNat ≤ 5) (hr : VReady s h [rV (stepReg h x.va.toNat)])
include hk hr

/-- VRMAX and VRMIN of integers land an input that no enabled element exceeds: an enabled element, or the identity. -/
theorem exists_reduced_extreme {i : Instr} {max : Bool} (hi : exec i s = runPlan i (reduceOp h x (reduceIdentity x.fmt.toNat max)
      (minMaxElem x.fmt.toNat max) (allNan x.fmt.toNat) s) s) :
    let val := fun e => ival (isSignedCode x.fmt.toNat) (widthOf x.fmt.toNat) e
    let a := fun j => elem (widthOf x.fmt.toNat) (s.curCore.vGet (stepReg h x.va.toNat)) j
    let on := fun j => lanes (maskPred s.curCore h.prd h.pn) (widthOf x.fmt.toNat) j
    ∃ e, (∃ v : Vec, exec i s =
        .next (land s (slotNum h.slot) (6 + crossing h.slot [stepReg h x.vd.toNat, stepReg h x.va.toNat])
          (.vReg (stepReg h x.vd.toNat) v (full 4096))) ∧
        ∀ j < 4096 / widthOf x.fmt.toNat, elem (widthOf x.fmt.toNat) v j = e % 2 ^ widthOf x.fmt.toNat) ∧
      (∀ j < 4096 / widthOf x.fmt.toNat, on j = true → if max then val (a j) ≤ val e else val e ≤ val (a j)) ∧
      (val e = (if max then intMin (isSignedCode x.fmt.toNat) (widthOf x.fmt.toNat)
          else intMax (isSignedCode x.fmt.toNat) (widthOf x.fmt.toNat)) ∨
        ∃ j < 4096 / widthOf x.fmt.toNat, on j = true ∧ e = a j) := by
  intro val a on
  obtain ⟨r, hmem, htree, htop⟩ := reduceTree_extreme hk s.curCore (h := h) max (reduceIdentity x.fmt.toNat max)
  obtain ⟨j, hj, rfl⟩ := List.mem_map.mp hmem
  refine ⟨_, exists_reduced_int hi hr (by rw [allNan_int hk, htree]; rfl), fun k hklt hon => ?_, ?_⟩
  · have hle := htop _ (List.mem_map_of_mem (List.mem_range.mpr hklt))
    have hlane : lanes (maskPred s.curCore h.prd h.pn) (widthOf x.fmt.toNat) k = true := hon
    rw [if_pos hlane] at hle
    cases max
    · exact neg_le_neg_iff.mp hle
    · exact hle
  · cases hon : lanes (maskPred s.curCore h.prd h.pn) (widthOf x.fmt.toNat) j
    · exact .inl (isSignedCode_reduceIdentity hk max)
    · exact .inr ⟨j, List.mem_range.mp hj, hon, rfl⟩

/-- VRSUM of integers lands the sum of the enabled elements, reduced once. -/
theorem exists_reduced_sum : ∃ v : Vec, exec (.vrsum h x) s =
      .next (land s (slotNum h.slot) (6 + crossing h.slot [stepReg h x.vd.toNat, stepReg h x.va.toNat])
        (.vReg (stepReg h x.vd.toNat) v (full 4096))) ∧
    ∀ j < 4096 / widthOf x.fmt.toNat, elem (widthOf x.fmt.toNat) v j =
      reduceInt (isSignedCode x.fmt.toNat) (widthOf x.fmt.toNat) (x.sat == 1) ((reduceOn s.curCore h x).map fun j =>
        ival (isSignedCode x.fmt.toNat) (widthOf x.fmt.toNat)
          (elem (widthOf x.fmt.toNat) (s.curCore.vGet (stepReg h x.va.toNat)) j)).sum % 2 ^ widthOf x.fmt.toNat := by
  refine exists_reduced_int exec_vrsum hr ?_
  rw [isIntCode_of_le hk, if_pos rfl, List.foldl_map, List.sum_eq_foldl, List.foldl_map]
  rfl

end

/-- Settles O25: each syllable's plan is `reduceOp`, whose integer sum is the sum of a list, whose integer extreme is the input that
`pairTree_covers` gives, and whose floating-point tree is the one of R159. -/
theorem reductions : Obligations.Reductions := by
  intro s h x hr
  refine ⟨fun hk => ⟨exists_reduced_sum hk hr, ?max, ?min⟩, fun hk _ => ⟨?fsum, ?fmax, ?fmin⟩⟩
  case max => exact exists_reduced_extreme hk hr exec_vrmax
  case min => exact exists_reduced_extreme hk hr exec_vrmin
  case fsum =>
    refine exists_reduced exec_vrsum hr ?_
    rw [isIntCode_eq_false_of_le hk]
    rfl
  case fmax =>
    refine exists_reduced exec_vrmax hr ?_
    rw [allNan_float hk, funext₂ (minMaxElem_float hk true), reduceIdentity, isIntCode_eq_false_of_le hk]
    rfl
  case fmin =>
    refine exists_reduced exec_vrmin hr ?_
    rw [allNan_float hk, funext₂ (minMaxElem_float hk false), reduceIdentity, isIntCode_eq_false_of_le hk]
    rfl

end Sys2Proof.Machine
end

section
/-!
PROOFS. Steps that only make traffic, and how a core takes its reference cycle.
-/
namespace Sys2Proof.Machine

/-! ## Steps that only make traffic (R249, R270, R271) -/

/-- A state with the traffic of another: the steps that are due, accesses, messages, link queues and requests, launches, functions,
cores and the counters of numbers and draws. -/
def State.withTraffic (s t : State) : State :=
  { s with
    agenda := t.agenda, accesses := t.accesses, messages := t.messages, links := t.links, remotes := t.remotes
    launches := t.launches, funcs := t.funcs, cores := t.cores, nextId := t.nextId, fresh := t.fresh }

/-- A core with the traffic of another: its draws and the faults that it has met. -/
def Core.withTraffic (c d : Core) : Core := { c with drawn := d.drawn, elFault := d.elFault }

/-- A step makes traffic only: it keeps memory, the registers of every core, the time, the steps that are due, and all that `withTraffic`
does not name. -/
structure Traffic (s t : State) : Prop where
  state : t = s.withTraffic t
  core : ∀ g, t.core g = (s.core g).withTraffic (t.core g)
  agenda : s.agenda ⊆ t.agenda

theorem core_of_sameCores {s t : State} (hc : t.cores = s.cores) (g : Nat) : t.core g = (s.core g).withTraffic (t.core g) := by
  have hcore : t.core g = s.core g := congrArg (fun x => Table.get Core.reset x g) hc
  rw [hcore]
  rfl

theorem Traffic.of_sameCores {s t : State} (h : t = s.withTraffic t) (hc : t.cores = s.cores) (ha : t.agenda = s.agenda) : Traffic s t :=
  ⟨h, core_of_sameCores hc, ha ▸ List.Subset.refl _⟩

theorem Traffic.refl (s : State) : Traffic s s := .of_sameCores rfl rfl rfl

theorem Traffic.trans {a b c : State} (h1 : Traffic a b) (h2 : Traffic b c) : Traffic a c := by
  obtain ⟨hs1, hc1, ha1⟩ := h1
  obtain ⟨hs2, hc2, ha2⟩ := h2
  exact ⟨by rw [hs2, hs1]; rfl, fun g => by rw [hc2 g, hc1 g]; rfl, fun _ he => ha2 (ha1 he)⟩

theorem Traffic.foldl {α : Type} {f : State → α → State} (hf : ∀ s a, Traffic s (f s a)) (l : List α) (s : State) :
    Traffic s (l.foldl f s) := by
  induction l generalizing s with
  | nil => exact .refl s
  | cons a l ih => exact (hf s a).trans (ih _)

theorem Traffic.ite {s a b : State} {p : Prop} [Decidable p] (ha : Traffic s a) (hb : Traffic s b) : Traffic s (if p then a else b) := by
  split
  · exact ha
  · exact hb

theorem Traffic.mem_eq {s t : State} (h : Traffic s t) : t.mem = s.mem := by rw [h.state]; rfl
theorem Traffic.now_eq {s t : State} (h : Traffic s t) : t.now = s.now := by rw [h.state]; rfl
theorem Traffic.cur_eq {s t : State} (h : Traffic s t) : t.cur = s.cur := by rw [h.state]; rfl

theorem Traffic.registers {s t : State} (h : Traffic s t) (g : Nat) : SameRegisters (s.core g) (t.core g) := by
  rw [h.core g]
  simp [SameRegisters, Core.withTraffic]

theorem mem_insertDue (t k : Nat) (i : Instr) (l : List (Nat × Nat × Instr)) (e : Nat × Nat × Instr) :
    e ∈ insertDue t k i l ↔ e = (t, k, i) ∨ e ∈ l := by
  induction l with
  | nil => simp [insertDue]
  | cons d l ih =>
    obtain ⟨t', k', i'⟩ := d
    rw [insertDue]
    split
    · exact List.mem_cons
    · rw [List.mem_cons, ih, List.mem_cons]
      tauto

/-- A step that is made due is due. -/
theorem mem_agenda_due (s : State) (t k : Nat) (i : Instr) : (t, k, i) ∈ (s.due t k i).agenda := (mem_insertDue ..).mpr (.inl rfl)

theorem dueAt_due (s : State) (t k : Nat) (i : Instr) : DueAt (s.due t k i) t i := ⟨k, mem_agenda_due ..⟩

theorem due_traffic (s : State) (t k : Nat) (i : Instr) : Traffic s (s.due t k i) :=
  ⟨rfl, core_of_sameCores rfl, fun _ he => (mem_insertDue ..).mpr (.inr he)⟩

theorem dueOnce_traffic (s : State) (t k : Nat) (i : Instr) : Traffic s (s.dueOnce t k i) := by
  unfold State.dueOnce
  exact .ite (.refl s) (due_traffic ..)

theorem tick_traffic (s : State) : Traffic s s.tick := .of_sameCores rfl rfl rfl

theorem newId_traffic (s : State) : Traffic s s.newId.2 := .of_sameCores rfl rfl rfl

theorem updFunc_traffic (s : State) (f : Nat) (u : Func → Func) : Traffic s (s.updFunc f u) := .of_sameCores rfl rfl rfl

theorem updLaunch_traffic (s : State) (l : Nat) (u : Launch → Launch) : Traffic s (s.updLaunch l u) := by
  rw [updLaunch_eq]
  split
  · exact .of_sameCores rfl rfl rfl
  · exact .refl s

/-- Accesses changed. -/
theorem accesses_traffic (s : State) (a : Table Access) : Traffic s { s with accesses := a } := .of_sameCores rfl rfl rfl

/-- A core changed in its draws and faults alone. -/
theorem updCore_traffic (s : State) (g : Nat) (f : Core → Core) (hf : ∀ c, f c = c.withTraffic (f c)) : Traffic s (s.updCore g f) :=
  ⟨rfl, fun g' => by
    rw [core_updCore]
    split
    case isTrue h => rw [h]; exact hf _
    case isFalse => rfl, List.Subset.refl _⟩

theorem draw_traffic (s : State) (g : Nat) : Traffic s (s.draw g) := updCore_traffic _ _ _ fun _ => rfl

theorem drawOf_traffic (s : State) (x : Access) : Traffic s (drawOf s x) := by
  unfold drawOf
  exact .ite (draw_traffic ..) (tick_traffic s)

theorem meetFault_traffic (s : State) (g : Nat) (f : FaultInfo) (n : Nat) : Traffic s (meetFault s g f n) :=
  updCore_traffic _ _ _ fun _ => rfl

theorem meetLostLink_traffic (s : State) (l : Nat) : Traffic s (meetLostLink s l) :=
  (updLaunch_traffic s l _).trans (due_traffic ..)

theorem streamOver_traffic (s : State) (x : Access) : Traffic s (streamOver s x) := by
  unfold streamOver
  exact .ite (due_traffic ..) (.refl s)

theorem donePiece_traffic (s : State) (n : Nat) (x : Access) (i : Nat) (p : Piece) (reply : Nat) :
    Traffic s (donePiece s n x i p reply) := by
  unfold donePiece
  exact .ite ((accesses_traffic s _).trans ((streamOver_traffic ..).trans (due_traffic ..))) (accesses_traffic s _)

theorem dropRequest_traffic (s : State) (x : Access) (pa : Nat) : Traffic s (dropRequest s x pa) := by
  unfold dropRequest
  dsimp only
  split
  · exact updFunc_traffic ..
  · exact .ite (updFunc_traffic ..) ((updFunc_traffic ..).trans (meetFault_traffic ..))

theorem failPiece_traffic (s : State) (n : Nat) (x : Access) (i : Nat) (p : Piece) : Traffic s (failPiece s n x i p) := by
  unfold failPiece
  dsimp only
  split
  · exact donePiece_traffic ..
  · exact (dropRequest_traffic ..).trans (donePiece_traffic ..)

theorem queuePacket_traffic (s : State) (l f : Nat) (p : Packet) : Traffic s (queuePacket s l f p) := .of_sameCores rfl rfl rfl

theorem sendPiece_traffic (s : State) (n : Nat) (x : Access) (i : Nat) (p : Piece) : Traffic s (sendPiece s n x i p) := by
  unfold sendPiece
  dsimp only
  split
  · refine Traffic.trans ?_ (queuePacket_traffic _ _ _ _)
    exact .of_sameCores rfl rfl rfl
  · exact failPiece_traffic ..

theorem putDue_traffic (s : State) (n i t : Nat) : Traffic s (putDue s n i t) := by
  unfold putDue
  split
  · exact accesses_traffic s _
  · exact .refl s

theorem sendPieces_traffic (n : Nat) (x : Access) (ps : List (Nat × Piece)) (s : State) : Traffic s (sendPieces n x ps s) := by
  induction ps generalizing s with
  | nil => exact .refl s
  | cons q ps ih =>
    obtain ⟨i, p⟩ := q
    rw [sendPieces]
    refine Traffic.trans ?_ (ih _)
    split
    · exact (putDue_traffic ..).trans (due_traffic ..)
    · exact due_traffic ..
    · exact sendPiece_traffic ..
    · exact due_traffic ..
    · exact .refl s

theorem sendFlushes_traffic (s : State) (g : Nat) : Traffic s (sendFlushes s g) := by
  unfold sendFlushes
  refine Traffic.foldl (fun st q => ?_) _ _
  dsimp only
  split
  · exact .refl st
  · split
    · exact (accesses_traffic st _).trans ((due_traffic ..).trans (drawOf_traffic ..))
    · exact (accesses_traffic st _).trans (due_traffic ..)

theorem dueIf_traffic (s : State) (p : Prop) [Decidable p] (t k : Nat) (i : Instr) : Traffic s (if p then s.due t k i else s) :=
  .ite (due_traffic ..) (.refl s)

/-- What an engine looks at when it wakes makes traffic only. -/
theorem dueCommand_traffic (s t : State) (g e : Nat) (ms : List Command) :
    Traffic t (match ms with
      | [] => t
      | m :: _ =>
        if !m.started && mayStart s g m then t.due s.now keyLeave (.copyCommandStart g e)
        else if m.started && mayComplete s g e m then t.due s.now keyReply (.copyCommandComplete g e)
        else t) := by
  split
  · exact .refl t
  · exact .ite (due_traffic ..) (dueIf_traffic ..)

/-- The end of a launch that a core looks at when it wakes makes traffic only. -/
theorem dueRetire_traffic (s t : State) (l? : Option Nat) :
    Traffic t (match l? with
      | none => t
      | some l =>
        match s.launch? l with
        | none => t
        | some x =>
          match x.state with
          | .running => if x.cores.all fun k => (s.core k).halted then t.due s.now keyRetire (.launchRetirement l) else t
          | .saving => t.due s.now 4000 (.saveComplete l)
          | _ => t) := by
  split
  · exact .refl t
  · split
    · exact .refl t
    · split
      · exact dueIf_traffic ..
      · exact due_traffic ..
      · exact .refl t

theorem wake_traffic (s : State) (g : Nat) : Traffic s (wake s g) := by
  unfold wake
  refine (sendFlushes_traffic s g).trans (Traffic.trans ?_ (dueRetire_traffic (sendFlushes s g) _ _))
  refine Traffic.trans ?_ (Traffic.foldl (fun st q => due_traffic ..) _ _)
  refine Traffic.trans ?_ (Traffic.foldl (fun st q => dueIf_traffic ..) _ _)
  refine Traffic.trans ?_ (Traffic.foldl (fun st q => dueIf_traffic ..) _ _)
  refine Traffic.trans ?_ (Traffic.foldl (fun st q => dueIf_traffic ..) _ _)
  refine Traffic.trans ?_ (Traffic.foldl (fun st e => dueCommand_traffic ..) _ _)
  exact Traffic.foldl (fun st q => dueIf_traffic ..) _ _

theorem wakeClass_traffic (s : State) (x : Access) : Traffic s (wakeClass s x) := by
  unfold wakeClass
  refine .ite (wake_traffic ..) (Traffic.foldl (fun st q => ?_) _ _)
  exact .ite (due_traffic ..) (.refl st)

theorem loseAccess_traffic (s : State) (x : Access) : Traffic s (loseAccess s x) :=
  (accesses_traffic s _).trans (dueOnce_traffic ..)

/-- An access that leaves makes traffic only. -/
theorem leave_traffic (s : State) (n : Nat) (x : Access) : Traffic s (leave s n x) := by
  unfold leave
  dsimp only
  split
  · exact .ite (meetLostLink_traffic ..) (loseAccess_traffic ..)
  · exact (accesses_traffic s _).trans ((sendPieces_traffic ..).trans (Traffic.trans (.ite (due_traffic ..) (.refl _)) (wakeClass_traffic ..)))

theorem keepBack_traffic (s : State) (n : Nat) (x : Access) : Traffic s (keepBack s n x) := accesses_traffic s _

theorem tryLeave_traffic (s : State) (n : Nat) : Traffic s (tryLeave s n) := by
  unfold tryLeave
  split
  · refine .ite (.refl s) ?_
    split
    · exact .ite (leave_traffic ..) (.ite (keepBack_traffic ..) (.refl s))
    · exact .ite (.refl s) (leave_traffic ..)
    · exact sendFlushes_traffic ..
    · exact .refl s
  · exact .refl s

theorem scheduleMessage_traffic (s : State) (n : Nat) (m : Message) : Traffic s (scheduleMessage s n m) := by
  unfold scheduleMessage
  split
  · exact .refl s
  · exact dueOnce_traffic ..

/-- The held writes and messages of a core that go on their way make traffic only (R354, R356). -/
theorem releaseHeld_traffic (s : State) (g : Nat) : Traffic s (releaseHeld s g) := by
  unfold releaseHeld
  refine Traffic.trans (Traffic.foldl (fun st q => accesses_traffic st _) _ _) (Traffic.trans (Traffic.foldl (fun st q => tryLeave_traffic ..) _ _)
    (Traffic.foldl (fun st q => ?_) _ _))
  refine Traffic.trans ?_ (scheduleMessage_traffic _ _ _)
  exact .of_sameCores rfl rfl rfl

/-! ## How a core takes its reference cycle (R48, R87, R91, R139, R361) -/

/-- A state that has committed a core keeps the time, memory and the core that runs. -/
theorem commitCore_now (s : State) (g : Nat) : (commitCore s g).now = s.now := by
  unfold commitCore
  dsimp only
  split_ifs
  · rfl
  · exact (releaseHeld_traffic ..).now_eq

theorem commitIf_now (s : State) (g : Nat) (p : Bool) : (commitIf s g p).now = s.now := by
  unfold commitIf
  split
  · exact commitCore_now s g
  · rfl

theorem holdCore_eq (s : State) (g k : Nat) : holdCore s g k = s.setCore g (chargeHold s.now k (s.core g)) := rfl

theorem prepare_now (s : State) (g : Nat) (b : Bundle) : (prepare s g b).now = s.now := rfl

theorem runMarks_now_cur (s : State) (g : Nat) (b : Bundle) : (runMarks s g b).now = s.now ∧ (runMarks s g b).cur = s.cur := by
  unfold runMarks startSegment
  dsimp only
  split
  · exact ⟨rfl, rfl⟩
  · split <;> split <;> exact ⟨rfl, rfl⟩

/-- A repetition that issues on its own core has all its syllables to run and takes the core's turn. -/
theorem issue_spec (s : State) (g : Nat) (b : Bundle) (items : List Item) (hg : s.cur = g) :
    let t := issue s g b items
    t.issuing = true ∧ t.cur = g ∧ t.micro = instrsOf (bySlot items) ∧ t.curCore.turn = s.now + 1 := by
  obtain ⟨-, hcur⟩ := runMarks_now_cur s g b
  have hcur' : (issue s g b items).cur = g := hcur.trans hg
  refine ⟨rfl, hcur', rfl, ?_⟩
  have hcore : (issue s g b items).core g = { items.foldl (restick 1) ((runMarks s g b).core g) with turn := s.now + 1 } :=
    (core_updCore (runMarks s g b) g g fun c => { items.foldl (restick 1) c with turn := s.now + 1 }).trans (if_pos rfl)
  have hcurCore : (issue s g b items).curCore = (issue s g b items).core g := congrArg _ hcur'
  rw [hcurCore, hcore]

theorem holdCause_causes (s : State) (is : List Instr) (h : holdCause s is ≠ 0) :
    holdCause s is = 7 ∨ holdCause s is = 9 ∨ holdCause s is = 10 ∨ holdCause s is = 11 := by
  unfold holdCause at h ⊢
  split_ifs at h ⊢ <;> simp_all

/-- A repetition with no fault met, on which nothing falls back, issues, is held, or fails its check. -/
theorem bundleIssue_takes_cycle (s : State) (g : Nat) (b : Bundle) (hf : fetch (s.core g) = .ok b)
    (hm : hasMet (commitIf s g (commitDue (s.core g) b (instrsOf (itemsOf (s.core g) b)))) g = false)
    (hk : (s.core g).skip = false) :
    let c := s.core g
    let is := instrsOf (itemsOf c b)
    let s1 := prepare (commitIf s g (commitDue c b is)) g b
    (holdCause s1 is = 0 → stepCheck s1 b (itemsOf c b) = none →
      ∃ t, exec (.bundleIssue g) s = .next t ∧ t = issue s1 g b (itemsOf c b) ∧ t.issuing = true ∧ t.cur = g ∧
        t.micro = instrsOf (bySlot (itemsOf c b)) ∧ t.curCore.turn = s.now + 1) ∧
    (holdCause s1 is = 0 → ∀ sl k, stepCheck s1 b (itemsOf c b) = some (sl, k) →
      exec (.bundleIssue g) s = .next (raise s1 sl k)) ∧
    (∀ k, holdCause s1 is = k → k ≠ 0 → (k = 7 ∨ k = 9 ∨ k = 10 ∨ k = 11) ∧ exec (.bundleIssue g) s = .next (holdCore s1 g k) ∧
      holdCore s1 g k = s1.setCore g (chargeHold s.now k (s1.core g))) := by
  have hnow := commitIf_now s g (commitDue (s.core g) b (instrsOf (itemsOf (s.core g) b)))
  have hexec : exec (.bundleIssue g) s = execBundleIssue g s := rfl
  rw [hexec]
  unfold execBundleIssue
  generalize hs0 : commitIf s g (commitDue (s.core g) b (instrsOf (itemsOf (s.core g) b))) = s0 at hm hnow ⊢
  simp only [hf, hs0, hm, hk, Bool.false_eq_true, if_false]
  refine ⟨fun h0 hs => ?_, fun h0 sl k hs => ?_, fun k h0 hne => ?_⟩
  · obtain ⟨hi, hcur, hmicro, hturn⟩ := issue_spec (prepare s0 g b) g b (itemsOf (s.core g) b) rfl
    refine ⟨_, by simp only [h0, hs], rfl, hi, hcur, hmicro, ?_⟩
    rw [hturn, prepare_now, hnow]
  · simp only [h0, hs]
  · refine ⟨h0 ▸ holdCause_causes _ _ (h0 ▸ hne), ?_, ?_⟩
    · rw [h0]
      split
      · exact absurd rfl hne
      · rfl
    · rw [holdCore_eq, prepare_now, hnow]

theorem waitEvaluation_holds (s : State) (g : Nat) (b : Bundle) (hf : fetch (s.core g) = .ok b) (hw : waits (s.core g) b = true)
    (hr : flagReady (s.core g) b.head = false) :
    let s2 := prepare (commitCore s g) g b
    let k := if interlocked s2 (instrsOf (itemsOf (s.core g) b)) then 7 else 8
    exec (.waitEvaluation g) s = .next (holdCore s2 g k) ∧ holdCore s2 g k = s2.setCore g (chargeHold s.now k (s2.core g)) := by
  refine ⟨?_, ?_⟩
  · change execWaitEvaluation g s = _
    simp only [execWaitEvaluation, hf, hw, hr, Bool.not_true, Bool.false_eq_true, if_false]
  · rw [holdCore_eq, prepare_now, commitCore_now]

/-- Data whose named cycle has come joins the landings of the cycle. -/
theorem landRequests_spec (s : State) (g : Nat) :
    let c := s.core g
    let t := landRequests s g
    (t.core g).reqs = c.reqs.filter (fun r => !r.dueAt c) ∧ SameRegisters c (t.core g) ∧ t.mem = s.mem ∧
      ∀ r ∈ c.reqs, r.dueAt c = true → ∀ n, r.target = .vec n →
        ⟨c.cycle, r.issue, r.slot, .vReg n (BitVec.ofNat 4096 (leNat (r.data.getD []))) (BitVec.allOnes 4096)⟩ ∈ (t.core g).writes := by
  intro c t
  have hcore : t.core g = { c with
      reqs := c.reqs.filter (fun r => !r.dueAt c)
      writes := c.writes ++ (c.reqs.filter (·.dueAt c)).flatMap fun r => (landingEffects r).map fun e => Write.mk c.cycle r.issue r.slot e } :=
    (core_setCore ..).trans (if_pos rfl)
  refine ⟨by rw [hcore], by rw [hcore]; simp [SameRegisters], rfl, fun r hr hd n ht => ?_⟩
  rw [hcore]
  refine List.mem_append_right _ (List.mem_flatMap.mpr ⟨r, List.mem_filter.mpr ⟨hr, hd⟩, ?_⟩)
  unfold landingEffects
  rw [ht]
  exact List.mem_singleton_self _

/-- What a cycle that a core does not issue is charged to. -/
theorem chargeHold_spec (now k : Nat) (c : Core) (hc : c.rerun = none) (hk : k ≠ 4) :
    chargeHold now k c =
      let c1 := if c.hold = k then c else bumpCause c k
      let counted := k = 5 ∨ k = 9
      { passCycles 1 c1 with
        heldcyc := c1.heldcyc + 1, hold := k, turn := now + 1
        frozen := if counted then (if c.frozenBy = k then c.frozen + 1 else 1) else 0
        frozenBy := if counted then k else 0 } := by
  simp [chargeHold, hc, hk]

theorem chargeHold_counts (now k : Nat) (c : Core) (hc : c.rerun = none) (h5 : 5 ≤ k) (h11 : k ≤ 11) :
    let d := chargeHold now k c
    let one := if c.hold = k then 0 else 1
    d.heldcyc = c.heldcyc + 1 ∧ d.refcyc = c.refcyc + 1 ∧ d.cycle = c.cycle ∧ d.pc = c.pc ∧ d.rep = c.rep ∧ d.turn = now + 1 ∧
    d.hold = k ∧ SameRegisters c d ∧
    d.lates = c.lates + (if k = 5 then one else 0) ∧ d.segstall = c.segstall + (if k = 6 then one else 0) ∧
    d.xlholds = c.xlholds + (if k = 7 then one else 0) ∧ d.waitholds = c.waitholds + (if k = 8 then one else 0) ∧
    d.lbholds = c.lbholds + (if k = 9 then one else 0) ∧ d.cqholds = c.cqholds + (if k = 10 then one else 0) ∧
    d.bankholds = c.bankholds + (if k = 11 then one else 0) ∧
    (k = 5 ∨ k = 9 → d.frozenBy = k ∧ d.frozen = if c.frozenBy = k then c.frozen + 1 else 1) := by
  intro d one
  have hd : d = _ := chargeHold_spec now k c hc (by omega)
  dsimp only at hd
  rw [hd]
  by_cases hh : c.hold = k
  · simp +contextual [hh, one, passCycles, SameRegisters]
  · simp only [one, if_neg hh]
    interval_cases k <;> simp [bumpCause, passCycles, SameRegisters]

theorem lineLost_eq_false {s : State} {g : Nat} {c : Core} {o : Overlay} {line : Nat} (hd : s.dieLink = true) :
    lineLost s g c o line = false := by
  unfold lineLost
  split
  · rw [hd]
    exact Bool.and_false _
  · rfl

/-- A line of a segment that is delivered stands in its frame, and the next is due two cycles later. -/
theorem segmentLineDelivered_fills (s : State) (g a : Nat) (o : Overlay) (d : List Byte) (ho : (s.core g).overlay = some o)
    (ha : o.src = some a) (hlink : s.dieLink = true) (hw : lineWait s (s.core g) o o.next = none)
    (hd : readVa s (funcOfLaunch s ((s.core g).launch.getD 0)) (a + 64 * o.next) 64 = some d) :
    exec (.segmentLineDelivered g o.frame o.next) s =
      let c1 := { fillLine (s.core g) o.frame o.next (wordsOf d) with overlay := o.after o.next false }
      .next (if o.next + 1 < o.lines then (s.setCore g c1).due (s.now + 2) 0 (.segmentLineDelivered g o.frame (o.next + 1))
        else s.setCore g c1) := by
  have hl : segmentLine s (s.core g) o o.next = wordsOf d := by
    simp only [segmentLine, ha, Option.bind_some, hd, Option.map_some, Option.getD_some]
  change execSegmentLineDelivered g o.frame o.next s = _
  simp only [execSegmentLineDelivered, ho, hw, hl, lineLost_eq_false hlink, ne_eq, not_true_eq_false, decide_false, Bool.false_and, Bool.or_false,
    Bool.false_eq_true, if_false, decide_true, Bool.true_and, decide_eq_true_eq]

theorem after_next (o : Overlay) :
    o.after o.next false = if o.lines ≤ o.next + 1 ∧ o.late = [] then none else some { o with next := o.next + 1 } := by
  simp [Overlay.after]

theorem segmentLineDelivered_spec (s : State) (g a : Nat) (o : Overlay) (d : List Byte) (ho : (s.core g).overlay = some o)
    (ha : o.src = some a) (hlink : s.dieLink = true) (hw : lineWait s (s.core g) o o.next = none)
    (hd : readVa s (funcOfLaunch s ((s.core g).launch.getD 0)) (a + 64 * o.next) 64 = some d) :
    let c := s.core g
    let base := o.frame * 8192 + o.next * 8
    ∃ t, exec (.segmentLineDelivered g o.frame o.next) s = .next t ∧ t.mem = s.mem ∧ SameRegisters c (t.core g) ∧
      (∀ k ≠ g, t.core k = s.core k) ∧
      (∀ a, Table.get unfilled (t.core g).code a =
        if base ≤ a ∧ a < base + (wordsOf d).length then (wordsOf d).getD (a - base) 0 else Table.get unfilled c.code a) ∧
      (o.next + 1 < o.lines → (t.core g).overlay = some { o with next := o.next + 1 } ∧
        DueAt t (s.now + 2) (.segmentLineDelivered g o.frame (o.next + 1))) ∧
      (o.lines ≤ o.next + 1 → (t.core g).overlay = if o.late = [] then none else some { o with next := o.next + 1 }) := by
  intro c base
  have hx := segmentLineDelivered_fills s g a o d ho ha hlink hw hd
  dsimp only at hx
  refine ⟨_, hx, ?_⟩
  generalize hc1 : ({ fillLine (s.core g) o.frame o.next (wordsOf d) with overlay := o.after o.next false } : Core) = c1
  have hreg : SameRegisters c c1 := by rw [← hc1]; simp [c, SameRegisters, fillLine]
  have hcode : ∀ a, Table.get unfilled c1.code a =
      if base ≤ a ∧ a < base + (wordsOf d).length then (wordsOf d).getD (a - base) 0 else Table.get unfilled c.code a := by
    intro a
    rw [← hc1]
    exact get_foldl_put unfilled c.code base _ a fun i => (wordsOf d).getD i 0
  have hov : c1.overlay = o.after o.next false := by rw [← hc1]
  rw [after_next] at hov
  by_cases hmore : o.next + 1 < o.lines
  · rw [if_pos hmore]
    rw [if_neg (by omega)] at hov
    have hcore : ∀ k, ((s.setCore g c1).due (s.now + 2) 0 (.segmentLineDelivered g o.frame (o.next + 1))).core k =
        if k = g then c1 else s.core k := fun k => core_setCore s g k c1
    refine ⟨rfl, ?_, fun k hk => ?_, fun a => ?_, fun _ => ⟨?_, dueAt_due ..⟩, fun h => absurd hmore (by omega)⟩
    · rw [hcore, if_pos rfl]; exact hreg
    · rw [hcore, if_neg hk]
    · rw [hcore, if_pos rfl]; exact hcode a
    · rw [hcore, if_pos rfl]; exact hov
  · rw [if_neg hmore]
    refine ⟨rfl, ?_, fun k hk => ?_, fun a => ?_, fun h => absurd h hmore, fun h => ?_⟩
    · rw [core_setCore, if_pos rfl]; exact hreg
    · rw [core_setCore, if_neg hk]
    · rw [core_setCore, if_pos rfl]; exact hcode a
    · rw [core_setCore, if_pos rfl, hov]
      exact if_congr (and_iff_right h) rfl rfl

/-- The fault of a landing timeout (R361). -/
theorem landingTimeout_fault (s : State) (g : Nat) :
    let c := s.core g
    ∃ f : FaultInfo, f.kind = 1 ∧ f.code = 0x0C ∧ f.origin = 5 ∧ f.arg1 = BitVec.ofNat 64 f.slot ∧
      exec (.landingTimeout g) s = .next ((takeFault s g f).updCore g fun d => { d with frozen := 0, frozenBy := 0 }) ∧
      (c.frozenBy = 9 → f.cause = 2 ∧ (f.arg0 = BitVec.ofNat 64 ((heldRequest c).getD (c.cycle, 7)).1 ∧ f.slot = ((heldRequest c).getD (c.cycle, 7)).2)) ∧
      (c.frozenBy ≠ 9 → f.cause = 1 ∧
        (∀ r, (lateRequests c).head? = some r ∨
            ((lateRequests c).head? = none ∧ lateTile c = none ∧ c.reqs.find? (fun r => r.dueAt c) = some r) →
          f.arg0 = BitVec.ofNat 64 r.arr ∧ f.slot = r.slot ∧ f.issue = r.issue ∧ f.baddr = r.baddr ∧ f.rep = r.rep) ∧
        ((lateRequests c).head? = none → ∀ k, lateTile c = some k → f.slot = 7 ∧ f.arg0 = BitVec.ofNat 64 k) ∧
        ((lateRequests c).head? = none → lateTile c = none → c.reqs.find? (fun r => r.dueAt c) = none →
          f.slot = 7 ∧ f.arg0 = BitVec.ofNat 64 ((boardedTile c).getD c.cycle))) := by
  intro c
  have hexec : exec (.landingTimeout g) s = execLandingTimeout g s := rfl
  rw [hexec]
  simp only [execLandingTimeout]
  by_cases h9 : (s.core g).frozenBy = 9
  · simp only [if_pos h9]
    exact ⟨_, rfl, rfl, rfl, rfl, rfl, fun _ => ⟨rfl, rfl, rfl⟩, fun h => absurd h9 h⟩
  · simp only [if_neg h9, c]
    cases hl : (lateRequests (s.core g)).head? with
    | some r => exact ⟨_, rfl, rfl, rfl, rfl, rfl, fun h => absurd h h9, by simp⟩
    | none =>
      cases ht : lateTile (s.core g) with
      | some k => exact ⟨_, rfl, rfl, rfl, rfl, rfl, fun h => absurd h h9, by simp⟩
      | none =>
        cases hr : (s.core g).reqs.find? (fun r => r.dueAt (s.core g)) with
        | some r => exact ⟨_, rfl, rfl, rfl, rfl, rfl, fun h => absurd h h9, by simp⟩
        | none => exact ⟨_, rfl, rfl, rfl, rfl, rfl, fun h => absurd h h9, by simp⟩

/-- Settles O13: each way in which a core takes its reference cycle is a rule of its own. -/
theorem coresTakeTheirCycle : Obligations.CoresTakeTheirCycle := by
  refine ⟨fun s g b => ⟨fun hf hm hk => bundleIssue_takes_cycle s g b hf hm hk, fun hf => ?_, fun hf hk => ?_, fun hf hw hr => ?_,
    fun hf hw hr => waitEvaluation_holds s g b hf hw hr, fun hl => ?_, fun hl hb => ?_, landingTimeout_fault s g⟩,
    fun now k c hc h5 h11 => chargeHold_counts now k c hc h5 h11,
    fun s g a o d ho ha hlink hw hd => segmentLineDelivered_spec s g a o d ho ha hlink hw hd⟩
  · change execBundleIssue g s = _
    simp only [execBundleIssue, hf, holdCore_eq]
  · refine ⟨segFault (s.core g) 5, rfl, rfl, ?_⟩
    change execBundleIssue g s = _
    simp only [execBundleIssue, hf, hk, Bool.false_eq_true, if_false]
    rfl
  · change execWaitEvaluation g s = _
    simp only [execWaitEvaluation, hf, hw, hr, Bool.not_true, Bool.false_eq_true, if_false, if_true]
  · refine ⟨?_, rfl⟩
    change execVariableLanding g s = _
    simp only [execVariableLanding, hl, if_true]
  · obtain ⟨hreqs, hregs, hmem, hw⟩ := landRequests_spec s g
    refine ⟨landRequests s g, ?_, hreqs, hregs, hmem, hw⟩
    change execVariableLanding g s = _
    simp only [execVariableLanding, hl, hb, Bool.false_eq_true, if_false]

end Sys2Proof.Machine
end

section
/-!
PROOFS. The M and K slots (R172 to R193): MCALL, register moves and drains, and the steps of routines.
-/
namespace Sys2Proof.Machine

/-! ## MCALL (R89, R174) -/

section
variable {i : Instr} {h : Head} {s : State} {reads : List ReadUnit} {run off : State → State} {k : Option Check}

/-- A ready syllable of the M, K or copy class whose own check passes runs. -/
theorem runPlan_fReady_of (hr : FReady s h reads) (hk : k = none) :
    runPlan i (flagPlan h s.curCore reads k run off) s = .next (run s) :=
  hk ▸ runPlan_fReady hr

/-- A ready syllable of the M, K or copy class whose own check fails is a fault. -/
theorem runPlan_fReady_check {c : Check} (hr : FReady s h reads) (hk : k = some c) :
    runPlan i (flagPlan h s.curCore reads k run off) s = .next (raise s (slotNum h.slot) (withWord i c)) := by
  obtain ⟨h1, h2, h3⟩ := hr
  subst hk
  simp [runPlan, Plan.fault, flagPlan, h1, h2, h3]

end

/-- The routine that an MCALL starts or queues. -/
def calledRoutine (c : Core) (h : Head) (x : FmtM) (start : Nat) : Routine :=
  let ps : Table Word := (List.range 8).map fun i => (i, if x.bc == 1 && i = 7 then h.bcv else c.aGet i)
  { entry := x.rout.toNat, acc := stepReg h x.acc.toNat, params := ps, regs := ps, issue := c.iCyc, baddr := c.iPc, rep := c.iRep
    start := start, stop := start + rtDur (Table.get 0 c.routines x.rout.toNat), begun := false, init := [], initFlags := [], work := []
    flags := [], bindings := [], pos := 0, at_ := start, passes := 0, pass := 0, body := 0, len := 0, loopWord := 0, ended := false }

/-- The parameters of a called routine are the core's, with `bc` in place of `a7` where BC is 1. -/
theorem calledRoutine_params (c : Core) (h : Head) (x : FmtM) (start : Nat) : ∀ i < 8,
    Table.get 0 (calledRoutine c h x start).params i = if x.bc = 1 ∧ i = 7 then h.bcv else c.aGet i := by
  intro i hi
  unfold calledRoutine
  interval_cases i <;> simp [Table.get, List.range_succ]

/-- The write of `a7` that an MCALL with BC = 1 makes. -/
theorem updCur_own_write (s : State) (h : Head) (x : FmtM) (f : Core → Core) :
    (if x.bc == 1 then land s (slotNum h.slot) 1 (.aReg 7 h.bcv) else s).updCur f =
      s.setCore s.cur (f { s.curCore with writes := s.curCore.writes ++
        if x.bc = 1 then [Write.mk (s.curCore.iCyc + 1) s.curCore.iCyc (slotNum h.slot) (.aReg 7 h.bcv)] else [] }) := by
  by_cases hbc : x.bc = 1
  · rw [if_pos (beq_iff_eq.mpr hbc), if_pos hbc]
    exact updCur_updCur s _ f
  · rw [if_neg (mt beq_iff_eq.mp hbc), if_neg hbc, List.append_nil]
    rfl

/-- The cycle at which an MCALL's routine starts: at its issue, or at the end of the routine that runs. -/
def callStart (c : Core) : Nat := match c.running with | none => c.iCyc | some r => r.stop

/-- A called routine takes its place: it runs, or waits behind the one that does. -/
def placeRoutine (r : Routine) (d : Core) : Core :=
  match d.running with
  | none => { d with running := some r }
  | some _ => { d with waiting := some r }

theorem planMcall_eq (h : Head) (x : FmtM) (s : State) : planMcall h x s =
    flagPlan h s.curCore (mcallReads s.curCore x.rout.toNat (stepReg h x.acc.toNat) (x.bc == 1))
      (if rtValid (Table.get 0 s.curCore.routines x.rout.toNat) && !(s.curCore.running.isSome && s.curCore.waiting.isSome) then none
        else some (illegalOp 0 0))
      (fun t => (if x.bc == 1 then land t (slotNum h.slot) 1 (.aReg 7 h.bcv) else t).updCur
        (placeRoutine (calledRoutine s.curCore h x (callStart s.curCore)))) id := rfl

/-- Settles O27: the plan of MCALL checks its entry and that at most one routine waits, and its run puts the called routine in place. -/
theorem matrixCall : Obligations.MatrixCall := by
  intro s h x c n en own called illegal hr
  have hexec : exec (.mcall h x) s = runPlan (.mcall h x) (planMcall h x s) s := rfl
  rw [planMcall_eq] at hexec
  have hcalled : ∀ start, called (calledRoutine c h x start) start := fun start =>
    ⟨rfl, rfl, rfl, rfl, rfl, rfl, calledRoutine_params c h x start⟩
  have hok : rtValid en = true → (c.running = none ∨ c.waiting = none) → exec (.mcall h x) s = .next (s.setCore s.cur
      (placeRoutine (calledRoutine c h x (callStart c)) { c with writes := c.writes ++ own })) := by
    intro hv hfree
    have hfits : (rtValid en && !(c.running.isSome && c.waiting.isSome)) = true := by
      rcases hfree with hfree | hfree <;> simp [hv, hfree]
    rw [hexec, runPlan_fReady_of hr (if_pos hfits), updCur_own_write]
  have hbad : (rtValid en && !(c.running.isSome && c.waiting.isSome)) = false → exec (.mcall h x) s = illegal := by
    intro hfalse
    rw [hexec, runPlan_fReady_check hr (if_neg (by rw [hfalse]; exact Bool.false_ne_true))]
    rfl
  refine ⟨fun hv hrun => ⟨_, _, ?_, hcalled c.iCyc, rfl⟩, fun r0 hv hrun hwait => ⟨_, _, ?_, hcalled r0.stop, rfl⟩, fun hv => hbad ?_,
    fun hrun hwait => hbad ?_⟩
  · rw [hok hv (.inl hrun)]
    simp only [placeRoutine, callStart, hrun]
  · rw [hok hv (.inr hwait)]
    simp only [placeRoutine, callStart, hrun]
  · simp [hv]
  · simp [hrun, hwait]

/-! ## Drains and register moves (R186 to R189, R193) -/

/-- An element of a register that holds a number. -/
theorem elem_ofNat {m w k x : Nat} (hfit : w * (k + 1) ≤ m) : elem w (BitVec.ofNat m x) k = x / 2 ^ (w * k) % 2 ^ w := by
  refine Nat.eq_of_testBit_eq fun j => ?_
  have hj : j < w → w * k + j < m := fun hj => by
    have : w * (k + 1) = w * k + w := Nat.mul_succ w k
    omega
  simp only [elem, BitVec.toNat_ofNat, Nat.testBit_mod_two_pow, Nat.testBit_div_two_pow]
  by_cases hjw : j < w
  · have hlt : w * k + j < m := hj hjw
    rw [Nat.add_comm] at hlt
    simp [hjw, hlt]
  · simp [hjw]

/-- An element of the first `n` elements that are all enabled. -/
theorem elem_allOnes {m w n k : Nat} (hk : k < n) (hfit : w * n ≤ m) : elem w (BitVec.ofNat m (2 ^ (n * w) - 1)) k = 2 ^ w - 1 := by
  have hle : w * (k + 1) ≤ w * n := Nat.mul_le_mul_left w hk
  rw [elem_ofNat (hle.trans hfit)]
  refine Nat.eq_of_testBit_eq fun j => ?_
  simp only [Nat.testBit_mod_two_pow, Nat.testBit_div_two_pow, Nat.testBit_two_pow_sub_one]
  by_cases hjw : j < w
  · have : w * (k + 1) = w * k + w := Nat.mul_succ w k
    have : n * w = w * n := Nat.mul_comm n w
    simp [hjw]
    omega
  · simp [hjw]

/-- The elements above those that are packed are zero. -/
theorem elem_ofNat_packNat_above {m w n k : Nat} (f : Nat → Nat) (hk : n ≤ k) (hfit : w * (k + 1) ≤ m) :
    elem w (BitVec.ofNat m (packNat w f n)) k = 0 := by
  have hlt : packNat w f n < 2 ^ (w * k) := (packNat_lt w f n).trans_le (Nat.pow_le_pow_right (by decide) (Nat.mul_le_mul_left w hk))
  rw [elem_ofNat hfit, Nat.div_eq_of_lt hlt, Nat.zero_mod]

/-- The presence map of an ascending list has just the bits that the list names (R189). -/
theorem testBit_foldl_two_pow {l : List Nat} (hl : l.SortedLT) (b : Nat) :
    (l.foldl (fun m b => m + 2 ^ b) 0).testBit b = l.contains b := by
  have hsum : ∀ (l : List Nat) (m : Nat), l.foldl (fun m b => m + 2 ^ b) m = m + (l.map (2 ^ ·)).sum := by
    intro l
    induction l with
    | nil => intro m; rfl
    | cons a l ih => intro m; rw [List.foldl_cons, ih, List.map_cons, List.sum_cons, Nat.add_assoc]
  rw [hsum, Nat.zero_add, Bool.eq_iff_iff, ← Nat.mem_bitIndices, Nat.bitIndices_sum_map_two_pow hl, List.contains_iff_mem]

theorem foldl_two_pow_lt {l : List Nat} (hl : l.SortedLT) {n : Nat} (hn : ∀ a ∈ l, a < n) :
    l.foldl (fun m b => m + 2 ^ b) 0 < 2 ^ n := by
  refine Nat.lt_pow_two_of_testBit _ fun b hb => ?_
  rw [testBit_foldl_two_pow hl]
  by_contra h
  have := hn b (List.contains_iff_mem.mp (by simpa using h))
  omega

/-- What a drain to a block format writes: codes with their enable bits, headers with theirs (R188, R189). -/
def DrainedBlocks (f : Nat) (comp : Bool) (q : Nat → QBlock) (v ve z ze : Vec) : Prop :=
  let nb := 128 / blockElems f
  let cw := codeBytes f * 8
  let kept := (List.range nb).filter fun b => !elidable f (q b).header (q b).codes
  (∀ b < nb, elem cw ve b = 2 ^ cw - 1 ∧ elem 16 z b = (q b).header % 2 ^ 16 ∧ elem 16 ze b = 2 ^ 16 - 1) ∧
  (comp = false → ∀ b < nb, elem cw v b = (q b).codes % 2 ^ cw) ∧
  (comp = true →
    (∀ i < nb, elem cw v i = if i < kept.length then (q (kept.getD i 0)).codes % 2 ^ cw else 0) ∧
    (∀ i < 4096, nb * cw ≤ i → ve.getLsbD i = false) ∧
    elem 16 ze 4 = 2 ^ 16 - 1 ∧ ∀ b < 16, (elem 16 z 4).testBit b = kept.contains b)

/-- The blocks that a compressed drain keeps. -/
def keptBlocks (f : Nat) (q : Nat → QBlock) : List Nat :=
  (List.range (128 / blockElems f)).filter fun b => !elidable f (q b).header (q b).codes

theorem keptBlocks_congr {f : Nat} {q q' : Nat → QBlock} (hq : ∀ b < 128 / blockElems f, q b = q' b) : keptBlocks f q = keptBlocks f q' :=
  List.filter_congr fun b hb => by rw [hq b (List.mem_range.mp hb)]

theorem lt_of_mem_keptBlocks {f : Nat} {q : Nat → QBlock} {b : Nat} (hb : b ∈ keptBlocks f q) : b < 128 / blockElems f :=
  List.mem_range.mp (List.mem_filter.mp hb).1

theorem sortedLT_keptBlocks (f : Nat) (q : Nat → QBlock) : (keptBlocks f q).SortedLT :=
  List.sortedLT_iff_pairwise.mpr (List.Pairwise.filter _ List.pairwise_lt_range)

theorem length_keptBlocks_le (f : Nat) (q : Nat → QBlock) : (keptBlocks f q).length ≤ 128 / blockElems f :=
  (List.length_filter_le _ _).trans_eq List.length_range

theorem blocks_le_four (f : Nat) : 128 / blockElems f ≤ 4 := by
  unfold blockElems
  split <;> decide

theorem DrainedBlocks.congr {f : Nat} {comp : Bool} {q q' : Nat → QBlock} {v ve z ze : Vec} (h : DrainedBlocks f comp q v ve z ze)
    (hq : ∀ b < 128 / blockElems f, q b = q' b) : DrainedBlocks f comp q' v ve z ze := by
  obtain ⟨hall, hplain, hcomp⟩ := h
  have hkept := keptBlocks_congr hq
  refine ⟨fun b hb => hq b hb ▸ hall b hb, fun hc b hb => hq b hb ▸ hplain hc b hb, fun hc => ?_⟩
  obtain ⟨hcodes, hen, hmapEn, hmap⟩ := hcomp hc
  refine ⟨fun i hi => (hcodes i hi).trans ?_, hen, hmapEn, fun b hb => (hmap b hb).trans (congrArg (List.contains · b) hkept)⟩
  change (if i < (keptBlocks f q).length then (q ((keptBlocks f q).getD i 0)).codes % _ else 0) =
    if i < (keptBlocks f q').length then (q' ((keptBlocks f q').getD i 0)).codes % _ else 0
  rw [← hkept]
  split
  case isTrue hlt =>
    have hmem : (keptBlocks f q).getD i 0 ∈ keptBlocks f q := by
      rw [List.getD_eq_getElem _ _ hlt]
      exact List.getElem_mem hlt
    rw [hq _ (lt_of_mem_keptBlocks hmem)]
  case isFalse => rfl

/-- A plain drain writes the codes and the headers of its blocks. -/
theorem drainedBlocks_plain (f : Nat) (q : Nat → QBlock) :
    let nb := 128 / blockElems f
    let cw := codeBytes f * 8
    DrainedBlocks f false q (pack cw nb fun b => (q b).codes) (packEn cw nb fun _ => true)
      (pack 16 nb fun b => (q b).header) (packEn 16 nb fun _ => true) :=
  ⟨fun _ hb => ⟨elem_ofNat_packNat_enable (codeBits_fit f) hb _, elem_ofNat_packNat (headerBits_fit f) hb _,
    elem_ofNat_packNat_enable (headerBits_fit f) hb _⟩, fun _ _ hb => elem_ofNat_packNat (codeBits_fit f) hb _,
    fun h => absurd h Bool.false_ne_true⟩

/-- Headers in the low halfwords and the map in halfword 4. -/
theorem elem_headers {a map n b : Nat} (hb : b < n) (hn : n ≤ 4) :
    elem 16 (BitVec.ofNat 4096 (a + map * 2 ^ 64)) b = a / 2 ^ (16 * b) % 2 ^ 16 := by
  rw [elem_ofNat (by omega)]
  exact add_mul_two_pow_div_mod (k := b) (n := 4) (by omega) 16 a map

theorem elem_map {a map : Nat} (ha : a < 2 ^ 64) (hmap : map < 2 ^ 16) : elem 16 (BitVec.ofNat 4096 (a + map * 2 ^ 64)) 4 = map := by
  rw [elem_ofNat (by decide)]
  omega

theorem or_map_eq_add (n : Nat) (hn : n ≤ 4) : 2 ^ (16 * n) - 1 ||| (2 ^ 16 - 1) * 2 ^ 64 = (2 ^ (16 * n) - 1) + (2 ^ 16 - 1) * 2 ^ 64 := by
  interval_cases n <;> decide

/-- A compressed drain packs the codes that it keeps and writes every header and the map. -/
theorem drainedBlocks_compressed (f : Nat) (q : Nat → QBlock) :
    let nb := 128 / blockElems f
    DrainedBlocks f true q (BitVec.ofNat 4096 (compressBlocks f nb q).1) (BitVec.ofNat 4096 (2 ^ (nb * codeBytes f * 8) - 1))
      (BitVec.ofNat 4096 (packNat 16 (fun b => (q b).header) nb + (compressBlocks f nb q).2 * 2 ^ 64))
      (BitVec.ofNat 4096 (2 ^ (16 * nb) - 1 ||| (2 ^ 16 - 1) * 2 ^ 64)) := by
  intro nb
  have hnb : nb ≤ 4 := blocks_le_four f
  have hfit : codeBytes f * 8 * nb ≤ 4096 := codeBits_fit f
  have hcw : nb * codeBytes f * 8 = nb * (codeBytes f * 8) := Nat.mul_assoc ..
  have hlow : ∀ g : Nat → Nat, packNat 16 g nb < 2 ^ 64 := fun g =>
    (packNat_lt 16 g nb).trans_le (Nat.pow_le_pow_right (by decide) (by omega))
  have hmap : (compressBlocks f nb q).2 < 2 ^ 16 :=
    (foldl_two_pow_lt (sortedLT_keptBlocks f q) fun a ha => lt_of_mem_keptBlocks ha).trans_le (Nat.pow_le_pow_right (by decide) (by omega))
  have hones : 2 ^ (16 * nb) - 1 < 2 ^ 64 :=
    (Nat.sub_lt (Nat.two_pow_pos _) (by decide)).trans_le (Nat.pow_le_pow_right (by decide) (by omega))
  rw [or_map_eq_add nb hnb, hcw]
  refine ⟨fun b hb => ⟨elem_allOnes hb hfit, ?_, ?_⟩, fun h => absurd h.symm Bool.false_ne_true, fun _ => ⟨fun i hi => ?_, fun i hi hge => ?_, ?_, ?_⟩⟩
  · rw [elem_headers hb hnb]
    exact packNat_div_mod 16 _ hb
  · rw [elem_headers hb hnb]
    have := elem_allOnes (m := 4096) (w := 16) hb (by omega)
    rwa [elem_ofNat (by omega), Nat.mul_comm nb 16] at this
  · change _ = if i < (keptBlocks f q).length then (q ((keptBlocks f q).getD i 0)).codes % _ else 0
    have hlen := length_keptBlocks_le f q
    split
    case isTrue hlt =>
      exact elem_ofNat_packNat ((Nat.mul_le_mul_left _ hlen).trans hfit) hlt _
    case isFalse hge =>
      exact elem_ofNat_packNat_above _ (Nat.not_lt.mp hge) ((Nat.mul_le_mul_left _ hi).trans hfit)
  · rw [BitVec.getLsbD_ofNat, Nat.testBit_two_pow_sub_one, decide_eq_false (Nat.not_lt.mpr hge), Bool.and_false]
  · exact elem_map hones (by decide)
  · intro b _
    rw [elem_map (hlow _) hmap]
    exact testBit_foldl_two_pow (sortedLT_keptBlocks f q) b

/-- A block of the drained elements. -/
theorem take_drop_drained (f : Nat) (g : Nat → Nat) {b : Nat} (hb : b < 128 / blockElems f) :
    (((List.range 128).map g).drop (b * blockElems f)).take (blockElems f) = (List.range (blockElems f)).map fun j => g (b * blockElems f + j) := by
  have hend : b * blockElems f + blockElems f ≤ 128 := by
    have := Nat.mul_le_of_le_div _ _ _ (Nat.succ_le_of_lt hb)
    rwa [Nat.succ_mul] at this
  refine List.ext_getElem (by simp; omega) fun i h1 h2 => ?_
  simp

/-- What a drain reads: its descriptor, its row, and its scale and bias registers. -/
def drainReads (c : Core) (h : Head) (x : FmtD) : List ReadUnit :=
  let d := c.aGet x.ap.toNat
  [ReadUnit.mk 7 x.ap.toNat 0 8, ReadUnit.mk 6 (x.acc.toNat * 128 + stepReg h x.row.toNat) 0 512] ++
    (if d.getLsbD 6 then [rZ (bits d 7 5).toNat] else []) ++ (if d.getLsbD 12 then [rV (bits d 13 10).toNat] else [])

/-- The elements of a row through scale, bias and activation. -/
def drainedElem (c : Core) (h : Head) (x : FmtD) (rm : Nat) : Nat → Rounded :=
  let d := c.aGet x.ap.toNat
  drainElem d rm (c.zGet (bits d 7 5).toNat) (c.vGet (bits d 13 10).toNat) (c.accGet (x.acc.toNat * 128 + stepReg h x.row.toNat))

/-- The flags of a drained row. -/
def drainedFlags (c : Core) (h : Head) (x : FmtD) (rm : Nat) : BitVec 8 :=
  c.accFlagGet (x.acc.toNat * 128 + stepReg h x.row.toNat) ||| flagsOf (fun _ => true) (drainedElem c h x rm) 128

/-- A block of a drained row, quantised: of the elements that `list` gives. -/
def drainQuant (c : Core) (x : FmtD) (list : Nat → List Nat) : Nat → QBlock :=
  let d := c.aGet x.ap.toNat
  fun b => quantBlock (levelsOf c 0) (bits d 0 4).toNat (bits d 25 8).toNat (list b)

/-- A drain to a floating-point format. -/
def drainFloat (c : Core) (h : Head) (x : FmtD) (t : State) : State :=
  let d := c.aGet x.ap.toNat
  let f := (bits d 0 4).toNat
  let rm := (bits d 4 2).toNat
  let r := fun i => let v := drainedElem c h x rm i; let o := convert 6 f false rm v.enc; Rounded.mk o.enc (v.flags ||| o.flags)
  landFlags (landElems t (slotNum h.slot) 10 (stepReg h x.vd.toNat) (widthOf f) 128 (fun _ => true) r) (slotNum h.slot) 10
    (drainedFlags c h x rm)

/-- A drain to a block format. -/
def drainBlock (c : Core) (h : Head) (x : FmtD) (t : State) : State :=
  let f := (bits (c.aGet x.ap.toNat) 0 4).toNat
  let sl := slotNum h.slot
  let nb := 128 / blockElems f
  let q := drainQuant c x fun b => ((((List.range 128).map fun i => (drainedElem c h x 0 i).enc).drop (b * blockElems f)).take (blockElems f))
  landFlags (if (c.aGet x.ap.toNat).getLsbD 33 then
      landFlags (land (land t sl 10 (.vReg (stepReg h x.vd.toNat) (BitVec.ofNat 4096 (compressBlocks f nb q).1)
          (BitVec.ofNat 4096 (2 ^ (nb * codeBytes f * 8) - 1)))) sl 10
        (.zReg (stepReg h x.zq.toNat) (BitVec.ofNat 4096 (packNat 16 (fun b => (q b).header) nb + (compressBlocks f nb q).2 * 2 ^ 64))
          (BitVec.ofNat 4096 (2 ^ (16 * nb) - 1 ||| (2 ^ 16 - 1) * 2 ^ 64)))) sl 10
        (flagsOf (fun _ => true) (fun b => ⟨0, flagIf (q b).clamp fQCLAMP⟩) nb)
    else landBlocks t sl 10 f (stepReg h x.vd.toNat) (stepReg h x.zq.toNat) nb (fun _ => true) q) sl 10 (drainedFlags c h x 0)

theorem planMdrain_eq (h : Head) (x : FmtD) (s : State) : planMdrain h x s =
    let c := s.curCore
    let f := (bits (c.aGet x.ap.toNat) 0 4).toNat
    flagPlan h c (drainReads c h x)
      (if 11 ≤ f && f ≤ 13 && 32 ≤ stepReg h x.zq.toNat then some (illegalOp 12 0) else drainCheck (c.aGet x.ap.toNat) x.zq.toNat)
      (fun t => if 11 ≤ f then drainBlock c h x t else drainFloat c h x t) id := by
  unfold planMdrain
  dsimp only
  refine congrArg (fun run => flagPlan h _ _ _ run id) (funext fun t => ?_)
  by_cases hf : 11 ≤ (bits (s.curCore.aGet x.ap.toNat) 0 4).toNat
  · simp only [if_pos hf, drainBlock, drainQuant, drainedFlags, drainedElem]
  · simp only [if_neg hf, drainFloat, drainedFlags, drainedElem]

/-- The blocks of a drained row, quantised. -/
def drainedBlocks (c : Core) (h : Head) (x : FmtD) : Nat → QBlock :=
  let size := blockElems (bits (c.aGet x.ap.toNat) 0 4).toNat
  drainQuant c x fun b => (List.range size).map fun j => (drainedElem c h x 0 (b * size + j)).enc

/-- A drain to a block format lands codes, headers, the flags of the blocks and those of the row. -/
theorem exists_drainBlock (c : Core) (h : Head) (x : FmtD) (t : State) :
    let f := (bits (c.aGet x.ap.toNat) 0 4).toNat
    let q := drainedBlocks c h x
    let sl := slotNum h.slot
    ∃ v ve z ze, drainBlock c h x t = landFlags (landFlags (land (land t sl 10 (.vReg (stepReg h x.vd.toNat) v ve)) sl 10
        (.zReg (stepReg h x.zq.toNat) z ze)) sl 10 (flagsOf (fun _ => true) (fun b => ⟨0, if (q b).clamp then fQCLAMP else 0⟩)
          (128 / blockElems f))) sl 10 (drainedFlags c h x 0) ∧
      DrainedBlocks f ((c.aGet x.ap.toNat).getLsbD 33) q v ve z ze := by
  intro f q sl
  let p := drainQuant c x fun b => (((List.range 128).map fun i => (drainedElem c h x 0 i).enc).drop (b * blockElems f)).take (blockElems f)
  have hq : ∀ b < 128 / blockElems f, p b = q b := fun b hb =>
    congrArg (quantBlock _ _ _) (take_drop_drained f (fun i => (drainedElem c h x 0 i).enc) hb)
  have hflags : flagsOf (fun _ => true) (fun b => ⟨0, if (p b).clamp then fQCLAMP else 0⟩) (128 / blockElems f) =
      flagsOf (fun _ => true) (fun b => ⟨0, if (q b).clamp then fQCLAMP else 0⟩) (128 / blockElems f) :=
    flagsOf_congr fun b hb => ⟨rfl, fun _ => by rw [hq b hb]⟩
  rw [← hflags]
  cases hc : (c.aGet x.ap.toNat).getLsbD 33 with
  | false =>
    refine ⟨_, _, _, _, ?_, (drainedBlocks_plain f p).congr hq⟩
    unfold drainBlock
    rw [hc]
    exact congrArg (landFlags · _ _ _) (if_neg Bool.false_ne_true)
  | true =>
    refine ⟨_, _, _, _, ?_, (drainedBlocks_compressed f p).congr hq⟩
    unfold drainBlock
    rw [hc]
    exact congrArg (landFlags · _ _ _) (if_pos rfl)

theorem landAll_cons_eq (s : State) (slot lat : Nat) (e : Effect) (es : List Effect) :
    landAll s slot lat (e :: es) = s.setCore s.cur { s.curCore with
      writes := s.curCore.writes ++ (e :: es).map fun e => Write.mk (s.curCore.iCyc + lat) s.curCore.iCyc slot e } := by
  induction es generalizing s e with
  | nil => exact land_eq ..
  | cons e' es ih =>
    rw [landAll, ih]
    simp [land_eq]

theorem landAll_eq (s : State) (slot lat : Nat) {es : List Effect} (hes : es ≠ []) :
    landAll s slot lat es = s.setCore s.cur { s.curCore with
      writes := s.curCore.writes ++ es.map fun e => Write.mk (s.curCore.iCyc + lat) s.curCore.iCyc slot e } := by
  obtain ⟨e, es, rfl⟩ := List.exists_cons_of_ne_nil hes
  exact landAll_cons_eq ..

theorem ofNat_elem_word (v : Vec) (k : Nat) : BitVec.ofNat 64 (elem 64 v k) = v.extractLsb' (64 * k) 64 := by
  refine BitVec.eq_of_toNat_eq ?_
  simp [elem, BitVec.extractLsb'_toNat, Nat.shiftRight_eq_div_pow]

theorem matrixMoves (s : State) (h : Head) (x : FmtZ) :
    let c := s.curCore
    let sl := slotNum h.slot
    let v := stepReg h x.v.toNat
    let z := stepReg h x.za.toNat
    (FReady s h [rV v] →
      exec (.kmvv h x) s = .next (land s sl 6 (.zReg (stepReg h x.zd.toNat) (c.vGet v) (BitVec.allOnes 4096)))) ∧
    (FReady s h [rZ z] → exec (.kmvz h x) s = .next (land s sl 6 (.vReg v (c.zGet z) (BitVec.allOnes 4096)))) ∧
    (FReady s h [⟨8, z, 0, 64⟩] → ∃ t, exec (.kmov h x) s = .next t ∧ t = s.setCore s.cur { c with
      writes := c.writes ++ (List.range 8).map fun k =>
        Write.mk (c.iCyc + 6) c.iCyc sl (.aReg k ((c.zGet z).extractLsb' (64 * k) 64)) }) ∧
    (FReady s h [⟨4, v, 0, 32⟩] →
      exec (.kltl h x) s = .next (land s sl 6 (.levelTable x.tb.toNat ((c.vGet v).extractLsb' 0 256)))) := by
  refine ⟨fun hr => runPlan_fReady hr, fun hr => runPlan_fReady hr, fun hr => ⟨_, runPlan_fReady hr, ?_⟩, fun hr => ?_⟩
  · rw [landAll_eq s _ _ (by simp), List.map_map]
    exact congrArg (fun f => s.setCore s.cur { s.curCore with writes := s.curCore.writes ++ (List.range 8).map f })
      (funext fun k => congrArg (fun v => Write.mk _ _ _ (.aReg k v)) (ofNat_elem_word _ k))
  · have hx : exec (.kltl h x) s = runPlan (.kltl h x) (planKltl h x s) s := rfl
    rw [hx]
    refine (runPlan_fReady hr).trans (congrArg (fun b => Host.Outcome.next (land s _ 6 (.levelTable x.tb.toNat b))) ?_)
    exact BitVec.setWidth_eq_extractLsb' (by decide)

theorem drainCheck_cases {d : Word} {zq : Nat} {k : Check} (hk : drainCheck d zq = some k) : k = illegalOp 0 0 ∨ k = illegalOp 9 0 := by
  have hcases : ∀ p q : Bool, (if p then some (illegalOp 0 0) else if q then some (illegalOp 9 0) else none) = some k →
      k = illegalOp 0 0 ∨ k = illegalOp 9 0 := by
    intro p q h
    cases p
    · cases q
      · exact absurd h.symm (Option.some_ne_none k)
      · exact .inr (Option.some.inj h).symm
    · exact .inl (Option.some.inj h).symm
  exact hcases _ _ hk

/-- Settles O28: the moves' plans run as written, and a drain runs its float or its block form, which lands what the lemmas about elements
say. -/
theorem matrixMovesAndDrains : Obligations.MatrixMovesAndDrains := by
  refine ⟨⟨fun s h x hr => ⟨runPlan_fReady hr, runPlan_fReady hr⟩, fun s h x hr => runPlan_fReady hr, fun s h x hr => runPlan_fReady hr,
    matrixMoves⟩, fun s h x => ?_⟩
  intro c d row f sz bv sl reads y all hr
  have hexec : exec (.mdrain h x) s = runPlan (.mdrain h x) (planMdrain h x s) s := rfl
  rw [planMdrain_eq] at hexec
  have hr' : FReady s h (drainReads c h x) := hr
  refine ⟨fun hk hf => ⟨landElems s sl 10 (stepReg h x.vd.toNat) (widthOf f) 128 all _, ?_,
      landsElems_landElems ((Nat.mul_le_mul_right 128 (widthOf_le f)).trans (by decide)) _ _ _ _ _ _⟩,
    fun hk h11 h13 hz => ?_, fun h11 h13 hz => ?_, fun k hk hz => ?_⟩
  · have hsmall : (11 ≤ f && f ≤ 13 && 32 ≤ stepReg h x.zq.toNat) = false := by simp; omega
    rw [hexec, runPlan_fReady_of hr' ((if_neg (by rw [hsmall]; exact Bool.false_ne_true)).trans hk)]
    exact congrArg Host.Outcome.next (if_neg (show ¬ 11 ≤ f by omega))
  · have hsmall : (11 ≤ f && f ≤ 13 && 32 ≤ stepReg h x.zq.toNat) = false := by simp; omega
    obtain ⟨v, ve, z, ze, hblock, hdrained⟩ := exists_drainBlock c h x s
    refine ⟨v, ve, z, ze, ?_, hdrained⟩
    rw [hexec, runPlan_fReady_of hr' ((if_neg (by rw [hsmall]; exact Bool.false_ne_true)).trans hk)]
    exact congrArg Host.Outcome.next ((if_pos h11).trans hblock)
  · have hbig : (11 ≤ f && f ≤ 13 && 32 ≤ stepReg h x.zq.toNat) = true := by simp; omega
    rw [hexec, runPlan_fReady_check hr' (if_pos hbig)]
    rfl
  · have hsmall : (11 ≤ f && f ≤ 13 && 32 ≤ stepReg h x.zq.toNat) = false := by simp; omega
    rw [hexec, runPlan_fReady_check hr' ((if_neg (by rw [hsmall]; exact Bool.false_ne_true)).trans hk)]
    rcases drainCheck_cases hk with rfl | rfl <;> rfl

/-! ## Routines and their micro-steps (R174 to R185) -/

/-- A table of ascending numbers reads as its entries. -/
theorem get_of_pairwise {α : Type} (d : α) {l : Table α} (hl : l.Pairwise fun a b => a.1 < b.1) {e : Nat × α} (he : e ∈ l) :
    Table.get d l e.1 = e.2 := by
  induction l with
  | nil => exact absurd he List.not_mem_nil
  | cons a l ih =>
    obtain ⟨hall, hrest⟩ := List.pairwise_cons.mp hl
    rw [Table.get]
    rcases List.mem_cons.mp he with rfl | he
    · exact if_pos rfl
    · have := hall e he
      rw [if_neg (by omega), if_neg (by omega), ih hrest he]

theorem mem_rtOffsets (en : Word) (o : Nat) : o ∈ rtOffsets en ↔ o < 4 ∧ (bits en 10 4).getLsbD o = true := by
  simp [rtOffsets]

/-- What a routine reads of an accumulator at its start. -/
theorem work_beginRoutine (c : Core) (r : Routine) {o j : Nat} (ho : o < 4) (hj : j < 128)
    (hen : (bits (Table.get 0 c.routines r.entry) 10 4).getLsbD o = true) :
    Table.get 0 (beginRoutine c r).work (o * 128 + j) = c.accGet ((r.acc + o) % 4 * 128 + j) := by
  refine get_of_pairwise (e := (o * 128 + j, c.accGet ((r.acc + o) % 4 * 128 + j))) 0 ?_ ?_
  · refine List.pairwise_map.mpr (List.pairwise_flatMap.mpr ⟨fun a _ => ?_, ?_⟩)
    · exact List.pairwise_map.mpr (List.pairwise_lt_range.imp fun h => by dsimp only; omega)
    · refine (List.Pairwise.filter _ List.pairwise_lt_range).imp fun {a b} hab => fun x hx y hy => ?_
      obtain ⟨i, hi, rfl⟩ := List.mem_map.mp hx
      obtain ⟨k, -, rfl⟩ := List.mem_map.mp hy
      have := List.mem_range.mp hi
      dsimp only
      omega
  · exact List.mem_map.mpr ⟨(o * 128 + j, (r.acc + o) % 4 * 128 + j), List.mem_flatMap.mpr ⟨o, (mem_rtOffsets ..).mpr ⟨ho, hen⟩,
      List.mem_map.mpr ⟨j, List.mem_range.mpr hj, rfl⟩⟩, rfl⟩

theorem mem_routineWritesOf (c : Core) (r : Routine) (w : Write) :
    w ∈ routineWritesOf c r ↔ ∃ o j, o < 4 ∧ j < 128 ∧ (bits (Table.get 0 c.routines r.entry) 10 4).getLsbD o = true ∧
      w = ⟨r.stop, r.issue, 3,
        .accRow ((r.acc + o) % 4 * 128 + j) (Table.get 0 r.work (o * 128 + j)) (Table.get 0 r.flags (o * 128 + j))⟩ := by
  simp only [routineWritesOf, List.mem_flatMap, mem_rtOffsets, List.mem_map, List.mem_range]
  constructor
  · rintro ⟨o, ⟨ho, hen⟩, j, hj, rfl⟩
    exact ⟨o, j, ho, hj, hen, rfl⟩
  · rintro ⟨o, j, ho, hj, hen, rfl⟩
    exact ⟨o, ⟨ho, hen⟩, j, hj, rfl⟩

/-- A routine that reads its accumulators at its start and whose steps meet no fault runs on. -/
theorem routineStart_runs (s : State) (g : Nat) {r r1 : Routine} (hrun : (s.core g).running = some r) (hb : r.begun = false)
    (hstart : r.start = (s.core g).cycle) (hp : startPending (s.core g) r = none)
    (hsteps : runSteps (s.core g) (s.core g).cycle (stepFuel (beginRoutine (s.core g) r) (s.core g).cycle) (beginRoutine (s.core g) r) = (r1, none)) :
    exec (.routineStart g) s = .next (s.setCore g { s.core g with running := some r1 }) := by
  change Host.Outcome.next (runRoutine s g (s.core g).cycle) = _
  have hlt : ¬ (s.core g).cycle < r.start := by omega
  unfold runRoutine
  simp only [hrun, hlt, if_false, hp, hb, Bool.false_eq_true, hsteps]
  rfl

theorem routineLanding_lands (s : State) (g : Nat) {r : Routine} (hrun : (s.core g).running = some r) (hstop : r.stop ≤ (s.core g).cycle) :
    exec (.routineLanding g) s = .next (s.setCore g { s.core g with
      writes := (s.core g).writes ++ routineWritesOf (s.core g) r, running := (s.core g).waiting, waiting := none }) := by
  change execRoutineLanding g s = _
  simp only [execRoutineLanding, hrun, if_pos hstop]

/-- What a micro-step that costs cycles does to the place of the routine (R182, R184). -/
def Moved (r t : Routine) (cost : Nat) : Prop :=
  t.at_ = r.at_ + cost ∧ t.ended = r.ended ∧
    if r.len ≠ 0 ∧ r.pos + 1 = r.body + r.len then
      (r.passes = 0 → t.pos = r.pos + 1 ∧ t.len = 0 ∧ t.pass = 0) ∧
      (r.passes ≠ 0 → t.pos = r.body ∧ t.len = r.len ∧ t.pass = r.pass + 1 ∧ t.passes + 1 = r.passes)
    else t.pos = r.pos + 1 ∧ t.len = r.len ∧ t.pass = r.pass ∧ t.passes = r.passes

/-- A routine changed in what it computes alone. -/
structure SamePlace (r q : Routine) : Prop where
  at_ : q.at_ = r.at_
  ended : q.ended = r.ended
  pos : q.pos = r.pos
  len : q.len = r.len
  body : q.body = r.body
  pass : q.pass = r.pass
  passes : q.passes = r.passes

theorem SamePlace.refl (r : Routine) : SamePlace r r := ⟨rfl, rfl, rfl, rfl, rfl, rfl, rfl⟩

theorem SamePlace.trans {a b c : Routine} (h1 : SamePlace a b) (h2 : SamePlace b c) : SamePlace a c :=
  ⟨h2.at_.trans h1.at_, h2.ended.trans h1.ended, h2.pos.trans h1.pos, h2.len.trans h1.len, h2.body.trans h1.body, h2.pass.trans h1.pass,
    h2.passes.trans h1.passes⟩

theorem moved_advance {r q : Routine} (h : SamePlace r q) (cost : Nat) : Moved r (advance q cost) cost := by
  obtain ⟨hat, hended, hpos, hlen, hbody, hpass, hpasses⟩ := h
  unfold Moved advance
  rw [hat, hended, hpos, hlen, hbody, hpass, hpasses]
  by_cases hend : r.len ≠ 0 ∧ r.pos + 1 = r.body + r.len
  · have hb : (r.len ≠ 0 && r.pos + 1 = r.body + r.len) = true := by simpa using hend
    rw [if_pos hend, if_pos hb]
    by_cases h0 : r.passes = 0
    · rw [if_pos h0]
      exact ⟨rfl, rfl, fun _ => ⟨rfl, rfl, rfl⟩, fun h => absurd h0 h⟩
    · rw [if_neg h0]
      exact ⟨rfl, rfl, fun h => absurd h h0, fun _ => ⟨rfl, rfl, rfl, Nat.succ_pred_eq_of_ne_zero h0⟩⟩
  · have hb : ¬ (r.len ≠ 0 && r.pos + 1 = r.body + r.len) = true := by simpa using hend
    rw [if_neg hend, if_neg hb]
    exact ⟨rfl, rfl, rfl, rfl, rfl, rfl⟩

@[simp] theorem work_advance (r : Routine) (cost : Nat) : (advance r cost).work = r.work := by
  unfold advance
  dsimp only
  split_ifs <;> rfl
@[simp] theorem flags_advance (r : Routine) (cost : Nat) : (advance r cost).flags = r.flags := by
  unfold advance
  dsimp only
  split_ifs <;> rfl
@[simp] theorem regs_advance (r : Routine) (cost : Nat) : (advance r cost).regs = r.regs := by
  unfold advance
  dsimp only
  split_ifs <;> rfl
@[simp] theorem bindings_advance (r : Routine) (cost : Nat) : (advance r cost).bindings = r.bindings := by
  unfold advance
  dsimp only
  split_ifs <;> rfl

/-- The rows of an accumulator offset replaced, one after the other, each by what `F` makes of its value and its flags. -/
def updateRows (F : Nat → Vec → BitVec 8 → Vec × BitVec 8) (o n : Nat) (r : Routine) : Routine :=
  (List.range n).foldl (fun r j =>
    let p := F j (Table.get 0 r.work (o * 128 + j)) (Table.get 0 r.flags (o * 128 + j))
    { r with work := r.work.put (o * 128 + j) p.1, flags := r.flags.put (o * 128 + j) p.2 }) r

theorem mapRows_eq (r : Routine) (o : Nat) (f : Nat → Vec × BitVec 8) : mapRows r o f = updateRows (fun j _ _ => f j) o 128 r := rfl

/-- Rows that are replaced one after the other: each is made of its old value, the others and all the rest stay. -/
theorem updateRows_spec (F : Nat → Vec → BitVec 8 → Vec × BitVec 8) (o n : Nat) (r : Routine) :
    let q := updateRows F o n r
    SamePlace r q ∧ q.regs = r.regs ∧ q.bindings = r.bindings ∧
    ∀ k, (Table.get 0 q.work k, Table.get 0 q.flags k) =
      if o * 128 ≤ k ∧ k < o * 128 + n then F (k - o * 128) (Table.get 0 r.work k) (Table.get 0 r.flags k)
      else (Table.get 0 r.work k, Table.get 0 r.flags k) := by
  induction n with
  | zero => exact ⟨.refl r, rfl, rfl, fun k => by rw [if_neg (by omega)]; rfl⟩
  | succ n ih =>
    obtain ⟨hplace, hregs, hbind, hrows⟩ := ih
    unfold updateRows at hplace hregs hbind hrows ⊢
    rw [List.range_succ, List.foldl_append, List.foldl_cons, List.foldl_nil]
    generalize (List.range n).foldl _ r = q at hplace hregs hbind hrows ⊢
    refine ⟨hplace.trans ⟨rfl, rfl, rfl, rfl, rfl, rfl, rfl⟩, hregs, hbind, fun k => ?_⟩
    dsimp only
    rw [Table.get_put, Table.get_put]
    by_cases hk : k = o * 128 + n
    · have hkn := hrows k
      rw [if_neg (by omega)] at hkn
      obtain ⟨hw, hf⟩ := Prod.mk.inj hkn
      rw [if_pos hk, if_pos hk, if_pos (by omega), ← hk, hk, Nat.add_sub_cancel_left, ← hk, ← hw, ← hf]
    · rw [if_neg hk, if_neg hk, hrows k]
      exact if_congr (by omega) rfl rfl

/-- A row of the offset that is replaced. -/
theorem updateRows_row (F : Nat → Vec → BitVec 8 → Vec × BitVec 8) (o : Nat) (r : Routine) {j : Nat} (hj : j < 128) :
    (Table.get 0 (updateRows F o 128 r).work (o * 128 + j), Table.get 0 (updateRows F o 128 r).flags (o * 128 + j)) =
      F j (Table.get 0 r.work (o * 128 + j)) (Table.get 0 r.flags (o * 128 + j)) := by
  obtain ⟨-, -, -, hrows⟩ := updateRows_spec F o 128 r
  have h := hrows (o * 128 + j)
  rwa [if_pos (by omega), Nat.add_sub_cancel_left] at h

/-- A row of another offset. -/
theorem updateRows_other (F : Nat → Vec → BitVec 8 → Vec × BitVec 8) {o o' : Nat} (ho : o' ≠ o) (r : Routine) {j : Nat} (hj : j < 128) :
    Table.get 0 (updateRows F o 128 r).work (o' * 128 + j) = Table.get 0 r.work (o' * 128 + j) ∧
      Table.get 0 (updateRows F o 128 r).flags (o' * 128 + j) = Table.get 0 r.flags (o' * 128 + j) := by
  obtain ⟨-, -, -, hrows⟩ := updateRows_spec F o 128 r
  have h := hrows (o' * 128 + j)
  rw [if_neg (by omega)] at h
  exact Prod.mk.inj h

/-- A step that replaces the rows of one offset. -/
theorem advance_updateRows (F : Nat → Vec → BitVec 8 → Vec × BitVec 8) (o cost : Nat) (r : Routine) :
    let t := advance (updateRows F o 128 r) cost
    Moved r t cost ∧ t.regs = r.regs ∧ t.bindings = r.bindings ∧
    (∀ j < 128, (Table.get 0 t.work (o * 128 + j), Table.get 0 t.flags (o * 128 + j)) =
      F j (Table.get 0 r.work (o * 128 + j)) (Table.get 0 r.flags (o * 128 + j))) ∧
    ∀ o' ≠ o, ∀ j < 128, Table.get 0 t.work (o' * 128 + j) = Table.get 0 r.work (o' * 128 + j) ∧
      Table.get 0 t.flags (o' * 128 + j) = Table.get 0 r.flags (o' * 128 + j) := by
  obtain ⟨hplace, hregs, hbind, -⟩ := updateRows_spec F o 128 r
  refine ⟨moved_advance hplace cost, (regs_advance ..).trans hregs, (bindings_advance ..).trans hbind, fun j hj => ?_, fun o' ho j hj => ?_⟩
  · rw [work_advance, flags_advance]
    exact updateRows_row F o r hj
  · rw [work_advance, flags_advance]
    exact updateRows_other F ho r hj

section
variable {c : Core} {r : Routine}

theorem microStep_end (h : (bits (stepWord c r) 60 4).toNat = 0) : microStep c r = .ok { r with ended := true } := by
  simp only [microStep, h]

theorem microStep_idle (h : (bits (stepWord c r) 60 4).toNat = 1) :
    microStep c r = .ok (advance r ((bits (stepWord c r) 44 16).toNat + 1)) := by
  simp only [microStep, h]

/-- The line that a BINDW names (R181). -/
def bindLine (c : Core) (r : Routine) : Word :=
  let w := stepWord c r
  (if w.getLsbD 55 then Table.get 0 r.regs (bits w 52 3).toNat else 0) + (bits w 37 15).setWidth 64 +
    BitVec.ofNat 64 (r.pass * (bits w 25 12).toNat)

theorem microStep_bindw (h : (bits (stepWord c r) 60 4).toNat = 2) : microStep c r =
    if 32767 < (bindLine c r).toNat then .error ⟨8, 0x200, bindLine c r, faultStep r, 16⟩
    else
      let b := ((bindLine c r).toNat, (bits (stepWord c r) 56 2).toNat)
      .ok (advance { r with bindings := r.bindings.put (bits (stepWord c r) 58 2).toNat b } 4) := by
  simp only [microStep, h, bindLine]
  rfl

theorem microStep_mma (h : (bits (stepWord c r) 60 4).toNat = 3 ∨ (bits (stepWord c r) 60 4).toNat = 4) :
    microStep c r = microStep.mma c r ((bits (stepWord c r) 60 4).toNat = 4) (stepWord c r) := by
  rcases h with h | h <;> simp [microStep, h]

theorem microStep_loop (h : (bits (stepWord c r) 60 4).toNat = 5) : microStep c r = .ok { r with
    passes := (bits (stepWord c r) 48 12).toNat, pass := 0, body := r.pos + 1, len := (bits (stepWord c r) 44 4).toNat
    loopWord := stepWord c r, pos := r.pos + 1 } := by
  simp only [microStep, h]

theorem microStep_clr (h : (bits (stepWord c r) 60 4).toNat = 6) :
    microStep c r = .ok (advance (updateRows (fun _ _ _ => (0, 0)) (bits (stepWord c r) 58 2).toNat 128 r) 1) := by
  simp only [microStep, h, mapRows_eq]

theorem microStep_adda (h : (bits (stepWord c r) 60 4).toNat = 7) :
    microStep c r =
      let k := (bits (stepWord c r) 57 3).toNat
      .ok (advance { r with regs := r.regs.put k (Table.get 0 r.regs k + (bits (stepWord c r) 25 32).signExtend 64) } 1) := by
  simp only [microStep, h]

theorem microStep_acopy (h : (bits (stepWord c r) 60 4).toNat = 8) :
    microStep c r = .ok (advance (updateRows (fun j _ _ => (Table.get 0 r.work ((bits (stepWord c r) 56 2).toNat * 128 + j),
      Table.get 0 r.flags ((bits (stepWord c r) 56 2).toNat * 128 + j))) (bits (stepWord c r) 58 2).toNat 128 r) 16) := by
  simp only [microStep, h, mapRows_eq]

theorem microStep_ascale (h : (bits (stepWord c r) 60 4).toNat = 9) :
    microStep c r = .ok (advance (updateRows (fun j _ _ =>
      let p := scaleRow ((Table.get 0 r.regs (bits (stepWord c r) 55 3).toNat).toNat % 2 ^ 32)
        (Table.get 0 r.work ((bits (stepWord c r) 58 2).toNat * 128 + j))
      (p.1, Table.get 0 r.flags ((bits (stepWord c r) 58 2).toNat * 128 + j) ||| p.2)) (bits (stepWord c r) 58 2).toNat 128 r) 16) := by
  simp only [microStep, h, mapRows_eq]

/-- One MMA or MMAN step on the rows of its accumulator. -/
theorem mmaStep_eq (c : Core) (r : Routine) (neg : Bool) (o : MmaOps) (map : Nat) : mmaStep c r neg o map =
    updateRows (fun j w f =>
      let p := mmaRow neg ((List.range 128).map (weightSides c o map)) (tileSides c o map j) w
      (p.1, f ||| p.2)) o.ao 128 r := by
  simp only [mmaStep, updateRows]

end

/-- One element of an accumulator row after a step. -/
def mmaElem (neg : Bool) (ws tile : List Side) (a : Nat) : Rounded :=
  (ws.zip tile).foldl (fun a xy => accumulate neg a (pairProduct xy.1 xy.2)) ⟨a, 0⟩

theorem zip_range_map {α : Type} (n : Nat) (g : Nat → α) : (List.range n).zip ((List.range n).map g) = (List.range n).map fun i => (i, g i) :=
  List.ext_getElem (by simp) fun i h1 h2 => by simp

theorem foldl_flags (out : Nat → Rounded) (n : Nat) :
    ((List.range n).map out).foldl (fun f r => f ||| r.flags) 0 = flagsOf (fun _ => true) out n := by
  induction n with
  | zero => rfl
  | succ n ih =>
    rw [List.range_succ, List.map_append, List.foldl_append, ih]
    rfl

theorem mmaRow_eq (neg : Bool) (ws : Nat → List Side) (tile : List Side) (a : Vec) :
    mmaRow neg ((List.range 128).map ws) tile a =
      let out := fun i => mmaElem neg (ws i) tile (elem 32 a i)
      (pack 32 128 fun i => (((List.range 128).map out).getD i ⟨0, 0⟩).enc, flagsOf (fun _ => true) out 128) := by
  dsimp only
  rw [← foldl_flags]
  unfold mmaRow
  rw [zip_range_map, List.map_map]
  rfl

theorem elem_pack_map (f : Nat → Rounded) {i : Nat} (hi : i < 128) :
    elem 32 (pack 32 128 fun i => (((List.range 128).map f).getD i ⟨0, 0⟩).enc) i = (f i).enc % 2 ^ 32 := by
  rw [pack, elem_ofNat_packNat (by decide) hi, List.getD_eq_getElem _ _ (by simpa using hi), List.getElem_map, List.getElem_range]

/-- What an MMA or MMAN step computes on its accumulator (R183). -/
theorem mmaStep_spec (c : Core) (r : Routine) (neg : Bool) (o : MmaOps) (map cost : Nat) :
    let t := advance (mmaStep c r neg o map) cost
    Moved r t cost ∧ t.regs = r.regs ∧ t.bindings = r.bindings ∧
    (∀ o' ≠ o.ao, ∀ j < 128, Table.get 0 t.work (o' * 128 + j) = Table.get 0 r.work (o' * 128 + j) ∧
      Table.get 0 t.flags (o' * 128 + j) = Table.get 0 r.flags (o' * 128 + j)) ∧
    ∀ j < 128,
      let out := fun i => mmaElem neg (weightSides c o map i) (tileSides c o map j) (elem 32 (Table.get 0 r.work (o.ao * 128 + j)) i)
      (∀ i < 128, elem 32 (Table.get 0 t.work (o.ao * 128 + j)) i = (out i).enc % 2 ^ 32) ∧
      Table.get 0 t.flags (o.ao * 128 + j) = Table.get 0 r.flags (o.ao * 128 + j) ||| flagsOf (fun _ => true) out 128 := by
  intro t
  have ht : t = advance (updateRows _ o.ao 128 r) cost := congrArg (advance · cost) (mmaStep_eq c r neg o map)
  obtain ⟨hmoved, hregs, hbind, hrow, hother⟩ := advance_updateRows (fun j w f =>
      let p := mmaRow neg ((List.range 128).map (weightSides c o map)) (tileSides c o map j) w
      (p.1, f ||| p.2)) o.ao cost r
  rw [← ht] at hmoved hregs hbind hrow hother
  refine ⟨hmoved, hregs, hbind, hother, fun j hj => ?_⟩
  obtain ⟨hw, hf⟩ := Prod.mk.inj (hrow j hj)
  rw [mmaRow_eq] at hw hf
  exact ⟨fun i hi => by rw [hw]; exact elem_pack_map _ hi, hf⟩

theorem elem_scaleRow (f : Nat) (a : Vec) {i : Nat} (hi : i < 128) :
    elem 32 (scaleRow f a).1 i = (f32.mulV 0 (f32.decode (elem 32 a i)) (f32.decode f)).enc % 2 ^ 32 :=
  elem_ofNat_packNat (by decide) hi _

section
variable {c : Core} {r : Routine} {w : Word} {neg : Bool}

theorem mma_error {k : Check} (hk : mmaCheck c r (mmaOps r w) ((c.wbGet (mmaOps r w).line).toNat % 2 ^ (128 * rowBlocks (mmaOps r w).fmt)) = some k) :
    microStep.mma c r neg w = .error k := by
  simp only [microStep.mma, hk]

theorem mma_ok (hk : mmaCheck c r (mmaOps r w) ((c.wbGet (mmaOps r w).line).toNat % 2 ^ (128 * rowBlocks (mmaOps r w).fmt)) = none) :
    microStep.mma c r neg w = .ok (advance (mmaStep c r neg (mmaOps r w)
      ((c.wbGet (mmaOps r w).line).toNat % 2 ^ (128 * rowBlocks (mmaOps r w).fmt))) (mmaCost (mmaOps r w))) := by
  simp only [microStep.mma, hk]

end

theorem mmaCost_eq (o : MmaOps) :
    mmaCost o = if o.fmt = 13 then 16 else if o.b = 6 then 64 else if o.fmt = 11 ∧ o.b = 0 then 16 else 32 := by
  simp [mmaCost]

/-- Settles O29: each micro-step has an equation of its own, and what it does to the rows is the rule of `updateRows`. -/
theorem routinesRun : Obligations.RoutinesRun := by
  refine ⟨fun s g r => ⟨fun hrun hb hstart hp r1 hsteps => ⟨fun o ho j hj hen => work_beginRoutine _ r ho hj hen,
    routineStart_runs s g hrun hb hstart hp hsteps⟩, fun hrun hstop => ⟨routineLanding_lands s g hrun hstop, mem_routineWritesOf _ r⟩⟩,
    fun c r => ?_⟩
  intro w op ad acc fl kept moved line mops map
  have hmoved : ∀ {q : Routine} {n : Nat}, SamePlace r q → moved (advance q n) n := fun h => moved_advance h _
  refine ⟨microStep_end, fun h => ⟨_, microStep_idle h, hmoved (.refl r), work_advance .., flags_advance .., regs_advance .., bindings_advance ..⟩,
    fun h hle => ⟨_, (microStep_bindw h).trans (if_neg (Nat.not_lt.mpr hle)), hmoved ⟨rfl, rfl, rfl, rfl, rfl, rfl, rfl⟩, work_advance ..,
      flags_advance .., regs_advance .., fun k => ?bindw⟩,
    fun h hlt => (microStep_bindw h).trans (if_pos hlt), fun h => ⟨fun k hk => ?mmaBad, fun hk => ?mma⟩, microStep_loop,
    fun h => ?clr, fun h => ⟨_, microStep_adda h, hmoved ⟨rfl, rfl, rfl, rfl, rfl, rfl, rfl⟩, work_advance .., flags_advance .., fun k => ?adda⟩,
    fun h => ?acopy, fun h => ?ascale⟩
  case bindw =>
    rw [bindings_advance]
    exact Table.get_put ..
  case adda =>
    rw [regs_advance]
    refine (Table.get_put ..).trans ?_
    split
    case isTrue hk => rw [hk]
    case isFalse => rfl
  case mmaBad =>
    exact (microStep_mma h).trans (mma_error hk)
  case mma =>
    obtain ⟨hmv, hregs, hbind, hother, hrow⟩ := mmaStep_spec c r (op = 4) mops map (mmaCost mops)
    refine ⟨_, (microStep_mma h).trans (mma_ok hk), hregs, hbind, ?_, hother, hrow⟩
    rw [← mmaCost_eq]
    exact hmv
  case clr =>
    obtain ⟨hmv, hregs, -, hrow, hother⟩ := advance_updateRows (fun _ _ _ => (0, 0)) ad 1 r
    exact ⟨_, microStep_clr h, hmv, hregs, fun j hj => Prod.mk.inj (hrow j hj), hother⟩
  case acopy =>
    obtain ⟨hmv, hregs, -, hrow, hother⟩ := advance_updateRows (fun j _ _ => (acc r (bits w 56 2).toNat j, fl r (bits w 56 2).toNat j)) ad 16 r
    exact ⟨_, microStep_acopy h, hmv, hregs, fun j hj => Prod.mk.inj (hrow j hj), hother⟩
  case ascale =>
    obtain ⟨hmv, hregs, -, hrow, hother⟩ := advance_updateRows (fun j _ _ =>
      let p := scaleRow ((Table.get 0 r.regs (bits w 55 3).toNat).toNat % 2 ^ 32) (acc r ad j)
      (p.1, fl r ad j ||| p.2)) ad 16 r
    refine ⟨_, microStep_ascale h, hmv, hregs, fun j hj => ?_, hother⟩
    obtain ⟨hw, hf⟩ := Prod.mk.inj (hrow j hj)
    exact ⟨fun i hi => (congrArg (elem 32 · i) hw).trans (elem_scaleRow _ _ hi), hf⟩

end Sys2Proof.Machine
end

section
/-!
PROOFS. Loads, stores and atomics (R192, R195 to R200, R221): how an address forms, and how an access goes out.
-/
namespace Sys2Proof.Machine

/-! ## The address of an access (R195 to R198) -/

section
variable {f : Form} {s : State} {c : Core} {write : Bool}

/-- The handle that the record of a form names. -/
def Form.handle (f : Form) (c : Core) : Handle := c.hUse (c.bfGet f.bfn).hnum

/-- The handle of a form permits the access. -/
def Form.Permitted (f : Form) (c : Core) (write : Bool) : Prop :=
  (f.handle c).valid = true ∧ (f.handle c).cut = false ∧ (write = true → (f.handle c).write = true)

theorem handleUse_of_invalid {n x : Nat} {hd : Handle} (h : hd.valid = false ∨ hd.cut = true) :
    handleUse n hd write x = some (handleCheck n hd) := by
  have : (!hd.valid || hd.cut) = true := by rcases h with h | h <;> simp [h]
  exact if_pos this

theorem handleUse_of_readOnly {n x : Nat} {hd : Handle} (hv : hd.valid = true) (hc : hd.cut = false) (hw : hd.write = false) :
    handleUse n hd true x = some (protCheck 1 (hd.va.toNat + x)) := by
  simp [handleUse, hv, hc, hw]

theorem Form.Permitted.handleUse {x : Nat} (h : f.Permitted c write) :
    handleUse (c.bfGet f.bfn).hnum (f.handle c) write x = none := by
  obtain ⟨hv, hc, hw⟩ := h
  cases write <;> simp [Machine.handleUse, hv, hc]
  exact hw rfl

theorem Form.form_of_handleUse {k : Check}
    (h : handleUse (c.bfGet f.bfn).hnum (f.handle c) write ((c.bfGet f.bfn).base + ((f.parts.headD (0, 0)).2).toNat) = some k) :
    f.form s c write = .error k := by
  unfold Form.handle at h
  simp only [Form.form, formAccess, h]

/-- The parts of a form, placed. -/
def Form.placed (f : Form) (c : Core) : Except Check Formed :=
  formParts f.bfn (c.bfGet f.bfn) (f.handle c) f.size f.elem f.align f.parts

theorem Form.form_of_error (hp : f.Permitted c write) {k : Check} (h : f.placed c = .error k) : f.form s c write = .error k := by
  have hu := hp.handleUse (x := (c.bfGet f.bfn).base + ((f.parts.headD (0, 0)).2).toNat)
  unfold Form.placed at h
  unfold Form.handle at h hu
  simp only [Form.form, formAccess, hu, h]

theorem Form.form_of_ok (hp : f.Permitted c write) {a : Formed} (h : f.placed c = .ok a) :
    f.form s c write = match addressCheck s write a.spans with | some k => .error k | none => .ok a := by
  have hu := hp.handleUse (x := (c.bfGet f.bfn).base + ((f.parts.headD (0, 0)).2).toNat)
  unfold Form.placed at h
  unfold Form.handle at h hu
  simp only [Form.form, formAccess, hu, h] <;> rfl

theorem formParts_one {bfn : Nat} {bf : BufRec} {hd : Handle} {size elem align off : Nat} {o : Int} :
    formParts bfn bf hd size elem align [(off, o)] = formPart bfn bf hd o off size elem align := by
  simp only [formParts]
  cases formPart bfn bf hd o off size elem align with
  | error k => rfl
  | ok a => simp

/-- Part of an access placed at an offset: beyond the handle's extent it is a bounds fault. -/
def placePart (bfn : Nat) (bf : BufRec) (hd : Handle) (o : Int) (n off : Nat) (d : Bool) : Except Check Formed :=
  if hd.extent < bf.base + o.toNat + n then .error (boundsCheck bfn o) else .ok ⟨[⟨off, hd.base + bf.base + o.toNat, n⟩], d⟩

theorem placeRun_eq_placePart (bfn : Nat) (bf : BufRec) (hd : Handle) (o : Int) (n off : Nat) (d : Bool) :
    (match placeRun bfn bf hd o n off with | .ok sp => Except.ok (Formed.mk sp d) | .error e => .error e) = placePart bfn bf hd o n off d := by
  unfold placeRun placePart
  dsimp only
  by_cases h : bf.base + o.toNat + n ≤ hd.extent
  · rw [if_pos h, if_neg (by omega), ← Nat.add_assoc]
  · rw [if_neg h, if_pos (by omega)]

/-- The elements of a part that `zero` mode keeps (R197). -/
def keptFrom (elem : Nat) (o : Int) : Nat := if o < 0 then ((-o).toNat + elem - 1) / elem else 0
def keptTo (size elem : Nat) (ext o : Int) : Nat := Nat.min (size / elem) ((ext - o).toNat / elem)

theorem formPart_eq (bfn : Nat) (bf : BufRec) (hd : Handle) (o : Int) (off size elem align : Nat) :
    formPart bfn bf hd o off size elem align =
      if ¬ (align : Int) ∣ o then .error (boundsCheck bfn o)
      else if 0 ≤ o ∧ o + size ≤ bf.ext then placePart bfn bf hd o size off false
      else if bf.mode = 1 then
        if bf.ext < size then .error (boundsCheck bfn o)
        else placePart bfn bf hd (min (max o 0) (((bf.ext - size) / align * align : Nat) : Int)) size off false
      else if bf.mode = 2 then
        if keptFrom elem o < keptTo size elem bf.ext o then
          placePart bfn bf hd (o + (keptFrom elem o * elem : Nat)) ((keptTo size elem bf.ext o - keptFrom elem o) * elem)
            (off + keptFrom elem o * elem) true
        else .ok ⟨[], true⟩
      else .error (boundsCheck bfn o) := by
  have hin : (decide (0 ≤ o) && decide (o + size ≤ (bf.ext : Int))) = true ↔ 0 ≤ o ∧ o + size ≤ bf.ext := by simp
  unfold formPart
  dsimp only
  refine if_congr (not_congr Int.dvd_iff_emod_eq_zero.symm) rfl (if_congr hin (placeRun_eq_placePart ..) ?_)
  by_cases h1 : bf.mode = 1
  · rw [if_pos h1]
    simp only [h1]
    refine if_congr Int.ofNat_lt rfl ((placeRun_eq_placePart ..).trans (congrArg (placePart bfn bf hd · size off false) ?_))
    split_ifs <;> omega
  · rw [if_neg h1]
    by_cases h2 : bf.mode = 2
    · rw [if_pos h2]
      simp only [h2]
      exact if_congr Iff.rfl (placeRun_eq_placePart ..) rfl
    · rw [if_neg h2]
      split
      · contradiction
      · contradiction
      · rfl

/-- The elements of a part of `n` elements that lie in range are those that `zero` mode keeps. -/
theorem kept_iff {n elem ext : Nat} {o : Int} (he : 0 < elem) {k : Nat} (hk : k < n) :
    (keptFrom elem o ≤ k ∧ k < keptTo (n * elem) elem ext o) ↔ (0 ≤ o + (k * elem : Nat) ∧ o + ((k + 1) * elem : Nat) ≤ ext) := by
  have hlow : keptFrom elem o ≤ k ↔ 0 ≤ o + (k * elem : Nat) := by
    unfold keptFrom
    split
    · have hdiv : ((-o).toNat + elem - 1) / elem ≤ k ↔ (-o).toNat + elem - 1 < (k + 1) * elem := by
        rw [← Nat.lt_succ_iff, Nat.div_lt_iff_lt_mul he]
      rw [hdiv, Nat.succ_mul]
      omega
    · exact ⟨fun _ => by omega, fun _ => Nat.zero_le _⟩
  have hhigh : k < keptTo (n * elem) elem ext o ↔ o + ((k + 1) * elem : Nat) ≤ ext := by
    unfold keptTo
    rw [Nat.mul_div_cancel n he]
    have hmin : k < Nat.min n (((ext : Int) - o).toNat / elem) ↔ k < ((ext : Int) - o).toNat / elem :=
      ⟨fun h => h.trans_le (Nat.min_le_right ..), fun h => Nat.lt_min.mpr ⟨hk, h⟩⟩
    have hpos : 0 < (k + 1) * elem := Nat.mul_pos (Nat.succ_pos k) he
    have hdiv : k < ((ext : Int) - o).toNat / elem ↔ (k + 1) * elem ≤ ((ext : Int) - o).toNat := Nat.le_div_iff_mul_le he
    rw [hmin, hdiv]
    omega
  rw [hlow, hhigh]

/-- The range of elements that `zero` mode keeps is the one that the offsets give. -/
theorem kept_eq {n elem ext lo hi : Nat} {o : Int} (he : 0 < elem) (hle : lo ≤ hi) (hn : hi ≤ n)
    (h : ∀ k : Nat, k < n → ((lo ≤ k ∧ k < hi) ↔ (0 ≤ o + (k * elem : Nat) ∧ o + ((k + 1) * elem : Nat) ≤ ext))) :
    if lo < hi then keptFrom elem o = lo ∧ keptTo (n * elem) elem ext o = hi
    else ¬ keptFrom elem o < keptTo (n * elem) elem ext o := by
  have hsame : ∀ k : Nat, k < n → ((lo ≤ k ∧ k < hi) ↔ (keptFrom elem o ≤ k ∧ k < keptTo (n * elem) elem ext o)) := fun k hk =>
    (h k hk).trans (kept_iff he hk).symm
  have hto : keptTo (n * elem) elem ext o ≤ n := by
    unfold keptTo
    rw [Nat.mul_div_cancel n he]
    exact Nat.min_le_left ..
  generalize keptFrom elem o = a at hsame ⊢
  generalize keptTo (n * elem) elem ext o = b at hsame hto ⊢
  split
  case isTrue hlt =>
    have h1 := hsame lo (by omega)
    have h2 := hsame (hi - 1) (by omega)
    have h3 := hsame a
    have h4 := hsame hi
    omega
  case isFalse hge =>
    intro hab
    have := hsame a (by omega)
    omega

/-- A form of one part whose part is placed: its addresses are checked. -/
theorem Form.form_of_placePart (hp : f.Permitted c write) {off n off' : Nat} {o o' : Int} {d : Bool} (hparts : f.parts = [(off, o)])
    (h : formPart f.bfn (c.bfGet f.bfn) (f.handle c) o off f.size f.elem f.align = placePart f.bfn (c.bfGet f.bfn) (f.handle c) o' n off' d) :
    let sp : Span := ⟨off', (f.handle c).base + (c.bfGet f.bfn).base + o'.toNat, n⟩
    if (f.handle c).extent < (c.bfGet f.bfn).base + o'.toNat + n then f.form s c write = .error (boundsCheck f.bfn o')
    else match addressCheck s write [sp] with
      | some k => f.form s c write = .error k
      | none => f.form s c write = .ok ⟨[sp], d⟩ := by
  intro sp
  have hplaced : f.placed c = placePart f.bfn (c.bfGet f.bfn) (f.handle c) o' n off' d := by
    rw [Form.placed, hparts, formParts_one, h]
  unfold placePart at hplaced
  split
  case isTrue hlt =>
    rw [if_pos hlt] at hplaced
    exact Form.form_of_error hp hplaced
  case isFalse hge =>
    rw [if_neg hge] at hplaced
    rw [Form.form_of_ok hp hplaced]
    cases addressCheck s write [sp] <;> rfl

/-- A form of one part whose part fails. -/
theorem Form.form_of_badPart (hp : f.Permitted c write) {off : Nat} {o : Int} {k : Check} (hparts : f.parts = [(off, o)])
    (h : formPart f.bfn (c.bfGet f.bfn) (f.handle c) o off f.size f.elem f.align = .error k) : f.form s c write = .error k :=
  Form.form_of_error hp (by rw [Form.placed, hparts, formParts_one, h])

/-- The rule of one part (R197, R198). -/
theorem Form.form_one (hp : f.Permitted c write) {off : Nat} {o : Int} (hparts : f.parts = [(off, o)]) :
    let bf := c.bfGet f.bfn
    let hd := f.handle c
    let bounds := boundsCheck f.bfn
    let inRange := 0 ≤ o ∧ o + f.size ≤ bf.ext
    let run := fun (o' : Int) (n off' : Nat) (d : Bool) =>
      let sp : Span := ⟨off', hd.base + bf.base + o'.toNat, n⟩
      if hd.extent < bf.base + o'.toNat + n then f.form s c write = .error (bounds o')
      else match addressCheck s write [sp] with
        | some k => f.form s c write = .error k
        | none => f.form s c write = .ok ⟨[sp], d⟩
    (¬ (f.align : Int) ∣ o → f.form s c write = .error (bounds o)) ∧
    ((f.align : Int) ∣ o → inRange → run o f.size off false) ∧
    ((f.align : Int) ∣ o → ¬ inRange → bf.mode ≠ 1 → bf.mode ≠ 2 → f.form s c write = .error (bounds o)) ∧
    ((f.align : Int) ∣ o → ¬ inRange → bf.mode = 1 →
      (bf.ext < f.size → f.form s c write = .error (bounds o)) ∧
      (f.size ≤ bf.ext → run (min (max o 0) (((bf.ext - f.size) / f.align * f.align : Nat) : Int)) f.size off false)) ∧
    (∀ n lo hi : Nat, (f.align : Int) ∣ o → ¬ inRange → bf.mode = 2 → 0 < f.elem → f.size = n * f.elem → lo ≤ hi → hi ≤ n →
      (∀ k : Nat, k < n → ((lo ≤ k ∧ k < hi) ↔ (0 ≤ o + (k * f.elem : Nat) ∧ o + ((k + 1) * f.elem : Nat) ≤ bf.ext))) →
      (lo < hi → run (o + (lo * f.elem : Nat)) ((hi - lo) * f.elem) (off + lo * f.elem) true) ∧
      (lo = hi → f.form s c write = .ok ⟨[], true⟩)) := by
  intro bf hd bounds inRange run
  have hpart := formPart_eq f.bfn bf hd o off f.size f.elem f.align
  refine ⟨fun ha => ?_, fun ha hin => ?_, fun ha hin h1 h2 => ?_, fun ha hin h1 => ⟨fun hext => ?_, fun hext => ?_⟩,
    fun n lo hi ha hin h2 he hsize hle hn hk => ⟨fun hlt => ?_, fun heq => ?_⟩⟩
  · exact Form.form_of_badPart hp hparts (hpart.trans (if_pos ha))
  · exact Form.form_of_placePart hp hparts (hpart.trans ((if_neg (not_not.mpr ha)).trans (if_pos hin)))
  · exact Form.form_of_badPart hp hparts (hpart.trans ((if_neg (not_not.mpr ha)).trans ((if_neg hin).trans ((if_neg h1).trans (if_neg h2)))))
  · exact Form.form_of_badPart hp hparts (hpart.trans ((if_neg (not_not.mpr ha)).trans ((if_neg hin).trans ((if_pos h1).trans (if_pos hext)))))
  · exact Form.form_of_placePart hp hparts
      (hpart.trans ((if_neg (not_not.mpr ha)).trans ((if_neg hin).trans ((if_pos h1).trans (if_neg (Nat.not_lt.mpr hext))))))
  · have hkept := kept_eq he hle hn hk
    rw [if_pos hlt, ← hsize] at hkept
    obtain ⟨hfrom, hto⟩ := hkept
    refine Form.form_of_placePart hp hparts
      (hpart.trans ((if_neg (not_not.mpr ha)).trans ((if_neg hin).trans ((if_neg (by omega)).trans ((if_pos h2).trans ?_)))))
    rw [hfrom, hto, if_pos hlt]
  · have hkept := kept_eq he hle hn hk
    rw [if_neg (by omega), ← hsize] at hkept
    have hplaced : f.placed c = .ok ⟨[], true⟩ := by
      rw [Form.placed, hparts, formParts_one]
      exact hpart.trans ((if_neg (not_not.mpr ha)).trans ((if_neg hin).trans ((if_neg (by omega)).trans ((if_pos h2).trans (if_neg hkept)))))
    exact Form.form_of_ok hp hplaced

end

section
variable {f : Form} {s : State} {c : Core} {write : Bool}

theorem addressCheck_cons (s : State) (write : Bool) (sp : Span) (rest : List Span) :
    addressCheck s write (sp :: rest) =
      let last := sp.pa + (sp.len - 1)
      if !reachable s sp.pa then some (protCheck 3 sp.pa)
      else if !reachable s last then some (protCheck 3 last)
      else if write && isHbm sp.pa && (isCommons s sp.pa || isCommons s last) then some (protCheck 4 sp.pa)
      else if write && isHbm sp.pa && (readOnlySet s sp.pa || readOnlySet s last) then some (protCheck 5 sp.pa)
      else addressCheck s write rest := rfl

theorem addressCheck_append_of_none {a b : List Span} (ha : addressCheck s write a = none) :
    addressCheck s write (a ++ b) = addressCheck s write b := by
  induction a with
  | nil => rfl
  | cons sp a ih =>
    rw [addressCheck_cons] at ha
    rw [List.cons_append, addressCheck_cons]
    dsimp only at ha ⊢
    split_ifs at ha ⊢
    exact ih ha

theorem addressCheck_code {l : List Span} {k : Check} (h : addressCheck s write l = some k) : k.code = 7 := by
  induction l with
  | nil => exact absurd h.symm (Option.some_ne_none k)
  | cons sp l ih =>
    rw [addressCheck_cons] at h
    dsimp only at h
    split_ifs at h
    · exact Option.some.inj h ▸ rfl
    · exact Option.some.inj h ▸ rfl
    · exact Option.some.inj h ▸ rfl
    · exact Option.some.inj h ▸ rfl
    · exact ih h

/-- The deep tier is no address that a core may access (R264). -/
theorem reachable_eq_false_of_isDeep {pa : Nat} (h : isDeep pa = true) : reachable s pa = false := by
  obtain ⟨hlo, hhi⟩ := Bool.and_eq_true_iff.mp h
  have hlo : 0x20000000000 ≤ pa := of_decide_eq_true hlo
  have hhi : pa < 2 * 0x20000000000 := of_decide_eq_true hhi
  have hhbm : isHbm pa = false := decide_eq_false (by omega)
  have hscratch : isScratch pa = false := Bool.and_eq_false_iff.mpr (.inr (decide_eq_false (by unfold scratchBase; omega)))
  have hdomain : isDomain pa = false := Bool.and_eq_false_iff.mpr (.inl (decide_eq_false (by unfold domainBase; omega)))
  have hhost : isHost pa = false := Bool.and_eq_false_iff.mpr (.inl (decide_eq_false (by unfold hostBase; omega)))
  simp only [reachable, hhbm, hscratch, hdomain, hhost, Bool.false_eq_true, if_false]

/-- The steps of the address check of a run (R196). -/
theorem addressCheck_steps (s : State) (write : Bool) (sp : Span) (rest : List Span) :
    let last := sp.pa + (sp.len - 1)
    (reachable s sp.pa = false → addressCheck s write (sp :: rest) = some (protCheck 3 sp.pa)) ∧
    (reachable s sp.pa = true → reachable s last = false → addressCheck s write (sp :: rest) = some (protCheck 3 last)) ∧
    (isDeep sp.pa = true → reachable s sp.pa = false) ∧
    (reachable s sp.pa = true → reachable s last = true → write = true → isHbm sp.pa = true →
      (isCommons s sp.pa = true ∨ isCommons s last = true → addressCheck s write (sp :: rest) = some (protCheck 4 sp.pa)) ∧
      (isCommons s sp.pa = false → isCommons s last = false → readOnlySet s sp.pa = true ∨ readOnlySet s last = true →
        addressCheck s write (sp :: rest) = some (protCheck 5 sp.pa))) ∧
    (reachable s sp.pa = true → reachable s last = true →
      write = false ∨ isHbm sp.pa = false ∨ (isCommons s sp.pa = false ∧ isCommons s last = false ∧
        readOnlySet s sp.pa = false ∧ readOnlySet s last = false) →
      addressCheck s write (sp :: rest) = addressCheck s write rest) ∧
    addressCheck s write [] = none := by
  intro last
  rw [addressCheck_cons]
  dsimp only
  refine ⟨fun h => ?_, fun h h' => ?_, reachable_eq_false_of_isDeep, fun h h' hw hh => ⟨fun hc => ?_, fun hc hc' hr => ?_⟩, fun h h' hok => ?_, rfl⟩
  · rw [h]; rfl
  · rw [h, h']; rfl
  · rw [h, h', hw, hh]
    rcases hc with hc | hc <;> rw [hc] <;> simp
  · rw [h, h', hw, hh, hc, hc']
    rcases hr with hr | hr <;> rw [hr] <;> simp
  · rw [h, h']
    rcases hok with hw | hh | ⟨h1, h2, h3, h4⟩
    · rw [hw]; rfl
    · rw [hh]; simp
    · rw [h1, h2, h3, h4]; simp

/-- The first part of a form and the others, as forms of their own (R196, R200). -/
theorem Form.placed_cons {p : Nat × Int} {rest : List (Nat × Int)} (hparts : f.parts = p :: rest) :
    f.placed c = match ({ f with parts := [p] } : Form).placed c with
      | .error e => .error e
      | .ok a =>
        match ({ f with parts := rest } : Form).placed c with
        | .error e => .error e
        | .ok b => .ok ⟨a.spans ++ b.spans, a.dropped || b.dropped⟩ := by
  unfold Form.placed
  rw [hparts, formParts_one]
  rfl

theorem Form.placed_of_form_ok (hp : f.Permitted c write) {a : Formed} (h : f.form s c write = .ok a) :
    f.placed c = .ok a ∧ addressCheck s write a.spans = none := by
  cases hpl : f.placed c with
  | error k => rw [Form.form_of_error hp hpl] at h; cases h
  | ok b =>
    rw [Form.form_of_ok hp hpl] at h
    cases hc : addressCheck s write b.spans with
    | some k => rw [hc] at h; cases h
    | none =>
      rw [hc] at h
      cases h
      exact ⟨rfl, hc⟩

theorem Form.placed_of_form_error (hp : f.Permitted c write) {k : Check} (h : f.form s c write = .error k) :
    f.placed c = .error k ∨ ∃ a, f.placed c = .ok a ∧ addressCheck s write a.spans = some k := by
  cases hpl : f.placed c with
  | error k' => rw [Form.form_of_error hp hpl] at h; cases h; exact .inl rfl
  | ok b =>
    rw [Form.form_of_ok hp hpl] at h
    cases hc : addressCheck s write b.spans with
    | some k' => rw [hc] at h; cases h; exact .inr ⟨b, rfl, hc⟩
    | none => rw [hc] at h; cases h

theorem Form.form_cons (hp : f.Permitted c write) {p : Nat × Int} {rest : List (Nat × Int)} (hparts : f.parts = p :: rest) :
    let first := ({ f with parts := [p] } : Form).form s c write
    let others := ({ f with parts := rest } : Form).form s c write
    (∀ a b, first = .ok a → others = .ok b → f.form s c write = .ok ⟨a.spans ++ b.spans, a.dropped || b.dropped⟩) ∧
    (∀ a k, first = .ok a → others = .error k → f.form s c write = .error k) ∧
    (∀ k, first = .error k → k.code = 8 → f.form s c write = .error k) := by
  intro first others
  have hp1 : ({ f with parts := [p] } : Form).Permitted c write := hp
  have hp2 : ({ f with parts := rest } : Form).Permitted c write := hp
  have hplaced := Form.placed_cons (c := c) hparts
  refine ⟨fun a b ha hb => ?_, fun a k ha hk => ?_, fun k hk h8 => ?_⟩
  · obtain ⟨hpa, hca⟩ := Form.placed_of_form_ok hp1 ha
    obtain ⟨hpb, hcb⟩ := Form.placed_of_form_ok hp2 hb
    simp only [hpa, hpb] at hplaced
    rw [Form.form_of_ok hp hplaced]
    dsimp only
    rw [addressCheck_append_of_none hca, hcb]
  · obtain ⟨hpa, hca⟩ := Form.placed_of_form_ok hp1 ha
    rcases Form.placed_of_form_error hp2 hk with hpk | ⟨b, hpb, hcb⟩
    · simp only [hpa, hpk] at hplaced
      exact Form.form_of_error hp hplaced
    · simp only [hpa, hpb] at hplaced
      rw [Form.form_of_ok hp hplaced]
      dsimp only
      rw [addressCheck_append_of_none hca, hcb]
  · rcases Form.placed_of_form_error hp1 hk with hpk | ⟨a, -, hca⟩
    · simp only [hpk] at hplaced
      exact Form.form_of_error hp hplaced
    · exact absurd h8 (by rw [addressCheck_code hca]; decide)

end

/-! ## Loads (R192, R199, R200) -/

section
variable {s : State} {h : Head} {i : Instr} {f : Form} {cls ord arr size : Nat} {t : Target}

/-- The plan of a load. -/
def loadPlan (s : State) (h : Head) (reads : List ReadUnit) (f : Form) (cls ord arr size : Nat) (t : Target) : Plan :=
  flagPlan h s.curCore reads (loadCheck s s.curCore f arr) (fun s => runLoad s h f cls ord arr size t)
    (fun s => discardRequest s (slotNum h.slot) arr ((size + 63) / 64))

theorem runPlan_flagPlan_suppressed {reads : List ReadUnit} {k : Option Check} {run off : State → State}
    (hp : pendingCheck s.curCore (rFlagPred h.prd) = none) (he : flagPred s.curCore h.prd h.pn = false) :
    runPlan i (flagPlan h s.curCore reads k run off) s = .next (off s) := by
  simp [runPlan, Plan.fault, flagPlan, hp, he]

theorem withWord_of_code {k : Check} (hk : k.code ≠ 2) : withWord i k = k := if_neg hk

theorem Form.source_eq (f : Form) (c : Core) (a : Formed) :
    f.source c a = if a.spans = [] then [⟨0, (c.hUse (c.bfGet f.bfn).hnum).base + (c.bfGet f.bfn).base, 1⟩] else a.spans := by
  unfold Form.source
  simp only [List.isEmpty_iff]

/-- A load goes out, or fails its first check, or counts its landing entries. -/
theorem load_goes_out {reads : List ReadUnit} (hi : exec i s = runPlan i (loadPlan s h reads f cls ord arr size t) s) :
    let c := s.curCore
    (∀ a, FReady s h reads → f.form s c false = .ok a → arrivalCheck (arrivalMin s s.cur false (f.source c a)) arr = none →
      exec i s = .next (countOob (makeAccess s h cls ord .read (readPieces a.spans) size (some (arr, (size + 63) / 64, t)) 0)
        a.dropped)) ∧
    (∀ a, f.source c a = if a.spans = [] then [⟨0, (c.hUse (c.bfGet f.bfn).hnum).base + (c.bfGet f.bfn).base, 1⟩] else a.spans) ∧
    (∀ a m, FReady s h reads → f.form s c false = .ok a → arrivalMin s s.cur false (f.source c a) = some m → arr < m →
      exec i s = .next (stepFault s (slotNum h.slot) 4 m (BitVec.ofNat 64 arr) 0)) ∧
    (∀ k, FReady s h reads → f.form s c false = .error k →
      exec i s = .next (raise s (slotNum h.slot) (withWord i k))) ∧
    (pendingCheck c (rFlagPred h.prd) = none → flagPred c h.prd h.pn = false →
      exec i s = .next (discardRequest s (slotNum h.slot) arr ((size + 63) / 64))) := by
  intro c
  rw [hi]
  refine ⟨fun a hr ha harr => ?_, Form.source_eq f c, fun a m hr ha hm hlt => ?_, fun k hr hk => ?_, runPlan_flagPlan_suppressed⟩
  · have hcheck : loadCheck s c f arr = none := by simp only [loadCheck, ha, harr]
    refine (runPlan_fReady_of hr hcheck).trans (congrArg Host.Outcome.next ?_)
    simp only [runLoad, c, ha]
  · have hcheck : loadCheck s c f arr = some { code := 4, cause := m, arg0 := BitVec.ofNat 64 arr, arg1 := 0, handle := 16 } := by
      simp only [loadCheck, ha, hm, arrivalCheck, if_pos hlt]
    rw [loadPlan, runPlan_fReady_check hr hcheck, withWord_of_code (show (4 : Nat) ≠ 2 by decide)]
    rfl
  · have hcheck : loadCheck s c f arr = some k := by simp only [loadCheck, hk]
    rw [loadPlan, runPlan_fReady_check hr hcheck]

end

/-- Settles O30: the form of an address has its rules above, and every load is `loadPlan` of its form. -/
theorem loadsGoOut : Obligations.LoadsGoOut := by
  refine ⟨fun f s c write => ⟨fun hbad => ?_, fun off o rest hparts hv hc hw hro => ?_, fun off o hp hparts => Form.form_one hp hparts,
      fun p rest hp hparts => Form.form_cons hp hparts, addressCheck_steps s write⟩,
    fun c h unit size => ⟨fun x => rfl, fun x => rfl, fun x hu hs => ?_, fun b n off o => ⟨rfl, rfl, rfl⟩⟩,
    fun s h => ⟨fun x => ⟨load_goes_out rfl, load_goes_out rfl, fun k => load_goes_out rfl⟩, fun x => load_goes_out rfl⟩⟩
  · exact Form.form_of_handleUse (handleUse_of_invalid hbad)
  · subst hw
    have hu := Form.form_of_handleUse (s := s) (handleUse_of_readOnly (n := (c.bfGet f.bfn).hnum)
      (x := (c.bfGet f.bfn).base + ((f.parts.headD (0, 0)).2).toNat) hv hc hro)
    rwa [hparts] at hu
  · rw [hu, hs, Nat.mul_comm 2]
    rfl

/-! ## Stores (R192, R197, R200) -/

section
variable {s : State} {h : Head} {i : Instr} {f : Form} {cls ord : Nat} {o : Int} {data : List (Option Byte)} {reads : List ReadUnit}

theorem Form.movedTo_of_mode {c : Core} {a : Formed} (hm : (c.bfGet f.bfn).mode ≠ 1) : f.movedTo c a o = o := by
  unfold Form.movedTo
  dsimp only
  split
  case h_1 hmode _ _ => exact absurd hmode hm
  case h_2 => rfl

theorem runStore_of_ok {a : Formed} (ha : f.form s s.curCore true = .ok a) :
    runStore s h f cls ord o data =
      let ps := writePieces a.spans data
      countOob (absorbCur (makeAccess s h cls ord .write ps data.length none 0) 11 (BitVec.ofInt 24 (f.movedTo s.curCore a o)).toNat
        (ps.flatMap fun p => p.bytes.filterMap id)) a.dropped := by
  simp only [runStore, ha]

/-- A store goes out, or fails its check. -/
theorem store_goes_out {run : State → State} {k : Option Check}
    (hi : exec i s = runPlan i (flagPlan h s.curCore reads k run id) s) (hk : k = storeCheck s s.curCore f)
    (hrun : run s = runStore s h f cls ord o data) :
    let c := s.curCore
    (∀ a, FReady s h reads → f.form s c true = .ok a →
      let ps := writePieces a.spans data
      ((c.bfGet f.bfn).mode ≠ 1 → f.movedTo c a o = o) ∧
      exec i s = .next (countOob (absorbCur (makeAccess s h cls ord .write ps data.length none 0) 11
        (BitVec.ofInt 24 (f.movedTo c a o)).toNat (ps.flatMap fun p => p.bytes.filterMap id)) a.dropped)) ∧
    (∀ k, FReady s h reads → f.form s c true = .error k → exec i s = .next (raise s (slotNum h.slot) (withWord i k))) := by
  intro c
  refine ⟨fun a hr ha => ⟨Form.movedTo_of_mode, ?_⟩, fun k' hr hk' => ?_⟩
  · have hcheck : k = none := by
      have ha' : f.form s s.curCore true = .ok a := ha
      simp only [hk, storeCheck, ha']
    rw [hi, runPlan_fReady_of hr hcheck, hrun, runStore_of_ok ha]
  · have hcheck : k = some k' := by
      have hf : f.form s s.curCore true = .error k' := hk'
      simp only [hk, storeCheck, hf]
    rw [hi, runPlan_fReady_check hr hcheck]

end

theorem exec_stVector {h : Head} {x : FmtE} {s : State} : exec (.stVector h x) s = runPlan (.stVector h x)
    (flagPlan h s.curCore ([rV x.d.toNat, rS x.so.toNat] ++ if x.lm = 15 then [] else [rM x.lm.toNat])
      (if storeLanes s.curCore x.lm = 0 then none
        else storeCheck s s.curCore (vectorStoreForm x.bf.toNat (storeLanes s.curCore x.lm) (offE s.curCore h x 4 512)))
      (fun t => if storeLanes s.curCore x.lm = 0 then t
        else runStore t h (vectorStoreForm x.bf.toNat (storeLanes s.curCore x.lm) (offE s.curCore h x 4 512)) x.cls.toNat x.ord.toNat
          (offE s.curCore h x 4 512) (vectorStoreData (s.curCore.vGet x.d.toNat) (storeLanes s.curCore x.lm))) id) s := rfl

/-- Settles O31: every store is the plan of its form; a vector store with no lane enabled has no check and does nothing. -/
theorem storesGoOut : Obligations.StoresGoOut := by
  intro s h
  refine ⟨fun x => ⟨fun hm => ?_, fun hm hr => ?_, store_goes_out rfl rfl rfl, fun k => store_goes_out rfl rfl rfl⟩,
    fun x => store_goes_out rfl rfl rfl⟩
  · exact store_goes_out exec_stVector (if_neg hm) (if_neg hm)
  · rw [exec_stVector, runPlan_fReady_of hr (if_pos hm), if_pos hm]

/-! ## Atomics (R221, R224) -/

section
variable {s : State} {h : Head} {x : FmtU} {i : Instr} {op : Nat}

/-- An atomic goes out with the next identifier of its target, or counts its landing entry, or fails its check. -/
theorem atomic_goes_out (hi : exec i s = runPlan i (atomicPlan h x op s) s) :
    let c := s.curCore
    let a := (c.sGet x.sa.toNat).setWidth 32
    let b := (c.sGet x.sb.toNat).setWidth 32
    let sg := (c.bfGet x.bf.toNat).fmt = 0
    let reads := [rS x.sa.toNat, rS x.so.toNat] ++ if op = 7 then [rS x.sb.toNat] else []
    (∀ f sp, FReady s h reads → atomicCheck s c x = none → (atomicForm c x).form s c true = .ok f → f.spans = [sp] →
      let t := targetOf s sp.pa
      let id := Table.get 0 c.atomIds t
      exec i s = .next (countOob (absorbCur (makeAccess
        (s.setCore s.cur { c with atomIds := Table.put c.atomIds t ((id + 1) % 65536) }) h x.cls.toNat x.ord.toNat
        (.atomic op a b sg) (readPieces f.spans) 4 (some (x.arr.toNat, 1, .scalar x.sd.toNat 4 sg)) id)
        13 (0x38 + op) (leBytes 4 a.toNat ++ leBytes 4 b.toNat)) f.dropped)) ∧
    (pendingCheck c (rFlagPred h.prd) = none → flagPred c h.prd h.pn = false →
      exec i s = .next (discardRequest s (slotNum h.slot) x.arr.toNat 1)) ∧
    (∀ k, FReady s h reads → atomicCheck s c x = some k → exec i s = .next (raise s (slotNum h.slot) (withWord i k))) := by
  intro c a b sg reads
  rw [hi]
  refine ⟨fun f sp hr hk hf hsp => ?_, runPlan_flagPlan_suppressed, fun k hr hk => ?_⟩
  · intro t id
    rw [atomicPlan, runPlan_fReady_of hr hk]
    have hform : (atomicForm s.curCore x).form s s.curCore true = .ok f := hf
    simp only [runAtomicIssue, hform, hsp]
    rfl
  · rw [atomicPlan, runPlan_fReady_check hr hk]

end

/-- Settles O32: each of the eight atomics is `atomicPlan` with its code. -/
theorem atomicsGoOut : Obligations.AtomicsGoOut := fun _ _ _ =>
  ⟨atomic_goes_out rfl, atomic_goes_out rfl, atomic_goes_out rfl, atomic_goes_out rfl, atomic_goes_out rfl, atomic_goes_out rfl,
    atomic_goes_out rfl, atomic_goes_out rfl⟩

end Sys2Proof.Machine
end

section
/-!
PROOFS. An access in the program order, at memory and back (R246, R249, R252, R253, R277).
-/
namespace Sys2Proof.Machine

/-! ## A reading access joins the program order (R249) -/

/-- An access at the source interface that leaves, waits behind its class, or waits. -/
theorem tryLeave_slot {s : State} {n : Nat} {x : Access} (hx : s.accesses.find n = some x) (hleft : x.left = false) (hrole : x.role = .slot) :
    tryLeave s n = if mayLeave s x then leave s n x else if unfenced s x && classReady s x then keepBack s n x else s := by
  simp only [tryLeave, hx, hleft, hrole, Bool.false_eq_true, if_false]

/-- Settles O33: a reading access has no hold and no zero-length read, so it joins and tries to leave. -/
theorem accessJoinsTheProgramOrder : Obligations.AccessJoinsTheProgramOrder := by
  intro s h cls ord ps size arr entries ident t c n r a joined hps
  have hmake : makeAccess s h cls ord .read ps size (some (arr, entries, t)) ident = tryLeave joined n := by
    obtain ⟨p, rest, rfl⟩ := List.exists_cons_of_ne_nil hps
    rfl
  have htry := tryLeave_slot (s := joined) (n := n) (x := a) (Table.find_put_self ..) rfl rfl
  rw [hmake, htry]
  refine ⟨fun hl => if_pos hl, fun hl hk => ?_, fun hl hk => ?_⟩
  · rw [hl, hk]; rfl
  · rw [hl, hk]; rfl

/-! ## A line on its slice (R246, R269, R270) -/

section
variable {s : State} {n i : Nat} {x : Access} {p : Piece}

/-- A line of the core's own hive that its lane serves performs. -/
theorem piecePerform_own (hrole : x.role ≠ .stream) (hpath : pathOf x.g p.pa = .own) (hb : behind s n x p = false)
    (hl : laneBusy s n x i p = false) :
    piecePerform s n x i p = performPiece { s with lanes := Table.put s.lanes (laneKey x.g x.slot p.pa) (s.now + 1) } n x i p := by
  have hown : x.path p.pa = .own := by
    unfold Access.path
    rw [if_neg (by simp [hrole]), hpath]
  simp only [piecePerform, hb, hown, hl, Bool.false_eq_true, if_false]

theorem isScratch_of_own {g pa : Nat} (h : pathOf g pa = .own) : isScratch pa = true := by
  unfold pathOf at h
  split_ifs at h with hs
  exact hs

theorem isHbm_of_isScratch {pa : Nat} (h : isScratch pa = true) : isHbm pa = false := by
  obtain ⟨hlo, -⟩ := Bool.and_eq_true_iff.mp h
  have hlo : 0x10000000000 ≤ pa := of_decide_eq_true hlo
  exact decide_eq_false (by omega)

theorem meetFlaw_of_good {pa : Nat} (hs : isScratch pa = true) (h0 : Table.get 0 s.flaws (lineOf pa) = 0) : meetFlaw s pa = s := by
  simp only [meetFlaw, hs, if_true, meetBank, h0]

end

/-- A masked write: each byte that is given stands at its address, the others read as before. -/
theorem readByte_writeMasked {s : State} (hs : Memory.wf s.mem = true) (a b : Nat) (bs : List (Option Byte)) :
    readByte (writeMasked s a bs) b = if a ≤ b ∧ b < a + bs.length then (bs.getD (b - a) none).getD (readByte s b) else readByte s b := by
  induction bs generalizing s a with
  | nil => rw [if_neg (by simp)]; rfl
  | cons o bs ih =>
    by_cases hb : b = a
    · subst hb
      rw [if_pos (by simp), Nat.sub_self]
      cases o with
      | none => rw [writeMasked, readByte_writeMasked_outside hs _ _ (.inl (Nat.lt_succ_self b))]; rfl
      | some v =>
        rw [writeMasked, readByte_writeMasked_outside (writeByte_wf hs b v) _ _ (.inl (Nat.lt_succ_self b)), readByte_writeByte hs, if_pos rfl]
        rfl
    · have hiff : (a ≤ b ∧ b < a + (o :: bs).length) ↔ (a + 1 ≤ b ∧ b < a + 1 + bs.length) := by simp only [List.length_cons]; omega
      have hget : ∀ h : a + 1 ≤ b, (o :: bs).getD (b - a) none = bs.getD (b - (a + 1)) none := fun h => by
        obtain ⟨k, rfl⟩ := Nat.exists_eq_add_of_le h
        rw [show a + 1 + k - a = k + 1 by omega, show a + 1 + k - (a + 1) = k by omega]
        rfl
      have hstep : readByte (writeMasked s a (o :: bs)) b =
          if a + 1 ≤ b ∧ b < a + 1 + bs.length then (bs.getD (b - (a + 1)) none).getD (readByte s b) else readByte s b := by
        cases o with
        | none => exact ih hs (a + 1)
        | some v =>
          have := ih (writeByte_wf hs a v) (a + 1)
          rwa [readByte_writeByte hs, if_neg hb] at this
      rw [hstep]
      by_cases hin : a + 1 ≤ b ∧ b < a + 1 + bs.length
      · rw [if_pos hin, if_pos (hiff.mpr hin), hget hin.1]
      · rw [if_neg hin, if_neg (mt hiff.mp hin)]

/-- A state with the lines of another: their bytes, their cells and their poison marks. -/
def State.withLines (s t : State) : State := { s with mem := t.mem, flaws := t.flaws, poison := t.poison }

theorem writeMasked_withLines (s : State) (a : Nat) (bs : List (Option Byte)) : writeMasked s a bs = s.withLines (writeMasked s a bs) := by
  induction bs generalizing s a with
  | nil => rfl
  | cons o bs ih =>
    cases o with
    | none => exact ih s (a + 1)
    | some v =>
      rw [writeMasked, ih (writeByte s a v) (a + 1)]
      rfl

theorem writeMasked_mem_congr {s t : State} (h : s.mem = t.mem) (a : Nat) (bs : List (Option Byte)) :
    (writeMasked s a bs).mem = (writeMasked t a bs).mem := by
  induction bs generalizing s t a with
  | nil => exact h
  | cons o bs ih =>
    cases o with
    | none => exact ih h (a + 1)
    | some v => exact ih (congrArg (Table.set 0 · a v) h) (a + 1)

theorem readBytes_congr {s t : State} (h : s.mem = t.mem) (a n : Nat) : readBytes s a n = readBytes t a n := by
  induction n generalizing a with
  | zero => rfl
  | succ n ih => rw [readBytes, readBytes, ih, readByte, readByte, h]

/-- A write of good cells of a scratchpad line is a masked write. -/
theorem putLine_scratch {s : State} {pa : Nat} {bytes : List (Option Byte)} (hs : isScratch pa = true)
    (h0 : Table.get 0 s.flaws (lineOf pa) = 0) :
    putLine s pa bytes = s.withLines (putLine s pa bytes) ∧ (putLine s pa bytes).mem = (writeMasked s pa bytes).mem := by
  have hhbm := isHbm_of_isScratch hs
  unfold putLine
  rw [meetFlaw_of_good hs h0, hhbm]
  by_cases hwhole : (pa % 64 = 0 && bytes.length = 64 && bytes.all Option.isSome) = true
  · rw [if_pos hwhole]
    simp only [Bool.false_eq_true, if_false]
    exact ⟨congrArg (setPoison · pa false) (writeMasked_withLines ..), writeMasked_mem_congr (s := { s with flaws := Table.put s.flaws (lineOf pa) 0 }) (t := s) rfl pa bytes⟩
  · rw [if_neg hwhole]
    exact ⟨writeMasked_withLines .., rfl⟩

theorem writeLine_scratch {s : State} {pa : Nat} {bytes : List (Option Byte)} (hs : isScratch pa = true) :
    writeLine s pa bytes = putLine s pa bytes := by
  rw [writeLine, isHbm_of_isScratch hs]
  rfl

theorem writeMarked_scratch {s : State} {pa : Nat} {bytes : List (Option Byte)} {m : Bool} (hs : isScratch pa = true)
    (h0 : Table.get 0 s.flaws (lineOf pa) = 0) :
    writeMarked s pa bytes m = s.withLines (writeMarked s pa bytes m) ∧ (writeMarked s pa bytes m).mem = (writeMasked s pa bytes).mem := by
  obtain ⟨hput, hmem⟩ := putLine_scratch (bytes := bytes) hs h0
  unfold writeMarked
  rw [writeLine_scratch hs]
  dsimp only
  split
  · exact ⟨by rw [hput]; rfl, hmem⟩
  · exact ⟨hput, hmem⟩

/-- The undo log of a core's region takes a line and nothing else changes (R355). -/
theorem logLine_spec (s : State) (g pa : Nat) :
    logLine s g pa = { s with cores := (logLine s g pa).cores } ∧ ∀ k, SameRegisters (s.core k) ((logLine s g pa).core k) := by
  unfold logLine
  dsimp only
  split
  · exact ⟨rfl, fun k => SameRegisters.refl _⟩
  · refine ⟨rfl, fun k => ?_⟩
    rw [core_setCore]
    split
    case isTrue h => rw [h]; simp [SameRegisters]
    case isFalse => exact SameRegisters.refl _

theorem patchLog_spec (s : State) (g pa : Nat) (bytes : List (Option Byte)) :
    patchLog s g pa bytes = { s with cores := (patchLog s g pa bytes).cores } ∧
      ∀ k, SameRegisters (s.core k) ((patchLog s g pa bytes).core k) := by
  refine ⟨rfl, fun k => ?_⟩
  unfold patchLog
  rw [core_updCore]
  split
  case isTrue h => rw [h]; simp [SameRegisters]
  case isFalse => exact SameRegisters.refl _

theorem logWrite_spec (s : State) (g region pa : Nat) (bytes : List (Option Byte)) :
    logWrite s g region pa bytes = { s with cores := (logWrite s g region pa bytes).cores } ∧
      ∀ k, SameRegisters (s.core k) ((logWrite s g region pa bytes).core k) := by
  unfold logWrite
  split
  · exact ⟨rfl, fun k => SameRegisters.refl _⟩
  · split
    · exact logLine_spec ..
    · exact patchLog_spec ..

/-- A piece that is done stands in its access, with the latest reply. -/
theorem find_donePiece (s : State) (n : Nat) (x : Access) (i : Nat) (p : Piece) (reply : Nat) :
    (donePiece s n x i p reply).accesses.find n =
      some { x with pieces := x.pieces.set i { p with done := true }, reply := Nat.max x.reply reply } := by
  unfold donePiece
  dsimp only
  split
  · unfold streamOver
    split <;> exact Table.find_put_self ..
  · exact Table.find_put_self ..

theorem cores_donePiece (s : State) (n : Nat) (x : Access) (i : Nat) (p : Piece) (reply : Nat) :
    (donePiece s n x i p reply).cores = s.cores := by
  unfold donePiece streamOver
  dsimp only
  split_ifs <;> rfl

theorem donePiece_lines (s : State) (n : Nat) (x : Access) (i : Nat) (p : Piece) (reply : Nat) :
    (donePiece s n x i p reply).mem = s.mem ∧ (donePiece s n x i p reply).poison = s.poison ∧
      (donePiece s n x i p reply).atomReplies = s.atomReplies := by
  rw [(donePiece_traffic s n x i p reply).state]
  exact ⟨rfl, rfl, rfl⟩

theorem exec_accessPerform {s : State} {n i : Nat} {x : Access} {p : Piece} (hx : s.accesses.find n = some x) (hp : x.pieces[i]? = some p)
    (hd : p.done = false) : exec (.accessPerform n i) s = .next (piecePerform s n x i p) := by
  change execAccessPerform n i s = _
  simp only [execAccessPerform, hx, hp, hd, Bool.false_eq_true, if_false]

theorem exec_atomicExecute {s : State} {n : Nat} {x : Access} {p : Piece} (hx : s.accesses.find n = some x) (hp : x.pieces = [p])
    (hd : p.done = false) : exec (.atomicExecute n) s = .next (piecePerform s n x 0 p) := by
  change execAtomicExecute n s = _
  simp only [execAtomicExecute, hx, hp, hd, Bool.false_eq_true, if_false]

section
variable {s : State} {n i : Nat} {x : Access} {p : Piece}

/-- A write to good cells of the own hive puts its bytes (R246, R269). -/
theorem performPiece_write (hinv : s.Inv) (hk : x.kind = .write) (hs : isScratch p.pa = true) (h0 : Table.get 0 s.flaws (lineOf p.pa) = 0) :
    let t := performPiece s n x i p
    (∀ a, readByte t a = if p.pa ≤ a ∧ a < p.pa + p.bytes.length then (p.bytes.getD (a - p.pa) none).getD (readByte s a)
      else readByte s a) ∧
    (∀ g, SameRegisters (s.core g) (t.core g)) ∧
    ∃ y, t.accesses.find n = some y ∧ y.pieces = x.pieces.set i { p with done := true } := by
  intro t
  have hlog : ∃ s0 : State, (s0 = { s with cores := s0.cores } ∧ ∀ k, SameRegisters (s.core k) (s0.core k)) ∧
      t = donePiece (writeMarked s0 p.pa p.bytes p.poisoned) n x i p (replyTime s x p) := by
    simp only [t, performPiece, hk]
    refine ⟨_, ?_, rfl⟩
    split
    · exact logWrite_spec ..
    · exact patchLog_spec ..
  obtain ⟨s0, ⟨hs0, hregs⟩, ht⟩ := hlog
  have hmem0 : s0.mem = s.mem := by rw [hs0]
  have hflaws0 : Table.get 0 s0.flaws (lineOf p.pa) = 0 := by rw [hs0]; exact h0
  obtain ⟨hlines, hmem⟩ := writeMarked_scratch (bytes := p.bytes) (m := p.poisoned) hs hflaws0
  obtain ⟨hdmem, -, -⟩ := donePiece_lines (writeMarked s0 p.pa p.bytes p.poisoned) n x i p (replyTime s x p)
  refine ⟨fun a => ?_, fun g => ?_, ?_⟩
  · have hread : readByte t a = readByte (writeMasked s p.pa p.bytes) a := by
      unfold readByte
      rw [ht, hdmem, hmem, writeMasked_mem_congr hmem0]
    rw [hread, readByte_writeMasked hinv]
  · have hcore : t.core g = s0.core g := by
      unfold State.core
      rw [ht, cores_donePiece, hlines]
      rfl
    rw [hcore]
    exact hregs g
  · rw [ht]
    exact ⟨_, find_donePiece .., rfl⟩

end

theorem readLine_of_good {s : State} {pa : Nat} (len : Nat) (hs : isScratch pa = true) (h0 : Table.get 0 s.flaws (lineOf pa) = 0) :
    readLine s pa len = (s, readBytes s pa len, poisoned s pa) := by
  rw [readLine, meetFlaw_of_good hs h0]

theorem noticePoison_of_scratch {s : State} {pa : Nat} (hs : isScratch pa = true) : noticePoison s pa = s := by
  rw [noticePoison, isHbm_of_isScratch hs]
  rfl

theorem streamOver_of_role {s : State} {x : Access} (hr : x.role ≠ .stream) : streamOver s x = s := by
  unfold streamOver
  exact if_neg (by simp [hr])

section
variable {s : State} {n i : Nat} {x : Access} {p : Piece}

/-- A read of good cells of the own hive takes its bytes and the line's mark (R246, R270). -/
theorem performPiece_read (hk : x.kind = .read) (hs : isScratch p.pa = true) (h0 : Table.get 0 s.flaws (lineOf p.pa) = 0) :
    performPiece s n x i p =
      donePiece s n x i { p with bytes := (readBytes s p.pa p.len).map some, poisoned := poisoned s p.pa } (replyTime s x p) := by
  simp only [performPiece, hk, readLine_of_good p.len hs h0, noticePoison_of_scratch hs]

theorem replyTime_read (hk : x.kind = .read) (hrole : x.role ≠ .stream) (hpath : pathOf x.g p.pa = .own) : replyTime s x p = s.now + 11 := by
  have hown : x.path p.pa = .own := by
    unfold Access.path
    rw [if_neg (by simp [hrole]), hpath]
  simp [replyTime, hown, hk, Access.isWrite]

/-- With its last piece the data of a read is on its way back. -/
theorem donePiece_last (hk : x.kind = .read) (reply : Nat)
    (hall : (x.pieces.set i { p with done := true }).all (·.done) = true) :
    (Nat.max s.now (Nat.max x.reply reply), keyReply, Instr.landingBufferArrival n) ∈ (donePiece s n x i p reply).agenda := by
  unfold donePiece
  simp only [hall, if_true, Access.isWrite, hk, Bool.false_eq_true, if_false]
  exact mem_agenda_due ..

/-- What a read of the own hive does (R246, R249, R270). -/
theorem accessPerform_read (hx : s.accesses.find n = some x) (hp : x.pieces[i]? = some p) (hd : p.done = false) (hk : x.kind = .read)
    (hrole : x.role ≠ .stream) (hpath : pathOf x.g p.pa = .own) (hb : behind s n x p = false) (hl : laneBusy s n x i p = false)
    (h0 : Table.get 0 s.flaws (lineOf p.pa) = 0) :
    let q := { p with bytes := (readBytes s p.pa p.len).map some, poisoned := poisoned s p.pa, done := true }
    ∃ t, exec (.accessPerform n i) s = .next t ∧ SameMemory s t ∧ t.cores = s.cores ∧
      (∃ y, t.accesses.find n = some y ∧ y.pieces = x.pieces.set i q ∧ y.reply = Nat.max x.reply (s.now + 11)) ∧
      ((x.pieces.set i q).all (·.done) = true →
        (Nat.max s.now (Nat.max x.reply (s.now + 11)), keyReply, .landingBufferArrival n) ∈ t.agenda) := by
  intro q
  have hs := isScratch_of_own hpath
  let s' : State := { s with lanes := Table.put s.lanes (laneKey x.g x.slot p.pa) (s.now + 1) }
  let p' : Piece := { p with bytes := (readBytes s p.pa p.len).map some, poisoned := poisoned s p.pa }
  have hbytes : readBytes s' p.pa p.len = readBytes s p.pa p.len := readBytes_congr (s := s') (t := s) rfl p.pa p.len
  have hperform : performPiece s' n x i p = donePiece s' n x i p' (s.now + 11) := by
    rw [performPiece_read (s := s') hk hs h0, replyTime_read hk hrole hpath, hbytes]
    rfl
  have hexec : exec (.accessPerform n i) s = .next (donePiece s' n x i p' (s.now + 11)) := by
    rw [exec_accessPerform hx hp hd, piecePerform_own hrole hpath hb hl, hperform]
  obtain ⟨hmem, hpoison, -⟩ := donePiece_lines s' n x i p' (s.now + 11)
  refine ⟨_, hexec, ⟨fun a => ?_, fun a => ?_⟩, cores_donePiece .., ⟨_, find_donePiece .., rfl, rfl⟩, fun hall => ?_⟩
  · exact congrArg (Table.get 0 · a) hmem
  · exact congrArg (Table.get false · (lineOf a)) hpoison
  · exact donePiece_last hk _ hall

/-- What a write of the own hive does (R246, R252, R269). -/
theorem accessPerform_write (hinv : s.Inv) (hx : s.accesses.find n = some x) (hp : x.pieces[i]? = some p) (hd : p.done = false)
    (hk : x.kind = .write) (hrole : x.role ≠ .stream) (hpath : pathOf x.g p.pa = .own) (hb : behind s n x p = false)
    (hl : laneBusy s n x i p = false) (h0 : Table.get 0 s.flaws (lineOf p.pa) = 0) :
    ∃ t, exec (.accessPerform n i) s = .next t ∧
      (∀ a, readByte t a = if p.pa ≤ a ∧ a < p.pa + p.bytes.length then (p.bytes.getD (a - p.pa) none).getD (readByte s a)
        else readByte s a) ∧
      (∀ g, SameRegisters (s.core g) (t.core g)) ∧
      ∃ y, t.accesses.find n = some y ∧ y.pieces = x.pieces.set i { p with done := true } :=
  ⟨_, (exec_accessPerform hx hp hd).trans (congrArg Host.Outcome.next (piecePerform_own hrole hpath hb hl)),
    performPiece_write (s := { s with lanes := Table.put s.lanes (laneKey x.g x.slot p.pa) (s.now + 1) }) hinv hk (isScratch_of_own hpath) h0⟩

end

/-! ## Atomics at their word (R221 to R224) -/

theorem atomicNew_spec (sg : Bool) (m a b : BitVec 32) :
    let v := fun (x : BitVec 32) => if sg then x.toInt else (x.toNat : Int)
    atomicNew 0 sg m a b = BitVec.ofNat 32 (m.toNat + a.toNat) ∧ atomicNew 1 sg m a b = m &&& a ∧
    atomicNew 2 sg m a b = m ||| a ∧ atomicNew 3 sg m a b = m ^^^ a ∧
    (v (atomicNew 4 sg m a b) = Min.min (v m) (v a)) ∧ (v (atomicNew 5 sg m a b) = Max.max (v m) (v a)) ∧
    atomicNew 6 sg m a b = a ∧ atomicNew 7 sg m a b = if m = b then a else m := by
  intro v
  have hless : ∀ x y : BitVec 32, (if sg then x.slt y else x.ult y) = decide (v x < v y) := by
    intro x y
    cases sg
    · simp [v, BitVec.ult]
    · simp [v, BitVec.slt]
  refine ⟨?_, rfl, rfl, rfl, ?_, ?_, rfl, rfl⟩
  · exact BitVec.eq_of_toNat_eq (by simp [atomicNew])
  · simp only [atomicNew, hless, decide_eq_true_eq]
    split
    · rw [min_eq_right (by omega)]
    · rw [min_eq_left (by omega)]
  · simp only [atomicNew, hless, decide_eq_true_eq]
    split
    · rw [max_eq_right (by omega)]
    · rw [max_eq_left (by omega)]

theorem writeMasked_map_some (s : State) (a : Nat) (bs : List Byte) : writeMasked s a (bs.map some) = writeBytes s a bs := by
  induction bs generalizing s a with
  | nil => rfl
  | cons b bs ih => exact ih (writeByte s a b) (a + 1)

/-- The word at an address (R221). -/
def wordAt (s : State) (pa : Nat) : BitVec 32 := BitVec.ofNat 32 (leNat (readBytes s pa 4))

theorem wordAt_writeBytes {s : State} (hinv : s.Inv) (pa : Nat) (v : BitVec 32) :
    wordAt (writeBytes s pa (leBytes 4 v.toNat)) pa = v := by
  have hlen : (leBytes 4 v.toNat).length = 4 := length_bytesOfNat 4 v.toNat
  have hread := readBytes_writeBytes hinv pa (leBytes 4 v.toNat)
  rw [hlen] at hread
  rw [wordAt, hread, leBytes, leNat_bytesOfNat, Nat.mod_eq_of_lt (show v.toNat < 256 ^ 4 from v.isLt), BitVec.ofNat_toNat,
    BitVec.setWidth_eq]

theorem storedReply_keepReply (s : State) (target source ident : Nat) (r : BitVec 32) :
    storedReply (keepReply s target source ident r) target source ident = some r := by
  simp [storedReply, keepReply]

/-- A stored reply depends on the kept replies alone. -/
theorem storedReply_congr {s t : State} (h : s.atomReplies = t.atomReplies) (a b c : Nat) : storedReply s a b c = storedReply t a b c := by
  unfold storedReply
  rw [h]

section
variable {s : State} {n : Nat} {x : Access} {p : Piece} {op : Nat} {a b : BitVec 32} {sg : Bool}

/-- A word of the own hive that no kept reply answers takes its new value, and the reply is kept (R221, R224). -/
theorem runAtomic_fresh {target source ident pa : Nat} (hs : isScratch pa = true) (h0 : Table.get 0 s.flaws (lineOf pa) = 0)
    (hpo : poisoned s pa = false) (hnone : storedReply s target source ident = none) :
    let m := wordAt s pa
    ∃ t, runAtomic s target source ident pa op sg a b = (t, m, false) ∧ t.cores = s.cores ∧
      t.mem = (writeBytes s pa (leBytes 4 (atomicNew op sg m a b).toNat)).mem ∧ storedReply t target source ident = some m := by
  intro m
  refine ⟨keepReply (writeLine s pa ((leBytes 4 (atomicNew op sg m a b).toNat).map some)) target source ident m, ?_, ?_, ?_,
    storedReply_keepReply ..⟩
  · simp only [runAtomic, hnone, readLine_of_good 4 hs h0, hpo, Bool.false_eq_true, if_false]
    rfl
  all_goals
    obtain ⟨hlines, hmem⟩ := putLine_scratch (bytes := (leBytes 4 (atomicNew op sg m a b).toNat).map some) hs h0
    unfold keepReply
    rw [writeLine_scratch hs]
  · rw [hlines]
    rfl
  · rw [← writeMasked_map_some]
    exact hmem

theorem runAtomic_kept {target source ident pa : Nat} {r : BitVec 32} (hr : storedReply s target source ident = some r) :
    runAtomic s target source ident pa op sg a b = (s, r, false) := by
  simp only [runAtomic, hr]

/-- An atomic that its target has answered takes the old word. -/
theorem performPiece_atomic (hk : x.kind = .atomic op a b sg) (hpath : pathOf x.g p.pa = .own) {s1 : State} {m : BitVec 32}
    (hrun : runAtomic s (targetOf s p.pa) (sourceNumber s x.g) x.ident p.pa op sg a b = (s1, m, false)) :
    let t := performPiece s n x 0 p
    (∃ y, t.accesses.find n = some y ∧ y.old = m) ∧ t.mem = s1.mem ∧ t.poison = s1.poison ∧ t.atomReplies = s1.atomReplies ∧
      ∀ g, SameRegisters (s1.core g) (t.core g) := by
  intro t
  have ht : t = donePiece (patchLog s1 x.g p.pa ((readBytes s1 p.pa 4).map some)) n { x with old := m } 0
      { p with bytes := (leBytes 4 m.toNat).map some, poisoned := false } (replyTime s x p) := by
    simp only [t, performPiece, hk, hrun, hpath, beq_self_eq_true, if_true]
  obtain ⟨hpatch, hregs⟩ := patchLog_spec s1 x.g p.pa ((readBytes s1 p.pa 4).map some)
  obtain ⟨hmem, hpoison, hreplies⟩ := donePiece_lines (patchLog s1 x.g p.pa ((readBytes s1 p.pa 4).map some)) n { x with old := m } 0
    { p with bytes := (leBytes 4 m.toNat).map some, poisoned := false } (replyTime s x p)
  rw [ht]
  refine ⟨⟨_, find_donePiece .., rfl⟩, hmem, hpoison, hreplies, fun g => ?_⟩
  have hcore := cores_donePiece (patchLog s1 x.g p.pa ((readBytes s1 p.pa 4).map some)) n { x with old := m } 0
    { p with bytes := (leBytes 4 m.toNat).map some, poisoned := false } (replyTime s x p)
  unfold State.core at hregs ⊢
  rw [hcore]
  exact hregs g

end

/-- An atomic at a good word of the own hive (R221, R222, R224). -/
theorem atomicExecute_own (s : State) (n : Nat) (x : Access) (p : Piece) (op : Nat) (a b : BitVec 32) (sg : Bool) (hinv : s.Inv)
    (hx : s.accesses.find n = some x) (hp : x.pieces = [p]) (hd : p.done = false) (hk : x.kind = .atomic op a b sg)
    (hrole : x.role ≠ .stream) (hpath : pathOf x.g p.pa = .own) (hb : behind s n x p = false) (hl : laneBusy s n x 0 p = false)
    (h0 : Table.get 0 s.flaws (lineOf p.pa) = 0) (hpo : poisoned s p.pa = false) :
    (storedReply s (targetOf s p.pa) (sourceNumber s x.g) x.ident = none →
      ∃ t, exec (.atomicExecute n) s = .next t ∧ wordAt t p.pa = atomicNew op sg (wordAt s p.pa) a b ∧
        (∀ c, c < p.pa ∨ p.pa + 4 ≤ c → readByte t c = readByte s c) ∧
        storedReply t (targetOf s p.pa) (sourceNumber s x.g) x.ident = some (wordAt s p.pa) ∧
        (∃ y, t.accesses.find n = some y ∧ y.old = wordAt s p.pa) ∧ ∀ g, SameRegisters (s.core g) (t.core g)) ∧
    (∀ r, storedReply s (targetOf s p.pa) (sourceNumber s x.g) x.ident = some r →
      ∃ t, exec (.atomicExecute n) s = .next t ∧ SameMemory s t ∧ ∃ y, t.accesses.find n = some y ∧ y.old = r) := by
  have hexec := (exec_atomicExecute hx hp hd).trans (congrArg Host.Outcome.next (piecePerform_own hrole hpath hb hl))
  generalize hs' : ({ s with lanes := Table.put s.lanes (laneKey x.g x.slot p.pa) (s.now + 1) } : State) = s' at hexec
  have hscratch := isScratch_of_own hpath
  have hmem' : s'.mem = s.mem := by rw [← hs']
  have hinv' : s'.Inv := by rw [← hs']; exact hinv
  have hpo' : s'.poison = s.poison := by rw [← hs']
  have hcores' : s'.cores = s.cores := by rw [← hs']
  have hflaws' : Table.get 0 s'.flaws (lineOf p.pa) = 0 := by rw [← hs']; exact h0
  have htarget : targetOf s' p.pa = targetOf s p.pa := by rw [← hs']; rfl
  have hsource : sourceNumber s' x.g = sourceNumber s x.g := by rw [← hs']; rfl
  have hstored : storedReply s' (targetOf s' p.pa) (sourceNumber s' x.g) x.ident =
      storedReply s (targetOf s p.pa) (sourceNumber s x.g) x.ident := by
    rw [htarget, hsource]
    exact storedReply_congr (by rw [← hs']) _ _ _
  have hword : wordAt s' p.pa = wordAt s p.pa := by rw [wordAt, wordAt, readBytes_congr hmem']
  refine ⟨fun hnone => ⟨_, hexec, ?_⟩, fun r hr => ⟨_, hexec, ?_⟩⟩
  · have hpos : poisoned s' p.pa = false := (congrArg (Table.get false · (lineOf p.pa)) hpo').trans hpo
    obtain ⟨s1, hrun, hcores, hmem, hreply⟩ := runAtomic_fresh (op := op) (a := a) (b := b) (sg := sg) hscratch hflaws' hpos (hstored.trans hnone)
    obtain ⟨hold, htmem, -, htreplies, htregs⟩ := performPiece_atomic (n := n) hk hpath hrun
    rw [hword] at hmem hreply hold
    have hmemt := htmem.trans hmem
    refine ⟨?_, fun c hc => ?_, ?_, hold, fun g => ?_⟩
    · rw [← wordAt_writeBytes (s := s') hinv' p.pa (atomicNew op sg (wordAt s p.pa) a b), wordAt, wordAt, readBytes_congr hmemt]
    · have hout := readByte_writeBytes_outside (s := s') hinv' p.pa (leBytes 4 (atomicNew op sg (wordAt s p.pa) a b).toNat) (x := c)
        (by rwa [leBytes, length_bytesOfNat])
      unfold readByte at hout ⊢
      rw [hmemt, hout, hmem']
    · rw [← htarget, ← hsource, storedReply_congr htreplies]
      exact hreply
    · have hcore : s1.core g = s.core g := congrArg (Table.get Core.reset · g) (hcores.trans hcores')
      exact hcore ▸ htregs g
  · obtain ⟨hold, htmem, htpo, -, -⟩ := performPiece_atomic (n := n) hk hpath (runAtomic_kept (hstored.trans hr))
    refine ⟨⟨fun c => ?_, fun c => ?_⟩, hold⟩
    · exact congrArg (Table.get 0 · c) (htmem.trans hmem')
    · exact congrArg (Table.get false · (lineOf c)) (htpo.trans hpo')

/-- Settles O34: a line of the own hive whose lane is free performs in place, and an atomic there is `runAtomic`. -/
theorem piecesAndAtomicsPerform : Obligations.PiecesAndAtomicsPerform :=
  ⟨⟨fun _ _ _ _ _ hinv hx hp hd hk hrole hpath hb hl h0 => accessPerform_write hinv hx hp hd hk hrole hpath hb hl h0,
    fun _ _ _ _ _ hx hp hd hk hrole hpath hb hl h0 => accessPerform_read hx hp hd hk hrole hpath hb hl h0⟩,
   atomicNew_spec, fun s n x p op a b sg hinv hx hp hd hk hrole hpath hb hl _ h0 hpo =>
     atomicExecute_own s n x p op a b sg hinv hx hp hd hk hrole hpath hb hl h0 hpo⟩

/-! ## An access goes on (R49, R252, R253, R277) -/

/-- A step that puts steps into the agenda, and does no more. -/
def OnlyDue (s t : State) : Prop := t = s.withAgenda t

theorem OnlyDue.refl (s : State) : OnlyDue s s := rfl
theorem OnlyDue.trans {a b c : State} (h1 : OnlyDue a b) (h2 : OnlyDue b c) : OnlyDue a c := withAgenda_trans h1 h2
theorem due_onlyDue (s : State) (t k : Nat) (i : Instr) : OnlyDue s (s.due t k i) := rfl

theorem dueIf_onlyDue (s : State) (p : Prop) [Decidable p] (t k : Nat) (i : Instr) : OnlyDue s (if p then s.due t k i else s) := by
  split <;> rfl

theorem OnlyDue.foldl {α : Type} {f : State → α → State} (hf : ∀ s a, OnlyDue s (f s a)) (l : List α) (s : State) : OnlyDue s (l.foldl f s) :=
  foldl_withAgenda f hf l s

theorem dueCommand_onlyDue (s t : State) (g e : Nat) (ms : List Command) :
    OnlyDue t (match ms with
      | [] => t
      | m :: _ =>
        if !m.started && mayStart s g m then t.due s.now keyLeave (.copyCommandStart g e)
        else if m.started && mayComplete s g e m then t.due s.now keyReply (.copyCommandComplete g e)
        else t) := by
  split
  · exact .refl t
  · split
    · exact due_onlyDue ..
    · exact dueIf_onlyDue ..

theorem dueRetire_onlyDue (s t : State) (l? : Option Nat) :
    OnlyDue t (match l? with
      | none => t
      | some l =>
        match s.launch? l with
        | none => t
        | some x =>
          match x.state with
          | .running => if x.cores.all fun k => (s.core k).halted then t.due s.now keyRetire (.launchRetirement l) else t
          | .saving => t.due s.now 4000 (.saveComplete l)
          | _ => t) := by
  split
  · exact .refl t
  · split
    · exact .refl t
    · split
      · exact dueIf_onlyDue ..
      · exact due_onlyDue ..
      · exact .refl t

/-- Once the zero-length reads have gone, what wakes is put into the agenda. -/
theorem wake_onlyDue (s : State) (g : Nat) : OnlyDue (sendFlushes s g) (wake s g) := by
  unfold wake
  refine OnlyDue.trans ?_ (dueRetire_onlyDue (sendFlushes s g) _ _)
  refine OnlyDue.trans ?_ (OnlyDue.foldl (fun st q => due_onlyDue ..) _ _)
  refine OnlyDue.trans ?_ (OnlyDue.foldl (fun st q => dueIf_onlyDue ..) _ _)
  refine OnlyDue.trans ?_ (OnlyDue.foldl (fun st q => dueIf_onlyDue ..) _ _)
  refine OnlyDue.trans ?_ (OnlyDue.foldl (fun st q => dueIf_onlyDue ..) _ _)
  refine OnlyDue.trans ?_ (OnlyDue.foldl (fun st e => dueCommand_onlyDue ..) _ _)
  exact OnlyDue.foldl (fun st q => dueIf_onlyDue ..) _ _

theorem sendFlushes_of_none {s : State} (h : ∀ e ∈ s.accesses, e.2.role ≠ .flush) (g : Nat) : sendFlushes s g = s := by
  have hnil : s.accesses.filter (fun (_, a) => a.g == g && a.role == .flush && !a.left && !isAway s a.launch) = [] :=
    List.filter_eq_nil_iff.mpr fun e he => by simp [h e he]
  unfold sendFlushes
  rw [hnil]
  rfl

theorem accesses_wake {s : State} (h : ∀ e ∈ s.accesses, e.2.role ≠ .flush) (g : Nat) : (wake s g).accesses = s.accesses := by
  have hw := wake_onlyDue s g
  rw [sendFlushes_of_none h] at hw
  rw [hw]
  rfl

/-- What an answer to the shepherd changes besides traffic: the queues, what it holds back, and the requests to the directory. -/
def State.withServed (s t : State) : State := { s.withTraffic t with queues := t.queues, told := t.told, commonsReqs := t.commonsReqs }

/-- A step that makes traffic, and answers the shepherd. -/
structure Served (s t : State) : Prop where
  state : t = s.withServed t
  core : ∀ g, t.core g = (s.core g).withTraffic (t.core g)

theorem Served.trans {a b c : State} (h1 : Served a b) (h2 : Served b c) : Served a c := by
  obtain ⟨hs1, hc1⟩ := h1
  obtain ⟨hs2, hc2⟩ := h2
  exact ⟨by rw [hs2, hs1]; rfl, fun g => by rw [hc2 g, hc1 g]; rfl⟩

theorem Traffic.served {s t : State} (h : Traffic s t) : Served s t := ⟨by rw [h.state]; rfl, h.core⟩

theorem Served.mem_eq {s t : State} (h : Served s t) : t.mem = s.mem := by rw [h.state]; rfl

theorem Served.registers {s t : State} (h : Served s t) (g : Nat) : SameRegisters (s.core g) (t.core g) := by
  rw [h.core g]
  simp [SameRegisters, Core.withTraffic]

theorem engineGoes_traffic (s : State) (g e : Nat) : Traffic s (engineGoes s g e) := by
  unfold engineGoes nextElement
  split
  · exact .refl s
  · exact .ite (.refl s) (.ite ((dueOnce_traffic ..).trans (draw_traffic ..))
      (.ite (.refl s) ((dueOnce_traffic ..).trans (draw_traffic ..))))

theorem accesses_engineGoes (s : State) (g e : Nat) : (engineGoes s g e).accesses = s.accesses := by
  unfold engineGoes nextElement State.dueOnce
  split
  · rfl
  · split_ifs <;> rfl

theorem dueIfOnce_traffic (s : State) (p : Prop) [Decidable p] (t k : Nat) (i : Instr) : Traffic s (if p then s.dueOnce t k i else s) :=
  .ite (dueOnce_traffic ..) (.refl s)

/-- The writes that are over leave what waits for them; an answered request to the directory is due. -/
theorem settleWrites_spec (s : State) (gone : Nat → Bool) : Served s (settleWrites s gone) ∧
    (settleWrites s gone).told = s.told.filter (fun t => !gone t.1) ∧ (settleWrites s gone).accesses = s.accesses ∧
    (settleWrites s gone).launches = s.launches := by
  unfold settleWrites
  generalize hs1 : ({ s with
    told := s.told.filter fun t => !gone t.1
    commonsReqs := s.commonsReqs.map fun (p : Nat × CommonsReq) => (p.1, { p.2 with waits := p.2.waits.filter fun n => !gone n }) } : State) = s1
  have hserved : Served s s1 := by
    rw [← hs1]
    exact ⟨rfl, core_of_sameCores rfl⟩
  have hfold := OnlyDue.foldl (f := fun (st : State) (p : Nat × CommonsReq) =>
      if p.2.result.isSome && p.2.waits.isEmpty then st.dueOnce st.now 6000 (actOf p.2.kind p.1) else st)
    (fun st p => by split; exacts [dueOnce_withAgenda .., rfl]) s1.commonsReqs s1
  have htraffic := Traffic.foldl (f := fun (st : State) (p : Nat × CommonsReq) =>
      if p.2.result.isSome && p.2.waits.isEmpty then st.dueOnce st.now 6000 (actOf p.2.kind p.1) else st)
    (fun st p => dueIfOnce_traffic ..) s1.commonsReqs s1
  refine ⟨hserved.trans htraffic.served, ?_, ?_, ?_⟩
  all_goals
    rw [hfold, ← hs1]
    rfl

theorem updPoint_mem (s : State) (g : Nat) (u : Core → Core) : (updPoint s g u).mem = s.mem := by
  unfold updPoint
  split <;> rfl

theorem core_updPoint (s : State) (g : Nat) (u : Core → Core) (k : Nat) : (updPoint s g u).core k = s.core k := by
  unfold updPoint
  split <;> rfl

/-- The data stands in its request, which waits for its named cycle (R49). -/
theorem giveData_spec (s : State) (g n : Nat) (data : List Byte) (rows : List Nat) (pline : Nat) :
    let t := giveData s g n data rows pline
    t.mem = s.mem ∧ t.told = s.told ∧ (∀ q ∈ (t.core g).reqs, q.id = n → q.data = some data) ∧
      (t.core g).reqs.map (·.id) = (s.core g).reqs.map (·.id) ∧ SameRegisters (s.core g) (t.core g) := by
  dsimp only
  unfold giveData
  dsimp only
  generalize hput : (fun (r : Request) => if r.id = n then { r with data := some data, poison := rows, pline := pline } else r) = put
  have hid : ∀ r, (put r).id = r.id := fun r => by rw [← hput]; dsimp only; split <;> rfl
  have hdata : ∀ r, (put r).id = n → (put r).data = some data := fun r hr => by
    rw [← hput] at hr ⊢
    dsimp only at hr ⊢
    split at hr
    · next h => rw [if_pos h]
    · next h => exact absurd hr h
  generalize hs1 : s.updCore g (fun c => { c with reqs := c.reqs.map put }) = s1
  have hcore : s1.core g = { s.core g with reqs := (s.core g).reqs.map put } := by rw [← hs1, core_updCore, if_pos rfl]
  rw [core_updPoint, hcore, updPoint_mem]
  refine ⟨by rw [← hs1]; rfl, ?_, fun q hq hn => ?_, ?_, ?_⟩
  · rw [← hs1]
    unfold updPoint
    split <;> rfl
  · obtain ⟨r, -, rfl⟩ := List.mem_map.mp hq
    exact hdata r hn
  · simp [hid]
  · simp [SameRegisters]

/-- An access of the shepherd is over: the queues go on, and the flags of the notices that wait for it are set. -/
theorem shepherdOver_eq (s : State) (n : Nat) (x : Access) : ∃ qs, shepherdOver s n x =
    settleWrites ((s.told.filter fun t => t.1 == n).foldl (fun st t => setMemberFlag st t.2.1 t.2.2.1 (some t.2.2.2))
      { s with queues := qs }) (· == n) := ⟨_, rfl⟩

theorem queues_served (s : State) (qs : Table Queue) : Served s { s with queues := qs } := ⟨rfl, core_of_sameCores rfl⟩

theorem updCore_queues_served (s : State) (qs : Table Queue) (g : Nat) (u : Core → Core) :
    Served (s.updCore g u) (({ s with queues := qs } : State).updCore g u) := ⟨rfl, core_of_sameCores rfl⟩

/-- An access of the shepherd that no notice waits for is over: no core changes. -/
theorem shepherdOver_served {s : State} {n : Nat} (h : ∀ e ∈ s.told, e.1 ≠ n) (x : Access) : Served s (shepherdOver s n x) := by
  obtain ⟨qs, heq⟩ := shepherdOver_eq s n x
  rw [heq, List.filter_eq_nil_iff.mpr fun e he => by simp [h e he], List.foldl_nil]
  exact (queues_served s qs).trans (settleWrites_spec ..).1

/-- An access of the shepherd that one notice waits for is over: the flag of its member is set. -/
theorem shepherdOver_notice {s : State} {n l m f g : Nat} {y : Launch} (ht : s.told = [(n, l, m, f)]) (hl : s.launch? l = some y)
    (hrun : y.state = .running) (hm : y.cores[m]? = some g) (x : Access) :
    (shepherdOver s n x).told = [] ∧
      Served (s.updCore g fun c => { c with w := putBit c.w f true, setAt := Table.put c.setAt f (s.now + 1) }) (shepherdOver s n x) := by
  obtain ⟨qs, heq⟩ := shepherdOver_eq s n x
  have hset : setMemberFlag { s with queues := qs } l m (some f) =
      ({ s with queues := qs } : State).updCore g fun c => { c with w := putBit c.w f true, setAt := Table.put c.setAt f (s.now + 1) } := by
    have hl : ({ s with queues := qs } : State).launch? l = some y := hl
    simp only [setMemberFlag, updMember, hl, hrun, hm, reduceCtorEq, if_false]
  obtain ⟨hserved, htold, -, -⟩ := settleWrites_spec
    (({ s with queues := qs } : State).updCore g fun c => { c with w := putBit c.w f true, setAt := Table.put c.setAt f (s.now + 1) }) (· == n)
  have hnext : shepherdOver s n x = settleWrites
      (({ s with queues := qs } : State).updCore g fun c => { c with w := putBit c.w f true, setAt := Table.put c.setAt f (s.now + 1) }) (· == n) := by
    have hone : s.told.filter (fun t => t.1 == n) = [(n, l, m, f)] := by rw [ht]; simp
    rw [heq, hone, List.foldl_cons, List.foldl_nil, hset]
  rw [hnext]
  refine ⟨?_, (updCore_queues_served ..).trans hserved⟩
  rw [htold]
  show s.told.filter _ = []
  rw [ht]
  simp

theorem updMember_mem (s : State) (l m : Nat) (u : Core → Core) : (updMember s l m u).mem = s.mem := by
  unfold updMember
  split
  · rfl
  · split_ifs
    · rfl
    · split <;> rfl
    · split <;> rfl

theorem accesses_updMember (s : State) (l m : Nat) (u : Core → Core) : (updMember s l m u).accesses = s.accesses := by
  unfold updMember
  split
  · rfl
  · split_ifs
    · rfl
    · split <;> rfl
    · split <;> rfl

theorem setMemberFlag_mem (s : State) (l m : Nat) (f? : Option Nat) : (setMemberFlag s l m f?).mem = s.mem := by
  cases f? with
  | none => rfl
  | some f => exact updMember_mem ..

theorem accesses_setMemberFlag (s : State) (l m : Nat) (f? : Option Nat) : (setMemberFlag s l m f?).accesses = s.accesses := by
  cases f? with
  | none => rfl
  | some f => exact accesses_updMember ..

/-- A field that every step of a fold keeps. -/
theorem foldl_keeps {α β : Type} {p : State → β} {f : State → α → State} (hf : ∀ s a, p (f s a) = p s) (l : List α) (s : State) :
    p (l.foldl f s) = p s := by
  induction l generalizing s with
  | nil => rfl
  | cons a l ih => exact (ih _).trans (hf s a)

theorem shepherdOver_mem (s : State) (n : Nat) (x : Access) : (shepherdOver s n x).mem = s.mem := by
  obtain ⟨qs, heq⟩ := shepherdOver_eq s n x
  rw [heq, (settleWrites_spec ..).1.mem_eq]
  exact foldl_keeps (fun st t => setMemberFlag_mem ..) _ _

theorem accesses_shepherdOver (s : State) (n : Nat) (x : Access) : (shepherdOver s n x).accesses = s.accesses := by
  obtain ⟨qs, heq⟩ := shepherdOver_eq s n x
  obtain ⟨-, -, haccesses, -⟩ := settleWrites_spec ((s.told.filter fun t => t.1 == n).foldl
    (fun st t => setMemberFlag st t.2.1 t.2.2.1 (some t.2.2.2)) { s with queues := qs }) (· == n)
  rw [heq, haccesses]
  exact foldl_keeps (fun st t => accesses_setMemberFlag ..) _ _

/-- What an access that is over does first, by the part of the core or of the device that made it. -/
def roleOver (s : State) (n : Nat) (x : Access) : State :=
  match x.role with
  | .engine => if (s.core x.g).launch = x.launch then engineGoes s x.g (x.slot - 5) else s
  | .shepherd => shepherdOver s n x
  | _ => s

theorem dueEnded_onlyDue (t : State) (l? : Option Nat) :
    OnlyDue t (match l? with
      | none => t
      | some l =>
        match t.launch? l with
        | some y => if y.state = .ended then t.dueOnce t.now keyRetire (.launchRetirement l) else t
        | none => t) := by
  split
  · exact .refl t
  · split
    · split
      · exact dueOnce_withAgenda ..
      · exact .refl t
    · exact .refl t

/-- An access that is over: then what waits at its core looks again, and the end of its launch is due. -/
theorem accessOver_onlyDue (s : State) (n : Nat) (x : Access) : OnlyDue (wake (roleOver s n x) x.g) (accessOver s n x) :=
  dueEnded_onlyDue _ _

theorem OnlyDue.served {s t : State} (h : OnlyDue s t) : Served s t := by
  refine ⟨by rw [h]; rfl, core_of_sameCores ?_⟩
  rw [h]
  rfl

theorem accessOver_served (s : State) (n : Nat) (x : Access) : Served (roleOver s n x) (accessOver s n x) :=
  (wake_traffic ..).served.trans (accessOver_onlyDue s n x).served

theorem told_of_traffic {s t : State} (h : Traffic s t) : t.told = s.told := by rw [h.state]; rfl

theorem told_accessOver (s : State) (n : Nat) (x : Access) : (accessOver s n x).told = (roleOver s n x).told := by
  rw [accessOver_onlyDue s n x]
  show (wake (roleOver s n x) x.g).told = (roleOver s n x).told
  exact told_of_traffic (wake_traffic ..)

theorem roleOver_served {s : State} {n : Nat} (h : ∀ e ∈ s.told, e.1 ≠ n) (x : Access) : Served s (roleOver s n x) := by
  unfold roleOver
  split
  · exact (Traffic.ite (engineGoes_traffic ..) (.refl s)).served
  · exact shepherdOver_served h x
  · exact (Traffic.refl s).served

theorem roleOver_mem (s : State) (n : Nat) (x : Access) : (roleOver s n x).mem = s.mem := by
  unfold roleOver
  split
  · exact (Traffic.ite (engineGoes_traffic ..) (.refl s)).mem_eq
  · exact shepherdOver_mem ..
  · rfl

theorem accesses_roleOver (s : State) (n : Nat) (x : Access) : (roleOver s n x).accesses = s.accesses := by
  unfold roleOver
  split
  · split
    · exact accesses_engineGoes ..
    · rfl
  · exact accesses_shepherdOver ..
  · rfl

theorem accessOver_mem (s : State) (n : Nat) (x : Access) : (accessOver s n x).mem = s.mem :=
  (accessOver_served s n x).mem_eq.trans (roleOver_mem ..)

theorem accesses_accessOver {s : State} (h : ∀ e ∈ s.accesses, e.2.role ≠ .flush) (n : Nat) (x : Access) :
    (accessOver s n x).accesses = s.accesses := by
  rw [accessOver_onlyDue s n x]
  show (wake (roleOver s n x) x.g).accesses = s.accesses
  rw [accesses_wake (by rwa [accesses_roleOver]), accesses_roleOver]

theorem SameRegisters.trans {a b c : Core} (h1 : SameRegisters a b) (h2 : SameRegisters b c) : SameRegisters a c := by
  simp_all [SameRegisters]

/-- Data that is back waits in the request that names it (R49). -/
theorem exec_landingBufferArrival {s : State} {n : Nat} {x : Access} (hx : s.accesses.find n = some x) (htold : ∀ e ∈ s.told, e.1 ≠ n)
    {r : Request} (hr : r ∈ (s.core x.g).reqs) (hid : r.id = n) : ∃ t, exec (.landingBufferArrival n) s = .next t ∧
      (∀ q ∈ (t.core x.g).reqs, q.id = n → q.data = some (assemble x.size x.pieces)) ∧
      (t.core x.g).reqs.map (·.id) = (s.core x.g).reqs.map (·.id) ∧ SameRegisters (s.core x.g) (t.core x.g) ∧ t.mem = s.mem := by
  obtain ⟨q, hq⟩ : ∃ q, (s.core x.g).reqs.find? (·.id == n) = some q :=
    Option.isSome_iff_exists.mp (List.find?_isSome.mpr ⟨r, hr, by simp [hid]⟩)
  let s1 : State := { s with accesses := s.accesses.put n { x with done := true } }
  have hexec : exec (.landingBufferArrival n) s = .next (accessOver (giveData s1 x.g n (assemble x.size x.pieces)
      (poisonRows q.target x.pieces) (poisonLine x.pieces)) n x) := by
    show execLandingBufferArrival n s = _
    simp only [execLandingBufferArrival, hx, hq, Option.map_some]
    rfl
  obtain ⟨hmem, ht, hdata, hids, hregs⟩ := giveData_spec s1 x.g n (assemble x.size x.pieces) (poisonRows q.target x.pieces) (poisonLine x.pieces)
  generalize giveData s1 x.g n (assemble x.size x.pieces) (poisonRows q.target x.pieces) (poisonLine x.pieces) = u at *
  have hover := (roleOver_served (s := u) (n := n) (by rw [ht]; exact htold) x).trans (accessOver_served u n x)
  have hreqs : ((accessOver u n x).core x.g).reqs = (u.core x.g).reqs := by rw [hover.core]; rfl
  refine ⟨_, hexec, ?_, ?_, ?_, hover.mem_eq.trans hmem⟩
  · rw [hreqs]; exact hdata
  · rw [hreqs]; exact hids
  · exact SameRegisters.trans hregs (hover.registers x.g)

theorem mem_of_mem_del {α : Type} {t : Table α} {n : Nat} {e : Nat × α} (h : e ∈ t.del n) : e ∈ t := by
  induction t with
  | nil => exact h
  | cons d t ih =>
    obtain ⟨k, v⟩ := d
    unfold Table.del at h
    split_ifs at h
    · exact List.mem_cons_of_mem _ h
    · exact h
    · exact (List.mem_cons.mp h).elim (fun h => h ▸ List.mem_cons_self ..) fun h => List.mem_cons_of_mem _ (ih h)

/-- An acknowledged write is outstanding no longer, and the notice that waits for it is given (R252, R301). -/
theorem exec_writeAcknowledge {s : State} {n : Nat} {x : Access} (hx : s.accesses.find n = some x) :
    ∃ t, exec (.writeAcknowledge n) s = .next t ∧ t.mem = s.mem ∧
      ((∀ e ∈ s.told, e.1 ≠ n) → ∀ g, SameRegisters (s.core g) (t.core g)) ∧
      (∀ l m y g f, x.role = .shepherd → s.told = [(n, l, m, f)] → s.launch? l = some y → y.state = .running → y.cores[m]? = some g → f < 32 →
        t.told = [] ∧ (t.core g).w = putBit (s.core g).w f true ∧ ∀ k ≠ g, SameRegisters (s.core k) (t.core k)) ∧
      ((∀ e ∈ s.accesses, e.2.role ≠ .flush) → t.accesses = Table.del s.accesses n) := by
  have hexec : exec (.writeAcknowledge n) s = .next (accessOver { s with accesses := s.accesses.del n } n x) := by
    show execWriteAcknowledge n s = _
    simp only [execWriteAcknowledge, hx]
  generalize hs1 : ({ s with accesses := s.accesses.del n } : State) = s1 at hexec
  have hcore : ∀ g, s1.core g = s.core g := fun g => by rw [← hs1]; rfl
  have htold1 : s1.told = s.told := by rw [← hs1]
  have hover := accessOver_served s1 n x
  refine ⟨_, hexec, (accessOver_mem ..).trans (by rw [← hs1]), fun h g => ?_, fun l m y g f hrole ht hl hrun hm _ => ?_, fun h => ?_⟩
  · rw [← hcore g]
    exact ((roleOver_served (by rwa [htold1]) x).trans hover).registers g
  · have hshep : roleOver s1 n x = shepherdOver s1 n x := by simp only [roleOver, hrole]
    have hl1 : s1.launch? l = some y := by rw [← hs1]; exact hl
    obtain ⟨ht1, hserved⟩ := shepherdOver_notice (htold1.trans ht) hl1 hrun hm x
    have hall := hserved.trans (hshep ▸ hover)
    refine ⟨(told_accessOver ..).trans (hshep ▸ ht1), ?_, fun k hk => ?_⟩
    · rw [hall.core, core_updCore, if_pos rfl, ← hcore g]
      rfl
    · have := hall.registers k
      rwa [core_updCore, if_neg hk, hcore k] at this
  · have hdel : s1.accesses = s.accesses.del n := by rw [← hs1]
    rw [accesses_accessOver (fun e he => h e ?_), hdel]
    rw [hdel] at he
    exact mem_of_mem_del he

/-- What keeps an access behind those of its class that have gone: their instants. -/
theorem after_instants {s : State} {x b : Access} (h : after s x b = true) : b.left = true ∧
    ∀ q ∈ b.pieces, ∃ k, instantOf s b q = some k ∧ ∀ p ∈ x.pieces, k ≤ firstOf s x p := by
  obtain ⟨hleft, hall⟩ := Bool.and_eq_true_iff.mp h
  refine ⟨hleft, fun q hq => ?_⟩
  have hq' := List.all_eq_true.mp hall q hq
  cases hk : instantOf s b q with
  | none => rw [hk] at hq'; exact absurd hq' (by simp)
  | some k =>
    rw [hk] at hq'
    refine ⟨k, rfl, fun p hp => ?_⟩
    have := of_decide_eq_true (List.all_eq_true.mp hq' p hp)
    omega

/-! ## A request for HBM (R277) -/

theorem refreshWait_of_none {s : State} (h : s.takeover = []) (k pa : Nat) : refreshWait s k pa = 0 := by
  unfold refreshWait
  rw [h]
  split <;> rfl

/-- A request of one line is due at its group. -/
theorem sendHbm_one {s : State} {n : Nat} {x : Access} {p : Piece} (hps : x.pieces = [p]) (hpath : pathOf x.g p.pa = .hbm) (hp : p.done = false) :
    sendHbm n x (numbered x.pieces) s =
      drawOf ((putDue s n 0 (firstOf s x p + refreshWait s (placeOf s x) p.pa)).due (firstOf s x p + refreshWait s (placeOf s x) p.pa)
        (pieceKey x) (performStep x n 0)) x := by
  rw [hps]
  show sendHbm n x [(0, p)] s = _
  simp only [sendHbm, hpath, hp, BEq.rfl, Bool.not_false, Bool.and_self, if_true]

theorem performStep_zero (x : Access) (n : Nat) : performStep x n 0 = .accessPerform n 0 ∨ performStep x n 0 = .atomicExecute n := by
  unfold performStep
  split
  · exact .inr rfl
  · exact .inl rfl

theorem get_foldl_put_const (ks : List Nat) (v : Nat) (t : Table Nat) (k : Nat) :
    Table.get 0 (ks.foldl (fun t k => Table.put t k v) t) k = if k ∈ ks then v else Table.get 0 t k := by
  induction ks generalizing t with
  | nil => simp
  | cons a ks ih =>
    rw [List.foldl_cons, ih, Table.get_put]
    by_cases hks : k ∈ ks <;> by_cases ha : k = a <;> simp [hks, ha]

/-- A request for HBM that finds its groups free goes whole (R277). -/
theorem exec_hbmRequestSend_goes {s : State} {n : Nat} {x : Access} (hx : s.accesses.find n = some x) {p : Piece}
    (hleft : x.left = true) (hsent : x.sent = 0) (hps : x.pieces = [p]) (hp : p.done = false) (hpath : pathOf x.g p.pa = .hbm)
    (hfree : ∀ k ∈ accessGroups s x, Table.get 0 s.calendar (x.g * 24 + k) ≠ s.now + 1) (hord : inOrder s x = true) (ht : s.takeover = []) :
    ∃ t, exec (.hbmRequestSend n) s = .next t ∧ t.mem = s.mem ∧ (∀ g, SameRegisters (s.core g) (t.core g)) ∧
      (∀ k ∈ accessGroups s x, Table.get 0 t.calendar (x.g * 24 + k) = s.now + 1) ∧
      ∃ m i, (s.now + (if crosses s x.g p.pa then 304 else 256), m, i) ∈ t.agenda ∧ (i = .accessPerform n 0 ∨ i = .atomicExecute n) := by
  let keys := (accessGroups s x).map fun k => x.g * 24 + k
  have hkeys : (keys.any fun k => Table.get 0 s.calendar k == s.now + 1) = false := by
    refine List.any_eq_false.mpr fun k hk => ?_
    obtain ⟨j, hj, rfl⟩ := List.mem_map.mp hk
    simpa using hfree j hj
  let y : Access := { x with sent := s.now }
  let s1 : State := { s with calendar := keys.foldl (fun t k => Table.put t k (s.now + 1)) s.calendar, accesses := s.accesses.put n y }
  have hfirst : firstOf s1 y p + refreshWait s1 (placeOf s1 y) p.pa = s.now + (if crosses s x.g p.pa then 304 else 256) := by
    rw [refreshWait_of_none (by exact ht), Nat.add_zero]
    simp only [firstOf, show pathOf y.g p.pa = .hbm from hpath]
    rfl
  have hexec : exec (.hbmRequestSend n) s = .next (wakeClass (sendHbm n y (numbered y.pieces) s1) x) := by
    have hgo : (!x.left || decide (x.sent ≠ 0)) = false := by simp [hleft, hsent]
    have hslot : (x.role == .slot && !inOrder s x) = false := by simp [hord]
    show execHbmRequestSend n s = _
    simp only [execHbmRequestSend, hx, hgo, hslot, Bool.false_eq_true, if_false]
    rw [if_neg (by rw [hkeys]; simp)]
  rw [sendHbm_one (x := y) hps hpath hp, hfirst] at hexec
  generalize hT : s.now + (if crosses s x.g p.pa then 304 else 256) = T at *
  have hput : Traffic s1 (putDue s1 n 0 T) := putDue_traffic ..
  have hrest : Traffic ((putDue s1 n 0 T).due T (pieceKey y) (performStep y n 0))
      (wakeClass (drawOf ((putDue s1 n 0 T).due T (pieceKey y) (performStep y n 0)) y) x) :=
    (drawOf_traffic ..).trans (wakeClass_traffic ..)
  have hall := (hput.trans (due_traffic ..)).trans hrest
  refine ⟨_, hexec, hall.mem_eq, hall.registers, fun k hk => ?_, ?_⟩
  · rw [hall.state]
    show Table.get 0 (keys.foldl _ _) _ = _
    rw [get_foldl_put_const, if_pos (List.mem_map.mpr ⟨k, hk, rfl⟩)]
  · exact ⟨pieceKey y, performStep y n 0, hrest.agenda (mem_agenda_due ..), performStep_zero y n⟩

/-- Settles O35: each clause is the equation of its step; an access that may leave is in the order of its class. -/
theorem accessStepsOn : Obligations.AccessStepsOn := by
  intro s n x hx
  refine ⟨fun htold r hr hid => exec_landingBufferArrival hx htold hr hid, exec_writeAcknowledge hx, fun hrole hleft hmay => ?_,
    fun hmay hhbm b hb hrole hg hl hdone hseq hcls => ?_, fun hrole hleft hmay => ?_, fun hleft hsent hbusy => ?_,
    fun p hrole hleft hsent hps hp hpath hfree => ⟨fun hord => ?_, fun hord ht => exec_hbmRequestSend_goes hx hleft hsent hps hp hpath hfree hord ht⟩⟩
  · show Host.Outcome.next (tryLeave s n) = _
    rw [tryLeave_slot hx hleft hrole, hmay]
    rfl
  · have hord : inOrder s x = true := by
      have h := (Bool.and_eq_true_iff.mp hmay).2
      rwa [hhbm, Bool.false_or] at h
    refine after_instants (List.all_eq_true.mp hord b (List.mem_filter.mpr ⟨hb, ?_⟩))
    simp [hrole, hg, hl, hdone, hseq, hcls]
  · show Host.Outcome.next (tryLeave s n) = _
    rw [tryLeave_slot hx hleft hrole, if_pos hmay]
  · obtain ⟨k, hk, hcal⟩ := hbusy
    have hany : (((accessGroups s x).map fun k => x.g * 24 + k).any fun k => Table.get 0 s.calendar k == s.now + 1) = true :=
      List.any_eq_true.mpr ⟨_, List.mem_map.mpr ⟨k, hk, rfl⟩, by simp [hcal]⟩
    show execHbmRequestSend n s = _
    simp only [execHbmRequestSend, hx, hleft, hsent, Bool.not_true, Bool.false_or, ne_eq, not_true_eq_false, decide_false,
      Bool.false_eq_true, if_false]
    rw [if_pos hany]
  · have hany : (((accessGroups s x).map fun k => x.g * 24 + k).any fun k => Table.get 0 s.calendar k == s.now + 1) = false := by
      refine List.any_eq_false.mpr fun k hk => ?_
      obtain ⟨j, hj, rfl⟩ := List.mem_map.mp hk
      simpa using hfree j hj
    show execHbmRequestSend n s = _
    simp only [execHbmRequestSend, hx, hleft, hsent, hrole, hord, Bool.not_true, Bool.false_or, ne_eq, not_true_eq_false, decide_false,
      Bool.false_eq_true, if_false, BEq.rfl, Bool.not_false, Bool.and_self, if_true]
    rw [if_neg (by rw [hany]; simp)]

end Sys2Proof.Machine
end

section
/-!
PROOFS. The copy engines (R202 to R217): commands, what an element reads and writes, and the steps of an engine.
-/
namespace Sys2Proof.Machine

/-! ## Commands of a copy engine join its queue (R202, R204, R217) -/

section
variable {s : State} {h : Head} {i : Instr} {k : CopyKind}

/-- A command of format N joins its queue, and `%sig` absorbs its descriptor, or its check fails. -/
theorem command_queues {x : FmtN} {m : Command} (hi : exec i s = runPlan i (commandPlan k h x s) s)
    (hm : runCommand k h x s = absorbCur (enqueue s (engineOf h.slot) m) 12 (x.bfs.toNat * 32 + x.bfd.toNat)
      (m.desc.flatMap fun w => leBytes 8 w.toNat)) :
    FReady s h ((List.range 10).map fun j => ⟨10, descIndexOf h x + j, 0, 8⟩) →
      (commandCheck s s.curCore k h x = none → exec i s = .next (absorbCur (enqueue s (engineOf h.slot) m) 12
        (x.bfs.toNat * 32 + x.bfd.toNat) (m.desc.flatMap fun w => leBytes 8 w.toNat))) ∧
      (∀ f, commandCheck s s.curCore k h x = some f → exec i s = .next (raise s (slotNum h.slot) (withWord i f))) := by
  intro hr
  rw [hi, commandPlan]
  refine ⟨fun hk => ?_, fun f hk => runPlan_fReady_check hr hk⟩
  rw [runPlan_fReady_of hr hk, hm]

/-- A barrier with legal fields joins its queue. -/
theorem barrier_queues {x : FmtF} (hi : exec i s = runPlan i (barrierPlan k h x s) s) (hr : FReady s h []) (hx : barrierOk x = true) :
    exec i s = .next (runFCommand k h x s) := by
  rw [hi, barrierPlan, runPlan_fReady_of hr (if_pos hx)]

/-- A CTLD with legal fields joins its queue. -/
theorem exec_ctld {x : FmtF} (hr : FReady s h [rS x.so.toNat]) (hm : x.cmask = 0) (hs : x.scope = 0) :
    exec (.ctld h x) s = .next (runFCommand .ctld h x s) := by
  have hcheck : (if x.cmask != 0 || x.scope != 0 then some (illegalOp 0 0) else none) = (none : Option Check) := by simp [hm, hs]
  show runPlan _ (planCtld h x s) s = _
  rw [planCtld, rOff, runPlan_fReady_of hr hcheck]

end

theorem core_askFlush (s : State) (g seq scope : Nat) (mask : BitVec 16) (k : Nat) : (askFlush s g seq scope mask).core k = s.core k := by
  unfold askFlush
  dsimp only
  split <;> rfl

theorem askFlush_frame (s : State) (g seq scope : Nat) (mask : BitVec 16) :
    (askFlush s g seq scope mask).cur = s.cur ∧ (askFlush s g seq scope mask).now = s.now := by
  unfold askFlush
  dsimp only
  split <;> exact ⟨rfl, rfl⟩

/-- A command that joins its queue: the core with it, and the zero-length read of a SYSTEM release asked for. -/
def queued (s : State) (e : Nat) (m : Command) : State :=
  let joined := s.setCore s.cur { s.curCore with cmds := Table.put s.curCore.cmds e (s.curCore.cmdsOf e ++ [m]), seq := s.curCore.seq + 1 }
  if m.rel then askFlush joined s.cur m.seq m.scope (if m.kind = .crel then m.mask else 0xFFFF) else joined

theorem cmdsOf_queued (s : State) (e : Nat) (m : Command) : ((queued s e m).core s.cur).cmdsOf e = s.curCore.cmdsOf e ++ [m] := by
  have hjoined : ∀ t : State, t.core s.cur = { s.curCore with cmds := Table.put s.curCore.cmds e (s.curCore.cmdsOf e ++ [m]), seq := s.curCore.seq + 1 } →
      (t.core s.cur).cmdsOf e = s.curCore.cmdsOf e ++ [m] := fun t ht => by
    rw [ht]
    simp [Core.cmdsOf]
  refine hjoined _ ?_
  unfold queued
  dsimp only
  split
  · rw [core_askFlush, core_setCore, if_pos rfl]
  · rw [core_setCore, if_pos rfl]

theorem queued_frame (s : State) (e : Nat) (m : Command) : (queued s e m).cur = s.cur ∧ (queued s e m).now = s.now := by
  unfold queued
  dsimp only
  split
  · exact askFlush_frame ..
  · exact ⟨rfl, rfl⟩

theorem enqueue_eq (s : State) (e : Nat) (m : Command) : enqueue s e m =
    if ((queued s e m).curCore.cmdsOf e).length = 1 then
      if mayStart (queued s e m) s.cur m then
        ((queued s e m).due ((queued s e m).now + 1 + Config.copyDelay ((queued s e m).place s.cur)) keyLeave (.copyCommandStart s.cur e)).draw s.cur
      else queued s e m
    else queued s e m := rfl

/-- A command behind others, or one that may not begin, waits. -/
theorem enqueue_waits {s : State} {e : Nat} {m : Command} (h : s.curCore.cmdsOf e ≠ [] ∨ mayStart (queued s e m) s.cur m = false) :
    enqueue s e m = queued s e m := by
  rw [enqueue_eq]
  split_ifs with hlen hmay
  · rw [State.curCore, (queued_frame s e m).1, cmdsOf_queued] at hlen
    exact (h.elim (fun h => h (by simpa using hlen)) fun h => by simp [h] at hmay).elim
  · rfl
  · rfl

/-- A command alone in its queue that may begin has its start due. -/
theorem enqueue_begins {s : State} {e : Nat} {m : Command} (h : s.curCore.cmdsOf e = []) (hmay : mayStart (queued s e m) s.cur m = true) :
    ∃ d, s.now < d ∧ enqueue s e m = ((queued s e m).due d keyLeave (.copyCommandStart s.cur e)).draw s.cur := by
  obtain ⟨hcur, hnow⟩ := queued_frame s e m
  have hlen : ((queued s e m).curCore.cmdsOf e).length = 1 := by rw [State.curCore, hcur, cmdsOf_queued, h]; rfl
  rw [enqueue_eq, if_pos hlen, if_pos hmay, hnow]
  exact ⟨_, by omega, rfl⟩

/-- Settles O36: each command is `commandPlan`, `barrierPlan` or the plan of CTLD, and joins its queue by `enqueue`. -/
theorem copyCommandsQueue : Obligations.CopyCommandsQueue := by
  refine ⟨fun s h => ⟨fun x => ?_, fun x => ⟨fun hr hx => ?_, exec_ctld⟩⟩, fun s e m => ⟨enqueue_waits, enqueue_begins⟩⟩
  · exact ⟨command_queues rfl rfl, command_queues rfl rfl, command_queues rfl rfl, command_queues rfl rfl, command_queues rfl rfl,
      command_queues rfl rfl, command_queues rfl rfl, command_queues rfl rfl, command_queues rfl rfl⟩
  · exact ⟨barrier_queues rfl hr hx, barrier_queues rfl hr hx, barrier_queues rfl hr hx⟩

/-! ## The address of an element, and what it reads (R196 to R198, R203, R207) -/

/-- A bind of a value is its continuation. -/
theorem Except.bind_of_ok {ε α β : Type} {x : Except ε α} {a : α} (h : x = .ok a) (f : α → Except ε β) : (x >>= f) = f a := by
  subst h; rfl

/-- A bind of an error is the error. -/
theorem Except.bind_of_error {ε α β : Type} {x : Except ε α} {e : ε} (h : x = .error e) (f : α → Except ε β) : (x >>= f) = .error e := by
  subst h; rfl

/-- A fault of an address as an element reports it: with the ordinal, but for the handle that is not valid. -/
def elementCheck (m : Command) (k : Check) : Check := if k.code = 5 then k else { k with arg1 := BitVec.ofNat 64 m.ord }

section
variable {s : State} {g e : Nat} {m : Command}

theorem engineForm_of_error {c : Core} {r : CopyRec} {write : Bool} {n : Nat} {o : Int} (hb : c.bfGet r.num = r.buf)
    (hh : c.hUse r.buf.hnum = r.handle) {k : Check} (hk : (⟨r.num, n, n, 1, [(0, o)]⟩ : Form).form s c write = .error k) :
    engineForm s g m r write n o = .error (.fault (elementCheck m k)) := by
  simp only [Form.form, formAccess, hb, hh, List.headD_cons] at hk
  unfold engineForm
  cases hu : handleUse r.buf.hnum r.handle write (r.buf.base + o.toNat) with
  | some k' =>
    simp only [hu, Except.error.injEq] at hk
    subst hk
    rfl
  | none =>
    cases hp : formParts r.num r.buf r.handle n n 1 [(0, o)] with
    | error k' =>
      simp only [hu, hp, Except.error.injEq] at hk
      subst hk
      rfl
    | ok a =>
      cases ha : addressCheck s write a.spans with
      | some k' =>
        simp only [hu, hp, ha, Except.error.injEq] at hk
        subst hk
        simp only [ha]
        rfl
      | none => simp only [hu, hp, ha, reduceCtorEq] at hk

theorem engineForm_of_ok {c : Core} {r : CopyRec} {write : Bool} {n : Nat} {o : Int} (hb : c.bfGet r.num = r.buf)
    (hh : c.hUse r.buf.hnum = r.handle) {a : Formed} (hk : (⟨r.num, n, n, 1, [(0, o)]⟩ : Form).form s c write = .ok a) :
    engineForm s g m r write n o = if heldToBanks s g m write && undeclared g m a.spans
      then .error (.fault (elementCheck m (boundsCheck r.num o))) else .ok a := by
  simp only [Form.form, formAccess, hb, hh, List.headD_cons] at hk
  unfold engineForm
  cases hu : handleUse r.buf.hnum r.handle write (r.buf.base + o.toNat) with
  | some k' => simp only [hu, reduceCtorEq] at hk
  | none =>
    cases hp : formParts r.num r.buf r.handle n n 1 [(0, o)] with
    | error k' => simp only [hu, hp, reduceCtorEq] at hk
    | ok b =>
      cases ha : addressCheck s write b.spans with
      | some k' => simp only [hu, hp, ha, reduceCtorEq] at hk
      | none =>
        simp only [hu, hp, ha, Except.ok.injEq] at hk
        subst hk
        simp only [ha]
        rfl

theorem readSource_of_missing {n : Nat} {a : Formed} (h : missing m a.spans ≠ []) : readSource m n a = .error (.need (missing m a.spans)) := by
  have hne : (missing m a.spans).isEmpty = false := by simpa using h
  simp only [readSource, hne, Bool.not_false, if_true]

/-- A line that is not missing is read whole. -/
theorem length_lineRead {spans : List Span} (h : missing m spans = []) {sp : Span} (hsp : sp ∈ linesOf spans) :
    (lineRead m sp).length = sp.len := by
  have hnot := List.filter_eq_nil_iff.mp h sp hsp
  unfold lineRead
  split at hnot
  · next d p hd =>
    have hlen : sp.len ≤ d.length := by simpa using hnot
    simp only [List.length_map, List.length_take]
    omega
  · exact absurd rfl hnot

/-- Lines that follow each other in the data give their bytes one after another. -/
theorem foldl_lineRead (lines : List Span) (acc : Marked) (hlen : ∀ sp ∈ lines, (lineRead m sp).length = sp.len)
    (hoff : ∀ i sp, lines[i]? = some sp → sp.off = acc.length + ((lines.take i).map (·.len)).sum) :
    lines.foldl (fun acc sp => acc ++ clean (List.replicate (sp.off - acc.length) 0) ++ lineRead m sp) acc =
      acc ++ lines.flatMap (lineRead m) := by
  induction lines generalizing acc with
  | nil => simp
  | cons sp rest ih =>
    have hfirst : sp.off = acc.length := by simpa using hoff 0 sp rfl
    have hstep : acc ++ clean (List.replicate (sp.off - acc.length) 0) ++ lineRead m sp = acc ++ lineRead m sp := by
      rw [hfirst, Nat.sub_self]
      simp [clean]
    rw [List.foldl_cons, hstep, ih _ (fun q hq => hlen q (List.mem_cons_of_mem _ hq)), List.flatMap_cons, List.append_assoc]
    intro i q hq
    have := hoff (i + 1) q hq
    rw [this, List.take_succ_cons, List.map_cons, List.sum_cons, List.length_append, hlen sp (List.mem_cons_self ..)]
    omega

theorem length_flatMap_lineRead (lines : List Span) (hlen : ∀ sp ∈ lines, (lineRead m sp).length = sp.len) :
    (lines.flatMap (lineRead m)).length = (lines.map (·.len)).sum := by
  rw [List.length_flatMap]
  congr 1
  exact List.map_congr_left hlen

theorem readSource_of_read {n : Nat} {a : Formed} (h : missing m a.spans = [])
    (hoff : ∀ i sp, (linesOf a.spans)[i]? = some sp → sp.off = (((linesOf a.spans).take i).map (·.len)).sum) :
    readSource m n a = .ok ((linesOf a.spans).flatMap (lineRead m) ++ clean (List.replicate (n - ((linesOf a.spans).map (·.len)).sum) 0),
      ((linesOf a.spans).find? fun sp => (lineRead m sp).any (·.2)).map fun sp => sp.pa / 64 * 64) := by
  have hlen : ∀ sp ∈ linesOf a.spans, (lineRead m sp).length = sp.len := fun sp hsp => length_lineRead h hsp
  have hfold := foldl_lineRead (m := m) (linesOf a.spans) [] hlen (by simpa using hoff)
  rw [List.nil_append] at hfold
  simp only [readSource, h, List.isEmpty_nil, Bool.not_true, Bool.false_eq_true, if_false, hfold, length_flatMap_lineRead _ hlen]

theorem noPoison_some (m : Command) (pa : Nat) : noPoison m (some pa) = .error (elemFault m 9 3 pa) := rfl
theorem noPoison_none (m : Command) : noPoison m none = .ok () := rfl

end

/-! ## What one element reads and writes (R208 to R217) -/

/-- Where the source of an element lies, for a step of `es` bytes along dimension 0 (R207). -/
def srcOff (m : Command) (es : Nat) : Int := nestedOffset m.desc (dWord m 0).toInt es (dSS m.desc) m.ord

/-- Where its destination lies. -/
def dstOff (m : Command) (ed : Nat) : Int := nestedOffset m.desc (dWord m 1).toInt ed (dDS m.desc) m.ord

/-- Where its header or its index lies. -/
def auxOff (m : Command) (n : Nat) : Int := ((dXoff m.desc + n : Nat) : Int)

section
variable {s : State} {g e : Nat} {m : Command} {src dst other : CopyRec} {a b hd : Formed} {x hx : Marked} {p : Option Nat}

/-- CPY (R208). -/
theorem element_cpy (hk : m.kind = .cpy) (hs : m.src = some src) (hdst : m.dst = some dst)
    (ha : engineForm s g m src false (copyWidth src.buf.fmt.toNat) (srcOff m (copyWidth src.buf.fmt.toNat)) = .ok a)
    (hb : engineForm s g m dst true (copyWidth src.buf.fmt.toNat) (dstOff m (copyWidth src.buf.fmt.toNat)) = .ok b)
    (hx : readSource m (copyWidth src.buf.fmt.toNat) a = .ok (x, p)) :
    element s g e m = .ok (.store (lineWrites b.spans x) 0 (a.dropped || b.dropped)) := by
  simp only [element, hk, hs, hdst, Option.getD_some, elemSteps]
  refine (Except.bind_of_ok ha _).trans ?_
  refine (Except.bind_of_ok hb _).trans ?_
  exact Except.bind_of_ok hx _

/-- MCAST (R215). -/
theorem element_mcast (hk : m.kind = .mcast) (hs : m.src = some src) (hdst : m.dst = some dst)
    (ha : engineForm s g m src false (copyWidth src.buf.fmt.toNat) (srcOff m (copyWidth src.buf.fmt.toNat)) = .ok a)
    (hb : engineForm s g m dst true (copyWidth src.buf.fmt.toNat) (dstOff m (copyWidth src.buf.fmt.toNat)) = .ok b)
    (hx : readSource m (copyWidth src.buf.fmt.toNat) a = .ok (x, p)) :
    element s g e m = .ok (.store (((List.range 24).filter fun v => (dWord m 9).getLsbD v).flatMap fun v =>
      lineWrites (b.spans.map fun sp => { sp with pa := mcastAddr s g v sp.pa }) x) 0 (a.dropped || b.dropped)) := by
  simp only [element, hk, hs, hdst, Option.getD_some, elemSteps]
  refine (Except.bind_of_ok ha _).trans ?_
  refine (Except.bind_of_ok hb _).trans ?_
  exact Except.bind_of_ok hx _

/-- CPYC (R209). -/
theorem element_cpyc (hk : m.kind = .cpyc) (hs : m.src = some src) (hdst : m.dst = some dst)
    (ha : engineForm s g m src false 1 (srcOff m 1) = .ok a) (hb : engineForm s g m dst true 2 (dstOff m 2) = .ok b)
    (hx : readSource m 1 a = .ok (x, p)) :
    (p = none → element s g e m = .ok (.store (lineWrites b.spans (clean (leBytes 2 ((s.core g).convGet e (numOf x)).toNat))) 0
      (a.dropped || b.dropped))) ∧
    (∀ pa, p = some pa → element s g e m = .error (elemFault m 9 3 pa)) := by
  refine ⟨fun hp => ?_, fun pa hp => ?_⟩
  all_goals
    subst hp
    simp only [element, hk, hs, hdst, Option.getD_some, elemSteps]
    refine (Except.bind_of_ok ha _).trans ?_
    refine (Except.bind_of_ok hb _).trans ?_
    exact Except.bind_of_ok hx _

/-- CPYQ (R210). -/
theorem element_cpyq (hk : m.kind = .cpyq) (hs : m.src = some src) (hdst : m.dst = some dst) (hn : m.dstNext = some other)
    (ha : engineForm s g m src false (4 * blockElems dst.buf.fmt.toNat) (srcOff m (4 * blockElems dst.buf.fmt.toNat)) = .ok a)
    (hb : engineForm s g m dst true (codeBytes dst.buf.fmt.toNat) (dstOff m (codeBytes dst.buf.fmt.toNat)) = .ok b)
    (hh : engineForm s g m other true 2 (auxOff m (2 * m.ord)) = .ok hd)
    (hx : readSource m (4 * blockElems dst.buf.fmt.toNat) a = .ok (x, p)) :
    let q := quantBlock (levelsOf (s.core g) e) dst.buf.fmt.toNat (bits (dWord m 9) 0 8).toNat
      ((List.range (blockElems dst.buf.fmt.toNat)).map fun i => numOf ((x.drop (4 * i)).take 4))
    (p = none → element s g e m = .ok (.store (lineWrites b.spans (clean (leBytes (codeBytes dst.buf.fmt.toNat) q.codes))
      ++ lineWrites hd.spans (clean (leBytes 2 q.header))) (flagIf q.clamp fQCLAMP) (a.dropped || b.dropped || hd.dropped))) ∧
    (∀ pa, p = some pa → element s g e m = .error (elemFault m 9 3 pa)) := by
  refine ⟨fun hp => ?_, fun pa hp => ?_⟩
  all_goals
    subst hp
    simp only [element, hk, hs, hdst, hn, Option.getD_some, elemSteps]
    refine (Except.bind_of_ok ha _).trans ?_
    refine (Except.bind_of_ok hb _).trans ?_
    refine (Except.bind_of_ok hh _).trans ?_
    exact Except.bind_of_ok hx _

/-- The header of a CPYX element is poisoned (R211, R216). -/
theorem element_cpyx_poisoned (hk : m.kind = .cpyx) (hn : m.srcNext = some other)
    (hh : engineForm s g m other false 2 (auxOff m (2 * m.ord)) = .ok hd) {pa : Nat} (hhx : readSource m 2 hd = .ok (hx, some pa)) :
    element s g e m = .error (elemFault m 9 3 pa) := by
  simp only [element, hk, hn, Option.getD_some, elemSteps]
  refine (Except.bind_of_ok hh _).trans ?_
  exact Except.bind_of_ok hhx _

/-- Its header fails its check. -/
theorem element_cpyx_header (hk : m.kind = .cpyx) (hs : m.src = some src) (hn : m.srcNext = some other)
    (hh : engineForm s g m other false 2 (auxOff m (2 * m.ord)) = .ok hd) (hhx : readSource m 2 hd = .ok (hx, none))
    (hbad : headerOk src.buf.fmt.toNat (numOf hx) = false) : element s g e m = .error (elemFault m 10 m.ord (numOf hx)) := by
  simp only [element, hk, hs, hn, Option.getD_some, elemSteps]
  refine (Except.bind_of_ok hh _).trans ?_
  refine (Except.bind_of_ok hhx _).trans ?_
  simp only [noPoison_none, hbad]
  rfl

/-- CPYX (R211). -/
theorem element_cpyx (hk : m.kind = .cpyx) (hs : m.src = some src) (hdst : m.dst = some dst) (hn : m.srcNext = some other)
    (hh : engineForm s g m other false 2 (auxOff m (2 * m.ord)) = .ok hd) (hhx : readSource m 2 hd = .ok (hx, none))
    (hok : headerOk src.buf.fmt.toNat (numOf hx) = true)
    (ha : engineForm s g m src false (codeBytes src.buf.fmt.toNat) (srcOff m (codeBytes src.buf.fmt.toNat)) = .ok a)
    (hb : engineForm s g m dst true (blockElems src.buf.fmt.toNat * widthOf dst.buf.fmt.toNat / 8)
      (dstOff m (blockElems src.buf.fmt.toNat * widthOf dst.buf.fmt.toNat / 8)) = .ok b)
    (hx' : readSource m (codeBytes src.buf.fmt.toNat) a = .ok (x, p)) :
    let value := fun i => blockElem (levelsOf (s.core g) e) src.buf.fmt.toNat (numOf hx) (codeAt src.buf.fmt.toNat (numOf x) i)
      (floatOf dst.buf.fmt.toNat) (bits (dWord m 9) 0 2).toNat
    (p = none → element s g e m = .ok (.store (lineWrites b.spans (clean ((List.range (blockElems src.buf.fmt.toNat)).flatMap fun i =>
      leBytes (widthOf dst.buf.fmt.toNat / 8) (value i).enc))) (flagsOf (fun _ => true) value (blockElems src.buf.fmt.toNat))
      (hd.dropped || a.dropped || b.dropped))) ∧
    (∀ pa, p = some pa → element s g e m = .error (elemFault m 9 3 pa)) := by
  refine ⟨fun hp => ?_, fun pa hp => ?_⟩
  all_goals
    subst hp
    simp only [element, hk, hs, hdst, hn, Option.getD_some, elemSteps]
    refine (Except.bind_of_ok hh _).trans ?_
    refine (Except.bind_of_ok hhx _).trans ?_
    simp only [noPoison_none, hok]
    refine (Except.bind_of_ok ha _).trans ?_
    refine (Except.bind_of_ok hb _).trans ?_
    exact Except.bind_of_ok hx' _

/-- CTLD (R209, R217). -/
theorem element_ctld (hk : m.kind = .ctld) (hs : m.src = some src)
    (ha : engineForm s g m src false 512 (BitVec.ofNat 64 m.off).toInt = .ok a) (hx : readSource m 512 a = .ok (x, p)) :
    (p = none → element s g e m = .ok
      { writes := [], lines := [], table := some (x.map (·.1)), flags := 0, dropped := a.dropped }) ∧
    (∀ pa, p = some pa → element s g e m = .error (elemFault m 9 3 pa)) := by
  refine ⟨fun hp => ?_, fun pa hp => ?_⟩
  all_goals
    subst hp
    simp only [element, hk, hs, Option.getD_some]
    refine (Except.bind_of_ok ha _).trans ?_
    exact Except.bind_of_ok hx _

/-- The index of a GATH element is poisoned (R214, R216). -/
theorem element_gath_poisoned (hk : m.kind = .gath) (hn : m.srcNext = some other)
    (hh : engineForm s g m other false 4 (auxOff m (4 * m.ord)) = .ok hd) {pa : Nat} (hhx : readSource m 4 hd = .ok (hx, some pa)) :
    element s g e m = .error (elemFault m 9 3 pa) := by
  simp only [element, hk, hn, Option.getD_some]
  refine (Except.bind_of_ok hh _).trans ?_
  exact Except.bind_of_ok hhx _

/-- GATH (R214). -/
theorem element_gath (hk : m.kind = .gath) (hs : m.src = some src) (hdst : m.dst = some dst) (hn : m.srcNext = some other)
    (hh : engineForm s g m other false 4 (auxOff m (4 * m.ord)) = .ok hd) (hhx : readSource m 4 hd = .ok (hx, none))
    (ha : engineForm s g m src false ((bits (dWord m 9) 0 16).toNat + 1) ((dWord m 0).toInt + (numOf hx * src.buf.str1 : Nat)) = .ok a)
    (hb : engineForm s g m dst true ((bits (dWord m 9) 0 16).toNat + 1)
      ((dWord m 1).toInt + (m.ord * ((bits (dWord m 9) 0 16).toNat + 1) : Nat)) = .ok b)
    (hx' : readSource m ((bits (dWord m 9) 0 16).toNat + 1) a = .ok (x, p)) :
    (p = none → element s g e m = .ok (.store (lineWrites b.spans x) 0 (hd.dropped || a.dropped || b.dropped))) ∧
    (∀ pa, p = some pa → element s g e m = .error (elemFault m 9 3 pa)) := by
  refine ⟨fun hp => ?_, fun pa hp => ?_⟩
  all_goals
    subst hp
    simp only [element, hk, hs, hdst, hn, Option.getD_some]
    refine (Except.bind_of_ok hh _).trans ?_
    refine (Except.bind_of_ok hhx _).trans ?_
    refine (Except.bind_of_ok (noPoison_none m) _).trans ?_
    refine (Except.bind_of_ok ha _).trans ?_
    refine (Except.bind_of_ok hb _).trans ?_
    exact Except.bind_of_ok hx' _

/-- SCAT (R214). -/
theorem element_scat (hk : m.kind = .scat) (hs : m.src = some src) (hdst : m.dst = some dst) (hn : m.dstNext = some other)
    (hh : engineForm s g m other false 4 (auxOff m (4 * m.ord)) = .ok hd) {pi : Option Nat} (hhx : readSource m 4 hd = .ok (hx, pi))
    (ha : engineForm s g m src false ((bits (dWord m 9) 0 16).toNat + 1)
      ((dWord m 0).toInt + (m.ord * ((bits (dWord m 9) 0 16).toNat + 1) : Nat)) = .ok a)
    (hb : engineForm s g m dst true ((bits (dWord m 9) 0 16).toNat + 1) ((dWord m 1).toInt + (numOf hx * dst.buf.str1 : Nat)) = .ok b)
    (hx' : readSource m ((bits (dWord m 9) 0 16).toNat + 1) a = .ok (x, p)) :
    element s g e m = .ok (.store (lineWrites b.spans (x.map fun (v, mark) => (v, mark || pi.isSome))) 0
      (hd.dropped || a.dropped || b.dropped)) := by
  simp only [element, hk, hs, hdst, hn, Option.getD_some]
  refine (Except.bind_of_ok hh _).trans ?_
  refine (Except.bind_of_ok hhx _).trans ?_
  refine (Except.bind_of_ok ha _).trans ?_
  refine (Except.bind_of_ok hb _).trans ?_
  exact Except.bind_of_ok hx' _

end

/-! ## CPYZ and WBLD (R212, R213) -/

section
variable {s : State} {g e : Nat} {m : Command} {src dst other : CopyRec} {a b hd : Formed} {x hx : Marked} {p : Option Nat}

/-- The blocks of the tile of a CPYZ element. -/
def copyBlocks (fs : Nat) : Nat := 128 * rowBlocks fs

/-- The header of a block of the tile. -/
def tileHeader (hx : Marked) (j : Nat) : Nat := numOf ((hx.drop (2 * j)).take 2)

/-- The header lines of a CPYZ element are poisoned (R216). -/
theorem element_cpyz_poisoned (hk : m.kind = .cpyz) (hs : m.src = some src) (hn : m.srcNext = some other)
    (hh : engineForm s g m other false (2 * copyBlocks src.buf.fmt.toNat) (auxOff m (2 * copyBlocks src.buf.fmt.toNat * m.ord)) = .ok hd)
    (ha : engineForm s g m src false (copyBlocks src.buf.fmt.toNat * codeBytes src.buf.fmt.toNat)
      (srcOff m (copyBlocks src.buf.fmt.toNat * codeBytes src.buf.fmt.toNat)) = .ok a) {pa : Nat}
    (hhx : readSource m (2 * copyBlocks src.buf.fmt.toNat) hd = .ok (hx, some pa)) : element s g e m = .error (elemFault m 9 3 pa) := by
  simp only [element, hk, hs, hn, Option.getD_some, elemSteps]
  refine (Except.bind_of_ok hh _).trans ?_
  refine (Except.bind_of_ok ha _).trans ?_
  exact Except.bind_of_ok hhx _

theorem find_bad_header {fs n j : Nat} (hj : j < n) (hbad : headerOk fs (tileHeader hx j) = false)
    (hok : ∀ i < j, headerOk fs (tileHeader hx i) = true) :
    ((List.range n).find? fun j => !headerOk fs (numOf ((hx.drop (2 * j)).take 2))) = some j := by
  refine List.find?_range_eq_some.mpr ⟨?_, List.mem_range.mpr hj, fun i hi => ?_⟩
  · exact congrArg not hbad
  · have h := hok i hi
    unfold tileHeader at h
    simp [h]

/-- A header of a CPYZ element fails its check: the lowest such block. -/
theorem element_cpyz_header (hk : m.kind = .cpyz) (hs : m.src = some src) (hn : m.srcNext = some other)
    (hh : engineForm s g m other false (2 * copyBlocks src.buf.fmt.toNat) (auxOff m (2 * copyBlocks src.buf.fmt.toNat * m.ord)) = .ok hd)
    (ha : engineForm s g m src false (copyBlocks src.buf.fmt.toNat * codeBytes src.buf.fmt.toNat)
      (srcOff m (copyBlocks src.buf.fmt.toNat * codeBytes src.buf.fmt.toNat)) = .ok a)
    (hhx : readSource m (2 * copyBlocks src.buf.fmt.toNat) hd = .ok (hx, none)) {j : Nat} (hj : j < copyBlocks src.buf.fmt.toNat)
    (hbad : headerOk src.buf.fmt.toNat (tileHeader hx j) = false) (hok : ∀ i < j, headerOk src.buf.fmt.toNat (tileHeader hx i) = true) :
    element s g e m = .error (elemFault m 10 j (tileHeader hx j)) := by
  have hfind := find_bad_header hj hbad hok
  unfold copyBlocks at hfind
  simp only [element, hk, hs, hn, Option.getD_some, elemSteps]
  refine (Except.bind_of_ok hh _).trans ?_
  refine (Except.bind_of_ok ha _).trans ?_
  refine (Except.bind_of_ok hhx _).trans ?_
  refine (Except.bind_of_ok (noPoison_none m) _).trans ?_
  simp only [hfind]
  rfl

/-- CPYZ with good headers (R212). -/
theorem element_cpyz (hk : m.kind = .cpyz) (hs : m.src = some src) (hdst : m.dst = some dst) (hn : m.srcNext = some other)
    (hh : engineForm s g m other false (2 * copyBlocks src.buf.fmt.toNat) (auxOff m (2 * copyBlocks src.buf.fmt.toNat * m.ord)) = .ok hd)
    (ha : engineForm s g m src false (copyBlocks src.buf.fmt.toNat * codeBytes src.buf.fmt.toNat)
      (srcOff m (copyBlocks src.buf.fmt.toNat * codeBytes src.buf.fmt.toNat)) = .ok a)
    (hhx : readSource m (2 * copyBlocks src.buf.fmt.toNat) hd = .ok (hx, none))
    (hok : ∀ i < copyBlocks src.buf.fmt.toNat, headerOk src.buf.fmt.toNat (tileHeader hx i) = true)
    (hx' : readSource m (copyBlocks src.buf.fmt.toNat * codeBytes src.buf.fmt.toNat) a = .ok (x, p)) :
    let image := tileImage src.buf.fmt.toNat (copyBlocks src.buf.fmt.toNat) (x.map (·.1)) (hx.map (·.1))
    (∀ pa, p = some pa → element s g e m = .error (elemFault m 9 3 pa)) ∧
    (∀ b, p = none → engineForm s g m dst true image.length (dstOff m (64 * imageLines src.buf.fmt.toNat)) = .ok b →
      element s g e m = .ok (.store (lineWrites b.spans (clean image)) 0 (hd.dropped || a.dropped || b.dropped))) := by
  have hfind : ((List.range (copyBlocks src.buf.fmt.toNat)).find? fun j => !headerOk src.buf.fmt.toNat (numOf ((hx.drop (2 * j)).take 2))) = none :=
    List.find?_eq_none.mpr fun i hi => by
      have := hok i (List.mem_range.mp hi)
      unfold tileHeader at this
      simp [this]
  unfold copyBlocks at hfind
  refine ⟨fun pa hp => ?_, fun b hp hb => ?_⟩
  all_goals
    subst hp
    simp only [element, hk, hs, hdst, hn, Option.getD_some, elemSteps]
    refine (Except.bind_of_ok hh _).trans ?_
    refine (Except.bind_of_ok ha _).trans ?_
    refine (Except.bind_of_ok hhx _).trans ?_
    refine (Except.bind_of_ok (noPoison_none m) _).trans ?_
    simp only [hfind]
    refine (Except.bind_of_ok hx' _).trans ?_
  · rfl
  · refine (Except.bind_of_ok (noPoison_none m) _).trans ?_
    exact Except.bind_of_ok hb _

theorem foldl_add_eq_sum (l : List Nat) (f : Nat → Nat) (acc : Nat) : l.foldl (fun acc j => acc + f j) acc = acc + (l.map f).sum := by
  induction l generalizing acc with
  | nil => rfl
  | cons j l ih => rw [List.foldl_cons, ih, List.map_cons, List.sum_cons, Nat.add_assoc]

/-- The image of a tile: the presence map, then the codes of the blocks that are not elidable. -/
theorem tileImage_eq (fs n : Nat) (codes : List Byte) (hx : Marked) :
    let code := fun (j : Nat) => (codes.drop (j * codeBytes fs)).take (codeBytes fs)
    let kept := (List.range n).filter fun j => !elidable fs (tileHeader hx j) (leNat (code j))
    tileImage fs n codes (hx.map (·.1)) = leBytes 64 (kept.map fun j => 2 ^ j).sum ++ kept.flatMap code := by
  have hheader : ∀ j, leNat (((hx.map (·.1)).drop (2 * j)).take 2) = tileHeader hx j := fun j => by
    unfold tileHeader numOf
    rw [← List.map_drop, ← List.map_take]
  unfold tileImage
  dsimp only
  simp only [hheader, foldl_add_eq_sum, Nat.zero_add]

/-! ### Lines of the weight buffer -/

/-- Bytes cut into lines, one after another. -/
theorem wbLines_eq (fuel line : Nat) (d : Marked) (hf : (d.length + 63) / 64 ≤ fuel) :
    wbLines fuel line d = (List.range ((d.length + 63) / 64)).map fun i => wbLine (line + i) ((d.drop (64 * i)).take 64) := by
  induction fuel generalizing line d with
  | zero =>
    have h0 : (d.length + 63) / 64 = 0 := by omega
    rw [h0]
    rfl
  | succ fuel ih =>
    by_cases hd : d = []
    · subst hd
      rfl
    · have hpos : 0 < d.length := List.length_pos_iff.mpr hd
      have hlen : ((d.drop 64).length + 63) / 64 = (d.length + 63) / 64 - 1 := by rw [List.length_drop]; omega
      have hone : (d.length + 63) / 64 = ((d.drop 64).length + 63) / 64 + 1 := by omega
      have hne : d.isEmpty = false := by simpa using hd
      rw [wbLines, hne, if_neg (by simp), ih _ _ (by omega), hone, List.range_succ_eq_map, List.map_cons, List.map_map]
      congr 1
      refine List.map_congr_left fun i _ => ?_
      simp only [Function.comp, Nat.succ_eq_add_one, List.drop_drop]
      rw [show line + 1 + i = line + (i + 1) by omega, show 64 + 64 * i = 64 * (i + 1) by omega]

/-- WBLD of one line (R213). -/
theorem element_wbld_line (hk : m.kind = .wbld) (hs : m.src = some src) (ht : (dWord m 9).getLsbD 15 = false)
    (ha : engineForm s g m src false 64 (srcOff m 64) = .ok a) :
    (32767 < (bits (dWord m 9) 0 15).toNat + m.ord → element s g e m = .error (elemFault m 8 0x200 ((bits (dWord m 9) 0 15).toNat + m.ord))) ∧
    ((bits (dWord m 9) 0 15).toNat + m.ord ≤ 32767 → readSource m 64 a = .ok (x, p) → element s g e m = .ok
      { writes := [], lines := [wbLine ((bits (dWord m 9) 0 15).toNat + m.ord) x], table := none, flags := 0, dropped := a.dropped }) := by
  refine ⟨fun hlt => ?_, fun hle hx => ?_⟩
  all_goals simp only [element, hk, hs, ht, Option.getD_some, elemSteps, Bool.false_eq_true, if_false]
  · refine (Except.bind_of_ok ha _).trans ?_
    simp only [hlt, if_true]
    rfl
  · refine (Except.bind_of_ok ha _).trans ?_
    simp only [Nat.not_lt.mpr hle, if_false]
    exact Except.bind_of_ok hx _

section
variable (hk : m.kind = .wbld) (hs : m.src = some src) (ht : (dWord m 9).getLsbD 15 = true)
  (ha : engineForm s g m src false 64 (srcOff m (64 * imageLines (11 + (bits (dWord m 9) 16 2).toNat))) = .ok a)
  {map : Marked} {pm : Option Nat} (hmap : readSource m 64 a = .ok (map, pm))
include hk hs ht ha hmap

/-- WBLD of a tile whose map has a bit that its format has not. -/
theorem element_wbld_map (hw : 11 + (bits (dWord m 9) 16 2).toNat = 13) (hbig : 2 ^ 256 ≤ numOf map) :
    element s g e m = .error (elemFault m 10 0 (numOf map / 2 ^ 256 % 2 ^ 64)) := by
  have hdiv : (numOf map / 2 ^ 256 != 0) = true := by
    simpa using hbig
  rw [hw] at ha
  simp only [element, hk, hs, ht, Option.getD_some, elemSteps, if_true, hw]
  refine (Except.bind_of_ok ha _).trans ?_
  refine (Except.bind_of_ok hmap _).trans ?_
  simp only [hdiv, decide_true, Bool.and_self, if_true]
  rfl

/-- WBLD of a tile (R213). -/
theorem element_wbld_tile (hw : 11 + (bits (dWord m 9) 16 2).toNat ≠ 13 ∨ numOf map < 2 ^ 256) :
    let wf := 11 + (bits (dWord m 9) 16 2).toNat
    let size := 64 + codeBytes wf * popcount 512 (numOf map)
    let first := (bits (dWord m 9) 0 15).toNat + m.ord * imageLines wf
    let last := first + (size + 63) / 64 - 1
    engineForm s g m src false size (srcOff m (64 * imageLines wf)) = .ok b → readSource m size b = .ok (x, p) →
      (32767 < last → element s g e m = .error (elemFault m 8 0x200 (max first 32768))) ∧
      (last ≤ 32767 → x.length = size → element s g e m = .ok
        { writes := [], table := none, flags := 0, dropped := a.dropped || b.dropped
          lines := (List.range ((size + 63) / 64)).map fun i => wbLine (first + i) ((x.drop (64 * i)).take 64) }) := by
  have hdiv : (decide (11 + (bits (dWord m 9) 16 2).toNat = 13) && numOf map / 2 ^ 256 != 0) = false := by
    rcases hw with h | h
    · simp [h]
    · rw [Nat.div_eq_of_lt h, bne_self_eq_false, Bool.and_false]
  intro wf size first last hb hx
  refine ⟨fun hlt => ?_, fun hle hlen => ?_⟩
  · simp only [element, hk, hs, ht, Option.getD_some, elemSteps, if_true]
    refine (Except.bind_of_ok ha _).trans ?_
    refine (Except.bind_of_ok hmap _).trans ?_
    rw [if_neg (by rw [hdiv]; simp)]
    refine (Except.bind_of_ok hb _).trans ?_
    refine (Except.bind_of_ok hx _).trans ?_
    rw [if_pos hlt]
    rfl
  · simp only [element, hk, hs, ht, Option.getD_some, elemSteps, if_true]
    refine (Except.bind_of_ok ha _).trans ?_
    refine (Except.bind_of_ok hmap _).trans ?_
    rw [if_neg (by rw [hdiv]; simp)]
    refine (Except.bind_of_ok hb _).trans ?_
    refine (Except.bind_of_ok hx _).trans ?_
    rw [if_neg (by exact Nat.not_lt.mpr hle), wbLines_eq _ _ _ (by rw [hlen]; exact (show (size + 63) / 64 ≤ size / 64 + 2 by omega)), hlen]
    rfl

end
end

/-! ## What an element leaves, and the steps of an engine (R202, R205, R207, R216) -/

/-- What lines put into the weight buffer: the buffer and its poison marks. -/
def Core.withWb (c d : Core) : Core := { c with wb := d.wb, wbPoison := d.wbPoison }

theorem wbWrite_frame (ls : List (Nat × Line × Line × Bool)) (c : Core) : wbWrite ls c = c.withWb (wbWrite ls c) := by
  unfold wbWrite
  induction ls generalizing c with
  | nil => rfl
  | cons l ls ih => rw [List.foldl_cons, ih]; rfl

theorem wbGet_wbWrite_other (ls : List (Nat × Line × Line × Bool)) (c : Core) {n : Nat} (h : ∀ x ∈ ls, x.1 ≠ n) :
    (wbWrite ls c).wbGet n = c.wbGet n := by
  unfold wbWrite
  induction ls generalizing c with
  | nil => rfl
  | cons l ls ih =>
    rw [List.foldl_cons, ih _ fun x hx => h x (List.mem_cons_of_mem _ hx)]
    simp only [Core.wbGet, Table.get_put, if_neg (Ne.symm (h l (List.mem_cons_self ..)))]

theorem wbGet_wbWrite_one (c : Core) (n : Nat) (v en : Line) (p : Bool) :
    (wbWrite [(n, v, en, p)] c).wbGet n = merge (c.wbGet n) v en := by
  simp only [wbWrite, List.foldl_cons, List.foldl_nil, Core.wbGet, Table.get_put, if_pos]

theorem core_putWbLines (s : State) (g region : Nat) (ls : List (Nat × Line × Line × Bool)) : ∃ r, (putWbLines s g region ls).core g =
    { wbWrite ls (s.core g) with region := r } := by
  unfold putWbLines
  dsimp only
  split
  · rw [core_updCore, if_pos rfl]; exact ⟨_, rfl⟩
  · rw [core_updPoint, core_updCore, if_pos rfl]; exact ⟨_, rfl⟩

theorem putWbLines_mem (s : State) (g region : Nat) (ls : List (Nat × Line × Line × Bool)) : (putWbLines s g region ls).mem = s.mem := by
  unfold putWbLines
  dsimp only
  split
  · rfl
  · rw [updPoint_mem]; rfl

/-- A table of CTLD in the conversion tables of a core (R209). -/
def loadTable (e : Nat) (bf16 : Bool) (d : List Byte) (c : Core) : Core :=
  { c with conv := (List.range 256).foldl (fun t i => Table.put t (e * 256 + i) (BitVec.ofNat 16 (leNat ((d.drop (2 * i)).take 2)))) c.conv
           convBf := putBit c.convBf e bf16 }

theorem loadTable_frame (e : Nat) (bf16 : Bool) (d : List Byte) (c : Core) : (loadTable e bf16 d c).cmds = c.cmds ∧
    (loadTable e bf16 d c).oob = c.oob ∧ ∀ n, (loadTable e bf16 d c).wbGet n = c.wbGet n := by
  unfold loadTable
  generalize (List.range 256).foldl _ c.conv = t
  exact ⟨rfl, rfl, fun _ => rfl⟩

/-- The conversion table that an element loads, with its place in the undo log. -/
def loadTable? (s : State) (g e : Nat) (m : Command) : Option (List Byte) → State
  | none => s
  | some d =>
    let s3 := s.updCore g fun c => { loadTable e m.bf16 d c with region := logUnit c.region (11 * 2 ^ 20 + 2 + e) 512 }
    if m.region = (s.core g).region.num then s3 else updPoint s3 g (loadTable e m.bf16 d)

theorem core_loadTable? (s : State) (g e : Nat) (m : Command) (d? : Option (List Byte)) : ∃ r, (loadTable? s g e m d?).core g =
    { d?.elim (s.core g) (fun d => loadTable e m.bf16 d (s.core g)) with region := r } := by
  cases d? with
  | none => exact ⟨_, rfl⟩
  | some d =>
    unfold loadTable?
    dsimp only
    split
    · rw [core_updCore, if_pos rfl]; exact ⟨_, rfl⟩
    · rw [core_updPoint, core_updCore, if_pos rfl]; exact ⟨_, rfl⟩

theorem loadTable?_mem (s : State) (g e : Nat) (m : Command) (d? : Option (List Byte)) : (loadTable? s g e m d?).mem = s.mem := by
  cases d? with
  | none => rfl
  | some d =>
    unfold loadTable?
    dsimp only
    split
    · rfl
    · rw [updPoint_mem]; rfl

theorem updHead_eq {s : State} {g e : Nat} {m : Command} {rest : List Command} (h : (s.core g).cmdsOf e = m :: rest) (u : Command → Command) :
    updHead s g e u = s.setCore g { s.core g with cmds := Table.put (s.core g).cmds e (u m :: rest) } := by
  unfold updHead State.updCore
  simp only [h]
  rfl

theorem applyElement_eq (s : State) (g e : Nat) (m : Command) (a : ElemAct) : applyElement s g e m a =
    updHead ((loadTable? (putWbLines s g m.region a.lines) g e m a.table).updCore g fun c =>
        if a.dropped && !m.oob then { c with oob := c.oob + 1 } else c) g e fun m =>
      { m with ord := m.ord + 1, flags := m.flags ||| a.flags, oob := m.oob || a.dropped, fetched := [], todo := a.writes } := by
  unfold applyElement
  cases a.table with
  | none => rfl
  | some d => rfl

/-- What an element changes at a core but for its queue and its counter: the weight buffer, then the table. -/
def elementLoads (e : Nat) (m : Command) (a : ElemAct) (c : Core) : Core :=
  a.table.elim (wbWrite a.lines c) fun d => loadTable e m.bf16 d (wbWrite a.lines c)

theorem elementLoads_frame (e : Nat) (m : Command) (a : ElemAct) (c : Core) :
    (elementLoads e m a c).cmds = c.cmds ∧ (elementLoads e m a c).oob = c.oob := by
  have hwb : (wbWrite a.lines c).cmds = c.cmds ∧ (wbWrite a.lines c).oob = c.oob := by rw [wbWrite_frame]; exact ⟨rfl, rfl⟩
  unfold elementLoads
  cases a.table with
  | none => exact hwb
  | some d => exact ⟨(loadTable_frame ..).1.trans hwb.1, (loadTable_frame ..).2.1.trans hwb.2⟩

theorem wbGet_elementLoads (e : Nat) (m : Command) (a : ElemAct) (c : Core) (n : Nat) :
    (elementLoads e m a c).wbGet n = (wbWrite a.lines c).wbGet n := by
  unfold elementLoads
  cases a.table with
  | none => rfl
  | some d => exact (loadTable_frame ..).2.2 n

theorem convGet_elementLoads_none {m : Command} {a : ElemAct} (h : a.table = none) (e : Nat) (c : Core) (i : Nat) :
    (elementLoads e m a c).convGet e i = c.convGet e i := by
  unfold elementLoads
  rw [h, Option.elim, wbWrite_frame]
  rfl

theorem convGet_elementLoads_some {m : Command} {a : ElemAct} {x : List Byte} (h : a.table = some x) (e : Nat) (c : Core) {i : Nat} (hi : i < 256) :
    (elementLoads e m a c).convGet e i = BitVec.ofNat 16 (leNat ((x.drop (2 * i)).take 2)) := by
  unfold elementLoads
  simp only [h, Option.elim, loadTable, Core.convGet]
  rw [get_foldl_put 0 _ (e * 256) 256 _ fun i => BitVec.ofNat 16 (leNat ((x.drop (2 * i)).take 2)), if_pos (by omega),
    show e * 256 + i - e * 256 = i by omega]

theorem core_elementLoads (s : State) (g e : Nat) (m : Command) (a : ElemAct) : ∃ r,
    (loadTable? (putWbLines s g m.region a.lines) g e m a.table).core g = { elementLoads e m a (s.core g) with region := r } := by
  obtain ⟨r1, h1⟩ := core_putWbLines s g m.region a.lines
  obtain ⟨r2, h2⟩ := core_loadTable? (putWbLines s g m.region a.lines) g e m a.table
  refine ⟨r2, ?_⟩
  rw [h2, h1]
  unfold elementLoads
  cases a.table with
  | none => rfl
  | some d => rfl

/-- The core once an element has what it reads: its loads, its counter of zeroed accesses and its queue. -/
theorem core_applyElement {s : State} {g e : Nat} {m : Command} {rest : List Command} (h : (s.core g).cmdsOf e = m :: rest) (a : ElemAct) :
    ∃ r, (applyElement s g e m a).core g = { elementLoads e m a (s.core g) with
      region := r
      oob := (s.core g).oob + (if a.dropped && !m.oob then 1 else 0)
      cmds := Table.put (s.core g).cmds e ({ m with
        ord := m.ord + 1, flags := m.flags ||| a.flags, oob := m.oob || a.dropped, fetched := [], todo := a.writes } :: rest) } := by
  obtain ⟨r, hr⟩ := core_elementLoads s g e m a
  obtain ⟨hcmds, hoob⟩ := elementLoads_frame e m a (s.core g)
  generalize hu : (loadTable? (putWbLines s g m.region a.lines) g e m a.table).updCore g
    (fun c => if a.dropped && !m.oob then { c with oob := c.oob + 1 } else c) = u
  have hcore : u.core g = { elementLoads e m a (s.core g) with
      region := r, oob := (s.core g).oob + (if a.dropped && !m.oob then 1 else 0) } := by
    rw [← hu, core_updCore, if_pos rfl, hr]
    split <;> simp only [← hoob, Nat.add_zero]
  have hqueue : (u.core g).cmdsOf e = m :: rest := by
    rw [hcore, ← h]
    exact congrArg (fun t => Table.get [] t e) hcmds
  refine ⟨r, ?_⟩
  rw [applyElement_eq, hu, updHead_eq hqueue, core_setCore, if_pos rfl, hcore, hcmds]

theorem applyElement_mem (s : State) (g e : Nat) (m : Command) (a : ElemAct) : (applyElement s g e m a).mem = s.mem := by
  rw [applyElement_eq]
  exact (loadTable?_mem ..).trans (putWbLines_mem ..)

/-- What an element that has what it reads leaves. -/
theorem applyElement_spec {s : State} {g e : Nat} {m : Command} {rest : List Command} (h : (s.core g).cmdsOf e = m :: rest) (a : ElemAct) :
    let t := applyElement s g e m a
    t.mem = s.mem ∧ (t.core g).cmdsOf e = { m with
      ord := m.ord + 1, flags := m.flags ||| a.flags, oob := m.oob || a.dropped, fetched := [], todo := a.writes } :: rest ∧
    (t.core g).oob = (s.core g).oob + (if a.dropped && !m.oob then 1 else 0) ∧
    (∀ n, (∀ x ∈ a.lines, x.1 ≠ n) → (t.core g).wbGet n = (s.core g).wbGet n) ∧
    (∀ n v en p, a.lines = [(n, v, en, p)] → (t.core g).wbGet n = merge ((s.core g).wbGet n) v en) ∧
    (∀ i, a.table = none → (t.core g).convGet e i = (s.core g).convGet e i) ∧
    (∀ i x, a.table = some x → i < 256 → (t.core g).convGet e i = BitVec.ofNat 16 (leNat ((x.drop (2 * i)).take 2))) := by
  obtain ⟨r, hr⟩ := core_applyElement h a
  intro t
  have hwb : ∀ n, (t.core g).wbGet n = (wbWrite a.lines (s.core g)).wbGet n := fun n => by
    rw [hr]
    exact wbGet_elementLoads e m a (s.core g) n
  refine ⟨applyElement_mem .., ?_, by rw [hr], fun n hn => (hwb n).trans (wbGet_wbWrite_other _ _ hn), fun n v en p hl => ?_, fun i hi => ?_,
    fun i x hx hi => ?_⟩
  · rw [hr]
    simp [Core.cmdsOf]
  · rw [hwb, hl, wbGet_wbWrite_one]
  · rw [hr]
    exact convGet_elementLoads_none hi e (s.core g) i
  · rw [hr]
    exact convGet_elementLoads_some hx e (s.core g) hi

section
variable {s : State} {g e : Nat} {m : Command} {rest : List Command}

/-- A command behind its order does not begin. -/
theorem exec_copyCommandStart_waits (h : (s.core g).cmdsOf e = m :: rest) (hs : m.started = false) (hm : mayStart s g m = false) :
    exec (.copyCommandStart g e) s = .next s := by
  show execCopyCommandStart g e s = _
  simp only [execCopyCommandStart, h, hs, hm, Bool.not_false, Bool.or_true, if_true]

/-- A command of format N, or CTLD, begins when its order allows. -/
theorem exec_copyCommandStart (h : (s.core g).cmdsOf e = m :: rest) (hs : m.started = false) (hm : mayStart s g m = true)
    (h1 : m.kind ≠ .cfence) (h2 : m.kind ≠ .cacq) (h3 : m.kind ≠ .crel) : exec (.copyCommandStart g e) s =
      .next (nextElement (s.setCore g { s.core g with cmds := Table.put (s.core g).cmds e ({ m with started := true } :: rest) }) g e) := by
  show execCopyCommandStart g e s = _
  simp only [execCopyCommandStart, h, hs, hm, Bool.not_true, Bool.or_self, Bool.false_eq_true, if_false, updHead_eq h]

theorem mayStart_barrier (s : State) (g : Nat) (h : m.kind = .cfence ∨ m.kind = .cacq ∨ m.kind = .crel) : mayStart s g m = true := by
  unfold mayStart
  rcases h with h | h | h <;> rw [h]

/-- A barrier begins at once, and completes when it may. -/
theorem exec_copyCommandStart_barrier (h : (s.core g).cmdsOf e = m :: rest) (hs : m.started = false)
    (hk : m.kind = .cfence ∨ m.kind = .cacq ∨ m.kind = .crel) : exec (.copyCommandStart g e) s =
      let t := s.setCore g { s.core g with cmds := Table.put (s.core g).cmds e ({ m with started := true } :: rest) }
      .next (if mayComplete s g e m then t.due s.now keyReply (.copyCommandComplete g e) else t) := by
  show execCopyCommandStart g e s = _
  simp only [execCopyCommandStart, h, hs, mayStart_barrier s g hk, Bool.not_true, Bool.or_self, Bool.false_eq_true, if_false, updHead_eq h]
  split
  case h_4 h1 h2 h3 => exact (hk.elim h1 fun hk => hk.elim h2 h3).elim
  all_goals rfl

section
variable (h : (s.core g).cmdsOf e = m :: rest) (hs : m.started = true) (hp : m.paused = false) (hf : e = 2 → (s.core g).elFault = [])

include hf in
theorem noFaultMet : ¬ ((decide (e = 2) && !(s.core g).elFault.isEmpty) = true) := by
  by_cases he : e = 2
  · simp [hf he]
  · simp [he]

include hs hp in
theorem commandGoesOn (hw : m.ord < m.total ∨ m.todo ≠ []) :
    ¬ ((!m.started || m.paused || (decide (m.total ≤ m.ord) && m.todo.isEmpty)) = true) := by
  rcases hw with hw | hw
  · simp [hs, hp, Nat.not_le.mpr hw]
  · simp [hs, hp, hw]

include h hs hp hf

/-- In a stopped placement the engine pauses between elements (R347). -/
theorem exec_copyElement_pauses (hw : m.ord < m.total ∨ m.todo ≠ []) (hr : engineRuns s g = false) (hb : betweenElements s g e m = true) :
    exec (.copyElement g e) s =
      .next (s.setCore g { s.core g with cmds := Table.put (s.core g).cmds e ({ m with paused := true } :: rest) }) := by
  show execCopyElement g e s = _
  unfold execCopyElement
  rw [if_neg (noFaultMet hf)]
  simp only [h, if_neg (commandGoesOn hs hp hw), hr, hb, Bool.not_false, Bool.and_self, if_true, pauseEngine, updHead_eq h]

variable (hr : engineRuns s g = true ∨ betweenElements s g e m = false)

include hr in
omit h hs hp hf in
theorem engineGoesOn : ¬ ((!engineRuns s g && betweenElements s g e m) = true) := by
  rcases hr with hr | hr <;> simp [hr]

include hr

/-- The engine writes the next line of an element that it has read. -/
theorem exec_copyElement_writes {w : LineWrite} {ws : List LineWrite} (hw : m.todo = w :: ws) :
    exec (.copyElement g e) s = .next (engineGoes (makeElementAccess
      (s.setCore g { s.core g with cmds := Table.put (s.core g).cmds e ({ m with todo := ws } :: rest) }) g e m (m.ord - 1) .write
        (writePiece w)) g e) := by
  show execCopyElement g e s = _
  unfold execCopyElement
  rw [if_neg (noFaultMet hf)]
  simp only [h, if_neg (commandGoesOn hs hp (.inr (by rw [hw]; simp))), if_neg (engineGoesOn hr)]
  simp only [hw, updHead_eq h]

variable (hord : m.ord < m.total) (htodo : m.todo = []) (hopen : ∀ x ∈ engineOpen s g e, x.2.kind ≠ .read)
include hord htodo hopen

/-- An element that does not form is a fault that the core meets (R345). -/
theorem exec_copyElement_faults {k : Check} (hel : element s g e m = .error (.fault k)) :
    exec (.copyElement g e) s = .next (meetFault
      (s.setCore g { s.core g with cmds := Table.put (s.core g).cmds e ({ m with paused := true, fetched := [] } :: rest) }) g
      { kind := 1, code := k.code, cause := k.cause, arg0 := k.arg0, arg1 := k.arg1, slot := 5 + e, rep := m.rep, origin := 2
        issue := m.issue, baddr := m.baddr } k.handle) := by
  have hread : ¬ (((engineOpen s g e).any fun x => x.2.kind == .read) = true) := by simpa using hopen
  show execCopyElement g e s = _
  unfold execCopyElement
  rw [if_neg (noFaultMet hf)]
  simp only [h, if_neg (commandGoesOn hs hp (.inl hord)), if_neg (engineGoesOn hr)]
  simp only [htodo, if_neg hread, hel, updHead_eq h]

/-- The engine reads the next line that the element needs. -/
theorem exec_copyElement_reads {sp : Span} {more : List Span} (hel : element s g e m = .error (.need (sp :: more)))
    (hm : mustWait s g e sp.pa = false) :
    exec (.copyElement g e) s = .next (makeElementAccess s g e m m.ord .read (readPiece sp)) := by
  have hread : ¬ (((engineOpen s g e).any fun x => x.2.kind == .read) = true) := by simpa using hopen
  show execCopyElement g e s = _
  unfold execCopyElement
  rw [if_neg (noFaultMet hf)]
  simp only [h, if_neg (commandGoesOn hs hp (.inl hord)), if_neg (engineGoesOn hr)]
  simp only [htodo, if_neg hread, hel, hm, Bool.false_eq_true, if_false]

/-- The element acts. -/
theorem exec_copyElement_acts {a : ElemAct} (hel : element s g e m = .ok a) :
    exec (.copyElement g e) s = .next (engineGoes (applyElement s g e m a) g e) := by
  have hread : ¬ (((engineOpen s g e).any fun x => x.2.kind == .read) = true) := by simpa using hopen
  show execCopyElement g e s = _
  unfold execCopyElement
  rw [if_neg (noFaultMet hf)]
  simp only [h, if_neg (commandGoesOn hs hp (.inl hord)), if_neg (engineGoesOn hr)]
  simp only [htodo, if_neg hread, hel]

end

/-- The next step of an engine with elements left is due later. -/
theorem engineGoes_next (h : (s.core g).cmdsOf e = m :: rest) (hs : m.started = true) (hp : m.paused = false) (hf : m.finished = false)
    (hord : m.ord < m.total) : engineGoes s g e = nextElement s g e := by
  have hdone : engineDone s g e m = false := by simp [engineDone, Nat.not_le.mpr hord]
  simp only [engineGoes, h, hs, hp, hf, hdone, Nat.not_le.mpr hord, Bool.not_true, Bool.or_self, Bool.false_eq_true, if_false, decide_false,
    Bool.false_and]

/-- A fault that the core has met is raised (R345). -/
theorem exec_copyElement_raises {f : FaultInfo} {handle l : Nat} {x : Launch} (hf : (s.core g).elFault = [(f, handle)])
    (hl : (s.core g).launch = some l) (hx : s.launch? l = some x) (hrun : x.state = .running)
    (hstops : ∀ r ∈ x.stops, r.g = g → r.answer ≠ none) :
    exec (.copyElement g 2) s = .next (stopWithRecord (s.setCore g { s.core g with elFault := [] }) g l f (if f.kind = 3 then 3 else 2) handle
      (s.core g).cycle) := by
  have hmet : (decide (2 = 2) && !(s.core g).elFault.isEmpty) = true := by rw [hf]; rfl
  have hexec : exec (.copyElement g 2) s = .next (raiseOne g (s.setCore g { s.core g with elFault := [] }) (f, handle)) := by
    show execCopyElement g 2 s = _
    unfold execCopyElement
    rw [if_pos hmet]
    unfold raiseMet
    rw [hf, List.foldl_cons, List.foldl_nil]
    rfl
  rw [hexec]
  have hcore : (s.setCore g { s.core g with elFault := [] }).core g = { s.core g with elFault := [] } := by rw [core_setCore, if_pos rfl]
  have hlaunch : ((s.setCore g { s.core g with elFault := [] }).core g).launch = some l := by rw [hcore]; exact hl
  have hcycle : ((s.setCore g { s.core g with elFault := [] }).core g).cycle = (s.core g).cycle := by rw [hcore]
  have hx' : (s.setCore g { s.core g with elFault := [] }).launch? l = some x := hx
  generalize s.setCore g { s.core g with elFault := [] } = t at hlaunch hcycle hx' ⊢
  have hanswered : (x.stops.any fun r => r.g == g && r.answer.isNone) = false := by
    simpa [List.any_eq_false] using hstops
  simp only [raiseOne, hlaunch, hx', hcycle]
  rw [if_neg (by simp [hrun, hanswered])]

/-- A command completes: it leaves the queue, with its flags and its wait flag (R205). -/
theorem exec_copyCommandComplete (h : (s.core g).cmdsOf e = m :: rest) (hs : m.started = true)
    (hd : m.kind = .cfence ∨ m.kind = .cacq ∨ m.kind = .crel ∨ engineDone s g e m = true)
    (hm : mayComplete s g e { m with finished := true } = true) :
    exec (.copyCommandComplete g e) s = .next (wake (setWaitFlag? (s.setCore g { s.core g with
        cmds := Table.put (s.core g).cmds e rest, fpflags := (s.core g).fpflags ||| m.flags, flagsAt := s.now + 1
        flagsIn := if (s.core g).flagsAt = s.now + 1 then (s.core g).flagsIn ||| m.flags else m.flags }) g m.flag) g) := by
  show execCopyCommandComplete g e s = _
  unfold execCopyCommandComplete
  rw [h]
  dsimp only
  rw [if_neg (by simp [hs]), if_neg ?_, if_pos hm]
  · rfl
  · rcases hd with hd | hd | hd | hd <;> simp [hd]

end

/-- Settles O37: the forms of the elements, what an element leaves, and the steps of an engine have their equations above. -/
theorem copyEngineSteps : Obligations.CopyEngineSteps := by
  refine ⟨fun s g e m => ⟨fun spans x => rfl, fun c r write n o hb hh => ⟨fun k => engineForm_of_error hb hh, fun a ha hheld hun => ?_,
      fun a ha hno => ?_⟩, fun n a => ⟨readSource_of_missing, readSource_of_read⟩, fun src hs => ⟨fun dst hd => ?_, fun hk => ?_, ?_⟩, ?_⟩,
    fun s g e m rest a h => applyElement_spec h a, fun s g e m rest => ?_⟩
  · refine (engineForm_of_ok hb hh ha).trans (if_pos ?_)
    exact Bool.and_eq_true_iff.mpr ⟨hheld, hun⟩
  · refine (engineForm_of_ok hb hh ha).trans (if_neg fun hand => ?_)
    obtain ⟨hheld, hun⟩ := Bool.and_eq_true_iff.mp hand
    rcases hno with hno | hno
    · exact Bool.noConfusion (hno.symm.trans hheld)
    · exact Bool.noConfusion (hno.symm.trans hun)
  · refine ⟨fun a b x p ha hb hx => ⟨fun hk => element_cpy hk hs hd ha hb hx, fun hk => element_mcast hk hs hd ha hb hx⟩,
      fun a b x p hk ha hb hx => element_cpyc hk hs hd ha hb hx, fun dstN a b hd' x p hk hn ha hb hh hx => element_cpyq hk hs hd hn ha hb hh hx,
      fun srcN hd' hx hk hn hh => ⟨fun pa hhx => element_cpyx_poisoned hk hn hh hhx, fun hhx hbad => element_cpyx_header hk hs hn hh hhx hbad,
        fun a b x p hhx hok ha hb hx' => element_cpyx hk hs hd hn hh hhx hok ha hb hx'⟩, fun srcN hd' a hx hk hn hh ha =>
          ⟨fun pa hhx => element_cpyz_poisoned hk hs hn hh ha hhx, fun j hhx hj hbad hok => element_cpyz_header hk hs hn hh ha hhx hj hbad hok,
            fun x p hhx hok hx' => ?_⟩,
      fun srcN ix a b iv x p hk hn hix => ⟨fun pa hiv => element_gath_poisoned hk hn hix hiv,
        fun hiv ha hb hx => element_gath hk hs hd hn hix hiv ha hb hx⟩,
      fun dstN ix a b iv pi x p hk hn hix hiv ha hb hx => element_scat hk hs hd hn hix hiv ha hb hx⟩
    have himage := tileImage_eq src.buf.fmt.toNat (copyBlocks src.buf.fmt.toNat) (x.map (·.1)) hx
    obtain ⟨hpoison, hstore⟩ := element_cpyz (e := e) hk hs hd hn hh ha hhx hok hx'
    dsimp only at himage
    rw [himage] at hstore
    exact ⟨hpoison, hstore⟩
  · exact ⟨fun a x p ht ha => element_wbld_line hk hs ht ha, fun a map pm ht ha hmap => ⟨element_wbld_map hk hs ht ha hmap,
      fun b x p hw => element_wbld_tile hk hs ht ha hmap hw⟩⟩
  · exact fun a x p hk ha hx => element_ctld hk hs ha hx
  · intro l x v k pa hl hx hk
    simp only [mcastAddr, hl, hx, hk, Option.map_some, Option.getD_some]
  · intro c h
    refine ⟨exec_copyCommandStart_waits h, fun hs hm h1 h2 h3 => ?_, exec_copyCommandStart_barrier h, fun hs hp hw hr hb hf => exec_copyElement_pauses h hs hp hf hw hr hb,
      fun hs hp hr hf => ⟨fun w ws hw => exec_copyElement_writes h hs hp hf hr hw, fun hord ht ho =>
        ⟨fun k => exec_copyElement_faults h hs hp hf hr hord ht ho, fun sp more => exec_copyElement_reads h hs hp hf hr hord ht ho,
          fun a => exec_copyElement_acts h hs hp hf hr hord ht ho⟩⟩, fun hs hp hf hord => ?_, fun f handle l x => exec_copyElement_raises,
      exec_copyCommandComplete h⟩
    · exact ⟨_, _, exec_copyCommandStart h hs hm h1 h2 h3, (show s.now < s.now + 1 + _ by omega), rfl⟩
    · exact ⟨_, by omega, engineGoes_next h hs hp hf hord⟩

end Sys2Proof.Machine
end

section
/-!
PROOFS. Circuits and phases (R218 to R220, R228 to R230).
-/
namespace Sys2Proof.Machine

/-! ## What wakes at a core (R46, R205, R252) -/

/-- A state with the agenda, accesses, cores and the counter of draws of another. -/
def State.withWoken (s t : State) : State := { s with agenda := t.agenda, accesses := t.accesses, cores := t.cores, fresh := t.fresh }

/-- A step that changes the agenda, the accesses and the draws at most. -/
def OnlyWoken (s t : State) : Prop := t = s.withWoken t

theorem OnlyWoken.trans {a b c : State} (h1 : OnlyWoken a b) (h2 : OnlyWoken b c) : OnlyWoken a c := by
  unfold OnlyWoken at *
  rw [h2, h1]
  rfl

theorem OnlyWoken.foldl {α : Type} {f : State → α → State} (hf : ∀ s a, OnlyWoken s (f s a)) (l : List α) (s : State) :
    OnlyWoken s (l.foldl f s) := by
  induction l generalizing s with
  | nil => rfl
  | cons a l ih => exact (hf s a).trans (ih _)

theorem OnlyDue.woken {s t : State} (h : OnlyDue s t) : OnlyWoken s t := by
  unfold OnlyWoken
  rw [h]
  rfl

theorem drawOf_woken (s : State) (x : Access) : OnlyWoken s (drawOf s x) := by
  unfold drawOf
  split <;> rfl

theorem accessesDue_woken (s : State) (as : Table Access) (t k : Nat) (i : Instr) :
    OnlyWoken s (({ s with accesses := as } : State).due t k i) := rfl

theorem sendFlushes_woken (s : State) (g : Nat) : OnlyWoken s (sendFlushes s g) := by
  unfold sendFlushes
  refine OnlyWoken.foldl (fun st q => ?_) _ _
  dsimp only
  split
  · rfl
  · split
    · exact (accessesDue_woken st _ _ _ _).trans (drawOf_woken ..)
    · rfl

theorem wake_woken (s : State) (g : Nat) : OnlyWoken s (wake s g) := (sendFlushes_woken s g).trans (wake_onlyDue s g).woken

theorem messages_wake (s : State) (g : Nat) : (wake s g).messages = s.messages := by
  rw [wake_woken s g]
  rfl

/-! ## Circuits (R219, R220, R356) -/

section
variable {s : State} {h : Head} {x : FmtO} {w : Word}

theorem exec_send (hw : entryOf s s.curCore x.pair.toNat = some w) (hr : FReady s h [rV (stepReg h x.v.toNat)])
    (hsrc : entrySrc w = s.curCore.rank) (hun : s.curCore.region.uncontained = 0) (hheld : heldLines s s.cur < 500) :
    exec (.send h x) s = .next { s.setCore s.cur { s.curCore with sends := Table.put s.curCore.sends x.pair.toNat (Table.get 0 s.curCore.sends x.pair.toNat + 1) } with
      nextId := s.nextId + 1
      messages := Table.put s.messages s.nextId
        { entry := x.pair.toNat, srcG := s.cur, dstG := coreOfRank s s.curCore (entryDst w), data := s.curCore.vGet (stepReg h x.v.toNat)
          launch := s.curCore.launch.getD 0, half := 0, sentAt := none, held := true, arrived := false, taken := false
          num := Table.get 0 s.curCore.sends x.pair.toNat } } := by
  have hcheck : sendCheck s s.curCore x.pair.toNat = none := by simp only [sendCheck, hw, hsrc, if_true]
  have hroom : decide (heldLines s s.cur + 8 ≤ 512) = true := decide_eq_true (by omega)
  show runPlan _ (planSend h x s) s = _
  rw [planSend, runPlan_fReady_of hr hcheck]
  refine congrArg Host.Outcome.next ?_
  simp only [runSend, hw, hroom, hun, decide_true, Bool.and_self, Bool.not_true, Bool.and_false, Bool.false_eq_true, if_false, if_true]
  rfl

theorem exec_send_illegal (hw : entryOf s s.curCore x.pair.toNat = some w) (hr : FReady s h [rV (stepReg h x.v.toNat)])
    (hsrc : entrySrc w ≠ s.curCore.rank) :
    exec (.send h x) s = .next (raise s (slotNum h.slot) (withWord (.send h x) (illegalOp 0 0))) := by
  have hcheck : sendCheck s s.curCore x.pair.toNat = some (illegalOp 0 0) := by simp only [sendCheck, hw, hsrc, if_false]
  show runPlan _ (planSend h x s) s = _
  rw [planSend, runPlan_fReady_check hr hcheck]

theorem exec_recv_illegal (hw : entryOf s s.curCore x.pair.toNat = some w) (hr : FReady s h []) (hdst : entryDst w ≠ s.curCore.rank) :
    exec (.recv h x) s = .next (raise s (slotNum h.slot) (withWord (.recv h x) (illegalOp 0 0))) := by
  have hcheck : recvCheck s s.curCore s.cur x.pair.toNat x.arr.toNat = some (illegalOp 0 0) := by
    simp only [recvCheck, hw, ne_eq, hdst, not_false_eq_true, if_true]
  show runPlan _ (planRecv h x s) s = _
  rw [planRecv, runPlan_fReady_check hr hcheck]

end

/-- The data of a message in the request of its RECV. -/
def giveMessage (m : Message) (r : Request) : Request :=
  if r.recv = some (m.entry, m.num) then { r with data := some (leBytes 512 m.data.toNat) } else r

theorem giveMessage_frame (m : Message) (r : Request) : (giveMessage m r).id = r.id ∧ (giveMessage m r).arr = r.arr ∧
    (giveMessage m r).target = r.target ∧ (giveMessage m r).recv = r.recv := by
  unfold giveMessage
  split <;> exact ⟨rfl, rfl, rfl, rfl⟩

theorem giveMessage_data {m : Message} {r : Request} (h : (giveMessage m r).recv = some (m.entry, m.num)) :
    (giveMessage m r).data = some (leBytes 512 m.data.toNat) := by
  rw [(giveMessage_frame m r).2.2.2] at h
  unfold giveMessage
  rw [if_pos h]

/-- A message that is taken: the requests of the receiver have its data. -/
theorem takeMessage_spec (s : State) (n : Nat) (m : Message) :
    let t := takeMessage s n m
    t.messages = Table.put s.messages n { m with taken := true } ∧ t.mem = s.mem ∧ t.cur = s.cur ∧
      t.core m.dstG = { s.core m.dstG with reqs := (s.core m.dstG).reqs.map (giveMessage m) } ∧ ∀ g ≠ m.dstG, t.core g = s.core g := by
  dsimp only
  unfold takeMessage
  dsimp only
  refine ⟨?_, (updPoint_mem ..).trans rfl, ?_, ?_, fun g hg => ?_⟩
  · unfold updPoint
    split <;> rfl
  · unfold updPoint
    split <;> rfl
  · rw [core_updPoint, core_updCore, if_pos rfl]
    rfl
  · rw [core_updPoint, core_updCore, if_neg hg]
    rfl

section
variable {s : State} {h : Head} {x : FmtO}

/-- A core whose RECV has asked for its message. -/
def askedCore (s : State) (h : Head) (v e arr : Nat) (c : Core) : Core :=
  { c with
    recvs := Table.put c.recvs e (Table.get 0 s.curCore.recvs e + 1)
    reqs := c.reqs ++ [{ id := s.nextId, issue := s.curCore.iCyc, arr := s.curCore.iCyc + arr, entries := 8, target := .vec v, slot := slotNum h.slot
                         baddr := s.curCore.iPc, rep := s.curCore.iRep, data := none, poison := [], pline := 0, cause := 0, paddr := 0
                         atomic := false, recv := some (e, Table.get 0 s.curCore.recvs e) }] }

/-- The state in which a RECV has asked for its message. -/
def recvAsked (s : State) (h : Head) (v e arr : Nat) : State := (s.newId.2).updCur (askedCore s h v e arr)

theorem curCore_recvAsked (s : State) (h : Head) (v e arr : Nat) : (recvAsked s h v e arr).curCore = askedCore s h v e arr s.curCore :=
  curCore_updCur ..

theorem runRecv_cases (s : State) (h : Head) (v e arr : Nat) : runRecv s h v e arr = recvAsked s h v e arr ∨
    ∃ i m, m.dstG = s.cur ∧ runRecv s h v e arr = takeMessage (recvAsked s h v e arr) i m := by
  unfold runRecv
  dsimp only
  split
  · next i m hfind =>
    have hm := List.find?_some hfind
    simp only [Bool.and_eq_true, beq_iff_eq] at hm
    exact .inr ⟨i, m, hm.1.1.1, rfl⟩
  · exact .inl rfl

theorem exec_recv (hr : FReady s h []) (hk : recvCheck s s.curCore s.cur x.pair.toNat x.arr.toNat = none) :
    exec (.recv h x) s = .next (runRecv s h (stepReg h x.v.toNat) x.pair.toNat x.arr.toNat) := by
  show runPlan _ (planRecv h x s) s = _
  rw [planRecv, runPlan_fReady_of hr hk]

/-- What a RECV leaves: its request, which a message that has arrived answers at once. -/
theorem runRecv_spec (s : State) (h : Head) (v e arr : Nat) :
    let t := runRecv s h v e arr
    t.curCore.recvs = Table.put s.curCore.recvs e (Table.get 0 s.curCore.recvs e + 1) ∧ t.mem = s.mem ∧ SameRegisters s.curCore t.curCore ∧
      (t.curCore.reqs.map (·.id)) = s.curCore.reqs.map (·.id) ++ [s.nextId] ∧
      ∃ r ∈ t.curCore.reqs, r.id = s.nextId ∧ r.arr = s.curCore.iCyc + arr ∧ r.target = .vec v ∧ r.recv = some (e, Table.get 0 s.curCore.recvs e) := by
  have hcur := curCore_recvAsked s h v e arr
  rcases runRecv_cases s h v e arr with heq | ⟨i, m, hm, heq⟩
  · rw [heq]
    dsimp only
    rw [hcur]
    refine ⟨rfl, rfl, by simp [SameRegisters, askedCore], by simp [askedCore], _, List.mem_append_right _ (List.mem_singleton.mpr rfl), rfl, rfl, rfl, rfl⟩
  · obtain ⟨-, hmem, hcur', hcore, -⟩ := takeMessage_spec (recvAsked s h v e arr) i m
    rw [heq]
    dsimp only
    have hc : (takeMessage (recvAsked s h v e arr) i m).curCore = { (recvAsked s h v e arr).curCore with
        reqs := (recvAsked s h v e arr).curCore.reqs.map (giveMessage m) } := by
      rw [State.curCore, hcur']
      rw [hm] at hcore
      exact hcore
    rw [hc, hmem, hcur]
    refine ⟨rfl, rfl, by simp [SameRegisters, askedCore], ?_, _, List.mem_map_of_mem (List.mem_append_right _ (List.mem_singleton.mpr rfl)), ?_⟩
    · simp [giveMessage_frame, askedCore]
    · obtain ⟨h1, h2, h3, h4⟩ := giveMessage_frame m _
      exact ⟨h1, h2, h3, h4⟩

end

section
variable {s : State} {n : Nat} {m : Message}

/-- A half that is not the next of its entry, or whose slot is taken, waits a revolution. -/
theorem exec_circuitDeparture_waits (hm : s.messages.find n = some m) (hheld : m.held = false) (hhalf : m.half < 2)
    (h : slotTaken s m.launch m.entry = true ∨
      ∃ o ∈ s.messages, o.2.launch = m.launch ∧ o.2.entry = m.entry ∧ o.2.half < 2 ∧ o.2.num < m.num) :
    exec (.circuitDeparture n) s = .next (s.dueOnce (s.now + 256) keyLeave (.circuitDeparture n)) := by
  have hwait : (((waitingSends s m.launch m.entry).any fun o => decide (o.2.num < m.num)) || slotTaken s m.launch m.entry) = true := by
    rcases h with h | ⟨o, ho, hl, he, hh, hn⟩
    · rw [h, Bool.or_true]
    · have ho' : o ∈ waitingSends s m.launch m.entry := List.mem_filter.mpr ⟨ho, by simp [hl, he, hh]⟩
      exact Bool.or_eq_true_iff.mpr (.inl (List.any_eq_true.mpr ⟨o, ho', by simpa using hn⟩))
  have hgo : (m.held || decide (2 ≤ m.half)) = false := by simp [hheld, hhalf]
  show execCircuitDeparture n s = _
  simp only [execCircuitDeparture, hm, hgo, Bool.false_eq_true, if_false]
  rw [if_pos hwait]

section
variable (hm : s.messages.find n = some m) (hheld : m.held = false) (hslot : slotTaken s m.launch m.entry = false)
  (hold : ∀ o ∈ s.messages, o.2.launch = m.launch → o.2.entry = m.entry → o.2.half < 2 → m.num ≤ o.2.num)
include hm hheld hslot hold

/-- The next half of an entry departs, or finds the receive queue full. -/
theorem exec_circuitDeparture (hhalf : m.half < 2) : exec (.circuitDeparture n) s = .next (
    if 4 ≤ queuedMessages s m.launch m.entry then
      if (s.core m.dstG).halted then wake { s with messages := s.messages.del n } m.srcG
      else s.dueOnce (s.now + 256) keyLeave (.circuitDeparture n)
    else
      let s1 := { s with messages := s.messages.put n { m with half := m.half + 1, sentAt := some s.now } }
      if m.half = 0 then s1.dueOnce (s.now + 256) keyLeave (.circuitDeparture n)
      else s1.due (s.now + if dieOf m.srcG = dieOf m.dstG then 24 else 120) keyReply (.circuitArrival n)) := by
  have hgo : (m.held || decide (2 ≤ m.half)) = false := by simp [hheld, hhalf]
  have hwait : (((waitingSends s m.launch m.entry).any fun o => decide (o.2.num < m.num)) || slotTaken s m.launch m.entry) = false := by
    rw [hslot, Bool.or_false]
    refine List.any_eq_false.mpr fun o ho => ?_
    obtain ⟨ho, hsame⟩ := List.mem_filter.mp ho
    simp only [Bool.and_eq_true, beq_iff_eq, decide_eq_true_eq] at hsame
    have := hold o ho hsame.1.1 hsame.1.2 hsame.2
    simpa using this
  show execCircuitDeparture n s = _
  simp only [execCircuitDeparture, hm, hgo, Bool.false_eq_true, if_false]
  rw [if_neg (by rw [hwait]; simp)]
  split <;> rfl

end

/-- A message that nothing asks for yet joins the receive queue. -/
theorem exec_circuitArrival (hm : s.messages.find n = some m) : exec (.circuitArrival n) s = .next (wake (
    if m.num < Table.get 0 (s.core m.dstG).recvs m.entry then
      takeMessage { s with messages := s.messages.put n { m with arrived := true } } n { m with arrived := true }
    else { s with messages := s.messages.put n { m with arrived := true } }) m.srcG) := by
  show execCircuitArrival n s = _
  simp only [execCircuitArrival, hm]

end

/-- Settles O38: SEND and RECV by their plans, and a message by the steps of its way. -/
theorem circuits : Obligations.Circuits := by
  refine ⟨fun s h x w hw => ⟨fun hr hsrc hun hheld => ⟨_, exec_send hw hr hsrc hun hheld, rfl⟩, fun hr hsrc => exec_send_illegal hw hr hsrc,
    fun hr hdst hk => ⟨_, exec_recv hr hk, runRecv_spec ..⟩, fun hr hdst => exec_recv_illegal hw hr hdst⟩,
    fun s n m hm => ⟨fun hheld hhalf => ⟨exec_circuitDeparture_waits hm hheld hhalf, fun hslot hold => ⟨fun h0 hq => ?_, fun h1 hq => ?_, fun hq =>
      ⟨fun hh => ?_, fun hh => ?_⟩⟩⟩, fun hle => ?_, fun hlt => ?_⟩⟩
  · rw [exec_circuitDeparture hm hheld hslot hold hhalf, if_neg (by omega)]
    dsimp only
    rw [if_pos h0, h0]
  · refine ⟨_, exec_circuitDeparture hm hheld hslot hold hhalf, ?_⟩
    rw [if_neg (by omega)]
    dsimp only
    rw [if_neg (by omega), h1]
    exact ⟨mem_agenda_due .., rfl, rfl, rfl⟩
  · rw [exec_circuitDeparture hm hheld hslot hold hhalf, if_pos hq, if_neg (by simp [hh])]
  · refine ⟨_, exec_circuitDeparture hm hheld hslot hold hhalf, ?_⟩
    rw [if_pos hq, if_pos hh]
    exact ⟨messages_wake .., (wake_traffic ..).mem_eq, fun g => (wake_traffic { s with messages := s.messages.del n } m.srcG).registers g⟩
  · refine ⟨_, exec_circuitArrival hm, ?_⟩
    rw [if_neg (Nat.not_lt.mpr hle)]
    have hw := wake_traffic { s with messages := s.messages.put n { m with arrived := true } } m.srcG
    exact ⟨messages_wake .., hw.mem_eq, fun g => ⟨hw.registers g, by rw [hw.core g]; rfl⟩⟩
  · refine ⟨_, exec_circuitArrival hm, ?_⟩
    rw [if_pos hlt]
    obtain ⟨hmsg, hmem, -, hcore, -⟩ := takeMessage_spec { s with messages := s.messages.put n { m with arrived := true } } n { m with arrived := true }
    generalize takeMessage { s with messages := s.messages.put n { m with arrived := true } } n { m with arrived := true } = u at *
    have hw := wake_traffic u m.srcG
    refine ⟨(messages_wake ..).trans (hmsg.trans (Table.put_put ..)), hw.mem_eq.trans hmem, fun r hr hrecv => ?_⟩
    have hreqs : ((wake u m.srcG).core m.dstG).reqs = (u.core m.dstG).reqs := by rw [hw.core]; rfl
    rw [hreqs, hcore] at hr
    obtain ⟨q, -, rfl⟩ := List.mem_map.mp hr
    exact giveMessage_data hrecv

/-! ## Phases (R228, R229) -/

/-- Every core is in the same virtual hive and on the same virtual die. -/
def SamePlaces (s t : State) : Prop := ∀ k, (t.core k).hive = (s.core k).hive ∧ (t.core k).vdie = (s.core k).vdie

theorem SamePlaces.setCore (s : State) (g : Nat) {c : Core} (hh : c.hive = (s.core g).hive) (hv : c.vdie = (s.core g).vdie) :
    SamePlaces s (s.setCore g c) := fun k => by
  rw [core_setCore]
  split
  · next h => rw [h]; exact ⟨hh, hv⟩
  · exact ⟨rfl, rfl⟩

theorem phaseMembers_congr {s t : State} (h : SamePlaces s t) (x : Launch) {c d : Core} (hh : d.hive = c.hive) (hv : d.vdie = c.vdie) (p : Nat) :
    phaseMembers t x d p = phaseMembers s x c p := by
  unfold phaseMembers
  simp only [(h _).1, (h _).2, hh, hv]

theorem phaseLatency_congr {s t : State} (h : SamePlaces s t) (x : Launch) (ms : List Nat) : phaseLatency t x ms = phaseLatency s x ms := by
  unfold phaseLatency
  simp only [(h _).2]

theorem membersOf_eq {s : State} {c : Core} {l : Nat} {y : Launch} (hl : c.launch = some l) (hy : s.launch? l = some y) (p : Nat) :
    membersOf s c p = phaseMembers s y c p := by
  simp only [membersOf, hl, hy]

/-- With every access answered and every command complete, every earlier write is acknowledged. -/
theorem writesAcked_of_drained {s t : State} {g : Nat} (h : drained s g = true) (ha : t.accesses = s.accesses)
    (hl : (t.core g).launch = (s.core g).launch) (hc : (t.core g).cmds = (s.core g).cmds) (seq scope : Nat) (mask : BitVec 16) :
    writesAcked t g seq scope mask = true := by
  obtain ⟨hopen, hcmds⟩ := Bool.and_eq_true_iff.mp h
  have hopen' : openOn t g (t.core g).launch = [] := by
    unfold openOn
    rw [ha, hl]
    exact List.isEmpty_iff.mp hopen
  have hcmds' : openCommands (t.core g) = [] := by
    unfold openCommands Core.cmdsOf
    rw [hc]
    exact List.isEmpty_iff.mp hcmds
  simp [writesAcked, writesAckedOn, slotsOn, commandsOn, hopen', hcmds']

/-- ARRIVE sends its message, which departs once the writes before it are acknowledged. -/
theorem runArrive_spec {s : State} {l : Nat} {y : Launch} (hl : s.curCore.launch = some l) (hy : s.launch? l = some y) (p r : Nat) :
    let t := runArrive s p r
    SameRegisters s.curCore t.curCore ∧ t.mem = s.mem ∧
      t.arrives = Table.put s.arrives s.nextId
        { launch := l, phase := p, gen := (s.curCore.phGet p).gen, src := s.cur, dst := y.cores.getD r 0, seq := s.curCore.seq
          latency := phaseLatency s y (phaseMembers s y s.curCore p), departed := false } ∧
      (drained s s.cur = true → DueAt t s.now (.arrivalDeparture s.nextId)) := by
  have hcore : (takeSeq s).2.core s.cur = { s.curCore with seq := s.curCore.seq + 1 } := by
    rw [takeSeq, State.updCur, core_setCore, if_pos rfl]
  have hlaunch : ((takeSeq s).2.core s.cur).launch = (s.core s.cur).launch := by rw [hcore]; rfl
  have hcmds : ((takeSeq s).2.core s.cur).cmds = (s.core s.cur).cmds := by rw [hcore]; rfl
  have hregs : SameRegisters s.curCore ((takeSeq s).2.core s.cur) := by rw [hcore]; simp [SameRegisters]
  simp only [runArrive, hl, hy]
  split
  · exact ⟨hregs, rfl, rfl, fun _ => dueAt_due ..⟩
  · next hnot =>
    refine ⟨hregs, rfl, rfl, fun hd => absurd ?_ hnot⟩
    apply writesAcked_of_drained hd
    · rfl
    · exact hlaunch
    · exact hcmds

section
variable {s : State} {h : SHead} {x : FmtY} {l : Nat} {y : Launch}

/-- The core in which PHASE, at place `q` of the program order, has opened its generation. -/
def phaseOpened (q p wf count : Nat) (word : Word) (c : Core) : Core :=
  let x := c.phGet p
  let y := if x.gen then { x with cnt1 := x.cnt1 + count } else { x with cnt0 := x.cnt0 + count }
  { c with
    region := { c.region with once := ⟨c.iCyc, 0, none⟩ :: c.region.once }
    seq := c.seq + 1
    phases := Table.put c.phases p { y with isOpen := true, flag := wf, line := false, seq := q, word := word, baddr := c.iPc, issue := c.iCyc } }

theorem runPhase_eq (s : State) (p wf count : Nat) (word : Word) : runPhase (noteOnce s 0 none) p wf count word =
    let t := s.updCur (phaseOpened s.curCore.seq p wf count word)
    if lineReady t s.cur p then t.due s.now keyLeave (.phaseLineRaise s.cur p) else t := by
  have hq : (noteOnce s 0 none).curCore.seq = s.curCore.seq := by rw [noteOnce_eq_updCur, curCore_updCur]
  unfold runPhase takeSeq
  dsimp only
  rw [hq, noteOnce_eq_updCur, updCur_updCur, updCur_updCur]
  rfl

theorem phGet_phaseOpened (q p wf count : Nat) (word : Word) (c : Core) : (phaseOpened q p wf count word c).phGet p =
    { (if (c.phGet p).gen then { c.phGet p with cnt1 := (c.phGet p).cnt1 + count } else { c.phGet p with cnt0 := (c.phGet p).cnt0 + count }) with
      isOpen := true, flag := wf, line := false, seq := q, word := word, baddr := c.iPc, issue := c.iCyc } := by
  simp [phaseOpened, Core.phGet]

/-- The phase that PHASE has opened: its flag, its generation and its counters. -/
theorem phaseOpened_spec (q p wf count : Nat) (word : Word) (c : Core) :
    let d := (phaseOpened q p wf count word c).phGet p
    let ph := c.phGet p
    d.isOpen = true ∧ d.line = false ∧ d.flag = wf ∧ d.gen = ph.gen ∧
      d.cnt0 = ph.cnt0 + (if ph.gen then 0 else count) ∧ d.cnt1 = ph.cnt1 + (if ph.gen then count else 0) := by
  dsimp only
  rw [phGet_phaseOpened]
  cases hg : (c.phGet p).gen <;> simp [hg]

section
variable (hr : SReady s h [rS x.sa.toNat]) (hl : s.curCore.launch = some l) (hy : s.launch? l = some y) (honce : onceSeen s = none)
include hr hl hy honce

/-- PHASE of a closed phase that the launch declares opens a generation. -/
theorem exec_phase (hms : phaseMembers s y s.curCore x.n.toNat ≠ []) (hn : phaseOperand s.curCore x < 2 ^ 20)
    (hclosed : (s.curCore.phGet x.n.toNat).isOpen = false) :
    exec (.phase h x) s = .next (runPhase (noteOnce s 0 none) x.n.toNat x.wf.toNat (phaseOperand s.curCore x) (wordOf (.phase h x))) := by
  have hcheck : (if (onceSeen s).isSome then none else phaseCheck s s.curCore x) = none := by
    have hne : (phaseMembers s y s.curCore x.n.toNat).isEmpty = false := by simpa using hms
    have hlt : ¬ 2 ^ 20 - 1 < phaseOperand s.curCore x := by omega
    simp only [honce, Option.isSome_none, Bool.false_eq_true, if_false, phaseCheck, membersOf_eq hl hy, hne, hclosed, decide_eq_false hlt,
      Bool.or_self]
  show runPlan _ (planPhase h x s) s = _
  rw [planPhase, runPlan_sReady_of hr hcheck, actOnce, honce]

/-- PHASE that the launch does not declare, with too large a count, or open. -/
theorem exec_phase_illegal (hbad : phaseMembers s y s.curCore x.n.toNat = [] ∨ 2 ^ 20 ≤ phaseOperand s.curCore x ∨
    (s.curCore.phGet x.n.toNat).isOpen = true) : exec (.phase h x) s = illegalS s (.phase h x) := by
  have hcheck : (if (onceSeen s).isSome then none else phaseCheck s s.curCore x) = some (illegalOp 0 0) := by
    simp only [honce, Option.isSome_none, Bool.false_eq_true, if_false, phaseCheck, membersOf_eq hl hy]
    split
    · rfl
    · next hne =>
      refine if_pos (Bool.or_eq_true_iff.mpr ?_)
      rcases hbad with hbad | hbad | hbad
      · exact absurd (List.isEmpty_iff.mpr hbad) hne
      · exact .inl (decide_eq_true (by omega))
      · exact .inr hbad
  show runPlan _ (planPhase h x s) s = _
  rw [planPhase, runPlan_sReady_illegal_of hr hcheck]

/-- What PHASE leaves. -/
theorem runPhase_spec (hms : phaseMembers s y s.curCore x.n.toNat ≠ []) (hn : phaseOperand s.curCore x < 2 ^ 20)
    (hclosed : (s.curCore.phGet x.n.toNat).isOpen = false) : ∃ t, exec (.phase h x) s = .next t ∧
      t.curCore = phaseOpened s.curCore.seq x.n.toNat x.wf.toNat (phaseOperand s.curCore x) (wordOf (.phase h x)) s.curCore ∧
      t.mem = s.mem ∧ (∀ k ≠ s.cur, t.core k = s.core k) ∧
      ((if (s.curCore.phGet x.n.toNat).gen then (s.curCore.phGet x.n.toNat).cnt1 else (s.curCore.phGet x.n.toNat).cnt0) +
        phaseOperand s.curCore x = 0 → drained s s.cur = true → DueAt t s.now (.phaseLineRaise s.cur x.n.toNat)) := by
  refine ⟨_, exec_phase hr hl hy honce hms hn hclosed, ?_⟩
  rw [runPhase_eq]
  generalize wordOf (.phase h x) = word
  generalize hop : phaseOpened s.curCore.seq x.n.toNat x.wf.toNat (phaseOperand s.curCore x) word = op
  have hcore : (s.updCur op).core s.cur = op s.curCore := by rw [State.updCur, core_setCore, if_pos rfl]
  have hother : ∀ k ≠ s.cur, (s.updCur op).core k = s.core k := fun k hk => by rw [State.updCur, core_setCore, if_neg hk]
  dsimp only
  split
  · exact ⟨hcore, rfl, hother, fun _ _ => dueAt_due ..⟩
  · next hnot =>
    refine ⟨hcore, rfl, hother, fun hcount hd => absurd ?_ hnot⟩
    have hacked : ∀ q, writesAcked (s.updCur op) s.cur q 4 allClasses = true := fun q =>
      writesAcked_of_drained (t := s.updCur op) hd rfl (by rw [hcore, ← hop]; rfl) (by rw [hcore, ← hop]; rfl) q 4 allClasses
    obtain ⟨hopen, hline, -, hgen, hc0, hc1⟩ := phaseOpened_spec s.curCore.seq x.n.toNat x.wf.toNat (phaseOperand s.curCore x) word s.curCore
    rw [hop] at hopen hline hgen hc0 hc1
    simp only [lineReady, hcore, hacked, hopen, hline, hgen, hc0, hc1, Bool.not_false, Bool.and_self, Bool.true_and, Bool.and_true, beq_iff_eq]
    cases hg : (s.curCore.phGet x.n.toNat).gen <;> simpa [hg] using hcount

/-- The message of ARRIVE. -/
theorem exec_arrive (hn : phaseOperand s.curCore x ∈ phaseMembers s y s.curCore x.n.toNat) : ∃ t, exec (.arrive h x) s = .next t ∧
      SameRegisters s.curCore t.curCore ∧ t.mem = s.mem ∧
      t.arrives = Table.put s.arrives s.nextId
        { launch := l, phase := x.n.toNat, gen := (s.curCore.phGet x.n.toNat).gen, src := s.cur, dst := y.cores.getD (phaseOperand s.curCore x) 0
          seq := s.curCore.seq, latency := phaseLatency s y (phaseMembers s y s.curCore x.n.toNat), departed := false } ∧
      (drained s s.cur = true → DueAt t s.now (.arrivalDeparture s.nextId)) := by
  have hcheck : arriveCheck s s.curCore x = none := by
    unfold arriveCheck
    rw [membersOf_eq hl hy, if_pos (List.contains_iff_mem.mpr hn)]
  have hexec : exec (.arrive h x) s = .next (runArrive (noteOnce s 0 none) x.n.toNat (phaseOperand s.curCore x)) := by
    show runPlan _ (planArrive h x s) s = _
    rw [planArrive, runPlan_sReady_of hr hcheck, actOnce, honce]
  refine ⟨_, hexec, ?_⟩
  have hcore : (noteOnce s 0 none).curCore = { s.curCore with region := { s.curCore.region with once :=
      ⟨s.curCore.iCyc, 0, none⟩ :: s.curCore.region.once } } := by rw [noteOnce_eq_updCur, curCore_updCur]
  have hplaces : SamePlaces s (noteOnce s 0 none) := SamePlaces.setCore s s.cur rfl rfl
  have hmembers := phaseMembers_congr hplaces y (c := s.curCore) (d := (noteOnce s 0 none).curCore) (by rw [hcore]) (by rw [hcore]) x.n.toNat
  obtain ⟨hregs, hmem, harr, hdue⟩ := runArrive_spec (s := noteOnce s 0 none) (l := l) (by rw [hcore]; exact hl) hy x.n.toNat (phaseOperand s.curCore x)
  rw [hmembers, phaseLatency_congr hplaces, hcore] at harr
  refine ⟨SameRegisters.trans ?_ hregs, hmem, harr, fun hd => hdue ?_⟩
  · rw [hcore]
    simp [SameRegisters]
  · have hg : (noteOnce s 0 none).core s.cur = _ := hcore
    obtain ⟨hopen, hcmds⟩ := Bool.and_eq_true_iff.mp hd
    refine Bool.and_eq_true_iff.mpr ⟨?_, ?_⟩
    · show (openOn s s.cur ((noteOnce s 0 none).core s.cur).launch).isEmpty = true
      rw [hg]
      exact hopen
    · show (openCommands ((noteOnce s 0 none).core s.cur)).isEmpty = true
      rw [hg]
      exact hcmds

omit honce in
/-- ARRIVE to a rank that is no member. -/
theorem exec_arrive_illegal (hn : phaseOperand s.curCore x ∉ phaseMembers s y s.curCore x.n.toNat) :
    exec (.arrive h x) s = illegalS s (.arrive h x) := by
  have hcheck : arriveCheck s s.curCore x = some (illegalOp 0 0) := by
    unfold arriveCheck
    rw [membersOf_eq hl hy, if_neg (mt List.contains_iff_mem.mp hn)]
  show runPlan _ (planArrive h x s) s = _
  rw [planArrive, runPlan_sReady_illegal_of hr hcheck]

end
end

/-- Settles O39: PHASE and ARRIVE by their plans, each in the state in which it has been noted. -/
theorem phaseInstructions : Obligations.PhaseInstructions := by
  intro s h x l y c p n ph hr hl hy honce
  refine ⟨fun hms hn hclosed => ?_, exec_phase_illegal hr hl hy honce, exec_arrive hr hl hy honce, exec_arrive_illegal hr hl hy⟩
  obtain ⟨t, hexec, hcore, hmem, hother, hdue⟩ := runPhase_spec hr hl hy honce hms hn hclosed
  refine ⟨t, hexec, ?_⟩
  obtain ⟨hopen, hline, hflag, hgen, hc0, hc1⟩ := phaseOpened_spec s.curCore.seq x.n.toNat x.wf.toNat (phaseOperand s.curCore x)
    (wordOf (.phase h x)) s.curCore
  rw [hcore]
  exact ⟨hopen, hline, hflag, hgen, hc0, hc1, by simp [SameRegisters, phaseOpened, c], hmem, hother, hdue⟩

/-! ## Arrivals, lines and the completion of a phase (R229, R230) -/

section
variable {s : State} {a : Nat} {m : ArriveMsg}

theorem exec_arrivalDeparture (hm : s.arrives.find a = some m) (hd : m.departed = false) (hl : (s.core m.src).launch = some m.launch)
    (hw : writesAcked s m.src m.seq 4 allClasses = true) : exec (.arrivalDeparture a) s = .next
      ({ s with arrives := Table.put s.arrives a { m with departed := true } }.due (s.now + m.latency) keyReply (.arrivalDelivery a)) := by
  show execArrivalDeparture a s = _
  unfold execArrivalDeparture
  rw [hm]
  dsimp only
  rw [if_neg (by simp [hd, hl, hw])]

/-- The phase of the target core once an arrival has counted down. -/
def countedDown (m : ArriveMsg) (x : PhaseSt) : PhaseSt := if m.gen then { x with cnt1 := x.cnt1 - 1 } else { x with cnt0 := x.cnt0 - 1 }

/-- The counter of the generation of an arrival once it has counted down. -/
def countLeft (m : ArriveMsg) (x : PhaseSt) : Int := (if m.gen then x.cnt1 else x.cnt0) - 1

theorem countedDown_spec (m : ArriveMsg) (x : PhaseSt) : (if m.gen then (countedDown m x).cnt1 else (countedDown m x).cnt0) = countLeft m x ∧
    (countedDown m x).isOpen = x.isOpen ∧ (countedDown m x).gen = x.gen ∧ (countedDown m x).word = x.word := by
  unfold countedDown countLeft
  cases m.gen <;> exact ⟨rfl, rfl, rfl, rfl⟩

theorem countedDown_eq (m : ArriveMsg) (x : PhaseSt) : countedDown m x =
    if m.gen then { x with cnt1 := countLeft m x } else { x with cnt0 := countLeft m x } := by
  unfold countedDown countLeft
  cases m.gen <;> rfl

/-- The state once an arrival has counted down at its target. -/
def delivered (s : State) (a : Nat) (m : ArriveMsg) : State :=
  ({ s with arrives := Table.del s.arrives a } : State).setCore m.dst ((s.core m.dst).phSet m.phase (countedDown m ((s.core m.dst).phGet m.phase)))

/-- The fault of a counter below zero (R229): it names the PHASE of the target core. -/
def belowFault (m : ArriveMsg) (x : PhaseSt) : FaultInfo :=
  { kind := 1, code := 2, cause := 0, arg0 := (countedDown m x).word, arg1 := 0, slot := 0, rep := 0, origin := 5
    issue := (countedDown m x).issue, baddr := (countedDown m x).baddr }

/-- An arrival counts down; below zero in the open generation it is a fault of the target core. -/
theorem exec_arrivalDelivery (hm : s.arrives.find a = some m) : exec (.arrivalDelivery a) s = .next (
    let x := (s.core m.dst).phGet m.phase
    if decide (countLeft m x < 0) && x.isOpen && m.gen == x.gen then
      meetFault (delivered s a m) m.dst (belowFault m x) 16
    else if lineReady (delivered s a m) m.dst m.phase then (delivered s a m).due s.now keyLeave (.phaseLineRaise m.dst m.phase)
    else delivered s a m) := by
  obtain ⟨hleft, hopen, hgen, -⟩ := countedDown_spec m ((s.core m.dst).phGet m.phase)
  show execArrivalDelivery a s = _
  unfold execArrivalDelivery
  rw [hm]
  dsimp only
  change (if (decide ((if m.gen then (countedDown m ((s.core m.dst).phGet m.phase)).cnt1 else (countedDown m ((s.core m.dst).phGet m.phase)).cnt0) < 0) &&
    (countedDown m ((s.core m.dst).phGet m.phase)).isOpen && m.gen == (countedDown m ((s.core m.dst).phGet m.phase)).gen) = true then _ else _) = _
  rw [hleft, hopen, hgen]
  by_cases hbelow : (decide (countLeft m ((s.core m.dst).phGet m.phase) < 0) && ((s.core m.dst).phGet m.phase).isOpen &&
      m.gen == ((s.core m.dst).phGet m.phase).gen) = true
  · rw [if_pos hbelow, if_pos hbelow]
    rfl
  · rw [if_neg hbelow, if_neg hbelow]
    by_cases hline : lineReady (delivered s a m) m.dst m.phase = true
    · rw [if_pos hline]
      exact if_pos hline
    · rw [if_neg hline]
      exact if_neg hline

/-- An arrival that counts down in time. -/
theorem arrivalDelivery_counts (hm : s.arrives.find a = some m)
    (hok : 0 ≤ countLeft m ((s.core m.dst).phGet m.phase) ∨ ((s.core m.dst).phGet m.phase).isOpen = false ∨ m.gen ≠ ((s.core m.dst).phGet m.phase).gen) :
    ∃ t, exec (.arrivalDelivery a) s = .next t ∧ t.arrives = Table.del s.arrives a ∧
      (t.core m.dst).phGet m.phase = countedDown m ((s.core m.dst).phGet m.phase) ∧
      SameRegisters (s.core m.dst) (t.core m.dst) ∧ (∀ g ≠ m.dst, t.core g = s.core g) ∧ t.mem = s.mem := by
  refine ⟨_, exec_arrivalDelivery hm, ?_⟩
  dsimp only
  have hno : (decide (countLeft m ((s.core m.dst).phGet m.phase) < 0) && ((s.core m.dst).phGet m.phase).isOpen &&
      m.gen == ((s.core m.dst).phGet m.phase).gen) = false := by
    rcases hok with h | h | h
    · rw [decide_eq_false (by omega), Bool.false_and, Bool.false_and]
    · rw [h, Bool.and_false, Bool.false_and]
    · rw [beq_false_of_ne h, Bool.and_false]
  rw [if_neg (by rw [hno]; simp)]
  have hcore : (delivered s a m).core m.dst = (s.core m.dst).phSet m.phase (countedDown m ((s.core m.dst).phGet m.phase)) := by
    rw [delivered, core_setCore, if_pos rfl]
  have hother : ∀ g ≠ m.dst, (delivered s a m).core g = s.core g := fun g hg => by
    rw [delivered, core_setCore, if_neg hg]
    rfl
  have hall : (delivered s a m).arrives = Table.del s.arrives a ∧
      ((delivered s a m).core m.dst).phGet m.phase = countedDown m ((s.core m.dst).phGet m.phase) ∧
      SameRegisters (s.core m.dst) ((delivered s a m).core m.dst) ∧ (∀ g ≠ m.dst, (delivered s a m).core g = s.core g) ∧
      (delivered s a m).mem = s.mem := by
    refine ⟨rfl, ?_, ?_, hother, rfl⟩
    · rw [hcore]; simp [Core.phSet, Core.phGet]
    · rw [hcore]; simp [Core.phSet, SameRegisters]
  split
  · exact hall
  · exact hall

end

section
variable {s : State} {g p l : Nat} {y : Launch}

/-- A line that may rise rises; with the last of the members the completion is due. -/
theorem exec_phaseLineRaise (hl : (s.core g).launch = some l) (hy : s.launch? l = some y) (hready : lineReady s g p = true) :
    ∃ t, exec (.phaseLineRaise g p) s = .next t ∧ t.mem = s.mem ∧ SameRegisters (s.core g) (t.core g) ∧
      (t.core g).phGet p = { (s.core g).phGet p with line := true } ∧ (∀ k ≠ g, t.core k = s.core k) ∧
      ((∀ r ∈ phaseMembers s y (s.core g) p, y.cores.getD r 0 = g ∨ ((s.core (y.cores.getD r 0)).phGet p).line = true) →
        DueAt t (s.now + phaseLatency s y (phaseMembers s y (s.core g) p)) (.phaseCompletion g p)) := by
  generalize hs1 : s.setCore g ((s.core g).phSet p { (s.core g).phGet p with line := true }) = s1
  have hcore : s1.core g = (s.core g).phSet p { (s.core g).phGet p with line := true } := by rw [← hs1, core_setCore, if_pos rfl]
  have hother : ∀ k ≠ g, s1.core k = s.core k := fun k hk => by rw [← hs1, core_setCore, if_neg hk]
  have hplaces : SamePlaces s s1 := by rw [← hs1]; exact SamePlaces.setCore s g rfl rfl
  have hy1 : s1.launch? l = some y := by rw [← hs1]; exact hy
  have hph : (s1.core g).phGet p = { (s.core g).phGet p with line := true } := by rw [hcore]; simp [Core.phSet, Core.phGet]
  have hregs : SameRegisters (s.core g) (s1.core g) := by rw [hcore]; simp [Core.phSet, SameRegisters]
  have hmem : s1.mem = s.mem := by rw [← hs1]; rfl
  have hnow : s1.now = s.now := by rw [← hs1]; rfl
  have hexec : exec (.phaseLineRaise g p) s =
      if (phaseMembers s y (s.core g) p).all fun r => ((s1.core (y.cores.getD r 0)).phGet p).line then
        .next (s1.due (s.now + phaseLatency s y (phaseMembers s y (s.core g) p)) keyReply (.phaseCompletion g p))
      else .next s1 := by
    show execPhaseLineRaise g p s = _
    simp only [execPhaseLineRaise, hready, Bool.not_true, Bool.false_eq_true, if_false, hl, hs1, hy1, phaseMembers_congr hplaces y rfl rfl,
      phaseLatency_congr hplaces, hnow]
  rw [hexec]
  split
  · exact ⟨_, rfl, hmem, hregs, hph, hother, fun _ => dueAt_due ..⟩
  · next hnot =>
    refine ⟨_, rfl, hmem, hregs, hph, hother, fun hlines => absurd (List.all_eq_true.mpr fun r hr => ?_) hnot⟩
    by_cases hk : y.cores.getD r 0 = g
    · rw [hk, hph]
    · rw [hother _ hk]
      exact (hlines r hr).resolve_left hk

/-- A core at which a phase has completed. -/
def completedCore (now p : Nat) (c : Core) : Core :=
  let y := c.phGet p
  { c.phSet p { y with isOpen := false, gen := !y.gen, line := false } with
    w := putBit c.w y.flag true, setAt := Table.put c.setAt y.flag (now + 1) }

/-- A phase completes at a core. -/
def completeAt (p : Nat) (s : State) (k : Nat) : State := s.setCore k (completedCore s.now p (s.core k))

theorem exec_phaseCompletion (hl : (s.core g).launch = some l) (hy : s.launch? l = some y) : exec (.phaseCompletion g p) s =
    .next (((phaseMembers s y (s.core g) p).map fun r => y.cores.getD r 0).foldl (completeAt p) s) := by
  have hstep : ∀ (st : State) (k : Nat), setWaitFlag (st.setCore k ((st.core k).phSet p
      { (st.core k).phGet p with isOpen := false, gen := !((st.core k).phGet p).gen, line := false })) k ((st.core k).phGet p).flag =
        completeAt p st k := fun st k => by
    unfold setWaitFlag State.updCore completeAt
    rw [core_setCore, if_pos rfl, setCore_setCore]
    rfl
  show execPhaseCompletion g p s = _
  simp only [execPhaseCompletion, hl, hy, List.foldl_map, hstep]

/-- Completions at distinct cores. -/
theorem core_foldl_completeAt (ks : List Nat) (hks : ks.Nodup) (s : State) (k : Nat) :
    (ks.foldl (completeAt p) s).mem = s.mem ∧ (ks.foldl (completeAt p) s).core k =
      if k ∈ ks then completedCore s.now p (s.core k) else s.core k := by
  induction ks generalizing s with
  | nil => simp
  | cons a ks ih =>
    obtain ⟨hmem, hcore⟩ := ih (List.nodup_cons.mp hks).2 (completeAt p s a)
    have ha : a ∉ ks := (List.nodup_cons.mp hks).1
    refine ⟨hmem, ?_⟩
    rw [List.foldl_cons, hcore, completeAt, core_setCore]
    by_cases hk : k = a
    · subst hk
      simp [ha]
    · simp only [hk, if_false, List.mem_cons, false_or]
      rfl

theorem phaseMembers_lt {s : State} {x : Launch} {c : Core} {r : Nat} (h : r ∈ phaseMembers s x c p) : r < x.cores.length :=
  List.mem_range.mp (List.mem_filter.mp h).1

theorem nodup_memberCores (hnd : y.cores.Nodup) (c : Core) : ((phaseMembers s y c p).map fun r => y.cores.getD r 0).Nodup := by
  refine List.Nodup.map_on (fun a ha b hb hab => ?_) (List.nodup_range.filter _)
  have ha := phaseMembers_lt ha
  have hb := phaseMembers_lt hb
  rw [List.getD_eq_getElem _ _ ha, List.getD_eq_getElem _ _ hb] at hab
  exact (List.Nodup.getElem_inj_iff hnd).mp hab

end

/-- Settles O40: an arrival, a line and a completion by the equations of their steps. -/
theorem phaseSteps : Obligations.PhaseSteps := by
  refine ⟨fun s a m hm => ⟨exec_arrivalDeparture hm, fun hok => ?_, fun hv hopen hgen => ?_⟩, fun s g p l y hl hy =>
    ⟨exec_phaseLineRaise hl hy, fun hnd => ?_⟩⟩
  · obtain ⟨t, hexec, harr, hph, hrest⟩ := arrivalDelivery_counts hm hok
    rw [countedDown_eq] at hph
    exact ⟨t, hexec, harr, hph, hrest⟩
  · have hlow : (decide (countLeft m ((s.core m.dst).phGet m.phase) < 0) && ((s.core m.dst).phGet m.phase).isOpen &&
        m.gen == ((s.core m.dst).phGet m.phase).gen) = true := by
      rw [decide_eq_true (by exact hv), hopen, hgen]
      simp
    have hexec := exec_arrivalDelivery hm
    dsimp only at hexec
    rw [if_pos hlow] at hexec
    refine ⟨_, belowFault m ((s.core m.dst).phGet m.phase), hexec, ?_, rfl, rfl, (countedDown_spec m ((s.core m.dst).phGet m.phase)).2.2.2⟩
    unfold delivered
    rw [countedDown_eq]
    rfl
  · refine ⟨_, exec_phaseCompletion hl hy, (core_foldl_completeAt _ (nodup_memberCores hnd _) s 0).1, fun r hr => ?_, fun k hk => ?_⟩
    · dsimp only
      rw [(core_foldl_completeAt _ (nodup_memberCores hnd _) s (y.cores.getD r 0)).2, if_pos (List.mem_map.mpr ⟨r, hr, rfl⟩)]
      exact ⟨by simp [completedCore, Core.phSet, Core.phGet], rfl, rfl⟩
    · rw [(core_foldl_completeAt _ (nodup_memberCores hnd _) s k).2, if_neg ?_]
      intro hmem
      obtain ⟨r, hr, hk'⟩ := List.mem_map.mp hmem
      exact hk r hr hk'

end Sys2Proof.Machine
end

section
/-!
PROOFS. Claims (R231 to R238): their instructions, departures, arrivals, decisions and samples.
-/
namespace Sys2Proof.Machine

/-! ## Claim words and claims (R233 to R237) -/

theorem memberCore_congr {s t : State} (h : SamePlaces s t) (hl : t.launches = s.launches) (l r : Nat) :
    (memberCore t l r).hive = (memberCore s l r).hive ∧ (memberCore t l r).vdie = (memberCore s l r).vdie := by
  have hlaunch : t.launch? l = s.launch? l := by unfold State.launch?; rw [hl]
  unfold memberCore
  rw [hlaunch]
  split
  · exact ⟨rfl, rfl⟩
  · split_ifs
    · exact ⟨rfl, rfl⟩
    · exact ⟨rfl, rfl⟩
    · exact h _

theorem groupRanks_congr {s t : State} (h : SamePlaces s t) (hl : t.launches = s.launches) (l : Nat) (x : Launch) (hive : Nat) (g : ClaimGroup) :
    groupRanks t l x hive g = groupRanks s l x hive g := by
  unfold groupRanks
  simp only [(memberCore_congr h hl _ _).1]

/-- The word that a reference names does not depend on what an instruction notes. -/
theorem claimRef_congr {s t : State} (h : SamePlaces s t) (hl : t.launches = s.launches) (hd : t.directory = s.directory) {c d : Core}
    (h1 : d.launch = c.launch) (h2 : d.hive = c.hive) (h3 : d.rank = c.rank) (k : Nat) : claimRef t d k = claimRef s c k := by
  have hlaunch : ∀ l, t.launch? l = s.launch? l := fun l => by unfold State.launch?; rw [hl]
  unfold claimRef
  simp only [h1, h2, h3, hlaunch, groupRanks_congr h hl, (memberCore_congr h hl _ _).2, entryOfSub, entryMembers, hl, hd]

/-- A reference that names no word is a bounds or a protection fault. -/
theorem claimRef_error_code {s : State} {c : Core} {k : Nat} {e : Check} (h : claimRef s c k = .error e) : e.code ≠ 2 := by
  have hb : (claimBounds k).code ≠ 2 := show (8 : Nat) ≠ 2 by decide
  have hp : ∀ n, (protCheck n k).code ≠ 2 := fun n => show (7 : Nat) ≠ 2 by decide
  unfold claimRef at h
  split at h
  · exact Except.error.inj h ▸ hb
  · split at h
    · exact Except.error.inj h ▸ hb
    · split at h
      · split at h
        · exact Except.error.inj h ▸ hb
        · dsimp only at h
          split at h
          · exact Except.error.inj h ▸ hp 6
          · cases h
      · split at h
        · split at h
          · exact Except.error.inj h ▸ hp 7
          · cases h
        · exact Except.error.inj h ▸ hb

/-- What an instruction that acts once notes at its core: in the region, in the requests and in the program order (R356). -/
def Core.withNotes (c d : Core) : Core := { c with region := d.region, reqs := d.reqs, seq := d.seq }

/-- A state in which the core that acts has noted an instruction that acts once. -/
structure Noted (s t : State) : Prop where
  state : t = { s with cores := t.cores, nextId := t.nextId }
  core : t.curCore = s.curCore.withNotes t.curCore
  other : ∀ k ≠ s.cur, t.core k = s.core k

theorem Noted.cur_eq {s t : State} (h : Noted s t) : t.cur = s.cur := by rw [h.state]
theorem Noted.mem_eq {s t : State} (h : Noted s t) : t.mem = s.mem := by rw [h.state]
theorem Noted.now_eq {s t : State} (h : Noted s t) : t.now = s.now := by rw [h.state]

theorem Noted.updCur (s : State) {f : Core → Core} (n : Nat) (hf : f s.curCore = s.curCore.withNotes (f s.curCore)) :
    Noted s { s.updCur f with nextId := n } := by
  have hcore : ({ s.updCur f with nextId := n } : State).curCore = f s.curCore := by
    show (s.updCur f).curCore = _
    rw [curCore_updCur]
  refine ⟨rfl, by rw [hcore]; exact hf, fun k hk => ?_⟩
  show (s.updCur f).core k = s.core k
  rw [State.updCur, core_setCore, if_neg hk]

theorem Noted.trans {a b c : State} (h1 : Noted a b) (h2 : Noted b c) : Noted a c := by
  refine ⟨by rw [h2.state, h1.state], by rw [h2.core, h1.core]; rfl, fun k hk => ?_⟩
  rw [h2.other k (by rw [h1.cur_eq]; exact hk), h1.other k hk]

theorem Noted.registers {s t : State} (h : Noted s t) : SameRegisters s.curCore t.curCore := by
  rw [h.core]
  simp [SameRegisters, Core.withNotes]

theorem Noted.places {s t : State} (h : Noted s t) : SamePlaces s t := fun k => by
  by_cases hk : k = s.cur
  · subst hk
    have hc : t.core s.cur = t.curCore := by rw [State.curCore, h.cur_eq]
    rw [hc, h.core]
    exact ⟨rfl, rfl⟩
  · rw [h.other k hk]
    exact ⟨rfl, rfl⟩

theorem Noted.claimRef {s t : State} (h : Noted s t) (k : Nat) : claimRef t t.curCore k = claimRef s s.curCore k :=
  claimRef_congr h.places (by rw [h.state]) (by rw [h.state]) (by rw [h.core]; rfl) (by rw [h.core]; rfl) (by rw [h.core]; rfl) k

theorem Noted.writesAcked {s t : State} (h : Noted s t) (hd : drained s s.cur = true) (seq scope : Nat) (mask : BitVec 16) :
    writesAcked t s.cur seq scope mask = true := by
  have hc : t.core s.cur = t.curCore := by rw [State.curCore, h.cur_eq]
  refine writesAcked_of_drained hd (by rw [h.state]) ?_ ?_ seq scope mask
  · rw [hc, h.core]; rfl
  · rw [hc, h.core]; rfl

/-- The request of an instruction that acts once and has a result in a scalar register (R227). -/
def onceRequest (c : Core) (id sd arr : Nat) : Request :=
  Request.mk id c.iCyc (c.iCyc + arr) 1 (.scalar sd 8 false) 0 c.iPc c.iRep none [] 0 0 0 false none

/-- The core that has noted an instruction that acts once, with its request. -/
def notedCore (id sd arr : Nat) (c : Core) : Core :=
  { c with region := { c.region with once := ⟨c.iCyc, id, none⟩ :: c.region.once }, reqs := c.reqs ++ [onceRequest c id sd arr] }

/-- The state that has noted an instruction that acts once, with its request. -/
def notedOnce (s : State) (sd arr : Nat) : State := { s.updCur (notedCore s.nextId sd arr) with nextId := s.nextId + 1 }

theorem notedOnce_noted (s : State) (sd arr : Nat) : Noted s (notedOnce s sd arr) := Noted.updCur s _ rfl

theorem curCore_notedOnce (s : State) (sd arr : Nat) : (notedOnce s sd arr).curCore = notedCore s.nextId sd arr s.curCore := by
  show (s.updCur _).curCore = _
  rw [curCore_updCur]

theorem askOnce_first {s : State} (h : onceSeen s = none) (sd arr : Nat) (act : Nat → State → State) :
    askOnce s sd arr act = act s.nextId (notedOnce s sd arr) := by
  simp only [askOnce, h]
  congr 1
  unfold askScalar
  rw [noteOnce_eq_updCur, updCur_updCur]
  rfl

/-- What an instruction that asks for a result leaves, whatever it does besides: its request at the named arrival. -/
def Asks (s t : State) (sd arr : Nat) : Prop := SameRegisters s.curCore t.curCore ∧ t.mem = s.mem ∧
  ∃ q ∈ t.curCore.reqs, q.id = s.nextId ∧ q.arr = s.curCore.iCyc + arr ∧ q.target = .scalar sd 8 false ∧ q.data = none

theorem asks_of_noted {s t : State} {sd arr : Nat} (h : Noted (notedOnce s sd arr) t) (hr : t.curCore.reqs = (notedOnce s sd arr).curCore.reqs) :
    Asks s t sd arr := by
  have hn := notedOnce_noted s sd arr
  refine ⟨hn.registers.trans h.registers, h.mem_eq.trans hn.mem_eq, onceRequest s.curCore s.nextId sd arr, ?_, rfl, rfl, rfl, rfl⟩
  rw [hr, curCore_notedOnce]
  exact List.mem_append_right _ (List.mem_singleton.mpr rfl)

/-- The proposal of a CLAIM. -/
def claimProposal (s : State) (c : Core) (r : ClaimRef) (x : FmtY) (id : Nat) : Proposal :=
  { word := r.word, launch := c.launch.getD 0, g := some s.cur, queue := 0, func := funcOfLaunch s (c.launch.getD 0), rank := c.rank, order := s.cur
    prio := 0, value := (c.sGet x.sb.toNat).setWidth 48, window := c.cwGet x.n.toNat, bound := r.bound, seq := c.seq, reqId := id, raddr := 0
    packet := 0, departed := none, decision := none, objectors := [], overtakenBy := [], done := false }

/-- A state whose proposals have one more. -/
def proposed (s : State) (id : Nat) (p : Proposal) : State := { (takeSeq s).2 with proposals := s.proposals.put id p }

theorem runClaim_eq {s : State} {x : FmtY} {r : ClaimRef} (hr : claimRef s s.curCore (claimIndex s.curCore x) = .ok r) (id : Nat) :
    runClaim s x id =
      let t := proposed s id (claimProposal s s.curCore r x id)
      if writesAcked t s.cur s.curCore.seq 4 allClasses then t.due s.now keyLeave (.claimDeparture id) else t := by
  simp only [runClaim, hr]
  rfl

theorem takeSeq_noted (s : State) : Noted s (takeSeq s).2 := Noted.updCur (f := fun c => { c with seq := c.seq + 1 }) s s.nextId rfl

theorem noteOnce_noted (s : State) (id : Nat) (d : Option (List Byte)) : Noted s (noteOnce s id d) :=
  Noted.updCur (f := fun c => { c with region := { c.region with once := ⟨c.iCyc, id, d⟩ :: c.region.once } }) s s.nextId rfl

/-! ### Objections (R236) -/

theorem Table.mem_of_find {α : Type} {t : Table α} {n : Nat} {x : α} (h : t.find n = some x) : (n, x) ∈ t := by
  induction t with
  | nil => cases h
  | cons e t ih =>
    obtain ⟨k, v⟩ := e
    simp only [Table.find, List.map_cons, Table.get] at h
    split_ifs at h with h1 h2
    · cases h
      rw [h1]
      exact List.mem_cons_self ..
    · exact List.mem_cons_of_mem _ (ih h)

/-- In a table in rising order an entry is the one that its number finds. -/
theorem Table.find_of_mem {α : Type} {t : Table α} (hr : Rising t) {e : Nat × α} (h : e ∈ t) : t.find e.1 = some e.2 := by
  induction t with
  | nil => cases h
  | cons d t ih =>
    obtain ⟨k, v⟩ := d
    obtain ⟨hlt, hr'⟩ := List.pairwise_cons.mp hr
    simp only [Table.find, List.map_cons, Table.get]
    rcases List.mem_cons.mp h with rfl | h
    · rw [if_pos rfl]
    · have hk : k < e.1 := hlt _ (List.mem_map_of_mem h)
      rw [if_neg (by omega), if_neg (by omega)]
      exact ih hr' h

/-- The proposals once an objection has come to one of them, if its window is open. -/
def objected (o : Nat × Nat) (now : Nat) (ps : Table Proposal) (e : Nat × Proposal) : Table Proposal :=
  if windowOpen e.2 now then ps.put e.1 { e.2 with objectors := o :: e.2.objectors } else ps

theorem find_foldl_objected_other (o : Nat × Nat) (now : Nat) (l : List (Nat × Proposal)) (ps : Table Proposal) (n : Nat)
    (h : ∀ e ∈ l, e.1 = n → windowOpen e.2 now = false) : (l.foldl (objected o now) ps).find n = ps.find n := by
  induction l generalizing ps with
  | nil => rfl
  | cons e l ih =>
    rw [List.foldl_cons, ih _ fun d hd => h d (List.mem_cons_of_mem _ hd), objected]
    split
    · next hw =>
      rw [Table.find_put, if_neg fun hn => ?_]
      rw [h e (List.mem_cons_self ..) hn.symm] at hw
      cases hw
    · rfl

theorem find_foldl_objected (o : Nat × Nat) (now : Nat) (l : List (Nat × Proposal)) (hl : (l.map (·.1)).Nodup) (ps : Table Proposal)
    {e : Nat × Proposal} (he : e ∈ l) (hw : windowOpen e.2 now = true) :
    (l.foldl (objected o now) ps).find e.1 = some { e.2 with objectors := o :: e.2.objectors } := by
  induction l generalizing ps with
  | nil => cases he
  | cons d l ih =>
    obtain ⟨hd, hl'⟩ := List.nodup_cons.mp hl
    rcases List.mem_cons.mp he with rfl | he
    · rw [List.foldl_cons, find_foldl_objected_other o now l _ _ fun f hf hfe => absurd (List.mem_map.mpr ⟨f, hf, hfe⟩) hd, objected, if_pos hw,
        Table.find_put_self]
    · exact ih hl' _ he

/-- Each open proposal of the word has the objection, every other proposal stands as before. -/
theorem find_objected {s : State} (hr : Rising s.proposals) {o : Nat × Nat} {k n : Nat} {p : Proposal} (hp : s.proposals.find n = some p) :
    ((openProposals s k).foldl (objected o s.now) s.proposals).find n =
      some (if p.word = k ∧ p.done = false ∧ windowOpen p s.now = true then { p with objectors := o :: p.objectors } else p) := by
  have hnodup : ((openProposals s k).map (·.1)).Nodup :=
    List.Pairwise.imp (fun h => Nat.ne_of_lt h) (List.Pairwise.sublist (List.Sublist.map _ List.filter_sublist) hr)
  by_cases hall : p.word = k ∧ p.done = false ∧ windowOpen p s.now = true
  · obtain ⟨hword, hdone, hw⟩ := hall
    have hmem : (n, p) ∈ openProposals s k := List.mem_filter.mpr ⟨Table.mem_of_find hp, by simp [hword, hdone]⟩
    rw [if_pos ⟨hword, hdone, hw⟩]
    exact find_foldl_objected o s.now _ hnodup s.proposals hmem hw
  · rw [if_neg hall, find_foldl_objected_other, hp]
    intro e he hen
    obtain ⟨hmem, hopen⟩ := List.mem_filter.mp he
    have hep : e.2 = p := Option.some.inj ((Table.find_of_mem hr hmem).symm.trans (hen ▸ hp))
    simp only [Bool.and_eq_true, beq_iff_eq, Bool.not_eq_true'] at hopen
    rw [hep] at hopen ⊢
    exact Bool.not_eq_true _ ▸ fun hw => hall ⟨hopen.1, hopen.2, hw⟩

/-- The states of an objection differ in the proposals alone. -/
theorem foldl_objectedState (l : List (Nat × Proposal)) (o : Nat × Nat) (s : State) :
    let t := l.foldl (fun (st : State) (e : Nat × Proposal) =>
      if windowOpen e.2 s.now then { st with proposals := st.proposals.put e.1 { e.2 with objectors := o :: e.2.objectors } } else st) s
    t.proposals = l.foldl (objected o s.now) s.proposals ∧ t = { s with proposals := t.proposals } := by
  have hgen : ∀ (l : List (Nat × Proposal)) (st : State), st = { s with proposals := st.proposals } →
      let t := l.foldl (fun (st : State) (e : Nat × Proposal) =>
        if windowOpen e.2 s.now then { st with proposals := st.proposals.put e.1 { e.2 with objectors := o :: e.2.objectors } } else st) st
      t.proposals = l.foldl (objected o s.now) st.proposals ∧ t = { s with proposals := t.proposals } := by
    intro l
    induction l with
    | nil => exact fun st hst => ⟨rfl, hst⟩
    | cons e l ih =>
      intro st hst
      by_cases hw : windowOpen e.2 s.now = true
      · simp only [List.foldl_cons, hw, if_true, objected]
        exact ih _ (by rw [hst])
      · simp only [List.foldl_cons, hw, objected]
        exact ih st hst
  exact hgen l s rfl

section
variable {s : State} {h : SHead} {x : FmtY}

theorem exec_cwSet (hr : SReady s h [rS x.sa.toNat]) (hv : phaseOperand s.curCore x ≤ 4095) :
    exec (.cwSet h x) s = .next (land s 0 1 (.cwReg x.n.toNat (phaseOperand s.curCore x))) := by
  show runPlan _ (planCwSet h x s) s = _
  rw [planCwSet, runPlan_sReady_of hr (if_neg (Nat.not_lt.mpr hv))]

theorem exec_cwSet_illegal (hr : SReady s h [rS x.sa.toNat]) (hv : 4095 < phaseOperand s.curCore x) :
    exec (.cwSet h x) s = illegalS s (.cwSet h x) := by
  show runPlan _ (planCwSet h x s) s = _
  rw [planCwSet, runPlan_sReady_illegal_of hr (if_pos hv)]

/-- A ready plan whose check fails, whatever a suppressed one does. -/
theorem runPlan_sReady_off {i : Instr} {reads : List ReadUnit} {run off : State → State} {k : Option Check} {e : Check} (hr : SReady s h reads)
    (hk : k = some e) : runPlan i { sPlan h s.curCore reads k run with off := off } s = .next (raise s 0 (withWord i e)) := by
  obtain ⟨h1, h2, h3⟩ := hr
  subst hk
  simp [runPlan, Plan.fault, sPlan, h1, h2, h3]

/-- A ready plan whose check passes. -/
theorem runPlan_sReady_on {i : Instr} {reads : List ReadUnit} {run off : State → State} {k : Option Check} (hr : SReady s h reads) (hk : k = none) :
    runPlan i { sPlan h s.curCore reads k run with off := off } s = .next (run s) := by
  obtain ⟨h1, h2, h3⟩ := hr
  subst hk
  simp [runPlan, Plan.fault, sPlan, h1, h2, h3]

variable (honce : onceSeen s = none)
include honce

section
variable {e : Check} (he : claimRef s s.curCore (claimIndex s.curCore x) = .error e)
include he

theorem exec_claim_error (hr : SReady s h [rS x.sa.toNat, rS x.sb.toNat]) : exec (.claim h x) s = .next (raise s 0 e) := by
  have hcheck : (if (onceSeen s).isSome then none else claimCheck s s.curCore x) = some e := by
    simp only [honce, Option.isSome_none, Bool.false_eq_true, if_false, claimCheck, he]
  show runPlan _ (planClaim h x s) s = _
  rw [planClaim, runPlan_sReady_off hr hcheck, withWord_of_code (claimRef_error_code he)]

theorem exec_claimRead_error (hr : SReady s h [rS x.sa.toNat]) : exec (.claimRead h x) s = .next (raise s 0 e) := by
  have hcheck : (if (onceSeen s).isSome then none else claimReadCheck s s.curCore x) = some e := by
    simp only [honce, Option.isSome_none, Bool.false_eq_true, if_false, claimReadCheck, he]
  show runPlan _ (planClaimRead h x s) s = _
  rw [planClaimRead, runPlan_sReady_off hr hcheck, withWord_of_code (claimRef_error_code he)]

theorem exec_object_error (hr : SReady s h [rS x.sa.toNat]) : exec (.object h x) s = .next (raise s 0 e) := by
  have hcheck : (if (onceSeen s).isSome then none else objectCheck s s.curCore x) = some e := by
    simp only [honce, Option.isSome_none, Bool.false_eq_true, if_false, objectCheck, he]
  show runPlan _ (planObject h x s) s = _
  rw [planObject, hcheck, runPlan_sReady_check hr, withWord_of_code (claimRef_error_code he)]

end

section
variable {r : ClaimRef} (href : claimRef s s.curCore (claimIndex s.curCore x) = .ok r)
include href

omit honce in
theorem claimRef_notedOnce (sd arr : Nat) : claimRef (notedOnce s sd arr) (notedOnce s sd arr).curCore
    (claimIndex (notedOnce s sd arr).curCore x) = .ok r := by
  rw [(notedOnce_noted s sd arr).claimRef, curCore_notedOnce]
  exact href

/-- A CLAIM that passes its checks makes its proposal. -/
theorem exec_claim (hr : SReady s h [rS x.sa.toNat, rS x.sb.toNat]) (hlo : 2 * r.bound + 32 ≤ s.curCore.cwGet x.n.toNat)
    (hhi : s.curCore.cwGet x.n.toNat + r.bound ≤ 4095) (harr : s.curCore.cwGet x.n.toNat + r.bound ≤ x.arr.toNat)
    (hmine : ((openProposals s r.word).any fun o => o.2.g == some s.cur && o.2.launch == s.curCore.launch.getD 0) = false) :
    ∃ t, exec (.claim h x) s = .next t ∧ Asks s t x.sd.toNat x.arr.toNat ∧
      t.proposals = Table.put s.proposals s.nextId (claimProposal s s.curCore r x s.nextId) ∧
      (drained s s.cur = true → DueAt t s.now (.claimDeparture s.nextId)) := by
  have hcheck : (if (onceSeen s).isSome then none else claimCheck s s.curCore x) = none := by
    simp only [honce, Option.isSome_none, Bool.false_eq_true, if_false, claimCheck, href, decide_eq_false (Nat.not_lt.mpr hlo),
      decide_eq_false (Nat.not_lt.mpr hhi), Bool.or_self, if_neg (Nat.not_lt.mpr harr)]
    exact if_neg (by rw [hmine]; simp)
  have hexec : exec (.claim h x) s = .next (runClaim (notedOnce s x.sd.toNat x.arr.toNat) x s.nextId) := by
    show runPlan _ (planClaim h x s) s = _
    rw [planClaim, runPlan_sReady_on hr hcheck, askOnce_first honce]
  refine ⟨_, hexec, ?_⟩
  rw [runClaim_eq (claimRef_notedOnce href ..)]
  have hn := notedOnce_noted s x.sd.toNat x.arr.toNat
  have hp : claimProposal (notedOnce s x.sd.toNat x.arr.toNat) (notedOnce s x.sd.toNat x.arr.toNat).curCore r x s.nextId =
      claimProposal s s.curCore r x s.nextId := by rw [curCore_notedOnce]; rfl
  rw [hp]
  have hseq : Noted (notedOnce s x.sd.toNat x.arr.toNat) (takeSeq (notedOnce s x.sd.toNat x.arr.toNat)).2 := takeSeq_noted _
  have hasks : Asks s (takeSeq (notedOnce s x.sd.toNat x.arr.toNat)).2 x.sd.toNat x.arr.toNat := asks_of_noted hseq (by rw [takeSeq, curCore_updCur])
  dsimp only
  split
  · exact ⟨hasks, rfl, fun _ => dueAt_due ..⟩
  · next hnot =>
    refine ⟨hasks, rfl, fun hd => absurd ?_ hnot⟩
    exact (hn.trans hseq).writesAcked hd _ 4 allClasses

/-- A window outside its limits, or a proposal of the core still open. -/
theorem exec_claim_illegal (hr : SReady s h [rS x.sa.toNat, rS x.sb.toNat])
    (hbad : s.curCore.cwGet x.n.toNat < 2 * r.bound + 32 ∨ 4095 < s.curCore.cwGet x.n.toNat + r.bound ∨
      (s.curCore.cwGet x.n.toNat + r.bound ≤ x.arr.toNat ∧
        ((openProposals s r.word).any fun o => o.2.g == some s.cur && o.2.launch == s.curCore.launch.getD 0) = true)) :
    exec (.claim h x) s = illegalS s (.claim h x) := by
  have hcheck : (if (onceSeen s).isSome then none else claimCheck s s.curCore x) = some (illegalOp 0 0) := by
    simp only [honce, Option.isSome_none, Bool.false_eq_true, if_false, claimCheck, href]
    split
    · rfl
    · next hwin =>
      obtain ⟨hlo, hhi⟩ := not_or.mp (mt Bool.or_eq_true_iff.mpr hwin)
      obtain ⟨harr, hmine⟩ := (hbad.resolve_left (by simpa using hlo)).resolve_left (by simpa using hhi)
      rw [if_neg (Nat.not_lt.mpr harr)]
      exact if_pos hmine
  show runPlan _ (planClaim h x s) s = _
  rw [planClaim, runPlan_sReady_off hr hcheck]
  simp [illegalS, raise, withWord, illegalOp]

/-- An arrival before the window and the bound. -/
theorem exec_claim_early (hr : SReady s h [rS x.sa.toNat, rS x.sb.toNat]) (hlo : 2 * r.bound + 32 ≤ s.curCore.cwGet x.n.toNat)
    (hhi : s.curCore.cwGet x.n.toNat + r.bound ≤ 4095) (harr : x.arr.toNat < s.curCore.cwGet x.n.toNat + r.bound) :
    exec (.claim h x) s = .next (stepFault s 0 4 (s.curCore.cwGet x.n.toNat + r.bound) (BitVec.ofNat 64 x.arr.toNat) 0) := by
  have hcheck : (if (onceSeen s).isSome then none else claimCheck s s.curCore x) =
      some { code := 4, cause := s.curCore.cwGet x.n.toNat + r.bound, arg0 := BitVec.ofNat 64 x.arr.toNat, arg1 := 0, handle := 16 } := by
    simp only [honce, Option.isSome_none, Bool.false_eq_true, if_false, claimCheck, href, decide_eq_false (Nat.not_lt.mpr hlo),
      decide_eq_false (Nat.not_lt.mpr hhi), Bool.or_self, if_pos harr, arrivalCheck]
  show runPlan _ (planClaim h x s) s = _
  rw [planClaim, runPlan_sReady_off hr hcheck, withWord_of_code (show (4 : Nat) ≠ 2 by decide)]
  rfl

/-- CLAIM.READ asks for a sample. -/
theorem exec_claimRead (hr : SReady s h [rS x.sa.toNat]) (harr : r.bound ≤ x.arr.toNat) :
    ∃ t, exec (.claimRead h x) s = .next t ∧ Asks s t x.sd.toNat x.arr.toNat ∧
      t.samples = Table.put s.samples s.nextId { word := r.word, launch := s.curCore.launch.getD 0, rank := s.curCore.rank, reqId := s.nextId } ∧
      DueAt t (s.now + r.bound) (.claimReadSample s.nextId) := by
  have hcheck : (if (onceSeen s).isSome then none else claimReadCheck s s.curCore x) = none := by
    simp only [honce, Option.isSome_none, Bool.false_eq_true, if_false, claimReadCheck, href, arrivalCheck, if_neg (Nat.not_lt.mpr harr)]
  have hn := notedOnce_noted s x.sd.toNat x.arr.toNat
  have href' : claimRef (notedOnce s x.sd.toNat x.arr.toNat) s.curCore (claimIndex s.curCore x) = .ok r := by
    rw [claimRef_congr (c := s.curCore) hn.places rfl rfl rfl rfl rfl]
    exact href
  have hexec : exec (.claimRead h x) s = .next (runClaimRead (notedOnce s x.sd.toNat x.arr.toNat) s.curCore x s.nextId) := by
    show runPlan _ (planClaimRead h x s) s = _
    rw [planClaimRead, runPlan_sReady_on hr hcheck, askOnce_first honce]
  refine ⟨_, hexec, ?_⟩
  simp only [runClaimRead, href']
  have hasks : Asks s (notedOnce s x.sd.toNat x.arr.toNat) x.sd.toNat x.arr.toNat :=
    asks_of_noted ⟨rfl, rfl, fun _ _ => rfl⟩ rfl
  exact ⟨hasks, rfl, dueAt_due ..⟩

/-- OBJECT of a word with no open window is an objection fault (R236). -/
theorem exec_object_fault (hr : SReady s h [rS x.sa.toNat])
    (hopen : ((openProposals s r.word).any fun o => windowOpen o.2 s.now) = false) :
    exec (.object h x) s = .next (stepFault s 0 11 0 (BitVec.ofNat 64 (claimIndex s.curCore x)) 0) := by
  have hcheck : (if (onceSeen s).isSome then none else objectCheck s s.curCore x) =
      some { code := 11, cause := 0, arg0 := BitVec.ofNat 64 (claimIndex s.curCore x), arg1 := 0, handle := 16 } := by
    simp only [honce, Option.isSome_none, Bool.false_eq_true, if_false, objectCheck, href]
    exact if_neg (by rw [hopen]; simp)
  show runPlan _ (planObject h x s) s = _
  rw [planObject, hcheck, runPlan_sReady_check hr, withWord_of_code (show (11 : Nat) ≠ 2 by decide)]
  rfl

/-- OBJECT marks every open proposal of the word. -/
theorem exec_object (hr : SReady s h [rS x.sa.toNat])
    (hopen : ((openProposals s r.word).any fun o => windowOpen o.2 s.now) = true) : ∃ t, exec (.object h x) s = .next t ∧
      SameRegisters s.curCore t.curCore ∧ t.mem = s.mem ∧
      t.proposals = (openProposals s r.word).foldl (objected (s.curCore.launch.getD 0, s.curCore.rank) s.now) s.proposals := by
  have hcheck : (if (onceSeen s).isSome then none else objectCheck s s.curCore x) = none := by
    simp only [honce, Option.isSome_none, Bool.false_eq_true, if_false, objectCheck, href]
    exact if_pos hopen
  have hexec : exec (.object h x) s = .next (runObject (noteOnce s 0 none) s.curCore x) := by
    show runPlan _ (planObject h x s) s = _
    rw [planObject, runPlan_sReady_of hr hcheck, actOnce, honce]
  have hn : Noted s (noteOnce s 0 none) := noteOnce_noted ..
  have href' : claimRef (noteOnce s 0 none) s.curCore (claimIndex s.curCore x) = .ok r := by
    rw [claimRef_congr (c := s.curCore) hn.places rfl rfl rfl rfl rfl]
    exact href
  refine ⟨_, hexec, ?_⟩
  simp only [runObject, href']
  obtain ⟨hfold, hstate⟩ := foldl_objectedState (openProposals (noteOnce s 0 none) r.word) (s.curCore.launch.getD 0, s.curCore.rank) (noteOnce s 0 none)
  refine ⟨?_, ?_, hfold⟩
  · rw [hstate]
    exact hn.registers
  · rw [hstate]
    exact hn.mem_eq

end
end

/-- Settles O41: CWSET, CLAIM, CLAIM.READ and OBJECT by their plans, in the state in which each has been noted. -/
theorem claimInstructions : Obligations.ClaimInstructions := by
  intro s h x c v w k id asks
  refine ⟨fun hr => ⟨exec_cwSet hr, exec_cwSet_illegal hr⟩, fun e he honce => ⟨exec_claim_error honce he, fun hr =>
    ⟨exec_claimRead_error honce he hr, exec_object_error honce he hr⟩⟩, fun r href honce => ⟨fun hr => ⟨exec_claim honce href hr,
      exec_claim_illegal honce href hr, exec_claim_early honce href hr⟩, fun hr => ⟨exec_claimRead honce href hr, fun hopen hrise => ?_,
        exec_object_fault honce href hr⟩⟩⟩
  obtain ⟨t, hexec, hregs, hmem, hps⟩ := exec_object honce href hr hopen
  refine ⟨t, hexec, hregs, hmem, fun n p hp => ?_⟩
  rw [hps]
  exact find_objected hrise hp

/-! ## Proposals on their way (R234, R235) -/

/-- Proposals that may have been overtaken by more. -/
def Overtaken (ps qs : Table Proposal) : Prop :=
  ∀ m o, ps.find m = some o → ∃ o', qs.find m = some o' ∧ o' = { o with overtakenBy := o'.overtakenBy } ∧ o.overtakenBy ⊆ o'.overtakenBy

theorem Overtaken.refl (ps : Table Proposal) : Overtaken ps ps := fun _ o h => ⟨o, h, rfl, List.Subset.refl _⟩

theorem Overtaken.trans {a b c : Table Proposal} (h1 : Overtaken a b) (h2 : Overtaken b c) : Overtaken a c := fun m o h => by
  obtain ⟨o1, hf1, he1, hs1⟩ := h1 m o h
  obtain ⟨o2, hf2, he2, hs2⟩ := h2 m o1 hf1
  exact ⟨o2, hf2, by rw [he2, he1], fun _ hx => hs2 (hs1 hx)⟩

/-- One more proposal ranks above another. -/
theorem overtaken_put {ps : Table Proposal} {b : Nat} {q : Proposal} (hb : ps.find b = some q) (x : Nat × Nat × Nat × Nat) :
    Overtaken ps (ps.put b { q with overtakenBy := x :: q.overtakenBy }) := fun m o h => by
  by_cases hm : m = b
  · subst hm
    obtain rfl : q = o := Option.some.inj (hb.symm.trans h)
    exact ⟨_, Table.find_put_self .., rfl, List.subset_cons_self ..⟩
  · exact ⟨o, by rw [Table.find_put, if_neg hm]; exact h, rfl, List.Subset.refl _⟩

/-- What a collision records of a proposal. -/
def Proposal.mark (p : Proposal) : Nat × Nat × Nat × Nat := (p.prio, p.order, p.launch, p.rank)

theorem collide_spec {s : State} {a b : Nat} {p q : Proposal} (ha : s.proposals.find a = some p) (hb : s.proposals.find b = some q) :
    (p.above q = true → ∃ q', (collide s a b).proposals.find b = some q' ∧ p.mark ∈ q'.overtakenBy) ∧
    (p.above q = false → q.above p = true → ∃ p', (collide s a b).proposals.find a = some p' ∧ q.mark ∈ p'.overtakenBy) := by
  unfold collide
  simp only [ha, hb]
  refine ⟨fun h => ?_, fun h1 h2 => ?_⟩
  · rw [if_pos h]
    exact ⟨_, Table.find_put_self .., List.mem_cons_self ..⟩
  · rw [if_neg (by simp [h1]), if_pos h2]
    exact ⟨_, Table.find_put_self .., List.mem_cons_self ..⟩

theorem collide_frame (s : State) (a b : Nat) :
    collide s a b = { s with proposals := (collide s a b).proposals } ∧ Overtaken s.proposals (collide s a b).proposals := by
  unfold collide
  split
  · next p q ha hb =>
    split
    · exact ⟨rfl, overtaken_put hb _⟩
    · split
      · exact ⟨rfl, overtaken_put ha _⟩
      · exact ⟨rfl, .refl _⟩
  · exact ⟨rfl, .refl _⟩

theorem foldl_collide_frame (l : List (Nat × Proposal)) (n : Nat) (s : State) :
    let t := l.foldl (fun st e => collide st e.1 n) s
    t = { s with proposals := t.proposals } ∧ Overtaken s.proposals t.proposals := by
  induction l generalizing s with
  | nil => exact ⟨rfl, .refl _⟩
  | cons e l ih =>
    obtain ⟨hs, ho⟩ := collide_frame s e.1 n
    obtain ⟨ht, hp⟩ := ih (collide s e.1 n)
    dsimp only at ht hp ⊢
    rw [List.foldl_cons]
    exact ⟨by rw [ht, hs], ho.trans hp⟩

/-- Of two proposals that collide in a fold, the one that ranks lower is overtaken. -/
theorem foldl_collide_spec (l : List (Nat × Proposal)) (n : Nat) (s : State) {m : Nat} {o q : Proposal} (hm : (m, o) ∈ l)
    (ho : s.proposals.find m = some o) (hq : s.proposals.find n = some q) :
    let t := l.foldl (fun st e => collide st e.1 n) s
    (o.above q = true → ∃ q', t.proposals.find n = some q' ∧ o.mark ∈ q'.overtakenBy) ∧
    (o.above q = false → q.above o = true → ∃ o', t.proposals.find m = some o' ∧ q.mark ∈ o'.overtakenBy) := by
  obtain ⟨l1, l2, rfl⟩ := List.append_of_mem hm
  dsimp only
  rw [List.foldl_append, List.foldl_cons]
  obtain ⟨-, h1⟩ := foldl_collide_frame l1 n s
  generalize l1.foldl (fun st e => collide st e.1 n) s = u at h1 ⊢
  obtain ⟨o1, hfo, heo, -⟩ := h1 m o ho
  obtain ⟨q1, hfq, heq, -⟩ := h1 n q hq
  obtain ⟨hup, hdown⟩ := collide_spec hfo hfq
  obtain ⟨-, h2⟩ := foldl_collide_frame l2 n (collide u m n)
  have habove : o1.above q1 = o.above q := by rw [heo, heq]; rfl
  have hbelow : q1.above o1 = q.above o := by rw [heo, heq]; rfl
  have hmarko : o1.mark = o.mark := by rw [heo]; rfl
  have hmarkq : q1.mark = q.mark := by rw [heq]; rfl
  refine ⟨fun h => ?_, fun hno h => ?_⟩
  · obtain ⟨q2, hf2, hx⟩ := hup (habove.trans h)
    obtain ⟨q3, hf3, -, hs3⟩ := h2 n q2 hf2
    exact ⟨q3, hf3, hs3 (hmarko ▸ hx)⟩
  · obtain ⟨o2, hf2, hx⟩ := hdown (habove.trans hno) (hbelow.trans h)
    obtain ⟨o3, hf3, -, hs3⟩ := h2 m o2 hf2
    exact ⟨o3, hf3, hs3 (hmarkq ▸ hx)⟩

theorem above_iff (p q : Proposal) : p.above q = true ↔ q.prio < p.prio ∨ (p.prio = q.prio ∧ p.order < q.order) := by
  simp [Proposal.above]

/-- A proposal as it departs. -/
def departing (s : State) (p : Proposal) (prio : Nat) : Proposal :=
  { p with departed := some s.now, prio := prio, decision := some (s.now + p.window + p.bound) }

/-- The proposals whose windows a departing one meets. -/
def metBy (s : State) (n : Nat) (p : Proposal) : List (Nat × Proposal) :=
  (openProposals s p.word).filter fun e => e.1 != n && (match e.2.departed with | some t => s.now < t + e.2.window | none => false)

theorem departProposal_eq (s : State) (n : Nat) (p : Proposal) (prio : Nat) : departProposal s n p prio =
    ((((metBy s n p).foldl (fun st e => collide st e.1 n) { s with proposals := s.proposals.put n (departing s p prio) }).due (s.now + p.bound) keyReply
      (.proposalArrival n)).due (s.now + p.window + p.bound) (keyReply + 1) (.claimDecision n)) := rfl

/-- A proposal departs: its priority is taken, and it meets those whose windows are open. -/
theorem departProposal_spec (s : State) (n : Nat) (p : Proposal) (prio : Nat) :
    let t := departProposal s n p prio
    ∃ q, t.proposals.find n = some q ∧ t.cores = s.cores ∧ t.mem = s.mem ∧
      q.departed = some s.now ∧ q.prio = prio ∧ q.value = p.value ∧ q.word = p.word ∧
      DueAt t (s.now + p.bound) (.proposalArrival n) ∧ DueAt t (s.now + p.window + p.bound) (.claimDecision n) ∧
      ∀ m o d, s.proposals.find m = some o → m ≠ n → o.word = p.word → o.done = false → o.departed = some d →
        s.now < d + o.window → ∃ o', t.proposals.find m = some o' ∧
          (q.prio < o.prio ∨ (q.prio = o.prio ∧ o.order < q.order) → (o.prio, o.order, o.launch, o.rank) ∈ q.overtakenBy) ∧
          (o.prio < q.prio ∨ (q.prio = o.prio ∧ q.order < o.order) → (q.prio, q.order, q.launch, q.rank) ∈ o'.overtakenBy) := by
  dsimp only
  rw [departProposal_eq]
  generalize hs1 : ({ s with proposals := s.proposals.put n (departing s p prio) } : State) = s1
  have hq1 : s1.proposals.find n = some (departing s p prio) := by rw [← hs1]; exact Table.find_put_self ..
  obtain ⟨hstate, hover⟩ := foldl_collide_frame (metBy s n p) n s1
  have hspec := fun m o => foldl_collide_spec (metBy s n p) n s1 (m := m) (o := o) (q := departing s p prio)
  dsimp only at hstate hover hspec
  generalize (metBy s n p).foldl (fun st e => collide st e.1 n) s1 = u at hstate hover hspec ⊢
  obtain ⟨q, hfq, heq, -⟩ := hover n _ hq1
  refine ⟨q, hfq, ?_, ?_, by rw [heq]; rfl, by rw [heq]; rfl, by rw [heq]; rfl, by rw [heq]; rfl, ?_, dueAt_due .., fun m o d ho hmn hword hdone hdep hwin => ?_⟩
  · show u.cores = s.cores
    rw [hstate, ← hs1]
  · show u.mem = s.mem
    rw [hstate, ← hs1]
  · exact ⟨_, (due_traffic ..).agenda (mem_agenda_due ..)⟩
  · have hmet : (m, o) ∈ metBy s n p := by
      refine List.mem_filter.mpr ⟨List.mem_filter.mpr ⟨Table.mem_of_find ho, by simp [hword, hdone]⟩, ?_⟩
      simp [hmn, hdep, hwin]
    have hm1 : s1.proposals.find m = some o := by rw [← hs1]; simpa [Table.find_put, hmn] using ho
    obtain ⟨hup, hdown⟩ := hspec m o hmet hm1 hq1
    obtain ⟨o', hfo, heo, -⟩ := hover m o hm1
    have hprio : q.prio = (departing s p prio).prio := by rw [heq]
    have horder : q.order = (departing s p prio).order := by rw [heq]
    have hmark : (q.prio, q.order, q.launch, q.rank) = (departing s p prio).mark := by rw [heq]; rfl
    refine ⟨o', hfo, fun h => ?_, fun h => ?_⟩
    · obtain ⟨q', hfq', hx⟩ := hup ((above_iff _ _).mpr (by rw [← hprio, ← horder]; omega))
      obtain rfl : q = q' := Option.some.inj (hfq.symm.trans hfq')
      exact hx
    · have hno : o.above (departing s p prio) = false := by
        rw [Bool.eq_false_iff, ne_eq, above_iff, ← hprio, ← horder]
        omega
      obtain ⟨o2, hfo2, hx⟩ := hdown hno ((above_iff _ _).mpr (by rw [← hprio, ← horder]; omega))
      obtain rfl : o' = o2 := Option.some.inj (hfo.symm.trans hfo2)
      rw [hmark]
      exact hx

theorem exec_claimDeparture {s : State} {n g : Nat} {p : Proposal} (hp : s.proposals.find n = some p) (hg : p.g = some g) (hd : p.departed = none)
    (hl : (s.core g).launch = some p.launch) (hw : writesAcked s g p.seq 4 allClasses = true) :
    exec (.claimDeparture n) s = .next (departProposal s n p (launchPriority s p.launch)) := by
  show execClaimDeparture n s = _
  simp only [execClaimDeparture, hp, hd, hg, hl, hw, Option.isSome_none, Bool.false_eq_true, if_false, decide_true, Bool.and_self, if_true]

/-! ## Flags of members (R225, R309) -/

/-- The core with the wait flags of another. -/
def Core.withFlags (c d : Core) : Core := { c with w := d.w, setAt := d.setAt }

/-- A step that sets wait flags of members, on their cores or in the save. -/
structure Flagged (s t : State) : Prop where
  state : t = { s with cores := t.cores, launches := t.launches }
  core : ∀ g, t.core g = (s.core g).withFlags (t.core g)
  kept : ∀ g i, (s.core g).w.getLsbD i = true → (t.core g).w.getLsbD i = true
  launch : ∀ l, ∃ cs : Launch → List Core, t.launch? l = (s.launch? l).map (fun x => { x with savedCores := cs x }) ∧
    ∀ x, x.state ≠ .saved → cs x = x.savedCores

theorem Flagged.refl (s : State) : Flagged s s :=
  ⟨rfl, fun _ => rfl, fun _ _ h => h, fun l => ⟨Launch.savedCores, by cases s.launch? l <;> rfl, fun _ _ => rfl⟩⟩

theorem Flagged.trans {a b c : State} (h1 : Flagged a b) (h2 : Flagged b c) : Flagged a c := by
  refine ⟨by rw [h2.state, h1.state], fun g => by rw [h2.core g, h1.core g]; rfl, fun g i h => h2.kept g i (h1.kept g i h), fun l => ?_⟩
  obtain ⟨f, hf, hf'⟩ := h1.launch l
  obtain ⟨k, hk, hk'⟩ := h2.launch l
  refine ⟨fun x => k { x with savedCores := f x }, ?_, fun x hx => ?_⟩
  · rw [hk, hf]
    cases a.launch? l <;> rfl
  · exact (hk' { x with savedCores := f x } hx).trans (hf' x hx)

theorem Flagged.foldl {α : Type} {f : State → α → State} (hf : ∀ s a, Flagged s (f s a)) (l : List α) (s : State) : Flagged s (l.foldl f s) := by
  induction l generalizing s with
  | nil => exact .refl s
  | cons a l ih => exact (hf s a).trans (ih _)

/-- A launch that is not saved out stands as before. -/
theorem Flagged.launch_eq {s t : State} (h : Flagged s t) {l : Nat} {x : Launch} (hx : s.launch? l = some x) (hs : x.state ≠ .saved) :
    t.launch? l = some x := by
  obtain ⟨cs, ht, hcs⟩ := h.launch l
  rw [ht, hx, Option.map_some, hcs x hs]

theorem Flagged.memberFlags {s t : State} (h : Flagged s t) (l k : Nat) : memberFlags t l k = memberFlags s l k := by
  obtain ⟨cs, ht, -⟩ := h.launch l
  unfold Machine.memberFlags
  rw [ht]
  cases s.launch? l <;> rfl

theorem getLsbD_putBit_true {n : Nat} (w : BitVec n) (f : Nat) {i : Nat} (h : w.getLsbD i = true) : (putBit w f true).getLsbD i = true := by
  simp [putBit, h]

theorem getLsbD_putBit_self {n : Nat} (w : BitVec n) {f : Nat} (h : f < n) : (putBit w f true).getLsbD f = true := by
  simp only [putBit, if_true, BitVec.getLsbD_or, BitVec.getLsbD_ofNat, h, decide_true, Nat.testBit_two_pow_self, Bool.and_self, Bool.or_true]

/-- The flag of a core set. -/
def flagCore (now f : Nat) (c : Core) : Core := { c with w := putBit c.w f true, setAt := Table.put c.setAt f (now + 1) }

theorem updCore_flagged (s : State) (g now f : Nat) : Flagged s (s.updCore g (flagCore now f)) := by
  refine ⟨rfl, fun k => ?_, fun k i h => ?_, (Flagged.refl s).launch⟩
  · rw [core_updCore]
    split
    · next hk => rw [hk]; rfl
    · rfl
  · rw [core_updCore]
    split
    · next hk => rw [hk] at h; exact getLsbD_putBit_true _ _ h
    · exact h

theorem setMemberFlag_flagged (s : State) (l r : Nat) (f? : Option Nat) : Flagged s (setMemberFlag s l r f?) := by
  cases f? with
  | none => exact .refl s
  | some f =>
    show Flagged s (updMember s l r (flagCore s.now f))
    unfold updMember
    split
    · exact .refl s
    · next x hx =>
      split
      · exact .refl s
      · split
        · next hsaved =>
          split
          · next c hc =>
            refine ⟨rfl, fun _ => rfl, fun _ _ h => h, fun k => ?_⟩
            by_cases hk : k = l
            · subst hk
              refine ⟨fun y => if y.state = .saved then x.savedCores.set r (flagCore s.now f c) else y.savedCores, ?_, fun y hy => if_neg hy⟩
              rw [hx]
              simp [State.launch?, State.setLaunch, hsaved]
            · refine ⟨Launch.savedCores, ?_, fun _ _ => rfl⟩
              have hother : (s.setLaunch l { x with savedCores := x.savedCores.set r (flagCore s.now f c) }).launch? k = s.launch? k := by
                simp [State.launch?, State.setLaunch, Table.find_put, hk]
              rw [hother]
              cases s.launch? k <;> rfl
          · exact .refl s
        · split
          · exact updCore_flagged ..
          · exact .refl s

/-- The flag of a member that is on its core. -/
theorem setMemberFlag_sets {s : State} {l r f : Nat} {x : Launch} (hx : s.launch? l = some x) (h1 : x.state ≠ .saved) (h2 : x.state ≠ .ended)
    (hr : r < x.cores.length) (hf : f < 32) : ((setMemberFlag s l r (some f)).core (x.cores.getD r 0)).w.getLsbD f = true := by
  have hget : x.cores[r]? = some (x.cores.getD r 0) := by
    rw [List.getD_eq_getElem _ _ hr, List.getElem?_eq_getElem hr]
  simp only [setMemberFlag, updMember, hx, h1, h2, if_false, hget]
  rw [core_updCore, if_pos rfl]
  exact getLsbD_putBit_self _ hf

/-- Flags of members, one after another: each member on its core has its flag. -/
theorem foldl_setMemberFlag_sets (ms : List (Nat × Nat)) (fl : State → Nat → Option Nat)
    (hfl : ∀ s t l, Flagged s t → fl t l = fl s l) {s : State} {l r f : Nat} {x : Launch} (hm : (l, r) ∈ ms) (hflag : fl s l = some f) (hf : f < 32)
    (hx : s.launch? l = some x) (h1 : x.state ≠ .saved) (h2 : x.state ≠ .ended) (hr : r < x.cores.length) :
    ((ms.foldl (fun st m => setMemberFlag st m.1 m.2 (fl st m.1)) s).core (x.cores.getD r 0)).w.getLsbD f = true := by
  obtain ⟨l1, l2, rfl⟩ := List.append_of_mem hm
  rw [List.foldl_append, List.foldl_cons]
  have hpre := Flagged.foldl (fun st (m : Nat × Nat) => setMemberFlag_flagged st m.1 m.2 (fl st m.1)) l1 s
  generalize l1.foldl (fun st m => setMemberFlag st m.1 m.2 (fl st m.1)) s = u at hpre ⊢
  have hpost := Flagged.foldl (fun st (m : Nat × Nat) => setMemberFlag_flagged st m.1 m.2 (fl st m.1)) l2 (setMemberFlag u l r (fl u l))
  refine hpost.kept _ _ ?_
  rw [hfl s u l hpre, hflag]
  exact setMemberFlag_sets (hpre.launch_eq hx h1) h1 h2 hr hf

theorem exec_proposalArrival {s : State} {n : Nat} {p : Proposal} (hp : s.proposals.find n = some p) :
    ∃ t, exec (.proposalArrival n) s = .next t ∧ t.mem = s.mem ∧ t.proposals = s.proposals ∧
      ∀ l r f x, (l, r) ∈ membersOfWord s p.word → (memberFlags s l p.word).1 = some f → f < 32 → s.launch? l = some x →
        x.state ≠ .saved → x.state ≠ .ended → r < x.cores.length →
        (t.core (x.cores.getD r 0)).w.getLsbD f = true ∧ (t.core (x.cores.getD r 0)).s = (s.core (x.cores.getD r 0)).s := by
  have hexec : exec (.proposalArrival n) s = .next ((membersOfWord s p.word).foldl (fun st m => setMemberFlag st m.1 m.2 (memberFlags st m.1 p.word).1) s) := by
    show execProposalArrival n s = _
    simp only [execProposalArrival, hp]
  have hall := Flagged.foldl (fun st (m : Nat × Nat) => setMemberFlag_flagged st m.1 m.2 (memberFlags st m.1 p.word).1) (membersOfWord s p.word) s
  refine ⟨_, hexec, by rw [hall.state], by rw [hall.state], fun l r f x hm hflag hf hx h1 h2 hr => ⟨?_, ?_⟩⟩
  · exact foldl_setMemberFlag_sets _ (fun st l => (memberFlags st l p.word).1) (fun s t l h => by rw [h.memberFlags]) hm hflag hf hx h1 h2 hr
  · rw [hall.core]
    rfl

/-! ## Decisions and samples (R234 to R238, R304) -/

theorem claimWord_setClaimWord (s : State) (k : Nat) (c : ClaimWord) : (setClaimWord s k c).claimWord k = c := by
  unfold setClaimWord State.claimWord
  by_cases hk : 2 ^ 60 ≤ k
  · simp only [hk, if_true]
    cases hd : s.directory.find (k - 2 ^ 60) with
    | none => rw [hd]; simp
    | some d => simp
  · simp only [hk, if_false]
    simp

theorem setClaimWord_frame (s : State) (k : Nat) (c : ClaimWord) :
    setClaimWord s k c = { s with claimWords := (setClaimWord s k c).claimWords, directory := (setClaimWord s k c).directory } := by
  unfold setClaimWord
  dsimp only
  split
  · split <;> rfl
  · rfl

theorem claimWord_congr {s t : State} (hc : t.claimWords = s.claimWords) (hd : t.directory = s.directory) (k : Nat) :
    t.claimWord k = s.claimWord k := by
  unfold State.claimWord
  rw [hc, hd]

theorem updMember_frame (s : State) (l r : Nat) (u : Core → Core) :
    updMember s l r u = { s with cores := (updMember s l r u).cores, launches := (updMember s l r u).launches } := by
  unfold updMember
  split
  · rfl
  · split_ifs
    · rfl
    · split <;> rfl
    · split <;> rfl

theorem updMemberBoth_frame (s : State) (l r : Nat) (u : Core → Core) : ∃ cs ls ps,
    updMemberBoth s l r u = { s with cores := cs, launches := ls, checkpoints := ps } := by
  have h1 := updMember_frame s l r u
  unfold updMemberBoth
  dsimp only
  generalize updMember s l r u = t at h1
  have hpoint : ∀ g, ∃ cs ls ps, updPoint t g u = { s with cores := cs, launches := ls, checkpoints := ps } := fun g => by
    unfold updPoint
    split
    · exact ⟨_, _, _, by rw [h1]⟩
    · exact ⟨_, _, _, h1⟩
  have hlaunch : ∀ f, ∃ cs ls ps, t.updLaunch l f = { s with cores := cs, launches := ls, checkpoints := ps } := fun f => by
    unfold State.updLaunch State.setLaunch
    split
    · exact ⟨_, _, _, by rw [h1]⟩
    · exact ⟨_, _, _, h1⟩
  split
  · exact ⟨_, _, _, h1⟩
  · split
    · exact ⟨_, _, _, h1⟩
    · split
      · exact hlaunch _
      · split
        · exact hpoint _
        · exact ⟨_, _, _, h1⟩

theorem giveMember_frame (s : State) (l r id : Nat) (data : List Byte) : ∃ cs ls ps,
    giveMember s l r id data = { s with cores := cs, launches := ls, checkpoints := ps } := updMemberBoth_frame ..

/-- A member on its core is changed there. -/
theorem core_updMemberBoth {s : State} {l r : Nat} {x : Launch} (hx : s.launch? l = some x) (h1 : x.state ≠ .saved) (h2 : x.state ≠ .ended)
    (hr : r < x.cores.length) (u : Core → Core) : (updMemberBoth s l r u).core (x.cores.getD r 0) = u (s.core (x.cores.getD r 0)) := by
  have hget : x.cores[r]? = some (x.cores.getD r 0) := by
    rw [List.getD_eq_getElem _ _ hr, List.getElem?_eq_getElem hr]
  simp only [updMemberBoth, updMember, hx, h1, h2, if_false, hget, core_updPoint]
  rw [core_updCore, if_pos rfl]

/-- The data of a request of a member on its core. -/
theorem giveMember_data {s : State} {l r : Nat} {x : Launch} (hx : s.launch? l = some x) (h1 : x.state ≠ .saved) (h2 : x.state ≠ .ended)
    (hr : r < x.cores.length) (id : Nat) (data : List Byte) :
    ∀ q ∈ ((giveMember s l r id data).core (x.cores.getD r 0)).reqs, q.id = id → q.data = some data := by
  intro q hq hid
  unfold giveMember at hq
  dsimp only at hq
  rw [core_updMemberBoth hx h1 h2 hr] at hq
  obtain ⟨p, -, rfl⟩ := List.mem_map.mp hq
  split
  · rfl
  · next hne =>
    rw [if_neg hne] at hid
    exact absurd hid hne

/-- A state with the health records of another, and what tells the host of them. -/
def State.withHealth (s t : State) : State :=
  { s with
    mem := t.mem, funcs := t.funcs, msix := t.msix, hrCounts := t.hrCounts, hrLog := t.hrLog, hrHeld := t.hrHeld, hrLost := t.hrLost
    hrTail := t.hrTail }

theorem withHealth_trans {a b c : State} (h1 : b = a.withHealth b) (h2 : c = b.withHealth c) : c = a.withHealth c := by
  rw [h2, h1]; rfl

theorem writeWords_withHealth (s : State) (a : Nat) (ws : List Word) : writeWords s a ws = s.withHealth (writeWords s a ws) := by
  have hbytes : ∀ (bs : List Byte) (s : State) (a : Nat), writeBytes s a bs = s.withHealth (writeBytes s a bs) := fun bs => by
    induction bs with
    | nil => exact fun _ _ => rfl
    | cons b bs ih => exact fun s a => withHealth_trans (b := writeByte s a b) rfl (ih _ _)
  induction ws generalizing s a with
  | nil => rfl
  | cons w ws ih =>
    rw [writeWords_cons]
    exact withHealth_trans (hbytes _ s a) (ih _ _)

theorem sendMsix_withHealth (s : State) (f v : Nat) : sendMsix s f v = s.withHealth (sendMsix s f v) := by
  unfold sendMsix
  split <;> rfl

theorem hrTail_withHealth (s : State) (n : Nat) : ({ s with hrTail := n } : State) = s.withHealth { s with hrTail := n } := rfl

theorem putHealth_withHealth (s : State) (ws : List Word) : putHealth s ws = s.withHealth (putHealth s ws) := by
  unfold putHealth
  dsimp only
  split
  · rfl
  · refine withHealth_trans ?_ (sendMsix_withHealth ..)
    refine withHealth_trans ?_ (hrTail_withHealth ..)
    split
    · exact writeWords_withHealth ..
    · rfl

theorem unitEvent_withHealth (s : State) (kind event die unit : Nat) (args : List Word) :
    unitEvent s kind event die unit args = s.withHealth (unitEvent s kind event die unit args) := by
  unfold unitEvent
  dsimp only
  split
  · rfl
  · split
    · split <;> rfl
    · exact withHealth_trans (b := { s with hrCounts := _, hrLog := _ }) rfl (putHealth_withHealth ..)

/-- The acceptance of a commons claim is reported to system software (R304). -/
def reportClaim (s : State) (p : Proposal) (out rk : Nat) (v : BitVec 48) : State :=
  if out = 0 && 2 ^ 60 ≤ p.word then
    match s.directory.find (p.word - 2 ^ 60) with
    | some d => healthEvent s 13 0xFF 0 [d.words.getD 0 0, d.words.getD 1 0, v.setWidth 64, BitVec.ofNat 64 rk]
    | none => s
  else s

theorem reportClaim_withHealth (s : State) (p : Proposal) (out rk : Nat) (v : BitVec 48) :
    reportClaim s p out rk v = s.withHealth (reportClaim s p out rk v) := by
  unfold reportClaim
  split
  · split
    · exact unitEvent_withHealth ..
    · rfl
  · rfl

theorem reportClaim_of_lt {p : Proposal} (h : p.word < 2 ^ 60) (s : State) (out rk : Nat) (v : BitVec 48) : reportClaim s p out rk v = s :=
  if_neg (by simp only [Bool.and_eq_true, decide_eq_true_eq]; omega)

theorem decide_spec (p : Proposal) : (p.objectors ≠ [] → (decide_ p).1 = 1) ∧ (p.objectors = [] → p.overtakenBy ≠ [] → (decide_ p).1 = 2) ∧
    (p.objectors = [] → p.overtakenBy = [] → (decide_ p).1 = 0) := by
  unfold decide_
  cases hobj : p.objectors with
  | cons o os => simp
  | nil =>
    cases hover : p.overtakenBy with
    | nil => simp [highest]
    | cons x xs =>
      have hsome : ∃ y, highest (x :: xs) = some y := by
        unfold highest
        split
        · exact ⟨_, rfl⟩
        · split <;> exact ⟨_, rfl⟩
      obtain ⟨y, hy⟩ := hsome
      simp [hy]

/-- What a word takes at the decision of a proposal. -/
def decidedValue (s : State) (p : Proposal) : BitVec 48 := if (decide_ p).1 = 0 then p.value else (s.claimWord p.word).value

/-- The state at a decision once the word has its value and the flags of the members are set. -/
def decisionFlags (s : State) (p : Proposal) : State :=
  let s1 := setClaimWord s p.word { value := decidedValue s p, last := (decide_ p).1, lastLaunch := p.launch, lastRank := p.rank }
  (membersOfWord s1 p.word).foldl (fun st m => setMemberFlag st m.1 m.2 (memberFlags st m.1 p.word).2) s1

/-- The state at a decision once the outcome has come to the proposer. -/
def decisionGiven (s : State) (p : Proposal) : State :=
  reportClaim (giveMember (decisionFlags s p) p.launch p.rank p.reqId
    (leBytes 8 (outcomeWord (decide_ p).1 (decide_ p).2 (decidedValue s p)).toNat)) p (decide_ p).1 (decide_ p).2 (decidedValue s p)

theorem exec_claimDecision {s : State} {n g : Nat} {p : Proposal} (hp : s.proposals.find n = some p) (hg : p.g = some g) (hd : p.done = false) :
    ∃ ps, exec (.claimDecision n) s = .next { decisionGiven s p with proposals := ps } := by
  refine ⟨((decisionGiven s p).proposals.put n { p with done := true }).filter fun e =>
    !(e.2.done && (match e.2.departed with | some t => decide (t + e.2.window ≤ s.now) | none => true)), ?_⟩
  show execClaimDecision n s = _
  simp only [execClaimDecision, hp, hd, hg, Bool.false_eq_true, if_false]
  rfl

theorem decisionFlags_flagged (s : State) (p : Proposal) :
    Flagged (setClaimWord s p.word { value := decidedValue s p, last := (decide_ p).1, lastLaunch := p.launch, lastRank := p.rank })
      (decisionFlags s p) :=
  Flagged.foldl (fun st (m : Nat × Nat) => setMemberFlag_flagged st m.1 m.2 _) _ _

theorem claimDecision_spec {s : State} {n g : Nat} {p : Proposal} (hp : s.proposals.find n = some p) (hg : p.g = some g) (hd : p.done = false) :
    ∃ t v, exec (.claimDecision n) s = .next t ∧ (t.claimWord p.word).value = v ∧
      (t.claimWord p.word).lastLaunch = p.launch ∧ (t.claimWord p.word).lastRank = p.rank ∧
      (p.objectors ≠ [] → (t.claimWord p.word).last = 1 ∧ v = (s.claimWord p.word).value) ∧
      (p.objectors = [] → p.overtakenBy ≠ [] → (t.claimWord p.word).last = 2 ∧ v = (s.claimWord p.word).value) ∧
      (p.objectors = [] → p.overtakenBy = [] → (t.claimWord p.word).last = 0 ∧ v = p.value) ∧
      (p.word < 2 ^ 60 → t.mem = s.mem) ∧
      ∀ x, s.launch? p.launch = some x → x.state ≠ .saved → x.state ≠ .ended → p.rank < x.cores.length →
        ∀ q ∈ (t.core (x.cores.getD p.rank 0)).reqs, q.id = p.reqId →
          q.data = some (leBytes 8 (outcomeWord (decide_ p).1 (decide_ p).2 v).toNat) := by
  obtain ⟨ps, hexec⟩ := exec_claimDecision hp hg hd
  obtain ⟨h1, h2, h3⟩ := decide_spec p
  have hhealth := reportClaim_withHealth (giveMember (decisionFlags s p) p.launch p.rank p.reqId
    (leBytes 8 (outcomeWord (decide_ p).1 (decide_ p).2 (decidedValue s p)).toNat)) p (decide_ p).1 (decide_ p).2 (decidedValue s p)
  obtain ⟨cs, ls, cps, hgive⟩ := giveMember_frame (decisionFlags s p) p.launch p.rank p.reqId
    (leBytes 8 (outcomeWord (decide_ p).1 (decide_ p).2 (decidedValue s p)).toNat)
  have hflags := decisionFlags_flagged s p
  have hword : ({ decisionGiven s p with proposals := ps } : State).claimWord p.word =
      { value := decidedValue s p, last := (decide_ p).1, lastLaunch := p.launch, lastRank := p.rank } := by
    rw [← claimWord_setClaimWord s p.word { value := decidedValue s p, last := (decide_ p).1, lastLaunch := p.launch, lastRank := p.rank }]
    refine claimWord_congr ?_ ?_ p.word
    · show (decisionGiven s p).claimWords = _
      rw [decisionGiven, hhealth, hgive, hflags.state]
      rfl
    · show (decisionGiven s p).directory = _
      rw [decisionGiven, hhealth, hgive, hflags.state]
      rfl
  refine ⟨_, decidedValue s p, hexec, ?_⟩
  rw [hword]
  refine ⟨rfl, rfl, rfl, fun ho => ⟨h1 ho, if_neg (by rw [h1 ho]; decide)⟩, fun ho hv => ⟨h2 ho hv, if_neg (by rw [h2 ho hv]; decide)⟩,
    fun ho hv => ⟨h3 ho hv, if_pos (h3 ho hv)⟩, fun hlt => ?_, fun x hx hs he hr => ?_⟩
  · show (decisionGiven s p).mem = s.mem
    rw [decisionGiven, reportClaim_of_lt hlt, hgive]
    show (decisionFlags s p).mem = s.mem
    rw [hflags.state, setClaimWord_frame]
  · have hx1 : (decisionFlags s p).launch? p.launch = some x := by
      refine hflags.launch_eq ?_ hs
      rw [setClaimWord_frame]
      exact hx
    have hcores : ∀ k, ({ decisionGiven s p with proposals := ps } : State).core k = (giveMember (decisionFlags s p) p.launch p.rank p.reqId
        (leBytes 8 (outcomeWord (decide_ p).1 (decide_ p).2 (decidedValue s p)).toNat)).core k := fun k => by
      show (decisionGiven s p).core k = _
      rw [decisionGiven, hhealth]
      rfl
    rw [hcores]
    exact giveMember_data hx1 hs he hr _ _

/-- A sample gives the state of the word (R237). -/
theorem exec_claimReadSample {s : State} {a : Nat} {m : Sample} {x : Launch} (hm : s.samples.find a = some m) (hx : s.launch? m.launch = some x)
    (hs : x.state ≠ .saved) (he : x.state ≠ .ended) (hr : m.rank < x.cores.length) :
    ∃ t, exec (.claimReadSample a) s = .next t ∧ t.mem = s.mem ∧ t.samples = Table.del s.samples a ∧
      ∀ q ∈ (t.core (x.cores.getD m.rank 0)).reqs, q.id = m.reqId → q.data = some (leBytes 8 (stateWord s m.launch m.word).toNat) := by
  have hexec : exec (.claimReadSample a) s = .next (giveMember { s with samples := s.samples.del a } m.launch m.rank m.reqId
      (leBytes 8 (stateWord s m.launch m.word).toNat)) := by
    show execClaimReadSample a s = _
    simp only [execClaimReadSample, hm]
  obtain ⟨cs, ls, cps, hgive⟩ := giveMember_frame { s with samples := s.samples.del a } m.launch m.rank m.reqId
    (leBytes 8 (stateWord s m.launch m.word).toNat)
  exact ⟨_, hexec, by rw [hgive], by rw [hgive], giveMember_data (s := { s with samples := s.samples.del a }) hx hs he hr _ _⟩

/-- Settles O42: the departure, the arrival, the decision and the sample of a claim by the equations of their steps. -/
theorem claimSteps : Obligations.ClaimSteps :=
  ⟨fun s n p hp => ⟨fun g hg hd hl hw => by
      obtain ⟨q, hq⟩ := departProposal_spec s n p (launchPriority s p.launch)
      exact ⟨_, q, exec_claimDeparture hp hg hd hl hw, hq⟩,
    exec_proposalArrival hp, fun g hg hd => claimDecision_spec hp hg hd⟩,
  fun s a m x hm hx hs he hr => exec_claimReadSample hm hx hs he hr⟩

end Sys2Proof.Machine
end

section
/-!
PROOFS. The frames of steps that read and write lines, and of the shepherd's writes (R246, R272, R285, R301, R401).
-/
namespace Sys2Proof.Machine

/-! ## Steps that read and write lines, and tell the host (R246, R272, R285, R301, R401) -/

/-- A state with the memory of another, with the marks, counters and flaws of its lines, the health records, the accesses of the shepherd,
and what it has told the host. -/
def State.withCells (s t : State) : State :=
  { s with
    mem := t.mem, flaws := t.flaws, poison := t.poison, bankErrs := t.bankErrs, tsvErrs := t.tsvErrs, badCounters := t.badCounters
    onSpare := t.onSpare, minor := t.minor, major := t.major, tree := t.tree, reencrypt := t.reencrypt, roSets := t.roSets
    hrCounts := t.hrCounts, hrLog := t.hrLog, hrHeld := t.hrHeld, hrTail := t.hrTail, hrLost := t.hrLost, msix := t.msix, funcs := t.funcs
    agenda := t.agenda, ats := t.ats, accesses := t.accesses, nextId := t.nextId }

/-- A function with the host traffic of another. -/
def Func.withHost (f k : Func) : Func := { f with hostBytes := k.hostBytes, linkErr := k.linkErr }

/-- A step that reads and writes lines. -/
structure Cells (s t : State) : Prop where
  state : t = s.withCells t
  func : ∀ f, t.func f = (s.func f).withHost (t.func f)
  agenda : s.agenda ⊆ t.agenda
  wf : Memory.wf s.mem = true → Memory.wf t.mem = true

theorem func_of_sameFuncs {s t : State} (h : t.funcs = s.funcs) (f : Nat) : t.func f = (s.func f).withHost (t.func f) := by
  have hf : t.func f = s.func f := congrArg (fun x => Table.get Func.reset x f) h
  rw [hf]
  rfl

theorem Cells.of_same {s t : State} (h : t = s.withCells t) (hf : t.funcs = s.funcs) (ha : t.agenda = s.agenda)
    (hm : Memory.wf s.mem = true → Memory.wf t.mem = true) : Cells s t :=
  ⟨h, func_of_sameFuncs hf, ha ▸ List.Subset.refl _, hm⟩

theorem Cells.refl (s : State) : Cells s s := .of_same rfl rfl rfl id

theorem Cells.trans {a b c : State} (h1 : Cells a b) (h2 : Cells b c) : Cells a c := by
  refine ⟨by rw [h2.state, h1.state]; rfl, fun f => by rw [h2.func f, h1.func f]; rfl, fun _ he => h2.agenda (h1.agenda he),
    fun h => h2.wf (h1.wf h)⟩

theorem Cells.foldl {α : Type} {f : State → α → State} (hf : ∀ s a, Cells s (f s a)) (l : List α) (s : State) : Cells s (l.foldl f s) := by
  induction l generalizing s with
  | nil => exact .refl s
  | cons a l ih => exact (hf s a).trans (ih _)

theorem Cells.ite {s a b : State} {p : Prop} [Decidable p] (ha : Cells s a) (hb : Cells s b) : Cells s (if p then a else b) := by
  split
  · exact ha
  · exact hb

theorem Cells.now_eq {s t : State} (h : Cells s t) : t.now = s.now := by rw [h.state]; rfl
theorem Cells.cores_eq {s t : State} (h : Cells s t) : t.cores = s.cores := by rw [h.state]; rfl
theorem Cells.core_eq {s t : State} (h : Cells s t) (g : Nat) : t.core g = s.core g := congrArg (fun x => Table.get Core.reset x g) h.cores_eq
theorem Cells.launch_eq {s t : State} (h : Cells s t) (l : Nat) : t.launch? l = s.launch? l := by
  unfold State.launch?
  rw [h.state]
  rfl
theorem Cells.directory_eq {s t : State} (h : Cells s t) : t.directory = s.directory := by rw [h.state]; rfl

theorem due_cells (s : State) (t k : Nat) (i : Instr) : Cells s (s.due t k i) :=
  ⟨rfl, func_of_sameFuncs rfl, fun _ he => (mem_insertDue ..).mpr (.inr he), id⟩

theorem setPoison_cells (s : State) (pa : Nat) (p : Bool) : Cells s (setPoison s pa p) := .of_same rfl rfl rfl id

theorem spoil_cells (s : State) (pa : Nat) : Cells s (spoil s pa) := .of_same rfl rfl rfl id

theorem flaws_cells (s : State) (t : Table Nat) : Cells s { s with flaws := t } := .of_same rfl rfl rfl id

theorem hrTail_cells (s : State) (n : Nat) : Cells s { s with hrTail := n } := .of_same rfl rfl rfl id

theorem hrLog_cells (s : State) (c : Table Nat) (l : List (List Word)) : Cells s { s with hrCounts := c, hrLog := l } := .of_same rfl rfl rfl id

theorem bankErrs_cells (s : State) (t : Table (List Nat)) : Cells s { s with bankErrs := t } := .of_same rfl rfl rfl id

theorem tsvErrs_cells (s : State) (t : Table (List (Nat × Nat))) : Cells s { s with tsvErrs := t } := .of_same rfl rfl rfl id

theorem badCounters_cells (s : State) (l : List Nat) : Cells s { s with badCounters := l } := .of_same rfl rfl rfl id

theorem roSets_cells (s : State) (l : List Nat) : Cells s { s with roSets := l } := .of_same rfl rfl rfl id

theorem accesses_cells (s : State) (a : Table Access) : Cells s { s with accesses := a } := .of_same rfl rfl rfl id

theorem newAccess_cells (s : State) (n : Nat) (a : Table Access) : Cells s { s with nextId := n, accesses := a } := .of_same rfl rfl rfl id

theorem wrapped_cells (s : State) (t u v : Table Nat) (w : Table Nat) : Cells s { s with minor := t, major := u, reencrypt := v, tree := w } :=
  .of_same rfl rfl rfl id

theorem writeBytes_cells (s : State) (a : Nat) (bs : List Byte) : Cells s (writeBytes s a bs) := by
  induction bs generalizing s a with
  | nil => exact .refl s
  | cons b bs ih => exact Cells.trans (b := writeByte s a b) (.of_same rfl rfl rfl fun h => writeByte_wf h a b) (ih _ _)

theorem writeWords_cells (s : State) (a : Nat) (ws : List Word) : Cells s (writeWords s a ws) := by
  induction ws generalizing s a with
  | nil => exact .refl s
  | cons w ws ih =>
    rw [writeWords_cons]
    exact (writeBytes_cells ..).trans (ih _ _)

theorem writeMasked_cells (s : State) (a : Nat) (bs : List (Option Byte)) : Cells s (writeMasked s a bs) := by
  induction bs generalizing s a with
  | nil => exact .refl s
  | cons b bs ih =>
    cases b with
    | none => exact ih _ _
    | some b => exact Cells.trans (b := writeByte s a b) (.of_same rfl rfl rfl fun h => writeByte_wf h a b) (ih _ _)

/-! ### The host -/

theorem updFunc_cells (s : State) (f : Nat) (u : Func → Func) (hu : ∀ x, u x = x.withHost (u x)) : Cells s (s.updFunc f u) := by
  refine ⟨rfl, fun k => ?_, List.Subset.refl _, id⟩
  show Table.get Func.reset (Table.put s.funcs f (u (s.func f))) k = (s.func k).withHost (Table.get Func.reset (Table.put s.funcs f (u (s.func f))) k)
  rw [Table.get_put]
  split
  · next h => rw [h]; exact hu _
  · rfl

theorem chargeHost_cells (s : State) (f n : Nat) : Cells s (chargeHost s f n) := updFunc_cells _ _ _ fun _ => rfl

theorem countLinkErr_cells (s : State) (f : Nat) : Cells s (countLinkErr s f) := updFunc_cells _ _ _ fun _ => rfl

theorem noteAts_cells (s : State) (f a : Nat) : Cells s (noteAts s f a) := by
  unfold noteAts
  exact .ite (.of_same rfl rfl rfl id) (.refl s)

theorem sendMsix_cells (s : State) (f v : Nat) : Cells s (sendMsix s f v) := by
  unfold sendMsix
  exact .ite (.refl s) (.of_same rfl rfl rfl id)

theorem putHealth_cells (s : State) (ws : List Word) : Cells s (putHealth s ws) := by
  unfold putHealth
  dsimp only
  refine .ite (.of_same rfl rfl rfl id) ?_
  refine Cells.trans (Cells.trans ?_ (hrTail_cells ..)) (sendMsix_cells ..)
  exact .ite (writeWords_cells ..) (updFunc_cells _ _ _ fun _ => rfl)

theorem unitEvent_cells (s : State) (kind event die unit : Nat) (args : List Word) : Cells s (unitEvent s kind event die unit args) := by
  unfold unitEvent
  dsimp only
  refine .ite (.refl s) (.ite (.ite (.of_same rfl rfl rfl id) (.of_same rfl rfl rfl id)) ?_)
  exact (hrLog_cells s _ _).trans (putHealth_cells ..)

theorem healthEvent_cells (s : State) (event die unit : Nat) (args : List Word) : Cells s (healthEvent s event die unit args) :=
  unitEvent_cells ..

/-! ### Lines -/

theorem meetBank_cells (s : State) (pa : Nat) : Cells s (meetBank s pa) := by
  unfold meetBank
  dsimp only
  split
  · exact .ite ((bankErrs_cells s _).trans (due_cells ..)) (bankErrs_cells s _)
  · exact (spoil_cells ..).trans (due_cells ..)
  · exact .refl s

theorem noteCorrected_cells (s : State) (pa : Nat) : Cells s (noteCorrected s pa) := by
  unfold noteCorrected
  split
  · exact .refl s
  · exact .ite (.refl s) (.ite ((tsvErrs_cells s _).trans (due_cells ..)) (tsvErrs_cells s _))

theorem meetCodeword_cells (s : State) (pa : Nat) : Cells s (meetCodeword s pa) := by
  unfold meetCodeword
  exact .ite (.refl s) (.ite (spoil_cells ..) (.ite ((noteCorrected_cells ..).trans ((spoil_cells ..).trans (healthEvent_cells ..)))
    (noteCorrected_cells ..)))

theorem meetCounters_cells (s : State) (pa : Nat) : Cells s (meetCounters s pa) := by
  unfold meetCounters
  refine .ite (Cells.trans ?_ (healthEvent_cells ..)) (.refl s)
  exact (badCounters_cells s _).trans (.foldl (fun st i => spoil_cells ..) _ _)

theorem meetFlaw_cells (s : State) (pa : Nat) : Cells s (meetFlaw s pa) := by
  unfold meetFlaw
  exact .ite (meetBank_cells ..) (.ite ((meetCounters_cells ..).trans (meetCodeword_cells ..)) (.ite (spoil_cells ..) (.refl s)))

theorem placeOnSpare_cells (s : State) (pa : Nat) : Cells s (placeOnSpare s pa) := by
  unfold placeOnSpare
  dsimp only
  split
  · exact .refl s
  · exact .of_same rfl rfl rfl id

theorem exhaust_cells (s : State) (pa : Nat) : Cells s (exhaust s pa) := by
  unfold exhaust
  split
  · exact .refl s
  · exact .ite (.refl s) ((roSets_cells s _).trans (healthEvent_cells ..))

theorem bumpTree_cells (s : State) (pa : Nat) : Cells s (bumpTree s pa) := .of_same rfl rfl rfl id

theorem bumpMinor_cells (s : State) (pa : Nat) : Cells s (bumpMinor s pa) := .of_same rfl rfl rfl id

theorem wrapMinor_cells (s : State) (pa : Nat) : Cells s (wrapMinor s pa) :=
  (wrapped_cells s _ _ _ _).trans (due_cells ..)

theorem putLine_cells (s : State) (pa : Nat) (bytes : List (Option Byte)) : Cells s (putLine s pa bytes) := by
  unfold putLine
  have hput : ∀ st, Cells st (writeMasked { st with flaws := Table.put st.flaws (lineOf pa) 0 } pa bytes) := fun st =>
    (flaws_cells ..).trans (writeMasked_cells ..)
  refine .ite ?_ (.ite ((meetFlaw_cells ..).trans (.ite (.refl _) ((hput _).trans (placeOnSpare_cells ..)))) ((meetFlaw_cells ..).trans (writeMasked_cells ..)))
  exact (Cells.ite ((meetCounters_cells ..).trans (placeOnSpare_cells ..)) (.refl s)).trans ((hput _).trans (setPoison_cells ..))

theorem writeLine_cells (s : State) (pa : Nat) (bytes : List (Option Byte)) : Cells s (writeLine s pa bytes) := by
  unfold writeLine
  refine .ite (.ite (exhaust_cells ..) ?_) (putLine_cells ..)
  exact (Cells.ite (wrapMinor_cells ..) (.refl s)).trans ((bumpMinor_cells ..).trans (putLine_cells ..))

theorem writeMarked_cells (s : State) (pa : Nat) (bytes : List (Option Byte)) (p : Bool) : Cells s (writeMarked s pa bytes p) := by
  unfold writeMarked
  exact .ite ((writeLine_cells ..).trans (setPoison_cells ..)) (writeLine_cells ..)

theorem writeRun_cells (s : State) (p : Bool) (l : List Span) (data : List Byte) : Cells s (writeRun s p l data) := by
  induction l generalizing s with
  | nil => exact .refl s
  | cons sp l ih => exact (writeMarked_cells ..).trans (ih _)

theorem storeBytes_cells (s : State) (pa : Nat) (data : List Byte) : Cells s (storeBytes s pa data) := writeRun_cells ..

theorem blockedLine_cells (s : State) (w : Bool) (pa : Nat) : Cells s (blockedLine s w pa).1 := by
  unfold blockedLine
  split
  · exact .refl s
  · split
    · exact wrapMinor_cells ..
    · exact .refl s

theorem blockedLines_cells (s : State) (w : Bool) (l : List Nat) : Cells s (blockedLines s w l).1 := by
  induction l generalizing s with
  | nil => exact .refl s
  | cons pa l ih => exact (blockedLine_cells ..).trans (ih _)

theorem readLine_cells (s : State) (pa n : Nat) : Cells s (readLine s pa n).1 := meetFlaw_cells ..

theorem markLines_cells (s : State) (d : DirEntry) (t : Nat) (p : Bool) : Cells s (markLines s d t p) := by
  unfold markLines
  split
  · exact .refl s
  · exact .foldl (fun st sp => setPoison_cells ..) _ _

/-! ### The shepherd (R301, R326, R379) -/

theorem shepherdAccess_cells (s : State) (f : Nat) (kind : AccessKind) (pa len : Nat) (data : List (Option Byte)) (t : Nat) :
    Cells s (shepherdAccess s f kind pa len data t).2 :=
  (newAccess_cells s _ _).trans (due_cells ..)

theorem storeNow_cells (s : State) (f pa : Nat) (data : List Byte) : Cells s (storeNow s f pa data) := by
  unfold storeNow
  refine .ite (((chargeHost_cells ..).trans (noteAts_cells ..)).trans (.ite (writeBytes_cells ..) (countLinkErr_cells ..))) ?_
  exact .ite (writeLine_cells ..) (.refl s)

/-- A fold that carries a state with something else makes a step of cells when each of its rounds does. -/
theorem Cells.foldl_fst {α β : Type} {f : State × β → α → State × β} (hf : ∀ p a, Cells p.1 (f p a).1) (l : List α) (p : State × β) :
    Cells p.1 (l.foldl f p).1 := by
  induction l generalizing p with
  | nil => exact .refl _
  | cons a l ih => exact (hf p a).trans (ih _)

theorem deviceStoreFrom_cells (w : Option Nat) (s : State) (f pa : Nat) (data : List Byte) : Cells s (deviceStoreFrom w s f pa data).1 := by
  refine Cells.foldl_fst (fun p sp => ?_) _ (s, none)
  dsimp only
  split
  · exact storeNow_cells ..
  · exact shepherdAccess_cells ..

theorem deviceStoreAt_cells (s : State) (f pa : Nat) (data : List Byte) : Cells s (deviceStoreAt s f pa data).1 := deviceStoreFrom_cells ..

theorem deviceStore_cells (s : State) (f pa : Nat) (data : List Byte) : Cells s (deviceStore s f pa data) := deviceStoreFrom_cells ..

theorem deviceWord_cells (s : State) (f pa n : Nat) (kind : AccessKind) (data : List Byte) : Cells s (deviceWord s f pa n kind data).1 := by
  unfold deviceWord
  split
  · exact storeNow_cells ..
  · exact shepherdAccess_cells ..

theorem subStore_cells (s : State) (b : Subscription) (o : Nat) (data : List Byte) : Cells s (subStore s b o data).1 := by
  unfold subStore
  refine Cells.trans ?_ (accesses_cells ..)
  split
  · exact (deviceStoreAt_cells ..).trans (deviceStoreAt_cells ..)
  · exact deviceStoreAt_cells ..

theorem writeStatus_cells (s : State) (d : DirEntry) (b : Subscription) (k : Nat) : Cells s (writeStatus s d b k).1 := by
  unfold writeStatus
  split
  · exact subStore_cells ..
  · exact .refl s

end Sys2Proof.Machine
end

section
/-!
PROOFS. The commons instructions and the acts of the directory on their requests (R239 to R243, R297 to R301, R306).
-/
namespace Sys2Proof.Machine

/-! ## The commons instructions (R239) -/

/-- A state with the requests to the directory and the agenda of another. -/
def State.withAsked (s t : State) : State := { s with commonsReqs := t.commonsReqs, agenda := t.agenda }

theorem withAsked_trans {a b c : State} (h1 : b = a.withAsked b) (h2 : c = b.withAsked c) : c = a.withAsked c := by
  rw [h2, h1]; rfl

/-- No request of the core is acted on after `t`, apart from those that have yet to be brought forward. -/
def ActedBy (mine : Nat × CommonsReq → Bool) (t : Nat) (left : List (Nat × CommonsReq)) (st : State) : Prop :=
  ∀ n o, st.commonsReqs.find n = some o → mine (n, o) = true → o.due ≤ t ∨ (n, o) ∈ left

theorem bringForward_spec (mine : Nat × CommonsReq → Bool) (g t : Nat) (l : List (Nat × CommonsReq)) (s : State) (h : ActedBy mine t l s) :
    bringForward s g t l = s.withAsked (bringForward s g t l) ∧ ActedBy mine t [] (bringForward s g t l) := by
  induction l generalizing s with
  | nil => exact ⟨rfl, h⟩
  | cons e l ih =>
    obtain ⟨i, r⟩ := e
    rw [bringForward, List.foldl_cons]
    dsimp only
    by_cases hd : t < r.due
    · rw [if_pos hd]
      have hnext := ih ({ s.undue (fun j => j == actOf r.kind i) with
        commonsReqs := s.commonsReqs.put i { r with due := t } }.due t (6000 + g) (actOf r.kind i)) fun n o hn hm => by
          have hn' : (s.commonsReqs.put i { r with due := t }).find n = some o := hn
          rw [Table.find_put] at hn'
          split at hn'
          · cases hn'
            exact Or.inl (le_refl _)
          · next hne =>
            rcases h n o hn' hm with hle | hmem
            · exact Or.inl hle
            · rcases List.mem_cons.mp hmem with heq | hmem
              · exact absurd (congrArg Prod.fst heq) hne
              · exact Or.inr hmem
      exact ⟨withAsked_trans rfl hnext.1, hnext.2⟩
    · rw [if_neg hd]
      refine ih s fun n o hn hm => ?_
      rcases h n o hn hm with hle | hmem
      · exact Or.inl hle
      · rcases List.mem_cons.mp hmem with heq | hmem
        · cases heq
          exact Or.inl (Nat.not_lt.mp hd)
        · exact Or.inr hmem

/-- The cycle at which the directory acts on a request of the core that issues. -/
def askCycle (s : State) (arr : Nat) : Nat := s.now + 1 + Config.actDelay (s.place s.cur) % (arr - 1)

/-- The owner of the launch of the core that issues: its function and its queue. -/
def askOwner (s : State) : Nat × Nat :=
  match s.launch? (s.curCore.launch.getD 0) with
  | some x => (x.func, x.queue)
  | none => (0, 0)

/-- The request that a commons instruction sends to the directory. -/
def askedRequest (s : State) (kind sub : Nat) (block : List Word) (flag : Option Nat) (arr id : Nat) : CommonsReq :=
  { kind := kind, rank := some s.curCore.rank, queue := (askOwner s).2, func := (askOwner s).1, launch := s.curCore.launch.getD 0, sub := sub
    block := block, flag := flag, reqId := id, due := askCycle s arr, raddr := 0, packet := 0, saddr := 0, sext := 0, result := none, waits := [] }

theorem askDirectory_spec (s : State) (kind sub : Nat) (block : List Word) (flag : Option Nat) (arr id : Nat) :
    let t := askDirectory s kind sub block flag arr id
    t.directory = s.directory ∧ t.mem = s.mem ∧ SameRegisters s.curCore t.curCore ∧ t.curCore.reqs = s.curCore.reqs ∧
    ∃ r, t.commonsReqs.find id = some r ∧ r.kind = kind ∧ r.rank = some s.curCore.rank ∧ r.launch = s.curCore.launch.getD 0 ∧ r.sub = sub ∧
      r.block = block ∧ r.flag = flag ∧ r.reqId = id ∧ r.due = askCycle s arr ∧ DueAt t r.due (actOf kind id) ∧
      ∀ n o, t.commonsReqs.find n = some o → o.launch = r.launch → o.rank = r.rank → o.due ≤ r.due := by
  let mine : Nat × CommonsReq → Bool := fun e => e.2.launch == s.curCore.launch.getD 0 && e.2.rank == some s.curCore.rank
  obtain ⟨hframe, hbrought⟩ := bringForward_spec mine s.cur (askCycle s arr) (s.commonsReqs.filter mine) s fun n o hn hm =>
    Or.inr (List.mem_filter.mpr ⟨Table.mem_of_find hn, hm⟩)
  generalize hb : bringForward s s.cur (askCycle s arr) (s.commonsReqs.filter mine) = b at hframe hbrought
  obtain ⟨r, hk, hrank, hl, hsub, hblock, hflag, hid, hdue, hask⟩ : ∃ r : CommonsReq, r.kind = kind ∧
      r.rank = some s.curCore.rank ∧ r.launch = s.curCore.launch.getD 0 ∧ r.sub = sub ∧ r.block = block ∧ r.flag = flag ∧ r.reqId = id ∧
      r.due = askCycle s arr ∧ askDirectory s kind sub block flag arr id =
        ({ b with commonsReqs := b.commonsReqs.put id r }.due (askCycle s arr) (6000 + s.cur) (actOf kind id)).draw s.cur := by
    rw [← hb]
    exact ⟨askedRequest s kind sub block flag arr id, rfl, rfl, rfl, rfl, rfl, rfl, rfl, rfl, rfl⟩
  have htraffic := draw_traffic ({ b with commonsReqs := b.commonsReqs.put id r }.due (askCycle s arr) (6000 + s.cur) (actOf kind id)) s.cur
  have hcore : ({ b with commonsReqs := b.commonsReqs.put id r }.due (askCycle s arr) (6000 + s.cur) (actOf kind id)).core s.cur = s.curCore := by
    rw [hframe]; rfl
  have hcur : (askDirectory s kind sub block flag arr id).curCore = (askDirectory s kind sub block flag arr id).core s.cur := by
    rw [State.curCore, hask, htraffic.cur_eq, hframe]; rfl
  rw [← hask] at htraffic
  have hreqs : (askDirectory s kind sub block flag arr id).commonsReqs = b.commonsReqs.put id r := by rw [hask]; rfl
  refine ⟨by rw [hask, hframe]; rfl, by rw [hask, hframe]; rfl, ?_, ?_, r, ?_, hk, hrank, hl, hsub, hblock, hflag, hid, hdue, ?_, ?_⟩
  · rw [hcur, ← hcore]
    exact htraffic.registers s.cur
  · rw [hcur, htraffic.core s.cur, hcore]; rfl
  · rw [hreqs, Table.find_put_self]
  · exact ⟨6000 + s.cur, hdue ▸ htraffic.agenda ((mem_insertDue ..).mpr (Or.inl rfl))⟩
  · intro n o hn hlo hro
    rw [hreqs, Table.find_put] at hn
    split at hn
    · cases hn
      exact le_refl _
    · rcases hbrought n o hn (by simp [mine, hlo, hro, hl, hrank]) with hle | hmem
      · exact hdue ▸ hle
      · cases hmem

section
variable {s : State} {h : SHead} {x : FmtY} {kind words : Nat} {i : Instr}

/-- What the issue of a commons instruction says of its block and its arrival. -/
def commonsReads (s : State) (x : FmtY) (words : Nat) : List ReadUnit :=
  rS x.sa.toNat :: (List.range words).map fun i => (⟨10, blockIndex s.curCore x + i, 0, 8⟩ : ReadUnit)

/-- The check of a commons instruction: of its block, then of its arrival. -/
def commonsCheck (s : State) (x : FmtY) (words : Nat) : Option Check :=
  firstCheck [fun _ => if words ≠ 0 && 2048 - words < blockIndex s.curCore x then
      some { code := 8, cause := 0x100, arg0 := BitVec.ofNat 64 (blockIndex s.curCore x), arg1 := 0, handle := 16 } else none,
    fun _ => arrivalCheck (some (commonsMin s.curCore)) x.arr.toNat]

theorem commonsCheck_bounds (hw : words ≠ 0) (hmost : words ≤ 2048) (hk : 2048 < blockIndex s.curCore x + words) :
    commonsCheck s x words = some { code := 8, cause := 0x100, arg0 := BitVec.ofNat 64 (blockIndex s.curCore x), arg1 := 0, handle := 16 } := by
  have hb : (decide (words ≠ 0) && decide (2048 - words < blockIndex s.curCore x)) = true := by
    simp only [Bool.and_eq_true, decide_eq_true_eq]
    omega
  rw [commonsCheck, if_pos hb, firstCheck]

theorem commonsCheck_inBounds (hk : words = 0 ∨ blockIndex s.curCore x + words ≤ 2048) :
    commonsCheck s x words = arrivalCheck (some (commonsMin s.curCore)) x.arr.toNat := by
  have hb : ¬(decide (words ≠ 0) && decide (2048 - words < blockIndex s.curCore x)) = true := by
    simp only [Bool.and_eq_true, decide_eq_true_eq]
    omega
  rw [commonsCheck, if_neg hb]
  simp only [firstCheck]
  split <;> simp_all

theorem commonsPlan_eq : commonsPlan h x s kind words =
    { sPlan h s.curCore (commonsReads s x words) (commonsCheck s x words) (fun t => askOnce t x.sd.toNat x.arr.toNat fun id s1 =>
        askDirectory s1 kind (blockIndex s.curCore x) ((List.range words).map fun i => s.curCore.spillGet (blockIndex s.curCore x + i))
          (commonsFlag x) x.arr.toNat id) with
      off := fun s => discardRequest s 0 x.arr.toNat 1 } := rfl

variable (hr : SReady s h (commonsReads s x words))
include hr

theorem runPlan_commons_bounds (hw : words ≠ 0) (hmost : words ≤ 2048) (hk : 2048 < blockIndex s.curCore x + words) :
    runPlan i (commonsPlan h x s kind words) s = .next (stepFault s 0 8 0x100 (BitVec.ofNat 64 (blockIndex s.curCore x)) 0) := by
  rw [commonsPlan_eq, runPlan_sReady_off hr (commonsCheck_bounds hw hmost hk), withWord_of_code (show (8 : Nat) ≠ 2 by decide)]
  rfl

theorem runPlan_commons_early (hk : words = 0 ∨ blockIndex s.curCore x + words ≤ 2048) (harr : x.arr.toNat < commonsMin s.curCore) :
    runPlan i (commonsPlan h x s kind words) s =
      .next (stepFault s 0 4 (commonsMin s.curCore) (BitVec.ofNat 64 x.arr.toNat) 0) := by
  rw [commonsPlan_eq, runPlan_sReady_off hr ((commonsCheck_inBounds hk).trans (if_pos harr)), withWord_of_code (show (4 : Nat) ≠ 2 by decide)]
  rfl

theorem runPlan_commons_goes (hk : words = 0 ∨ blockIndex s.curCore x + words ≤ 2048) (harr : commonsMin s.curCore ≤ x.arr.toNat)
    (ho : onceSeen s = none) : runPlan i (commonsPlan h x s kind words) s =
      .next (askDirectory (notedOnce s x.sd.toNat x.arr.toNat) kind (blockIndex s.curCore x)
        ((List.range words).map fun i => s.curCore.spillGet (blockIndex s.curCore x + i)) (commonsFlag x) x.arr.toNat s.nextId) := by
  rw [commonsPlan_eq, runPlan_sReady_on hr ((commonsCheck_inBounds hk).trans (if_neg (Nat.not_lt.mpr harr))), askOnce_first ho]

/-- What a commons instruction that goes out leaves. -/
theorem commons_goes (hk : words = 0 ∨ blockIndex s.curCore x + words ≤ 2048) (harr : commonsMin s.curCore ≤ x.arr.toNat)
    (ho : onceSeen s = none) (hexec : exec i s = runPlan i (commonsPlan h x s kind words) s) : ∃ t r q, exec i s = .next t ∧
      SameRegisters s.curCore t.curCore ∧ t.mem = s.mem ∧ t.directory = s.directory ∧
      q ∈ t.curCore.reqs ∧ q.id = s.nextId ∧ q.arr = s.curCore.iCyc + x.arr.toNat ∧ q.target = .scalar x.sd.toNat 8 false ∧ q.data = none ∧
      t.commonsReqs.find s.nextId = some r ∧ r.kind = kind ∧ r.rank = some s.curCore.rank ∧ r.launch = s.curCore.launch.getD 0 ∧
      r.sub = blockIndex s.curCore x ∧ r.block = (List.range words).map (fun j => s.curCore.spillGet (blockIndex s.curCore x + j)) ∧
      r.flag = commonsFlag x ∧ r.reqId = s.nextId ∧ s.now < r.due ∧
      r.due < s.now + x.arr.toNat ∧ DueAt t r.due (actOf kind s.nextId) ∧
      ∀ n o, t.commonsReqs.find n = some o → o.launch = r.launch → o.rank = r.rank → o.due ≤ r.due := by
  rw [hexec, runPlan_commons_goes hr hk harr ho]
  obtain ⟨hdir, hmem, hregs, hreqs, r, hfind, hkind, hrank, hlaunch, hsub, hblock, hflag, hid, hdue, hat, hlast⟩ :=
    askDirectory_spec (notedOnce s x.sd.toNat x.arr.toNat) kind (blockIndex s.curCore x)
      ((List.range words).map fun i => s.curCore.spillGet (blockIndex s.curCore x + i)) (commonsFlag x) x.arr.toNat s.nextId
  have hn := notedOnce_noted s x.sd.toNat x.arr.toNat
  have hleast : 256 ≤ x.arr.toNat := le_trans (by rw [commonsMin]; split <;> decide) harr
  have hcycle : s.now < r.due ∧ r.due < s.now + x.arr.toNat := by
    have hmod := Nat.mod_lt (Config.actDelay ((notedOnce s x.sd.toNat x.arr.toNat).place (notedOnce s x.sd.toNat x.arr.toNat).cur))
      (y := x.arr.toNat - 1) (by omega)
    rw [hdue, askCycle, hn.now_eq]
    omega
  refine ⟨_, r, onceRequest s.curCore s.nextId x.sd.toNat x.arr.toNat, rfl, hn.registers.trans hregs, hmem.trans hn.mem_eq,
    by rw [hdir, hn.state], ?_, rfl, rfl, rfl, rfl, hfind, hkind, by rw [hrank, curCore_notedOnce]; rfl,
    by rw [hlaunch, curCore_notedOnce]; rfl, hsub, hblock, hflag, hid, hcycle.1, hcycle.2, hat, hlast⟩
  rw [hreqs, curCore_notedOnce]
  exact List.mem_append_right _ (List.mem_singleton.mpr rfl)

end

/-- Settles O43: the check of the block comes before that of the arrival; the directory acts within ARR − 1 cycles of the next one, and what
was to be acted on later is brought forward to that cycle. -/
theorem commonsInstructions : Obligations.CommonsInstructions := by
  intro s h x c k id least reads goes
  have hgoes : ∀ kind words i, words ≤ 2048 → (∀ s, exec i s = runPlan i (commonsPlan h x s kind words) s) → SReady s h (reads words) →
      goes kind words i (actOf kind id) := fun kind words i hmost hexec hr =>
    ⟨fun hk harr ho => commons_goes hr hk harr ho (hexec s),
      fun hw hk => (hexec s).trans (runPlan_commons_bounds hr hw hmost hk),
      fun hk harr => (hexec s).trans (runPlan_commons_early hr hk harr)⟩
  exact ⟨hgoes 0 4 _ (by decide) fun _ => rfl, hgoes 1 0 _ (by decide) fun _ => rfl, hgoes 2 2 _ (by decide) fun _ => rfl,
    hgoes 3 0 _ (by decide) fun _ => rfl, hgoes 4 0 _ (by decide) fun _ => rfl⟩

/-! ## Acts of the directory (R239, R297, R298, R301) -/

theorem Table.find_map {α β : Type} (f : α → β) (t : Table α) (n : Nat) :
    Table.find (List.map (fun e : Nat × α => (e.1, f e.2)) t) n = (t.find n).map f := by
  induction t with
  | nil => rfl
  | cons e t ih =>
    simp only [Table.find, List.map_cons, Table.get] at ih ⊢
    split_ifs
    · rfl
    · rfl
    · exact ih

theorem Table.get_map {α : Type} {d : α} {f : α → α} (hd : f d = d) (t : Table α) (n : Nat) :
    Table.get d (List.map (fun e : Nat × α => (e.1, f e.2)) t) n = f (t.get d n) := by
  induction t with
  | nil => exact hd.symm
  | cons e t ih =>
    simp only [List.map_cons, Table.get] at ih ⊢
    split_ifs
    · rfl
    · exact hd.symm
    · exact ih

/-- What an act on an entry, with its status blocks and notices, changes besides cells: the directory, flags of members, and what the
shepherd has yet to tell. -/
def State.withActs (s t : State) : State :=
  { s.withCells t with directory := t.directory, cores := t.cores, launches := t.launches, told := t.told }

/-- A step that acts on entry `e` of the directory. -/
structure Acts (e : Nat) (s t : State) : Prop where
  state : t = s.withActs t
  func : ∀ f, t.func f = (s.func f).withHost (t.func f)
  agenda : s.agenda ⊆ t.agenda
  wf : Memory.wf s.mem = true → Memory.wf t.mem = true
  core : ∀ g, t.core g = (s.core g).withFlags (t.core g)
  launch : ∀ l x, s.launch? l = some x → x.state ≠ .saved → t.launch? l = some x
  other : ∀ n ≠ e, t.directory.find n = s.directory.find n

theorem Acts.trans {e : Nat} {a b c : State} (h1 : Acts e a b) (h2 : Acts e b c) : Acts e a c :=
  ⟨by rw [h2.state, h1.state]; rfl, fun f => by rw [h2.func f, h1.func f]; rfl, fun _ he => h2.agenda (h1.agenda he), fun h => h2.wf (h1.wf h),
    fun g => by rw [h2.core g, h1.core g]; rfl, fun l x hx hs => h2.launch l x (h1.launch l x hx hs) hs,
    fun n hn => (h2.other n hn).trans (h1.other n hn)⟩

theorem Cells.acts {s t : State} (h : Cells s t) (e : Nat) : Acts e s t :=
  ⟨by rw [h.state]; rfl, h.func, h.agenda, h.wf, fun g => by rw [h.core_eq]; rfl, fun l x hx _ => (h.launch_eq l).trans hx,
    fun n _ => by rw [h.directory_eq]⟩

theorem Acts.refl (e : Nat) (s : State) : Acts e s s := (Cells.refl s).acts e

theorem Flagged.acts {s t : State} (h : Flagged s t) (e : Nat) : Acts e s t :=
  ⟨by rw [h.state]; rfl, func_of_sameFuncs (by rw [h.state]), by rw [h.state]; exact List.Subset.refl _, fun hm => by rw [h.state]; exact hm,
    h.core, fun l x hx hs => h.launch_eq hx hs, fun n _ => by rw [h.state]⟩

theorem told_acts (e : Nat) (s : State) (l : List (Nat × Nat × Nat × Nat)) : Acts e s { s with told := l } :=
  ⟨rfl, func_of_sameFuncs rfl, List.Subset.refl _, id, fun _ => rfl, fun _ _ hx _ => hx, fun _ _ => rfl⟩

theorem setEntry_acts (s : State) (e : Nat) (d : DirEntry) : Acts e s (s.setEntry e d) :=
  ⟨rfl, func_of_sameFuncs rfl, List.Subset.refl _, id, fun _ => rfl, fun _ _ hx _ => hx,
    fun n hn => by
      show (s.directory.put e d).find n = _
      rw [Table.find_put, if_neg hn]⟩

theorem Acts.reqs_eq {e : Nat} {s t : State} (h : Acts e s t) : t.commonsReqs = s.commonsReqs := by rw [h.state]; rfl
theorem Acts.now_eq {e : Nat} {s t : State} (h : Acts e s t) : t.now = s.now := by rw [h.state]; rfl

/-- A step that only tells of an act: it leaves the directory. -/
structure Tells (e : Nat) (s t : State) : Prop where
  acts : Acts e s t
  directory : t.directory = s.directory

theorem Tells.refl (e : Nat) (s : State) : Tells e s s := ⟨.refl e s, rfl⟩

theorem Tells.trans {e : Nat} {a b c : State} (h1 : Tells e a b) (h2 : Tells e b c) : Tells e a c :=
  ⟨h1.acts.trans h2.acts, h2.directory.trans h1.directory⟩

theorem Cells.tells {s t : State} (h : Cells s t) (e : Nat) : Tells e s t := ⟨h.acts e, h.directory_eq⟩

theorem setMemberFlag_tells (e : Nat) (s : State) (l r : Nat) (f : Option Nat) : Tells e s (setMemberFlag s l r f) :=
  ⟨(setMemberFlag_flagged ..).acts e, by rw [(setMemberFlag_flagged ..).state]⟩

theorem told_tells (e : Nat) (s : State) (l : List (Nat × Nat × Nat × Nat)) : Tells e s { s with told := l } := ⟨told_acts .., rfl⟩

/-- A subscription but for the counts of what has been written for it. -/
def Subscription.body (b : Subscription) : Subscription := { b with seqNo := 0, nprod := 0 }

theorem writeStatus_spec (e : Nat) (s : State) (d : DirEntry) (b : Subscription) (k : Nat) :
    Tells e s (writeStatus s d b k).1 ∧ (writeStatus s d b k).2.body = b.body := by
  refine ⟨(writeStatus_cells ..).tells e, ?_⟩
  unfold writeStatus
  split <;> rfl

theorem writeNotice_spec (e : Nat) (s : State) (b : Subscription) (kind why arg : Nat) :
    Tells e s (writeNotice s b kind why arg).1 ∧ (writeNotice s b kind why arg).2.body = b.body := by
  unfold writeNotice
  dsimp only
  split
  · generalize hws : wordBytes _ = ws
    have h1 := (subStore_cells s b (64 + 32 * (b.nprod % ((b.ext - 64) / 32))) ws).tells e
    generalize subStore s b (64 + 32 * (b.nprod % ((b.ext - 64) / 32))) ws = r1 at h1 ⊢
    have h2 := h1.trans ((subStore_cells r1.1 b 32 (leBytes 8 (b.nprod + 1))).tells e)
    generalize subStore r1.1 b 32 (leBytes 8 (b.nprod + 1)) = r2 at h2 ⊢
    obtain ⟨s2, last⟩ := r2
    dsimp only at h2 ⊢
    split
    · refine ⟨?_, rfl⟩
      exact h2.trans (b := s2) (c := setMemberFlag s2 _ _ (some _)) (setMemberFlag_tells ..)
    · refine ⟨?_, rfl⟩
      exact h2.trans (told_tells ..)
    · exact ⟨h2, rfl⟩
  · exact ⟨.refl e s, rfl⟩

theorem overSubs_spec {e : Nat} {f : State → Subscription → State × Subscription}
    (hf : ∀ s b, Tells e s (f s b).1 ∧ (f s b).2.body = b.body) (l : List Subscription) (s : State) :
    Tells e s (overSubs f s l).1 ∧ (overSubs f s l).2.map Subscription.body = l.map Subscription.body := by
  induction l generalizing s with
  | nil => exact ⟨.refl e s, rfl⟩
  | cons b l ih =>
    obtain ⟨ht, hb⟩ := hf s b
    obtain ⟨ht', hl⟩ := ih (f s b).1
    exact ⟨ht.trans ht', by rw [overSubs, List.map_cons, List.map_cons, hb, hl]⟩

theorem limitNotice_spec (e : Nat) (old : List Subscription) (s : State) (b : Subscription) :
    Tells e s (limitNotice old s b).1 ∧ (limitNotice old s b).2.body = b.body := by
  unfold limitNotice
  dsimp only
  split_ifs
  · exact writeNotice_spec ..
  · exact ⟨.refl e s, rfl⟩

/-- An entry with other subscriptions. -/
def DirEntry.withSubs (d : DirEntry) (bs : List Subscription) : DirEntry := { d with subs := bs }

/-- After a step the entry is `d`, but for the counts of what has been written for its subscriptions. -/
def Stands (e : Nat) (s t : State) (d : DirEntry) : Prop :=
  Acts e s t ∧ ∃ bs, t.directory.find e = some (d.withSubs bs) ∧ bs.map Subscription.body = d.subs.map Subscription.body

theorem Acts.stands {e : Nat} {s t u : State} {d : DirEntry} (h : Acts e s t) (hs : Stands e t u d) : Stands e s u d := ⟨h.trans hs.1, hs.2⟩

theorem stands_of_tells {e : Nat} {s t : State} {d : DirEntry} {bs : List Subscription} (h : Tells e s t)
    (hb : bs.map Subscription.body = d.subs.map Subscription.body) : Stands e s (t.setEntry e (d.withSubs bs)) d :=
  ⟨h.acts.trans (setEntry_acts ..), bs, Table.find_put_self .., hb⟩

theorem limitNotices_stands (s : State) (e : Nat) (d : DirEntry) (old : List Subscription) : Stands e s (limitNotices s e d old) d := by
  obtain ⟨ht, hb⟩ := overSubs_spec (limitNotice_spec e old) d.subs s
  exact stands_of_tells ht hb

theorem writeStatuses_stands (s : State) (e : Nat) (d : DirEntry) : Stands e s (writeStatuses s e d) d := by
  obtain ⟨ht, hb⟩ := overSubs_spec (f := fun s b => writeStatus s d b 0) (fun s b => writeStatus_spec e s d b 0) d.subs s
  exact stands_of_tells ht hb

theorem noticeAll_stands (s : State) (e : Nat) (d : DirEntry) (kind arg : Nat) : Stands e s (noticeAll s e d kind arg) d := by
  obtain ⟨ht, hb⟩ := overSubs_spec (f := fun s b => writeNotice s b kind 0 arg) (fun s b => writeNotice_spec e s b kind 0 arg) d.subs s
  exact stands_of_tells ht hb

/-- One round of the status blocks after an act: that of a subscription that stays keeps it. -/
def statusRound (d : DirEntry) (acc : State × List Subscription) (p : Subscription × Nat) : State × List Subscription :=
  ((writeStatus acc.1 d p.1 p.2).1, if p.2 = 0 then acc.2 ++ [(writeStatus acc.1 d p.1 p.2).2] else acc.2)

theorem foldl_statusRound (e : Nat) (d : DirEntry) (l : List (Subscription × Nat)) (acc : State × List Subscription) :
    Tells e acc.1 (l.foldl (statusRound d) acc).1 ∧ (l.foldl (statusRound d) acc).2.map Subscription.body =
      acc.2.map Subscription.body ++ (l.filter (·.2 = 0)).map (·.1.body) := by
  induction l generalizing acc with
  | nil => exact ⟨.refl e _, by simp⟩
  | cons p l ih =>
    obtain ⟨ht, hb⟩ := writeStatus_spec e acc.1 d p.1 p.2
    obtain ⟨ht', hl⟩ := ih (statusRound d acc p)
    refine ⟨ht.trans ht', ?_⟩
    rw [List.foldl_cons, hl, statusRound]
    by_cases hp : p.2 = 0
    · simp only [hp, if_true, List.map_append, List.map_cons, List.map_nil, List.append_assoc, decide_true, List.filter_cons_of_pos,
        List.cons_append, List.nil_append]
      rw [← hp, hb]
    · simp only [hp, if_false, decide_false, Bool.false_eq_true, not_false_eq_true, List.filter_cons_of_neg]

/-- The subscriptions of an entry after an act, in the order of their status blocks; that of one that has lapsed is written with ST = 1. -/
def statusPlan (old : List Subscription) (d : DirEntry) : Option Subscription → List (Subscription × Nat)
  | none => d.subs.map fun b => (b, 0)
  | some g => old.map fun o =>
      if o.queue = g.queue && o.sub = g.sub then (g, 1) else ((d.subs.find? fun b => b.queue == o.queue && b.sub == o.sub).getD o, 0)

theorem afterAct_stands (s : State) (e : Nat) (old : List Subscription) (d : DirEntry) (gone : Option Subscription)
    (hplan : ((statusPlan old (recompute d) gone).filter (·.2 = 0)).map (·.1.body) = (recompute d).subs.map Subscription.body) :
    Stands e s (afterAct s e old d gone) (recompute d) := by
  obtain ⟨ht, hb⟩ := foldl_statusRound e (recompute d) (statusPlan old (recompute d) gone) (s, [])
  rw [hplan, List.map_nil, List.nil_append] at hb
  have heq : afterAct s e old d gone =
      limitNotices (((statusPlan old (recompute d) gone).foldl (statusRound (recompute d)) (s, [])).1.setEntry e
        ((recompute d).withSubs ((statusPlan old (recompute d) gone).foldl (statusRound (recompute d)) (s, [])).2)) e
        ((recompute d).withSubs ((statusPlan old (recompute d) gone).foldl (statusRound (recompute d)) (s, [])).2) old := by
    cases gone <;> rfl
  obtain ⟨hacts, bs, hfind, hbs⟩ := limitNotices_stands (((statusPlan old (recompute d) gone).foldl (statusRound (recompute d)) (s, [])).1.setEntry e
        ((recompute d).withSubs ((statusPlan old (recompute d) gone).foldl (statusRound (recompute d)) (s, [])).2)) e
        ((recompute d).withSubs ((statusPlan old (recompute d) gone).foldl (statusRound (recompute d)) (s, [])).2) old
  rw [heq]
  exact ⟨(ht.acts.trans (setEntry_acts ..)).trans hacts, bs, hfind, hbs.trans hb⟩

/-! ### Shares (R298) -/

/-- What tells the subscriptions of an entry apart (R297). -/
def Subscription.who (b : Subscription) : Nat × Nat := (b.queue, b.sub)

/-- What does not depend on the counts of what has been written is the same for subscriptions that agree otherwise. -/
theorem map_of_body {α : Type} (f : Subscription → α) (hf : ∀ b, f b.body = f b) {l m : List Subscription}
    (h : l.map Subscription.body = m.map Subscription.body) : l.map f = m.map f := by
  have hcomp : f ∘ Subscription.body = f := funext hf
  have hmap := congrArg (List.map f) h
  rwa [List.map_map, List.map_map, hcomp] at hmap

theorem length_sharesOf (cost n : Nat) : (sharesOf cost n).length = n := by simp [sharesOf]

theorem recompute_computed (d : DirEntry) : (recompute d).subs.map (·.computed) = sharesOf d.cost d.subs.length := by
  simp only [recompute, List.map_map]
  exact List.map_snd_zip (by rw [length_sharesOf])

/-- A property of subscriptions that shares do not change. -/
theorem map_recompute {α : Type} (d : DirEntry) (f : Subscription → α) (hf : ∀ b n, f { b with computed := n } = f b) :
    (recompute d).subs.map f = d.subs.map f := by
  simp only [recompute, List.map_map]
  have hcomp : (f ∘ fun x : Subscription × Nat => { x.1 with computed := x.2 }) = f ∘ Prod.fst := funext fun x => hf x.1 x.2
  calc _ = (d.subs.zip (sharesOf d.cost d.subs.length)).map (f ∘ Prod.fst) := by rw [← hcomp]
    _ = ((d.subs.zip (sharesOf d.cost d.subs.length)).map Prod.fst).map f := by rw [List.map_map]
    _ = _ := by rw [List.map_fst_zip (by rw [length_sharesOf])]

theorem recompute_who (d : DirEntry) : (recompute d).subs.map Subscription.who = d.subs.map Subscription.who := map_recompute d _ fun _ _ => rfl

/-! ## Answers (R239, R243) -/

/-- The request is answered with `v` at core `g`. -/
def Answers (s t : State) (id : Nat) (r : CommonsReq) (g : Nat) (v : Word) : Prop :=
  t.commonsReqs = Table.del s.commonsReqs id ∧ ∀ q ∈ (t.core g).reqs, q.id = r.reqId → q.data = some (leBytes 8 v.toNat)

theorem core_updMember {s : State} {l r : Nat} {x : Launch} (hx : s.launch? l = some x) (h1 : x.state ≠ .saved) (h2 : x.state ≠ .ended)
    (hr : r < x.cores.length) (u : Core → Core) : (updMember s l r u).core (x.cores.getD r 0) = u (s.core (x.cores.getD r 0)) := by
  have hget : x.cores[r]? = some (x.cores.getD r 0) := by
    rw [List.getD_eq_getElem _ _ hr, List.getElem?_eq_getElem hr]
  simp only [updMember, hx, h1, h2, if_false, hget]
  rw [core_updCore, if_pos rfl]

theorem updMember_placed {s : State} {l r : Nat} {x : Launch} (hx : s.launch? l = some x) (h1 : x.state ≠ .saved) (h2 : x.state ≠ .ended)
    (hr : r < x.cores.length) (u : Core → Core) : updMember s l r u = s.updCore (x.cores.getD r 0) u := by
  have hget : x.cores[r]? = some (x.cores.getD r 0) := by
    rw [List.getD_eq_getElem _ _ hr, List.getElem?_eq_getElem hr]
  simp only [updMember, hx, h1, h2, if_false, hget]

section
variable {s u : State} {id k : Nat} {r : CommonsReq} {x : Launch} (hk : r.rank = some k) (hx : u.launch? r.launch = some x)
  (h1 : x.state ≠ .saved) (h2 : x.state ≠ .ended) (hr : k < x.cores.length)
include hk

theorem answer_eq (v : Word) :
    answer u id r v = giveMember { u with commonsReqs := u.commonsReqs.del id } r.launch k r.reqId (leBytes 8 v.toNat) := by
  simp only [answer, hk]

theorem answer_frame (v : Word) : (answer u id r v).directory = u.directory ∧ (answer u id r v).mem = u.mem := by
  obtain ⟨cs, ls, ps, h⟩ := giveMember_frame { u with commonsReqs := u.commonsReqs.del id } r.launch k r.reqId (leBytes 8 v.toNat)
  rw [answer_eq hk, h]
  exact ⟨rfl, rfl⟩

include hx h1 h2 hr

theorem answers_answer (v : Word) : Answers u (answer u id r v) id r (x.cores.getD k 0) v := by
  obtain ⟨cs, ls, ps, h⟩ := giveMember_frame { u with commonsReqs := u.commonsReqs.del id } r.launch k r.reqId (leBytes 8 v.toNat)
  refine ⟨by rw [answer_eq hk, h], ?_⟩
  rw [answer_eq hk]
  exact giveMember_data (s := { u with commonsReqs := u.commonsReqs.del id }) hx h1 h2 hr r.reqId _

theorem core_answer (v : Word) : ∃ qs rg, (answer u id r v).core (x.cores.getD k 0) =
    { u.core (x.cores.getD k 0) with reqs := qs, region := rg } := by
  rw [answer_eq hk]
  unfold giveMember
  dsimp only
  rw [core_updMemberBoth (s := { u with commonsReqs := u.commonsReqs.del id }) hx h1 h2 hr]
  exact ⟨_, _, rfl⟩

/-- The request is answered with `v`, at once or once the writes of the act have performed. -/
theorem owes_answerAfter (hreqs : u.commonsReqs = s.commonsReqs) (first : Nat) (v : Word) :
    Answers s (answerAfter first u id r v) id r (x.cores.getD k 0) v ∨
      ∃ ws, ws ≠ [] ∧ (answerAfter first u id r v).commonsReqs = Table.put s.commonsReqs id { r with result := some v, waits := ws } := by
  unfold answerAfter
  split
  · obtain ⟨hdel, hdata⟩ := answers_answer hk hx h1 h2 hr (id := id) v
    exact Or.inl ⟨by rw [hdel, hreqs], hdata⟩
  · next ws hne =>
    exact Or.inr ⟨writesFrom u first, fun h => hne h, by rw [← hreqs]⟩

omit hx h1 h2 hr in
theorem directory_answerAfter (first : Nat) (v : Word) : (answerAfter first u id r v).directory = u.directory := by
  unfold answerAfter
  split
  · exact (answer_frame hk v).1
  · rfl

omit hr in
theorem requester_eq : requester u r = u.core (x.cores.getD k 0) := by
  simp only [requester, memberCore, hx, hk, h1, h2, if_false, Option.getD_some]

end

theorem actOn_none {s : State} {id : Nat} {r : CommonsReq} (hf : s.commonsReqs.find id = some r) (hn : r.result = none) (act : CommonsReq → State → State) :
    actOn id act s = .next (act r s) := by
  simp only [actOn, hf, hn]

theorem actOn_some {s : State} {id : Nat} {r : CommonsReq} {v : Word} (hf : s.commonsReqs.find id = some r) (hv : r.result = some v)
    (act : CommonsReq → State → State) : actOn id act s = .next (if r.waits = [] then answer s id r v else s) := by
  simp only [actOn, hf, hv, List.isEmpty_iff]

/-! ### SUBSCRIBE (R297) -/

theorem poisonNotices_spec (e : Nat) (ts : List Nat) (s : State) (b : Subscription) :
    Tells e s (poisonNotices s b ts).1 ∧ (poisonNotices s b ts).2.body = b.body := by
  induction ts generalizing s b with
  | nil => exact ⟨.refl e s, rfl⟩
  | cons t ts ih =>
    obtain ⟨ht, hb⟩ := writeNotice_spec e s b 3 0 t
    obtain ⟨ht', hb'⟩ := ih (writeNotice s b 3 0 t).1 (writeNotice s b 3 0 t).2
    exact ⟨ht.trans ht', hb'.trans hb⟩

/-- The entry of a new subscription, once its act has been written and its notices have been given. -/
theorem subscribed_spec (s : State) (e : Nat) (d d1 : DirEntry) (b : Subscription) (hsubs : d1.subs = d.subs ++ [b]) :
    let s1 := afterAct s e d.subs d1 none
    let d2 := (s1.directory.find e).getD d1
    let p := poisonNotices s1 (d2.subs.getLastD b) d2.poisoned.reverse
    let s3 := p.1.setEntry e { d2 with subs := d2.subs.dropLast ++ [p.2] }
    Acts e s s3 ∧ ∃ bs, s3.directory.find e = some ((recompute d1).withSubs (bs ++ [p.2])) ∧
      (bs ++ [p.2]).map Subscription.body = (recompute d1).subs.map Subscription.body := by
  intro s1 d2 p s3
  obtain ⟨hacts, bs, hfind, hbs⟩ := afterAct_stands s e d.subs d1 none (by
    simp only [statusPlan, List.filter_map, List.map_map, Function.comp_def, decide_true, List.filter_true])
  have hd2 : d2 = (recompute d1).withSubs bs := by
    show (s1.directory.find e).getD d1 = _
    rw [hfind]
    rfl
  have hlen : bs.length = d.subs.length + 1 := by
    have h1 := congrArg List.length hbs
    have h2 := congrArg List.length (map_recompute d1 (fun _ => ()) fun _ _ => rfl)
    simp only [List.length_map, hsubs, List.length_append, List.length_singleton] at h1 h2
    rw [h1, h2]
  obtain ⟨init, last, rfl⟩ : ∃ init last, bs = init ++ [last] :=
    ⟨bs.dropLast, bs.getLast (by rintro rfl; cases hlen), (List.dropLast_append_getLast _).symm⟩
  have hlast : d2.subs.getLastD b = last := by rw [hd2]; exact List.getLastD_concat ..
  have hinit : d2.subs.dropLast = init := by rw [hd2]; exact List.dropLast_concat
  obtain ⟨htells, hbody⟩ := poisonNotices_spec e d2.poisoned.reverse s1 (d2.subs.getLastD b)
  refine ⟨hacts.trans (htells.acts.trans (setEntry_acts ..)), init, ?_, ?_⟩
  · show Table.find (Table.put p.1.directory e _) e = _
    rw [Table.find_put_self, hinit, hd2]
    rfl
  · rw [← hbs, List.map_append, List.map_append, List.map_singleton, List.map_singleton, hbody, hlast]

/-! ### LAPSE (R297, R298) -/

/-- The subscription of a queue and a number in a list. -/
def lookSub (l : List Subscription) (w : Nat × Nat) : Option Subscription := l.find? fun b => b.queue == w.1 && b.sub == w.2

theorem lookSub_mem {l : List Subscription} (hn : (l.map Subscription.who).Nodup) {b : Subscription} (hb : b ∈ l) : lookSub l b.who = some b := by
  induction l with
  | nil => cases hb
  | cons a l ih =>
    obtain ⟨ha, hn'⟩ := List.nodup_cons.mp hn
    rcases List.mem_cons.mp hb with rfl | hb
    · exact List.find?_cons_of_pos (by simp [Subscription.who])
    · rw [lookSub, List.find?_cons_of_neg]
      · exact ih hn' hb
      · intro h
        simp only [Bool.and_eq_true, beq_iff_eq] at h
        exact ha (List.mem_map.mpr ⟨b, hb, (Prod.ext h.1 h.2).symm⟩)

/-- Subscriptions looked up by their numbers are those of the list. -/
theorem map_lookSub {l m : List Subscription} (hw : l.map Subscription.who = m.map Subscription.who) (hn : (l.map Subscription.who).Nodup) :
    m.map (fun o => (lookSub l o.who).getD o) = l := by
  apply List.map_injective_iff.mpr (Option.some_injective _)
  have hsome : ∀ o ∈ m, some ((lookSub l o.who).getD o) = lookSub l o.who := fun o ho => by
    have ho' : o.who ∈ l.map Subscription.who := hw ▸ List.mem_map_of_mem ho
    obtain ⟨a, ha, haw⟩ := List.mem_map.mp ho'
    rw [← haw, lookSub_mem hn ha, Option.getD_some]
  calc (m.map fun o => (lookSub l o.who).getD o).map some = (m.map Subscription.who).map (lookSub l) := by
        rw [List.map_map, List.map_map]
        exact List.map_congr_left hsome
    _ = (l.map Subscription.who).map (lookSub l) := by rw [hw]
    _ = l.map some := by
        rw [List.map_map]
        exact List.map_congr_left fun a ha => lookSub_mem hn ha

/-- The subscriptions that stay when one lapses. -/
def staySubs (l : List Subscription) (b : Subscription) : List Subscription := l.filter fun o => !(o.queue == b.queue && o.sub == b.sub)

theorem map_who_staySubs (l : List Subscription) (b : Subscription) : (staySubs l b).map Subscription.who = (l.map Subscription.who).filter (· != b.who) := by
  rw [List.filter_map, staySubs]
  congr 1

theorem length_staySubs {l : List Subscription} (hn : (l.map Subscription.who).Nodup) {b : Subscription} (hb : b ∈ l) :
    (staySubs l b).length = l.length - 1 := by
  have h := congrArg List.length (map_who_staySubs l b)
  rw [← hn.erase_eq_filter, List.length_erase_of_mem (List.mem_map_of_mem hb), List.length_map, List.length_map] at h
  exact h

theorem statusPlan_lapsed {l : List Subscription} (hn : (l.map Subscription.who).Nodup) (b : Subscription) {d : DirEntry} (hd : d.subs = staySubs l b) :
    ((statusPlan l (recompute d) (some b)).filter (·.2 = 0)).map (·.1.body) = (recompute d).subs.map Subscription.body := by
  have hw : (recompute d).subs.map Subscription.who = (staySubs l b).map Subscription.who := by rw [recompute_who, hd]
  have hnodup : ((recompute d).subs.map Subscription.who).Nodup := by rw [hw, map_who_staySubs]; exact hn.filter _
  rw [← congrArg (List.map Subscription.body) (map_lookSub hw hnodup), statusPlan]
  generalize (recompute d).subs = m
  clear hn hd hw hnodup
  induction l with
  | nil => rfl
  | cons o l ih =>
    by_cases ho : o.queue = b.queue ∧ o.sub = b.sub
    · have hstay : staySubs (o :: l) b = staySubs l b := List.filter_cons_of_neg (by simp [ho.1, ho.2])
      rw [hstay, ← ih, List.map_cons, List.filter_cons_of_neg (by simp [ho.1, ho.2])]
    · have hstay : staySubs (o :: l) b = o :: staySubs l b := List.filter_cons_of_pos (by simpa [imp_iff_not_or] using ho)
      have hround : (decide (o.queue = b.queue) && decide (o.sub = b.sub)) = false := by simpa [imp_iff_not_or] using ho
      rw [hstay, List.map_cons, hround, List.filter_cons_of_pos (by simp), List.map_cons, ih]
      rfl

theorem lapsed_spec (s : State) (e : Nat) (d d1 : DirEntry) (b : Subscription) (hn : (d.subs.map Subscription.who).Nodup) (hb : b ∈ d.subs)
    (hsubs : d1.subs = staySubs d.subs b) (hcost : d1.cost = d.cost) :
    Acts e s (afterAct s e d.subs d1 (some b)) ∧ ∃ d', (afterAct s e d.subs d1 (some b)).directory.find e = some d' ∧
      d'.subs.map Subscription.who = (d.subs.map Subscription.who).filter (· != b.who) ∧
      d'.subs.map (·.computed) = sharesOf d.cost (d.subs.length - 1) := by
  obtain ⟨hacts, bs, hfind, hbs⟩ := afterAct_stands s e d.subs d1 (some b) (statusPlan_lapsed hn b hsubs)
  refine ⟨hacts, _, hfind, ?_, ?_⟩
  · exact (map_of_body _ (fun _ => rfl) hbs).trans ((recompute_who d1).trans (by rw [hsubs, map_who_staySubs]))
  · exact (map_of_body _ (fun _ => rfl) hbs).trans ((recompute_computed d1).trans (by rw [hsubs, hcost, length_staySubs hn hb]))

/-- A launch with its saved cores changed. -/
def Launch.mapSaved (f : Core → Core) (x : Launch) : Launch := { x with savedCores := x.savedCores.map f }

theorem launch_mapCores (s : State) (f : Core → Core) (l : Nat) : (mapCores s f).launch? l = (s.launch? l).map (Launch.mapSaved f) :=
  Table.find_map (Launch.mapSaved f) s.launches l

theorem core_mapCores (s : State) {f : Core → Core} (hf : f Core.reset = Core.reset) (g : Nat) : (mapCores s f).core g = f (s.core g) :=
  Table.get_map hf s.cores g

/-! ### The acts on a request of a core -/

section
variable {s : State} {id k : Nat} {r : CommonsReq} {x : Launch} (hf : s.commonsReqs.find id = some r) (hk : r.rank = some k)
  (hx : s.launch? r.launch = some x) (h1 : x.state ≠ .saved) (h2 : x.state ≠ .ended) (hr : k < x.cores.length)

/-- The subscription that a SUBSCRIBE makes, before its shares are computed. -/
def newSub (s : State) (r : CommonsReq) (g : SbfRange) : Subscription :=
  let w := fun i => r.block.getD i 0
  { queue := r.queue, func := r.func, sub := lowestSub (subsOfQueue s r.queue), limit := (bits (w 2) 0 32).toNat, hard := (w 2).getLsbD 32
    computed := 0, inForce := 0, pages := g.pages, off := g.off, va := g.va, ipages := g.ipages, ext := g.ext, recNum := (bits (w 3) 0 5).toNat
    notice := match r.rank, r.flag with | some k, some f => some (r.launch, k, f) | _, _ => none
    seqNo := 0, capPaid := 0, fetPaid := 0, nprod := 0, stopped := false }

/-- An entry with a new subscription. -/
def subscribedEntry (d : DirEntry) (b : Subscription) : DirEntry :=
  { d with state := 1, lastLeft := none, unheldAt := none, subs := d.subs ++ [b] }

include hk in
theorem block_ok_iff : (r.rank.isNone || (decide (bits (r.block.getD 2 0) 33 31 = 0) && decide (bits (r.block.getD 3 0) 5 59 = 0))) = true ↔
    bits (r.block.getD 2 0) 33 31 = 0 ∧ bits (r.block.getD 3 0) 5 59 = 0 := by
  simp [hk]

include hk in
theorem subscribeAct_badBlock (h : ¬(bits (r.block.getD 2 0) 33 31 = 0 ∧ bits (r.block.getD 3 0) 5 59 = 0)) :
    subscribeAct id r s = refuse s id r 6 := by
  have hb := Bool.eq_false_iff.mpr fun hb => h ((block_ok_iff hk).mp hb)
  simp only [subscribeAct]
  rw [if_pos (by rw [hb]; rfl)]

include hk in
theorem subscribeAct_block (h : bits (r.block.getD 2 0) 33 31 = 0 ∧ bits (r.block.getD 3 0) 5 59 = 0) :
    ¬((!(r.rank.isNone || (decide (bits (r.block.getD 2 0) 33 31 = 0) && decide (bits (r.block.getD 3 0) 5 59 = 0)))) = true) := by
  rw [(block_ok_iff hk).mpr h]
  exact Bool.false_ne_true

include hk in
theorem subscribeAct_noKey (h : bits (r.block.getD 2 0) 33 31 = 0 ∧ bits (r.block.getD 3 0) 5 59 = 0)
    (hkey : entryOfKey s (r.block.getD 0 0) (r.block.getD 1 0) = none) : subscribeAct id r s = refuse s id r 1 := by
  simp only [subscribeAct]
  rw [if_neg (subscribeAct_block hk h), hkey]

section
variable (h : bits (r.block.getD 2 0) 33 31 = 0 ∧ bits (r.block.getD 3 0) 5 59 = 0) {e : Nat} {d : DirEntry}
  (hkey : entryOfKey s (r.block.getD 0 0) (r.block.getD 1 0) = some (e, d))
include hk h hkey

theorem subscribeAct_noRight (hright : d.rights.getLsbD r.func = false) : subscribeAct id r s = refuse s id r 2 := by
  simp only [subscribeAct]
  rw [if_neg (subscribeAct_block hk h), hkey]
  dsimp only
  rw [hright]
  exact if_pos rfl

include hx h1 h2 in
theorem subscribeAct_ok (hright : d.rights.getLsbD r.func = true) (hnew : ∀ b ∈ d.subs, b.queue ≠ r.queue) (hroom : d.subs.length < 256)
    (hused : (subsOfQueue s r.queue).length < 256) {g : SbfRange}
    (hrange : sbfOfCore s (s.core (x.cores.getD k 0)) (bits (r.block.getD 3 0) 0 5).toNat = some g) :
    subscribeAct id r s =
      let s1 := afterAct s e d.subs (subscribedEntry d (newSub s r g)) none
      let d2 := (s1.directory.find e).getD (subscribedEntry d (newSub s r g))
      let p := poisonNotices s1 (d2.subs.getLastD (newSub s r g)) d2.poisoned.reverse
      answerAfter s.nextId (p.1.setEntry e { d2 with subs := d2.subs.dropLast ++ [p.2] }) id r (shareWord p.2.computed p.2.sub) := by
  have hany : ¬(d.subs.any fun b => b.queue == r.queue) = true := by
    simp only [List.any_eq_true, beq_iff_eq, not_exists, not_and]
    exact hnew
  have hfull : ¬(decide (256 ≤ d.subs.length) || decide (256 ≤ (subsOfQueue s r.queue).length)) = true := by
    simp only [Bool.or_eq_true, decide_eq_true_eq]
    omega
  have hheld : rangeHeld s r = none := if_neg (by simp [hk])
  simp only [subscribeAct]
  rw [if_neg (subscribeAct_block hk h), hkey]
  dsimp only
  rw [hright, if_neg (by decide), if_neg hany, if_neg hfull, hheld]
  dsimp only
  simp only [hk, requester_eq hk hx h1 h2, hrange, newSub, subscribedEntry] <;> rfl

end

include hf hk hx h1 h2 hr

theorem exec_subscribeAct_ok (hn : r.result = none) (h : bits (r.block.getD 2 0) 33 31 = 0 ∧ bits (r.block.getD 3 0) 5 59 = 0) {e : Nat}
    {d : DirEntry} (hkey : entryOfKey s (r.block.getD 0 0) (r.block.getD 1 0) = some (e, d)) (hright : d.rights.getLsbD r.func = true)
    (hnew : ∀ b ∈ d.subs, b.queue ≠ r.queue) (hroom : d.subs.length < 256) (hused : (subsOfQueue s r.queue).length < 256)
    (hrange : (sbfOfCore s (s.core (x.cores.getD k 0)) (bits (r.block.getD 3 0) 0 5).toNat).isSome) : ∃ t d',
      exec (.subscribeAct id) s = .next t ∧ t.directory.find e = some d' ∧ d'.state = 1 ∧
      d'.subs.map Subscription.who = d.subs.map Subscription.who ++ [(r.queue, lowestSub (subsOfQueue s r.queue))] ∧
      d'.subs.map (·.computed) = sharesOf d.cost (d.subs.length + 1) ∧
      ∃ b, d'.subs.getLast? = some b ∧ b.func = r.func ∧ b.limit = (bits (r.block.getD 2 0) 0 32).toNat ∧
        b.hard = (r.block.getD 2 0).getLsbD 32 ∧
        (Answers s t id r (x.cores.getD k 0) (shareWord b.computed (lowestSub (subsOfQueue s r.queue))) ∨
          ∃ ws, ws ≠ [] ∧ t.commonsReqs = Table.put s.commonsReqs id
            { r with result := some (shareWord b.computed (lowestSub (subsOfQueue s r.queue))), waits := ws }) := by
  obtain ⟨g, hg⟩ := Option.isSome_iff_exists.mp hrange
  obtain ⟨hacts, bs, hfind, hbody⟩ := subscribed_spec s e d (subscribedEntry d (newSub s r g)) (newSub s r g) rfl
  have hexec : exec (.subscribeAct id) s = .next (subscribeAct id r s) := actOn_none hf hn (subscribeAct id)
  rw [subscribeAct_ok hk hx h1 h2 h hkey hright hnew hroom hused hg] at hexec
  dsimp only at hexec hfind hbody hacts
  generalize hs1 : afterAct s e d.subs (subscribedEntry d (newSub s r g)) none = s1 at hexec hfind hbody hacts
  generalize hd2 : (s1.directory.find e).getD (subscribedEntry d (newSub s r g)) = d2 at hexec hfind hbody hacts
  generalize hp : poisonNotices s1 (d2.subs.getLastD (newSub s r g)) d2.poisoned.reverse = p at hexec hfind hbody hacts
  generalize hs3 : p.1.setEntry e { d2 with subs := d2.subs.dropLast ++ [p.2] } = s3 at hexec hfind hbody hacts
  have hlast : ∀ {α : Type} (f : Subscription → α), (∀ b, f b.body = f b) → (∀ b n, f { b with computed := n } = f b) →
      f p.2 = f (newSub s r g) := fun f hb hc => by
    have hmap := (map_of_body f hb hbody).trans (map_recompute _ f hc)
    rw [List.map_append, subscribedEntry, List.map_append] at hmap
    exact List.singleton_inj.mp (List.append_inj_right' hmap rfl)
  have hsub : p.2.sub = lowestSub (subsOfQueue s r.queue) := hlast Subscription.sub (fun _ => rfl) fun _ _ => rfl
  rw [hsub] at hexec
  refine ⟨_, _, hexec, (congrArg (Table.find · e) (directory_answerAfter hk ..)).trans hfind, rfl, ?_, ?_, p.2, List.getLast?_concat .., ?_, ?_, ?_, ?_⟩
  · exact ((map_of_body _ (fun _ => rfl) hbody).trans (recompute_who _)).trans List.map_append
  · exact ((map_of_body _ (fun _ => rfl) hbody).trans (recompute_computed _)).trans
      (congrArg (sharesOf d.cost) (List.length_append.trans rfl))
  · exact hlast Subscription.func (fun _ => rfl) fun _ _ => rfl
  · exact hlast Subscription.limit (fun _ => rfl) fun _ _ => rfl
  · exact hlast Subscription.hard (fun _ => rfl) fun _ _ => rfl
  · exact owes_answerAfter hk (hacts.launch _ _ hx h1) h1 h2 hr hacts.reqs_eq s.nextId _

omit hx h1 h2 hr hk in
/-- A number that no subscription of the queue has is refused. -/
theorem exec_acts_noSub (hn : r.result = none) (hs : r.sub < 256) (hno : entryOfSub s r.queue r.sub = none) :
    exec (.lapseAct id) s = .next (refuse s id r 1) ∧ exec (.alightAct id) s = .next (refuse s id r 1) ∧
      exec (.cstatAct id) s = .next (refuse s id r 1) := by
  have hlook : (if 256 ≤ r.sub then none else entryOfSub s r.queue r.sub) = none := by rw [if_neg (Nat.not_le.mpr hs), hno]
  refine ⟨(actOn_none hf hn _).trans (congrArg _ ?_), (actOn_none hf hn _).trans (congrArg _ ?_), (actOn_none hf hn _).trans (congrArg _ ?_)⟩
  · simp only [lapseAct, hlook]
  · simp only [alightAct, hlook]
  · simp only [cstatAct, hlook]

variable (hn : r.result = none) {e : Nat} {d : DirEntry}
include hn

section
variable (hs : r.sub < 256) (hsub : entryOfSub s r.queue r.sub = some (e, d))
include hs hsub

omit hf hk hx h1 h2 hr hn in
theorem subOf_eq : (if 256 ≤ r.sub then none else entryOfSub s r.queue r.sub) = some (e, d) := by rw [if_neg (Nat.not_le.mpr hs), hsub]

theorem exec_lapseAct {b : Subscription} (hnodup : (d.subs.map Subscription.who).Nodup)
    (hb : d.subs.find? (fun b => b.queue == r.queue && b.sub == r.sub) = some b) : ∃ t d', exec (.lapseAct id) s = .next t ∧
      t.directory.find e = some d' ∧ d'.subs.map Subscription.who = (d.subs.map Subscription.who).filter (· != (r.queue, r.sub)) ∧
      d'.subs.map (·.computed) = sharesOf d.cost (d.subs.length - 1) ∧
      (Answers s t id r (x.cores.getD k 0) (shareWord b.computed b.sub) ∨
        ∃ ws, ws ≠ [] ∧ t.commonsReqs = Table.put s.commonsReqs id { r with result := some (shareWord b.computed b.sub), waits := ws }) := by
  have hwho : b.who = (r.queue, r.sub) := by
    have hbw := List.find?_some hb
    simp only [Bool.and_eq_true, beq_iff_eq] at hbw
    exact Prod.ext hbw.1 hbw.2
  let s1 := endQueueBoardings s e d r.queue
  let d1 := noteLeft s1 { d with subs := staySubs d.subs b }
  have hd1 : d1.subs = staySubs d.subs b ∧ d1.cost = d.cost := by
    show (noteLeft s1 { d with subs := staySubs d.subs b }).subs = _ ∧ (noteLeft s1 { d with subs := staySubs d.subs b }).cost = _
    unfold noteLeft
    split_ifs <;> exact ⟨rfl, rfl⟩
  obtain ⟨hacts, d', hfind, hids, hshares⟩ := lapsed_spec s1 e d d1 b hnodup (List.mem_of_find?_eq_some hb) hd1.1 hd1.2
  have hexec : exec (.lapseAct id) s =
      .next (answerAfter s.nextId (afterAct s1 e d.subs d1 (some b)) id r (shareWord b.computed b.sub)) := by
    refine (actOn_none hf hn _).trans (congrArg _ ?_)
    simp only [lapseAct, subOf_eq hs hsub, hb]
    rfl
  have hlaunch : s1.launch? r.launch = some (x.mapSaved (endBoarding e (fetchedBelow s d) fun b => b.queue == r.queue)) :=
    (launch_mapCores ..).trans (by rw [hx]; rfl)
  refine ⟨_, d', hexec, (congrArg (Table.find · e) (directory_answerAfter hk ..)).trans hfind, hwho ▸ hids, hshares, ?_⟩
  exact owes_answerAfter hk (hacts.launch _ _ hlaunch h1) h1 h2 hr hacts.reqs_eq s.nextId _

omit hr in
theorem exec_cstatAct {b : Subscription} (hb : d.subs.find? (fun b => b.queue == r.queue && b.sub == r.sub) = some b) (hflag : r.flag = none) :
    exec (.cstatAct id) s = .next (answer s id r (0#4 ++ (BitVec.ofNat 2 (tierField d) ++ BitVec.ofBool d.run ++
      BitVec.ofBool (!d.poisoned.isEmpty) ++ BitVec.ofNat 12 (Nat.min (tilesAhead (s.core (x.cores.getD k 0)) e) 4095) ++ 0#4 ++
      BitVec.ofNat 32 b.computed ++ BitVec.ofNat 8 b.sub))) := by
  refine (actOn_none hf hn _).trans (congrArg _ ?_)
  simp only [cstatAct, subOf_eq hs hsub, hb, hk, hflag, requester_eq hk hx h1 h2]
  rfl

theorem exec_alightAct {b : Boarding}
    (hb : (s.core (x.cores.getD k 0)).boardings.find? (fun b => b.stop.isNone && b.entry == e && b.sub == r.sub) = some b) :
    exec (.alightAct id) s = .next (answer (s.updCore (x.cores.getD k 0) (endBoarding e (fetchedBelow s d) fun b => b.sub == r.sub)) id r
      (0#4 ++ (BitVec.ofNat 12 (lastTile { b with stop := some (Nat.max b.g0 (fetchedBelow s d)) }) ++ 0#40 ++ BitVec.ofNat 8 r.sub))) := by
  refine (actOn_none hf hn _).trans (congrArg _ ?_)
  simp only [alightAct, subOf_eq hs hsub, requester_eq hk hx h1 h2, hb, hk, Option.getD_some, updMember_placed hx h1 h2 hr]
  rfl

end

section
variable (hsub : entryOfSub s r.queue (bits (r.block.getD 0 0) 0 8).toNat = some (e, d))
  (hblock : boardBlockOk (r.block.getD 0 0) (r.block.getD 1 0) = true)
include hsub hblock

omit hr in
theorem exec_boardAct_boarded (h : ∃ b ∈ (s.core (x.cores.getD k 0)).boardings, b.stop = none) :
    exec (.boardAct id) s = .next (refuse s id r 4) := by
  have hany : ((s.core (x.cores.getD k 0)).boardings.any fun b => b.stop.isNone) = true := by
    simpa only [List.any_eq_true, Option.isNone_iff_eq_none] using h
  refine (actOn_none hf hn _).trans (congrArg _ ?_)
  simp only [boardAct, hsub, hblock, requester_eq hk hx h1 h2, hany]
  rfl

variable (hfree : ∀ b ∈ (s.core (x.cores.getD k 0)).boardings, b.stop ≠ none)
include hfree

omit hf hk hx h1 h2 hr hn hsub hblock in
theorem not_boarded : ((s.core (x.cores.getD k 0)).boardings.any fun b => b.stop.isNone) = false := by
  rw [List.any_eq_false]
  intro b hb h
  exact hfree b hb (Option.isNone_iff_eq_none.mp h)

omit hr in
theorem exec_boardAct_stopped (hrun : d.run = false) : exec (.boardAct id) s = .next (refuse s id r 5) := by
  refine (actOn_none hf hn _).trans (congrArg _ ?_)
  simp only [boardAct, hsub, hblock, requester_eq hk hx h1 h2, not_boarded hfree, hrun]
  rfl

/-- The boarding that a BOARD makes. -/
def newBoarding (s : State) (c : Core) (r : CommonsReq) (e : Nat) (d : DirEntry) : Boarding :=
  let w0 := r.block.getD 0 0
  let w1 := r.block.getD 1 0
  let base := c.cycle + (d.fetchAt (firstSeq d s.now) + 1024 - s.now)
  let rec_ := fun n => CopyRec.mk n (c.bfGet n) (c.hGet (c.bfGet n).hnum)
  { entry := e, sub := (bits w0 0 8).toNat, queue := r.queue, g0 := firstSeq d s.now, k0 := firstSeq d s.now % d.nt, stop := none
    base := if landingOf c r.reqId < base then base else base + 2 ^ 32
    period := d.period, nbuf := (bits w0 9 4).toNat + 1, wb := w0.getLsbD 8, line := (bits w0 14 15).toNat
    doff := (bits w1 0 32).toNat, hoff := (bits w1 32 32).toNat
    dst := if w0.getLsbD 8 then none else some (rec_ (bits w0 29 5).toNat), hdr := rec_ (bits w0 34 5).toNat
    flag := r.flag, complete := [], pending := [] }

theorem exec_boardAct_ok (hrun : d.run = true)
    (hslots : boardSlotsOk s (s.core (x.cores.getD k 0)) d (r.block.getD 0 0) (r.block.getD 1 0) = true) : exec (.boardAct id) s =
      .next (answer (s.updCore (x.cores.getD k 0) fun c => { c with boardings := newBoarding s (s.core (x.cores.getD k 0)) r e d :: c.boardings }) id r
        (0#4 ++ (BitVec.ofNat 12 (firstSeq d s.now % d.nt) ++ BitVec.ofNat 16 d.period ++
          BitVec.ofNat 32 ((s.core (x.cores.getD k 0)).cycle + (d.fetchAt (firstSeq d s.now) + 1024 - s.now))))) := by
  refine (actOn_none hf hn _).trans (congrArg _ ?_)
  simp only [boardAct, hsub, hblock, requester_eq hk hx h1 h2, not_boarded hfree, hrun, hslots, hk, Option.getD_some, updMember_placed hx h1 h2 hr]
  rfl

end

end

/-- Settles O44: an act writes the status blocks and the limit notices of its entry, which leave the entry but for the counts of what has been
written, and the request is answered once those writes have performed. -/
theorem commonsActs : Obligations.CommonsActs := by
  intro s id k r x hf hk hx h1 h2 hr g c w answers owes who used
  have hans : ∀ {u : State} (v : Word), u.commonsReqs = s.commonsReqs → u.launch? r.launch = some x → answers (answer u id r v) v := fun v hu hux => by
    obtain ⟨hdel, hdata⟩ := answers_answer hk hux h1 h2 hr (id := id) v
    exact ⟨by rw [hdel, hu], hdata⟩
  refine ⟨fun res => ⟨hans _ rfl hx, (answer_frame hk _).1, (answer_frame hk _).2, ?_⟩, fun v hv => ⟨hans v rfl hx, ?_⟩, fun hn => ?_⟩
  · obtain ⟨qs, rg, hcore⟩ := core_answer hk hx h1 h2 hr (id := id) (resWord res 0)
    show SameRegisters _ ((answer s id r (resWord res 0)).core g)
    rw [hcore]
    simp [SameRegisters, c, g]
  · intro i hi
    simp only [List.mem_cons, List.not_mem_nil, or_false] at hi
    rcases hi with rfl | rfl | rfl | rfl | rfl
    all_goals exact actOn_some hf hv _
  · refine ⟨⟨fun hbad => (actOn_none hf hn _).trans (congrArg _ (subscribeAct_badBlock hk hbad)), fun hb2 hb3 => ⟨fun hno =>
      (actOn_none hf hn _).trans (congrArg _ (subscribeAct_noKey hk ⟨hb2, hb3⟩ hno)), fun e d hkey => ⟨fun hright =>
        (actOn_none hf hn _).trans (congrArg _ (subscribeAct_noRight hk ⟨hb2, hb3⟩ hkey hright)), fun hright hnew hroom hused hrange =>
          exec_subscribeAct_ok hf hk hx h1 h2 hr hn ⟨hb2, hb3⟩ hkey hright hnew hroom hused hrange⟩⟩⟩,
      fun hs hno => exec_acts_noSub hf hn hs hno, fun hs e d hsub => ⟨fun b hnodup hb => ⟨?_, fun hflag => ?_⟩, fun b hb => ?_⟩,
      fun e d hsub hblock => ⟨fun hb => exec_boardAct_boarded hf hk hx h1 h2 hn hsub hblock hb, fun hfree =>
        ⟨fun hrun => exec_boardAct_stopped hf hk hx h1 h2 hn hsub hblock hfree hrun, fun hrun hslots => ?_⟩⟩⟩
    · exact exec_lapseAct hf hk hx h1 h2 hr hn hs hsub hnodup hb
    · exact ⟨_, exec_cstatAct hf hk hx h1 h2 hn hs hsub hb hflag, (answer_frame hk _).1, (answer_frame hk _).2, hans _ rfl hx⟩
    · let u := s.updCore g (endBoarding e (fetchedBelow s d) fun b => b.sub == r.sub)
      refine ⟨_, exec_alightAct hf hk hx h1 h2 hr hn hs hsub hb, (answer_frame hk _).1, (answer_frame hk _).2, ?_, hans (u := u) _ rfl hx⟩
      obtain ⟨qs, rg, hcore⟩ := core_answer hk (u := u) hx h1 h2 hr (id := id)
        (0#4 ++ (BitVec.ofNat 12 (lastTile { b with stop := some (Nat.max b.g0 (fetchedBelow s d)) }) ++ 0#40 ++ BitVec.ofNat 8 r.sub))
      have hcore' := congrArg Core.boardings hcore
      refine hcore'.trans ?_
      show (u.core g).boardings = _
      rw [core_updCore, if_pos rfl]
      refine List.map_congr_left fun o _ => ?_
      simp only [Bool.and_eq_true, decide_eq_true_eq, Option.isNone_iff_eq_none, beq_iff_eq, and_assoc]
    · let u := s.updCore g fun c => { c with boardings := newBoarding s (s.core g) r e d :: c.boardings }
      refine ⟨_, newBoarding s (s.core g) r e d, exec_boardAct_ok hf hk hx h1 h2 hr hn hsub hblock hfree hrun hslots, ?_, rfl, rfl, rfl, rfl, rfl, rfl,
        rfl, (answer_frame hk _).1, (answer_frame hk _).2, hans (u := u) _ rfl hx⟩
      obtain ⟨qs, rg, hcore⟩ := core_answer hk (u := u) hx h1 h2 hr (id := id)
        (0#4 ++ (BitVec.ofNat 12 (firstSeq d s.now % d.nt) ++ BitVec.ofNat 16 d.period ++
          BitVec.ofNat 32 ((s.core (x.cores.getD k 0)).cycle + (d.fetchAt (firstSeq d s.now) + 1024 - s.now))))
      have hcore' := congrArg Core.boardings hcore
      refine hcore'.trans ?_
      show (u.core g).boardings = _
      rw [core_updCore, if_pos rfl]

end Sys2Proof.Machine
end

section
/-!
PROOFS. A counterexample on streams, and the boundaries of the directory's periods (R295, R301, R303).
-/
namespace Sys2Proof.Machine

/-! ## A launches table with one number twice -/

/-- Two launches under one number: the first, which the number finds, on core 5 and the second on core 7. Both cores have a boarding that
takes tile 0, which is complete on core 5. -/
def twoLaunches : State :=
  { State.reset with
    launches := [(1, { Tests.syncLaunch with cores := [5] }), (1, { Tests.syncLaunch with cores := [7] })]
    cores := [(5, { Core.reset with boardings := [{ Tests.boarding0 with complete := [0] }] }), (7, { Core.reset with boardings := [Tests.boarding0] })]
    directory := [(3, { Tests.entry0 with staged := [(0, Tests.staged0)] })] }

theorem boarders_twoLaunches : (boarders twoLaunches 3 0).filter (·.1 == 7) = [(7, 1, 0)] := by decide +kernel

theorem exec_slotWrite_twoLaunches : exec (.streamSlotWrite 7 3 0) twoLaunches = .next twoLaunches := by
  show execStreamSlotWrite 7 3 0 twoLaunches = _
  have hfind : twoLaunches.directory.find 3 = some { Tests.entry0 with staged := [(0, Tests.staged0)] } := rfl
  have hstaged : Table.find [(0, Tests.staged0)] 0 = some Tests.staged0 := rfl
  simp only [execStreamSlotWrite, hfind, hstaged]
  have hround : ∀ t m n, startSlot twoLaunches 3 0 t m n (7, 1, 0) = twoLaunches := fun _ _ _ => rfl
  have hread : Tests.staged0.read = true := rfl
  simp only [hread, if_true, boarders_twoLaunches, List.foldl_cons, List.foldl_nil, hround]

/-- Refutes O45: with one number twice in the launches table, `boarders` names the core of the second launch under the number of the first,
and STREAM_SLOT_WRITE looks at the boardings of the first one's core, where the tile is complete: no access is made. -/
theorem not_streamSteps : ¬ Obligations.StreamSteps := by
  unfold Obligations.StreamSteps
  intro h
  obtain ⟨-, -, -, -, -, -, hslot, -⟩ := h twoLaunches 3 0 { Tests.entry0 with staged := [(0, Tests.staged0)] } rfl
  obtain ⟨hfree, -⟩ := hslot 7 1 0 { Tests.syncLaunch with cores := [5] } Tests.boarding0 Tests.staged0 boarders_twoLaunches rfl (by decide) (by decide)
    (by decide +kernel) rfl rfl (by decide) (by decide +kernel)
  obtain ⟨t, a, hexec, -, ha, -⟩ := hfree (by decide +kernel)
  rw [exec_slotWrite_twoLaunches] at hexec
  cases hexec
  cases ha

/-! ## Period boundaries (R295, R301, R303) -/

/-- A step of a boundary that is about entry `e`: it keeps the time, the period, the boundaries that are due, and every other entry. -/
structure Settles (e : Nat) (s t : State) : Prop where
  now : t.now = s.now
  period : t.period = s.period
  agenda : ∀ z k, (z, k, .periodBoundary) ∈ s.agenda → (z, k, .periodBoundary) ∈ t.agenda
  other : ∀ n ≠ e, t.directory.find n = s.directory.find n

theorem Settles.refl (e : Nat) (s : State) : Settles e s s := ⟨rfl, rfl, fun _ _ h => h, fun _ _ => rfl⟩

theorem Settles.trans {e : Nat} {a b c : State} (h1 : Settles e a b) (h2 : Settles e b c) : Settles e a c :=
  ⟨h2.now.trans h1.now, h2.period.trans h1.period, fun z k h => h2.agenda z k (h1.agenda z k h), fun n hn => (h2.other n hn).trans (h1.other n hn)⟩

theorem Settles.foldl {e : Nat} {α : Type} {f : State → α → State} (hf : ∀ s a, Settles e s (f s a)) (l : List α) (s : State) :
    Settles e s (l.foldl f s) := by
  induction l generalizing s with
  | nil => exact .refl e s
  | cons a l ih => exact (hf s a).trans (ih _)

theorem Acts.settles {e : Nat} {s t : State} (h : Acts e s t) : Settles e s t :=
  ⟨h.now_eq, by rw [h.state]; rfl, fun _ _ hm => h.agenda hm, h.other⟩

theorem mapCores_settles (e : Nat) (s : State) (f : Core → Core) : Settles e s (mapCores s f) := ⟨rfl, rfl, fun _ _ h => h, fun _ _ => rfl⟩

theorem setEntry_settles (s : State) (e : Nat) (d : DirEntry) : Settles e s (s.setEntry e d) := (setEntry_acts s e d).settles

theorem forceLapse_settles (s : State) (e : Nat) (b : Subscription) (why : Nat) : Settles e s (forceLapse s e b why) := by
  unfold forceLapse
  split
  · exact .refl e s
  · next d hd =>
    let s1 := endQueueBoardings s e d b.queue
    let d1 := noteLeft s1 { d with subs := d.subs.filter fun o => !(o.queue == b.queue && o.sub == b.sub) }
    have h1 : Settles e s s1 := mapCores_settles e s _
    have h2 := writeStatus_spec e (s1.setEntry e d1) d1 { b with inForce := 0 } 2
    have h3 := writeNotice_spec e (writeStatus (s1.setEntry e d1) d1 { b with inForce := 0 } 2).1
      (writeStatus (s1.setEntry e d1) d1 { b with inForce := 0 } 2).2 2 why b.limit
    exact h1.trans ((setEntry_settles s1 e d1).trans (h2.1.trans h3.1).acts.settles)

theorem boundaryShares_settles (s : State) (e : Nat) : Settles e s (boundaryShares s e) := by
  unfold boundaryShares
  split
  · exact .refl e s
  · next d hd =>
    have hforced := (Settles.foldl (fun st b => forceLapse_settles st e b 2) (d.subs.filter fun b => !d.rights.getLsbD b.func) s).trans
      (Settles.foldl (fun st b => forceLapse_settles st e b 1) (d.subs.filter fun b => d.rights.getLsbD b.func && b.hard && b.limit < b.computed) _)
    refine hforced.trans ?_
    dsimp only
    split
    · exact .refl e _
    · split
      · exact (setEntry_settles ..).trans (limitNotices_stands ..).1.settles
      · refine Settles.trans ?_ (writeStatuses_stands ..).1.settles
        exact (setEntry_settles ..).trans (limitNotices_stands ..).1.settles

/-- What a stream's stop takes from the agenda: what it would still fetch or read. -/
theorem stopStream_eq {s : State} {e : Nat} {d : DirEntry} (hd : s.directory.find e = some d) : ∃ later : Instr → Bool,
    later .periodBoundary = false ∧ (∀ q, later (.streamFetch e q) = true ∧ later (.deepTierReadStart e q) = true) ∧
    stopStream s e = ((endEntryBoardings s e d).undue later).setEntry e
      { d with run := false, nextSeq := fetchedBelow s d, staged := d.staged.filter fun x => x.1 < fetchedBelow s d } := by
  refine ⟨_, ?_, ?_, by unfold stopStream; rw [hd]⟩
  · rfl
  · simp

theorem undue_settles (e : Nat) (s : State) {p : Instr → Bool} (hp : p .periodBoundary = false) : Settles e s (s.undue p) :=
  ⟨rfl, rfl, fun _ _ h => List.mem_filter.mpr ⟨h, by simp [hp]⟩, fun _ _ => rfl⟩

theorem stopStream_settles (s : State) (e : Nat) : Settles e s (stopStream s e) := by
  cases hd : s.directory.find e with
  | none =>
    unfold stopStream
    rw [hd]
    exact .refl e s
  | some d =>
    obtain ⟨later, hkeep, -, heq⟩ := stopStream_eq hd
    rw [heq]
    have hboard : Settles e s (endEntryBoardings s e d) := mapCores_settles e s _
    exact (hboard.trans (undue_settles e _ hkeep)).trans (setEntry_settles ..)

theorem boundarySettle_settles (s : State) (e : Nat) : Settles e s (boundarySettle s e) := by
  unfold boundarySettle
  split
  · exact .refl e s
  · dsimp only
    split
    · split
      · split
        · have hstop := stopStream_settles s e
          split
          · exact hstop.trans (setEntry_settles ..)
          · exact hstop
        · exact .refl e s
      · exact .refl e s
    · split
      · split
        · split
          · exact ((healthEvent_cells ..).acts e).settles.trans (setEntry_settles ..)
          · exact .refl e s
        · exact .refl e s
      · exact .refl e s

theorem boundaryEntry_settles (s : State) (e : Nat) : Settles e s (boundaryEntry s e) := by
  unfold boundaryEntry
  split
  · split
    · exact (boundaryShares_settles ..).trans (boundarySettle_settles ..)
    · exact boundarySettle_settles ..
  · exact .refl e s

/-! ### One entry at a boundary -/

/-- The share of a subscription comes into force. -/
def Subscription.enforced (b : Subscription) : Subscription := { b with inForce := b.computed }

/-- A subscription has paid its share of a period. -/
def Subscription.paid (b : Subscription) : Subscription := { b with capPaid := b.capPaid + b.inForce }

/-- The part of a subscription that a boundary with no forced lapse settles. -/
def Subscription.account (b : Subscription) : Nat × Nat × Nat × Nat × Nat := (b.queue, b.sub, b.computed, b.inForce, b.capPaid)

section
variable {s : State} {e : Nat} {d : DirEntry} (hd : s.directory.find e = some d)
include hd

theorem boundaryShares_find (hok : ∀ b ∈ d.subs, d.rights.getLsbD b.func = true ∧ ¬(b.hard = true ∧ b.limit < b.computed)) :
    ∃ bs, (boundaryShares s e).directory.find e = some { d with subs := bs, capSum := d.capSum + (d.subs.map (·.computed)).sum } ∧
      bs.map Subscription.account = d.subs.map (fun b => (b.queue, b.sub, b.computed, b.computed, b.capPaid + b.computed)) := by
  have hrevoked : (d.subs.filter fun b => !d.rights.getLsbD b.func) = [] :=
    List.filter_eq_nil_iff.mpr fun b hb => by rw [(hok b hb).1]; exact Bool.false_ne_true
  have hhard : (d.subs.filter fun b => d.rights.getLsbD b.func && b.hard && decide (b.limit < b.computed)) = [] :=
    List.filter_eq_nil_iff.mpr fun b hb h => by
      simp only [Bool.and_eq_true, decide_eq_true_eq] at h
      exact (hok b hb).2 ⟨h.1.2, h.2⟩
  let d4 := d.withSubs (d.subs.map Subscription.enforced)
  obtain ⟨-, bs, hfind, hbs⟩ := limitNotices_stands (s.setEntry e d4) e d4 d.subs
  let sum := bs.foldl (fun n b => n + b.inForce) 0
  let d6 : DirEntry := { d with capSum := d.capSum + sum, subs := bs.map Subscription.paid }
  obtain ⟨-, bs', hfind', hbs'⟩ := writeStatuses_stands (limitNotices (s.setEntry e d4) e d4 d.subs) e d6
  have heq : boundaryShares s e = writeStatuses (limitNotices (s.setEntry e d4) e d4 d.subs) e d6 := by
    simp only [boundaryShares, hd, hrevoked, hhard, List.foldl_nil, List.isEmpty_nil, Bool.and_self, if_true]
    have hfind4 : (limitNotices (s.setEntry e { d with subs := d.subs.map fun b => { b with inForce := b.computed } }) e
      { d with subs := d.subs.map fun b => { b with inForce := b.computed } } d.subs).directory.find e = some (d4.withSubs bs) := hfind
    rw [hfind4]
    rfl
  have hsum : sum = (d.subs.map (·.computed)).sum := by
    have h1 : bs.map (·.inForce) = (d.subs.map Subscription.enforced).map (·.inForce) := map_of_body _ (fun _ => rfl) hbs
    rw [List.map_map] at h1
    have h2 : sum = (bs.map (·.inForce)).foldl (fun n m => n + m) 0 := List.foldl_map.symm
    rw [h2, h1, foldl_add_eq_sum _ (fun m => m), Nat.zero_add, List.map_id']
    rfl
  refine ⟨bs', by rw [heq, hfind', ← hsum]; rfl, ?_⟩
  have hpaid : bs'.map Subscription.account = (bs.map Subscription.paid).map Subscription.account := map_of_body _ (fun _ => rfl) hbs'
  have henf : bs.map (Subscription.account ∘ Subscription.paid) = (d.subs.map Subscription.enforced).map (Subscription.account ∘ Subscription.paid) :=
    map_of_body _ (fun _ => rfl) hbs
  rw [hpaid, List.map_map, henf, List.map_map]
  rfl

theorem boundaryEntry_held (hs : d.state = 1) : boundaryEntry s e = boundarySettle (boundaryShares s e) e := by
  simp only [boundaryEntry, hd, hs, if_true]

theorem boundaryEntry_unheld (hs : d.state = 2) : boundaryEntry s e = boundarySettle s e := by
  simp only [boundaryEntry, hd, hs]
  rfl

theorem boundarySettle_stays (hs : d.state = 1) (hl : d.lastLeft = none) : boundarySettle s e = s := by
  simp only [boundarySettle, hd, hs, hl, if_true]

theorem boundarySettle_left {k : Nat} (hs : d.state = 1) (hsubs : d.subs = []) (hl : d.lastLeft = some k) (hk : k < s.now / 3000000) :
    ∃ d', (boundarySettle s e).directory.find e = some d' ∧ d'.state = 2 ∧ d'.run = false ∧ d'.unheldAt = some (s.now / 3000000) := by
  obtain ⟨later, -, -, heq⟩ := stopStream_eq hd
  have hstop : (stopStream s e).directory.find e = some
      { d with run := false, nextSeq := fetchedBelow s d, staged := d.staged.filter fun x => x.1 < fetchedBelow s d } := by
    rw [heq]
    exact Table.find_put_self ..
  have hgo : (d.subs.isEmpty && decide (k < periodNow s)) = true := by
    rw [hsubs, periodNow]
    simpa using hk
  simp only [boundarySettle, hd, hs, hl, if_true, hgo, hstop]
  exact ⟨_, Table.find_put_self .., rfl, rfl, rfl⟩

theorem boundarySettle_freed {k : Nat} (hs : d.state = 2) (hu : d.unheldAt = some k) (hk : k < s.now / 3000000) :
    ∃ d', (boundarySettle s e).directory.find e = some d' ∧ d'.state = 0 ∧ d'.clw = 0 ∧ d'.capSum = d.capSum := by
  have hgo : k < periodNow s := hk
  simp only [boundarySettle, hd, hs, hu, if_true, hgo]
  exact ⟨_, Table.find_put_self .., rfl, rfl, rfl⟩

theorem boundarySettle_waits {k : Nat} (hs : d.state = 2) (hu : d.unheldAt = some k) (hk : s.now / 3000000 ≤ k) : boundarySettle s e = s := by
  have hwait : ¬k < periodNow s := Nat.not_lt.mpr hk
  simp only [boundarySettle, hd, hs, hu, if_true, hwait, if_false]
  rfl

end

/-! ### Every entry at a boundary -/

theorem foldl_boundaryEntry_other (l : List Nat) (s : State) {e : Nat} (he : e ∉ l) :
    (l.foldl boundaryEntry s).directory.find e = s.directory.find e := by
  induction l generalizing s with
  | nil => rfl
  | cons n l ih =>
    obtain ⟨hn, hl⟩ := not_or.mp (fun h => he (List.mem_cons.mpr h))
    rw [List.foldl_cons, ih _ hl, (boundaryEntry_settles s n).other e hn]

theorem foldl_boundaryEntry_now (l : List Nat) (s : State) : (l.foldl boundaryEntry s).now = s.now ∧ (l.foldl boundaryEntry s).period = s.period ∧
    ∀ z k, (z, k, Instr.periodBoundary) ∈ s.agenda → (z, k, Instr.periodBoundary) ∈ (l.foldl boundaryEntry s).agenda := by
  induction l generalizing s with
  | nil => exact ⟨rfl, rfl, fun _ _ h => h⟩
  | cons n l ih =>
    have hn := boundaryEntry_settles s n
    obtain ⟨h1, h2, h3⟩ := ih (boundaryEntry s n)
    exact ⟨h1.trans hn.now, h2.trans hn.period, fun z k h => h3 z k (hn.agenda z k h)⟩

/-- An entry after the boundary is what its own round has made of it. -/
theorem find_foldl_boundaryEntry {s : State} (hr : Rising s.directory) {e : Nat} {d : DirEntry} (hd : s.directory.find e = some d) :
    ∃ u, u.now = s.now ∧ u.directory.find e = some d ∧
      ((s.directory.map (·.1)).foldl boundaryEntry s).directory.find e = (boundaryEntry u e).directory.find e := by
  have hnodup : (s.directory.map (·.1)).Nodup := List.Pairwise.imp (fun h => Nat.ne_of_lt h) hr
  obtain ⟨l1, l2, hl⟩ := List.append_of_mem (List.mem_map_of_mem (f := (·.1)) (Table.mem_of_find hd))
  rw [hl] at hnodup ⊢
  obtain ⟨-, hn2, hdis⟩ := List.nodup_append.mp hnodup
  have h1 : e ∉ l1 := fun h => hdis e h e (List.mem_cons_self ..) rfl
  have h2 : e ∉ l2 := (List.nodup_cons.mp hn2).1
  refine ⟨l1.foldl boundaryEntry s, (foldl_boundaryEntry_now l1 s).1, (foldl_boundaryEntry_other l1 s h1).trans hd, ?_⟩
  rw [List.foldl_append, List.foldl_cons, foldl_boundaryEntry_other l2 _ h2]

/-- Settles O46: a boundary settles each entry in its own round, and no other round changes it. -/
theorem periodBoundaries : Obligations.PeriodBoundaries := by
  intro s hr
  let s1 := ({ s with period := periodNow s } : State).due (s.now + 3000000) 0 .periodBoundary
  obtain ⟨-, hperiod, hagenda⟩ := foldl_boundaryEntry_now (s1.directory.map (·.1)) s1
  refine ⟨(s1.directory.map (·.1)).foldl boundaryEntry s1, rfl, hperiod, ⟨0, hagenda _ _ (mem_agenda_due ..)⟩, fun e d hd => ?_⟩
  obtain ⟨u, hnow, hu, hfind⟩ := find_foldl_boundaryEntry (s := s1) hr hd
  have hnow' : u.now = s.now := hnow
  rw [hfind]
  refine ⟨fun hs hl hok => ?_, fun k hs hsubs hl hk => ?_, fun k hs hun hk => ?_, fun k hs hun hk => ?_⟩
  · obtain ⟨bs, hbs, haccount⟩ := boundaryShares_find hu hok
    rw [boundaryEntry_held hu hs, boundarySettle_stays hbs hs hl]
    exact ⟨_, hbs, hs, haccount, rfl⟩
  · obtain ⟨bs, hbs, haccount⟩ := boundaryShares_find hu fun b hb => by rw [hsubs] at hb; cases hb
    rw [hsubs] at haccount
    have hnow2 : (boundaryShares u e).now = s.now := (boundaryShares_settles u e).now.trans hnow'
    rw [boundaryEntry_held hu hs, ← hnow2]
    exact boundarySettle_left hbs hs (List.map_eq_nil_iff.mp haccount) hl (hnow2 ▸ hk)
  · rw [boundaryEntry_unheld hu hs]
    exact boundarySettle_freed hu hs hun (hnow' ▸ hk)
  · rw [boundaryEntry_unheld hu hs, boundarySettle_waits hu hs hun (hnow' ▸ hk)]
    exact hu

end Sys2Proof.Machine
end

section
/-!
PROOFS. Translations, their walks and shootdowns (R126 to R129, R291 to R293, R352).
-/
namespace Sys2Proof.Machine

/-! ## Translation (R126 to R129, R291, R352) -/

/-- A state with the cores and checkpoints of another. -/
def State.withCores (s t : State) : State := { s with cores := t.cores, checkpoints := t.checkpoints }

theorem updHandle_frame (s : State) (g h : Nat) (u : Handle → Handle) : updHandle s g h u = s.withCores (updHandle s g h u) := by
  unfold updHandle updPoint
  dsimp only
  split <;> rfl

theorem core_updHandle (s : State) (g h : Nat) (u : Handle → Handle) (k : Nat) : (updHandle s g h u).core k =
    if k = g then (s.core g).hSet h (u ((s.core g).hGet h)) else s.core k := by
  unfold updHandle
  rw [core_updPoint, core_updCore]

/-- What a restart that may begin changes. -/
theorem tryRestart_frame (s : State) (l : Nat) :
    tryRestart s l = { s with launches := (tryRestart s l).launches, agenda := (tryRestart s l).agenda } := by
  unfold tryRestart
  split
  · rfl
  · dsimp only
    split <;> rfl

theorem tryRestartOf_frame (s : State) (g : Nat) :
    tryRestartOf s g = { s with launches := (tryRestartOf s g).launches, agenda := (tryRestartOf s g).agenda } := by
  unfold tryRestartOf
  split
  · exact tryRestart_frame ..
  · rfl

/-- The cycle at which a placement restarts: the first later one at the calendar position of its stop. -/
def restartCycle (s : State) (x : Launch) : Nat := s.now + 1 + (x.stopPos + 128 - (s.now + 1) % 64) % 64

theorem restartCycle_spec (s : State) (x : Launch) :
    s.now < restartCycle s x ∧ restartCycle s x ≤ s.now + 64 ∧ restartCycle s x % 64 = x.stopPos % 64 := by
  unfold restartCycle
  omega

theorem tryRestart_eq {s : State} {l : Nat} {x : Launch} (hx : s.launch? l = some x) (hs : x.state = .stopped) (hw : x.walking = 0)
    (hr : x.restart = none) (ht : x.terminated = none) (htr : translates s x.cores = false) (ha : ∀ r ∈ x.stops, r.answer.isSome)
    (hf : ∀ k ∈ x.cores, (s.core k).elFault = []) :
    tryRestart s l = (s.setLaunch l { x with restart := some (restartCycle s x) }).due (restartCycle s x) 0 (.placementRestart l) := by
  have hstops : (x.stops.all fun r => r.answer.isSome) = true := List.all_eq_true.mpr ha
  have hcores : (x.cores.all fun g => (s.core g).elFault.isEmpty) = true :=
    List.all_eq_true.mpr fun k hk => by rw [hf k hk]; rfl
  simp only [tryRestart, hx, hs, hw, hr, ht, htr, hstops, hcores]
  rfl

theorem tryRestart_due {s : State} {l : Nat} {x : Launch} (hx : s.launch? l = some x) (hs : x.state = .stopped) (hw : x.walking = 0)
    (hr : x.restart = none) (ht : x.terminated = none) (htr : translates s x.cores = false) (ha : ∀ r ∈ x.stops, r.answer.isSome)
    (hf : ∀ k ∈ x.cores, (s.core k).elFault = []) :
    ∃ z, DueAt (tryRestart s l) z (.placementRestart l) ∧ s.now < z ∧ z ≤ s.now + 64 ∧ z % 64 = x.stopPos % 64 :=
  ⟨restartCycle s x, by rw [tryRestart_eq hx hs hw hr ht htr ha hf]; exact dueAt_due .., restartCycle_spec s x⟩

/-! ### XLATE and HREL issue -/

section
variable {s : State} {h : SHead} {x : FmtH}

theorem runXlate_spec (n : Nat) (va : Word) (write : Bool) : ∃ z, s.now < z ∧ z ≤ s.now + 96 ∧
    ((runXlate n va write s).curCore.hGet n).valid = false ∧ ((runXlate n va write s).curCore.hGet n).va = va ∧
    ((runXlate n va write s).curCore.hGet n).write = write ∧ ((runXlate n va write s).curCore.hGet n).xl.isSome ∧
    (∀ k ≠ n, (runXlate n va write s).curCore.hGet k = s.curCore.hGet k) ∧
    (runXlate n va write s).curCore.s = s.curCore.s ∧ (runXlate n va write s).curCore.bf = s.curCore.bf ∧ (runXlate n va write s).mem = s.mem ∧
    (DueAt (runXlate n va write s) z (.handleValid s.cur n) ∨ DueAt (runXlate n va write s) z (.translationCacheMiss s.cur n)) := by
  let hd : Handle := { s.curCore.hGet n with
    valid := false, va := va, write := write, region := none
    xl := some { va := va, write := write, issue := s.curCore.iCyc, baddr := s.curCore.iPc, rep := s.curCore.iRep, caused := false } }
  let c1 : Core := { s.curCore.hSet n hd with hOld := some (n, s.curCore.hGet n) }
  let s1 := s.setCore s.cur c1
  have hcore1 : s1.core s.cur = c1 := by rw [core_setCore, if_pos rfl]
  have hlook : ∃ z, s.now < z ∧ z ≤ s.now + 96 ∧ Traffic s1 (runXlate n va write s) ∧
      (DueAt (runXlate n va write s) z (.handleValid s.cur n) ∨ DueAt (runXlate n va write s) z (.translationCacheMiss s.cur n)) := by
    have hgo : ∀ d i, Traffic s1 ((s1.due (s1.now + 1 + d % 96) 0 i).draw s.cur) ∧
        DueAt ((s1.due (s1.now + 1 + d % 96) 0 i).draw s.cur) (s.now + 1 + d % 96) i := fun d i =>
      ⟨(due_traffic ..).trans (draw_traffic ..), 0, (draw_traffic ..).agenda (mem_agenda_due ..)⟩
    show ∃ z, _ ∧ _ ∧ Traffic s1 (startLookup s1 s.cur n va) ∧ (DueAt (startLookup s1 s.cur n va) z _ ∨ DueAt (startLookup s1 s.cur n va) z _)
    unfold startLookup
    dsimp only
    split
    · exact ⟨_, by omega, by omega, (hgo (Config.xlateDelay (s1.place s.cur)) _).1, Or.inl (hgo _ _).2⟩
    · exact ⟨_, by omega, by omega, (hgo (Config.missDelay (s1.place s.cur)) _).1, Or.inr (hgo _ _).2⟩
  obtain ⟨z, hlo, hhi, htraffic, hdue⟩ := hlook
  have hcur : (runXlate n va write s).curCore = c1.withTraffic (runXlate n va write s).curCore := by
    have hc := htraffic.core s.cur
    rw [hcore1] at hc
    rw [State.curCore, htraffic.cur_eq]
    exact hc
  have hh : (runXlate n va write s).curCore.h = (s.curCore.hSet n hd).h := by rw [hcur]; rfl
  have hget : ∀ k, (runXlate n va write s).curCore.hGet k = if k = n then hd else s.curCore.hGet k := fun k => by
    have hk : (runXlate n va write s).curCore.hGet k = (s.curCore.hSet n hd).hGet k := congrArg (fun t => Table.get Handle.reset t k) hh
    rw [hk, hGet_hSet]
  have hn : (runXlate n va write s).curCore.hGet n = hd := (hget n).trans (if_pos rfl)
  rw [hn]
  exact ⟨z, hlo, hhi, rfl, rfl, rfl, rfl, fun k hk => (hget k).trans (if_neg hk), by rw [hcur]; rfl, by rw [hcur]; rfl, htraffic.mem_eq, hdue⟩

theorem exec_xlate (hr : SReady s h [rS x.sa.toNat]) (hrw : x.rw = 1 ∨ x.rw = 2) :
    exec (.xlate h x) s = .next (runXlate x.hn.toNat (s.curCore.sGet x.sa.toNat) (decide (x.rw = 2)) s) := by
  have hcheck : (if (decide (x.rw = 1) || decide (x.rw = 2)) = true then none else some (illegalOp 10 0)) = none := if_pos (by simpa using hrw)
  show runPlan _ (planXlate h x s) s = _
  rw [planXlate, hcheck, runPlan_sReady hr]

theorem exec_xlate_illegal (hr : SReady s h [rS x.sa.toNat]) (hrw : x.rw = 0 ∨ x.rw = 3) :
    exec (.xlate h x) s = .next (raise s 0 (withWord (.xlate h x) (illegalOp 10 0))) := by
  have hcheck : (if (decide (x.rw = 1) || decide (x.rw = 2)) = true then none else some (illegalOp 10 0)) = some (illegalOp 10 0) :=
    if_neg (by rcases hrw with h | h <;> rw [h] <;> decide)
  show runPlan _ (planXlate h x s) s = _
  rw [planXlate, hcheck, runPlan_sReady_check hr]

theorem exec_hrel (hr : SReady s h []) (ha : x.sa = 0) (hw : x.rw = 0) : exec (.hrel h x) s = .next (land s 0 1 (.releaseHandle x.hn.toNat)) := by
  have hcheck : (if (decide (x.sa = 0) && decide (x.rw = 0)) = true then none else some (illegalOp 9 0)) = none := if_pos (by simp [ha, hw])
  show runPlan _ (planHrel h x s) s = _
  rw [planHrel, hcheck, runPlan_sReady hr]

end

/-! ### The end of a lookup and of a walk -/

theorem lookup_touch (s : State) (hive : Nat) (e : CacheEntry) : lookup (touch s hive e) hive e.func e.page = some e := by
  have hcache : cacheOf (touch s hive e) hive = (e :: (cacheOf s hive).filter fun x => !(x.func == e.func && x.page == e.page)).take 1024 :=
    Table.get_put_self ..
  rw [lookup, hcache]
  exact List.find?_cons_of_pos (by simp)

section
variable {s : State} {g h l : Nat} {x : Xlate} {y : Launch} (hx : ((s.core g).hGet h).xl = some x) (hl : (s.core g).launch = some l)
  (hy : s.launch? l = some y)
include hx

theorem exec_handleValid_wide (hva : 2 ^ 48 ≤ x.va.toNat) : exec (.handleValid g h) s = .next (xlateFault s g h x 2) := by
  show execHandleValid g h s = _
  simp only [execHandleValid, hx, if_pos hva]

include hl hy

omit hx in
theorem funcOfCore_eq : funcOfCore s (s.core g) = y.func := by
  simp only [funcOfCore, funcOfLaunch, hl, Option.getD_some, hy]

theorem exec_handleValid_miss (hva : x.va.toNat < 2 ^ 48) (hn : lookup s (hiveOfCore g) y.func (x.va.toNat / 65536) = none) :
    exec (.handleValid g h) s = .next (s.due s.now 0 (.translationCacheMiss g h)) := by
  show execHandleValid g h s = _
  simp only [execHandleValid, hx, if_neg (Nat.not_le.mpr hva), funcOfCore_eq hl hy, pageOf, hn]

theorem exec_handleValid_hit {e : CacheEntry} (hva : x.va.toNat < 2 ^ 48)
    (he : lookup s (hiveOfCore g) y.func (x.va.toNat / 65536) = some e) :
    exec (.handleValid g h) s = .next (tryRestartOf (giveHandle s g h x e) g) := by
  show execHandleValid g h s = _
  simp only [execHandleValid, hx, if_neg (Nat.not_le.mpr hva), funcOfCore_eq hl hy, pageOf, he]

omit hx hl hy in
theorem core_xlateFault (s : State) (g h : Nat) (x : Xlate) (cause : Nat) : ((xlateFault s g h x cause).core g).launch = (s.core g).launch := by
  unfold xlateFault meetFault
  rw [core_updCore, if_pos rfl, core_updHandle, if_pos rfl]
  rfl

theorem handleValid_allowed {e : CacheEntry} (hva : x.va.toNat < 2 ^ 48) (he : lookup s (hiveOfCore g) y.func (x.va.toNat / 65536) = some e)
    (ha : e.allows x.write = true) : ∃ t, exec (.handleValid g h) s = .next t ∧ t.mem = s.mem ∧ (t.core g).hGet h = handleOf x e := by
  refine ⟨_, exec_handleValid_hit hx hl hy hva he, ?_⟩
  have hgive : giveHandle s g h x e = updHandle (touch s (hiveOfCore g) e) g h fun _ => handleOf x e := if_pos ha
  have hcore : ((giveHandle s g h x e).core g).hGet h = handleOf x e := by
    rw [hgive, core_updHandle, if_pos rfl, hGet_hSet, if_pos rfl]
  have hmem : (giveHandle s g h x e).mem = s.mem := by
    rw [hgive, updHandle_frame]
    rfl
  rw [tryRestartOf_frame]
  exact ⟨hmem, hcore⟩

theorem handleValid_denied {e : CacheEntry} (hva : x.va.toNat < 2 ^ 48) (he : lookup s (hiveOfCore g) y.func (x.va.toNat / 65536) = some e)
    (ha : e.allows x.write = false) : exec (.handleValid g h) s = .next (tryRestart (xlateFault s g h x 1) l) := by
  have hgive : giveHandle s g h x e = xlateFault s g h x 1 := if_neg (by rw [ha]; exact Bool.false_ne_true)
  rw [exec_handleValid_hit hx hl hy hva he, hgive]
  simp only [tryRestartOf, core_xlateFault, hl]

omit hx hl in
theorem stopLaunch_running (hs : y.state = .running) (hr : rollingBack s l = false) : stopLaunch s l =
    s.setLaunch l { y with state := .stopped, stopPos := s.now % 64, stopAt := s.now, stopWay := 0, restart := none } := by
  rw [stopLaunch, hr, if_neg Bool.false_ne_true, stopNow, updLaunch_eq, hy]
  simp only [hs]

theorem translationCacheMiss_stops (hs : y.state = .running) (hr : rollingBack s l = false) :
    ∃ t y' z, exec (.translationCacheMiss g h) s = .next t ∧
      t.launch? l = some y' ∧ y'.state = .stopped ∧ y'.stopAt = s.now ∧ y'.stopPos = s.now % 64 ∧ y'.walking = y.walking + 1 ∧
      (t.core g).hold = 3 ∧ s.now < z ∧ DueAt t z (.translationWalkEnd g h) ∧ t.mem = s.mem := by
  let y' : Launch := { y with
    state := .stopped, stopPos := s.now % 64, stopAt := s.now, stopWay := 0, restart := none, walking := y.walking + 1 }
  let s1 := s.setLaunch l y'
  have hstop : (stopLaunch s l).updLaunch l (fun y => { y with walking := y.walking + 1 }) = s1 := by
    rw [stopLaunch_running hy hs hr, updLaunch_eq, launch_setLaunch, if_pos rfl]
    dsimp only
    rw [State.setLaunch, State.setLaunch, Table.put_put]
    rfl
  have hexec : exec (.translationCacheMiss g h) s =
      .next (startWalk ((updHandle s1 g h fun o => { o with xl := some { x with caused := true } }).updCore g fun c =>
        { bumpCause c 3 with hold := 3 }) g h) := by
    show execTranslationCacheMiss g h s = _
    simp only [execTranslationCacheMiss, hx, hl, hy, hr, hs, Bool.false_eq_true, if_false, if_true, hstop]
  have h2 := updHandle_frame s1 g h fun o => { o with xl := some { x with caused := true } }
  generalize (updHandle s1 g h fun o => { o with xl := some { x with caused := true } }) = s2 at hexec h2
  let s3 := s2.updCore g fun c => { bumpCause c 3 with hold := 3 }
  have hmem2 : s2.mem = s.mem := by rw [h2]; rfl
  have hlaunch2 : s2.launch? l = some y' := by
    have hs1 : s1.launch? l = some y' := (launch_setLaunch ..).trans (if_pos rfl)
    rw [h2]
    exact hs1
  have hwalk : Traffic (s3.due (s3.now + 1 + Config.walkTime (s3.place g)) 0 (.translationWalkEnd g h)) (startWalk s3 g h) := draw_traffic ..
  refine ⟨startWalk s3 g h, y', s3.now + 1 + Config.walkTime (s3.place g), hexec, hlaunch2, rfl, rfl, rfl, rfl, ?_, ?_, ⟨0, hwalk.agenda (mem_agenda_due ..)⟩, ?_⟩
  · rw [hwalk.core g]
    show (s3.core g).hold = 3
    rw [core_updCore, if_pos rfl]
  · have hnow : s3.now = s.now := by
      show s2.now = s.now
      rw [h2]
      rfl
    omega
  · exact hwalk.mem_eq.trans hmem2

/-! ### The end of a walk -/

/-- The launch of a walk that ends counts it no more, where the walk has caused its stop. -/
def walkOver (s : State) (l : Nat) (x : Xlate) (y : Launch) : State :=
  if x.caused && y.state != .running then s.setLaunch l { y with walking := y.walking - 1 } else s

omit hx hl hy in
theorem walkOver_frame (s : State) (l : Nat) (x : Xlate) (y : Launch) :
    walkOver s l x y = { s with launches := (walkOver s l x y).launches } := by
  unfold walkOver
  split <;> rfl

omit hx hl in
theorem walkOver_launch : ∃ y', (walkOver s l x y).launch? l = some y' ∧ y'.func = y.func := by
  unfold walkOver
  split
  · exact ⟨_, (launch_setLaunch ..).trans (if_pos rfl), rfl⟩
  · exact ⟨y, hy, rfl⟩

theorem exec_walkEnd_waits {z : Nat} (hz : walkWait s y.func x.va.toNat = some z) :
    exec (.translationWalkEnd g h) s = .next (s.due z 0 (.translationWalkEnd g h)) := by
  show execTranslationWalkEnd g h s = _
  simp only [execTranslationWalkEnd, hx, hl, funcOfLaunch, hy, hz]

/-- What a walk leaves that has found a page. -/
def walkFills (g l h : Nat) (x : Xlate) (y : Launch) (st : State) (e : CacheEntry) : State :=
  tryRestart (if x.caused && y.state != .running then st else giveHandle st g h x e) l

theorem exec_walkEnd_walked (hz : walkWait s y.func x.va.toNat = none) :
    exec (.translationWalkEnd g h) s = .next (walked (walkOver s l x y) g l h x (walkFills g l h x y)) := by
  have hover : (if (x.caused && y.state != .running) = true then s.updLaunch l fun y => { y with walking := y.walking - 1 } else s) =
      walkOver s l x y := by
    rw [walkOver, updLaunch_eq, hy]
  show execTranslationWalkEnd g h s = _
  simp only [execTranslationWalkEnd, hx, hl, funcOfLaunch, hy, hz, hover]
  rfl

omit hx hl in
theorem walk_walkOver : walk (walkOver s l x y) (funcOfLaunch (walkOver s l x y) l) x.va.toNat = walk s y.func x.va.toNat := by
  obtain ⟨y', hy', hf⟩ := walkOver_launch (x := x) hy
  have hfunc : funcOfLaunch (walkOver s l x y) l = y.func := by simp only [funcOfLaunch, hy', hf]
  rw [hfunc, walkOver_frame]
  rfl

theorem walkEnd_wide (hz : walkWait s y.func x.va.toNat = none) (hva : 2 ^ 48 ≤ x.va.toNat) (hc : x.caused = false) :
    exec (.translationWalkEnd g h) s = .next (xlateFault s g h x 2) := by
  have hover : walkOver s l x y = s := if_neg (by rw [hc]; exact Bool.false_ne_true)
  rw [exec_walkEnd_walked hx hl hy hz, hover, walked, if_pos hva]

theorem walkEnd_malformed (hz : walkWait s y.func x.va.toNat = none) (hva : x.va.toNat < 2 ^ 48) (hc : x.caused = false)
    (hw : walk s y.func x.va.toNat = .malformed) : exec (.translationWalkEnd g h) s = .next (xlateFault s g h x 1) := by
  have hover : walkOver s l x y = s := if_neg (by rw [hc]; exact Bool.false_ne_true)
  have hwalk := walk_walkOver (x := x) hy
  rw [hover] at hwalk
  rw [exec_walkEnd_walked hx hl hy hz, hover, walked, if_neg (Nat.not_le.mpr hva)]
  simp only [hwalk, hw]

theorem walkEnd_absent {stage ipa : Nat} (hz : walkWait s y.func x.va.toNat = none) (hva : x.va.toNat < 2 ^ 48)
    (hw : walk s y.func x.va.toNat = .absent stage ipa) : ∃ t, exec (.translationWalkEnd g h) s = .next t ∧
      (t.core g).elFault = (s.core g).elFault ++ [(freezeInfo x stage ipa, 16)] ∧ t.mem = s.mem ∧
      ((t.core g).hGet h).xl = some { x with caused := true } := by
  have hwalk := walk_walkOver (x := x) hy
  let s1 := updHandle (walkOver s l x y) g h fun o => { o with xl := some { x with caused := true } }
  have hexec : exec (.translationWalkEnd g h) s = .next (meetFault s1 g (freezeInfo x stage ipa) 16) := by
    rw [exec_walkEnd_walked hx hl hy hz, walked, if_neg (Nat.not_le.mpr hva)]
    simp only [hwalk, hw]
    rfl
  have hover : (walkOver s l x y).core g = s.core g := by rw [walkOver_frame]; rfl
  have hcore1 : s1.core g = (s.core g).hSet h { (s.core g).hGet h with xl := some { x with caused := true } } := by
    show (updHandle ..).core g = _
    rw [core_updHandle, if_pos rfl, hover]
  have hcore : (meetFault s1 g (freezeInfo x stage ipa) 16).core g =
      { (s.core g).hSet h { (s.core g).hGet h with xl := some { x with caused := true } } with
        elFault := (s.core g).elFault ++ [(freezeInfo x stage ipa, 16)] } := by
    rw [meetFault, core_updCore, if_pos rfl, hcore1]
    rfl
  refine ⟨_, hexec, by rw [hcore], ?_, ?_⟩
  · show s1.mem = s.mem
    rw [show s1 = (walkOver s l x y).withCores s1 from updHandle_frame .., walkOver_frame]
    rfl
  · rw [hcore]
    show (((s.core g).hSet h _).hGet h).xl = _
    rw [hGet_hSet, if_pos rfl]

omit hx hl hy in
/-- A walk that has found a page leaves its entry the most recently used, and memory as it was. -/
theorem walkFills_spec {st : State} {e : CacheEntry} (ha : e.allows x.write = true) (hst : lookup st (hiveOfCore g) e.func e.page = some e) :
    lookup (walkFills g l h x y st e) (hiveOfCore g) e.func e.page = some e ∧ (walkFills g l h x y st e).mem = st.mem := by
  unfold walkFills
  rw [tryRestart_frame]
  split
  · exact ⟨hst, rfl⟩
  · have hgive : giveHandle st g h x e = updHandle (touch st (hiveOfCore g) e) g h fun _ => handleOf x e := if_pos ha
    rw [hgive, updHandle_frame]
    exact ⟨lookup_touch .., rfl⟩

theorem walkEnd_page {e : CacheEntry} (hz : walkWait s y.func x.va.toNat = none) (hva : x.va.toNat < 2 ^ 48)
    (hw : walk s y.func x.va.toNat = .page e) (ha : e.allows x.write = true) :
    ∃ t, exec (.translationWalkEnd g h) s = .next t ∧ lookup t (hiveOfCore g) e.func e.page = some e ∧ t.mem = s.mem ∧
      (x.caused = true → y.state = .stopped → y.walking = 1 → y.restart = none → y.terminated = none →
        translates s y.cores = false → (∀ r ∈ y.stops, r.answer.isSome) → (∀ k ∈ y.cores, (s.core k).elFault = []) →
        ∃ z, DueAt t z (.placementRestart l) ∧ s.now < z ∧ z ≤ s.now + 64 ∧ z % 64 = y.stopPos % 64) := by
  have hwalk := walk_walkOver (x := x) hy
  have hexec : exec (.translationWalkEnd g h) s = .next (walkFills g l h x y (touch (walkOver s l x y) (hiveOfCore g) e) e) := by
    rw [exec_walkEnd_walked hx hl hy hz, walked, if_neg (Nat.not_le.mpr hva)]
    simp only [hwalk, hw, ha, if_true]
  obtain ⟨hlook, hmem⟩ := walkFills_spec (st := touch (walkOver s l x y) (hiveOfCore g) e) ha (lookup_touch ..)
  refine ⟨_, hexec, hlook, hmem.trans (by rw [walkOver_frame]; rfl), fun hc hs hk hr ht htr hst hf => ?_⟩
  have hstopped : (x.caused && y.state != .running) = true := by rw [hc, hs]; rfl
  have hover : walkOver s l x y = s.setLaunch l { y with walking := y.walking - 1 } := if_pos hstopped
  have hfills : walkFills g l h x y (touch (walkOver s l x y) (hiveOfCore g) e) e =
      tryRestart (touch (walkOver s l x y) (hiveOfCore g) e) l := by rw [walkFills, if_pos hstopped]
  rw [hfills, hover]
  exact tryRestart_due (s := touch (s.setLaunch l { y with walking := y.walking - 1 }) (hiveOfCore g) e)
    (x := { y with walking := y.walking - 1 }) ((launch_setLaunch ..).trans (if_pos rfl)) hs (by rw [hk]) hr ht htr hst hf

end

/-- Settles O47: a translation changes a handle, which the launch and the agenda see alone; a walk reads memory and functions, which
counting it off leaves. -/
theorem xlateSteps : Obligations.XlateSteps := by
  refine ⟨fun s h x => ⟨fun hr hrw => ?_, fun hr hrw => exec_xlate_illegal hr hrw, fun hr ha hw => ⟨exec_hrel hr ha hw, fun now d => ?_⟩⟩,
    fun s g h l x y hx hl hy => ?_⟩
  · obtain ⟨z, hz⟩ := runXlate_spec (s := s) x.hn.toNat (s.curCore.sGet x.sa.toNat) (decide (x.rw = 2))
    exact ⟨_, z, exec_xlate hr hrw, hz⟩
  · show ((d.hSet x.hn.toNat _).hGet x.hn.toNat).valid = false
    rw [hGet_hSet, if_pos rfl]
  · refine ⟨fun hva => exec_handleValid_wide hx hva, fun hva hn => exec_handleValid_miss hx hl hy hva hn, fun e hva he =>
      ⟨fun ha => handleValid_allowed hx hl hy hva he ha, fun ha => handleValid_denied hx hl hy hva he ha⟩,
      fun hs hr => translationCacheMiss_stops hx hl hy hs hr, fun z hz => exec_walkEnd_waits hx hl hy hz,
      fun hz hva hc => walkEnd_wide hx hl hy hz hva hc, fun e ⟨hz, hva⟩ hw ha => walkEnd_page hx hl hy hz hva hw ha,
      fun stage ipa ⟨hz, hva⟩ hw => ?_, fun hc ⟨hz, hva⟩ hw => walkEnd_malformed hx hl hy hz hva hc hw⟩
    obtain ⟨t, hexec, hfault, hmem, hxl⟩ := walkEnd_absent hx hl hy hz hva hw
    exact ⟨t, freezeInfo x stage ipa, hexec, hfault, rfl, rfl, rfl, rfl, rfl, hmem, hxl⟩

/-! ## Shootdowns (R292, R293) -/

theorem settleWrites_frame (s : State) (gone : Nat → Bool) : settleWrites s gone =
    { s with told := (settleWrites s gone).told, commonsReqs := (settleWrites s gone).commonsReqs, agenda := (settleWrites s gone).agenda } := by
  unfold settleWrites
  generalize hs1 : ({ s with
    told := s.told.filter fun t => !gone t.1
    commonsReqs := s.commonsReqs.map fun (p : Nat × CommonsReq) => (p.1, { p.2 with waits := p.2.waits.filter fun n => !gone n }) } : State) = s1
  have hfold := OnlyDue.foldl (f := fun (st : State) (p : Nat × CommonsReq) =>
      if p.2.result.isSome && p.2.waits.isEmpty then st.dueOnce st.now 6000 (actOf p.2.kind p.1) else st)
    (fun st p => by split; exacts [dueOnce_withAgenda .., rfl]) s1.commonsReqs s1
  rw [hfold, ← hs1]
  rfl

/-- A state with what a shootdown may change of another, but for its end. -/
def State.withShoot (s t : State) : State :=
  { s with
    accesses := t.accesses, remotes := t.remotes, told := t.told, commonsReqs := t.commonsReqs, agenda := t.agenda, nextId := t.nextId
    tcache := t.tcache, directory := t.directory, cores := t.cores, launches := t.launches, checkpoints := t.checkpoints, shoots := t.shoots }

theorem withShoot_trans {a b c : State} (h1 : b = a.withShoot b) (h2 : c = b.withShoot c) : c = a.withShoot c := by
  rw [h2, h1]; rfl

theorem dropAccesses_frame (s : State) (gone : Nat → Access → Bool) : dropAccesses s gone =
    { s with
      accesses := (dropAccesses s gone).accesses, remotes := (dropAccesses s gone).remotes, told := (dropAccesses s gone).told
      commonsReqs := (dropAccesses s gone).commonsReqs, agenda := (dropAccesses s gone).agenda } := by
  unfold dropAccesses
  rw [settleWrites_frame]

/-! ### The handles that a shootdown hits -/

/-- The handles of a core that may be used no more, cut. -/
def cutHandles (d : Shootdown) (c : Core) : Core := mapHandles c (fun h => h.valid && d.hits h) fun h => { h with cut := true }

/-- The cut handles of a core, invalid. -/
def dropHandles (d : Shootdown) (c : Core) : Core := mapHandles c (fun h => h.cut && d.hits h) fun h => { h with valid := false, cut := false }

theorem hGet_mapHandles {p : Handle → Bool} (u : Handle → Handle) (hp : p Handle.reset = false) (c : Core) (k : Nat) :
    (mapHandles c p u).hGet k = if p (c.hGet k) then u (c.hGet k) else c.hGet k :=
  Table.get_map (f := fun h => if p h then u h else h) (by rw [hp, if_neg Bool.false_ne_true]) c.h k

theorem hGet_cutHandles (d : Shootdown) (c : Core) (k : Nat) : (cutHandles d c).hGet k =
    if ((c.hGet k).valid && d.hits (c.hGet k)) = true then { c.hGet k with cut := true } else c.hGet k :=
  hGet_mapHandles (p := fun h => h.valid && d.hits h) (fun h => { h with cut := true }) rfl c k

theorem hGet_dropHandles (d : Shootdown) (c : Core) (k : Nat) : (dropHandles d c).hGet k =
    if ((c.hGet k).cut && d.hits (c.hGet k)) = true then { c.hGet k with valid := false, cut := false } else c.hGet k :=
  hGet_mapHandles (p := fun h => h.cut && d.hits h) (fun h => { h with valid := false, cut := false }) rfl c k

/-- A handle as the end of a shootdown may leave it: as it was, or invalid where it was cut. -/
def Dropped (d : Shootdown) (h h' : Handle) : Prop :=
  h' = h ∨ (h.cut = true ∧ d.hits h = true ∧ h' = { h with valid := false, cut := false })

theorem dropped_dropHandles {d : Shootdown} {h : Handle} {c : Core} {k : Nat} (hd : Dropped d h (c.hGet k)) :
    Dropped d h ((dropHandles d c).hGet k) := by
  rw [hGet_dropHandles]
  split
  · next hc =>
    obtain ⟨hcut, hhit⟩ := Bool.and_eq_true _ _ ▸ hc
    rcases hd with heq | ⟨-, -, heq⟩
    · rw [heq] at hcut hhit ⊢
      exact Or.inr ⟨hcut, hhit, rfl⟩
    · rw [heq] at hcut
      cases hcut
  · exact hd

theorem core_updMemberBoth_or (s : State) (l r : Nat) (u : Core → Core) (g : Nat) :
    (updMemberBoth s l r u).core g = s.core g ∨ (updMemberBoth s l r u).core g = u (s.core g) := by
  have hmember : (updMember s l r u).core g = s.core g ∨ (updMember s l r u).core g = u (s.core g) := by
    unfold updMember
    split
    · exact Or.inl rfl
    · split_ifs
      · exact Or.inl rfl
      · split <;> exact Or.inl rfl
      · split
        · rw [core_updCore]
          split
          · next h => exact Or.inr (by rw [h])
          · exact Or.inl rfl
        · exact Or.inl rfl
  have hboth : (updMemberBoth s l r u).core g = (updMember s l r u).core g := by
    unfold updMemberBoth
    dsimp only
    split
    · rfl
    · split_ifs
      · rfl
      · simp only [core_updLaunch]
      · split
        · exact core_updPoint ..
        · rfl
  rw [hboth]
  exact hmember

/-- A launch that is not saved out stands as before. -/
theorem launch_updMemberBoth {s : State} {k : Nat} {y : Launch} (hy : s.launch? k = some y) (hs : y.state ≠ .saved) (l r : Nat) (u : Core → Core) :
    (updMemberBoth s l r u).launch? k = some y := by
  have hmember : (updMember s l r u).launch? k = some y := by
    unfold updMember
    split
    · exact hy
    · next x hx =>
      split_ifs with h1 h2
      · exact hy
      · split
        · rw [launch_setLaunch]
          split
          · next hk =>
            rw [hk, hx] at hy
            cases hy
            exact absurd h2 hs
          · exact hy
        · exact hy
      · split
        · exact hy
        · exact hy
  unfold updMemberBoth
  dsimp only
  split
  · exact hmember
  · next x hx =>
    split_ifs with h1 h2
    · exact hmember
    · rw [launch_updLaunch]
      split
      · next hk =>
        rw [hk, hx] at hy
        cases hy
        exact absurd h2 hs
      · exact hmember
    · split
      · unfold updPoint
        split
        · exact hmember
        · exact hmember
      · exact hmember

/-- One member of a shootdown at its end. -/
def dropRound (d : Shootdown) (st : State) (p : Nat × Nat × Nat) : State := updMemberBoth st p.1 p.2.1 (dropHandles d)

theorem foldl_dropRound_frame (d : Shootdown) (ps : List (Nat × Nat × Nat)) (s : State) : ∃ cs ls qs,
    ps.foldl (dropRound d) s = { s with cores := cs, launches := ls, checkpoints := qs } := by
  induction ps generalizing s with
  | nil => exact ⟨_, _, _, rfl⟩
  | cons p ps ih =>
    obtain ⟨cs, ls, qs, h1⟩ := updMemberBoth_frame s p.1 p.2.1 (dropHandles d)
    obtain ⟨cs', ls', qs', h2⟩ := ih (dropRound d s p)
    exact ⟨cs', ls', qs', by rw [List.foldl_cons, h2, dropRound, h1]⟩

theorem foldl_dropRound_dropped {d : Shootdown} {h : Handle} (ps : List (Nat × Nat × Nat)) (s : State) {g k : Nat}
    (hd : Dropped d h ((s.core g).hGet k)) : Dropped d h (((ps.foldl (dropRound d) s).core g).hGet k) := by
  induction ps generalizing s with
  | nil => exact hd
  | cons p ps ih =>
    refine ih _ ?_
    rcases core_updMemberBoth_or s p.1 p.2.1 (dropHandles d) g with hc | hc
    · rw [dropRound, hc]; exact hd
    · rw [dropRound, hc]; exact dropped_dropHandles hd

/-- A handle that is invalid stays so. -/
theorem foldl_dropRound_invalid {d : Shootdown} (ps : List (Nat × Nat × Nat)) (s : State) {g k : Nat} (hv : ((s.core g).hGet k).valid = false) :
    (((ps.foldl (dropRound d) s).core g).hGet k).valid = false := by
  rcases foldl_dropRound_dropped (d := d) ps s (Or.inl rfl) (g := g) (k := k) with heq | ⟨-, -, heq⟩
  · rw [heq, hv]
  · rw [heq]

theorem foldl_dropRound_reached {d : Shootdown} {l r q g : Nat} {y : Launch} (h1 : y.state ≠ .saved) (h2 : y.state ≠ .ended)
    (hg : y.cores[r]? = some g) {h : Handle} {k : Nat} (hcut : h.cut = true) (hhit : d.hits h = true) (ps : List (Nat × Nat × Nat)) (s : State)
    (hy : s.launch? l = some y) (hm : (l, r, q) ∈ ps) (hd : Dropped d h ((s.core g).hGet k)) :
    (((ps.foldl (dropRound d) s).core g).hGet k).valid = false := by
  induction ps generalizing s with
  | nil => cases hm
  | cons p ps ih =>
    rcases List.mem_cons.mp hm with rfl | hm
    · have hr : r < y.cores.length := (List.getElem?_eq_some_iff.mp hg).1
      have hget : y.cores.getD r 0 = g := by rw [List.getD_eq_getElem?_getD, hg, Option.getD_some]
      have hcore := core_updMemberBoth hy h1 h2 hr (dropHandles d)
      rw [hget] at hcore
      refine foldl_dropRound_invalid ps _ ?_
      rw [dropRound, hcore, hGet_dropHandles]
      rcases hd with heq | ⟨-, -, heq⟩
      · rw [heq, hcut, hhit, Bool.and_self, if_pos rfl]
      · rw [heq]
        split <;> rfl
    · refine ih (dropRound d s p) (launch_updMemberBoth hy h1 ..) hm ?_
      rcases core_updMemberBoth_or s p.1 p.2.1 (dropHandles d) g with hc | hc
      · rw [dropRound, hc]; exact hd
      · rw [dropRound, hc]; exact dropped_dropHandles hd

/-! ### The end of a shootdown -/

/-- Some SHOOTN of a function is in progress (R373). -/
def shootsOf (t : Table Shootdown) (f : Nat) : Bool := t.any fun o => o.2.func == f && !o.2.host

/-- The state once a shootdown is over, before its requester is told. -/
def shotDown (s : State) (n : Nat) (d : Shootdown) : State := { d.reached.foldl (dropRound d) s with shoots := s.shoots.del n }

theorem finishShoot_eq {s : State} {n : Nat} {d : Shootdown} (hd : s.shoots.find n = some d) : finishShoot s n =
    if d.waitCores.isEmpty && d.reached.all fun p => usesDone s p.1 p.2.1 p.2.2 then
      if d.host then { shotDown s n d with cmdst := 0 }
      else (shotDown s n d).updFunc d.func fun f => { f with shootBusy := shootsOf (s.shoots.del n) d.func }
    else s := by
  obtain ⟨cs, ls, qs, hframe⟩ := foldl_dropRound_frame d d.reached s
  have hshoots : (d.reached.foldl (dropRound d) s).shoots = s.shoots := by rw [hframe]
  have hshot : shotDown s n d = { d.reached.foldl (dropRound d) s with shoots := (d.reached.foldl (dropRound d) s).shoots.del n } := by
    rw [hshoots]
    rfl
  rw [finishShoot, hd]
  dsimp only
  rw [hshot, ← hshoots]
  rfl

section
variable {s : State} {n : Nat} {d : Shootdown} (hd : s.shoots.find n = some d)
include hd

theorem finishShoot_waits (h : d.waitCores ≠ []) : finishShoot s n = s := by
  rw [finishShoot_eq hd, if_neg]
  simp [h]

theorem finishShoot_uses (h : ∃ p ∈ d.reached, usesDone s p.1 p.2.1 p.2.2 = false) : finishShoot s n = s := by
  obtain ⟨p, hp, hu⟩ := h
  rw [finishShoot_eq hd, if_neg]
  rw [Bool.and_eq_true, not_and, List.all_eq_true]
  exact fun _ hall => Bool.false_ne_true (hu.symm.trans (hall p hp))

theorem finishShoot_over (hw : d.waitCores = []) (hu : ∀ p ∈ d.reached, usesDone s p.1 p.2.1 p.2.2 = true) : finishShoot s n =
    if d.host then { shotDown s n d with cmdst := 0 }
    else (shotDown s n d).updFunc d.func fun f => { f with shootBusy := shootsOf (s.shoots.del n) d.func } := by
  rw [finishShoot_eq hd, if_pos]
  rw [hw, List.all_eq_true.mpr hu]
  rfl

/-- What the end of a shootdown leaves: memory, and the handles but for those that it drops. -/
theorem finishShoot_handles : (finishShoot s n).mem = s.mem ∧ ∀ g k, Dropped d ((s.core g).hGet k) (((finishShoot s n).core g).hGet k) := by
  obtain ⟨cs, ls, qs, hframe⟩ := foldl_dropRound_frame d d.reached s
  have hmem : (shotDown s n d).mem = s.mem := by rw [shotDown, hframe]
  have hdrop : ∀ g k, Dropped d ((s.core g).hGet k) (((shotDown s n d).core g).hGet k) := fun g k =>
    foldl_dropRound_dropped d.reached s (Or.inl rfl)
  rw [finishShoot_eq hd]
  split
  · split
    · exact ⟨hmem, hdrop⟩
    · exact ⟨hmem, hdrop⟩
  · exact ⟨rfl, fun _ _ => Or.inl rfl⟩

theorem finishShoot_told (hw : d.waitCores = []) (hu : ∀ p ∈ d.reached, usesDone s p.1 p.2.1 p.2.2 = true) :
    (finishShoot s n).shoots = s.shoots.del n ∧
      if d.host then (finishShoot s n).cmdst = 0
      else ((finishShoot s n).func d.func).shootBusy = shootsOf (s.shoots.del n) d.func := by
  rw [finishShoot_over hd hw hu]
  split
  · exact ⟨rfl, rfl⟩
  · refine ⟨rfl, ?_⟩
    show (Table.get Func.reset (Table.put _ d.func _) d.func).shootBusy = _
    rw [Table.get_put_self]

theorem finishShoot_reached (hw : d.waitCores = []) (hu : ∀ p ∈ d.reached, usesDone s p.1 p.2.1 p.2.2 = true) {l r q g : Nat} {y : Launch}
    (hm : (l, r, q) ∈ d.reached) (hy : s.launch? l = some y) (h1 : y.state ≠ .saved) (h2 : y.state ≠ .ended) (hg : y.cores[r]? = some g) {k : Nat}
    (hcut : ((s.core g).hGet k).cut = true) (hhit : d.hits ((s.core g).hGet k) = true) : (((finishShoot s n).core g).hGet k).valid = false := by
  have hdrop : (((shotDown s n d).core g).hGet k).valid = false := foldl_dropRound_reached h1 h2 hg hcut hhit d.reached s hy hm (Or.inl rfl)
  rw [finishShoot_over hd hw hu]
  split
  · exact hdrop
  · exact hdrop

/-! ### A shootdown reaches a core -/

theorem exec_reachCore_not {g : Nat} (hg : g ∉ d.waitCores) : exec (.shootdownReachCore n g) s = .next s := by
  have hno : d.waitCores.contains g = false := by simpa using hg
  show execShootdownReachCore n g s = _
  simp only [execShootdownReachCore, hd, hno]
  rfl

theorem reachCore_cuts {g l : Nat} {y : Launch} (hg : g ∈ d.waitCores) (hl : (s.core g).launch = some l) (hy : s.launch? l = some y)
    (hf : y.func = d.func) (h1 : y.state ≠ .saved) (h2 : y.state ≠ .ended) (hcore : y.cores[(s.core g).rank]? = some g)
    (hnew : ∀ p ∈ d.reached, p.1 ≠ l ∨ p.2.1 ≠ (s.core g).rank) : ∃ t, exec (.shootdownReachCore n g) s = .next t ∧ t.mem = s.mem ∧
      ∀ k, (((s.core g).hGet k).valid = true → d.hits ((s.core g).hGet k) = true →
          ((t.core g).hGet k).cut = true ∨ ((t.core g).hGet k).valid = false) ∧
        (d.hits ((s.core g).hGet k) = false → (t.core g).hGet k = (s.core g).hGet k) := by
  have hyes : d.waitCores.contains g = true := by simpa using hg
  have hany : (d.reached.any fun p => p.1 == l && p.2.1 == (s.core g).rank) = false := by
    rw [List.any_eq_false]
    intro p hp h
    simp only [Bool.and_eq_true, beq_iff_eq] at h
    rcases hnew p hp with hne | hne
    · exact hne h.1
    · exact hne h.2
  let d2 : Shootdown := { d with
    waitCores := d.waitCores.filter (· != g), reached := (l, (s.core g).rank, (memberCore s l (s.core g).rank).seq) :: d.reached }
  let s2 := updMemberBoth s l (s.core g).rank (cutHandles d)
  have hgo : (decide (y.func = d.func) && !(d.reached.any fun p => p.1 == l && p.2.1 == (s.core g).rank)) = true := by
    rw [hany, decide_eq_true hf]
    rfl
  have hexec : exec (.shootdownReachCore n g) s = .next (finishShoot { s2 with shoots := s2.shoots.put n d2 } n) := by
    have hreach : ∀ (a b : State × Shootdown), (if (decide (y.func = d.func) && !(d.reached.any fun p => p.1 == l && p.2.1 == (s.core g).rank)) = true
        then a else b) = a := fun a b => if_pos hgo
    show execShootdownReachCore n g s = _
    simp only [execShootdownReachCore, hd, hyes, hl, funcOfCore_eq hl hy, hreach, Bool.not_true, Bool.false_eq_true, if_false]
    rfl
  have hfind : ({ s2 with shoots := s2.shoots.put n d2 } : State).shoots.find n = some d2 := Table.find_put_self ..
  obtain ⟨hmem, hdrop⟩ := finishShoot_handles hfind
  obtain ⟨cs, ls, qs, hframe⟩ := updMemberBoth_frame s l (s.core g).rank (cutHandles d)
  refine ⟨_, hexec, hmem.trans (by show s2.mem = _; rw [show s2 = _ from hframe]), fun k => ?_⟩
  have hr : (s.core g).rank < y.cores.length := (List.getElem?_eq_some_iff.mp hcore).1
  have hget : y.cores.getD (s.core g).rank 0 = g := by rw [List.getD_eq_getElem?_getD, hcore, Option.getD_some]
  have hcut := core_updMemberBoth hy h1 h2 hr (cutHandles d)
  rw [hget] at hcut
  have hk := hdrop g k
  have hs2 : ({ s2 with shoots := s2.shoots.put n d2 } : State).core g = cutHandles d (s.core g) := hcut
  rw [hs2, hGet_cutHandles] at hk
  refine ⟨fun hv hh => ?_, fun hh => ?_⟩
  · rw [hv, hh, Bool.and_self, if_pos rfl] at hk
    rcases hk with heq | ⟨-, -, heq⟩
    · exact Or.inl (by rw [heq])
    · exact Or.inr (by rw [heq])
  · rw [hh, Bool.and_false, if_neg Bool.false_ne_true] at hk
    rcases hk with heq | ⟨-, hhit, -⟩
    · exact heq
    · exact absurd (hh.symm.trans hhit) Bool.false_ne_true

end

/-! ### A shootdown sets out -/

/-- A shootdown sets out to a core. -/
def setOut (n : Nat) (st : State) (g : Nat) : State :=
  (st.due (st.now + 1 + Config.shootDelay (st.place g)) 0 (.shootdownReachCore n g)).draw g

theorem setOut_traffic (n : Nat) (st : State) (g : Nat) : Traffic st (setOut n st g) := (due_traffic ..).trans (draw_traffic ..)

theorem foldl_setOut_due (n : Nat) (gs : List Nat) (st : State) {g : Nat} (hg : g ∈ gs) :
    ∃ z, st.now < z ∧ DueAt (gs.foldl (setOut n) st) z (.shootdownReachCore n g) := by
  induction gs generalizing st with
  | nil => cases hg
  | cons k gs ih =>
    rcases List.mem_cons.mp hg with rfl | hg
    · refine ⟨st.now + 1 + Config.shootDelay (st.place g), by omega, 0, ?_⟩
      exact (Traffic.foldl (fun s a => setOut_traffic n s a) gs _).agenda ((draw_traffic ..).agenda (mem_agenda_due ..))
    · obtain ⟨z, hz, hdue⟩ := ih (setOut n st k) hg
      exact ⟨z, (setOut_traffic n st k).now_eq ▸ hz, hdue⟩

theorem foldl_setOut_shoot (n : Nat) (gs : List Nat) (st : State) : gs.foldl (setOut n) st = st.withShoot (gs.foldl (setOut n) st) ∧
    (gs.foldl (setOut n) st).tcache = st.tcache ∧ (gs.foldl (setOut n) st).shoots = st.shoots := by
  induction gs generalizing st with
  | nil => exact ⟨rfl, rfl, rfl⟩
  | cons g gs ih =>
    obtain ⟨h1, h2, h3⟩ := ih (setOut n st g)
    exact ⟨withShoot_trans (b := setOut n st g) rfl h1, h2, h3⟩

/-- The members whose handles a shootdown cuts as it sets out: those that are on no core. -/
def cutRound (acc : State × Shootdown) (p : Nat × Nat) : State × Shootdown := reachMember acc.1 acc.2 p.1 p.2

theorem foldl_cutRound_shoot (ps : List (Nat × Nat)) (acc : State × Shootdown) :
    (ps.foldl cutRound acc).1 = acc.1.withShoot (ps.foldl cutRound acc).1 ∧ (ps.foldl cutRound acc).1.tcache = acc.1.tcache ∧
    (ps.foldl cutRound acc).1.shoots = acc.1.shoots ∧ ∃ rs, (ps.foldl cutRound acc).2 = { acc.2 with reached := rs } := by
  induction ps generalizing acc with
  | nil => exact ⟨rfl, rfl, rfl, acc.2.reached, rfl⟩
  | cons p ps ih =>
    obtain ⟨h1, h2, h3, rs, h4⟩ := ih (cutRound acc p)
    obtain ⟨cs, ls, qs, hframe⟩ := updMemberBoth_frame acc.1 p.1 p.2 (cutHandles acc.2)
    have hround : (cutRound acc p).1 = { acc.1 with cores := cs, launches := ls, checkpoints := qs } := hframe
    refine ⟨withShoot_trans (by rw [hround]; rfl) h1, h2.trans (by rw [hround]), h3.trans (by rw [hround]), rs, h4.trans rfl⟩

/-- The members of a function's placements that are on no core. -/
def savedMembers (s : State) (f : Nat) : List (Nat × Nat) := (membersOfFunc s f).filter fun p => savedOut s p.1

/-- The state once a shootdown has taken the matching translations out of every cache, and has stopped the writes of the ranges that it
matches. -/
def translationsGone (s : State) (d : Shootdown) : State :=
  let s0 : State := { s with nextId := s.nextId + 1 }
  let s1 := dropAccesses s0 fun _ a => stopsWrite s0 d a
  { s1 with
    tcache := s1.tcache.map fun (k, es) => (k, es.filter fun e => !d.hitsEntry e)
    directory := s1.directory.map fun (e, y) =>
      (e, { y with subs := y.subs.map fun b => if d.hitsRange b then { b with stopped := true } else b }) }

theorem translationsGone_shoot (s : State) (d : Shootdown) : translationsGone s d = s.withShoot (translationsGone s d) ∧
    (translationsGone s d).tcache = s.tcache.map (fun e => (e.1, e.2.filter fun e => !d.hitsEntry e)) ∧ (translationsGone s d).shoots = s.shoots := by
  unfold translationsGone
  have hdrop := dropAccesses_frame { s with nextId := s.nextId + 1 } fun _ a => stopsWrite { s with nextId := s.nextId + 1 } d a
  dsimp only
  generalize dropAccesses { s with nextId := s.nextId + 1 } (fun _ a => stopsWrite { s with nextId := s.nextId + 1 } d a) = s1 at hdrop
  have h1 : s1 = s.withShoot s1 := by rw [hdrop]; rfl
  have htc : s1.tcache = s.tcache := by rw [hdrop]
  have hsh : s1.shoots = s.shoots := by rw [hdrop]
  rw [htc]
  exact ⟨withShoot_trans h1 rfl, rfl, hsh⟩

/-- The members that are on no core reached, the shootdown is entered. -/
def shootEntered (s : State) (d : Shootdown) : State :=
  let p := (savedMembers s d.func).foldl cutRound (translationsGone s d, { d with waitCores := coresOfFunc s d.func, reached := [] })
  { p.1 with shoots := p.1.shoots.put s.nextId p.2 }

theorem startShoot_eq (s : State) (d : Shootdown) : startShoot s d =
    let u := (coresOfFunc s d.func).foldl (setOut s.nextId) (shootEntered s d)
    if (coresOfFunc s d.func).isEmpty then finishShoot u s.nextId else u := rfl

theorem shootEntered_spec (s : State) (d : Shootdown) : shootEntered s d = s.withShoot (shootEntered s d) ∧
    (shootEntered s d).tcache = s.tcache.map (fun e => (e.1, e.2.filter fun e => !d.hitsEntry e)) ∧
    ∃ rs, (shootEntered s d).shoots = s.shoots.put s.nextId { d with waitCores := coresOfFunc s d.func, reached := rs } ∧
      (savedMembers s d.func = [] → rs = []) := by
  obtain ⟨h1, htc1, hsh1⟩ := translationsGone_shoot s d
  obtain ⟨h2, htc2, hsh2, rs, hd⟩ := foldl_cutRound_shoot (savedMembers s d.func)
    (translationsGone s d, { d with waitCores := coresOfFunc s d.func, reached := [] })
  unfold shootEntered
  refine ⟨withShoot_trans h1 (withShoot_trans h2 rfl), htc2.trans htc1, rs, ?_, fun hno => ?_⟩
  · dsimp only at hsh2 ⊢
    rw [hsh2, hsh1, hd]
  · rw [hno] at hd
    exact (congrArg Shootdown.reached hd).symm

/-- What a shootdown that sets out leaves. -/
def Starts (s t : State) (d : Shootdown) : Prop := t.mem = s.mem ∧ (∀ hive, cacheOf t hive = (cacheOf s hive).filter fun e => !d.hitsEntry e) ∧
  ∀ g ∈ coresOfFunc s d.func, ∃ z, s.now < z ∧ DueAt t z (.shootdownReachCore s.nextId g)

theorem cacheOf_of_map {s t : State} {p : CacheEntry → Bool} (h : t.tcache = s.tcache.map (fun e => (e.1, e.2.filter p))) (hive : Nat) :
    cacheOf t hive = (cacheOf s hive).filter p := by
  rw [cacheOf, h]
  exact Table.get_map (f := List.filter p) rfl s.tcache hive

theorem startShoot_placed (s : State) (d : Shootdown) (h : coresOfFunc s d.func ≠ []) :
    Starts s (startShoot s d) d ∧ startShoot s d = s.withShoot (startShoot s d) := by
  obtain ⟨h1, htc1, -⟩ := shootEntered_spec s d
  obtain ⟨h2, htc2, -⟩ := foldl_setOut_shoot s.nextId (coresOfFunc s d.func) (shootEntered s d)
  have heq : startShoot s d = (coresOfFunc s d.func).foldl (setOut s.nextId) (shootEntered s d) := by
    rw [startShoot_eq]
    exact if_neg (by simpa using h)
  rw [heq]
  have hall := withShoot_trans h1 h2
  refine ⟨⟨by rw [hall]; rfl, cacheOf_of_map (htc2.trans htc1), fun g hg => ?_⟩, hall⟩
  obtain ⟨z, hz, hdue⟩ := foldl_setOut_due s.nextId (coresOfFunc s d.func) (shootEntered s d) hg
  have hnow : (shootEntered s d).now = s.now := by rw [h1]; rfl
  exact ⟨z, hnow ▸ hz, hdue⟩

theorem put_del {α : Type} {t : Table α} (hr : Rising t) (n : Nat) (x : α) : (t.put n x).del n = t.del n := by
  induction t with
  | nil => simp [Table.put, Table.del]
  | cons e t ih =>
    obtain ⟨k, v⟩ := e
    obtain ⟨hlt, hr'⟩ := List.pairwise_cons.mp hr
    simp only [Table.put, Table.del]
    split_ifs with h1 h2
    · simp [Table.del]
    · simp [Table.del]
    · simp only [Table.del, if_neg h1, if_neg h2, ih hr']

theorem startShoot_alone (s : State) (d : Shootdown) (h : coresOfFunc s d.func = []) : Starts s (startShoot s d) d ∧
    (savedMembers s d.func = [] → if d.host then (startShoot s d).cmdst = 0
      else Rising s.shoots → ((startShoot s d).func d.func).shootBusy = shootsOf (Table.del s.shoots s.nextId) d.func) := by
  obtain ⟨h1, htc1, rs, hsh, hrs⟩ := shootEntered_spec s d
  have heq : startShoot s d = finishShoot (shootEntered s d) s.nextId := by
    rw [startShoot_eq, h]
    rfl
  have hfind : (shootEntered s d).shoots.find s.nextId = some { d with waitCores := coresOfFunc s d.func, reached := rs } := by
    rw [hsh, Table.find_put_self]
  have hmem : (shootEntered s d).mem = s.mem := by rw [h1]; rfl
  have hcache : (finishShoot (shootEntered s d) s.nextId).tcache = (shootEntered s d).tcache := by
    obtain ⟨cs, ls, qs, hframe⟩ := foldl_dropRound_frame { d with waitCores := coresOfFunc s d.func, reached := rs } rs (shootEntered s d)
    have hshot : (shotDown (shootEntered s d) s.nextId { d with waitCores := coresOfFunc s d.func, reached := rs }).tcache =
      (shootEntered s d).tcache := by rw [shotDown, hframe]
    rw [finishShoot_eq hfind]
    split
    · split
      · exact hshot
      · exact hshot
    · rfl
  rw [heq]
  refine ⟨⟨(finishShoot_handles hfind).1.trans hmem, cacheOf_of_map (hcache.trans htc1), fun g hg => ?_⟩, fun hno => ?_⟩
  · rw [h] at hg
    cases hg
  · obtain ⟨-, htold⟩ := finishShoot_told hfind h fun p hp => by
      have hp' : p ∈ rs := hp
      rw [hrs hno] at hp'
      cases hp'
    rw [hsh] at htold
    by_cases hh : d.host = true
    · rw [if_pos hh]
      exact (if_pos hh).mp htold
    · rw [if_neg hh]
      intro hr
      have hbusy := (if_neg hh).mp htold
      rw [put_del hr] at hbusy
      exact hbusy

/-- With no placement on a core and none saved out or ended, no member of a function is on no core. -/
theorem savedMembers_of_none {s : State} {f : Nat} (hc : coresOfFunc s f = []) (hn : ∀ p ∈ s.launches, p.2.func = f → p.2.state ≠ .saved ∧ p.2.state ≠ .ended) :
    savedMembers s f = [] := by
  have hmembers : membersOfFunc s f = [] := by
    rw [membersOfFunc, List.flatMap_eq_nil_iff]
    rw [coresOfFunc, List.flatMap_eq_nil_iff] at hc
    intro p hp
    have hcp := hc p hp
    dsimp only at hcp ⊢
    split
    · next h =>
      simp only [Bool.and_eq_true, Bool.or_eq_true, decide_eq_true_eq] at h
      obtain ⟨hsaved, hended⟩ := hn p hp h.1
      have hrun : (decide (p.2.func = f) && (decide (p.2.state = .running) || decide (p.2.state = .stopped) || decide (p.2.state = .saving))) = true := by
        simp only [Bool.and_eq_true, Bool.or_eq_true, decide_eq_true_eq]
        exact ⟨h.1, by tauto⟩
      rw [if_pos hrun] at hcp
      rw [hcp]
      rfl
    · rfl
  rw [savedMembers, hmembers]
  rfl

theorem startShoot_starts (s : State) (d : Shootdown) : Starts s (startShoot s d) d := by
  by_cases h : coresOfFunc s d.func = []
  · exact (startShoot_alone s d h).1
  · exact (startShoot_placed s d h).1

/-- How the requester of a command's shootdown is told. -/
theorem startShoot_told (s : State) (d : Shootdown) (hd : d.host = true) : (coresOfFunc s d.func ≠ [] → (startShoot s d).cmdst = s.cmdst) ∧
    (coresOfFunc s d.func = [] → (∀ p ∈ s.launches, p.2.func = d.func → p.2.state ≠ .saved ∧ p.2.state ≠ .ended) → (startShoot s d).cmdst = 0) := by
  refine ⟨fun h => ?_, fun h hn => ?_⟩
  · rw [(startShoot_placed s d h).2]
    rfl
  · exact (if_pos hd).mp ((startShoot_alone s d h).2 (savedMembers_of_none h hn))

/-- A command that has started is in progress, and nothing else has changed. -/
theorem cmdStarted_eq (s : State) : ∃ w, cmdStarted s = { s with cmdst := w } ∧ w = 0xC000000000000000 :=
  ⟨_, rfl, by decide +kernel⟩

/-- A shootdown of a command, once the command has started. -/
theorem startShoot_command (s : State) (d : Shootdown) (hd : d.host = true) : Starts s (startShoot (cmdStarted s) d) d ∧
    (coresOfFunc s d.func ≠ [] → (startShoot (cmdStarted s) d).cmdst = 0xC000000000000000) ∧
    (coresOfFunc s d.func = [] → (∀ p ∈ s.launches, p.2.func = d.func → p.2.state ≠ .saved ∧ p.2.state ≠ .ended) →
      (startShoot (cmdStarted s) d).cmdst = 0) := by
  obtain ⟨w, hs, hw⟩ := cmdStarted_eq s
  rw [hs]
  obtain ⟨h1, h2⟩ := startShoot_told { s with cmdst := w } d hd
  exact ⟨startShoot_starts { s with cmdst := w } d, fun hc => (h1 hc).trans hw, h2⟩

/-- Settles O48: a shootdown sets out with its requests due; its end drops the cut handles of the members that it has reached. -/
theorem shootdowns : Obligations.Shootdowns := by
  refine ⟨fun s => ?_, fun s n d hd => ?_⟩
  · intro starts noneSaved told cmd
    refine ⟨?_, ?_, ?_⟩
    · let s1 := s.updFunc s.hostFn fun f => { f with shootN := s.hostVal, shootBusy := true }
      let d : Shootdown := { func := s.hostFn, kind := 0, first := entryOut (s.func s.hostFn).shootVa % 2 ^ 32
                             count := (bits s.hostVal 0 32).toNat, waitCores := [], reached := [], host := false }
      refine ⟨startShoot s1 d, rfl, startShoot_starts s1 d, fun hc => ?_, fun hc hr hn => ?_⟩
      · show (Table.get Func.reset (startShoot s1 d).funcs s.hostFn).shootBusy = true
        rw [(startShoot_placed s1 d hc).2]
        show (Table.get Func.reset (Table.put s.funcs s.hostFn _) s.hostFn).shootBusy = true
        rw [Table.get_put_self]
      · exact (startShoot_alone s1 d hc).2 (savedMembers_of_none hc hn) hr
    · let d : Shootdown := { func := cmd, kind := 1, first := (bits (s.operand 0x10) 16 32).toNat, count := (bits (s.operand 0x18) 0 32).toNat
                             waitCores := [], reached := [], host := true }
      exact ⟨startShoot (cmdStarted s) d, rfl, startShoot_command s d rfl⟩
    · let d : Shootdown := { func := cmd, kind := 2, first := 0, count := 0, waitCores := [], reached := [], host := true }
      exact ⟨startShoot (cmdStarted s) d, rfl, startShoot_command s d rfl⟩
  · refine ⟨fun g hg => exec_reachCore_not hd hg, fun g l y hg hl hy hf h1 h2 hc hn => reachCore_cuts hd hg hl hy hf h1 h2 hc hn,
      fun hw => congrArg _ (finishShoot_waits hd hw), fun hu => congrArg _ (finishShoot_uses hd hu), fun hw hu => ?_⟩
    obtain ⟨hdel, htold⟩ := finishShoot_told hd hw hu
    exact ⟨finishShoot s n, rfl, (finishShoot_handles hd).1, hdel, htold, fun l r y g ⟨q, hm⟩ hy h1 h2 hg k hcut hhit =>
      finishShoot_reached hd hw hu hm hy h1 h2 hg hcut hhit⟩

end Sys2Proof.Machine
end

section
/-!
PROOFS. Answers to a stop, restarts and checkpoint rollback (R349 to R359).
-/
namespace Sys2Proof.Machine

/-! ## Resume commands (R351, R373) -/

section
variable {s : State} {m : Nat}

theorem resume_none (hr : (s.func s.hostFn).resetting = false) (h : stoppedLaunch s s.hostFn = none) : resume s m = resumeStatus s s.hostFn 2 := by
  simp only [resume, hr, Bool.false_eq_true, if_false, h]

variable {l i : Nat} {x : Launch} {r : StopRec} (hr : (s.func s.hostFn).resetting = false) (h : stoppedLaunch s s.hostFn = some (l, x, i, r))
include hr h

theorem resume_refused (hm : m ∉ allowedModes r) : resume s m = resumeStatus s s.hostFn 1 := by
  have hno : (allowedModes r).contains m = false := by simpa using hm
  simp only [resume, hr, Bool.false_eq_true, if_false, h, hno, Bool.not_false, if_true]

theorem resume_terminate (hm : 4 ∈ allowedModes r) : resume s 4 = finishLaunch (resumeStatus s s.hostFn 0) l 1 := by
  have hyes : (allowedModes r).contains 4 = true := by simpa using hm
  simp only [resume, hr, Bool.false_eq_true, if_false, h, hyes, Bool.not_true, if_true]

/-- The launch with a record of its stop answered. -/
def answeredLaunch (x : Launch) (i : Nat) (r : StopRec) (m : Nat) : Launch := { x with stops := x.stops.set i { r with answer := some m } }

theorem resume_taken (hm : m ∈ allowedModes r) (h4 : m ≠ 4) :
    resume s m = tryRestart ((resumeStatus s s.hostFn 0).setLaunch l (answeredLaunch x i r m)) l := by
  have hyes : (allowedModes r).contains m = true := by simpa using hm
  simp only [resume, hr, Bool.false_eq_true, if_false, h, hyes, Bool.not_true, h4]
  rfl

end

/-- The launch that may restart, with the cycle of its restart or not. -/
theorem tryRestart_launch {s : State} {l : Nat} {x : Launch} (hx : s.launch? l = some x) :
    ∃ t, (tryRestart s l).launch? l = some { x with restart := t } := by
  unfold tryRestart
  rw [hx]
  dsimp only
  split
  · refine ⟨some (restartCycle s x), ?_⟩
    show (s.setLaunch l _).launch? l = _
    rw [launch_setLaunch, if_pos rfl]
    rfl
  · exact ⟨x.restart, hx⟩

/-- What a mode that is taken leaves. -/
theorem resume_taken_spec {s : State} {m l i : Nat} {x : Launch} {r : StopRec} (hr : (s.func s.hostFn).resetting = false)
    (h : stoppedLaunch s s.hostFn = some (l, x, i, r)) (hm : m ∈ allowedModes r) (h4 : m ≠ 4) : ∃ y, (resume s m).launch? l = some y ∧
      y.stops = x.stops.set i { r with answer := some m } ∧ ((resume s m).func s.hostFn).resMode = 0 ∧ (resume s m).mem = s.mem ∧
      (resume s m).cores = s.cores ∧
      (x.state = .stopped → x.walking = 0 → x.restart = none → x.terminated = none → translates s x.cores = false →
        (∀ q ∈ y.stops, q.answer.isSome) → (∀ k ∈ x.cores, (s.core k).elFault = []) →
        ∃ z, DueAt (resume s m) z (.placementRestart l) ∧ s.now < z ∧ z ≤ s.now + 64 ∧ z % 64 = x.stopPos % 64) := by
  let s1 := (resumeStatus s s.hostFn 0).setLaunch l (answeredLaunch x i r m)
  have hx1 : s1.launch? l = some (answeredLaunch x i r m) := (launch_setLaunch ..).trans (if_pos rfl)
  have hmode : (s1.func s.hostFn).resMode = 0 := by
    show (Table.get Func.reset (Table.put s.funcs s.hostFn _) s.hostFn).resMode = 0
    rw [Table.get_put_self]
    show BitVec.ofNat 64 (0 * 2 ^ 62) = 0
    rw [Nat.zero_mul]
    rfl
  rw [resume_taken hr h hm h4]
  obtain ⟨t, hy⟩ := tryRestart_launch hx1
  refine ⟨_, hy, rfl, ?_, ?_, ?_, fun hs hw hrs ht htr ha hf => tryRestart_due (s := s1) (x := answeredLaunch x i r m) hx1 hs hw hrs ht htr ha hf⟩
  · rw [tryRestart_frame]
    exact hmode
  · rw [tryRestart_frame]
    rfl
  · rw [tryRestart_frame]
    rfl

/-! ## The restart of a placement (R349, R351) -/

/-- A core with what the answers of a restart may change of another. -/
def Core.withAnswers (c d : Core) : Core :=
  { c with h := d.h, drawn := d.drawn, elFault := d.elFault, cmds := d.cmds, skip := d.skip, prt := d.prt, frozen := d.frozen, frozenBy := d.frozenBy }

/-- What the answers of a restart do to the state besides: steps, accesses and checkpoints. -/
structure Answered (s t : State) : Prop where
  state : t = { s with agenda := t.agenda, accesses := t.accesses, cores := t.cores, fresh := t.fresh, checkpoints := t.checkpoints }
  core : ∀ g, t.core g = (s.core g).withAnswers (t.core g)
  skip : ∀ g, (s.core g).skip = true → (t.core g).skip = true
  prt : ∀ g, (s.core g).prt = false → (t.core g).prt = false

theorem Answered.refl (s : State) : Answered s s := ⟨rfl, fun _ => rfl, fun _ h => h, fun _ h => h⟩

theorem Answered.trans {a b c : State} (h1 : Answered a b) (h2 : Answered b c) : Answered a c :=
  ⟨by rw [h2.state, h1.state], fun g => by rw [h2.core g, h1.core g]; rfl, fun g h => h2.skip g (h1.skip g h), fun g h => h2.prt g (h1.prt g h)⟩

theorem Answered.foldl {α : Type} {f : State → α → State} (l : List α) (hf : ∀ s, ∀ a ∈ l, Answered s (f s a)) (s : State) :
    Answered s (l.foldl f s) := by
  induction l generalizing s with
  | nil => exact .refl s
  | cons a l ih => exact (hf s a (List.mem_cons_self ..)).trans (ih (fun s b hb => hf s b (List.mem_cons_of_mem _ hb)) _)

/-- A core changed in what an answer may change. -/
theorem updCore_answered (s : State) (g : Nat) {f : Core → Core} (hf : ∀ c, f c = c.withAnswers (f c)) (hs : ∀ c, c.skip = true → (f c).skip = true)
    (hp : ∀ c, c.prt = false → (f c).prt = false) : Answered s (s.updCore g f) := by
  refine ⟨rfl, fun k => ?_, fun k h => ?_, fun k h => ?_⟩
  all_goals
    rw [core_updCore]
    split
  · next hk => rw [hk]; exact hf _
  · rfl
  · next hk => rw [hk] at h; exact hs _ h
  · exact h
  · next hk => rw [hk] at h; exact hp _ h
  · exact h

theorem Answered.of_sameCores {s t : State}
    (h : t = { s with agenda := t.agenda, accesses := t.accesses, cores := t.cores, fresh := t.fresh, checkpoints := t.checkpoints })
    (hc : t.cores = s.cores) : Answered s t := by
  have hcore : ∀ g, t.core g = s.core g := fun g => congrArg (fun x => Table.get Core.reset x g) hc
  exact ⟨h, fun g => by rw [hcore]; rfl, fun g hg => by rw [hcore]; exact hg, fun g hg => by rw [hcore]; exact hg⟩

theorem updPoint_answered (s : State) (g : Nat) (u : Core → Core) : Answered s (updPoint s g u) := by
  unfold updPoint
  split
  · exact .of_sameCores rfl rfl
  · exact .refl s

theorem updHandle_answered (s : State) (g h : Nat) (u : Handle → Handle) : Answered s (updHandle s g h u) :=
  (updCore_answered s g (f := fun c => c.hSet h (u ((s.core g).hGet h))) (fun _ => rfl) (fun _ h => h) fun _ h => h).trans (updPoint_answered ..)

theorem due_answered (s : State) (t k : Nat) (i : Instr) : Answered s (s.due t k i) := .of_sameCores rfl rfl

theorem draw_answered (s : State) (g : Nat) : Answered s (s.draw g) := updCore_answered s g (fun _ => rfl) (fun _ h => h) fun _ h => h

theorem redoXlate_answered (s : State) (g h : Nat) (x : Xlate) : Answered s (redoXlate s g h x) := by
  unfold redoXlate
  exact (updHandle_answered ..).trans ((due_answered ..).trans (draw_answered ..))

theorem redoXlates_answered (s : State) (g : Nat) : Answered s (redoXlates s g) := by
  refine Answered.foldl _ (fun st h _ => ?_) s
  split
  · split
    · exact redoXlate_answered ..
    · exact .refl st
  · exact .refl st

theorem retranslateOwn_answered (s : State) (l : Nat) (x : Launch) (g h : Nat) : Answered s (retranslateOwn s l x g h none) := by
  unfold retranslateOwn
  dsimp only
  split
  · split
    · exact updHandle_answered ..
    · exact .refl s
  · exact (updHandle_answered ..).trans (redoXlate_answered ..)

theorem applyAnswer_answered (l : Nat) (x : Launch) (s : State) (r : StopRec) (h : r.origin = 0 ∨ (r.kind ≠ 1 ∧ r.answer ≠ some 1)) :
    Answered s (applyAnswer l x s r) := by
  unfold applyAnswer
  split
  · next h1 =>
    have horigin : r.origin ≠ 2 := by
      rcases h with h | ⟨-, h⟩
      · omega
      · exact absurd h1 h
    split
    · simp only [retranslate, Option.bind_none]
      exact retranslateOwn_answered ..
    · exact .refl s
  · exact updCore_answered s _ (fun _ => rfl) (fun _ _ => rfl) fun _ h => h
  · refine Answered.foldl _ (fun st g _ => ?_) s
    exact (updCore_answered st g (f := fun c => { c with prt := false }) (fun _ => rfl) (fun _ h => h) fun _ _ => rfl).trans (updPoint_answered ..)
  · split
    · exact .refl s
    · next hkind =>
      have horigin : r.origin = 0 := by
        rcases h with h | ⟨h, -⟩
        · exact h
        · exact absurd (by simpa using hkind) h
      rw [horigin]
      split
      · exact updCore_answered s _ (fun _ => rfl) (fun _ h => h) fun _ h => h
      · exact .refl s

theorem foldl_clearPrt (gs : List Nat) (s : State) {g : Nat} (hg : g ∈ gs) :
    ((gs.foldl (fun st g => updPoint (st.updCore g fun c => { c with prt := false }) g fun c => { c with prt := false }) s).core g).prt = false := by
  have hround : ∀ (st : State) (k : Nat),
      Answered st (updPoint (st.updCore k fun c => { c with prt := false }) k fun c => { c with prt := false }) := fun st k =>
    (updCore_answered st k (f := fun c => { c with prt := false }) (fun _ => rfl) (fun _ h => h) fun _ _ => rfl).trans (updPoint_answered ..)
  induction gs generalizing s with
  | nil => cases hg
  | cons k gs ih =>
    rcases List.mem_cons.mp hg with rfl | hg
    · refine (Answered.foldl gs (fun st k _ => hround st k) _).prt g ?_
      rw [core_updPoint, core_updCore, if_pos rfl]
    · exact ih _ hg

/-- A record that CLEARPRT or SKIP answers. -/
theorem applyAnswer_effect (l : Nat) (x : Launch) (s : State) (r : StopRec) :
    (r.answer = some 3 → ∀ g ∈ x.cores, ((applyAnswer l x s r).core g).prt = false) ∧
    (r.answer = some 2 → ((applyAnswer l x s r).core r.g).skip = true) := by
  refine ⟨fun h g hg => ?_, fun h => ?_⟩
  · simp only [applyAnswer, h]
    exact foldl_clearPrt x.cores s hg
  · simp only [applyAnswer, h]
    rw [core_updCore, if_pos rfl]

/-- Some answer of a list has its effect, which the others leave. -/
theorem foldl_applyAnswer_effect (l : Nat) (x : Launch) (rs : List StopRec) (s : State)
    (h : ∀ r ∈ rs, r.origin = 0 ∨ (r.kind ≠ 1 ∧ r.answer ≠ some 1)) {r : StopRec} (hr : r ∈ rs) :
    (r.answer = some 3 → ∀ g ∈ x.cores, ((rs.foldl (applyAnswer l x) s).core g).prt = false) ∧
    (r.answer = some 2 → ((rs.foldl (applyAnswer l x) s).core r.g).skip = true) := by
  induction rs generalizing s with
  | nil => cases hr
  | cons q rs ih =>
    have h' : ∀ r ∈ rs, r.origin = 0 ∨ (r.kind ≠ 1 ∧ r.answer ≠ some 1) := fun p hp => h p (List.mem_cons_of_mem _ hp)
    rcases List.mem_cons.mp hr with rfl | hr
    · have hrest := Answered.foldl rs (fun st p hp => applyAnswer_answered l x st p (h' p hp)) (applyAnswer l x s r)
      obtain ⟨h3, h2⟩ := applyAnswer_effect l x s r
      exact ⟨fun ha g hg => hrest.prt g (h3 ha g hg), fun ha => hrest.skip _ (h2 ha)⟩
    · exact ih (applyAnswer l x s q) h' hr

theorem engineGoes_answered (s : State) (g e : Nat) : Answered s (engineGoes s g e) := by
  have hgo : ∀ t k i, Answered s ((s.dueOnce t k i).draw g) := fun t k i => by
    have hdue : Answered s (s.dueOnce t k i) := .of_sameCores (by rw [dueOnce_withAgenda]; rfl) (by rw [dueOnce_withAgenda]; rfl)
    exact hdue.trans (draw_answered ..)
  unfold engineGoes nextElement
  split
  · exact .refl s
  · split
    · exact .refl s
    · split
      · exact hgo ..
      · split
        · exact .refl s
        · exact hgo ..

theorem goOnEngines_answered (s : State) (g : Nat) : Answered s (goOnEngines s g) := by
  refine Answered.foldl _ (fun st e _ => ?_) s
  split
  · next m rest _ =>
    exact (updCore_answered st g (f := fun c => c.setCmds e ({ m with paused := false } :: rest)) (fun _ => rfl) (fun _ h => h)
      fun _ h => h).trans (engineGoes_answered ..)
  · exact .refl st

theorem wake_answered (s : State) (g : Nat) : Answered s (wake s g) := by
  have hw := wake_woken s g
  have hc := (wake_traffic s g).core
  refine ⟨by rw [hw]; rfl, fun k => by rw [hc k]; rfl, fun k h => by rw [hc k]; exact h, fun k h => by rw [hc k]; exact h⟩

/-! ### Cores that restart -/

/-- A core after the cycles on which it has not issued. -/
def Core.withHeld (c d : Core) : Core :=
  { c with refcyc := d.refcyc, heldcyc := d.heldcyc, drones := d.drones, turn := d.turn, hold := d.hold }

theorem settleHeld_spec (now cause : Nat) (c : Core) : settleHeld now cause c = c.withHeld (settleHeld now cause c) ∧
    (c.started = true → c.halted = false → (settleHeld now cause c).turn = Nat.max now c.turn) := by
  unfold settleHeld
  split
  · exact ⟨rfl, fun _ _ => rfl⟩
  · next h =>
    refine ⟨rfl, fun h1 h2 => absurd ?_ h⟩
    rw [h1, h2]
    rfl

/-- The cores of a placement at their restart. -/
theorem restartCores_spec (cause now : Nat) (gs : List Nat) (s : State) (g : Nat) :
    let t := gs.foldl (fun st g => st.updCore g (settleHeld now cause)) s
    t = { s with cores := t.cores } ∧ t.core g = (s.core g).withHeld (t.core g) ∧
      ((s.core g).started = true → (s.core g).halted = false → ((t.core g).turn = (s.core g).turn ∨ (t.core g).turn = Nat.max now (s.core g).turn) ∧
        (g ∈ gs → (t.core g).turn = Nat.max now (s.core g).turn)) := by
  induction gs generalizing s with
  | nil => exact ⟨rfl, rfl, fun _ _ => ⟨Or.inl rfl, fun h => by cases h⟩⟩
  | cons k gs ih =>
    obtain ⟨h1, h2, h3⟩ := ih (s.updCore k (settleHeld now cause))
    obtain ⟨hheld, hturn⟩ := settleHeld_spec now cause (s.core k)
    intro t
    by_cases hk : g = k
    · subst hk
      have hcore : (s.updCore g (settleHeld now cause)).core g = settleHeld now cause (s.core g) := by rw [core_updCore, if_pos rfl]
      rw [hcore] at h2 h3
      refine ⟨h1, ?_, fun hs hh => ?_⟩
      · refine h2.trans ?_
        rw [hheld]
        rfl
      · have hs' : (settleHeld now cause (s.core g)).started = true := by rw [hheld]; exact hs
        have hh' : (settleHeld now cause (s.core g)).halted = false := by rw [hheld]; exact hh
        have hlast : (t.core g).turn = Nat.max now (s.core g).turn := by
          rcases (h3 hs' hh').1 with he | he
          · exact he.trans (hturn hs hh)
          · refine he.trans ?_
            rw [hturn hs hh]
            exact Nat.max_eq_right (Nat.le_max_left ..)
        exact ⟨Or.inr hlast, fun _ => hlast⟩
    · have hcore : (s.updCore k (settleHeld now cause)).core g = s.core g := by rw [core_updCore, if_neg hk]
      rw [hcore] at h2 h3
      refine ⟨h1, h2, fun hs hh => ⟨(h3 hs hh).1, fun hm => (h3 hs hh).2 ?_⟩⟩
      rcases List.mem_cons.mp hm with he | hm
      · exact absurd he hk
      · exact hm

/-- Settles O49: the answers of a stop change handles, skip and trap bits, freezes and commands of cores, and nothing else of them. -/
theorem resumeAndRestart : Obligations.ResumeAndRestart := by
  refine ⟨fun s => ?_, fun s l x hx hrs hst hok => ?_⟩
  · intro f hr cmds
    have hmode : ∀ p ∈ cmds, exec p.2 s = .next (resume s p.1) := fun p hp => by
      simp only [cmds, List.mem_cons, List.not_mem_nil, or_false] at hp
      rcases hp with rfl | rfl | rfl | rfl | rfl
      all_goals rfl
    refine ⟨fun hn p hp => (hmode p hp).trans (congrArg _ (resume_none hr hn)), fun l x i r hstop p hp => ⟨fun hm => ?_, fun hm h4 => ?_, fun hm h4 => ?_⟩⟩
    · exact (hmode p hp).trans (congrArg _ (resume_refused hr hstop hm))
    · obtain ⟨y, hy⟩ := resume_taken_spec hr hstop hm h4
      exact ⟨_, y, hmode p hp, hy⟩
    · rw [hmode p hp, h4]
      exact congrArg _ (resume_terminate hr hstop (h4 ▸ hm))
  · let s1 := restartCores s (stopCause x) x.cores
    let s2 := s1.setLaunch l { x with state := .running, stops := [], restart := none }
    let s3 := x.cores.foldl redoXlates s2
    let s4 := x.stops.foldl (applyAnswer l x) s3
    let s5 := x.cores.foldl (fun st g => wake (goOnEngines st g) g) s4
    have hexec : exec (.placementRestart l) s = .next s5 := by
      have hgo : x.restart.isNone = false := by rw [← Option.not_isSome, hrs]; rfl
      show execPlacementRestart l s = _
      simp only [execPlacementRestart, hx, hgo, hst, Bool.false_eq_true, if_false, if_true]
      rfl
    have h3 : Answered s2 s3 := Answered.foldl _ (fun st g _ => redoXlates_answered st g) s2
    have h4 : Answered s3 s4 := Answered.foldl _ (fun st r hr => applyAnswer_answered l x st r (hok r hr)) s3
    have h5 : Answered s4 s5 := Answered.foldl _ (fun st g _ => (goOnEngines_answered st g).trans (wake_answered ..)) s4
    have h25 := (h3.trans h4).trans h5
    have hs1 : s1 = { s with cores := s1.cores } := (restartCores_spec (stopCause x) s.now x.cores s 0).1
    refine ⟨s5, { x with state := .running, stops := [], restart := none }, hexec, ?_, rfl, rfl, rfl, ?_, fun g hg => ?_, fun r hr ha => ?_⟩
    · have hl : s2.launch? l = some { x with state := .running, stops := [], restart := none } := (launch_setLaunch ..).trans (if_pos rfl)
      unfold State.launch? at hl ⊢
      rw [h25.state]
      exact hl
    · rw [h25.state]
      show s1.mem = s.mem
      rw [hs1]
    · obtain ⟨-, hheld, hturn⟩ := restartCores_spec (stopCause x) s.now x.cores s g
      have hcore : s5.core g = (s1.core g).withAnswers (s5.core g) := h25.core g
      have hheld' : s1.core g = (s.core g).withHeld (s1.core g) := hheld
      refine ⟨by rw [hcore, hheld']; rfl, by rw [hcore, hheld']; rfl, by rw [hcore, hheld']; rfl, by rw [hcore, hheld']; rfl, fun hs hh => ?_, ?_⟩
      · rw [hcore]
        exact (hturn hs hh).2 hg
      · rintro ⟨r, hr, ha⟩
        exact h5.prt g ((foldl_applyAnswer_effect l x x.stops s3 hok hr).1 ha g hg)
    · exact h5.skip r.g ((foldl_applyAnswer_effect l x x.stops s3 hok hr).2 ha)

/-! ## Checkpoint rollback (R353 to R359) -/

theorem writeBytes_frame (bs : List Byte) (s : State) (a : Nat) : writeBytes s a bs = { s with mem := (writeBytes s a bs).mem } := by
  induction bs generalizing s a with
  | nil => rfl
  | cons b bs ih =>
    rw [writeBytes, ih]
    rfl

/-- `undoLines` on a first entry. -/
theorem undoLines_cons (s : State) (l : Nat) (old : Line) (q : Bool) (ls : List (Nat × Line × Bool)) : undoLines s ((l, old, q) :: ls) =
    undoLines (setPoison (writeBytes s (l * 64) (leBytes 64 old.toNat)) (l * 64) q) ls := by
  delta undoLines
  rfl

theorem undoLines_frame (ls : List (Nat × Line × Bool)) (s : State) : ∃ m p, undoLines s ls = { s with mem := m, poison := p } := by
  induction ls generalizing s with
  | nil => exact ⟨_, _, rfl⟩
  | cons e ls ih =>
    obtain ⟨l, old, q⟩ := e
    rw [undoLines_cons]
    generalize leBytes 64 old.toNat = bs
    obtain ⟨m, p, h⟩ := ih (setPoison (writeBytes s (l * 64) bs) (l * 64) q)
    rw [h, writeBytes_frame]
    exact ⟨m, p, rfl⟩

/-- A step that begins translations of one core anew. -/
structure Renewed (g : Nat) (s t : State) : Prop where
  mem : t.mem = s.mem
  core : ∃ h d, t.core g = { s.core g with h := h, drawn := d }
  other : ∀ k ≠ g, t.core k = s.core k

theorem Renewed.refl (g : Nat) (s : State) : Renewed g s s := ⟨rfl, ⟨_, _, rfl⟩, fun _ _ => rfl⟩

theorem Renewed.trans {g : Nat} {a b c : State} (h1 : Renewed g a b) (h2 : Renewed g b c) : Renewed g a c := by
  obtain ⟨hm1, ⟨h, d, hc1⟩, ho1⟩ := h1
  obtain ⟨hm2, ⟨h', d', hc2⟩, ho2⟩ := h2
  exact ⟨hm2.trans hm1, ⟨h', d', by rw [hc2, hc1]⟩, fun k hk => (ho2 k hk).trans (ho1 k hk)⟩

theorem updHandle_renewed (s : State) (g h : Nat) (u : Handle → Handle) : Renewed g s (updHandle s g h u) := by
  refine ⟨by rw [updHandle_frame]; rfl, ?_, fun k hk => by rw [core_updHandle, if_neg hk]⟩
  rw [core_updHandle, if_pos rfl]
  exact ⟨_, _, rfl⟩

theorem due_renewed (g : Nat) (s : State) (t k : Nat) (i : Instr) : Renewed g s (s.due t k i) := ⟨rfl, ⟨_, _, rfl⟩, fun _ _ => rfl⟩

theorem draw_renewed (s : State) (g : Nat) : Renewed g s (s.draw g) := by
  refine ⟨rfl, ?_, fun k hk => by rw [State.draw, core_updCore, if_neg hk]⟩
  rw [State.draw, core_updCore, if_pos rfl]
  exact ⟨_, _, rfl⟩

theorem redoXlate_renewed (s : State) (g h : Nat) (x : Xlate) : Renewed g s (redoXlate s g h x) := by
  unfold redoXlate
  exact (updHandle_renewed ..).trans ((due_renewed ..).trans (draw_renewed ..))

theorem renewXlates_renewed (s : State) (g : Nat) : Renewed g s (renewXlates s g) := by
  unfold renewXlates
  generalize List.range 16 = l
  induction l generalizing s with
  | nil => exact .refl g s
  | cons h l ih =>
    rw [List.foldl_cons]
    refine Renewed.trans ?_ (ih _)
    split
    · split
      · exact .refl g s
      · exact redoXlate_renewed ..
    · exact .refl g s

section
variable {s : State} {g l : Nat} {x : Launch} {p : Core} (hp : s.checkpoints.find g = some [p]) (hl : (s.core g).launch = some l)
  (hx : s.launch? l = some x)

include hp in
/-- The restore leaves the checkpoint copy, but for what a restore keeps of the core. -/
theorem restoreRegion_spec (r : Rerun) : (∃ h d, (restoreRegion s g r).core g = { restoredCore s.now (s.core g) p r with h := h, drawn := d }) ∧
    (∀ k ≠ g, (restoreRegion s g r).core k = s.core k) ∧ ((s.core g).region.lines = [] → (restoreRegion s g r).mem = s.mem) := by
  obtain ⟨m, q, hundo⟩ := undoLines_frame (s.core g).region.lines s
  simp only [restoreRegion, hp]
  generalize hs1 : undoLines s (s.core g).region.lines = s1 at hundo
  have hcores : s1.cores = s.cores := by rw [hundo]
  generalize (List.filter _ s1.accesses : Table Access) = as
  generalize (List.map _ (List.filter _ s1.messages) : Table Message) = ms
  have hs2 : ∀ k, ({ s1.undue (discardedStep (s.core g) p g) with accesses := as, messages := ms } : State).core k = s.core k := fun k =>
    congrArg (fun t => Table.get Core.reset t k) hcores
  obtain ⟨hmem, ⟨h, d, hcore⟩, hother⟩ := renewXlates_renewed
    (({ s1.undue (discardedStep (s.core g) p g) with accesses := as, messages := ms } : State).setCore g (restoredCore s.now (s.core g) p r)) g
  refine ⟨⟨h, d, hcore.trans ?_⟩, fun k hk => (hother k hk).trans ?_, fun hnil => hmem.trans ?_⟩
  · rw [core_setCore, if_pos rfl]
  · rw [core_setCore, if_neg hk, hs2]
  · show s1.mem = s.mem
    rw [← hs1, hnil]
    rfl

include hl hx

section
variable (hh : (s.core g).halted = false) (hup : s.up = true) (hrun : x.state = .running)
include hh hup hrun

theorem exec_dataError_rerun {r : Rerun} (hr : (s.core g).rerun = some r) :
    exec (.dataErrorDetected g) s = .next (mismatch s g l 4 (r.sig1.setWidth 64) 0) := by
  show execDataErrorDetected g s = _
  simp only [execDataErrorDetected, hl, hx, hh, hup, hrun, hr]
  rfl

theorem exec_dataError_uncontained (hr : (s.core g).rerun = none) (hu : (s.core g).region.uncontained ≠ 0) :
    exec (.dataErrorDetected g) s = .next (mismatch s g l (s.core g).region.uncontained 0 0) := by
  show execDataErrorDetected g s = _
  simp only [execDataErrorDetected, hl, hx, hh, hup, hrun, hr, ne_eq, hu, not_false_eq_true, if_true]
  rfl

include hp in
theorem exec_dataError_restores (hr : (s.core g).rerun = none) (hu : (s.core g).region.uncontained = 0) (ha : atomicLost (s.core g) p = false) :
    exec (.dataErrorDetected g) s = .next (restoreRegion s g { run := 1, sig1 := 0, cyc1 := 0 }) := by
  show execDataErrorDetected g s = _
  simp only [execDataErrorDetected, hl, hx, hh, hup, hrun, hr, hu, hp, ha]
  rfl

end

include hp

variable {r : Rerun} (hr : (s.core g).rerun = some r)
include hr

omit hx in
theorem exec_rerunEnd_first (h1 : r.run = 1) : exec (.rollbackRerunEnd g) s =
    .next (restoreRegion s g { run := 2, sig1 := (s.core g).sig, cyc1 := (s.core g).cycle - p.cycle }) := by
  show execRollbackRerunEnd g s = _
  simp only [execRollbackRerunEnd, hr, hl, hp, h1, if_true]

omit hx in
theorem exec_rerunEnd_mismatch (h2 : r.run = 2) (hd : r.sig1 ≠ (s.core g).sig ∨ r.cyc1 ≠ (s.core g).cycle - p.cycle) :
    exec (.rollbackRerunEnd g) s = .next (mismatch s g l 1 (r.sig1.setWidth 64) ((s.core g).sig.setWidth 64)) := by
  have hno : ¬(decide (r.sig1 = (s.core g).sig) && decide (r.cyc1 = (s.core g).cycle - p.cycle)) = true := by
    simp only [Bool.and_eq_true, decide_eq_true_eq]
    tauto
  have h1 : ¬r.run = 1 := by omega
  show execRollbackRerunEnd g s = _
  simp only [execRollbackRerunEnd, hr, hl, hp, if_neg h1, if_neg hno]

omit hx in
theorem exec_rerunEnd_agree (h2 : r.run = 2) (hs : r.sig1 = (s.core g).sig) (hc : r.cyc1 = (s.core g).cycle - p.cycle) :
    exec (.rollbackRerunEnd g) s = .next (afterRollback (countRollback (rollbackRecord
      (s.setCore g { s.core g with rerun := none, rollbacks := (s.core g).rollbacks + 1 }) g l 4 0 0 0 0) g) l) := by
  have hyes : (decide (r.sig1 = (s.core g).sig) && decide (r.cyc1 = (s.core g).cycle - p.cycle)) = true := by
    rw [decide_eq_true hs, decide_eq_true hc]
    rfl
  have h1 : ¬r.run = 1 := by omega
  show execRollbackRerunEnd g s = _
  simp only [execRollbackRerunEnd, hr, hl, hp, if_neg h1, if_pos hyes]

end

/-- The record of a success and its count leave the cores and the launches. -/
theorem countRollback_record_spec (s : State) (g l : Nat) (a0 a1 : Word) (k : Nat) :
    (countRollback (rollbackRecord s g l 4 0 0 a0 a1) g).core k = s.core k ∧
    (countRollback (rollbackRecord s g l 4 0 0 a0 a1) g).launch? k = s.launch? k := by
  have hrecord : (rollbackRecord s g l 4 0 0 a0 a1).core k = s.core k ∧ (rollbackRecord s g l 4 0 0 a0 a1).launch? k = s.launch? k := by
    unfold rollbackRecord
    split
    · exact ⟨rfl, rfl⟩
    · dsimp only
      rw [if_neg (by decide), core_writeRecord, launch_writeRecord]
      exact ⟨rfl, rfl⟩
  have hcount : ∀ t : State, (countRollback t g).core k = t.core k ∧ (countRollback t g).launch? k = t.launch? k := fun t => by
    unfold countRollback
    dsimp only
    split
    · exact ⟨rfl, rfl⟩
    · exact ⟨rfl, rfl⟩
  exact ⟨(hcount _).1.trans hrecord.1, (hcount _).2.trans hrecord.2⟩

/-- With no fault and no pre-emption that has waited for it, the end of a rollback changes nothing more. -/
theorem afterRollback_quiet {s : State} {l : Nat} {x : Launch} (hx : s.launch? l = some x) (hq : ∀ k ∈ x.cores, (s.core k).later = [])
    (hpre : x.preempting = false) : afterRollback s l = s := by
  have hnone : x.cores.filter (fun g => !(s.core g).later.isEmpty) = [] :=
    List.filter_eq_nil_iff.mpr fun k hk => by rw [hq k hk]; exact Bool.false_ne_true
  simp only [afterRollback, hx, hnone, hpre]
  split <;> rfl

/-- Settles O50: the restore takes the checkpoint copy and keeps the counters; a success writes a record, which leaves every core. -/
theorem rollback : Obligations.Rollback := by
  intro s g l x p hp hl hx c restored
  have hrestored : ∀ r, restored (restoreRegion s g r) r := fun r => by
    obtain ⟨⟨h, d, hcore⟩, hother, hmem⟩ := restoreRegion_spec hp r
    have hturn : Nat.max s.now c.turn + (16 + c.region.units.length) = Nat.max s.now c.turn + 16 + c.region.units.length := (Nat.add_assoc ..).symm
    show ((restoreRegion s g r).core g).rerun = some r ∧ _
    rw [hcore]
    exact ⟨rfl, rfl, rfl, rfl, rfl, rfl, rfl, rfl, rfl, hturn, hother, hmem⟩
  refine ⟨fun hh hup hrun hr => ⟨fun hu => exec_dataError_uncontained hl hx hh hup hrun hr hu, fun hu ha =>
    ⟨_, exec_dataError_restores hp hl hx hh hup hrun hr hu ha, hrestored _⟩⟩, fun r hr => ⟨fun hh hup hrun =>
      exec_dataError_rerun hl hx hh hup hrun hr, fun h1 => ⟨_, exec_rerunEnd_first hp hl hr h1, hrestored _⟩, fun h2 hs hc hq hpre => ?_,
      fun h2 hd => exec_rerunEnd_mismatch hp hl hr h2 hd⟩⟩
  let c' : Core := { c with rerun := none, rollbacks := c.rollbacks + 1 }
  have hspec := countRollback_record_spec (s.setCore g c') g l 0 0
  have hexec := exec_rerunEnd_agree hp hl hr h2 hs hc
  generalize hu : countRollback (rollbackRecord (s.setCore g c') g l 4 0 0 0 0) g = u at hspec
  have hcore : ∀ k, u.core k = if k = g then c' else s.core k := fun k =>
    (hspec k).1.trans (core_setCore ..)
  have hxu : u.launch? l = some x := (hspec l).2.trans hx
  have hquiet : afterRollback u l = u := afterRollback_quiet hxu (fun k hk => by
    rw [hcore]
    split
    · next hkg => exact hq g (hkg ▸ hk)
    · exact hq k hk) hpre
  refine ⟨u, ?_, ?_, fun k hk => ?_⟩
  · rw [hexec, ← hquiet, ← hu]
  · rw [hcore, if_pos rfl]
  · rw [hcore, if_neg hk]

end Sys2Proof.Machine
end

section
/-!
PROOFS. Frames and polls of the front end (R319 to R324).
-/
namespace Sys2Proof.Machine

/-! ## Frames and polls (R319, R320, R322 to R324) -/

/-- A step of the front end: it keeps the time, the shepherd cores that have failed and every step that is due, and the steps that it adds
are accesses of the shepherd. -/
structure FrontStep (s t : State) : Prop where
  now : t.now = s.now
  shepDead : t.shepDead = s.shepDead
  kept : s.agenda ⊆ t.agenda
  added : ∀ e ∈ t.agenda, e ∈ s.agenda ∨ ∃ n p, e.2.2 = .accessPerform n p
  wf : Memory.wf s.mem = true → Memory.wf t.mem = true

theorem FrontStep.of_same {s t : State} (hn : t.now = s.now) (hs : t.shepDead = s.shepDead) (ha : t.agenda = s.agenda)
    (hm : Memory.wf s.mem = true → Memory.wf t.mem = true) : FrontStep s t :=
  ⟨hn, hs, ha ▸ List.Subset.refl _, fun _ he => .inl (ha ▸ he), hm⟩

theorem FrontStep.refl (s : State) : FrontStep s s := .of_same rfl rfl rfl id

theorem FrontStep.trans {a b c : State} (h1 : FrontStep a b) (h2 : FrontStep b c) : FrontStep a c :=
  ⟨h2.now.trans h1.now, h2.shepDead.trans h1.shepDead, fun _ he => h2.kept (h1.kept he),
    fun e he => (h2.added e he).elim (h1.added e) .inr, fun h => h2.wf (h1.wf h)⟩

theorem FrontStep.foldl {α : Type} {f : State → α → State} (hf : ∀ s a, FrontStep s (f s a)) (l : List α) (s : State) :
    FrontStep s (l.foldl f s) := by
  induction l generalizing s with
  | nil => exact .refl s
  | cons a l ih => exact (hf s a).trans (ih _)

theorem FrontStep.ite {s a b : State} {p : Prop} [Decidable p] (ha : FrontStep s a) (hb : FrontStep s b) : FrontStep s (if p then a else b) := by
  split
  · exact ha
  · exact hb

/-- A step of cells that makes nothing due is one of the front end. -/
theorem Cells.frontStep {s t : State} (h : Cells s t) (ha : t.agenda = s.agenda) : FrontStep s t :=
  .of_same h.now_eq (by rw [h.state]; rfl) ha h.wf

theorem updQueue_frontStep (s : State) (n : Nat) (u : Queue → Queue) : FrontStep s (s.updQueue n u) := by
  unfold State.updQueue
  split
  · exact .of_same rfl rfl rfl id
  · exact .refl s

theorem updFunc_frontStep (s : State) (f : Nat) (u : Func → Func) : FrontStep s (s.updFunc f u) := .of_same rfl rfl rfl id

theorem queues_frontStep (s : State) (q : Table Queue) : FrontStep s { s with queues := q } := .of_same rfl rfl rfl id

theorem slots_frontStep (s : State) (k : Table (Option Nat)) : FrontStep s { s with slots := k } := .of_same rfl rfl rfl id

theorem launches_frontStep (s : State) (l : Table Launch) : FrontStep s { s with launches := l } := .of_same rfl rfl rfl id

/-! ### What the front end tells the host -/

theorem writeBytes_agenda (s : State) (a : Nat) (bs : List Byte) : (writeBytes s a bs).agenda = s.agenda := by
  rw [writeBytes_frame]

theorem writeWords_frame (s : State) (a : Nat) (ws : List Word) : writeWords s a ws = { s with mem := (writeWords s a ws).mem } := by
  induction ws generalizing s a with
  | nil => rfl
  | cons w ws ih =>
    rw [writeWords_cons, ih, writeWord, writeBytes_frame]

theorem writeWords_agenda (s : State) (a : Nat) (ws : List Word) : (writeWords s a ws).agenda = s.agenda := by
  rw [writeWords_frame]

theorem noteAts_agenda (s : State) (f a : Nat) : (noteAts s f a).agenda = s.agenda := by
  unfold noteAts
  split <;> rfl

theorem sendMsix_agenda (s : State) (f v : Nat) : (sendMsix s f v).agenda = s.agenda := by
  unfold sendMsix
  split <;> rfl

theorem putHealth_agenda (s : State) (ws : List Word) : (putHealth s ws).agenda = s.agenda := by
  unfold putHealth
  dsimp only
  split
  · rfl
  · rw [sendMsix_agenda]
    split
    · exact writeWords_agenda ..
    · rfl

theorem unitEvent_agenda (s : State) (kind event die unit : Nat) (args : List Word) : (unitEvent s kind event die unit args).agenda = s.agenda := by
  unfold unitEvent
  dsimp only
  split
  · rfl
  · split
    · split <;> rfl
    · rw [putHealth_agenda]

theorem unitEvent_frontStep (s : State) (kind event die unit : Nat) (args : List Word) : FrontStep s (unitEvent s kind event die unit args) :=
  (unitEvent_cells ..).frontStep (unitEvent_agenda ..)

theorem noteAts_frontStep (s : State) (f a : Nat) : FrontStep s (noteAts s f a) := (noteAts_cells ..).frontStep (noteAts_agenda ..)

theorem putRecord_frontStep (s : State) (f : Nat) (ws : List Word) : FrontStep s (putRecord s f ws) := by
  unfold putRecord
  dsimp only
  refine FrontStep.trans ?_ ((sendMsix_cells ..).frontStep (sendMsix_agenda ..))
  refine FrontStep.trans ?_ (updFunc_frontStep ..)
  refine FrontStep.trans ((updFunc_frontStep s f _).trans (noteAts_frontStep ..)) (.ite ?_ (updFunc_frontStep ..))
  exact (writeWords_cells ..).frontStep (writeWords_agenda ..)

theorem drainRecords_frontStep (f : Nat) (l : List (List Word)) (s : State) : FrontStep s (drainRecords f l s) := by
  induction l generalizing s with
  | nil => exact updFunc_frontStep ..
  | cons ws l ih =>
    unfold drainRecords
    exact .ite ((putRecord_frontStep ..).trans (ih _)) (updFunc_frontStep ..)

/-! ### Control blocks, which lie in host memory (R316) -/

theorem shepherdAccess_frontStep (s : State) (f : Nat) (kind : AccessKind) (pa len : Nat) (data : List (Option Byte)) (t : Nat) :
    FrontStep s (shepherdAccess s f kind pa len data t).2 :=
  ⟨rfl, rfl, fun _ he => (mem_insertDue ..).mpr (.inr he), fun _ he => ((mem_insertDue ..).mp he).elim (fun h => .inr ⟨_, _, congrArg (·.2.2) h⟩) .inl, id⟩

theorem storeNow_frontStep (s : State) (f : Nat) {pa : Nat} (data : List Byte) (hpa : hostBase ≤ pa) : FrontStep s (storeNow s f pa data) := by
  have hscratch : isScratch pa = false := by
    unfold isScratch scratchBase hostBase at *
    simp only [Bool.and_eq_false_iff, decide_eq_false_iff_not]
    omega
  have hhbm : isHbm pa = false := by
    unfold isHbm hostBase at *
    simp only [decide_eq_false_iff_not]
    omega
  unfold storeNow
  rw [hscratch, hhbm]
  refine .ite ?_ (.refl s)
  refine FrontStep.trans ((updFunc_frontStep s f _).trans (noteAts_frontStep ..)) (.ite ?_ (updFunc_frontStep ..))
  exact (writeBytes_cells ..).frontStep (writeBytes_agenda ..)

theorem cutLines_above {lo : Nat} (fuel off a n : Nat) (ha : lo ≤ a) : ∀ sp ∈ cutLines fuel off a n, lo ≤ sp.pa := by
  induction fuel generalizing off a n with
  | zero => exact fun _ h => absurd h List.not_mem_nil
  | succ k ih =>
    unfold cutLines
    split
    · exact fun _ h => absurd h List.not_mem_nil
    · intro sp hsp
      dsimp only at hsp
      rcases List.mem_cons.mp hsp with h | h
      · subst h
        exact ha
      · exact ih _ _ _ (by omega) sp h

theorem deviceStore_frontStep (s : State) (f : Nat) {pa : Nat} (data : List Byte) (hpa : hostBase ≤ pa) :
    FrontStep s (deviceStore s f pa data) := by
  have hspans : ∀ sp ∈ storeSpans pa data.length, hostBase ≤ sp.pa := by
    unfold storeSpans
    split
    · intro sp hsp
      rw [List.mem_singleton.mp hsp]
      exact hpa
    · exact cutLines_above _ _ _ _ hpa
  unfold deviceStore deviceStoreAt deviceStoreFrom
  generalize storeSpans pa data.length = l at hspans
  generalize hp : (s, (none : Option Nat)) = p
  have hs : s = p.1 := congrArg Prod.fst hp
  rw [hs]
  clear hp hs
  induction l generalizing p with
  | nil => exact .refl _
  | cons sp l ih =>
    rw [List.foldl_cons]
    refine FrontStep.trans ?_ (ih (fun x hx => hspans x (List.mem_cons_of_mem _ hx)) _)
    dsimp only
    split
    · exact storeNow_frontStep _ _ _ (hspans sp List.mem_cons_self)
    · exact shepherdAccess_frontStep ..

theorem storeQcb_frontStep (s : State) (f a v : Nat) : FrontStep s (storeQcb s f (hostBase + a) v) :=
  deviceStore_frontStep _ _ _ (Nat.le_add_right ..)

theorem writeQcb_frontStep (s : State) (n : Nat) : FrontStep s (writeQcb s n) := by
  unfold writeQcb
  split
  · exact .refl s
  · simp only [Nat.add_assoc]
    exact (((storeQcb_frontStep ..).trans (storeQcb_frontStep ..)).trans (storeQcb_frontStep ..)).trans (storeQcb_frontStep ..)

theorem endChain_frontStep (s : State) (n lsn status : Nat) : FrontStep s (endChain s n lsn status) := by
  unfold endChain
  dsimp only
  refine FrontStep.trans ?_ (launches_frontStep ..)
  exact FrontStep.trans (updQueue_frontStep ..) (.ite (queues_frontStep ..) (.refl _))

theorem discardWaiting_frontStep (s : State) (n : Nat) : FrontStep s (discardWaiting s n) := by
  unfold discardWaiting
  refine FrontStep.foldl (fun st e => ?_) _ s
  refine FrontStep.trans (launches_frontStep st (st.launches.del e.1)) ?_
  exact .ite (.refl _) (endChain_frontStep ..)

theorem queueError_frontStep (s : State) (n code a : Nat) : FrontStep s (queueError s n code a) := by
  unfold queueError
  exact ((updQueue_frontStep ..).trans (discardWaiting_frontStep ..)).trans (writeQcb_frontStep ..)

theorem chargedQcb_frontStep (s : State) (f n a : Nat) : FrontStep s (noteAts (chargeHost s f n) f a) :=
  (updFunc_frontStep s f _).trans (noteAts_frontStep ..)

theorem compareShadow_frontStep (s : State) (n : Nat) (q : Queue) : FrontStep s (compareShadow s n q) := by
  unfold compareShadow
  exact .ite (chargedQcb_frontStep ..) ((chargedQcb_frontStep ..).trans (unitEvent_frontStep ..))

theorem readQcb_frontStep (s : State) (n : Nat) : FrontStep s (readQcb s n) := by
  unfold readQcb
  split
  · exact .refl s
  · dsimp only
    refine .ite (.refl s) (.ite ?_ ?_)
    · exact ((compareShadow_frontStep ..).trans (updQueue_frontStep ..)).trans (queueError_frontStep ..)
    · exact (compareShadow_frontStep ..).trans (updQueue_frontStep ..)

theorem bindQueue_frontStep (s : State) (n k : Nat) : FrontStep s (bindQueue s n k) := by
  unfold bindQueue
  exact (((slots_frontStep ..).trans (updQueue_frontStep ..)).trans (readQcb_frontStep ..)).trans (writeQcb_frontStep ..)

theorem unbindQueue_frontStep (s : State) (n : Nat) : FrontStep s (unbindQueue s n) := by
  unfold unbindQueue
  split
  · exact .refl s
  · refine FrontStep.trans (FrontStep.trans ?_ (updQueue_frontStep ..)) (writeQcb_frontStep ..)
    split
    · exact slots_frontStep ..
    · exact .refl s

theorem finishReset_frontStep (s : State) (n : Nat) : FrontStep s (finishReset s n) := by
  unfold finishReset
  split
  · exact .refl s
  · dsimp only
    refine .ite (.refl s) (.ite ?_ (FrontStep.trans ?_ (writeQcb_frontStep ..)))
    all_goals exact FrontStep.trans (.ite (chargedQcb_frontStep ..) (.refl s)) (updQueue_frontStep ..)

theorem giveSlot_frontStep (s : State) (n : Nat) : FrontStep s (giveSlot s n) := by
  unfold giveSlot
  split
  · exact .refl s
  · split
    · exact bindQueue_frontStep ..
    · exact .refl s

theorem cmdDone_frontStep (s : State) : FrontStep s (cmdDone s) := .of_same rfl rfl rfl id

theorem bindAll_frontStep (s : State) : FrontStep s (bindAll s) := by
  unfold bindAll
  exact (FrontStep.foldl (fun st n => (giveSlot_frontStep st n).trans (cmdDone_frontStep _)) _ s).trans (.foldl giveSlot_frontStep _ _)

theorem unbindAll_frontStep (s : State) : FrontStep s (unbindAll s) := by
  unfold unbindAll
  refine FrontStep.foldl (fun st e => ?_) _ s
  dsimp only
  split
  · exact .ite (unbindQueue_frontStep ..) (.refl st)
  · exact .refl st

/-! ### The start of a frame -/

/-- The budgets of a frame start anew, and the shepherd cores whose time has come count as failed no more. -/
def budgetsAnew (s : State) : State :=
  { s with funcs := s.funcs.map fun (f, x) => (f, { x with hostBytes := x.hostBytes - x.hostQuota })
           shepDead := s.shepDead.filter fun (_, until_) => s.now / 12000 < until_ }

/-- What the start of a frame does before bindings change: events, records and resets. -/
def frameCatchUp (s : State) : State :=
  let come := (s.shepDead.filter fun (_, until_) => until_ ≤ s.now / 12000).map (·.1)
  let s1 := come.foldl (fun st k => unitEvent st 2 3 (k / 8) k [BitVec.ofNat 64 k]) (budgetsAnew s)
  let s2 := s.funcs.foldl (fun st (f, x) => drainRecords f x.frHeld st) s1
  s2.queues.foldl (fun st (n, _) => finishReset st n) s2

/-- The bindings of a frame. -/
def frameBindings (s : State) : State := bindAll (unbindAll (freeStale s))

/-- The polls of the frame that begins at a reference cycle become due. -/
def framePolls (b : Nat) (s : State) : State := s.slots.foldl (fun st (k, q) => if q.isSome then duePoll b st k else st) s

theorem exec_frameStart (s : State) : exec .frameStart s =
    .next ((framePolls s.now (frameBindings (frameCatchUp s))).due ((framePolls s.now (frameBindings (frameCatchUp s))).now + 12000) 0 .frameStart) := by
  show execFrameStart s = _
  unfold execFrameStart framePolls frameBindings frameCatchUp budgetsAnew
  rfl

theorem frameCatchUp_frontStep (s : State) : FrontStep (budgetsAnew s) (frameCatchUp s) := by
  unfold frameCatchUp
  refine FrontStep.trans (FrontStep.trans (.foldl ?_ _ _) (.foldl ?_ _ _)) (.foldl ?_ _ _)
  · exact fun st k => unitEvent_frontStep ..
  · exact fun st e => drainRecords_frontStep ..
  · exact fun st e => finishReset_frontStep ..

theorem frameBindings_frontStep (s : State) : FrontStep s (frameBindings s) :=
  ((slots_frontStep s _).trans (unbindAll_frontStep _)).trans (bindAll_frontStep _)

theorem duePoll_onlyDue (b : Nat) (s : State) (k : Nat) : OnlyDue s (duePoll b s k) := by
  unfold duePoll
  dsimp only
  split
  · exact dueOnce_withAgenda ..
  · rfl

theorem framePolls_onlyDue (b : Nat) (s : State) : OnlyDue s (framePolls b s) := by
  refine OnlyDue.foldl (fun st e => ?_) _ s
  dsimp only
  split
  · exact duePoll_onlyDue ..
  · rfl

section
variable {b k : Nat} {s : State}

theorem duePoll_kept (b : Nat) (s : State) (j : Nat) : s.agenda ⊆ (duePoll b s j).agenda := by
  unfold duePoll State.dueOnce
  dsimp only
  split
  · split
    · exact List.Subset.refl _
    · exact fun _ he => (mem_insertDue ..).mpr (.inr he)
  · exact List.Subset.refl _

theorem duePoll_added {j : Nat} {e : Nat × Nat × Instr} (he : e ∈ (duePoll b s j).agenda) :
    e ∈ s.agenda ∨ e = (b + pollTime j, 40 + j, .slotPoll j) := by
  unfold duePoll State.dueOnce at he
  dsimp only at he
  split at he
  · split at he
    · exact .inl he
    · exact ((mem_insertDue ..).mp he).symm
  · exact .inl he

/-- The polls of slot `k` that are due are those of the frame that begins at reference cycle `b`. -/
def PollsOf (b k : Nat) (s : State) : Prop := ∀ e ∈ s.agenda, e.2.2 = .slotPoll k → e.1 = b + pollTime k

theorem pollsOf_duePoll (h : PollsOf b k s) (j : Nat) : PollsOf b k (duePoll b s j) := by
  intro e he hk
  rcases duePoll_added he with hold | hnew
  · exact h e hold hk
  · rw [hnew] at hk ⊢
    cases hk
    rfl

theorem duePoll_due (h : PollsOf b k s) (hb : s.now ≤ b) (hup : ∀ x ∈ s.shepDead, x.1 ≠ pollCore k) : DueAt (duePoll b s k) (b + pollTime k) (.slotPoll k) := by
  have hnone : (s.shepDead.any fun (c, _) => c == pollCore k) = false := by
    simp only [List.any_eq_false, beq_iff_eq]
    exact hup
  have hle : decide (s.now ≤ b + pollTime k) = true := decide_eq_true (by omega)
  unfold duePoll State.dueOnce
  dsimp only
  rw [hnone, hle]
  split
  · split
    · next hany =>
      obtain ⟨e, he, hi⟩ := List.any_eq_true.mp hany
      have hi' : e.2.2 = .slotPoll k := by simpa using hi
      refine ⟨e.2.1, ?_⟩
      rw [← h e he hi', ← hi']
      exact he
    · exact dueAt_due ..
  · next hno => exact absurd rfl hno

/-- One round of the polls of a frame. -/
def pollRound (b : Nat) (s : State) (e : Nat × Option Nat) : State := if e.2.isSome then duePoll b s e.1 else s

theorem pollRound_kept (b : Nat) (s : State) (e : Nat × Option Nat) : s.agenda ⊆ (pollRound b s e).agenda := by
  unfold pollRound
  split
  · exact duePoll_kept ..
  · exact List.Subset.refl _

theorem pollRound_onlyDue (b : Nat) (s : State) (e : Nat × Option Nat) : OnlyDue s (pollRound b s e) := by
  unfold pollRound
  split
  · exact duePoll_onlyDue ..
  · rfl

theorem pollsOf_pollRound (h : PollsOf b k s) (e : Nat × Option Nat) : PollsOf b k (pollRound b s e) := by
  unfold pollRound
  split
  · exact pollsOf_duePoll h _
  · exact h

theorem foldl_pollRound_kept (l : List (Nat × Option Nat)) : s.agenda ⊆ (l.foldl (pollRound b) s).agenda := by
  induction l generalizing s with
  | nil => exact List.Subset.refl _
  | cons e l ih => exact fun _ he => ih (pollRound_kept b s e he)

/-- Every bound slot is polled at its place in the frame, but for those of a failed shepherd core. -/
theorem foldl_pollRound_due (l : List (Nat × Option Nat)) {n : Nat} (hmem : (k, some n) ∈ l) (h : PollsOf b k s) (hb : s.now ≤ b)
    (hup : ∀ x ∈ s.shepDead, x.1 ≠ pollCore k) : DueAt (l.foldl (pollRound b) s) (b + pollTime k) (.slotPoll k) := by
  induction l generalizing s with
  | nil => exact absurd hmem List.not_mem_nil
  | cons e l ih =>
    rw [List.foldl_cons]
    rcases List.mem_cons.mp hmem with heq | htail
    · obtain ⟨q, hq⟩ := duePoll_due h hb hup
      refine ⟨q, foldl_pollRound_kept l ?_⟩
      rw [← heq]
      exact hq
    · have honly := pollRound_onlyDue b s e
      refine ih htail (pollsOf_pollRound h e) ?_ ?_
      · rw [honly]
        exact hb
      · rw [honly]
        exact hup

theorem framePolls_eq (b : Nat) (s : State) : framePolls b s = s.slots.foldl (pollRound b) s := rfl

end

/-! ### What a function has moved to and from the host -/

theorem putHealth_hostBytes (s : State) (ws : List Word) (f : Nat) : ((putHealth s ws).func f).hostBytes = (s.func f).hostBytes := by
  unfold putHealth
  dsimp only
  split
  · rfl
  · have hmsix : ∀ (t : State) (v : Nat), ((sendMsix t 0 v).func f).hostBytes = (t.func f).hostBytes := fun t v => by
      unfold sendMsix
      split <;> rfl
    have htail : ∀ (t : State) (n : Nat), ({ t with hrTail := n } : State).func f = t.func f := fun _ _ => rfl
    rw [hmsix, htail]
    split
    · rw [writeWords_frame]
      rfl
    · rw [func_updFunc]
      split
      · next h => rw [h]
      · rfl

theorem unitEvent_hostBytes (s : State) (kind event die unit : Nat) (args : List Word) (f : Nat) :
    ((unitEvent s kind event die unit args).func f).hostBytes = (s.func f).hostBytes := by
  unfold unitEvent
  dsimp only
  split
  · rfl
  · split
    · split <;> rfl
    · rw [putHealth_hostBytes]
      rfl

/-- No queue reads its control block in a frame. -/
def QueuesQuiet (s : State) : Prop := ∀ x ∈ s.queues, x.2.ring = false ∧ x.2.blocked ≠ .bind ∧ x.2.doorbell = none ∧ x.2.state ≠ 3

section
variable {s : State} (h : QueuesQuiet s)
include h

theorem QueuesQuiet.queue {n : Nat} {q : Queue} (hq : s.queue? n = some q) : q.ring = false ∧ q.state ≠ 3 := by
  obtain ⟨hring, -, -, hstate⟩ := h (n, q) (Table.mem_of_find hq)
  exact ⟨hring, hstate⟩

theorem finishReset_of_quiet (n : Nat) : finishReset s n = s := by
  unfold finishReset
  split
  · rfl
  · next q hq =>
    have hne : (q.state != 3) = true := by simpa using (h.queue hq).2
    simp only [hne, Bool.true_or, if_true]

theorem foldl_finishReset_of_quiet (l : Table Queue) : l.foldl (fun st (n, _) => finishReset st n) s = s := by
  induction l with
  | nil => rfl
  | cons e l ih =>
    obtain ⟨n, q⟩ := e
    rw [List.foldl_cons]
    dsimp only
    rw [finishReset_of_quiet h, ih]

theorem unbindAll_of_quiet : unbindAll s = s := by
  unfold unbindAll
  generalize s.queues = l
  induction l with
  | nil => rfl
  | cons e l ih =>
    obtain ⟨n, q0⟩ := e
    rw [List.foldl_cons]
    dsimp only
    split
    · next q hq =>
      have hno : mayUnbind s n q = false := by
        unfold mayUnbind
        rw [(h.queue hq).1]
        rfl
      rw [hno]
      exact ih
    · exact ih

theorem bells_of_quiet : bells s = [] := by
  have hbell : ∀ x ∈ s.queues, x.2.doorbell = none := fun x hx => (h x hx).2.2.1
  unfold bells
  rw [List.map_eq_nil_iff]
  generalize s.queues = l at hbell
  induction l with
  | nil => rfl
  | cons e l ih =>
    rw [List.foldl_cons]
    simp only [hbell e List.mem_cons_self]
    exact ih fun x hx => hbell x (List.mem_cons_of_mem _ hx)

theorem bindAll_of_quiet : bindAll s = s := by
  have hmade : (s.queues.filter fun (_, q) => q.blocked == Block.bind) = [] :=
    List.filter_eq_nil_iff.mpr fun x hx => by simpa using (h x hx).2.1
  unfold bindAll
  simp only [hmade, List.map_nil, List.foldl_nil, bells_of_quiet h]

end

/-- A function's count of host bytes stays. -/
def SameTraffic (s t : State) : Prop := ∀ f, (t.func f).hostBytes = (s.func f).hostBytes

theorem foldl_sameTraffic {α : Type} {u : State → α → State} (l : List α) (hu : ∀ s, ∀ a ∈ l, SameTraffic s (u s a)) (s : State) :
    SameTraffic s (l.foldl u s) := by
  induction l generalizing s with
  | nil => exact fun _ => rfl
  | cons a l ih =>
    exact fun f => (ih (fun t b hb => hu t b (List.mem_cons_of_mem _ hb)) _ f).trans (hu s a List.mem_cons_self f)

theorem drainRecords_nil_sameTraffic (k : Nat) (s : State) : SameTraffic s (drainRecords k [] s) := by
  intro f
  unfold drainRecords
  rw [func_updFunc]
  split
  · next h => rw [h]
  · rfl

theorem budgetsAnew_hostBytes (s : State) (f : Nat) : ((budgetsAnew s).func f).hostBytes = (s.func f).hostBytes - (s.func f).hostQuota :=
  congrArg Func.hostBytes (Table.get_map (d := Func.reset) (f := fun x => { x with hostBytes := x.hostBytes - x.hostQuota }) rfl s.funcs f)

theorem unitEvent_queues (s : State) (kind event die unit : Nat) (args : List Word) : (unitEvent s kind event die unit args).queues = s.queues := by
  rw [(unitEvent_cells s kind event die unit args).state]
  rfl

section
variable {s : State} (hheld : ∀ x ∈ s.funcs, x.2.frHeld = []) (hquiet : QueuesQuiet s)
include hheld hquiet

/-- Where no record waits and no queue reads its control block, what happens at the start of a frame moves nothing to or from the host. -/
theorem frame_sameTraffic : SameTraffic (budgetsAnew s) (framePolls s.now (frameBindings (frameCatchUp s))) := by
  unfold frameCatchUp
  generalize hs1 : ((s.shepDead.filter fun (_, until_) => decide (until_ ≤ s.now / 12000)).map (·.1)).foldl
    (fun st k => unitEvent st 2 3 (k / 8) k [BitVec.ofNat 64 k]) (budgetsAnew s) = s1
  generalize hs2 : s.funcs.foldl (fun st (f, x) => drainRecords f x.frHeld st) s1 = s2
  have hq1 : s1.queues = s.queues := by
    rw [← hs1]
    exact List.foldlRecOn _ _ (motive := fun t : State => t.queues = s.queues) rfl fun t ht k _ => (unitEvent_queues ..).trans ht
  have hq2 : s2.queues = s.queues := by
    rw [← hs2]
    refine List.foldlRecOn _ _ (motive := fun t : State => t.queues = s.queues) hq1 fun t ht e he => ?_
    dsimp only
    rw [hheld e he]
    exact ht
  have hquiet2 : QueuesQuiet s2 := by
    unfold QueuesQuiet
    rw [hq2]
    exact hquiet
  have hquiet3 : QueuesQuiet (freeStale s2) := hquiet2
  dsimp only
  rw [hs1, hs2, foldl_finishReset_of_quiet hquiet2, frameBindings, unbindAll_of_quiet hquiet3, bindAll_of_quiet hquiet3]
  have h1 : SameTraffic (budgetsAnew s) s1 := by
    rw [← hs1]
    exact foldl_sameTraffic _ (fun t k _ f => unitEvent_hostBytes ..) _
  have h2 : SameTraffic s1 s2 := by
    rw [← hs2]
    refine foldl_sameTraffic _ (fun t e he => ?_) _
    dsimp only
    rw [hheld e he]
    exact drainRecords_nil_sameTraffic e.1 t
  intro f
  rw [framePolls_onlyDue s.now (freeStale s2)]
  exact (h2 f).trans (h1 f)

end

theorem frameStart_spec (s : State) : ∃ t, exec .frameStart s = .next t ∧ DueAt t (s.now + 12000) .frameStart ∧
    t.shepDead = s.shepDead.filter (fun x => decide (s.now / 12000 < x.2)) ∧
    ((∀ x ∈ s.funcs, x.2.frHeld = []) → QueuesQuiet s → ∀ f, (t.func f).hostBytes = (s.func f).hostBytes - (s.func f).hostQuota) ∧
    ∀ k n, (k, some n) ∈ t.slots → (∀ x ∈ s.agenda, x.2.2 ≠ .slotPoll k) → (∀ x ∈ t.shepDead, x.1 ≠ pollCore k) →
      DueAt t (s.now + pollTime k) (.slotPoll k) := by
  have hstep := (frameCatchUp_frontStep s).trans (frameBindings_frontStep (frameCatchUp s))
  have htraffic := frame_sameTraffic (s := s)
  refine ⟨_, exec_frameStart s, ?_, ?_, ?_, ?_⟩
  all_goals
    generalize frameBindings (frameCatchUp s) = s1 at hstep htraffic
    have hpolls := framePolls_onlyDue s.now s1
    have hnow : (framePolls s.now s1).now = s.now := by
      rw [hpolls]
      exact hstep.now
  · rw [hnow]
    exact dueAt_due ..
  · show (framePolls s.now s1).shepDead = _
    rw [hpolls]
    exact hstep.shepDead
  · exact fun hheld hquiet f => (htraffic hheld hquiet f).trans (budgetsAnew_hostBytes s f)
  · intro k n hmem hno hup
    have hmem' : (k, some n) ∈ s1.slots := by
      have hslots : (framePolls s.now s1).slots = s1.slots := by rw [hpolls]; rfl
      exact hslots ▸ hmem
    have hup' : ∀ x ∈ s1.shepDead, x.1 ≠ pollCore k := by
      have hdead : (framePolls s.now s1).shepDead = s1.shepDead := by rw [hpolls]; rfl
      exact hdead ▸ hup
    have hpollsOf : PollsOf s.now k s1 := by
      intro e he hk
      rcases hstep.added e he with hold | ⟨m, p, hnew⟩
      · exact absurd hk (hno e hold)
      · rw [hnew] at hk
        cases hk
    obtain ⟨q, hq⟩ := foldl_pollRound_due s1.slots hmem' hpollsOf (Nat.le_of_eq hstep.now) hup'
    exact ⟨q, (mem_insertDue ..).mpr (.inr hq)⟩

/-! ### The poll of a portal queue -/

section
variable {s : State} {k n : Nat} {q : Queue} {p : BitVec 512}

theorem updQueue_of {n : Nat} {q : Queue} (hq : s.queue? n = some q) (u : Queue → Queue) :
    s.updQueue n u = { s with queues := s.queues.put n (u q) } := by
  unfold State.updQueue
  rw [hq]

theorem queue_putQueue (s : State) (n : Nat) (q : Queue) : ({ s with queues := s.queues.put n q } : State).queue? n = some q :=
  Table.find_put_self ..

theorem put_of_find {α : Type} {t : Table α} {n : Nat} {x : α} (h : t.find n = some x) : t.put n x = t := by
  induction t with
  | nil => cases h
  | cons e t ih =>
    obtain ⟨m, y⟩ := e
    unfold Table.find at h
    rw [List.map_cons, Table.get] at h
    unfold Table.put
    split at h
    · next heq =>
      cases h
      rw [if_pos heq, heq]
    · next hne =>
      rw [if_neg hne]
      split at h
      · cases h
      · next hlt => rw [if_neg hlt, ih h]

/-- A change of a queue that leaves it as it is changes nothing. -/
theorem updQueue_self (hq : s.queue? n = some q) {u : Queue → Queue} (hu : u q = q) : s.updQueue n u = s := by
  rw [updQueue_of hq, hu, put_of_find hq]

variable (hbound : Table.get none s.slots k = some n) (hq : s.queue? n = some q) (hslot : q.slot = some k) (hreset : (s.func q.func).resetting = false)
  (hring : q.ring = false)

theorem exec_slotPoll_unbound (h : Table.get none s.slots k = none) : exec (.slotPoll k) s = .next s := by
  show execSlotPoll k s = _
  unfold execSlotPoll
  rw [h]

include hbound hq hslot hreset hring

theorem exec_slotPoll_portal (hnot : q.state ≠ 3) : exec (.slotPoll k) s =
    .next (if q.state = 2 then s else pollPackets n 32 8 (fillAll s n)) := by
  show execSlotPoll k s = _
  simp only [execSlotPoll, hbound, hq, hreset, hslot, hring, hnot, bne_self_eq_false, Bool.or_false, Bool.false_and, Bool.false_eq_true, if_false]
  split <;> rfl

theorem exec_slotPoll_stopped (hstate : q.state = 2 ∨ q.state = 3) : exec (.slotPoll k) s = .next s := by
  rcases hstate with h | h
  · rw [exec_slotPoll_portal hbound hq hslot hreset hring (by omega), if_pos h]
  · show execSlotPoll k s = _
    simp only [execSlotPoll, hbound, hq, hreset, hslot, hring, h, bne_self_eq_false, Bool.or_false, Bool.false_and, Bool.false_eq_true, if_false, if_true]

end

theorem top_of_levels {q : Queue} {v : Level} (h : q.levels = [v]) : q.top = v := by
  unfold Queue.top
  rw [h]
  rfl

section
variable {s : State} {n : Nat} {q : Queue} {p : BitVec 512} (hq : s.queue? n = some q) (hring : q.ring = false)
  (hlevels : q.levels = [ownLevel q.head])
include hq hring hlevels

/-- A portal queue reads nothing ahead: its packets are its accepted bytes. -/
theorem fillAll_portal : fillAll s n = s := by
  simp only [fillAll, hq, hlevels, List.length_singleton, List.range_one, List.zip_cons_cons, List.zip_nil_left, fillLevels, fillLevel, hring,
    decide_true, Bool.not_false, Bool.and_self, if_true]
  refine updQueue_self hq ?_
  rw [← hlevels]

theorem fillTop_portal (b : Bool) : fillTop s n b = s := by
  have htop := top_of_levels hlevels
  simp only [fillTop, hq, hlevels, List.length_singleton, fillLevel, hring, Nat.sub_self, decide_true, Bool.not_false, Bool.and_self, if_true, updTop]
  refine updQueue_self hq ?_
  have hsame : q.levels.dropLast ++ [q.top] = q.levels := by
    rw [htop, hlevels]
    rfl
  rw [hsame]

variable (hstate : q.state ≠ 2 ∧ q.state ≠ 3) (hfree : q.blocked = .none)

omit hq in
theorem nextPacket_empty (hbuf : q.buffer = []) : nextPacket s q = .empty := by
  have htop := top_of_levels hlevels
  simp [nextPacket, hlevels, htop, hring, hbuf, ownLevel]

omit hq in
theorem nextPacket_first (hbuf : q.buffer = [p]) : nextPacket s q = .packet p 0 := by
  have htop := top_of_levels hlevels
  simp [nextPacket, hlevels, htop, hring, hbuf, ownLevel, packetAddr, Table.find]

include hstate hfree

theorem pollPackets_empty (hbuf : q.buffer = []) (fuel left : Nat) : pollPackets n fuel left s = s := by
  cases fuel with
  | zero => cases left <;> rfl
  | succ fuel =>
    cases left with
    | zero => rfl
    | succ left =>
      unfold pollPackets
      simp only [hq, hstate.1, hstate.2, hfree, nextPacket_empty hring hlevels hbuf]
      rfl

theorem pollPackets_first (hbuf : q.buffer = [p]) (fuel left : Nat) : pollPackets n (fuel + 1) (left + 1) s =
    match processPacket s n q p 0 with
    | .go s2 => pollPackets n fuel left (consume s2 n p)
    | .jump s2 => pollPackets n fuel left s2
    | .stop s2 => consume s2 n p
    | .stay s2 => s2
    | .error s2 code => queueError s2 n code 0 := by
  have htop := top_of_levels hlevels
  have hskip : ¬0 < q.top.skip := by rw [htop]; exact Nat.lt_irrefl 0
  rw [pollPackets]
  simp only [hq, hstate.1, hstate.2, hfree, nextPacket_first hring hlevels hbuf, fillTop_portal hq hring hlevels, hskip, Option.getD_some, if_false]
  rfl

end

/-! ### Packets of a portal queue (R323) -/

theorem opcode_eq (p : BitVec 512) : (bits (pWord p 0) 56 8).toNat = (pWord p 0 >>> 56).toNat := by
  have hlt := (pWord p 0).isLt
  simp only [bits, BitVec.extractLsb'_toNat, BitVec.toNat_ushiftRight]
  exact Nat.mod_eq_of_lt (by rw [Nat.shiftRight_eq_div_pow]; omega)

/-- A NOP names no bit beside OPC and TAG. -/
theorem reservedOk_nop {p : BitVec 512} (hlow : pWord p 0 &&& 0xFFFFFFFF = 0) (hhigh : pWord p 0 >>> 48 = 0)
    (hrest : ∀ i, i < 7 → pWord p (i + 1) = 0) : reservedOk p [] = true := by
  have hw0 : pWord p 0 &&& ~~~(0 ||| 0xFF00FFFF00000000#64) = 0 := by
    generalize pWord p 0 = w at hlow hhigh
    ext i hi
    have hl := congrArg (fun v : Word => v.getLsbD i) hlow
    have hh := congrArg (fun v : Word => v.getLsbD (i - 48)) hhigh
    have hmask : ∀ j < 64, (0x00FF0000FFFFFFFF#64).getLsbD j = (decide (j < 32) || (decide (48 ≤ j) && decide (j < 56))) := by decide
    have hnot : ~~~(0 ||| 0xFF00FFFF00000000#64) = 0x00FF0000FFFFFFFF#64 := rfl
    have hlowmask : ∀ j < 64, (0xFFFFFFFF#64).getLsbD j = decide (j < 32) := by decide
    rw [hnot]
    simp only [← BitVec.getLsbD_eq_getElem, BitVec.getLsbD_and, hmask i hi]
    simp only [BitVec.getLsbD_and, BitVec.getLsbD_ushiftRight] at hl hh
    by_cases h1 : i < 32
    · have := hlowmask i hi
      simp_all
    · by_cases h2 : 48 ≤ i
      · rw [show 48 + (i - 48) = i by omega] at hh
        simp [hh]
      · simp [h1, h2]
  unfold reservedOk
  simp only [List.getD_nil, hw0, beq_self_eq_true, Bool.true_and, List.all_eq_true, List.mem_range]
  intro i hi
  simp [hrest i hi]

section
variable {s : State} {n : Nat} {q : Queue} {p : BitVec 512} (hlevels : q.levels = [ownLevel q.head]) (hdep : q.dependPending = false)
include hlevels hdep

theorem processPacket_nop (hopc : (bits (pWord p 0) 56 8).toNat = 0) (hok : reservedOk p [] = true) (va : Nat) :
    processPacket s n q p va = .go s := by
  have htop := top_of_levels hlevels
  simp [processPacket, hdep, htop, bodyTooLong, ownLevel, hopc, hok]

theorem processPacket_launch (hopc : (bits (pWord p 0) 56 8).toNat = 1) (hw : (pWord p 7).toNat % 64 = 0) (va : Nat) :
    processPacket s n q p va = .stop (launchPacket s n q p va) := by
  have htop := top_of_levels hlevels
  simp [processPacket, hdep, htop, bodyTooLong, ownLevel, hopc, hw]

theorem processPacket_unknown (hopc : 14 ≤ (bits (pWord p 0) 56 8).toNat) (va : Nat) : processPacket s n q p va = .error s 1 := by
  have htop := top_of_levels hlevels
  obtain ⟨m, hm⟩ := Nat.exists_eq_add_of_le' hopc
  simp [processPacket, hdep, htop, bodyTooLong, ownLevel, hm]

end

/-- A portal queue whose first packet has been consumed, and has freed its entry. -/
def Queue.consumed (q : Queue) : Queue :=
  { q with head := q.head + 1, buffer := q.buffer.drop 1
           levels := [{ ownLevel q.head with next := q.head + 1, fetched := (ownLevel q.head).fetched.filter fun (k, _) => q.head < k }] }

section
variable {s : State} {n : Nat} {q : Queue} {p : BitVec 512} (hq : s.queue? n = some q) (hring : q.ring = false)
include hq hring

theorem consume_portal (hlevels : q.levels = [ownLevel q.head]) : consume s n p = { s with queues := s.queues.put n q.consumed } := by
  have htop := top_of_levels hlevels
  unfold consume
  rw [updQueue_of hq]
  simp only [hlevels, htop, hring, ownLevel, Queue.consumed, List.length_singleton, Nat.sub_self, ne_eq, not_true_eq_false, if_false, if_true,
    List.dropLast_singleton, List.nil_append, Bool.false_eq_true]

omit hq in
/-- The queue after a NOP has no packet left. -/
theorem nextPacket_consumed (s : State) (hbuf : q.buffer = [p]) : nextPacket s q.consumed = .empty := by
  simp [nextPacket, Queue.consumed, Queue.top, hring, hbuf, ownLevel]

end

theorem pollPackets_none {s : State} {n : Nat} {q : Queue} (hq : s.queue? n = some q) (h : nextPacket s q = .empty) (fuel left : Nat) :
    pollPackets n fuel left s = s := by
  cases fuel with
  | zero => cases left <;> rfl
  | succ fuel =>
    cases left with
    | zero => rfl
    | succ left =>
      rw [pollPackets]
      simp only [hq, h, ite_self]

section
variable {s : State} {k n : Nat} {q : Queue} {p : BitVec 512} (hbound : Table.get none s.slots k = some n) (hq : s.queue? n = some q)
  (hslot : q.slot = some k) (hreset : (s.func q.func).resetting = false) (hring : q.ring = false) (h2 : q.state ≠ 2) (h3 : q.state ≠ 3)
  (hfree : q.blocked = .none) (hdep : q.dependPending = false) (hlevels : q.levels = [ownLevel q.head])
include hbound hq hslot hreset hring h2 h3 hfree hdep hlevels

omit hdep in
theorem exec_slotPoll_first (hbuf : q.buffer = [p]) : exec (.slotPoll k) s = .next (match processPacket s n q p 0 with
    | .go s2 => pollPackets n 31 7 (consume s2 n p)
    | .jump s2 => pollPackets n 31 7 s2
    | .stop s2 => consume s2 n p
    | .stay s2 => s2
    | .error s2 code => queueError s2 n code 0) := by
  rw [exec_slotPoll_portal hbound hq hslot hreset hring h3, if_neg h2, fillAll_portal hq hring hlevels,
    pollPackets_first hq hring hlevels ⟨h2, h3⟩ hfree hbuf]

omit hfree hdep in
theorem exec_slotPoll_empty (hbuf : q.buffer = []) : exec (.slotPoll k) s = .next s := by
  rw [exec_slotPoll_portal hbound hq hslot hreset hring h3, if_neg h2, fillAll_portal hq hring hlevels,
    pollPackets_none hq (nextPacket_empty hring hlevels hbuf)]

theorem exec_slotPoll_nop (hbuf : q.buffer = [p]) (hopc : (bits (pWord p 0) 56 8).toNat = 0) (hok : reservedOk p [] = true) :
    exec (.slotPoll k) s = .next { s with queues := s.queues.put n q.consumed } := by
  rw [exec_slotPoll_first hbound hq hslot hreset hring h2 h3 hfree hlevels hbuf, processPacket_nop hlevels hdep hopc hok]
  dsimp only
  rw [consume_portal hq hring hlevels]
  exact congrArg _ (pollPackets_none (queue_putQueue ..) (nextPacket_consumed hring _ hbuf) ..)

theorem exec_slotPoll_launch (hbuf : q.buffer = [p]) (hopc : (bits (pWord p 0) 56 8).toNat = 1) (hw : (pWord p 7).toNat % 64 = 0) (hrefs : q.refs = []) :
    ∃ t q' x, exec (.slotPoll k) s = .next t ∧ t.queue? n = some q' ∧ q'.head = q.head + 1 ∧ q'.buffer = [] ∧
      q'.blocked = .launch s.nextId ∧ t.launches = Table.put s.launches s.nextId x ∧ x.func = q.func ∧ x.queue = n ∧
      x.state = .waiting ∧ x.packet = (List.range 8).map (pWord p) ∧ x.lsn = 0 ∧ x.deps = [] ∧ t.mem = s.mem := by
  rw [exec_slotPoll_first hbound hq hslot hreset hring h2 h3 hfree hlevels hbuf, processPacket_launch hlevels hdep hopc hw]
  dsimp only
  unfold launchPacket
  simp only [hrefs, List.filter_nil, List.any_nil]
  generalize hx : newLaunch q.func n (q.slot.getD 0) ((List.range 8).map (pWord p)) 0 s.now [] false = x
  have hq2 : ({ s.newId.2 with launches := s.newId.2.launches.put s.newId.1 x } : State).queue? n = some q := hq
  have hconsumed := consume_portal (p := p) (queue_putQueue ({ s.newId.2 with launches := s.newId.2.launches.put s.newId.1 x } : State) n
    { q with refs := [], dependPending := false, blocked := .launch s.nextId }) hring hlevels
  rw [updQueue_of hq2]
  subst hx
  refine ⟨_, _, _, congrArg _ hconsumed, queue_putQueue .., rfl, ?_, rfl, rfl, rfl, rfl, rfl, rfl, rfl, rfl, rfl⟩
  show q.buffer.drop 1 = []
  rw [hbuf]
  rfl

end

/-- Settles O52, through the frame of the front end's steps and the poll of a queue of portal packets. -/
theorem framesAndPolls : Obligations.FramesAndPolls := by
  unfold Obligations.FramesAndPolls
  have hframe : ∀ s : State, _ := frameStart_spec
  simp only [pollTime, ← Nat.add_assoc] at hframe
  refine ⟨hframe, fun s k n q p => ⟨exec_slotPoll_unbound, fun _ hbound hq hslot hreset hring => exec_slotPoll_stopped hbound hq hslot hreset hring,
    fun _ hbound hq hslot hreset hring h2 h3 hfree hdep hlevels => ?_⟩⟩
  rw [← opcode_eq p]
  refine ⟨exec_slotPoll_empty hbound hq hslot hreset hring h2 h3 hlevels, fun hbuf hopc hlow hhigh hrest => ?_,
    exec_slotPoll_launch hbound hq hslot hreset hring h2 h3 hfree hdep hlevels, fun hbuf hopc => ?_⟩
  · rw [exec_slotPoll_nop hbound hq hslot hreset hring h2 h3 hfree hdep hlevels hbuf hopc (reservedOk_nop hlow hhigh hrest)]
    refine ⟨_, _, rfl, queue_putQueue .., rfl, ?_, rfl, hfree, rfl, rfl⟩
    show q.buffer.drop 1 = []
    rw [hbuf]
    rfl
  · rw [exec_slotPoll_first hbound hq hslot hreset hring h2 h3 hfree hlevels hbuf, processPacket_unknown hlevels hdep hopc]

end Sys2Proof.Machine
end

section
/-!
PROOFS. Admission, ramps and the start of a launch (R38, R321, R333 to R341).
-/
namespace Sys2Proof.Machine

/-! ## Admission, ramps and the start of a launch (R38, R321, R333 to R341, R405) -/

/-! ### Ramp slots (R340) -/

theorem sum_fallRamps (n : Nat) (l : List (Nat × Nat × List Nat)) : ((fallRamps n l).map (·.2.1)).sum = (l.map (·.2.1)).sum - n := by
  induction l generalizing n with
  | nil => exact (Nat.zero_sub n).symm
  | cons e l ih =>
    obtain ⟨k, w, cs⟩ := e
    have hmin : n.min w = min n w := rfl
    unfold fallRamps
    dsimp only
    rw [hmin]
    split
    · rw [ih, List.map_cons, List.sum_cons]
      dsimp only
      omega
    · rw [List.map_cons, List.sum_cons, ih, List.map_cons, List.sum_cons]
      dsimp only
      omega

theorem exec_rampSlotBoundary (s : State) : ∃ t, exec .rampSlotBoundary s = .next t ∧ t.riseNow = s.govRise ∧ t.fallNow = s.govFall ∧
    t.capNow = s.govCap ∧ DueAt t (s.now + 3000) .rampSlotBoundary ∧ (t.ramps.map (·.2.1)).sum = (s.ramps.map (·.2.1)).sum - s.govFall ∧
    t.launches = s.launches ∧ t.cores = s.cores ∧ t.mem = s.mem :=
  ⟨_, rfl, rfl, rfl, rfl, dueAt_due .., sum_fallRamps .., rfl, rfl, rfl⟩

/-! ### The allowance of slots (R337, R338) -/

/-- The sum of `n` values from `j` on. -/
def span (u : Nat → Nat) (j n : Nat) : Nat := ((List.range n).map fun i => u (j + i)).sum

theorem span_zero (u : Nat → Nat) (j : Nat) : span u j 0 = 0 := rfl

theorem span_succ (u : Nat → Nat) (j n : Nat) : span u j (n + 1) = u j + span u (j + 1) n := by
  unfold span
  rw [List.range_succ_eq_map, List.map_cons, List.sum_cons, List.map_map]
  refine congrArg₂ (· + ·) rfl (congrArg List.sum (List.map_congr_left fun i _ => ?_))
  show u (j + (i + 1)) = u (j + 1 + i)
  rw [Nat.add_right_comm, Nat.add_assoc]

theorem span_congr {u v : Nat → Nat} {j : Nat} (h : ∀ m, j ≤ m → u m = v m) (n : Nat) : span u j n = span v j n :=
  congrArg List.sum (List.map_congr_left fun _ _ => h _ (Nat.le_add_right ..))

/-- The entries of a table from a number on. -/
def entriesFrom {α : Type} (t : Table α) (j : Nat) : Nat := (t.filter fun e => decide (j ≤ e.1)).length

theorem entriesFrom_put {α : Type} (t : Table α) (j : Nat) (x : α) : entriesFrom (t.put j x) (j + 1) = entriesFrom t (j + 1) := by
  induction t with
  | nil => simp [Table.put, entriesFrom]
  | cons e t ih =>
    obtain ⟨k, y⟩ := e
    unfold Table.put
    split
    · next h => simp [entriesFrom, ← h]
    · split
      · simp [entriesFrom]
      · simp only [entriesFrom, List.filter_cons] at ih ⊢
        split <;> simp only [List.length_cons, ih]

theorem entriesFrom_succ_le {α : Type} (t : Table α) (j : Nat) : entriesFrom t (j + 1) ≤ entriesFrom t j := by
  refine List.Sublist.length_le (List.monotone_filter_right _ fun e he => ?_)
  simp only [decide_eq_true_eq] at he ⊢
  omega

theorem entriesFrom_succ_lt {t : Table Nat} {j : Nat} (h : Table.get 0 t j ≠ 0) : entriesFrom t (j + 1) < entriesFrom t j := by
  induction t with
  | nil => exact absurd rfl h
  | cons e t ih =>
    obtain ⟨k, y⟩ := e
    have hle := entriesFrom_succ_le t j
    unfold Table.get at h
    simp only [entriesFrom, List.filter_cons] at ih hle ⊢
    by_cases hk : j = k
    · subst hk
      simp only [show ¬j + 1 ≤ j by omega, le_refl, decide_false, decide_true, Bool.false_eq_true, if_false, if_true, List.length_cons]
      omega
    · rw [if_neg hk] at h
      by_cases hlt : j < k
      · rw [if_pos hlt] at h
        exact absurd rfl h
      · rw [if_neg hlt] at h
        simp only [show ¬j + 1 ≤ k by omega, show ¬j ≤ k by omega, decide_false, Bool.false_eq_true, if_false]
        exact ih h

/-- What it means that `need` is reserved from slot `j` to slot `J`. -/
structure Reserves (s : State) (need j : Nat) (t : State) (J : Nat) : Prop where
  le : j ≤ J
  enough : need ≤ span (allowanceLeft s) j (J + 1 - j)
  least : span (allowanceLeft s) j (J - j) < need
  same : t = { s with reserved := t.reserved }
  got : ∀ m, Table.get 0 t.reserved m = Table.get 0 s.reserved m +
    if j ≤ m ∧ m ≤ J then min (allowanceLeft s m) (need - span (allowanceLeft s) j (m - j)) else 0

theorem allowanceLeft_put (s : State) {j m : Nat} (x : Nat) (h : m ≠ j) :
    allowanceLeft { s with reserved := s.reserved.put j x } m = allowanceLeft s m := by
  unfold allowanceLeft
  rw [Table.get_put_ne _ _ _ h]

/-- All that is needed is found in the slot at hand. -/
theorem reserves_here {s : State} {need j : Nat} (hneed : 0 < need) (h : need ≤ allowanceLeft s j) :
    Reserves s need j { s with reserved := s.reserved.put j (Table.get 0 s.reserved j + need) } j := by
  have hone : span (allowanceLeft s) j (j + 1 - j) = allowanceLeft s j := by
    rw [Nat.add_sub_cancel_left, span_succ, span_zero, Nat.add_zero]
  refine ⟨le_rfl, by rw [hone]; exact h, by rw [Nat.sub_self, span_zero]; exact hneed, rfl, fun m => ?_⟩
  show Table.get 0 (s.reserved.put j _) m = _
  rw [Table.get_put]
  split
  · next hm =>
    subst hm
    rw [if_pos ⟨le_rfl, le_rfl⟩, Nat.sub_self, span_zero, Nat.sub_zero, Nat.min_eq_right h]
  · next hm =>
    have hout : ¬(j ≤ m ∧ m ≤ j) := by omega
    rw [if_neg hout, Nat.add_zero]

/-- The slot at hand is used up, or was, and the rest is reserved from the next one on. -/
theorem reserves_next {s s2 t : State} {need j J : Nat} (hless : allowanceLeft s j < need)
    (hsame : s2 = { s with reserved := s2.reserved }) (hhere : Table.get 0 s2.reserved j = Table.get 0 s.reserved j + allowanceLeft s j)
    (hother : ∀ m, m ≠ j → Table.get 0 s2.reserved m = Table.get 0 s.reserved m)
    (h : Reserves s2 (need - allowanceLeft s j) (j + 1) t J) : Reserves s need j t J := by
  have hleft : ∀ m, j + 1 ≤ m → allowanceLeft s2 m = allowanceLeft s m := fun m hm => by
    have hrise : s2.riseNow = s.riseNow := by rw [hsame]
    unfold allowanceLeft
    rw [hother m (by omega), hrise]
  obtain ⟨hle, henough, hleast, hkept, hgot⟩ := h
  rw [span_congr hleft] at henough hleast
  have hspan : ∀ m, j + 1 ≤ m → span (allowanceLeft s) j (m - j) = allowanceLeft s j + span (allowanceLeft s) (j + 1) (m - (j + 1)) := fun m hm => by
    rw [show m - j = (m - (j + 1)) + 1 by omega, span_succ]
  refine ⟨by omega, ?_, ?_, ?_, fun m => ?_⟩
  · rw [hspan (J + 1) (by omega)]
    omega
  · rw [hspan J hle]
    omega
  · rw [hkept, hsame]
  · rw [hgot m]
    by_cases hm : m = j
    · subst hm
      have hout : ¬(m + 1 ≤ m ∧ m ≤ J) := by omega
      rw [if_neg hout, hhere, if_pos ⟨le_rfl, by omega⟩, Nat.sub_self, span_zero, Nat.sub_zero, Nat.min_eq_left (Nat.le_of_lt hless), Nat.add_zero]
    · rw [hother m hm]
      by_cases hin : j + 1 ≤ m ∧ m ≤ J
      · rw [if_pos hin, if_pos ⟨by omega, hin.2⟩, hleft m hin.1, span_congr hleft, hspan m hin.1, Nat.sub_sub]
      · have hout : ¬(j ≤ m ∧ m ≤ J) := by omega
        rw [if_neg hin, if_neg hout]

/-- With as many slots looked at as there are units needed and slots reserved, all that is needed is found. -/
theorem reserveFrom_reserves {fuel : Nat} {s : State} {need j : Nat} (last : Nat) (hneed : 0 < need) (hrise : 0 < s.riseNow)
    (hfuel : need + entriesFrom s.reserved j ≤ fuel) :
    Reserves s need j (reserveFrom s fuel need j last).1 (reserveFrom s fuel need j last).2 := by
  induction fuel generalizing s need j last with
  | zero => omega
  | succ fuel ih =>
    obtain ⟨need, rfl⟩ : ∃ n, need = n + 1 := ⟨need - 1, by omega⟩
    unfold reserveFrom
    have hmin : (need + 1).min (allowanceLeft s j) = min (need + 1) (allowanceLeft s j) := rfl
    dsimp only
    rw [hmin]
    have hcount := entriesFrom_succ_le s.reserved j
    by_cases hfull : allowanceLeft s j = 0
    · have hres : Table.get 0 s.reserved j ≠ 0 := by
        unfold allowanceLeft at hfull
        omega
      have hlt := entriesFrom_succ_lt hres
      rw [hfull, if_pos (Nat.min_zero _)]
      refine reserves_next (by omega) (s2 := s) rfl (by omega) (fun _ _ => rfl) ?_
      rw [hfull]
      exact ih last hneed hrise (by omega)
    · rw [if_neg (by omega)]
      by_cases hall : need + 1 ≤ allowanceLeft s j
      · rw [Nat.min_eq_left hall, Nat.sub_self]
        have hdone : ∀ (st : State) (k : Nat), reserveFrom st fuel 0 k j = (st, j) := fun st k => by cases fuel <;> rfl
        rw [hdone]
        exact reserves_here hneed hall
      · have hless : allowanceLeft s j < need + 1 := by omega
        rw [Nat.min_eq_right (Nat.le_of_lt hless)]
        refine reserves_next hless (s2 := { s with reserved := s.reserved.put j (Table.get 0 s.reserved j + allowanceLeft s j) }) rfl
          (Table.get_put_self ..) (fun m hm => Table.get_put_ne _ _ _ hm) ?_
        refine ih j (by omega) hrise ?_
        have hput := entriesFrom_put s.reserved j (Table.get 0 s.reserved j + allowanceLeft s j)
        show _ + entriesFrom (s.reserved.put j _) (j + 1) ≤ fuel
        rw [hput]
        omega

/-! ### The credit of ramps and the power that is held (R338, R405) -/

/-- What the ramps on some cores give a launch that is placed on them. -/
def creditOf (cores : List Nat) (l : List (Nat × Nat × List Nat)) : Nat :=
  (l.map fun (_, w, cs) => if cs = [] then 0 else w * (cs.filter fun g => cores.contains g).length / cs.length).sum

theorem takeCredit_credit (cores : List Nat) (l : List (Nat × Nat × List Nat)) : (takeCredit cores l).1 = creditOf cores l := by
  induction l with
  | nil => rfl
  | cons e l ih =>
    obtain ⟨k, w, cs⟩ := e
    have hshare : (if cs.isEmpty = true then 0 else w * (cs.filter fun g => cores.contains g).length / cs.length) =
        if cs = [] then 0 else w * (cs.filter fun g => cores.contains g).length / cs.length := by
      simp only [List.isEmpty_iff]
    have hcons : creditOf cores ((k, w, cs) :: l) =
        (if cs = [] then 0 else w * (cs.filter fun g => cores.contains g).length / cs.length) + creditOf cores l := by
      unfold creditOf
      rw [List.map_cons, List.sum_cons]
    rw [takeCredit, hcons, ← hshare, ← ih]
    dsimp only
    split
    all_goals exact Nat.add_comm ..

/-! ### A pass with one candidate (R334) -/

/-- The only launch of a device, which has been decided and waits. -/
structure Lone (s : State) (l : Nat) (x : Launch) : Prop where
  only : s.launches = [(l, x)]
  waiting : x.state = .waiting

section
variable {s t : State} {l : Nat} {x y : Launch}

theorem Lone.find (h : Lone s l x) : s.launch? l = some x := by
  unfold State.launch?
  rw [h.only]
  simp [Table.find, Table.get]

theorem Lone.coreTaken (h : Lone s l x) (gone : List Nat) (g : Nat) : coreTaken s gone g = false := by
  unfold Machine.coreTaken
  rw [h.only]
  simp [Launch.holdsCores, h.waiting]

theorem Lone.blocksIn (h : Lone s l x) (hive : Nat) : blocksIn s hive = [] := by
  unfold Machine.blocksIn
  rw [h.only]
  simp [Launch.holdsBlock, h.waiting]

theorem Lone.basesOf (h : Lone s l x) : basesOf s = [0] := by
  unfold Machine.basesOf
  rw [h.only]
  simp [Launch.holdsBlock, h.waiting]
  rfl

theorem Lone.claimsHeld (h : Lone s l x) (f : Option Nat) : claimsHeld s f = (0, 0) := by
  unfold Machine.claimsHeld
  rw [h.only]
  simp [Launch.holdsBlock, h.waiting]

theorem Lone.powerHeld (h : Lone s l x) : powerHeld s = 0 := by
  unfold Machine.powerHeld
  rw [h.only]
  simp [Launch.holdsCores, h.waiting]

/-- The placement of a lone launch depends on the hives and on what it asks for. -/
theorem Lone.placeFor (h : Lone s l x) (h' : Lone t l y) (hsame : t = { s with launches := t.launches, agenda := t.agenda })
    (hy : y = { x with eff := y.eff }) : placeFor t [] y = placeFor s [] x := by
  have hx := h.waiting
  have hy' := h'.waiting
  have hfree : ∀ hv, freeCores t [] hv = freeCores s [] hv := fun hv => by
    unfold freeCores
    refine List.filter_congr fun g _ => ?_
    rw [h.coreTaken, h'.coreTaken, hsame]
    rfl
  have hrun : ∀ hv b n, freeRun t hv b n = freeRun s hv b n := fun hv b n => by
    unfold freeRun
    rw [h.blocksIn, h'.blocksIn]
  have hives : ∀ b d n, hivesAt t [] y b d n = hivesAt s [] x b d n := fun b d n => by
    have hholds : ∀ f hv, holdsHive t f hv = holdsHive s f hv := fun f hv => by rw [hsame]; rfl
    unfold hivesAt
    simp only [hfree, hrun, hholds]
    rw [hy]
  have hplaces : ∀ b, hivesFor t [] y b = hivesFor s [] x b := fun b => by
    have himage : y.image = x.image := by rw [hy]
    unfold hivesFor
    simp only [hives, himage]
  have himage : y.image = x.image := by rw [hy]
  have hw : ¬LaunchState.waiting = LaunchState.saved := by decide
  unfold Machine.placeFor
  simp only [hx, hy', hw, if_false, h.basesOf, h'.basesOf, hplaces, hfree, himage]

theorem Lone.claimsFit (h : Lone s l x) (h' : Lone t l y) (hsame : t = { s with launches := t.launches, agenda := t.agenda })
    (hy : y = { x with eff := y.eff }) : claimsFit t y = claimsFit s x := by
  have hx := h.waiting
  have hy' := h'.waiting
  have hfunc : ∀ f, t.func f = s.func f := fun f => by rw [hsame]; rfl
  have hneeds : claimNeeds y = claimNeeds x := by rw [hy]; rfl
  have hf : y.func = x.func := by rw [hy]
  unfold Machine.claimsFit
  rw [hx, hy', hneeds, hf, hfunc, h.claimsHeld, h'.claimsHeld, h.claimsHeld, h'.claimsHeld]

/-- A launch that has been decided and can go on stays as it is at the decisions of a pass. -/
theorem decideLaunch_stays (hfind : s.launch? l = some x) (hstate : x.state = .waiting) (hdec : x.decided.isSome) (hfail : x.depFailed = false)
    (hen : (s.func x.func).en = true) (hreset : (s.func x.func).resetting = false) (himage : x.image.h ≠ 0) (hpoll : x.pollAt + 600 ≤ s.now)
    (hstep : x.step ≤ s.govCap) : decideLaunch s l x = s := by
  obtain ⟨d, hd⟩ := Option.isSome_iff_exists.mp hdec
  have htake : ({ x with decided := some (x.decided.getD s.now), since := if x.decided.isNone then s.now else x.since } : Launch) = x := by
    have hsome : some (x.decided.getD s.now) = x.decided := by
      rw [hd]
      rfl
    have hsince : (if x.decided.isNone then s.now else x.since) = x.since := by
      rw [hd]
      rfl
    rw [hsome, hsince]
  have hskip : ¬(x.state != .waiting || decide (s.now < x.pollAt + 600) || !(s.func x.func).en || (s.func x.func).resetting) = true := by
    rw [hstate, hen, hreset, decide_eq_false (Nat.not_lt.mpr hpoll)]
    decide
  have hwaits : ¬(x.depFailed && x.deps.isEmpty) = true := by
    rw [hfail]
    exact Bool.false_ne_true
  unfold decideLaunch
  rw [if_neg hskip]
  dsimp only
  simp only [if_pos himage, htake, if_neg (Nat.not_lt.mpr hstep), if_neg hwaits]
  have hput : s.launches.put l x = s.launches := put_of_find hfind
  rw [hput]

theorem Lone.decideAll (h : Lone s l x) (hdec : x.decided.isSome) (hfail : x.depFailed = false) (hen : (s.func x.func).en = true)
    (hreset : (s.func x.func).resetting = false) (himage : x.image.h ≠ 0) (hpoll : x.pollAt + 600 ≤ s.now) (hstep : x.step ≤ s.govCap) :
    decideAll s = s := by
  unfold Machine.decideAll
  rw [h.only, List.foldl_cons, List.foldl_nil]
  dsimp only
  rw [h.find]
  exact decideLaunch_stays h.find h.waiting hdec hfail hen hreset himage hpoll hstep

/-- The launch after the priorities of a pass. -/
def Launch.atPass (x : Launch) (now : Nat) : Launch := { x with eff := ownPriority now x }

theorem Lone.setPriorities (h : Lone s l x) (hdeps : x.deps = []) : setPriorities s = { s with launches := [(l, x.atPass s.now)] } := by
  unfold Machine.setPriorities
  rw [h.only]
  simp [inheritAll, inherit, hdeps, Launch.atPass]

end

/-- From slot `j` on all that is needed is reserved; where nothing is, no slot is looked at. -/
theorem reserveFrom_spec (s : State) (need j : Nat) (hrise : 0 < s.riseNow) :
    let r := reserveFrom s (need + s.reserved.length + 1) need j j
    r.1 = { s with reserved := r.1.reserved } ∧ j ≤ r.2 ∧ need ≤ span (allowanceLeft s) j (r.2 + 1 - j) ∧
      (j < r.2 → span (allowanceLeft s) j (r.2 - j) < need) ∧
      ∀ m, Table.get 0 r.1.reserved m = Table.get 0 s.reserved m +
        if j ≤ m ∧ m ≤ r.2 then min (allowanceLeft s m) (need - span (allowanceLeft s) j (m - j)) else 0 := by
  rcases Nat.eq_zero_or_pos need with hzero | hpos
  · subst hzero
    refine ⟨rfl, le_rfl, Nat.zero_le _, fun h => absurd h (Nat.lt_irrefl _), fun m => ?_⟩
    rw [Nat.zero_sub, Nat.min_zero, ite_self]
    rfl
  · have hcount : entriesFrom s.reserved j ≤ s.reserved.length := List.length_filter_le ..
    obtain ⟨hle, henough, hleast, hsame, hgot⟩ := reserveFrom_reserves (fuel := need + s.reserved.length + 1) (s := s) (j := j) j hpos hrise (by omega)
    exact ⟨hsame, hle, henough, fun _ => hleast, hgot⟩

section
variable {s : State} {l : Nat} {x : Launch} {cores : List Nat} {base : Nat}

theorem startTime_zero (j : Nat) : startTime j 0 % 64 = 0 ∧ 3000 * j ≤ startTime j 0 ∧ startTime j 0 < 3000 * j + 64 := by
  unfold startTime
  omega

/-- A waiting launch is admitted: its start is due, and it has its cores. -/
theorem admitLaunch_spec (hstate : x.state = .waiting) (t j : Nat) :
    (admitLaunch s l x cores base t j).reserved = s.reserved ∧ (admitLaunch s l x cores base t j).mem = s.mem ∧
    s.agenda ⊆ (admitLaunch s l x cores base t j).agenda ∧ DueAt (admitLaunch s l x cores base t j) (startTime j 0) (.launchStart l) ∧
    ∃ y, (admitLaunch s l x cores base t j).launch? l = some y ∧ y.state = .admitted ∧ y.cores = cores ∧ y.base0 = base ∧ y.admittedAt = s.now := by
  have hno : ¬x.state = .saved := by
    rw [hstate]
    decide
  unfold admitLaunch
  dsimp only
  rw [if_neg hno]
  generalize hy : ({ x with own := aged s.now x, state := .admitted, admittedAt := s.now, cores := cores, base0 := base, drn := cores.length * 3000 * (j - t) } : Launch) = y
  have hcases : ∀ u : Queue → Queue, (s.setLaunch l y).updQueue x.queue u = { s.setLaunch l y with queues := ((s.setLaunch l y).updQueue x.queue u).queues } := fun u => by
    unfold State.updQueue
    split <;> rfl
  rw [hcases]
  refine ⟨rfl, rfl, fun _ he => (mem_insertDue ..).mpr (.inr he), dueAt_due .., y, ?_, ?_⟩
  · show (s.setLaunch l y).launch? l = some y
    rw [launch_setLaunch, if_pos rfl]
  · subst hy
    exact ⟨rfl, rfl, rfl, rfl⟩

/-- What the governor makes of a candidate that is not pinned and that the cap allows. -/
theorem govern_admits (hpin : x.pin = false) (hcap : capAllows s x.step = true) (hstate : x.state = .waiting) (hrise : 0 < s.riseNow) :
    let T := s.now / 3000
    let need := x.step - creditOf cores s.ramps
    ∃ t y J, govern s l x cores base = (t, true) ∧ t.launch? l = some y ∧ y.state = .admitted ∧ y.cores = cores ∧ y.base0 = base ∧
      y.admittedAt = s.now ∧ T ≤ J ∧ need ≤ span (allowanceLeft s) T (J + 1 - T) ∧ (T < J → span (allowanceLeft s) T (J - T) < need) ∧
      (∀ j, Table.get 0 t.reserved j = Table.get 0 s.reserved j +
        if T ≤ j ∧ j ≤ J then min (allowanceLeft s j) (need - span (allowanceLeft s) T (j - T)) else 0) ∧
      DueAt t (startTime J 0) (.launchStart l) ∧ s.agenda ⊆ t.agenda ∧ t.mem = s.mem := by
  intro T need
  have hcredit := takeCredit_credit cores s.ramps
  have hnotPinned : ∀ b, ¬(x.pin && b) = true := fun b => by
    rw [hpin]
    exact Bool.false_ne_true
  have hnotCapped : ¬(!capAllows s x.step) = true := by
    rw [hcap]
    exact Bool.false_ne_true
  unfold govern
  generalize takeCredit cores s.ramps = p at hcredit
  obtain ⟨credit, ramps⟩ := p
  dsimp only at hcredit
  subst hcredit
  have hspec := reserveFrom_spec { s with ramps := ramps } need T hrise
  dsimp only at hspec ⊢
  rw [if_neg (hnotPinned _), if_neg hnotCapped]
  generalize reserveFrom { s with ramps := ramps } (need + s.reserved.length + 1) need T T = r at hspec
  obtain ⟨s1, J⟩ := r
  obtain ⟨hsame, hle, henough, hleast, hgot⟩ := hspec
  dsimp only at hsame hle henough hleast hgot ⊢
  generalize s1.reserved.filterMap _ = rise
  obtain ⟨hreserved, hmem, hagenda, hdue, y, hy, hadm, hcores, hbase, hat⟩ :=
    admitLaunch_spec (s := s1) (l := l) (x := { x with rise := rise }) (cores := cores) (base := base) hstate T J
  refine ⟨_, y, J, rfl, hy, hadm, hcores, hbase, ?_, hle, henough, hleast, fun j => ?_, hdue, ?_, ?_⟩
  · rw [hat, hsame]
  · rw [hreserved]
    exact hgot j
  · refine List.Subset.trans ?_ hagenda
    rw [hsame]
    exact List.Subset.refl _
  · rw [hmem, hsame]
end

section
variable {s : State} {l : Nat} {x : Launch} {cores : List Nat} {base : Nat} (h : Lone s l x) (hdec : x.decided.isSome) (hdeps : x.deps = [])
  (hfail : x.depFailed = false) (hen : (s.func x.func).en = true) (hreset : (s.func x.func).resetting = false) (himage : x.image.h ≠ 0)
  (hpoll : x.pollAt + 600 ≤ s.now) (hpin : x.pin = false) (hgov : x.step ≤ s.govCap) (hcap : x.step ≤ s.capNow) (hhot : s.hot = [])
  (hrise : 0 < s.riseNow) (hplace : placeFor s [] x = some (cores, base)) (hclaims : claimsFit s x = true)
include h hdec hdeps hfail hen hreset himage

theorem candidates_lone : candidates { s with launches := [(l, x.atPass s.now)] } = [(l, x.atPass s.now)] := by
  have hyes : isCandidate { s with launches := [(l, x.atPass s.now)] } (x.atPass s.now) = true := by
    have hfunc : ({ s with launches := [(l, x.atPass s.now)] } : State).func (x.atPass s.now).func = s.func x.func := rfl
    unfold isCandidate
    rw [hfunc, hen, hreset]
    simp [Launch.waits, Launch.atPass, h.waiting, hdec, himage, hdeps, hfail]
  unfold candidates
  rw [List.foldl_cons, List.foldl_nil]
  dsimp only
  rw [if_pos hyes]
  rfl

include hpoll hgov hplace hclaims

omit h hdec hdeps hfail hen hreset himage hpoll hgov in
include hplace hclaims in
/-- The first candidate of a pass, which fits, is left to the governor. -/
theorem passOne_first {t : State} (hgovern : govern s l x cores base = (t, true)) :
    passOne { s := s, count := 0, closed := [], seen := [], unfit := [] } (l, x) = { s := t, count := 1, closed := [], seen := [x.func], unfit := [] } := by
  unfold passOne
  dsimp only
  rw [hplace]
  dsimp only
  rw [hclaims, hgovern]
  rfl

/-- A pass with one candidate that fits is left to the governor. -/
theorem exec_admissionPass_lone {t : State}
    (hgovern : govern { s.due (s.now + 3000) 2 .admissionPass with launches := [(l, x.atPass s.now)] } l (x.atPass s.now) cores base = (t, true)) :
    exec .admissionPass s = .next t := by
  have hdue : Lone (s.due (s.now + 3000) 2 .admissionPass) l x := ⟨h.only, h.waiting⟩
  have hlone : Lone { s.due (s.now + 3000) 2 .admissionPass with launches := [(l, x.atPass s.now)] } l (x.atPass s.now) := ⟨rfl, h.waiting⟩
  have hplace' := h.placeFor hlone rfl rfl
  have hclaims' := h.claimsFit hlone rfl rfl
  have hcand := candidates_lone hdue hdec hdeps hfail hen hreset himage
  rw [hplace] at hplace'
  rw [hclaims] at hclaims'
  have hpass := passOne_first hplace' hclaims' hgovern
  show execAdmissionPass s = _
  unfold execAdmissionPass
  rw [hdue.decideAll hdec hfail hen hreset himage hpoll hgov, hdue.setPriorities hdeps]
  dsimp only
  rw [hcand, List.foldl_cons, List.foldl_nil]
  exact congrArg (fun p : Pass => Host.Outcome.next (p.unfit.foldl preemptFor p.s)) hpass

include hpin hcap hhot hrise

theorem admissionPass_spec :
    let T := s.now / 3000
    let need := x.step - creditOf cores s.ramps
    ∃ t y J z, exec .admissionPass s = .next t ∧ DueAt t (s.now + 3000) .admissionPass ∧ t.launch? l = some y ∧ y.state = .admitted ∧
      y.cores = cores ∧ y.base0 = base ∧ y.admittedAt = s.now ∧ T ≤ J ∧ need ≤ span (allowanceLeft s) T (J + 1 - T) ∧
      (T < J → span (allowanceLeft s) T (J - T) < need) ∧
      (∀ j, Table.get 0 t.reserved j = Table.get 0 s.reserved j +
        if T ≤ j ∧ j ≤ J then min (allowanceLeft s j) (need - span (allowanceLeft s) T (j - T)) else 0) ∧
      DueAt t z (.launchStart l) ∧ z % 64 = 0 ∧ 3000 * J ≤ z ∧ z < 3000 * J + 64 ∧ t.mem = s.mem := by
  have hlone : Lone { s.due (s.now + 3000) 2 .admissionPass with launches := [(l, x.atPass s.now)] } l (x.atPass s.now) := ⟨rfl, h.waiting⟩
  have hallows : capAllows { s.due (s.now + 3000) 2 .admissionPass with launches := [(l, x.atPass s.now)] } (x.atPass s.now).step = true := by
    have hhot' : ({ s.due (s.now + 3000) 2 .admissionPass with launches := [(l, x.atPass s.now)] } : State).hot = [] := hhot
    unfold capAllows
    rw [hhot', hlone.powerHeld, Nat.zero_add]
    exact decide_eq_true hcap
  obtain ⟨t, y, J, hgovern, hy, hadm, hcores, hbase, hat, hle, henough, hleast, hgot, hdue, hagenda, hmem⟩ :=
    govern_admits (s := { s.due (s.now + 3000) 2 .admissionPass with launches := [(l, x.atPass s.now)] }) (l := l) (x := x.atPass s.now)
      (cores := cores) (base := base) hpin hallows h.waiting hrise
  obtain ⟨hpos, hlow, hhigh⟩ := startTime_zero J
  exact ⟨t, y, J, startTime J 0, exec_admissionPass_lone h hdec hdeps hfail hen hreset himage hpoll hgov hplace hclaims hgovern,
    ⟨2, hagenda (mem_agenda_due s _ _ _)⟩, hy, hadm, hcores, hbase, hat, hle, henough, hleast, hgot, hdue, hpos, hlow, hhigh, hmem⟩

end

theorem exec_admissionPass_none {s : State} (h : s.launches = []) : exec .admissionPass s = .next (s.due (s.now + 3000) 2 .admissionPass) := by
  have hdue : (s.due (s.now + 3000) 2 .admissionPass).launches = [] := h
  have hdecide : decideAll (s.due (s.now + 3000) 2 .admissionPass) = s.due (s.now + 3000) 2 .admissionPass := by
    unfold decideAll
    rw [hdue]
    rfl
  have hprio : setPriorities (s.due (s.now + 3000) 2 .admissionPass) = s.due (s.now + 3000) 2 .admissionPass := by
    have hnil : setPriorities (s.due (s.now + 3000) 2 .admissionPass) = { s.due (s.now + 3000) 2 .admissionPass with launches := [] } := by
      unfold setPriorities
      rw [hdue]
      rfl
    rw [hnil, ← hdue]
  have hcand : candidates (s.due (s.now + 3000) 2 .admissionPass) = [] := by
    unfold candidates
    rw [hdue]
    rfl
  show execAdmissionPass s = _
  unfold execAdmissionPass
  rw [hdecide, hprio]
  dsimp only
  rw [hcand]
  rfl

/-! ### The start of a launch (R38) -/

theorem fillBlock_cells (s : State) (x : Launch) (hive : Nat) (rs : List RegionEntry) : Cells s (fillBlock s x hive rs) := by
  unfold fillBlock
  exact .foldl (fun st r => .ite (storeBytes_cells ..) (.refl st)) _ _

/-- One core of a launch is loaded, and takes its first checkpoint. -/
def loadOne (s : State) (l : Nat) (x : Launch) (im : LoadedImage) (st : State) (e : Nat × Nat) : State :=
  { st.setCore e.2 (loadCore s l x im e.1 e.2) with checkpoints := st.checkpoints.put e.2 [loadCore s l x im e.1 e.2] }

theorem loadCores_eq (s : State) (l : Nat) (x : Launch) (im : LoadedImage) :
    loadCores s l x im = ((List.range x.cores.length).zip x.cores).foldl (loadOne s l x im) s := rfl

section
variable {s : State} {l : Nat} {x : Launch} {im : LoadedImage}

theorem core_loadOne (st : State) (e : Nat × Nat) (g : Nat) :
    (loadOne s l x im st e).core g = if g = e.2 then loadCore s l x im e.1 e.2 else st.core g := core_setCore ..

theorem foldl_loadOne_frame (L : List (Nat × Nat)) (st : State) :
    L.foldl (loadOne s l x im) st = { st with cores := (L.foldl (loadOne s l x im) st).cores, checkpoints := (L.foldl (loadOne s l x im) st).checkpoints } := by
  induction L generalizing st with
  | nil => rfl
  | cons e L ih =>
    rw [List.foldl_cons, ih]
    rfl

/-- A core that is not among those loaded stays, with its checkpoint. -/
theorem foldl_loadOne_other (L : List (Nat × Nat)) {g : Nat} (hg : ∀ e ∈ L, e.2 ≠ g) (st : State) :
    (L.foldl (loadOne s l x im) st).core g = st.core g ∧ (L.foldl (loadOne s l x im) st).checkpoints.find g = st.checkpoints.find g := by
  induction L generalizing st with
  | nil => exact ⟨rfl, rfl⟩
  | cons e L ih =>
    have hne : g ≠ e.2 := (hg e List.mem_cons_self).symm
    obtain ⟨hcore, hpoint⟩ := ih (fun a ha => hg a (List.mem_cons_of_mem _ ha)) (loadOne s l x im st e)
    rw [core_loadOne, if_neg hne] at hcore
    refine ⟨hcore, hpoint.trans ?_⟩
    show (st.checkpoints.put e.2 _).find g = _
    rw [Table.find_put, if_neg hne]

theorem foldl_loadOne_loaded (L : List (Nat × Nat)) (hnodup : (L.map (·.2)).Nodup) {e : Nat × Nat} (he : e ∈ L) (st : State) :
    (L.foldl (loadOne s l x im) st).core e.2 = loadCore s l x im e.1 e.2 ∧
    (L.foldl (loadOne s l x im) st).checkpoints.find e.2 = some [loadCore s l x im e.1 e.2] := by
  induction L generalizing st with
  | nil => exact absurd he List.not_mem_nil
  | cons a L ih =>
    rw [List.map_cons, List.nodup_cons] at hnodup
    rcases List.mem_cons.mp he with h | h
    · subst h
      have hother : ∀ b ∈ L, b.2 ≠ e.2 := fun b hb heq => hnodup.1 (heq ▸ List.mem_map_of_mem hb)
      obtain ⟨hcore, hpoint⟩ := foldl_loadOne_other (s := s) (l := l) (x := x) (im := im) L hother (loadOne s l x im st e)
      refine ⟨hcore.trans ?_, hpoint.trans (Table.find_put_self ..)⟩
      rw [core_loadOne, if_pos rfl]
    · exact ih hnodup.2 h _

theorem mem_zip_range {l : List Nat} {r g : Nat} (h : l[r]? = some g) : (r, g) ∈ (List.range l.length).zip l := by
  obtain ⟨hr, hget⟩ := List.getElem?_eq_some_iff.mp h
  refine List.mem_iff_getElem.mpr ⟨r, by simpa using hr, ?_⟩
  rw [List.getElem_zip, List.getElem_range, hget]

theorem map_snd_zip_range (l : List Nat) : ((List.range l.length).zip l).map (·.2) = l :=
  List.map_snd_zip (by rw [List.length_range])

end

/-- A core as its launch starts: at the entry, with the packet's words in its last scalar registers and nothing else in a register. -/
theorem loadCore_spec (s : State) (l : Nat) (x : Launch) (im : LoadedImage) (r g : Nat) : let c := loadCore s l x im r g
    c.launch = some l ∧ c.rank = r ∧ c.hive = r / x.image.c ∧ c.coreid = r % x.image.c ∧ c.started = true ∧ c.halted = false ∧ c.cycle = 0 ∧
    c.pc = x.image.entry ∧ c.turn = s.now ∧ c.prt = x.image.prt ∧ (∀ k < 4, c.sGet (60 + k) = x.packet.getD (2 + k) 0) ∧
    (∀ k, k < 60 → c.sGet k = 0) ∧ c.f = 0 ∧ c.m = [] ∧ c.v = [] ∧ c.z = [] ∧ c.t = [] ∧ c.acc = [] ∧ c.a = [] ∧ c.b = [] ∧ c.w = 0 ∧ c.lp = [] ∧
    c.fpflags = 0 ∧ c.sig = 0xFFFFFFFF ∧ c.writes = [] ∧ c.reqs = [] := by
  have hs : (loadCore s l x im r g).s = [(60, x.packet.getD 2 0), (61, x.packet.getD 3 0), (62, x.packet.getD 4 0), (63, x.packet.getD 5 0)] := rfl
  refine ⟨rfl, rfl, rfl, rfl, rfl, rfl, rfl, rfl, rfl, rfl, fun k hk => ?_, fun k hk => ?_, rfl, rfl, rfl, rfl, rfl, rfl, rfl, rfl, rfl, rfl, rfl, rfl, rfl, rfl⟩
  · unfold Core.sGet
    rw [hs]
    interval_cases k <;> rfl
  · unfold Core.sGet
    rw [hs]
    split
    · rfl
    · rw [Table.get, if_neg (by omega), if_pos hk]

section
variable {s : State} {l : Nat} {x : Launch} (hx : s.launch? l = some x)
include hx

theorem exec_launchStart_resetting (hreset : (s.func x.func).resetting = true) : exec (.launchStart l) s = .next s := by
  show execLaunchStart l s = _
  unfold execLaunchStart
  rw [hx]
  dsimp only
  rw [hreset, Bool.or_true, if_pos rfl]

/-- A state as a launch is to be loaded: the tier-0 block stands in every hive, and what lies in the host is counted. -/
def blocksFilled (s : State) (x : Launch) : State :=
  let hives := (x.cores.map hiveOfCore).eraseDups
  hives.foldl (fun st hv => fillBlock st x hv (loadImage s x.func x.image).regions) (chargeHost s x.func (startHost s x.func x.image hives.length))

omit hx in
theorem blocksFilled_cells (s : State) (x : Launch) : Cells s (blocksFilled s x) :=
  (chargeHost_cells ..).trans (.foldl (fun _ _ => fillBlock_cells ..) _ _)

theorem exec_launchStart (hstate : x.state = .admitted) (hreset : (s.func x.func).resetting = false) :
    let u := (loadCores (blocksFilled s x) l x (loadImage s x.func x.image)).setLaunch l
      { x with state := .running, start := s.now, rho := s.now, lastStart := s.now }
    exec (.launchStart l) s = .next (if x.image.split ≠ 0 && !s.dieLink then u.due s.now 4600 .dieLinkLost else u) := by
  have hgo : ¬(x.state != .admitted || (s.func x.func).resetting) = true := by
    rw [hstate, hreset]
    decide
  show execLaunchStart l s = _
  unfold execLaunchStart
  rw [hx]
  dsimp only
  rw [if_neg hgo]
  rfl

theorem launchStart_spec (hstate : x.state = .admitted) (hreset : (s.func x.func).resetting = false) (hnodup : x.cores.Nodup) :
    ∃ t, exec (.launchStart l) s = .next t ∧
      t.launch? l = some { x with state := .running, start := s.now, rho := s.now, lastStart := s.now } ∧
      (∀ g, g ∉ x.cores → t.core g = s.core g) ∧
      ∀ r g, x.cores[r]? = some g → t.core g = loadCore (blocksFilled s x) l x (loadImage s x.func x.image) r g ∧ t.checkpoints.find g = some [t.core g] := by
  have hcells := blocksFilled_cells s x
  have hexec := exec_launchStart hx hstate hreset
  dsimp only at hexec
  generalize loadImage s x.func x.image = im at hexec ⊢
  generalize blocksFilled s x = b at hcells hexec ⊢
  rw [loadCores_eq] at hexec
  generalize hL : (List.range x.cores.length).zip x.cores = L at hexec
  have hsnd : L.map (·.2) = x.cores := hL ▸ map_snd_zip_range x.cores
  generalize ({ x with state := .running, start := s.now, rho := s.now, lastStart := s.now } : Launch) = y at hexec ⊢
  generalize hv : L.foldl (loadOne b l x im) b = v at hexec
  obtain ⟨t, ⟨hlaunch, hcore, hpoints⟩, hexec⟩ : ∃ t : State, (t.launch? l = some y ∧ (∀ g, t.core g = v.core g) ∧ t.checkpoints = v.checkpoints) ∧
      exec (.launchStart l) s = .next t := by
    refine ⟨_, ?_, hexec⟩
    split
    · exact ⟨by rw [launch_due, launch_setLaunch, if_pos rfl], fun _ => rfl, rfl⟩
    · exact ⟨by rw [launch_setLaunch, if_pos rfl], fun _ => rfl, rfl⟩
  refine ⟨t, hexec, hlaunch, fun g hg => ?_, fun r g hrg => ?_⟩
  · rw [hcore, ← hv]
    refine (foldl_loadOne_other L (fun e he heq => hg ?_) b).1.trans (hcells.core_eq g)
    rw [← hsnd, ← heq]
    exact List.mem_map_of_mem he
  · have hmem : (r, g) ∈ L := hL ▸ mem_zip_range hrg
    obtain ⟨hc, hp⟩ := foldl_loadOne_loaded (s := b) (l := l) (x := x) (im := im) L (by rw [hsnd]; exact hnodup) hmem b
    rw [hv] at hc hp
    rw [hcore, hpoints, hc]
    exact ⟨rfl, hp⟩

end

/-- Settles O53, by the slots that a reservation fills and by the cores that a launch start loads. -/
theorem launchesStart : Obligations.LaunchesStart := by
  unfold Obligations.LaunchesStart
  refine ⟨fun s => ⟨exec_admissionPass_none, exec_rampSlotBoundary s, ?_⟩, fun s l x hx hreset => exec_launchStart_resetting hx hreset, ?_⟩
  · intro l x cores base honly hwaiting hdec hdeps hfail hen hreset himage hpoll hpin hgov hcap hhot hrise hplace hclaims T credit need left before
    obtain ⟨t, y, J, z, hexec, hpass, hy, hadm, hcores, hbase, hat, hle, henough, hleast, hgot, hdue, hpos, hlow, hhigh, hmem⟩ :=
      admissionPass_spec ⟨honly, hwaiting⟩ hdec hdeps hfail hen hreset himage hpoll hpin hgov hcap hhot hrise hplace hclaims
    exact ⟨t, y, J, z, hexec, hpass, hy, hadm, hcores, hbase, hat, hle, henough, hleast, hgot, hdue, hpos, hlow, hhigh, hmem⟩
  · intro s l x hx hstate hreset hnodup
    obtain ⟨t, hexec, hlaunch, hother, hloaded⟩ := launchStart_spec hx hstate hreset hnodup
    refine ⟨t, hexec, hlaunch, hother, fun r g hrg => ?_⟩
    obtain ⟨hcore, hpoint⟩ := hloaded r g hrg
    have hnow := (blocksFilled_cells s x).now_eq
    have hspec := loadCore_spec (blocksFilled s x) l x (loadImage s x.func x.image) r g
    dsimp only at hspec ⊢
    rw [hnow, ← hcore] at hspec
    exact ⟨hpoint, hspec⟩

end Sys2Proof.Machine
end

section
/-!
PROOFS. The end of a launch (R46, R324, R325, R342, R350, R360).
-/
namespace Sys2Proof.Machine

/-! ## The end of a launch (R46, R324, R325, R342, R350, R360) -/

/-! ### Handles that a shootdown has cut

A placement that leaves its cores is told of the shootdowns that are in progress. Its handles are marked; what its accesses and engines do
stays the same. -/

/-- A state in which handles are marked: the steps that are due, the shootdowns, the checkpoints and the handles of the cores may differ. -/
structure HandlesCut (s t : State) : Prop where
  rest : ∃ cs ps ss as, t = { s with cores := cs, checkpoints := ps, shoots := ss, agenda := as }
  core : ∀ g, t.core g = { s.core g with h := (t.core g).h }

section
variable {s t : State} (h : HandlesCut s t)
include h

theorem HandlesCut.trans {u : State} (h2 : HandlesCut t u) : HandlesCut s u := by
  obtain ⟨⟨_, _, _, _, rfl⟩, hc⟩ := h
  obtain ⟨⟨_, _, _, _, rfl⟩, hc2⟩ := h2
  exact ⟨⟨_, _, _, _, rfl⟩, fun g => by rw [hc2 g, hc g]⟩

theorem HandlesCut.now_eq : t.now = s.now := by obtain ⟨⟨_, _, _, _, rfl⟩, -⟩ := h; rfl
theorem HandlesCut.accesses_eq : t.accesses = s.accesses := by obtain ⟨⟨_, _, _, _, rfl⟩, -⟩ := h; rfl
theorem HandlesCut.dieLink_eq : t.dieLink = s.dieLink := by obtain ⟨⟨_, _, _, _, rfl⟩, -⟩ := h; rfl
theorem HandlesCut.launch_eq (l : Nat) : t.launch? l = s.launch? l := by obtain ⟨⟨_, _, _, _, rfl⟩, -⟩ := h; rfl
theorem HandlesCut.crosses_eq (g pa : Nat) : crosses t g pa = crosses s g pa := by obtain ⟨⟨_, _, _, _, rfl⟩, -⟩ := h; rfl
theorem HandlesCut.core_launch (g : Nat) : (t.core g).launch = (s.core g).launch := by rw [h.core g]
theorem HandlesCut.core_region (g : Nat) : (t.core g).region = (s.core g).region := by rw [h.core g]
theorem HandlesCut.core_halted (g : Nat) : (t.core g).halted = (s.core g).halted := by rw [h.core g]
theorem HandlesCut.core_fences (g : Nat) : (t.core g).fences = (s.core g).fences := by rw [h.core g]
theorem HandlesCut.core_cmdsOf (g e : Nat) : (t.core g).cmdsOf e = (s.core g).cmdsOf e := by
  rw [h.core g]
  rfl

theorem HandlesCut.due (a k : Nat) (i : Instr) (a' k' : Nat) (i' : Instr) : HandlesCut (s.due a k i) (t.due a' k' i') := by
  obtain ⟨⟨_, _, _, _, rfl⟩, hc⟩ := h
  exact ⟨⟨_, _, _, _, rfl⟩, hc⟩

theorem HandlesCut.dueOnce (a k : Nat) (i : Instr) (a' k' : Nat) (i' : Instr) : HandlesCut (s.dueOnce a k i) (t.dueOnce a' k' i') := by
  have h1 : ∃ x, s.dueOnce a k i = { s with agenda := x } := by
    unfold State.dueOnce
    split <;> exact ⟨_, rfl⟩
  have h2 : ∃ y, t.dueOnce a' k' i' = { t with agenda := y } := by
    unfold State.dueOnce
    split <;> exact ⟨_, rfl⟩
  obtain ⟨x, hx⟩ := h1
  obtain ⟨y, hy⟩ := h2
  rw [hx, hy]
  obtain ⟨⟨_, _, _, _, rfl⟩, hc⟩ := h
  exact ⟨⟨_, _, _, _, rfl⟩, hc⟩

theorem HandlesCut.withAccesses (a : Table Access) : HandlesCut { s with accesses := a } { t with accesses := a } := by
  obtain ⟨⟨_, _, _, _, rfl⟩, hc⟩ := h
  exact ⟨⟨_, _, _, _, rfl⟩, hc⟩

theorem HandlesCut.newId : HandlesCut s.newId.2 t.newId.2 := by
  obtain ⟨⟨_, _, _, _, rfl⟩, hc⟩ := h
  exact ⟨⟨_, _, _, _, rfl⟩, hc⟩

theorem HandlesCut.newId_eq : t.newId.1 = s.newId.1 := by obtain ⟨⟨_, _, _, _, rfl⟩, -⟩ := h; rfl

theorem HandlesCut.updFunc (f : Nat) (u : Func → Func) : HandlesCut (s.updFunc f u) (t.updFunc f u) := by
  obtain ⟨⟨_, _, _, _, rfl⟩, hc⟩ := h
  exact ⟨⟨_, _, _, _, rfl⟩, hc⟩

theorem HandlesCut.updLink (l : Nat) (u : Link → Link) : HandlesCut (s.updLink l u) (t.updLink l u) := by
  obtain ⟨⟨_, _, _, _, rfl⟩, hc⟩ := h
  exact ⟨⟨_, _, _, _, rfl⟩, hc⟩

theorem HandlesCut.remotes (id : Nat) (r : Remote) : HandlesCut { s with remotes := s.remotes.put id r } { t with remotes := t.remotes.put id r } := by
  obtain ⟨⟨_, _, _, _, rfl⟩, hc⟩ := h
  exact ⟨⟨_, _, _, _, rfl⟩, hc⟩

theorem HandlesCut.updLaunch (l : Nat) (u : Launch → Launch) : HandlesCut (s.updLaunch l u) (t.updLaunch l u) := by
  have hl := h.launch_eq l
  unfold State.updLaunch
  rw [hl]
  obtain ⟨⟨_, _, _, _, rfl⟩, hc⟩ := h
  split
  · exact ⟨⟨_, _, _, _, rfl⟩, hc⟩
  · exact ⟨⟨_, _, _, _, rfl⟩, hc⟩

theorem HandlesCut.updCore (g : Nat) {u : Core → Core} (hu : ∀ c k, u { c with h := k } = { u c with h := k }) :
    HandlesCut (s.updCore g u) (t.updCore g u) := by
  obtain ⟨⟨cs, ps, ss, as, rfl⟩, hc⟩ := h
  refine ⟨⟨_, _, _, _, rfl⟩, fun k => ?_⟩
  rw [core_updCore, core_updCore]
  split
  · rw [hc g, hu]
  · exact hc k

end

section
variable {s t : State} (h : HandlesCut s t)
include h

theorem HandlesCut.accessesPut (n : Nat) (x : Access) : HandlesCut { s with accesses := s.accesses.put n x } { t with accesses := t.accesses.put n x } := by
  rw [h.accesses_eq]
  exact h.withAccesses _

theorem HandlesCut.countLinkErr (f : Nat) : HandlesCut (countLinkErr s f) (countLinkErr t f) := h.updFunc ..

theorem HandlesCut.funcOfLaunch (l : Nat) : funcOfLaunch t l = funcOfLaunch s l := by
  unfold Machine.funcOfLaunch
  rw [h.launch_eq]

theorem HandlesCut.access_func (x : Access) : x.func t = x.func s := by
  unfold Access.func
  rw [h.funcOfLaunch]

theorem HandlesCut.meetFault (g : Nat) (f : FaultInfo) (n : Nat) : HandlesCut (meetFault s g f n) (meetFault t g f n) := h.updCore g fun _ _ => rfl

theorem HandlesCut.dropRequest (x : Access) (pa : Nat) : HandlesCut (dropRequest s x pa) (dropRequest t x pa) := by
  unfold Machine.dropRequest
  rw [h.access_func]
  split
  · exact h.countLinkErr _
  · dsimp only
    rw [h.core_launch]
    split
    · exact h.countLinkErr _
    · exact (h.countLinkErr _).meetFault ..

theorem HandlesCut.streamOver (x : Access) : HandlesCut (streamOver s x) (streamOver t x) := by
  unfold Machine.streamOver
  split
  · exact h.due ..
  · exact h

theorem HandlesCut.donePiece (n : Nat) (x : Access) (i : Nat) (p : Piece) (reply : Nat) : HandlesCut (donePiece s n x i p reply) (donePiece t n x i p reply) := by
  unfold Machine.donePiece
  dsimp only
  split
  · exact ((h.accessesPut n _).streamOver _).due ..
  · exact h.accessesPut n _

theorem HandlesCut.failPiece (n : Nat) (x : Access) (i : Nat) (p : Piece) : HandlesCut (failPiece s n x i p) (failPiece t n x i p) := by
  unfold Machine.failPiece
  dsimp only
  rw [h.now_eq]
  split
  · exact h.donePiece ..
  · exact (h.dropRequest ..).donePiece ..

theorem HandlesCut.linkFor (d : Nat) : linkFor t d = linkFor s d := by
  obtain ⟨⟨_, _, _, _, rfl⟩, -⟩ := h
  rfl

theorem HandlesCut.packetOf (x : Access) (n : Nat) (p : Piece) : packetOf t x n p = packetOf s x n p := by
  obtain ⟨⟨_, _, _, _, rfl⟩, -⟩ := h
  rfl

theorem HandlesCut.sendPiece (n : Nat) (x : Access) (i : Nat) (p : Piece) : HandlesCut (sendPiece s n x i p) (sendPiece t n x i p) := by
  unfold Machine.sendPiece
  dsimp only
  rw [h.linkFor, h.packetOf, h.access_func, h.newId_eq]
  split
  · exact ((h.newId).remotes _ _).updLink ..
  · exact h.failPiece ..

theorem HandlesCut.putDue (n i d : Nat) : HandlesCut (putDue s n i d) (putDue t n i d) := by
  unfold Machine.putDue
  rw [h.accesses_eq]
  split
  · exact h.withAccesses _
  · exact h

theorem HandlesCut.laneFree (x : Access) (pa : Nat) : laneFree t x pa = laneFree s x pa := by
  unfold Machine.laneFree laneWaits
  rw [h.now_eq, h.accesses_eq]

/-- One piece leaves. -/
theorem HandlesCut.sendOne (n : Nat) (x : Access) (i : Nat) (p : Piece) :
    HandlesCut
      (match pathOf x.g p.pa with
        | .own => let u := Machine.laneFree s x p.pa; (Machine.putDue s n i u).due u (pieceKey x) (performStep x n i)
        | .remote => s.due (s.now + (if crosses s x.g p.pa then 68 else 20)) (pieceKey x) (performStep x n i)
        | .link => Machine.sendPiece s n ((s.accesses.find n).getD x) i p
        | .host => s.due s.now keyPlain (performStep x n i)
        | _ => s)
      (match pathOf x.g p.pa with
        | .own => let u := Machine.laneFree t x p.pa; (Machine.putDue t n i u).due u (pieceKey x) (performStep x n i)
        | .remote => t.due (t.now + (if crosses t x.g p.pa then 68 else 20)) (pieceKey x) (performStep x n i)
        | .link => Machine.sendPiece t n ((t.accesses.find n).getD x) i p
        | .host => t.due t.now keyPlain (performStep x n i)
        | _ => t) := by
  dsimp only
  rw [h.laneFree, h.now_eq, h.crosses_eq, h.accesses_eq]
  split
  · exact (h.putDue ..).due ..
  · exact h.due ..
  · exact h.sendPiece ..
  · exact h.due ..
  · exact h

theorem HandlesCut.meetLostLink (l : Nat) : HandlesCut (meetLostLink s l) (meetLostLink t l) := by
  unfold Machine.meetLostLink
  exact (h.updLaunch ..).due ..

theorem HandlesCut.loseAccess (x : Access) : HandlesCut (loseAccess s x) (loseAccess t x) := by
  unfold Machine.loseAccess
  rw [h.accesses_eq]
  exact (h.withAccesses _).dueOnce ..

theorem HandlesCut.slotsOn (g : Nat) (l : Option Nat) : slotsOn t g l = slotsOn s g l := by
  unfold Machine.slotsOn openOn
  rw [h.accesses_eq]

end

theorem HandlesCut.foldl {α : Type} {u v : State → α → State} (hf : ∀ s t, HandlesCut s t → ∀ a, HandlesCut (u s a) (v t a)) (l : List α) {s t : State}
    (h : HandlesCut s t) : HandlesCut (l.foldl u s) (l.foldl v t) := by
  induction l generalizing s t with
  | nil => exact h
  | cons a l ih => exact ih (hf s t h a)

theorem HandlesCut.sendPieces (n : Nat) (x : Access) (l : List (Nat × Piece)) {s t : State} (h : HandlesCut s t) :
    HandlesCut (sendPieces n x l s) (sendPieces n x l t) := by
  induction l generalizing s t with
  | nil => exact h
  | cons a l ih =>
    obtain ⟨i, p⟩ := a
    exact ih (h.sendOne n x i p)

section
variable {s t : State} (h : HandlesCut s t)
include h

theorem HandlesCut.wakeClass {x : Access} (hx : x.releases = false) : HandlesCut (wakeClass s x) (wakeClass t x) := by
  unfold Machine.wakeClass
  rw [hx, h.slotsOn]
  simp only [Bool.false_eq_true, if_false]
  refine h.foldl (fun u v huv e => ?_) _
  split
  · exact huv.due ..
  · exact huv

theorem HandlesCut.leave {x : Access} (hx : x.releases = false) (n : Nat) : HandlesCut (leave s n x) (leave t n x) := by
  have hcross : ∀ p : Piece, crosses t x.g p.pa = crosses s x.g p.pa := fun p => h.crosses_eq ..
  have hhbm : usesHbm t x = usesHbm s x := by
    unfold usesHbm
    simp only [hcross, h.dieLink_eq]
  have hlost : (!t.dieLink && x.pieces.any fun p => crosses t x.g p.pa) = (!s.dieLink && x.pieces.any fun p => crosses s x.g p.pa) := by
    simp only [hcross, h.dieLink_eq]
  have hsent := (h.accessesPut n { x with left := true }).sendPieces n { x with left := true } (numbered x.pieces)
  unfold Machine.leave
  dsimp only
  by_cases hc : (!s.dieLink && x.pieces.any fun p => crosses s x.g p.pa) = true
  · rw [if_pos hc, if_pos (hlost.trans hc), h.core_launch]
    split
    · exact h.meetLostLink _
    · exact h.loseAccess _
  · have hc' : ¬(!t.dieLink && x.pieces.any fun p => crosses t x.g p.pa) = true := fun hh => hc (hlost.symm.trans hh)
    rw [if_neg hc, if_neg hc', hhbm]
    generalize Machine.sendPieces n { x with left := true } (numbered x.pieces) { s with accesses := s.accesses.put n { x with left := true } } = a at hsent ⊢
    generalize Machine.sendPieces n { x with left := true } (numbered x.pieces) { t with accesses := t.accesses.put n { x with left := true } } = b at hsent ⊢
    split
    · exact (hsent.due ..).wakeClass hx
    · exact hsent.wakeClass hx

theorem HandlesCut.heldLines (g : Nat) : heldLines t g = heldLines s g := by
  have hm : t.messages = s.messages := by
    obtain ⟨⟨_, _, _, _, rfl⟩, -⟩ := h
    rfl
  unfold Machine.heldLines allOpen openOn
  rw [h.accesses_eq, h.core_launch, hm]

theorem HandlesCut.enterHold (g r : Nat) (ps : List Piece) :
    HandlesCut (enterHold s g r ps).1 (enterHold t g r ps).1 ∧ (enterHold t g r ps).2 = (enterHold s g r ps).2 := by
  unfold Machine.enterHold
  dsimp only
  rw [h.core_region, h.heldLines]
  split
  · exact ⟨h, rfl⟩
  · split
    · exact ⟨h.updCore g (u := fun c => { c with region := { c.region with uncontained := 3 } }) fun _ _ => rfl, rfl⟩
    · exact ⟨h, rfl⟩
end

/-- An element's access enters the egress hold, or not. -/
def elementHold (s : State) (g : Nat) (m : Command) (kind : AccessKind) (p : Piece) : State × Bool :=
  if kind == .write && !(s.core g).halted then enterHold s.newId.2 g m.region [p] else (s.newId.2, false)

/-- The access of an element. -/
def elementAccess (s : State) (g e : Nat) (m : Command) (ord : Nat) (kind : AccessKind) (p : Piece) : Access :=
  { role := .engine, g := g, launch := ((elementHold s g m kind p).1.core g).launch, seq := m.seq, slot := 5 + e, issue := m.issue, baddr := m.baddr
    rep := m.rep, cls := m.cls, mask := allClasses, kind := kind, ord := 0, pieces := [p], size := p.len, region := m.region
    held := (elementHold s g m kind p).2, left := false, strict := false, sent := 0, reply := 0, done := false, ident := ord, old := 0 }

/-- An element's access is made: it leaves at once unless it is held. -/
theorem makeElementAccess_eq (s : State) (g e : Nat) (m : Command) (ord : Nat) (kind : AccessKind) (p : Piece) :
    makeElementAccess s g e m ord kind p =
      let x := elementAccess s g e m ord kind p
      let u : State := { (elementHold s g m kind p).1 with accesses := (elementHold s g m kind p).1.accesses.put s.newId.1 x }
      if x.held then u else leave u s.newId.1 x := by
  have htry : makeElementAccess s g e m ord kind p =
      tryLeave { (elementHold s g m kind p).1 with
        accesses := (elementHold s g m kind p).1.accesses.put s.newId.1 (elementAccess s g e m ord kind p) } s.newId.1 := rfl
  rw [htry]
  unfold tryLeave
  dsimp only
  rw [Table.find_put_self]
  rfl

theorem elementAccess_releases (s : State) (g e : Nat) (m : Command) (ord : Nat) (kind : AccessKind) (p : Piece) :
    (elementAccess s g e m ord kind p).releases = false := by
  unfold Access.releases
  split <;> rfl

section
variable {s t : State} (h : HandlesCut s t)
include h

theorem HandlesCut.elementHold (g : Nat) (m : Command) (kind : AccessKind) (p : Piece) :
    HandlesCut (elementHold s g m kind p).1 (elementHold t g m kind p).1 ∧ (elementHold t g m kind p).2 = (elementHold s g m kind p).2 := by
  unfold Machine.elementHold
  rw [h.core_halted]
  split
  · exact h.newId.enterHold ..
  · exact ⟨h.newId, rfl⟩

theorem HandlesCut.elementAccess (g e : Nat) (m : Command) (ord : Nat) (kind : AccessKind) (p : Piece) :
    elementAccess t g e m ord kind p = elementAccess s g e m ord kind p := by
  obtain ⟨hstate, hheld⟩ := h.elementHold g m kind p
  unfold Machine.elementAccess
  rw [hstate.core_launch, hheld]

theorem HandlesCut.makeElementAccess (g e : Nat) (m : Command) (ord : Nat) (kind : AccessKind) (p : Piece) :
    HandlesCut (makeElementAccess s g e m ord kind p) (makeElementAccess t g e m ord kind p) := by
  have hput := (h.elementHold g m kind p).1.accessesPut s.newId.1 (Machine.elementAccess s g e m ord kind p)
  have hrel := elementAccess_releases s g e m ord kind p
  rw [makeElementAccess_eq, makeElementAccess_eq, h.newId_eq, h.elementAccess]
  dsimp only
  generalize Machine.elementAccess s g e m ord kind p = x at hput hrel ⊢
  split
  · exact hput
  · exact hput.leave hrel _

theorem HandlesCut.finishOn (g e : Nat) :
    HandlesCut
      (match (s.core g).cmdsOf e with
        | m :: _ => m.todo.foldl (fun st w => Machine.makeElementAccess st g e m (m.ord - 1) .write (writePiece w)) s
        | [] => s)
      (match (t.core g).cmdsOf e with
        | m :: _ => m.todo.foldl (fun st w => Machine.makeElementAccess st g e m (m.ord - 1) .write (writePiece w)) t
        | [] => t) := by
  rw [h.core_cmdsOf]
  generalize (s.core g).cmdsOf e = ms
  cases ms with
  | nil => exact h
  | cons m _ =>
    have hround : ∀ a b, HandlesCut a b → ∀ w : LineWrite, HandlesCut (Machine.makeElementAccess a g e m (m.ord - 1) .write (writePiece w))
        (Machine.makeElementAccess b g e m (m.ord - 1) .write (writePiece w)) := fun _ _ h2 w => h2.makeElementAccess g e m (m.ord - 1) .write (writePiece w)
    exact HandlesCut.foldl hround m.todo h

theorem HandlesCut.finishElements (g : Nat) : HandlesCut (finishElements s g) (finishElements t g) :=
  (h.finishOn g 0).finishOn g 1

theorem HandlesCut.keptBack (g : Nat) : keptBack t g = keptBack s g := by
  unfold Machine.keptBack openCommands allOpen openOn
  simp only [h.accesses_eq, h.dieLink_eq, h.core_launch, h.core_cmdsOf, h.core_fences, h.crosses_eq]

theorem HandlesCut.lostOn (l g : Nat) : lostOn t l g = lostOn s l g := by
  unfold Machine.lostOn commandsOn openCommands
  simp only [h.accesses_eq, h.core_launch, h.keptBack, h.core_cmdsOf]

end

theorem leaveAccesses_accesses (s : State) (l : Nat) : (leaveAccesses s l).accesses =
    let lost := ((s.accesses.filter fun (_, a) => a.launch == some l).map (·.2.g)).eraseDups.flatMap (lostOn s l)
    (s.accesses.filter fun p => p.2.launch != some l || !lost.contains p.1).map
      fun p => if p.2.launch == some l then (p.1, { p.2 with region := 0 }) else p := by
  unfold leaveAccesses
  dsimp only
  have hdue : ∀ (L : List (Nat × Access)) (u : State),
      (L.foldl (fun st (n, _) => st.due s.now keyLeave (.sourceInterfaceRelease n)) u).accesses = u.accesses := fun L => by
    induction L with
    | nil => exact fun _ => rfl
    | cons e L ih => exact fun u => ih _
  exact hdue _ _

theorem HandlesCut.leaveAccesses {s t : State} (h : HandlesCut s t) (l : Nat) : (leaveAccesses t l).accesses = (leaveAccesses s l).accesses := by
  have hlost : Machine.lostOn t l = Machine.lostOn s l := funext fun g => h.lostOn l g
  rw [leaveAccesses_accesses, leaveAccesses_accesses, h.accesses_eq, hlost]

theorem bringSpares_accesses (s : State) : (bringSpares s).accesses = s.accesses := by
  unfold bringSpares
  refine List.foldlRecOn _ _ (motive := fun t : State => t.accesses = s.accesses) rfl fun t ht u _ => ?_
  split
  · rw [dueOnce_withAgenda]
    exact ht
  · exact ht

/-- A core loses what its launch has left on it. -/
theorem foldl_leaveCore_accesses (l : List Nat) (s : State) : (l.foldl leaveCore s).accesses = s.accesses :=
  List.foldlRecOn _ _ (motive := fun t : State => t.accesses = s.accesses) rfl fun _ ht _ _ => ht

theorem dropLaunch_accesses {s : State} {l : Nat} {x : Launch} (hx : s.launch? l = some x) :
    (dropLaunch s l).accesses = (leaveAccesses (if x.holdsCores && x.state != .saved then x.cores.foldl finishElements s else s) l).accesses := by
  unfold dropLaunch
  rw [hx]
  dsimp only
  rw [bringSpares_accesses]
  have hdue : ∀ (L : List (Nat × Shootdown)) (u : State),
      (L.foldl (fun st (n, _) => st.due st.now keyReply (.shootdownComplete n)) u).accesses = u.accesses := fun L => by
    induction L with
    | nil => exact fun _ => rfl
    | cons e L ih => exact fun u => ih _
  rw [hdue]
  split
  all_goals
    split
    · exact foldl_leaveCore_accesses ..
    · rfl

/-- The accesses that a launch leaves behind do not depend on the handles that a shootdown has cut. -/
theorem HandlesCut.dropLaunch_accesses {s t : State} (h : HandlesCut s t) {l : Nat} {x : Launch} (hx : s.launch? l = some x) :
    (dropLaunch t l).accesses = (dropLaunch s l).accesses := by
  rw [Machine.dropLaunch_accesses hx, Machine.dropLaunch_accesses ((h.launch_eq l).trans hx)]
  split
  · exact (h.foldl (fun _ _ h2 g => h2.finishElements g) _).leaveAccesses l
  · exact h.leaveAccesses l

/-! ### What the end of a launch leaves -/

theorem find_del {α : Type} {t : Table α} (hr : Rising t) (n m : Nat) : (t.del n).find m = if m = n then none else t.find m := by
  induction t with
  | nil => split <;> rfl
  | cons e t ih =>
    obtain ⟨k, v⟩ := e
    obtain ⟨hlt, hr'⟩ := List.pairwise_cons.mp hr
    have hbelow : ∀ j, j ≤ k → Table.find t j = none := fun j hj => by
      cases hf : Table.find t j with
      | none => rfl
      | some y =>
        have hk : k < j := hlt j (List.mem_map_of_mem (Table.mem_of_find hf))
        omega
    have hcons : ∀ (u : Table α) j, Table.find ((k, v) :: u) j = if j = k then some v else if j < k then none else u.find j := fun u j => rfl
    unfold Table.del
    split
    · next h =>
      subst h
      rw [hcons]
      split
      · next hm =>
        subst hm
        exact hbelow m le_rfl
      · split
        · next hm => exact hbelow m (Nat.le_of_lt hm)
        · rfl
    · next h =>
      split
      · next hn =>
        split
        · next hm =>
          subst hm
          rw [hcons, if_neg h, if_pos hn]
        · rfl
      · rw [hcons, hcons, ih hr']
        by_cases hm : m = n
        · rw [if_pos hm, if_neg (by omega), if_neg (by omega), if_pos hm]
        · rw [if_neg hm, if_neg hm]

theorem sublist_del {α : Type} (t : Table α) (n : Nat) : (t.del n).Sublist t := by
  induction t with
  | nil => exact List.Sublist.refl _
  | cons e t ih =>
    unfold Table.del
    split_ifs
    · exact List.sublist_cons_self ..
    · exact List.Sublist.refl _
    · exact ih.cons_cons _

theorem rising_del {α : Type} {t : Table α} (hr : Rising t) (n : Nat) : Rising (t.del n) := List.Pairwise.sublist ((sublist_del t n).map _) hr

theorem mem_put_or {α : Type} {t : Table α} {n : Nat} {x : α} {e : Nat × α} (h : e ∈ t.put n x) : e = (n, x) ∨ e ∈ t := by
  induction t with
  | nil => exact .inl (List.mem_singleton.mp h)
  | cons d t ih =>
    obtain ⟨k, v⟩ := d
    unfold Table.put at h
    split_ifs at h
    · exact (List.mem_cons.mp h).imp id (List.mem_cons_of_mem _)
    · exact List.mem_cons.mp h
    · rcases List.mem_cons.mp h with h | h
      · exact .inr (h ▸ List.mem_cons_self)
      · exact (ih h).imp id (List.mem_cons_of_mem _)

theorem rising_put {α : Type} {t : Table α} (hr : Rising t) (n : Nat) (x : α) : Rising (t.put n x) := by
  induction t with
  | nil => exact List.pairwise_singleton ..
  | cons d t ih =>
    obtain ⟨k, v⟩ := d
    obtain ⟨hlt, hr'⟩ := List.pairwise_cons.mp hr
    have hlt' : ∀ e ∈ t, k < e.1 := fun e he => hlt e.1 (List.mem_map_of_mem he)
    unfold Table.put
    split_ifs with h1 h2
    · subst h1
      exact List.pairwise_cons.mpr ⟨hlt, hr'⟩
    · refine List.pairwise_cons.mpr ⟨fun j hj => ?_, hr⟩
      rcases List.mem_cons.mp hj with h | h
      · rw [h]
        exact h2
      · exact lt_trans h2 (hlt j h)
    · refine List.pairwise_cons.mpr ⟨fun j hj => ?_, ih hr'⟩
      obtain ⟨e, he, rfl⟩ := List.mem_map.mp hj
      rcases mem_put_or he with h | h
      · rw [h]
        show k < n
        omega
      · exact hlt' e h

/-- A step that may end or forget launches, and that tells the queues how their chains ended: a launch that stays keeps its state. -/
structure Ends (s t : State) : Prop where
  dieLink : t.dieLink = s.dieLink
  core : ∀ g, (t.core g).launch = (s.core g).launch ∧ (t.core g).started = (s.core g).started
  rising : Rising s.launches → Rising t.launches
  launch : Rising s.launches → ∀ k y, t.launch? k = some y → ∃ x, s.launch? k = some x ∧ y.state = x.state
  queue : ∀ n q, s.queue? n = some q → ∃ q', t.queue? n = some q' ∧ q.ended ⊆ q'.ended

theorem Ends.of_same {s t : State} (hd : t.dieLink = s.dieLink) (hc : t.cores = s.cores) (hl : t.launches = s.launches) (hq : t.queues = s.queues) :
    Ends s t := by
  have hcore : ∀ g, t.core g = s.core g := fun g => congrArg (fun x => Table.get Core.reset x g) hc
  have hlaunch : ∀ k, t.launch? k = s.launch? k := fun k => congrArg (fun x => Table.find x k) hl
  have hqueue : ∀ n, t.queue? n = s.queue? n := fun n => congrArg (fun x => Table.find x n) hq
  exact ⟨hd, fun g => by rw [hcore]; exact ⟨rfl, rfl⟩, fun h => hl ▸ h, fun _ k y hy => ⟨y, by rw [← hlaunch]; exact hy, rfl⟩,
    fun n q h => ⟨q, by rw [hqueue]; exact h, List.Subset.refl _⟩⟩

theorem Ends.refl (s : State) : Ends s s := .of_same rfl rfl rfl rfl

theorem Ends.trans {a b c : State} (h1 : Ends a b) (h2 : Ends b c) : Ends a c := by
  refine ⟨h2.dieLink.trans h1.dieLink, fun g => ⟨(h2.core g).1.trans (h1.core g).1, (h2.core g).2.trans (h1.core g).2⟩,
    fun h => h2.rising (h1.rising h), fun hr k y hy => ?_, fun n q hq => ?_⟩
  · obtain ⟨x, hx, hxy⟩ := h2.launch (h1.rising hr) k y hy
    obtain ⟨w, hw, hwx⟩ := h1.launch hr k x hx
    exact ⟨w, hw, hxy.trans hwx⟩
  · obtain ⟨q1, hq1, hsub1⟩ := h1.queue n q hq
    obtain ⟨q2, hq2, hsub2⟩ := h2.queue n q1 hq1
    exact ⟨q2, hq2, List.Subset.trans hsub1 hsub2⟩

theorem Ends.foldl {α : Type} {f : State → α → State} (hf : ∀ s a, Ends s (f s a)) (l : List α) (s : State) : Ends s (l.foldl f s) := by
  induction l generalizing s with
  | nil => exact .refl s
  | cons a l ih => exact (hf s a).trans (ih _)

theorem Ends.ite {s a b : State} {p : Prop} [Decidable p] (ha : Ends s a) (hb : Ends s b) : Ends s (if p then a else b) := by
  split
  · exact ha
  · exact hb

theorem Cells.ends {s t : State} (h : Cells s t) : Ends s t := by
  refine .of_same ?_ h.cores_eq ?_ ?_
  all_goals
    rw [h.state]
    rfl

theorem HandlesCut.ends {s t : State} (h : HandlesCut s t) : Ends s t := by
  obtain ⟨⟨_, _, _, _, rfl⟩, hc⟩ := h
  exact ⟨rfl, fun g => by rw [hc g]; exact ⟨rfl, rfl⟩, id, fun _ _ y hy => ⟨y, hy, rfl⟩, fun _ q hq => ⟨q, hq, List.Subset.refl _⟩⟩

/-- A step of traffic that leaves the launches. -/
theorem Traffic.ends {s t : State} (h : Traffic s t) (hl : t.launches = s.launches) : Ends s t := by
  have hd : t.dieLink = s.dieLink := by rw [h.state]; rfl
  have hq : ∀ n, t.queue? n = s.queue? n := fun n => by
    unfold State.queue?
    rw [h.state]
    rfl
  have hlaunch : ∀ k, t.launch? k = s.launch? k := fun k => congrArg (fun x => Table.find x k) hl
  exact ⟨hd, fun g => by rw [h.core g]; exact ⟨rfl, rfl⟩, fun hr => hl ▸ hr, fun _ k y hy => ⟨y, by rw [← hlaunch]; exact hy, rfl⟩,
    fun n q hn => ⟨q, by rw [hq]; exact hn, List.Subset.refl _⟩⟩

theorem updLaunch_ends (s : State) (l : Nat) {u : Launch → Launch} (hu : ∀ x, (u x).state = x.state) : Ends s (s.updLaunch l u) := by
  unfold State.updLaunch
  split
  · next x hx =>
    refine ⟨rfl, fun _ => ⟨rfl, rfl⟩, fun hr => rising_put hr _ _, fun _ k y hy => ?_, fun n q hq => ⟨q, hq, List.Subset.refl _⟩⟩
    rw [launch_setLaunch] at hy
    split at hy
    · next hk =>
      cases hy
      exact ⟨x, hk ▸ hx, hu x⟩
    · exact ⟨y, hy, rfl⟩
  · exact .refl s

theorem del_ends (s : State) (l : Nat) : Ends s { s with launches := s.launches.del l } := by
  refine ⟨rfl, fun _ => ⟨rfl, rfl⟩, fun hr => rising_del hr l, fun hr k y hy => ?_, fun n q hq => ⟨q, hq, List.Subset.refl _⟩⟩
  have hfind : (s.launches.del l).find k = some y := hy
  rw [find_del hr] at hfind
  split at hfind
  · cases hfind
  · exact ⟨y, hfind, rfl⟩

theorem mapLaunches_ends (s : State) {u : Launch → Launch} (hu : ∀ x, (u x).state = x.state) :
    Ends s { s with launches := s.launches.map fun (l, x) => (l, u x) } := by
  refine ⟨rfl, fun _ => ⟨rfl, rfl⟩, fun hr => ?_, fun _ k y hy => ?_, fun n q hq => ⟨q, hq, List.Subset.refl _⟩⟩
  · show Rising (s.launches.map fun e => (e.1, u e.2))
    unfold Rising
    rw [List.map_map]
    exact hr
  · have hfind : Table.find (s.launches.map fun e => (e.1, u e.2)) k = some y := hy
    rw [Table.find_map, Option.map_eq_some_iff] at hfind
    obtain ⟨x, hx, rfl⟩ := hfind
    exact ⟨x, hx, hu x⟩

theorem updQueue_ends (s : State) (n : Nat) {u : Queue → Queue} (hu : ∀ q, q.ended ⊆ (u q).ended) : Ends s (s.updQueue n u) := by
  unfold State.updQueue
  split
  · next x hx =>
    refine ⟨rfl, fun _ => ⟨rfl, rfl⟩, id, fun _ _ y hy => ⟨y, hy, rfl⟩, fun m q hq => ?_⟩
    show ∃ q', (s.queues.put n (u x)).find m = some q' ∧ _
    rw [Table.find_put]
    split
    · next hm =>
      subst hm
      rw [hx] at hq
      cases hq
      exact ⟨_, rfl, hu x⟩
    · exact ⟨q, hq, List.Subset.refl _⟩
  · exact .refl s

theorem mapQueues_ends (s : State) {u : Queue → Queue} (hu : ∀ q, (u q).ended = q.ended) :
    Ends s { s with queues := s.queues.map fun (n, q) => (n, u q) } := by
  refine ⟨rfl, fun _ => ⟨rfl, rfl⟩, id, fun _ _ y hy => ⟨y, hy, rfl⟩, fun n q hq => ⟨u q, ?_, by rw [hu]; exact List.Subset.refl _⟩⟩
  show Table.find (s.queues.map fun e => (e.1, u e.2)) n = _
  rw [Table.find_map]
  exact congrArg (Option.map u) hq

/-! ### The frames of what happens at an end -/

section
variable (s : State)

theorem donePiece_launches (n : Nat) (x : Access) (i : Nat) (p : Piece) (r : Nat) : (donePiece s n x i p r).launches = s.launches := by
  unfold donePiece streamOver
  dsimp only
  split_ifs <;> rfl

theorem dropRequest_launches (x : Access) (pa : Nat) : (dropRequest s x pa).launches = s.launches := by
  unfold dropRequest
  split
  · rfl
  · dsimp only
    split <;> rfl

theorem failPiece_launches (n : Nat) (x : Access) (i : Nat) (p : Piece) : (failPiece s n x i p).launches = s.launches := by
  unfold failPiece
  dsimp only
  split
  · exact donePiece_launches ..
  · exact (donePiece_launches ..).trans (dropRequest_launches ..)

theorem sendPiece_launches (n : Nat) (x : Access) (i : Nat) (p : Piece) : (sendPiece s n x i p).launches = s.launches := by
  unfold sendPiece
  dsimp only
  split
  · rfl
  · exact failPiece_launches ..

theorem putDue_launches (n i d : Nat) : (putDue s n i d).launches = s.launches := by
  unfold putDue
  split <;> rfl

theorem sendPieces_launches (n : Nat) (x : Access) (l : List (Nat × Piece)) : (sendPieces n x l s).launches = s.launches := by
  induction l generalizing s with
  | nil => rfl
  | cons a l ih =>
    obtain ⟨i, p⟩ := a
    unfold sendPieces
    dsimp only
    rw [ih]
    split
    · exact putDue_launches ..
    · rfl
    · exact sendPiece_launches ..
    · rfl
    · rfl

theorem wakeClass_launches {x : Access} (hx : x.releases = false) : (wakeClass s x).launches = s.launches := by
  unfold wakeClass
  rw [hx]
  refine List.foldlRecOn _ _ (motive := fun t : State => t.launches = s.launches) rfl fun t ht e _ => ?_
  dsimp only
  split
  · exact ht
  · exact ht

theorem leave_ends (n : Nat) {x : Access} (hx : x.releases = false) : Ends s (leave s n x) := by
  have htraffic := leave_traffic s n x
  unfold leave at htraffic ⊢
  dsimp only at htraffic ⊢
  split at htraffic
  · next hc =>
    rw [if_pos hc]
    split
    · exact (updLaunch_ends s _ (u := fun x => { x with crossed := true }) fun _ => rfl).trans (.of_same rfl rfl rfl rfl)
    · refine .of_same ?_ ?_ ?_ ?_
      all_goals
        unfold loseAccess
        rw [dueOnce_withAgenda]
        rfl
  · next hc =>
    rw [if_neg hc]
    refine htraffic.ends ?_
    rw [wakeClass_launches _ hx]
    split
    · exact sendPieces_launches ..
    · exact sendPieces_launches ..

theorem enterHold_ends (g r : Nat) (ps : List Piece) : Ends s (enterHold s g r ps).1 := by
  unfold enterHold
  dsimp only
  split
  · exact .refl s
  · split
    · refine ⟨rfl, fun k => ?_, id, fun _ _ y hy => ⟨y, hy, rfl⟩, fun n q hq => ⟨q, hq, List.Subset.refl _⟩⟩
      rw [core_updCore]
      split
      · next h =>
        subst h
        exact ⟨rfl, rfl⟩
      · exact ⟨rfl, rfl⟩
    · exact .refl s

theorem makeElementAccess_ends (g e : Nat) (m : Command) (ord : Nat) (kind : AccessKind) (p : Piece) :
    Ends s (makeElementAccess s g e m ord kind p) := by
  have hhold : Ends s (elementHold s g m kind p).1 := by
    have hid : Ends s s.newId.2 := .of_same rfl rfl rfl rfl
    unfold elementHold
    split
    · exact hid.trans (enterHold_ends ..)
    · exact hid
  have hrel := elementAccess_releases s g e m ord kind p
  rw [makeElementAccess_eq]
  dsimp only
  generalize elementAccess s g e m ord kind p = x at hrel ⊢
  generalize (elementHold s g m kind p).1 = u at hhold ⊢
  have hput : Ends s { u with accesses := u.accesses.put s.newId.1 x } := hhold.trans (.of_same rfl rfl rfl rfl)
  split
  · exact hput
  · exact hput.trans (leave_ends _ _ hrel)

theorem finishElements_ends (g : Nat) : Ends s (finishElements s g) := by
  have hon : ∀ (u : State) (ms : List Command) (e : Nat), Ends u
      (match ms with
        | m :: _ => m.todo.foldl (fun st w => makeElementAccess st g e m (m.ord - 1) .write (writePiece w)) u
        | [] => u) := fun u ms e => by
    cases ms with
    | nil => exact .refl u
    | cons m ms =>
      have hround : ∀ a (w : LineWrite), Ends a (makeElementAccess a g e m (m.ord - 1) .write (writePiece w)) := fun a w => makeElementAccess_ends ..
      exact Ends.foldl hround m.todo u
  exact (hon s _ 0).trans (hon _ _ 1)

theorem leaveAccesses_ends (l : Nat) : Ends s (leaveAccesses s l) := by
  unfold leaveAccesses
  dsimp only
  generalize (List.map _ (List.filter _ s.accesses) : Table Access) = as
  refine Ends.trans (b := { s with accesses := as }) (.of_same rfl rfl rfl rfl) ?_
  generalize List.filter _ as = L
  exact Ends.foldl (f := fun st e => st.due s.now keyLeave (.sourceInterfaceRelease e.1)) (fun _ _ => .of_same rfl rfl rfl rfl) L _

theorem bringSpares_ends : Ends s (bringSpares s) := by
  unfold bringSpares
  refine Ends.foldl (fun st u => ?_) _ s
  split
  · refine .of_same ?_ ?_ ?_ ?_
    all_goals
      rw [dueOnce_withAgenda]
      rfl
  · exact .refl st

theorem endChain_ends (n lsn status : Nat) : Ends s (endChain s n lsn status) := by
  unfold endChain
  dsimp only
  refine Ends.trans ?_ (mapLaunches_ends _ (u := fun x => if x.deps.contains (n, lsn) then
    { x with deps := x.deps.filter (· != (n, lsn)), depFailed := x.depFailed || status != 0 } else x) fun x => by split <;> rfl)
  exact Ends.trans (updQueue_ends s n fun q => List.subset_cons_self ..)
    (.ite (mapQueues_ends _ (u := fun q => { q with refs := q.refs.filter (· != (n, lsn)) }) fun _ => rfl) (.refl _))

theorem discardWaiting_ends (n : Nat) : Ends s (discardWaiting s n) := by
  unfold discardWaiting
  refine Ends.foldl (fun st e => ?_) _ s
  exact (del_ends st e.1).trans (.ite (.refl _) (endChain_ends ..))

theorem storeQcb_cells (f a v : Nat) : Cells s (storeQcb s f a v) := deviceStore_cells ..

theorem writeQcb_cells (n : Nat) : Cells s (writeQcb s n) := by
  unfold writeQcb
  split
  · exact .refl s
  · exact (((storeQcb_cells ..).trans (storeQcb_cells ..)).trans (storeQcb_cells ..)).trans (storeQcb_cells ..)

theorem queueError_ends (n code a : Nat) : Ends s (queueError s n code a) := by
  unfold queueError
  refine (Ends.trans ?_ (discardWaiting_ends ..)).trans (writeQcb_cells ..).ends
  exact updQueue_ends s n fun _ => List.Subset.refl _

theorem failQueue_ends (x : Launch) (code : Nat) : Ends s (failQueue s x code) := by
  unfold failQueue
  split
  · split
    · exact .refl s
    · exact queueError_ends ..
  · exact .refl s

theorem writeCompletion_ends (x : Launch) (status : Nat) (ws : List Word) : Ends s (writeCompletion s x status ws) := by
  have hfail : ∀ st, Ends st (match statusEcode status with | some k => failQueue st x k | none => st) := fun st => by
    split
    · exact failQueue_ends ..
    · exact .refl st
  unfold writeCompletion
  dsimp only
  split
  · exact hfail s
  · split
    · exact (deviceStoreFrom_cells ..).ends.trans (hfail _)
    · exact failQueue_ends ..

/-- The chain of a launch ends: its queue, where it exists, notes the status. -/
theorem endChain_noted {n : Nat} {q : Queue} (hq : s.queue? n = some q) (lsn status : Nat) :
    ∃ q', (endChain s n lsn status).queue? n = some q' ∧ (lsn, status) ∈ q'.ended := by
  unfold endChain
  rw [updQueue_of hq]
  dsimp only
  generalize hu : ({ q with ended := (lsn, status) :: q.ended, blocked := if q.blocked = .chain lsn then .none else q.blocked } : Queue) = u
  have hmem : (lsn, status) ∈ u.ended := by
    rw [← hu]
    exact List.mem_cons_self
  split
  · refine ⟨{ u with refs := u.refs.filter (· != (n, lsn)) }, ?_, hmem⟩
    have hfind := Table.find_map (fun q : Queue => { q with refs := q.refs.filter (· != (n, lsn)) }) (s.queues.put n u) n
    rw [Table.find_put_self] at hfind
    exact hfind
  · exact ⟨u, Table.find_put_self .., hmem⟩

theorem closeLaunch_ends (x : Launch) (status : Nat) (ws : List Word) : Ends s (closeLaunch s x status ws) :=
  (writeCompletion_ends ..).trans (endChain_ends ..)

theorem closeLaunch_noted {x : Launch} {q : Queue} (hx : x.orphan = 0) (hq : s.queue? x.queue = some q) (status : Nat) (ws : List Word) :
    ∃ q', (closeLaunch s x status ws).queue? x.queue = some q' ∧ (x.lsn, status) ∈ q'.ended := by
  obtain ⟨q1, hq1, -⟩ := (writeCompletion_ends s x status ws).queue _ q hq
  have hchain : x.chainQueue = x.queue := by
    unfold Launch.chainQueue
    rw [hx]
    rfl
  unfold closeLaunch
  rw [hchain]
  exact endChain_noted _ hq1 ..

theorem writeRecord_launches (f : Nat) (ws : List Word) : (writeRecord s f ws).1.launches = s.launches := by
  have hput : (putRecord s f ws).launches = s.launches := by
    have hmsix : ∀ (u : State) (v : Nat), (sendMsix u f v).launches = u.launches := fun u v => by
      unfold sendMsix
      split <;> rfl
    have hats : ∀ (u : State) (a : Nat), (noteAts u f a).launches = u.launches := fun u a => by
      unfold noteAts
      split <;> rfl
    unfold putRecord
    dsimp only
    rw [hmsix]
    split
    · rw [writeWords_frame]
      exact hats _ _
    · exact hats _ _
  unfold writeRecord
  dsimp only
  split_ifs
  · rfl
  · rfl
  · rfl
  · exact hput

theorem launchRecord_ends (l : Nat) (x : Launch) (code cause : Nat) (a b : Word) : Ends s (launchRecord s l x code cause a b) := by
  have hrecord : ∀ ws, Ends s (writeRecord s x.func ws).1 := fun ws => by
    have hw := writeRecord_withRecords s x.func ws
    have hl := writeRecord_launches s x.func ws
    refine ⟨by rw [hw]; rfl, fun g => by rw [core_writeRecord]; exact ⟨rfl, rfl⟩, fun hr => hl ▸ hr, fun _ k y hy => ⟨y, ?_, rfl⟩,
      fun n q hq => ⟨q, ?_, List.Subset.refl _⟩⟩
    · exact (congrArg (fun u => Table.find u k) hl).symm.trans hy
    · rw [hw]
      exact hq
  unfold launchRecord
  dsimp only
  exact (hrecord _).trans (updLaunch_ends _ l (u := fun y => { y with fcode := y.fcode.orElse fun _ => some code }) fun _ => rfl)

end

/-! ### A launch is forgotten, and ends -/

theorem foldl_leaveCore_core (l : List Nat) (s : State) (g : Nat) :
    (g ∈ l → ((l.foldl leaveCore s).core g).launch = none ∧ ((l.foldl leaveCore s).core g).started = false) ∧
    (g ∉ l → (l.foldl leaveCore s).core g = s.core g) := by
  induction l generalizing s with
  | nil => exact ⟨fun h => absurd h List.not_mem_nil, fun _ => rfl⟩
  | cons a l ih =>
    have hone : (leaveCore s a).core g = if g = a then emptyCore (s.core a) else s.core g := core_setCore ..
    obtain ⟨hin, hout⟩ := ih (leaveCore s a)
    rw [List.foldl_cons]
    refine ⟨fun h => ?_, fun h => ?_⟩
    · by_cases hl : g ∈ l
      · exact hin hl
      · have hga : g = a := (List.mem_cons.mp h).resolve_right hl
        rw [hout hl, hone, if_pos hga]
        exact ⟨rfl, rfl⟩
    · rw [List.mem_cons, not_or] at h
      rw [hout h.2, hone, if_neg h.1]

theorem foldl_leaveCore_frame (l : List Nat) (s : State) :
    l.foldl leaveCore s = { s with cores := (l.foldl leaveCore s).cores, checkpoints := (l.foldl leaveCore s).checkpoints } := by
  induction l generalizing s with
  | nil => rfl
  | cons a l ih =>
    rw [List.foldl_cons, ih]
    rfl

/-- A launch is forgotten: what it leaves of the launches and queues, and of the cores `cs` on which it was placed. -/
structure Forgets (cs : List Nat) (l : Nat) (s t : State) : Prop where
  dieLink : t.dieLink = s.dieLink
  gone : ∀ g ∈ cs, (t.core g).launch = none ∧ (t.core g).started = false
  other : ∀ g, g ∉ cs → (t.core g).launch = (s.core g).launch
  rising : Rising s.launches → Rising t.launches
  forgotten : Rising s.launches → t.launch? l = none
  launch : Rising s.launches → ∀ k y, t.launch? k = some y → ∃ x, s.launch? k = some x ∧ y.state = x.state
  queue : ∀ n q, s.queue? n = some q → ∃ q', t.queue? n = some q' ∧ q.ended ⊆ q'.ended

theorem Ends.dropped {cs : List Nat} {l : Nat} {a b c : State} (h1 : Ends a b) (h2 : Forgets cs l b c) : Forgets cs l a c := by
  refine ⟨h2.dieLink.trans h1.dieLink, h2.gone, fun g hg => (h2.other g hg).trans (h1.core g).1, fun hr => h2.rising (h1.rising hr),
    fun hr => h2.forgotten (h1.rising hr), fun hr k y hy => ?_, fun n q hq => ?_⟩
  · obtain ⟨x, hx, hxy⟩ := h2.launch (h1.rising hr) k y hy
    obtain ⟨w, hw, hwx⟩ := h1.launch hr k x hx
    exact ⟨w, hw, hxy.trans hwx⟩
  · obtain ⟨q1, hq1, hsub1⟩ := h1.queue n q hq
    obtain ⟨q2, hq2, hsub2⟩ := h2.queue n q1 hq1
    exact ⟨q2, hq2, List.Subset.trans hsub1 hsub2⟩

theorem Forgets.ends {cs : List Nat} {l : Nat} {a b c : State} (h1 : Forgets cs l a b) (h2 : Ends b c) : Forgets cs l a c := by
  refine ⟨h2.dieLink.trans h1.dieLink, fun g hg => ?_, fun g hg => (h2.core g).1.trans (h1.other g hg), fun hr => h2.rising (h1.rising hr), fun hr => ?_,
    fun hr k y hy => ?_, fun n q hq => ?_⟩
  · rw [(h2.core g).1, (h2.core g).2]
    exact h1.gone g hg
  · cases hl : c.launch? l with
    | none => rfl
    | some y =>
      obtain ⟨x, hx, -⟩ := h2.launch (h1.rising hr) l y hl
      rw [h1.forgotten hr] at hx
      cases hx
  · obtain ⟨x, hx, hxy⟩ := h2.launch (h1.rising hr) k y hy
    obtain ⟨w, hw, hwx⟩ := h1.launch hr k x hx
    exact ⟨w, hw, hxy.trans hwx⟩
  · obtain ⟨q1, hq1, hsub1⟩ := h1.queue n q hq
    obtain ⟨q2, hq2, hsub2⟩ := h2.queue n q1 hq1
    exact ⟨q2, hq2, List.Subset.trans hsub1 hsub2⟩

/-- The cores that a launch leaves when it is forgotten. -/
def Launch.placedOn (x : Launch) : List Nat := if x.holdsCores && x.state != .saved then x.cores else []

theorem dropLaunch_dropped {s : State} {l : Nat} {x : Launch} (hx : s.launch? l = some x) : Forgets x.placedOn l s (dropLaunch s l) := by
  unfold dropLaunch
  rw [hx]
  dsimp only
  generalize hu : leaveAccesses (if (x.holdsCores && x.state != .saved) = true then x.cores.foldl finishElements s else s) l = u
  have hleft : Ends s u := by
    rw [← hu]
    exact Ends.trans (.ite (.foldl (fun st g => finishElements_ends st g) _ _) (.refl s)) (leaveAccesses_ends ..)
  refine hleft.dropped ?_
  generalize hv : (if (x.holdsCores && x.state != .saved) = true then x.cores.foldl leaveCore u else u) = v
  have hcores : v = { u with cores := v.cores, checkpoints := v.checkpoints } := by
    rw [← hv]
    split
    · exact foldl_leaveCore_frame ..
    · rfl
  have hcore : ∀ g, (g ∈ x.placedOn → (v.core g).launch = none ∧ (v.core g).started = false) ∧ (g ∉ x.placedOn → v.core g = u.core g) := fun g => by
    rw [← hv]
    unfold Launch.placedOn
    split
    · exact foldl_leaveCore_core ..
    · exact ⟨fun h => absurd h List.not_mem_nil, fun _ => rfl⟩
  have hl : v.launches = u.launches := by rw [hcores]
  have hq : ∀ n, v.queue? n = u.queue? n := fun n => by
    unfold State.queue?
    rw [hcores]
  have hd : v.dieLink = u.dieLink := by rw [hcores]
  refine Forgets.ends ?_ (bringSpares_ends _)
  refine Forgets.ends ?_ (Ends.foldl (f := fun (st : State) (e : Nat × Shootdown) => st.due st.now keyReply (.shootdownComplete e.1))
    (fun st e => .of_same rfl rfl rfl rfl) _ _)
  have hramps : ∀ (a : State) (p : Prop) [Decidable p] (r : List (Nat × Nat × List Nat)), Ends a (if p then { a with ramps := r } else a) :=
    fun a p _ r => .ite (.of_same rfl rfl rfl rfl) (.refl a)
  refine Forgets.ends ?_ (hramps _ _ _)
  have hfind : ∀ k, Rising u.launches → Table.find (v.launches.del l) k = if k = l then none else u.launch? k := fun k hr => by
    rw [hl]
    exact find_del hr l k
  refine ⟨hd, fun g hg => (hcore g).1 hg, fun g hg => congrArg Core.launch ((hcore g).2 hg), fun hr => ?_, fun hr => ?_, fun hr k y hy => ?_, fun n q hn => ?_⟩
  · show Rising (v.launches.del l)
    rw [hl]
    exact rising_del hr l
  · exact (hfind l hr).trans (if_pos rfl)
  · have hk := (hfind k hr).symm.trans hy
    split at hk
    · cases hk
    · exact ⟨y, hk, rfl⟩
  · exact ⟨q, (hq n).trans hn, List.Subset.refl _⟩

/-! ### The requests of shootdowns that reach a placement at its end -/

theorem updMemberBoth_ends (s : State) (l r : Nat) {u : Core → Core} (hu : ∀ c, (u c).launch = c.launch ∧ (u c).started = c.started) :
    Ends s (updMemberBoth s l r u) := by
  have hmember : Ends s (updMember s l r u) := by
    unfold updMember
    split
    · exact .refl s
    · next x hx =>
      split_ifs
      · exact .refl s
      · split
        · have hput := updLaunch_ends s l (u := fun x => { x with savedCores := x.savedCores.set r (u ‹Core›) }) fun _ => rfl
          unfold State.updLaunch at hput
          rw [hx] at hput
          exact hput
        · exact .refl s
      · split
        · refine ⟨rfl, fun g => ?_, id, fun _ _ y hy => ⟨y, hy, rfl⟩, fun n q hq => ⟨q, hq, List.Subset.refl _⟩⟩
          rw [core_updCore]
          split
          · next h =>
            rw [h]
            exact hu _
          · exact ⟨rfl, rfl⟩
        · exact .refl s
  have hpoint : ∀ (a : State) g, Ends a (updPoint a g u) := fun a g => by
    unfold updPoint
    split
    · exact .of_same rfl rfl rfl rfl
    · exact .refl a
  unfold updMemberBoth
  dsimp only
  split
  · exact hmember
  · split_ifs
    · exact hmember
    · exact hmember.trans (updLaunch_ends _ l (u := fun y => { y with savedPoints := y.savedPoints.modify r fun ps => ps.map u }) fun _ => rfl)
    · split
      · exact hmember.trans (hpoint _ _)
      · exact hmember

/-- A running placement's cores are marked, and nothing else. -/
theorem updMemberBoth_handlesCut {s : State} {l : Nat} {x : Launch} (hx : s.launch? l = some x) (hstate : x.state = .running) (r : Nat) {u : Core → Core}
    (hu : ∀ c, u c = { c with h := (u c).h }) : HandlesCut s (updMemberBoth s l r u) := by
  have h1 : ¬x.state = .ended := by rw [hstate]; decide
  have h2 : ¬x.state = .saved := by rw [hstate]; decide
  unfold updMemberBoth updMember
  simp only [hx, if_neg h1, if_neg h2]
  cases x.cores[r]? with
  | none => exact ⟨⟨_, _, _, _, rfl⟩, fun _ => rfl⟩
  | some g =>
    have hcut : HandlesCut s (s.updCore g u) := by
      refine ⟨⟨_, _, _, _, rfl⟩, fun k => ?_⟩
      rw [core_updCore]
      split
      · next h =>
        rw [h]
        exact hu _
      · rfl
    refine hcut.trans ?_
    show HandlesCut (s.updCore g u) (updPoint (s.updCore g u) g u)
    unfold updPoint
    split
    · exact ⟨⟨_, _, _, _, rfl⟩, fun _ => rfl⟩
    · exact ⟨⟨_, _, _, _, rfl⟩, fun _ => rfl⟩

/-- The members of a placement that one shootdown has still to reach. -/
def reachRound (l : Nat) (x : Launch) (s : State) (e : Nat × Shootdown) : State :=
  let mine := (List.range x.cores.length).filter fun r =>
    e.2.func == x.func && e.2.waitCores.contains (x.cores.getD r 0) && !(e.2.reached.any fun (k, q, _) => k == l && q == r)
  if mine.isEmpty then s
  else
    let p := mine.foldl (fun (acc : State × Shootdown) r => reachMember acc.1 acc.2 l r) (s, e.2)
    { p.1 with shoots := p.1.shoots.put e.1 p.2 }.due p.1.now keyReply (.shootdownComplete e.1)

theorem reachSaved_eq (s : State) (l : Nat) (x : Launch) : reachSaved s l x = s.shoots.foldl (reachRound l x) s := rfl

theorem reachRound_ends (l : Nat) (x : Launch) (s : State) (e : Nat × Shootdown) : Ends s (reachRound l x s e) := by
  unfold reachRound
  dsimp only
  split
  · exact .refl s
  · refine Ends.trans (b := (List.foldl (fun (acc : State × Shootdown) r => reachMember acc.1 acc.2 l r) (s, e.2) _).1) ?_ (.of_same rfl rfl rfl rfl)
    generalize List.filter _ _ = L
    generalize e.2 = d
    induction L generalizing s d with
    | nil => exact .refl s
    | cons r L ih =>
      rw [List.foldl_cons]
      exact (updMemberBoth_ends s l r (u := fun c => mapHandles c (fun h => h.valid && d.hits h) fun h => { h with cut := true }) fun _ => ⟨rfl, rfl⟩).trans (ih _ _)

theorem reachSaved_ends (s : State) (l : Nat) (x : Launch) : Ends s (reachSaved s l x) := by
  rw [reachSaved_eq]
  exact .foldl (reachRound_ends l x) _ s

theorem reachRound_handlesCut {s : State} {l : Nat} {y : Launch} (hy : s.launch? l = some y) (hstate : y.state = .running) (x : Launch) (e : Nat × Shootdown) :
    HandlesCut s (reachRound l x s e) := by
  unfold reachRound
  dsimp only
  split
  · exact ⟨⟨_, _, _, _, rfl⟩, fun _ => rfl⟩
  · refine HandlesCut.trans (t := (List.foldl (fun (acc : State × Shootdown) r => reachMember acc.1 acc.2 l r) (s, e.2) _).1) ?_
      ⟨⟨_, _, _, _, rfl⟩, fun _ => rfl⟩
    generalize List.filter _ _ = L
    generalize e.2 = d
    induction L generalizing s d with
    | nil => exact ⟨⟨_, _, _, _, rfl⟩, fun _ => rfl⟩
    | cons r L ih =>
      rw [List.foldl_cons]
      have hone := updMemberBoth_handlesCut hy hstate r (u := fun c => mapHandles c (fun h => h.valid && d.hits h) fun h => { h with cut := true }) fun _ => rfl
      exact hone.trans (ih ((hone.launch_eq l).trans hy) _)

theorem reachSaved_handlesCut {s : State} {l : Nat} {y : Launch} (hy : s.launch? l = some y) (hstate : y.state = .running) (x : Launch) :
    HandlesCut s (reachSaved s l x) := by
  rw [reachSaved_eq]
  generalize s.shoots = L
  induction L generalizing s with
  | nil => exact ⟨⟨_, _, _, _, rfl⟩, fun _ => rfl⟩
  | cons e L ih =>
    have hone := reachRound_handlesCut hy hstate x e
    exact hone.trans (ih ((hone.launch_eq l).trans hy))

/-- What is made of the end of an admitted launch that does not go on with a child. -/
theorem finishLaunch_eq {s : State} {l : Nat} {x : Launch} (hx : s.launch? l = some x) {status : Nat} (h : status ≠ 0 ∨ x.chain = false) :
    ∃ ws y, y.state = .ended ∧ y.final = some (status, ws) ∧ finishLaunch s l status =
      let s1 := dropLaunch (reachSaved s l x) l
      if status ≠ 0 && inFlightOf s1 l then s1.setLaunch l y else closeLaunch s1 x status ws := by
  unfold finishLaunch
  rw [hx]
  dsimp only
  generalize completionWords s x _ = ws
  refine ⟨ws, { x with
    state := .ended, final := some (status, ws), stops := [], restart := none, preempting := false, savedCores := [], savedPoints := [],
    savedSteps := [], deps := [], fences := fencesNow s x }, rfl, rfl, ?_⟩
  split
  · rfl
  · rcases h with hne | hchain
    · simp only [if_neg hne]
    · split
      · rw [hchain]
        rfl
      · rfl

section
variable {s : State} {l : Nat} {x : Launch} (hx : s.launch? l = some x)
include hx

theorem reachSaved_launch : (Rising s.launches → ∀ y, (reachSaved s l x).launch? l = some y → y.state = x.state) := fun hr y hy => by
  obtain ⟨x', hx', hxy⟩ := (reachSaved_ends s l x).launch hr l y hy
  rw [hx] at hx'
  cases hx'
  exact hxy

/-- What an ending launch leaves: every other launch keeps its state, and it has ended or is forgotten. -/
theorem finishLaunch_frame {status : Nat} (hr : Rising s.launches) (h : status ≠ 0) :
    (finishLaunch s l status).dieLink = s.dieLink ∧ Rising (finishLaunch s l status).launches ∧
    (∀ k y, (finishLaunch s l status).launch? k = some y → y.state = .ended ∨ k ≠ l ∧ ∃ z, s.launch? k = some z ∧ y.state = z.state) := by
  obtain ⟨ws, y, hended, -, heq⟩ := finishLaunch_eq hx (.inl h)
  have hreach := reachSaved_ends s l x
  generalize hu : reachSaved s l x = u at heq hreach
  have hdrop : ∃ cs, Forgets cs l s (dropLaunch u l) := by
    cases hul : u.launch? l with
    | some z => exact ⟨_, hreach.dropped (dropLaunch_dropped hul)⟩
    | none =>
      have hsame : dropLaunch u l = u := by
        unfold dropLaunch
        rw [hul]
      rw [hsame]
      exact ⟨[], hreach.dieLink, fun g hg => absurd hg List.not_mem_nil, fun g _ => (hreach.core g).1, hreach.rising, fun _ => hul, hreach.launch, hreach.queue⟩
  obtain ⟨cs, hdrop⟩ := hdrop
  rw [heq]
  dsimp only
  split
  · refine ⟨hdrop.dieLink, rising_put (hdrop.rising hr) _ _, fun k z hz => ?_⟩
    rw [launch_setLaunch] at hz
    split at hz
    · cases hz
      exact .inl hended
    · next hk => exact .inr ⟨hk, hdrop.launch hr k z hz⟩
  · have hall := hdrop.ends (closeLaunch_ends (dropLaunch u l) x status ws)
    refine ⟨hall.dieLink, hall.rising hr, fun k z hz => .inr ⟨fun hk => ?_, hall.launch hr k z hz⟩⟩
    rw [hk, hall.forgotten hr] at hz
    cases hz

/-- A running launch with no child ends: its cores are free, and it waits for its writes or is forgotten. -/
theorem finishLaunch_running (hstate : x.state = .running) (hchain : x.chain = false) (hr : Rising s.launches) (status : Nat) :
    let t := finishLaunch s l status
    let waits := decide (status ≠ 0) && inFlightOf (dropLaunch s l) l
    (∀ g ∈ x.cores, (t.core g).launch = none ∧ (t.core g).started = false) ∧
    (∀ g, g ∉ x.cores → (t.core g).launch = (s.core g).launch) ∧
    (waits = true → ∃ y ws, t.launch? l = some y ∧ y.state = .ended ∧ y.final = some (status, ws)) ∧
    (waits = false → t.launch? l = none ∧ ∀ q, x.orphan = 0 → s.queue? x.queue = some q → ∃ q', t.queue? x.queue = some q' ∧
      (x.lsn, status) ∈ q'.ended) := by
  obtain ⟨ws, y, hended, hfinal, heq⟩ := finishLaunch_eq hx (.inr hchain) (status := status)
  have hcut := reachSaved_handlesCut hx hstate x
  have hflight : inFlightOf (dropLaunch (reachSaved s l x) l) l = inFlightOf (dropLaunch s l) l := by
    unfold inFlightOf
    rw [hcut.dropLaunch_accesses hx]
  have hplaced : x.placedOn = x.cores := by
    unfold Launch.placedOn Launch.holdsCores
    rw [hstate]
    rfl
  have hdrop := hcut.ends.dropped (dropLaunch_dropped ((hcut.launch_eq l).trans hx))
  rw [hplaced] at hdrop
  dsimp only at heq ⊢
  rw [heq, hflight]
  generalize (decide (status ≠ 0) && inFlightOf (dropLaunch s l) l) = waits
  cases waits with
  | true =>
    refine ⟨hdrop.gone, hdrop.other, fun _ => ⟨y, ws, ?_, hended, hfinal⟩, fun h => absurd h (by decide)⟩
    rw [if_pos rfl, launch_setLaunch, if_pos rfl]
  | false =>
    have hall := hdrop.ends (closeLaunch_ends (dropLaunch (reachSaved s l x) l) x status ws)
    rw [if_neg Bool.false_ne_true]
    refine ⟨hall.gone, hall.other, fun h => absurd h (by decide), fun _ => ⟨hall.forgotten hr, fun q ho hq => ?_⟩⟩
    obtain ⟨q1, hq1, -⟩ := hdrop.queue _ q hq
    exact closeLaunch_noted _ ho hq1 status ws

/-! ### The steps that end launches -/

theorem exec_launchRetirement_running (hstate : x.state = .running) (hhalted : ∀ g ∈ x.cores, (s.core g).halted = true) :
    exec (.launchRetirement l) s = .next (if mayRetire s l x then finishLaunch s l 0 else s.dueOnce (s.now + 1) keyRetire (.launchRetirement l)) := by
  have hall : ¬(x.state != .running || !(x.cores.all fun g => (s.core g).halted)) = true := by
    rw [hstate, List.all_eq_true.mpr hhalted]
    decide
  show execLaunchRetirement l s = _
  unfold execLaunchRetirement
  rw [hx]
  dsimp only
  split
  · next h _ =>
    rw [hstate] at h
    cases h
  · rw [if_neg hall]
    split <;> rfl

theorem exec_launchRetirement_ended {status : Nat} {ws : List Word} (hstate : x.state = .ended) (hfinal : x.final = some (status, ws)) :
    exec (.launchRetirement l) s =
      .next (if inFlightOf s l then s else bringSpares (closeLaunch { s with launches := s.launches.del l } x status ws)) := by
  show execLaunchRetirement l s = _
  unfold execLaunchRetirement
  rw [hx]
  dsimp only
  rw [hstate, hfinal]

theorem exec_hostTermination : exec (.hostTermination l) s = .next (if x.goesOn = true ∧ s.up = true then finishLaunch s l 2 else s) := by
  show execHostTermination l s = _
  unfold execHostTermination
  rw [hx]
  dsimp only
  simp only [Bool.and_eq_true]

theorem launchRetirement_ended {status : Nat} {ws : List Word} (hr : Rising s.launches) (hstate : x.state = .ended)
    (hfinal : x.final = some (status, ws)) (hflight : inFlightOf s l = false) :
    ∃ t, exec (.launchRetirement l) s = .next t ∧ t.launch? l = none ∧
      ∀ q, x.orphan = 0 → s.queue? x.queue = some q → ∃ q', t.queue? x.queue = some q' ∧ (x.lsn, status) ∈ q'.ended := by
  have hends := (closeLaunch_ends { s with launches := s.launches.del l } x status ws).trans (bringSpares_ends _)
  refine ⟨_, exec_launchRetirement_ended hx hstate hfinal, ?_, fun q ho hq => ?_⟩
  · rw [hflight, if_neg Bool.false_ne_true]
    cases hl : (bringSpares (closeLaunch { s with launches := s.launches.del l } x status ws)).launch? l with
    | none => rfl
    | some y =>
      obtain ⟨z, hz, -⟩ := hends.launch (rising_del hr l) l y hl
      have hnone : ({ s with launches := s.launches.del l } : State).launch? l = none := (find_del hr l l).trans (if_pos rfl)
      rw [hnone] at hz
      cases hz
  · obtain ⟨q1, hq1, hmem⟩ := closeLaunch_noted { s with launches := s.launches.del l } ho hq status ws
    obtain ⟨q2, hq2, hsub⟩ := (bringSpares_ends (closeLaunch { s with launches := s.launches.del l } x status ws)).queue _ q1 hq1
    rw [hflight, if_neg Bool.false_ne_true]
    exact ⟨q2, hq2, hsub hmem⟩

end

/-! ### The loss of the die link (R360) -/

theorem failByLink_frame (s : State) (l : Nat) (x : Launch) (hr : Rising s.launches) :
    (failByLink s l x).dieLink = s.dieLink ∧ Rising (failByLink s l x).launches ∧
    (∀ k y, (failByLink s l x).launch? k = some y → y.state = .ended ∨ k ≠ l ∧ ∃ z, s.launch? k = some z ∧ y.state = z.state) := by
  have hrecord := launchRecord_ends s l x 0x10 0 0 0
  unfold failByLink
  generalize launchRecord s l x 0x10 0 0 0 = u at hrecord
  cases hu : u.launch? l with
  | some z =>
    obtain ⟨hdie, hrise, hlaunch⟩ := finishLaunch_frame hu (hrecord.rising hr) (by decide : 3 ≠ 0)
    refine ⟨hdie.trans hrecord.dieLink, hrise, fun k y hy => (hlaunch k y hy).imp id ?_⟩
    rintro ⟨hk, w, hw, hyw⟩
    obtain ⟨v, hv, hwv⟩ := hrecord.launch hr k w hw
    exact ⟨hk, v, hv, hyw.trans hwv⟩
  | none =>
    have hsame : finishLaunch u l 3 = u := by
      unfold finishLaunch
      rw [hu]
    rw [hsame]
    refine ⟨hrecord.dieLink, hrecord.rising hr, fun k y hy => .inr ⟨fun hk => ?_, hrecord.launch hr k y hy⟩⟩
    rw [hk, hu] at hy
    cases hy

/-- One launch at the loss of the die link. -/
def linkRound (s s1 : State) (st : State) (e : Nat × Launch) : State :=
  if s.up && e.2.goesOn && (e.2.image.split != 0 || e.2.crossed || crossesNow s1 e.1) then failByLink st e.1 e.2 else st

theorem exec_dieLinkLost (s : State) : exec .dieLinkLost s = .next (s.launches.foldl (linkRound s { s with dieLink := false }) { s with dieLink := false }) := rfl

/-- The rounds keep a launch that has ended, and end those that are split. -/
theorem foldl_linkRound (s s1 : State) (l : Nat) (L : List (Nat × Launch)) (st : State) (hr : Rising st.launches) :
    (L.foldl (linkRound s s1) st).dieLink = st.dieLink ∧
    ((∀ y, st.launch? l = some y → y.state = .ended) ∨ (∃ x, (l, x) ∈ L ∧ s.up = true ∧ x.goesOn = true ∧ x.image.split ≠ 0) →
      ∀ y, (L.foldl (linkRound s s1) st).launch? l = some y → y.state = .ended) := by
  induction L generalizing st with
  | nil =>
    refine ⟨rfl, fun h => ?_⟩
    rcases h with h | ⟨x, hx, -⟩
    · exact h
    · exact absurd hx List.not_mem_nil
  | cons e L ih =>
    rw [List.foldl_cons]
    have hround : (linkRound s s1 st e).dieLink = st.dieLink ∧ Rising (linkRound s s1 st e).launches ∧
        ((∀ y, st.launch? l = some y → y.state = .ended) → ∀ y, (linkRound s s1 st e).launch? l = some y → y.state = .ended) := by
      unfold linkRound
      split
      · obtain ⟨hdie, hrise, hlaunch⟩ := failByLink_frame st e.1 e.2 hr
        refine ⟨hdie, hrise, fun hend y hy => ?_⟩
        rcases hlaunch l y hy with h | ⟨-, z, hz, hyz⟩
        · exact h
        · exact hyz.trans (hend z hz)
      · exact ⟨rfl, hr, id⟩
    obtain ⟨hdie, hrise, hkeep⟩ := hround
    obtain ⟨hdie', hend'⟩ := ih _ hrise
    refine ⟨hdie'.trans hdie, fun h => ?_⟩
    rcases h with h | ⟨x, hx, hup, hgoes, hsplit⟩
    · exact hend' (.inl (hkeep h))
    · rcases List.mem_cons.mp hx with h | h
      · refine hend' (.inl fun y hy => ?_)
        have hyes : linkRound s s1 st e = failByLink st l x := by
          unfold linkRound
          rw [← h]
          dsimp only
          rw [hup, hgoes]
          simp [hsplit]
        rw [hyes] at hy
        rcases (failByLink_frame st l x hr).2.2 l y hy with hend | ⟨hne, -⟩
        · exact hend
        · exact absurd rfl hne
      · exact hend' (.inr ⟨x, h, hup, hgoes, hsplit⟩)

theorem dieLinkLost_spec {s : State} {l : Nat} {x : Launch} (hx : s.launch? l = some x) (hr : Rising s.launches) (hgoes : x.goesOn = true)
    (hup : s.up = true) (hsplit : x.image.split ≠ 0) : ∃ t, exec .dieLinkLost s = .next t ∧
      t.dieLink = false ∧ ∀ y, t.launch? l = some y → y.state = .ended := by
  obtain ⟨hdie, hend⟩ := foldl_linkRound s { s with dieLink := false } l s.launches { s with dieLink := false } hr
  exact ⟨_, exec_dieLinkLost s, hdie, hend (.inr ⟨x, Table.mem_of_find hx, hup, hgoes, hsplit⟩)⟩

/-! ### The save (R342, R350) -/

/-- What reaches a placement that is saved out changes the cores in its save, and the requests of shootdowns themselves. -/
def Told (l : Nat) (s t : State) : Prop :=
  ∀ y, s.launch? l = some y → y.state = .saved → t = { s with launches := t.launches, shoots := t.shoots, agenda := t.agenda } ∧
    ∃ cs ps, t.launch? l = some { y with savedCores := cs, savedPoints := ps } ∧ cs.length = y.savedCores.length

theorem Told.refl (l : Nat) (s : State) : Told l s s := fun y hy _ => ⟨rfl, y.savedCores, y.savedPoints, hy, rfl⟩

theorem Told.trans {l : Nat} {a b c : State} (h1 : Told l a b) (h2 : Told l b c) : Told l a c := fun y hy hsaved => by
  obtain ⟨hb, cs, ps, hyb, hlen⟩ := h1 y hy hsaved
  obtain ⟨hc, cs', ps', hyc, hlen'⟩ := h2 _ hyb hsaved
  exact ⟨by rw [hc, hb], cs', ps', hyc, hlen'.trans hlen⟩

theorem Told.foldl {α : Type} {l : Nat} {f : State → α → State} (hf : ∀ s a, Told l s (f s a)) (L : List α) (s : State) : Told l s (L.foldl f s) := by
  induction L generalizing s with
  | nil => exact .refl l s
  | cons a L ih => exact (hf s a).trans (ih _)

theorem updMember_told (l r : Nat) (s : State) (u : Core → Core) : Told l s (updMember s l r u) := fun y hy hsaved => by
  have h1 : ¬y.state = .ended := by rw [hsaved]; decide
  unfold updMember
  simp only [hy, if_neg h1, if_pos hsaved]
  split
  · exact ⟨rfl, _, _, (launch_setLaunch ..).trans (if_pos rfl), List.length_set⟩
  · exact Told.refl l s y hy hsaved

theorem updMemberBoth_told (l r : Nat) (s : State) (u : Core → Core) : Told l s (updMemberBoth s l r u) := fun y hy hsaved => by
  have h1 : ¬y.state = .ended := by rw [hsaved]; decide
  unfold updMemberBoth
  simp only [hy, if_neg h1, if_pos hsaved]
  refine (updMember_told l r s u).trans (fun z hz hzs => ?_) y hy hsaved
  rw [updLaunch_eq, hz]
  exact ⟨rfl, _, _, (launch_setLaunch ..).trans (if_pos rfl), rfl⟩

theorem reachRound_told (l : Nat) (x : Launch) (s : State) (e : Nat × Shootdown) : Told l s (reachRound l x s e) := by
  unfold reachRound
  dsimp only
  split
  · exact .refl l s
  · refine Told.trans (b := (List.foldl (fun (acc : State × Shootdown) r => reachMember acc.1 acc.2 l r) (s, e.2) _).1) ?_
      fun y hy _ => ⟨rfl, y.savedCores, y.savedPoints, hy, rfl⟩
    generalize List.filter _ _ = L
    generalize e.2 = d
    induction L generalizing s d with
    | nil => exact .refl l s
    | cons r L ih =>
      rw [List.foldl_cons]
      exact (updMemberBoth_told l r s _).trans (ih _ _)

theorem reachSaved_told (l : Nat) (x : Launch) (s : State) : Told l s (reachSaved s l x) := by
  rw [reachSaved_eq]
  exact .foldl (reachRound_told l x) _ s

/-! ### The bytes that the save leaves alone -/

/-- A step that keeps the bytes at the addresses that satisfy a condition. -/
structure KeepsBytes (P : Nat → Prop) (s t : State) : Prop where
  wf : Memory.wf s.mem = true → Memory.wf t.mem = true
  readByte : Memory.wf s.mem = true → ∀ a, P a → readByte t a = readByte s a

section
variable {P : Nat → Prop}

theorem KeepsBytes.of_same {s t : State} (h : t.mem = s.mem) : KeepsBytes P s t :=
  ⟨fun hs => h ▸ hs, fun _ a _ => by unfold Machine.readByte; rw [h]⟩

theorem KeepsBytes.refl (s : State) : KeepsBytes P s s := .of_same rfl

theorem KeepsBytes.trans {a b c : State} (h1 : KeepsBytes P a b) (h2 : KeepsBytes P b c) : KeepsBytes P a c :=
  ⟨fun ha => h2.wf (h1.wf ha), fun ha x hx => (h2.readByte (h1.wf ha) x hx).trans (h1.readByte ha x hx)⟩

theorem KeepsBytes.foldl_mem {α : Type} {f : State → α → State} {l : List α} (hf : ∀ a ∈ l, ∀ s, KeepsBytes P s (f s a)) (s : State) :
    KeepsBytes P s (l.foldl f s) := by
  induction l generalizing s with
  | nil => exact .refl s
  | cons a l ih => exact (hf a List.mem_cons_self s).trans (ih (fun b hb => hf b (List.mem_cons_of_mem _ hb)) _)

theorem KeepsBytes.ite {s a b : State} {p : Prop} [Decidable p] (ha : KeepsBytes P s a) (hb : KeepsBytes P s b) : KeepsBytes P s (if p then a else b) := by
  split
  · exact ha
  · exact hb

theorem foldl_spoil_mem (p : Nat → Nat) (L : List Nat) (s : State) : (L.foldl (fun st i => spoil st (p i)) s).mem = s.mem := by
  induction L generalizing s with
  | nil => rfl
  | cons i L ih => exact ih _

theorem noteCorrected_mem (s : State) (pa : Nat) : (noteCorrected s pa).mem = s.mem := by
  unfold noteCorrected
  split
  · rfl
  · dsimp only
    split_ifs <;> rfl

theorem meetBank_mem (s : State) (pa : Nat) : (meetBank s pa).mem = s.mem := by
  unfold meetBank
  dsimp only
  split
  · split <;> rfl
  · rfl
  · rfl

theorem placeOnSpare_mem (s : State) (pa : Nat) : (placeOnSpare s pa).mem = s.mem := by
  unfold placeOnSpare
  dsimp only
  split <;> rfl

theorem sendMsix_mem (s : State) (f v : Nat) : (sendMsix s f v).mem = s.mem := by
  unfold sendMsix
  split <;> rfl

theorem hrTail_keepsBytes (s : State) (n : Nat) : KeepsBytes P s { s with hrTail := n } := .of_same rfl

theorem hrLog_keepsBytes (s : State) (c : Table Nat) (l : List (List Word)) : KeepsBytes P s { s with hrCounts := c, hrLog := l } := .of_same rfl

theorem roSets_keepsBytes (s : State) (l : List Nat) : KeepsBytes P s { s with roSets := l } := .of_same rfl

theorem flaws_keepsBytes (s : State) (t : Table Nat) : KeepsBytes P s { s with flaws := t } := .of_same rfl

theorem spoil_keepsBytes (s : State) (pa : Nat) : KeepsBytes P s (spoil s pa) := .of_same rfl

theorem due_keepsBytes (s : State) (t k : Nat) (i : Instr) : KeepsBytes P s (s.due t k i) := .of_same rfl

theorem wrapped_keepsBytes (s : State) (t u v : Table Nat) (w : Table Nat) :
    KeepsBytes P s { s with minor := t, major := u, reencrypt := v, tree := w } := .of_same rfl

theorem wrapMinor_keepsBytes (s : State) (pa : Nat) : KeepsBytes P s (wrapMinor s pa) :=
  (wrapped_keepsBytes s _ _ _ _).trans (due_keepsBytes ..)

theorem bumpMinor_keepsBytes (s : State) (pa : Nat) : KeepsBytes P s (bumpMinor s pa) := .of_same rfl

theorem setPoison_keepsBytes (s : State) (pa : Nat) (p : Bool) : KeepsBytes P s (setPoison s pa p) := .of_same rfl

theorem writeBytes_keepsBytes {s : State} {pa : Nat} {bs : List Byte} (hP : ∀ x, P x → x < pa ∨ pa + bs.length ≤ x) : KeepsBytes P s (writeBytes s pa bs) :=
  ⟨(writeBytes_cells s pa bs).wf, fun hs x hx => readByte_writeBytes_outside hs pa bs (hP x hx)⟩

theorem writeMasked_keepsBytes {s : State} {pa : Nat} {bs : List (Option Byte)} (hP : ∀ x, P x → x < pa ∨ pa + bs.length ≤ x) :
    KeepsBytes P s (writeMasked s pa bs) :=
  ⟨(writeMasked_cells s pa bs).wf, fun hs x hx => readByte_writeMasked_outside hs pa bs (hP x hx)⟩

section
variable (hhost : ∀ x, P x → x < hostBase)
include hhost

theorem writeWords_keepsBytes (s : State) (a : Nat) (ws : List Word) : KeepsBytes P s (writeWords s (hostBase + a) ws) := by
  induction ws generalizing s a with
  | nil => exact .refl s
  | cons w ws ih =>
    rw [writeWords_cons, Nat.add_assoc]
    refine KeepsBytes.trans (writeBytes_keepsBytes fun x hx => .inl ?_) (ih _ _)
    have := hhost x hx
    omega

theorem putHealth_keepsBytes (s : State) (ws : List Word) : KeepsBytes P s (putHealth s ws) := by
  unfold putHealth
  dsimp only
  refine .ite (.of_same rfl) (KeepsBytes.trans (KeepsBytes.trans ?_ (hrTail_keepsBytes ..)) (.of_same (sendMsix_mem ..)))
  exact .ite (writeWords_keepsBytes hhost ..) (.of_same rfl)

theorem healthEvent_keepsBytes (s : State) (event die unit : Nat) (args : List Word) : KeepsBytes P s (healthEvent s event die unit args) := by
  unfold healthEvent unitEvent
  dsimp only
  refine .ite (.refl s) (.ite (.of_same ?_) ((hrLog_keepsBytes s _ _).trans (putHealth_keepsBytes hhost ..)))
  split <;> rfl

theorem meetCounters_keepsBytes (s : State) (pa : Nat) : KeepsBytes P s (meetCounters s pa) := by
  unfold meetCounters
  refine .ite (KeepsBytes.trans (.of_same ?_) (healthEvent_keepsBytes hhost ..)) (.refl s)
  exact foldl_spoil_mem _ _ _

theorem meetCodeword_keepsBytes (s : State) (pa : Nat) : KeepsBytes P s (meetCodeword s pa) := by
  unfold meetCodeword
  refine .ite (.refl s) (.ite (.of_same rfl) ?_)
  have hnote : KeepsBytes P s (noteCorrected s pa) := .of_same (noteCorrected_mem s pa)
  exact .ite (hnote.trans ((spoil_keepsBytes ..).trans (healthEvent_keepsBytes hhost ..))) hnote

theorem meetFlaw_keepsBytes (s : State) (pa : Nat) : KeepsBytes P s (meetFlaw s pa) := by
  unfold meetFlaw
  refine .ite (.of_same (meetBank_mem s pa)) (.ite ?_ (.ite (.of_same rfl) (.refl s)))
  exact (meetCounters_keepsBytes hhost ..).trans (meetCodeword_keepsBytes hhost ..)

theorem exhaust_keepsBytes (s : State) (pa : Nat) : KeepsBytes P s (exhaust s pa) := by
  unfold exhaust
  split
  · exact .refl s
  · exact .ite (.refl s) ((roSets_keepsBytes s _).trans (healthEvent_keepsBytes hhost ..))

theorem putLine_keepsBytes (s : State) {pa : Nat} {bytes : List (Option Byte)} (hP : ∀ x, P x → x < pa ∨ pa + bytes.length ≤ x) :
    KeepsBytes P s (putLine s pa bytes) := by
  have hwrite : ∀ st, KeepsBytes P st (writeMasked { st with flaws := Table.put st.flaws (lineOf pa) 0 } pa bytes) := fun st =>
    (flaws_keepsBytes ..).trans (writeMasked_keepsBytes hP)
  unfold putLine
  dsimp only
  refine .ite (KeepsBytes.trans ?_ ((hwrite _).trans (setPoison_keepsBytes ..))) (KeepsBytes.ite ?_ ((meetFlaw_keepsBytes hhost ..).trans (writeMasked_keepsBytes hP)))
  · exact .ite ((meetCounters_keepsBytes hhost ..).trans (.of_same (placeOnSpare_mem ..))) (.refl s)
  · exact (meetFlaw_keepsBytes hhost ..).trans (.ite (.refl _) ((hwrite _).trans (.of_same (placeOnSpare_mem ..))))

theorem writeLine_keepsBytes (s : State) {pa : Nat} {bytes : List (Option Byte)} (hP : ∀ x, P x → x < pa ∨ pa + bytes.length ≤ x) :
    KeepsBytes P s (writeLine s pa bytes) := by
  unfold writeLine
  refine .ite (.ite (exhaust_keepsBytes hhost ..) ?_) (putLine_keepsBytes hhost s hP)
  exact (KeepsBytes.ite (wrapMinor_keepsBytes ..) (.refl s)).trans ((bumpMinor_keepsBytes ..).trans (putLine_keepsBytes hhost _ hP))

theorem storeNow_keepsBytes (s : State) (f : Nat) {pa : Nat} {data : List Byte} (hP : ∀ x, P x → x < pa ∨ pa + data.length ≤ x) :
    KeepsBytes P s (storeNow s f pa data) := by
  unfold storeNow
  refine .ite (KeepsBytes.trans (.of_same ?_) (.ite (writeBytes_keepsBytes hP) (.of_same rfl))) (.ite ?_ (.refl s))
  · unfold noteAts
    split <;> rfl
  · exact writeLine_keepsBytes hhost s (by rwa [List.length_map])

end

end

theorem cutLines_within (fuel off a n : Nat) : ∀ sp ∈ cutLines fuel off a n, a ≤ sp.pa ∧ sp.pa + sp.len ≤ a + n := by
  induction fuel generalizing off a n with
  | zero => exact fun _ h => absurd h List.not_mem_nil
  | succ k ih =>
    unfold cutLines
    split
    · exact fun _ h => absurd h List.not_mem_nil
    · intro sp hsp
      dsimp only at hsp
      rcases List.mem_cons.mp hsp with h | h
      · subst h
        exact ⟨le_rfl, Nat.add_le_add_left (Nat.min_le_left ..) _⟩
      · have hin := ih _ _ _ sp h
        have hle : n.min (64 - a % 64) ≤ n := Nat.min_le_left ..
        generalize n.min (64 - a % 64) = m at hin hle
        omega

/-- The save is written inside the save area. -/
theorem writeSave_keepsBytes (s : State) (l : Nat) (x : Launch) :
    KeepsBytes (fun a => isScratch a = true ∧
      (a < (bits ((s.func x.func).word 4) 0 48).toNat ∨ (bits ((s.func x.func).word 4) 0 48).toNat + (Config.saveImage s.now l).length ≤ a))
      s (writeSave s l x) := by
  unfold writeSave
  dsimp only
  generalize (bits ((s.func x.func).word 4) 0 48).toNat = base
  generalize Config.saveImage s.now l = data
  refine .foldl_mem (fun sp hsp st => storeNow_keepsBytes ?_ st _ ?_) s
  · intro a ha
    have hs := ha.1
    simp only [isScratch, Bool.and_eq_true, decide_eq_true_eq] at hs
    unfold scratchBase at hs
    unfold hostBase
    omega
  · intro a ha
    have hin := cutLines_within _ _ _ _ sp hsp
    have hlen : ((data.drop sp.off).take sp.len).length ≤ sp.len := List.length_take_le ..
    rcases ha.2 with h | h <;> omega

/-! ### The cores that a save frees -/

/-- A core is freed with its checkpoint. -/
def freeCore (s : State) (g : Nat) : State := { s.setCore g (emptyCore (s.core g)) with checkpoints := s.checkpoints.del g }

theorem foldl_freeCore_spec (gs : List Nat) (s : State) :
    let t := gs.foldl freeCore s
    t = { s with cores := t.cores, checkpoints := t.checkpoints } ∧ (∀ g, g ∉ gs → t.core g = s.core g) ∧
      (∀ g, (g ∈ gs ∨ (s.core g).launch = none) → (t.core g).launch = none) := by
  induction gs generalizing s with
  | nil => exact ⟨rfl, fun _ _ => rfl, fun g h => h.resolve_left List.not_mem_nil⟩
  | cons k gs ih =>
    obtain ⟨hstate, hother, hgone⟩ := ih (freeCore s k)
    have hcore : ∀ g, (freeCore s k).core g = if g = k then emptyCore (s.core k) else s.core g := fun g => core_setCore ..
    refine ⟨hstate, fun g hg => ?_, fun g hg => hgone g ?_⟩
    · obtain ⟨hgk, hgs⟩ := List.ne_and_not_mem_of_not_mem_cons hg
      exact (hother g hgs).trans ((hcore g).trans (if_neg hgk))
    · rw [hcore g, List.mem_cons] at *
      split
      · exact .inr rfl
      · next h => exact hg.imp (fun hg => hg.resolve_left h) id

theorem settleHeld_registers (now cause : Nat) (c : Core) :
    SameRegisters c (settleHeld now cause c) ∧ (settleHeld now cause c).pc = c.pc ∧ (settleHeld now cause c).cycle = c.cycle := by
  obtain ⟨hheld, -⟩ := settleHeld_spec now cause c
  rw [hheld]
  exact ⟨by simp [SameRegisters, Core.withHeld], rfl, rfl⟩

theorem writeSave_cells (s : State) (l : Nat) (x : Launch) : Cells s (writeSave s l x) := .foldl (fun _ _ => storeNow_cells ..) _ _

/-- The placement in its save, before the requests of shootdowns reach it. -/
def savedState (s : State) (l : Nat) (x : Launch) : State :=
  let cs := x.cores.map fun g => settleHeld s.now 1 (s.core g)
  let points := x.cores.map fun g => Table.get [] s.checkpoints g
  let mine := fun (i : Instr) => savedStep s l x.cores i
  let steps := (s.agenda.filter fun (_, _, i) => mine i).map fun (t, k, i) => (t - s.now, k, i)
  ((x.cores.foldl freeCore s).undue fun i => mine i || ofCores x.cores i).setLaunch l
    { x with state := .saved, preempting := false, savedAt := s.now, savedCores := cs, savedPoints := points, savedSteps := steps }

theorem saveOut_eq (s : State) (l : Nat) (x : Launch) :
    saveOut s l x = { writeSave (reachSaved (savedState s l x) l x) l x with ramps := (reachSaved (savedState s l x) l x).ramps ++ [(l, x.step, x.cores)] } := rfl

/-- A placement is saved out: its launch keeps its cores as they are, and their positions are free. -/
theorem saveOut_spec (s : State) (l : Nat) (x : Launch) :
    let t := saveOut s l x
    ∃ y : Launch, t.launch? l = some y ∧ y.state = .saved ∧ y.preempting = false ∧ y.savedAt = s.now ∧ y.cores = x.cores ∧
      y.savedCores.length = x.cores.length ∧
      (s.Inv → ∀ a, let base := (bits ((s.func x.func).word 4) 0 48).toNat
        isScratch a = true → a < base ∨ base + (Config.saveImage s.now l).length ≤ a → readByte t a = readByte s a) ∧
      (∀ g ∈ x.cores, (t.core g).launch = none) ∧ (∀ g, g ∉ x.cores → t.core g = s.core g) ∧
      ∀ (r g : Nat) (c : Core), s.shoots = [] → x.cores[r]? = some g → y.savedCores[r]? = some c →
        SameRegisters (s.core g) c ∧ c.pc = (s.core g).pc ∧ c.cycle = (s.core g).cycle := by
  rw [saveOut_eq]
  obtain ⟨hfree, hother, hgone⟩ := foldl_freeCore_spec x.cores s
  have hlaunch : (savedState s l x).launch? l = some _ := (launch_setLaunch ..).trans (if_pos rfl)
  obtain ⟨htold, cs, ps, hy, hlen⟩ := reachSaved_told l x (savedState s l x) _ hlaunch rfl
  have hpart : savedState s l x = { s with
      cores := (savedState s l x).cores, checkpoints := (savedState s l x).checkpoints, launches := (savedState s l x).launches,
      agenda := (savedState s l x).agenda } := by
    unfold savedState
    dsimp only
    rw [hfree]
    rfl
  have hshoots : s.shoots = [] → reachSaved (savedState s l x) l x = savedState s l x := fun h => by
    have h0 : (savedState s l x).shoots = [] := by rw [hpart]; exact h
    rw [reachSaved_eq, h0]
    rfl
  have hcores : ∀ g, (savedState s l x).core g = (x.cores.foldl freeCore s).core g := fun _ => rfl
  generalize savedState s l x = s3 at *
  generalize reachSaved s3 l x = s4 at *
  have hcells := writeSave_cells s4 l x
  have hkeeps := writeSave_keepsBytes s4 l x
  have hmem : s4.mem = s.mem := by rw [htold, hpart]
  have hnow : s4.now = s.now := by rw [htold, hpart]
  have hfunc : s4.func x.func = s.func x.func := by
    have h : s4.funcs = s.funcs := by rw [htold, hpart]
    exact congrArg (fun f => Table.get Func.reset f x.func) h
  have hcore : ∀ g, (writeSave s4 l x).core g = (x.cores.foldl freeCore s).core g := fun g => by
    have h : s4.cores = s3.cores := by rw [htold]
    rw [hcells.core_eq g, ← hcores g]
    exact congrArg (fun c => Table.get Core.reset c g) h
  rw [hnow, hfunc] at hkeeps
  refine ⟨_, (hcells.launch_eq l).trans hy, rfl, rfl, rfl, rfl, hlen.trans (List.length_map ..), fun hinv a hs ha => ?_,
    fun g hg => ?_, fun g hg => (hcore g).trans (hother g hg), fun r g c h0 hg hc => ?_⟩
  · have hread := hkeeps.readByte (hmem ▸ hinv) a ⟨hs, ha⟩
    refine hread.trans ?_
    unfold readByte
    rw [hmem]
  · exact (congrArg Core.launch (hcore g)).trans (hgone g (.inl hg))
  · have hsaved := hy
    rw [hshoots h0, hlaunch] at hsaved
    cases hsaved
    rw [List.getElem?_map, hg] at hc
    cases hc
    exact settleHeld_registers ..

section
variable {s : State} {l : Nat} {x : Launch} (hx : s.launch? l = some x) (hstate : x.state = .saving)
include hx hstate

theorem exec_saveComplete : exec (.saveComplete l) s =
    if x.savedAt = 0 then
      if mayEndSave s x then
        .next ((s.setLaunch l { x with savedAt := s.now + 1 + Config.saveTime (2 ^ 90 + s.now * 256 + x.cores.headD 0) }).due
          (s.now + 1 + Config.saveTime (2 ^ 90 + s.now * 256 + x.cores.headD 0)) 4000 (.saveComplete l))
      else .next (s.dueOnce (s.now + 1) 4000 (.saveComplete l))
    else if s.now < x.savedAt then .next s
    else if mayEndSave s x then .next (saveOut s l x)
    else .next ((s.setLaunch l { x with savedAt := 0 }).dueOnce (s.now + 1) 4000 (.saveComplete l)) := by
  show execSaveComplete l s = _
  unfold execSaveComplete
  rw [hx]
  dsimp only
  rw [if_neg (by rw [hstate]; decide)]

theorem saveComplete_begins (h0 : x.savedAt = 0) (hmay : mayEndSave s x = true) :
    ∃ t z, exec (.saveComplete l) s = .next t ∧ s.now < z ∧ t.launch? l = some { x with savedAt := z } ∧ DueAt t z (.saveComplete l) ∧
      t.mem = s.mem ∧ t.cores = s.cores := by
  have heq := exec_saveComplete hx hstate
  rw [if_pos h0, if_pos hmay] at heq
  exact ⟨_, _, heq, by omega, (launch_setLaunch ..).trans (if_pos rfl), dueAt_due .., rfl, rfl⟩

theorem saveComplete_ends (h0 : x.savedAt ≠ 0) (hnow : x.savedAt ≤ s.now) (hmay : mayEndSave s x = true) :
    exec (.saveComplete l) s = .next (saveOut s l x) := by
  rw [exec_saveComplete hx hstate, if_neg h0, if_neg (by omega), if_pos hmay]

end

/-- Settles O54: a launch retires when its cores have halted, ends at the host's word and with the die link, leaves its cores free and is
forgotten once its writes have performed; a pre-empted one is saved when its accesses have performed. -/
theorem launchesEnd : Obligations.LaunchesEnd := by
  intro s l x hx
  refine ⟨fun hrun hhalted => ?_, exec_hostTermination hx, fun status hr hrun hchain => finishLaunch_running hx hrun hchain hr status,
    fun status ws hr hended hfinal => ⟨fun h => ?_, launchRetirement_ended hx hr hended hfinal⟩, fun hr hgoes hup hsplit => dieLinkLost_spec hx hr hgoes hup hsplit,
    fun hsaving => ⟨saveComplete_begins hx hsaving, fun h0 hmay => ?_, fun h0 hnow hmay => ?_, fun h0 hnow hmay => ?_⟩⟩
  · rw [exec_launchRetirement_running hx hrun hhalted]
    exact ⟨fun h => by rw [if_pos h], fun h => by rw [h, if_neg Bool.false_ne_true]⟩
  · rw [exec_launchRetirement_ended hx hended hfinal, if_pos h]
  · rw [exec_saveComplete hx hsaving, if_pos h0, hmay, if_neg Bool.false_ne_true]
  · rw [exec_saveComplete hx hsaving, if_neg h0, if_neg (by omega), hmay, if_neg Bool.false_ne_true]
  · obtain ⟨y, hy⟩ := saveOut_spec s l x
    exact ⟨_, y, saveComplete_ends hx hsaving h0 hnow hmay, hy⟩

end Sys2Proof.Machine
end

section
/-!
PROOFS. The commands on the commons (R294, R296, R298, R308, R370, R374, R375).
-/
namespace Sys2Proof.Machine

/-! ### CREATE, COST, RIGHTS, REPLICA, SCHEDULE and STOP (R296, R298) -/

/-- A stream that starts keeps its entry, and its next fetch is due at its start where that is still to come. -/
theorem startStream_spec (s : State) (e : Nat) (d : DirEntry) :
    let t := startStream s e d
    t.mem = s.mem ∧ ∃ first next staged, t.directory.find e = some { d with run := true, first := first, nextSeq := next, staged := staged } ∧
      (s.now < d.fstart → ∃ q, q % d.nt = 0 ∧ DueAt t d.fstart (.streamFetch e q)) := by
  have hmem : (stopStream s e).mem = s.mem := by
    cases hd : s.directory.find e with
    | none =>
      unfold stopStream
      rw [hd]
    | some d =>
      obtain ⟨later, -, -, heq⟩ := stopStream_eq hd
      rw [heq]
      rfl
  unfold startStream
  dsimp only
  generalize stopStream s e = s1 at hmem ⊢
  generalize (s1.directory.find e).getD d = old
  generalize hfirst : (old.nextSeq + d.nt - 1) / d.nt * d.nt = first
  have hfetch : s.now < d.fstart → ∀ z k i, let q := first + (if s.now < d.fstart then 0 else (s.now - d.fstart) / d.period + 1)
      let d1 : DirEntry := { d with run := true, first := first, nextSeq := old.nextSeq, staged := old.staged }
      let s2 := (s1.setEntry e d1).due (d1.fetchAt q) 25 (.streamFetch e q)
      ∃ q, q % d.nt = 0 ∧ DueAt (if d.tier = 2 then s2.due z k i else s2) d.fstart (.streamFetch e q) := fun hnow z k i => by
    refine ⟨first, by rw [← hfirst]; exact Nat.mul_mod_left .., ?_⟩
    rw [if_pos hnow]
    have hat : (DirEntry.fetchAt { d with run := true, first := first, nextSeq := old.nextSeq, staged := old.staged } (first + 0)) = d.fstart := by
      unfold DirEntry.fetchAt
      simp
    rw [hat]
    have hdue := dueAt_due (s1.setEntry e { d with run := true, first := first, nextSeq := old.nextSeq, staged := old.staged }) d.fstart 25 (.streamFetch e first)
    split
    · exact hdue.imp fun _ h => (mem_insertDue ..).mpr (.inr h)
    · exact hdue
  refine ⟨?_, first, old.nextSeq, old.staged, ?_, fun hnow => hfetch hnow _ _ _⟩
  · split <;> exact hmem
  · split <;> exact Table.find_put_self ..

section
variable {s : State}

theorem exec_create_held (h : (s.entry (cmdEntry s)).state ≠ 0) : exec .create s = .next (cmdRefuse s 2) := by
  show execCreate s = _
  unfold execCreate
  dsimp only
  rw [if_pos (bne_iff_ne.mpr h)]

theorem exec_create_keyInUse (h : (s.entry (cmdEntry s)).state = 0) (hkey : (entryOfKey s (entryOperand s 0) (entryOperand s 1)).isSome = true) :
    exec .create s = .next (cmdRefuse s 3) := by
  show execCreate s = _
  unfold execCreate
  dsimp only
  rw [if_neg (by simp [h]), if_pos hkey]

/-- The fields of an entry as R294 requires them of CREATE. -/
structure CreateFields (w : Nat → Word) : Prop where
  w2 : bits (w 2) 44 14 = 0
  fmt : bits (w 2) 58 2 ≠ 3
  tier : bits (w 2) 60 2 = 1 ∨ bits (w 2) 60 2 = 2
  cost : bits (w 2) 0 32 ≠ 0
  w3 : bits (w 3) 48 16 = 0
  w4 : bits (w 4) 48 16 = 0
  w5 : bits (w 5) 52 12 = 0
  w6 : bits (w 6) 52 12 = 0
  w7 : bits (w 7) 52 11 = 0
  w8 : bits (w 8) 52 12 = 0
  w11 : bits (w 11) 16 16 = 0
  w11high : bits (w 11) 45 19 = 0
  period : (w 11).getLsbD 44 = true → 256 ≤ (bits (w 11) 0 16).toNat

theorem exec_create_legal (h : (s.entry (cmdEntry s)).state = 0) (hkey : entryOfKey s (entryOperand s 0) (entryOperand s 1) = none)
    (hw : CreateFields (entryOperand s)) :
    let e := cmdEntry s
    let w := entryOperand s
    ∃ t y, exec .create s = .next t ∧ t.directory.find e = some y ∧ t.cmdst = 0 ∧ t.mem = s.mem ∧ y.state = 1 ∧
      y.words = (List.range 10).map w ∧ y.tier = (bits (w 2) 60 2).toNat ∧ y.fmt = (bits (w 2) 58 2).toNat ∧
      y.nt = (bits (w 2) 32 12).toNat + 1 ∧ y.cost = (bits (w 2) 0 32).toNat ∧ y.rights = w 9 ∧ y.subs = [] ∧
      y.run = (w 11).getLsbD 44 ∧ y.fstart = (w 12).toNat ∧
      ((w 11).getLsbD 44 = true → s.now < (w 12).toNat → ∃ q, q % y.nt = 0 ∧ DueAt t (w 12).toNat (.streamFetch e q)) := by
  obtain ⟨h2, hfmt, htier, hcost, h3, h4, h5, h6, h7, h8, h11, h11', hperiod⟩ := hw
  have hrun : ((entryOperand s 11).getLsbD 44 && decide (bits (entryOperand s 11) 0 16 < 256)) = false := by
    cases hb : (entryOperand s 11).getLsbD 44 with
    | false => rfl
    | true =>
      have hle := hperiod hb
      rw [Bool.true_and, decide_eq_false_iff_not, BitVec.lt_def]
      exact Nat.not_lt.mpr hle
  have htier' : (decide (bits (entryOperand s 2) 60 2 = 1) || decide (bits (entryOperand s 2) 60 2 = 2)) = true := by
    rcases htier with ht | ht <;> rw [ht] <;> rfl
  intro e w
  show ∃ t y, execCreate s = .next t ∧ _
  unfold execCreate
  dsimp only
  have hsome : ¬(entryOfKey s (entryOperand s 0) (entryOperand s 1)).isSome = true := by
    rw [hkey]
    decide
  have hfields : ¬(bits (entryOperand s 2) 44 14 != 0 || bits (entryOperand s 2) 58 2 = 3 ||
      !(bits (entryOperand s 2) 60 2 = 1 || bits (entryOperand s 2) 60 2 = 2) || bits (entryOperand s 2) 0 32 = 0 ||
      bits (entryOperand s 3) 48 16 != 0 || bits (entryOperand s 4) 48 16 != 0 || bits (entryOperand s 5) 52 12 != 0 ||
      bits (entryOperand s 6) 52 12 != 0 || bits (entryOperand s 7) 52 11 != 0 || bits (entryOperand s 8) 52 12 != 0 ||
      bits (entryOperand s 11) 16 16 != 0 || bits (entryOperand s 11) 45 19 != 0 ||
      ((entryOperand s 11).getLsbD 44 && bits (entryOperand s 11) 0 16 < 256)) = true := by
    simp only [h2, h3, h4, h5, h6, h7, h8, h11, h11', hrun, htier', hfmt, hcost, bne_self_eq_false, decide_false, Bool.not_true, Bool.or_false]
    decide
  rw [if_neg (by simp [h]), if_neg hsome, if_neg hfields]
  generalize hd : ({ s.entry (cmdEntry s) with
    words := (List.range 10).map (entryOperand s), state := 1, poisoned := [], subs := [], lastLeft := none, unheldAt := none, staged := [], run := false
    tier := (bits (entryOperand s 2) 60 2).toNat, fmt := (bits (entryOperand s 2) 58 2).toNat, nt := (bits (entryOperand s 2) 32 12).toNat + 1
    cost := (bits (entryOperand s 2) 0 32).toNat, rights := entryOperand s 9, pre := (bits (entryOperand s 11) 32 12).toNat
    period := (bits (entryOperand s 11) 0 16).toNat, fstart := (entryOperand s 12).toNat } : DirEntry) = d
  cases hb : (entryOperand s 11).getLsbD 44 with
  | false =>
    refine ⟨_, d, rfl, Table.find_put_self .., rfl, rfl, ?_⟩
    subst hd
    exact ⟨rfl, rfl, rfl, rfl, rfl, rfl, rfl, rfl, rfl, rfl, fun h => absurd h Bool.false_ne_true⟩
  | true =>
    obtain ⟨hmem, first, next, staged, hfind, hfetch⟩ := startStream_spec (s.setEntry (cmdEntry s) d) (cmdEntry s) d
    refine ⟨_, _, rfl, hfind, rfl, hmem, ?_⟩
    subst hd
    exact ⟨rfl, rfl, rfl, rfl, rfl, rfl, rfl, rfl, rfl, rfl, fun _ hnow => hfetch hnow⟩

theorem exec_onFree (h : (s.entry (cmdEntry s)).state = 0) : exec .cost s = .next (cmdRefuse s 2) ∧ exec .rights s = .next (cmdRefuse s 2) ∧
    exec .replica s = .next (cmdRefuse s 2) ∧ exec .schedule s = .next (cmdRefuse s 2) ∧
    exec .replace s = .next (cmdRefuse { s with cmdLeft := none } 2) := by
  refine ⟨if_pos h, if_pos h, if_pos h, if_pos h, ?_⟩
  show execReplace s = _
  unfold execReplace
  dsimp only
  rw [if_pos (by simp [h])]

section
variable (h : (s.entry (cmdEntry s)).state ≠ 0)
include h

theorem exec_cost_held : ∃ t y, exec .cost s = .next t ∧ t.directory.find (cmdEntry s) = some y ∧ t.cmdst = 0 ∧
    y.cost = (bits (entryOperand s 2) 0 32).toNat ∧
    y.subs.map (fun b => (b.queue, b.sub)) = (s.entry (cmdEntry s)).subs.map (fun b => (b.queue, b.sub)) ∧
    y.subs.map (·.computed) = sharesOf (bits (entryOperand s 2) 0 32).toNat (s.entry (cmdEntry s)).subs.length := by
  generalize hd : s.entry (cmdEntry s) = d at h ⊢
  obtain ⟨-, bs, hfind, hbs⟩ := afterAct_stands s (cmdEntry s) d.subs { d with cost := (bits (entryOperand s 2) 0 32).toNat } none (by
    simp only [statusPlan, List.filter_map, List.map_map, Function.comp_def, decide_true, List.filter_true])
  refine ⟨cmdDone (afterAct s (cmdEntry s) d.subs { d with cost := (bits (entryOperand s 2) 0 32).toNat } none), _, ?_, hfind, rfl, rfl, ?_, ?_⟩
  · show execCost s = _
    unfold execCost
    dsimp only
    rw [hd, if_neg h]
  · exact (map_of_body (fun b => (b.queue, b.sub)) (fun _ => rfl) hbs).trans (map_recompute _ (fun b => (b.queue, b.sub)) fun _ _ => rfl)
  · exact (map_of_body (·.computed) (fun _ => rfl) hbs).trans (recompute_computed _)

theorem exec_rights_held : exec .rights s = .next (cmdDone (s.setEntry (cmdEntry s)
    { s.entry (cmdEntry s) with rights := entryOperand s 9, words := (s.entry (cmdEntry s)).words.set 9 (entryOperand s 9) })) := if_neg h

theorem exec_replica_held :
    (bits (entryOperand s 7) 52 11 = 0 → bits (entryOperand s 8) 52 12 = 0 → exec .replica s = .next (cmdDone (s.setEntry (cmdEntry s)
      { s.entry (cmdEntry s) with words := ((s.entry (cmdEntry s)).words.set 7 (entryOperand s 7)).set 8 (entryOperand s 8) }))) ∧
    (bits (entryOperand s 7) 52 11 ≠ 0 ∨ bits (entryOperand s 8) 52 12 ≠ 0 → exec .replica s = .next (cmdRefuse s 1)) := by
  show (_ → _ → execReplica s = _) ∧ (_ → execReplica s = _)
  unfold execReplica
  dsimp only
  rw [if_neg h]
  refine ⟨fun h7 h8 => by rw [if_neg (by simp [h7, h8])], fun hbad => by rw [if_pos (by simpa using hbad)]⟩

theorem exec_schedule_held :
    let e := cmdEntry s
    let d := s.entry e
    let w := entryOperand s
    (256 ≤ (bits (w 11) 0 16).toNat → s.now + 3000 ≤ (w 12).toNat → ∃ t y, exec .schedule s = .next t ∧ t.cmdst = 0 ∧ t.mem = s.mem ∧
      t.directory.find e = some y ∧ y.run = true ∧ y.period = (bits (w 11) 0 16).toNat ∧ y.fstart = (w 12).toNat ∧
      y.pre = (bits (w 11) 32 12).toNat ∧ y.subs = d.subs ∧ ∃ q, q % d.nt = 0 ∧ DueAt t (w 12).toNat (.streamFetch e q)) ∧
    ((bits (w 11) 0 16).toNat < 256 ∨ (w 12).toNat < s.now + 3000 → exec .schedule s = .next (cmdRefuse s 5)) := by
  intro e d w
  have hlt : bits (w 11) 0 16 < 256 ↔ (bits (w 11) 0 16).toNat < 256 := BitVec.lt_def
  show (_ → _ → ∃ t y, execSchedule s = .next t ∧ _) ∧ (_ → execSchedule s = _)
  unfold execSchedule
  dsimp only
  rw [if_neg h]
  refine ⟨fun hperiod hstart => ?_, fun hbad => ?_⟩
  · have hok : ¬(decide (bits (entryOperand s 11) 0 16 < 256) || decide ((entryOperand s 12).toNat < s.now + 3000)) = true := by
      simp only [Bool.or_eq_true, decide_eq_true_eq]
      rintro (hb | hb)
      · exact absurd (hlt.mp hb) (Nat.not_lt.mpr hperiod)
      · exact absurd hb (Nat.not_lt.mpr hstart)
    rw [if_neg hok]
    obtain ⟨hmem, first, next, staged, hfind, hfetch⟩ := startStream_spec s (cmdEntry s) { s.entry (cmdEntry s) with
      pre := (bits (entryOperand s 11) 32 12).toNat, period := (bits (entryOperand s 11) 0 16).toNat, fstart := (entryOperand s 12).toNat, run := true }
    exact ⟨_, _, rfl, rfl, hmem, hfind, rfl, rfl, rfl, rfl, rfl, hfetch (Nat.lt_of_lt_of_le (Nat.lt_add_of_pos_right (by decide)) hstart)⟩
  · have hok : (decide (bits (entryOperand s 11) 0 16 < 256) || decide ((entryOperand s 12).toNat < s.now + 3000)) = true := by
      simp only [Bool.or_eq_true, decide_eq_true_eq]
      exact hbad.imp hlt.mpr id
    rw [if_pos hok]

end

theorem exec_stop : ∃ t, exec .stop s = .next t ∧ t.cmdst = 0 ∧ DueAt t (Nat.max s.now (entryOperand s 0).toNat) (.streamStop (cmdEntry s)) ∧
    t.directory = s.directory ∧ t.mem = s.mem := ⟨_, rfl, rfl, dueAt_due .., rfl, rfl⟩

end

/-! ### REPLACE and LOAD (R265, R308, R370, R375) -/

theorem cmdAfterRead_spec (s : State) : (cmdAfterRead s).cmdst = 0xC000000000000000 ∧ (cmdAfterRead s).mem = s.mem ∧
    (cmdAfterRead s).directory = s.directory ∧ ∃ z, s.now < z ∧ DueAt (cmdAfterRead s) z .commandDone := by
  unfold cmdAfterRead cmdLater
  obtain ⟨w, hs, hw⟩ := cmdStarted_eq { s with cmdLeft := none }
  rw [hs]
  refine ⟨hw, rfl, rfl, _, ?_, dueAt_due ..⟩
  show s.now < s.now + 1 + _
  omega

/-- The reading of the host is over when what is left has room in the frame. -/
theorem readMore_last (s : State) (n : Nat) : (readMore s n).2 = decide (s.cmdLeft.getD n ≤ (s.func 0).hostQuota - (s.func 0).hostBytes) := by
  show (s.cmdLeft.getD n == min (s.cmdLeft.getD n) ((s.func 0).hostQuota - (s.func 0).hostBytes)) = _
  generalize s.cmdLeft.getD n = left
  generalize (s.func 0).hostQuota - (s.func 0).hostBytes = room
  by_cases hle : left ≤ room
  · rw [Nat.min_eq_left hle, decide_eq_true hle, beq_self_eq_true]
  · rw [Nat.min_eq_right (Nat.le_of_not_le hle), decide_eq_false hle, beq_eq_false_iff_ne]
    exact fun heq => hle (Nat.le_of_eq heq)

theorem putTile_cells (s : State) (p : Nat × Nat) (img hd : List Byte) : Cells s (putTile s p img hd) := by
  unfold putTile
  exact (Cells.ite ((flaws_cells ..).trans (writeBytes_cells ..)) (storeBytes_cells ..)).trans
    (.ite ((flaws_cells ..).trans (writeBytes_cells ..)) (storeBytes_cells ..))

/-- Bytes put into the deep tier are written there. -/
theorem putTile_deep {s : State} {a : Nat} (ha : isDeep a = true) (data : List Byte) :
    ∃ u : State, u.mem = s.mem ∧ (putTile s (a, a) data []).mem = (writeBytes u a data).mem := by
  unfold putTile
  simp only [ha, if_true]
  exact ⟨{ s with flaws := (cutLines (data.length / 64 + 2) 0 a data.length).foldl (fun t sp => Table.put t (lineOf sp.pa) 0) s.flaws }, rfl, rfl⟩

theorem noteRead_cells (s : State) (io n : Nat) : Cells s (noteRead s io n) := .foldl (fun _ _ => noteAts_cells ..) _ _

theorem noteAts_mem (s : State) (f a : Nat) : (noteAts s f a).mem = s.mem := by
  unfold noteAts
  split <;> rfl

theorem noteRead_mem (s : State) (io n : Nat) : (noteRead s io n).mem = s.mem := by
  have hnote : ∀ (L : List Nat) (t : State), (L.foldl (fun st i => noteAts st 0 (io + 4096 * i)) t).mem = t.mem := fun L => by
    induction L with
    | nil => exact fun _ => rfl
    | cons i L ih => exact fun t => (ih _).trans (noteAts_mem ..)
  exact hnote _ s

/-- A tile has its new contents, its mark is cleared and every subscription is told. -/
def replaced (s : State) (e : Nat) (d : DirEntry) (t iat hat : Nat) (img hd : List Byte) : State :=
  let deep := tileSource s { d with tier := 2 } t
  let s2 := noteRead (noteRead s iat d.imageSize) hat d.headerSize
  let s3 := markLines (if isDeep deep.1 && isDeep deep.2 then putTile s2 deep img hd else s2) d t false
  let s4 := match commonsBase s3 with
    | some b => putTile s3 (b + d.imageAt t, b + d.headerAt t) img hd
    | none => s3
  let s5 := mendReads s4 e t img hd
  noticeAll s5 e (s5.entry e) 4 t

theorem mendReads_spec {s : State} {e : Nat} {d : DirEntry} (hd : s.directory.find e = some d) (t : Nat) (img hdr : List Byte) :
    (mendReads s e t img hdr).now = s.now ∧ ∃ y, (mendReads s e t img hdr).entry e = y ∧ y.poisoned = d.poisoned.filter (· != t) := by
  unfold mendReads
  rw [hd]
  dsimp only
  refine ⟨rfl, _, Table.get_put_self .., rfl⟩

theorem replaced_spec {s : State} {e : Nat} {d : DirEntry} (hd : s.directory.find e = some d) (t iat hat : Nat) (img hdr : List Byte) :
    (replaced s e d t iat hat img hdr).now = s.now ∧
    ∃ y, (replaced s e d t iat hat img hdr).directory.find e = some y ∧ y.poisoned = d.poisoned.filter (· != t) := by
  unfold replaced
  dsimp only
  generalize tileSource s { d with tier := 2 } t = deep
  have h3 : Cells s (markLines (if isDeep deep.1 && isDeep deep.2 then putTile (noteRead (noteRead s iat d.imageSize) hat d.headerSize) deep img hdr
      else noteRead (noteRead s iat d.imageSize) hat d.headerSize) d t false) :=
    (((noteRead_cells ..).trans (noteRead_cells ..)).trans (.ite (putTile_cells ..) (.refl _))).trans (markLines_cells ..)
  generalize markLines _ d t false = s3 at h3 ⊢
  have h4 : Cells s (match commonsBase s3 with | some b => putTile s3 (b + d.imageAt t, b + d.headerAt t) img hdr | none => s3) := by
    split
    · exact h3.trans (putTile_cells ..)
    · exact h3
  generalize (match commonsBase s3 with | some b => putTile s3 (b + d.imageAt t, b + d.headerAt t) img hdr | none => s3) = s4 at h4 ⊢
  obtain ⟨hnow, y, hy, hp⟩ := mendReads_spec (s := s4) (e := e) (d := d) (by rw [h4.directory_eq]; exact hd) t img hdr
  obtain ⟨hacts, bs, hfind, -⟩ := noticeAll_stands (mendReads s4 e t img hdr) e y 4 t
  rw [hy]
  exact ⟨hacts.now_eq.trans (hnow.trans h4.now_eq), _, hfind, hp⟩

theorem Table.get_eq_find {α : Type} (d : α) (t : Table α) (n : Nat) : Table.get d t n = (t.find n).getD d := by
  induction t with
  | nil => rfl
  | cons e t ih =>
    obtain ⟨k, v⟩ := e
    have hcons : Table.find ((k, v) :: t) n = if n = k then some v else if n < k then none else Table.find t n := rfl
    rw [Table.get, hcons]
    split_ifs
    · rfl
    · rfl
    · exact ih

theorem find_of_entry {s : State} {e : Nat} (h : (s.entry e).state ≠ 0) : s.directory.find e = some (s.entry e) := by
  have hget : s.entry e = (s.directory.find e).getD DirEntry.reset := Table.get_eq_find ..
  rw [hget] at h ⊢
  cases hf : s.directory.find e with
  | none =>
    rw [hf] at h
    exact absurd rfl h
  | some d => rfl

section
variable {s : State}

/-- The tile that REPLACE names (R375). -/
def replaceTileOf (s : State) : Nat := (bits (s.operand 0x20) 0 12).toNat

theorem exec_replace_notPoisoned (hp : replaceTileOf s ∉ (s.entry (cmdEntry s)).poisoned) :
    exec .replace s = .next (cmdRefuse { s with cmdLeft := none } 2) := by
  show execReplace s = _
  unfold execReplace
  dsimp only
  unfold replaceTileOf at hp
  rw [if_pos (by simp [hp])]

section
variable (h : (s.entry (cmdEntry s)).state ≠ 0) (hp : replaceTileOf s ∈ (s.entry (cmdEntry s)).poisoned)
include h hp

theorem exec_replace_notGranted (hg : ¬(Config.hostGrants 0 (s.operand 0x28).toNat = true ∧ Config.hostGrants 0 (s.operand 0x30).toNat = true)) :
    exec .replace s = .next (cmdRefuse s 5) := by
  show execReplace s = _
  unfold execReplace replaceTileOf at *
  dsimp only
  rw [if_neg (by simp [h, hp])]
  unfold hostRead
  by_cases h1 : Config.hostGrants 0 (s.operand 0x28).toNat = true
  · have h2 : ¬Config.hostGrants 0 (s.operand 0x30).toNat = true := fun h2 => hg ⟨h1, h2⟩
    rw [if_pos h1, if_neg h2]
  · rw [if_neg h1]

theorem exec_replace_granted (h1 : Config.hostGrants 0 (s.operand 0x28).toNat = true) (h2 : Config.hostGrants 0 (s.operand 0x30).toNat = true) :
    let d := s.entry (cmdEntry s)
    let t := replaceTileOf s
    let p := readMore s (d.imageSize + d.headerSize)
    exec .replace s =
      if !p.2 then actNextFrame p.1 .replace else
        match blockedLines p.1 true (copyLines p.1 d t) with
        | (s1, some u) => .next (s1.due u keyCommand .replace)
        | (s1, none) => .next (cmdAfterRead (replaced s1 (cmdEntry s) d t (s.operand 0x28).toNat (s.operand 0x30).toNat
            (readBytes s (hostBase + (s.operand 0x28).toNat) d.imageSize) (readBytes s (hostBase + (s.operand 0x30).toNat) d.headerSize))) := by
  show execReplace s = _
  unfold execReplace replaceTileOf at *
  dsimp only
  rw [if_neg (by simp [h, hp])]
  unfold hostRead
  rw [if_pos h1, if_pos h2]
  rfl

end

end

theorem exec_replace_poisoned {s : State} (h : (s.entry (cmdEntry s)).state ≠ 0) (hp : replaceTileOf s ∈ (s.entry (cmdEntry s)).poisoned) :
    let d := s.entry (cmdEntry s)
    let size := d.imageSize + d.headerSize
    let left := s.cmdLeft.getD size
    let room := (s.func 0).hostQuota - (s.func 0).hostBytes
    ∃ t, exec .replace s = .next t ∧
      if Config.hostGrants 0 (s.operand 0x28).toNat = true ∧ Config.hostGrants 0 (s.operand 0x30).toNat = true then
        let p := blockedLines (readMore s size).1 true (copyLines (readMore s size).1 d (replaceTileOf s))
        (room < left → t = (readMore s size).1.due ((s.now / 12000 + 1) * 12000) keyCommand .replace) ∧
        (∀ u, left ≤ room → p.2 = some u → t = p.1.due u keyCommand .replace) ∧
        (left ≤ room → p.2 = none → ∃ y z, t.directory.find (cmdEntry s) = some y ∧ y.poisoned = d.poisoned.filter (· != replaceTileOf s) ∧
          t.cmdst = 0xC000000000000000 ∧ s.now < z ∧ DueAt t z .commandDone)
      else t = cmdRefuse s 5 := by
  intro d size left room
  by_cases hg : Config.hostGrants 0 (s.operand 0x28).toNat = true ∧ Config.hostGrants 0 (s.operand 0x30).toNat = true
  · simp only [if_pos hg]
    have hexec := exec_replace_granted h hp hg.1 hg.2
    dsimp only at hexec
    have hlast : (readMore s size).2 = decide (left ≤ room) := readMore_last s size
    have hnow : (readMore s size).1.now = s.now := rfl
    have hdir : (readMore s size).1.directory = s.directory := rfl
    rw [show (s.entry (cmdEntry s)).imageSize + (s.entry (cmdEntry s)).headerSize = size from rfl, hlast] at hexec
    generalize (readMore s size).1 = s0 at hexec hnow hdir ⊢
    by_cases hle : left ≤ room
    · rw [decide_eq_true hle, if_neg (by decide)] at hexec
      have hcells := blockedLines_cells s0 true (copyLines s0 d (replaceTileOf s))
      rw [show s.entry (cmdEntry s) = d from rfl] at hexec
      generalize blockedLines s0 true (copyLines s0 d (replaceTileOf s)) = p at hexec hcells ⊢
      obtain ⟨s1, wait⟩ := p
      cases wait with
      | some u =>
        refine ⟨_, hexec, fun hlt => absurd hle (Nat.not_le.mpr hlt), fun v _ hv => ?_, fun _ hv => by cases hv⟩
        cases hv
        rfl
      | none =>
        refine ⟨_, hexec, fun hlt => absurd hle (Nat.not_le.mpr hlt), fun v _ hv => (by cases hv), fun _ _ => ?_⟩
        have hfind : s1.directory.find (cmdEntry s) = some d := by
          rw [hcells.directory_eq, hdir]
          exact find_of_entry h
        obtain ⟨hrnow, y, hy, hpoison⟩ := replaced_spec hfind (replaceTileOf s) (s.operand 0x28).toNat (s.operand 0x30).toNat
          (readBytes s (hostBase + (s.operand 0x28).toNat) d.imageSize) (readBytes s (hostBase + (s.operand 0x30).toNat) d.headerSize)
        obtain ⟨hcmdst, -, hdir', z, hz, hdue⟩ := cmdAfterRead_spec (replaced s1 (cmdEntry s) d (replaceTileOf s) (s.operand 0x28).toNat
          (s.operand 0x30).toNat (readBytes s (hostBase + (s.operand 0x28).toNat) d.imageSize) (readBytes s (hostBase + (s.operand 0x30).toNat) d.headerSize))
        rw [hrnow, hcells.now_eq, hnow] at hz
        exact ⟨y, z, by rw [hdir']; exact hy, hpoison, hcmdst, hz, hdue⟩
    · rw [decide_eq_false hle, if_pos (by decide)] at hexec
      refine ⟨_, hexec, fun _ => ?_, fun _ hle' => absurd hle' hle, fun hle' => absurd hle' hle⟩
      rw [hnow]
  · simp only [if_neg hg]
    exact ⟨_, exec_replace_notGranted h hp hg, rfl⟩

/-! ### LOAD (R265, R296) -/

theorem length_readBytes (s : State) (a n : Nat) : (readBytes s a n).length = n := by
  induction n generalizing a with
  | zero => rfl
  | succ n ih => exact congrArg (· + 1) (ih _)

theorem getElem_readBytes (s : State) (a n i : Nat) (hi : i < (readBytes s a n).length) : (readBytes s a n)[i] = readByte s (a + i) := by
  induction n generalizing a i with
  | zero => exact absurd hi (Nat.not_lt_zero _)
  | succ n ih =>
    cases i with
    | zero => rfl
    | succ i =>
      refine (ih (a + 1) i (Nat.lt_of_succ_lt_succ hi)).trans ?_
      rw [Nat.add_right_comm, Nat.add_assoc]

section
variable {s : State}

theorem exec_load_unaligned (h : (s.operand 0x20).toNat % 64 ≠ 0 ∨ (s.operand 0x30).toNat % 64 ≠ 0) : exec .loadDeep s = .next (cmdRefuse s 1) := by
  show execLoadDeep s = _
  unfold execLoadDeep
  dsimp only
  rw [if_pos (by simpa using h)]

section
variable (ha : (s.operand 0x20).toNat % 64 = 0) (hn : (s.operand 0x30).toNat % 64 = 0)
include ha hn

theorem exec_load_outside (h : (s.operand 0x20).toNat < deepBase ∨ 2 * deepBase < (s.operand 0x20).toNat + (s.operand 0x30).toNat) :
    exec .loadDeep s = .next (cmdRefuse s 5) := by
  show execLoadDeep s = _
  unfold execLoadDeep
  dsimp only
  rw [if_neg (by simp [ha, hn]), if_pos]
  unfold isDeep
  rcases h with h | h
  · simp [Nat.not_le.mpr h]
  · simp [h]

/-- LOAD into a region of the deep tier that no held entry uses reads the host as far as the budget goes, and then writes the bytes. -/
theorem exec_load_free (hlo : deepBase ≤ (s.operand 0x20).toNat) (hhi : (s.operand 0x20).toNat < 2 * deepBase)
    (hend : (s.operand 0x20).toNat + (s.operand 0x30).toNat ≤ 2 * deepBase)
    (hfree : ∀ x ∈ s.directory, x.2.state = 1 → ∀ r ∈ deepRanges x.2, overlap (s.operand 0x20).toNat (s.operand 0x30).toNat r.1 r.2 = false)
    (hinv : s.Inv) :
    let a := (s.operand 0x20).toNat
    let n := (s.operand 0x30).toNat
    let io := (s.operand 0x28).toNat
    let left := s.cmdLeft.getD n
    let room := (s.func 0).hostQuota - (s.func 0).hostBytes
    ∃ t, exec .loadDeep s = .next t ∧
      if Config.hostGrants 0 io = true ∧ room < left then t = (readMore s n).1.due ((s.now / 12000 + 1) * 12000) keyCommand .loadDeep
      else if Config.hostGrants 0 io = true then t.cmdst = 0xC000000000000000 ∧
        (∀ x, readByte t x = if a ≤ x ∧ x < a + n then readByte s (hostBase + io + (x - a)) else readByte s x) ∧
        ∃ z, s.now < z ∧ DueAt t z .commandDone
      else t = cmdRefuse s 5 := by
  intro a n io left room
  have hdeep : isDeep a = true := by
    unfold isDeep
    simp only [Bool.and_eq_true, decide_eq_true_eq]
    exact ⟨hlo, hhi⟩
  have hnone : ¬(s.directory.any fun x => x.2.state == 1 && (deepRanges x.2).any fun r => overlap a n r.1 r.2) = true := by
    simp only [List.any_eq_true, Bool.and_eq_true, beq_iff_eq]
    rintro ⟨x, hx, hstate, r, hr, hover⟩
    exact absurd (hover.symm.trans (hfree x hx hstate r hr)) (by decide)
  have hexec : exec .loadDeep s =
      match hostRead s io n with
      | none => .next (cmdRefuse s 5)
      | some data =>
        let p := readMore s n
        if !p.2 then actNextFrame p.1 .loadDeep else .next (cmdAfterRead (noteRead (putTile p.1 (a, a) data []) io n)) := by
    show execLoadDeep s = _
    unfold execLoadDeep
    dsimp only
    rw [if_neg (by simp [ha, hn]), if_neg (by rw [hdeep]; simpa using hend), if_neg hnone] <;>
      cases hostRead s (s.operand 0x28).toNat (s.operand 0x30).toNat <;> rfl
  have hlast : (readMore s n).2 = decide (left ≤ room) := readMore_last s n
  by_cases hg : Config.hostGrants 0 io = true
  · have hread : hostRead s io n = some (readBytes s (hostBase + io) n) := if_pos hg
    rw [hread] at hexec
    dsimp only at hexec
    rw [hlast] at hexec
    by_cases hle : left ≤ room
    · rw [decide_eq_true hle, if_neg (by decide)] at hexec
      obtain ⟨hcmdst, hmem, -, z, hz, hdue⟩ := cmdAfterRead_spec (noteRead (putTile (readMore s n).1 (a, a) (readBytes s (hostBase + io) n) []) io n)
      obtain ⟨u, hu, hput⟩ := putTile_deep (s := (readMore s n).1) hdeep (readBytes s (hostBase + io) n)
      have hnow : (noteRead (putTile (readMore s n).1 (a, a) (readBytes s (hostBase + io) n) []) io n).now = s.now :=
        ((putTile_cells ..).trans (noteRead_cells ..)).now_eq
      rw [hnow] at hz
      refine ⟨_, hexec, ?_⟩
      rw [if_neg (by omega), if_pos hg]
      refine ⟨hcmdst, fun x => ?_, z, hz, hdue⟩
      have hwf : Memory.wf u.mem = true := (hu.trans rfl : u.mem = s.mem) ▸ hinv
      have hbyte : ∀ y, readByte u y = readByte s y := fun y => by
        unfold readByte
        rw [hu]
        rfl
      have hsame : readByte (cmdAfterRead (noteRead (putTile (readMore s n).1 (a, a) (readBytes s (hostBase + io) n) []) io n)) x =
          readByte (writeBytes u a (readBytes s (hostBase + io) n)) x := by
        unfold readByte
        rw [hmem, noteRead_mem, hput]
      have hlen := length_readBytes s (hostBase + io) n
      rw [hsame]
      split
      · next hx =>
        obtain ⟨i, rfl⟩ := Nat.exists_eq_add_of_le hx.1
        rw [readByte_writeBytes_inside hwf a _ (i := i) (by omega), getElem_readBytes, Nat.add_sub_cancel_left]
      · next hx => rw [readByte_writeBytes_outside hwf a _ (by omega), hbyte]
    · rw [decide_eq_false hle, if_pos (by decide)] at hexec
      refine ⟨_, hexec, ?_⟩
      rw [if_pos ⟨hg, by omega⟩]
      rfl
  · have hread : hostRead s io n = none := if_neg hg
    rw [hread] at hexec
    refine ⟨_, hexec, ?_⟩
    rw [if_neg fun hh => hg hh.1, if_neg hg]

end
end

theorem exec_commandDone (s : State) : exec .commandDone s = .next (if bits s.cmdst 62 2 = 3 then { s with cmdst := 0 } else s) := rfl

/-- Settles O55: each command on the commons acts on its entry as R296 has it, or is refused with its reason and changes nothing else. -/
theorem commonsCommands : Obligations.CommonsCommands := by
  intro s
  refine ⟨exec_create_held, exec_create_keyInUse, fun hfree hkey h2 hfmt htier hcost h3 h4 h5 h6 h7 h8 h11 h11' hperiod =>
    exec_create_legal hfree hkey ⟨h2, hfmt, htier, hcost, h3, h4, h5, h6, h7, h8, h11, h11', hperiod⟩, exec_onFree, fun hheld => ?_, exec_stop,
    ⟨exec_load_unaligned, exec_load_outside, fun ha hn hlo hhi hend hfree hinv => exec_load_free ha hn hlo hhi hend hfree hinv⟩, exec_commandDone s⟩
  obtain ⟨hlegal, hbad⟩ := exec_replica_held hheld
  obtain ⟨hsched, hsched'⟩ := exec_schedule_held hheld
  exact ⟨exec_cost_held hheld, exec_rights_held hheld, hlegal, hbad, hsched, hsched', exec_replace_notPoisoned, exec_replace_poisoned hheld⟩

end Sys2Proof.Machine
end

section
/-!
PROOFS. Register writes and the commands of management (R286, R367, R371 to R377, R401, R407 to R409).
-/
namespace Sys2Proof.Machine

/-! ### Register writes (R371 to R377, R402, R408) -/

section
variable {s : State} {fn bar off size : Nat} {v : Word}

/-- The state in which a register write acts: the function and the value of the write are noted. -/
def State.hosted (s : State) (fn : Nat) (v : Word) : State := { s with hostFn := fn, hostVal := v }

/-- What an aligned write of 8 bytes does at a BAR. -/
def barWrite (s : State) (fn bar off : Nat) (v : Word) : Res :=
  match bar with
  | 0 => execPortalMisuse fn (off / 4096) true s
  | 2 => writeBar2 s off v
  | 4 => if fn = 0 then writeBar4 s off v else .next (reply s 4)
  | _ => .next (reply s 4)

theorem registerWrite_unsupported (h : 64 ≤ fn ∨ off % 8 ≠ 0 ∨ size ≠ 8) :
    exec (.registerWrite fn bar ⟨off, size⟩ v) s = .next { s with hostReply := 4 } := by
  refine if_pos ?_
  simpa [or_assoc] using h

/-- An aligned write of 8 bytes that the device takes acts by its BAR. -/
theorem registerWrite_taken (hfn : fn < 64) (hoff : off % 8 = 0) (h : s.up = true ∨ fn = 0 ∧ takenDown s bar off v = true) :
    exec (.registerWrite fn bar ⟨off, 8⟩ v) s = barWrite (s.hosted fn v) fn bar off v := by
  have hok : ¬(decide (64 ≤ fn) || decide (off % 8 ≠ 0) || decide (8 ≠ 8)) = true := by simp [hoff, hfn]
  have htaken : ¬(!s.up && !(decide (fn = 0) && takenDown s bar off v)) = true := by
    rcases h with h | ⟨h0, h⟩
    · simp [h]
    · simp [h0, h]
  show execRegisterWrite fn bar ⟨off, 8⟩ v s = _
  unfold execRegisterWrite
  dsimp only
  rw [if_neg hok, if_neg htaken]
  rfl

theorem registerWrite_dropped (hup : s.up = false) (hfn : fn < 64) (hoff : off % 8 = 0) (h : fn ≠ 0 ∨ takenDown s bar off v = false) :
    exec (.registerWrite fn bar ⟨off, 8⟩ v) s = .next s := by
  have hok : ¬(decide (64 ≤ fn) || decide (off % 8 ≠ 0) || decide (8 ≠ 8)) = true := by simp [hoff, hfn]
  have hdrop : (!s.up && !(decide (fn = 0) && takenDown s bar off v)) = true := by
    rcases h with h | h
    · simp [hup, h]
    · simp [hup, h]
  show execRegisterWrite fn bar ⟨off, 8⟩ v s = _
  unfold execRegisterWrite
  dsimp only
  rw [if_neg hok, if_pos hdrop]

/-- A write of BAR4 by the PF. -/
theorem registerWrite_bar4 (hoff : off % 8 = 0) (h : s.up = true ∨ takenDown s 4 off v = true) :
    exec (.registerWrite 0 4 ⟨off, 8⟩ v) s = writeBar4 (s.hosted 0 v) off v :=
  registerWrite_taken (bar := 4) (by decide) hoff (h.imp id fun h => ⟨rfl, h⟩)

theorem writeBar4_command (h : ¬(bits s.cmdst 62 2 = 3 && s.up) = true) : writeBar4 s 0 v = runHostCommand { s with cmd := v } := by
  show (if bits s.cmdst 62 2 = 3 && s.up then _ else _) = _
  exact if_neg h

theorem writeBar4_busy (h : bits s.cmdst 62 2 = 3) (hup : s.up = true) : writeBar4 s 0 v = .next s := by
  show (if bits s.cmdst 62 2 = 3 && s.up then _ else _) = _
  exact if_pos (by simp [h, hup])

theorem writeBar4_operand {k : Nat} (h1 : 2 ≤ k) (h2 : k < 32) : writeBar4 s (8 * k) v = .next { s with operands := Table.put s.operands k v } := by
  have hne : ¬8 * k = 0 := by omega
  have hin : (decide (0x10 ≤ 8 * k) && decide (8 * k < 0x100)) = true := by
    simp only [Bool.and_eq_true, decide_eq_true_eq]
    omega
  unfold writeBar4
  rw [if_neg hne, if_pos hin, Nat.mul_div_cancel_left k (by decide)]

theorem takenDown_devReset (h : (bits v 56 8).toNat = 34) : takenDown s 4 0 v = true := by
  have h34 : bits v 56 8 = 34#8 := BitVec.eq_of_toNat_eq h
  unfold takenDown
  rw [h34]
  rfl

theorem takenDown_hrBase (hm : s.mgmtFailed = false) (hb : s.hrBase = 0) : takenDown s 4 0x100 v = true := by
  unfold takenDown
  rw [hm, hb]
  rfl

/-- A device that is down takes no other write. -/
theorem takenDown_eq_false (hm : s.mgmtFailed = false) (h : bar ≠ 4 ∨ (off ≠ 0 ∧ (off ≠ 0x100 ∨ s.hrBase ≠ 0))) : takenDown s bar off v = false := by
  unfold takenDown
  rcases h with h | ⟨h0, h⟩
  · simp [h]
  · rcases h with h | h
    · simp [hm, h0, h]
    · rw [beq_eq_false_iff_ne.mpr h]
      simp [hm, h0]

/-- The command of a code, with no command in progress. -/
theorem runHostCommand_of_code (n : Nat) (i : Instr) (h : (bits s.cmd 56 8).toNat = n)
    (hp : (n, i) ∈ ([(1, .execCmd), (2, .qcreate), (3, .qdestroy), (4, .shoot2), (5, .shootF), (6, .rekey),
          (32, .fwStage), (33, .fwCommit), (34, .devReset), (35, .attest)] : List (Nat × Instr))) : runHostCommand s = exec i s := by
  unfold runHostCommand
  rw [h]
  simp only [List.mem_cons, List.not_mem_nil, or_false, Prod.mk.injEq] at hp
  rcases hp with ⟨rfl, rfl⟩ | ⟨rfl, rfl⟩ | ⟨rfl, rfl⟩ | ⟨rfl, rfl⟩ | ⟨rfl, rfl⟩ | ⟨rfl, rfl⟩ | ⟨rfl, rfl⟩ | ⟨rfl, rfl⟩ | ⟨rfl, rfl⟩ | ⟨rfl, rfl⟩ <;> rfl

/-- The command on the commons of a code is to act after every core. -/
theorem runHostCommand_commons (n : Nat) (i : Instr) (h : (bits s.cmd 56 8).toNat = n)
    (hp : (n, i) ∈ ([(16, .create), (17, .cost), (18, .rights), (19, .replica), (20, .schedule), (21, .stop),
          (22, .replace), (23, .loadDeep)] : List (Nat × Instr))) :
    ∃ t, runHostCommand s = .next t ∧ DueAt t s.now i ∧ t = { s with cmdst := 0xC000000000000000, agenda := t.agenda } := by
  have hcommand : runHostCommand s = commonsCommand s i := by
    unfold runHostCommand
    rw [h]
    simp only [List.mem_cons, List.not_mem_nil, or_false, Prod.mk.injEq] at hp
    rcases hp with ⟨rfl, rfl⟩ | ⟨rfl, rfl⟩ | ⟨rfl, rfl⟩ | ⟨rfl, rfl⟩ | ⟨rfl, rfl⟩ | ⟨rfl, rfl⟩ | ⟨rfl, rfl⟩ | ⟨rfl, rfl⟩ <;> rfl
  obtain ⟨w, hs, rfl⟩ := cmdStarted_eq s
  refine ⟨_, hcommand, dueAt_due .., ?_⟩
  rw [hs]
  rfl

theorem writeBar2_of_register (f : Nat) (hf : fn < 64) (i : Instr) (hup : s.up = true)
    (hp : (f, i) ∈ ([(0, .doorbell), (8, .qreset), (0x28, .shootN), (0x40, .frHead)] : List (Nat × Instr))) :
    exec (.registerWrite fn 2 ⟨f, 8⟩ v) s = exec i (s.hosted fn v) := by
  simp only [List.mem_cons, List.not_mem_nil, or_false, Prod.mk.injEq] at hp
  rcases hp with ⟨rfl, rfl⟩ | ⟨rfl, rfl⟩ | ⟨rfl, rfl⟩ | ⟨rfl, rfl⟩ <;> exact registerWrite_taken (bar := 2) hf rfl (.inl hup)

theorem writeBar4_govRise (h1 : 25 ≤ (bits v 0 12).toNat) (h2 : (bits v 0 12).toNat ≤ 200) :
    writeBar4 s 0x200 v = .next { s with govRise := (bits v 0 12).toNat } := by
  have hin : inRange v 25 200 = true := by
    unfold inRange
    simp [h1, h2]
  show Host.Outcome.next (if inRange v 25 200 then { s with govRise := (bits v 0 12).toNat } else s) = _
  rw [if_pos hin]

end

/-- What a register write does. -/
theorem registerWrites (s : State) (fn bar off size : Nat) (v : Word) :
    let written : State := { s with hostFn := 0, hostVal := v, cmd := v }
    (64 ≤ fn ∨ off % 8 ≠ 0 ∨ size ≠ 8 → exec (.registerWrite fn bar ⟨off, size⟩ v) s = .next { s with hostReply := 4 }) ∧
    (fn < 64 → fn ≠ 0 → off % 8 = 0 → s.up = true →
      exec (.registerWrite fn 4 ⟨off, 8⟩ v) s = .next { s with hostFn := fn, hostVal := v, hostReply := 4 }) ∧
    (s.up = false → (bits v 56 8).toNat = 34 → exec (.registerWrite 0 4 ⟨0, 8⟩ v) s = exec .devReset written) ∧
    (s.up = false → s.mgmtFailed = false → off % 8 = 0 → fn < 64 → fn ≠ 0 ∨ bar ≠ 4 ∨ (off ≠ 0 ∧ (off ≠ 0x100 ∨ s.hrBase ≠ 0)) →
      exec (.registerWrite fn bar ⟨off, 8⟩ v) s = .next s) ∧
    (s.up = false → s.mgmtFailed = false → s.hrBase = 0 →
      exec (.registerWrite 0 4 ⟨0x100, 8⟩ v) s = exec .hrBase { s with hostFn := 0, hostVal := v }) ∧
    (s.up = true →
      (bits s.cmdst 62 2 ≠ 3 → ∀ p ∈ ([(1, .execCmd), (2, .qcreate), (3, .qdestroy), (4, .shoot2), (5, .shootF), (6, .rekey),
          (32, .fwStage), (33, .fwCommit), (34, .devReset), (35, .attest)] : List (Nat × Instr)),
        (bits v 56 8).toNat = p.1 → exec (.registerWrite 0 4 ⟨0, 8⟩ v) s = exec p.2 written) ∧
      (bits s.cmdst 62 2 ≠ 3 → ∀ p ∈ ([(16, .create), (17, .cost), (18, .rights), (19, .replica), (20, .schedule), (21, .stop),
          (22, .replace), (23, .loadDeep)] : List (Nat × Instr)),
        (bits v 56 8).toNat = p.1 → ∃ t, exec (.registerWrite 0 4 ⟨0, 8⟩ v) s = .next t ∧ DueAt t s.now p.2 ∧
          t = { written with cmdst := 0xC000000000000000, agenda := t.agenda }) ∧
      (bits s.cmdst 62 2 = 3 → exec (.registerWrite 0 4 ⟨0, 8⟩ v) s = .next { s with hostFn := 0, hostVal := v }) ∧
      exec (.registerWrite 0 4 ⟨0x100, 8⟩ v) s = exec .hrBase { s with hostFn := 0, hostVal := v } ∧
      (∀ k, 2 ≤ k → k < 32 → exec (.registerWrite 0 4 ⟨8 * k, 8⟩ v) s =
        .next { s with hostFn := 0, hostVal := v, operands := Table.put s.operands k v }) ∧
      (25 ≤ (bits v 0 12).toNat → (bits v 0 12).toNat ≤ 200 → exec (.registerWrite 0 4 ⟨0x200, 8⟩ v) s =
        .next { s with hostFn := 0, hostVal := v, govRise := (bits v 0 12).toNat }) ∧
      (fn < 64 → ∀ p ∈ ([(0, .doorbell), (8, .qreset), (0x28, .shootN), (0x40, .frHead)] : List (Nat × Instr)),
        exec (.registerWrite fn 2 ⟨p.1, 8⟩ v) s = exec p.2 { s with hostFn := fn, hostVal := v })) := by
  intro written
  have hidle : ∀ {w : Word}, bits w 62 2 ≠ 3 → ¬(decide (bits w 62 2 = 3) && s.up) = true := fun h => by
    rw [decide_eq_false h, Bool.false_and]
    decide
  refine ⟨registerWrite_unsupported, fun hfn h0 hoff hup => ?_, fun hup h34 => ?_, fun hup hm hoff hfn h => ?_, fun _ hm hb => ?_,
    fun hup => ⟨fun hst p hp hcode => ?_, fun hst p hp hcode => ?_, fun hst => ?_, ?_, fun k h1 h2 => ?_, fun h1 h2 => ?_, fun hfn p hp => ?_⟩⟩
  · exact (registerWrite_taken (bar := 4) hfn hoff (.inl hup)).trans (if_neg h0)
  · rw [registerWrite_bar4 rfl (.inr (takenDown_devReset h34)), writeBar4_command (by simp [State.hosted, hup])]
    exact runHostCommand_of_code 34 .devReset h34 (by simp)
  · refine registerWrite_dropped hup hfn hoff (h.imp id fun h => takenDown_eq_false hm h)
  · exact registerWrite_bar4 rfl (.inr (takenDown_hrBase hm hb))
  · rw [registerWrite_bar4 rfl (.inl hup), writeBar4_command (s := s.hosted 0 v) (hidle hst)]
    exact runHostCommand_of_code p.1 p.2 hcode hp
  · rw [registerWrite_bar4 rfl (.inl hup), writeBar4_command (s := s.hosted 0 v) (hidle hst)]
    exact runHostCommand_commons p.1 p.2 hcode hp
  · rw [registerWrite_bar4 rfl (.inl hup), writeBar4_busy (s := s.hosted 0 v) hst hup]
    rfl
  · exact registerWrite_bar4 rfl (.inl hup)
  · rw [registerWrite_bar4 (Nat.mul_mod_right 8 k) (.inl hup), writeBar4_operand h1 h2]
    rfl
  · rw [registerWrite_bar4 rfl (.inl hup), writeBar4_govRise h1 h2]
    rfl
  · exact writeBar2_of_register p.1 hfn p.2 hup hp

/-! ### EXEC, REKEY, firmware and attestation (R286, R367, R376, R407 to R409) -/

/-- A function's record as EXEC applies it. -/
def Func.withApplied (x : Func) : Func := { x with applied := x.written, key := newKey x }

/-- The records and the set table as EXEC applies them. -/
def State.withApplied (s : State) : State :=
  { s with setApplied := newSets s, comSetApplied := s.comSet, funcs := s.funcs.map fun e => (e.1, e.2.withApplied) }

theorem func_withApplied (s : State) (i : Nat) : s.withApplied.func i = (s.func i).withApplied := Table.get_map rfl s.funcs i

/-- Lines that no longer decode are marked, and nothing else changes. -/
theorem spoilSets_flaws (old s : State) : ∃ u, spoilSets old s = { s with flaws := u } := by
  unfold spoilSets
  generalize heldHbm s = L
  suffices h : ∀ t : State, (∃ u, t = { s with flaws := u }) → ∃ u, L.foldl _ t = { s with flaws := u } from h s ⟨s.flaws, rfl⟩
  induction L with
  | nil => exact fun _ h => h
  | cons a L ih =>
    rintro t ⟨u, rfl⟩
    rw [List.foldl_cons]
    refine ih _ ?_
    split
    · split
      · exact ⟨u, rfl⟩
      · exact ⟨_, rfl⟩
    · exact ⟨u, rfl⟩

theorem cmdBusy_eq (s : State) : cmdBusy s = { s with cmdst := 0x8000000000000000 } := by
  have hbusy : (2 ^ 63 : Word) = 0x8000000000000000 := by decide +kernel
  unfold cmdBusy
  rw [hbusy]

section
variable {s : State}

theorem exec_execCmd_bad (h : setTableBad s = true ∨ ∃ x ∈ (List.range 64).map s.func, recordBad s x = true) : exec .execCmd s = .next (cmdRefuse s 1) := by
  refine if_pos ?_
  rw [Bool.or_eq_true, List.any_eq_true]
  exact h

section
variable (hset : setTableBad s = false) (hrec : ∀ x ∈ (List.range 64).map s.func, recordBad s x = false)
include hset hrec

theorem exec_execCmd_good : exec .execCmd s =
    if ((List.range 64).map s.func).any recordOut then .next (cmdRefuse s 5)
    else if recordsOverlap s || ((List.range 64).any fun f => (recordMoves (s.func f) && funcBusy s f) || heldMoves s f) ||
        (setsMove s && (List.range 64).any (funcBusy s)) then .next (cmdBusy s)
    else .next (cmdDone (spoilSets s s.withApplied)) := by
  refine if_neg ?_
  rw [hset, Bool.false_or, List.any_eq_true]
  rintro ⟨x, hx, h⟩
  exact absurd ((hrec x hx).symm.trans h) (by decide)

theorem exec_execCmd_out (h : ∃ x ∈ (List.range 64).map s.func, recordOut x = true) : exec .execCmd s = .next (cmdRefuse s 5) :=
  (exec_execCmd_good hset hrec).trans (if_pos (List.any_eq_true.mpr h))

section
variable (hout : ∀ x ∈ (List.range 64).map s.func, recordOut x = false)
include hout

theorem exec_execCmd_within : exec .execCmd s =
    if recordsOverlap s || ((List.range 64).any fun f => (recordMoves (s.func f) && funcBusy s f) || heldMoves s f) ||
        (setsMove s && (List.range 64).any (funcBusy s)) then .next (cmdBusy s)
    else .next (cmdDone (spoilSets s s.withApplied)) := by
  refine (exec_execCmd_good hset hrec).trans (if_neg ?_)
  rw [List.any_eq_true]
  rintro ⟨x, hx, h⟩
  exact absurd ((hout x hx).symm.trans h) (by decide)

theorem exec_execCmd_overlap (h : recordsOverlap s = true) : exec .execCmd s = .next { s with cmdst := 0x8000000000000000 } := by
  rw [exec_execCmd_within hset hrec hout, if_pos (by rw [h]; rfl), cmdBusy_eq]

theorem exec_execCmd_held (h : ∃ i < 64, heldMoves s i = true) : exec .execCmd s = .next { s with cmdst := 0x8000000000000000 } := by
  obtain ⟨i, hi, h⟩ := h
  have hany : ((List.range 64).any fun f => (recordMoves (s.func f) && funcBusy s f) || heldMoves s f) = true :=
    List.any_eq_true.mpr ⟨i, List.mem_range.mpr hi, by rw [h, Bool.or_true]⟩
  rw [exec_execCmd_within hset hrec hout, if_pos (by rw [hany, Bool.or_true]; rfl), cmdBusy_eq]

theorem exec_execCmd_applies (hover : recordsOverlap s = false) (hmove : ∀ i < 64, recordMoves (s.func i) = false ∨ funcBusy s i = false)
    (hheld : ∀ i < 64, heldMoves s i = false) (hsets : setsMove s = false ∨ ∀ i < 64, funcBusy s i = false) :
    ∃ t, exec .execCmd s = .next t ∧ t.cmdst = 0 ∧ t.mem = s.mem ∧
      (∀ i, (t.func i).applied = (s.func i).written ∧ (t.func i).written = (s.func i).written ∧ (t.func i).key = newKey (s.func i)) ∧
      t.setApplied = s.setTable.filter (fun x => x.2 != 0) ∧ t.comSetApplied = s.comSet := by
  have hany : ((List.range 64).any fun f => (recordMoves (s.func f) && funcBusy s f) || heldMoves s f) = false := by
    rw [List.any_eq_false]
    intro i hi
    rw [hheld i (List.mem_range.mp hi)]
    rcases hmove i (List.mem_range.mp hi) with h | h <;> simp [h]
  have hbusy : (setsMove s && (List.range 64).any (funcBusy s)) = false := by
    rcases hsets with h | h
    · rw [h, Bool.false_and]
    · rw [List.any_eq_false.mpr fun i hi => by rw [h i (List.mem_range.mp hi)]; decide, Bool.and_false]
  obtain ⟨u, hu⟩ := spoilSets_flaws s s.withApplied
  refine ⟨_, (exec_execCmd_within hset hrec hout).trans (if_neg (by rw [hover, hany, hbusy]; decide)), rfl, ?_, fun i => ?_, ?_, ?_⟩
  · rw [hu]
    rfl
  · rw [hu]
    have hf : (cmdDone { s.withApplied with flaws := u }).func i = (s.func i).withApplied := func_withApplied s i
    rw [hf]
    exact ⟨rfl, rfl, rfl⟩
  · rw [hu]
    rfl
  · rw [hu]
    rfl

end
end

theorem exec_rekey_placed (h : ∃ x ∈ s.launches, x.2.func = (bits s.cmd 0 6).toNat ∧ x.2.holdsCores = true) : exec .rekey s = .next (cmdRefuse s 2) := by
  obtain ⟨x, hx, hf, hh⟩ := h
  exact if_pos (List.any_eq_true.mpr ⟨x, hx, by simp [hf, hh]⟩)

theorem cmdLater_spec (s : State) {most : Nat} (hmost : 0 < most) : ∃ z, s.now < z ∧ z ≤ s.now + most ∧ DueAt (cmdLater s most) z .commandDone ∧
    cmdLater s most = { s with cmdst := 0xC000000000000000, agenda := (cmdLater s most).agenda, fresh := s.fresh + 1 } := by
  unfold cmdLater
  obtain ⟨w, hs, rfl⟩ := cmdStarted_eq s
  rw [hs]
  have hlt := Nat.mod_lt (Config.commandTime s.fresh) hmost
  exact ⟨s.now + 1 + Config.commandTime s.fresh % most, by omega, by omega, dueAt_due .., rfl⟩

theorem exec_rekey_idle (h : ∀ x ∈ s.launches, x.2.func = (bits s.cmd 0 6).toNat → x.2.holdsCores = false) :
    let f := (bits s.cmd 0 6).toNat
    ∃ t z, exec .rekey s = .next t ∧ t.mem = s.mem ∧ t.cmdst = 0xC000000000000000 ∧ s.now < z ∧ DueAt t z .commandDone ∧
      (∀ x ∈ t.minor, inSets s (setsOf s f) (64 * x.1) = false) ∧ (∀ g ∈ setsOf s f, g ∉ t.roSets) ∧ (t.func f).key = randomKey s f := by
  intro f
  have hnone : ¬(s.launches.any fun x => x.2.func == f && x.2.holdsCores) = true := by
    rw [List.any_eq_true]
    rintro ⟨x, hx, hh⟩
    rw [Bool.and_eq_true, beq_iff_eq] at hh
    exact absurd ((h x hx hh.1).symm.trans hh.2) (by decide)
  obtain ⟨z, hz, -, hdue, heq⟩ := cmdLater_spec ((resetCounters s (setsOf s f)).updFunc f fun x => { x with key := randomKey s f }) (most := 2 ^ 32) (by decide)
  refine ⟨_, z, if_neg hnone, ?_, ?_, hz, hdue, fun x hx => ?_, fun g hg hro => ?_, ?_⟩
  · rw [heq]
    rfl
  · rw [heq]
  · rw [heq] at hx
    have hx' := (List.mem_filter.mp hx).2
    simpa using hx'
  · rw [heq] at hro
    have hro' := (List.mem_filter.mp hro).2
    simp [hg] at hro'
  · have hkey : (((resetCounters s (setsOf s f)).updFunc f fun x => { x with key := randomKey s f }).func f).key = randomKey s f := by
      rw [func_updFunc, if_pos rfl]
    rw [heq]
    exact hkey

theorem exec_fwStage (s : State) : ∃ t, exec .fwStage s = .next t ∧ t.mem = s.mem ∧
    let io := (s.operand 0x20).toNat
    let img := readBytes s (hostBase + io) (s.operand 0x28).toNat
    if Config.hostGrants 0 io = false then t = { s with cmdst := BitVec.ofNat 64 (2 ^ 62 + 5) }
    else if firmwareOk s img = false then t = { s with cmdst := BitVec.ofNat 64 (2 ^ 62 + 6) }
    else t.cmdst = 0 ∧ t.staged = Table.put s.staged (numAt img 0 2) { version := numAt img 2 2, digest := BitVec.ofNat 512 (numAt img 64 64) } := by
  show ∃ t, execFwStage s = .next t ∧ _
  unfold execFwStage hostRead
  dsimp only
  cases hg : Config.hostGrants 0 (s.operand 0x20).toNat with
  | false => exact ⟨_, rfl, rfl, by rw [if_pos rfl]; rfl⟩
  | true =>
    rw [if_pos rfl]
    dsimp only
    generalize readBytes s (hostBase + (s.operand 0x20).toNat) (s.operand 0x28).toNat = img
    cases hok : firmwareOk s img with
    | false => exact ⟨_, rfl, rfl, by rw [if_neg (by decide), if_pos rfl]; rfl⟩
    | true => exact ⟨_, rfl, rfl, by rw [if_neg (by decide), if_neg (by decide)]; exact ⟨rfl, rfl⟩⟩

theorem exec_fwCommit_other (h : (bits s.cmd 0 8).toNat < 1 ∨ 3 < (bits s.cmd 0 8).toNat) : exec .fwCommit s = .next (cmdRefuse s 1) :=
  if_pos (by simpa using h)

theorem exec_fwCommit_known (h1 : 1 ≤ (bits s.cmd 0 8).toNat) (h3 : (bits s.cmd 0 8).toNat ≤ 3) :
    let kind := (bits s.cmd 0 8).toNat
    exec .fwCommit s = .next { s with
      fusedMin := Table.put s.fusedMin kind (Nat.max (Table.get 0 s.fusedMin kind) (runningFirmware s kind).version), cmdst := 0 } :=
  if_neg (by simp only [Bool.or_eq_true, decide_eq_true_eq]; omega)

theorem exec_attest (s : State) : ∃ t z, exec .attest s = .next t ∧ t.cmdst = 0xC000000000000000 ∧ t.attestations = s.attestations + 1 ∧
    t.chain = Config.certificates Config.publicKey ∧ s.now < z ∧ z ≤ s.now + 30000000 ∧ DueAt t z .commandDone := by
  have hcells := storeNow_cells { s with attestations := s.attestations + 1, chain := Config.certificates Config.publicKey } 0
    (hostBase + (s.operand 0x40).toNat) (attestReport s)
  obtain ⟨z, hz, hmost, hdue, heq⟩ := cmdLater_spec (storeNow { s with attestations := s.attestations + 1, chain := Config.certificates Config.publicKey } 0
    (hostBase + (s.operand 0x40).toNat) (attestReport s)) (most := 30000000) (by decide)
  refine ⟨_, z, rfl, by rw [heq], ?_, ?_, ?_, ?_, hdue⟩
  · rw [heq]
    dsimp only
    rw [hcells.state]
    rfl
  · rw [heq]
    dsimp only
    rw [hcells.state]
    rfl
  · exact lt_of_eq_of_lt hcells.now_eq.symm hz
  · exact hmost.trans_eq (congrArg (· + 30000000) hcells.now_eq)

end

/-! ### The rings (R373, R401) -/

/-- A record for which the health ring has room takes its next place. -/
theorem putHealth_room {s : State} (ws : List Word) (h : s.hrTail - s.hrHead < ringSize s.hrBase) : (putHealth s ws).hrTail = s.hrTail + 1 := by
  unfold putHealth
  rw [if_neg (by omega)]
  have hsend : ∀ (t : State) f v, (sendMsix t f v).hrTail = t.hrTail := fun t f v => by
    unfold sendMsix
    split <;> rfl
  dsimp only
  rw [hsend]
  dsimp only
  split
  · exact congrArg (· + 1) (by rw [writeWords_withRecords]; rfl)
  · rfl

theorem putHealth_kept (s : State) (ws : List Word) :
    (putHealth s ws).hrBase = s.hrBase ∧ (putHealth s ws).hrHead = s.hrHead ∧ (putHealth s ws).hrHeld = s.hrHeld := by
  rw [putHealth_withHealth]
  refine ⟨rfl, rfl, ?_⟩
  show (putHealth s ws).hrHeld = s.hrHeld
  unfold putHealth
  dsimp only
  split
  · rfl
  · have hsend : ∀ (t : State) f v, (sendMsix t f v).hrHeld = t.hrHeld := fun t f v => by
      unfold sendMsix
      split <;> rfl
    rw [hsend]
    dsimp only
    split
    · rw [writeWords_withRecords]
      rfl
    · rfl

theorem foldl_putHealth (L : List (List Word)) (s : State) :
    let t := L.foldl putHealth s
    t.hrBase = s.hrBase ∧ t.hrHeld = s.hrHeld ∧
      (L.length + (s.hrTail - s.hrHead) ≤ ringSize s.hrBase → s.hrHead ≤ s.hrTail → t.hrTail = s.hrTail + L.length) := by
  induction L generalizing s with
  | nil => exact ⟨rfl, rfl, fun _ _ => rfl⟩
  | cons ws L ih =>
    obtain ⟨hbase, hheld, htail⟩ := ih (putHealth s ws)
    obtain ⟨hbase', hhead', hheld'⟩ := putHealth_kept s ws
    refine ⟨hbase.trans hbase', hheld.trans hheld', fun hroom hle => ?_⟩
    rw [List.length_cons] at hroom
    have hnext := putHealth_room ws (s := s) (by omega)
    rw [hnext, hbase', hhead'] at htail
    rw [List.foldl_cons, htail (by omega) (by omega), List.length_cons]
    omega

theorem exec_hrBase_ring {s : State} (h : ringSize s.hostVal ≠ 0) : ∃ t, exec .hrBase s = .next t ∧ t.hrBase = s.hostVal ∧ t.hrHeld = [] ∧
    (s.hrHeld.length + (s.hrTail - s.hrHead) ≤ ringSize s.hostVal → s.hrHead ≤ s.hrTail → t.hrTail = s.hrTail + s.hrHeld.length) := by
  obtain ⟨hbase, hheld, htail⟩ := foldl_putHealth s.hrHeld { s with hrBase := s.hostVal, hrHeld := [] }
  exact ⟨_, if_neg h, hbase, hheld, htail⟩

/-- A step that leaves the driver's index of a fault ring. -/
def KeepsHead (f : Nat) (s t : State) : Prop := (t.func f).frHead = (s.func f).frHead

theorem updFunc_keepsHead (f : Nat) (s : State) (k : Nat) (u : Func → Func) (hu : ∀ x, (u x).frHead = x.frHead) : KeepsHead f s (s.updFunc k u) := by
  unfold KeepsHead
  rw [func_updFunc]
  split
  · next h => rw [h, hu]
  · rfl

theorem Cells.keepsHead {s t : State} (h : Cells s t) (f : Nat) : KeepsHead f s t := by
  unfold KeepsHead
  rw [h.func f]
  rfl

theorem KeepsHead.trans {f : Nat} {a b c : State} (h1 : KeepsHead f a b) (h2 : KeepsHead f b c) : KeepsHead f a c := Eq.trans h2 h1

theorem putRecord_keepsHead (f : Nat) (s : State) (k : Nat) (ws : List Word) : KeepsHead f s (putRecord s k ws) := by
  unfold putRecord
  refine KeepsHead.trans (KeepsHead.trans (Cells.keepsHead ?_ f) (updFunc_keepsHead f _ k (fun x => { x with frTail := (x.frTail + 1) % 2 ^ 32 }) fun _ => rfl))
    ((sendMsix_cells ..).keepsHead f)
  exact ((chargeHost_cells ..).trans (noteAts_cells ..)).trans (.ite (writeWords_cells ..) (updFunc_cells _ _ _ fun _ => rfl))

theorem writeRecord_keepsHead (f : Nat) (s : State) (k : Nat) (ws : List Word) : KeepsHead f s (writeRecord s k ws).1 := by
  unfold writeRecord
  dsimp only
  split_ifs
  · rfl
  · rfl
  · exact updFunc_keepsHead f s k (fun x => { x with frHeld := x.frHeld ++ [ws] }) fun _ => rfl
  · exact putRecord_keepsHead f s k ws

theorem updLaunch_keepsHead (f : Nat) (s : State) (l : Nat) (u : Launch → Launch) : KeepsHead f s (s.updLaunch l u) := by
  unfold KeepsHead
  rw [updLaunch_eq]
  split <;> rfl

theorem releasePending_keepsHead (f k n : Nat) (s : State) : KeepsHead f s (releasePending k n s) := by
  induction n generalizing s with
  | zero => rfl
  | succ n ih =>
    unfold releasePending
    split
    · rfl
    · split
      · rfl
      · split
        · rfl
        · dsimp only
          split
          · exact KeepsHead.trans (KeepsHead.trans (writeRecord_keepsHead f s k _) (updLaunch_keepsHead ..)) (ih _)
          · rfl

theorem foldl_eq_self_of_mem {α β : Type} {f : β → α → β} {b : β} {L : List α} (h : ∀ a ∈ L, f b a = b) : L.foldl f b = b := by
  induction L with
  | nil => rfl
  | cons a L ih =>
    rw [List.foldl_cons, h a List.mem_cons_self]
    exact ih fun c hc => h c (List.mem_cons_of_mem _ hc)

/-- With no record that waits there is none that has waited longest. -/
theorem oldestPending_none {s : State} (h : ∀ x ∈ s.launches, ∀ r ∈ x.2.stops, r.pending = false) (f : Nat) : oldestPending s f = none := by
  unfold oldestPending
  refine foldl_eq_self_of_mem fun e he => ?_
  dsimp only
  split
  · rfl
  · refine foldl_eq_self_of_mem fun p hp => ?_
    rw [h e he p.2 (List.of_mem_zip hp).2]
    rfl

theorem exec_frHead (s : State) : (∃ t, exec .frHead s = .next t ∧ (t.func s.hostFn).frHead = (bits s.hostVal 0 32).toNat) ∧
    ((∀ x ∈ s.launches, ∀ r ∈ x.2.stops, r.pending = false) → exec .frHead s =
      .next (s.updFunc s.hostFn fun x => { x with frHead := (bits s.hostVal 0 32).toNat })) := by
  refine ⟨⟨_, rfl, ?_⟩, fun h => ?_⟩
  · have hhead : ((s.updFunc s.hostFn fun x => { x with frHead := (bits s.hostVal 0 32).toNat }).func s.hostFn).frHead = (bits s.hostVal 0 32).toNat := by
      rw [func_updFunc, if_pos rfl]
    exact Eq.trans (releasePending_keepsHead s.hostFn s.hostFn mostPending _) hhead
  · show Host.Outcome.next (releasePending s.hostFn (215 + 1) _) = _
    have hnone := oldestPending_none (s := s.updFunc s.hostFn fun x => { x with frHead := (bits s.hostVal 0 32).toNat }) h s.hostFn
    unfold releasePending
    rw [hnone]

/-- Settles O56: a register write acts by the register it names, and each command of management has its effect, is refused or is busy. -/
theorem managementCommands : Obligations.ManagementCommands := by
  refine ⟨registerWrites, fun s => ⟨exec_execCmd_bad, fun hset hrec => ⟨exec_execCmd_out hset hrec, fun hout =>
    ⟨exec_execCmd_overlap hset hrec hout, fun _ => exec_execCmd_held hset hrec hout, exec_execCmd_applies hset hrec hout⟩⟩,
    exec_rekey_placed, exec_rekey_idle, exec_fwStage s, exec_fwCommit_other, exec_fwCommit_known, exec_attest s, fun h => if_pos h,
    exec_hrBase_ring, (exec_frHead s).1, (exec_frHead s).2⟩⟩

end Sys2Proof.Machine
end

section
/-!
PROOFS. Resets of the device and of a function (R329, R370, R380, R381, R400, R406).
-/
namespace Sys2Proof.Machine

/-! ### What the end of a function's launches leaves of the tables -/

/-- The launches by number and function. -/
def State.placements (s : State) : Table Nat := s.launches.map fun e => (e.1, e.2.func)

/-- What a function-level reset looks at in a queue. -/
def Queue.view (q : Queue) : Nat × Bool × Nat × List (BitVec 512) := (q.func, q.ring, q.state, q.buffer)

/-- The queues by number and view. -/
def State.queueViews (s : State) : Table (Nat × Bool × Nat × List (BitVec 512)) := s.queues.map fun e => (e.1, e.2.view)

/-- A step that may forget launches, and keeps their functions and the views of queues. -/
structure Quiet (s t : State) : Prop where
  placements : t.placements.Sublist s.placements
  views : t.queueViews = s.queueViews
  now : t.now = s.now

theorem Quiet.of_same {s t : State} (hl : t.launches = s.launches) (hq : t.queues = s.queues) (hn : t.now = s.now) : Quiet s t := by
  refine ⟨?_, ?_, hn⟩
  · unfold State.placements
    rw [hl]
  · unfold State.queueViews
    rw [hq]

theorem Quiet.refl (s : State) : Quiet s s := .of_same rfl rfl rfl

theorem Quiet.trans {a b c : State} (h1 : Quiet a b) (h2 : Quiet b c) : Quiet a c :=
  ⟨h2.placements.trans h1.placements, h2.views.trans h1.views, h2.now.trans h1.now⟩

theorem Quiet.foldl {α : Type} {f : State → α → State} (hf : ∀ s a, Quiet s (f s a)) (l : List α) (s : State) : Quiet s (l.foldl f s) := by
  induction l generalizing s with
  | nil => exact .refl s
  | cons a l ih => exact (hf s a).trans (ih _)

theorem Quiet.ite {s a b : State} {p : Prop} [Decidable p] (ha : Quiet s a) (hb : Quiet s b) : Quiet s (if p then a else b) := by
  split
  · exact ha
  · exact hb

theorem map_put_of_find {α β : Type} (f : α → β) {t : Table α} {n : Nat} {x y : α} (hx : t.find n = some x) (hf : f y = f x) :
    (t.put n y).map (fun e => (e.1, f e.2)) = t.map fun e => (e.1, f e.2) := by
  have hfind : Table.find (t.map fun e : Nat × α => (e.1, f e.2)) n = some (f x) := by
    rw [Table.find_map, hx]
    rfl
  rw [Table.map_put, hf]
  exact put_of_find hfind

theorem setLaunch_quiet {s : State} {l : Nat} {x y : Launch} (hx : s.launch? l = some x) (hf : y.func = x.func) : Quiet s (s.setLaunch l y) := by
  refine ⟨?_, rfl, rfl⟩
  show ((s.launches.put l y).map fun e => (e.1, e.2.func)).Sublist (s.launches.map fun e => (e.1, e.2.func))
  rw [map_put_of_find Launch.func hx hf]

theorem updLaunch_quiet (s : State) (l : Nat) {u : Launch → Launch} (hu : ∀ x, (u x).func = x.func) : Quiet s (s.updLaunch l u) := by
  rw [updLaunch_eq]
  split
  · next x hx => exact setLaunch_quiet hx (hu x)
  · exact .refl s

theorem updQueue_quiet (s : State) (n : Nat) {u : Queue → Queue} (hu : ∀ q, (u q).view = q.view) : Quiet s (s.updQueue n u) := by
  unfold State.updQueue
  split
  · next q hq => exact ⟨List.Sublist.refl _, map_put_of_find Queue.view hq (hu q), rfl⟩
  · exact .refl s

theorem mapQueues_quiet (s : State) (u : Nat → Queue → Queue) (hu : ∀ n q, (u n q).view = q.view) :
    Quiet s { s with queues := s.queues.map fun e => (e.1, u e.1 e.2) } := by
  refine ⟨List.Sublist.refl _, ?_, rfl⟩
  show (s.queues.map fun e => (e.1, u e.1 e.2)).map (fun e => (e.1, e.2.view)) = s.queues.map fun e => (e.1, e.2.view)
  rw [List.map_map]
  exact List.map_congr_left fun e _ => by simp only [Function.comp_apply, hu]

theorem mapLaunches_quiet (s : State) (u : Launch → Launch) (hu : ∀ x, (u x).func = x.func) :
    Quiet s { s with launches := s.launches.map fun e => (e.1, u e.2) } := by
  refine ⟨?_, rfl, rfl⟩
  show ((s.launches.map fun e => (e.1, u e.2)).map fun e => (e.1, e.2.func)).Sublist (s.launches.map fun e => (e.1, e.2.func))
  rw [List.map_map]
  have heq : s.launches.map ((fun e : Nat × Launch => (e.1, e.2.func)) ∘ fun e => (e.1, u e.2)) = s.launches.map fun e => (e.1, e.2.func) :=
    List.map_congr_left fun e _ => by simp only [Function.comp_apply, hu]
  rw [heq]

theorem delLaunch_quiet (s : State) (l : Nat) : Quiet s { s with launches := s.launches.del l } :=
  ⟨(sublist_del s.launches l).map _, rfl, rfl⟩

theorem Cells.quiet {s t : State} (h : Cells s t) : Quiet s t := .of_same (by rw [h.state]; rfl) (by rw [h.state]; rfl) h.now_eq

section
variable (s : State)

theorem due_quiet (t k : Nat) (i : Instr) : Quiet s (s.due t k i) := .of_same rfl rfl rfl

theorem dueOnce_quiet (t k : Nat) (i : Instr) : Quiet s (s.dueOnce t k i) := by
  unfold State.dueOnce
  exact .ite (.refl s) (due_quiet ..)

/-! ### A launch is forgotten -/

theorem leave_quiet (n : Nat) {x : Access} (hx : x.releases = false) : Quiet s (leave s n x) := by
  have htraffic := leave_traffic s n x
  unfold leave at htraffic ⊢
  dsimp only at htraffic ⊢
  split at htraffic
  · next hc =>
    rw [if_pos hc]
    split
    · exact (updLaunch_quiet s _ (u := fun x => { x with crossed := true }) fun _ => rfl).trans (.of_same rfl rfl rfl)
    · refine .of_same ?_ ?_ ?_
      all_goals
        unfold loseAccess
        rw [dueOnce_withAgenda]
        rfl
  · next hc =>
    rw [if_neg hc]
    refine .of_same ?_ (by rw [htraffic.state]; rfl) (by rw [htraffic.state]; rfl)
    rw [wakeClass_launches _ hx]
    split
    · exact sendPieces_launches ..
    · exact sendPieces_launches ..

theorem enterHold_quiet (g r : Nat) (ps : List Piece) : Quiet s (enterHold s g r ps).1 := by
  unfold enterHold
  dsimp only
  split
  · exact .refl s
  · split
    · exact .of_same rfl rfl rfl
    · exact .refl s

theorem makeElementAccess_quiet (g e : Nat) (m : Command) (ord : Nat) (kind : AccessKind) (p : Piece) :
    Quiet s (makeElementAccess s g e m ord kind p) := by
  have hhold : Quiet s (elementHold s g m kind p).1 := by
    have hid : Quiet s s.newId.2 := .of_same rfl rfl rfl
    unfold elementHold
    split
    · exact hid.trans (enterHold_quiet ..)
    · exact hid
  have hrel := elementAccess_releases s g e m ord kind p
  rw [makeElementAccess_eq]
  dsimp only
  generalize elementAccess s g e m ord kind p = x at hrel ⊢
  generalize (elementHold s g m kind p).1 = u at hhold ⊢
  have hput : Quiet s { u with accesses := u.accesses.put s.newId.1 x } := hhold.trans (.of_same rfl rfl rfl)
  split
  · exact hput
  · exact hput.trans (leave_quiet _ _ hrel)

theorem finishElements_quiet (g : Nat) : Quiet s (finishElements s g) := by
  have hon : ∀ (u : State) (ms : List Command) (e : Nat), Quiet u
      (match ms with
        | m :: _ => m.todo.foldl (fun st w => makeElementAccess st g e m (m.ord - 1) .write (writePiece w)) u
        | [] => u) := fun u ms e => by
    cases ms with
    | nil => exact .refl u
    | cons m ms =>
      have hround : ∀ a (w : LineWrite), Quiet a (makeElementAccess a g e m (m.ord - 1) .write (writePiece w)) := fun a w => makeElementAccess_quiet ..
      exact Quiet.foldl hround m.todo u
  exact (hon s _ 0).trans (hon _ _ 1)

theorem leaveAccesses_quiet (l : Nat) : Quiet s (leaveAccesses s l) := by
  unfold leaveAccesses
  dsimp only
  generalize (List.map _ (List.filter _ s.accesses) : Table Access) = as
  refine Quiet.trans (b := { s with accesses := as }) (.of_same rfl rfl rfl) ?_
  generalize List.filter _ as = L
  exact Quiet.foldl (f := fun st e => st.due s.now keyLeave (.sourceInterfaceRelease e.1)) (fun _ _ => .of_same rfl rfl rfl) L _

theorem bringSpares_quiet : Quiet s (bringSpares s) := by
  unfold bringSpares
  exact .foldl (fun st u => .ite (dueOnce_quiet ..) (.refl st)) _ s

/-- A launch that is forgotten is no more, and its going is quiet. -/
theorem dropLaunch_quiet (l : Nat) : Quiet s (dropLaunch s l) := by
  unfold dropLaunch
  split
  · exact .refl s
  · next x hx =>
    dsimp only
    generalize hu : leaveAccesses (if (x.holdsCores && x.state != .saved) = true then x.cores.foldl finishElements s else s) l = u
    have hleft : Quiet s u := by
      rw [← hu]
      exact Quiet.trans (.ite (.foldl (fun st g => finishElements_quiet st g) _ _) (.refl s)) (leaveAccesses_quiet ..)
    refine hleft.trans ?_
    generalize hv : (if (x.holdsCores && x.state != .saved) = true then x.cores.foldl leaveCore u else u) = v
    have hcores : Quiet u v := by
      rw [← hv]
      split
      · rw [foldl_leaveCore_frame]
        exact .of_same rfl rfl rfl
      · exact .refl u
    have hramps : ∀ (a : State) (p : Prop) [Decidable p] (r : List (Nat × Nat × List Nat)), Quiet a (if p then { a with ramps := r } else a) :=
      fun a p _ r => .ite (.of_same rfl rfl rfl) (.refl a)
    refine Quiet.trans ?_ (bringSpares_quiet _)
    refine Quiet.trans ?_ (Quiet.foldl (f := fun (st : State) (e : Nat × Shootdown) => st.due st.now keyReply (.shootdownComplete e.1))
      (fun st e => .of_same rfl rfl rfl) _ _)
    refine Quiet.trans ?_ (hramps _ _ _)
    exact (hcores.trans (delLaunch_quiet v l)).trans (.of_same rfl rfl rfl)

theorem endChain_quiet (n lsn status : Nat) : Quiet s (endChain s n lsn status) := by
  unfold endChain
  dsimp only
  refine Quiet.trans (Quiet.trans (updQueue_quiet s n
    (u := fun q => { q with ended := (lsn, status) :: q.ended, blocked := if q.blocked = .chain lsn then .none else q.blocked }) fun _ => rfl) ?_)
    (mapLaunches_quiet _ (fun x => if x.deps.contains (n, lsn) then
      { x with deps := x.deps.filter (· != (n, lsn)), depFailed := x.depFailed || status != 0 } else x) fun x => by split <;> rfl)
  exact .ite (mapQueues_quiet _ (fun _ q => { q with refs := q.refs.filter (· != (n, lsn)) }) fun _ _ => rfl) (.refl _)

theorem discardWaiting_quiet (n : Nat) : Quiet s (discardWaiting s n) := by
  unfold discardWaiting
  exact .foldl (fun st e => .ite (delLaunch_quiet ..) ((delLaunch_quiet ..).trans (endChain_quiet ..))) _ s

/-! ### Acts on the directory -/

theorem updMember_quiet (l r : Nat) (u : Core → Core) : Quiet s (updMember s l r u) := by
  unfold updMember
  split
  · exact .refl s
  · next x hx =>
    split_ifs
    · exact .refl s
    · split
      · exact setLaunch_quiet hx rfl
      · exact .refl s
    · split
      · exact .of_same rfl rfl rfl
      · exact .refl s

theorem writeNotice_quiet (b : Subscription) (kind why arg : Nat) : Quiet s (writeNotice s b kind why arg).1 := by
  unfold writeNotice
  dsimp only
  split
  · generalize wordBytes _ = ws
    have h1 := (subStore_cells s b (64 + 32 * (b.nprod % ((b.ext - 64) / 32))) ws).quiet
    generalize subStore s b (64 + 32 * (b.nprod % ((b.ext - 64) / 32))) ws = r1 at h1 ⊢
    have h2 := h1.trans (subStore_cells r1.1 b 32 (leBytes 8 (b.nprod + 1))).quiet
    generalize subStore r1.1 b 32 (leBytes 8 (b.nprod + 1)) = r2 at h2 ⊢
    obtain ⟨s2, last⟩ := r2
    dsimp only at h2 ⊢
    split
    · exact h2.trans (updMember_quiet ..)
    · exact h2.trans (.of_same rfl rfl rfl)
    · exact h2
  · exact .refl s

theorem overSubs_quiet {f : State → Subscription → State × Subscription} (hf : ∀ s b, Quiet s (f s b).1) (l : List Subscription) :
    Quiet s (overSubs f s l).1 := by
  induction l generalizing s with
  | nil => exact .refl s
  | cons b l ih => exact (hf s b).trans (ih _)

theorem limitNotices_quiet (e : Nat) (d : DirEntry) (old : List Subscription) : Quiet s (limitNotices s e d old) := by
  refine Quiet.trans (b := (overSubs (limitNotice old) s d.subs).1) (overSubs_quiet s (fun st b => ?_) d.subs) (.of_same rfl rfl rfl)
  unfold limitNotice
  dsimp only
  split_ifs
  · exact writeNotice_quiet ..
  · exact .refl st

theorem afterAct_quiet (e : Nat) (old : List Subscription) (d : DirEntry) (gone : Option Subscription) : Quiet s (afterAct s e old d gone) := by
  have hround : ∀ (L : List (Subscription × Nat)) (acc : State × List Subscription), Quiet acc.1 (L.foldl (statusRound (recompute d)) acc).1 := fun L => by
    induction L with
    | nil => exact fun acc => .refl _
    | cons p L ih => exact fun acc => (writeStatus_cells acc.1 (recompute d) p.1 p.2).quiet.trans (ih (statusRound (recompute d) acc p))
  have heq : afterAct s e old d gone =
      limitNotices (((statusPlan old (recompute d) gone).foldl (statusRound (recompute d)) (s, [])).1.setEntry e
        ((recompute d).withSubs ((statusPlan old (recompute d) gone).foldl (statusRound (recompute d)) (s, [])).2)) e
        ((recompute d).withSubs ((statusPlan old (recompute d) gone).foldl (statusRound (recompute d)) (s, [])).2) old := by
    cases gone <;> rfl
  rw [heq]
  exact Quiet.trans (b := State.setEntry _ _ _) ((hround _ (s, [])).trans (.of_same rfl rfl rfl)) (limitNotices_quiet ..)

theorem lapseFunc_quiet (f : Nat) : Quiet s (lapseFunc s f) := by
  unfold lapseFunc
  exact .foldl (fun st e => .ite (afterAct_quiet ..) (.refl st)) _ s

theorem dropAccesses_quiet (gone : Nat → Access → Bool) : Quiet s (dropAccesses s gone) := by
  rw [dropAccesses_frame]
  exact .of_same rfl rfl rfl

end

/-! ### The launches of a function are discarded (R380) -/

theorem Quiet.rising {s t : State} (h : Quiet s t) (hr : Rising s.launches) : Rising t.launches := by
  have hkeys : ∀ u : State, u.placements.map (·.1) = u.launches.map (·.1) := fun u => by
    unfold State.placements
    rw [List.map_map]
    rfl
  unfold Rising at hr ⊢
  rw [← hkeys] at hr ⊢
  exact hr.sublist (h.placements.map _)

/-- A launch that a quiet step leaves was there before, with its function. -/
theorem Quiet.launch {s t : State} (h : Quiet s t) {e : Nat × Launch} (he : e ∈ t.launches) : ∃ x, (e.1, x) ∈ s.launches ∧ x.func = e.2.func := by
  have hmem : (e.1, e.2.func) ∈ t.placements := List.mem_map_of_mem (f := fun e : Nat × Launch => (e.1, e.2.func)) he
  obtain ⟨⟨k, x⟩, hx, heq⟩ := List.mem_map.mp (h.placements.subset hmem)
  obtain ⟨hk, hf⟩ := Prod.mk.inj heq
  exact ⟨x, hk ▸ hx, hf⟩

theorem dropLaunch_forgotten {s : State} (hr : Rising s.launches) (l : Nat) : (dropLaunch s l).launch? l = none := by
  cases hx : s.launch? l with
  | some x => exact (dropLaunch_dropped hx).forgotten hr
  | none =>
    unfold dropLaunch
    rw [hx]
    exact hx

/-- A launch of the function is discarded. -/
def discardRound (st : State) (e : Nat × Launch) : State :=
  let s1 := if e.2.holdsBlock then dropLaunch st e.1 else { st with launches := st.launches.del e.1 }
  let s2 := { s1 with accesses := s1.accesses.filter fun (_, a) => a.launch != some e.1
                      remotes := s1.remotes.filter fun (_, r) => !(s1.accesses.find r.access).any fun a => a.launch == some e.1 }
  if e.2.lsn = 0 then s2 else endChain s2 e.2.chainQueue e.2.lsn 1

theorem discardLaunches_eq (s : State) (f : Nat) : discardLaunches s f = (s.launches.filter fun e => e.2.func == f).foldl discardRound s := rfl

theorem discardRound_spec (s : State) (e : Nat × Launch) :
    Quiet s (discardRound s e) ∧ (Rising s.launches → ∀ x, (e.1, x) ∉ (discardRound s e).launches) := by
  have hfirst : Quiet s (if e.2.holdsBlock then dropLaunch s e.1 else { s with launches := s.launches.del e.1 }) ∧
      (Rising s.launches → (if e.2.holdsBlock then dropLaunch s e.1 else { s with launches := s.launches.del e.1 } : State).launch? e.1 = none) := by
    split
    · exact ⟨dropLaunch_quiet s e.1, fun hr => dropLaunch_forgotten hr e.1⟩
    · exact ⟨delLaunch_quiet s e.1, fun hr => (find_del hr e.1 e.1).trans (if_pos rfl)⟩
  unfold discardRound
  dsimp only
  generalize (if e.2.holdsBlock then dropLaunch s e.1 else { s with launches := s.launches.del e.1 } : State) = s1 at hfirst ⊢
  obtain ⟨hquiet, hgone⟩ := hfirst
  have hrest : Quiet s1 (if e.2.lsn = 0 then
      { s1 with accesses := s1.accesses.filter fun (_, a) => a.launch != some e.1
                remotes := s1.remotes.filter fun (_, r) => !(s1.accesses.find r.access).any fun a => a.launch == some e.1 }
    else endChain { s1 with accesses := s1.accesses.filter fun (_, a) => a.launch != some e.1
                            remotes := s1.remotes.filter fun (_, r) => !(s1.accesses.find r.access).any fun a => a.launch == some e.1 }
      e.2.chainQueue e.2.lsn 1) := by
    have hsame : Quiet s1 { s1 with accesses := s1.accesses.filter fun (_, a) => a.launch != some e.1
                                    remotes := s1.remotes.filter fun (_, r) => !(s1.accesses.find r.access).any fun a => a.launch == some e.1 } :=
      .of_same rfl rfl rfl
    exact .ite hsame (hsame.trans (endChain_quiet ..))
  refine ⟨hquiet.trans hrest, fun hr x hx => ?_⟩
  obtain ⟨y, hy, -⟩ := hrest.launch hx
  have hfind := Table.find_of_mem (hquiet.rising hr) hy
  exact absurd ((hgone hr).symm.trans hfind) (by simp)

theorem foldl_discardRound (L : List (Nat × Launch)) (s : State) :
    Quiet s (L.foldl discardRound s) ∧ (Rising s.launches → ∀ e ∈ L, ∀ x, (e.1, x) ∉ (L.foldl discardRound s).launches) := by
  induction L generalizing s with
  | nil => exact ⟨.refl s, fun _ e he => absurd he List.not_mem_nil⟩
  | cons a L ih =>
    obtain ⟨hq, hgone⟩ := discardRound_spec s a
    obtain ⟨hq', hgone'⟩ := ih (discardRound s a)
    refine ⟨hq.trans hq', fun hr e he x hx => ?_⟩
    rcases List.mem_cons.mp he with rfl | he
    · obtain ⟨y, hy, -⟩ := hq'.launch hx
      exact hgone hr y hy
    · exact hgone' (hq.rising hr) e he x hx

theorem discardLaunches_spec (s : State) (f : Nat) :
    Quiet s (discardLaunches s f) ∧ (Rising s.launches → ∀ e ∈ (discardLaunches s f).launches, e.2.func ≠ f) := by
  obtain ⟨hq, hgone⟩ := foldl_discardRound (s.launches.filter fun e => e.2.func == f) s
  rw [discardLaunches_eq]
  refine ⟨hq, fun hr e he hf => ?_⟩
  obtain ⟨x, hx, hxf⟩ := hq.launch he
  exact hgone hr _ (List.mem_filter.mpr ⟨hx, beq_iff_eq.mpr (hxf.trans hf)⟩) e.2 he

/-! ### The queues of a function are emptied (R370, R380) -/

/-- A queue holds nothing: it is idle, or a ring in reset whose TAIL is still to be read. -/
def Emptied (v : Nat × Bool × Nat × List (BitVec 512)) : Prop := v.2.2.2 = [] ∧ (v.2.2.1 = 0 ∨ v.2.1 = true ∧ v.2.2.1 = 3)

theorem queueViews_updQueue {s : State} {n : Nat} {q : Queue} (hq : s.queue? n = some q) (u : Queue → Queue) :
    (s.updQueue n u).queueViews = s.queueViews.put n (u q).view := by
  rw [updQueue_of hq]
  exact Table.map_put Queue.view s.queues n (u q)

/-- A queue is reset with its function. -/
def emptyRound (st : State) (e : Nat × Queue) : State :=
  finishReset ((beginReset st e.1).updQueue e.1 fun q => { q with blocked := .none, doorbell := none }) e.1

theorem emptyQueues_eq (s : State) (f : Nat) : emptyQueues s f = (s.queues.filter fun e => e.2.func == f).foldl emptyRound s := rfl

theorem updQueue_launches (s : State) (n : Nat) (u : Queue → Queue) : (s.updQueue n u).launches = s.launches := by
  unfold State.updQueue
  split <;> rfl

theorem updQueue_now (s : State) (n : Nat) (u : Queue → Queue) : (s.updQueue n u).now = s.now := by
  unfold State.updQueue
  split <;> rfl

theorem queue_of_views {s t : State} (h : t.queueViews = s.queueViews) {n : Nat} {q : Queue} (hq : s.queue? n = some q) :
    ∃ q', t.queue? n = some q' ∧ q'.view = q.view := by
  have hmap : ∀ u : State, Table.find u.queueViews n = (u.queue? n).map Queue.view := fun u => Table.find_map Queue.view u.queues n
  have hfind := hmap t
  rw [h, hmap s, hq] at hfind
  cases ht : t.queue? n with
  | none =>
    rw [ht] at hfind
    cases hfind
  | some q' =>
    rw [ht] at hfind
    exact ⟨q', rfl, (Option.some.inj hfind).symm⟩

/-- The end of a reset leaves a queue in reset empty. -/
theorem finishReset_emptied {s : State} {n : Nat} {q : Queue} (hq : s.queue? n = some q) (hstate : q.state = 3) (hbuffer : q.buffer = []) :
    (finishReset s n).launches = s.launches ∧ (finishReset s n).now = s.now ∧ ∃ v, Emptied v ∧ (finishReset s n).queueViews = s.queueViews.put n v := by
  have hself : s.queueViews.put n q.view = s.queueViews := put_of_find ((Table.find_map Queue.view s.queues n).trans (by
    rw [show s.queues.find n = some q from hq]
    rfl))
  unfold finishReset
  rw [hq]
  dsimp only
  split
  · next hstay =>
    have hring : q.ring = true := by
      rw [hstate] at hstay
      simp only [bne_self_eq_false, Bool.false_or, Bool.and_eq_true] at hstay
      exact hstay.1
    exact ⟨rfl, rfl, q.view, ⟨hbuffer, .inr ⟨hring, hstate⟩⟩, hself.symm⟩
  · generalize (if q.ring = true then (qcbWord s q 4).toNat else q.head) = head
    have hs1 : Cells s (if q.ring = true then noteAts (chargeHost s q.func qcbBytes) q.func q.qcb else s) :=
      .ite ((chargeHost_cells ..).trans (noteAts_cells ..)) (.refl s)
    generalize (if q.ring = true then noteAts (chargeHost s q.func qcbBytes) q.func q.qcb else s) = s1 at hs1 ⊢
    obtain ⟨q1, hq1, hview⟩ := queue_of_views hs1.quiet.views hq
    have hb1 : q1.buffer = [] := (congrArg (fun v => v.2.2.2) hview).trans hbuffer
    have hdone := queueViews_updQueue hq1 fun q => { q with state := 0, head := head, tail := if q.ring then head else q.tail, levels := [ownLevel head] }
    have hl := updQueue_launches s1 n fun q => { q with state := 0, head := head, tail := if q.ring then head else q.tail, levels := [ownLevel head] }
    rw [hs1.quiet.views] at hdone
    have hnow := updQueue_now s1 n fun q => { q with state := 0, head := head, tail := if q.ring then head else q.tail, levels := [ownLevel head] }
    generalize (s1.updQueue n fun q => { q with state := 0, head := head, tail := if q.ring then head else q.tail, levels := [ownLevel head] }) = s2 at hdone hl hnow ⊢
    have hcells : Cells s2 (if (s.func q.func).resetting = true then s2 else writeQcb s2 n) := .ite (.refl s2) (writeQcb_cells ..)
    have hls : s1.launches = s.launches := by rw [hs1.state]; rfl
    refine ⟨?_, hcells.now_eq.trans (hnow.trans hs1.now_eq), _, ?_, hcells.quiet.views.trans hdone⟩
    · rw [hcells.state]
      exact hl.trans hls
    · exact ⟨hb1, .inl rfl⟩

/-- A queue whose reset has begun. -/
def Queue.begun (q : Queue) : Queue :=
  let head := q.head + q.buffer.length
  { q with state := 3, ecode := 0, eaddr := 0, buffer := [], head := head, levels := [ownLevel head], refs := [], dependPending := false
           blocked := if q.blocked = Block.bind then Block.bind else Block.none, got := none }

/-- A queue that waits for nothing. -/
def Queue.unblocked (q : Queue) : Queue := { q with blocked := .none, doorbell := none }

theorem emptyRound_eq (s : State) (e : Nat × Queue) :
    emptyRound s e = finishReset (((discardWaiting s e.1).updQueue e.1 Queue.begun).updQueue e.1 Queue.unblocked) e.1 := rfl

theorem emptyRound_spec (s : State) (e : Nat × Queue) : (emptyRound s e).placements.Sublist s.placements ∧ (emptyRound s e).now = s.now ∧
    (s.queue? e.1 = none → (emptyRound s e).queueViews = s.queueViews) ∧
    (∀ q, s.queue? e.1 = some q → ∃ v, Emptied v ∧ (emptyRound s e).queueViews = s.queueViews.put e.1 v) := by
  have hdiscard := discardWaiting_quiet s e.1
  rw [emptyRound_eq]
  generalize discardWaiting s e.1 = s1 at hdiscard ⊢
  cases h1 : s1.queue? e.1 with
  | none =>
    have hnone : ∀ u, s1.updQueue e.1 u = s1 := fun u => by
      unfold State.updQueue
      rw [h1]
    have hsame : finishReset s1 e.1 = s1 := by
      unfold finishReset
      rw [h1]
    rw [hnone, hnone, hsame]
    refine ⟨hdiscard.placements, hdiscard.now, fun _ => hdiscard.views, fun q hq => ?_⟩
    obtain ⟨q1, hq1, -⟩ := queue_of_views hdiscard.views hq
    rw [h1] at hq1
    cases hq1
  | some q1 =>
    have h2 : (s1.updQueue e.1 Queue.begun).queue? e.1 = some q1.begun := by
      rw [updQueue_of h1]
      exact Table.find_put_self ..
    have h3 : ((s1.updQueue e.1 Queue.begun).updQueue e.1 Queue.unblocked).queue? e.1 = some q1.begun.unblocked := by
      rw [updQueue_of h2]
      exact Table.find_put_self ..
    obtain ⟨hl, hnow, v, hv, hviews⟩ := finishReset_emptied h3 rfl rfl
    refine ⟨?_, ?_, fun hn => ?_, fun q _ => ⟨v, hv, ?_⟩⟩
    · unfold State.placements
      rw [hl, updQueue_launches, updQueue_launches]
      exact hdiscard.placements
    · rw [hnow, updQueue_now, updQueue_now, hdiscard.now]
    · obtain ⟨q, hq, -⟩ := queue_of_views hdiscard.views.symm h1
      rw [hn] at hq
      cases hq
    · rw [hviews, queueViews_updQueue h2, queueViews_updQueue h1, Table.put_put, Table.put_put, hdiscard.views]

theorem mem_put_rising {α : Type} {t : Table α} (hr : Rising t) {n : Nat} {x : α} {e : Nat × α} (h : e ∈ t.put n x) : e = (n, x) ∨ e ∈ t ∧ e.1 ≠ n := by
  by_cases hn : e.1 = n
  · have hfind := Table.find_of_mem (rising_put hr n x) h
    rw [hn, Table.find_put_self] at hfind
    exact .inl (Prod.ext hn (Option.some.inj hfind).symm)
  · refine .inr ⟨(mem_put_or h).resolve_left fun heq => hn (congrArg Prod.fst heq), hn⟩

theorem foldl_emptyRound (L : List (Nat × Queue)) (s : State) :
    (L.foldl emptyRound s).placements.Sublist s.placements ∧ (L.foldl emptyRound s).now = s.now ∧
    (Rising s.queueViews → ∀ v ∈ (L.foldl emptyRound s).queueViews, (v ∈ s.queueViews ∧ v.1 ∉ L.map (·.1)) ∨ Emptied v.2) := by
  induction L generalizing s with
  | nil => exact ⟨List.Sublist.refl _, rfl, fun _ v hv => .inl ⟨hv, List.not_mem_nil⟩⟩
  | cons e L ih =>
    obtain ⟨hsub, hnow, hnone, hsome⟩ := emptyRound_spec s e
    obtain ⟨hsub', hnow', hall⟩ := ih (emptyRound s e)
    refine ⟨hsub'.trans hsub, hnow'.trans hnow, fun hr v hv => ?_⟩
    rw [List.map_cons, List.mem_cons, not_or]
    have hfind : Table.find s.queueViews e.1 = (s.queue? e.1).map Queue.view := Table.find_map Queue.view s.queues e.1
    cases hq : s.queue? e.1 with
    | none =>
      have hviews := hnone hq
      rw [hviews] at hall
      rcases hall hr v hv with ⟨hin, hL⟩ | hemp
      · refine .inl ⟨hin, fun heq => ?_, hL⟩
        have hsome := Table.find_of_mem hr hin
        rw [heq, hfind, hq] at hsome
        cases hsome
      · exact .inr hemp
    | some q =>
      obtain ⟨w, hw, hviews⟩ := hsome q hq
      rw [hviews] at hall
      rcases hall (rising_put hr _ _) v hv with ⟨hin, hL⟩ | hemp
      · rcases mem_put_rising hr hin with rfl | ⟨hin, hne⟩
        · exact .inr hw
        · exact .inl ⟨hin, hne, hL⟩
      · exact .inr hemp

theorem rising_queueViews {s : State} (hr : Rising s.queues) : Rising s.queueViews := by
  unfold Rising State.queueViews at *
  rw [List.map_map]
  exact hr

theorem emptyQueues_spec (s : State) (f : Nat) : (emptyQueues s f).placements.Sublist s.placements ∧ (emptyQueues s f).now = s.now ∧
    (Rising s.queueViews → ∀ v ∈ (emptyQueues s f).queueViews, v.2.1 = f → Emptied v.2) := by
  obtain ⟨hsub, hnow, hall⟩ := foldl_emptyRound (s.queues.filter fun e => e.2.func == f) s
  rw [emptyQueues_eq]
  refine ⟨hsub, hnow, fun hr v hv hf => ?_⟩
  rcases hall hr v hv with ⟨hin, hL⟩ | hemp
  · obtain ⟨e, he, rfl⟩ := List.mem_map.mp hin
    have hmine : e ∈ s.queues.filter fun e => e.2.func == f := List.mem_filter.mpr ⟨he, beq_iff_eq.mpr hf⟩
    exact absurd (List.mem_map_of_mem (f := fun x : Nat × Queue => x.1) hmine) hL
  · exact hemp

/-! ### The quiescence of a function (R380, R381) -/

theorem flrQuiesce_spec (s : State) (fn : Nat) (hl : Rising s.launches) (hq : Rising s.queues) : ∃ t, exec (.flrQuiesce fn) s = .next t ∧
    DueAt t (s.now + 270000000) (.flrComplete fn) ∧ (∀ l x, t.launch? l = some x → x.func ≠ fn) ∧
    (∀ x ∈ t.queues, x.2.func = fn → x.2.buffer = [] ∧ (x.2.state = 0 ∨ (x.2.ring = true ∧ x.2.state = 3))) ∧
    (∀ x ∈ t.tcache, ∀ e ∈ x.2, e.func ≠ fn) ∧ ∀ x ∈ t.commonsReqs, x.2.func ≠ fn := by
  obtain ⟨hdisc, hgone⟩ := discardLaunches_spec s fn
  have hlapse := lapseFunc_quiet (discardLaunches s fn) fn
  obtain ⟨hempty, hemptynow, hemptied⟩ := emptyQueues_spec (lapseFunc (discardLaunches s fn) fn) fn
  have hviews : (lapseFunc (discardLaunches s fn) fn).queueViews = s.queueViews := hlapse.views.trans hdisc.views
  have hnow : (emptyQueues (lapseFunc (discardLaunches s fn) fn) fn).now = s.now := hemptynow.trans (hlapse.now.trans hdisc.now)
  generalize hs0 : emptyQueues (lapseFunc (discardLaunches s fn) fn) fn = s0 at hempty hemptied hnow
  have hdrop := dropAccesses_quiet s0 fun _ a => a.ident == fn && a.kind == .read
  have hdropnow : (dropAccesses s0 fun _ a => a.ident == fn && a.kind == .read).now = s0.now := by rw [dropAccesses_frame]
  generalize hs1 : (dropAccesses s0 fun _ a => a.ident == fn && a.kind == .read) = s1 at hdrop hdropnow
  have hexec : exec (.flrQuiesce fn) s = .next ({ s1 with
      commonsReqs := s1.commonsReqs.filter fun (_, r) => r.func != fn
      remotes := s1.remotes.filter fun (_, r) => r.func != fn || writeGoesOn s1 r.access
      ats := s1.ats.filter fun e => e.1 != fn
      tcache := s1.tcache.map fun (p : Nat × List CacheEntry) => (p.1, p.2.filter fun e => e.func != fn) }.due (s1.now + scrubTime) 0 (.flrComplete fn)) := by
    rw [← hs1, ← hs0]
    rfl
  refine ⟨_, hexec, ?_, fun l x hx hf => ?_, fun x hx hf => ?_, fun x hx e he => ?_, fun x hx => ?_⟩
  · have hdue := dueAt_due { s1 with
      commonsReqs := s1.commonsReqs.filter fun (_, r) => r.func != fn
      remotes := s1.remotes.filter fun (_, r) => r.func != fn || writeGoesOn s1 r.access
      ats := s1.ats.filter fun e => e.1 != fn
      tcache := s1.tcache.map fun (p : Nat × List CacheEntry) => (p.1, p.2.filter fun e => e.func != fn) } (s1.now + scrubTime) 0 (.flrComplete fn)
    have hat : s1.now + scrubTime = s.now + 270000000 := congrArg (· + 270000000) (hdropnow.trans hnow)
    rwa [hat] at hdue ⊢
  · have hmem : (l, x) ∈ s1.launches := Table.mem_of_find hx
    have hsub := hdrop.placements.trans (hempty.trans hlapse.placements)
    have hp : (l, x.func) ∈ s1.placements := List.mem_map_of_mem (f := fun e : Nat × Launch => (e.1, e.2.func)) hmem
    obtain ⟨e, he, heq⟩ := List.mem_map.mp (hsub.subset hp)
    exact hgone hl e he ((congrArg Prod.snd heq).trans hf)
  · have hp : (x.1, x.2.view) ∈ s1.queueViews := List.mem_map_of_mem (f := fun e : Nat × Queue => (e.1, e.2.view)) hx
    rw [hdrop.views] at hp
    exact hemptied (hviews ▸ rising_queueViews hq) _ hp hf
  · obtain ⟨p, hp, rfl⟩ := List.mem_map.mp hx
    simpa using (List.mem_filter.mp he).2
  · simpa using (List.mem_filter.mp hx).2

/-! ### Bring-up (R406) -/

/-- A report of a device that has no health ring is held, and changes nothing else. -/
structure OnlyReported (s t : State) : Prop where
  frame : s.hrBase = 0 → t = { s with hrCounts := t.hrCounts, hrLog := t.hrLog, hrHeld := t.hrHeld }

theorem OnlyReported.refl (s : State) : OnlyReported s s := ⟨fun _ => rfl⟩

theorem OnlyReported.trans {a b c : State} (h1 : OnlyReported a b) (h2 : OnlyReported b c) : OnlyReported a c := ⟨fun h0 => by
  have hb := h1.frame h0
  have hbase : b.hrBase = 0 := by
    rw [hb]
    exact h0
  have hc := h2.frame hbase
  rw [hc, hb]⟩

theorem OnlyReported.foldl {α : Type} {f : State → α → State} (hf : ∀ s a, OnlyReported s (f s a)) (l : List α) (s : State) :
    OnlyReported s (l.foldl f s) := by
  induction l generalizing s with
  | nil => exact .refl s
  | cons a l ih => exact (hf s a).trans (ih _)

theorem unitEvent_onlyReported (s : State) (kind event die unit : Nat) (args : List Word) : OnlyReported s (unitEvent s kind event die unit args) := by
  refine ⟨fun h0 => ?_⟩
  unfold unitEvent
  dsimp only
  split
  · rfl
  · split <;> rfl

theorem reportLost_onlyReported (s : State) : OnlyReported s (reportLost s) := by
  have hunit : ∀ st kind event die unit args, OnlyReported st (unitEvent st kind event die unit args) := unitEvent_onlyReported
  unfold reportLost
  dsimp only
  refine OnlyReported.trans ?_ (.foldl (fun st e => ?_) _ _)
  · refine OnlyReported.trans ?_ (.foldl (fun st ch => .foldl (fun st t => hunit ..) _ _) _ _)
    refine OnlyReported.trans ?_ (.foldl (fun st d => .foldl (fun st k => hunit ..) _ _) _ _)
    exact (OnlyReported.foldl (fun st p => hunit ..) _ s).trans (.foldl (fun st h => hunit ..) _ _)
  · split
    · exact hunit ..
    · exact .refl st

theorem bringDue_eq (L : List SpareUnit) (s : State) (h0 : s.hrBase = 0) :
    bringDue L s = { s with
      fused := s.fused ++ L, hrCounts := (bringDue L s).hrCounts, hrLog := (bringDue L s).hrLog, hrHeld := (bringDue L s).hrHeld } := by
  unfold bringDue
  induction L generalizing s with
  | nil => rw [List.append_nil]; rfl
  | cons u L ih =>
    rw [List.foldl_cons]
    have hone := unitEvent_onlyReported { s with fused := s.fused ++ [u] } (unitKind u) 3 (spareHive u / 12) (unitNum u) [BitVec.ofNat 64 (unitNum u)]
    have hone := hone.frame h0
    generalize unitEvent { s with fused := s.fused ++ [u] } (unitKind u) 3 (spareHive u / 12) (unitNum u) [BitVec.ofNat 64 (unitNum u)] = t at hone ⊢
    have hbase : t.hrBase = 0 := by
      rw [hone]
      exact h0
    have hfused : t.fused = s.fused ++ [u] := by rw [hone]
    rw [ih t hbase, hfused, hone, List.append_assoc]
    rfl

/-- What a reset keeps in memory: the deep tier and the host's. -/
def keptByReset (a : Nat) : Bool := isDeep a || isHost a

theorem Table.get_filter_key {α : Type} [DecidableEq α] {d : α} {lo : Nat} {t : Table α} (q : Nat → Bool) (h : Table.wfFrom d lo t = true) (n : Nat) :
    Table.get d (List.filter (fun e => q e.1) t) n = if q n then Table.get d t n else d := by
  induction t generalizing lo with
  | nil => split <;> rfl
  | cons e t ih =>
    obtain ⟨k, v⟩ := e
    have h' := h
    simp only [Table.wfFrom, Bool.and_eq_true, decide_eq_true_eq] at h'
    have hrest := ih h'.2
    have hbelow : n ≤ k → Table.get d t n = d := fun hn => Table.get_below d h'.2 (by omega)
    have hget : ∀ u : Table α, Table.get d ((k, v) :: u) n = if n = k then v else if n < k then d else Table.get d u n := fun _ => rfl
    cases hq : q k with
    | true =>
      rw [List.filter_cons_of_pos (by exact hq), hget, hget]
      by_cases hnk : n = k
      · rw [hnk, if_pos rfl, if_pos rfl, hq]
        rfl
      · rw [if_neg hnk, if_neg hnk]
        by_cases hlt : n < k
        · rw [if_pos hlt, if_pos hlt]
          split <;> rfl
        · rw [if_neg hlt, if_neg hlt]
          exact hrest
    | false =>
      rw [List.filter_cons_of_neg (by simp [hq]), hrest, hget]
      by_cases hnk : n = k
      · rw [hnk, hq, if_neg Bool.false_ne_true, if_neg Bool.false_ne_true]
      · rw [if_neg hnk]
        by_cases hlt : n < k
        · rw [if_pos hlt, hbelow (Nat.le_of_lt hlt)]
        · rw [if_neg hlt]

/-- The state from which bring-up reports: what a reset keeps of a state. -/
structure BroughtUp (s : State) (count : Nat) (t : State) : Prop where
  now : t.now = 0
  up : t.up = true
  aligned : t.aligned = false
  launches : t.launches = []
  queues : t.queues = []
  cores : t.cores = []
  directory : t.directory = []
  funcs : t.funcs = []
  agenda : t.agenda = State.reset.agenda
  fusedMin : t.fusedMin = s.fusedMin
  domCount : t.domCount = count
  mem : t.mem = s.mem.filter fun e => keptByReset e.1
  hrBase : t.hrBase = 0
  mgmtFailed : t.mgmtFailed = false

/-- What a reset leaves before its reports: the state after bring-up, with what outlives it. -/
def State.afterReset (s : State) (count : Nat) : State :=
  let trained := fun (l : Nat) (k : Link) =>
    let ok := k.lanesFailed.length ≤ 1
    { Link.reset with up := ok, lanesFailed := k.lanesFailed, spareUsed := k.spareUsed
                      control := if ok && l < moduleLinks then [message 3 0 0 0 0] else [] }
  { State.reset with
    domCount := count, aligned := false
    mem := s.mem.filter fun e => keptByReset e.1, poison := s.poison.filter fun e => keptByReset (64 * e.1)
    flaws := s.flaws.filter fun e => keptByReset (64 * e.1)
    fused := s.fused, coresLost := s.coresLost, outOfService := s.outOfService, tsvFailed := s.tsvFailed, tsvSpared := s.tsvSpared
    sweep := s.sweep.map fun (k, _) => (k, 2 ^ 29), shepFailed := s.shepFailed, fusedMin := s.fusedMin, staged := []
    shepDead := [0, 1].flatMap fun d => (shepherdsLost s d).map fun k => (k, 2 ^ 64)
    sysKey := (List.range 4).map fun i => Config.randomWord (2 ^ 64 + 4 * (s.fresh + 1) + i)
    running := s.staged.foldl (fun (t : Table Firmware) (p : Nat × Firmware) => Table.put t p.1 p.2) s.running
    links := (List.range moduleLinks).map fun l => (l, trained l (s.link l))
    msix := s.msix, hostReply := s.hostReply, fresh := s.fresh + 1, nextId := s.nextId, attestations := s.attestations }

theorem afterReset_broughtUp (s : State) (count : Nat) : BroughtUp s count (s.afterReset count) :=
  ⟨rfl, rfl, rfl, rfl, rfl, rfl, rfl, rfl, rfl, rfl, rfl, rfl, rfl, rfl⟩

theorem bringUp_eq (s : State) (count : Nat) : bringUp s count =
    if !starts s 1 then { s.afterReset count with up := false, mgmtFailed := true, agenda := [], spareDue := s.spareDue }
    else if starts s 2 && starts s 3 then bringDue s.spareDue (reportLost (s.afterReset count))
    else { healthEvent (bringDue s.spareDue (reportLost (s.afterReset count))) 16 0xFF 0 [] with up := false, agenda := [] } := rfl

/-- The reports of bring-up, and the exchanges of units that are due. -/
theorem BroughtUp.reports {s : State} {count : Nat} {s1 : State} (h : BroughtUp s count s1) (hfused : s1.fused = s.fused) :
    BroughtUp s count (bringDue s.spareDue (reportLost s1)) ∧ (bringDue s.spareDue (reportLost s1)).fused = s.fused ++ s.spareDue := by
  have hlost := (reportLost_onlyReported s1).frame h.hrBase
  have hbase : (reportLost s1).hrBase = 0 := by
    rw [hlost]
    exact h.hrBase
  have hdue := bringDue_eq s.spareDue (reportLost s1) hbase
  rw [hdue, hlost]
  refine ⟨?_, congrArg (· ++ s.spareDue) hfused⟩
  exact ⟨h.now, h.up, h.aligned, h.launches, h.queues, h.cores, h.directory, h.funcs, h.agenda, h.fusedMin, h.domCount, h.mem, h.hrBase, h.mgmtFailed⟩

/-- Bring-up keeps what a reset keeps, and the device is up when its firmware is started. -/
theorem bringUp_spec (s : State) (count : Nat) :
    (starts s 1 = false → (bringUp s count).up = false ∧ (bringUp s count).agenda = [] ∧ (bringUp s count).mgmtFailed = true ∧
      (bringUp s count).mem = s.mem.filter fun e => keptByReset e.1) ∧
    (starts s 1 = true → ∃ t, BroughtUp s count t ∧ t.fused = s.fused ++ s.spareDue ∧
      bringUp s count = if starts s 2 && starts s 3 then t else { healthEvent t 16 0xFF 0 [] with up := false, agenda := [] }) := by
  rw [bringUp_eq]
  refine ⟨fun h => ?_, fun h => ?_⟩
  · rw [if_pos (by rw [h]; rfl)]
    exact ⟨rfl, rfl, rfl, rfl⟩
  · obtain ⟨hup, hfused⟩ := (afterReset_broughtUp s count).reports rfl
    rw [if_neg (by rw [h]; decide)]
    exact ⟨_, hup, hfused, rfl⟩

theorem keptMem_wf {s : State} (hs : s.Inv) : Memory.wf (s.mem.filter fun e => keptByReset e.1) = true := Table.filter_wf _ _ hs

theorem readByte_keptMem {s t : State} (hs : s.Inv) (hmem : t.mem = s.mem.filter fun e => keptByReset e.1) (a : Nat) :
    readByte t a = if isDeep a = true ∨ isHost a = true then readByte s a else 0 := by
  unfold readByte
  rw [hmem, Table.get_filter_key keptByReset hs]
  unfold keptByReset
  simp only [Bool.or_eq_true]

section
variable {s : State}

/-- A device whose firmware is all started is as after bring-up. -/
theorem bringUp_good (hs : s.Inv) (hgood : ∀ k ∈ [1, 2, 3], starts s k = true) (count : Nat) :
    let t := bringUp s count
    (t.Inv ∧ t.now = 0 ∧ t.up = true ∧ t.aligned = false ∧ t.launches = [] ∧ t.queues = [] ∧ t.cores = [] ∧ t.directory = [] ∧ t.funcs = [] ∧
      t.agenda = State.reset.agenda ∧ t.fused = s.fused ++ s.spareDue ∧ t.fusedMin = s.fusedMin ∧
      (∀ a, readByte t a = if isDeep a = true ∨ isHost a = true then readByte s a else 0)) ∧ t.domCount = count := by
  obtain ⟨t, h, hfused, heq⟩ := (bringUp_spec s count).2 (hgood 1 (by simp))
  rw [hgood 2 (by simp), hgood 3 (by simp), Bool.and_self, if_pos rfl] at heq
  dsimp only
  rw [heq]
  refine ⟨⟨?_, h.now, h.up, h.aligned, h.launches, h.queues, h.cores, h.directory, h.funcs, h.agenda, hfused, h.fusedMin, readByte_keptMem hs h.mem⟩, h.domCount⟩
  show Memory.wf t.mem = true
  rw [h.mem]
  exact keptMem_wf hs

/-- A device with a component that is not started stays down. -/
theorem bringUp_bad (hs : s.Inv) (hbad : ¬∀ k ∈ [1, 2, 3], starts s k = true) (count : Nat) :
    (bringUp s count).up = false ∧ (bringUp s count).agenda = [] ∧ (bringUp s count).Inv ∧ (bringUp s count).mgmtFailed = !starts s 1 := by
  cases h1 : starts s 1 with
  | false =>
    obtain ⟨hup, hagenda, hm, hmem⟩ := (bringUp_spec s count).1 h1
    refine ⟨hup, hagenda, ?_, hm⟩
    show Memory.wf (bringUp s count).mem = true
    rw [hmem]
    exact keptMem_wf hs
  | true =>
    obtain ⟨t, h, hfused, heq⟩ := (bringUp_spec s count).2 h1
    have hother : (starts s 2 && starts s 3) = false := by
      rw [Bool.eq_false_iff]
      intro h23
      obtain ⟨h2, h3⟩ := Bool.and_eq_true_iff.mp h23
      exact hbad (by simp [h1, h2, h3])
    rw [hother, if_neg Bool.false_ne_true] at heq
    have hevent := (unitEvent_onlyReported t 0 16 0xFF 0 []).frame h.hrBase
    rw [heq]
    refine ⟨rfl, rfl, ?_, ?_⟩
    · show Memory.wf (unitEvent t 0 16 0xFF 0 []).mem = true
      rw [hevent]
      show Memory.wf t.mem = true
      rw [h.mem]
      exact keptMem_wf hs
    · show (unitEvent t 0 16 0xFF 0 []).mgmtFailed = _
      rw [hevent]
      exact h.mgmtFailed

end

/-! ### Function-level reset (R380, R381) -/

theorem flr_starts {s : State} {fn : Nat} (h0 : fn ≠ 0) (hfn : fn < 64) (hr : (s.func fn).resetting = false) :
    ∃ t, exec (.flr fn) s = .next t ∧ (t.func fn).resetting = true ∧ DueAt t ((s.now / 12000 + 1) * 12000) (.flrQuiesce fn) ∧ t.mem = s.mem ∧
      t.cores = s.cores := by
  show ∃ t, execFlr fn s = .next t ∧ _
  unfold execFlr
  dsimp only
  rw [if_neg h0, if_neg (by simp [hr, hfn])]
  have hfunc : ((s.updFunc fn fun x => { x with resetting := true, frHeld := [] }).func fn).resetting = true := by
    rw [func_updFunc, if_pos rfl]
  have hmem : (s.updFunc fn fun x => { x with resetting := true, frHeld := [] }).mem = s.mem := rfl
  have hcores : (s.updFunc fn fun x => { x with resetting := true, frHeld := [] }).cores = s.cores := rfl
  generalize (s.updFunc fn fun x => { x with resetting := true, frHeld := [] }) = s0 at hfunc hmem hcores ⊢
  rw [dropAccesses_frame]
  exact ⟨_, rfl, hfunc, dueAt_due .., hmem, hcores⟩

/-- A step that writes memory at the host's addresses only. -/
structure HostOnly (s t : State) : Prop where
  poison : t.poison = s.poison
  bytes : KeepsBytes (· < hostBase) s t

theorem HostOnly.refl (s : State) : HostOnly s s := ⟨rfl, .refl s⟩

theorem HostOnly.trans {a b c : State} (h1 : HostOnly a b) (h2 : HostOnly b c) : HostOnly a c := ⟨h2.poison.trans h1.poison, h1.bytes.trans h2.bytes⟩

theorem HostOnly.foldl_mem {α : Type} {f : State → α → State} {l : List α} (hf : ∀ a ∈ l, ∀ s, HostOnly s (f s a)) (s : State) : HostOnly s (l.foldl f s) := by
  induction l generalizing s with
  | nil => exact .refl s
  | cons a l ih => exact (hf a List.mem_cons_self s).trans (ih (fun b hb => hf b (List.mem_cons_of_mem _ hb)) _)

theorem writeBytes_poison (s : State) (a : Nat) (bs : List Byte) : (writeBytes s a bs).poison = s.poison := by
  rw [writeBytes_withRecords]
  rfl

theorem storeNow_hostOnly (s : State) (f : Nat) {pa : Nat} (data : List Byte) (hpa : hostBase ≤ pa) : HostOnly s (storeNow s f pa data) := by
  refine ⟨?_, storeNow_keepsBytes (fun _ h => h) s f fun x hx => .inl (Nat.lt_of_lt_of_le hx hpa)⟩
  have hscratch : isScratch pa = false := by
    unfold isScratch scratchBase
    unfold hostBase at hpa
    simp only [Bool.and_eq_false_iff, decide_eq_false_iff_not]
    omega
  have hhbm : isHbm pa = false := by
    unfold isHbm
    unfold hostBase at hpa
    simp only [decide_eq_false_iff_not]
    omega
  have hnote : (noteAts (chargeHost s f data.length) f (pa - hostBase)).poison = s.poison := by
    unfold noteAts
    split <;> rfl
  unfold storeNow
  rw [hscratch, hhbm]
  dsimp only
  split
  · split
    · rw [writeBytes_poison, hnote]
    · exact hnote
  · rfl

theorem deviceStore_hostOnly (s : State) (f : Nat) {pa : Nat} (data : List Byte) (hpa : hostBase ≤ pa) : HostOnly s (deviceStore s f pa data) := by
  have hspans : ∀ sp ∈ storeSpans pa data.length, hostBase ≤ sp.pa := by
    unfold storeSpans
    split
    · intro sp hsp
      rw [List.mem_singleton.mp hsp]
      exact hpa
    · exact cutLines_above _ _ _ _ hpa
  unfold deviceStore deviceStoreAt deviceStoreFrom
  generalize storeSpans pa data.length = l at hspans
  generalize hp : (s, (none : Option Nat)) = p
  have hs : s = p.1 := congrArg Prod.fst hp
  rw [hs]
  clear hp hs
  induction l generalizing p with
  | nil => exact .refl _
  | cons sp l ih =>
    rw [List.foldl_cons]
    refine HostOnly.trans ?_ (ih (fun x hx => hspans x (List.mem_cons_of_mem _ hx)) _)
    dsimp only
    split
    · exact storeNow_hostOnly _ _ _ (hspans sp List.mem_cons_self)
    · exact ⟨rfl, .of_same rfl⟩

theorem storeQcb_hostOnly (s : State) (f a v : Nat) : HostOnly s (storeQcb s f (hostBase + a) v) := deviceStore_hostOnly _ _ _ (Nat.le_add_right ..)

theorem writeQcb_hostOnly (s : State) (n : Nat) : HostOnly s (writeQcb s n) := by
  unfold writeQcb
  split
  · exact .refl s
  · simp only [Nat.add_assoc]
    exact (((storeQcb_hostOnly ..).trans (storeQcb_hostOnly ..)).trans (storeQcb_hostOnly ..)).trans (storeQcb_hostOnly ..)

/-- The set of an address is that of its line. -/
theorem findSet_line (t : Table Nat) (a : Nat) : (findSet t (64 * (a / 64))).map (·.1) = (findSet t a).map (·.1) := by
  induction t generalizing a with
  | nil => rfl
  | cons e t ih =>
    obtain ⟨g, mask⟩ := e
    unfold findSet
    dsimp only
    generalize (groupsOf mask).length = k
    by_cases h : a < k * 0x800000000
    · rw [if_pos h, if_pos (by omega)]
      rfl
    · rw [if_neg h, if_neg (by omega)]
      have hsub : 64 * (a / 64) - k * 0x800000000 = 64 * ((a - k * 0x800000000) / 64) := by omega
      rw [hsub]
      exact ih _

theorem ofFunc_line (s : State) (f a : Nat) : ofFunc s f (64 * (a / 64)) = ofFunc s f a := by
  have hset := findSet_line s.setApplied a
  have hin : inSets s (setsOf s f) (64 * (a / 64)) = inSets s (setsOf s f) a := by
    have hhbm : isHbm (64 * (a / 64)) = isHbm a := by
      unfold isHbm
      rw [decide_eq_decide]
      omega
    unfold inSets setOf
    rw [hhbm]
    cases h1 : findSet s.setApplied a with
    | none =>
      rw [h1] at hset
      rw [Option.map_eq_none_iff.mp hset]
    | some x =>
      rw [h1] at hset
      obtain ⟨y, hy, hxy⟩ := Option.map_eq_some_iff.mp hset
      rw [hy]
      dsimp only
      rw [hxy]
  have hscratch : isScratch (64 * (a / 64)) = isScratch a := by
    unfold isScratch scratchBase
    rw [← Bool.decide_and, ← Bool.decide_and, decide_eq_decide]
    omega
  have hhive : hiveOf (64 * (a / 64)) = hiveOf a := by
    unfold hiveOf scratchBase
    omega
  unfold ofFunc
  rw [hin, hscratch, hhive]

theorem Table.get_filter_none {α : Type} {d : α} {t : Table α} {p : Nat × α → Bool} {n : Nat} (h : ∀ v, p (n, v) = false) :
    Table.get d (List.filter p t) n = d := by
  induction t with
  | nil => rfl
  | cons e t ih =>
    obtain ⟨k, v⟩ := e
    by_cases hp : p (k, v) = true
    · have hne : n ≠ k := fun hk => by
        rw [← hk, h v] at hp
        cases hp
      rw [List.filter_cons_of_pos hp]
      have hget : Table.get d ((k, v) :: List.filter p t) n = if n = k then v else if n < k then d else Table.get d (List.filter p t) n := rfl
      rw [hget, if_neg hne, ih]
      split <;> rfl
    · rw [List.filter_cons_of_neg hp]
      exact ih

theorem ofFunc_below {s : State} {f a : Nat} (h : ofFunc s f a = true) : a < hostBase := by
  unfold ofFunc inSets isScratch isHbm scratchBase at h
  unfold hostBase
  simp only [Bool.or_eq_true, Bool.and_eq_true, decide_eq_true_eq] at h
  omega

/-- The state in which a function's units are zero. -/
def scrubbed (s : State) (fn : Nat) : State :=
  let s1 := resetCounters s (setsOf s fn)
  idleQueues ({ s1 with
    mem := s1.mem.filter fun e => !ofFunc s fn e.1
    poison := s1.poison.filter fun e => !ofFunc s fn (64 * e.1)
    flaws := s1.flaws.filter fun e => !ofFunc s fn (64 * e.1)
    badCounters := s1.badCounters.filter fun b => !ofFunc s fn (4096 * b) }.updFunc fn fun x => { x with resetting := false, key := randomKey s fn }) fn

theorem exec_flrComplete (s : State) (fn : Nat) : exec (.flrComplete fn) s =
    .next ((s.queues.filter fun e => e.2.func == fn).foldl (fun st e => writeQcb st e.1) (scrubbed s fn)) := rfl

theorem flrComplete_spec {s : State} (hs : s.Inv) (fn : Nat) : ∃ t, exec (.flrComplete fn) s = .next t ∧ (t.func fn).resetting = false ∧
    (t.func fn).key = randomKey s fn ∧ t.Inv ∧
    (∀ a, ofFunc s fn a = true → readByte t a = 0 ∧ poisoned t a = false) ∧
    ((∀ x ∈ s.queues, x.2.func ≠ fn) → ∀ a, ofFunc s fn a = false → readByte t a = readByte s a) := by
  have hfunc : ((scrubbed s fn).func fn).resetting = false ∧ ((scrubbed s fn).func fn).key = randomKey s fn := by
    have hget : ∀ u : State, ((idleQueues (u.updFunc fn fun x => { x with resetting := false, key := randomKey s fn }) fn).func fn) =
        { u.func fn with resetting := false, key := randomKey s fn } := fun u => by
      have hupd := func_updFunc u fn fn fun x => { x with resetting := false, key := randomKey s fn }
      rw [if_pos rfl] at hupd
      exact hupd
    unfold scrubbed
    dsimp only
    rw [hget]
    exact ⟨rfl, rfl⟩
  have hread : ∀ a, readByte (scrubbed s fn) a = if ofFunc s fn a = true then 0 else readByte s a := fun a => by
    have hget := Table.get_filter_key (d := (0 : Byte)) (fun a => !ofFunc s fn a) hs a
    refine hget.trans ?_
    cases ofFunc s fn a <;> rfl
  have hwf : Memory.wf (scrubbed s fn).mem = true := Table.filter_wf _ _ hs
  have hpoison : ∀ a, ofFunc s fn a = true → poisoned (scrubbed s fn) a = false := fun a ha =>
    Table.get_filter_none fun v => by rw [show lineOf a = a / 64 from rfl, ofFunc_line, ha]; rfl
  have hcells : Cells (scrubbed s fn) ((s.queues.filter fun e => e.2.func == fn).foldl (fun st e => writeQcb st e.1) (scrubbed s fn)) :=
    .foldl (fun st e => writeQcb_cells ..) _ _
  have hhost : HostOnly (scrubbed s fn) ((s.queues.filter fun e => e.2.func == fn).foldl (fun st e => writeQcb st e.1) (scrubbed s fn)) :=
    .foldl_mem (fun e _ st => writeQcb_hostOnly st e.1) _
  refine ⟨_, exec_flrComplete s fn, ?_, ?_, hcells.wf hwf, fun a ha => ⟨?_, ?_⟩, fun hnone a ha => ?_⟩
  · rw [hcells.func fn]
    exact hfunc.1
  · rw [hcells.func fn]
    exact hfunc.2
  · rw [hhost.bytes.readByte hwf a (ofFunc_below ha), hread, if_pos ha]
  · unfold poisoned
    rw [hhost.poison]
    exact hpoison a ha
  · have hnil : (s.queues.filter fun e => e.2.func == fn) = [] :=
      List.filter_eq_nil_iff.mpr fun e he => by rw [beq_iff_eq]; exact hnone e he
    rw [hnil, List.foldl_nil, hread, if_neg (by rw [ha]; exact Bool.false_ne_true)]

/-- Settles O57: a reset of the device leaves the state after bring-up, and a function-level reset stops, quiesces and scrubs its function. -/
theorem resets : Obligations.Resets := by
  refine ⟨fun s hs => ⟨fun hgood _ => ⟨⟨_, rfl, bringUp_good hs hgood 0⟩, _, rfl, bringUp_good hs hgood s.domCount⟩, fun hbad _ i hi => ?_, rfl⟩,
    fun s fn => ⟨flr_starts, fun h0 h => ?_, flrQuiesce_spec s fn, fun hs => flrComplete_spec hs fn⟩⟩
  · simp only [List.mem_cons, List.not_mem_nil, or_false] at hi
    rcases hi with rfl | rfl
    · exact ⟨_, rfl, bringUp_bad hs hbad 0⟩
    · exact ⟨_, rfl, bringUp_bad hs hbad s.domCount⟩
  · show execFlr fn s = _
    unfold execFlr
    rw [if_neg h0, if_pos (by simpa using h)]

end Sys2Proof.Machine
end

section
/-!
PROOFS. A counterexample on a directory out of order (R280, R281, R308).
-/
namespace Sys2Proof.Machine

/-! ## A directory out of order -/

/-- A directory in which the entry that holds a tile stands behind one of a higher number, where a look-up does not reach it. Line 0 of
channel 0, of that tile's copy, has more errors than its code corrects, and a sweep of the channel has come to it. -/
def strayEntry : State :=
  { State.reset with
    setApplied := [(0, 1)], comSetApplied := 0x8000000000000000
    directory := [(5, DirEntry.reset), (3, Tests.entry0)], flaws := [(0, 0x11111)], sweep := [(0, 0)] }

/-- The directory after a step, where it goes on, has no entry 3. -/
def noEntryThree : Res → Bool
  | .next t => (t.directory.find 3).isNone
  | _ => false

theorem exec_sweep_strayEntry : noEntryThree (exec (.sparingSweepLine 0 0) strayEntry) = true := by decide +kernel

/-- Refutes O58: with a directory whose numbers do not rise, the entry that holds the address of a spoiled line is not found under its
number, and no tile is marked. -/
theorem not_reliability : ¬ Obligations.Reliability := by
  unfold Obligations.Reliability
  intro h
  obtain ⟨-, hsweep, -⟩ := h strayEntry
  obtain ⟨-, hswept⟩ := hsweep 0 0
  obtain ⟨t, hexec, -, -, hline⟩ := hswept ⟨(0, 0), by simp [strayEntry], rfl, rfl⟩
  obtain ⟨-, -, hspoilt⟩ := hline 0 (by decide +kernel) (by decide +kernel) (by decide +kernel)
  obtain ⟨-, htile⟩ := hspoilt (by simp [strayEntry, State.reset]) (by decide +kernel)
  obtain ⟨d, hfind, -⟩ := htile 3 0 (by decide +kernel) (by decide +kernel)
  have hnone := exec_sweep_strayEntry
  rw [hexec] at hnone
  have hgone : (t.directory.find 3).isNone = true := hnone
  rw [hfind] at hgone
  cases hgone

end Sys2Proof.Machine
end

section
/-!
PROOFS. What other devices ask for and answer (R222, R224, R252, R382, R386).
-/
namespace Sys2Proof.Machine

/-! ## Requests of other devices (R222, R224, R382, R386) -/

section
variable (s : State) (f ty : Nat) (psn : Bool) (d : List Byte)

theorem answerPacket_mem (x : InPacket) : (answerPacket s f x ty psn d).mem = s.mem := by
  unfold answerPacket
  dsimp only
  split <;> rfl

theorem answerPacket_atomReplies (x : InPacket) : (answerPacket s f x ty psn d).atomReplies = s.atomReplies := by
  unfold answerPacket
  dsimp only
  split <;> rfl

/-- An answer depends on the packet of the request and its link alone. -/
theorem answerPacket_congr {x y : InPacket} (hpkt : y.pkt = x.pkt) (hlink : y.link = x.link) :
    answerPacket s f y ty psn d = answerPacket s f x ty psn d := by
  unfold answerPacket
  rw [hpkt, hlink]

end

/-! ### The lines of a request -/

section
variable {s : State} {write : Bool} {act : LineAct}

/-- Lines whose time has not come wait. -/
theorem runLines_of_later (lines : List (Nat × Nat × Nat × Nat)) (x : InPacket) (h : ∀ ln ∈ lines, s.now < ln.1) :
    runLines write act lines x s = (s, { x with lines := x.lines ++ lines }) := by
  induction lines generalizing x with
  | nil => rw [List.append_nil]; rfl
  | cons ln lines ih =>
    obtain ⟨t, off, pa, len⟩ := ln
    rw [runLines, if_pos (h _ List.mem_cons_self), ih _ fun ln hln => h ln (List.mem_cons_of_mem _ hln), List.append_assoc]
    rfl

/-- No access to an address outside HBM waits for a re-encryption. -/
theorem blockedLine_of_not_hbm {pa : Nat} (h : isHbm pa = false) : blockedLine s write pa = (s, none) := by
  simp [blockedLine, reencrypting, h]

/-- The lines of a write whose time has come are written in their order, and none is left. -/
theorem runLines_write (lines : List (Nat × Nat × Nat × Nat)) (x : InPacket) (h : ∀ ln ∈ lines, ln.1 ≤ s.now ∧ isHbm ln.2.2.1 = false) :
    ∃ y, runLines true linkWriteLine lines x s =
        (writeRun s x.pkt.psn (lines.map fun ln => ⟨ln.2.1, ln.2.2.1, ln.2.2.2⟩) x.pkt.data, y) ∧
      y.lines = x.lines ∧ y.pkt = x.pkt ∧ y.link = x.link := by
  induction lines generalizing x s with
  | nil => exact ⟨x, rfl, rfl, rfl, rfl⟩
  | cons ln lines ih =>
    obtain ⟨t, off, pa, len⟩ := ln
    obtain ⟨htime, hhbm⟩ := h _ List.mem_cons_self
    rw [runLines, if_neg (Nat.not_lt.mpr htime), blockedLine_of_not_hbm hhbm]
    have hnow : (writeRun s x.pkt.psn [⟨off, pa, len⟩] x.pkt.data).now = s.now := (writeRun_cells ..).now_eq
    obtain ⟨y, hrun, hlines, hpkt, hlink⟩ := ih (s := writeRun s x.pkt.psn [⟨off, pa, len⟩] x.pkt.data)
      { x with
        got := (x.got ++ List.replicate (off - x.got.length) 0).take off ++ [] ++ (x.got ++ List.replicate (off - x.got.length) 0).drop (off + 0)
        psn := x.psn || false } fun ln hln => hnow.symm ▸ h ln (List.mem_cons_of_mem _ hln)
    exact ⟨y, hrun, hlines, hpkt, hlink⟩

/-- The one line of a request whose time has come acts, and what it reads is what the request has read. -/
theorem runLines_single {x : InPacket} {t pa len : Nat} (htime : t ≤ s.now) (hhbm : isHbm pa = false) (hgot : x.got = []) (hpsn : x.psn = false)
    {s2 : State} {d : List Byte} {p : Bool} (hact : act x ⟨0, pa, len⟩ s = (s2, d, p)) :
    runLines write act [(t, 0, pa, len)] x s = (s2, { x with got := d, psn := p }) := by
  rw [runLines, if_neg (Nat.not_lt.mpr htime), blockedLine_of_not_hbm hhbm]
  simp [hact, runLines, hgot, hpsn]

end

/-! ### Serving a request -/

section
variable {s : State} {id ty f : Nat} {write : Bool} {refused answer : Nat → InPacket → State → State} {act : LineAct} {x : InPacket}

/-- With its last line a request is answered. -/
theorem goOnPacket_of_done {s1 : State} {y : InPacket} (hrun : runLines write act x.lines { x with lines := [] } s = (s1, y)) (hy : y.lines = []) :
    goOnPacket id ty f write act answer x s = answer f y { s1 with pktIn := s1.pktIn.del id } := by
  unfold goOnPacket
  simp only [hrun, hy, List.map_nil]

theorem serve_of_refused (htake : takePacket s ty = some (id, x)) (hf : x.tfunc = none) (ha : admits s x write = none) :
    serve ty write refused act answer s = .next (refused 64 x { s with pktIn := s.pktIn.del id }) := by
  unfold serve
  simp only [htake, hf, ha]

theorem serve_of_admitted (htake : takePacket s ty = some (id, x)) (hf : x.tfunc = some f) :
    serve ty write refused act answer s = .next (goOnPacket id ty f write act answer x s) := by
  unfold serve
  simp only [htake, hf]

theorem serve_of_admits {e : Export} {s1 : State} {lines : List (Nat × Nat × Nat × Nat)} (htake : takePacket s ty = some (id, x))
    (hf : x.tfunc = none) (ha : admits s x write = some e) (hgrant : grantLines (linkPlace s x) (packetLines x.pkt) s = (s1, lines)) :
    serve ty write refused act answer s =
      .next (goOnPacket id ty e.tfunc write act answer { x with tfunc := some e.tfunc, lines := lines } s1) := by
  unfold serve
  simp only [htake, hf, ha, hgrant]

/-- The least of a list of cycles is one of them, and no later than any. -/
theorem foldl_min_spec (t : Nat) (ts : List Nat) : ts.foldl Nat.min t ∈ t :: ts ∧ ∀ u ∈ t :: ts, ts.foldl Nat.min t ≤ u := by
  induction ts generalizing t with
  | nil => simp
  | cons v ts ih =>
    obtain ⟨hmem, hle⟩ := ih (t.min v)
    rw [List.foldl_cons]
    have hmin : (ts.foldl Nat.min (t.min v)) ≤ t.min v := hle _ List.mem_cons_self
    have hcases : t.min v = t ∨ t.min v = v := min_choice t v
    refine ⟨?_, fun u hu => ?_⟩
    · rcases List.mem_cons.mp hmem with h | h
      · rw [h]
        rcases hcases with h | h <;> simp [h]
      · exact List.mem_cons_of_mem _ (List.mem_cons_of_mem _ h)
    · rcases List.mem_cons.mp hu with rfl | hu
      · exact hmin.trans (Nat.min_le_left ..)
      rcases List.mem_cons.mp hu with rfl | hu
      · exact hmin.trans (Nat.min_le_right ..)
      · exact hle _ (List.mem_cons_of_mem _ hu)

/-- A request none of whose lines has its time yet waits until the first of them (R382). -/
theorem goOnPacket_of_later (hne : x.lines ≠ []) (hlater : ∀ ln ∈ x.lines, s.now < ln.1) :
    ∃ t y, goOnPacket id ty f write act answer x s = t ∧ t.mem = s.mem ∧ t.pktIn.find id = some y ∧ y = { x with due := y.due } ∧
      (∀ ln ∈ x.lines, y.due ≤ ln.1) ∧ s.now < y.due ∧ DueAt t y.due (packetStep ty) := by
  have hrun : runLines write act x.lines { x with lines := [] } s = (s, x) := runLines_of_later x.lines { x with lines := [] } hlater
  obtain ⟨ln, rest, hlines⟩ := List.exists_cons_of_ne_nil hne
  have hgo : goOnPacket id ty f write act answer x s =
      State.due { s with pktIn := s.pktIn.put id { x with due := (rest.map (·.1)).foldl Nat.min ln.1 } }
        ((rest.map (·.1)).foldl Nat.min ln.1) (packetKey x.link ty) (packetStep ty) := by
    unfold goOnPacket
    rw [hrun]
    dsimp only
    rw [hlines]
    rfl
  obtain ⟨hmem, hle⟩ := foldl_min_spec ln.1 (rest.map (·.1))
  rw [← List.map_cons, ← hlines] at hmem hle
  refine ⟨_, _, hgo, rfl, Table.find_put_self .., rfl, fun l hl => hle _ (List.mem_map_of_mem hl), ?_, dueAt_due ..⟩
  obtain ⟨l, hl, hleast⟩ := List.mem_map.mp hmem
  exact lt_of_lt_of_eq (hlater l hl) hleast

end

/-- Giving the lines of a request their cycles keeps the time and memory. -/
theorem grantLines_frame (k : Nat) (l : List Span) (s : State) : (grantLines k l s).1.now = s.now ∧ (grantLines k l s).1.mem = s.mem := by
  induction l generalizing k s with
  | nil => exact ⟨rfl, rfl⟩
  | cons sp l ih =>
    have hone : (grantLine s k sp.pa).2.now = s.now ∧ (grantLine s k sp.pa).2.mem = s.mem := by
      unfold grantLine
      split <;> exact ⟨rfl, rfl⟩
    obtain ⟨hnow, hmem⟩ := ih (k + 1) (grantLine s k sp.pa).2
    exact ⟨hnow.trans hone.1, hmem.trans hone.2⟩

/-- What an admitted request of any kind comes to before its lines perform (R382). -/
theorem serve_admitted_spec {s : State} {id ty : Nat} {write : Bool} {refused answer : Nat → InPacket → State → State} {act : LineAct}
    {x : InPacket} (htake : takePacket s ty = some (id, x)) {e : Export} {s1 : State} {lines : List (Nat × Nat × Nat × Nat)}
    (hf : x.tfunc = none) (ha : admits s x write = some e) (hgrant : grantLines (linkPlace s x) (packetLines x.pkt) s = (s1, lines))
    (hne : lines ≠ []) (hlater : ∀ ln ∈ lines, s.now < ln.1) :
    ∃ t y, serve ty write refused act answer s = .next t ∧ t.mem = s.mem ∧ t.pktIn.find id = some y ∧
      y = { x with tfunc := some e.tfunc, lines := lines, due := y.due } ∧ (∀ ln ∈ lines, y.due ≤ ln.1) ∧
      s.now < y.due ∧ DueAt t y.due (packetStep ty) := by
  obtain ⟨hnow, hmem⟩ := grantLines_frame (linkPlace s x) (packetLines x.pkt) s
  rw [hgrant] at hnow hmem
  rw [serve_of_admits htake hf ha hgrant]
  obtain ⟨t, y, hgo, htmem, hfind, hy, hle, hlt, hdue⟩ :=
    goOnPacket_of_later (s := s1) (id := id) (ty := ty) (f := e.tfunc) (write := write) (act := act) (answer := answer)
      (x := { x with tfunc := some e.tfunc, lines := lines }) hne fun ln hln => hnow.symm ▸ hlater ln hln
  exact ⟨t, y, congrArg _ hgo, htmem.trans hmem, hfind, hy, hle, hnow ▸ hlt, hdue⟩

/-! ### The three kinds of requests -/

theorem exec_linkRead (s : State) : exec .linkRead s = serve 0 false (fun f x s => answerPacket s f x 3 false []) (fun _ sp s => readLine s sp.pa sp.len)
    (fun f x s => answerPacket s f x 3 x.psn x.got) s := rfl

theorem exec_linkWrite (s : State) : exec .linkWrite s =
    serve 1 true (fun f x s => answerPacket s f x 4 true []) linkWriteLine (fun f x s => answerPacket s f x 4 false []) s := rfl

theorem exec_linkAtomic (s : State) : exec .linkAtomic s =
    serve 2 true (fun f x s => answerPacket s f x 5 false []) linkAtomicLine (fun f x s => answerPacket s f x 5 x.psn x.got) s := rfl

section
variable {s : State} {id f : Nat} {x : InPacket}

/-- A write whose lines have come to their time performs and is acknowledged (R382). -/
theorem linkWrite_performed (htake : takePacket s 1 = some (id, x)) (hf : x.tfunc = some f)
    (hlines : ∀ ln ∈ x.lines, ln.1 ≤ s.now ∧ isHbm ln.2.2.1 = false) :
    let w := writeRun s x.pkt.psn (x.lines.map fun ln => ⟨ln.2.1, ln.2.2.1, ln.2.2.2⟩) x.pkt.data
    exec .linkWrite s = .next (answerPacket { w with pktIn := Table.del w.pktIn id } f x 4 false []) := by
  intro w
  obtain ⟨y, hrun, hnone, hpkt, hlink⟩ := runLines_write x.lines { x with lines := [] } hlines
  rw [exec_linkWrite, serve_of_admitted htake hf, goOnPacket_of_done hrun hnone]
  exact congrArg _ (answerPacket_congr _ _ _ _ _ hpkt hlink)

/-- A request of one line, whose time has come, acts and is answered with what it has read. -/
theorem serve_single {ty k : Nat} {write : Bool} {refused : Nat → InPacket → State → State} {act : LineAct} {u pa len : Nat}
    (htake : takePacket s ty = some (id, x)) (hf : x.tfunc = some f) (hlines : x.lines = [(u, 0, pa, len)]) (hu : u ≤ s.now)
    (hgot : x.got = []) (hpsn : x.psn = false) (hhbm : isHbm pa = false) {s2 : State} {d : List Byte} {p : Bool}
    (hact : act { x with lines := [] } ⟨0, pa, len⟩ s = (s2, d, p)) :
    serve ty write refused act (fun f x s => answerPacket s f x k x.psn x.got) s =
      .next (answerPacket { s2 with pktIn := Table.del s2.pktIn id } f x k p d) := by
  have hrun : runLines write act x.lines { x with lines := [] } s = (s2, { x with lines := [], got := d, psn := p }) := by
    rw [hlines]
    exact runLines_single (x := { x with lines := [] }) hu hhbm hgot hpsn hact
  rw [serve_of_admitted htake hf, goOnPacket_of_done hrun rfl]
  exact congrArg _ (answerPacket_congr _ _ _ _ _ rfl rfl)

/-- A read of a good scratchpad line is answered with its bytes (R382). -/
theorem linkRead_answered {u : Nat} (htake : takePacket s 0 = some (id, x)) (hf : x.tfunc = some f)
    (hlines : x.lines = [(u, 0, x.pkt.addr, x.pkt.len)]) (hu : u ≤ s.now) (hgot : x.got = []) (hpsn : x.psn = false)
    (hs : isScratch x.pkt.addr = true) (hhbm : isHbm x.pkt.addr = false) (hflaws : s.flaws = []) :
    exec .linkRead s = .next (answerPacket { s with pktIn := Table.del s.pktIn id } f x 3 (poisoned s x.pkt.addr)
      (readBytes s x.pkt.addr x.pkt.len)) := by
  rw [exec_linkRead]
  refine serve_single htake hf hlines hu hgot hpsn hhbm ?_
  exact readLine_of_good _ hs (by rw [hflaws]; rfl)

/-- The words of the data of an atomic. -/
def packetWord (p : Packet) (k : Nat) : BitVec 32 := BitVec.ofNat 32 (leNat ((p.data.drop (4 * k)).take 4))

/-- An atomic of 12 bytes runs as one of R221. -/
theorem linkAtomicLine_of_length {sp : Span} (hlen : x.pkt.data.length = 12) {s1 : State} {m : BitVec 32} {psn : Bool}
    (hrun : runAtomic s linkTarget (x.pkt.srcDev * 256 + x.pkt.srcCore) x.pkt.reqId x.pkt.addr x.pkt.aop (packetWord x.pkt 2 != 0)
      (packetWord x.pkt 0) (packetWord x.pkt 1) = (s1, m, psn)) : linkAtomicLine x sp s = (s1, leBytes 4 m.toNat, psn) := by
  unfold packetWord at hrun
  unfold linkAtomicLine
  dsimp only
  rw [hlen, if_neg (by decide), hrun]

section
variable {u : Nat} (htake : takePacket s 2 = some (id, x)) (hf : x.tfunc = some f) (hlines : x.lines = [(u, 0, x.pkt.addr, 4)])
  (hu : u ≤ s.now) (hgot : x.got = []) (hpsn : x.psn = false) (hs : isScratch x.pkt.addr = true) (hhbm : isHbm x.pkt.addr = false)
  (hlen : x.pkt.data.length = 12)
include htake hf hlines hu hgot hpsn hhbm hlen

/-- An atomic that has been executed before gets the same reply (R224). -/
theorem linkAtomic_repeated {r : BitVec 32} (hr : storedReply s linkTarget (x.pkt.srcDev * 256 + x.pkt.srcCore) x.pkt.reqId = some r) :
    exec .linkAtomic s = .next (answerPacket { s with pktIn := Table.del s.pktIn id } f x 5 false (leBytes 4 r.toNat)) := by
  rw [exec_linkAtomic]
  exact serve_single htake hf hlines hu hgot hpsn hhbm (linkAtomicLine_of_length hlen (runAtomic_kept hr))

include hs

/-- An atomic on a good word of a scratchpad executes once (R221, R224). -/
theorem linkAtomic_executed (hflaws : s.flaws = []) (hinv : s.Inv) (hpo : poisoned s x.pkt.addr = false)
    (hnone : storedReply s linkTarget (x.pkt.srcDev * 256 + x.pkt.srcCore) x.pkt.reqId = none) :
    let old := wordAt s x.pkt.addr
    ∃ t, exec .linkAtomic s = .next t ∧ storedReply t linkTarget (x.pkt.srcDev * 256 + x.pkt.srcCore) x.pkt.reqId = some old ∧
      readBytes t x.pkt.addr 4 =
        leBytes 4 (atomicNew x.pkt.aop (packetWord x.pkt 2 != 0) old (packetWord x.pkt 0) (packetWord x.pkt 1)).toNat ∧
      (∀ a, a < x.pkt.addr ∨ x.pkt.addr + 4 ≤ a → readByte t a = readByte s a) ∧
      ∃ w : State, t = answerPacket { w with pktIn := Table.del w.pktIn id } f x 5 false (leBytes 4 old.toNat) := by
  intro old
  obtain ⟨w, hrun, -, hmem, hkept⟩ := runAtomic_fresh (op := x.pkt.aop) (a := packetWord x.pkt 0) (b := packetWord x.pkt 1)
    (sg := packetWord x.pkt 2 != 0) hs (by rw [hflaws]; rfl) hpo hnone
  have hexec : exec .linkAtomic s = .next (answerPacket { w with pktIn := Table.del w.pktIn id } f x 5 false (leBytes 4 old.toNat)) := by
    rw [exec_linkAtomic]
    exact serve_single htake hf hlines hu hgot hpsn hhbm (linkAtomicLine_of_length hlen hrun)
  generalize hnew : atomicNew x.pkt.aop (packetWord x.pkt 2 != 0) old (packetWord x.pkt 0) (packetWord x.pkt 1) = v at *
  have hbytes : (leBytes 4 v.toNat).length = 4 := length_bytesOfNat 4 v.toNat
  have hmem' : (answerPacket { w with pktIn := Table.del w.pktIn id } f x 5 false (leBytes 4 old.toNat)).mem =
      (writeBytes s x.pkt.addr (leBytes 4 v.toNat)).mem :=
    (answerPacket_mem ..).trans (hmem.trans (by rw [← hnew]))
  refine ⟨_, hexec, ?_, ?_, fun a ha => ?_, w, rfl⟩
  · exact (storedReply_congr (answerPacket_atomReplies ..) ..).trans hkept
  · rw [readBytes_congr hmem']
    have h := readBytes_writeBytes hinv x.pkt.addr (leBytes 4 v.toNat)
    rwa [hbytes] at h
  · exact (congrArg (Table.get 0 · a) hmem').trans (readByte_writeBytes_outside hinv _ _ (by rwa [hbytes]))

end

end

/-! ## Answers of other devices (R252, R382, R386) -/

section
variable {s : State} {id ty request : Nat} {act : Nat → Remote → Access → Piece → Packet → State → State} {y : InPacket}

theorem takeAnswer_of_none (htake : takePacket s ty = some (id, y)) (hr : remoteOf s y.pkt request = none) :
    takeAnswer ty request act s = .next { s with pktIn := Table.del s.pktIn id } := by
  unfold takeAnswer
  simp only [htake, hr]

theorem takeAnswer_of_some {k : Nat} {r : Remote} {a : Access} {q : Piece} (htake : takePacket s ty = some (id, y))
    (hr : remoteOf s y.pkt request = some (k, r)) (ha : s.accesses.find r.access = some a) (hq : a.pieces[r.piece]? = some q) :
    takeAnswer ty request act s =
      .next (act k r a q y.pkt { s with pktIn := Table.del s.pktIn id, remotes := Table.del s.remotes k }) := by
  unfold takeAnswer
  simp only [htake, hr, ha, hq]

end

theorem exec_readReply (s : State) : exec .readReply s = takeAnswer 3 0 (fun _ r x q p s =>
    if p.len = 0 && q.len ≠ 0 then refuseRemote s r.access x r.piece q
    else donePiece s r.access x r.piece { q with bytes := p.data.map some, poisoned := p.psn } s.now) s := rfl

theorem exec_atomicReply (s : State) : exec .atomicReply s = takeAnswer 5 2 (fun _ r x q p s =>
    if p.len = 0 then refuseRemote s r.access x r.piece q
    else
      donePiece s r.access { x with old := BitVec.ofNat 32 (leNat p.data) } r.piece
        { q with bytes := p.data.map some, poisoned := p.psn } s.now) s := rfl

theorem exec_writeAcknowledgment (s : State) : exec .writeAcknowledgment s = takeAnswer 4 1 (fun _ r x q p s =>
    donePiece (if p.psn then countLinkErr s r.func else s) r.access x r.piece q s.now) s := rfl

/-- A piece that is done is done in its access, which goes on (R246). -/
theorem donePiece_piece (s : State) {n a : Nat} {x : Access} {q : Piece} (hq : x.pieces[n]? = some q) :
    ∃ t y, donePiece s a x n q s.now = t ∧ t.accesses.find a = some y ∧ y.done = x.done ∧
      y.pieces[n]? = some { q with done := true } ∧ t.mem = s.mem := by
  refine ⟨_, _, rfl, find_donePiece .., rfl, ?_, (donePiece_lines ..).1⟩
  have hn : n < x.pieces.length := (List.getElem?_eq_some_iff.mp hq).1
  exact List.getElem?_set_self hn

/-! ## O60 -/

section
variable {s : State} {id ty : Nat} {y : InPacket}

/-- A request is refused or let in (R382). -/
theorem linkRequest (htake : takePacket s ty = some (id, y)) {i : Instr} {k : Nat} {psn write : Bool} {act : LineAct}
    {answer : Nat → InPacket → State → State}
    (hexec : exec i s = serve ty write (fun f x s => answerPacket s f x k psn []) act answer s) (hi : packetStep ty = i) :
    (y.tfunc = none → admits s y write = none →
      exec i s = .next (answerPacket { s with pktIn := Table.del s.pktIn id } 64 y k psn []) ∧
        (answerPacket { s with pktIn := Table.del s.pktIn id } 64 y k psn []).mem = s.mem) ∧
    (∀ e s1 lines, y.tfunc = none → admits s y write = some e →
      grantLines (linkPlace s y) (packetLines y.pkt) s = (s1, lines) → lines ≠ [] → (∀ ln ∈ lines, s.now < ln.1) →
      ∃ t z, exec i s = .next t ∧ t.mem = s.mem ∧ t.pktIn.find id = some z ∧
        z = { y with tfunc := some e.tfunc, lines := lines, due := z.due } ∧ (∀ ln ∈ lines, z.due ≤ ln.1) ∧
        s.now < z.due ∧ DueAt t z.due i) := by
  rw [hexec, ← hi]
  exact ⟨fun hf ha => ⟨serve_of_refused htake hf ha, answerPacket_mem ..⟩, fun e s1 lines => serve_admitted_spec htake⟩

/-- The three requests (R382). -/
theorem linkRequests (htake : takePacket s ty = some (id, y)) :
    let gone : State → State := fun t => { t with pktIn := Table.del t.pktIn id }
    ∀ q ∈ ([(0, .linkRead, 3, false), (1, .linkWrite, 4, true), (2, .linkAtomic, 5, false)] : List (Nat × Instr × Nat × Bool)),
      ty = q.1 →
        (y.tfunc = none → admits s y (decide (ty ≠ 0)) = none →
          exec q.2.1 s = .next (answerPacket (gone s) 64 y q.2.2.1 q.2.2.2 []) ∧
            (answerPacket (gone s) 64 y q.2.2.1 q.2.2.2 []).mem = s.mem) ∧
        (∀ e s1 lines, y.tfunc = none → admits s y (decide (ty ≠ 0)) = some e →
          grantLines (linkPlace s y) (packetLines y.pkt) s = (s1, lines) → lines ≠ [] → (∀ ln ∈ lines, s.now < ln.1) →
          ∃ t z, exec q.2.1 s = .next t ∧ t.mem = s.mem ∧ t.pktIn.find id = some z ∧
            z = { y with tfunc := some e.tfunc, lines := lines, due := z.due } ∧ (∀ ln ∈ lines, z.due ≤ ln.1) ∧
            s.now < z.due ∧ DueAt t z.due q.2.1) := by
  intro gone q hq hty
  simp only [List.mem_cons, List.not_mem_nil, or_false] at hq
  rcases hq with rfl | rfl | rfl
  · subst hty
    exact linkRequest htake (exec_linkRead s) rfl
  · subst hty
    exact linkRequest htake (exec_linkWrite s) rfl
  · subst hty
    exact linkRequest htake (exec_linkAtomic s) rfl

/-- An answer to no outstanding request changes nothing (R382). -/
theorem linkAnswers_unasked (htake : takePacket s ty = some (id, y)) :
    ∀ q ∈ ([(3, .readReply, 0), (4, .writeAcknowledgment, 1), (5, .atomicReply, 2)] : List (Nat × Instr × Nat)),
      ty = q.1 → remoteOf s y.pkt q.2.2 = none → exec q.2.1 s = .next { s with pktIn := Table.del s.pktIn id } := by
  intro q hq hty hnone
  simp only [List.mem_cons, List.not_mem_nil, or_false] at hq
  rcases hq with rfl | rfl | rfl <;> subst hty
  · exact (exec_readReply s).trans (takeAnswer_of_none htake hnone)
  · exact (exec_writeAcknowledgment s).trans (takeAnswer_of_none htake hnone)
  · exact (exec_atomicReply s).trans (takeAnswer_of_none htake hnone)

section
variable {k : Nat} {r : Remote} {a : Access} {q : Piece} (ha : s.accesses.find r.access = some a) (hq : a.pieces[r.piece]? = some q)
include ha hq

theorem writeAcknowledgment_answer (htake : takePacket s 4 = some (id, y)) (hr : remoteOf s y.pkt 1 = some (k, r)) :
    let s2 := { s with pktIn := Table.del s.pktIn id, remotes := Table.del s.remotes k }
    exec .writeAcknowledgment s =
      .next (donePiece (if y.pkt.psn = true then countLinkErr s2 r.func else s2) r.access a r.piece q s.now) :=
  (exec_writeAcknowledgment s).trans (takeAnswer_of_some htake hr ha hq)

/-- The answer of a read: its data is there, or the request learns that it was refused (R216, R382). -/
theorem readReply_answer (htake : takePacket s 3 = some (id, y)) (hr : remoteOf s y.pkt 0 = some (k, r)) :
    let p := y.pkt
    let s2 := { s with pktIn := Table.del s.pktIn id, remotes := Table.del s.remotes k }
    (p.len ≠ 0 → exec .readReply s = .next (donePiece s2 r.access a r.piece
      { q with bytes := p.data.map some, poisoned := p.psn } s.now)) ∧
    (p.len = 0 → q.len ≠ 0 → a.role = .slot → exec .readReply s = .next (donePiece (refuseRequest s2 a r.access q.pa) r.access a
      r.piece { q with bytes := List.replicate q.len (some 0) } s.now)) ∧
    (p.len = 0 → q.len ≠ 0 → a.role = .engine → a.kind = .read → exec .readReply s =
      .next (elementFault { s2 with accesses := Table.del s2.accesses r.access } a 7 3 q.pa)) := by
  intro p s2
  have hexec : exec .readReply s = .next (if p.len = 0 && q.len ≠ 0 then refuseRemote s2 r.access a r.piece q
      else donePiece s2 r.access a r.piece { q with bytes := p.data.map some, poisoned := p.psn } s2.now) :=
    (exec_readReply s).trans (takeAnswer_of_some htake hr ha hq)
  refine ⟨fun hlen => ?_, fun hlen hq0 hrole => ?_, fun hlen hq0 hrole hread => ?_⟩
  · rw [hexec, if_neg (by simp [hlen])]
  · rw [hexec, if_pos (by simp [hlen, hq0])]
    unfold refuseRemote
    simp only [hrole]
    rfl
  · rw [hexec, if_pos (by simp [hlen, hq0])]
    unfold refuseRemote
    simp only [hrole, hread, beq_self_eq_true, if_true]

theorem atomicReply_answer (htake : takePacket s 5 = some (id, y)) (hr : remoteOf s y.pkt 2 = some (k, r)) (hlen : y.pkt.len ≠ 0) :
    let p := y.pkt
    exec .atomicReply s = .next (donePiece { s with pktIn := Table.del s.pktIn id, remotes := Table.del s.remotes k } r.access
      { a with old := BitVec.ofNat 32 (leNat p.data) } r.piece { q with bytes := p.data.map some, poisoned := p.psn } s.now) := by
  intro p
  rw [exec_atomicReply, takeAnswer_of_some htake hr ha hq, if_neg hlen]

end

end

/-- Settles O60, kind of packet by kind of packet. -/
theorem linkPackets : Obligations.LinkPackets := by
  unfold Obligations.LinkPackets
  refine ⟨fun s id ty x htake hkind => ⟨linkRequests htake, ?_, ?_, ?_⟩, fun s id ty y htake => ⟨linkAnswers_unasked htake, ?_⟩,
    fun s a n x q hq _ _ => donePiece_piece s hq⟩
  · rintro f rfl hf hlines
    exact ⟨linkWrite_performed htake hf hlines, fun y k psn d => answerPacket_mem ..⟩
  · rintro f u rfl hf hlines hu hgot hpsn hs hhbm hflaws
    exact linkRead_answered htake hf hlines hu hgot hpsn hs hhbm hflaws
  · rintro f u rfl hf hlines hu hgot hpsn hs hhbm hflaws hlen
    exact ⟨fun r hr => linkAtomic_repeated htake hf hlines hu hgot hpsn hhbm hlen hr,
      fun hnone hinv hpo => linkAtomic_executed htake hf hlines hu hgot hpsn hs hhbm hlen hflaws hinv hpo hnone⟩
  · intro k r a q ha hq
    refine ⟨?_, ?_, ?_⟩
    · rintro rfl hr
      exact writeAcknowledgment_answer ha hq htake hr
    · rintro rfl hr
      exact readReply_answer ha hq htake hr
    · rintro rfl hr hlen
      exact atomicReply_answer ha hq htake hr hlen

end Sys2Proof.Machine
end

section
/-!
PROOFS. Links: flits, replay, lanes, control messages, and links that go down (R384 to R392).
-/
namespace Sys2Proof.Machine

/-! ## Links -/

theorem link_updLink (s : State) (l : Nat) (u : Link → Link) (l' : Nat) :
    (s.updLink l u).link l' = if l' = l then u (s.link l) else s.link l' :=
  Table.get_put ..

theorem link_updLink_self (s : State) (l : Nat) (u : Link → Link) : (s.updLink l u).link l = u (s.link l) := Table.get_put_self ..

theorem link_updLink_twice (s : State) (l : Nat) (u v : Link → Link) : ((s.updLink l u).updLink l v).link l = v (u (s.link l)) := by
  rw [link_updLink_self, link_updLink_self]

/-! ### Flit times (R384, R387) -/

/-- What a flit time looks at of the state beside the link. -/
theorem sendFlit_congr {s t : State} (h : t = { s with links := t.links, agenda := t.agenda }) (l : Nat) (k : Link) :
    sendFlit t l k = sendFlit s l k := by
  have hcount : t.domCount = s.domCount := by rw [h]
  have haligned : t.aligned = s.aligned := by rw [h]
  have hsched : t.lschedNow = s.lschedNow := by rw [h]
  unfold sendFlit chooseFlit
  rw [hcount, haligned, hsched]

/-- A link after a flit time. -/
def linkAfter (s : State) (l : Nat) : Link := if (s.link l).up then sendFlit s l (s.link l) else s.link l

theorem linkFlitTime_spec (s : State) (l : Nat) :
    linkFlitTime s l = { s with links := (linkFlitTime s l).links, agenda := (linkFlitTime s l).agenda } ∧
      ∀ j, (linkFlitTime s l).link j = if j = l then linkAfter s l else s.link j := by
  by_cases hup : (s.link l).up = true
  · have hstate : ∃ a, linkFlitTime s l = State.withAgenda { s with links := Table.put s.links l (sendFlit s l (s.link l)) } a := by
      refine ⟨linkFlitTime s l, ?_⟩
      unfold linkFlitTime
      dsimp only
      rw [if_neg (by simp [hup])]
      refine withAgenda_trans (b := match (s.link l).spareAt with
        | some a => if ((s.link l).heard && seqFrom a (s.link l).seqOut) = true
          then State.dueOnce { s with links := Table.put s.links l (sendFlit s l (s.link l)) } s.now 20 (.laneSpareSwitch l)
          else { s with links := Table.put s.links l (sendFlit s l (s.link l)) }
        | none => { s with links := Table.put s.links l (sendFlit s l (s.link l)) }) ?_ ?_
      · split
        · split
          · exact dueOnce_withAgenda ..
          · rfl
        · rfl
      · split
        · exact dueOnce_withAgenda ..
        · rfl
    obtain ⟨a, ha⟩ := hstate
    rw [ha]
    refine ⟨rfl, fun j => ?_⟩
    rw [linkAfter, if_pos hup]
    exact Table.get_put ..
  · have hstate : linkFlitTime s l = s := if_pos (by simp [hup])
    rw [hstate]
    refine ⟨rfl, fun j => ?_⟩
    split
    · next h => rw [h, linkAfter, if_neg hup]
    · rfl

/-- At a flit time every link of the module goes on, and nothing else changes (R384). -/
theorem flitTime_links (s : State) (n : Nat) :
    let t := (List.range n).foldl linkFlitTime s
    t = { s with links := t.links, agenda := t.agenda } ∧ ∀ j, t.link j = if j < n then linkAfter s j else s.link j := by
  induction n with
  | zero => exact ⟨rfl, fun j => rfl⟩
  | succ n ih =>
    rw [List.range_succ, List.foldl_append]
    generalize (List.range n).foldl linkFlitTime s = t at ih ⊢
    obtain ⟨hstate, hlinks⟩ := ih
    obtain ⟨hstate', hlinks'⟩ := linkFlitTime_spec t n
    refine ⟨?_, fun j => ?_⟩
    · show linkFlitTime t n = _
      rw [hstate', hstate]
      rfl
    · show (linkFlitTime t n).link j = _
      rw [hlinks' j]
      by_cases hj : j = n
      · have hn : t.link n = s.link n := (hlinks n).trans (if_neg (Nat.lt_irrefl n))
        rw [if_pos hj, if_pos (by omega), hj, linkAfter, linkAfter, hn, sendFlit_congr hstate]
      · rw [if_neg hj, hlinks j]
        by_cases hlt : j < n
        · rw [if_pos hlt, if_pos (by omega)]
        · rw [if_neg hlt, if_neg (by omega)]

section
variable {s : State} {l : Nat} {k : Link}

/-- A flit to be replayed goes first (R387). -/
theorem sendFlit_replay {x : BitVec 1792} {xs : List (BitVec 1792)} (hr : k.replay = x :: xs) :
    sendFlit s l k = { k with replay := xs, last := some (stampFlit k (renewFlit s.domCount x)), nakDue := false } := by
  unfold sendFlit
  rw [hr]

/-- With 512 flits unacknowledged nothing is sent (R387). -/
theorem sendFlit_full (hr : k.replay = []) (hfull : 512 ≤ k.unacked.length) : sendFlit s l k = { k with last := none } := by
  unfold sendFlit
  rw [hr]
  exact if_pos hfull

/-- A new flit has the next SEQ and is kept (R384, R387). -/
theorem sendFlit_new (hr : k.replay = []) (hroom : k.unacked.length < 512) :
    ∃ x, (sendFlit s l k).last = some (stampFlit k x) ∧ (sendFlit s l k).unacked = k.unacked ++ [(k.seqOut, x)] ∧
      (sendFlit s l k).seqOut = (k.seqOut + 1) % 4096 ∧ (sendFlit s l k).nakDue = false := by
  unfold sendFlit
  rw [hr]
  dsimp only
  rw [if_neg (Nat.not_le.mpr hroom)]
  exact ⟨_, rfl, rfl, rfl, rfl⟩

end

/-- R384, R387: what a flit time does. -/
theorem exec_flitTime (s : State) :
    ∃ t, exec .flitTime s = .next t ∧ DueAt t (s.now + 6) .flitTime ∧ t.mem = s.mem ∧ t.cores = s.cores ∧
      ∀ l < 24, t.link l = linkAfter s l := by
  obtain ⟨hstate, hlinks⟩ := flitTime_links s moduleLinks
  have hexec : exec .flitTime s = .next (((List.range moduleLinks).foldl linkFlitTime s).due (s.now + 6) 0 .flitTime) := rfl
  generalize (List.range moduleLinks).foldl linkFlitTime s = t at hstate hlinks hexec
  refine ⟨_, hexec, dueAt_due .., ?_, ?_, fun l hl => ?_⟩
  · show t.mem = _
    rw [hstate]
  · show t.cores = _
    rw [hstate]
  · exact (hlinks l).trans (if_pos hl)

/-! ### A flit is received (R385 to R387) -/

/-- A link with the packets in transmission that another receives, and what it knows of the other end's alignment. -/
def Link.withParts (k j : Link) : Link := { k with inParts := j.inParts, apart := j.apart }

/-- What an accepted flit carries touches nothing of its link but what `Link.withParts` names, nor memory and the cores. -/
structure Opens (s t : State) : Prop where
  mem : t.mem = s.mem
  cores : t.cores = s.cores
  link : ∀ l, t.link l = (s.link l).withParts (t.link l)

theorem Opens.of_sameLinks {s t : State} (hm : t.mem = s.mem) (hc : t.cores = s.cores) (hl : t.links = s.links) : Opens s t := by
  refine ⟨hm, hc, fun l => ?_⟩
  have hlink : t.link l = s.link l := congrArg (fun x => Table.get Link.reset x l) hl
  rw [hlink]
  rfl

theorem Opens.refl (s : State) : Opens s s := .of_sameLinks rfl rfl rfl

theorem Opens.trans {a b c : State} (h1 : Opens a b) (h2 : Opens b c) : Opens a c :=
  ⟨h2.mem.trans h1.mem, h2.cores.trans h1.cores, fun l => by rw [h2.link l, h1.link l]; rfl⟩

theorem Opens.foldl {α : Type} {f : State → α → State} (hf : ∀ s a, Opens s (f s a)) (l : List α) (s : State) : Opens s (l.foldl f s) := by
  induction l generalizing s with
  | nil => exact .refl s
  | cons a l ih => exact (hf s a).trans (ih _)

theorem updLink_opens (s : State) (l : Nat) (u : Link → Link) (hu : ∀ k, u k = k.withParts (u k)) : Opens s (s.updLink l u) := by
  refine ⟨rfl, rfl, fun j => ?_⟩
  rw [link_updLink]
  split
  · next h => rw [h]; exact hu _
  · rfl

theorem due_opens (s : State) (t k : Nat) (i : Instr) : Opens s (s.due t k i) := .of_sameLinks rfl rfl rfl

theorem receivePacket_opens (l : Nat) (s : State) (p : Packet) : Opens s (receivePacket l s p) := .of_sameLinks rfl rfl rfl

theorem receiveMessages_opens (l : Nat) (ms : List (BitVec 128)) (s : State) : Opens s (receiveMessages l ms s) := by
  induction ms generalizing s with
  | nil => exact .refl s
  | cons m ms ih =>
    rw [receiveMessages]
    split
    · exact due_opens ..
    · split
      · refine Opens.trans ?_ (ih _)
        exact .of_sameLinks rfl rfl rfl
      · exact ih _

theorem openFlit_opens (s : State) (l : Nat) (x : BitVec 1792) : Opens s (openFlit s l x) := by
  have haligned : Opens s (if flitKind x = 1 then s else s.updLink l fun k => { k with apart := false }) := by
    split
    · exact .refl s
    · exact updLink_opens _ _ _ fun _ => rfl
  unfold openFlit
  dsimp only
  generalize (if flitKind x = 1 then s else s.updLink l fun k => { k with apart := false }) = s1 at haligned ⊢
  refine haligned.trans ?_
  split
  · have hpackets : ∀ ps parts, Opens s1 (List.foldl (receivePacket l) (s1.updLink l fun k => { k with inParts := parts }) ps) :=
      fun ps parts => (updLink_opens _ _ _ fun _ => rfl).trans (.foldl (receivePacket_opens l) _ _)
    split
    · exact (hpackets _ _).trans (due_opens ..)
    · exact hpackets _ _
  · exact receiveMessages_opens ..
  · exact .refl s1
  · exact due_opens ..

section
variable {s : State} {l : Nat} {flit : BitVec 1792}

/-- A link that is not of the module, or that is down and not trained, receives nothing. -/
theorem exec_flitReceive_none (h : 24 ≤ l ∨ ((s.link l).up = false ∧ trains (s.link l) flit = false)) :
    exec (.flitReceive l flit) s = .next s := by
  show execFlitReceive l flit s = _
  have hstays : (if (trains (s.link l) flit && l < moduleLinks) = true then trainLink s l else s) = s := by
    refine if_neg ?_
    rcases h with h | ⟨-, h⟩
    · simp [moduleLinks, Nat.not_lt.mpr h]
    · simp [h]
  unfold execFlitReceive
  rw [hstays]
  refine if_pos ?_
  rcases h with h | ⟨h, -⟩
  · simp [moduleLinks, h]
  · simp [h]

/-- The state in which a flit is looked at: a link that it trains has been trained. -/
def trained (s : State) (l : Nat) (flit : BitVec 1792) : State := if trains (s.link l) flit && l < moduleLinks then trainLink s l else s

theorem trained_of_up (hup : (s.link l).up = true) : trained s l flit = s := by
  unfold trained trains
  rw [hup]
  rfl

/-- A state in which the acknowledgment fields of a flit have been looked at (R387). -/
def tookAck (s : State) (l : Nat) (flit : BitVec 1792) : State :=
  { s with links := Table.put s.links l { takeAck (s.link l) flit with lastFlit := s.now } }

/-- A state in which a flit has been counted as received (R387, R388). -/
def counted (s : State) (l : Nat) (flit : BitVec 1792) : State :=
  let s2 := (tookAck s l flit).updLink l fun k => { k with seqIn := (k.seqIn + 1) % 4096, ackIn := true }
  if (s.link l).switchAt = some (flitSeq flit) then s2.dueOnce s.now 20 (.laneSpareSwitch l) else s2

/-- How a link that is up receives a flit (R387). -/
theorem exec_flitReceive_up (hup : ((trained s l flit).link l).up = true) (hl : l < 24) :
    exec (.flitReceive l flit) s = .next (
      if flitGood flit = false then (trained s l flit).updLink l fun k => { k with nakDue := true }
      else if flitSeq flit = ((trained s l flit).link l).seqIn then openFlit (counted (trained s l flit) l flit) l flit
      else if seqFrom ((trained s l flit).link l).seqIn (flitSeq flit) = true then
        (tookAck (trained s l flit) l flit).updLink l fun k => { k with nakDue := true }
      else tookAck (trained s l flit) l flit) := by
  show execFlitReceive l flit s = _
  unfold execFlitReceive trained at *
  dsimp only
  generalize (if (trains (s.link l) flit && l < moduleLinks) = true then trainLink s l else s) = r at hup ⊢
  rw [if_neg (by rw [hup, decide_eq_false (show ¬moduleLinks ≤ l by unfold moduleLinks; omega)]; decide)]
  by_cases hgood : flitGood flit = false
  · rw [if_pos (by simp [hgood]), if_pos hgood]
  rw [if_neg (by simp [hgood]), if_neg hgood]
  by_cases hseq : flitSeq flit = (r.link l).seqIn
  · rw [if_pos hseq, if_pos hseq]
    rfl
  rw [if_neg hseq, if_neg hseq]
  by_cases hfrom : seqFrom (r.link l).seqIn (flitSeq flit) = true
  · rw [if_pos hfrom, if_pos hfrom]
    rfl
  · rw [if_neg hfrom, if_neg hfrom]
    rfl

theorem tookAck_link (s : State) (l : Nat) (flit : BitVec 1792) :
    (tookAck s l flit).link l = { takeAck (s.link l) flit with lastFlit := s.now } := Table.get_put_self ..

theorem takeAck_fields (k : Link) (flit : BitVec 1792) :
    (takeAck k flit).seqIn = k.seqIn ∧ (takeAck k flit).up = k.up ∧ (takeAck k flit).lanesFailed = k.lanesFailed := by
  unfold takeAck
  split <;> split <;> exact ⟨rfl, rfl, rfl⟩

/-- A NAK asks for all that is not acknowledged (R387). -/
theorem takeAck_nak {k : Link} {flit : BitVec 1792} (hnak : flitNak flit = true) (hack : flitAckV flit = false) :
    (takeAck k flit).replay = k.unacked.map (·.2) := by
  unfold takeAck
  simp [hnak, hack]

theorem takeAck_none {k : Link} {flit : BitVec 1792} (hk : k.unacked = []) : (takeAck k flit).unacked = [] := by
  have hacked : ackFlits k (flitAck flit) = [] := by
    unfold ackFlits
    simp [hk]
  unfold takeAck
  rw [hacked]
  split
  · split <;> rfl
  · split <;> exact hk

/-- A flit that is accepted has been counted, and what it carries has been looked at. -/
theorem openFlit_counted (s : State) (l : Nat) (flit : BitVec 1792) :
    let t := openFlit (counted s l flit) l flit
    t.mem = s.mem ∧ t.cores = s.cores ∧ ∃ j, t.link l = Link.withParts
      { takeAck (s.link l) flit with
        lastFlit := s.now, seqIn := ((s.link l).seqIn + 1) % 4096, ackIn := true } j := by
  intro t
  have hcounted : counted s l flit =
      ((tookAck s l flit).updLink l fun k => { k with seqIn := (k.seqIn + 1) % 4096, ackIn := true }).withAgenda (counted s l flit) := by
    unfold counted
    dsimp only
    split
    · exact dueOnce_withAgenda ..
    · rfl
  have hlink : (counted s l flit).link l = { takeAck (s.link l) flit with
      lastFlit := s.now, seqIn := ((s.link l).seqIn + 1) % 4096, ackIn := true } := by
    rw [hcounted]
    have hself := link_updLink_self (tookAck s l flit) l fun k => { k with seqIn := (k.seqIn + 1) % 4096, ackIn := true }
    rw [tookAck_link] at hself
    refine Eq.trans hself ?_
    show { takeAck (s.link l) flit with
      lastFlit := s.now, seqIn := ((takeAck (s.link l) flit).seqIn + 1) % 4096, ackIn := true } = _
    rw [(takeAck_fields ..).1]
  have hopens := openFlit_opens (counted s l flit) l flit
  refine ⟨hopens.mem.trans ?_, hopens.cores.trans ?_, t.link l, ?_⟩
  · rw [hcounted]
    rfl
  · rw [hcounted]
    rfl
  · rw [← hlink]
    exact hopens.link l

end

/-! ### O59's clause of received flits -/

theorem flitReceive_trains {s : State} {l : Nat} {flit : BitVec 1792} (hl : l < 24) (ht : trains (s.link l) flit = true) :
    ∃ t, exec (.flitReceive l flit) s = .next t ∧ (t.link l).up = true ∧ (t.link l).seqIn = 1 ∧
      (t.link l).lanesFailed = (s.link l).lanesFailed ∧ (t.link l).unacked = [] ∧ t.mem = s.mem := by
  have htrained : trained s l flit = trainLink s l := if_pos (by simp [ht, moduleLinks, hl])
  have hlink : (trained s l flit).link l =
      { Link.reset with lanesFailed := (s.link l).lanesFailed, spareUsed := (s.link l).spareUsed, lastFlit := s.now } := by
    rw [htrained]
    exact link_updLink_self ..
  simp only [trains, Bool.and_eq_true, beq_iff_eq] at ht
  obtain ⟨⟨⟨⟨⟨-, -⟩, hgood⟩, -⟩, hseq⟩, -⟩ := ht
  obtain ⟨hmem, -, j, hj⟩ := openFlit_counted (trained s l flit) l flit
  obtain ⟨-, hup, hlanes⟩ := takeAck_fields ((trained s l flit).link l) flit
  rw [hlink] at hup hlanes
  refine ⟨_, exec_flitReceive_up (by rw [hlink]; rfl) hl, ?_⟩
  rw [if_neg (by simp [hgood]), if_pos (by rw [hseq, hlink]; rfl)]
  rw [hj, hmem, htrained]
  rw [htrained] at hlink
  refine ⟨?_, ?_, ?_, ?_, rfl⟩
  · rw [hlink]; exact hup
  · rw [hlink]; rfl
  · rw [hlink]; exact hlanes
  · rw [hlink]; exact takeAck_none rfl

section
variable {s : State} {l : Nat} {flit : BitVec 1792} (hup : (s.link l).up = true) (hl : l < 24)
include hup hl

theorem flitReceive_wrong (hbad : flitGood flit = false) :
    ∃ t, exec (.flitReceive l flit) s = .next t ∧ t.link l = { s.link l with nakDue := true } ∧ t.mem = s.mem := by
  have hr := trained_of_up (flit := flit) hup
  refine ⟨_, exec_flitReceive_up (by rwa [hr]) hl, ?_⟩
  rw [if_pos hbad, hr]
  exact ⟨link_updLink_self .., rfl⟩

theorem flitReceive_expected (hgood : flitGood flit = true) (hseq : flitSeq flit = (s.link l).seqIn) :
    ∃ t, exec (.flitReceive l flit) s = .next t ∧
      (t.link l).seqIn = ((s.link l).seqIn + 1) % 4096 ∧ (t.link l).ackIn = true ∧ (t.link l).lastFlit = s.now ∧ t.mem = s.mem ∧
      t.cores = s.cores ∧
      (flitNak flit = true → flitAckV flit = false → (t.link l).replay = (s.link l).unacked.map (·.2)) := by
  have hr := trained_of_up (flit := flit) hup
  obtain ⟨hmem, hcores, j, hj⟩ := openFlit_counted s l flit
  refine ⟨_, exec_flitReceive_up (by rwa [hr]) hl, ?_⟩
  rw [hr, if_neg (by simp [hgood]), if_pos hseq, hj, hmem, hcores]
  exact ⟨rfl, rfl, rfl, rfl, rfl, takeAck_nak⟩

theorem flitReceive_other (hgood : flitGood flit = true) (hseq : flitSeq flit ≠ (s.link l).seqIn) :
    ∃ t, exec (.flitReceive l flit) s = .next t ∧ (t.link l).seqIn = (s.link l).seqIn ∧
      t.pktIn = s.pktIn ∧ t.ctlIn = s.ctlIn ∧ t.mem = s.mem ∧
      ((flitSeq flit + 4096 - (s.link l).seqIn) % 4096 < 2048 → (t.link l).nakDue = true) := by
  have hr := trained_of_up (flit := flit) hup
  obtain ⟨hin, -, -⟩ := takeAck_fields (s.link l) flit
  refine ⟨_, exec_flitReceive_up (by rwa [hr]) hl, ?_⟩
  rw [hr, if_neg (by simp [hgood]), if_neg hseq]
  by_cases hfrom : seqFrom (s.link l).seqIn (flitSeq flit) = true
  · rw [if_pos hfrom, link_updLink_self, tookAck_link]
    exact ⟨hin, rfl, rfl, rfl, fun _ => rfl⟩
  · rw [if_neg hfrom, tookAck_link]
    exact ⟨hin, rfl, rfl, rfl, fun h => absurd (decide_eq_true h) hfrom⟩

end

/-! ### Links that go down, and what goes round them (R389, R392) -/

/-- A link with the packets in the transmit queues of another. -/
def Link.withQueues (k j : Link) : Link := { k with queues := j.queues, waiting := j.waiting }

/-- A step sends requests and answers by other links: it makes traffic, of the links only packets that join their queues. -/
structure Reroutes (s t : State) : Prop where
  traffic : Traffic s t
  link : ∀ l, t.link l = (s.link l).withQueues (t.link l)

theorem Reroutes.of_traffic {s t : State} (h : Traffic s t) (hl : t.links = s.links) : Reroutes s t := by
  refine ⟨h, fun l => ?_⟩
  have hlink : t.link l = s.link l := congrArg (fun x => Table.get Link.reset x l) hl
  rw [hlink]
  rfl

theorem Reroutes.refl (s : State) : Reroutes s s := .of_traffic (.refl s) rfl

theorem Reroutes.trans {a b c : State} (h1 : Reroutes a b) (h2 : Reroutes b c) : Reroutes a c :=
  ⟨h1.traffic.trans h2.traffic, fun l => by rw [h2.link l, h1.link l]; rfl⟩

theorem Reroutes.foldl {α : Type} {f : State → α → State} (hf : ∀ s a, Reroutes s (f s a)) (l : List α) (s : State) :
    Reroutes s (l.foldl f s) := by
  induction l generalizing s with
  | nil => exact .refl s
  | cons a l ih => exact (hf s a).trans (ih _)

section
variable {s t : State} (h : Reroutes s t)
include h

theorem Reroutes.ctlIn_eq : t.ctlIn = s.ctlIn := by rw [h.traffic.state]; rfl
theorem Reroutes.aligned_eq : t.aligned = s.aligned := by rw [h.traffic.state]; rfl
theorem Reroutes.domCount_eq : t.domCount = s.domCount := by rw [h.traffic.state]; rfl

end

theorem refill_withQueues (f : Nat) (q : List OutPacket) (k : Link) : refill f q k = k.withQueues (refill f q k) := by
  induction q generalizing k with
  | nil => rfl
  | cons o q ih =>
    rw [refill]
    split
    · exact (ih _).trans rfl
    · rfl

theorem queuePacket_reroutes (s : State) (l f : Nat) (p : Packet) : Reroutes s (queuePacket s l f p) := by
  refine ⟨queuePacket_traffic .., fun j => ?_⟩
  unfold queuePacket
  rw [link_updLink]
  split
  · next h => rw [h]; exact refill_withQueues ..
  · rfl

theorem donePiece_links (s : State) (n : Nat) (x : Access) (i : Nat) (p : Piece) (r : Nat) : (donePiece s n x i p r).links = s.links := by
  unfold donePiece streamOver
  dsimp only
  split_ifs <;> rfl

theorem dropRequest_links (s : State) (x : Access) (pa : Nat) : (dropRequest s x pa).links = s.links := by
  unfold dropRequest
  split
  · rfl
  · dsimp only
    split <;> rfl

theorem failPiece_reroutes (s : State) (n : Nat) (x : Access) (i : Nat) (p : Piece) : Reroutes s (failPiece s n x i p) := by
  refine .of_traffic (failPiece_traffic ..) ?_
  unfold failPiece
  dsimp only
  split
  · exact donePiece_links ..
  · exact (donePiece_links ..).trans (dropRequest_links ..)

theorem remotes_reroutes (s : State) (t : Table Remote) : Reroutes s { s with remotes := t } :=
  .of_traffic (.of_sameCores rfl rfl rfl) rfl

theorem rerouteRemote_reroutes (l : Nat) (s : State) (e : Nat × Remote) : Reroutes s (rerouteRemote l s e) := by
  unfold rerouteRemote
  dsimp only
  split
  · exact .refl s
  · split
    · exact (remotes_reroutes ..).trans (queuePacket_reroutes ..)
    · refine (remotes_reroutes s (s.remotes.del e.1)).trans ?_
      unfold failRemote
      split
      · exact .refl _
      · split
        · exact failPiece_reroutes ..
        · exact .refl _

theorem rerouteReply_reroutes (s : State) (o : OutPacket) : Reroutes s (rerouteReply s o) := by
  unfold rerouteReply
  split
  · exact .refl s
  · split
    · exact queuePacket_reroutes ..
    · exact .refl s

theorem leaveLink_reroutes (s : State) (l : Nat) (k : Link) : Reroutes s (leaveLink s l k) := by
  unfold leaveLink
  exact (Reroutes.foldl (rerouteRemote_reroutes l) _ _).trans (.foldl (fun st e => .foldl rerouteReply_reroutes _ _) _ _)

theorem Cells.link_eq {s t : State} (h : Cells s t) (l : Nat) : t.link l = s.link l := by
  have hlinks : t.links = s.links := by rw [h.state]; rfl
  exact congrArg (fun x => Table.get Link.reset x l) hlinks

/-- A link that was up has gone down (R389). -/
theorem takeDown_spec (s : State) (l reason : Nat) (b : Bool) :
    (takeDown s l reason b).ctlIn = s.ctlIn ∧
      ((s.link l).up = true → ((takeDown s l reason b).link l).up = false ∧ ((takeDown s l reason b).link l).unacked = [] ∧
        ((takeDown s l reason b).link l).lanesFailed = (s.link l).lanesFailed) := by
  by_cases hup : (s.link l).up = true
  · have hstate : ∃ (d : Link) (args : List Word),
        takeDown s l reason b = healthEvent (leaveLink { s with links := Table.put s.links l d } l (s.link l)) 7 0xFF l args ∧
        d.up = false ∧ d.unacked = [] ∧ d.lanesFailed = (s.link l).lanesFailed := by
      unfold takeDown
      dsimp only
      rw [if_neg (by simp [hup])]
      exact ⟨_, _, rfl, rfl, rfl, rfl⟩
    obtain ⟨d, args, htake, hdown, hunacked, hlanes⟩ := hstate
    have hleave := leaveLink_reroutes { s with links := Table.put s.links l d } l (s.link l)
    generalize leaveLink { s with links := Table.put s.links l d } l (s.link l) = r at hleave htake
    have hcells := healthEvent_cells r 7 0xFF l args
    have hlink : (takeDown s l reason b).link l = d.withQueues (r.link l) := by
      rw [htake, hcells.link_eq, hleave.link l]
      exact congrArg (Link.withQueues · (r.link l)) (Table.get_put_self ..)
    refine ⟨?_, fun _ => ?_⟩
    · have hctl : (healthEvent r 7 0xFF l args).ctlIn = r.ctlIn := by rw [hcells.state]; rfl
      rw [htake, hctl, hleave.ctlIn_eq]
    · rw [hlink]
      exact ⟨hdown, hunacked, hlanes⟩
  · have hstate : takeDown s l reason b = s := if_pos (by simp [hup])
    rw [hstate]
    exact ⟨rfl, fun h => absurd h hup⟩

/-- A device goes round a link whose other end is not aligned (R392). -/
theorem goRound_spec (s : State) (l : Nat) :
    (goRound s l).ctlIn = s.ctlIn ∧ (goRound s l).aligned = s.aligned ∧ (goRound s l).domCount = s.domCount ∧
      ((goRound s l).link l).apart = true ∧ ((goRound s l).link l).control = (s.link l).control := by
  by_cases hapart : (s.link l).apart = true
  · have hstate : goRound s l = s := if_pos hapart
    rw [hstate]
    exact ⟨rfl, rfl, rfl, hapart, rfl⟩
  · have hstate : ∃ d : Link, goRound s l = leaveLink { s with links := Table.put s.links l d } l (s.link l) ∧
        d.apart = true ∧ d.control = (s.link l).control := by
      unfold goRound
      dsimp only
      rw [if_neg hapart]
      exact ⟨_, rfl, rfl, rfl⟩
    obtain ⟨d, hround, hd, hcontrol⟩ := hstate
    have hleave := leaveLink_reroutes { s with links := Table.put s.links l d } l (s.link l)
    rw [← hround] at hleave
    have hlink : (goRound s l).link l = d.withQueues ((goRound s l).link l) :=
      (hleave.link l).trans (congrArg (Link.withQueues · ((goRound s l).link l)) (Table.get_put_self ..))
    refine ⟨hleave.ctlIn_eq, hleave.aligned_eq, hleave.domCount_eq, ?_, ?_⟩
    · rw [hlink]; exact hd
    · rw [hlink]; exact hcontrol

/-! ### Lanes and control messages (R385, R388) -/

theorem announceSpare_spec (s : State) (l ctype lane slane : Nat) :
    ∃ a, (announceSpare s l ctype lane slane).mem = s.mem ∧ (announceSpare s l ctype lane slane).ctlIn = s.ctlIn ∧
      (announceSpare s l ctype lane slane).link l = { s.link l with
        lanesFailed := (s.link l).lanesFailed ++ [lane], spareUsed := true, spareAt := some a
        control := (s.link l).control ++ [message ctype lane slane a 0] } := by
  refine ⟨((s.link l).seqOut + 1 + Config.spareAhead s.fresh % 512) % 4096, rfl, rfl, ?_⟩
  exact link_updLink_twice s l (fun k => { k with
    lanesFailed := k.lanesFailed ++ [lane], spareUsed := true
    spareAt := some (((s.link l).seqOut + 1 + Config.spareAhead s.fresh % 512) % 4096) })
    fun k => { k with control := k.control ++
      [message ctype lane slane (((s.link l).seqOut + 1 + Config.spareAhead s.fresh % 512) % 4096) 0] }

section
variable {s : State} {l lane : Nat}

/-- A lane that has failed has no effect on a link that is down, nor a second time. -/
theorem laneFailed_nothing (h : (s.link l).up = false ∨ lane ∈ (s.link l).lanesFailed) : exec (.laneFailed l lane) s = .next s := by
  show execLaneFailed l lane s = _
  unfold execLaneFailed
  refine if_pos ?_
  rcases h with h | h <;> simp [h]

section
variable (hup : (s.link l).up = true) (hnew : lane ∉ (s.link l).lanesFailed)
include hup hnew

theorem execLaneFailed_of_up : exec (.laneFailed l lane) s =
    if lane = 4 && !(s.link l).spareUsed then
      .next (s.updLink l fun k => { k with lanesFailed := k.lanesFailed ++ [lane], spareUsed := true })
    else if (s.link l).spareUsed then
      .next ((s.updLink l fun k => { k with lanesFailed := k.lanesFailed ++ [lane] }).due s.now 21 (.linkDown l 1))
    else .next (announceSpare s l 1 lane 4) := by
  show execLaneFailed l lane s = _
  unfold execLaneFailed
  exact if_neg (by simp [hup, hnew])

theorem laneFailed_noSpare (hspare : (s.link l).spareUsed = true) :
    ∃ t, exec (.laneFailed l lane) s = .next t ∧ DueAt t s.now (.linkDown l 1) ∧
      t.link l = { s.link l with lanesFailed := (s.link l).lanesFailed ++ [lane] } ∧ t.mem = s.mem := by
  have hexec := execLaneFailed_of_up hup hnew
  rw [if_neg (by simp [hspare]), if_pos hspare] at hexec
  refine ⟨_, hexec, dueAt_due .., ?_, rfl⟩
  show (s.updLink l fun k => { k with lanesFailed := k.lanesFailed ++ [lane] }).link l = _
  rw [link_updLink_self]

theorem laneFailed_spareLane (hspare : (s.link l).spareUsed = false) (hlane : lane = 4) :
    ∃ t, exec (.laneFailed l lane) s = .next t ∧
      t.link l = { s.link l with lanesFailed := (s.link l).lanesFailed ++ [lane], spareUsed := true } ∧ t.agenda = s.agenda := by
  have hexec := execLaneFailed_of_up hup hnew
  rw [if_pos (by simp [hspare, hlane])] at hexec
  exact ⟨_, hexec, link_updLink_self .., rfl⟩

theorem laneFailed_spared (hspare : (s.link l).spareUsed = false) (hlane : lane ≠ 4) :
    ∃ t a, exec (.laneFailed l lane) s = .next t ∧ (t.link l).spareUsed = true ∧
      (t.link l).lanesFailed = (s.link l).lanesFailed ++ [lane] ∧ (t.link l).spareAt = some a ∧
      (t.link l).control = (s.link l).control ++ [message 1 lane 4 a 0] ∧ t.mem = s.mem := by
  have hexec := execLaneFailed_of_up hup hnew
  rw [if_neg (by simp [hlane]), if_neg (by simp [hspare])] at hexec
  obtain ⟨a, hmem, -, hlink⟩ := announceSpare_spec s l 1 lane 4
  refine ⟨_, a, hexec, ?_, ?_, ?_, ?_, hmem⟩ <;> rw [hlink]

end

/-- Both directions have come to their flits (R385, R388). -/
theorem laneSpareSwitch_done {a b : Nat} (ha : (s.link l).spareAt = some a) (hb : (s.link l).switchAt = some b)
    (hheard : (s.link l).heard = true) (hout : seqFrom a (s.link l).seqOut = true) (hin : seqFrom b (s.link l).seqIn = true) :
    ∃ t, exec (.laneSpareSwitch l) s = .next t ∧ (t.link l).spareAt = none ∧ (t.link l).switchAt = none := by
  have hexec : ∃ (h : Bool) (args : List Word), exec (.laneSpareSwitch l) s =
      .next (healthEvent (s.updLink l fun k => { k with spareAt := none, switchAt := none, heard := k.heard && h }) 6 0xFF l args) := by
    show ∃ (h : Bool) (args : List Word), execLaneSpareSwitch l s = _
    unfold execLaneSpareSwitch
    simp only [ha, hb, hheard, hout, hin, Bool.and_self, if_true, Option.isSome_some, Option.isNone_none, Bool.or_self]
    exact ⟨_, _, rfl⟩
  obtain ⟨h, args, hexec⟩ := hexec
  refine ⟨_, hexec, ?_⟩
  rw [(healthEvent_cells ..).link_eq, link_updLink_self]
  exact ⟨rfl, rfl⟩

end

section
variable {s : State} {l : Nat} {m : BitVec 128} {rest : List (Nat × BitVec 128)} (hctl : s.ctlIn = (l, m) :: rest)
include hctl

theorem takeControl_cons : takeControl s = some (l, m, { s with ctlIn := rest }) := by
  unfold takeControl
  rw [hctl]

/-- SPARE: the other end's flit is noted and this end's is announced (R385). -/
theorem exec_spare : ∃ t, exec .spare s = .next t ∧ t.ctlIn = rest ∧ (t.link l).switchAt = some (msgField m 102 12) ∧
    (t.link l).heard = true ∧
    ∃ a, (t.link l).spareAt = some a ∧
      (t.link l).control = (s.link l).control ++ [message 2 (msgField m 117 3) (msgField m 114 3) a 0] := by
  have hexec : exec .spare s =
      .next (announceSpare (hearSpare { s with ctlIn := rest } l m) l 2 (msgField m 117 3) (msgField m 114 3)) := by
    show execSpare s = _
    unfold execSpare
    rw [takeControl_cons hctl]
  obtain ⟨a, -, hrest, hlink⟩ := announceSpare_spec (hearSpare { s with ctlIn := rest } l m) l 2 (msgField m 117 3) (msgField m 114 3)
  have hhear : (hearSpare { s with ctlIn := rest } l m).link l =
      { s.link l with heard := true, switchAt := some (msgField m 102 12) } := link_updLink_self ..
  rw [hhear] at hlink
  refine ⟨_, hexec, hrest, ?_, ?_, a, ?_, ?_⟩ <;> rw [hlink]

/-- SPAREACK (R385). -/
theorem exec_spareAck : ∃ t, exec .spareAck s = .next t ∧ t.ctlIn = rest ∧
    t.link l = { s.link l with heard := true, switchAt := some (msgField m 102 12) } := by
  have hexec : exec .spareAck s = .next (hearSpare { s with ctlIn := rest } l m) := by
    show execSpareAck s = _
    unfold execSpareAck
    rw [takeControl_cons hctl]
  exact ⟨_, hexec, rfl, link_updLink_self ..⟩

/-- ALIGN (R385, R392). -/
theorem exec_align_aligned (ha : s.aligned = true) : ∃ t, exec .align s = .next t ∧ t.ctlIn = rest ∧ t.aligned = true ∧
    t.domCount = s.domCount ∧ (t.link l).apart = true ∧ (t.link l).control = (s.link l).control ++ [message 4 0 0 0 0] := by
  have hexec : exec .align s = .next (sendControl (goRound { s with ctlIn := rest } l) l (message 4 0 0 0 0)) := by
    show execAlign s = _
    unfold execAlign
    rw [takeControl_cons hctl]
    exact if_pos ha
  obtain ⟨hrest, haligned, hcount, hapart, hcontrol⟩ := goRound_spec { s with ctlIn := rest } l
  have hlink : (sendControl (goRound { s with ctlIn := rest } l) l (message 4 0 0 0 0)).link l =
      { (goRound { s with ctlIn := rest } l).link l with
        control := ((goRound { s with ctlIn := rest } l).link l).control ++ [message 4 0 0 0 0] } := link_updLink_self ..
  refine ⟨_, hexec, hrest, haligned.trans ha, hcount, ?_, ?_⟩
  · rw [hlink]; exact hapart
  · rw [hlink, hcontrol]; rfl

theorem exec_align_other (ha : s.aligned = false) : exec .align s = .next { s with ctlIn := rest } := by
  show execAlign s = _
  unfold execAlign
  rw [takeControl_cons hctl]
  exact if_neg (by simp [ha])

/-- ALIGNACK (R385, R392). -/
theorem exec_alignAck : ∃ t, exec .alignAck s = .next t ∧ t.ctlIn = rest ∧ t.aligned = true ∧
    (s.aligned = false → t.domCount = msgField m 0 64 + Config.linkLatency l) ∧ (s.aligned = true → t.domCount = s.domCount) := by
  have hexec : exec .alignAck s = .next (takeCount { s with ctlIn := rest } l m) := by
    show execAlignAck s = _
    unfold execAlignAck
    rw [takeControl_cons hctl]
  refine ⟨_, hexec, ?_⟩
  unfold takeCount
  dsimp only
  cases ha : s.aligned
  · rw [if_neg (by simp)]
    split <;> exact ⟨rfl, rfl, fun _ => rfl, fun h => absurd h (by simp)⟩
  · rw [if_pos rfl]
    exact ⟨rfl, rfl, fun h => absurd h (by simp), fun _ => rfl⟩

/-- DOWN (R385, R389). -/
theorem exec_down : ∃ t, exec .down s = .next t ∧ t.ctlIn = rest ∧
    ((s.link l).up = true → (t.link l).up = false ∧ (t.link l).unacked = []) := by
  have hexec : exec .down s = .next (takeDown { s with ctlIn := rest } l (msgField m 96 6) false) := by
    show execDown s = _
    unfold execDown
    rw [takeControl_cons hctl]
  obtain ⟨hrest, hdown⟩ := takeDown_spec { s with ctlIn := rest } l (msgField m 96 6) false
  refine ⟨_, hexec, hrest, fun hup => ?_⟩
  obtain ⟨h1, h2, -⟩ := hdown hup
  exact ⟨h1, h2⟩

end

/-! ### O59 -/

/-- Settles O59, step by step of the link layer. -/
theorem linkLayer : Obligations.LinkLayer := by
  unfold Obligations.LinkLayer
  intro s
  refine ⟨?_, rfl, fun l flit => ⟨fun h => exec_flitReceive_none h, fun hl ht => flitReceive_trains hl ht, fun hup hl => ⟨?_, ?_, ?_⟩⟩,
    fun l lane => ⟨laneFailed_nothing, fun hup hnew => ⟨laneFailed_noSpare hup hnew, laneFailed_spareLane hup hnew, laneFailed_spared hup hnew⟩⟩,
    fun l a b => laneSpareSwitch_done,
    fun l m rest hctl => ⟨exec_spare hctl, exec_spareAck hctl, exec_align_aligned hctl, exec_align_other hctl, exec_alignAck hctl, exec_down hctl⟩,
    fun l reason => ⟨?_, ?_⟩⟩
  · obtain ⟨t, hexec, hdue, hmem, hcores, hlinks⟩ := exec_flitTime s
    refine ⟨t, hexec, hdue, hmem, hcores, fun l hl => ?_⟩
    dsimp only
    rw [hlinks l hl, linkAfter]
    refine ⟨fun hdown => if_neg (by simp [hdown]), fun x xs hup hr => ?_, fun hup hr hfull => ?_, fun hup hr hroom => ?_⟩
    · rw [if_pos hup, sendFlit_replay hr]
      exact ⟨rfl, rfl, rfl, rfl, rfl⟩
    · rw [if_pos hup, sendFlit_full hr hfull]
    · rw [if_pos hup]
      exact sendFlit_new hr hroom
  · exact flitReceive_wrong hup hl
  · exact flitReceive_expected hup hl
  · exact flitReceive_other hup hl
  · exact ⟨_, rfl, (takeDown_spec s l reason (Config.flitPasses s.fresh)).2⟩
  · show execLinkSilenceTimeout l s = _
    have hsilent : ((s.link l).up && decide ((s.link l).lastFlit + silence ≤ s.now)) = true ↔
        (s.link l).up = true ∧ (s.link l).lastFlit + 30000 ≤ s.now := by
      rw [Bool.and_eq_true]
      exact and_congr_right fun _ => decide_eq_true_iff
    exact congrArg _ (if_congr hsilent rfl rfl)

end Sys2Proof.Machine
end

section
/-!
PROOFS. What keeps the invariant (R246): the accessors and the operations of a core.
-/
namespace Sys2Proof.Machine

/-! ## What keeps the invariant (R246) -/

/-- A state keeps the invariant of another. -/
structure KeepsInv (s t : State) : Prop where
  inv : s.Inv → t.Inv

theorem KeepsInv.refl (s : State) : KeepsInv s s := ⟨id⟩

theorem KeepsInv.trans {a b c : State} (h1 : KeepsInv a b) (h2 : KeepsInv b c) : KeepsInv a c := ⟨fun h => h2.inv (h1.inv h)⟩

/-- What does not touch memory keeps the invariant. -/
theorem KeepsInv.of_mem {s t : State} (h : t.mem = s.mem) : KeepsInv s t := ⟨fun hs => (congrArg Memory.wf h).trans hs⟩

/-- A state that has been taken out of a pair. -/
theorem KeepsInv.of_fst {α : Type} {s a : State} {b : α} {p : State × α} (h : KeepsInv s p.1) (hp : p = (a, b)) : KeepsInv s a := by
  rwa [hp] at h

theorem KeepsInv.of_snd {α : Type} {s a : State} {b : α} {p : α × State} (h : KeepsInv s p.2) (hp : p = (b, a)) : KeepsInv s a := by
  rwa [hp] at h

theorem KeepsInv.ite {s a b : State} {p : Prop} {_ : Decidable p} (ha : KeepsInv s a) (hb : KeepsInv s b) :
    KeepsInv s (if p then a else b) := by
  split
  · exact ha
  · exact hb

theorem KeepsInv.foldl {α : Type} {f : State → α → State} (hf : ∀ s a, KeepsInv s (f s a)) (l : List α) (s : State) :
    KeepsInv s (l.foldl f s) := by
  induction l generalizing s with
  | nil => exact .refl s
  | cons a l ih => exact (hf s a).trans (ih _)

/-- A fold that carries a state with something else keeps the invariant when each of its rounds does. -/
theorem KeepsInv.foldl_fst {α β : Type} {f : State × β → α → State × β} (hf : ∀ p a, KeepsInv p.1 (f p a).1) (l : List α) (s : State) (b : β) :
    KeepsInv s (l.foldl f (s, b)).1 := by
  induction l generalizing s b with
  | nil => exact .refl s
  | cons a l ih => exact (hf (s, b) a).trans (ih _ _)

theorem KeepsInv.foldl_snd {α β : Type} {f : β × State → α → β × State} (hf : ∀ p a, KeepsInv p.2 (f p a).2) (l : List α) (b : β) (s : State) :
    KeepsInv s (l.foldl f (b, s)).2 := by
  induction l generalizing s b with
  | nil => exact .refl s
  | cons a l ih => exact (hf (b, s) a).trans (ih _ _)

/-- A step that goes on keeps the invariant. -/
structure StepInv (s : State) (r : Res) : Prop where
  next : ∀ t, r = .next t → KeepsInv s t

theorem StepInv.of_next {s t : State} (h : KeepsInv s t) : StepInv s (.next t) := ⟨fun _ ht => by cases ht; exact h⟩

theorem StepInv.of_fault (s : State) (f : Fault) : StepInv s (.fault f) := ⟨fun _ ht => by cases ht⟩

theorem StepInv.of_refused (s : State) (r : Refusal) : StepInv s (.refused r) := ⟨fun _ ht => by cases ht⟩

theorem StepInv.trans {a b : State} {r : Res} (h1 : KeepsInv a b) (h2 : StepInv b r) : StepInv a r := ⟨fun t ht => h1.trans (h2.next t ht)⟩

theorem Cells.keepsInv {s t : State} (h : Cells s t) : KeepsInv s t := ⟨h.wf⟩

theorem Traffic.keepsInv {s t : State} (h : Traffic s t) : KeepsInv s t := .of_mem h.mem_eq
theorem writeByte_inv (s : State) (a : Nat) (b : Byte) : KeepsInv s (writeByte s a b) := ⟨fun h => writeByte_wf h a b⟩

theorem writeBytes_inv (s : State) (a : Nat) (bs : List Byte) : KeepsInv s (writeBytes s a bs) := ⟨fun h => writeBytes_wf h a bs⟩

theorem writeMasked_inv (s : State) (a : Nat) (bs : List (Option Byte)) : KeepsInv s (writeMasked s a bs) :=
  ⟨fun h => writeMasked_wf h a bs⟩

theorem writeWord_inv (s : State) (a : Nat) (w : Word) : KeepsInv s (writeWord s a w) := ⟨fun h => writeWord_wf h a w⟩

theorem setPoison_inv (s : State) (pa : Nat) (p : Bool) : KeepsInv s (setPoison s pa p) :=
  (setPoison_cells ..).keepsInv

theorem setCore_inv (s : State) (g : Nat) (c : Core) : KeepsInv s (s.setCore g c) := by
  unfold State.setCore
  exact .of_mem rfl

theorem updCur_inv (s : State) (f : Core → Core) : KeepsInv s (s.updCur f) := by
  unfold State.updCur
  exact setCore_inv ..

theorem updCore_inv (s : State) (g : Nat) (f : Core → Core) : KeepsInv s (s.updCore g f) := by
  unfold State.updCore
  exact setCore_inv ..

theorem land_inv (s : State) (slot lat : Nat) (e : Effect) : KeepsInv s (land s slot lat e) := by
  unfold land
  exact updCur_inv ..

theorem landAll_inv (s : State) (slot lat : Nat) (es : List Effect) : KeepsInv s (landAll s slot lat es) := by
  induction es generalizing s with
  | nil => exact .refl s
  | cons e es ih => exact (land_inv ..).trans (ih _)

theorem due_inv (s : State) (t k : Nat) (i : Instr) : KeepsInv s (s.due t k i) :=
  (due_cells ..).keepsInv

theorem dueOnce_inv (s : State) (t k : Nat) (i : Instr) : KeepsInv s (s.dueOnce t k i) :=
  (dueOnce_traffic ..).keepsInv

theorem undue_inv (s : State) (p : Instr → Bool) : KeepsInv s (s.undue p) := by
  unfold State.undue
  dsimp only
  exact .of_mem rfl

theorem tick_inv (s : State) : KeepsInv s (s.tick) :=
  (tick_traffic ..).keepsInv

theorem draw_inv (s : State) (g : Nat) : KeepsInv s (s.draw g) :=
  (draw_traffic ..).keepsInv

theorem newId_inv (s : State) : KeepsInv s (s.newId).2 :=
  (newId_traffic ..).keepsInv

theorem setWaitFlag_inv (s : State) (g flag : Nat) : KeepsInv s (setWaitFlag s g flag) := by
  unfold setWaitFlag
  exact updCore_inv ..

theorem setWaitFlag?_inv (s : State) (g : Nat) (o : Option Nat) : KeepsInv s (setWaitFlag? s g o) := by
  unfold setWaitFlag?
  split
  · exact .refl _
  · exact setWaitFlag_inv ..

theorem updFunc_inv (s : State) (f : Nat) (u : Func → Func) : KeepsInv s (s.updFunc f u) :=
  (updFunc_traffic ..).keepsInv

theorem setLaunch_inv (s : State) (l : Nat) (x : Launch) : KeepsInv s (s.setLaunch l x) := by
  unfold State.setLaunch
  exact .of_mem rfl

theorem updLaunch_inv (s : State) (l : Nat) (u : Launch → Launch) : KeepsInv s (s.updLaunch l u) :=
  (updLaunch_traffic ..).keepsInv

theorem updQueue_inv (s : State) (q : Nat) (u : Queue → Queue) : KeepsInv s (s.updQueue q u) := by
  unfold State.updQueue
  split
  · exact .of_mem rfl
  · exact .refl _

theorem sendMsix_inv (s : State) (f vec : Nat) : KeepsInv s (sendMsix s f vec) :=
  (sendMsix_cells ..).keepsInv

theorem writeWords_inv (s : State) (a : Nat) (ws : List Word) : KeepsInv s (writeWords s a ws) := ⟨fun h => writeWords_wf h a ws⟩

theorem chargeHost_inv (s : State) (f n : Nat) : KeepsInv s (chargeHost s f n) :=
  (chargeHost_cells ..).keepsInv

theorem noteAts_inv (s : State) (f addr : Nat) : KeepsInv s (noteAts s f addr) :=
  (noteAts_cells ..).keepsInv

theorem putRecord_inv (s : State) (f : Nat) (ws : List Word) : KeepsInv s (putRecord s f ws) := ⟨fun h => putRecord_wf h ..⟩

theorem writeRecord_inv (s : State) (f : Nat) (ws : List Word) : KeepsInv s (writeRecord s f ws).1 := ⟨fun h => writeRecord_wf h ..⟩

theorem keepRecord_inv (s : State) (g : Nat) (ws : List Word) : KeepsInv s (s.keepRecord g ws) := by
  unfold State.keepRecord
  exact .of_mem rfl

theorem drainRecords_inv (f : Nat) (rs : List (List Word)) (s : State) : KeepsInv s (drainRecords f rs s) := by
  induction rs generalizing s with
  | nil => exact updFunc_inv ..
  | cons ws rs ih =>
    rw [drainRecords]
    exact .ite ((putRecord_inv ..).trans (ih _)) (updFunc_inv ..)

theorem stopNow_inv (s : State) (l : Nat) : KeepsInv s (stopNow s l) := by
  unfold stopNow
  exact updLaunch_inv ..

theorem stopLaunch_inv (s : State) (l : Nat) : KeepsInv s (stopLaunch s l) := by
  unfold stopLaunch
  exact .ite (.refl _) (stopNow_inv ..)

theorem stopByCore_inv (s : State) (l : Nat) (way : Nat) : KeepsInv s (stopByCore s l way) := by
  unfold stopByCore
  split
  · exact .ite ((stopLaunch_inv ..).trans (updLaunch_inv ..)) (.refl _)
  · exact .refl _

theorem deferStop_inv (s : State) (g : Nat) (f : FaultInfo) (cause handle : Nat) : KeepsInv s (deferStop s g f cause handle) := by
  unfold deferStop
  dsimp only
  exact updCore_inv ..

theorem stopWithRecord_inv (s : State) (g l : Nat) (f : FaultInfo) (cause handle stopcyc : Nat) :
    KeepsInv s (stopWithRecord s g l f cause handle stopcyc) := ⟨fun h => stopWithRecord_wf h ..⟩

theorem takeFault_inv (s : State) (g : Nat) (f : FaultInfo) (handle : Nat) : KeepsInv s (takeFault s g f handle) :=
  ⟨fun h => takeFault_wf h ..⟩

theorem stepFault_inv (s : State) (slot code cause : Nat) (a0 a1 : Word) (handle : Nat) :
    KeepsInv s (stepFault s slot code cause a0 a1 handle) := by
  unfold stepFault
  dsimp only
  exact takeFault_inv ..

theorem raise_inv (s : State) (slot : Nat) (k : Check) : KeepsInv s (raise s slot k) := ⟨fun h => raise_wf h ..⟩

theorem noteOnce_inv (s : State) (id : Nat) (data : Option (List Byte)) : KeepsInv s (noteOnce s id data) := by
  unfold noteOnce
  dsimp only
  exact updCur_inv ..

theorem restartCores_inv (s : State) (cause : Nat) (cores : List Nat) : KeepsInv s (restartCores s cause cores) := by
  unfold restartCores
  exact .foldl (fun st a => updCore_inv ..) _ _

end Sys2Proof.Machine
end

section
/-!
PROOFS. What keeps the invariant: lines, notices and queues.
-/
namespace Sys2Proof.Machine
theorem landFlags_inv (s : State) (slot lat : Nat) (fl : BitVec 8) : KeepsInv s (landFlags s slot lat fl) := by
  unfold landFlags
  exact .ite (.refl _) (land_inv ..)

theorem landS_inv (s : State) (slot lat r : Nat) (v : Word) : KeepsInv s (landS s slot lat r v) := by
  unfold landS
  exact .ite (.refl _) (land_inv ..)

theorem landF_inv (s : State) (slot lat r : Nat) (v : Bool) : KeepsInv s (landF s slot lat r v) := by
  unfold landF
  exact .ite (.refl _) (land_inv ..)

theorem landElems_inv (s : State) (slot lat vd w n : Nat) (en : Nat → Bool) (f : Nat → Rounded) :
    KeepsInv s (landElems s slot lat vd w n en f) := by
  unfold landElems
  exact (land_inv ..).trans (landFlags_inv ..)

/-- A syllable keeps the invariant where its plan does. -/
theorem runPlan_inv (i : Instr) (p : Plan) (s : State) (hrun : KeepsInv s (p.run s)) (hoff : KeepsInv s (p.off s)) :
    StepInv s (runPlan i p s) := by
  unfold runPlan
  split
  · exact .of_next (raise_inv ..)
  · exact .of_next (.ite hrun hoff)

theorem putHealth_inv (s : State) (ws : List Word) : KeepsInv s (putHealth s ws) :=
  (putHealth_cells ..).keepsInv

theorem unitEvent_inv (s : State) (kind event die unit : Nat) (args : List Word) : KeepsInv s (unitEvent s kind event die unit args) :=
  (unitEvent_cells ..).keepsInv

theorem healthEvent_inv (s : State) (event die unit : Nat) (args : List Word) : KeepsInv s (healthEvent s event die unit args) :=
  (healthEvent_cells ..).keepsInv

theorem absorbCur_inv (s : State) (kind num : Nat) (data : List Byte) : KeepsInv s (absorbCur s kind num data) := by
  unfold absorbCur
  exact updCur_inv ..

theorem logLine_inv (s : State) (g pa : Nat) : KeepsInv s (logLine s g pa) := by
  unfold logLine
  dsimp only
  exact .ite (.refl _) (setCore_inv ..)

theorem spoil_inv (s : State) (pa : Nat) : KeepsInv s (spoil s pa) :=
  (spoil_cells ..).keepsInv

theorem meetBank_inv (s : State) (pa : Nat) : KeepsInv s (meetBank s pa) :=
  (meetBank_cells ..).keepsInv

theorem noteCorrected_inv (s : State) (pa : Nat) : KeepsInv s (noteCorrected s pa) :=
  (noteCorrected_cells ..).keepsInv

theorem meetCodeword_inv (s : State) (pa : Nat) : KeepsInv s (meetCodeword s pa) :=
  (meetCodeword_cells ..).keepsInv

theorem meetCounters_inv (s : State) (pa : Nat) : KeepsInv s (meetCounters s pa) :=
  (meetCounters_cells ..).keepsInv

theorem meetFlaw_inv (s : State) (pa : Nat) : KeepsInv s (meetFlaw s pa) :=
  (meetFlaw_cells ..).keepsInv

theorem placeOnSpare_inv (s : State) (pa : Nat) : KeepsInv s (placeOnSpare s pa) :=
  (placeOnSpare_cells ..).keepsInv

theorem exhaust_inv (s : State) (pa : Nat) : KeepsInv s (exhaust s pa) :=
  (exhaust_cells ..).keepsInv

theorem bumpTree_inv (s : State) (pa : Nat) : KeepsInv s (bumpTree s pa) :=
  (bumpTree_cells ..).keepsInv

theorem bumpMinor_inv (s : State) (pa : Nat) : KeepsInv s (bumpMinor s pa) :=
  (bumpMinor_cells ..).keepsInv

theorem wrapMinor_inv (s : State) (pa : Nat) : KeepsInv s (wrapMinor s pa) :=
  (wrapMinor_cells ..).keepsInv

theorem blockedLine_inv (s : State) (write : Bool) (pa : Nat) : KeepsInv s (blockedLine s write pa).1 :=
  (blockedLine_cells ..).keepsInv

theorem blockedLines_inv (s : State) (write : Bool) (l : List Nat) : KeepsInv s (blockedLines s write l).1 :=
  (blockedLines_cells ..).keepsInv

theorem readLine_inv (s : State) (pa len : Nat) : KeepsInv s (readLine s pa len).1 :=
  (readLine_cells ..).keepsInv

theorem putLine_inv (s : State) (pa : Nat) (bytes : List (Option Byte)) : KeepsInv s (putLine s pa bytes) :=
  (putLine_cells ..).keepsInv

theorem writeLine_inv (s : State) (pa : Nat) (bytes : List (Option Byte)) : KeepsInv s (writeLine s pa bytes) :=
  (writeLine_cells ..).keepsInv

theorem writeMarked_inv (s : State) (pa : Nat) (bytes : List (Option Byte)) (p : Bool) : KeepsInv s (writeMarked s pa bytes p) :=
  (writeMarked_cells ..).keepsInv

theorem writeRun_inv (s : State) (p : Bool) (l : List Span) (l2 : List Byte) : KeepsInv s (writeRun s p l l2) :=
  (writeRun_cells ..).keepsInv

theorem storeBytes_inv (s : State) (pa : Nat) (data : List Byte) : KeepsInv s (storeBytes s pa data) :=
  (storeBytes_cells ..).keepsInv

theorem storeWord_inv (s : State) (pa : Nat) (w : Word) : KeepsInv s (storeWord s pa w) := by
  unfold storeWord
  exact storeBytes_inv ..

theorem updMember_inv (s : State) (l rank : Nat) (f : Core → Core) : KeepsInv s (updMember s l rank f) := by
  unfold updMember
  split
  · exact .refl _
  · refine .ite (.refl _) ?_
    refine .ite ?_ ?_
    · split
      · exact setLaunch_inv ..
      · exact .refl _
    · split
      · exact updCore_inv ..
      · exact .refl _

theorem updPoint_inv (s : State) (g : Nat) (u : Core → Core) : KeepsInv s (updPoint s g u) := by
  unfold updPoint
  split
  · exact .of_mem rfl
  · exact .refl _

theorem updMemberBoth_inv (s : State) (l rank : Nat) (f : Core → Core) : KeepsInv s (updMemberBoth s l rank f) := by
  unfold updMemberBoth
  dsimp only
  split
  · exact updMember_inv ..
  · refine .ite (updMember_inv ..) ?_
    refine .ite ((updMember_inv ..).trans (updLaunch_inv ..)) ?_
    split
    · exact (updMember_inv ..).trans (updPoint_inv ..)
    · exact updMember_inv ..

theorem setMemberFlag_inv (s : State) (l rank : Nat) (o : Option Nat) : KeepsInv s (setMemberFlag s l rank o) := by
  unfold setMemberFlag
  split
  · exact .refl _
  · exact updMember_inv ..

theorem updLink_inv (s : State) (l : Nat) (u : Link → Link) : KeepsInv s (s.updLink l u) := by
  unfold State.updLink
  exact .of_mem rfl

theorem queuePacket_inv (s : State) (l func : Nat) (p : Packet) : KeepsInv s (queuePacket s l func p) :=
  (queuePacket_traffic ..).keepsInv

theorem countLinkErr_inv (s : State) (f : Nat) : KeepsInv s (countLinkErr s f) :=
  (countLinkErr_cells ..).keepsInv

theorem shepherdAccess_inv (s : State) (f : Nat) (kind : AccessKind) (pa len : Nat) (data : List (Option Byte)) (t : Nat) :
    KeepsInv s (shepherdAccess s f kind pa len data t).2 :=
  (shepherdAccess_cells ..).keepsInv

theorem storeNow_inv (s : State) (f pa : Nat) (data : List Byte) : KeepsInv s (storeNow s f pa data) :=
  (storeNow_cells ..).keepsInv

theorem deviceStoreFrom_inv (wait : Option Nat) (s : State) (f pa : Nat) (data : List Byte) :
    KeepsInv s (deviceStoreFrom wait s f pa data).1 :=
  (deviceStoreFrom_cells ..).keepsInv

theorem deviceStoreAt_inv (s : State) (f pa : Nat) (data : List Byte) : KeepsInv s (deviceStoreAt s f pa data).1 :=
  (deviceStoreAt_cells ..).keepsInv

theorem deviceStore_inv (s : State) (f pa : Nat) (data : List Byte) : KeepsInv s (deviceStore s f pa data) :=
  (deviceStore_cells ..).keepsInv

theorem deviceWord_inv (s : State) (f pa n : Nat) (kind : AccessKind) (data : List Byte) :
    KeepsInv s (deviceWord s f pa n kind data).1 :=
  (deviceWord_cells ..).keepsInv

theorem ofRange_inv (first : Nat) (s : State) : KeepsInv s (ofRange first s) := by
  unfold ofRange
  dsimp only
  exact .of_mem rfl

theorem subStore_inv (s : State) (b : Subscription) (o : Nat) (data : List Byte) : KeepsInv s (subStore s b o data).1 :=
  (subStore_cells ..).keepsInv

theorem writeStatus_inv (s : State) (d : DirEntry) (b : Subscription) (st : Nat) : KeepsInv s (writeStatus s d b st).1 :=
  (writeStatus_cells ..).keepsInv

theorem told_inv (s : State) (t : List (Nat × Nat × Nat × Nat)) : KeepsInv s { s with told := t } := .of_mem rfl

theorem writeNotice_inv (s : State) (b : Subscription) (kind why arg : Nat) : KeepsInv s (writeNotice s b kind why arg).1 := by
  unfold writeNotice
  dsimp only
  split
  · split
    · dsimp only
      exact (subStore_inv ..).trans ((subStore_inv ..).trans (setMemberFlag_inv ..))
    · dsimp only
      exact (subStore_inv ..).trans ((subStore_inv ..).trans (told_inv ..))
    · exact (subStore_inv ..).trans (subStore_inv ..)
  · exact .refl _

theorem overSubs_inv {f : State → Subscription → State × Subscription} (hf : ∀ s b, KeepsInv s (f s b).1) (s : State)
    (l : List Subscription) : KeepsInv s (overSubs f s l).1 := by
  induction l generalizing s with
  | nil => exact .refl s
  | cons b l ih => exact (hf s b).trans (ih _)

theorem setEntry_inv (s : State) (e : Nat) (d : DirEntry) : KeepsInv s (s.setEntry e d) := by
  unfold State.setEntry
  exact .of_mem rfl

theorem writeStatuses_inv (s : State) (e : Nat) (d : DirEntry) : KeepsInv s (writeStatuses s e d) := by
  unfold writeStatuses
  dsimp only
  exact (overSubs_inv (fun st a => writeStatus_inv ..) _ _).trans (setEntry_inv ..)

theorem noticeAll_inv (s : State) (e : Nat) (d : DirEntry) (kind arg : Nat) : KeepsInv s (noticeAll s e d kind arg) := by
  unfold noticeAll
  dsimp only
  exact (overSubs_inv (fun st a => writeNotice_inv ..) _ _).trans (setEntry_inv ..)

theorem markLines_inv (s : State) (d : DirEntry) (t : Nat) (p : Bool) : KeepsInv s (markLines s d t p) :=
  (markLines_cells ..).keepsInv

theorem markTile_inv (s : State) (e t : Nat) : KeepsInv s (markTile s e t) := by
  unfold markTile
  dsimp only
  split
  · exact .refl _
  · exact .ite (.refl _) ((markLines_inv ..).trans ((writeStatuses_inv ..).trans ((noticeAll_inv ..).trans (healthEvent_inv ..))))

theorem noticePoison_inv (s : State) (pa : Nat) : KeepsInv s (noticePoison s pa) := by
  unfold noticePoison
  refine .ite ?_ (.refl _)
  split
  · exact markTile_inv ..
  · exact .refl _

theorem storeQcb_inv (s : State) (f at_ : Nat) (v : Nat) : KeepsInv s (storeQcb s f at_ v) :=
  (storeQcb_cells ..).keepsInv

theorem writeQcb_inv (s : State) (n : Nat) : KeepsInv s (writeQcb s n) :=
  (writeQcb_cells ..).keepsInv

theorem endChain_inv (s : State) (n lsn status : Nat) : KeepsInv s (endChain s n lsn status) := by
  refine .of_mem ?_
  unfold endChain
  dsimp only
  split <;> exact mem_updQueue ..

theorem discardWaiting_inv (s : State) (n : Nat) : KeepsInv s (discardWaiting s n) := by
  unfold discardWaiting
  dsimp only
  refine .foldl (fun st a => ?_) _ _
  refine .ite (.of_mem rfl) ?_
  refine KeepsInv.trans ?_ (endChain_inv ..)
  exact .of_mem rfl

theorem forgetQueue_inv (s : State) (n : Nat) (q : Queue) : KeepsInv s (forgetQueue s n q) := by
  unfold forgetQueue
  dsimp only
  exact .of_mem rfl

theorem queueError_inv (s : State) (n code eaddr : Nat) : KeepsInv s (queueError s n code eaddr) := by
  unfold queueError
  dsimp only
  exact (updQueue_inv ..).trans ((discardWaiting_inv ..).trans (writeQcb_inv ..))

theorem writeResult_inv (s : State) (n id func raddr packet : Nat) (w : Word) : KeepsInv s (writeResult s n id func raddr packet w) := by
  unfold writeResult
  dsimp only
  refine .ite (.refl _) ?_
  split
  · exact (deviceStoreFrom_inv ..).trans (updQueue_inv ..)
  · exact .ite (queueError_inv ..) (.refl _)

end Sys2Proof.Machine
end

section
/-!
PROOFS. What keeps the invariant: accesses and their steps.
-/
namespace Sys2Proof.Machine
theorem nextElement_inv (s : State) (g e : Nat) : KeepsInv s (nextElement s g e) := by
  unfold nextElement
  exact (dueOnce_inv ..).trans (draw_inv ..)

theorem engineGoes_inv (s : State) (g e : Nat) : KeepsInv s (engineGoes s g e) :=
  (engineGoes_traffic ..).keepsInv

theorem drawOf_inv (s : State) (x : Access) : KeepsInv s (drawOf s x) :=
  (drawOf_traffic ..).keepsInv

theorem sendFlushes_inv (s : State) (g : Nat) : KeepsInv s (sendFlushes s g) :=
  (sendFlushes_traffic ..).keepsInv

theorem wake_inv (s0 : State) (g : Nat) : KeepsInv s0 (wake s0 g) :=
  (wake_traffic ..).keepsInv

theorem streamOver_inv (s : State) (x : Access) : KeepsInv s (streamOver s x) :=
  (streamOver_traffic ..).keepsInv

theorem donePiece_inv (s : State) (n : Nat) (x : Access) (i : Nat) (p : Piece) (reply : Nat) :
    KeepsInv s (donePiece s n x i p reply) :=
  (donePiece_traffic ..).keepsInv

theorem keepReply_inv (s : State) (target source ident : Nat) (r : BitVec 32) : KeepsInv s (keepReply s target source ident r) := by
  unfold keepReply
  dsimp only
  exact .of_mem rfl

theorem runAtomic_inv (s : State) (target source ident pa op : Nat) (sg : Bool) (a b : BitVec 32) :
    KeepsInv s (runAtomic s target source ident pa op sg a b).1 := by
  unfold runAtomic
  dsimp only
  split
  · exact .refl _
  · split
    · dsimp only
      exact readLine_inv ..
    · dsimp only
      exact (readLine_inv ..).trans ((writeLine_inv ..).trans (keepReply_inv ..))

theorem patchLog_inv (s : State) (g pa : Nat) (bytes : List (Option Byte)) : KeepsInv s (patchLog s g pa bytes) := by
  unfold patchLog
  dsimp only
  exact updCore_inv ..

theorem logWrite_inv (s : State) (g region pa : Nat) (bytes : List (Option Byte)) : KeepsInv s (logWrite s g region pa bytes) := by
  unfold logWrite
  exact .ite (.refl _) (.ite (logLine_inv ..) (patchLog_inv ..))

theorem performPiece_inv (s : State) (n : Nat) (x : Access) (i : Nat) (p : Piece) : KeepsInv s (performPiece s n x i p) := by
  unfold performPiece
  dsimp only
  split
  · exact (readLine_inv ..).trans ((noticePoison_inv ..).trans (donePiece_inv ..))
  · exact KeepsInv.trans (.ite (readLine_inv ..) ((readLine_inv ..).trans (writeLine_inv ..))) (donePiece_inv ..)
  · exact (writeLine_inv ..).trans (donePiece_inv ..)
  · exact KeepsInv.trans (.ite (logWrite_inv ..) (patchLog_inv ..)) ((writeMarked_inv ..).trans (donePiece_inv ..))
  · exact KeepsInv.trans (.ite ((runAtomic_inv ..).trans (patchLog_inv ..)) (runAtomic_inv ..)) (donePiece_inv ..)

theorem bookPort_inv (s : State) (pa : Nat) : KeepsInv s (bookPort s pa).2 := by
  unfold bookPort
  dsimp only
  exact .of_mem rfl

theorem putDue_inv (s : State) (n i t : Nat) : KeepsInv s (putDue s n i t) :=
  (putDue_traffic ..).keepsInv

theorem againAt_inv (s : State) (n : Nat) (x : Access) (i t : Nat) : KeepsInv s (againAt s n x i t) := by
  unfold againAt
  exact due_inv ..

theorem meetFault_inv (s : State) (g : Nat) (f : FaultInfo) (handle : Nat) : KeepsInv s (meetFault s g f handle) :=
  (meetFault_traffic ..).keepsInv

theorem elementFault_inv (s : State) (x : Access) (code cause pa : Nat) : KeepsInv s (elementFault s x code cause pa) := by
  unfold elementFault
  dsimp only
  exact .ite (.refl _) ((updCore_inv ..).trans (meetFault_inv ..))

theorem hostPerform_inv (s : State) (n : Nat) (x : Access) (i : Nat) (p : Piece) : KeepsInv s (hostPerform s n x i p) := by
  unfold hostPerform
  dsimp only
  split
  · refine .ite (donePiece_inv ..) ?_
    refine KeepsInv.trans ?_ (elementFault_inv ..)
    exact .of_mem rfl
  · exact KeepsInv.trans (.ite (writeMasked_inv ..) (countLinkErr_inv ..)) (donePiece_inv ..)
  · refine KeepsInv.trans ?_ (donePiece_inv ..)
    refine .ite (KeepsInv.trans (.ite (.refl _) (updFunc_inv ..)) (writeMasked_inv ..)) ?_
    exact KeepsInv.trans (.ite (.refl _) (updFunc_inv ..)) (countLinkErr_inv ..)

theorem dropRequest_inv (s : State) (x : Access) (pa : Nat) : KeepsInv s (dropRequest s x pa) :=
  (dropRequest_traffic ..).keepsInv

theorem failPiece_inv (s : State) (n : Nat) (x : Access) (i : Nat) (p : Piece) : KeepsInv s (failPiece s n x i p) :=
  (failPiece_traffic ..).keepsInv

theorem sendPiece_inv (s : State) (n : Nat) (x : Access) (i : Nat) (p : Piece) : KeepsInv s (sendPiece s n x i p) :=
  (sendPiece_traffic ..).keepsInv

theorem piecePerform_inv (s : State) (n : Nat) (x : Access) (i : Nat) (p : Piece) : KeepsInv s (piecePerform s n x i p) := by
  unfold piecePerform
  dsimp only
  split
  · exact againAt_inv ..
  · split
    · split
      · exact (putDue_inv ..).trans (againAt_inv ..)
      · refine KeepsInv.trans ?_ (performPiece_inv ..)
        exact .of_mem rfl
    · split
      · split
        · exact (bookPort_inv ..).trans (performPiece_inv ..)
        · refine KeepsInv.trans ?_ (due_inv ..)
          exact .of_mem rfl
      · exact performPiece_inv ..
    · split
      · exact (KeepsInv.of_fst (blockedLine_inv ..) ‹_›).trans (againAt_inv ..)
      · exact (KeepsInv.of_fst (blockedLine_inv ..) ‹_›).trans (performPiece_inv ..)
    · exact .ite (againAt_inv ..) ((chargeHost_inv ..).trans ((noteAts_inv ..).trans (hostPerform_inv ..)))
    · exact sendPiece_inv ..
    · exact .refl _

theorem meetLostLink_inv (s : State) (l : Nat) : KeepsInv s (meetLostLink s l) :=
  (meetLostLink_traffic ..).keepsInv

theorem sendPieces_inv (n : Nat) (x : Access) (l : List (Nat × Piece)) (s : State) : KeepsInv s (sendPieces n x l s) :=
  (sendPieces_traffic ..).keepsInv

theorem wakeClass_inv (s : State) (x : Access) : KeepsInv s (wakeClass s x) :=
  (wakeClass_traffic ..).keepsInv

theorem loseAccess_inv (s : State) (x : Access) : KeepsInv s (loseAccess s x) :=
  (loseAccess_traffic ..).keepsInv

theorem leave_inv (s : State) (n : Nat) (x : Access) : KeepsInv s (leave s n x) :=
  (leave_traffic ..).keepsInv

theorem keepBack_inv (s : State) (n : Nat) (x : Access) : KeepsInv s (keepBack s n x) :=
  (keepBack_traffic ..).keepsInv

theorem tryLeave_inv (s : State) (n : Nat) : KeepsInv s (tryLeave s n) :=
  (tryLeave_traffic ..).keepsInv

theorem scheduleMessage_inv (s : State) (n : Nat) (m : Message) : KeepsInv s (scheduleMessage s n m) :=
  (scheduleMessage_traffic ..).keepsInv

theorem goOnEngines_inv (s : State) (g : Nat) : KeepsInv s (goOnEngines s g) := by
  unfold goOnEngines
  refine .foldl (fun st a => ?_) _ _
  split
  · exact (updCore_inv ..).trans (engineGoes_inv ..)
  · exact .refl _

theorem releaseHeld_inv (s : State) (g : Nat) : KeepsInv s (releaseHeld s g) :=
  (releaseHeld_traffic ..).keepsInv

theorem enterHold_inv (s : State) (g : Nat) (region : Nat) (pieces : List Piece) : KeepsInv s (enterHold s g region pieces).1 := by
  unfold enterHold
  dsimp only
  split
  · exact .refl _
  · split
    · dsimp only
      exact updCore_inv ..
    · exact .refl _

theorem askFlush_inv (s : State) (g seq scope : Nat) (mask : BitVec 16) : KeepsInv s (askFlush s g seq scope mask) := by
  unfold askFlush
  dsimp only
  exact .ite (.of_mem rfl) (.refl _)

theorem giveData_inv (s : State) (g id : Nat) (data : List Byte) (rows : List Nat) (pline : Nat) :
    KeepsInv s (giveData s g id data rows pline) := by
  unfold giveData
  dsimp only
  exact (updCore_inv ..).trans (updPoint_inv ..)

theorem makeAccess_inv (s : State) (h : Head) (cls ord : Nat) (kind : AccessKind) (pieces : List Piece) (size : Nat)
    (req : Option (Nat × Nat × Target)) (ident : Nat) : KeepsInv s (makeAccess s h cls ord kind pieces size req ident) := by
  have hhold : KeepsInv s
      (if kind == .write then enterHold s.newId.2 s.cur (s.newId.2.core s.cur).region.num pieces else (s.newId.2, false)).1 := by
    split
    · exact (newId_inv s).trans (enterHold_inv ..)
    · exact newId_inv s
  unfold makeAccess
  dsimp only
  generalize (if kind == .write then enterHold s.newId.2 s.cur (s.newId.2.core s.cur).region.num pieces else (s.newId.2, false)) = u at hhold ⊢
  split
  · exact hhold.trans ((setCore_inv ..).trans (giveData_inv ..))
  · refine KeepsInv.trans ?_ (tryLeave_inv ..)
    split
    · refine KeepsInv.trans ?_ (askFlush_inv ..)
      exact hhold.trans (.of_mem rfl)
    · exact hhold.trans (.of_mem rfl)

theorem makeElementAccess_inv (s : State) (g e : Nat) (m : Command) (ord : Nat) (kind : AccessKind) (p : Piece) :
    KeepsInv s (makeElementAccess s g e m ord kind p) := by
  have hhold : KeepsInv s (elementHold s g m kind p).1 := by
    unfold elementHold
    split
    · exact (newId_inv s).trans (enterHold_inv ..)
    · exact newId_inv s
  rw [makeElementAccess_eq]
  dsimp only
  generalize elementAccess s g e m ord kind p = x
  generalize (elementHold s g m kind p).1 = u at hhold ⊢
  have hput : KeepsInv s { u with accesses := u.accesses.put s.newId.1 x } := hhold.trans (.of_mem rfl)
  exact .ite hput (hput.trans (leave_inv ..))

theorem countOob_inv (s : State) (dropped : Bool) : KeepsInv s (countOob s dropped) := by
  unfold countOob
  exact .ite (updCur_inv ..) (.refl _)

theorem discardRequest_inv (s : State) (slot arr entries : Nat) : KeepsInv s (discardRequest s slot arr entries) := by
  unfold discardRequest
  dsimp only
  exact (newId_inv ..).trans (updCur_inv ..)

theorem execAccessPerform_inv (a i : Nat) (s : State) : StepInv s (execAccessPerform a i s) := by
  unfold execAccessPerform
  split
  · exact .of_next (.refl _)
  · split
    · exact .of_next (.refl _)
    · exact .of_next (.ite (.refl _) (piecePerform_inv ..))

theorem execAtomicExecute_inv (a : Nat) (s : State) : StepInv s (execAtomicExecute a s) := by
  unfold execAtomicExecute
  split
  · exact .of_next (.refl _)
  · split
    · exact .of_next (.ite (.refl _) (piecePerform_inv ..))
    · exact .of_next (.refl _)

theorem takeLine_inv (s : State) (x : Access) : KeepsInv s (takeLine s x) := by
  unfold takeLine
  exact updCore_inv ..

theorem settleWrites_inv (s : State) (gone : Nat → Bool) : KeepsInv s (settleWrites s gone) := by
  unfold settleWrites
  dsimp only
  refine KeepsInv.trans ?_ (.foldl (fun st a => .ite (dueOnce_inv ..) (.refl _)) _ _)
  exact .of_mem rfl

theorem shepherdOver_inv (s : State) (n : Nat) (x : Access) : KeepsInv s (shepherdOver s n x) := by
  unfold shepherdOver
  dsimp only
  refine KeepsInv.trans ?_ (settleWrites_inv ..)
  refine KeepsInv.trans ?_ (.foldl (fun st a => setMemberFlag_inv ..) _ _)
  exact .of_mem rfl

theorem dropAccesses_inv (s : State) (gone : Nat → Access → Bool) : KeepsInv s (dropAccesses s gone) := by
  unfold dropAccesses
  dsimp only
  refine KeepsInv.trans ?_ (settleWrites_inv ..)
  exact .of_mem rfl

theorem accessOver_inv (s : State) (n : Nat) (x : Access) : KeepsInv s (accessOver s n x) := by
  unfold accessOver
  dsimp only
  split
  · refine KeepsInv.trans ?_ (wake_inv ..)
    split
    · exact .ite (engineGoes_inv ..) (.refl _)
    · exact shepherdOver_inv ..
    · exact .refl _
  · split
    · refine .ite ?_ ?_
      · refine KeepsInv.trans ?_ (dueOnce_inv ..)
        refine KeepsInv.trans ?_ (wake_inv ..)
        split
        · exact .ite (engineGoes_inv ..) (.refl _)
        · exact shepherdOver_inv ..
        · exact .refl _
      · refine KeepsInv.trans ?_ (wake_inv ..)
        split
        · exact .ite (engineGoes_inv ..) (.refl _)
        · exact shepherdOver_inv ..
        · exact .refl _
    · refine KeepsInv.trans ?_ (wake_inv ..)
      split
      · exact .ite (engineGoes_inv ..) (.refl _)
      · exact shepherdOver_inv ..
      · exact .refl _

theorem execLandingBufferArrival_inv (a : Nat) (s : State) : StepInv s (execLandingBufferArrival a s) := by
  unfold execLandingBufferArrival
  dsimp only
  split
  · exact .of_next (.refl _)
  · split
    · refine .of_next ?_
      refine KeepsInv.trans ?_ (accessOver_inv ..)
      refine .ite ?_ (.of_mem rfl)
      refine KeepsInv.trans ?_ (takeLine_inv ..)
      exact .of_mem rfl
    · refine .of_next ?_
      refine KeepsInv.trans ?_ (accessOver_inv ..)
      refine KeepsInv.trans ?_ (giveData_inv ..)
      exact .of_mem rfl

theorem execWriteAcknowledge_inv (a : Nat) (s : State) : StepInv s (execWriteAcknowledge a s) := by
  unfold execWriteAcknowledge
  split
  · exact .of_next (.refl _)
  · refine .of_next ?_
    refine KeepsInv.trans ?_ (accessOver_inv ..)
    exact .of_mem rfl

theorem execSourceInterfaceRelease_inv (a : Nat) (s : State) : StepInv s (execSourceInterfaceRelease a s) := by
  unfold execSourceInterfaceRelease
  exact .of_next (tryLeave_inv ..)

theorem sendHbm_inv (n : Nat) (x : Access) (l : List (Nat × Piece)) (s : State) : KeepsInv s (sendHbm n x l s) := by
  induction l generalizing s with
  | nil => exact .refl s
  | cons q l ih =>
    obtain ⟨i, p⟩ := q
    rw [sendHbm]
    refine KeepsInv.trans ?_ (ih _)
    exact .ite ((putDue_inv ..).trans ((due_inv ..).trans (drawOf_inv ..))) (.refl s)

theorem execHbmRequestSend_inv (a : Nat) (s : State) : StepInv s (execHbmRequestSend a s) := by
  unfold execHbmRequestSend
  dsimp only
  split
  · exact .of_next (.refl _)
  · split
    · exact .of_next (.refl _)
    · split
      · exact .of_next (due_inv ..)
      · split
        · exact .of_next (keepBack_inv ..)
        · refine .of_next ?_
          refine KeepsInv.trans ?_ (wakeClass_inv ..)
          refine KeepsInv.trans ?_ (sendHbm_inv ..)
          exact .of_mem rfl

theorem execBlockReencryptionComplete_inv (blk : Nat) (s : State) : StepInv s (execBlockReencryptionComplete blk s) := by
  unfold execBlockReencryptionComplete
  exact .of_next (.of_mem rfl)

end Sys2Proof.Machine
end

section
/-!
PROOFS. What keeps the invariant: circuits, routines, copies, phases and claims.
-/
namespace Sys2Proof.Machine
theorem runLoad_inv (s : State) (h : Head) (f : Form) (cls ord arr size : Nat) (t : Target) :
    KeepsInv s (runLoad s h f cls ord arr size t) := by
  unfold runLoad
  split
  · exact .refl _
  · exact (makeAccess_inv ..).trans (countOob_inv ..)

theorem runStore_inv (s : State) (h : Head) (f : Form) (cls ord : Nat) (o : Int) (data : List (Option Byte)) :
    KeepsInv s (runStore s h f cls ord o data) := by
  unfold runStore
  dsimp only
  split
  · exact .refl _
  · exact (makeAccess_inv ..).trans ((absorbCur_inv ..).trans (countOob_inv ..))

theorem runAtomicIssue_inv (s : State) (h : Head) (x : FmtU) (op : Nat) : KeepsInv s (runAtomicIssue s h x op) := by
  unfold runAtomicIssue
  dsimp only
  split
  · exact .refl _
  · exact (updCur_inv ..).trans ((makeAccess_inv ..).trans ((absorbCur_inv ..).trans (countOob_inv ..)))

theorem takeMessage_inv (s : State) (n : Nat) (m : Message) : KeepsInv s (takeMessage s n m) := by
  unfold takeMessage
  dsimp only
  refine KeepsInv.trans ?_ (updPoint_inv ..)
  refine KeepsInv.trans ?_ (updCore_inv ..)
  exact .of_mem rfl

theorem runSend_inv (s : State) (v e : Nat) : KeepsInv s (runSend s v e) := by
  unfold runSend
  dsimp only
  split
  · exact .refl _
  · refine .ite ?_ ?_
    · refine KeepsInv.trans ?_ (updCur_inv ..)
      exact .of_mem rfl
    · refine KeepsInv.trans ?_ (scheduleMessage_inv ..)
      refine KeepsInv.trans ?_ (updCur_inv ..)
      exact .of_mem rfl

theorem runRecv_inv (s : State) (h : Head) (v e arr : Nat) : KeepsInv s (runRecv s h v e arr) := by
  unfold runRecv
  dsimp only
  split
  · exact (newId_inv ..).trans ((updCur_inv ..).trans (takeMessage_inv ..))
  · exact (newId_inv ..).trans (updCur_inv ..)

theorem execCircuitDeparture_inv (n : Nat) (s : State) : StepInv s (execCircuitDeparture n s) := by
  unfold execCircuitDeparture
  dsimp only
  split
  · exact .of_next (.refl _)
  · split
    · exact .of_next (.refl _)
    · split
      · exact .of_next (dueOnce_inv ..)
      · split
        · refine .of_next ?_
          refine .ite ?_ (dueOnce_inv ..)
          refine KeepsInv.trans ?_ (wake_inv ..)
          exact .of_mem rfl
        · refine .of_next ?_
          refine .ite ?_ ?_
          · refine KeepsInv.trans ?_ (dueOnce_inv ..)
            exact .of_mem rfl
          · refine KeepsInv.trans ?_ (due_inv ..)
            exact .of_mem rfl

theorem execCircuitArrival_inv (n : Nat) (s : State) : StepInv s (execCircuitArrival n s) := by
  unfold execCircuitArrival
  dsimp only
  split
  · exact .of_next (.refl _)
  · refine .of_next ?_
    refine KeepsInv.trans ?_ (wake_inv ..)
    refine .ite ?_ (.of_mem rfl)
    refine KeepsInv.trans ?_ (takeMessage_inv ..)
    exact .of_mem rfl

theorem takeSeq_inv (s : State) : KeepsInv s (takeSeq s).2 := by
  unfold takeSeq
  dsimp only
  exact updCur_inv ..

theorem nextIndex_inv (s : State) (c : Core) : KeepsInv s (nextIndex s c).2 := by
  unfold nextIndex
  dsimp only
  split
  · split
    · exact .refl _
    · split
      · exact .refl _
      · dsimp only
        exact setLaunch_inv ..
  · exact .refl _

theorem landBlocks_inv (s : State) (slot lat fmt vd zd nb : Nat) (en : Nat → Bool) (q : Nat → QBlock) :
    KeepsInv s (landBlocks s slot lat fmt vd zd nb en q) := by
  unfold landBlocks
  dsimp only
  exact (land_inv ..).trans ((land_inv ..).trans (landFlags_inv ..))

theorem routineFault_inv (s : State) (g origin : Nat) (r : Routine) (k : Check) : KeepsInv s (routineFault s g origin r k) := by
  unfold routineFault
  exact takeFault_inv ..

theorem runRoutine_inv (s : State) (g cyc : Nat) : KeepsInv s (runRoutine s g cyc) := by
  unfold runRoutine
  dsimp only
  split
  · exact .refl _
  · refine .ite (.refl _) ?_
    split
    · exact routineFault_inv ..
    · split
      · exact updCore_inv ..
      · exact (updCore_inv ..).trans (routineFault_inv ..)

theorem execRoutineStart_inv (g : Nat) (s : State) : StepInv s (execRoutineStart g s) := by
  unfold execRoutineStart
  exact .of_next (runRoutine_inv ..)

theorem updHead_inv (s : State) (g e : Nat) (u : Command → Command) : KeepsInv s (updHead s g e u) := by
  unfold updHead
  exact updCore_inv ..

theorem execCopyCommandStart_inv (g e : Nat) (s : State) : StepInv s (execCopyCommandStart g e s) := by
  unfold execCopyCommandStart
  dsimp only
  split
  · exact .of_next (.refl _)
  · split
    · exact .of_next (.refl _)
    · refine .of_next ?_
      split
      · exact .ite ((updHead_inv ..).trans (due_inv ..)) (updHead_inv ..)
      · exact .ite ((updHead_inv ..).trans (due_inv ..)) (updHead_inv ..)
      · exact .ite ((updHead_inv ..).trans (due_inv ..)) (updHead_inv ..)
      · exact (updHead_inv ..).trans (nextElement_inv ..)

theorem putWbLines_inv (s : State) (g region : Nat) (ls : List (Nat × Line × Line × Bool)) : KeepsInv s (putWbLines s g region ls) := by
  unfold putWbLines
  dsimp only
  exact .ite (updCore_inv ..) ((updCore_inv ..).trans (updPoint_inv ..))

theorem applyElement_inv (s : State) (g e : Nat) (m : Command) (a : ElemAct) : KeepsInv s (applyElement s g e m a) := by
  unfold applyElement
  dsimp only
  refine KeepsInv.trans ?_ (updHead_inv ..)
  refine KeepsInv.trans ?_ (updCore_inv ..)
  split
  · exact putWbLines_inv ..
  · exact .ite ((putWbLines_inv ..).trans (updCore_inv ..)) ((putWbLines_inv ..).trans ((updCore_inv ..).trans (updPoint_inv ..)))

theorem pauseEngine_inv (s : State) (g e : Nat) : KeepsInv s (pauseEngine s g e) := by
  unfold pauseEngine
  exact updHead_inv ..

theorem raiseOne_inv (g : Nat) (s : State) (f : FaultInfo × Nat) : KeepsInv s (raiseOne g s f) := by
  unfold raiseOne
  dsimp only
  split
  · exact .refl _
  · split
    · exact .refl _
    · exact .ite (.refl _) (stopWithRecord_inv ..)

theorem raiseMet_inv (s : State) (g : Nat) : KeepsInv s (raiseMet s g) := by
  unfold raiseMet
  exact (updCore_inv ..).trans (.foldl (fun st a => raiseOne_inv ..) _ _)

theorem execCopyElement_inv (g e : Nat) (s : State) : StepInv s (execCopyElement g e s) := by
  unfold execCopyElement
  dsimp only
  split
  · exact .of_next (raiseMet_inv ..)
  · split
    · exact .of_next (.refl _)
    · split
      · exact .of_next (.refl _)
      · split
        · exact .of_next (pauseEngine_inv ..)
        · split
          · exact .of_next ((updHead_inv ..).trans ((makeElementAccess_inv ..).trans (engineGoes_inv ..)))
          · split
            · exact .of_next (.refl _)
            · split
              · exact .of_next ((updHead_inv ..).trans (meetFault_inv ..))
              · exact .of_next (.refl _)
              · split
                · exact .of_next (.refl _)
                · exact .of_next (makeElementAccess_inv ..)
              · exact .of_next ((applyElement_inv ..).trans (engineGoes_inv ..))

theorem execCopyCommandComplete_inv (g e : Nat) (s : State) : StepInv s (execCopyCommandComplete g e s) := by
  unfold execCopyCommandComplete
  dsimp only
  split
  · exact .of_next (.refl _)
  · split
    · exact .of_next (.refl _)
    · split
      · split
        · exact .of_next (.refl _)
        · split
          · exact .of_next ((updCore_inv ..).trans ((setWaitFlag?_inv ..).trans (wake_inv ..)))
          · exact .of_next ((updCore_inv ..).trans (sendFlushes_inv ..))
      · split
        · exact .of_next (.refl _)
        · split
          · exact .of_next ((updCore_inv ..).trans ((setWaitFlag?_inv ..).trans (wake_inv ..)))
          · exact .of_next ((updCore_inv ..).trans (sendFlushes_inv ..))
      · split
        · exact .of_next (.refl _)
        · split
          · exact .of_next ((updCore_inv ..).trans ((setWaitFlag?_inv ..).trans (wake_inv ..)))
          · exact .of_next ((updCore_inv ..).trans (sendFlushes_inv ..))
      · split
        · exact .of_next (.refl _)
        · split
          · exact .of_next ((updCore_inv ..).trans ((setWaitFlag?_inv ..).trans (wake_inv ..)))
          · exact .of_next ((updCore_inv ..).trans (sendFlushes_inv ..))

theorem enqueue_inv (s : State) (e : Nat) (m : Command) : KeepsInv s (enqueue s e m) := by
  unfold enqueue
  dsimp only
  refine .ite ?_ (.ite ((updCur_inv ..).trans (askFlush_inv ..)) (updCur_inv ..))
  refine .ite ?_ ?_
  · refine KeepsInv.trans ?_ ((due_inv ..).trans (draw_inv ..))
    exact .ite ((updCur_inv ..).trans (askFlush_inv ..)) (updCur_inv ..)
  · exact .ite ((updCur_inv ..).trans (askFlush_inv ..)) (updCur_inv ..)

theorem runCommand_inv (k : CopyKind) (h : Head) (x : FmtN) (s : State) : KeepsInv s (runCommand k h x s) := by
  unfold runCommand
  dsimp only
  exact (enqueue_inv ..).trans (absorbCur_inv ..)

theorem runFCommand_inv (k : CopyKind) (h : Head) (x : FmtF) (s : State) : KeepsInv s (runFCommand k h x s) := by
  unfold runFCommand
  dsimp only
  exact enqueue_inv ..

theorem giveMember_inv (s : State) (l rank id : Nat) (data : List Byte) : KeepsInv s (giveMember s l rank id data) := by
  unfold giveMember
  dsimp only
  exact updMemberBoth_inv ..

theorem askScalar_inv (s : State) (id sd arr : Nat) (data : Option (List Byte)) : KeepsInv s (askScalar s id sd arr data) := by
  unfold askScalar
  dsimp only
  exact updCur_inv ..

theorem askOnce_inv (s : State) (sd arr : Nat) {act : Nat → State → State} (hact : ∀ n s, KeepsInv s (act n s)) :
    KeepsInv s (askOnce s sd arr act) := by
  unfold askOnce
  dsimp only
  split
  · exact askScalar_inv ..
  · exact (newId_inv ..).trans ((noteOnce_inv ..).trans ((askScalar_inv ..).trans (hact _ _)))

theorem actOnce_inv (s : State) {act : State → State} (hact : ∀ s, KeepsInv s (act s)) : KeepsInv s (actOnce s act) := by
  unfold actOnce
  split
  · exact .refl s
  · exact (noteOnce_inv ..).trans (hact _)

theorem runPhase_inv (s : State) (p : Nat) (wf : Nat) (count : Nat) (word : Word) : KeepsInv s (runPhase s p wf count word) := by
  unfold runPhase
  dsimp only
  exact .ite ((takeSeq_inv ..).trans ((updCur_inv ..).trans (due_inv ..))) ((takeSeq_inv ..).trans (updCur_inv ..))

theorem runArrive_inv (s : State) (p rank : Nat) : KeepsInv s (runArrive s p rank) := by
  unfold runArrive
  dsimp only
  split
  · exact .refl _
  · split
    · exact .refl _
    · refine .ite ?_ (.of_mem rfl)
      refine KeepsInv.trans ?_ (due_inv ..)
      exact .of_mem rfl

theorem execArrivalDeparture_inv (a : Nat) (s : State) : StepInv s (execArrivalDeparture a s) := by
  unfold execArrivalDeparture
  split
  · exact .of_next (.refl _)
  · split
    · exact .of_next (.refl _)
    · refine .of_next ?_
      refine KeepsInv.trans ?_ (due_inv ..)
      exact .of_mem rfl

theorem execArrivalDelivery_inv (a : Nat) (s : State) : StepInv s (execArrivalDelivery a s) := by
  unfold execArrivalDelivery
  dsimp only
  split
  · exact .of_next (.refl _)
  · split
    · split
      · refine .of_next ?_
        refine KeepsInv.trans ?_ (meetFault_inv ..)
        refine KeepsInv.trans ?_ (setCore_inv ..)
        exact .of_mem rfl
      · split
        · refine .of_next ?_
          refine KeepsInv.trans ?_ (due_inv ..)
          refine KeepsInv.trans ?_ (setCore_inv ..)
          exact .of_mem rfl
        · refine .of_next ?_
          refine KeepsInv.trans ?_ (setCore_inv ..)
          exact .of_mem rfl
    · split
      · refine .of_next ?_
        refine KeepsInv.trans ?_ (meetFault_inv ..)
        refine KeepsInv.trans ?_ (setCore_inv ..)
        exact .of_mem rfl
      · split
        · refine .of_next ?_
          refine KeepsInv.trans ?_ (due_inv ..)
          refine KeepsInv.trans ?_ (setCore_inv ..)
          exact .of_mem rfl
        · refine .of_next ?_
          refine KeepsInv.trans ?_ (setCore_inv ..)
          exact .of_mem rfl

theorem execPhaseLineRaise_inv (g p : Nat) (s : State) : StepInv s (execPhaseLineRaise g p s) := by
  unfold execPhaseLineRaise
  dsimp only
  split
  · exact .of_next (.refl _)
  · split
    · exact .of_next (setCore_inv ..)
    · split
      · exact .of_next (setCore_inv ..)
      · split
        · exact .of_next ((setCore_inv ..).trans (due_inv ..))
        · exact .of_next (setCore_inv ..)

theorem execPhaseCompletion_inv (g p : Nat) (s : State) : StepInv s (execPhaseCompletion g p s) := by
  unfold execPhaseCompletion
  dsimp only
  split
  · exact .of_next (.refl _)
  · split
    · exact .of_next (.refl _)
    · exact .of_next (.foldl (fun st a => (setCore_inv ..).trans (setWaitFlag_inv ..)) _ _)

theorem setClaimWord_inv (s : State) (k : Nat) (c : ClaimWord) : KeepsInv s (setClaimWord s k c) := by
  unfold setClaimWord
  dsimp only
  refine .ite ?_ (.of_mem rfl)
  split
  · exact .of_mem rfl
  · exact .of_mem rfl

theorem runClaim_inv (s : State) (x : FmtY) (id : Nat) : KeepsInv s (runClaim s x id) := by
  unfold runClaim
  dsimp only
  split
  · exact .refl _
  · refine .ite ?_ (.of_mem rfl)
    refine KeepsInv.trans ?_ (due_inv ..)
    exact .of_mem rfl

theorem collide_inv (s : State) (a b : Nat) : KeepsInv s (collide s a b) := by
  unfold collide
  split
  · exact .ite (.of_mem rfl) (.ite (.of_mem rfl) (.refl _))
  · exact .refl _

theorem departProposal_inv (s : State) (n : Nat) (p : Proposal) (prio : Nat) : KeepsInv s (departProposal s n p prio) := by
  unfold departProposal
  dsimp only
  refine KeepsInv.trans ?_ (due_inv ..)
  refine KeepsInv.trans ?_ (due_inv ..)
  refine KeepsInv.trans ?_ (.foldl (fun st a => collide_inv ..) _ _)
  exact .of_mem rfl

theorem execClaimDeparture_inv (n : Nat) (s : State) : StepInv s (execClaimDeparture n s) := by
  unfold execClaimDeparture
  split
  · exact .of_next (.refl _)
  · split
    · exact .of_next (.refl _)
    · split
      · split
        · exact .of_next (departProposal_inv ..)
        · exact .of_next (.refl _)
      · exact .of_next (departProposal_inv ..)

theorem execProposalArrival_inv (n : Nat) (s : State) : StepInv s (execProposalArrival n s) := by
  unfold execProposalArrival
  dsimp only
  split
  · exact .of_next (.refl _)
  · exact .of_next (.foldl (fun st a => setMemberFlag_inv ..) _ _)

theorem proposals_inv (s : State) (a : Table Proposal) : KeepsInv s { s with proposals := a } := .of_mem rfl

theorem execClaimDecision_inv (n : Nat) (s : State) : StepInv s (execClaimDecision n s) := by
  unfold execClaimDecision
  dsimp only
  split
  · exact .of_next (.refl _)
  · split
    · exact .of_next (.refl _)
    · refine .of_next ?_
      refine KeepsInv.trans ?_ (proposals_inv ..)
      refine .ite ?_ ?_
      · split
        · refine KeepsInv.trans ?_ (healthEvent_inv ..)
          split
          · refine KeepsInv.trans ?_ (KeepsInv.trans (.foldl (fun st a => setMemberFlag_inv ..) _ _) (giveMember_inv ..))
            exact setClaimWord_inv ..
          · refine KeepsInv.trans ?_ (KeepsInv.trans (.foldl (fun st a => setMemberFlag_inv ..) _ _) (writeResult_inv ..))
            exact setClaimWord_inv ..
        · split
          · refine KeepsInv.trans ?_ (KeepsInv.trans (.foldl (fun st a => setMemberFlag_inv ..) _ _) (giveMember_inv ..))
            exact setClaimWord_inv ..
          · refine KeepsInv.trans ?_ (KeepsInv.trans (.foldl (fun st a => setMemberFlag_inv ..) _ _) (writeResult_inv ..))
            exact setClaimWord_inv ..
      · split
        · refine KeepsInv.trans ?_ (KeepsInv.trans (.foldl (fun st a => setMemberFlag_inv ..) _ _) (giveMember_inv ..))
          exact setClaimWord_inv ..
        · refine KeepsInv.trans ?_ (KeepsInv.trans (.foldl (fun st a => setMemberFlag_inv ..) _ _) (writeResult_inv ..))
          exact setClaimWord_inv ..

theorem runObject_inv (s : State) (c : Core) (x : FmtY) : KeepsInv s (runObject s c x) := by
  unfold runObject
  dsimp only
  split
  · exact .refl _
  · refine .foldl (fun st a => ?_) _ _
    exact .ite (.of_mem rfl) (.refl _)

theorem runClaimRead_inv (s : State) (c : Core) (x : FmtY) (id : Nat) : KeepsInv s (runClaimRead s c x id) := by
  unfold runClaimRead
  dsimp only
  split
  · exact .refl _
  · refine KeepsInv.trans ?_ (due_inv ..)
    exact .of_mem rfl

theorem execClaimReadSample_inv (a : Nat) (s : State) : StepInv s (execClaimReadSample a s) := by
  unfold execClaimReadSample
  split
  · exact .of_next (.refl _)
  · refine .of_next ?_
    refine KeepsInv.trans ?_ (giveMember_inv ..)
    exact .of_mem rfl

theorem bringForward_inv (s : State) (g t : Nat) (mine : List (Nat × CommonsReq)) : KeepsInv s (bringForward s g t mine) := by
  unfold bringForward
  dsimp only
  refine .foldl (fun st a => ?_) _ _
  refine .ite ?_ (.refl _)
  refine KeepsInv.trans ?_ (due_inv ..)
  exact .of_mem rfl

theorem commonsReqs_inv (s : State) (a : Table CommonsReq) : KeepsInv s { s with commonsReqs := a } := .of_mem rfl

theorem askDirectory_inv (s : State) (kind sub : Nat) (block : List Word) (flag : Option Nat) (arr id : Nat) :
    KeepsInv s (askDirectory s kind sub block flag arr id) := by
  unfold askDirectory
  dsimp only
  exact (bringForward_inv ..).trans ((commonsReqs_inv ..).trans ((due_inv ..).trans (draw_inv ..)))

end Sys2Proof.Machine
end

section
/-!
PROOFS. What keeps the invariant: translations and shootdowns.
-/
namespace Sys2Proof.Machine
theorem touch_inv (s : State) (hive : Nat) (e : CacheEntry) : KeepsInv s (touch s hive e) := by
  unfold touch
  dsimp only
  exact .of_mem rfl

theorem startLookup_inv (s : State) (g h : Nat) (va : Word) : KeepsInv s (startLookup s g h va) := by
  unfold startLookup
  dsimp only
  exact .ite ((due_inv ..).trans (draw_inv ..)) ((due_inv ..).trans (draw_inv ..))

theorem runXlate_inv (h : Nat) (va : Word) (write : Bool) (s : State) : KeepsInv s (runXlate h va write s) := by
  unfold runXlate
  dsimp only
  exact (updCur_inv ..).trans (startLookup_inv ..)

theorem updHandle_inv (s : State) (g h : Nat) (u : Handle → Handle) : KeepsInv s (updHandle s g h u) := by
  unfold updHandle
  dsimp only
  exact (updCore_inv ..).trans (updPoint_inv ..)

theorem xlateFault_inv (s : State) (g h : Nat) (x : Xlate) (cause : Nat) : KeepsInv s (xlateFault s g h x cause) := by
  unfold xlateFault
  exact (updHandle_inv ..).trans (meetFault_inv ..)

theorem giveHandle_inv (s : State) (g h : Nat) (x : Xlate) (e : CacheEntry) : KeepsInv s (giveHandle s g h x e) := by
  unfold giveHandle
  exact .ite ((touch_inv ..).trans (updHandle_inv ..)) (xlateFault_inv ..)

theorem tryRestart_inv (s : State) (l : Nat) : KeepsInv s (tryRestart s l) := by
  unfold tryRestart
  dsimp only
  split
  · exact .refl _
  · exact .ite ((setLaunch_inv ..).trans (due_inv ..)) (.refl _)

theorem tryRestartOf_inv (s : State) (g : Nat) : KeepsInv s (tryRestartOf s g) := by
  unfold tryRestartOf
  split
  · exact tryRestart_inv ..
  · exact .refl _

theorem execHandleValid_inv (g h : Nat) (s : State) : StepInv s (execHandleValid g h s) := by
  unfold execHandleValid
  dsimp only
  split
  · exact .of_next (.refl _)
  · split
    · exact .of_next (xlateFault_inv ..)
    · split
      · exact .of_next ((giveHandle_inv ..).trans (tryRestartOf_inv ..))
      · exact .of_next (due_inv ..)

theorem startWalk_inv (s : State) (g h : Nat) : KeepsInv s (startWalk s g h) := by
  unfold startWalk
  exact (due_inv ..).trans (draw_inv ..)

theorem execTranslationCacheMiss_inv (g h : Nat) (s : State) : StepInv s (execTranslationCacheMiss g h s) := by
  unfold execTranslationCacheMiss
  dsimp only
  split
  · split
    · exact .of_next (.refl _)
    · split
      · exact .of_next (due_inv ..)
      · split
        · refine .of_next ?_
          refine KeepsInv.trans ?_ ((updHandle_inv ..).trans ((updCore_inv ..).trans (startWalk_inv ..)))
          exact (stopLaunch_inv ..).trans (updLaunch_inv ..)
        · exact .of_next (startWalk_inv ..)
  · exact .of_next (.refl _)

theorem walked_inv (s : State) (g l h : Nat) (x : Xlate) {k : State → CacheEntry → State} (hk : ∀ s e, KeepsInv s (k s e)) :
    KeepsInv s (walked s g l h x k) := by
  unfold walked
  dsimp only
  refine .ite ?_ ?_
  · exact xlateFault_inv ..
  · split
    · exact .ite ((touch_inv ..).trans (hk _ _)) ((touch_inv ..).trans (xlateFault_inv ..))
    · exact (updHandle_inv ..).trans (meetFault_inv ..)
    · exact xlateFault_inv ..

theorem execTranslationWalkEnd_inv (g h : Nat) (s : State) : StepInv s (execTranslationWalkEnd g h s) := by
  unfold execTranslationWalkEnd
  dsimp only
  split
  · split
    · exact .of_next (due_inv ..)
    · refine .of_next ?_
      refine KeepsInv.trans ?_ (walked_inv _ _ _ _ _ (fun st a => KeepsInv.trans (.ite (.refl _) (giveHandle_inv ..)) (tryRestart_inv ..)))
      exact .ite (updLaunch_inv ..) (.refl _)
  · exact .of_next (.refl _)

theorem redoXlate_inv (s : State) (g h : Nat) (x : Xlate) : KeepsInv s (redoXlate s g h x) := by
  unfold redoXlate
  dsimp only
  exact (updHandle_inv ..).trans ((due_inv ..).trans (draw_inv ..))

theorem shoots_cmdst_inv (s : State) (a : Table Shootdown) (b : Word) : KeepsInv s { s with shoots := a, cmdst := b } := .of_mem rfl

theorem shoots_inv (s : State) (a : Table Shootdown) : KeepsInv s { s with shoots := a } := .of_mem rfl

theorem finishShoot_inv (s : State) (n : Nat) : KeepsInv s (finishShoot s n) := by
  unfold finishShoot
  dsimp only
  split
  · exact .refl _
  · refine .ite ?_ (.refl _)
    refine .ite (KeepsInv.trans (.foldl (fun st a => updMemberBoth_inv ..) _ _) (shoots_cmdst_inv ..)) ?_
    exact KeepsInv.trans (.foldl (fun st a => updMemberBoth_inv ..) _ _) ((shoots_inv ..).trans (updFunc_inv ..))

theorem reachMember_inv (s : State) (d : Shootdown) (l r : Nat) : KeepsInv s (reachMember s d l r).1 := by
  unfold reachMember
  dsimp only
  exact updMemberBoth_inv ..

theorem reachSaved_inv (s : State) (l : Nat) (x : Launch) : KeepsInv s (reachSaved s l x) := by
  unfold reachSaved
  dsimp only
  refine .foldl (fun st a => .ite (.refl _) (KeepsInv.trans ?_ ((shoots_inv ..).trans (due_inv ..)))) _ _
  exact .foldl_fst (fun st a => reachMember_inv ..) _ _ _

theorem tcache_directory_inv (s : State) (a : Table (List CacheEntry)) (b : Table DirEntry) :
    KeepsInv s { s with tcache := a, directory := b } := .of_mem rfl

theorem startShoot_inv (s : State) (d : Shootdown) : KeepsInv s (startShoot s d) := by
  unfold startShoot
  dsimp only
  refine .ite ?_ ?_
  · refine KeepsInv.trans ?_ (finishShoot_inv ..)
    refine KeepsInv.trans ?_ ((shoots_inv ..).trans (.foldl (fun st a => (due_inv ..).trans (draw_inv ..)) _ _))
    refine KeepsInv.trans ?_ ((tcache_directory_inv ..).trans (.foldl_fst (fun st a => reachMember_inv ..) _ _ _))
    exact (newId_inv ..).trans (dropAccesses_inv ..)
  · refine KeepsInv.trans ?_ ((shoots_inv ..).trans (.foldl (fun st a => (due_inv ..).trans (draw_inv ..)) _ _))
    refine KeepsInv.trans ?_ ((tcache_directory_inv ..).trans (.foldl_fst (fun st a => reachMember_inv ..) _ _ _))
    exact (newId_inv ..).trans (dropAccesses_inv ..)

theorem execShootdownReachCore_inv (sd g : Nat) (s : State) : StepInv s (execShootdownReachCore sd g s) := by
  unfold execShootdownReachCore
  dsimp only
  split
  · exact .of_next (.refl _)
  · split
    · exact .of_next (.refl _)
    · refine .of_next ?_
      refine KeepsInv.trans ?_ (finishShoot_inv ..)
      refine KeepsInv.trans ?_ (shoots_inv ..)
      split
      · split
        · exact reachMember_inv ..
        · exact .refl _
      · exact .refl _

theorem execShootdownComplete_inv (sd : Nat) (s : State) : StepInv s (execShootdownComplete sd s) := by
  unfold execShootdownComplete
  exact .of_next (finishShoot_inv ..)

theorem execShootN_inv (s : State) : StepInv s (execShootN s) := by
  unfold execShootN
  dsimp only
  exact .of_next ((updFunc_inv ..).trans (startShoot_inv ..))

theorem cmdDone_inv (s : State) : KeepsInv s (cmdDone s) := by
  unfold cmdDone
  exact .of_mem rfl

theorem cmdRefuse_inv (s : State) (reason : Nat) : KeepsInv s (cmdRefuse s reason) := by
  unfold cmdRefuse
  exact .of_mem rfl

theorem cmdBusy_inv (s : State) : KeepsInv s (cmdBusy s) := by
  unfold cmdBusy
  exact .of_mem rfl

theorem cmdStarted_inv (s : State) : KeepsInv s (cmdStarted s) := by
  unfold cmdStarted
  exact .of_mem rfl

theorem execShoot2_inv (s : State) : StepInv s (execShoot2 s) := by
  unfold execShoot2
  dsimp only
  exact .of_next ((cmdStarted_inv ..).trans (startShoot_inv ..))

theorem execShootF_inv (s : State) : StepInv s (execShootF s) := by
  unfold execShootF
  dsimp only
  exact .of_next ((cmdStarted_inv ..).trans (startShoot_inv ..))

end Sys2Proof.Machine
end

section
/-!
PROOFS. What keeps the invariant: the commons and its streams.
-/
namespace Sys2Proof.Machine
theorem answer_inv (s : State) (id : Nat) (r : CommonsReq) (w : Word) : KeepsInv s (answer s id r w) := by
  unfold answer
  dsimp only
  split
  · refine KeepsInv.trans ?_ (giveMember_inv ..)
    exact .of_mem rfl
  · refine KeepsInv.trans ?_ (writeResult_inv ..)
    exact .of_mem rfl

theorem answerAfter_inv (first : Nat) (s : State) (id : Nat) (r : CommonsReq) (w : Word) : KeepsInv s (answerAfter first s id r w) := by
  unfold answerAfter
  split
  · exact answer_inv ..
  · exact .of_mem rfl

theorem actOn_inv (id : Nat) {act : CommonsReq → State → State} (s : State) (hact : ∀ r s, KeepsInv s (act r s)) :
    StepInv s (actOn id act s) := by
  unfold actOn
  split
  · exact .of_next (.refl _)
  · split
    · exact .of_next (.ite (answer_inv ..) (.refl _))
    · exact .of_next (hact _ _)

theorem refuse_inv (s : State) (id : Nat) (r : CommonsReq) (res : Nat) : KeepsInv s (refuse s id r res) := by
  unfold refuse
  exact answer_inv ..

theorem limitNotice_inv (old : List Subscription) (s : State) (b : Subscription) : KeepsInv s (limitNotice old s b).1 := by
  unfold limitNotice
  dsimp only
  split
  · split
    · exact writeNotice_inv ..
    · exact .refl _
  · split
    · exact writeNotice_inv ..
    · exact .refl _

theorem limitNotices_inv (s : State) (e : Nat) (d : DirEntry) (old : List Subscription) : KeepsInv s (limitNotices s e d old) := by
  unfold limitNotices
  dsimp only
  exact (overSubs_inv (fun st a => limitNotice_inv ..) _ _).trans (setEntry_inv ..)

theorem afterAct_inv (s : State) (e : Nat) (old : List Subscription) (d : DirEntry) (gone : Option Subscription) :
    KeepsInv s (afterAct s e old d gone) := by
  unfold afterAct
  dsimp only
  refine KeepsInv.trans ?_ (limitNotices_inv ..)
  refine KeepsInv.trans ?_ (setEntry_inv ..)
  refine .foldl_fst (fun st a => ?_) _ _ _
  dsimp only
  exact writeStatus_inv ..

theorem poisonNotices_inv (s : State) (b : Subscription) (l : List Nat) : KeepsInv s (poisonNotices s b l).1 := by
  induction l generalizing s b with
  | nil => exact .refl s
  | cons t l ih => exact (writeNotice_inv ..).trans (ih _ _)

theorem subscribeAct_inv (id : Nat) (r : CommonsReq) (s : State) : KeepsInv s (subscribeAct id r s) := by
  unfold subscribeAct
  dsimp only
  refine .ite (refuse_inv ..) ?_
  split
  · exact refuse_inv ..
  · refine .ite (refuse_inv ..) ?_
    refine .ite (refuse_inv ..) ?_
    refine .ite (refuse_inv ..) ?_
    split
    · exact due_inv ..
    · split
      · exact refuse_inv ..
      · exact (afterAct_inv ..).trans ((poisonNotices_inv ..).trans ((setEntry_inv ..).trans (answerAfter_inv ..)))

theorem execSubscribeAct_inv (id : Nat) (s : State) : StepInv s (execSubscribeAct id s) := by
  unfold execSubscribeAct
  exact actOn_inv _ _ (fun st a => subscribeAct_inv ..)

theorem mapCores_inv (s : State) (f : Core → Core) : KeepsInv s (mapCores s f) := by
  unfold mapCores
  dsimp only
  exact .of_mem rfl

theorem endQueueBoardings_inv (s : State) (e : Nat) (d : DirEntry) (queue : Nat) : KeepsInv s (endQueueBoardings s e d queue) := by
  unfold endQueueBoardings
  exact mapCores_inv ..

theorem endEntryBoardings_inv (s : State) (e : Nat) (d : DirEntry) : KeepsInv s (endEntryBoardings s e d) := by
  unfold endEntryBoardings
  exact mapCores_inv ..

theorem lapseAct_inv (id : Nat) (r : CommonsReq) (s : State) : KeepsInv s (lapseAct id r s) := by
  unfold lapseAct
  dsimp only
  split
  · exact refuse_inv ..
  · split
    · exact refuse_inv ..
    · exact (endQueueBoardings_inv ..).trans ((afterAct_inv ..).trans (answerAfter_inv ..))

theorem execLapseAct_inv (id : Nat) (s : State) : StepInv s (execLapseAct id s) := by
  unfold execLapseAct
  exact actOn_inv _ _ (fun st a => lapseAct_inv ..)

theorem boardAct_inv (id : Nat) (r : CommonsReq) (s : State) : KeepsInv s (boardAct id r s) := by
  unfold boardAct
  dsimp only
  split
  · exact refuse_inv ..
  · refine .ite (refuse_inv ..) ?_
    refine .ite (refuse_inv ..) ?_
    exact .ite (refuse_inv ..) (.ite (refuse_inv ..) ((updMember_inv ..).trans (answer_inv ..)))

theorem execBoardAct_inv (id : Nat) (s : State) : StepInv s (execBoardAct id s) := by
  unfold execBoardAct
  exact actOn_inv _ _ (fun st a => boardAct_inv ..)

theorem alightAct_inv (id : Nat) (r : CommonsReq) (s : State) : KeepsInv s (alightAct id r s) := by
  unfold alightAct
  dsimp only
  split
  · exact refuse_inv ..
  · split
    · exact refuse_inv ..
    · exact (updMember_inv ..).trans (answer_inv ..)

theorem execAlightAct_inv (id : Nat) (s : State) : StepInv s (execAlightAct id s) := by
  unfold execAlightAct
  exact actOn_inv _ _ (fun st a => alightAct_inv ..)

theorem reattach_inv (s : State) (e : Nat) (d : DirEntry) (b : Subscription) : KeepsInv s (reattach s e d b) := by
  unfold reattach
  dsimp only
  exact (writeStatus_inv ..).trans (setEntry_inv ..)

theorem cstatAct_inv (id : Nat) (r : CommonsReq) (s : State) : KeepsInv s (cstatAct id r s) := by
  unfold cstatAct
  dsimp only
  split
  · exact refuse_inv ..
  · split
    · exact refuse_inv ..
    · split
      · split
        · exact refuse_inv ..
        · exact (reattach_inv ..).trans (answerAfter_inv ..)
      · exact answer_inv ..

theorem execCstatAct_inv (id : Nat) (s : State) : StepInv s (execCstatAct id s) := by
  unfold execCstatAct
  exact actOn_inv _ _ (fun st a => cstatAct_inv ..)

theorem putStaged_inv (s : State) (e q : Nat) (t : Staged) : KeepsInv s (putStaged s e q t) := by
  unfold putStaged
  split
  · exact setEntry_inv ..
  · exact .refl _

theorem chargeFetch_inv (s : State) (e q size : Nat) : KeepsInv s (chargeFetch s e q size) := by
  unfold chargeFetch
  dsimp only
  split
  · exact .refl _
  · exact .ite (.refl _) (setEntry_inv ..)

theorem dueTile_inv (s : State) (e q t : Nat) : KeepsInv s (dueTile s e q t) := by
  unfold dueTile
  dsimp only
  exact .foldl (fun st a => due_inv ..) _ _

theorem readTile_inv (s : State) (e q : Nat) (t : Staged) : KeepsInv s (readTile s e q t) := by
  unfold readTile
  dsimp only
  split
  · exact .refl _
  · split
    · refine .ite (KeepsInv.trans (.foldl (fun st a => meetFlaw_inv ..) _ _) (markTile_inv ..)) ?_
      exact .foldl (fun st a => meetFlaw_inv ..) _ _
    · refine KeepsInv.trans ?_ (putStaged_inv ..)
      refine .ite (KeepsInv.trans (.foldl (fun st a => meetFlaw_inv ..) _ _) (markTile_inv ..)) ?_
      exact .foldl (fun st a => meetFlaw_inv ..) _ _

theorem execStreamFetch_inv (e q : Nat) (s : State) : StepInv s (execStreamFetch e q s) := by
  unfold execStreamFetch
  dsimp only
  split
  · exact .of_next (.refl _)
  · split
    · exact .of_next (.refl _)
    · split
      · refine .of_next ?_
        split
        · exact .ite ((due_inv ..).trans (setEntry_inv ..)) ((due_inv ..).trans (putStaged_inv ..))
        · exact due_inv ..
      · split
        · refine .of_next ?_
          refine .ite ?_ ?_
          · exact (due_inv ..).trans ((putStaged_inv ..).trans ((chargeFetch_inv ..).trans (dueTile_inv ..)))
          · exact (due_inv ..).trans ((putStaged_inv ..).trans (chargeFetch_inv ..))
        · refine .of_next ?_
          refine KeepsInv.trans ?_ (dueTile_inv ..)
          refine .ite ((due_inv ..).trans ((putStaged_inv ..).trans (chargeFetch_inv ..))) ?_
          exact (due_inv ..).trans ((putStaged_inv ..).trans ((chargeFetch_inv ..).trans (readTile_inv ..)))

theorem dropStaged_inv (s : State) (e q : Nat) : KeepsInv s (dropStaged s e q) := by
  unfold dropStaged
  dsimp only
  split
  · exact .ite (.refl _) (setEntry_inv ..)
  · exact .refl _

theorem execDeepTierReadStart_inv (e q : Nat) (s : State) : StepInv s (execDeepTierReadStart e q s) := by
  unfold execDeepTierReadStart
  dsimp only
  split
  · exact .of_next (.refl _)
  · split
    · exact .of_next (.refl _)
    · exact .of_next ((setEntry_inv ..).trans ((due_inv ..).trans ((due_inv ..).trans (tick_inv ..))))

theorem execDeepTierReadEnd_inv (e q : Nat) (bad : Bool) (s : State) : StepInv s (execDeepTierReadEnd e q bad s) := by
  unfold execDeepTierReadEnd
  dsimp only
  split
  · exact .of_next (.refl _)
  · split
    · exact .of_next (.refl _)
    · split
      · exact .of_next ((putStaged_inv ..).trans ((due_inv ..).trans (tick_inv ..)))
      · refine .of_next ?_
        refine .ite ?_ ?_
        · refine KeepsInv.trans ?_ ((putStaged_inv ..).trans ((dueTile_inv ..).trans (dropStaged_inv ..)))
          exact .ite (markTile_inv ..) (.refl _)
        · exact KeepsInv.trans (.ite (markTile_inv ..) (.refl _)) (putStaged_inv ..)

theorem updBoarding_inv (s : State) (l r e q : Nat) (u : Boarding → Boarding) : KeepsInv s (updBoarding s l r e q u) := by
  unfold updBoarding
  exact updMember_inv ..

theorem accesses_inv (s : State) (a : Table Access) : KeepsInv s { s with accesses := a } := .of_mem rfl

theorem startSlot_inv (s : State) (e q : Nat) (t : Staged) (lmax hsize : Nat) (p : Nat × Nat × Nat) :
    KeepsInv s (startSlot s e q t lmax hsize p) := by
  unfold startSlot
  dsimp only
  split
  · exact .refl _
  · refine .ite (.refl _) ?_
    refine .ite (.ite (.refl _) (updBoarding_inv ..)) ?_
    refine KeepsInv.trans ?_ ((newId_inv ..).trans ((accesses_inv ..).trans (.foldl (fun st a => due_inv ..) _ _)))
    exact updBoarding_inv ..

theorem execStreamSlotWrite_inv (g e q : Nat) (s : State) : StepInv s (execStreamSlotWrite g e q s) := by
  unfold execStreamSlotWrite
  dsimp only
  split
  · exact .of_next (.refl _)
  · split
    · exact .of_next (.refl _)
    · split
      · exact .of_next (due_inv ..)
      · exact .of_next (KeepsInv.trans (.ite (.refl _) (readTile_inv ..)) (.foldl (fun st a => startSlot_inv ..) _ _))

theorem putImage_inv (s : State) (l r : Nat) (b : Boarding) (q : Nat) (t : Staged) (lmax : Nat) :
    KeepsInv s (putImage s l r b q t lmax) := by
  unfold putImage
  dsimp only
  split
  · exact .refl _
  · exact updMemberBoth_inv ..

theorem completeTile_inv (s : State) (e q : Nat) (t : Staged) (lmax : Nat) (p : Nat × Nat × Nat) :
    KeepsInv s (completeTile s e q t lmax p) := by
  unfold completeTile
  dsimp only
  split
  · exact .refl _
  · exact .ite (.refl _) ((putImage_inv ..).trans ((updBoarding_inv ..).trans ((updMember_inv ..).trans (setMemberFlag_inv ..))))

theorem execStreamTileComplete_inv (g e q : Nat) (s : State) : StepInv s (execStreamTileComplete g e q s) := by
  unfold execStreamTileComplete
  dsimp only
  split
  · exact .of_next (.refl _)
  · split
    · exact .of_next (.refl _)
    · split
      · exact .of_next (due_inv ..)
      · exact .of_next (KeepsInv.trans (.foldl (fun st a => completeTile_inv ..) _ _) (dropStaged_inv ..))

theorem freeSlots_inv (s : State) (g : Nat) : KeepsInv s (freeSlots s g) := by
  unfold freeSlots
  dsimp only
  exact .foldl (fun st a => .foldl (fun st a => .ite (dueOnce_inv ..) (.refl _)) _ _) _ _

theorem stopStream_inv (s : State) (e : Nat) : KeepsInv s (stopStream s e) := by
  unfold stopStream
  dsimp only
  split
  · exact .refl _
  · exact (endEntryBoardings_inv ..).trans ((undue_inv ..).trans (setEntry_inv ..))

theorem execStreamStop_inv (e : Nat) (s : State) : StepInv s (execStreamStop e s) := by
  unfold execStreamStop
  exact .of_next (stopStream_inv ..)

theorem startStream_inv (s : State) (e : Nat) (d : DirEntry) : KeepsInv s (startStream s e d) := by
  unfold startStream
  dsimp only
  refine .ite ((stopStream_inv ..).trans ((setEntry_inv ..).trans ((due_inv ..).trans (due_inv ..)))) ?_
  exact (stopStream_inv ..).trans ((setEntry_inv ..).trans (due_inv ..))

theorem forceLapse_inv (s : State) (e : Nat) (b : Subscription) (why : Nat) : KeepsInv s (forceLapse s e b why) := by
  unfold forceLapse
  dsimp only
  split
  · exact .refl _
  · refine KeepsInv.trans ?_ ((setEntry_inv ..).trans ((writeStatus_inv ..).trans (writeNotice_inv ..)))
    exact endQueueBoardings_inv ..

theorem boundaryShares_inv (s : State) (e : Nat) : KeepsInv s (boundaryShares s e) := by
  unfold boundaryShares
  dsimp only
  split
  · exact .refl _
  · split
    · exact KeepsInv.trans (.foldl (fun st a => forceLapse_inv ..) _ _) (.foldl (fun st a => forceLapse_inv ..) _ _)
    · split
      · refine KeepsInv.trans ?_ ((setEntry_inv ..).trans (limitNotices_inv ..))
        refine KeepsInv.trans ?_ (.foldl (fun st a => forceLapse_inv ..) _ _)
        exact .foldl (fun st a => forceLapse_inv ..) _ _
      · refine KeepsInv.trans ?_ ((setEntry_inv ..).trans ((limitNotices_inv ..).trans (writeStatuses_inv ..)))
        refine KeepsInv.trans ?_ (.foldl (fun st a => forceLapse_inv ..) _ _)
        exact .foldl (fun st a => forceLapse_inv ..) _ _

theorem boundarySettle_inv (s : State) (e : Nat) : KeepsInv s (boundarySettle s e) := by
  unfold boundarySettle
  dsimp only
  split
  · exact .refl _
  · refine .ite ?_ ?_
    · split
      · refine .ite ?_ (.refl _)
        split
        · exact (stopStream_inv ..).trans (setEntry_inv ..)
        · exact stopStream_inv ..
      · exact .refl _
    · refine .ite ?_ (.refl _)
      split
      · exact .ite ((healthEvent_inv ..).trans (setEntry_inv ..)) (.refl _)
      · exact .refl _

theorem boundaryEntry_inv (s : State) (e : Nat) : KeepsInv s (boundaryEntry s e) := by
  unfold boundaryEntry
  split
  · exact KeepsInv.trans (.ite (boundaryShares_inv ..) (.refl _)) (boundarySettle_inv ..)
  · exact .refl _

theorem execPeriodBoundary_inv (s : State) : StepInv s (execPeriodBoundary s) := by
  unfold execPeriodBoundary
  dsimp only
  refine .of_next ?_
  refine KeepsInv.trans ?_ (.foldl (fun st a => boundaryEntry_inv ..) _ _)
  refine KeepsInv.trans ?_ (due_inv ..)
  exact .of_mem rfl

theorem execCreate_inv (s : State) : StepInv s (execCreate s) := by
  unfold execCreate
  dsimp only
  split
  · exact .of_next (cmdRefuse_inv ..)
  · split
    · exact .of_next (cmdRefuse_inv ..)
    · split
      · exact .of_next (cmdRefuse_inv ..)
      · refine .of_next ?_
        exact KeepsInv.trans (.ite ((setEntry_inv ..).trans (startStream_inv ..)) (setEntry_inv ..)) (cmdDone_inv ..)

theorem execCost_inv (s : State) : StepInv s (execCost s) := by
  unfold execCost
  dsimp only
  split
  · exact .of_next (cmdRefuse_inv ..)
  · exact .of_next ((afterAct_inv ..).trans (cmdDone_inv ..))

theorem execRights_inv (s : State) : StepInv s (execRights s) := by
  unfold execRights
  dsimp only
  split
  · exact .of_next (cmdRefuse_inv ..)
  · exact .of_next ((setEntry_inv ..).trans (cmdDone_inv ..))

theorem execReplica_inv (s : State) : StepInv s (execReplica s) := by
  unfold execReplica
  dsimp only
  split
  · exact .of_next (cmdRefuse_inv ..)
  · split
    · exact .of_next (cmdRefuse_inv ..)
    · exact .of_next ((setEntry_inv ..).trans (cmdDone_inv ..))

theorem execSchedule_inv (s : State) : StepInv s (execSchedule s) := by
  unfold execSchedule
  dsimp only
  split
  · exact .of_next (cmdRefuse_inv ..)
  · split
    · exact .of_next (cmdRefuse_inv ..)
    · exact .of_next ((startStream_inv ..).trans (cmdDone_inv ..))

theorem execStop_inv (s : State) : StepInv s (execStop s) := by
  unfold execStop
  exact .of_next ((due_inv ..).trans (cmdDone_inv ..))

theorem cmdLater_inv (s : State) (most : Nat) : KeepsInv s (cmdLater s most) := by
  unfold cmdLater
  exact (cmdStarted_inv ..).trans ((due_inv ..).trans (tick_inv ..))

theorem execCommandDone_inv (s : State) : StepInv s (execCommandDone s) := by
  unfold execCommandDone
  exact .of_next (.ite (cmdDone_inv ..) (.refl _))

theorem actNextFrame_inv (s : State) (i : Instr) : StepInv s (actNextFrame s i) := by
  unfold actNextFrame
  exact .of_next (due_inv ..)

theorem noteRead_inv (s : State) (io n : Nat) : KeepsInv s (noteRead s io n) :=
  (noteRead_cells ..).keepsInv

theorem cmdLeft_inv (s : State) (a : Option Nat) : KeepsInv s { s with cmdLeft := a } := .of_mem rfl

theorem readMore_inv (s : State) (n : Nat) : KeepsInv s (readMore s n).1 := by
  unfold readMore
  dsimp only
  exact (chargeHost_inv ..).trans (cmdLeft_inv ..)

theorem cmdAfterRead_inv (s : State) : KeepsInv s (cmdAfterRead s) := by
  unfold cmdAfterRead
  refine KeepsInv.trans ?_ (cmdLater_inv ..)
  exact .of_mem rfl

theorem putTile_inv (s : State) (p : Nat × Nat) (img hd : List Byte) : KeepsInv s (putTile s p img hd) :=
  (putTile_cells ..).keepsInv

theorem mendReads_inv (s : State) (e t : Nat) (img hd : List Byte) : KeepsInv s (mendReads s e t img hd) := by
  unfold mendReads
  dsimp only
  split
  · exact .refl _
  · exact .of_mem rfl

theorem execReplace_inv (s : State) : StepInv s (execReplace s) := by
  unfold execReplace
  dsimp only
  split
  · refine .of_next ?_
    refine KeepsInv.trans ?_ (cmdRefuse_inv ..)
    exact .of_mem rfl
  · split
    · split
      · exact StepInv.trans (readMore_inv ..) (actNextFrame_inv ..)
      · split
        · exact .of_next ((readMore_inv ..).trans ((KeepsInv.of_fst (blockedLines_inv ..) ‹_›).trans (due_inv ..)))
        · refine .of_next ?_
          refine KeepsInv.trans ?_ (cmdAfterRead_inv ..)
          refine KeepsInv.trans ?_ (noticeAll_inv ..)
          refine KeepsInv.trans ?_ (mendReads_inv ..)
          split
          · refine KeepsInv.trans ?_ (putTile_inv ..)
            refine KeepsInv.trans ?_ (markLines_inv ..)
            refine .ite ?_ ?_
            · refine KeepsInv.trans ?_ ((noteRead_inv ..).trans ((noteRead_inv ..).trans (putTile_inv ..)))
              exact (readMore_inv ..).trans (KeepsInv.of_fst (blockedLines_inv ..) ‹_›)
            · refine KeepsInv.trans ?_ ((noteRead_inv ..).trans (noteRead_inv ..))
              exact (readMore_inv ..).trans (KeepsInv.of_fst (blockedLines_inv ..) ‹_›)
          · refine KeepsInv.trans ?_ (markLines_inv ..)
            refine .ite ?_ ?_
            · refine KeepsInv.trans ?_ ((noteRead_inv ..).trans ((noteRead_inv ..).trans (putTile_inv ..)))
              exact (readMore_inv ..).trans (KeepsInv.of_fst (blockedLines_inv ..) ‹_›)
            · refine KeepsInv.trans ?_ ((noteRead_inv ..).trans (noteRead_inv ..))
              exact (readMore_inv ..).trans (KeepsInv.of_fst (blockedLines_inv ..) ‹_›)
    · exact .of_next (cmdRefuse_inv ..)

theorem execLoadDeep_inv (s : State) : StepInv s (execLoadDeep s) := by
  unfold execLoadDeep
  dsimp only
  split
  · exact .of_next (cmdRefuse_inv ..)
  · split
    · exact .of_next (cmdRefuse_inv ..)
    · split
      · refine .of_next ?_
        refine KeepsInv.trans ?_ (cmdRefuse_inv ..)
        exact .of_mem rfl
      · split
        · exact .of_next (cmdRefuse_inv ..)
        · split
          · exact StepInv.trans (readMore_inv ..) (actNextFrame_inv ..)
          · exact .of_next ((readMore_inv ..).trans ((putTile_inv ..).trans ((noteRead_inv ..).trans (cmdAfterRead_inv ..))))

end Sys2Proof.Machine
end

section
/-!
PROOFS. What keeps the invariant: portals, queues, frames, polls, admission and the end of launches.
-/
namespace Sys2Proof.Machine
theorem countMisuse_inv (s : State) (f : Nat) : KeepsInv s (countMisuse s f) := by
  unfold countMisuse
  exact updFunc_inv ..

theorem reply_inv (s : State) (k : Nat) : KeepsInv s (reply s k) := by
  unfold reply
  exact .of_mem rfl

theorem execPortalDmwr_inv (fn page size off : Nat) (packet : BitVec 512) (s : State) :
    StepInv s (execPortalDmwr fn page size off packet s) := by
  unfold execPortalDmwr
  dsimp only
  split
  · exact .of_next (reply_inv ..)
  · split
    · exact .of_next (reply_inv ..)
    · split
      · exact .of_next ((countMisuse_inv ..).trans (reply_inv ..))
      · split
        · exact .of_next (reply_inv ..)
        · split
          · exact .of_next (reply_inv ..)
          · split
            · exact .of_next (reply_inv ..)
            · split
              · exact .of_next (reply_inv ..)
              · split
                · exact .of_next (reply_inv ..)
                · split
                  · exact .of_next (reply_inv ..)
                  · exact .of_next ((updQueue_inv ..).trans (reply_inv ..))

theorem execPortalMisuse_inv (fn _page : Nat) (write : Bool) (s : State) : StepInv s (execPortalMisuse fn _page write s) := by
  unfold execPortalMisuse
  dsimp only
  split
  · exact .of_next (.ite (.refl _) (reply_inv ..))
  · exact .of_next (.ite (countMisuse_inv ..) ((countMisuse_inv ..).trans (reply_inv ..)))

theorem compareShadow_inv (s : State) (n : Nat) (q : Queue) : KeepsInv s (compareShadow s n q) := by
  unfold compareShadow
  dsimp only
  exact .ite ((chargeHost_inv ..).trans (noteAts_inv ..)) ((chargeHost_inv ..).trans ((noteAts_inv ..).trans (healthEvent_inv ..)))

theorem readQcb_inv (s : State) (n : Nat) : KeepsInv s (readQcb s n) := by
  unfold readQcb
  dsimp only
  split
  · exact .refl _
  · refine .ite (.refl _) ?_
    refine .ite ((compareShadow_inv ..).trans ((updQueue_inv ..).trans (queueError_inv ..))) ?_
    exact (compareShadow_inv ..).trans (updQueue_inv ..)

theorem bindQueue_inv (s : State) (n k : Nat) : KeepsInv s (bindQueue s n k) := by
  unfold bindQueue
  dsimp only
  refine KeepsInv.trans ?_ (writeQcb_inv ..)
  refine KeepsInv.trans ?_ (readQcb_inv ..)
  refine KeepsInv.trans ?_ (updQueue_inv ..)
  exact .of_mem rfl

theorem unbindQueue_inv (s : State) (n : Nat) : KeepsInv s (unbindQueue s n) := by
  unfold unbindQueue
  dsimp only
  split
  · exact .refl _
  · refine KeepsInv.trans ?_ (writeQcb_inv ..)
    refine KeepsInv.trans ?_ (updQueue_inv ..)
    split
    · exact .of_mem rfl
    · exact .refl _

theorem duePoll_inv (begins : Nat) (s : State) (k : Nat) : KeepsInv s (duePoll begins s k) := by
  unfold duePoll
  dsimp only
  exact .ite (dueOnce_inv ..) (.refl _)

theorem queues_inv (s : State) (a : Table Queue) : KeepsInv s { s with queues := a } := .of_mem rfl

theorem execQcreate_inv (s : State) : StepInv s (execQcreate s) := by
  unfold execQcreate
  dsimp only
  split
  · exact .of_next (cmdRefuse_inv ..)
  · split
    · exact .of_next (cmdRefuse_inv ..)
    · split
      · exact .of_next (cmdRefuse_inv ..)
      · split
        · exact .of_next (cmdRefuse_inv ..)
        · split
          · exact StepInv.trans (cmdStarted_inv ..) (actNextFrame_inv ..)
          · split
            · refine .of_next ?_
              refine KeepsInv.trans ?_ ((bindQueue_inv ..).trans ((duePoll_inv ..).trans (cmdDone_inv ..)))
              exact (chargeHost_inv ..).trans ((noteAts_inv ..).trans (queues_inv ..))
            · exact .of_next ((chargeHost_inv ..).trans ((noteAts_inv ..).trans ((queues_inv ..).trans (cmdStarted_inv ..))))

theorem execQdestroy_inv (s : State) : StepInv s (execQdestroy s) := by
  unfold execQdestroy
  dsimp only
  split
  · exact .of_next (cmdRefuse_inv ..)
  · refine .of_next ?_
    refine KeepsInv.trans ?_ ((forgetQueue_inv ..).trans (cmdDone_inv ..))
    exact .ite ((discardWaiting_inv ..).trans (unbindQueue_inv ..)) (discardWaiting_inv ..)

theorem execDoorbell_inv (s : State) : StepInv s (execDoorbell s) := by
  unfold execDoorbell
  dsimp only
  split
  · exact .of_next (.refl _)
  · exact .of_next (updQueue_inv ..)

theorem beginReset_inv (s : State) (n : Nat) : KeepsInv s (beginReset s n) := by
  unfold beginReset
  dsimp only
  exact (discardWaiting_inv ..).trans (updQueue_inv ..)

theorem finishReset_inv (s : State) (n : Nat) : KeepsInv s (finishReset s n) := by
  unfold finishReset
  dsimp only
  split
  · exact .refl _
  · refine .ite (.refl _) ?_
    refine .ite ?_ ?_
    · exact KeepsInv.trans (.ite ((chargeHost_inv ..).trans (noteAts_inv ..)) (.refl _)) (updQueue_inv ..)
    · refine KeepsInv.trans ?_ ((updQueue_inv ..).trans (writeQcb_inv ..))
      exact .ite ((chargeHost_inv ..).trans (noteAts_inv ..)) (.refl _)

theorem execQreset_inv (s : State) : StepInv s (execQreset s) := by
  unfold execQreset
  dsimp only
  split
  · exact .of_next (.refl _)
  · split
    · exact .of_next (.refl _)
    · exact .of_next ((beginReset_inv ..).trans ((writeQcb_inv ..).trans (finishReset_inv ..)))

theorem unbindAll_inv (s : State) : KeepsInv s (unbindAll s) := by
  unfold unbindAll
  dsimp only
  refine .foldl (fun st a => ?_) _ _
  split
  · exact .ite (unbindQueue_inv ..) (.refl _)
  · exact .refl _

theorem giveSlot_inv (s : State) (n : Nat) : KeepsInv s (giveSlot s n) := by
  unfold giveSlot
  split
  · exact .refl _
  · split
    · exact bindQueue_inv ..
    · exact .refl _

theorem freeStale_inv (s : State) : KeepsInv s (freeStale s) := by
  unfold freeStale
  dsimp only
  exact .of_mem rfl

theorem bindAll_inv (s : State) : KeepsInv s (bindAll s) := by
  unfold bindAll
  dsimp only
  exact KeepsInv.trans (.foldl (fun st a => (giveSlot_inv ..).trans (cmdDone_inv ..)) _ _) (.foldl (fun st a => giveSlot_inv ..) _ _)

theorem execFrameStart_inv (s : State) : StepInv s (execFrameStart s) := by
  unfold execFrameStart
  dsimp only
  refine .of_next ?_
  refine KeepsInv.trans ?_ (due_inv ..)
  refine KeepsInv.trans ?_ (.foldl (fun st a => .ite (duePoll_inv ..) (.refl _)) _ _)
  refine KeepsInv.trans ?_ (bindAll_inv ..)
  refine KeepsInv.trans ?_ (unbindAll_inv ..)
  refine KeepsInv.trans ?_ (freeStale_inv ..)
  refine KeepsInv.trans ?_ (.foldl (fun st a => finishReset_inv ..) _ _)
  refine KeepsInv.trans ?_ (.foldl (fun st a => drainRecords_inv ..) _ _)
  refine KeepsInv.trans ?_ (.foldl (fun st a => unitEvent_inv ..) _ _)
  exact .of_mem rfl

theorem updTop_inv (s : State) (n : Nat) (u : Level → Level) : KeepsInv s (updTop s n u) := by
  unfold updTop
  exact updQueue_inv ..

/-- A packet that has been read keeps the invariant. -/
theorem readPacket_inv {s s1 : State} {f va : Nat} {p : BitVec 512} (h : readPacket s f va = .packet p s1) : KeepsInv s s1 := by
  unfold readPacket at h
  dsimp only at h
  split at h
  · cases h
  split at h
  · cases h
  split at h
  · cases h
  split at h
  · split at h
    · cases h
    split at h
    · cases h
    cases h
    exact (chargeHost_inv ..).trans (noteAts_inv ..)
  · split at h
    · cases h
    cases h
    exact .refl s

/-- A packet that is asked for keeps the invariant. -/
theorem readPacket_asked_inv {s s1 : State} {f va a : Nat} (h : readPacket s f va = .asked a s1) : KeepsInv s s1 := by
  unfold readPacket at h
  dsimp only at h
  split at h
  · cases h
  split at h
  · cases h
  split at h
  · cases h
    exact shepherdAccess_inv ..
  split at h
  · split at h
    · cases h
    split at h
    · cases h
    cases h
  · split at h
    · cases h
    cases h

theorem fetchOne_inv (q : Queue) (depth : Nat) (s : State) (v : Level) (k : Nat) : KeepsInv s (fetchOne q depth s v k).1 := by
  unfold fetchOne
  split
  · exact .refl s
  split
  · next h => exact readPacket_inv h
  · next h => exact readPacket_asked_inv h
  · exact .refl s

theorem fillLevel_inv (s : State) (q : Queue) (depth : Nat) (v : Level) (begun : Bool) : KeepsInv s (fillLevel s q depth v begun).1 := by
  unfold fillLevel
  dsimp only
  split
  · exact .refl _
  · exact .foldl_fst (fun st a => fetchOne_inv ..) _ _ _

theorem fillTop_inv (s : State) (n : Nat) (begun : Bool) : KeepsInv s (fillTop s n begun) := by
  unfold fillTop
  dsimp only
  split
  · exact .refl _
  · exact (fillLevel_inv ..).trans (updTop_inv ..)

theorem fillLevels_inv (q : Queue) (s : State) (l : List (Nat × Level)) : KeepsInv s (fillLevels q s l).1 := by
  induction l generalizing s with
  | nil => exact .refl s
  | cons e l ih => exact (fillLevel_inv ..).trans (ih _)

theorem fillAll_inv (s : State) (n : Nat) : KeepsInv s (fillAll s n) := by
  unfold fillAll
  dsimp only
  split
  · exact .refl _
  · exact (fillLevels_inv ..).trans (updQueue_inv ..)

theorem consume_inv (s : State) (n : Nat) (p : BitVec 512) : KeepsInv s (consume s n p) := by
  unfold consume
  dsimp only
  exact updQueue_inv ..

theorem launchPacket_inv (s : State) (n : Nat) (q : Queue) (p : BitVec 512) (va : Nat) : KeepsInv s (launchPacket s n q p va) := by
  unfold launchPacket
  dsimp only
  refine KeepsInv.trans ?_ (updQueue_inv ..)
  exact .of_mem rfl

theorem commonsPacket_inv (s : State) (n : Nat) (q : Queue) (p : BitVec 512) (va kind : Nat) :
    KeepsInv s (commonsPacket s n q p va kind) := by
  unfold commonsPacket
  dsimp only
  refine KeepsInv.trans ?_ (updQueue_inv ..)
  refine KeepsInv.trans ?_ (due_inv ..)
  exact .of_mem rfl

theorem claimPacket_inv (s : State) (n : Nat) (q : Queue) (p : BitVec 512) (va : Nat) : KeepsInv s (claimPacket s n q p va) := by
  unfold claimPacket
  dsimp only
  split
  · exact (newId_inv ..).trans ((updQueue_inv ..).trans (writeResult_inv ..))
  · refine KeepsInv.trans ?_ (departProposal_inv ..)
    refine KeepsInv.trans ?_ (updQueue_inv ..)
    exact .of_mem rfl

theorem fetchFence_inv (s : State) (n : Nat) (p : BitVec 512) : KeepsInv s (fetchFence s n p) := by
  unfold fetchFence
  dsimp only
  split
  · exact consume_inv ..
  · exact (consume_inv ..).trans ((fillLevels_inv ..).trans (updQueue_inv ..))

theorem popLevel_inv (s : State) (n : Nat) (q : Queue) : KeepsInv s (popLevel s n q).1 := by
  unfold popLevel
  split
  · dsimp only
    exact queueError_inv ..
  · dsimp only
    exact updQueue_inv ..

/-- The state to which the processing of a packet leads. -/
def Step_.state : Step_ → State
  | .go s => s
  | .stay s => s
  | .stop s => s
  | .jump s => s
  | .error s _ => s

/-- The state to which the read of PRED and WAITMEM leads, if it does not fault. -/
def Look.state (s : State) : Look → State
  | .known _ t => t
  | .wait t => t
  | .fault => s

theorem lookWord_inv (s : State) (n : Nat) (q : Queue) (p : BitVec 512) : KeepsInv s ((lookWord s n q p).state s) := by
  unfold lookWord
  dsimp only
  generalize (if (pWord p 0).getLsbD 27 then 8 else 4) = len
  split
  · exact .refl s
  split
  · exact .refl s
  split
  · split
    · exact updQueue_inv ..
    · exact (shepherdAccess_inv ..).trans (updQueue_inv ..)
  split
  · split
    · exact .refl s
    split
    · exact .refl s
    · exact (chargeHost_inv ..).trans (noteAts_inv ..)
  split
  · exact .refl s
  · exact .refl s

theorem written_inv (n : Nat) (r : State × Option Nat) : KeepsInv r.1 (written n r).state := by
  unfold written
  split
  · exact .refl _
  · exact updQueue_inv ..

theorem writePacket_inv (s : State) (n : Nat) (q : Queue) (p : BitVec 512) : KeepsInv s (writePacket s n q p).state := by
  unfold writePacket
  dsimp only
  generalize (if (pWord p 0).getLsbD 29 then 8 else 4) = len
  split
  · exact .refl s
  split
  · exact .refl s
  split
  · exact (deviceWord_inv ..).trans (written_inv ..)
  split
  · exact .refl s
  · exact (deviceWord_inv ..).trans (written_inv ..)

theorem stampPacket_inv (s : State) (n : Nat) (q : Queue) (p : BitVec 512) : KeepsInv s (stampPacket s n q p).state := by
  unfold stampPacket
  split
  · exact .refl s
  split
  · exact (deviceWord_inv ..).trans (written_inv ..)
  · exact .refl s

theorem dependPacket_inv (s : State) (n : Nat) (q : Queue) (p : BitVec 512) : KeepsInv s (dependPacket s n q p).state := by
  unfold dependPacket
  dsimp only
  split
  · exact .refl s
  split
  · exact .refl s
  · exact updQueue_inv ..

theorem doCommons_inv (s : State) (n : Nat) (q : Queue) (p : BitVec 512) (va : Nat) : KeepsInv s (doCommons s n q p va).state := by
  unfold doCommons
  dsimp only
  split
  · exact .refl s
  split
  · exact .refl s
  split
  · exact commonsPacket_inv ..
  · exact commonsPacket_inv ..
  · exact commonsPacket_inv ..
  · exact claimPacket_inv ..

/-- A packet that is consumed and then changes the level at the top. -/
theorem consumeTop_inv (s : State) (n : Nat) (p : BitVec 512) (f : Level → Level) :
    KeepsInv s (Step_.jump (updTop (consume s n p) n f)).state := KeepsInv.trans (consume_inv s n p) (updTop_inv ..)

theorem loopPacket_inv (s : State) (n : Nat) (v : Level) (p : BitVec 512) : KeepsInv s (loopPacket s n v p).state := by
  unfold loopPacket
  split
  · exact .refl s
  · exact consumeTop_inv ..

theorem endLoopPacket_inv (s : State) (n : Nat) (v : Level) (p : BitVec 512) : KeepsInv s (endLoopPacket s n v p).state := by
  unfold endLoopPacket
  split
  · exact .refl s
  split
  · exact .refl s
  split
  · exact consumeTop_inv ..
  · exact consumeTop_inv ..

/-- A packet that waits for the chains before it keeps the invariant where its processing does. -/
theorem waitsFor_inv {s : State} {p : Prop} [Decidable p] {x : Step_} (h : KeepsInv s x.state) :
    KeepsInv s (if p then Step_.stay s else x).state := by
  split
  · exact .refl s
  · exact h

/-- A packet that is refused where a condition fails keeps the invariant where its processing does. -/
theorem unlessBad_inv {s : State} {p : Prop} [Decidable p] {c : Nat} {x : Step_} (h : KeepsInv s x.state) :
    KeepsInv s (if p then Step_.error s c else x).state := by
  split
  · exact .refl s
  · exact h

theorem ifGood_inv {s : State} {p : Prop} [Decidable p] {c : Nat} {x : Step_} (h : KeepsInv s x.state) :
    KeepsInv s (if p then x else Step_.error s c).state := by
  split
  · exact h
  · exact .refl s

theorem processPacket_inv (s : State) (n : Nat) (q : Queue) (p : BitVec 512) (va : Nat) : KeepsInv s (processPacket s n q p va).state := by
  have hlook := lookWord_inv s n q p
  unfold processPacket
  dsimp only
  refine unlessBad_inv (unlessBad_inv ?_)
  split
  · exact ifGood_inv (.refl s)
  · exact ifGood_inv (launchPacket_inv ..)
  · exact unlessBad_inv (unlessBad_inv ((consume_inv ..).trans ((updQueue_inv ..).trans (fillTop_inv ..))))
  · refine unlessBad_inv ?_
    generalize lookWord s n q p = k at hlook ⊢
    split
    · exact .refl s
    · exact hlook
    · exact hlook
    · exact hlook.trans (consumeTop_inv ..)
  · exact ifGood_inv (loopPacket_inv ..)
  · exact ifGood_inv (endLoopPacket_inv ..)
  · exact unlessBad_inv (writePacket_inv ..)
  · refine unlessBad_inv ?_
    generalize lookWord s n q p = k at hlook ⊢
    split
    · exact .refl s
    · exact hlook
    · exact hlook
    · exact hlook
  · exact ifGood_inv (waitsFor_inv (.refl s))
  · exact ifGood_inv (fetchFence_inv ..)
  · exact ifGood_inv (dependPacket_inv ..)
  · exact unlessBad_inv (waitsFor_inv (stampPacket_inv ..))
  · exact doCommons_inv ..
  · exact unlessBad_inv (waitsFor_inv (waitsFor_inv (sendMsix_inv ..)))
  · exact .refl s

theorem pollPackets_inv (n fuel left : Nat) (s : State) : KeepsInv s (pollPackets n fuel left s) := by
  induction fuel generalizing left s with
  | zero => cases left <;> exact .refl s
  | succ fuel ih =>
    cases left with
    | zero => exact .refl s
    | succ left =>
      rw [pollPackets]
      split
      · exact .refl s
      next q _ =>
      refine .ite (.refl s) ?_
      split
      · exact .refl s
      · exact .ite ((popLevel_inv ..).trans (ih _ _)) (popLevel_inv ..)
      · exact .refl s
      · exact queueError_inv ..
      · next p va _ =>
        dsimp only
        refine KeepsInv.trans (fillTop_inv s n true) ?_
        split
        · exact .ite (queueError_inv ..) ((consume_inv ..).trans ((updTop_inv ..).trans (ih _ _)))
        · have hpacket := processPacket_inv (fillTop s n true) n (((fillTop s n true).queue? n).getD q) p va
          generalize processPacket (fillTop s n true) n (((fillTop s n true).queue? n).getD q) p va = r at hpacket ⊢
          cases r with
          | go s2 => exact hpacket.trans ((consume_inv ..).trans (ih _ _))
          | jump s2 => exact hpacket.trans (ih _ _)
          | stop s2 => exact hpacket.trans (consume_inv ..)
          | stay s2 => exact hpacket
          | error s2 code => exact hpacket.trans (queueError_inv ..)

theorem execSlotPoll_inv (sl : Nat) (s : State) : StepInv s (execSlotPoll sl s) := by
  unfold execSlotPoll
  dsimp only
  split
  · exact .of_next (.refl _)
  · split
    · exact .of_next (.refl _)
    · split
      · exact .of_next (.refl _)
      · split
        · exact .of_next (.refl _)
        · split
          · exact .of_next (.refl _)
          · split
            · exact .of_next (.ite ((readQcb_inv ..).trans (updQueue_inv ..)) (.refl _))
            · refine .of_next ?_
              refine .ite ?_ ?_
              · refine KeepsInv.trans ?_ ((fillAll_inv ..).trans ((pollPackets_inv ..).trans (writeQcb_inv ..)))
                exact .ite ((readQcb_inv ..).trans (updQueue_inv ..)) (.refl _)
              · refine KeepsInv.trans ?_ ((fillAll_inv ..).trans (pollPackets_inv ..))
                exact .ite ((readQcb_inv ..).trans (updQueue_inv ..)) (.refl _)

theorem fillBlock_inv (s : State) (x : Launch) (hive : Nat) (rs : List RegionEntry) : KeepsInv s (fillBlock s x hive rs) :=
  (fillBlock_cells ..).keepsInv

theorem bringSpares_inv (s : State) : KeepsInv s (bringSpares s) := by
  unfold bringSpares
  exact .foldl (fun st a => .ite (dueOnce_inv ..) (.refl _)) _ _

theorem failQueue_inv (s : State) (x : Launch) (code : Nat) : KeepsInv s (failQueue s x code) := by
  unfold failQueue
  split
  · exact .ite (.refl _) (queueError_inv ..)
  · exact .refl _

theorem writeCompletion_inv (s : State) (x : Launch) (status : Nat) (ws : List Word) : KeepsInv s (writeCompletion s x status ws) := by
  unfold writeCompletion
  dsimp only
  refine .ite ?_ ?_
  · split
    · exact failQueue_inv ..
    · exact .refl _
  · split
    · split
      · exact (deviceStoreFrom_inv ..).trans (failQueue_inv ..)
      · exact deviceStoreFrom_inv ..
    · exact failQueue_inv ..

theorem endUnrun_inv (s : State) (l : Nat) (x : Launch) (status : Nat) : KeepsInv s (endUnrun s l x status) := by
  unfold endUnrun
  dsimp only
  refine KeepsInv.trans ?_ (updQueue_inv ..)
  refine .ite ?_ ?_
  · refine KeepsInv.trans ?_ (writeCompletion_inv ..)
    exact .of_mem rfl
  · refine KeepsInv.trans ?_ (endChain_inv ..)
    refine KeepsInv.trans ?_ (writeCompletion_inv ..)
    exact .of_mem rfl

theorem leaveAccesses_inv (s : State) (l : Nat) : KeepsInv s (leaveAccesses s l) := by
  unfold leaveAccesses
  dsimp only
  refine KeepsInv.trans ?_ (.foldl (fun st a => due_inv ..) _ _)
  exact .of_mem rfl

theorem leaveCore_inv (s : State) (g : Nat) : KeepsInv s (leaveCore s g) := by
  unfold leaveCore
  dsimp only
  exact .of_mem rfl

theorem finishElements_inv (s : State) (g : Nat) : KeepsInv s (finishElements s g) := by
  unfold finishElements
  refine .foldl (fun st a => ?_) _ _
  split
  · exact .foldl (fun st a => makeElementAccess_inv ..) _ _
  · exact .refl _

/-- A launch that is dropped: its accesses, its cores, its notes and its marks go one after another. -/
theorem dropLaunch_inv (s : State) (l : Nat) : KeepsInv s (dropLaunch s l) := by
  have hleave : ∀ (x : Launch) (p : Bool), KeepsInv s (leaveAccesses (if p then x.cores.foldl finishElements s else s) l) := fun x p =>
    KeepsInv.trans (.ite (.foldl (fun st a => finishElements_inv ..) _ _) (.refl s)) (leaveAccesses_inv ..)
  have hcores : ∀ (s0 : State) (x : Launch) (p : Bool), KeepsInv s0 (if p then x.cores.foldl leaveCore s0 else s0) := fun s0 x p =>
    .ite (.foldl (fun st a => leaveCore_inv ..) _ _) (.refl s0)
  unfold dropLaunch
  split
  · exact .refl s
  next x _ =>
  refine (hleave x (x.holdsCores && x.state != .saved)).trans ((hcores _ x (x.holdsCores && x.state != .saved)).trans ?_)
  refine KeepsInv.trans ?_ (KeepsInv.trans (.foldl (fun st a => due_inv ..) _ _) (bringSpares_inv ..))
  exact .ite (.of_mem rfl) (.of_mem rfl)

theorem launches_inv (s : State) (a : Table Launch) : KeepsInv s { s with launches := a } := .of_mem rfl

theorem checkChild_inv (s : State) (l : Nat) (y : Launch) : KeepsInv s (checkChild s l y) := by
  unfold checkChild
  dsimp only
  split
  · exact (chargeHost_inv ..).trans (setLaunch_inv ..)
  · refine .ite ((chargeHost_inv ..).trans (endUnrun_inv ..)) ?_
    exact (chargeHost_inv ..).trans ((launches_inv ..).trans ((failQueue_inv ..).trans (endChain_inv ..)))
  · exact (chargeHost_inv ..).trans ((launches_inv ..).trans ((failQueue_inv ..).trans (endChain_inv ..)))

theorem startChild_inv (s : State) (x : Launch) (ws : List Word) : KeepsInv s (startChild s x ws) := by
  unfold startChild
  dsimp only
  split
  · exact endChain_inv ..
  · refine .ite (endChain_inv ..) ?_
    exact .ite ((newId_inv ..).trans ((setLaunch_inv ..).trans (checkChild_inv ..))) ((newId_inv ..).trans (setLaunch_inv ..))

theorem closeLaunch_inv (s : State) (x : Launch) (status : Nat) (ws : List Word) : KeepsInv s (closeLaunch s x status ws) := by
  unfold closeLaunch
  exact (writeCompletion_inv ..).trans (endChain_inv ..)

theorem finishLaunch_inv (s : State) (l status : Nat) : KeepsInv s (finishLaunch s l status) := by
  unfold finishLaunch
  dsimp only
  split
  · exact .refl _
  · refine .ite ((reachSaved_inv ..).trans ((dropLaunch_inv ..).trans (setLaunch_inv ..))) ?_
    split
    · refine .ite ?_ ?_
      · exact (reachSaved_inv ..).trans ((dropLaunch_inv ..).trans ((writeCompletion_inv ..).trans (startChild_inv ..)))
      · exact (reachSaved_inv ..).trans ((dropLaunch_inv ..).trans (closeLaunch_inv ..))
    · exact (reachSaved_inv ..).trans ((dropLaunch_inv ..).trans (closeLaunch_inv ..))

theorem execLaunchRetirement_inv (l : Nat) (s : State) : StepInv s (execLaunchRetirement l s) := by
  unfold execLaunchRetirement
  split
  · exact .of_next (.refl _)
  · split
    · refine .of_next ?_
      refine .ite (.refl _) ?_
      refine KeepsInv.trans ?_ (bringSpares_inv ..)
      refine KeepsInv.trans ?_ (closeLaunch_inv ..)
      exact .of_mem rfl
    · split
      · exact .of_next (.refl _)
      · split
        · exact .of_next (finishLaunch_inv ..)
        · exact .of_next (dueOnce_inv ..)

theorem execHostTermination_inv (l : Nat) (s : State) : StepInv s (execHostTermination l s) := by
  unfold execHostTermination
  split
  · exact .of_next (.refl _)
  · exact .of_next (.ite (finishLaunch_inv ..) (.refl _))

theorem launchRecord_inv (s : State) (l : Nat) (x : Launch) (code cause : Nat) (a0 a1 : Word) :
    KeepsInv s (launchRecord s l x code cause a0 a1) := by
  unfold launchRecord
  dsimp only
  exact (writeRecord_inv ..).trans (updLaunch_inv ..)

theorem failByLink_inv (s : State) (l : Nat) (x : Launch) : KeepsInv s (failByLink s l x) := by
  unfold failByLink
  exact (launchRecord_inv ..).trans (finishLaunch_inv ..)

theorem execDieLinkLost_inv (s : State) : StepInv s (execDieLinkLost s) := by
  unfold execDieLinkLost
  dsimp only
  refine .of_next ?_
  refine KeepsInv.trans ?_ (.foldl (fun st a => .ite (failByLink_inv ..) (.refl _)) _ _)
  exact .of_mem rfl

theorem setPriorities_inv (s : State) : KeepsInv s (setPriorities s) := by
  unfold setPriorities
  dsimp only
  exact .of_mem rfl

theorem decideLaunch_inv (s : State) (l : Nat) (x : Launch) : KeepsInv s (decideLaunch s l x) := by
  unfold decideLaunch
  dsimp only
  refine .ite (.refl _) ?_
  refine .ite (.ite (endUnrun_inv ..) (.ite (endUnrun_inv ..) (.of_mem rfl))) ?_
  refine .ite (setLaunch_inv ..) ?_
  refine .ite ?_ ?_
  · split
    · refine .ite ((checkChild_inv ..).trans (endUnrun_inv ..)) ?_
      exact .ite ((checkChild_inv ..).trans (endUnrun_inv ..)) ((checkChild_inv ..).trans (launches_inv ..))
    · exact checkChild_inv ..
  · split
    · exact (chargeHost_inv ..).trans ((launches_inv ..).trans (failQueue_inv ..))
    · exact (chargeHost_inv ..).trans (endUnrun_inv ..)
    · refine .ite ?_ ?_
      · exact (chargeHost_inv ..).trans ((updQueue_inv ..).trans ((writeQcb_inv ..).trans (endUnrun_inv ..)))
      · refine .ite ?_ ?_
        · exact (chargeHost_inv ..).trans ((updQueue_inv ..).trans ((writeQcb_inv ..).trans (endUnrun_inv ..)))
        · exact (chargeHost_inv ..).trans ((updQueue_inv ..).trans ((writeQcb_inv ..).trans (launches_inv ..)))

theorem decideAll_inv (s : State) : KeepsInv s (decideAll s) := by
  unfold decideAll
  dsimp only
  refine .foldl (fun st a => ?_) _ _
  split
  · exact decideLaunch_inv ..
  · exact .refl _

theorem reserveFrom_inv (s : State) (fuel need j last : Nat) : KeepsInv s (reserveFrom s fuel need j last).1 := by
  induction fuel generalizing s need j last with
  | zero => exact .refl s
  | succ fuel ih =>
    cases need with
    | zero => exact .refl s
    | succ need =>
      rw [reserveFrom]
      split
      · exact ih ..
      · exact KeepsInv.trans (b := { s with reserved := s.reserved.put j (Table.get 0 s.reserved j + Nat.min (need + 1) (allowanceLeft s j)) })
          (.of_mem rfl) (ih ..)

theorem admitLaunch_inv (s : State) (l : Nat) (x : Launch) (cores : List Nat) (base t j : Nat) :
    KeepsInv s (admitLaunch s l x cores base t j) := by
  unfold admitLaunch
  dsimp only
  exact .ite ((setLaunch_inv ..).trans (due_inv ..)) ((setLaunch_inv ..).trans ((updQueue_inv ..).trans (due_inv ..)))

theorem rampViolation_inv (s : State) (l : Nat) (x : Launch) (t : Nat) : KeepsInv s (rampViolation s l x t) := by
  unfold rampViolation
  dsimp only
  exact (launchRecord_inv ..).trans (endUnrun_inv ..)

theorem govern_inv (s : State) (l : Nat) (x : Launch) (cores : List Nat) (base : Nat) : KeepsInv s (govern s l x cores base).1 := by
  unfold govern
  dsimp only
  split
  · dsimp only
    exact rampViolation_inv ..
  · split
    · exact .refl _
    · dsimp only
      refine KeepsInv.trans ?_ (admitLaunch_inv ..)
      refine KeepsInv.trans ?_ (reserveFrom_inv ..)
      exact .of_mem rfl

theorem beginSave_inv (s : State) (l : Nat) : KeepsInv s (beginSave s l) := by
  unfold beginSave
  dsimp only
  refine .ite (updLaunch_inv ..) ?_
  refine KeepsInv.trans ?_ (KeepsInv.trans (.foldl (fun st a => updCore_inv ..) _ _) (due_inv ..))
  exact (stopLaunch_inv ..).trans ((undue_inv ..).trans (updLaunch_inv ..))

theorem preemptFor_inv (s : State) (l : Nat) : KeepsInv s (preemptFor s l) := by
  unfold preemptFor
  dsimp only
  split
  · exact .refl _
  · refine .ite (.refl _) ?_
    split
    · exact .refl _
    · exact .foldl (fun st a => beginSave_inv ..) _ _

theorem passOne_inv (p : Pass) (c : Nat × Launch) : KeepsInv p.s (passOne p c).s := by
  unfold passOne
  dsimp only
  split
  · exact .refl _
  split
  · exact .refl _
  split
  · exact .refl _
  split
  · exact .refl _
  · exact govern_inv ..

theorem foldl_passOne_inv (cs : List (Nat × Launch)) (p : Pass) : KeepsInv p.s (cs.foldl passOne p).s := by
  induction cs generalizing p with
  | nil => exact .refl _
  | cons c cs ih => exact (passOne_inv ..).trans (ih _)

theorem execAdmissionPass_inv (s : State) : StepInv s (execAdmissionPass s) := by
  unfold execAdmissionPass
  dsimp only
  refine .of_next ?_
  refine KeepsInv.trans ?_ (.foldl (fun st a => preemptFor_inv ..) _ _)
  refine KeepsInv.trans ?_ (foldl_passOne_inv ..)
  exact (due_inv ..).trans ((decideAll_inv ..).trans (setPriorities_inv ..))

theorem execRampSlotBoundary_inv (s : State) : StepInv s (execRampSlotBoundary s) := by
  unfold execRampSlotBoundary
  dsimp only
  refine .of_next ?_
  refine KeepsInv.trans ?_ (due_inv ..)
  exact .of_mem rfl

theorem loadCores_inv (s : State) (l : Nat) (x : Launch) (im : LoadedImage) : KeepsInv s (loadCores s l x im) := by
  unfold loadCores
  dsimp only
  refine .foldl (fun st a => ?_) _ _
  exact .of_mem rfl

theorem execLaunchStart_inv (l : Nat) (s : State) : StepInv s (execLaunchStart l s) := by
  unfold execLaunchStart
  dsimp only
  split
  · exact .of_next (.refl _)
  · split
    · exact .of_next (.refl _)
    · refine .of_next ?_
      refine .ite ?_ ?_
      · refine KeepsInv.trans ?_ ((loadCores_inv ..).trans ((setLaunch_inv ..).trans (due_inv ..)))
        exact (chargeHost_inv ..).trans (.foldl (fun st a => fillBlock_inv ..) _ _)
      · refine KeepsInv.trans ?_ ((loadCores_inv ..).trans (setLaunch_inv ..))
        exact (chargeHost_inv ..).trans (.foldl (fun st a => fillBlock_inv ..) _ _)

theorem writeSave_inv (s : State) (l : Nat) (x : Launch) : KeepsInv s (writeSave s l x) :=
  (writeSave_cells ..).keepsInv

theorem ramps_inv (s : State) (a : List (Nat × Nat × List Nat)) : KeepsInv s { s with ramps := a } := .of_mem rfl

theorem saveOut_inv (s : State) (l : Nat) (x : Launch) : KeepsInv s (saveOut s l x) := by
  unfold saveOut
  dsimp only
  refine KeepsInv.trans ?_ (ramps_inv ..)
  refine KeepsInv.trans ?_ (writeSave_inv ..)
  refine KeepsInv.trans ?_ (reachSaved_inv ..)
  refine KeepsInv.trans ?_ (setLaunch_inv ..)
  refine KeepsInv.trans ?_ (undue_inv ..)
  refine .foldl (fun st a => ?_) _ _
  exact .of_mem rfl

theorem execSaveComplete_inv (l : Nat) (s : State) : StepInv s (execSaveComplete l s) := by
  unfold execSaveComplete
  dsimp only
  split
  · exact .of_next (.refl _)
  · split
    · exact .of_next (.refl _)
    · split
      · split
        · exact .of_next ((setLaunch_inv ..).trans (due_inv ..))
        · exact .of_next (dueOnce_inv ..)
      · split
        · exact .of_next (.refl _)
        · split
          · exact .of_next (saveOut_inv ..)
          · exact .of_next ((setLaunch_inv ..).trans (dueOnce_inv ..))

end Sys2Proof.Machine
end

section
/-!
PROOFS. What keeps the invariant: stops, resume commands and rollbacks.
-/
namespace Sys2Proof.Machine
theorem resumeStatus_inv (s : State) (f k : Nat) : KeepsInv s (resumeStatus s f k) := by
  unfold resumeStatus
  exact updFunc_inv ..

theorem resume_inv (s : State) (mode : Nat) : KeepsInv s (resume s mode) := by
  unfold resume
  dsimp only
  refine .ite (.refl _) ?_
  split
  · exact resumeStatus_inv ..
  · refine .ite (resumeStatus_inv ..) ?_
    refine .ite ((resumeStatus_inv ..).trans (finishLaunch_inv ..)) ?_
    exact (resumeStatus_inv ..).trans ((setLaunch_inv ..).trans (tryRestart_inv ..))

theorem execResumeRetry_inv (s : State) : StepInv s (execResumeRetry s) := by
  unfold execResumeRetry
  exact .of_next (resume_inv ..)

theorem execResumeRetranslate_inv (s : State) : StepInv s (execResumeRetranslate s) := by
  unfold execResumeRetranslate
  exact .of_next (resume_inv ..)

theorem execResumeSkip_inv (s : State) : StepInv s (execResumeSkip s) := by
  unfold execResumeSkip
  exact .of_next (resume_inv ..)

theorem execResumeClearPrt_inv (s : State) : StepInv s (execResumeClearPrt s) := by
  unfold execResumeClearPrt
  exact .of_next (resume_inv ..)

theorem execResumeTerminate_inv (s : State) : StepInv s (execResumeTerminate s) := by
  unfold execResumeTerminate
  exact .of_next (resume_inv ..)

theorem redoRequest_inv (s : State) (g id : Nat) : KeepsInv s (redoRequest s g id) := by
  unfold redoRequest
  dsimp only
  split
  · exact updCore_inv ..
  · refine KeepsInv.trans ?_ (tryLeave_inv ..)
    exact .of_mem rfl

theorem rerunRoutine_inv (s : State) (g : Nat) : KeepsInv s (rerunRoutine s g) := by
  unfold rerunRoutine
  dsimp only
  split
  · exact .refl _
  · exact setCore_inv ..

theorem renewRecords_inv (s : State) (g h e : Nat) (new : Handle) : KeepsInv s (renewRecords s g h e new) := by
  unfold renewRecords
  dsimp only
  exact updCore_inv ..

theorem retranslateKept_inv (s : State) (x : Launch) (g h e : Nat) (kept : Handle) : KeepsInv s (retranslateKept s x g h e kept) := by
  unfold retranslateKept
  dsimp only
  split
  · split
    · exact renewRecords_inv ..
    · exact .refl _
  · split
    · exact .ite ((touch_inv ..).trans (renewRecords_inv ..)) ((touch_inv ..).trans (meetFault_inv ..))
    · exact meetFault_inv ..
    · exact meetFault_inv ..

theorem retranslateOwn_inv (s : State) (l : Nat) (x : Launch) (g h : Nat) (engine : Option Nat) :
    KeepsInv s (retranslateOwn s l x g h engine) := by
  unfold retranslateOwn
  dsimp only
  split
  · split
    · split
      · exact (updHandle_inv ..).trans (renewRecords_inv ..)
      · exact updHandle_inv ..
    · exact .refl _
  · refine .ite ((updHandle_inv ..).trans (walked_inv _ _ _ _ _ fun st a => ?_)) ((updHandle_inv ..).trans (redoXlate_inv ..))
    split
    · exact (giveHandle_inv ..).trans (renewRecords_inv ..)
    · exact giveHandle_inv ..

theorem retranslate_inv (s : State) (l : Nat) (x : Launch) (g h : Nat) (engine : Option Nat) :
    KeepsInv s (retranslate s l x g h engine) := by
  unfold retranslate
  dsimp only
  split
  · exact .ite (retranslateOwn_inv ..) (retranslateKept_inv ..)
  · exact retranslateOwn_inv ..

theorem applyAnswer_inv (l : Nat) (x : Launch) (s : State) (r : StopRec) : KeepsInv s (applyAnswer l x s r) := by
  unfold applyAnswer
  dsimp only
  split
  · exact .ite (retranslate_inv ..) (.refl _)
  · exact updCore_inv ..
  · exact .foldl (fun st a => (updCore_inv ..).trans (updPoint_inv ..)) _ _
  · refine .ite (.refl _) ?_
    refine .ite (updCore_inv ..) ?_
    refine .ite ?_ (.ite (rerunRoutine_inv ..) (.refl _))
    split
    · exact redoRequest_inv ..
    · exact .refl _

theorem redoXlates_inv (s : State) (g : Nat) : KeepsInv s (redoXlates s g) := by
  unfold redoXlates
  refine .foldl (fun st a => ?_) _ _
  split
  · exact .ite (redoXlate_inv ..) (.refl _)
  · exact .refl _

theorem restart_inv (s : State) (l : Nat) (x : Launch) (cause : Nat) : KeepsInv s (restart s l x cause) := by
  unfold restart
  dsimp only
  refine KeepsInv.trans ?_ (.foldl (fun st a => (goOnEngines_inv ..).trans (wake_inv ..)) _ _)
  refine KeepsInv.trans ?_ (.foldl (fun st a => applyAnswer_inv ..) _ _)
  refine KeepsInv.trans ?_ (.foldl (fun st a => redoXlates_inv ..) _ _)
  exact (restartCores_inv ..).trans (setLaunch_inv ..)

theorem resumeOverlay_inv (s : State) (g : Nat) : KeepsInv s (resumeOverlay s g) := by
  unfold resumeOverlay
  split
  · exact .refl _
  · exact .foldl (fun st a => due_inv ..) _ _

theorem bringBack_inv (s : State) (l : Nat) (x : Launch) : KeepsInv s (bringBack s l x) := by
  unfold bringBack
  dsimp only
  refine KeepsInv.trans ?_ (setLaunch_inv ..)
  refine KeepsInv.trans ?_ (.foldl (fun st a => due_inv ..) _ _)
  refine .foldl (fun st a => ?_) _ _
  refine KeepsInv.trans ?_ (resumeOverlay_inv ..)
  exact .of_mem rfl

theorem execPlacementRestart_inv (l : Nat) (s : State) : StepInv s (execPlacementRestart l s) := by
  unfold execPlacementRestart
  dsimp only
  split
  · exact .of_next (.refl _)
  · split
    · exact .of_next (.refl _)
    · split
      · split
        · exact .of_next (bringBack_inv ..)
        · split
          · exact .of_next ((bringBack_inv ..).trans (restart_inv ..))
          · exact .of_next (bringBack_inv ..)
      · split
        · exact .of_next (restart_inv ..)
        · exact .of_next (.refl _)

theorem undoLines_inv (s : State) (l : List (Nat × Line × Bool)) : KeepsInv s (undoLines s l) := by
  induction l generalizing s with
  | nil => exact .refl s
  | cons e l ih =>
    obtain ⟨k, old, p⟩ := e
    rw [undoLines_cons]
    exact ((writeBytes_inv s _ _).trans (setPoison_inv _ _ _)).trans (ih _)

theorem renewXlates_inv (s : State) (g : Nat) : KeepsInv s (renewXlates s g) := by
  unfold renewXlates
  refine .foldl (fun st a => ?_) _ _
  split
  · exact .ite (.refl _) (redoXlate_inv ..)
  · exact .refl _

theorem accesses_messages_inv (s : State) (a : Table Access) (b : Table Message) :
    KeepsInv s { s with accesses := a, messages := b } := .of_mem rfl

theorem restoreRegion_inv (s : State) (g : Nat) (r : Rerun) : KeepsInv s (restoreRegion s g r) := by
  unfold restoreRegion
  dsimp only
  split
  · refine KeepsInv.trans ?_ ((accesses_messages_inv ..).trans ((setCore_inv ..).trans (renewXlates_inv ..)))
    exact (undoLines_inv ..).trans (undue_inv ..)
  · exact .refl _

theorem rollbackRecord_inv (s : State) (g l kind code cause : Nat) (a0 a1 : Word) :
    KeepsInv s (rollbackRecord s g l kind code cause a0 a1) := by
  unfold rollbackRecord
  dsimp only
  split
  · exact .refl _
  · exact .ite ((keepRecord_inv ..).trans ((writeRecord_inv ..).trans (updLaunch_inv ..))) ((keepRecord_inv ..).trans (writeRecord_inv ..))

theorem mismatch_inv (s : State) (g l cause : Nat) (a0 a1 : Word) : KeepsInv s (mismatch s g l cause a0 a1) := by
  unfold mismatch
  dsimp only
  exact (rollbackRecord_inv ..).trans ((finishLaunch_inv ..).trans (due_inv ..))

theorem execDataErrorDetected_inv (g : Nat) (s : State) : StepInv s (execDataErrorDetected g s) := by
  unfold execDataErrorDetected
  dsimp only
  split
  · exact .of_next (.refl _)
  · split
    · exact .of_next (.refl _)
    · split
      · exact .of_next (.refl _)
      · split
        · exact .of_next (due_inv ..)
        · split
          · exact .of_next (mismatch_inv ..)
          · split
            · exact .of_next (mismatch_inv ..)
            · split
              · split
                · exact .of_next (mismatch_inv ..)
                · exact .of_next (restoreRegion_inv ..)
              · exact .of_next (.refl _)

theorem countRollback_inv (s : State) (g : Nat) : KeepsInv s (countRollback s g) := by
  unfold countRollback
  dsimp only
  refine .ite ?_ (.of_mem rfl)
  refine KeepsInv.trans ?_ (due_inv ..)
  exact .of_mem rfl

theorem afterRollback_inv (s : State) (l : Nat) : KeepsInv s (afterRollback s l) := by
  unfold afterRollback
  dsimp only
  split
  · exact .refl _
  · refine .ite (.refl _) ?_
    refine .ite ?_ ?_
    · refine KeepsInv.trans ?_ (KeepsInv.trans (.foldl (fun st a => updCore_inv ..) _ _) (beginSave_inv ..))
      exact .ite (.refl _) (stopNow_inv ..)
    · exact KeepsInv.trans (.ite (.refl _) (stopNow_inv ..)) (.foldl (fun st a => updCore_inv ..) _ _)

theorem execRollbackRerunEnd_inv (g : Nat) (s : State) : StepInv s (execRollbackRerunEnd g s) := by
  unfold execRollbackRerunEnd
  dsimp only
  split
  · split
    · exact .of_next (restoreRegion_inv ..)
    · split
      · refine .of_next ?_
        refine KeepsInv.trans ?_ ((rollbackRecord_inv ..).trans ((countRollback_inv ..).trans (afterRollback_inv ..)))
        exact setCore_inv ..
      · exact .of_next (mismatch_inv ..)
  · exact .of_next (.refl _)

end Sys2Proof.Machine
end

section
/-!
PROOFS. What keeps the invariant: how a core takes its cycle.
-/
namespace Sys2Proof.Machine
theorem startSegment_inv (s : State) (g : Nat) : KeepsInv s (startSegment s g) := by
  unfold startSegment
  dsimp only
  exact (setCore_inv ..).trans (due_inv ..)

theorem execSegmentLineDelivered_inv (g fr line : Nat) (s : State) : StepInv s (execSegmentLineDelivered g fr line s) := by
  unfold execSegmentLineDelivered
  dsimp only
  split
  · exact .of_next (.refl _)
  · split
    · exact .of_next (.refl _)
    · split
      · exact .of_next (meetLostLink_inv ..)
      · split
        · exact .of_next (KeepsInv.trans (.ite ((setCore_inv ..).trans (due_inv ..)) (setCore_inv ..)) (due_inv ..))
        · exact .of_next (.ite ((setCore_inv ..).trans (due_inv ..)) (setCore_inv ..))

theorem prepare_inv (s : State) (g : Nat) (b : Bundle) : KeepsInv s (prepare s g b) := by
  unfold prepare
  dsimp only
  exact .of_mem rfl

theorem holdCore_inv (s : State) (g cause : Nat) : KeepsInv s (holdCore s g cause) := by
  unfold holdCore
  exact updCore_inv ..

theorem commitCore_inv (s : State) (g : Nat) : KeepsInv s (commitCore s g) := by
  unfold commitCore
  dsimp only
  refine .ite (.refl _) ?_
  refine KeepsInv.trans ?_ (releaseHeld_inv ..)
  exact .of_mem rfl

theorem commitIf_inv (s : State) (g : Nat) (p : Bool) : KeepsInv s (commitIf s g p) := by
  unfold commitIf
  exact .ite (commitCore_inv ..) (.refl _)

theorem runMarks_inv (s : State) (g : Nat) (b : Bundle) : KeepsInv s (runMarks s g b) := by
  unfold runMarks
  dsimp only
  refine .ite (.refl _) ?_
  exact .ite (KeepsInv.trans (.ite (setCore_inv ..) (.refl _)) (startSegment_inv ..)) (.ite (setCore_inv ..) (.refl _))

theorem micro_issuing_inv (s : State) (a : List Instr) (b : Bool) : KeepsInv s { s with micro := a, issuing := b } := .of_mem rfl

theorem issue_inv (s : State) (g : Nat) (b : Bundle) (items : List Item) : KeepsInv s (issue s g b items) := by
  unfold issue
  dsimp only
  exact (runMarks_inv ..).trans ((updCore_inv ..).trans (micro_issuing_inv ..))

theorem issueSkipped_inv (s : State) (g : Nat) (b : Bundle) (items : List Item) : KeepsInv s (issueSkipped s g b items) := by
  unfold issueSkipped
  dsimp only
  exact (runMarks_inv ..).trans ((updCore_inv ..).trans (micro_issuing_inv ..))

theorem execBundleIssue_inv (g : Nat) (s : State) : StepInv s (execBundleIssue g s) := by
  unfold execBundleIssue
  dsimp only
  split
  · exact .of_next (holdCore_inv ..)
  · split
    · exact .of_next ((prepare_inv ..).trans (issueSkipped_inv ..))
    · exact .of_next ((prepare_inv ..).trans (stepFault_inv ..))
  · split
    · exact .of_next (commitIf_inv ..)
    · split
      · exact .of_next ((commitIf_inv ..).trans ((prepare_inv ..).trans (issueSkipped_inv ..)))
      · split
        · split
          · exact .of_next ((commitIf_inv ..).trans ((prepare_inv ..).trans (raise_inv ..)))
          · exact .of_next ((commitIf_inv ..).trans ((prepare_inv ..).trans (issue_inv ..)))
        · exact .of_next ((commitIf_inv ..).trans ((prepare_inv ..).trans (holdCore_inv ..)))

theorem endCore_inv (s : State) (g : Nat) : KeepsInv s (endCore s g) := by
  unfold endCore
  dsimp only
  exact (updCore_inv ..).trans ((releaseHeld_inv ..).trans (wake_inv ..))

theorem closeIssue_inv (s : State) : KeepsInv s (closeIssue s) := by
  unfold closeIssue
  dsimp only
  refine .ite ?_ ?_
  · refine KeepsInv.trans ?_ (endCore_inv ..)
    refine KeepsInv.trans ?_ (freeSlots_inv ..)
    refine KeepsInv.trans ?_ (updCore_inv ..)
    refine KeepsInv.trans ?_ (runRoutine_inv ..)
    refine KeepsInv.trans ?_ (updCore_inv ..)
    exact .of_mem rfl
  · refine KeepsInv.trans ?_ (freeSlots_inv ..)
    refine KeepsInv.trans ?_ (updCore_inv ..)
    refine KeepsInv.trans ?_ (runRoutine_inv ..)
    refine KeepsInv.trans ?_ (updCore_inv ..)
    exact .of_mem rfl

theorem execWaitEvaluation_inv (g : Nat) (s : State) : StepInv s (execWaitEvaluation g s) := by
  unfold execWaitEvaluation
  dsimp only
  split
  · split
    · exact .of_next (.refl _)
    · split
      · exact .of_next (setCore_inv ..)
      · exact .of_next ((commitCore_inv ..).trans ((prepare_inv ..).trans (holdCore_inv ..)))
  · exact .of_next (.refl _)

theorem arrivalFault_inv (s : State) (g : Nat) (r : Request) : KeepsInv s (arrivalFault s g r) := by
  unfold arrivalFault
  dsimp only
  exact takeFault_inv ..

theorem landRequests_inv (s : State) (g : Nat) : KeepsInv s (landRequests s g) := by
  unfold landRequests
  dsimp only
  exact .of_mem rfl

theorem execVariableLanding_inv (g : Nat) (s : State) : StepInv s (execVariableLanding g s) := by
  unfold execVariableLanding
  dsimp only
  split
  · exact .of_next (holdCore_inv ..)
  · split
    · exact .of_next (arrivalFault_inv ..)
    · exact .of_next (landRequests_inv ..)

theorem execRegisterWriteLanding_inv (g : Nat) (s : State) : StepInv s (execRegisterWriteLanding g s) := by
  unfold execRegisterWriteLanding
  dsimp only
  exact .of_next (setCore_inv ..)

theorem execRoutineLanding_inv (g : Nat) (s : State) : StepInv s (execRoutineLanding g s) := by
  unfold execRoutineLanding
  dsimp only
  split
  · split
    · exact .of_next (setCore_inv ..)
    · exact .of_next (.refl _)
  · exact .of_next (.refl _)

theorem execLandingTimeout_inv (g : Nat) (s : State) : StepInv s (execLandingTimeout g s) := by
  unfold execLandingTimeout
  dsimp only
  exact .of_next ((takeFault_inv ..).trans (updCore_inv ..))

theorem advanceTime_inv (s : State) : KeepsInv s (advanceTime s) := by
  unfold advanceTime
  dsimp only
  exact .of_mem rfl

end Sys2Proof.Machine
end

section
/-!
PROOFS. What keeps the invariant: links and what comes on them.
-/
namespace Sys2Proof.Machine
theorem linkFlitTime_inv (s : State) (l : Nat) : KeepsInv s (linkFlitTime s l) := by
  unfold linkFlitTime
  dsimp only
  refine .ite (.refl _) ?_
  refine .ite ?_ ?_
  · refine KeepsInv.trans ?_ (dueOnce_inv ..)
    split
    · refine .ite ?_ (.of_mem rfl)
      refine KeepsInv.trans ?_ (dueOnce_inv ..)
      exact .of_mem rfl
    · exact .of_mem rfl
  · split
    · refine .ite ?_ (.of_mem rfl)
      refine KeepsInv.trans ?_ (dueOnce_inv ..)
      exact .of_mem rfl
    · exact .of_mem rfl

theorem execFlitTime_inv (s : State) : StepInv s (execFlitTime s) := by
  unfold execFlitTime
  exact .of_next (KeepsInv.trans (.foldl (fun st a => linkFlitTime_inv ..) _ _) (due_inv ..))

theorem planSchedule_inv (s : State) : KeepsInv s (planSchedule s) := by
  unfold planSchedule
  dsimp only
  exact (undue_inv ..).trans (due_inv ..)

theorem execLinkScheduleActivate_inv (s : State) : StepInv s (execLinkScheduleActivate s) := by
  unfold execLinkScheduleActivate
  exact .of_next (.of_mem rfl)

theorem sendControl_inv (s : State) (l : Nat) (m : BitVec 128) : KeepsInv s (sendControl s l m) := by
  unfold sendControl
  exact updLink_inv ..

theorem failRemote_inv (s : State) (r : Remote) : KeepsInv s (failRemote s r) := by
  unfold failRemote
  split
  · exact .refl _
  · split
    · exact failPiece_inv ..
    · exact .refl _

theorem rerouteRemote_inv (l : Nat) (s : State) (e : Nat × Remote) : KeepsInv s (rerouteRemote l s e) := by
  unfold rerouteRemote
  dsimp only
  refine .ite (.refl _) ?_
  split
  · refine KeepsInv.trans ?_ (queuePacket_inv ..)
    exact .of_mem rfl
  · refine KeepsInv.trans ?_ (failRemote_inv ..)
    exact .of_mem rfl

theorem rerouteReply_inv (s : State) (o : OutPacket) : KeepsInv s (rerouteReply s o) := by
  unfold rerouteReply
  refine .ite (.refl _) ?_
  split
  · exact queuePacket_inv ..
  · exact .refl _

theorem leaveLink_inv (s : State) (l : Nat) (k : Link) : KeepsInv s (leaveLink s l k) := by
  unfold leaveLink
  dsimp only
  exact KeepsInv.trans (.foldl (fun st a => rerouteRemote_inv ..) _ _) (.foldl (fun st a => .foldl (fun st a => rerouteReply_inv ..) _ _) _ _)

theorem takeDown_inv (s : State) (l reason : Nat) (announce : Bool) : KeepsInv s (takeDown s l reason announce) := by
  unfold takeDown
  dsimp only
  refine .ite (.refl _) ?_
  refine KeepsInv.trans ?_ (healthEvent_inv ..)
  refine KeepsInv.trans ?_ (leaveLink_inv ..)
  exact .of_mem rfl

theorem goRound_inv (s : State) (l : Nat) : KeepsInv s (goRound s l) := by
  unfold goRound
  dsimp only
  refine .ite (.refl _) ?_
  refine KeepsInv.trans ?_ (leaveLink_inv ..)
  exact .of_mem rfl

theorem execLinkDown_inv (l reason : Nat) (s : State) : StepInv s (execLinkDown l reason s) := by
  unfold execLinkDown
  exact .of_next ((takeDown_inv ..).trans (tick_inv ..))

theorem execLinkSilenceTimeout_inv (l : Nat) (s : State) : StepInv s (execLinkSilenceTimeout l s) := by
  unfold execLinkSilenceTimeout
  dsimp only
  exact .of_next (.ite (due_inv ..) (.refl _))

theorem announceSpare_inv (s : State) (l ctype lane slane : Nat) : KeepsInv s (announceSpare s l ctype lane slane) := by
  unfold announceSpare
  dsimp only
  exact (updLink_inv ..).trans ((sendControl_inv ..).trans (tick_inv ..))

theorem execLaneFailed_inv (l lane : Nat) (s : State) : StepInv s (execLaneFailed l lane s) := by
  unfold execLaneFailed
  dsimp only
  split
  · exact .of_next (.refl _)
  · split
    · exact .of_next (updLink_inv ..)
    · split
      · exact .of_next ((updLink_inv ..).trans (due_inv ..))
      · exact .of_next (announceSpare_inv ..)

theorem execLaneSpareSwitch_inv (l : Nat) (s : State) : StepInv s (execLaneSpareSwitch l s) := by
  unfold execLaneSpareSwitch
  dsimp only
  exact .of_next (.ite ((updLink_inv ..).trans (healthEvent_inv ..)) (updLink_inv ..))

theorem hearSpare_inv (s : State) (l : Nat) (m : BitVec 128) : KeepsInv s (hearSpare s l m) := by
  unfold hearSpare
  exact updLink_inv ..

/-- A control message that has been taken keeps the invariant. -/
theorem takeControl_inv {s s1 : State} {l : Nat} {m : BitVec 128} (h : takeControl s = some (l, m, s1)) : KeepsInv s s1 := by
  unfold takeControl at h
  split at h
  · cases h
  · cases h
    exact .of_mem rfl

theorem execSpare_inv (s : State) : StepInv s (execSpare s) := by
  unfold execSpare
  split
  · exact .of_next (.refl _)
  · next h => exact .of_next ((takeControl_inv h).trans ((hearSpare_inv ..).trans (announceSpare_inv ..)))

theorem execSpareAck_inv (s : State) : StepInv s (execSpareAck s) := by
  unfold execSpareAck
  split
  · exact .of_next (.refl _)
  · next h => exact .of_next ((takeControl_inv h).trans (hearSpare_inv ..))

theorem takeCount_inv (s : State) (l : Nat) (m : BitVec 128) : KeepsInv s (takeCount s l m) := by
  unfold takeCount
  dsimp only
  refine .ite (.refl _) ?_
  refine .ite ?_ (.of_mem rfl)
  refine KeepsInv.trans ?_ (planSchedule_inv ..)
  exact .of_mem rfl

theorem execAlign_inv (s : State) : StepInv s (execAlign s) := by
  unfold execAlign
  split
  · exact .of_next (.refl _)
  next h =>
  split
  · exact .of_next ((takeControl_inv h).trans ((goRound_inv ..).trans (sendControl_inv ..)))
  · exact .of_next (takeControl_inv h)

theorem execAlignAck_inv (s : State) : StepInv s (execAlignAck s) := by
  unfold execAlignAck
  split
  · exact .of_next (.refl _)
  · next h => exact .of_next ((takeControl_inv h).trans (takeCount_inv ..))

theorem execDown_inv (s : State) : StepInv s (execDown s) := by
  unfold execDown
  split
  · exact .of_next (.refl _)
  · next h => exact .of_next ((takeControl_inv h).trans (takeDown_inv ..))

theorem receivePacket_inv (l : Nat) (s : State) (p : Packet) : KeepsInv s (receivePacket l s p) := by
  unfold receivePacket
  dsimp only
  refine KeepsInv.trans ?_ (due_inv ..)
  exact .of_mem rfl

theorem receiveMessages_inv (l : Nat) (ms : List (BitVec 128)) (s : State) : KeepsInv s (receiveMessages l ms s) := by
  induction ms generalizing s with
  | nil => exact .refl s
  | cons m ms ih =>
    rw [receiveMessages]
    refine .ite (due_inv ..) ?_
    split
    · exact KeepsInv.trans (b := { s with ctlIn := s.ctlIn ++ [(l, m)] }) (.of_mem rfl) (KeepsInv.trans (due_inv ..) (ih _))
    · exact ih s

theorem openFlit_inv (s0 : State) (l : Nat) (x : BitVec 1792) : KeepsInv s0 (openFlit s0 l x) := by
  unfold openFlit
  dsimp only
  split
  · refine .ite ?_ ?_
    · refine KeepsInv.trans ?_ (KeepsInv.trans (.foldl (fun st a => receivePacket_inv ..) _ _) (due_inv ..))
      exact KeepsInv.trans (.ite (.refl _) (updLink_inv ..)) (updLink_inv ..)
    · refine KeepsInv.trans ?_ ((updLink_inv ..).trans (.foldl (fun st a => receivePacket_inv ..) _ _))
      exact .ite (.refl _) (updLink_inv ..)
  · exact KeepsInv.trans (.ite (.refl _) (updLink_inv ..)) (receiveMessages_inv ..)
  · exact .ite (.refl _) (updLink_inv ..)
  · exact KeepsInv.trans (.ite (.refl _) (updLink_inv ..)) (due_inv ..)

theorem trainLink_inv (s : State) (l : Nat) : KeepsInv s (trainLink s l) := by
  unfold trainLink
  dsimp only
  exact updLink_inv ..

theorem links_inv (s : State) (a : Table Link) : KeepsInv s { s with links := a } := .of_mem rfl

theorem execFlitReceive_inv (l : Nat) (flit : BitVec 1792) (s0 : State) : StepInv s0 (execFlitReceive l flit s0) := by
  unfold execFlitReceive
  dsimp only
  split
  · split
    · exact .of_next (trainLink_inv ..)
    · split
      · exact .of_next ((trainLink_inv ..).trans (updLink_inv ..))
      · split
        · refine .of_next ?_
          refine KeepsInv.trans ?_ (openFlit_inv ..)
          refine .ite ((trainLink_inv ..).trans ((links_inv ..).trans ((updLink_inv ..).trans (dueOnce_inv ..)))) ?_
          exact (trainLink_inv ..).trans ((links_inv ..).trans (updLink_inv ..))
        · split
          · exact .of_next ((trainLink_inv ..).trans ((links_inv ..).trans (updLink_inv ..)))
          · exact .of_next ((trainLink_inv ..).trans (links_inv ..))
  · split
    · exact .of_next (.refl _)
    · split
      · exact .of_next (updLink_inv ..)
      · split
        · refine .of_next ?_
          refine KeepsInv.trans ?_ (openFlit_inv ..)
          refine .ite ?_ ?_
          · refine KeepsInv.trans ?_ (dueOnce_inv ..)
            refine KeepsInv.trans ?_ (updLink_inv ..)
            exact .of_mem rfl
          · refine KeepsInv.trans ?_ (updLink_inv ..)
            exact .of_mem rfl
        · split
          · refine .of_next ?_
            refine KeepsInv.trans ?_ (updLink_inv ..)
            exact .of_mem rfl
          · exact .of_next (.of_mem rfl)

theorem answerPacket_inv (s : State) (f : Nat) (x : InPacket) (ty : Nat) (psn : Bool) (data : List Byte) :
    KeepsInv s (answerPacket s f x ty psn data) := by
  unfold answerPacket
  dsimp only
  exact .ite (queuePacket_inv ..) (.refl _)

theorem grantLine_inv (s : State) (k pa : Nat) : KeepsInv s (grantLine s k pa).2 := by
  unfold grantLine
  split
  · exact bookPort_inv ..
  · exact .refl _

theorem grantLines_inv (k : Nat) (l : List Span) (s : State) : KeepsInv s (grantLines k l s).1 :=
  .of_mem (grantLines_frame k l s).2

/-- The lines of a packet that have come perform, each of which keeps the invariant. -/
theorem runLines_inv {write : Bool} {act : LineAct} (hact : ∀ x sp s, KeepsInv s (act x sp s).1) (l : List (Nat × Nat × Nat × Nat)) (x : InPacket)
    (s : State) : KeepsInv s (runLines write act l x s).1 := by
  induction l generalizing x s with
  | nil => exact .refl s
  | cons e l ih =>
    obtain ⟨t, off, pa, len⟩ := e
    rw [runLines]
    split
    · exact ih ..
    have hblocked := blockedLine_inv s write pa
    generalize blockedLine s write pa = r at hblocked ⊢
    obtain ⟨s1, _ | u⟩ := r
    · exact hblocked.trans ((hact ..).trans (ih ..))
    · exact hblocked.trans (ih ..)

theorem goOnPacket_inv {act : LineAct} {answer : Nat → InPacket → State → State} (hact : ∀ x sp s, KeepsInv s (act x sp s).1)
    (hanswer : ∀ f x s, KeepsInv s (answer f x s)) (id ty f : Nat) (write : Bool) (x : InPacket) (s : State) :
    KeepsInv s (goOnPacket id ty f write act answer x s) := by
  have hrun := runLines_inv (write := write) hact x.lines { x with lines := [] } s
  unfold goOnPacket
  generalize runLines write act x.lines { x with lines := [] } s = r at hrun ⊢
  obtain ⟨s1, y⟩ := r
  dsimp only at hrun ⊢
  split
  · exact hrun.trans (KeepsInv.trans (b := { s1 with pktIn := s1.pktIn.del id }) (.of_mem rfl) (hanswer ..))
  next t ts _ =>
  exact hrun.trans (KeepsInv.trans (b := { s1 with pktIn := s1.pktIn.put id { y with due := ts.foldl Nat.min t } }) (.of_mem rfl) (due_inv ..))

theorem serve_inv {refused : Nat → InPacket → State → State} {act : LineAct} {answer : Nat → InPacket → State → State}
    (hrefused : ∀ f x s, KeepsInv s (refused f x s)) (hact : ∀ x sp s, KeepsInv s (act x sp s).1)
    (hanswer : ∀ f x s, KeepsInv s (answer f x s)) (ty : Nat) (write : Bool) (s : State) :
    StepInv s (serve ty write refused act answer s) := by
  unfold serve
  split
  · exact .of_next (.refl s)
  next id x _ =>
  split
  · exact .of_next (goOnPacket_inv hact hanswer ..)
  split
  · exact .of_next (KeepsInv.trans (b := { s with pktIn := s.pktIn.del id }) (.of_mem rfl) (hrefused ..))
  · exact .of_next ((grantLines_inv ..).trans (goOnPacket_inv hact hanswer ..))

theorem linkWriteLine_inv (x : InPacket) (sp : Span) (s : State) : KeepsInv s (linkWriteLine x sp s).1 := by
  unfold linkWriteLine
  exact writeRun_inv ..

theorem linkAtomicLine_inv (x : InPacket) (sp : Span) (s : State) : KeepsInv s (linkAtomicLine x sp s).1 := by
  unfold linkAtomicLine
  dsimp only
  split
  · split
    · exact .refl s
    have hread := readLine_inv s sp.pa 8
    generalize readLine s sp.pa 8 = r at hread ⊢
    obtain ⟨s1, old, psn⟩ := r
    cases psn
    · exact hread.trans ((writeLine_inv ..).trans (keepReply_inv ..))
    · exact hread
  · exact runAtomic_inv ..

theorem execLinkRead_inv (s : State) : StepInv s (execLinkRead s) := by
  unfold execLinkRead
  exact serve_inv (fun _ _ _ => answerPacket_inv ..) (fun _ _ _ => readLine_inv ..) (fun _ _ _ => answerPacket_inv ..) ..

theorem execLinkWrite_inv (s : State) : StepInv s (execLinkWrite s) := by
  unfold execLinkWrite
  exact serve_inv (fun _ _ _ => answerPacket_inv ..) linkWriteLine_inv (fun _ _ _ => answerPacket_inv ..) ..

theorem execLinkAtomic_inv (s : State) : StepInv s (execLinkAtomic s) := by
  unfold execLinkAtomic
  exact serve_inv (fun _ _ _ => answerPacket_inv ..) linkAtomicLine_inv (fun _ _ _ => answerPacket_inv ..) ..

theorem refuseRequest_inv (s : State) (x : Access) (n pa : Nat) : KeepsInv s (refuseRequest s x n pa) := by
  unfold refuseRequest
  exact updCore_inv ..

theorem refuseRemote_inv (s : State) (n : Nat) (x : Access) (i : Nat) (p : Piece) : KeepsInv s (refuseRemote s n x i p) := by
  unfold refuseRemote
  dsimp only
  split
  · refine .ite ?_ (donePiece_inv ..)
    refine KeepsInv.trans ?_ (elementFault_inv ..)
    exact .of_mem rfl
  · exact (refuseRequest_inv ..).trans (donePiece_inv ..)
  · exact KeepsInv.trans (.ite (.refl _) (countLinkErr_inv ..)) (donePiece_inv ..)

theorem takeAnswer_inv {act : Nat → Remote → Access → Piece → Packet → State → State} (hact : ∀ k r x q p s, KeepsInv s (act k r x q p s))
    (ty request : Nat) (s : State) : StepInv s (takeAnswer ty request act s) := by
  unfold takeAnswer
  split
  · exact .of_next (.refl s)
  next id y _ =>
  dsimp only
  split
  · exact .of_next (.of_mem rfl)
  next k r _ =>
  split
  · exact .of_next (.of_mem rfl)
  split
  · exact .of_next (.of_mem rfl)
  · exact .of_next (KeepsInv.trans (b := { s with pktIn := s.pktIn.del id, remotes := s.remotes.del k }) (.of_mem rfl) (hact ..))

theorem execReadReply_inv (s : State) : StepInv s (execReadReply s) := by
  unfold execReadReply
  refine takeAnswer_inv (fun _ _ _ _ _ _ => ?_) ..
  exact .ite (refuseRemote_inv ..) (donePiece_inv ..)

theorem execAtomicReply_inv (s : State) : StepInv s (execAtomicReply s) := by
  unfold execAtomicReply
  refine takeAnswer_inv (fun _ _ _ _ _ _ => ?_) ..
  exact .ite (refuseRemote_inv ..) (donePiece_inv ..)

theorem execWriteAcknowledgment_inv (s : State) : StepInv s (execWriteAcknowledgment s) := by
  unfold execWriteAcknowledgment
  refine takeAnswer_inv (fun _ _ _ _ _ _ => ?_) ..
  exact KeepsInv.trans (.ite (countLinkErr_inv ..) (.refl _)) (donePiece_inv ..)

end Sys2Proof.Machine
end

section
/-!
PROOFS. What keeps the invariant: registers, resets and reliability.
-/
namespace Sys2Proof.Machine
theorem spoilLine_inv (s : State) (pa : Nat) : KeepsInv s (spoilLine s pa) := by
  unfold spoilLine
  exact .of_mem rfl

theorem execExecCmd_inv (s : State) : StepInv s (execExecCmd s) := by
  unfold execExecCmd
  dsimp only
  split
  · exact .of_next (cmdRefuse_inv ..)
  split
  · exact .of_next (cmdRefuse_inv ..)
  split
  · exact .of_next (cmdBusy_inv ..)
  · obtain ⟨u, hu⟩ := spoilSets_flaws s
      { s with setApplied := newSets s, comSetApplied := s.comSet
               funcs := s.funcs.map fun (f, x) => (f, { x with applied := x.written, key := newKey x }) }
    rw [hu]
    refine .of_next (KeepsInv.trans ?_ (cmdDone_inv ..))
    exact .of_mem rfl

theorem resetCounters_inv (s : State) (gs : List Nat) : KeepsInv s (resetCounters s gs) := by
  unfold resetCounters
  dsimp only
  exact .of_mem rfl

theorem execRekey_inv (s : State) : StepInv s (execRekey s) := by
  unfold execRekey
  dsimp only
  split
  · exact .of_next (cmdRefuse_inv ..)
  · exact .of_next ((resetCounters_inv ..).trans ((updFunc_inv ..).trans (cmdLater_inv ..)))

theorem releasePending_inv (f n : Nat) (s : State) : KeepsInv s (releasePending f n s) := by
  induction n generalizing s with
  | zero => exact .refl s
  | succ n ih =>
    rw [releasePending]
    split
    · exact .refl s
    split
    · exact .refl s
    split
    · exact .refl s
    next r _ =>
    have hrecord := writeRecord_inv s f r.words
    generalize writeRecord s f r.words = w at hrecord ⊢
    obtain ⟨s1, ok⟩ := w
    exact .ite (hrecord.trans ((updLaunch_inv ..).trans (ih _))) (.refl s)

theorem execFrHead_inv (s : State) : StepInv s (execFrHead s) := by
  unfold execFrHead
  dsimp only
  exact .of_next ((updFunc_inv ..).trans (releasePending_inv ..))

theorem setFrBase_inv (s : State) : KeepsInv s (setFrBase s) := by
  unfold setFrBase
  dsimp only
  exact (updFunc_inv ..).trans (releasePending_inv ..)

theorem execHrBase_inv (s : State) : StepInv s (execHrBase s) := by
  unfold execHrBase
  dsimp only
  split
  · exact .of_next (.refl _)
  · refine .of_next ?_
    refine KeepsInv.trans ?_ (.foldl (fun st a => putHealth_inv ..) _ _)
    exact .of_mem rfl

theorem reportLost_inv (s : State) : KeepsInv s (reportLost s) := by
  unfold reportLost
  dsimp only
  refine KeepsInv.trans ?_ (.foldl (fun st a => .ite (unitEvent_inv ..) (.refl _)) _ _)
  refine KeepsInv.trans ?_ (.foldl (fun st a => .foldl (fun st a => unitEvent_inv ..) _ _) _ _)
  refine KeepsInv.trans ?_ (.foldl (fun st a => .foldl (fun st a => unitEvent_inv ..) _ _) _ _)
  exact KeepsInv.trans (.foldl (fun st a => unitEvent_inv ..) _ _) (.foldl (fun st a => unitEvent_inv ..) _ _)

theorem bringDue_inv (due_ : List SpareUnit) (s : State) : KeepsInv s (bringDue due_ s) := by
  unfold bringDue
  refine .foldl (fun st a => ?_) _ _
  refine KeepsInv.trans ?_ (unitEvent_inv ..)
  exact .of_mem rfl

theorem bringUp_inv (s : State) (count : Nat) : KeepsInv s (bringUp s count) := by
  refine ⟨fun hs => ?_⟩
  by_cases hgood : ∀ k ∈ [1, 2, 3], starts s k = true
  · obtain ⟨⟨hinv, _⟩, _⟩ := bringUp_good hs hgood count
    exact hinv
  · obtain ⟨_, _, hinv, _⟩ := bringUp_bad hs hgood count
    exact hinv

theorem execDevReset_inv (s : State) : StepInv s (execDevReset s) := by
  unfold execDevReset
  exact .of_next (bringUp_inv ..)

theorem execPowerGood_inv (s : State) : StepInv s (execPowerGood s) := by
  unfold execPowerGood
  exact .of_next (bringUp_inv ..)

theorem execFlr_inv (fn : Nat) (s : State) : StepInv s (execFlr fn s) := by
  unfold execFlr
  dsimp only
  split
  · exact .of_next (bringUp_inv ..)
  · split
    · exact .of_next (.refl _)
    · exact .of_next ((updFunc_inv ..).trans ((dropAccesses_inv ..).trans (due_inv ..)))

theorem accesses_remotes_inv (s : State) (a : Table Access) (b : Table Remote) :
    KeepsInv s { s with accesses := a, remotes := b } := .of_mem rfl

theorem discardLaunches_inv (s : State) (f : Nat) : KeepsInv s (discardLaunches s f) := by
  unfold discardLaunches
  dsimp only
  refine .foldl (fun st a => ?_) _ _
  refine .ite ?_ ?_
  · refine KeepsInv.trans ?_ (accesses_remotes_inv ..)
    exact .ite (dropLaunch_inv ..) (.of_mem rfl)
  · refine KeepsInv.trans ?_ (endChain_inv ..)
    refine KeepsInv.trans ?_ (accesses_remotes_inv ..)
    exact .ite (dropLaunch_inv ..) (.of_mem rfl)

theorem emptyQueues_inv (s : State) (f : Nat) : KeepsInv s (emptyQueues s f) := by
  unfold emptyQueues
  dsimp only
  exact .foldl (fun st a => (beginReset_inv ..).trans ((updQueue_inv ..).trans (finishReset_inv ..))) _ _

theorem idleQueues_inv (s : State) (f : Nat) : KeepsInv s (idleQueues s f) := by
  unfold idleQueues
  dsimp only
  exact .of_mem rfl

theorem lapseFunc_inv (s : State) (f : Nat) : KeepsInv s (lapseFunc s f) := by
  unfold lapseFunc
  dsimp only
  exact .foldl (fun st a => .ite (afterAct_inv ..) (.refl _)) _ _

theorem tcache_commonsReqs_remotes_ats_inv (s : State) (a : Table (List CacheEntry)) (b : Table CommonsReq) (c : Table Remote)
    (d : List (Nat × Nat)) :
    KeepsInv s { s with tcache := a, commonsReqs := b, remotes := c, ats := d } := .of_mem rfl

theorem execFlrQuiesce_inv (fn : Nat) (s : State) : StepInv s (execFlrQuiesce fn s) := by
  unfold execFlrQuiesce
  dsimp only
  refine .of_next ?_
  refine KeepsInv.trans ?_ ((tcache_commonsReqs_remotes_ats_inv ..).trans (due_inv ..))
  refine KeepsInv.trans ?_ ((lapseFunc_inv ..).trans ((emptyQueues_inv ..).trans (dropAccesses_inv ..)))
  exact discardLaunches_inv ..

theorem scrubbed_inv (s : State) (fn : Nat) : KeepsInv s (scrubbed s fn) := ⟨fun hs => Table.filter_wf _ _ hs⟩

theorem execFlrComplete_inv (fn : Nat) (s : State) : StepInv s (execFlrComplete fn s) := by
  show StepInv s (exec (.flrComplete fn) s)
  rw [exec_flrComplete]
  exact .of_next ((scrubbed_inv s fn).trans (.foldl (fun st e => writeQcb_inv ..) _ _))

theorem loseUnit_inv (s : State) (u : SpareUnit) : KeepsInv s (loseUnit s u) := by
  unfold loseUnit
  split
  · exact .of_mem rfl
  · exact .of_mem rfl

theorem spareDue_inv (s : State) (a : List SpareUnit) : KeepsInv s { s with spareDue := a } := .of_mem rfl

theorem execSpareThreshold_inv (u : SpareUnit) (s : State) : StepInv s (execSpareThreshold u s) := by
  unfold execSpareThreshold
  dsimp only
  split
  · exact .of_next (.refl _)
  · split
    · exact .of_next (KeepsInv.trans (.ite (unitEvent_inv ..) (.refl _)) ((unitEvent_inv ..).trans (loseUnit_inv ..)))
    · refine .of_next ?_
      refine KeepsInv.trans ?_ ((unitEvent_inv ..).trans ((spareDue_inv ..).trans (bringSpares_inv ..)))
      exact .ite (unitEvent_inv ..) (.refl _)

theorem freshCells_inv (s : State) (hive bank : Nat) : KeepsInv s (freshCells s hive bank) := by
  unfold freshCells
  dsimp only
  refine KeepsInv.trans ?_ (.foldl (fun st a => setPoison_inv ..) _ _)
  exact .of_mem rfl

theorem rollTimes_inv (s : State) (a : Table (List Nat)) : KeepsInv s { s with rollTimes := a } := .of_mem rfl

theorem bankErrs_bankBusy_inv (s : State) (a : Table (List Nat)) (b : List Nat) :
    KeepsInv s { s with bankErrs := a, bankBusy := b } := .of_mem rfl

theorem execSpareBringIn_inv (u : SpareUnit) (s : State) : StepInv s (execSpareBringIn u s) := by
  unfold execSpareBringIn
  dsimp only
  split
  · exact .of_next (.refl _)
  · split
    · refine .of_next ?_
      refine KeepsInv.trans ?_ (rollTimes_inv ..)
      refine KeepsInv.trans ?_ (unitEvent_inv ..)
      exact .of_mem rfl
    · refine .of_next ?_
      refine KeepsInv.trans ?_ (tick_inv ..)
      refine KeepsInv.trans ?_ (due_inv ..)
      refine KeepsInv.trans ?_ (bankErrs_bankBusy_inv ..)
      refine KeepsInv.trans ?_ (freshCells_inv ..)
      refine KeepsInv.trans ?_ (unitEvent_inv ..)
      exact .of_mem rfl

theorem execBankCopyComplete_inv (hive _bank : Nat) (s : State) : StepInv s (execBankCopyComplete hive _bank s) := by
  unfold execBankCopyComplete
  exact .of_next (.of_mem rfl)

theorem execShepherdCoreFailure_inv (die i : Nat) (s : State) : StepInv s (execShepherdCoreFailure die i s) := by
  unfold execShepherdCoreFailure
  dsimp only
  split
  · split
    · exact .of_next (.refl _)
    · split
      · exact .of_next (.of_mem rfl)
      · refine .of_next ?_
        refine KeepsInv.trans ?_ (due_inv ..)
        exact .of_mem rfl
  · split
    · refine .of_next ?_
      refine KeepsInv.trans ?_ (due_inv ..)
      exact .of_mem rfl
    · refine .of_next ?_
      refine KeepsInv.trans ?_ (undue_inv ..)
      exact .of_mem rfl

theorem tsvSpared_sweep_inv (s : State) (a : Table Nat) (b : Table Nat) : KeepsInv s { s with tsvSpared := a, sweep := b } := .of_mem rfl

theorem execTsvGroupFailed_inv (ch grp : Nat) (s : State) : StepInv s (execTsvGroupFailed ch grp s) := by
  unfold execTsvGroupFailed
  dsimp only
  split
  · exact .of_next (.refl _)
  · split
    · refine .of_next ?_
      refine KeepsInv.trans ?_ (tick_inv ..)
      refine KeepsInv.trans ?_ (due_inv ..)
      refine KeepsInv.trans ?_ (tsvSpared_sweep_inv ..)
      refine KeepsInv.trans ?_ (healthEvent_inv ..)
      exact .of_mem rfl
    · refine .of_next ?_
      refine KeepsInv.trans ?_ (unitEvent_inv ..)
      refine KeepsInv.trans ?_ (healthEvent_inv ..)
      exact .of_mem rfl

theorem flaws_inv (s : State) (a : Table Nat) : KeepsInv s { s with flaws := a } := .of_mem rfl

theorem rewriteLine_inv (s : State) (pa : Nat) : KeepsInv s (rewriteLine s pa) := by
  unfold rewriteLine
  dsimp only
  exact (meetFlaw_inv ..).trans ((flaws_inv ..).trans ((placeOnSpare_inv ..).trans (noticePoison_inv ..)))

theorem sweep_inv (s : State) (a : Table Nat) : KeepsInv s { s with sweep := a } := .of_mem rfl

theorem execSparingSweepLine_inv (ch line : Nat) (s : State) : StepInv s (execSparingSweepLine ch line s) := by
  unfold execSparingSweepLine
  dsimp only
  split
  · exact .of_next (.refl _)
  · refine .of_next ?_
    refine .ite ?_ ?_
    · refine KeepsInv.trans ?_ (tick_inv ..)
      refine KeepsInv.trans ?_ (due_inv ..)
      refine KeepsInv.trans ?_ (sweep_inv ..)
      split
      · exact rewriteLine_inv ..
      · exact .refl _
    · refine KeepsInv.trans ?_ (sweep_inv ..)
      split
      · exact rewriteLine_inv ..
      · exact .refl _

theorem execRefreshPlanWrite_inv (ch : Nat) (hot release : Bool) (s : State) : StepInv s (execRefreshPlanWrite ch hot release s) := by
  unfold execRefreshPlanWrite
  dsimp only
  refine .of_next ?_
  refine KeepsInv.trans ?_ (tick_inv ..)
  refine KeepsInv.trans ?_ (due_inv ..)
  exact .of_mem rfl

theorem execRefreshTakeover_inv (ch : Nat) (s : State) : StepInv s (execRefreshTakeover ch s) := by
  unfold execRefreshTakeover
  dsimp only
  split
  · split
    · exact .of_next (.refl _)
    · refine .of_next ?_
      refine KeepsInv.trans ?_ (healthEvent_inv ..)
      exact .of_mem rfl
  · split
    · exact .of_next (.refl _)
    · refine .of_next ?_
      refine KeepsInv.trans ?_ (healthEvent_inv ..)
      exact .of_mem rfl
  · split
    · exact .of_next (.refl _)
    · refine .of_next ?_
      refine KeepsInv.trans ?_ (healthEvent_inv ..)
      exact .of_mem rfl

theorem writeDump_inv (s : State) (cause die : Nat) : KeepsInv s (writeDump s cause die) := by
  unfold writeDump
  dsimp only
  exact .ite (.refl _) (.foldl (fun st a => storeNow_inv ..) _ _)

theorem stopAll_inv (s : State) : KeepsInv s (stopAll s) := by
  unfold stopAll
  dsimp only
  exact .foldl (fun st a => stopNow_inv ..) _ _

theorem up_cores_agenda_inv (s : State) (a : Bool) (b : Table Core) (c : List (Nat × Nat × Instr)) :
    KeepsInv s { s with up := a, cores := b, agenda := c } := .of_mem rfl

theorem execFatalError_inv (cause die : Nat) (s : State) : StepInv s (execFatalError cause die s) := by
  unfold execFatalError
  dsimp only
  split
  · exact .of_next (.refl _)
  · refine .of_next ?_
    exact (stopAll_inv ..).trans ((writeDump_inv ..).trans ((healthEvent_inv ..).trans (up_cores_agenda_inv ..)))

theorem execThermalEvent_inv (deg die : Nat) (s : State) : StepInv s (execThermalEvent deg die s) := by
  unfold execThermalEvent
  dsimp only
  split
  · refine .of_next ?_
    refine .ite ?_ ?_
    · refine KeepsInv.trans ?_ (due_inv ..)
      refine KeepsInv.trans ?_ (healthEvent_inv ..)
      exact .of_mem rfl
    · refine KeepsInv.trans ?_ (healthEvent_inv ..)
      exact .of_mem rfl
  · exact .of_next (.ite (.of_mem rfl) (.refl _))

theorem execFwStage_inv (s : State) : StepInv s (execFwStage s) := by
  unfold execFwStage
  split
  · exact .of_next (cmdRefuse_inv ..)
  · split
    · exact .of_next (cmdRefuse_inv ..)
    · refine .of_next ?_
      refine KeepsInv.trans ?_ (cmdDone_inv ..)
      exact .of_mem rfl

theorem execFwCommit_inv (s : State) : StepInv s (execFwCommit s) := by
  unfold execFwCommit
  dsimp only
  split
  · exact .of_next (cmdRefuse_inv ..)
  · refine .of_next ?_
    refine KeepsInv.trans ?_ (cmdDone_inv ..)
    exact .of_mem rfl

theorem execAttest_inv (s : State) : StepInv s (execAttest s) := by
  unfold execAttest
  dsimp only
  refine .of_next ?_
  refine KeepsInv.trans ?_ (cmdLater_inv ..)
  refine KeepsInv.trans ?_ (storeNow_inv ..)
  exact .of_mem rfl

theorem commonsCommand_inv (s : State) (i : Instr) : StepInv s (commonsCommand s i) := by
  unfold commonsCommand
  exact .of_next ((cmdStarted_inv ..).trans (due_inv ..))

theorem runHostCommand_inv (s : State) : StepInv s (runHostCommand s) := by
  unfold runHostCommand
  split
  · exact execExecCmd_inv ..
  · exact execQcreate_inv ..
  · exact execQdestroy_inv ..
  · exact execShoot2_inv ..
  · exact execShootF_inv ..
  · exact execRekey_inv ..
  · exact commonsCommand_inv ..
  · exact commonsCommand_inv ..
  · exact commonsCommand_inv ..
  · exact commonsCommand_inv ..
  · exact commonsCommand_inv ..
  · exact commonsCommand_inv ..
  · exact commonsCommand_inv ..
  · exact commonsCommand_inv ..
  · exact execFwStage_inv ..
  · exact execFwCommit_inv ..
  · exact execDevReset_inv ..
  · exact execAttest_inv ..
  · exact .of_next (cmdRefuse_inv ..)

theorem putExport_inv (s : State) (i k : Nat) (v : Word) : KeepsInv s (putExport s i k v) := by
  unfold putExport
  exact .of_mem rfl

theorem putRoute_inv (s : State) (e : Nat) (v : Word) : KeepsInv s (putRoute s e v) := by
  unfold putRoute
  dsimp only
  exact .ite (.refl _) (.of_mem rfl)

theorem putSchedule_inv (s : State) (at_ : Nat) (v : Word) : KeepsInv s (putSchedule s at_ v) := by
  unfold putSchedule
  refine KeepsInv.trans ?_ (planSchedule_inv ..)
  exact .of_mem rfl

/-- A write at one offset, and those at the others. -/
theorem StepInv.ite {s : State} {a b : Res} {p : Prop} {_ : Decidable p} (ha : StepInv s a) (hb : StepInv s b) : StepInv s (if p then a else b) := by
  split
  · exact ha
  · exact hb

theorem writeBar4_inv (s : State) (off : Nat) (v : Word) : StepInv s (writeBar4 s off v) := by
  unfold writeBar4
  refine .ite (.ite (.of_next (.refl s)) (StepInv.trans (b := { s with cmd := v }) (.of_mem rfl) (runHostCommand_inv ..))) ?_
  refine .ite (.of_next (.of_mem rfl)) ?_
  refine .ite (StepInv.trans (b := { s with hostVal := v }) (.of_mem rfl) (execHrBase_inv ..)) ?_
  refine .ite (.of_next (.of_mem rfl)) ?_
  refine .ite (.of_next (.of_mem rfl)) ?_
  refine .ite (.of_next (.of_mem rfl)) ?_
  refine .ite (.of_next (.ite (.of_mem rfl) (.refl s))) ?_
  refine .ite (.of_next (KeepsInv.trans (b := { s with lschedAt := v.toNat }) (.of_mem rfl) (planSchedule_inv ..))) ?_
  refine .ite (.of_next (.ite (.of_mem rfl) (.refl s))) ?_
  refine .ite (.of_next (.ite (.of_mem rfl) (.refl s))) ?_
  refine .ite (.of_next (.ite (.of_mem rfl) (.refl s))) ?_
  refine .ite (.of_next (.of_mem rfl)) ?_
  refine .ite (.of_next (.of_mem rfl)) ?_
  refine .ite (.of_next (putExport_inv ..)) ?_
  refine .ite (.of_next (putRoute_inv ..)) ?_
  refine .ite (.of_next (putSchedule_inv ..)) ?_
  exact .ite (.of_next (updFunc_inv ..)) (.of_next (.refl s))

theorem runResMode_inv (s : State) : StepInv s (runResMode s) := by
  unfold runResMode
  split
  · exact execResumeRetry_inv ..
  · exact execResumeRetranslate_inv ..
  · exact execResumeSkip_inv ..
  · exact execResumeClearPrt_inv ..
  · exact execResumeTerminate_inv ..
  · exact .of_next (.ite (.refl _) (resumeStatus_inv ..))

theorem writeBar2_inv (s : State) (off : Nat) (v : Word) : StepInv s (writeBar2 s off v) := by
  unfold writeBar2
  dsimp only
  split
  · exact execDoorbell_inv ..
  · split
    · exact execQreset_inv ..
    · split
      · exact .of_next (updFunc_inv ..)
      · split
        · exact runResMode_inv ..
        · split
          · exact .of_next (updFunc_inv ..)
          · split
            · exact execShootN_inv ..
            · split
              · exact .of_next (updFunc_inv ..)
              · split
                · exact .of_next (.ite (setFrBase_inv ..) (.refl _))
                · split
                  · exact execFrHead_inv ..
                  · exact .of_next (.refl _)

theorem execRegisterWrite_inv (fn bar : Nat) (at_ : RegSpan) (val : Word) (s : State) :
    StepInv s (execRegisterWrite fn bar at_ val s) := by
  unfold execRegisterWrite
  refine .ite (.of_next (reply_inv ..)) (.ite (.of_next (.refl s)) ?_)
  refine StepInv.trans (b := { s with hostFn := fn, hostVal := val }) (.of_mem rfl) ?_
  split
  · exact execPortalMisuse_inv ..
  · exact writeBar2_inv ..
  · exact .ite (writeBar4_inv ..) (.of_next (reply_inv ..))
  · exact .of_next (reply_inv ..)

end Sys2Proof.Machine
end

section
/-!
PROOFS. Every step keeps the invariant (R246): the plans of the syllables, the instructions, and a step.
-/
namespace Sys2Proof.Machine
/-! ### Syllables -/

/-- A plan keeps the invariant, whether its syllable acts or is suppressed. -/
structure PlanInv (s : State) (p : Plan) : Prop where
  run : KeepsInv s (p.run s)
  off : KeepsInv s (p.off s)

theorem sPlan_keeps {s : State} {h : SHead} {c : Core} {reads : List ReadUnit} {check : Option Check} {run : State → State}
    (hrun : KeepsInv s (run s)) : PlanInv s (sPlan h c reads check run) := ⟨hrun, .refl s⟩

theorem vPlan_keeps {s : State} {h : Head} {reads : List ReadUnit} {check : Option Check} {run : State → State}
    (hrun : KeepsInv s (run s)) : PlanInv s (vPlan h reads check run) := ⟨hrun, .refl s⟩

theorem flagPlan_keeps {s : State} {h : Head} {c : Core} {reads : List ReadUnit} {check : Option Check} {run off : State → State}
    (hrun : KeepsInv s (run s)) (hoff : KeepsInv s (off s)) : PlanInv s (flagPlan h c reads check run off) := ⟨hrun, hoff⟩

/-! The S slot. -/

theorem alu2_keeps (h : SHead) (x : FmtA) (lat : Nat) (op : Word → Word → Word) (s : State) : PlanInv s (alu2 h x lat op s) :=
  sPlan_keeps (landS_inv ..)

theorem alu1_keeps (h : SHead) (x : FmtA) (lat : Nat) (op : Word → Word) (s : State) : PlanInv s (alu1 h x lat op s) :=
  sPlan_keeps (landS_inv ..)

theorem aluImm_keeps (h : SHead) (x : FmtI) (lat : Nat) (op : Word → Word → Word) (s : State) : PlanInv s (aluImm h x lat op s) :=
  sPlan_keeps (landS_inv ..)

theorem flagLogic_keeps (h : SHead) (x : FmtC) (op : Bool → Bool → Bool) (s : State) : PlanInv s (flagLogic h x op s) :=
  sPlan_keeps (landF_inv ..)

theorem planEndLoop_keeps (h : SHead) (x : FmtB) (s : State) : PlanInv s (planEndLoop h x s) :=
  sPlan_keeps (.ite (.refl s) (.ite ((land_inv ..).trans (updCur_inv ..)) (land_inv ..)))

theorem planFence_keeps (h : SHead) (x : FmtI) (s : State) : PlanInv s (planFence h x s) := by
  refine sPlan_keeps ?_
  have hseq := takeSeq_inv s
  generalize takeSeq s = r at hseq ⊢
  obtain ⟨q, s1⟩ := r
  exact .ite (hseq.trans ((updCur_inv ..).trans (askFlush_inv ..))) (hseq.trans (updCur_inv ..))

theorem planTrap_keeps (h : SHead) (x : FmtY) (s : State) : PlanInv s (planTrap h x s) := by
  refine sPlan_keeps ?_
  split
  · exact .refl s
  · exact .ite ((noteOnce_inv ..).trans (stopWithRecord_inv ..)) (.refl s)

theorem planHalt_keeps (h : SHead) (x : FmtY) (s : State) : PlanInv s (planHalt h x s) := sPlan_keeps (.ite (updCur_inv ..) (.refl s))

theorem planNextTile_keeps (h : SHead) (x : FmtY) (s : State) : PlanInv s (planNextTile h x s) := by
  refine sPlan_keeps ?_
  dsimp only
  split
  · exact (land_inv ..).trans (updCur_inv ..)
  · exact ((nextIndex_inv ..).trans (noteOnce_inv ..)).trans ((land_inv ..).trans (updCur_inv ..))

theorem planNextTileTake_keeps (h : SHead) (x : FmtY) (s : State) : PlanInv s (planNextTileTake h x s) :=
  sPlan_keeps ((landS_inv ..).trans (updCur_inv ..))

theorem planPhase_keeps (h : SHead) (x : FmtY) (s : State) : PlanInv s (planPhase h x s) :=
  sPlan_keeps (actOnce_inv _ fun _ => runPhase_inv ..)

theorem planArrive_keeps (h : SHead) (x : FmtY) (s : State) : PlanInv s (planArrive h x s) :=
  sPlan_keeps (actOnce_inv _ fun _ => runArrive_inv ..)

theorem planObject_keeps (h : SHead) (x : FmtY) (s : State) : PlanInv s (planObject h x s) :=
  sPlan_keeps (actOnce_inv _ fun _ => runObject_inv ..)

theorem planClaim_keeps (h : SHead) (x : FmtY) (s : State) : PlanInv s (planClaim h x s) :=
  ⟨askOnce_inv _ _ _ fun _ _ => runClaim_inv .., discardRequest_inv ..⟩

theorem planClaimRead_keeps (h : SHead) (x : FmtY) (s : State) : PlanInv s (planClaimRead h x s) :=
  ⟨askOnce_inv _ _ _ fun _ _ => runClaimRead_inv .., discardRequest_inv ..⟩

theorem commonsPlan_keeps (h : SHead) (x : FmtY) (s : State) (kind words : Nat) : PlanInv s (commonsPlan h x s kind words) :=
  ⟨askOnce_inv _ _ _ fun _ _ => askDirectory_inv .., discardRequest_inv ..⟩

/-! The V slots. -/

theorem vecOp_keeps (h : Head) (x : FmtV) (unary : Bool) (lat : Nat) (f : Nat → Nat → Rounded) (s : State) : PlanInv s (vecOp h x unary lat f s) :=
  vPlan_keeps (landElems_inv ..)

theorem fusedOp_keeps (h : Head) (x : FmtW) (neg1 neg2 : Bool) (s : State) : PlanInv s (fusedOp h x neg1 neg2 s) :=
  vPlan_keeps (landElems_inv ..)

theorem vecImm_keeps (h : Head) (x : FmtJ) (source : Bool) (lat : Nat) (f : Nat → Rounded) (s : State) : PlanInv s (vecImm h x source lat f s) :=
  vPlan_keeps (landElems_inv ..)

theorem maskOp_keeps (h : Head) (x : FmtQ) (srcs : List Nat) (f : Core → Mask) (s : State) : PlanInv s (maskOp h x srcs f s) :=
  vPlan_keeps (land_inv ..)

theorem maskReduce_keeps (h : Head) (x : FmtQ) {fin : State → Mask → Mask → State} (hfin : ∀ s m p, KeepsInv s (fin s m p)) (s : State) :
    PlanInv s (maskReduce h x fin s) := vPlan_keeps (hfin ..)

theorem moveOp_keeps (h : Head) (vd : Nat) (srcs : List Nat) (w : Nat) (f : Core → Nat → Nat) (s : State) : PlanInv s (moveOp h vd srcs w f s) :=
  vPlan_keeps (landElems_inv ..)

theorem reduceOp_keeps (h : Head) (x : FmtV) (identity : Nat) (combine : Nat → Nat → Rounded) (fin : List Nat → Rounded → Rounded) (s : State) :
    PlanInv s (reduceOp h x identity combine fin s) := vPlan_keeps ((land_inv ..).trans (landFlags_inv ..))

theorem planVabs_keeps (h : Head) (x : FmtV) (s : State) : PlanInv s (planVabs h x s) := by
  unfold planVabs
  exact vecOp_keeps ..

theorem planVneg_keeps (h : Head) (x : FmtV) (s : State) : PlanInv s (planVneg h x s) := by
  unfold planVneg
  exact vecOp_keeps ..

theorem planVshl_keeps (h : Head) (x : FmtV) (s : State) : PlanInv s (planVshl h x s) := by
  unfold planVshl
  exact vecOp_keeps ..

theorem planVshr_keeps (h : Head) (x : FmtV) (s : State) : PlanInv s (planVshr h x s) := by
  unfold planVshr
  exact vecOp_keeps ..

theorem planVsra_keeps (h : Head) (x : FmtV) (s : State) : PlanInv s (planVsra h x s) := by
  unfold planVsra
  exact vecOp_keeps ..

theorem planVsrai_keeps (h : Head) (x : FmtJ) (s : State) : PlanInv s (planVsrai h x s) := by
  unfold planVsrai
  exact vecImm_keeps ..

theorem planVrsum_keeps (h : Head) (x : FmtV) (s : State) : PlanInv s (planVrsum h x s) := by
  unfold planVrsum
  exact reduceOp_keeps ..

theorem planVperm_keeps (h : Head) (x : FmtV) (s : State) : PlanInv s (planVperm h x s) := by
  unfold planVperm
  exact moveOp_keeps ..

theorem planVzip_keeps (h : Head) (x : FmtV) (s : State) : PlanInv s (planVzip h x s) := by
  unfold planVzip
  exact moveOp_keeps ..

theorem planVunzip_keeps (h : Head) (x : FmtV) (s : State) : PlanInv s (planVunzip h x s) := by
  unfold planVunzip
  exact moveOp_keeps ..

theorem planVrot_keeps (h : Head) (x : FmtJ) (s : State) : PlanInv s (planVrot h x s) := by
  unfold planVrot
  exact moveOp_keeps ..

theorem planVbcast_keeps (h : Head) (x : FmtJ) (s : State) : PlanInv s (planVbcast h x s) := by
  unfold planVbcast
  exact moveOp_keeps ..

theorem planVcmp_keeps (h : Head) (x : FmtP) (s : State) : PlanInv s (planVcmp h x s) := vPlan_keeps ((land_inv ..).trans (landFlags_inv ..))

theorem planVcx_keeps (h : Head) (x : FmtW) (s : State) : PlanInv s (planVcx h x s) :=
  vPlan_keeps ((landElems_inv ..).trans ((landElems_inv ..).trans ((landElems_inv ..).trans (landElems_inv ..))))

theorem planVtwr_keeps (h : Head) (x : FmtT) (s : State) : PlanInv s (planVtwr h x s) := vPlan_keeps ((land_inv ..).trans (landFlags_inv ..))

/-! The M and K slots. -/

theorem planMcall_keeps (h : Head) (x : FmtM) (s : State) : PlanInv s (planMcall h x s) :=
  flagPlan_keeps (KeepsInv.trans (.ite (land_inv ..) (.refl s)) (updCur_inv ..)) (.refl s)

theorem planMdrain_keeps (h : Head) (x : FmtD) (s : State) : PlanInv s (planMdrain h x s) := by
  refine flagPlan_keeps (.ite ?_ ((landElems_inv ..).trans (landFlags_inv ..))) (.refl s)
  exact KeepsInv.trans (.ite ((land_inv ..).trans ((land_inv ..).trans (landFlags_inv ..))) (landBlocks_inv ..)) (landFlags_inv ..)

/-! The copy slot. -/

theorem planStVector_keeps (h : Head) (x : FmtE) (s : State) : PlanInv s (planStVector h x s) :=
  flagPlan_keeps (.ite (.refl s) (runStore_inv ..)) (.refl s)

theorem atomicPlan_keeps (h : Head) (x : FmtU) (op : Nat) (s : State) : PlanInv s (atomicPlan h x op s) :=
  flagPlan_keeps (runAtomicIssue_inv ..) (discardRequest_inv ..)

theorem commandPlan_keeps (k : CopyKind) (h : Head) (x : FmtN) (s : State) : PlanInv s (commandPlan k h x s) :=
  flagPlan_keeps (runCommand_inv ..) (.refl s)

theorem barrierPlan_keeps (k : CopyKind) (h : Head) (x : FmtF) (s : State) : PlanInv s (barrierPlan k h x s) :=
  flagPlan_keeps (runFCommand_inv ..) (.refl s)

/-- Every syllable's plan keeps the invariant. -/
theorem planOf_keeps (i : Instr) (s : State) (hi : i.isSyllable = true) : PlanInv s (planOf i s) := by
  delta planOf
  cases i with
  | bundleIssue _ | waitEvaluation _ | registerWriteLanding _ | variableLanding _ | landingBufferArrival _
    | landingTimeout _ | arrivalDeparture _ | arrivalDelivery _ | phaseLineRaise _ _ | phaseCompletion _ _
    | claimDeparture _ | proposalArrival _ | claimDecision _ | claimReadSample _ | subscribeAct _ | lapseAct _ | boardAct _
    | alightAct _ | cstatAct _ | routineStart _ | routineLanding _ | copyCommandStart _ _ | copyElement _ _
    | copyCommandComplete _ _ | circuitDeparture _ | circuitArrival _ | atomicExecute _ | accessPerform _ _
    | writeAcknowledge _ | sourceInterfaceRelease _ | hbmRequestSend _ | segmentLineDelivered _ _ _ | handleValid _ _
    | translationCacheMiss _ _ | translationWalkEnd _ _ | placementRestart _ | dataErrorDetected _ | rollbackRerunEnd _
    | launchStart _ | launchRetirement _ | portalDmwr _ _ _ _ _ | portalMisuse _ _ _ | slotPoll _ | saveComplete _
    | shootdownReachCore _ _ | shootdownComplete _ | registerWrite _ _ _ _ | streamStop _ | streamFetch _ _
    | deepTierReadStart _ _ | deepTierReadEnd _ _ _ | streamTileComplete _ _ _ | streamSlotWrite _ _ _ | tsvGroupFailed _ _
    | sparingSweepLine _ _ | refreshPlanWrite _ _ _ | refreshTakeover _ | blockReencryptionComplete _ | spareBringIn _
    | spareThreshold _ | shepherdCoreFailure _ _ | fatalError _ _ | thermalEvent _ _ | flr _ | flrQuiesce _ | flrComplete _
    | flitReceive _ _ | laneFailed _ _ | laneSpareSwitch _ | linkDown _ _ | linkSilenceTimeout _ | hostTermination _
    | bankCopyComplete _ _ | frameStart | admissionPass | rampSlotBoundary | doorbell | qreset | resumeRetry
    | resumeRetranslate | resumeSkip | resumeClearPrt | resumeTerminate | shootN | frHead | execCmd | qcreate | qdestroy
    | shoot2 | shootF | rekey | create | cost | rights | replica | schedule | stop | replace | loadDeep | fwStage | fwCommit
    | devReset | attest | hrBase | periodBoundary | powerGood | spare | spareAck | align | alignAck | down | linkRead
    | linkWrite | linkAtomic | readReply | writeAcknowledgment | atomicReply | linkScheduleActivate | dieLinkLost | flitTime
    | commandDone => exact (Bool.false_ne_true hi).elim
  | sNop _ _ => exact sPlan_keeps (.refl s)
  | vNop _ _ => exact vPlan_keeps (.refl s)
  | mNop _ _ | kNop _ _ | cNop _ _ => exact flagPlan_keeps (.refl s) (.refl s)
  | add _ _ | sub _ _ | and _ _ | or _ _ | xor _ _ | andn _ _ | shl _ _ | shr _ _ | sra _ _ | min _ _ | max _ _ | minu _ _
    | maxu _ _ | addS _ _ | subS _ _ | mul _ _ | mulh _ _ | mulhu _ _ | div _ _ | divu _ _ | rem _ _ | remu _ _ => exact alu2_keeps ..
  | popc _ _ | clz _ _ | ctz _ _ => exact alu1_keeps ..
  | addi _ _ | andi _ _ | ori _ _ | xori _ _ | shli _ _ | shri _ _ | srai _ _ | muli _ _ | liu _ _ => exact aluImm_keeps ..
  | sel _ _ | spld _ _ | csrr _ _ => exact sPlan_keeps (landS_inv ..)
  | cmp _ _ => exact sPlan_keeps (landF_inv ..)
  | flagAnd _ _ | flagOr _ _ | flagXor _ _ | flagAndn _ _ => exact flagLogic_keeps ..
  | spst _ _ | csrw _ _ | prep _ _ | loop _ _ | wclr _ _ | hrel _ _ | cwSet _ _ => exact sPlan_keeps (land_inv ..)
  | endLoop _ _ => exact planEndLoop_keeps ..
  | xlate _ _ => exact sPlan_keeps (runXlate_inv ..)
  | fence _ _ => exact planFence_keeps ..
  | trap _ _ => exact planTrap_keeps ..
  | halt _ _ => exact planHalt_keeps ..
  | tail _ _ => exact sPlan_keeps (updCur_inv ..)
  | nextTile _ _ => exact planNextTile_keeps ..
  | nextTileTake _ _ => exact planNextTileTake_keeps ..
  | phase _ _ => exact planPhase_keeps ..
  | arrive _ _ => exact planArrive_keeps ..
  | claim _ _ => exact planClaim_keeps ..
  | object _ _ => exact planObject_keeps ..
  | claimRead _ _ => exact planClaimRead_keeps ..
  | subscribe _ _ | lapse _ _ | board _ _ | alight _ _ | cstat _ _ => exact commonsPlan_keeps ..
  | vadd _ _ | vsub _ _ | vmin _ _ | vmax _ _ | vmul _ _ | vand _ _ | vor _ _ | vxor _ _ | vandn _ _
    | vpopc _ _ | vclz _ _ | vexp2 _ _ | vlog2 _ _ | vrcp _ _ | vrsq _ _ | vtanh _ _ => exact vecOp_keeps ..
  | vsel _ _ | vcvt _ _ | vdeq _ _ | vlscv _ _ | vlsadd _ _ | vlsout _ _ | vtrd _ _ => exact vPlan_keeps (landElems_inv ..)
  | vfma _ _ | vfms _ _ | vfnma _ _ => exact fusedOp_keeps ..
  | vaddi _ _ | vandi _ _ | vshli _ _ | vshri _ _ | vli _ _ => exact vecImm_keeps ..
  | vcmp _ _ => exact planVcmp_keeps ..
  | mand _ _ | mor _ _ | mxor _ _ | mandn _ _ | mnot _ _ | mlead _ _ => exact maskOp_keeps ..
  | many _ _ | mall _ _ => exact maskReduce_keeps _ _ (fun _ _ _ => landF_inv ..) _
  | mpop _ _ | mfirst _ _ => exact maskReduce_keeps _ _ (fun _ _ _ => landS_inv ..) _
  | vquant _ _ => exact vPlan_keeps (landBlocks_inv ..)
  | vrmax _ _ | vrmin _ _ => exact reduceOp_keeps ..
  | vcx _ _ => exact planVcx_keeps ..
  | vtwr _ _ => exact planVtwr_keeps ..
  | mcall _ _ => exact planMcall_keeps ..
  | mdrain _ _ => exact planMdrain_keeps ..
  | mzero _ _ | kmvv _ _ | kmvz _ _ | kltl _ _ => exact flagPlan_keeps (land_inv ..) (.refl s)
  | kmov _ _ => exact flagPlan_keeps (landAll_inv ..) (.refl s)
  | kldh _ _ | ldVector _ _ | ldTile _ _ | ldScalar _ _ _ => exact flagPlan_keeps (runLoad_inv ..) (discardRequest_inv ..)
  | ksth _ _ | stTile _ _ | stScalar _ _ _ => exact flagPlan_keeps (runStore_inv ..) (.refl s)
  | stVector _ _ => exact planStVector_keeps ..
  | cpy _ _ | cpyc _ _ | cpyq _ _ | cpyx _ _ | cpyz _ _ | wbld _ _ | gath _ _ | scat _ _ | mcast _ _ => exact commandPlan_keeps ..
  | cfence _ _ | cacq _ _ | crel _ _ => exact barrierPlan_keeps ..
  | ctld _ _ => exact flagPlan_keeps (runFCommand_inv ..) (.refl s)
  | send _ _ => exact flagPlan_keeps (runSend_inv ..) (.refl s)
  | recv _ _ => exact flagPlan_keeps (runRecv_inv ..) (discardRequest_inv ..)
  | aadd _ _ | aand _ _ | aor _ _ | axor _ _ | amin _ _ | amax _ _ | axchg _ _ | acas _ _ => exact atomicPlan_keeps ..
  | vabs _ _ => exact planVabs_keeps ..
  | vneg _ _ => exact planVneg_keeps ..
  | vshl _ _ => exact planVshl_keeps ..
  | vshr _ _ => exact planVshr_keeps ..
  | vsra _ _ => exact planVsra_keeps ..
  | vsrai _ _ => exact planVsrai_keeps ..
  | vrsum _ _ => exact planVrsum_keeps ..
  | vperm _ _ => exact planVperm_keeps ..
  | vzip _ _ => exact planVzip_keeps ..
  | vunzip _ _ => exact planVunzip_keeps ..
  | vrot _ _ => exact planVrot_keeps ..
  | vbcast _ _ => exact planVbcast_keeps ..

/-- An instruction of a program keeps the invariant. -/
theorem exec_syllable_inv (i : Instr) (s : State) (hi : i.isSyllable = true) : StepInv s (exec i s) := by
  obtain ⟨hrun, hoff⟩ := planOf_keeps i s hi
  rw [exec_eq_runPlan i s hi]
  exact runPlan_inv i _ s hrun hoff

/-- Every instruction keeps the invariant. -/
theorem exec_inv (i : Instr) (s : State) : StepInv s (exec i s) := by
  by_cases hi : i.isSyllable = true
  · exact exec_syllable_inv i s hi
  cases i with
  | bundleIssue _ => exact execBundleIssue_inv ..
  | waitEvaluation _ => exact execWaitEvaluation_inv ..
  | registerWriteLanding _ => exact execRegisterWriteLanding_inv ..
  | variableLanding _ => exact execVariableLanding_inv ..
  | landingBufferArrival _ => exact execLandingBufferArrival_inv ..
  | landingTimeout _ => exact execLandingTimeout_inv ..
  | arrivalDeparture _ => exact execArrivalDeparture_inv ..
  | arrivalDelivery _ => exact execArrivalDelivery_inv ..
  | phaseLineRaise _ _ => exact execPhaseLineRaise_inv ..
  | phaseCompletion _ _ => exact execPhaseCompletion_inv ..
  | claimDeparture _ => exact execClaimDeparture_inv ..
  | proposalArrival _ => exact execProposalArrival_inv ..
  | claimDecision _ => exact execClaimDecision_inv ..
  | claimReadSample _ => exact execClaimReadSample_inv ..
  | subscribeAct _ => exact execSubscribeAct_inv ..
  | lapseAct _ => exact execLapseAct_inv ..
  | boardAct _ => exact execBoardAct_inv ..
  | alightAct _ => exact execAlightAct_inv ..
  | cstatAct _ => exact execCstatAct_inv ..
  | routineStart _ => exact execRoutineStart_inv ..
  | routineLanding _ => exact execRoutineLanding_inv ..
  | copyCommandStart _ _ => exact execCopyCommandStart_inv ..
  | copyElement _ _ => exact execCopyElement_inv ..
  | copyCommandComplete _ _ => exact execCopyCommandComplete_inv ..
  | circuitDeparture _ => exact execCircuitDeparture_inv ..
  | circuitArrival _ => exact execCircuitArrival_inv ..
  | atomicExecute _ => exact execAtomicExecute_inv ..
  | accessPerform _ _ => exact execAccessPerform_inv ..
  | writeAcknowledge _ => exact execWriteAcknowledge_inv ..
  | sourceInterfaceRelease _ => exact execSourceInterfaceRelease_inv ..
  | hbmRequestSend _ => exact execHbmRequestSend_inv ..
  | segmentLineDelivered _ _ _ => exact execSegmentLineDelivered_inv ..
  | handleValid _ _ => exact execHandleValid_inv ..
  | translationCacheMiss _ _ => exact execTranslationCacheMiss_inv ..
  | translationWalkEnd _ _ => exact execTranslationWalkEnd_inv ..
  | placementRestart _ => exact execPlacementRestart_inv ..
  | dataErrorDetected _ => exact execDataErrorDetected_inv ..
  | rollbackRerunEnd _ => exact execRollbackRerunEnd_inv ..
  | launchStart _ => exact execLaunchStart_inv ..
  | launchRetirement _ => exact execLaunchRetirement_inv ..
  | portalDmwr _ _ _ _ _ => exact execPortalDmwr_inv ..
  | portalMisuse fn page write => exact execPortalMisuse_inv fn page write s
  | slotPoll _ => exact execSlotPoll_inv ..
  | saveComplete _ => exact execSaveComplete_inv ..
  | shootdownReachCore _ _ => exact execShootdownReachCore_inv ..
  | shootdownComplete _ => exact execShootdownComplete_inv ..
  | registerWrite _ _ _ _ => exact execRegisterWrite_inv ..
  | streamStop _ => exact execStreamStop_inv ..
  | streamFetch _ _ => exact execStreamFetch_inv ..
  | deepTierReadStart _ _ => exact execDeepTierReadStart_inv ..
  | deepTierReadEnd _ _ _ => exact execDeepTierReadEnd_inv ..
  | streamTileComplete _ _ _ => exact execStreamTileComplete_inv ..
  | streamSlotWrite _ _ _ => exact execStreamSlotWrite_inv ..
  | tsvGroupFailed _ _ => exact execTsvGroupFailed_inv ..
  | sparingSweepLine _ _ => exact execSparingSweepLine_inv ..
  | refreshPlanWrite _ _ _ => exact execRefreshPlanWrite_inv ..
  | refreshTakeover _ => exact execRefreshTakeover_inv ..
  | blockReencryptionComplete _ => exact execBlockReencryptionComplete_inv ..
  | spareBringIn _ => exact execSpareBringIn_inv ..
  | spareThreshold _ => exact execSpareThreshold_inv ..
  | shepherdCoreFailure _ _ => exact execShepherdCoreFailure_inv ..
  | fatalError _ _ => exact execFatalError_inv ..
  | thermalEvent _ _ => exact execThermalEvent_inv ..
  | flr _ => exact execFlr_inv ..
  | flrQuiesce _ => exact execFlrQuiesce_inv ..
  | flrComplete _ => exact execFlrComplete_inv ..
  | flitReceive _ _ => exact execFlitReceive_inv ..
  | laneFailed _ _ => exact execLaneFailed_inv ..
  | laneSpareSwitch _ => exact execLaneSpareSwitch_inv ..
  | linkDown _ _ => exact execLinkDown_inv ..
  | linkSilenceTimeout _ => exact execLinkSilenceTimeout_inv ..
  | hostTermination _ => exact execHostTermination_inv ..
  | bankCopyComplete hive bank => exact execBankCopyComplete_inv hive bank s
  | frameStart => exact execFrameStart_inv ..
  | admissionPass => exact execAdmissionPass_inv ..
  | rampSlotBoundary => exact execRampSlotBoundary_inv ..
  | doorbell => exact execDoorbell_inv ..
  | qreset => exact execQreset_inv ..
  | resumeRetry => exact execResumeRetry_inv ..
  | resumeRetranslate => exact execResumeRetranslate_inv ..
  | resumeSkip => exact execResumeSkip_inv ..
  | resumeClearPrt => exact execResumeClearPrt_inv ..
  | resumeTerminate => exact execResumeTerminate_inv ..
  | shootN => exact execShootN_inv ..
  | frHead => exact execFrHead_inv ..
  | execCmd => exact execExecCmd_inv ..
  | qcreate => exact execQcreate_inv ..
  | qdestroy => exact execQdestroy_inv ..
  | shoot2 => exact execShoot2_inv ..
  | shootF => exact execShootF_inv ..
  | rekey => exact execRekey_inv ..
  | create => exact execCreate_inv ..
  | cost => exact execCost_inv ..
  | rights => exact execRights_inv ..
  | replica => exact execReplica_inv ..
  | schedule => exact execSchedule_inv ..
  | stop => exact execStop_inv ..
  | replace => exact execReplace_inv ..
  | loadDeep => exact execLoadDeep_inv ..
  | fwStage => exact execFwStage_inv ..
  | fwCommit => exact execFwCommit_inv ..
  | devReset => exact execDevReset_inv ..
  | attest => exact execAttest_inv ..
  | hrBase => exact execHrBase_inv ..
  | periodBoundary => exact execPeriodBoundary_inv ..
  | powerGood => exact execPowerGood_inv ..
  | spare => exact execSpare_inv ..
  | spareAck => exact execSpareAck_inv ..
  | align => exact execAlign_inv ..
  | alignAck => exact execAlignAck_inv ..
  | down => exact execDown_inv ..
  | linkRead => exact execLinkRead_inv ..
  | linkWrite => exact execLinkWrite_inv ..
  | linkAtomic => exact execLinkAtomic_inv ..
  | readReply => exact execReadReply_inv ..
  | writeAcknowledgment => exact execWriteAcknowledgment_inv ..
  | atomicReply => exact execAtomicReply_inv ..
  | linkScheduleActivate => exact execLinkScheduleActivate_inv ..
  | dieLinkLost => exact execDieLinkLost_inv ..
  | flitTime => exact execFlitTime_inv ..
  | commandDone => exact execCommandDone_inv ..
  | sNop _ _ | add _ _ | sub _ _ | and _ _ | or _ _ | xor _ _ | andn _ _ | shl _ _ | shr _ _ | sra _ _ | min _ _ | max _ _
    | minu _ _ | maxu _ _ | addS _ _ | subS _ _ | mul _ _ | mulh _ _ | mulhu _ _ | popc _ _ | clz _ _ | ctz _ _ | div _ _
    | divu _ _ | rem _ _ | remu _ _ | sel _ _ | addi _ _ | andi _ _ | ori _ _ | xori _ _ | shli _ _ | shri _ _ | srai _ _
    | muli _ _ | liu _ _ | cmp _ _ | flagAnd _ _ | flagOr _ _ | flagXor _ _ | flagAndn _ _ | spld _ _ | spst _ _ | csrr _ _
    | csrw _ _ | prep _ _ | loop _ _ | endLoop _ _ | xlate _ _ | hrel _ _ | fence _ _ | wclr _ _ | trap _ _ | halt _ _
    | tail _ _ | nextTile _ _ | nextTileTake _ _ | phase _ _ | arrive _ _ | cwSet _ _ | claim _ _ | object _ _
    | claimRead _ _ | subscribe _ _ | lapse _ _ | board _ _ | alight _ _ | cstat _ _ | vNop _ _ | vadd _ _ | vsub _ _
    | vmin _ _ | vmax _ _ | vmul _ _ | vabs _ _ | vneg _ _ | vand _ _ | vor _ _ | vxor _ _ | vandn _ _ | vshl _ _ | vshr _ _
    | vsra _ _ | vpopc _ _ | vclz _ _ | vsel _ _ | vfma _ _ | vfms _ _ | vfnma _ _ | vaddi _ _ | vandi _ _ | vshli _ _
    | vshri _ _ | vsrai _ _ | vli _ _ | vcmp _ _ | mand _ _ | mor _ _ | mxor _ _ | mandn _ _ | mnot _ _ | mlead _ _
    | many _ _ | mall _ _ | mpop _ _ | mfirst _ _ | vcvt _ _ | vquant _ _ | vdeq _ _ | vlscv _ _ | vlsadd _ _ | vlsout _ _
    | vrsum _ _ | vrmax _ _ | vrmin _ _ | vperm _ _ | vzip _ _ | vunzip _ _ | vrot _ _ | vbcast _ _ | vexp2 _ _ | vlog2 _ _
    | vrcp _ _ | vrsq _ _ | vtanh _ _ | vcx _ _ | vtwr _ _ | vtrd _ _ | mNop _ _ | mcall _ _ | mzero _ _ | mdrain _ _
    | kNop _ _ | kldh _ _ | ksth _ _ | kmvv _ _ | kmvz _ _ | kmov _ _ | kltl _ _ | cNop _ _ | ldVector _ _ | stVector _ _
    | ldTile _ _ | stTile _ _ | ldScalar _ _ _ | stScalar _ _ _ | cpy _ _ | cpyc _ _ | cpyq _ _ | cpyx _ _ | cpyz _ _
    | wbld _ _ | gath _ _ | scat _ _ | mcast _ _ | cfence _ _ | cacq _ _ | crel _ _ | ctld _ _ | send _ _ | recv _ _
    | aadd _ _ | aand _ _ | aor _ _ | axor _ _ | amin _ _ | amax _ _ | axchg _ _ | acas _ _ => exact (hi rfl).elim

/-! ### Steps -/

theorem runSyllables_inv (is : List Instr) (s : State) : StepInv s (runSyllables is s) := by
  induction is generalizing s with
  | nil => exact .of_next (.refl s)
  | cons i is ih =>
    have hexec := exec_inv i s
    rw [runSyllables]
    split
    · next s1 h => exact StepInv.trans (hexec.next s1 h) (ih s1)
    · exact .of_fault ..
    · exact .of_refused ..

theorem runStep_inv (i : Instr) (s : State) : StepInv s (runStep i s) := by
  have hexec := exec_inv i s
  unfold runStep
  split
  · next s1 h =>
    refine StepInv.trans (hexec.next s1 h) ?_
    have hrun := runSyllables_inv s1.micro s1
    split
    · split
      · next s2 h2 => exact .of_next ((hrun.next s2 h2).trans (closeIssue_inv s2))
      · exact .of_fault ..
      · exact .of_refused ..
    · exact .of_next (.refl s1)
  · exact .of_fault ..
  · exact .of_refused ..

/-- The choice of the next step takes it from the agenda, and no more. -/
theorem nextNow_inv {s s1 : State} {i : Instr} (h : nextNow s = some (i, s1)) : KeepsInv s s1 := by
  have hcore : ∀ {o : Option Instr}, o.map (fun i => (i, s)) = some (i, s1) → KeepsInv s s1 := fun ho => by
    obtain ⟨_, _, heq⟩ := Option.map_eq_some_iff.mp ho
    cases heq
    exact .refl s
  unfold nextNow at h
  split at h
  · split at h
    · exact hcore h
    split at h
    · split at h
      · cases h
        exact .of_mem rfl
      · exact hcore h
    · cases h
      exact .of_mem rfl
  · exact hcore h

theorem step_inv (s : State) : StepInv s (step s) := by
  unfold step
  split
  · next h => exact StepInv.trans (nextNow_inv h) (runStep_inv ..)
  split
  · next h => exact StepInv.trans ((advanceTime_inv s).trans (nextNow_inv h)) (runStep_inv ..)
  · exact .of_fault ..

/-- Settles O3: every function of the model keeps memory in its canonical form, so every instruction does, and so does a step. -/
theorem stepKeepsTheInvariant : Obligations.StepKeepsTheInvariant := by
  unfold Obligations.StepKeepsTheInvariant
  intro s t hs ht
  exact ((step_inv s).next t ht).inv hs

end Sys2Proof.Machine
end
